-- ==== Sys2Proof/Word.lean ====
section
/-!
DEFINITION. The word types of the KS4 (R5, R150) and nothing but their plainest arithmetic.
-/

namespace Sys2Proof

/-- An 8-bit byte of memory. -/
abbrev Byte := BitVec 8

/-- A 32-bit register or instruction word (R52, R150). -/
abbrev Word := BitVec 32

/-- A 64-bit register pair, literal or generic address (R54, R98). -/
abbrev DWord := BitVec 64

/-- A program counter: bits [55:0] of a global virtual address (R56, R98, R155). -/
abbrev Pc := BitVec 56

end Sys2Proof
end

