-- ==== Sys2Proof/Syntax.lean ====
section
/-!
DEFINITION. The syntax: one constructor for each row of spec/opcode_table.json. The first 251 are the
instruction forms of chapters 13 to 18; the other 102 are the device's own steps and what the outside
world does to it, which have no encoding and are named by plain data.
-/

namespace Sys2Proof

/-- Operand types (Table 13.5, R161). The reserved codes have no constructor. -/
inductive Ty where
  | s8 | s16 | s32 | s64 | n8 | n16 | n32 | n64
  | f16 | bf16 | f32 | h2 | b2 | q | b32 | b64 | b128
  deriving DecidableEq, Repr

/-- The guard of an extended form (R157, R160): none when GE = 0, else the guard bit and its sense. -/
inductive Guard where
  | always
  | ifSet (g : BitVec 5)
  | ifClear (g : BitVec 5)
  deriving DecidableEq, Repr

/-- The three forms an _EXT row covers (Table 13.1): L = 01, 10 and 11. -/
inductive Form where
  | shortLit | ext | extLit
  deriving DecidableEq, Repr

/-- The fields of a literal or extended form (Tables 13.2 to 13.4). A short form with literal holds the
field values that R164 gives it. -/
structure Ext where
  form  : Form
  x     : BitVec 7
  a     : BitVec 8
  d     : BitVec 8
  b     : BitVec 8
  c     : BitVec 8
  guard : Guard
  ty    : Ty
  m1    : BitVec 4
  osel  : BitVec 2
  rs    : BitVec 3
  mod   : BitVec 3
  p     : BitVec 8
  imm   : BitVec 16
  lit   : DWord
  deriving DecidableEq, Repr

/-- An extended form of format J (R155): OFS, the guard and M1. -/
structure JExt where
  ofs   : BitVec 23
  guard : Guard
  m1    : BitVec 4
  deriving DecidableEq, Repr

/-- Which program of a team: a heat of a squad, or the pacer (R28). -/
inductive Who where
  | heat (squad : Nat) (idx : Nat)
  | pacer
  deriving DecidableEq, Repr

/-- An issuing agent: a team by its number in the device, and one of its programs (R120). -/
structure UnitRef where
  team : Nat
  who  : Who
  deriving DecidableEq, Repr

/-- A place on the device: a die and a local cluster number (R17). -/
structure ClusterRef where
  die   : Nat
  loc   : Nat
  deriving DecidableEq, Repr

/-- The four page classes (R112). -/
inductive PageClass where
  | seq | phase | stream | priv
  deriving DecidableEq, Repr

/-- What the driver says of a queue (R321). -/
structure QueueDesc where
  vf     : Nat
  index  : Nat
  base   : Nat
  n      : Nat
  device : Bool
  head   : Nat
  tenant : Nat
  ctx    : Nat
  home   : Nat
  deriving DecidableEq, Repr

/-- Overrun policy of a tenant (R331). -/
inductive Policy where
  | grace | terminate
  deriving DecidableEq, Repr

/-- What the hypervisor sets of a partition (R30, R328): its clusters or dies, its capacity, its
utilisation limit in hundredths, or a grant to a tenant. -/
inductive PartCmd where
  | clusters (die : Nat) (locs : List Nat)
  | dies (ds : List Nat)
  | capacity (bcPerUs : Nat)
  | limit (hundredths : Nat)
  | grant (tenant : Nat)
  deriving DecidableEq, Repr

/-- The table a place-table write names (Table 9.7). -/
inductive PlaceKind where
  | cluster (die : Nat)
  | bank (cl : ClusterRef)
  | channel (cl : ClusterRef)
  | trigger (cl : ClusterRef)
  | partition
  deriving DecidableEq, Repr

/-- The tables of spare units (Table 28.1) that are not place tables. -/
inductive RepairKind where
  | bankRow (cl : ClusterRef) (bank : Nat)
  | l2Slice (die : Nat)
  | lane (die : Nat) (link : Nat)
  | hbm (die : Nat)
  deriving DecidableEq, Repr

/-- The structures that hold translations (Table 22.1). -/
inductive TlbId where
  | core (cl : ClusterRef) (core : Nat)
  | pacer (cl : ClusterRef)
  | fetch (cl : ClusterRef)
  | copy (cl : ClusterRef)
  deriving DecidableEq, Repr

/-- The kind of access a translation is for (R340). -/
inductive AccKind where
  | load | store | exec
  deriving DecidableEq, Repr

/-- What a peer's U line held of one location when it returns (R362): its address, type, operation and contribution. -/
structure PeerSum where
  pa  : Nat
  ty  : Ty
  op  : Nat
  val : DWord
  deriving DecidableEq, Repr

/-- What arrives at a home slice outside an instruction's own step (R357 to R362, R374): evictions, recalls, a peer's U line taken and returned. -/
inductive HomeReq where
  | returnU (line : Nat)
  | evict (die : Nat) (line : Nat) (bad : Bool)
  | recallFilter (cl : ClusterRef)
  | recallDirectory (die : Nat)
  | recallPort
  | recallPeer (die : Nat)
  | recallSnoop
  | evictCopy (cl : ClusterRef) (core : Option Nat) (line : Nat) (bad : Bool)
  | peerU (device : Nat) (line : Nat)
  | peerReturn (device : Nat) (line : Nat) (sums : List PeerSum)
  | postedWrite (id : Nat)
  | portPoison (line : Nat)
  deriving DecidableEq, Repr

/-- The value or fault that a waiting access receives (R71, R349). -/
inductive Arrival where
  | value (v : DWord)
  | fault (cause : Byte)
  deriving DecidableEq, Repr

/-- The answer of the host to a page request (R343). -/
inductive PageAnswer where
  | success | failure | invalid
  deriving DecidableEq, Repr

/-- Where a port window leads (R363). -/
inductive PortTarget where
  | host
  | cxl (port : Nat)
  | peer (device : Nat)
  deriving DecidableEq, Repr

/-- Configuration registers without a row of their own: the way-partition register (R104), a context with its page-table roots
and its driver (R112, R168), the binding of a peer context (R379), the recorded class of a page (R142), the context of an OWNER tag (R112), the size of the
striped range (R113), an expander's dynamic-capacity regions and HDM decoders (R364), the host number under which it knows this package (R365), and a
trigger counter that the hypervisor writes for a context that has migrated (R404). -/
inductive ConfigCmd where
  | wayPartition (die : Nat) (masks : List (BitVec 16))
  | context (ctx : Nat) (pasid : Nat) (vf : Nat) (root : Nat) (root2 : Option Nat) (driver : Nat)
  | peerBinding (ctx : Nat) (device : Nat) (peerCtx : Nat)
  | recordedClass (tenant : Nat) (page : Nat) (cls : PageClass)
  | ownerTag (tag : BitVec 16) (ctx : Nat)
  | striped (size : Nat)
  | dcRegion (port : Option Nat) (index : Nat) (base : Nat) (size : Nat)
  | decoder (port : Option Nat) (index : Nat) (base : Nat) (size : Nat)
  | nodeNumber (port : Nat) (host : Nat)
  | triggerCounter (cl : ClusterRef) (trig : Nat) (v : Word)
  deriving DecidableEq, Repr

/-- A monitor setting (R392, R397). -/
inductive MonitorCmd where
  | tempWarn (sensor : Nat) (eighths : Int)
  | tempTrip (sensor : Nat) (eighths : Int)
  | droopDepth (monitor : Nat) (mv : Nat)
  | droopWarn (monitor : Nat) (count : Nat)
  | processWarn (monitor : Nat) (count : Nat)
  deriving DecidableEq, Repr

/-- A reading the host asks for (R392). -/
inductive MonitorSel where
  | temp (sensor : Nat)
  | droop (monitor : Nat)
  | process (monitor : Nat)
  deriving DecidableEq, Repr

/-- A group-table entry as the driver writes it (R377). -/
structure GroupEntry where
  nx      : Nat
  ny      : Nat
  nz      : Nat
  members : List Nat
  self    : Nat
  deriving DecidableEq, Repr

/-- A tile on the wire (R383): every element, or pairs of an element's position and the element, by ascending position, one for each element that is not
zero. -/
inductive TileStream where
  | dense (elems : List (BitVec 128))
  | pairs (ps : List (Nat × BitVec 128))
  deriving DecidableEq, Repr

/-- What a member's sequencer sends (R384): its tile, its table entry as the instance begins (R377), that it has consumed a member's tile, the news that it
completed a generation, that an entry differs from its own (R377), or that it met a fault (R387). -/
inductive CollMsg where
  | tile (stream : TileStream)
  | entry (e : GroupEntry)
  | consumed (member : Nat)
  | completed
  | entryDiffers
  | faulted
  deriving DecidableEq, Repr


/-- Who reaches the package from outside: a host by its number (0 on a KS4-N), or a peer device. -/
inductive Requester where
  | host (n : Nat)
  | peer (device : Nat)
  deriving DecidableEq, Repr

/-- An access from the host or a peer device (R122): `size` bytes to read, or the bytes to write, which may come poisoned (R374); an access that
another package's unit makes carries the class of its page (R368). One that a peer's transfer makes under a peer context names that context, and `pa` is then
a virtual address there (R379). -/
structure ExtAccess where
  src   : Requester
  pa    : Nat
  bytes : List Byte
  write : Bool
  size  : Nat
  cls   : Option PageClass := none
  poison : Bool := false
  ctx   : Option Nat := none
  deriving DecidableEq, Repr

/-- The end of a session that a command of R369 concerns: a key slot of a die of this package, or on an expander the session of a node. -/
inductive KeyEnd where
  | slot (die : Nat) (index : Nat)
  | node (session : Word)
  deriving DecidableEq, Repr

/-- The end that a command names: a key slot of a die, or with no die a node's session by its number. -/
def keyEnd (die : Option Nat) (index : Nat) : KeyEnd :=
  match die with
  | some d => .slot d index
  | none => .node (BitVec.ofNat 32 index)

/-- A task packet that a node sends to this expander (R371, R372): its session and its bytes. -/
structure NodePacket where
  session : Word
  bytes   : List Byte
  deriving DecidableEq, Repr

/-- A driver that names a context in a command (R168). -/
structure DriverRef where
  driver : Nat
  ctx    : Nat
  deriving DecidableEq, Repr

/-- A range of physical memory. -/
structure PhysRange where
  base : Nat
  size : Nat
  deriving DecidableEq, Repr

/-- A line of the device behind a CXL port (R360). -/
structure PortLine where
  port : Nat
  line : Nat
  deriving DecidableEq, Repr

/-- A 4 KiB page that a tenant names (R368). -/
structure TenantPage where
  tenant : Nat
  page   : Nat
  deriving DecidableEq, Repr

/-- A tenant of an expander: of the one behind a CXL port, or of this package, which is a KS4-X (R365, R372). -/
structure AtPort where
  port   : Option Nat
  tenant : Nat
  deriving DecidableEq, Repr

/-- A device address of an expander: of the one behind a CXL port, or of this package (R365). -/
structure DpaRef where
  port : Option Nat
  dpa  : Nat
  deriving DecidableEq, Repr

/-- How a transfer ends: its handle, and what a peer answers that it wrote to: nothing yet, an acknowledgement, or a refusal with its cause (R310). -/
structure XferEnd where
  handle : Word
  peer   : Option (Option (BitVec 8)) := none
  deriving DecidableEq, Repr

/-- A task packet to check (R372, R373): the oldest one that this package has sent through a CXL port, or one that a node sends to this expander; or a task that
has run at the expander behind a port brings what it wrote there, at device addresses, and then its result flag. -/
inductive TaskArrival where
  | sent (port : Nat)
  | fromNode (p : NodePacket)
  | ran (port : Nat) (writes : List (Nat × List Byte)) (flag : Nat) (word : DWord)
  deriving DecidableEq, Repr

/-- A firmware image offered to a layer (R405). -/
structure Firmware where
  layer       : Nat
  measurement : Nat
  version     : BitVec 32
  signatureOk : Bool
  measurable  : Bool
  deriving DecidableEq, Repr

/-- The instructions and events: one constructor for each row of the table. The forms with operand fields
stand first, in the table's order, then the forms without, then the events. -/
inductive Instr where
  /-- NOP_EXT (R210). -/
  | nopExt (e : Ext)
  /-- YIELD_EXT (R210). -/
  | yieldExt (e : Ext)
  /-- END_EXT (R210). -/
  | endExt (e : Ext)
  /-- ADD (R191). -/
  | add (x : BitVec 7) (a : BitVec 8) (d : BitVec 8)
  /-- ADD_EXT (R191). -/
  | addExt (e : Ext)
  /-- SUB (R191). -/
  | sub (x : BitVec 7) (a : BitVec 8) (d : BitVec 8)
  /-- SUB_EXT (R191). -/
  | subExt (e : Ext)
  /-- ADDC (R192). -/
  | addc (x : BitVec 7) (a : BitVec 8) (d : BitVec 8)
  /-- ADDC_EXT (R192). -/
  | addcExt (e : Ext)
  /-- SUBB (R192). -/
  | subb (x : BitVec 7) (a : BitVec 8) (d : BitVec 8)
  /-- SUBB_EXT (R192). -/
  | subbExt (e : Ext)
  /-- MUL (R191). -/
  | mul (x : BitVec 7) (a : BitVec 8) (d : BitVec 8)
  /-- MUL_EXT (R191). -/
  | mulExt (e : Ext)
  /-- MULH (R193). -/
  | mulh (x : BitVec 7) (a : BitVec 8) (d : BitVec 8)
  /-- MULH_EXT (R193). -/
  | mulhExt (e : Ext)
  /-- MAD (R194). -/
  | mad (e : Ext)
  /-- DIV (R195). -/
  | div (x : BitVec 7) (a : BitVec 8) (d : BitVec 8)
  /-- DIV_EXT (R195). -/
  | divExt (e : Ext)
  /-- REM (R195). -/
  | rem (x : BitVec 7) (a : BitVec 8) (d : BitVec 8)
  /-- REM_EXT (R195). -/
  | remExt (e : Ext)
  /-- NEG (R191). -/
  | neg (a : BitVec 8) (d : BitVec 8)
  /-- NEG_EXT (R191). -/
  | negExt (e : Ext)
  /-- ABS (R191). -/
  | abs (a : BitVec 8) (d : BitVec 8)
  /-- ABS_EXT (R191). -/
  | absExt (e : Ext)
  /-- MIN (R191). -/
  | min (x : BitVec 7) (a : BitVec 8) (d : BitVec 8)
  /-- MIN_EXT (R191). -/
  | minExt (e : Ext)
  /-- MAX (R191). -/
  | max (x : BitVec 7) (a : BitVec 8) (d : BitVec 8)
  /-- MAX_EXT (R191). -/
  | maxExt (e : Ext)
  /-- AND (R196). -/
  | and (x : BitVec 7) (a : BitVec 8) (d : BitVec 8)
  /-- AND_EXT (R196). -/
  | andExt (e : Ext)
  /-- OR (R196). -/
  | or (x : BitVec 7) (a : BitVec 8) (d : BitVec 8)
  /-- OR_EXT (R196). -/
  | orExt (e : Ext)
  /-- XOR (R196). -/
  | xor (x : BitVec 7) (a : BitVec 8) (d : BitVec 8)
  /-- XOR_EXT (R196). -/
  | xorExt (e : Ext)
  /-- ANDN (R196). -/
  | andn (x : BitVec 7) (a : BitVec 8) (d : BitVec 8)
  /-- ANDN_EXT (R196). -/
  | andnExt (e : Ext)
  /-- NOT (R196). -/
  | not (a : BitVec 8) (d : BitVec 8)
  /-- NOT_EXT (R196). -/
  | notExt (e : Ext)
  /-- SHL (R197). -/
  | shl (x : BitVec 7) (a : BitVec 8) (d : BitVec 8)
  /-- SHL_EXT (R197). -/
  | shlExt (e : Ext)
  /-- SHR (R197). -/
  | shr (x : BitVec 7) (a : BitVec 8) (d : BitVec 8)
  /-- SHR_EXT (R197). -/
  | shrExt (e : Ext)
  /-- SHA (R197). -/
  | sha (x : BitVec 7) (a : BitVec 8) (d : BitVec 8)
  /-- SHA_EXT (R197). -/
  | shaExt (e : Ext)
  /-- ROT (R197). -/
  | rot (x : BitVec 7) (a : BitVec 8) (d : BitVec 8)
  /-- ROT_EXT (R197). -/
  | rotExt (e : Ext)
  /-- BFX (R198). -/
  | bfx (e : Ext)
  /-- BFI (R198). -/
  | bfi (e : Ext)
  /-- POPC (R199). -/
  | popc (a : BitVec 8) (d : BitVec 8)
  /-- POPC_EXT (R199). -/
  | popcExt (e : Ext)
  /-- CLZ (R199). -/
  | clz (a : BitVec 8) (d : BitVec 8)
  /-- CLZ_EXT (R199). -/
  | clzExt (e : Ext)
  /-- CTZ (R199). -/
  | ctz (a : BitVec 8) (d : BitVec 8)
  /-- CTZ_EXT (R199). -/
  | ctzExt (e : Ext)
  /-- BREV (R199). -/
  | brev (a : BitVec 8) (d : BitVec 8)
  /-- BREV_EXT (R199). -/
  | brevExt (e : Ext)
  /-- PERM (R200). -/
  | perm (x : BitVec 7) (a : BitVec 8) (d : BitVec 8)
  /-- PERM_EXT (R200). -/
  | permExt (e : Ext)
  /-- MOV (R201). -/
  | mov (a : BitVec 8) (d : BitVec 8)
  /-- MOV_EXT (R201). -/
  | movExt (e : Ext)
  /-- MOVI (R202). -/
  | movi (i : BitVec 7) (d : BitVec 8)
  /-- MOVI_EXT (R202). -/
  | moviExt (e : Ext)
  /-- LIT (R203). -/
  | lit (e : Ext)
  /-- SEL (R204). -/
  | sel (e : Ext)
  /-- CMP (R205). -/
  | cmp (x : BitVec 7) (a : BitVec 8) (g : BitVec 5)
  /-- CMP_EXT (R205). -/
  | cmpExt (e : Ext)
  /-- CMPV (R206). -/
  | cmpv (x : BitVec 7) (a : BitVec 8) (d : BitVec 8)
  /-- CMPV_EXT (R206). -/
  | cmpvExt (e : Ext)
  /-- LEA (R208). -/
  | lea (x : BitVec 7) (a : BitVec 8) (d : BitVec 8)
  /-- LEA_EXT (R208). -/
  | leaExt (e : Ext)
  /-- SPTEST (R209). -/
  | sptest (a : BitVec 8) (d : BitVec 8)
  /-- SPTEST_EXT (R209). -/
  | sptestExt (e : Ext)
  /-- SPCAST_OFS (R209). -/
  | spcastOfs (a : BitVec 8) (d : BitVec 8)
  /-- SPCAST_OFS_EXT (R209). -/
  | spcastOfsExt (e : Ext)
  /-- SPCAST_GEN (R209). -/
  | spcastGen (a : BitVec 8) (d : BitVec 8)
  /-- SPCAST_GEN_EXT (R209). -/
  | spcastGenExt (e : Ext)
  /-- GOP (R207). -/
  | gop (f : BitVec 3) (a : BitVec 5) (d : BitVec 5)
  /-- GOP_EXT (R207). -/
  | gopExt (e : Ext)
  /-- BRA (R211). -/
  | bra (o : BitVec 23)
  /-- BRA_EXT (R211). -/
  | braExt (j : JExt)
  /-- CALL (R212). -/
  | call (o : BitVec 23)
  /-- CALL_EXT (R212). -/
  | callExt (j : JExt)
  /-- CALL_W (R212). -/
  | callW (j : JExt)
  /-- BRX (R213). -/
  | brx (a : BitVec 8)
  /-- BRX_EXT (R213). -/
  | brxExt (e : Ext)
  /-- CALLX (R213). -/
  | callx (a : BitVec 8)
  /-- CALLX_EXT (R213). -/
  | callxExt (e : Ext)
  /-- CALLX_W (R213). -/
  | callxW (e : Ext)
  /-- RET_EXT (R213). -/
  | retExt (e : Ext)
  /-- JOIN (R215). -/
  | join (m : BitVec 4)
  /-- JOIN_EXT (R215). -/
  | joinExt (e : Ext)
  /-- LEAVE (R215). -/
  | leave (m : BitVec 4)
  /-- LEAVE_EXT (R215). -/
  | leaveExt (e : Ext)
  /-- WAITM (R215). -/
  | waitm (m : BitVec 4)
  /-- WAITM_EXT (R215). -/
  | waitmExt (e : Ext)
  /-- MSET (R215). -/
  | mset (a : BitVec 8) (m : BitVec 4)
  /-- MSET_EXT (R215). -/
  | msetExt (e : Ext)
  /-- MGET (R215). -/
  | mget (a : BitVec 8) (m : BitVec 4)
  /-- MGET_EXT (R215). -/
  | mgetExt (e : Ext)
  /-- FORK (R217). -/
  | fork (e : Ext)
  /-- VOTE (R218). -/
  | vote (a : BitVec 5) (d : BitVec 8)
  /-- VOTE_EXT (R218). -/
  | voteExt (e : Ext)
  /-- SHFL (R219). -/
  | shfl (a : BitVec 8) (d : BitVec 8)
  /-- SHFL_EXT (R219). -/
  | shflExt (e : Ext)
  /-- BCAST (R220). -/
  | bcast (a : BitVec 8) (d : BitVec 8)
  /-- BCAST_EXT (R220). -/
  | bcastExt (e : Ext)
  /-- XLOCK_EXT (R221). -/
  | xlockExt (e : Ext)
  /-- XFREE_EXT (R221). -/
  | xfreeExt (e : Ext)
  /-- LD (R232). -/
  | ld (i : BitVec 7) (a : BitVec 8) (d : BitVec 8)
  /-- LD_EXT (R232). -/
  | ldExt (e : Ext)
  /-- ST (R232). -/
  | st (i : BitVec 7) (a : BitVec 8) (d : BitVec 8)
  /-- ST_EXT (R232). -/
  | stExt (e : Ext)
  /-- LDX (R234). -/
  | ldx (e : Ext)
  /-- STX (R234). -/
  | stx (e : Ext)
  /-- PREF (R235). -/
  | pref (i : BitVec 7) (a : BitVec 8)
  /-- PREF_EXT (R235). -/
  | prefExt (e : Ext)
  /-- FLUSH (R236). -/
  | flush (a : BitVec 8)
  /-- FLUSH_EXT (R236). -/
  | flushExt (e : Ext)
  /-- FLUSH_INV (R236). -/
  | flushInv (a : BitVec 8)
  /-- FLUSH_INV_EXT (R236). -/
  | flushInvExt (e : Ext)
  /-- PGARM (R237). -/
  | pgarm (e : Ext)
  /-- AMO (R239). -/
  | amo (e : Ext)
  /-- RED (R242). -/
  | red (e : Ext)
  /-- CAS (R240). -/
  | cas (e : Ext)
  /-- FENCE_EXT (R243). -/
  | fenceExt (e : Ext)
  /-- PHASE_EXT (R243). -/
  | phaseExt (e : Ext)
  /-- WDRAIN_EXT (R243). -/
  | wdrainExt (e : Ext)
  /-- BTN_SYNC (R244). -/
  | btnSync (a : BitVec 8)
  /-- BTN_SYNC_EXT (R244). -/
  | btnSyncExt (e : Ext)
  /-- BTN_TEST (R244). -/
  | btnTest (a : BitVec 8) (g : BitVec 5)
  /-- BTN_TEST_EXT (R244). -/
  | btnTestExt (e : Ext)
  /-- BAR_INIT (R246). -/
  | barInit (a : BitVec 8) (d : BitVec 8)
  /-- BAR_INIT_EXT (R246). -/
  | barInitExt (e : Ext)
  /-- BAR_ARV (R246). -/
  | barArv (a : BitVec 8) (d : BitVec 8)
  /-- BAR_ARV_EXT (R246). -/
  | barArvExt (e : Ext)
  /-- BAR_EXP (R246). -/
  | barExp (a : BitVec 8) (d : BitVec 8)
  /-- BAR_EXP_EXT (R246). -/
  | barExpExt (e : Ext)
  /-- BAR_WAIT (R246). -/
  | barWait (a : BitVec 8) (d : BitVec 8)
  /-- BAR_WAIT_EXT (R246). -/
  | barWaitExt (e : Ext)
  /-- BAR_TRY (R246). -/
  | barTry (a : BitVec 8) (d : BitVec 8)
  /-- BAR_TRY_EXT (R246). -/
  | barTryExt (e : Ext)
  /-- FIFO_MAP (R248). -/
  | fifoMap (e : Ext)
  /-- FIFO_PUT (R248). -/
  | fifoPut (a : BitVec 8) (d : BitVec 8)
  /-- FIFO_PUT_EXT (R248). -/
  | fifoPutExt (e : Ext)
  /-- FIFO_GET (R250). -/
  | fifoGet (a : BitVec 8) (d : BitVec 8)
  /-- FIFO_GET_EXT (R250). -/
  | fifoGetExt (e : Ext)
  /-- FIFO_CLOSE (R248). -/
  | fifoClose (d : BitVec 8)
  /-- FIFO_CLOSE_EXT (R248). -/
  | fifoCloseExt (e : Ext)
  /-- FIFO_STAT (R248). -/
  | fifoStat (a : BitVec 8) (d : BitVec 8)
  /-- FIFO_STAT_EXT (R248). -/
  | fifoStatExt (e : Ext)
  /-- CPY (R251). -/
  | cpy (e : Ext)
  /-- CPY_WAIT (R255). -/
  | cpyWait (e : Ext)
  /-- CPY_PTR (R255). -/
  | cpyPtr (e : Ext)
  /-- CPY_PTR_ST (R255). -/
  | cpyPtrSt (e : Ext)
  /-- CPY_PTR_CLR (R255). -/
  | cpyPtrClr (e : Ext)
  /-- TRG_ADD (R256). -/
  | trgAdd (e : Ext)
  /-- TRG_SET (R256). -/
  | trgSet (e : Ext)
  /-- TRG_WAIT (R256). -/
  | trgWait (e : Ext)
  /-- TRG_ARM (R256). -/
  | trgArm (e : Ext)
  /-- BANKCFG (R258). -/
  | bankcfg (e : Ext)
  /-- FADD (R265). -/
  | fadd (x : BitVec 7) (a : BitVec 8) (d : BitVec 8)
  /-- FADD_EXT (R265). -/
  | faddExt (e : Ext)
  /-- FSUB (R265). -/
  | fsub (x : BitVec 7) (a : BitVec 8) (d : BitVec 8)
  /-- FSUB_EXT (R265). -/
  | fsubExt (e : Ext)
  /-- FMUL (R265). -/
  | fmul (x : BitVec 7) (a : BitVec 8) (d : BitVec 8)
  /-- FMUL_EXT (R265). -/
  | fmulExt (e : Ext)
  /-- FMA (R265). -/
  | fma (e : Ext)
  /-- FMS (R265). -/
  | fms (e : Ext)
  /-- FNMA (R265). -/
  | fnma (e : Ext)
  /-- FMIN (R266). -/
  | fmin (x : BitVec 7) (a : BitVec 8) (d : BitVec 8)
  /-- FMIN_EXT (R266). -/
  | fminExt (e : Ext)
  /-- FMAX (R266). -/
  | fmax (x : BitVec 7) (a : BitVec 8) (d : BitVec 8)
  /-- FMAX_EXT (R266). -/
  | fmaxExt (e : Ext)
  /-- FABS (R267). -/
  | fabs (a : BitVec 8) (d : BitVec 8)
  /-- FABS_EXT (R267). -/
  | fabsExt (e : Ext)
  /-- FNEG (R267). -/
  | fneg (a : BitVec 8) (d : BitVec 8)
  /-- FNEG_EXT (R267). -/
  | fnegExt (e : Ext)
  /-- FCPYS (R267). -/
  | fcpys (e : Ext)
  /-- FCMP (R268). -/
  | fcmp (e : Ext)
  /-- FCLASS (R269). -/
  | fclass (a : BitVec 8) (d : BitVec 8)
  /-- FCLASS_EXT (R269). -/
  | fclassExt (e : Ext)
  /-- FRCP (R270). -/
  | frcp (a : BitVec 8) (d : BitVec 8)
  /-- FRCP_EXT (R270). -/
  | frcpExt (e : Ext)
  /-- FRSQ (R270). -/
  | frsq (a : BitVec 8) (d : BitVec 8)
  /-- FRSQ_EXT (R270). -/
  | frsqExt (e : Ext)
  /-- FSQRT (R270). -/
  | fsqrt (a : BitVec 8) (d : BitVec 8)
  /-- FSQRT_EXT (R270). -/
  | fsqrtExt (e : Ext)
  /-- FDIV (R270). -/
  | fdiv (x : BitVec 7) (a : BitVec 8) (d : BitVec 8)
  /-- FDIV_EXT (R270). -/
  | fdivExt (e : Ext)
  /-- FEXP2 (R271). -/
  | fexp2 (a : BitVec 8) (d : BitVec 8)
  /-- FEXP2_EXT (R271). -/
  | fexp2Ext (e : Ext)
  /-- FLOG2 (R271). -/
  | flog2 (a : BitVec 8) (d : BitVec 8)
  /-- FLOG2_EXT (R271). -/
  | flog2Ext (e : Ext)
  /-- FSIN (R271). -/
  | fsin (a : BitVec 8) (d : BitVec 8)
  /-- FSIN_EXT (R271). -/
  | fsinExt (e : Ext)
  /-- FCOS (R271). -/
  | fcos (a : BitVec 8) (d : BitVec 8)
  /-- FCOS_EXT (R271). -/
  | fcosExt (e : Ext)
  /-- FTANH (R271). -/
  | ftanh (a : BitVec 8) (d : BitVec 8)
  /-- FTANH_EXT (R271). -/
  | ftanhExt (e : Ext)
  /-- FRND (R272). -/
  | frnd (a : BitVec 8) (d : BitVec 8)
  /-- FRND_EXT (R272). -/
  | frndExt (e : Ext)
  /-- FSCALE (R272). -/
  | fscale (x : BitVec 7) (a : BitVec 8) (d : BitVec 8)
  /-- FSCALE_EXT (R272). -/
  | fscaleExt (e : Ext)
  /-- F2I (R273). -/
  | f2i (e : Ext)
  /-- I2F (R274). -/
  | i2f (e : Ext)
  /-- FCVT (R275). -/
  | fcvt (e : Ext)
  /-- DOT2 (R276). -/
  | dot2 (e : Ext)
  /-- DOT4 (R276). -/
  | dot4 (e : Ext)
  /-- HRED (R277). -/
  | hred (e : Ext)
  /-- QPACK (R279). -/
  | qpack (e : Ext)
  /-- QUNPACK (R281). -/
  | qunpack (e : Ext)
  /-- QSCALE (R282). -/
  | qscale (e : Ext)
  /-- QCHK (R283). -/
  | qchk (e : Ext)
  /-- TOPK (R285). -/
  | topk (e : Ext)
  /-- TOPKM (R286). -/
  | topkm (e : Ext)
  /-- SBOUND (R287). -/
  | sbound (e : Ext)
  /-- MXBIND (R293). -/
  | mxbind (e : Ext)
  /-- MXMA (R295). -/
  | mxma (e : Ext)
  /-- MXZERO (R300). -/
  | mxzero (e : Ext)
  /-- MXWAIT_EXT (R301). -/
  | mxwaitExt (e : Ext)
  /-- MXFENCE_EXT (R301). -/
  | mxfenceExt (e : Ext)
  /-- MXSTAT (R302). -/
  | mxstat (d : BitVec 8)
  /-- MXSTAT_EXT (R302). -/
  | mxstatExt (e : Ext)
  /-- AWSET (R303). -/
  | awset (e : Ext)
  /-- ACCRD (R305). -/
  | accrd (e : Ext)
  /-- ACCWR (R305). -/
  | accwr (e : Ext)
  /-- TXFER (R309). -/
  | txfer (e : Ext)
  /-- TXCOLL (R311). -/
  | txcoll (e : Ext)
  /-- TXWAIT (R313). -/
  | txwait (e : Ext)
  /-- TSEND (R312). -/
  | tsend (e : Ext)
  /-- SYSRD (R315). -/
  | sysrd (e : Ext)
  /-- SYSWR (R315). -/
  | syswr (e : Ext)
  /-- TRAP (R316). -/
  | trap (i : BitVec 7)
  /-- TRAP_EXT (R316). -/
  | trapExt (e : Ext)
  /-- ERET_EXT (R317). -/
  | eretExt (e : Ext)
  /-- BRK (R316). -/
  | brk (i : BitVec 7)
  /-- BRK_EXT (R316). -/
  | brkExt (e : Ext)
  /-- PERFRD (R318). -/
  | perfrd (e : Ext)
  /-- BUDGET (R319). -/
  | budget (e : Ext)
  -- instructions without operand fields
  /-- NOP (R210). -/
  | nop
  /-- YIELD (R210). -/
  | yield
  /-- END (R210). -/
  | endI
  /-- RET (R213). -/
  | ret
  /-- XLOCK (R221). -/
  | xlock
  /-- XFREE (R221). -/
  | xfree
  /-- FENCE (R243). -/
  | fence
  /-- PHASE (R243). -/
  | phase
  /-- WDRAIN (R243). -/
  | wdrain
  /-- MXWAIT (R301). -/
  | mxwait
  /-- MXFENCE (R301). -/
  | mxfence
  /-- ERET (R317). -/
  | eret
  -- the driver's commands (R168)
  | driverBankcfg (by_ : DriverRef) (team : Nat) (cl : ClusterRef) (e : Ext)
  | driverAwset (driver : Nat) (ctx : Nat) (team : Nat) (cl : ClusterRef) (e : Ext)
  | driverSyswr (by_ : DriverRef) (team : Option Nat) (e : Ext) (v : DWord)
  -- queues and admission (chapter 20)
  | queueDescribe (q : Nat) (desc : QueueDesc)
  | tailRegisterStore (vf : Nat) (index : Nat) (v : Word)
  | notifyPageOtherStore (vf : Nat) (offset : Nat) (width : Nat)
  | entryConsume (q : Nat)
  | entryReread (q : Nat)
  | reservationRequest (q : Nat) (meet : Nat) (keeper : Nat)
  | reservationAnswer (q : Nat) (meet : Nat) (keeper : Nat)
  | reservationTimeout (q : Nat)
  | reservationCommit (q : Nat) (meet : Nat) (keeper : Nat)
  | reservationRelease (q : Nat) (keeper : Nat)
  | lapBoundary
  | lapLengthSet (us : Nat)
  | tenantRecordSet (tenant : Nat) (rate : Nat) (policy : Policy) (lend : Bool) (borrow : Bool)
  | partitionConfig (part : Nat) (cmd : PartCmd)
  | meetLaunch (meet : Nat)
  | batchHandout (meet : Nat) (field : Nat) (die : Nat) (count : Nat)
  | teamPlacement (meet : Nat) (field : Nat) (cl : ClusterRef) (cores : List Nat)
  | teamRetirement (team : Nat)
  | chargeReport (meet : Nat) (die : Nat)
  | tenantRevoke (tenant : Nat) (queue : Option Nat)
  | saveRequest (part : Nat) (waiting : Nat)
  -- translation, saves and traps (chapter 22)
  | contextSave (team : Nat)
  | pageResponse (ctx : Nat) (gen : Word) (page : Nat) (answer : PageAnswer)
  | atsCompletion (ctx : Nat) (tlb : TlbId) (va : Pc)
  | shootdown (ctx : Nat) (lo : Nat) (size : Nat) (tlbs : List TlbId)
  | pageWalkCompletion (ctx : Nat) (tlb : TlbId) (va : Pc) (kind : AccKind)
  | contextRestore (team : Nat)
  | awaitValueArrival (u : UnitRef) (tag : BitVec 6) (fibre : Nat) (v : Arrival)
  | contextKill (ctx : Nat)
  | framePoolRegister (ctx : Nat) (die : Nat) (range : PhysRange)
  | valueArrival (u : UnitRef) (tag : BitVec 6)
  | forcedSwap (cl : ClusterRef) (core : Nat) (track : Nat)
  | pendingSwap (cl : ClusterRef) (core : Nat) (track : Nat)
  | rotation (cl : ClusterRef) (core : Nat) (track : Nat)
  | deferredTrapDelivery (team : Nat)
  -- coherence (chapters 11 and 24)
  | leaseExpiry (die : Nat) (line : Nat)
  | writeAcknowledgement (u : UnitRef)
  | homeRequest (r : HomeReq)
  | invalidationAck (id : Nat) (holder : Nat)
  | externalAccess (x : ExtAccess)
  | backInvalidateSnoop (at_ : PortLine)
  | birsp (line : Nat) (host : Nat)
  | classChange (which : TenantPage) (cls : PageClass)
  | classTransition (page : Nat)
  -- engines (chapters 9, 16, 18)
  | copyStart (cl : ClusterRef) (chan : Nat)
  | copyPortionWritten (cl : ClusterRef) (chan : Nat) (count : Nat)
  | copyFault (cl : ClusterRef) (chan : Nat)
  | tileFetchChunk (team : Nat)
  | tileFetchFault (team : Nat)
  | arrayChunk (team : Nat)
  | arrayZero (team : Nat)
  | armedOperationStart (team : Nat) (handle : Word)
  | txferLaunchTime (team : Nat) (handle : Word)
  | txferCompletion (team : Nat) (which : XferEnd)
  | tsendPacketSend (team : Nat) (handle : Word)
  | taskPacketCheck (which : TaskArrival)
  | tsendAnswer (team : Nat) (handle : Word)
  -- collectives (chapter 26)
  | collectiveIssue (team : Nat) (handle : Word)
  | collectiveBufferGrant (team : Nat) (handle : Word)
  | collectiveDataArrival (ctx : Nat) (group : Nat) (cid : Nat) (gen : Nat) (member : Nat) (msg : CollMsg)
  | collectiveCompletion (team : Nat) (handle : Word)
  | groupTableWrite (ctx : Nat) (group : Nat) (entry : Option GroupEntry)
  -- configuration (chapters 9, 24, 28)
  | placeTableWrite (kind : PlaceKind) (logical : Nat) (physical : Option Nat)
  | repairTableWrite (kind : RepairKind) (index : Nat) (spare : Nat)
  | windowRegisterWrite (die : Nat) (index : Nat) (base : Nat) (size : Nat) (target : PortTarget)
  | configRegisterWrite (cmd : ConfigCmd)
  | dcAddExtent (at_ : AtPort) (host : Nat) (dpa : Nat) (blocks : Nat)
  | dcReleaseExtent (at_ : DpaRef)
  | keyExchange (which : KeyEnd) (ctx : Nat) (expander : Nat) (tenant : Nat) (session : Word) (key : BitVec 256) (verified : Bool)
  | keyUpdate (die : Option Nat) (index : Nat) (key : BitVec 256)
  | endSession (die : Option Nat) (index : Nat)
  | getMeasurements (requester : Nat)
  | firmwareImageLoad (image : Firmware)
  -- errors (chapter 24)
  | writebackErrorAnswer (die : Nat) (line : Nat) (cause : Byte)
  | viralEntry (port : Nat)
  | portReset (port : Nat)
  | linkFailure (target : PortTarget)
  | requestTimeout (target : PortTarget)
  -- reliability and power (chapter 28)
  | powerActive (die : Nat)
  | powerPark (die : Nat)
  | powerDoze (die : Nat)
  | powerOff (die : Nat)
  | frequencyStep (die : Nat) (step : Nat)
  | temperatureSample (die : Nat) (readings : List Int)
  | processMonitorSample (die : Nat) (counts : List Nat)
  | monitorThresholdSet (die : Nat) (cmd : MonitorCmd)
  | monitorRead (die : Nat) (sel : MonitorSel)
  | coldReset
  | warmReset (die : Nat)
  | dieReadmission (die : Nat)
  | functionLevelReset (vf : Nat)
  | mailboxMessage (die : Nat) (src : Nat) (dst : Nat) (msg : Option (BitVec 512))
  | heartbeat (die : Nat)
  | adoption (die : Nat) (adopter : Nat)
  | migration (ctx : Nat) (elapsedNs : Nat)
  | voltageDroop (die : Nat) (monitor : Nat) (mv : Nat)
  | deviceReconnection (target : PortTarget)
  | commandProcessorCoreFailure (die : Nat) (core : Nat)
  | taskImageRegistration (at_ : AtPort) (hash : DWord) (ctx : Nat) (kent : Nat) (text : Nat) (args : Nat) (part : Nat)
  deriving DecidableEq, Repr

end Sys2Proof
end

