-- ==== Sys2Proof/Machine/Fields.lean ====
section
/-!
DEFINITION. The fields of an instruction (chapter 13): for every base mnemonic its opcode and function code
(Tables 13.6a to 13.6d), its unit, its default type, and the conditions its own description sets on the
fields of an extended form.
-/

namespace Sys2Proof

/-- The base mnemonics: one for each instruction of the manual, whatever its form. -/
inductive Mn where
  | nop | yield | endI | add | sub | addc | subb | mul | mulh | mad
  | div | rem | neg | abs | min | max | and | or | xor | andn
  | not | shl | shr | sha | rot | bfx | bfi | popc | clz | ctz
  | brev | perm | mov | movi | lit | sel | cmp | cmpv | lea | sptest
  | spcastOfs | spcastGen | gop | bra | call | callW | brx | callx | callxW | ret
  | join | leave | waitm | mset | mget | fork | vote | shfl | bcast | xlock
  | xfree | ld | st | ldx | stx | pref | flush | flushInv | pgarm | amo
  | red | cas | fence | phase | wdrain | btnSync | btnTest | barInit | barArv | barExp
  | barWait | barTry | fifoMap | fifoPut | fifoGet | fifoClose | fifoStat | cpy | cpyWait | cpyPtr
  | cpyPtrSt | cpyPtrClr | trgAdd | trgSet | trgWait | trgArm | bankcfg | fadd | fsub | fmul
  | fma | fms | fnma | fmin | fmax | fabs | fneg | fcpys | fcmp | fclass
  | frcp | frsq | fsqrt | fdiv | fexp2 | flog2 | fsin | fcos | ftanh | frnd
  | fscale | f2i | i2f | fcvt | dot2 | dot4 | hred | qpack | qunpack | qscale
  | qchk | topk | topkm | sbound | mxbind | mxma | mxzero | mxwait | mxfence | mxstat
  | awset | accrd | accwr | txfer | txcoll | txwait | tsend | sysrd | syswr | trap
  | eret | brk | perfrd | budget
  deriving DecidableEq, Repr

/-- The executing unit (R169). -/
inductive UnitKind where
  | heat | pacer
  deriving DecidableEq, Repr

/-- Meaning of X in a short form (R154). -/
inductive ShortX where
  | reg | imm7 | fn | zero | lit | j | m | none
  deriving DecidableEq, Repr

/-- Major opcode (Tables 13.6a to 13.6d). -/
def Mn.op : Mn → BitVec 7
  | .nop | .yield | .endI => 0x00
  | .add => 0x01
  | .sub => 0x02
  | .addc => 0x03
  | .subb => 0x04
  | .mul => 0x05
  | .mulh => 0x06
  | .mad => 0x07
  | .div => 0x08
  | .rem => 0x09
  | .neg | .abs => 0x0A
  | .min => 0x0B
  | .max => 0x0C
  | .and => 0x0D
  | .or => 0x0E
  | .xor => 0x0F
  | .andn => 0x10
  | .not => 0x11
  | .shl => 0x12
  | .shr => 0x13
  | .sha => 0x14
  | .rot => 0x15
  | .bfx => 0x16
  | .bfi => 0x17
  | .popc | .clz | .ctz | .brev => 0x18
  | .perm => 0x19
  | .mov => 0x1A
  | .movi => 0x1B
  | .lit => 0x1C
  | .sel => 0x1D
  | .cmp => 0x1E
  | .cmpv => 0x1F
  | .lea => 0x20
  | .sptest | .spcastOfs | .spcastGen => 0x21
  | .gop => 0x22
  | .bra => 0x23
  | .call | .callW => 0x24
  | .brx | .callx | .callxW | .ret => 0x25
  | .join | .leave | .waitm | .mset | .mget => 0x26
  | .fork | .vote | .shfl | .bcast | .xlock | .xfree => 0x27
  | .ld => 0x28
  | .st => 0x29
  | .ldx => 0x2A
  | .stx => 0x2B
  | .pref => 0x2C
  | .flush | .flushInv => 0x2D
  | .pgarm => 0x2E
  | .amo => 0x2F
  | .red => 0x30
  | .cas => 0x31
  | .fence => 0x32
  | .phase => 0x33
  | .wdrain => 0x34
  | .btnSync | .btnTest => 0x35
  | .barInit | .barArv | .barExp | .barWait | .barTry => 0x36
  | .fifoMap | .fifoPut | .fifoGet | .fifoClose | .fifoStat => 0x37
  | .cpy => 0x38
  | .cpyWait => 0x39
  | .cpyPtr | .cpyPtrSt | .cpyPtrClr => 0x3A
  | .trgAdd | .trgSet | .trgWait | .trgArm => 0x3B
  | .bankcfg => 0x3C
  | .fadd => 0x48
  | .fsub => 0x49
  | .fmul => 0x4A
  | .fma => 0x4B
  | .fms => 0x4C
  | .fnma => 0x4D
  | .fmin => 0x4E
  | .fmax => 0x4F
  | .fabs | .fneg | .fcpys => 0x50
  | .fcmp => 0x51
  | .fclass => 0x52
  | .frcp | .frsq | .fsqrt => 0x53
  | .fdiv => 0x54
  | .fexp2 | .flog2 | .fsin | .fcos | .ftanh => 0x55
  | .frnd => 0x56
  | .fscale => 0x57
  | .f2i => 0x58
  | .i2f => 0x59
  | .fcvt => 0x5A
  | .dot2 => 0x5B
  | .dot4 => 0x5C
  | .hred => 0x5D
  | .qpack => 0x5E
  | .qunpack => 0x5F
  | .qscale => 0x60
  | .qchk => 0x61
  | .topk => 0x62
  | .topkm => 0x63
  | .sbound => 0x64
  | .mxbind => 0x68
  | .mxma => 0x69
  | .mxzero => 0x6A
  | .mxwait => 0x6B
  | .mxfence => 0x6C
  | .mxstat => 0x6D
  | .awset => 0x6E
  | .accrd => 0x6F
  | .accwr => 0x70
  | .txfer => 0x71
  | .txcoll => 0x72
  | .txwait => 0x73
  | .tsend => 0x74
  | .sysrd => 0x75
  | .syswr => 0x76
  | .trap => 0x77
  | .eret => 0x78
  | .brk => 0x79
  | .perfrd => 0x7A
  | .budget => 0x7B

/-- Function code of an opcode that lists one for the mnemonic (Tables 13.6a to 13.6d); the operations of
GOP, AMO and RED are FN values of their own. -/
def Mn.fn : Mn → Option (BitVec 7)
  | .nop => some 1
  | .yield => some 2
  | .endI => some 3
  | .neg => some 0
  | .abs => some 1
  | .popc => some 0
  | .clz => some 1
  | .ctz => some 2
  | .brev => some 3
  | .sptest => some 0
  | .spcastOfs => some 1
  | .spcastGen => some 2
  | .brx => some 0
  | .callx => some 1
  | .callxW => some 1
  | .ret => some 2
  | .join => some 0
  | .leave => some 1
  | .waitm => some 2
  | .mset => some 3
  | .mget => some 4
  | .fork => some 0
  | .vote => some 1
  | .shfl => some 2
  | .bcast => some 3
  | .xlock => some 4
  | .xfree => some 5
  | .flush => some 0
  | .flushInv => some 1
  | .btnSync => some 0
  | .btnTest => some 1
  | .barInit => some 0
  | .barArv => some 1
  | .barExp => some 2
  | .barWait => some 3
  | .barTry => some 4
  | .fifoMap => some 0
  | .fifoPut => some 1
  | .fifoGet => some 2
  | .fifoClose => some 3
  | .fifoStat => some 4
  | .trgAdd => some 0
  | .trgSet => some 1
  | .trgWait => some 2
  | .trgArm => some 3
  | .fabs => some 0
  | .fneg => some 1
  | .fcpys => some 2
  | .frcp => some 0
  | .frsq => some 1
  | .fsqrt => some 2
  | .fexp2 => some 0
  | .flog2 => some 1
  | .fsin => some 2
  | .fcos => some 3
  | .ftanh => some 4
  | _ => none

/-- Short X of Tables 13.6a to 13.6d (R154). -/
def Mn.shortX : Mn → ShortX
  | .nop | .yield | .endI | .neg | .abs | .popc | .clz | .ctz | .brev | .sptest | .spcastOfs | .spcastGen => .fn
  | .gop | .brx | .callx | .callxW | .ret | .vote | .shfl | .bcast | .xlock | .xfree | .flush | .flushInv => .fn
  | .btnSync | .btnTest | .barInit | .barArv | .barExp | .barWait | .barTry | .fifoPut | .fifoGet | .fifoClose | .fifoStat | .fabs => .fn
  | .fneg | .frcp | .frsq | .fsqrt | .fexp2 | .flog2 | .fsin | .fcos | .ftanh => .fn
  | .add | .sub | .addc | .subb | .mul | .mulh | .div | .rem | .min | .max | .and | .or => .reg
  | .xor | .andn | .shl | .shr | .sha | .rot | .perm | .cmp | .cmpv | .lea | .fadd | .fsub => .reg
  | .fmul | .fmin | .fmax | .fdiv | .fscale => .reg
  | .mad | .bfx | .bfi | .sel | .fork | .ldx | .stx | .pgarm | .amo | .red | .cas | .fifoMap => .none
  | .cpy | .cpyWait | .cpyPtr | .cpyPtrSt | .cpyPtrClr | .trgAdd | .trgSet | .trgWait | .trgArm | .bankcfg | .fma | .fms => .none
  | .fnma | .fcpys | .fcmp | .f2i | .i2f | .fcvt | .dot2 | .dot4 | .hred | .qpack | .qunpack | .qscale => .none
  | .qchk | .topk | .topkm | .sbound | .mxbind | .mxma | .mxzero | .awset | .accrd | .accwr | .txfer | .txcoll => .none
  | .txwait | .tsend | .sysrd | .syswr | .perfrd | .budget => .none
  | .not | .mov | .fence | .phase | .wdrain | .fclass | .frnd | .mxwait | .mxfence | .mxstat | .eret => .zero
  | .movi | .ld | .st | .pref | .trap | .brk => .imm7
  | .lit => .lit
  | .bra | .call | .callW => .j
  | .join | .leave | .waitm | .mset | .mget => .m

/-- Default type of a short form; s8, code 0, where the instruction takes no type (R164). -/
def Mn.defTy : Mn → Ty
  | .add | .sub | .addc | .subb | .mul | .mulh | .div | .rem | .neg | .abs | .min | .max => .s32
  | .cmp | .cmpv => .s32
  | .and | .or | .xor | .andn | .not | .shl | .shr | .sha | .rot | .popc | .clz | .ctz => .b32
  | .brev | .perm | .mov | .movi | .shfl | .bcast | .fifoPut | .fifoGet | .fifoClose | .fifoStat => .b32
  | .lit => .b64
  | .lea => .n64
  | .ld | .st => .n32
  | .fadd | .fsub | .fmul | .fmin | .fmax | .fabs | .fneg | .fclass | .frcp | .frsq | .fsqrt | .fdiv => .f32
  | .fexp2 | .flog2 | .fsin | .fcos | .ftanh | .frnd | .fscale => .f32
  | _ => .s8

/-- May this unit execute the mnemonic (Unit column of Tables 13.6a to 13.6d)? -/
def Mn.runsOn (m : Mn) (k : UnitKind) : Bool :=
  match m with
  | .yield | .sptest | .spcastOfs | .spcastGen | .call | .callW | .callx | .callxW | .ret | .join
  | .leave | .waitm | .mset | .mget | .fork | .vote | .shfl | .bcast | .xlock | .xfree
  | .ldx | .stx | .btnSync | .btnTest | .fifoMap | .fifoPut | .fifoGet | .fifoClose | .fifoStat | .bankcfg
  | .hred | .topk | .topkm | .awset | .accrd | .accwr => k == .heat
  | .mxbind | .mxma | .mxzero | .mxwait | .mxfence | .mxstat => k == .pacer
  | _ => true

/-- Opcodes that Tables 13.6b to 13.6d reserve. -/
def reservedOp (op : BitVec 7) : Bool :=
  (0x3D ≤ op && op ≤ 0x47) || (0x65 ≤ op && op ≤ 0x67) || 0x7C ≤ op

/-- The opcode carries FN in X in every form (R164). -/
def carriesFn (op : BitVec 7) : Bool :=
  decide (op ∈ ([0x00, 0x0A, 0x18, 0x21, 0x22, 0x25, 0x26, 0x27, 0x2D, 0x2F, 0x30, 0x35, 0x36, 0x37, 0x3B, 0x50, 0x53, 0x55] : List (BitVec 7)))

/-- Number of registers an operand of a type takes (R54, R161). -/
def Ty.regs : Ty → Nat
  | .s64 | .n64 | .b64 => 2
  | .b128 => 4
  | _ => 1

/-- Bits of a type (Table 13.5); a page format's own W stands in its entry, so q counts as the f32 that a converting load writes. -/
def Ty.bits : Ty → Nat
  | .s8 | .n8 => 8
  | .s16 | .n16 | .f16 | .bf16 => 16
  | .s64 | .n64 | .b64 => 64
  | .b128 => 128
  | _ => 32

/-- Signed integer types (R184). -/
def Ty.signed : Ty → Bool
  | .s8 | .s16 | .s32 | .s64 => true
  | _ => false

/-- An even register number (R54). -/
def even (r : BitVec 8) : Bool := r.getLsbD 0 = false

/-- Register alignment by type (R54, R161). -/
def regT (r : BitVec 8) (t : Ty) : Bool :=
  match t.regs with
  | 2 => even r
  | 4 => r.extractLsb' 0 2 = 0
  | _ => true

/-- A register field that names a guard (R183). -/
def isGuard (r : BitVec 8) : Bool := r.extractLsb' 5 3 = 0

/-- A register field that names a mask (R156). -/
def isMask (r : BitVec 8) : Bool := r < 12

/-- A defined rounding mode in RS (R77). -/
def isRound (e : Ext) : Bool := e.rs ≤ 4

/-- A defined scope in RS (R158). -/
def isScope (e : Ext) : Bool := e.rs ≤ 5

/-- The upper half of a literal. -/
def hi32 (l : DWord) : Word := l.extractLsb' 32 32

/-- The form carries no literal. -/
def noLit (e : Ext) : Bool := e.form = .ext

/-- No second source: B, OSEL and imm16 are res0 and no literal is consumed (R183). -/
def noB (e : Ext) : Bool := e.osel = 0 ∧ e.b = 0 ∧ e.imm = 0 ∧ noLit e

/-- The bits of a literal above the width of the operand are res0 (R163). -/
def litFits (l : DWord) (bits : Nat) : Bool := decide (l.toNat < 2 ^ bits)

/-- The second source b of a type (R158, R162, R163). -/
def srcB (e : Ext) : Bool :=
  match e.osel.toNat with
  | 0 => regT e.b e.ty ∧ e.imm = 0 ∧ noLit e
  | 1 => e.b = 0 ∧ noLit e
  | 2 => e.b = 0 ∧ e.imm = 0 ∧ noLit e = false ∧ litFits e.lit e.ty.bits
  | _ => false

/-- A 32-bit second source whatever T is (R184). -/
def src32 (e : Ext) : Bool :=
  match e.osel.toNat with
  | 0 => e.imm = 0 ∧ noLit e
  | 1 => e.b = 0 ∧ noLit e
  | 2 => e.b = 0 ∧ e.imm = 0 ∧ noLit e = false ∧ litFits e.lit 32
  | _ => false

/-- An address offset or index: register, imm16 or the whole literal (R208, R217, R223). -/
def srcOff (e : Ext) : Bool :=
  match e.osel.toNat with
  | 0 => e.imm = 0 ∧ noLit e
  | 1 => e.b = 0 ∧ noLit e
  | 2 => e.b = 0 ∧ e.imm = 0 ∧ noLit e = false
  | _ => false

/-- LIT: a literal in every form, OSEL, B and imm16 res0 (R203). -/
def litOnly (e : Ext) : Bool := e.osel = 0 ∧ e.b = 0 ∧ e.imm = 0 ∧ noLit e = false

/-- A computed branch target: pair A, or the literal with A res0 (R213). -/
def target (e : Ext) : Bool :=
  e.osel = 0 ∧ e.b = 0 ∧ e.imm = 0 ∧ (if noLit e then even e.a else e.a = 0)

/-- .sat is MOD 1 and goes with an s or n type only (R190). -/
def satOk (e : Ext) : Bool := e.mod = 0 ∨ (e.mod = 1 ∧ e.ty ≠ .b32)

/-- Types of an atomic operation (Table 16.4). -/
def amoTy (x : BitVec 7) (t : Ty) : Bool :=
  match x.toNat with
  | 0 | 4 | 5 => t ∈ ([.s32, .n32, .s64, .n64, .f32, .bf16] : List Ty)
  | 1 | 2 | 3 | 6 => t ∈ ([.b32, .b64] : List Ty)
  | 7 | 8 => t = .n32
  | _ => false

/-- Combinations of FCVT with their register alignment (R275). -/
def cvtOk (e : Ext) : Bool :=
  match e.ty, e.m1.toNat with
  | .f32, 0 | .f32, 1 | .f32, 2 | .f16, 0 | .f16, 1 | .f16, 2 | .bf16, 0 | .bf16, 1 | .bf16, 2 => true
  | .h2, 0 | .b2, 0 => even e.a
  | .h2, 3 | .h2, 4 | .b2, 3 | .b2, 4 => true
  | .f32, 3 | .f32, 4 => even e.d
  | _, _ => false

/-- Operation, type and rounding of HRED (R277). -/
def hredTy (e : Ext) : Bool :=
  match e.m1.toNat with
  | 0 =>
    (e.ty ∈ ([.s32, .n32, .s64, .n64] : List Ty) ∧ e.rs = 0) ∨ (e.ty ∈ ([.f32, .f16, .bf16] : List Ty) ∧ e.rs ≤ 3)
  | 1 | 2 => e.ty ∈ ([.s32, .n32, .s64, .n64, .f32, .f16, .bf16] : List Ty) ∧ e.rs = 0
  | 3 | 4 | 5 => e.ty ∈ ([.b32, .b64] : List Ty) ∧ e.rs = 0
  | _ => false

/-- imm16 of QUNPACK and QSCALE: a format index 1 to 15 in [11:8], [15:12] res0 (Table 17.4, R281). -/
def fmtImm (e : Ext) : Bool := e.imm.extractLsb' 8 4 ≠ 0 ∧ e.imm.extractLsb' 12 4 = 0

/-- System registers of 64 bits (Table 18.10). -/
def sysWide (n : BitVec 16) : Bool := n ∈ ([0x20, 0x30, 0x31, 0x33, 0x34] : List (BitVec 16))

/-- System registers that software may write (Table 18.10). -/
def sysWritable (n : BitVec 16) : Bool := n = 0 ∨ (0x10 ≤ n ∧ n ≤ 0x1F) ∨ n = 0x30 ∨ n = 0x31

/-- Listed system registers (Table 18.10). -/
def sysListed (n : BitVec 16) : Bool :=
  sysWritable n ∨ (0x20 ≤ n ∧ n ≤ 0x25) ∨ (0x32 ≤ n ∧ n ≤ 0x34) ∨ n = 0x40

/-- The conditions that an instruction's own description sets on the fields of its extended form
(R159 to R166 and the description of each instruction). -/
def Mn.fieldsOk (m : Mn) (e : Ext) : Bool :=
  match m with
  | .nop | .yield | .endI | .xlock | .xfree | .wdrain | .mxwait | .mxfence | .eret =>
    e.ty = .s8 ∧ e.d = 0 ∧ e.a = 0 ∧ e.c = 0 ∧ e.m1 = 0 ∧ e.rs = 0 ∧ e.mod = 0 ∧ e.p = 0 ∧ noB e
  | .add | .sub | .mul =>
    e.ty ∈ ([.s32, .s8, .s16, .s64, .n8, .n16, .n32, .n64, .b32] : List Ty) ∧ regT e.d e.ty ∧ regT e.a e.ty ∧ srcB e ∧ e.c = 0 ∧ e.m1 = 0 ∧ e.rs = 0 ∧ e.p = 0 ∧ satOk e
  | .addc | .subb =>
    e.ty ∈ ([.s32, .n32, .s64, .n64] : List Ty) ∧ regT e.d e.ty ∧ regT e.a e.ty ∧ srcB e ∧ isGuard e.c ∧ e.m1 = 0 ∧ e.rs = 0 ∧ e.mod = 0 ∧ e.p = 0
  | .mulh | .div | .rem =>
    e.ty ∈ ([.s32, .n32, .s64, .n64] : List Ty) ∧ regT e.d e.ty ∧ regT e.a e.ty ∧ srcB e ∧ e.c = 0 ∧ e.m1 = 0 ∧ e.rs = 0 ∧ e.mod = 0 ∧ e.p = 0
  | .mad =>
    e.ty ∈ ([.s32, .n32, .s64, .n64] : List Ty) ∧ regT e.d e.ty ∧ regT e.a e.ty ∧ srcB e ∧ regT e.c e.ty ∧ e.m1 = 0 ∧ e.rs = 0 ∧ e.mod = 0 ∧ e.p = 0
  | .neg =>
    e.ty ∈ ([.s32, .s8, .s16, .s64, .n8, .n16, .n32, .n64, .b32] : List Ty) ∧ regT e.d e.ty ∧ regT e.a e.ty ∧ noB e ∧ e.c = 0 ∧ e.m1 = 0 ∧ e.rs = 0 ∧ e.p = 0 ∧ satOk e
  | .abs =>
    e.ty ∈ ([.s32, .s8, .s16, .s64] : List Ty) ∧ regT e.d e.ty ∧ regT e.a e.ty ∧ noB e ∧ e.c = 0 ∧ e.m1 = 0 ∧ e.rs = 0 ∧ e.p = 0 ∧ satOk e
  | .min | .max =>
    e.ty ∈ ([.s32, .s8, .s16, .s64, .n8, .n16, .n32, .n64] : List Ty) ∧ regT e.d e.ty ∧ regT e.a e.ty ∧ srcB e ∧ e.c = 0 ∧ e.m1 = 0 ∧ e.rs = 0 ∧ e.mod = 0 ∧ e.p = 0
  | .and | .or | .xor | .andn =>
    e.ty ∈ ([.b32, .b64] : List Ty) ∧ regT e.d e.ty ∧ regT e.a e.ty ∧ srcB e ∧ e.c = 0 ∧ e.m1 = 0 ∧ e.rs = 0 ∧ e.mod = 0 ∧ e.p = 0
  | .not | .brev =>
    e.ty ∈ ([.b32, .b64] : List Ty) ∧ regT e.d e.ty ∧ regT e.a e.ty ∧ noB e ∧ e.c = 0 ∧ e.m1 = 0 ∧ e.rs = 0 ∧ e.mod = 0 ∧ e.p = 0
  | .shl | .shr | .sha | .rot | .bcast =>
    e.ty ∈ ([.b32, .b64] : List Ty) ∧ regT e.d e.ty ∧ regT e.a e.ty ∧ src32 e ∧ e.c = 0 ∧ e.m1 = 0 ∧ e.rs = 0 ∧ e.mod = 0 ∧ e.p = 0
  | .bfx =>
    e.ty ∈ ([.n32, .s32, .n64, .s64] : List Ty) ∧ regT e.d e.ty ∧ regT e.a e.ty ∧ src32 e ∧ e.c = 0 ∧ e.m1 = 0 ∧ e.rs = 0 ∧ e.mod = 0 ∧ e.p = 0
  | .bfi =>
    e.ty ∈ ([.b32, .b64] : List Ty) ∧ regT e.d e.ty ∧ regT e.a e.ty ∧ src32 e ∧ regT e.c e.ty ∧ e.m1 = 0 ∧ e.rs = 0 ∧ e.mod = 0 ∧ e.p = 0
  | .popc | .clz | .ctz | .fifoPut =>
    e.ty ∈ ([.b32, .b64] : List Ty) ∧ regT e.a e.ty ∧ noB e ∧ e.c = 0 ∧ e.m1 = 0 ∧ e.rs = 0 ∧ e.mod = 0 ∧ e.p = 0
  | .perm =>
    e.ty ∈ ([.b32] : List Ty) ∧ srcB e ∧ e.c = 0 ∧ e.m1 = 0 ∧ e.rs = 0 ∧ e.mod = 0 ∧ e.p = 0
  | .mov =>
    e.ty ∈ ([.b32, .b64, .b128] : List Ty) ∧ regT e.d e.ty ∧ regT e.a e.ty ∧ noB e ∧ e.c = 0 ∧ e.m1 = 0 ∧ e.rs = 0 ∧ e.mod = 0 ∧ e.p = 0
  | .movi =>
    e.ty ∈ ([.b32, .b64] : List Ty) ∧ regT e.d e.ty ∧ e.osel ≠ 0 ∧ srcB e ∧ e.a = 0 ∧ e.c = 0 ∧ e.m1 = 0 ∧ e.rs = 0 ∧ e.mod = 0 ∧ e.p = 0
  | .lit =>
    e.ty ∈ ([.b32, .b64] : List Ty) ∧ regT e.d e.ty ∧ litOnly e ∧ (e.ty = .b32 → hi32 e.lit = 0) ∧ e.a = 0 ∧ e.c = 0 ∧ e.m1 = 0 ∧ e.rs = 0 ∧ e.mod = 0 ∧ e.p = 0
  | .sel =>
    e.ty ∈ ([.b32, .b64] : List Ty) ∧ regT e.d e.ty ∧ regT e.a e.ty ∧ srcB e ∧ isGuard e.c ∧ e.mod ≤ 1 ∧ e.m1 = 0 ∧ e.rs = 0 ∧ e.p = 0
  | .cmp =>
    e.ty ∈ ([.s32, .s8, .s16, .s64, .n8, .n16, .n32, .n64] : List Ty) ∧ isGuard e.d ∧ regT e.a e.ty ∧ srcB e ∧ e.m1 ≤ 5 ∧ e.mod ≤ 2 ∧ e.c = 0 ∧ e.rs = 0 ∧ e.p = 0
  | .cmpv =>
    e.ty ∈ ([.s32, .s8, .s16, .s64, .n8, .n16, .n32, .n64] : List Ty) ∧ regT e.a e.ty ∧ srcB e ∧ e.m1 ≤ 5 ∧ e.c = 0 ∧ e.rs = 0 ∧ e.mod = 0 ∧ e.p = 0
  | .lea =>
    e.ty ∈ ([.n64, .s64] : List Ty) ∧ even e.d ∧ even e.a ∧ srcOff e ∧ e.m1 ≤ 4 ∧ e.c = 0 ∧ e.rs = 0 ∧ e.mod = 0 ∧ e.p = 0
  | .sptest | .barInit | .barExp | .barWait =>
    e.ty = .s8 ∧ even e.a ∧ noB e ∧ e.c = 0 ∧ e.m1 = 0 ∧ e.rs = 0 ∧ e.mod = 0 ∧ e.p = 0
  | .spcastOfs =>
    e.ty = .s8 ∧ even e.d ∧ even e.a ∧ noB e ∧ e.c = 0 ∧ e.m1 = 0 ∧ e.rs = 0 ∧ e.mod = 0 ∧ e.p = 0
  | .spcastGen =>
    e.ty = .s8 ∧ even e.d ∧ even e.a ∧ noB e ∧ e.m1 ≤ 3 ∧ e.c = 0 ∧ e.rs = 0 ∧ e.mod = 0 ∧ e.p = 0
  | .gop =>
    e.ty = .s8 ∧ isGuard e.d ∧ isGuard e.a ∧ isGuard e.b ∧ e.osel = 0 ∧ noLit e ∧ e.c = 0 ∧ e.m1 = 0 ∧ e.rs = 0 ∧ e.mod = 0 ∧ e.p = 0 ∧ e.imm = 0
  | .brx | .callx =>
    e.ty = .s8 ∧ target e ∧ e.d = 0 ∧ e.c = 0 ∧ e.m1 = 0 ∧ e.rs = 0 ∧ e.mod = 0 ∧ e.p = 0
  | .callxW =>
    e.ty = .s8 ∧ target e ∧ 1 ≤ e.m1 ∧ e.m1 ≤ 4 ∧ e.d = 0 ∧ e.c = 0 ∧ e.rs = 0 ∧ e.mod = 0 ∧ e.p = 0
  | .ret =>
    e.ty = .s8 ∧ noB e ∧ e.d = 0 ∧ e.a = 0 ∧ e.c = 0 ∧ e.m1 = 0 ∧ e.rs = 0 ∧ e.mod = 0 ∧ e.p = 0
  | .join | .leave | .waitm =>
    e.ty = .s8 ∧ isMask e.d ∧ noB e ∧ e.a = 0 ∧ e.c = 0 ∧ e.m1 = 0 ∧ e.rs = 0 ∧ e.mod = 0 ∧ e.p = 0
  | .mset =>
    e.ty = .s8 ∧ isMask e.d ∧ e.b = 0 ∧ (e.osel = 0 → e.imm = 0 ∧ noLit e) ∧ (e.osel ≠ 0 → e.a = 0 ∧ src32 e) ∧ e.c = 0 ∧ e.m1 = 0 ∧ e.rs = 0 ∧ e.mod = 0 ∧ e.p = 0
  | .mget =>
    e.ty = .s8 ∧ isMask e.d ∧ noB e ∧ e.c = 0 ∧ e.m1 = 0 ∧ e.rs = 0 ∧ e.mod = 0 ∧ e.p = 0
  | .fork =>
    e.ty = .s8 ∧ isGuard e.c ∧ (e.osel = 0 → even e.b) ∧ srcOff e ∧ e.a = 0 ∧ e.m1 = 0 ∧ e.rs = 0 ∧ e.mod = 0 ∧ e.p = 0
  | .vote =>
    e.ty = .s8 ∧ isGuard e.a ∧ noB e ∧ e.m1 ≤ 3 ∧ e.c = 0 ∧ e.rs = 0 ∧ e.mod = 0 ∧ e.p = 0
  | .shfl =>
    e.ty ∈ ([.b32, .b64] : List Ty) ∧ regT e.d e.ty ∧ regT e.a e.ty ∧ src32 e ∧ e.m1 ≤ 3 ∧ e.c = 0 ∧ e.rs = 0 ∧ e.mod = 0 ∧ e.p = 0
  | .ld =>
    (e.ty ∈ ([.s8, .s16, .n8, .n16, .f16, .bf16, .s32, .n32, .f32, .h2, .b2, .b32, .s64, .n64, .b64, .b128, .q] : List Ty)) ∧ even e.a ∧ (e.ty = .q → e.osel = 0 ∧ e.mod ≤ 1) ∧ regT e.d e.ty ∧ srcOff e ∧ e.mod ≤ 3 ∧ (e.mod ≠ 3 → e.c = 0 ∧ e.p = 0) ∧ e.p < 8 ∧ (if e.mod = 1 then isScope e else e.rs = 0)
  | .st =>
    (e.ty ∈ ([.s8, .s16, .n8, .n16, .f16, .bf16, .s32, .n32, .f32, .h2, .b2, .b32, .s64, .n64, .b64, .b128] : List Ty)) ∧ even e.a ∧ regT e.d e.ty ∧ srcOff e ∧ e.mod ≤ 2 ∧ (if e.mod = 1 then isScope e else e.rs = 0) ∧ e.c = 0 ∧ e.p = 0 ∧ e.m1 = 0
  | .ldx =>
    (e.ty ∈ ([.s8, .s16, .n8, .n16, .f16, .bf16, .s32, .n32, .f32, .h2, .b2, .b32, .s64, .n64, .b64, .b128] : List Ty) ∧ e.ty ≠ .b128) ∧ even e.a ∧ regT e.d e.ty ∧ e.osel = 0 ∧ noLit e ∧ e.imm ≤ 4 ∧ e.mod ≤ 1 ∧ (e.mod = 0 → e.c = 0) ∧ e.rs = 0 ∧ e.p = 0
  | .stx =>
    (e.ty ∈ ([.s8, .s16, .n8, .n16, .f16, .bf16, .s32, .n32, .f32, .h2, .b2, .b32, .s64, .n64, .b64, .b128] : List Ty) ∧ e.ty ≠ .b128) ∧ even e.a ∧ regT e.d e.ty ∧ e.osel = 0 ∧ noLit e ∧ e.imm ≤ 4 ∧ e.mod ≤ 1 ∧ (e.mod = 0 → e.c = 0) ∧ e.m1 = 0 ∧ e.rs = 0 ∧ e.p = 0
  | .pref =>
    e.ty = .s8 ∧ even e.a ∧ srcOff e ∧ e.m1 ≤ 2 ∧ e.d = 0 ∧ e.c = 0 ∧ e.rs = 0 ∧ e.mod = 0 ∧ e.p = 0
  | .flush | .flushInv | .pgarm =>
    e.ty = .s8 ∧ even e.a ∧ e.osel = 0 ∧ noLit e ∧ e.d = 0 ∧ e.b = 0 ∧ e.c = 0 ∧ e.m1 = 0 ∧ e.rs = 0 ∧ e.mod = 0 ∧ e.p = 0
  | .amo =>
    amoTy e.x e.ty ∧ even e.a ∧ (if e.mod.getLsbD 2 then e.d = 0 else regT e.d e.ty = true) ∧ srcB e ∧ isScope e ∧ e.c = 0 ∧ e.m1 = 0 ∧ e.p = 0
  | .red =>
    e.x ≤ 5 ∧ amoTy e.x e.ty ∧ even e.a ∧ srcB e ∧ isScope e ∧ e.d = 0 ∧ e.c = 0 ∧ e.m1 = 0 ∧ e.mod = 0 ∧ e.p = 0
  | .cas =>
    e.ty ∈ ([.b32, .b64] : List Ty) ∧ even e.a ∧ regT e.d e.ty ∧ regT e.c e.ty ∧ srcB e ∧ isScope e ∧ e.mod ≤ 3 ∧ e.m1 = 0 ∧ e.p = 0
  | .fence =>
    e.ty = .s8 ∧ noB e ∧ isScope e ∧ e.mod ≤ 2 ∧ e.d = 0 ∧ e.a = 0 ∧ e.c = 0 ∧ e.m1 = 0 ∧ e.p = 0
  | .phase =>
    e.ty = .s8 ∧ noB e ∧ isScope e ∧ e.d = 0 ∧ e.a = 0 ∧ e.c = 0 ∧ e.m1 = 0 ∧ e.mod = 0 ∧ e.p = 0
  | .btnSync =>
    e.ty = .s8 ∧ noB e ∧ e.mod ≤ 1 ∧ (e.mod = 1 → e.a = 0) ∧ e.d = 0 ∧ e.c = 0 ∧ e.m1 = 0 ∧ e.rs = 0 ∧ e.p = 0
  | .btnTest =>
    e.ty = .s8 ∧ noB e ∧ isGuard e.d ∧ e.c = 0 ∧ e.m1 = 0 ∧ e.rs = 0 ∧ e.mod = 0 ∧ e.p = 0
  | .barArv =>
    e.ty = .s8 ∧ even e.a ∧ e.osel = 0 ∧ noLit e ∧ e.b = 0 ∧ e.c = 0 ∧ e.m1 = 0 ∧ e.rs = 0 ∧ e.mod = 0 ∧ e.p = 0
  | .barTry =>
    e.ty = .s8 ∧ even e.a ∧ noB e ∧ isGuard e.c ∧ e.m1 = 0 ∧ e.rs = 0 ∧ e.mod = 0 ∧ e.p = 0
  | .fifoMap =>
    e.ty ∈ ([.b32, .b64] : List Ty) ∧ e.osel = 0 ∧ noLit e ∧ 1 ≤ e.imm ∧ e.imm ≤ 255 ∧ e.p < 12 ∧ e.a = 0 ∧ e.b = 0 ∧ e.c = 0 ∧ e.m1 = 0 ∧ e.rs = 0 ∧ e.mod = 0
  | .fifoGet =>
    e.ty ∈ ([.b32, .b64] : List Ty) ∧ regT e.d e.ty ∧ noB e ∧ e.mod ≤ 1 ∧ isGuard e.c ∧ (e.mod = 0 → e.c = 0) ∧ e.m1 = 0 ∧ e.rs = 0 ∧ e.p = 0
  | .fifoClose =>
    e.ty ∈ ([.b32, .b64] : List Ty) ∧ noB e ∧ e.a = 0 ∧ e.c = 0 ∧ e.m1 = 0 ∧ e.rs = 0 ∧ e.mod = 0 ∧ e.p = 0
  | .fifoStat =>
    e.ty ∈ ([.b32, .b64] : List Ty) ∧ noB e ∧ e.c = 0 ∧ e.m1 = 0 ∧ e.rs = 0 ∧ e.mod = 0 ∧ e.p = 0
  | .cpy =>
    e.m1 ≤ 4 ∧ (if e.m1 ≤ 2 then e.ty = .s8 else e.ty ∈ ([.f32, .f16, .bf16] : List Ty)) ∧ even e.a ∧ even e.b ∧ e.osel = 0 ∧ noLit e ∧ (e.m1 ≠ 0 → e.c ≤ 251) ∧ (if e.m1 = 4 then isRound e else e.rs = 0) ∧ e.mod ≤ 3 ∧ (e.mod.getLsbD 0 = false → e.mod = 0 ∧ e.imm = 0) ∧ e.p < 8
  | .cpyWait =>
    e.ty ∈ ([.n32] : List Ty) ∧ srcB e ∧ e.p < 8 ∧ e.d = 0 ∧ e.a = 0 ∧ e.c = 0 ∧ e.m1 = 0 ∧ e.rs = 0 ∧ e.mod = 0
  | .cpyPtr =>
    e.ty ∈ ([.n32] : List Ty) ∧ srcB e ∧ e.p < 8 ∧ isGuard e.c ∧ e.a = 0 ∧ e.m1 = 0 ∧ e.rs = 0 ∧ e.mod = 0
  | .cpyPtrSt =>
    e.ty = .s8 ∧ noB e ∧ e.p < 8 ∧ e.m1 = 1 ∧ e.a = 0 ∧ e.c = 0 ∧ e.rs = 0 ∧ e.mod = 0
  | .cpyPtrClr =>
    e.ty = .s8 ∧ noB e ∧ e.p < 8 ∧ e.m1 = 2 ∧ e.a = 0 ∧ e.c = 0 ∧ e.rs = 0 ∧ e.mod = 0
  | .trgAdd | .trgSet | .trgArm =>
    e.ty ∈ ([.n32] : List Ty) ∧ srcB e ∧ e.p < 64 ∧ e.d = 0 ∧ e.a = 0 ∧ e.c = 0 ∧ e.m1 = 0 ∧ e.rs = 0 ∧ e.mod = 0
  | .trgWait =>
    e.ty ∈ ([.n32] : List Ty) ∧ srcB e ∧ e.p < 64 ∧ e.mod ≤ 1 ∧ isGuard e.c ∧ (e.mod = 0 → e.c = 0) ∧ e.a = 0 ∧ e.m1 = 0 ∧ e.rs = 0
  | .bankcfg =>
    e.ty = .s8 ∧ noB e ∧ 1 ≤ e.m1 ∧ e.m1 ≤ 3 ∧ e.p < 12 ∧ e.d = 0 ∧ e.a = 0 ∧ e.c = 0 ∧ e.rs = 0 ∧ e.mod = 0
  | .fadd | .fsub | .fmul =>
    e.ty ∈ ([.f32, .f16, .bf16, .h2, .b2] : List Ty) ∧ srcB e ∧ isRound e ∧ e.mod ≤ 1 ∧ e.c = 0 ∧ e.m1 = 0 ∧ e.p = 0
  | .fma | .fms | .fnma =>
    e.ty ∈ ([.f32, .f16, .bf16, .h2, .b2] : List Ty) ∧ srcB e ∧ isRound e ∧ e.mod ≤ 1 ∧ e.m1 = 0 ∧ e.p = 0
  | .fmin | .fmax =>
    e.ty ∈ ([.f32, .f16, .bf16, .h2, .b2] : List Ty) ∧ srcB e ∧ e.mod ≤ 3 ∧ e.c = 0 ∧ e.m1 = 0 ∧ e.rs = 0 ∧ e.p = 0
  | .fabs | .fneg =>
    e.ty ∈ ([.f32, .f16, .bf16, .h2, .b2] : List Ty) ∧ noB e ∧ e.c = 0 ∧ e.m1 = 0 ∧ e.rs = 0 ∧ e.mod = 0 ∧ e.p = 0
  | .fcpys =>
    e.ty ∈ ([.f32, .f16, .bf16, .h2, .b2] : List Ty) ∧ srcB e ∧ e.c = 0 ∧ e.m1 = 0 ∧ e.rs = 0 ∧ e.mod = 0 ∧ e.p = 0
  | .fcmp =>
    e.ty ∈ ([.f32, .f16, .bf16] : List Ty) ∧ isGuard e.d ∧ srcB e ∧ e.mod ≤ 2 ∧ e.c = 0 ∧ e.rs = 0 ∧ e.p = 0
  | .fclass =>
    e.ty ∈ ([.f32, .f16, .bf16] : List Ty) ∧ noB e ∧ e.c = 0 ∧ e.m1 = 0 ∧ e.rs = 0 ∧ e.mod = 0 ∧ e.p = 0
  | .frcp | .frsq | .fsqrt | .fexp2 | .flog2 | .fsin | .fcos | .ftanh =>
    e.ty ∈ ([.f32, .f16, .bf16] : List Ty) ∧ noB e ∧ isRound e ∧ e.mod ≤ 1 ∧ e.c = 0 ∧ e.m1 = 0 ∧ e.p = 0
  | .fdiv =>
    e.ty ∈ ([.f32, .f16, .bf16] : List Ty) ∧ srcB e ∧ isRound e ∧ e.mod ≤ 1 ∧ e.c = 0 ∧ e.m1 = 0 ∧ e.p = 0
  | .frnd =>
    e.ty ∈ ([.f32, .f16, .bf16, .h2, .b2] : List Ty) ∧ noB e ∧ isRound e ∧ e.mod ≤ 1 ∧ e.c = 0 ∧ e.m1 = 0 ∧ e.p = 0
  | .fscale =>
    e.ty ∈ ([.f32, .f16, .bf16] : List Ty) ∧ src32 e ∧ isRound e ∧ e.mod ≤ 1 ∧ e.c = 0 ∧ e.m1 = 0 ∧ e.p = 0
  | .f2i =>
    e.ty ∈ ([.s32, .s8, .s16, .s64, .n8, .n16, .n32, .n64] : List Ty) ∧ regT e.d e.ty ∧ noB e ∧ e.m1 ≤ 2 ∧ isRound e ∧ e.mod ≤ 1 ∧ e.c = 0 ∧ e.p = 0
  | .i2f =>
    e.ty ∈ ([.f32, .f16, .bf16] : List Ty) ∧ ((e.m1 = 2 ∨ e.m1 = 3) → even e.a) ∧ noB e ∧ e.m1 ≤ 7 ∧ isRound e ∧ e.c = 0 ∧ e.mod = 0 ∧ e.p = 0
  | .fcvt =>
    e.ty ∈ ([.f32, .f16, .bf16, .h2, .b2] : List Ty) ∧ cvtOk e ∧ noB e ∧ isRound e ∧ e.mod ≤ 1 ∧ e.c = 0 ∧ e.p = 0
  | .dot2 =>
    e.ty ∈ ([.h2, .b2] : List Ty) ∧ srcB e ∧ isRound e ∧ e.mod ≤ 1 ∧ e.m1 = 0 ∧ e.p = 0
  | .dot4 =>
    (e.ty ∈ ([.h2, .b2, .s8, .n8] : List Ty)) ∧ e.osel = 0 ∧ noLit e ∧ e.mod ≤ 1 ∧ (if e.ty = .s8 ∨ e.ty = .n8 then e.rs = 0 else even e.a ∧ even e.b ∧ isRound e) ∧ e.m1 = 0 ∧ e.p = 0 ∧ e.imm = 0
  | .hred =>
    hredTy e ∧ regT e.d e.ty ∧ regT e.a e.ty ∧ noB e ∧ e.mod ≤ 1 ∧ e.c = 0 ∧ e.p = 0
  | .qpack =>
    e.ty ∈ ([.f32, .f16, .bf16, .h2, .b2] : List Ty) ∧ even e.a ∧ e.osel = 0 ∧ noLit e ∧ e.m1 ≤ 1 ∧ (e.m1 = 1 → even e.c) ∧ isRound e ∧ e.mod ≤ 1 ∧ e.d = 0 ∧ e.p = 0 ∧ e.imm = 0
  | .qunpack =>
    e.ty ∈ ([.f32, .f16, .bf16] : List Ty) ∧ e.osel = 0 ∧ noLit e ∧ isRound e ∧ fmtImm e ∧ e.imm.extractLsb' 5 3 = 0 ∧ e.c = 0 ∧ e.m1 = 0 ∧ e.mod = 0 ∧ e.p = 0
  | .qscale =>
    e.ty ∈ ([.f32, .f16, .bf16, .h2, .b2] : List Ty) ∧ noLit e ∧ e.a = 0 ∧ e.b = 0 ∧ e.osel = 0 ∧ e.rs = 0 ∧ e.p = 0 ∧ e.m1 ≤ 1 ∧ (e.m1 = 1 → even e.c) ∧ e.mod ≤ 1 ∧ fmtImm e ∧ e.imm.extractLsb' 0 8 = 0
  | .qchk =>
    e.ty = .s8 ∧ even e.a ∧ e.osel = 0 ∧ noLit e ∧ e.mod ≤ 1 ∧ isGuard e.c ∧ (e.mod = 0 → e.c = 0) ∧ e.m1 = 0 ∧ e.rs = 0 ∧ e.p = 0 ∧ e.imm = 0
  | .topk =>
    e.ty ∈ ([.f32, .f16, .bf16, .s32, .n32] : List Ty) ∧ even e.d ∧ e.osel = 0 ∧ noLit e ∧ 1 ≤ e.imm ∧ e.imm ≤ 32 ∧ e.mod ≤ 1 ∧ e.c = 0 ∧ e.m1 = 0 ∧ e.rs = 0 ∧ e.p = 0
  | .topkm =>
    e.ty ∈ ([.f32, .f16, .bf16, .s32, .n32] : List Ty) ∧ even e.d ∧ even e.a ∧ even e.b ∧ e.osel = 0 ∧ noLit e ∧ 1 ≤ e.imm ∧ e.imm ≤ 32 ∧ e.mod ≤ 1 ∧ e.c = 0 ∧ e.m1 = 0 ∧ e.rs = 0 ∧ e.p = 0
  | .sbound =>
    e.ty ∈ ([.f32, .h2, .b2] : List Ty) ∧ e.osel = 0 ∧ noLit e ∧ isRound e ∧ e.mod ≤ 1 ∧ e.m1 = 0 ∧ e.p = 0 ∧ e.imm = 0
  | .mxbind =>
    e.ty = .s8 ∧ even e.a ∧ noB e ∧ e.m1 ≤ 7 ∧ e.mod ≤ 1 ∧ e.c ≤ 253 ∧ (e.mod = 0 → e.c = 0) ∧ e.d = 0 ∧ e.rs = 0 ∧ e.p = 0
  | .mxma =>
    e.ty = .s8 ∧ e.imm ≤ 6 ∧ (e.imm = 0 ∨ e.imm = 1 ∨ e.imm = 2 ∨ e.imm = 5) ∧ e.c ≤ 252 ∧ even e.b ∧ (e.imm = 0 → e.b = 0) ∧ e.osel = 0 ∧ noLit e ∧ e.rs = 0 ∧ e.p = 0
  | .mxzero | .awset =>
    e.ty = .s8 ∧ src32 e ∧ e.d = 0 ∧ e.c = 0 ∧ e.m1 = 0 ∧ e.rs = 0 ∧ e.mod = 0 ∧ e.p = 0
  | .mxstat =>
    e.ty = .s8 ∧ noB e ∧ e.m1 ≤ 1 ∧ e.a = 0 ∧ e.c = 0 ∧ e.rs = 0 ∧ e.mod = 0 ∧ e.p = 0
  | .accrd =>
    e.ty ∈ ([.f32, .b64, .b128, .h2, .b2] : List Ty) ∧ regT e.d e.ty ∧ e.osel ≤ 1 ∧ src32 e ∧ (if e.ty = .h2 ∨ e.ty = .b2 then isRound e else e.rs = 0) ∧ e.c = 0 ∧ e.m1 = 0 ∧ e.mod = 0 ∧ e.p = 0
  | .accwr =>
    e.ty ∈ ([.f32, .b64, .b128, .h2, .b2] : List Ty) ∧ regT e.d e.ty ∧ e.osel ≤ 1 ∧ src32 e ∧ e.mod ≤ 3 ∧ (e.mod.getLsbD 0 = true → e.ty = .b2) ∧ e.c = 0 ∧ e.m1 = 0 ∧ e.rs = 0 ∧ e.p = 0
  | .txfer =>
    e.ty = .s8 ∧ even e.a ∧ even e.b ∧ e.c ≤ 246 ∧ e.mod ≤ 3 ∧ (if e.mod.getLsbD 1 then e.form = .extLit else noLit e = true) ∧ e.p < 64 ∧ (e.mod.getLsbD 0 = false → e.p = 0) ∧ e.osel = 0 ∧ e.rs = 0 ∧ e.m1 = 0 ∧ e.imm = 0
  | .txcoll =>
    e.ty = .s8 ∧ even e.a ∧ even e.b ∧ e.c ≤ 250 ∧ noLit e ∧ e.m1 ≤ 5 ∧ e.mod.extractLsb' 0 2 ≠ 3 ∧ (e.mod.extractLsb' 0 2 ≠ 0 → e.m1 = 1 ∨ e.m1 = 2 ∨ e.m1 = 5) ∧ e.imm ≤ 255 ∧ (e.mod.extractLsb' 0 2 ≠ 2 → e.imm = 0) ∧ e.p < 64 ∧ (e.mod.getLsbD 2 = false → e.p = 0) ∧ e.osel = 0 ∧ e.rs = 0
  | .txwait =>
    e.ty = .s8 ∧ noB e ∧ e.mod ≤ 1 ∧ isGuard e.c ∧ (e.mod = 0 → e.c = 0) ∧ e.m1 = 0 ∧ e.rs = 0 ∧ e.p = 0
  | .tsend =>
    e.ty = .s8 ∧ even e.a ∧ e.osel ≤ 1 ∧ src32 e ∧ e.c ≤ 63 ∧ e.mod ≤ 1 ∧ e.p < 64 ∧ (e.mod = 0 → e.p = 0) ∧ e.m1 = 0 ∧ e.rs = 0
  | .sysrd =>
    e.ty = .s8 ∧ sysListed e.imm ∧ (sysWide e.imm = true → even e.d) ∧ e.osel = 0 ∧ noLit e ∧ e.a = 0 ∧ e.b = 0 ∧ e.c = 0 ∧ e.m1 = 0 ∧ e.rs = 0 ∧ e.mod = 0 ∧ e.p = 0
  | .syswr =>
    e.ty = .s8 ∧ sysWritable e.imm ∧ (sysWide e.imm = true → even e.a) ∧ e.osel = 0 ∧ noLit e ∧ e.d = 0 ∧ e.b = 0 ∧ e.c = 0 ∧ e.m1 = 0 ∧ e.rs = 0 ∧ e.mod = 0 ∧ e.p = 0
  | .trap | .brk =>
    e.ty = .s8 ∧ e.osel = 1 ∧ src32 e ∧ e.d = 0 ∧ e.a = 0 ∧ e.c = 0 ∧ e.m1 = 0 ∧ e.rs = 0 ∧ e.mod = 0 ∧ e.p = 0
  | .perfrd =>
    e.ty = .s8 ∧ even e.d ∧ e.imm ≤ 7 ∧ e.osel = 0 ∧ noLit e ∧ e.a = 0 ∧ e.b = 0 ∧ e.c = 0 ∧ e.m1 = 0 ∧ e.rs = 0 ∧ e.mod = 0 ∧ e.p = 0
  | .budget =>
    e.ty = .s8 ∧ even e.d ∧ noB e ∧ e.m1 ≤ 3 ∧ e.a = 0 ∧ e.c = 0 ∧ e.rs = 0 ∧ e.mod = 0 ∧ e.p = 0
  | .bra | .call | .callW => false

/-- FN of the form: the mnemonic's own code, an operation code of GOP, AMO or RED, else res0 (R164, R166). -/
def Mn.fnOk (m : Mn) (x : BitVec 7) : Bool :=
  match m with
  | .gop => x < 8
  | .amo => x < 9
  | .red => x < 6
  | _ => x = m.fn.getD 0

/-- The short form with literal exists (R154). -/
def ShortX.takesLit : ShortX → Bool
  | .reg | .imm7 | .fn | .lit | .m => true
  | .zero | .j | .none => false

/-- The fields that R164 leaves zero in a short form with literal, its type and OSEL. -/
def Mn.shortLitOk (m : Mn) (e : Ext) : Bool :=
  e.guard = .always ∧ e.ty = m.defTy ∧ e.b = 0 ∧ e.c = 0 ∧ e.m1 = 0 ∧ e.rs = 0 ∧ e.mod = 0 ∧ e.p = 0 ∧ e.imm = 0 ∧
  e.osel = (if m = .lit ∨ m = .brx ∨ m = .callx then 0 else 2) ∧
  m.shortX.takesLit

/-- A literal or extended form is well formed for a mnemonic (check 4 of Table 13.7). -/
def Mn.extOk (m : Mn) (e : Ext) : Bool :=
  m.fnOk e.x ∧ m.fieldsOk e ∧ (e.form = .shortLit → m.shortLitOk e) ∧ (e.form ≠ .extLit → e.form ≠ .shortLit → e.lit = 0)

/-- M1 of the extended forms of format J (R155, R211, R212). -/
def Mn.jOk (m : Mn) (j : JExt) : Bool :=
  match m with
  | .bra | .call => j.m1 = 0
  | .callW => 1 ≤ j.m1 ∧ j.m1 ≤ 4
  | _ => false

end Sys2Proof
end

