-- ==== Sys2Proof/Config.lean ====
section
/-!
DEFINITION. The free values: constants without a body, for the values the manual leaves open and for what each device has of its own.
Nothing in Lean can evaluate them, so a statement about one holds whatever it is.
-/

namespace Sys2Proof.Config

/-- A value the manual does not state, one for each reading of the counter State.freeCtr (log entries 6 and 30). -/
opaque freeWord : Nat → DWord

/-- The unique device secret that the boot ROM holds (R405): each device has its own. -/
opaque deviceSecret : BitVec 256

/-- How a layer derives the compound device identifier of the next one from its own and from that layer's measurement (R405): the manual names TCG
DICE and no function. -/
opaque deriveCdi : BitVec 256 → Nat → BitVec 256

end Sys2Proof.Config
end

