-- ==== Sys2Proof/Machine/State.lean ====
section
/-!
DEFINITION. The state of one KS4 package as plain data: everything the manual gives the machine, the
schedule data that says which agent moves next, the reasons a step can stop, and the state after reset.
-/

namespace Sys2Proof.Machine

/-- A map from numbers kept as a list in rising order of its keys. -/
abbrev SMap (α : Type) := List (Nat × α)

/-! ### Registers and fibres (chapters 3 and 5) -/

/-- The operations that a float chain records (R69). -/
inductive ChainOp where
  | fadd | fsub | fmul | fma
  deriving DecidableEq, Repr

/-- One step of a float chain: operation, type, mode, .sub, the known operands and the place of the
baton among the operands (R69): 0 first, 1 second, 2 addend. -/
structure ChainStep where
  op  : ChainOp
  ty  : Ty
  rm  : BitVec 3
  sub : Bool
  k1  : Word
  k2  : Word
  pos : Nat
  deriving DecidableEq, Repr

/-- What has become of a record's producer: still in flight, a fault record with its cause, producing PC
and %tinfo, or a drained record (R72). `ord` is the producer's place in its heat's issue order. -/
inductive RecState where
  | pending
  | fault (cause : Byte) (pc : Pc) (info : DWord) (ord : Nat)
  | drained (pc : Pc) (reg : Nat) (ord : Nat)
  deriving DecidableEq, Repr

/-- A baton record (R67): tag, which 32-bit part of the result, scale a, offset b, chain; `left` names the heat that left it in an extended set which it has
released (R59). -/
structure Baton where
  tag   : BitVec 6
  part  : Nat
  a     : Word
  b     : Word
  chain : List ChainStep
  st    : RecState
  left  : Option Nat := none
  deriving DecidableEq, Repr

/-- A register slot: a value, or the record of one still in flight (R67). -/
inductive Slot where
  | val (v : Word)
  | bat (r : Baton)
  deriving DecidableEq, Repr

/-- A fibre (R28, R31): program counter, wait on a mask (R37), window base (R55), its base-set slots
(R57), seed (R78), handler flag and resume address (R352); `last` is the heat's issue-slot count at which it last issued (R35), `waits` says that a blocking use of its batch
waits and has been counted (R318). -/
structure Fibre where
  pc      : Pc
  waitOn  : Option Nat
  win     : Nat
  regs    : List Slot
  seed    : Word
  handler : Bool
  epc     : DWord
  last    : Nat
  waits   : Bool := false
  deriving DecidableEq, Repr

/-- What an in-flight access delivers to one part of one fibre's destination (R66, R71). -/
inductive Deliv where
  | words (ws : List Word)
  | fault (cause : Byte) (info : DWord)
  deriving DecidableEq, Repr

/-- What an in-flight access still waits for before it is performed: nothing (performed, the value is on
its way); a copy channel's pointer (R232 .cpy); the array's entries ahead that claim the accumulator row, up to the last of them (R305); a translation (R342);
an earlier load of its fibre that has not been performed (R126, R135). -/
inductive Waits where
  | arrival
  | translate
  | order
  | channel (chan : Nat) (target : Word)
  | claim (ahead : Nat) (row : Nat) (col : Nat)
  deriving DecidableEq, Repr

/-- One fibre's share of an in-flight access: fibre slot, first destination slot, address, index, for a .cpy load its logical channel and target (R73, R232),
and the delivery once performed. -/
structure FlightElem where
  fibre : Nat
  reg   : Nat
  ea    : DWord
  index : Word
  cpy   : Option (Nat × Word) := none
  waits : Waits
  deliv : Deliv
  deriving DecidableEq, Repr

/-- The producers of batons (R66). -/
inductive Producer where
  | load | ldx | atomic | accrd | fifoGet
  deriving DecidableEq, Repr

/-- An access whose data has not arrived (R66, R67): its tag, producer, type, modifiers and PC, and the lines whose read counts it has counted (R111). -/
structure Flight where
  tag   : BitVec 6
  ord   : Nat
  kind  : Producer
  pc    : Pc
  ty    : Ty
  rs    : BitVec 3
  acq   : Bool
  vol   : Bool
  rc    : Nat
  hits  : List Nat := []
  elems : List FlightElem
  deriving DecidableEq, Repr

/-- A QPACK of a chunk of a PHASE page that its home has still to perform (R280): the chunk's physical address, the index and the word of
its format, the elements that it counted as saturated, and the bytes that it wrote, the rind's among them. -/
structure Pack where
  base  : Nat
  fmt   : Nat
  word  : Word
  sat   : Nat
  bytes : List (Nat × Byte)
  deriving DecidableEq, Repr

/-- One byte of a PHASE write set (R127): its address, value, OWNER tag, and the PC of the store; the first byte of a rind carries the QPACK that
wrote it. -/
structure WsByte where
  pa    : Nat
  byte  : Byte
  owner : BitVec 16
  pc    : Pc
  pack  : Option Pack := none
  deriving DecidableEq, Repr

/-- One byte published on a PHASE page to fewer agents than the device: the writers and readers that it
happens before (R127, R138, R139); `amo` is the result of an atomic performed near the team (R136), `sq` are the squads to which a
later release at .sq has passed a byte of the team (R123, R139); of a byte published beyond its team, the teams. -/
structure LayerByte where
  pa    : Nat
  byte  : Byte
  seen  : List UnitRef
  pc    : Pc
  amo   : Bool := false
  pack  : Option Pack := none
  sq    : List Nat := []
  deriving DecidableEq, Repr

/-- A pending TRG.ARM (R256, R257). -/
structure Arm where
  trig : Nat
  at_  : Word
  deriving DecidableEq, Repr

/-- A BAR.WAIT that waits: its PC, its object's generic address, the parity it waits out, and whether a completion has
woken it (R247). -/
structure BarWait where
  pc    : Pc
  obj   : Nat
  par   : Bool
  woken : Bool
  deriving DecidableEq, Repr

/-- A heat, or the pacer program as a heat of one fibre (R28, R36, R39, R63, R139, R352): `age` orders the active set, `since` and `sinceAt`
say in what order and at what time it entered the active or the pending set; `long` says that it waits on a long-latency dependence, `ready` since
when it has been ready. -/
structure Heat where
  squad   : Nat
  idx     : Nat
  track   : Nat
  fibres  : List (Option Fibre)
  masks   : List Word
  active  : Bool
  age     : Nat
  since   : Nat
  sinceAt : Nat
  ready   : Option Nat := none
  run     : Nat
  issued  : Nat
  flights : List Flight
  ws      : List WsByte
  unacked : Nat
  arm     : Option Arm
  bars    : List BarWait
  tcause  : Word
  tpc     : DWord
  tinfo   : DWord
  waiting : Bool
  long    : Bool
  tried   : Bool
  deriving DecidableEq, Repr

/-! ### Storage of a cluster and a team (chapters 9, 16, 18) -/

/-- Mode of an SRAM bank (R105). -/
inductive BankMode where
  | cache | scratch | fifo
  deriving DecidableEq, Repr

/-- A FIFO bound to a register number of a team (R248). -/
structure Fifo where
  team  : Nat
  reg   : Nat
  ty    : Ty
  elems : List DWord
  opened : Nat
  deriving DecidableEq, Repr

/-- A bank: its mode, whether placement switched it (R106), and its FIFO when mapped. -/
structure Bank where
  mode     : BankMode
  placed   : Bool
  fifo     : Option Fifo
  deriving DecidableEq, Repr

/-- A tensor record as read (Table 9.6). -/
structure TRec where
  grid   : Option DWord
  oobt   : Bool
  rank   : Nat
  ty     : Ty
  ext    : List Nat
  stride : List Nat
  dim    : List Nat
  base   : Nat
  deriving DecidableEq, Repr

/-- One side of a copy or transfer: a linear range or a tile of a record at an origin. -/
inductive Side where
  | linear (addr : DWord)
  | tile (r : TRec) (origin : List Nat)
  deriving DecidableEq, Repr

/-- Modes of CPY (Table 16.8). -/
inductive CopyMode where
  | linear | tile | untile | deq | quant
  deriving DecidableEq, Repr

/-- A barrier link of a copy: object offset and parity (Table 16.8). -/
structure BarLink where
  off    : Nat
  parity : Bool
  deriving DecidableEq, Repr

/-- A copy (R251 to R254): sides, destination byte count, bytes written, those that the homes have acknowledged, the cycle at which the last lease on
the others expires (R129), the fibre that supplied its operands, the page whose translation holds it, whether it runs, the STREAM granules it has
written, and the chunks it has converted. -/
structure Copy where
  mode   : CopyMode
  ty     : Ty
  rs     : BitVec 3
  dst    : Side
  src    : Side
  total  : Nat
  done   : Nat
  acked  : Nat
  till   : Nat
  bar    : Option BarLink
  u      : UnitRef
  fibre  : Nat
  pc     : Pc
  seed   : Word
  held   : Option Nat
  started : Bool
  grans  : List Nat
  chunks : List Nat
  deriving DecidableEq, Repr

/-- A copy channel (R108, R109, R254). -/
structure Chan where
  owner : Option Nat
  w     : Word
  err   : Bool
  queue : List Copy
  deriving DecidableEq, Repr

/-- A place-table entry (R118): the physical unit number when the entry is valid. -/
abbrev Place := Option Nat

/-- A cluster of a compute die (R16, R105, R108, R118, R256), its spare channel included (R390); `pacer` is the team that holds its pacer (R43), `rows`
its bank repair table (R390), `unit` the physical cluster whose contents these are (R391). -/
structure Cluster where
  banks   : List Bank
  chans   : List Chan
  trigs   : List Word
  bankPl  : List Place
  chanPl  : List Place
  trigPl  : List Place
  pacer   : Option Nat
  saving  : Option Nat
  rows    : SMap Nat
  unit    : Place := none
  deriving DecidableEq, Repr

/-- Part of an allocation that lies in one bank (R106). -/
structure Seg where
  bank : Nat
  size : Nat
  deriving DecidableEq, Repr

/-- A record bound to an operand slot, with its higher origins (R293). -/
structure Bound where
  r  : TRec
  o2 : Nat
  o3 : Nat
  o4 : Nat
  deriving DecidableEq, Repr

/-- A barrier link of an MXMA (R298). -/
inductive MxLink where
  | none
  | wt (addr : DWord) (parity : Bool)
  | ar (addr : DWord)
  deriving DecidableEq, Repr

/-- What an array entry does: an MXMA (R295) or an MXZERO (R300). -/
inductive MxWork where
  | mma (n : Nat) (k : Nat) (a : Bound) (b : Bound) (ax0 : Nat) (ax1 : Nat) (bx0 : Nat) (bx1 : Nat) (sub : Bool) (link : MxLink) (fence : Bool)
  | zero
  deriving DecidableEq, Repr

/-- An exact number or a special (R74, R83): NaN, an infinity, or (-1)^neg x mant x 2^exp. -/
inductive Fp where
  | nan
  | inf (neg : Bool)
  | fin (neg : Bool) (mant : Nat) (exp : Int)
  deriving DecidableEq, Repr

/-- A quantised chunk as a fetch has read it: its physical address, its bytes, and the lines of it that are pinned, those of elements (R92, R294). -/
structure Image where
  base   : Nat
  bytes  : List Byte
  pinned : List Nat
  deriving DecidableEq, Repr

/-- A K-chunk whose operands have been fetched (R294): A by row, B by k, the lines pinned for it with their bytes, and the quantised chunks of which they
are lines. -/
structure Chunk where
  a     : List (List Fp)
  b     : List (List Fp)
  lines : List (Nat × List Byte)
  images : List Image := []
  deriving DecidableEq, Repr

/-- An entry of the array queue (R296, R300) with the chunks applied (R307), the chunks fetched and the
operand values of the fetched chunks, and the translation fault that holds its fetch. -/
structure MxEntry where
  row0    : Nat
  rows    : Nat
  work    : MxWork
  pc      : Pc
  applied : Nat
  chunks  : List Chunk
  held    : Option Nat
  stop    : Option (Byte × DWord)
  deriving DecidableEq, Repr

/-- Kinds of transfer operation (R308). -/
inductive XferWork where
  | tile (src : TRec) (dst : TRec) (so : List Nat) (dor : List Nat) (launch : Option DWord)
  | coll (loc : TRec) (out : TRec) (origin : List Nat) (op : Nat) (comp : Nat) (thr : Nat) (gen : Nat)
  | task (addr : DWord) (len : Nat) (key : Nat)
  deriving DecidableEq, Repr

/-- Where a transfer operation stands (R257, R308, R384). -/
inductive XferState where
  | armed (a : Arm)
  | timed
  | started
  | sent
  | waitBuffer
  | running
  deriving DecidableEq, Repr

/-- A transfer operation not yet complete (R308 to R314): elements moved or bytes processed, output elements written, the
contributions present, the members that have completed, the page that holds it, the page last asked for with its requests, and since when a request
waits to be made (R343),
the STREAM granules written, the cycle at which the last lease on what it wrote expires (R129), and the expander's answer; of a collective the elements of
the local tile read so far, the members whose entries agree with this one (R377) and its place in the order of arrival (R384), of a task packet the port
through which it was sent. -/
structure Xfer where
  handle : Word
  work   : XferWork
  st     : XferState
  trg    : Option Nat
  u      : UnitRef
  fibre  : Nat
  pc     : Pc
  done   : Nat
  wrote  : Nat
  contribs : List (Nat × TileStream)
  complete : List Nat
  held   : Option Nat
  asked  : Nat × Nat
  asks   : Option Nat := none
  grans  : List Nat
  till   : Nat
  answer : Option (Option Byte)
  part   : List (BitVec 128) := []
  agreed : List Nat := []
  order  : Nat := 0
  port   : Option Nat := none
  deriving DecidableEq, Repr

/-- A deferred trap queued for a team (R351, R353): cause, inner cause, PC, information, whether the pacer
started the work, and the heat it is due to. -/
structure DTrap where
  cause : Byte
  inner : Byte
  pc    : Pc
  info  : DWord
  src   : Option Who
  fibre : Nat := 0
  deriving DecidableEq, Repr

/-- An extended set of a heat pair (R58 to R60): the lower heat index, holder, waiter, the PC of the XLOCK at which a batch of the waiter stands, and the
registers v128 to v255 of each fibre slot. -/
structure XSet where
  squad  : Nat
  low    : Nat
  holder : Option Nat
  waiter : Option Nat
  waitAt : Pc := 0
  regs   : List (List Slot)
  deriving DecidableEq, Repr

/-- Life of a team (R29, R48, R347). -/
inductive TeamSt where
  | resident | saved | retired
  deriving DecidableEq, Repr

/-- Replay and await records of a frame (Table 22.5): the unit and the flight they complete; `await`
holds the kinds 1 to 3 of R349. -/
inductive FrameRec where
  | replay (u : UnitRef) (tag : BitVec 6) (fibre : Nat)
  | await (u : UnitRef) (tag : BitVec 6) (fibre : Nat) (got : Option Arrival)
  deriving DecidableEq, Repr

/-- Who waits for a page (R342, R344): the load of a record, an instruction of a unit that is to be reissued, or an engine. -/
inductive PageUser where
  | load (who : Who) (tag : BitVec 6) (fibre : Nat)
  | issue (who : Who) (pc : Pc)
  | copy (chan : Nat)
  | xfer (handle : Word)
  | tiles
  deriving DecidableEq, Repr

/-- A page a saved team waits for (R343): 4 KiB page of a context, requests made, whether it has failed or come, and who waits for it. -/
structure PageReq where
  page   : Nat
  tries  : Nat
  failed : Bool
  done   : Bool
  users  : List PageUser
  deriving DecidableEq, Repr

/-- The clocks at a save (R399): the die clock, the hub's, how often the die clock had started, and for a team that has migrated the time of its
journey. -/
structure SavedClocks where
  die    : Nat
  hub    : Nat
  starts : Nat
  away   : Option Nat := none
  deriving DecidableEq, Repr

/-- A team (R28, R29, R41 to R44, R49). -/
structure Team where
  id      : Nat
  ctx     : Nat
  meet    : Nat
  field   : Nat
  index   : Nat
  slotno  : Nat
  cl      : ClusterRef
  cores   : List Nat
  st      : TeamSt
  base    : Nat
  accrows : Nat
  scratch : Nat
  cshared : Nat
  xregs   : Bool
  ps      : Nat
  privbase : Nat
  heats   : List Heat
  pacer   : Option Heat
  hasPacer : Bool
  leader  : Bool
  scrMem  : List (List Host.Cell)
  scrSegs : List (List Seg)
  cshMem  : List Host.Cell
  cshSegs : List Seg
  acc     : SMap Word
  awb     : Nat
  awl     : Nat
  slots   : List (Option Bound)
  queue   : List MxEntry
  fenced  : Bool
  mxErr   : Bool
  counters : List Nat
  newest  : Word
  status  : List (Word × Word)
  xfers   : List Xfer
  dtraps  : List DTrap
  lost    : Nat
  xsets   : List XSet
  sqLayer : List (List LayerByte)
  tmLayer : List LayerByte
  budgetTrap : Bool
  frame   : List FrameRec
  chans   : List (Nat × Chan)
  fifos   : List (Nat × Fifo)
  pages   : List PageReq
  frameAt : Option Nat := none
  clocks  : Option SavedClocks
  gen     : Word
  deriving DecidableEq, Repr

/-! ### Work and admission (chapters 3 and 20) -/

/-- A field of a meet (Table 20.3 with its kernel entry, R181). -/
structure Field where
  part     : Nat
  teams    : Nat
  squads   : Nat
  heats    : Nat
  fibres   : Nat
  text     : Nat
  privbase : Nat
  ps       : Nat
  entry    : Nat
  pentry   : Option Nat
  regs     : Nat
  xregs    : Bool
  accrows  : Nat
  scratch  : Nat
  cshared  : Nat
  handed   : Nat
  handouts : List (Nat × Nat × Nat)
  placed   : Nat
  completed : Nat
  deriving DecidableEq, Repr

/-- How a meet ends (R323). -/
inductive Outcome where
  | completed | rejected | overrun | aborted | faulted
  deriving DecidableEq, Repr

/-- A deadline as a die holds it (R330): the keeper it belongs to, the die on whose clock it stands (the keeper's own, or that of the
die that has adopted its role, R403), and the time there. -/
structure KeeperDl where
  keeper : Nat
  on     : Nat
  dl     : Int
  commit : Bool
  deriving DecidableEq, Repr

/-- Where a meet stands (R47, R50). -/
inductive MeetSt where
  | deciding | admitted | launched | terminated (o : Outcome) (code : Byte) | completed
  deriving DecidableEq, Repr

/-- A meet (R28, R47, R50, R322 to R338): `rhos` are the round trips that the home die measured to the other keepers (R330), `mute` says that a function-level reset has taken its signal away (R401). -/
structure Meet where
  id      : Nat
  ctx     : Nat
  queue   : Nat
  tenant  : Nat
  seq     : Word
  signal  : Nat
  args    : Nat
  budget  : Nat
  deadline : Nat
  t0      : Nat
  home    : Nat
  st      : MeetSt
  fields  : List Field
  dls     : List KeeperDl
  rhos    : List (Nat × Nat) := []
  sums    : List (Nat × Nat)
  reports : List (Nat × Nat)
  graced  : Bool
  late    : Bool
  mute    : Bool
  task    : Option (Nat × Word)
  deriving DecidableEq, Repr

/-- An entry under decision (R327, R329): the candidate meet, keepers asked with the time of the home die's clock at which each request was sent (R330),
and the answers. -/
structure Cand where
  meet    : Nat
  asked   : List (Nat × Nat)
  answered : List (Nat × Nat)
  deriving DecidableEq, Repr

/-- A queue (R321, R324, R325). -/
structure Queue where
  id     : Nat
  desc   : QueueDesc
  head   : Word
  tail   : Word
  errors : Nat
  noted  : Option Word
  cand   : Option Cand
  revoked : Bool
  server : Nat
  deriving DecidableEq, Repr

/-- A tenant (R331, R332). -/
structure Tenant where
  id     : Nat
  rate   : Nat
  tokens : Nat
  debt   : Nat
  policy : Policy
  lend   : Bool
  borrow : Bool
  parts  : List Nat
  revoked : Bool
  deriving DecidableEq, Repr

/-- A partition (R30, R328); `cap` is the capacity that the hypervisor has set, if it has. -/
structure Partition where
  id    : Nat
  locs  : List ClusterRef
  whole : Bool
  dies  : List Nat
  cap   : Option Nat
  util  : Nat
  deriving DecidableEq, Repr

/-- A group-table entry with the last generation of each CID (R377). -/
structure Group where
  entry : GroupEntry
  last  : SMap Nat
  open_ : List (Nat × List Nat)
  deriving DecidableEq, Repr

/-- What the hub holds of an arriving contribution before its instance starts (R384 step 2). -/
structure Held where
  group  : Nat
  cid    : Nat
  gen    : Nat
  member : Nat
  msg    : CollMsg
  deriving DecidableEq, Repr

/-- A line of a context's error log (R352, R355). -/
structure ErrLine where
  cause : Byte
  info  : DWord
  deriving DecidableEq, Repr

/-- A frame pool: a range of physical memory of a die (R346). -/
structure Pool where
  die  : Nat
  base : Nat
  size : Nat
  deriving DecidableEq, Repr

/-- A context (R80, R168, R315, R343, R345, R346, R377, R379); `driver` is the driver to which the hypervisor has bound it. -/
structure Context where
  id     : Nat
  pasid  : Nat
  vf     : Nat
  driver : Nat := 0
  root   : Nat
  root2  : Option Nat
  tvec   : DWord
  fmts   : List Word
  gen    : Word
  killed : Bool
  groups : SMap Group
  held   : List Held
  peers  : List (Nat × Nat)
  pools  : List Pool
  errlog : List ErrLine
  due    : List DTrap
  deriving DecidableEq, Repr

/-- What the host and other observers outside the package see, oldest first. -/
inductive HostEvent where
  | signal (queue : Nat) (word : DWord)
  | signalDropped (queue : Nat)
  | headFailure (queue : Nat)
  | pageRequest (ctx : Nat) (gen : Word) (page : Nat)
  | stage2Fault (ctx : Nat) (gen : Word) (page : Nat)
  | shootdownDone (ctx : Nat)
  | command (status : Byte)
  | interrupt (die : Nat) (monitor : Nat)
  | thermal (die : Nat) (sensor : Nat) (reading : Int)
  | reading (a b : Int)
  | faulted (ctx : Nat) (cause : Byte)
  | coreFailed (die : Nat) (core : Nat)
  | counterLoss (die : Nat) (loc : Nat)
  | errorResponse
  | data (bytes : List Byte)
  | poisoned (bytes : List Byte)
  | measurements (ms : List Nat) (sig : DWord)
  | birsp (line : Nat)
  | bisnp (line : Nat) (host : Nat)
  | unitError (die : Nat) (line : Nat)
  | peerWrite (device : Nat) (ctx : Nat) (va : Nat) (bytes : List Byte)
  | collSend (ctx group cid gen : Nat) (msg : CollMsg)
  | task (tenant : Nat) (counter : Nat) (code : DWord)
  | taskAnswer (session : Word) (counter : Nat) (cause : Option Byte)
  deriving DecidableEq, Repr

/-! ### Coherence (chapters 11 and 24) -/

/-- Where a copy of a line is held (Table 9.2). -/
inductive Level where
  | l0 (cl : ClusterRef) (core : Nat)
  | clus (cl : ClusterRef)
  | l2 (die : Nat)
  deriving DecidableEq, Repr

/-- A cached line: level, line number, class, bytes, dirty bytes, lease expiry, read count, OWNER tag, and for its replacement its cache policy,
its way, and when it was last used (R103, R104); `chunk` is the chunk that a converting write dirtied with it, whose lines reach the home together (R92). -/
structure CLine where
  level : Level
  line  : Nat
  cls   : PageClass
  bytes : List Byte
  dirty : List Bool
  lease : Nat
  rc    : Nat
  owner : BitVec 16
  policy : Nat
  way   : Nat
  used  : Nat
  chunk : Option (Nat × Nat) := none
  deriving DecidableEq, Repr

/-- A line of a die's own memory in its L2 (R103): what the line holds is what its home has. -/
structure Tag where
  die    : Nat
  line   : Nat
  policy : Nat
  way    : Nat
  used   : Nat
  deriving DecidableEq, Repr

/-- One location of a U line (R361): cluster, location, type, operation and contribution. -/
structure ULine where
  cl   : ClusterRef
  pa   : Nat
  ty   : Ty
  op   : Nat
  val  : DWord
  deriving DecidableEq, Repr

/-- The agents whose copies a tracking structure records (Table 24.1), and the latest lease expiry of a region (R358). -/
structure Track where
  region  : Nat
  holders : List Nat
  bcast   : Bool
  lease   : Nat := 0
  deriving DecidableEq, Repr

/-- A SEQ write that waits for the acknowledgement of its invalidations (R359): the unit or the requester outside that makes it, the PC of the
store, the holders still to answer, what the host learns once it is performed, the virtual address of a unit's store (R341), whether its data is poisoned
(R374), the QPACK whose chunk it writes, if it is one (R280), and the die whose schedule core makes it (R339). -/
structure Posted where
  id     : Nat
  by_    : Option UnitRef
  pc     : Pc
  src    : Option Requester
  pa     : Nat
  bytes  : List Byte
  left   : List Nat
  tells  : List HostEvent
  va     : Nat := 0
  poison : Bool := false
  pack   : Option Pack := none
  cp     : Option Nat := none
  deriving DecidableEq, Repr

/-- An invalidation on its way to peer devices, ahead of a write to the range (R359) or for a recalled entry (R357): the peers still to answer.
With none left it stands until the write or a peer's next read: no peer holds the range. -/
structure Inval where
  id   : Nat
  base : Nat
  size : Nat
  left : List Nat
  deriving DecidableEq, Repr

/-- A published write that its home acknowledges when the leases on it have expired (R129): the unit that owes it, and the cycle. -/
structure HeldPub where
  u    : UnitRef
  till : Nat
  deriving DecidableEq, Repr

/-- A class change at a home (R143): old class, new class, accesses held. -/
structure ClassChg where
  page : Nat
  old  : PageClass
  new  : PageClass
  deriving DecidableEq, Repr

/-- A cached translation (R340): structure, context, page base and size, the leaf entry. -/
structure TlbEntry where
  tlb  : TlbId
  ctx  : Nat
  base : Nat
  size : Nat
  leaf : BitVec 128
  deriving DecidableEq, Repr

/-- What a driver's command performs (R168): BANKCFG or AWSET of a team on a cluster, or SYSWR of team state. -/
inductive CommandOp where
  | bankcfg (cl : ClusterRef)
  | awset (cl : ClusterRef)
  | syswr
  deriving DecidableEq, Repr

/-- A command of a driver on a team, with the instruction's operand fields (R168); a BANKCFG of a team's leader that waits stands among them in its order of
arrival (R107), with its unit and its PC. -/
structure DriverCommand where
  driver : Nat
  ctx    : Nat
  team   : Nat
  op     : CommandOp
  e      : Ext
  leader : Option (UnitRef × Pc) := none
  deriving DecidableEq, Repr

/-- A shootdown that waits for the accesses translated through what it dropped (R341): its context, and the posted writes among them. -/
structure Shoot where
  ctx  : Nat
  left : List Nat
  deriving DecidableEq, Repr

/-- To whom a release has passed a STREAM write: everybody, the teams of a die, a team, a squad of a team (Table 11.1); or those who observe the write
pointer of a copy channel (R110, R131). -/
inductive Audience where
  | everybody
  | pointer (cl : ClusterRef) (chan : Nat)
  | die (d : Nat)
  | team (id : Nat)
  | squad (id : Nat) (q : Nat)
  deriving DecidableEq, Repr

/-- A release that covers a write: to whom it reaches, and the unit that made it with its cluster, none for one from outside the clusters (R123). -/
structure Offer where
  toward : Audience
  by_    : Option (UnitRef × ClusterRef)
  deriving DecidableEq, Repr

/-- Who reads (R120): a unit, or the engines that translate through a structure of their own. -/
inductive Agent where
  | unit (u : UnitRef)
  | engine (t : TlbId)
  deriving DecidableEq, Repr

/-- Old contents of a STREAM part that an agent may still read: those that read the new ones, and those to whom a release has passed the write, which
read the new ones from their next acquire on (R131); `whole` is the chunk that a converting write replaced with it, which is read whole (R92). -/
structure OldPart where
  pa    : Nat
  bytes : List Byte
  seen  : List Agent
  offers : List Offer
  whole : Option Nat := none
  deriving DecidableEq, Repr

/-- A back-invalidation on its way (R366): line, host, and the requests of that host held until its BIRsp. -/
structure Snoop where
  line    : Nat
  host    : Nat
  held    : List ExtAccess
  deriving DecidableEq, Repr

/-! ### Dies, hub and reliability (chapters 1, 24, 28) -/

/-- Power states (R393). -/
inductive Power where
  | active | park | doze | off
  deriving DecidableEq, Repr

/-- A port window (R363); `stale` says that its device has been lost since it was written (R376). -/
structure Window where
  base   : Nat
  size   : Nat
  target : PortTarget
  stale  : Bool
  deriving DecidableEq, Repr

/-- A key slot (R369, R371). -/
structure KeySlot where
  ctx      : Nat
  expander : Nat
  session  : Word
  key      : BitVec 256
  counter  : Nat
  deriving DecidableEq, Repr

/-- A temperature sensor, a droop monitor and a process monitor (R392, R397). -/
structure TempMon where
  reading : Int
  warn    : Option Int
  trip    : Int
  deriving DecidableEq, Repr

structure DroopMon where
  count   : Nat
  deepest : Nat
  depth   : Option Nat
  warn    : Option Nat
  deriving DecidableEq, Repr

structure ProcMon where
  count : Nat
  warn  : Option Nat
  deriving DecidableEq, Repr

/-- A command-processor core (Table 1.3, R402, R403). -/
structure CpCore where
  mailbox : List (Nat × BitVec 512)
  failed  : Bool
  deriving DecidableEq, Repr

/-- A DICE layer (R405): its measurement, security version, fused rollback counter and compound device identifier; that of the boot ROM is the unique
device secret. -/
structure Layer where
  measurement : Nat
  version     : BitVec 32
  rollback    : BitVec 32
  cdi         : BitVec 256
  deriving DecidableEq, Repr

/-- A compute die (R14 to R17, R104, R118, R363, R369, R390, R392 to R403): `starts` counts how often its clock has started again, `part` is what its
arithmetic clock at a slower step has of its next cycle (R395), and `closing` says that its warm reset has begun (R398). -/
structure Die where
  clock    : Nat
  starts   : Nat := 0
  power    : Power
  step     : Nat
  part     : Nat := 0
  waypart  : List (BitVec 16)
  windows  : List (Option Window)
  keys     : List (Option KeySlot)
  clusPl   : List Place
  temps    : List TempMon
  droops   : List DroopMon
  procs    : List ProcMon
  cps      : List CpCore
  beat     : Nat
  beatAt   : Nat
  offline  : Bool
  closing  : Bool := false
  adopter  : Option Nat
  dozed    : List (List Word)
  slicePl  : SMap Nat
  hbmPl    : SMap Nat
  lanePl   : SMap Nat
  clusters : List Cluster
  deriving DecidableEq, Repr

/-- A dynamic-capacity extent of the expander (R365). -/
structure Extent where
  tenant : Nat
  host   : Nat
  dpa    : Nat
  size   : Nat
  deriving DecidableEq, Repr

/-- A registered task image (R372, R373): its tenant and hash, the context bound to the tenant, its kernel entry and text, where its argument
block goes and its partition. -/
structure TaskImage where
  tenant : Nat
  hash   : DWord
  ctx    : Nat
  kent   : Nat
  text   : Nat
  args   : Nat
  part   : Nat
  deriving DecidableEq, Repr

/-- A packet sent to an expander (R371): slot's session data, header fields and the tag carried. -/
structure Packet where
  team    : Nat
  handle  : Word
  die     : Nat
  slot    : Nat
  expander : Nat
  session : Word
  counter : Nat
  bytes   : List Byte
  tag     : BitVec 256
  deriving DecidableEq, Repr

/-- A session that is live at an expander (R369, R371): its tenant, and its keys with the first packet counter that each serves, the newest first. -/
structure Session where
  id     : Word
  tenant : Nat
  keys   : List (Nat × BitVec 256)
  deriving DecidableEq, Repr

/-- An expander as far as the manual describes it (R364 to R373): its dynamic-capacity regions and HDM decoders, the host number under which it
knows this package, extents, images, last accepted counter of each session, sessions live at the expander, packets on their way. -/
structure Expander where
  regions : List (Option (Nat × Nat))
  decoders : List (Option (Nat × Nat))
  node    : Nat
  extents : List Extent
  images  : List TaskImage
  accepted : List (Word × Nat)
  live    : List Session
  arriving : List Packet
  deriving DecidableEq, Repr

/-- The two products (R1). -/
inductive Product where
  | ks4n | ks4x
  deriving DecidableEq, Repr

/-- The issue in hand: the unit, the executing batch's fibre slots, the address and byte length of the
instruction, its first word, and, when a pre-translated fetch failed its page request, nothing else. -/
structure Issue where
  u     : UnitRef
  batch : List Nat
  pc    : Pc
  len   : Nat
  word0 : Word
  deriving DecidableEq, Repr

/-- Time that one step takes, as plain data: arithmetic cycles, as a die at S0 counts them, and the nanoseconds that each die clock counts, by die identifier, the hub's die 4
among them: the clocks have no defined relation (R12 to R14). -/
structure Pace where
  cycles : Nat
  ns     : List Nat
  deriving DecidableEq, Repr

/-- The state of one package. The fields `agenda`, `oracle`, `pace`, `turn`, `cur` and `freeCtr`, and `tried` of a heat, are
the model's own schedule data (log entries 2 and 6): `agenda` names the events to come, `oracle` answers the choices the
manual leaves open (0 when it is empty), `turn` the unit whose turn to issue comes next. `wide` holds the bytes of PHASE pages that releases at .di have
published to the agents of a die, and those at .dv to the agents of the package, and that no wider release has published since (R121, R127). -/
structure State where
  product  : Product
  mem      : List Host.Cell
  poison   : List Nat
  classes  : SMap PageClass
  changes  : List ClassChg
  granules : List Nat
  oldParts : List OldPart
  stripe   : Nat
  lines    : List CLine
  slices   : List Tag
  uses     : Nat
  missed   : Nat
  ulines   : List ULine
  peerU    : List (Nat × Nat)
  wide     : List (Option Nat × LayerByte)
  filters  : SMap (List Track)
  dirs     : SMap (List Track)
  portDir  : List Track
  peerTrk  : SMap (List Track)
  snoopFl  : List Track
  snoops   : List Snoop
  posted   : List Posted
  invals   : List Inval
  outq     : List ExtAccess
  pubs     : List HeldPub
  tlb      : List TlbEntry
  shoots   : List Shoot
  commands : List DriverCommand
  now      : Nat
  hubClock : Nat
  lapNs    : Nat
  lapNew   : Nat
  nextLap  : Nat
  pool     : Nat
  partPl   : List Place
  parts    : List Partition
  tenants  : List Tenant
  queues   : List Queue
  notify   : Nat
  ctxs     : List Context
  meets    : List Meet
  teams    : List Team
  nextId   : Nat
  dies     : List Die
  owners   : SMap Nat
  collBytes : Nat
  expander : Expander
  beyond   : List Expander
  viral    : List Nat
  gone     : List PortTarget
  layers   : List Layer
  halted   : Bool
  host     : List HostEvent
  agenda   : List Instr
  oracle   : List Nat
  pace     : Pace
  turn     : Nat
  cur      : Issue
  freeCtr  : Nat
  deriving DecidableEq, Repr

/-- Reasons the machine stops with a fault: there is none. Every trap, error and halt of the manual is a next state; nobody
raises a fault, so nothing is safe or unsafe about one. -/
inductive Fault
  deriving DecidableEq, Repr

/-- Reasons an instruction has no meaning here. -/
inductive Refusal where
  /-- Raised by an arm of `exec` whose instruction has no meaning yet. Safe: nothing can be proved of it. -/
  | notModelled (mnemonic : String)
  deriving DecidableEq, Repr

/-! ### Reset -/

/-- A bank after cluster reset (R105). -/
def Bank.reset : Bank := { mode := .cache, placed := false, fifo := none }

/-- A free copy channel (R108, R109). -/
def Chan.reset : Chan := { owner := none, w := 0, err := false, queue := [] }

/-- A cluster after cluster reset (R105, R256); place tables hold nothing (log entry 4). -/
def Cluster.reset : Cluster where
  banks := List.replicate 12 Bank.reset
  chans := List.replicate 9 Chan.reset
  trigs := List.replicate 64 0
  bankPl := List.replicate 12 none
  chanPl := List.replicate 8 none
  trigPl := List.replicate 64 none
  pacer := none
  saving := none
  rows := []

/-- A compute die after reset; the values the manual does not give are those of log entry 4. -/
def Die.reset : Die where
  clock := 0
  power := .active
  step := 0
  waypart := List.replicate 8 0
  windows := List.replicate 16 none
  keys := List.replicate 64 none
  clusPl := List.replicate 24 none
  temps := List.replicate 48 { reading := 0, warn := none, trip := 880 }
  droops := List.replicate 32 { count := 0, deepest := 0, depth := none, warn := none }
  procs := List.replicate 16 { count := 0, warn := none }
  cps := List.replicate 8 { mailbox := [], failed := false }
  beat := 0
  beatAt := 0
  offline := false
  adopter := none
  dozed := []
  slicePl := []
  hbmPl := []
  lanePl := []
  clusters := List.replicate 24 Cluster.reset

/-- Compute dies of a product (R1). -/
def Product.dies : Product → Nat
  | .ks4n => 4
  | .ks4x => 2

/-- Bytes of memory that a compute die homes: 128 GiB of HBM4E (R21), 1.5 TiB of LPDDR 6 with every channel filled (R22, log entry 57). -/
def Product.dieBytes : Product → Nat
  | .ks4n => 2 ^ 37
  | .ks4x => 3 * 2 ^ 39

/-- An expander that nobody has configured. -/
def Expander.reset : Expander where
  regions := List.replicate 8 none
  decoders := List.replicate 8 none
  node := 0
  extents := []
  images := []
  accepted := []
  live := []
  arriving := []

/-- The layers as they boot (R405): the boot ROM holds the device secret, the hub's firmware follows it, and each die's firmware follows the hub's. -/
def bootLayers : List Layer → List Layer
  | rom :: hub :: cps =>
    let id := Config.deriveCdi Config.deviceSecret hub.measurement
    { rom with cdi := Config.deviceSecret } :: { hub with cdi := id } :: cps.map fun l => { l with cdi := Config.deriveCdi id l.measurement }
  | ls => ls

/-- The package of a product right after a cold reset (the notify pages are those of log entry 38): nothing is placed, nothing is admitted, memory lists nothing. -/
def State.resetOf (p : Product) : State where
  product := p
  mem := []
  poison := []
  classes := []
  changes := []
  granules := []
  oldParts := []
  stripe := 0
  lines := []
  slices := []
  uses := 0
  missed := 0
  ulines := []
  peerU := []
  wide := []
  filters := []
  dirs := []
  portDir := []
  peerTrk := []
  snoopFl := []
  snoops := []
  posted := []
  invals := []
  outq := []
  pubs := []
  tlb := []
  shoots := []
  commands := []
  now := 0
  hubClock := 0
  lapNs := 1000000
  lapNew := 1000000
  nextLap := 1000000
  pool := 0
  partPl := List.replicate 64 none
  parts := []
  tenants := []
  queues := []
  notify := 2 ^ 32 - 64
  ctxs := []
  meets := []
  teams := []
  nextId := 0
  dies := List.replicate p.dies Die.reset
  owners := []
  collBytes := 0
  expander := Expander.reset
  beyond := List.replicate 4 Expander.reset
  viral := []
  gone := []
  layers := bootLayers (List.replicate (2 + p.dies) { measurement := 0, version := 0, rollback := 0, cdi := 0 })
  halted := false
  host := []
  agenda := []
  oracle := []
  pace := { cycles := 0, ns := [] }
  turn := 0
  cur := { u := { team := 0, who := .pacer }, batch := [], pc := 0, len := 0, word0 := 0 }
  freeCtr := 0

/-- The machine right after reset (log entry 1: the KS4-N). -/
def State.reset : State := State.resetOf .ks4n

end Sys2Proof.Machine
end

