-- ==== Sys2Proof/Machine/Base.lean ====
section
/-!
DEFINITION. Plain-data maps and memory: sorted lists in one canonical form, little-endian words, and the
look-ups by number that every other file uses.
-/

namespace Sys2Proof.Machine

/-! ### Maps in rising order of their keys -/

/-- The value at a key. -/
def SMap.get? {α : Type} (m : SMap α) (k : Nat) : Option α :=
  match m with
  | [] => none
  | (j, v) :: r => if j = k then some v else SMap.get? r k

/-- Set the value at a key, keeping the order. -/
def SMap.set {α : Type} (m : SMap α) (k : Nat) (v : α) : SMap α :=
  match m with
  | [] => [(k, v)]
  | (j, w) :: r => if k < j then (k, v) :: (j, w) :: r else if j = k then (k, v) :: r else (j, w) :: SMap.set r k v

/-- Drop a key. -/
def SMap.del {α : Type} (m : SMap α) (k : Nat) : SMap α :=
  m.filter fun p => p.1 ≠ k

/-! ### Memory -/

/-- What an address that no cell lists reads as (log entry 3). -/
def Memory.unlisted : Byte := 0

/-- One byte of memory. -/
def Memory.get (m : List Host.Cell) (a : Nat) : Byte :=
  match m with
  | [] => Memory.unlisted
  | (k, v) :: r => if k = a then v else Memory.get r a

/-- Write one byte, keeping the canonical form: a byte equal to what an unlisted address reads as has no cell. -/
def Memory.set (m : List Host.Cell) (a : Nat) (b : Byte) : List Host.Cell :=
  match m with
  | [] => if b = Memory.unlisted then [] else [(a, b)]
  | (k, v) :: r =>
    if a < k then (if b = Memory.unlisted then (k, v) :: r else (a, b) :: (k, v) :: r)
    else if k = a then (if b = Memory.unlisted then r else (a, b) :: r)
    else (k, v) :: Memory.set r a b

/-- The canonical form above a bound: keys strictly rising, no cell at the unlisted value. -/
def Memory.wfFrom (lo : Nat) : List Host.Cell → Bool
  | [] => true
  | (k, v) :: r => decide (lo ≤ k) && decide (v ≠ Memory.unlisted) && Memory.wfFrom (k + 1) r

/-- The canonical form of a memory. -/
def Memory.wf (m : List Host.Cell) : Bool := Memory.wfFrom 0 m

/-- Bytes from an address upwards. -/
def Memory.read (m : List Host.Cell) (a : Nat) : Nat → List Byte
  | 0 => []
  | n + 1 => Memory.get m a :: Memory.read m (a + 1) n

/-- Write bytes from an address upwards. -/
def Memory.write (m : List Host.Cell) (a : Nat) : List Byte → List Host.Cell
  | [] => m
  | b :: bs => Memory.write (Memory.set m a b) (a + 1) bs

/-! ### Little-endian numbers -/

/-- The number that bytes hold, lowest byte first. -/
def leNat : List Byte → Nat
  | [] => 0
  | b :: bs => b.toNat + 256 * leNat bs

/-- The low n bytes of a number, lowest first. -/
def leBytes (v : Nat) : Nat → List Byte
  | 0 => []
  | n + 1 => BitVec.ofNat 8 v :: leBytes (v / 256) n

/-- Bits lo to lo + n - 1 of a number. -/
def bitsOf (v lo n : Nat) : Nat := v / 2 ^ lo % 2 ^ n

/-- A number of w bits read as two's complement (R5). -/
def toSigned (w v : Nat) : Int := if v % 2 ^ w < 2 ^ (w - 1) then ((v % 2 ^ w : Nat) : Int) else ((v % 2 ^ w : Nat) : Int) - 2 ^ w

/-- An integer modulo 2^w. -/
def wrap (w : Nat) (x : Int) : Nat := (x % 2 ^ w).toNat

/-- Sign-extend w bits to v bits. -/
def sext (w v x : Nat) : Nat := wrap v (toSigned w x)

/-- Ceiling of a quotient. -/
def ceilDiv (a b : Nat) : Nat := (a + b - 1) / b

/-- The low 64 bits of a number. -/
def dw (n : Nat) : DWord := BitVec.ofNat 64 n

/-- The low 32 bits of a number. -/
def wd (n : Nat) : Word := BitVec.ofNat 32 n

/-! ### Look-ups by number -/

/-- Ten times the frequency of a step in GHz (R395). -/
def stepRate (step : Nat) : Nat := [24, 22, 20, 18, 16, 14, 12, 10].getD step 24

/-- A team by its number. -/
def State.team? (s : State) (id : Nat) : Option Team := s.teams.find? fun t => t.id == id

/-- Put a team back. -/
def State.setTeam (s : State) (t : Team) : State :=
  { s with teams := s.teams.map fun u => if u.id = t.id then t else u }

/-- Change a team. -/
def State.updTeam (s : State) (id : Nat) (f : Team → Team) : State :=
  match s.team? id with
  | some t => s.setTeam (f t)
  | none => s

/-- A context by its number. -/
def State.ctx? (s : State) (id : Nat) : Option Context := s.ctxs.find? fun c => c.id == id

/-- Put a context back. -/
def State.setCtx (s : State) (c : Context) : State :=
  { s with ctxs := s.ctxs.map fun d => if d.id = c.id then c else d }

/-- A meet by its number. -/
def State.meet? (s : State) (id : Nat) : Option Meet := s.meets.find? fun m => m.id == id

/-- Put a meet back. -/
def State.setMeet (s : State) (m : Meet) : State :=
  { s with meets := s.meets.map fun n => if n.id = m.id then m else n }

/-- A queue by its number. -/
def State.queue? (s : State) (id : Nat) : Option Queue := s.queues.find? fun q => q.id == id

/-- Put a queue back. -/
def State.setQueue (s : State) (q : Queue) : State :=
  { s with queues := s.queues.map fun r => if r.id = q.id then q else r }

/-- A tenant by its number. -/
def State.tenant? (s : State) (id : Nat) : Option Tenant := s.tenants.find? fun t => t.id == id

/-- Put a tenant back. -/
def State.setTenant (s : State) (t : Tenant) : State :=
  { s with tenants := s.tenants.map fun u => if u.id = t.id then t else u }

/-- A partition by its number. -/
def State.part? (s : State) (id : Nat) : Option Partition := s.parts.find? fun p => p.id == id

/-- A compute die. -/
def State.die? (s : State) (d : Nat) : Option Die := s.dies[d]?

/-- How long n cycles of a die's arithmetic clock last at its step, in cycles of S0 (R13, R395). -/
def State.span (s : State) (d n : Nat) : Nat := ceilDiv (24 * n) (stepRate (((s.die? d).map Die.step).getD 0))

/-- Change a compute die. -/
def State.updDie (s : State) (d : Nat) (f : Die → Die) : State := { s with dies := s.dies.modify d f }

/-- A cluster. -/
def State.cluster? (s : State) (c : ClusterRef) : Option Cluster :=
  (s.die? c.die).bind fun d => d.clusters[c.loc]?

/-- Change a cluster. -/
def State.updCluster (s : State) (c : ClusterRef) (f : Cluster → Cluster) : State :=
  s.updDie c.die fun d => { d with clusters := d.clusters.modify c.loc f }

/-- The oldest answer to a choice the manual leaves open; 0 when none is given (log entry 2). -/
def State.choice (s : State) : Nat := s.oracle.headD 0

/-- Use that answer up. -/
def State.chosen (s : State) : State := { s with oracle := s.oracle.tail }

/-- A value the manual does not state, and the state in which the next one differs (log entry 6). -/
def State.free (s : State) : DWord × State := (Config.freeWord s.freeCtr, { s with freeCtr := s.freeCtr + 1 })

/-- Add an observation that the host makes. -/
def State.tell (s : State) (e : HostEvent) : State := { s with host := s.host ++ [e] }

/-- The device number of a cluster (R17). -/
def clusterNo (c : ClusterRef) : Nat := 24 * c.die + c.loc

end Sys2Proof.Machine
end

