-- ==== Sys2Proof/Machine/Float.lean ====
section
/-!
DEFINITION. Floating-point values (chapter 7): the standard formats, exact arithmetic on numbers and
specials, rounding once in a mode, and the functions of R270 and R271 to any precision.
-/

namespace Sys2Proof.Machine

/-- A standard format (Table 7.1): exponent bits, mantissa bits and bias. -/
structure FFmt where
  eb   : Nat
  mb   : Nat
  bias : Int
  deriving DecidableEq, Repr

/-- IEEE binary32 (Table 7.1). -/
def FFmt.f32 : FFmt := ⟨8, 23, 127⟩

/-- IEEE binary16 (Table 7.1). -/
def FFmt.f16 : FFmt := ⟨5, 10, 15⟩

/-- bfloat16 (Table 7.1). -/
def FFmt.bf16 : FFmt := ⟨8, 7, 127⟩

/-- scale24, the upper 24 bits of an f32 (R85). -/
def FFmt.scale24 : FFmt := ⟨8, 15, 127⟩

/-- The default NaN (Table 7.1). -/
def FFmt.nan (f : FFmt) : Nat := (2 ^ f.eb - 1) * 2 ^ f.mb + 2 ^ (f.mb - 1)

/-- The bits of an infinity. -/
def FFmt.infinity (f : FFmt) (neg : Bool) : Nat := (if neg then 2 ^ (f.eb + f.mb) else 0) + (2 ^ f.eb - 1) * 2 ^ f.mb

/-- The bits of the largest finite value of a sign. -/
def FFmt.largest (f : FFmt) (neg : Bool) : Nat := f.infinity neg - 1

/-- The value that bits of a format stand for. -/
def FFmt.read (f : FFmt) (bits : Nat) : Fp :=
  let neg := bitsOf bits (f.eb + f.mb) 1 = 1
  let e := bitsOf bits f.mb f.eb
  let m := bitsOf bits 0 f.mb
  if e = 2 ^ f.eb - 1 then (if m = 0 then .inf neg else .nan)
  else if e = 0 then .fin neg m (1 - f.bias - f.mb)
  else .fin neg (2 ^ f.mb + m) (e - f.bias - f.mb)

/-- A subnormal (or zero) pattern of a format. -/
def FFmt.tiny (f : FFmt) (bits : Nat) : Bool := bitsOf bits f.mb f.eb = 0

/-- The pattern read with subnormals flushed to a zero of their sign (R75). -/
def FFmt.flush (f : FFmt) (bits : Nat) : Nat := if f.tiny bits then bits / 2 ^ f.mb * 2 ^ f.mb else bits

/-! ### Rounding (R77, R78) -/

/-- Round the magnitude (m + d) x 2^e, 0 < d < 1 when sticky and d = 0 otherwise, to a multiple of 2^q in a mode
of Table 7.2; u is the number that SR drew. -/
def roundUnits (mode : Nat) (neg : Bool) (m : Nat) (e : Int) (sticky : Bool) (q : Int) (u : Nat) : Nat :=
  if q ≤ e then m * 2 ^ (e - q).toNat
  else
    let k := (q - e).toNat
    let n := m / 2 ^ k
    let r := m % 2 ^ k
    let up : Bool := match mode with
      | 0 => 2 ^ (k - 1) < r || (r = 2 ^ (k - 1) && (sticky || n % 2 = 1))
      | 1 => false
      | 2 => !neg && (r ≠ 0 || sticky)
      | 3 => neg && (r ≠ 0 || sticky)
      | _ => u < r * 2 ^ 32 / 2 ^ k
    if up then n + 1 else n

/-- The result of an overflow (R77). -/
def FFmt.overflow (f : FFmt) (mode : Nat) (neg : Bool) : Nat :=
  match mode with
  | 1 => f.largest neg
  | 2 => if neg then f.largest neg else f.infinity neg
  | 3 => if neg then f.infinity neg else f.largest neg
  | _ => f.infinity neg

/-- The bits of n x 2^q, where q is the format's unit at that magnitude. -/
def FFmt.pack (f : FFmt) (mode : Nat) (neg : Bool) (n : Nat) (q : Int) : Nat :=
  let s := if neg then 2 ^ (f.eb + f.mb) else 0
  if n < 2 ^ f.mb then s + n
  else
    let up := 2 ^ (f.mb + 1) ≤ n
    let e := q + f.mb + f.bias + (if up then 1 else 0)
    if (2 ^ f.eb - 1 : Int) ≤ e then f.overflow mode neg
    else s + e.toNat * 2 ^ f.mb + (if up then n / 2 else n) % 2 ^ f.mb

/-- Round a value once into a format. -/
def FFmt.round (f : FFmt) (mode : Nat) (u : Nat) (x : Fp) (sticky : Bool := false) : Nat :=
  match x with
  | .nan => f.nan
  | .inf neg => f.infinity neg
  | .fin neg m e =>
    if m = 0 ∧ sticky = false then (if neg then 2 ^ (f.eb + f.mb) else 0)
    else
      let q := max (Nat.log2 m + e - f.mb) (1 - f.bias - f.mb)
      f.pack mode neg (roundUnits mode neg m e sticky q u) q

/-- The next number of a fibre's generator (R78). -/
def srNext (seed : Word) : Word :=
  let s := seed ^^^ (seed <<< 13)
  let s := s ^^^ (s >>> 17)
  s ^^^ (s <<< 5)

/-- The number that the generator has reached after n further draws (R78). -/
def srAfter (seed : Word) : Nat → Word
  | 0 => seed
  | n + 1 => srAfter (srNext seed) n

/-! ### Exact arithmetic -/

/-- The value with its sign inverted. -/
def Fp.neg : Fp → Fp
  | .nan => .nan
  | .inf n => .inf (!n)
  | .fin n m e => .fin (!n) m e

/-- The value is zero. -/
def Fp.isZero : Fp → Bool
  | .fin _ 0 _ => true
  | _ => false

/-- The sign. -/
def Fp.sign : Fp → Bool
  | .nan => false
  | .inf n => n
  | .fin n _ _ => n

/-- A finite value as an integer multiple of 2^e, for an e no larger than its own exponent. -/
def Fp.scaled (neg : Bool) (m : Nat) (ex e : Int) : Int :=
  let v : Int := (m * 2 ^ (ex - e).toNat : Nat)
  if neg then -v else v

/-- Exact sum; an exact zero sum of opposite signs is -0 under RDN and +0 otherwise (R265). -/
def Fp.add (rdn : Bool) : Fp → Fp → Fp
  | .nan, _ => .nan
  | _, .nan => .nan
  | .inf a, .inf b => if a = b then .inf a else .nan
  | .inf a, _ => .inf a
  | _, .inf b => .inf b
  | .fin na ma ea, .fin nb mb eb =>
    if ma = 0 ∧ mb = 0 then .fin (if na = nb then na else rdn) 0 (min ea eb)
    else
      let e := min ea eb
      let v := Fp.scaled na ma ea e + Fp.scaled nb mb eb e
      if v = 0 then .fin rdn 0 e else .fin (v < 0) v.natAbs e

/-- Exact product. -/
def Fp.mul : Fp → Fp → Fp
  | .nan, _ => .nan
  | _, .nan => .nan
  | .inf a, .inf b => .inf (a != b)
  | .inf a, .fin b m _ => if m = 0 then .nan else .inf (a != b)
  | .fin a m _, .inf b => if m = 0 then .nan else .inf (a != b)
  | .fin na ma ea, .fin nb mb eb => .fin (na != nb) (ma * mb) (ea + eb)

/-- Value order of two numbers that are no NaN, with -0 equal to +0. -/
def Fp.cmp : Fp → Fp → Ordering
  | .inf a, .inf b => if a = b then .eq else if a then .lt else .gt
  | .inf a, _ => if a then .lt else .gt
  | _, .inf b => if b then .gt else .lt
  | .fin na ma ea, .fin nb mb eb =>
    let e := min ea eb
    compare (Fp.scaled na ma ea e) (Fp.scaled nb mb eb e)
  | _, _ => .eq

/-- Value order with -0 below +0 (R266). -/
def Fp.below (x y : Fp) : Bool :=
  match Fp.cmp x y with
  | .lt => true
  | .gt => false
  | .eq => x.sign && !y.sign

/-- A value with the news that a positive part below one unit of its mantissa was cut off. -/
structure Cut where
  val    : Fp
  sticky : Bool
  deriving DecidableEq, Repr

/-- Quotient with more than 128 significant bits (R270). -/
def Fp.div : Fp → Fp → Cut
  | .nan, _ => ⟨.nan, false⟩
  | _, .nan => ⟨.nan, false⟩
  | .inf _, .inf _ => ⟨.nan, false⟩
  | .inf a, .fin b _ _ => ⟨.inf (a != b), false⟩
  | .fin a _ _, .inf b => ⟨.fin (a != b) 0 0, false⟩
  | .fin na ma ea, .fin nb mb eb =>
    if mb = 0 then ⟨if ma = 0 then .nan else .inf (na != nb), false⟩
    else if ma = 0 then ⟨.fin (na != nb) 0 0, false⟩
    else
      let k := 130 + Nat.log2 mb
      ⟨.fin (na != nb) (ma * 2 ^ k / mb) (ea - eb - k), ma * 2 ^ k % mb ≠ 0⟩

/-- Integer square root, bit by bit from bit k - 1 down. -/
def isqrtFrom (n : Nat) : Nat → Nat → Nat
  | 0, r => r
  | k + 1, r => isqrtFrom n k (if (r + 2 ^ k) * (r + 2 ^ k) ≤ n then r + 2 ^ k else r)

/-- Integer square root. -/
def isqrt (n : Nat) : Nat := isqrtFrom n (Nat.log2 n / 2 + 1) 0

/-- Square root (R270). -/
def Fp.sqrt : Fp → Cut
  | .nan => ⟨.nan, false⟩
  | .inf n => ⟨if n then .nan else .inf false, false⟩
  | .fin n m e =>
    if m = 0 then ⟨.fin n 0 0, false⟩
    else if n then ⟨.nan, false⟩
    else
      let odd := (e % 2).toNat
      let v := m * 2 ^ (260 + odd)
      ⟨.fin false (isqrt v) ((e - odd) / 2 - 130), isqrt v * isqrt v ≠ v⟩

/-- Reciprocal square root (R270). -/
def Fp.rsqrt : Fp → Cut
  | .nan => ⟨.nan, false⟩
  | .inf n => ⟨if n then .nan else .fin false 0 0, false⟩
  | .fin n m e =>
    if m = 0 then ⟨.inf n, false⟩
    else if n then ⟨.nan, false⟩
    else
      let odd := (e % 2).toNat
      let k := 2 * (150 + Nat.log2 m)
      let r := isqrt (2 ^ k / (m * 2 ^ odd))
      ⟨.fin false r (-((e - odd) / 2) - (150 + Nat.log2 m)), r * r * (m * 2 ^ odd) ≠ 2 ^ k⟩

/-! ### Fixed-point series: numbers scaled by 2^p, each step cut off by less than one unit -/

/-- Sum of t x r^k / (2k + 1) over k, signs alternating when alt: the series of atan and atanh with t the first
term and r the ratio of the terms. -/
def arcSeries (p r : Nat) (alt : Bool) : Nat → Nat → Nat → Int
  | 0, _, _ => 0
  | n + 1, k, t =>
    if t = 0 then 0
    else
      let v : Int := (t / (2 * k + 1) : Nat)
      (if alt && k % 2 = 1 then -v else v) + arcSeries p r alt n (k + 1) (t * r / 2 ^ p)

/-- Sum of x^k / k! in steps of two factors from k = i, signs alternating when alt: sine, cosine, sinh, cosh. -/
def trigSeries (p x2 : Nat) (alt neg : Bool) : Nat → Nat → Nat → Int
  | 0, _, _ => 0
  | n + 1, i, t =>
    if t = 0 then 0
    else (if neg then -(t : Int) else t) + trigSeries p x2 alt (alt && !neg) n (i + 2) (t * x2 / 2 ^ p / ((i + 1) * (i + 2)))

/-- Sum of x^k / k!. -/
def expSeries (p x : Nat) : Nat → Nat → Nat → Nat
  | 0, _, _ => 0
  | n + 1, i, t => if t = 0 then 0 else t + expSeries p x n (i + 1) (t * x / 2 ^ p / (i + 1))

/-- ln 2 scaled by 2^p: 2 atanh(1/3). -/
def ln2 (p : Nat) : Nat := 2 * (arcSeries p (2 ^ p / 9) false p 0 (2 ^ p / 3)).toNat

/-- Pi scaled by 2^p: 16 atan(1/5) - 4 atan(1/239). -/
def piFix (p : Nat) : Nat :=
  (16 * arcSeries p (2 ^ p / 25) true p 0 (2 ^ p / 5) - 4 * arcSeries p (2 ^ p / 57121) true p 0 (2 ^ p / 239)).toNat

/-- e^x scaled by 2^p, for x scaled by 2^p and below 2. -/
def expFix (p x : Nat) : Nat := expSeries p x p 0 (2 ^ p)

/-- sin x scaled by 2^p, 0 <= x < 2. -/
def sinFix (p x : Nat) : Nat := (trigSeries p (x * x / 2 ^ p) true false p 1 x).toNat

/-- cos x scaled by 2^p, 0 <= x < 2. -/
def cosFix (p x : Nat) : Nat := (trigSeries p (x * x / 2 ^ p) true false p 0 (2 ^ p)).toNat

/-- sinh x scaled by 2^p, 0 <= x < 2. -/
def sinhFix (p x : Nat) : Nat := (trigSeries p (x * x / 2 ^ p) false false p 1 x).toNat

/-- cosh x scaled by 2^p, 0 <= x < 2. -/
def coshFix (p x : Nat) : Nat := (trigSeries p (x * x / 2 ^ p) false false p 0 (2 ^ p)).toNat

/-- An approximation: neg, a magnitude y x 2^-p that is wrong by less than err units, and a further exponent. -/
structure Approx where
  neg : Bool
  y   : Nat
  p   : Nat
  err : Nat
  sh  : Int
  deriving DecidableEq, Repr

/-- Round an approximation when both its bounds round alike. -/
def Approx.round (f : FFmt) (mode u : Nat) (a : Approx) : Option Nat :=
  let at_ (m : Nat) := f.round mode u (.fin a.neg m (a.sh - a.p)) true
  let lo := at_ (a.y - a.err)
  if lo = at_ (a.y + a.err) then some lo else none

/-- Round with rising precision: the values are irrational, so some precision decides. -/
def refine (f : FFmt) (mode u : Nat) (g : Nat → Approx) : Nat → Nat → Nat
  | 0, p => f.round mode u (.fin (g p).neg (g p).y ((g p).sh - (g p).p)) true
  | n + 1, p =>
    match (g p).round f mode u with
    | some r => r
    | none => refine f mode u g n (2 * p)

/-- |x| scaled by 2^p, cut off. -/
def fixOf (m : Nat) (e : Int) (p : Nat) : Nat :=
  if 0 ≤ e + p then m * 2 ^ (e + p).toNat else m / 2 ^ (-(e + p)).toNat

/-- How far a value lies below 1, in bits. -/
def depthOf (m : Nat) (e : Int) : Nat := (-(Nat.log2 m + e)).toNat

/-- 2^a for a finite a that is not an integer (R271). -/
def exp2At (neg : Bool) (m : Nat) (e : Int) (p : Nat) : Approx :=
  let p := p + depthOf m e
  let x := fixOf m e p
  let i : Int := (x / 2 ^ p : Nat)
  let fr := x % 2 ^ p
  let (i, fr) := if neg then (-i - 1, 2 ^ p - fr) else (i, fr)
  ⟨false, expFix p (fr * ln2 p / 2 ^ p), p, 16 * p + 64, i⟩

/-- log2 of a positive value m x 2^e that is no power of two (R271). -/
def log2At (m : Nat) (e : Int) (p : Nat) : Approx :=
  let p := p + 64
  let l := Nat.log2 m
  -- the reduced value lies between 3/4 and 3/2, as the fraction a / b
  let big := 3 * 2 ^ l ≤ 2 * m
  let k : Int := l + e + (if big then 1 else 0)
  let b : Nat := if big then 2 ^ (l + 1) else 2 ^ l
  let d : Int := (m : Int) - b
  let z : Nat := d.natAbs * 2 ^ p / (m + b)
  let ln := 2 * arcSeries p (z * z / 2 ^ p) false p 0 z
  let v := ln * 2 ^ p / ln2 p
  let t : Int := k * 2 ^ p + (if d < 0 then -v else v)
  ⟨t < 0, t.natAbs, p, 16 * p + 64, 0⟩

/-- sin(pi r) for r = x / 2^p in (0, 1), with the sign of the result. -/
def sinPiAt (neg : Bool) (m : Nat) (e : Int) (p : Nat) : Approx :=
  let p := p + 2 * depthOf m e
  let x := fixOf m e p
  let x := if 2 ^ p < 2 * x then 2 ^ p - x else x
  if 2 ^ p < 4 * x then ⟨neg, cosFix p ((2 ^ p / 2 - x) * piFix p / 2 ^ p), p, 16 * p + 64, 0⟩
  else ⟨neg, sinFix p (x * piFix p / 2 ^ p), p, 16 * p + 64, 0⟩

/-- tanh of a finite non-zero magnitude below 64 (R271). -/
def tanhAt (neg : Bool) (m : Nat) (e : Int) (p : Nat) : Approx :=
  let p := p + 256 + 4 * depthOf m e
  let x := fixOf m e p
  if x ≤ 2 ^ p then ⟨neg, sinhFix p x * 2 ^ p / coshFix p x, p, 16 * p + 64, 0⟩
  else
    let l := ln2 p
    let k := 2 * x / l
    let y := 2 ^ (2 * p) / expFix p (2 * x - k * l) / 2 ^ k
    ⟨neg, (2 ^ p - y) * 2 ^ p / (2 ^ p + y), p, 64 * p + 256, 0⟩

/-- FEXP2 (R271). -/
def FFmt.exp2 (f : FFmt) (mode u : Nat) : Fp → Nat
  | .nan => f.nan
  | .inf n => if n then 0 else f.infinity false
  | .fin n m e =>
    if m = 0 then f.round mode u (.fin false 1 0)
    else if 2 ^ 10 ≤ fixOf m e 0 then f.round mode u (.fin false 1 (if n then -1000 else 1000))
    else if fixOf m e 0 * 2 ^ (-e).toNat = m * 2 ^ e.toNat then
      f.round mode u (.fin false 1 (if n then -(fixOf m e 0 : Int) else fixOf m e 0))
    else refine f mode u (exp2At n m e) 4 192

/-- FLOG2 (R271). -/
def FFmt.log2 (f : FFmt) (mode u : Nat) : Fp → Nat
  | .nan => f.nan
  | .inf n => if n then f.nan else f.infinity false
  | .fin n m e =>
    if m = 0 then f.infinity true
    else if n then f.nan
    else if 2 ^ Nat.log2 m = m then
      let k : Int := Nat.log2 m + e
      f.round mode u (.fin (k < 0) k.natAbs 0)
    else refine f mode u (log2At m e) 4 192

/-- sin(pi x 2^e m) of a non-negative angle, with the sign of a zero given (R271). -/
def FFmt.sinPi (f : FFmt) (mode u : Nat) (neg : Bool) (m : Nat) (e : Int) (nought : Nat) : Nat :=
  -- the angle modulo 2, as r x 2^e
  let r := if 1 ≤ e then 0 else m % 2 ^ (1 - e).toNat
  let one := if 1 ≤ e then 1 else 2 ^ (-e).toNat
  let flip := one ≤ r
  let r := if flip then r - one else r
  if r = 0 then nought
  else if 2 * r = one then f.round mode u (.fin (neg != flip) 1 0)
  else refine f mode u (sinPiAt (neg != flip) r e) 4 192

/-- FSIN (R271). -/
def FFmt.sin (f : FFmt) (mode u : Nat) : Fp → Nat
  | .nan => f.nan
  | .inf _ => f.nan
  | .fin n m e =>
    let nought := if n then 2 ^ (f.eb + f.mb) else 0
    if m = 0 then nought else f.sinPi mode u n m e nought

/-- FCOS: cos(pi a) = sin(pi (|a| + 1/2)) (R271). -/
def FFmt.cos (f : FFmt) (mode u : Nat) : Fp → Nat
  | .nan => f.nan
  | .inf _ => f.nan
  | .fin _ m e =>
    let k := min e (-1)
    f.sinPi mode u false (m * 2 ^ (e - k).toNat + 2 ^ (-1 - k).toNat) k 0

/-- FTANH (R271). -/
def FFmt.tanh (f : FFmt) (mode u : Nat) : Fp → Nat
  | .nan => f.nan
  | .inf n => f.round mode u (.fin n 1 0)
  | .fin n m e =>
    if m = 0 then (if n then 2 ^ (f.eb + f.mb) else 0)
    else if 64 ≤ fixOf m e 0 then f.round mode u (.fin n (2 ^ 100 - 1) (-100)) true
    else refine f mode u (tanhAt n m e) 4 192

/-! ### Operand types -/

/-- The standard format of a type, of each element for a packed pair. -/
def fmtOf : Ty → FFmt
  | .f16 | .h2 => .f16
  | .bf16 | .b2 => .bf16
  | _ => .f32

/-- Bits of an element of a float type. -/
def fbits : Ty → Nat
  | .f16 | .h2 | .bf16 | .b2 => 16
  | _ => 32

/-- Element patterns of an operand register, low element first; a bf16 subnormal is flushed unless .sub (R75). -/
def flushed (ty : Ty) (sub : Bool) (bits : Nat) : Nat :=
  if (ty = .bf16 ∨ ty = .b2) ∧ sub = false then FFmt.bf16.flush bits else bits

/-- The value of an element as an instruction reads it. -/
def readF (ty : Ty) (sub : Bool) (bits : Nat) : Fp := (fmtOf ty).read (flushed ty sub bits)

/-- The greater or lesser of two patterns as read, -0 below +0, the default NaN if either is a NaN (R97, R239). -/
def floatPick (f : FFmt) (mx : Bool) (a b : Nat) : Nat :=
  match f.read a, f.read b with
  | .nan, _ => f.nan
  | _, .nan => f.nan
  | x, y => if Fp.below x y = mx then b else a

end Sys2Proof.Machine
end

