-- ==== Sys2Proof/Machine/Format.lean ====
section
/-!
DEFINITION. Page formats (R80 to R93): format-table entries, element codes, block scales, the layout of a
quantised page and its rinds, over plain lists of bytes.
-/

namespace Sys2Proof.Machine

/-- A format-table entry taken apart (Table 7.3). -/
structure Entry where
  valid : Bool
  pow2  : Bool
  block : Nat
  ovf   : Bool
  spec  : Nat
  bias  : Int
  m     : Nat
  e     : Nat
  s     : Nat
  deriving DecidableEq, Repr

/-- The entry a word holds; `valid` is R81. -/
def Entry.ofWord (w : Word) : Entry :=
  let v := w.toNat
  let s := bitsOf v 0 1
  let e := bitsOf v 1 3
  let m := bitsOf v 4 3
  let spec := bitsOf v 16 2
  let ovf := bitsOf v 18 1
  let blk := bitsOf v 19 2
  let scale := bitsOf v 21 2
  { valid := decide (bitsOf v 23 1 = 1 ∧ bitsOf v 24 8 = 0 ∧ bitsOf v 7 1 = 0 ∧ 1 ≤ s + e + m ∧ s + e + m ≤ 8 ∧ scale ≤ 1 ∧ blk ≠ 3 ∧
      spec ≠ 3 ∧ (spec = 1 → 1 ≤ e + m) ∧ (spec = 2 → 2 ≤ e ∧ 1 ≤ m) ∧ (ovf = 1 → spec ≠ 0))
    pow2 := scale = 1
    block := 16 * 2 ^ blk
    ovf := ovf = 1
    spec := spec
    bias := toSigned 8 (bitsOf v 8 8)
    m := m
    e := e
    s := s }

/-- Element width W. -/
def Entry.w (f : Entry) : Nat := f.s + f.e + f.m

/-- The value of an element code before scaling (R83). -/
def Entry.decode (f : Entry) (code : Nat) : Fp :=
  let neg : Bool := f.s = 1 ∧ bitsOf code (f.e + f.m) 1 = 1
  let body := bitsOf code 0 (f.e + f.m)
  let e := bitsOf code f.m f.e
  let m := bitsOf code 0 f.m
  if f.spec = 1 ∧ body = 2 ^ (f.e + f.m) - 1 then .nan
  else if f.spec = 2 ∧ e = 2 ^ f.e - 1 then (if m = 0 then .inf neg else .nan)
  else if f.e = 0 ∧ f.m = 0 then .fin neg 1 (-f.bias)
  else if f.e = 0 then .fin neg m (-f.bias)
  else if e = 0 then .fin neg m (1 - f.bias - f.m)
  else .fin neg (2 ^ f.m + m) (e - f.bias - f.m)

/-- The code of the largest finite magnitude (R83). -/
def Entry.maxCode (f : Entry) : Nat :=
  match f.spec with
  | 1 => 2 ^ (f.e + f.m) - 2
  | 2 => (2 ^ f.e - 1) * 2 ^ f.m - 1
  | _ => 2 ^ (f.e + f.m) - 1

/-- The code of a NaN (R84). -/
def Entry.nanCode (f : Entry) : Nat :=
  if f.spec = 1 then 2 ^ (f.e + f.m) - 1 else (2 ^ f.e - 1) * 2 ^ f.m + 2 ^ (f.m - 1)

/-- The sign bit of a code. -/
def Entry.signBit (f : Entry) (neg : Bool) : Nat := if neg ∧ f.s = 1 then 2 ^ (f.e + f.m) else 0

/-- The magnitude code of n units of 2^q on the format's grid. -/
def Entry.gridCode (f : Entry) (n : Nat) (q : Int) : Nat :=
  if f.e = 0 ∨ n < 2 ^ f.m then n
  else
    let up := 2 ^ (f.m + 1) ≤ n
    let n := if up then n / 2 else n
    (q + f.m + f.bias + (if up then 1 else 0)).toNat * 2 ^ f.m + (n - 2 ^ f.m)

/-- Encode an exact value (R84): the code, and whether the element counts as saturated. -/
def Entry.encode (f : Entry) (mode u : Nat) (x : Cut) : Nat × Bool :=
  if f.e = 0 ∧ f.m = 0 then
    match x.val with
    | .nan => (1, false)
    | .inf n => (if n then 1 else 0, false)
    | .fin n _ _ => (if n then 1 else 0, false)
  else
    let excess (neg : Bool) : Nat × Bool :=
      if f.s = 0 ∧ neg then (0, true)
      else if f.ovf = false then (f.signBit neg + f.maxCode, true)
      else if f.spec = 2 then (f.signBit neg + (2 ^ f.e - 1) * 2 ^ f.m, false)
      else (f.nanCode, false)
    match x.val with
    | .nan => if f.spec = 0 then (0, true) else (f.nanCode, false)
    | .inf n => excess n
    | .fin neg m e =>
      if m = 0 ∧ x.sticky = false then (f.signBit neg, false)
      else
        let q : Int := if f.e = 0 then -f.bias else max (Nat.log2 m + e - f.m) (1 - f.bias - f.m)
        let n := roundUnits mode neg m e x.sticky q u
        if n = 0 then (f.signBit neg, false)
        else if f.s = 0 ∧ neg then (0, true)
        else if Fp.cmp (f.decode f.maxCode) (.fin false n q) = .lt then excess neg
        else (f.signBit neg + f.gridCode n q, false)

/-- The value of an element under its block scale (R86). -/
def Entry.value (f : Entry) (code scale : Nat) : Fp := Fp.mul (f.decode code) (FFmt.scale24.read scale)

/-- The largest finite magnitude of a list of values, and whether any is finite. -/
def amaxOf : List Fp → Option Fp
  | [] => none
  | .fin _ m e :: r =>
    match amaxOf r with
    | none => some (.fin false m e)
    | some y => some (if Fp.cmp (.fin false m e) y = .lt then y else .fin false m e)
  | _ :: r => amaxOf r

/-- The block scale that QPACK, QSCALE and quantising copies choose (R278). -/
def chooseScale (f : Entry) (vs : List Fp) : Nat :=
  match amaxOf vs with
  | none => 0x3F8000
  | some a =>
    if a.isZero then 0x3F8000
    else
      let r := Fp.div a (f.decode f.maxCode)
      match r.val with
      | .fin _ m e =>
        if f.pow2 then
          let k : Int := Nat.log2 m + e + (if m = 2 ^ Nat.log2 m ∧ r.sticky = false then 0 else 1)
          if 127 < k then 0x7F0000
          else if -126 ≤ k then (k + 127).toNat * 2 ^ 15
          else 2 ^ (max k (-141) + 141).toNat
        else
          let s := FFmt.scale24.round 2 0 (.fin false m e) r.sticky
          if s = FFmt.scale24.infinity false then 0x7F7FFF else s
      | _ => if f.pow2 then 0x7F0000 else 0x7F7FFF

/-! ### Layout of a quantised page (R87) -/

/-- Blocks per chunk K. -/
def Entry.blocks (f : Entry) : Nat := 32768 / (f.w * f.block)

/-- Elements per chunk N. -/
def Entry.elems (f : Entry) : Nat := f.blocks * f.block

/-- Scale area A. -/
def Entry.scaleArea (f : Entry) : Nat := ceilDiv (3 * f.blocks) 16 * 16

/-- Chunk bytes C. -/
def Entry.chunkBytes (f : Entry) : Nat := 4096 + f.scaleArea + 16

/-- Chunks per page P. -/
def Entry.chunks (f : Entry) : Nat := 65536 / f.chunkBytes

/-- A byte of the page that plain loads read as zero and plain stores do not change (R88). -/
def Entry.dead (f : Entry) (ofs : Nat) : Bool :=
  f.chunks * f.chunkBytes ≤ ofs ||
    (let o := ofs % f.chunkBytes; decide (4096 + 3 * f.blocks ≤ o) && decide (o < 4096 + f.scaleArea))

/-- Element i of a chunk's data bytes (R87). -/
def elemAt (w : Nat) (data : List Byte) (i : Nat) : Nat := bitsOf (leNat ((data.drop (i * w / 8)).take 2)) (i * w % 8) w

/-- Scale of block j of a chunk. -/
def scaleAt (chunk : List Byte) (j : Nat) : Nat := leNat ((chunk.drop (4096 + 3 * j)).take 3)

/-- One step of CRC-32C over eight bits (R90). -/
def crcBits : Nat → Nat → Nat
  | 0, c => c
  | n + 1, c => crcBits n (if c % 2 = 1 then (c / 2) ^^^ 0x82F63B78 else c / 2)

/-- CRC-32C register over bytes. -/
def crcFrom (c : Nat) : List Byte → Nat
  | [] => c
  | b :: bs => crcFrom (crcBits 8 (c ^^^ b.toNat)) bs

/-- CRC-32C (R90). -/
def crc32c (bs : List Byte) : Nat := crcFrom 0xFFFFFFFF bs ^^^ 0xFFFFFFFF

/-- The rind of a chunk. -/
def Entry.rindOf (f : Entry) (chunk : List Byte) : List Byte := (chunk.drop (4096 + f.scaleArea)).take 16

/-- The bytes that the crc covers: the data and the scales (R90). -/
def Entry.covered (f : Entry) (chunk : List Byte) : List Byte := chunk.take (4096 + 3 * f.blocks)

/-- The rind check (R93). -/
def Entry.rindOk (f : Entry) (idx : Nat) (chunk : List Byte) : Bool :=
  let r := f.rindOf chunk
  decide (leNat ((r.drop 8).take 4) = crc32c (f.covered chunk) ∧ leNat ((r.drop 3).take 1) = idx ∧
    leNat ((r.drop 12).take 4) = 0 ∧ leNat ((r.drop 6).take 2) = 0)

/-- satcount and fmt of a rind, as QCHK returns them (R283). -/
def Entry.rindWord (f : Entry) (chunk : List Byte) : Nat :=
  let r := f.rindOf chunk
  leNat ((r.drop 4).take 2) + 65536 * leNat ((r.drop 3).take 1)

/-- The largest magnitude of a non-NaN element of a chunk, from element n - 1 down (R90). -/
def Entry.maxFrom (f : Entry) (chunk : List Byte) : Nat → Option Fp
  | 0 => none
  | n + 1 =>
    let rest := f.maxFrom chunk n
    match f.value (elemAt f.w chunk n) (scaleAt chunk (n / f.block)) with
    | .nan => rest
    | .inf _ => some (.inf false)
    | .fin _ m e =>
      match rest with
      | none => some (.fin false m e)
      | some y => some (if Fp.cmp y (.fin false m e) = .lt then .fin false m e else y)

/-- Rewrite the rind of a chunk after a converting write (R90, R91): count is the elements it saturated, whole
says that it covered the whole chunk. -/
def Entry.rewrite (f : Entry) (idx : Nat) (chunk : List Byte) (count : Nat) (whole : Bool) : List Byte :=
  let old := f.rindOf chunk
  let sat := min 0xFFFF (count + (if whole then 0 else leNat ((old.drop 4).take 2)))
  let mx := match f.maxFrom chunk f.elems with
    | none => 0
    | some x => FFmt.scale24.round 2 0 x
  chunk.take (4096 + f.scaleArea) ++ leBytes mx 3 ++ leBytes idx 1 ++ leBytes sat 2 ++ leBytes 0 2 ++
    leBytes (crc32c (f.covered chunk)) 4 ++ leBytes 0 4

/-- Set bits lo to lo + w - 1 of a number. -/
def setBits (v lo w x : Nat) : Nat := v - bitsOf v lo w * 2 ^ lo + x * 2 ^ lo

/-- Replace one element of a chunk. -/
def setElem (w : Nat) (chunk : List Byte) (i code : Nat) : List Byte :=
  let k := i * w / 8
  let two := (chunk.drop k).take 2
  chunk.take k ++ leBytes (setBits (leNat two) (i * w % 8) w code) 2 ++ chunk.drop (k + 2)

/-- A chunk that is written whole: the bits after its last element are zero (R87). -/
def Entry.clearTail (f : Entry) (chunk : List Byte) : List Byte :=
  let n := f.elems * f.w
  leBytes (leNat (chunk.take 4096) % 2 ^ n) 4096 ++ chunk.drop 4096

/-- Replace the scale of a block. -/
def setScale (chunk : List Byte) (j scale : Nat) : List Byte :=
  chunk.take (4096 + 3 * j) ++ leBytes scale 3 ++ chunk.drop (4096 + 3 * j + 3)

/-- A value to encode, with the number SR drew for it. -/
structure Supply where
  val  : Fp
  draw : Nat
  deriving DecidableEq, Repr

/-- Encode the values of a block from element i on under a scale; answers the chunk and the saturated count. -/
def Entry.putElems (f : Entry) (mode scale : Nat) : List Byte → Nat → List Supply → List Byte × Nat
  | chunk, _, [] => (chunk, 0)
  | chunk, i, v :: vs =>
    let (code, sat) := f.encode mode v.draw (Fp.div v.val (FFmt.scale24.read scale))
    let (chunk', n) := f.putElems mode scale (setElem f.w chunk i code) (i + 1) vs
    (chunk', n + (if sat then 1 else 0))

/-- Write whole blocks from block j of a chunk on, each under the scale it chooses (R279). -/
def Entry.putBlocks (f : Entry) (mode : Nat) : Nat → List Byte → Nat → List Supply → List Byte × Nat
  | 0, chunk, _, _ => (chunk, 0)
  | k + 1, chunk, j, vs =>
    if vs.isEmpty then (chunk, 0)
    else
      let blk := vs.take f.block
      let s := chooseScale f (blk.map Supply.val)
      let (chunk1, n1) := f.putElems mode s (setScale chunk j s) (j * f.block) blk
      let (chunk2, n2) := f.putBlocks mode k chunk1 (j + 1) (vs.drop f.block)
      (chunk2, n1 + n2)

end Sys2Proof.Machine
end

