-- ==== Sys2Proof/Machine/Address.lean ====
section
/-!
DEFINITION. Where an access leads: generic addresses (R98 to R101), translation (R112, R117, R340), physical memory and the windows to the ports
(R113, R363), and the faults met on the way (R134, R142, R365, R374 to R376).
-/

namespace Sys2Proof.Machine

/-! ### Trap causes (R9) -/

/-- Trap causes by name (R9). -/
def cause.illegal : Byte := 0x01
def cause.privileged : Byte := 0x02
def cause.wrongUnit : Byte := 0x03
def cause.misaligned : Byte := 0x04
def cause.protection : Byte := 0x05
def cause.spaceWindow : Byte := 0x06
def cause.spaceForeign : Byte := 0x07
def cause.classIllegal : Byte := 0x08
def cause.classAlias : Byte := 0x09
def cause.writeOnce : Byte := 0x0A
def cause.accWindow : Byte := 0x0B
def cause.batonFault : Byte := 0x0C
def cause.fifoDrained : Byte := 0x0D
def cause.barrierOverrun : Byte := 0x0E
def cause.rindMismatch : Byte := 0x0F
def cause.formatInvalid : Byte := 0x11
def cause.xsetNotHeld : Byte := 0x12
def cause.windowOverflow : Byte := 0x13
def cause.budgetOverrun : Byte := 0x14
def cause.pageRequestFailed : Byte := 0x15
def cause.poison : Byte := 0x16
def cause.viral : Byte := 0x17
def cause.expanderLost : Byte := 0x18
def cause.dieOffline : Byte := 0x19
def cause.breakpoint : Byte := 0x1A
def cause.software : Byte := 0x1B
def cause.taskAuth : Byte := 0x1C

/-- A byte is one of the 27 causes, which alone are ever reported (R9). -/
def definedCause (c : Byte) : Bool := decide (1 ≤ c.toNat ∧ c.toNat ≤ 0x1C ∧ c.toNat ≠ 0x10)

/-! ### Generic addresses -/

/-- The spaces of Table 9.1. -/
inductive Space where
  | global | priv | scratch | shared | none
  deriving DecidableEq, Repr

/-- The space code (Table 9.1). -/
def Space.code : Space → Nat
  | .global => 0
  | .priv => 1
  | .scratch => 2
  | .shared => 3
  | .none => 7

/-- The space an address selects, its res0 bits aside (R98, R102). -/
def spaceOf (a : Nat) : Space :=
  let top := bitsOf a 48 16
  if top < 0x100 then .global
  else if top = 0xFFF0 then .priv
  else if top = 0xFFF4 then .scratch
  else if top = 0xFFF8 then .shared
  else .none

/-- The space of an address whose res0 bits are zero (check 1 of R99). -/
def windowOf (a : Nat) : Option Space :=
  match spaceOf a with
  | .none => none
  | .scratch => if bitsOf a 40 8 = 0 then some .scratch else none
  | .shared => if bitsOf a 40 8 = 0 then some .shared else none
  | sp => some sp

/-- A unit with its team: where an access comes from. -/
structure Site where
  u    : UnitRef
  team : Team
  heat : Heat
  deriving DecidableEq, Repr

/-- The core number of a heat within its cluster; none for the pacer (R63). -/
def Site.core? (x : Site) : Option Nat :=
  match x.u.who with
  | .heat q _ => some (x.team.cores.getD q 0)
  | .pacer => none

/-- The core id of R98. -/
def Site.coreId? (x : Site) : Option Nat := x.core?.map fun c => 4 * x.team.cl.loc + c

/-- Squad and heat numbers. -/
def Site.squad (x : Site) : Nat := match x.u.who with | .heat q _ => q | .pacer => 0
def Site.heatNo (x : Site) : Nat := match x.u.who with | .heat _ h => h | .pacer => 0

/-- The pacer's program (R63). -/
def Site.isPacer (x : Site) : Bool := match x.u.who with | .heat _ _ => false | .pacer => true

/-- Where an address leads once checks 1 to 4 of R99 have passed: a virtual address, a byte of the squad's core scratch,
or a byte of the team's cluster-shared memory. -/
inductive Loc where
  | virt (va : Nat)
  | scr (ofs : Nat)
  | csh (ofs : Nat)
  deriving DecidableEq, Repr

/-- Every byte of a range of an allocation has storage in a bank (R100, R106, R258). -/
def segsHold : List Seg → Nat → Nat → Bool
  | [], _, n => n = 0
  | g :: r, ofs, n =>
    if ofs < g.size then
      let k := min n (g.size - ofs)
      decide (g.bank < 12) && segsHold r 0 (n - k)
    else if n = 0 then true else segsHold r (ofs - g.size) n

/-- The global virtual address of a private offset (R101); DESIGN CHOICE: it wraps modulo 2^56 (log entry 58). -/
def Site.privVa (x : Site) (fib ofs : Nat) : Nat :=
  (x.team.privbase + ((((x.team.slotno * 4 + x.squad) * 16 + x.heatNo) * 32 + fib) * x.team.ps) + ofs) % 2 ^ 56

/-- Checks 1 to 4 of R99 on n bytes at a generic address, for a fibre; `align` is what the instruction requires. -/
def Site.check (x : Site) (fib a n align : Nat) : Except Byte Loc :=
  match windowOf a with
  | none => .error cause.spaceWindow
  | some .none => .error cause.spaceWindow
  | some .global =>
    if 2 ^ 56 < a + n then .error cause.spaceWindow
    else if a % align ≠ 0 then .error cause.misaligned
    else .ok (.virt a)
  | some .priv =>
    let o := bitsOf a 0 48
    let ps := if x.isPacer then 0 else x.team.ps
    if ps < o + n then .error cause.spaceWindow
    else if a % align ≠ 0 then .error cause.misaligned
    else .ok (.virt (x.privVa fib o))
  | some .scratch =>
    let o := bitsOf a 0 32
    if x.coreId? ≠ some (bitsOf a 32 8) then .error cause.spaceForeign
    else if x.team.scratch < o + n ∨ segsHold (x.team.scrSegs.getD x.squad []) o n = false then .error cause.spaceWindow
    else if a % align ≠ 0 then .error cause.misaligned
    else .ok (.scr o)
  | some .shared =>
    let o := bitsOf a 0 32
    if bitsOf a 32 8 ≠ x.team.cl.loc then .error cause.spaceForeign
    else if x.team.cshared < o + n ∨ segsHold x.team.cshSegs o n = false then .error cause.spaceWindow
    else if a % align ≠ 0 then .error cause.misaligned
    else .ok (.csh o)

/-! ### Translation (R112, R117) -/

/-- A 128-bit entry at a physical address. -/
def entryAt (m : List Host.Cell) (a : Nat) : Nat := leNat (Memory.read m a 16)

/-- Page size of a leaf by its level and SIZE (R112). -/
def leafSize (level e : Nat) : Option Nat :=
  match level, bitsOf e 6 2 with
  | 1, 3 => some (2 ^ 30)
  | 2, 2 => some (2 ^ 21)
  | 3, 0 => some 4096
  | 3, 1 => some 65536
  | _, _ => none

/-- The PA field of a leaf as an address. -/
def leafPa (e : Nat) : Nat := bitsOf e 12 40 * 4096

/-- A translation: the page's virtual base and size, the leaf entry that governs it, and where the page's memory lies: the leaf's PA until the access
has passed its path, then the memory's own place (R363). -/
structure Hit where
  base  : Nat
  size  : Nat
  leaf  : Nat
  place : Nat
  deriving DecidableEq, Repr

/-- A valid leaf as a translation (R112). -/
def leafHit (level e va : Nat) : Option Hit :=
  (leafSize level e).bind fun sz =>
    if bitsOf e 2 1 = 0 ∧ bitsOf e 8 4 = 0 ∧ bitsOf e 52 48 = 0 ∧ (bitsOf e 12 40 * 4096) % sz = 0
    then some { base := va / sz * sz, size := sz, leaf := e, place := leafPa e } else none

/-- The four levels: number, lowest index bit, index bits (R112). -/
def walkLevels : List (Nat × Nat × Nat) := [(0, 39, 17), (1, 30, 9), (2, 21, 9), (3, 12, 9)]

/-- Walk the levels from a table; `host` gives the physical address of a table address (the second stage). -/
def walkFrom (m : List Host.Cell) (host : Nat → Option Nat) (va : Nat) : List (Nat × Nat × Nat) → Nat → Option Hit
  | [], _ => none
  | (lv, sh, n) :: r, t =>
    (host (t + 16 * bitsOf va sh n)).bind fun a =>
      let e := entryAt m a
      if bitsOf e 0 1 = 0 then none
      else if bitsOf e 1 1 = 1 then leafHit lv e va
      else if e = 1 + bitsOf e 12 40 * 4096 then walkFrom m host va r (bitsOf e 12 40 * 4096)
      else none

/-- The table entries that a walk reads, by the places of their memory. -/
def tableReads (m : List Host.Cell) (host : Nat → Option Nat) (also : Nat → List Nat) (va : Nat) : List (Nat × Nat × Nat) → Nat → List Nat
  | [], _ => []
  | (_, sh, n) :: r, t =>
    let at_ := t + 16 * bitsOf va sh n
    also at_ ++
      match host at_ with
      | none => []
      | some a =>
        let e := entryAt m a
        a :: (if bitsOf e 0 1 = 1 ∧ bitsOf e 1 1 = 0 ∧ e = 1 + bitsOf e 12 40 * 4096 then tableReads m host also va r (bitsOf e 12 40 * 4096) else [])

/-- The address of a virtual address under a translation. -/
def Hit.phys (h : Hit) (va : Nat) : Nat := h.place + (va - h.base)

/-- Fields of the leaf (Table 9.5). -/
def Hit.owner (h : Hit) : BitVec 16 := BitVec.ofNat 16 (bitsOf h.leaf 112 16)
def Hit.fmt (h : Hit) : Nat := bitsOf h.leaf 108 4
def Hit.policy (h : Hit) : Nat := bitsOf h.leaf 103 2
def Hit.wayp (h : Hit) : Nat := bitsOf h.leaf 105 3
def Hit.system (h : Hit) : Bool := bitsOf h.leaf 102 1 = 1
def Hit.exec (h : Hit) : Bool := bitsOf h.leaf 5 1 = 1
def Hit.write (h : Hit) : Bool := bitsOf h.leaf 4 1 = 1
def Hit.read (h : Hit) : Bool := bitsOf h.leaf 3 1 = 1

/-- The page class of a code (Table 9.5). -/
def classOf (c : Nat) : PageClass :=
  match c with
  | 0 => .seq
  | 1 => .phase
  | 2 => .stream
  | _ => .priv

/-- The class of the page. -/
def Hit.cls (h : Hit) : PageClass := classOf (bitsOf h.leaf 100 2)

/-- The permission an access of a kind needs. -/
def Hit.allows (h : Hit) : AccKind → Bool
  | .load => h.read
  | .store => h.write
  | .exec => h.exec

/-- Two stages as one translation, of the smaller of the two pages: the second stage's place and the permissions of both (log entry 7). -/
def combine (va : Nat) (g h : Hit) : Hit :=
  let sz := min g.size h.size
  let base := va / sz * sz
  let pa := h.phys (g.phys base) / 4096
  let perm := (bitsOf g.leaf 3 3) &&& (bitsOf h.leaf 3 3)
  { base := base, size := sz, place := pa * 4096
    leaf := g.leaf - bitsOf g.leaf 12 40 * 4096 - bitsOf g.leaf 3 3 * 8 + pa * 4096 + perm * 8 }

/-- Walk the page tables of a context (R112); `place` gives the memory at a physical address. -/
def Context.walk (c : Context) (m : List Host.Cell) (place : Nat → Option Nat) (va : Nat) : Option Hit :=
  match c.root2 with
  | none => walkFrom m place va walkLevels c.root
  | some r2 =>
    let stage2 (g : Nat) : Option Hit := walkFrom m place g walkLevels r2
    let host (g : Nat) : Option Nat := (stage2 g).bind fun h => place (h.phys g)
    (walkFrom m host va walkLevels c.root).bind fun g =>
      (stage2 (g.phys va)).map fun h => combine va g h

/-- The table entries that a walk of a context reads, those of the second stage before each of the first (R112). -/
def Context.tableReads (c : Context) (m : List Host.Cell) (place : Nat → Option Nat) (va : Nat) : List Nat :=
  match c.root2 with
  | none => Machine.tableReads m place (fun _ => []) va walkLevels c.root
  | some r2 =>
    let second (g : Nat) : List Nat := Machine.tableReads m place (fun _ => []) g walkLevels r2
    let host (g : Nat) : Option Nat := (walkFrom m place g walkLevels r2).bind fun h => place (h.phys g)
    Machine.tableReads m host second va walkLevels c.root ++
      match walkFrom m host va walkLevels c.root with
      | some g => second (g.phys va)
      | none => []

/-- The guest page's own translation of a context with two stages: its failure is a fault of the first stage, another of the second (R343). -/
def Context.walkGuest (c : Context) (m : List Host.Cell) (place : Nat → Option Nat) (va : Nat) : Option Nat :=
  match c.root2 with
  | none => none
  | some r2 =>
    let host (g : Nat) : Option Nat := (walkFrom m place g walkLevels r2).bind fun h => place (h.phys g)
    (walkFrom m host va walkLevels c.root).map fun g => g.phys va

/-- The TLB of a unit's own accesses (R117, R230). -/
def Site.tlb (x : Site) : TlbId :=
  match x.core? with
  | some c => .core x.team.cl c
  | none => .pacer x.team.cl

/-! ### Physical memory and the ports (R113, R363) -/

/-- The number a port has in a VIRAL trap (R354, log entry 9). -/
def portNo : PortTarget → Nat
  | .cxl p => p
  | .host => 4
  | .peer d => 16 + d

/-- Bytes of each die's memory that the striped range does not take: it takes its part from the highest address downwards (R113). -/
def State.ownBytes (s : State) : Nat := s.product.dieBytes - s.stripe / s.dies.length

/-- The compute die that homes a physical address, when one does (R113). DESIGN CHOICE: none homes an address of a die's range beyond its installed
memory, nor one whose memory the striped range has taken (log entry 57). -/
def State.homeOf (s : State) (pa : Nat) : Option Nat :=
  if pa < 2 ^ 41 * s.dies.length then (if pa % 2 ^ 41 < s.ownBytes then some (pa / 2 ^ 41) else none)
  else if 2 ^ 44 ≤ pa ∧ pa < 2 ^ 44 + s.stripe then some ((pa - 2 ^ 44) / 64 % s.dies.length)
  else none

/-- The window of a die that an address matches: exactly one must (R363). -/
def Die.window (d : Die) (pa : Nat) : Option Window :=
  match d.windows.filterMap (fun w => w.bind fun w => if w.base ≤ pa ∧ pa < w.base + w.size then some w else none) with
  | [w] => some w
  | _ => none

/-- Where the memory behind a port lies in the model: memory of one device is one memory, whatever window leads to it. A device's own address is the
offset in the window (log entry 59). -/
def behindPort (t : PortTarget) (ofs : Nat) : Nat := 2 ^ 52 * (1 + portNo t) + ofs

/-- The memory behind a window at a physical address. -/
def Window.at_ (w : Window) (pa : Nat) : Nat := behindPort w.target (pa - w.base)

/-- The memory at a physical address as a die reaches it: none where no window leads anywhere. -/
def State.place (s : State) (die pa : Nat) : Option Nat :=
  if pa < 2 ^ 45 ∨ 2 ^ 52 ≤ pa then some pa else ((s.die? die).bind fun d => d.window pa).map fun w => w.at_ pa

/-- The window through which a die reaches memory behind a port, by the memory's place: the one that leads there, when it is the only one. -/
def Die.windowTo (d : Die) (at_ : Nat) : Option Window :=
  (d.windows.findSome? fun w => w.bind fun w =>
    if behindPort w.target 0 ≤ at_ ∧ at_ < behindPort w.target w.size then some w else none).bind fun w =>
    d.window (w.base + (at_ - behindPort w.target 0))

/-- The physical address under which a die reaches the memory at a place. -/
def State.physical (s : State) (die at_ : Nat) : Nat :=
  if at_ < 2 ^ 52 then at_
  else (((s.die? die).bind fun d => d.windowTo at_).map fun w => w.base + (at_ - behindPort w.target 0)).getD 0

/-- The window on the path from a die to an address or a place beyond the device. -/
def State.pathWindow (s : State) (die pa : Nat) : Option Window := (s.die? die).bind fun d => if 2 ^ 52 ≤ pa then d.windowTo pa else d.window pa

/-- The offset of an address or a place in a window. -/
def Window.ofs (w : Window) (pa : Nat) : Nat := if 2 ^ 52 ≤ pa then pa - behindPort w.target 0 else pa - w.base

/-- The expander behind a CXL port. -/
def State.expander? (s : State) (port : Nat) : Option Expander := s.beyond[port]?

/-- A device address lies in an extent of this package at an expander (R365). -/
def Expander.gives (e : Expander) (dpa : Nat) : Bool := e.extents.any fun g => decide (g.host = e.node ∧ g.dpa ≤ dpa ∧ dpa < g.dpa + g.size)

/-- An access through a window reaches memory that its device gives this package: an expander serves its extents alone (R365). -/
def State.served (s : State) (w : Window) (ofs : Nat) : Bool :=
  match w.target with
  | .cxl p => ((s.expander? p).map fun e => e.gives ofs).getD false
  | .host => true
  | .peer _ => true

/-- The die of a structure that holds translations. -/
def tlbDie : TlbId → Nat
  | .core cl _ => cl.die
  | .pacer cl => cl.die
  | .fetch cl => cl.die
  | .copy cl => cl.die

/-- Translate: a cached entry if the structure holds one, else a walk (R340, log entry 8). -/
def State.translate (s : State) (ctx : Nat) (tlb : TlbId) (va : Nat) : Option Hit :=
  match s.tlb.find? fun e => e.tlb = tlb ∧ e.ctx = ctx ∧ e.base ≤ va ∧ va < e.base + e.size with
  | some e => some { base := e.base, size := e.size, leaf := e.leaf.toNat, place := leafPa e.leaf.toNat }
  | none => (s.ctx? ctx).bind fun c => c.walk s.mem (s.place (tlbDie tlb)) va

/-! ### Faults of an access -/

/-- How an access fails after the address checks (Table 16.1): translation, a cause of its second row, a cause of
its third row, or not yet (it is held at the home or behind an earlier access of its agent). -/
inductive Bad where
  | translation (va : Nat)
  | early (c : Byte)
  | late (c : Byte)
  | hold
  deriving DecidableEq, Repr

/-- Access forms of Table 11.2. -/
inductive AccForm where
  | plain | vol | ordered | near | far | conv
  deriving DecidableEq, Repr

/-- Legality by class (Table 11.2); a converting store to STREAM covers whole chunks, which its writer checks. -/
def AccForm.legal : AccForm → PageClass → Bool
  | .vol, .stream | .vol, .priv => false
  | .ordered, .stream | .ordered, .priv => false
  | .near, .stream => false
  | .far, .stream | .far, .priv => false
  | _, _ => true

/-- The VF whose notify page holds a physical address: the pages of the 64 VFs follow one another where no die homes memory (R324, log entry 38). -/
def State.notifyVf (s : State) (pa : Nat) : Option Nat :=
  if s.notify ≤ pa / 4096 ∧ pa / 4096 < s.notify + 64 ∧ s.homeOf pa = none then some (pa / 4096 - s.notify) else none

/-- A die's memory answers nobody: the die is in the offline steps of its warm reset (R398, R400), or is OFF (R393). DESIGN CHOICE: a request to a
die that is OFF is answered as one to a die that is offline (log entry 48). -/
def Die.down (d : Die) : Bool := d.offline || decide (d.power = .off)

/-- The memory of a die answers nobody. -/
def State.downAt (s : State) (pa : Nat) : Bool := ((s.homeOf pa).bind fun h => (s.die? h).map Die.down).getD false

/-- Faults on the path from a die to the memory at a physical address, or at a place behind a port (R363, R365, R375, R376, R393, R400). -/
def State.pathFault (s : State) (die pa : Nat) : Option Byte :=
  if pa < 2 ^ 45 then
    match s.homeOf pa with
    | some h => if ((s.die? h).map Die.down).getD false then some cause.dieOffline else none
    | none => if (s.notifyVf pa).isSome then none else some cause.protection
  else
    match s.pathWindow die pa with
    | none => some cause.protection
    | some w =>
      if portNo w.target ∈ s.viral then some cause.viral
      else if w.stale ∨ w.target ∈ s.gone then some cause.expanderLost
      else if s.served w (w.ofs pa) = false then some cause.protection
      else none

/-- What %tinfo reports of an access that fails on its path (Table 22.7): the port's number for VIRAL, else the address. -/
def State.pathInfo (s : State) (die pa : Nat) (c : Byte) (info : DWord) : DWord :=
  if c = cause.viral then dw (((s.pathWindow die pa).map fun w => portNo w.target).getD 0) else info

/-- A peer's contributions to a line are on their way home: accesses of the line wait for them (R362). -/
def State.awaitsU (s : State) (pa : Nat) : Bool := s.peerU.any fun p => decide (p.2 = pa / 64)

/-- The recorded class of a physical address (R142). -/
def State.recorded (s : State) (pa : Nat) : PageClass := (SMap.get? s.classes (pa / 4096)).getD .seq

/-- The home's class check (R142, R143). -/
def State.classCheck (s : State) (pa : Nat) (c : PageClass) : Except Bad Unit :=
  match s.changes.find? fun ch => ch.page = pa / 4096 with
  | some ch => if c = ch.old then .ok () else if c = ch.new then .error .hold else .error (.late cause.classAlias)
  | none => if s.recorded pa = c then .ok () else .error (.late cause.classAlias)

/-- Translation, permission, class and the faults of the path, for an access from a die once its page is looked up (R226). -/
def State.permit (s : State) (die va : Nat) (k : AccKind) (f : AccForm) : Option Hit → Except Bad Hit
  | none => .error (.translation va)
  | some h =>
    if h.allows k = false then .error (.early cause.protection)
    else if f.legal h.cls = false then .error (.early cause.classIllegal)
    else
      match s.pathFault die (h.phys va) with
      | some c => .error (.late c)
      | none =>
        let h := { h with place := (s.place die (h.phys va)).getD 0 - (va - h.base) }
        if s.awaitsU (h.phys va) then .error .hold else (s.classCheck (h.phys va) h.cls).map fun _ => h

/-- A walk from a die meets a table in the memory of a die that answers nobody (R400). -/
def State.lostTable (s : State) (die ctx va : Nat) : Bool :=
  s.dies.any Die.down && ((s.ctx? ctx).map fun c => (c.tableReads s.mem (s.place die) va).any s.downAt).getD false

/-- A structure holds a translation. -/
def State.cached (s : State) (ctx : Nat) (tlb : TlbId) (va : Nat) : Bool :=
  s.tlb.any fun e => decide (e.tlb = tlb ∧ e.ctx = ctx ∧ e.base ≤ va ∧ va < e.base + e.size)

/-- The access of a unit to a virtual address, through its TLB. DESIGN CHOICE: where the walk is answered with DIE_OFFLINE, so is the access (log entry
48). -/
def State.reach (s : State) (die ctx : Nat) (tlb : TlbId) (va : Nat) (k : AccKind) (f : AccForm) : Except Bad Hit :=
  if s.cached ctx tlb va = false ∧ s.lostTable (tlbDie tlb) ctx va = true then .error (.late cause.dieOffline)
  else s.permit die va k f (s.translate ctx tlb va)

/-- Where the page tables lead a command-processor core, whatever its home then says. -/
def State.cpPlace (s : State) (die ctx va : Nat) : Option Hit :=
  (((s.ctx? ctx).bind fun c => c.walk s.mem (s.place die) va).bind fun h => (s.place die (h.phys va)).map fun p => { h with place := p - (va - h.base) })

/-- The access of a command-processor core in a context, through the page tables (R339); an address beyond global space fails (R323). -/
def State.cpReach (s : State) (die ctx va : Nat) (k : AccKind) (f : AccForm) : Except Bad Hit :=
  if 2 ^ 56 ≤ va then .error (.early cause.spaceWindow)
  else if s.lostTable die ctx va then .error (.late cause.dieOffline)
  else s.permit die va k f ((s.ctx? ctx).bind fun c => c.walk s.mem (s.place die) va)

end Sys2Proof.Machine
end

