-- ==== Sys2Proof/Machine/Traps.lean ====
section
/-!
DEFINITION. Deferred traps on their way to a team, a context or its error log (R351, R353, R355).
-/

namespace Sys2Proof.Machine

/-- The least element under a measure; the first of equals. -/
def leastBy {α : Type} (f : α → Nat) : List α → Option α
  | [] => none
  | a :: r => some (r.foldl (fun b c => if f c < f b then c else b) a)

/-- The meet still takes charges: it has been neither terminated nor completed (R337). -/
def Meet.live (m : Meet) : Bool :=
  match m.st with
  | .deciding => false
  | .admitted => true
  | .launched => true
  | .terminated _ _ => false
  | .completed => false

/-- A deferred trap as it is recorded: WRITE_ONCE names the address of its 64-byte granule (Table 22.7). -/
def DTrap.recorded (d : DTrap) : DTrap :=
  if d.cause = cause.writeOnce then { d with info := dw (d.info.toNat - d.info.toNat % 64) } else d

/-- Queue a deferred trap for a team: the queue holds 16, and a trap that finds it full is dropped and counted. -/
def Team.defer (t : Team) (d : DTrap) : Team :=
  if t.dtraps.length < 16 then { t with dtraps := t.dtraps ++ [d.recorded] } else { t with lost := t.lost + 1 }

/-- The admitted uncompleted meets of a context, earliest admitted first. -/
def State.openMeets (s : State) (ctx : Nat) : List Meet := s.meets.filter fun m => m.ctx = ctx ∧ m.live

/-- A trap charged to a context that has no team of its own to take it: to the next team of its earliest meet, or to its error log (R355). -/
def State.ctxTrap (s : State) (ctx : Nat) (d : DTrap) : State :=
  match s.ctx? ctx with
  | none => s
  | some c =>
    if (s.openMeets ctx).isEmpty then s.setCtx { c with errlog := c.errlog ++ [{ cause := d.cause, info := d.recorded.info }] }
    else s.setCtx { c with due := c.due ++ [d] }

/-- Traps that still wait for a team go to the error log once their context has no uncompleted meet (R355). -/
def State.flushDue (s : State) (ctx : Nat) : State :=
  match s.ctx? ctx with
  | none => s
  | some c =>
    if c.due = [] ∨ s.openMeets ctx ≠ [] then s
    else s.setCtx { c with due := [], errlog := c.errlog ++ c.due.map fun d => { cause := d.cause, info := d.recorded.info } }

/-- A team has a live heat or an unended pacer program. -/
def Heat.alive (h : Heat) : Bool := h.fibres.any Option.isSome

/-- Some heat is live, or the pacer program has not ended. -/
def Team.alive (t : Team) : Bool := t.heats.any Heat.alive || (t.pacer.map Heat.alive).getD false

/-- Send a deferred trap to a team (R351, R355). -/
def State.defer (s : State) (team : Nat) (d : DTrap) : State :=
  match s.team? team with
  | none => s
  | some t => if t.alive ∧ t.st ≠ .retired then s.setTeam (t.defer d) else s.ctxTrap t.ctx d

/-- Send a trap to every context that a test names (R375, R376). -/
def State.ctxTraps (s : State) (p : Context → Bool) (d : DTrap) : State :=
  (s.ctxs.filter p).foldl (fun s c => s.ctxTrap c.id d) s

/-- A trap charged to the owner of a line (R354, R374, R407). -/
def State.ownerTrap (s : State) (owner : BitVec 16) (cs : Byte) (info : DWord) : State :=
  match SMap.get? s.owners owner.toNat with
  | some ctx => s.ctxTrap ctx { cause := cs, inner := 0, pc := 0, info := info, src := none }
  | none => s

end Sys2Proof.Machine
end

