-- ==== Sys2Proof/Machine/Home.lean ====
section
/-!
DEFINITION. Home slices (R357 to R362, R366): what memory holds, the reductions combined with it, notify pages (R324), and the copies that
hosts and peer devices hold, which a write waits for.
-/

namespace Sys2Proof.Machine

/-! ### Reductions at memory (R361, R362) -/

/-- The operations of Table 16.4 on numbers of a type. -/
def amoOp (op : Nat) (ty : Ty) (old b : Nat) : Nat :=
  let w := ty.bits
  let f := fmtOf ty
  let float : Bool := ty = .f32 ∨ ty = .bf16
  let less : Bool := if ty.signed then toSigned w old < toSigned w b else old < b
  match op with
  | 0 => if float then f.round 0 0 (Fp.add false (f.read old) (f.read b)) else (old + b) % 2 ^ w
  | 1 => old &&& b
  | 2 => old ||| b
  | 3 => old ^^^ b
  | 4 => if float then floatPick f false old b else if less then old else b
  | 5 => if float then floatPick f true old b else if less then b else old
  | 6 => b
  | 7 => if b ≤ old then 0 else old + 1
  | 8 => if old = 0 ∨ b < old then b else old - 1
  | _ => old

/-- Bytes of the location of a U line. -/
def ULine.bytes (l : ULine) : Nat := l.ty.bits / 8

/-- The U line of a location is one of the lines of a range. -/
def ULine.onLines (l : ULine) (pa n : Nat) : Bool := decide (64 * (l.pa / 64) < pa + n ∧ pa < 64 * (l.pa / 64) + 64)

/-- Combine a location of a U line with memory at its home (R362). -/
def applyU (m : List Host.Cell) (l : ULine) : List Host.Cell :=
  Memory.write m l.pa (leBytes (amoOp l.op l.ty (leNat (Memory.read m l.pa l.bytes)) l.val.toNat) l.bytes)

/-- Recall every U copy of the lines of a range (R362). -/
def State.recallU (s : State) (pa n : Nat) : State :=
  { s with
    mem := (s.ulines.filter fun l => l.onLines pa n).foldl applyU s.mem
    ulines := s.ulines.filter fun l => !l.onLines pa n }

/-! ### Memory at its home -/

/-- Read at the home. -/
def State.homeRead (s : State) (pa n : Nat) : List Byte × State :=
  let s := s.recallU pa n
  (Memory.read s.mem pa n, s)

/-- Lines that a range covers whole. -/
def wholeLine (line pa n : Nat) : Bool := decide (pa ≤ 64 * line ∧ 64 * line + 64 ≤ pa + n)

/-- An invalidation covers a byte of a range. -/
def Inval.meets (v : Inval) (pa n : Nat) : Bool := decide (v.base < pa + n ∧ pa < v.base + v.size)

/-- Write at the home: U lines return first (R362), a write that covers a poisoned line whole ends its poison (R374), and invalidations that
were answered ahead of it are used up (R359). -/
def State.homeWrite (s : State) (pa : Nat) (bs : List Byte) : State :=
  let s := s.recallU pa bs.length
  { s with
    mem := Memory.write s.mem pa bs
    poison := s.poison.filter fun l => !wholeLine l pa bs.length
    invals := s.invals.filter fun v => !(v.left.isEmpty && v.meets pa bs.length) }

/-- Write bytes at the home one by one, each where it belongs. -/
def State.publish (s : State) : List (Nat × Byte) → State
  | [] => s
  | (pa, b) :: r => (s.homeWrite pa [b]).publish r

/-- Some line of a range is poisoned. -/
def State.poisoned (s : State) (pa n : Nat) : Bool := s.poison.any fun l => decide (64 * l < pa + n ∧ pa < 64 * l + 64)

/-- The lines of a range. -/
def linesOf (pa n : Nat) : List Nat := (List.range ((pa + n + 63) / 64 - pa / 64)).map fun i => pa / 64 + i

/-! ### Notify pages (R324) -/

/-- A store to a tail register (R324). -/
def Queue.putTail (q : Queue) (v : Word) : Queue :=
  let step := (v - q.tail).toNat
  if 1 ≤ step ∧ step < 2 ^ 31 ∧ (v - q.head).toNat ≤ 2 ^ q.desc.n then { q with tail := v } else { q with errors := q.errors + 1 }

/-- The queue of a VF at a block of its notify page. -/
def State.queueAt (s : State) (vf index : Nat) : Option Queue := s.queues.find? fun q => q.desc.vf = vf ∧ q.desc.index = index

/-- A load from a notify page: a 4-byte load of a tail register returns the tail, every other load zero. -/
def State.notifyLoad (s : State) (vf ofs n : Nat) : Word :=
  match s.queueAt vf (ofs / 64) with
  | some q => if ofs % 64 = 0 ∧ n = 4 then q.tail else 0
  | none => 0

/-- A store to a notify page: a 4-byte store to a tail register acts on the tail, every other store in a queue's block counts as an error. -/
def State.notifyStore (s : State) (vf ofs : Nat) (bs : List Byte) : State :=
  match s.queueAt vf (ofs / 64) with
  | some q => s.setQueue (if ofs % 64 = 0 ∧ bs.length = 4 then q.putTail (wd (leNat bs)) else { q with errors := q.errors + 1 })
  | none => s

/-- Read a range of a SEQ page at its home: memory, or a notify page. -/
def State.seqRead (s : State) (pa n : Nat) : List Byte × State :=
  match s.notifyVf pa with
  | some vf => (leBytes (s.notifyLoad vf (pa % 4096) n).toNat n, s)
  | none => s.homeRead pa n

/-- Write a range of a SEQ page at its home. -/
def State.seqWrite (s : State) (pa : Nat) (bs : List Byte) : State :=
  match s.notifyVf pa with
  | some vf => s.notifyStore vf (pa % 4096) bs
  | none => s.homeWrite pa bs

/-! ### Copies outside the package (R357, R359, R366) -/

/-- The hosts that the snoop filter records for a line. -/
def State.hostsOf (s : State) (line : Nat) : List Nat := ((s.snoopFl.find? fun t => t.region = line).map Track.holders).getD []

/-- The hosts whose back-invalidation of a line is on its way. -/
def State.snooped (s : State) (line : Nat) : List Nat := (s.snoops.filter fun n => n.line = line).map Snoop.host

/-- The peers that a home's tracker records for a region, as the numbers under which they acknowledge: 3,000 plus the device, 5,000 for a
broadcast to every device. -/
def State.peersOf (s : State) (pa : Nat) : List Nat :=
  match (s.homeOf pa).bind fun d => ((SMap.get? s.peerTrk d).getD []).find? fun t => t.region = pa / 2048 with
  | some t => if t.bcast then [5000] else t.holders.map (3000 + ·)
  | none => []

/-- The number under which a requester would acknowledge. -/
def ownNumber : Option Requester → List Nat
  | some (.host h) => [2000 + h]
  | some (.peer d) => [3000 + d]
  | none => []

/-- The hosts that must answer before a write to a line is performed (R366). -/
def State.hostsOut (s : State) (line : Nat) : List Nat := (s.hostsOf line ++ s.snooped line).dedup

/-- The peers that must answer before a write to a line is performed: those whose invalidation is on its way, and, where the class calls for one and
none has been answered, those that the tracker records (R358, R359). -/
def State.peersOut (s : State) (cls : PageClass) (line : Nat) : List Nat :=
  let vs := s.invals.filter fun v => v.meets (64 * line) 64
  let known := if cls = .phase ∨ vs.any (fun v => v.left.isEmpty) then [] else s.peersOf (64 * line)
  (vs.flatMap Inval.left ++ known).dedup

/-- Those outside the package who must answer before a write to a line is performed, the writer aside. -/
def State.outHolders (s : State) (src : Option Requester) (cls : PageClass) (line : Nat) : List Nat :=
  ((s.hostsOut line).map (2000 + ·) ++ s.peersOut cls line).filter fun k => k ∉ ownNumber src

/-- Nobody outside the package must answer before a write to some lines. -/
def State.clear (s : State) (src : Option Requester) (cls : PageClass) (lines : List Nat) : Bool := lines.all fun l => (s.outHolders src cls l).isEmpty

/-- Send a back-invalidation to hosts that have none of the line on its way (R366). -/
def State.sendSnoops (s : State) (line : Nat) : List Nat → State
  | [] => s
  | h :: r =>
    if s.snoops.any fun n => n.line = line ∧ n.host = h then s.sendSnoops line r
    else (({ s with snoops := s.snoops ++ [{ line := line, host := h, held := [] }] } : State).tell (.bisnp line h)).sendSnoops line r

/-- Send an invalidation of a range to peers. -/
def State.sendInval (s : State) (base size : Nat) (left : List Nat) : State :=
  { s with invals := s.invals ++ [{ id := s.nextId, base := base, size := size, left := left }], nextId := s.nextId + 1 }

/-- Invalidate what is held outside the package of lines that are about to be written (R359, R366). -/
def State.askOutside (s : State) (src : Option Requester) (cls : PageClass) : List Nat → State
  | [] => s
  | l :: r =>
    let own := ownNumber src
    let s := s.sendSnoops l ((s.hostsOut l).filter fun h => 2000 + h ∉ own)
    let ps := (s.peersOut cls l).filter fun k => k ∉ own
    let s := if ps = [] ∨ s.invals.any (fun v => v.meets (64 * l) 64) then s else s.sendInval (64 * l) 64 ps
    s.askOutside src cls r

end Sys2Proof.Machine
end

