-- ==== Sys2Proof/Machine/Caches.lean ====
section
/-!
DEFINITION. Cached copies (R15, R16, R103, R104): where they are held and replaced, their read counts (R111), the structures that track them
(R357, R358, R360), and write-back (R132, R374, R407).
-/

namespace Sys2Proof.Machine

/-! ### Levels -/

/-- The level a unit reaches first is its core's L0, or for the pacer the cluster cache (R230). -/
def Site.levels (x : Site) : List Level :=
  match x.core? with
  | some c => [.l0 x.team.cl c, .clus x.team.cl, .l2 x.team.cl.die]
  | none => [.clus x.team.cl, .l2 x.team.cl.die]

/-- The number under which a holder of copies acknowledges: a cluster by its device number, an L2 by 1,000 plus its die. -/
def Level.holder : Level → Nat
  | .l0 cl _ => (clusterNo cl)
  | .clus cl => (clusterNo cl)
  | .l2 d => 1000 + d

/-- The die of a level. -/
def Level.die : Level → Nat
  | .l0 cl _ => cl.die
  | .clus cl => cl.die
  | .l2 d => d

/-- A cache on the path of a unit of a cluster. -/
def Level.onPath (cl : ClusterRef) : Level → Bool
  | .l0 k _ => decide (k = cl)
  | .clus k => decide (k = cl)
  | .l2 d => decide (d = cl.die)

/-- The banks of a cluster in CACHE mode: each is one way of the cluster cache (R103). -/
def State.cacheWays (s : State) (cl : ClusterRef) : List Nat :=
  ((s.cluster? cl).map fun c => c.banks.zipIdx.filterMap fun b => if b.1.mode = .cache then some b.2 else none).getD []

/-- The cluster has a cache: some bank is in CACHE mode (R103, R137). -/
def State.hasCache (s : State) (cl : ClusterRef) : Bool := !(s.cacheWays cl).isEmpty

/-- The ways of a die's L2 that a way partition enables (R104). An all-zero mask treats a line as BYPASS, which the home die's L2 alone allocates; DESIGN
CHOICE: there it may take any way (log entry 60). -/
def State.l2Ways (s : State) (die part : Nat) (home : Bool) : List Nat :=
  let mask := ((s.die? die).bind fun d => d.waypart[part]?).getD 0
  if mask = 0 ∧ home = true then List.range 16 else (List.range 16).filter fun w => mask.getLsbD w

/-- The set of a line: the cluster cache has 4,096 sets, the L2 64 slices of 2,048, and an L0 is one set of 1,024 lines (R15, R16, R103; log entry 60). -/
def Level.setOf : Level → Nat → Nat
  | .l0 _ _, _ => 0
  | .clus _, line => line % 4096
  | .l2 _, line => line % 131072

/-! ### Copies -/

/-- The copies of a line. -/
def State.copies (s : State) (line : Nat) : List CLine := s.lines.filter fun c => c.line = line

/-- The first copy of a class on a unit's path that a load may use: a PHASE copy only before its lease expires (R129). -/
def State.copyFor (s : State) (x : Site) (cls : PageClass) (line : Nat) : Option CLine :=
  x.levels.findSome? fun lv => s.lines.find? fun c =>
    decide (c.level = lv ∧ c.line = line ∧ c.cls = cls ∧ (cls = .phase → s.now < c.lease))

/-- Replace a copy. -/
def State.putCopy (s : State) (c : CLine) : State :=
  { s with lines := c :: s.lines.filter fun d => ¬ (d.level = c.level ∧ d.line = c.line) }

/-- Drop the copies that a test names. -/
def State.dropCopies (s : State) (p : CLine → Bool) : State := { s with lines := s.lines.filter fun c => !p c }

/-- The dirty bytes of a copy, each with its address. -/
def CLine.dirtyBytes (c : CLine) : List (Nat × Byte) :=
  (c.bytes.zip c.dirty).zipIdx.filterMap fun ((b, d), i) => if d then some (64 * c.line + i, b) else none

/-! ### Write-back (R132, R374, R407) -/

/-- A copy of a PRIV line with bytes that a nearer cache has written back through it. -/
def CLine.takeDirty (c : CLine) (bs : List (Nat × Byte)) : CLine := { c with bytes := bs.foldl (fun l p => l.set (p.1 % 64) p.2) c.bytes }

/-- What is written back passes the caches below it: the cluster cache of an L0, and the L2s, whose copies of PRIV lines hold what the home has (log
entry 61). -/
def State.passDown (s : State) (c : CLine) : State :=
  let under (d : CLine) : Bool := decide (d.line = c.line ∧ d.cls = c.cls) &&
    match d.level, c.level with
    | .clus k, .l0 cl _ => decide (k = cl)
    | .l2 _, _ => true
    | _, _ => false
  { s with lines := s.lines.map fun d => if under d then d.takeDirty c.dirtyBytes else d }

/-- Write the dirty bytes of a PRIV copy back to its home, a line that is dirty throughout in one write: what a home that answers with an error discards,
and the cause it answers (R407); a part of a poisoned line meets its poison (R374). -/
def State.writeBack (s : State) (die : Nat) (c : CLine) : State × Option Byte :=
  if c.dirtyBytes.isEmpty then (s, none)
  else
    match s.pathFault die (64 * c.line) with
    | some cs => (s, some cs)
    | none =>
      match s.classCheck (64 * c.line) c.cls with
      | .error (.late cs) => (s, some cs)
      | _ =>
        if c.dirtyBytes.length = 64 then ((s.passDown c).homeWrite (64 * c.line) c.bytes, none)
        else if c.line ∈ s.poison then (s, some cause.poison)
        else ((s.passDown c).publish c.dirtyBytes, none)

/-- Charge what the home of a written-back line answered to the context of its OWNER tag (R407). -/
def State.chargeOwner (s : State) (die : Nat) (c : CLine) (cs : Byte) : State :=
  s.ownerTrap c.owner cs (s.pathInfo die (64 * c.line) cs (dw (2 ^ 63 + s.physical die (64 * c.line))))

/-- The copy is clean. -/
def CLine.cleaned (c : CLine) : CLine := { c with dirty := List.replicate 64 false, chunk := none }

/-- Write a copy back; it stays, clean, unless its home answers with an error: then its data is discarded, and the owner charged (R407). -/
def State.writeBackOne (s : State) (die : Nat) (c : CLine) : State :=
  match s.writeBack die c with
  | (s, none) => { s with lines := s.lines.map fun d => if d.level = c.level ∧ d.line = c.line then d.cleaned else d }
  | (s, some cs) => (s.chargeOwner die c cs).dropCopies fun d => d.level = c.level ∧ d.line = c.line

/-- The lines that reach the home with a copy: those of the chunk that a converting write dirtied with it (R92). -/
def State.mates (s : State) (c : CLine) : List CLine :=
  match c.chunk with
  | none => []
  | some _ => s.lines.filter fun d => d.level = c.level ∧ d.chunk = c.chunk ∧ d.line ≠ c.line

/-- Write a copy back, and with it the rest of its chunk. -/
def State.writeBackLine (s : State) (die : Nat) (c : CLine) : State := (s.mates c ++ [c]).foldl (fun s d => s.writeBackOne die d) s

/-- Copies with those of the cluster caches first: what an L0 holds is the newer, and reaches the home last. -/
def outerFirst (cs : List CLine) : List CLine :=
  let inner (c : CLine) : Bool := match c.level with
    | .l0 _ _ => true
    | .clus _ => false
    | .l2 _ => false
  cs.filter (fun c => !inner c) ++ cs.filter inner

/-- Write the copies that a test names back; they stay. -/
def State.writeBackAll (s : State) (p : CLine → Bool) : State := (outerFirst (s.lines.filter p)).foldl (fun s c => s.writeBackLine c.level.die c) s

/-- Evict a copy: dirty data goes home, poisoned when an error is found in it, which is charged to the owner (R374). -/
def State.evictCopy (s : State) (bad : Bool) (c : CLine) : State :=
  let die := c.level.die
  let s := (s.mates c).foldl (fun s d => s.writeBackOne die d) s
  let s := match s.writeBack die c with
    | (s, some cs) => s.chargeOwner die c cs
    | (s, none) =>
      if bad ∧ ¬ c.dirtyBytes.isEmpty then
        ({ s with poison := c.line :: s.poison.filter (· ≠ c.line) } : State).chargeOwner die c cause.poison
      else s
  s.dropCopies fun d => d.level = c.level ∧ d.line = c.line

/-! ### Replacement (R104) -/

/-- Who goes first from a full set: EVICT_FIRST lines, then NORMAL ones, RETAIN ones last; among equals the least recently used. -/
def evictionKey (uses policy used : Nat) : Nat := (if policy = 1 then 0 else if policy = 2 then 2 else 1) * (uses + 1) + used

/-- Make room for a line at a level inside a cluster: the way it takes; none when the level has no ways. -/
def State.roomNear (s : State) (lv : Level) (line : Nat) : Option (Nat × State) :=
  let mine := s.lines.filter fun c => decide (c.level = lv ∧ lv.setOf c.line = lv.setOf line)
  let victim (ways : List Nat) : Option (Nat × State) :=
    (leastBy (fun c : CLine => evictionKey s.uses c.policy c.used) (mine.filter fun c => c.way ∈ ways)).map fun c => (c.way, s.evictCopy false c)
  match lv with
  | .l0 _ _ => if mine.length < 1024 then some (0, s) else victim [0]
  | .clus cl =>
    let ways := s.cacheWays cl
    match ways.find? fun w => mine.all fun c => c.way ≠ w with
    | some w => some (w, s)
    | none => victim ways
  | .l2 _ => none

/-- The lines of an L2 set: line, policy, way and last use of each, of the die's own memory and remote. -/
def State.l2Set (s : State) (die line : Nat) : List Tag :=
  let set := line % 131072
  (s.slices.filter fun t => decide (t.die = die ∧ t.line % 131072 = set)) ++
    s.lines.filterMap fun c =>
      if c.level = .l2 die ∧ c.line % 131072 = set then some { die := die, line := c.line, policy := c.policy, way := c.way, used := c.used } else none

/-- Drop a line from an L2. -/
def State.dropL2 (s : State) (t : Tag) : State :=
  ({ s with slices := s.slices.filter fun u => ¬ (u.die = t.die ∧ u.line = t.line) } : State).dropCopies fun c => c.level = .l2 t.die ∧ c.line = t.line

/-- Make room for a line in an L2, in a way that its partition enables. -/
def State.roomL2 (s : State) (die line part : Nat) : Option (Nat × State) :=
  let ways := s.l2Ways die part (s.homeOf (64 * line) == some die)
  let mine := s.l2Set die line
  match ways.find? fun w => mine.all fun t => t.way ≠ w with
  | some w => some (w, s)
  | none => (leastBy (fun t : Tag => evictionKey s.uses t.policy t.used) (mine.filter fun t => t.way ∈ ways)).map fun t => (t.way, s.dropL2 t)

/-! ### Tracking structures (R357, R358, R360) -/

/-- Add an agent to the entry of a region, with the expiry of the lease it takes; a structure that is full gives up its oldest entry (R357). -/
def trackAdd (cap : Nat) (ts : List Track) (region holder lease : Nat) : List Track × Option Track :=
  if ts.any fun t => t.region = region then
    (ts.map fun t => if t.region = region then
      { t with holders := if holder ∈ t.holders then t.holders else t.holders ++ [holder], lease := max t.lease lease } else t, none)
  else
    let new := { region := region, holders := [holder], bcast := false, lease := lease }
    if ts.length < cap then (ts ++ [new], none) else (ts.tail ++ [new], ts.head?)

/-- Recall an entry of a cluster filter: the cores' copies go. PRIV lines are not recorded (R358). -/
def State.recallFilter (s : State) (cl : ClusterRef) (t : Track) : State :=
  s.dropCopies fun c => decide (c.cls ≠ .priv ∧ c.line = t.region) && t.holders.any fun k => decide (c.level = .l0 cl k)

/-- The copy lies where a die directory's entry points: a cluster of the die, or, by the hub's bit 24, another die. -/
def Track.names (t : Track) (die : Nat) (lv : Level) : Bool :=
  match lv with
  | .l0 cl _ => t.holders.contains (if cl.die = die then cl.loc else 24)
  | .clus cl => t.holders.contains (if cl.die = die then cl.loc else 24)
  | .l2 d => decide (d ≠ die) && t.holders.contains 24

/-- Recall an entry of a die directory: the copies in its region go, and the U lines return (R357, R362). -/
def State.recallDirectory (s : State) (die : Nat) (t : Track) : State :=
  (s.recallU (512 * t.region) 512).dropCopies fun c => decide (c.cls ≠ .priv ∧ c.line / 8 = t.region) && t.names die c.level

/-- Recall an entry of the port directory. -/
def State.recallPort (s : State) (t : Track) : State :=
  (s.recallU (512 * t.region) 512).dropCopies fun c => decide (c.cls ≠ .priv ∧ c.line / 8 = t.region ∧ c.level.die ∈ t.holders)

/-- Recall an entry of a peer tracker: the devices that it names are told to drop the region (R357). -/
def State.recallPeers (s : State) (t : Track) : State :=
  s.sendInval (2048 * t.region) 2048 (if t.bcast then [5000] else t.holders.map (3000 + ·))

/-- Recall an entry of the snoop filter: its hosts are back-invalidated (R357, R366). -/
def State.recallHosts (s : State) (t : Track) : State := s.sendSnoops t.region t.holders

/-- Record a core's copy in its cluster filter. -/
def State.trackFilter (s : State) (cl : ClusterRef) (core line : Nat) : State :=
  match trackAdd 16384 ((SMap.get? s.filters (clusterNo cl)).getD []) line core 0 with
  | (ts, none) => { s with filters := SMap.set s.filters (clusterNo cl) ts }
  | (ts, some v) => ({ s with filters := SMap.set s.filters (clusterNo cl) ts } : State).recallFilter cl v

/-- Record a holder in a home's die directory. -/
def State.trackDirectory (s : State) (die holder pa lease : Nat) : State :=
  match trackAdd 1048576 ((SMap.get? s.dirs die).getD []) (pa / 512) holder lease with
  | (ts, none) => { s with dirs := SMap.set s.dirs die ts }
  | (ts, some v) => ({ s with dirs := SMap.set s.dirs die ts } : State).recallDirectory die v

/-- Record a die in the port directory. -/
def State.trackPort (s : State) (die pa lease : Nat) : State :=
  match trackAdd 262144 s.portDir (pa / 512) die lease with
  | (ts, none) => { s with portDir := ts }
  | (ts, some v) => ({ s with portDir := ts } : State).recallPort v

/-- Record a new copy in the structures of Table 24.1: the cluster filter, and the die or port directory. -/
def State.track (s : State) (lv : Level) (pa lease : Nat) : State :=
  let s := match lv with
    | .l0 cl core => s.trackFilter cl core (pa / 64)
    | .clus _ => s
    | .l2 _ => s
  match s.homeOf pa with
  | some d =>
    match lv with
    | .l0 cl _ => s.trackDirectory d (if cl.die = d then cl.loc else 24) pa lease
    | .clus cl => s.trackDirectory d (if cl.die = d then cl.loc else 24) pa lease
    | .l2 e => if e = d then s else s.trackDirectory d 24 pa lease
  | none => s.trackPort lv.die pa lease

/-- Record a host in the snoop filter (R357, R366). -/
def State.recordHost (s : State) (line h : Nat) : State :=
  match trackAdd 16777216 s.snoopFl line h 0 with
  | (ts, none) => { s with snoopFl := ts }
  | (ts, some v) => ({ s with snoopFl := ts } : State).recallHosts v

/-- An entry that names more than four devices names them all (R357). -/
def Track.widen (t : Track) : Track := if 4 < t.holders.length then { t with holders := t.holders.take 4, bcast := true } else t

/-- Record a peer in the tracker of a region's home (R357). -/
def State.recordPeer (s : State) (die pa device lease : Nat) : State :=
  match trackAdd 262144 ((SMap.get? s.peerTrk die).getD []) (pa / 2048) device lease with
  | (ts, none) => { s with peerTrk := SMap.set s.peerTrk die (ts.map Track.widen) }
  | (ts, some v) => ({ s with peerTrk := SMap.set s.peerTrk die (ts.map Track.widen) } : State).recallPeers v

/-- The latest lease expiry that the tracking structures hold for a 512-byte region, and for the peers' region (R358). -/
def State.regionLease (s : State) (pa : Nat) : Nat :=
  let of (ts : List Track) (r : Nat) : Nat := ((ts.find? fun t => t.region = r).map Track.lease).getD 0
  match s.homeOf pa with
  | some d => max (of ((SMap.get? s.dirs d).getD []) (pa / 512)) (of ((SMap.get? s.peerTrk d).getD []) (pa / 2048))
  | none => of s.portDir (pa / 512)

/-- The cycle at which the last lease on a range expires, 0 when none stands (R129, R358). -/
def State.leaseEnd (s : State) (pa n : Nat) : Nat :=
  let t := ((linesOf pa n).map fun l => s.regionLease (64 * l)).foldl max 0
  if s.now < t then t else 0

/-! ### Bringing a line nearer (R103, R104, R111, R129 to R132, R360) -/

/-- Every granule of a STREAM line is written (R130, R131): a granule is a line. -/
def State.lineWritten (s : State) (line : Nat) : Bool := s.granules.contains line

/-- The line may be held at a level: a policy and a class that allocate there, and a cache that is there. Lines behind a port are held in the L2 of the
dies that read them (R360). -/
def State.mayHold (s : State) (h : Hit) (line : Nat) (lv : Level) : Bool :=
  decide (h.policy ≠ 3) && (decide (h.cls ≠ .stream) || s.lineWritten line) &&
    match lv with
    | .l0 _ _ => decide (h.cls ≠ .stream)
    | .clus cl => s.hasCache cl
    | .l2 _ => (s.homeOf (64 * line)).isNone

/-- Hold a copy at a level, where there is room for it, and record it. -/
def State.hold (s : State) (h : Hit) (c : CLine) : State :=
  match (match c.level with | .l2 d => s.roomL2 d c.line h.wayp | .l0 _ _ => s.roomNear c.level c.line | .clus _ => s.roomNear c.level c.line) with
  | none => s
  | some (w, s) =>
    let s := { s.putCopy { c with way := w, used := s.uses } with uses := s.uses + 1 }
    if c.cls = .priv then s else s.track c.level (64 * c.line) (if c.cls = .phase then c.lease else 0)

/-- A line of a die's own memory is used in its L2: it is there, or it misses and is allocated (R104); the misses of the issue count (R318). -/
def State.useHome (s : State) (h : Hit) (line : Nat) : State :=
  match s.homeOf (64 * line) with
  | none => { s with missed := s.missed + 1 }
  | some d =>
    if s.slices.any fun t => t.die = d ∧ t.line = line then
      { s with slices := s.slices.map fun t => if t.die = d ∧ t.line = line then { t with policy := h.policy, used := s.uses } else t, uses := s.uses + 1 }
    else
      let s := { s with missed := s.missed + 1 }
      if h.cls = .stream ∧ s.lineWritten line = false then s
      else
        match s.roomL2 d line h.wayp with
        | none => s
        | some (w, s) => { s with slices := { die := d, line := line, policy := h.policy, way := w, used := s.uses } :: s.slices, uses := s.uses + 1 }

/-- A lease that a level of a die takes now (R129): 1,024 cycles of the die's arithmetic clock. -/
def State.newLease (s : State) (lv : Level) : Nat := s.now + s.span lv.die 1024

/-- The lines of the tables that a walk from a die has read stand in the L2s, as SEQ lines under NORMAL (R340). -/
def State.useTables (s : State) (die : Nat) (reads : List Nat) : State :=
  let h : Hit := { base := 0, size := 4096, leaf := 0, place := 0 }
  let t := (reads.map fun a => a / 64).foldl (fun s line =>
    if (s.homeOf (64 * line)).isSome then s.useHome h line
    else if s.lines.any fun c => decide (c.level = .l2 die ∧ c.line = line) then s
    else
      let (bs, s) := s.homeRead (64 * line) 64
      s.hold h { level := .l2 die, line := line, cls := .seq, bytes := bs, dirty := List.replicate 64 false, lease := 0, rc := 0, owner := 0, policy := 0,
                 way := 0, used := 0 }) s
  { t with missed := s.missed }

/-- A copy is used. -/
def State.touch (s : State) (c : CLine) : State :=
  { s with lines := s.lines.map fun d => if d.level = c.level ∧ d.line = c.line then { d with used := s.uses } else d, uses := s.uses + 1 }

/-- The levels of a unit's path that are nearer than a copy's, the farthest first; all of them when there is no copy. -/
def Site.nearer (x : Site) (c : Option CLine) : List Level :=
  (match c with
    | some c => x.levels.takeWhile fun lv => lv ≠ c.level
    | none => x.levels).reverse

/-- The read count that a load sets on the copy that it fills at a level: in L0, or for a STREAM line in the cluster cache (R111). -/
def countAt (cls : PageClass) (rc : Nat) : Level → Nat
  | .l0 _ _ => if cls = .stream then 0 else rc
  | .clus _ => if cls = .stream then rc else 0
  | .l2 _ => 0

/-- Bring a line to a unit: the 64 bytes, from the nearest copy of a PHASE or PRIV line, else from the home, and the copies that the load fills on its
way. A line filled from a leased copy keeps that copy's lease. -/
def State.bring (s : State) (x : Site) (h : Hit) (line rc : Nat) : List Byte × State :=
  let found := s.copyFor x h.cls line
  let (bs, s) := match found with
    | some c =>
      match h.cls with
      | .phase | .priv => (c.bytes, s.touch c)
      | .seq | .stream =>
        let (bs, s) := s.homeRead (64 * line) 64
        (bs, s.touch c)
    | none =>
      let (bs, s) := s.homeRead (64 * line) 64
      (bs, s.useHome h line)
  let lease (lv : Level) : Nat := (found.map CLine.lease).getD (s.newLease lv)
  (bs, ((x.nearer found).filter fun lv => s.mayHold h line lv).foldl (fun s lv =>
    s.hold h { level := lv, line := line, cls := h.cls, bytes := bs, dirty := List.replicate 64 false, lease := lease lv, rc := countAt h.cls rc lv,
               owner := h.owner, policy := h.policy, way := 0, used := 0 }) s)

/-! ### Read counts (R111) -/

/-- Count down the read count of the copy a load hits; at zero the line goes, dirty data and all. -/
def State.hitCount (s : State) (c : CLine) : State :=
  match c.rc with
  | 0 => s
  | 1 => s.dropCopies fun d => d.level = c.level ∧ d.line = c.line
  | n + 2 => s.putCopy { c with rc := n + 1 }

/-- A load instruction counts once on each line that it hit with a read count, whatever the number of its fibres; `s0` is the state before it. -/
def State.countHits (s0 : State) (x : Site) (lines : List (PageClass × Nat)) (s : State) : State :=
  lines.dedup.foldl (fun s p => match s0.copyFor x p.1 p.2 with
    | some c =>
      if c.rc = 0 then s
      else
        match s.lines.find? fun d => d.level = c.level ∧ d.line = c.line with
        | some d => s.hitCount d
        | none => s
    | none => s) s

/-- A store to a counted line of a class other than PRIV removes its count. -/
def State.uncount (s : State) (x : Site) (line : Nat) : State :=
  { s with lines := s.lines.map fun c => if c.line = line ∧ c.cls ≠ .priv ∧ c.level ∈ x.levels then { c with rc := 0 } else c }

/-- The bytes of a range out of a copy of its line. -/
def CLine.slice (c : CLine) (pa n : Nat) : List Byte := (c.bytes.drop (pa % 64)).take n

end Sys2Proof.Machine
end

