-- ==== Sys2Proof/Machine/Access.lean ====
section
/-!
DEFINITION. Loads and stores of one page by its class (R126 to R132), write sets and what is published to fewer agents than the device (R127, R128,
R136), releases and acquires (R123, R138, R139).
-/

namespace Sys2Proof.Machine

/-! ### PHASE pages (R127, R128) -/

/-- A byte of a write set. -/
def wsGet (ws : List WsByte) (pa : Nat) : Option Byte := (ws.find? fun b => b.pa = pa).map WsByte.byte

/-- Put a byte into a write set: the later store replaces the earlier one. -/
def wsPut (ws : List WsByte) (b : WsByte) : List WsByte := b :: ws.filter fun c => c.pa ≠ b.pa

/-- Put the bytes of a store from an address upwards into a write set. -/
def wsWrite (ws : List WsByte) (pa : Nat) (owner : BitVec 16) (pc : Pc) : List Byte → List WsByte
  | [] => ws
  | b :: bs => wsWrite (wsPut ws { pa := pa, byte := b, owner := owner, pc := pc }) (pa + 1) owner pc bs

/-- Drop the bytes of a range from a write set. -/
def wsDrop (ws : List WsByte) (pa n : Nat) : List WsByte := ws.filter fun b => decide (b.pa < pa ∨ pa + n ≤ b.pa)

/-- A byte published to a layer. -/
def layerGet (l : List LayerByte) (pa : Nat) : Option Byte := (l.find? fun b => b.pa = pa).map LayerByte.byte

/-- Publish a byte to a layer; the rinds that QPACKs wrote there stay behind it. -/
def layerPut (l : List LayerByte) (b : LayerByte) : List LayerByte := b :: l.filter fun c => decide (c.pa ≠ b.pa) || c.pack.isSome

/-- Put the result of an atomic of a unit into a layer, from an address upwards. -/
def layerWrite (l : List LayerByte) (u : UnitRef) (pc : Pc) (pa : Nat) : List Byte → List LayerByte
  | [] => l
  | b :: bs => layerWrite (layerPut l { pa := pa, byte := b, seen := [u], pc := pc, amo := true }) u pc (pa + 1) bs

/-- The format of a QPACK. -/
def Pack.format (p : Pack) : Entry := Entry.ofWord p.word

/-- The address of the chunk's rind. -/
def Pack.rindAt (p : Pack) : Nat := p.base + 4096 + p.format.scaleArea

/-- What a QPACK writes where it is performed, over the chunk as the other writes left it (R91, R280). -/
def Pack.result (p : Pack) (chunk : List Byte) : List (Nat × Byte) :=
  let put := p.bytes.filter fun b => b.1 < p.rindAt
  let now_ := put.foldl (fun c b => c.set (b.1 - p.base) b.2) chunk
  put ++ (p.format.rindOf (p.format.rewrite p.fmt now_ p.sat false)).zipIdx.map fun q => (p.rindAt + q.2, q.1)

/-- What a QPACK wrote, without what later writes at some addresses replaced: none when nothing is left. -/
def Pack.without (p : Pack) (pas : List Nat) : Option Pack :=
  let q := { p with bytes := p.bytes.filter fun b => decide (b.1 ∉ pas) }
  if q.bytes.any fun b => decide (b.1 < q.rindAt) then some q else none

/-- A layer without its bytes at some addresses; a QPACK performed there keeps what it wrote elsewhere, its rind among it (R91). -/
def layerDrop (l : List LayerByte) (pas : List Nat) : List LayerByte :=
  l.filterMap fun b =>
    match b.pack with
    | none => if b.pa ∈ pas then none else some b
    | some p => (p.without pas).map fun q => { b with pack := some q }

/-- A layer without the results of atomics at some addresses: a write that they did not read, published more widely, follows them in
the coherence order (R124, R136). -/
def layerYield (l : List LayerByte) (pas : List Nat) : List LayerByte := l.filter fun b => !(b.amo && decide (b.pa ∈ pas))

/-- The addresses of a range. -/
def addresses (pa n : Nat) : List Nat := (List.range n).map (pa + ·)

/-- The layer of a unit's squad; the pacer has none (R121). -/
def Site.sqLayer (x : Site) : List LayerByte := if x.isPacer then [] else x.team.sqLayer.getD x.squad []

/-- A byte of a PHASE page as a unit loads it: its own latest store, then what its squad and its team published, then
the line as held or as the home has it. -/
def Site.phaseByte (x : Site) (under : Byte) (pa : Nat) : Byte :=
  match wsGet x.heat.ws pa with
  | some b => b
  | none =>
    match layerGet x.sqLayer pa with
    | some b => b
    | none => (layerGet x.team.tmLayer pa).getD under

/-- Bytes of a PHASE page from an address upwards. -/
def Site.phaseBytes (x : Site) (pa : Nat) : List Byte → List Byte
  | [] => []
  | b :: bs => x.phaseByte b pa :: x.phaseBytes (pa + 1) bs

/-- The bytes of a range as a layer has them over what lies below it. -/
def layerOver (l : List LayerByte) (pa : Nat) (bs : List Byte) : List Byte := bs.zipIdx.map fun q => (layerGet l (pa + q.2)).getD q.1

/-! ### What is published to a die or to the package (R121, R127) -/

/-- What releases at .di have published to the agents of a die, or those at .dv, under none, to the agents of the package. -/
def State.wideAt (s : State) (at_ : Option Nat) : List LayerByte := (s.wide.filter fun p => p.1 = at_).map Prod.snd

/-- Set what is published to a die or to the package. -/
def State.setWide (s : State) (at_ : Option Nat) (l : List LayerByte) : State :=
  { s with wide := l.map (fun b => (at_, b)) ++ s.wide.filter fun p => p.1 ≠ at_ }

/-- A range of a PHASE page as the agents of a die see it, over what the home or a copy holds. -/
def State.wideOver (s : State) (die pa : Nat) (bs : List Byte) : List Byte :=
  if s.wide.isEmpty then bs else layerOver (s.wideAt (some die)) pa (layerOver (s.wideAt none) pa bs)

/-- A write at the home by an agent of a die comes after what was published to that agent. -/
def State.passWide (s : State) (die : Nat) (pas : List Nat) : State :=
  if s.wide.isEmpty then s
  else (s.setWide (some die) (layerDrop (s.wideAt (some die)) pas)).setWide none (layerDrop (s.wideAt none) pas)

/-- Bytes of a PHASE page from an address upwards as a unit loads them, over what the home or a copy holds. -/
def State.phaseBytes (s : State) (x : Site) (pa : Nat) (bs : List Byte) : List Byte := x.phaseBytes pa (s.wideOver x.team.cl.die pa bs)

/-! ### STREAM pages (R131) -/

/-- A unit belongs to an audience. -/
def Audience.has (x : Site) : Audience → Bool
  | .everybody => true
  | .pointer _ _ => false
  | .die d => decide (d = x.team.cl.die)
  | .team id => decide (id = x.team.id)
  | .squad id q => !x.isPacer && decide (id = x.team.id ∧ q = x.squad)

/-- Record the old contents of the granules of a range that a STREAM write is the first to write, in their 8-byte parts: all that one instruction or one
copy writes into a granule is one write (R130), so its later bytes record nothing. `seen` are the agents that read the new contents from now on, `offers` the
releases that already cover the write, `whole` the chunk that a converting write replaces. -/
def State.keepOld (s : State) (seen : List Agent) (offers : List Offer) (pa n : Nat) (whole : Option Nat := none) : State :=
  let ls := (linesOf pa n).filter fun l => l ∉ s.granules
  let parts := ls.flatMap fun l => (List.range 8).map fun i => 64 * l + 8 * i
  { s with oldParts :=
      (parts.map fun p => { pa := p, bytes := Memory.read s.mem p 8, seen := seen, offers := offers, whole := whole }) ++
        s.oldParts.filter fun o => o.pa / 64 ∉ ls }

/-- The old contents of the part that holds an address, when an agent may still read them. -/
def State.oldPart? (s : State) (g : Agent) (pa : Nat) : Option OldPart := s.oldParts.find? fun p => p.pa = pa / 8 * 8 ∧ g ∉ p.seen

/-- An agent reads the new contents of the parts of a range that a test names from now on (R124, R131). -/
def State.seePartsIf (s : State) (g : Agent) (p : OldPart → Bool) : State :=
  { s with oldParts := s.oldParts.map fun o => if p o ∧ g ∉ o.seen then { o with seen := o.seen ++ [g] } else o }

/-- A part lies in a range. -/
def OldPart.meets (o : OldPart) (pa n : Nat) : Bool := decide (o.pa < pa + n ∧ pa < o.pa + 8)

/-- An agent reads the new contents of the parts of a range from now on (R124, R131). -/
def State.seeParts (s : State) (g : Agent) (pa n : Nat) : State := s.seePartsIf g fun o => o.meets pa n

/-! ### Loads -/

/-- A PHASE copy with the bytes that the home has at some addresses. -/
def CLine.renew (m : List Host.Cell) (pas : List Nat) (c : CLine) : CLine :=
  { c with bytes := pas.foldl (fun bs pa => if pa / 64 = c.line then bs.set (pa % 64) (Memory.get m pa) else bs) c.bytes }

/-- What a unit publishes to the home passes the caches on its path: their leased copies take the published bytes, so that no agent of its
cluster that has read them reads an earlier write again (R124). -/
def State.renew (s : State) (x : Site) (pas : List Nat) : State :=
  { s with lines := s.lines.map fun c => if c.cls = .phase ∧ c.level.onPath x.team.cl = true then c.renew s.mem pas else c }

/-- A team holds the result of an atomic at one of some addresses. -/
def Team.atomicAt (t : Team) (pas : List Nat) : Bool := (t.tmLayer ++ t.sqLayer.flatten).any fun b => b.amo && decide (b.pa ∈ pas)

/-- A write at the home that the atomics performed near other teams did not read follows them in the coherence order of its bytes (R124,
R136): their results give way. A write published at .di is such a write for the teams of its die alone. -/
def State.overtake (s : State) (team : Nat) (pas : List Nat) (among : Team → Bool := fun _ => true) : State :=
  let hit := s.teams.filter fun t => decide (t.id ≠ team) && among t && t.atomicAt pas
  if hit.isEmpty then s
  else
    ({ s with teams := s.teams.map fun t =>
        if t.id ≠ team ∧ among t then { t with tmLayer := layerYield t.tmLayer pas, sqLayer := t.sqLayer.map fun l => layerYield l pas } else t } : State).dropCopies
      fun c => decide (c.cls = .phase) && pas.any (fun pa => decide (pa / 64 = c.line)) && hit.any fun t => c.level.onPath t.cl

/-- The unit's team once a write of the unit at some addresses is at the home: what its team and its squad published there came before, and so
did the atomics of its other squads. -/
def Site.passed (x : Site) (pas : List Nat) : Site :=
  let sq := x.team.sqLayer.zipIdx.map fun p => if ¬ x.isPacer ∧ p.2 = x.squad then layerDrop p.1 pas else layerYield p.1 pas
  { x with team := { x.team with sqLayer := sq, tmLayer := layerDrop x.team.tmLayer pas } }

/-- Read n bytes of a page that translation has passed: n is at most 8 and the range lies in one 8-byte part, or the page is read part by part (R124).
A .vol load of a PHASE page reads the home (R135); DESIGN CHOICE: so it does where the heat's own write set holds the bytes (log entry 62). What it
has read, the copies on its path take, so that the unit reads no earlier write afterwards (R124). -/
def State.readPart (s : State) (x : Site) (h : Hit) (pa n rc : Nat) (vol : Bool) : List Byte × State :=
  let line := pa / 64
  let near (s : State) : List Byte × State :=
    let (bs, s) := s.bring x h line rc
    ((bs.drop (pa % 64)).take n, s)
  match h.cls with
  | .seq => if (s.notifyVf pa).isSome then s.seqRead pa n else near s
  | .phase =>
    if vol then
      let (bs, s) := (s.useHome h line).homeRead pa n
      (bs, s.renew x (addresses pa n))
    else
      let (bs, s) := near s
      (s.phaseBytes x pa bs, s)
  | .stream =>
    match s.oldPart? (.unit x.u) pa with
    | some old =>
      if s.choice = 0 then near (s.chosen.seeParts (.unit x.u) pa n) else ((old.bytes.drop (pa % 8)).take n, s.chosen)
    | none => near s
  | .priv => near s

/-- POISON met by a load of a range at its home (R374): not where a copy or the agent's own stores serve it. -/
def State.loadPoison (s : State) (x : Site) (h : Hit) (pa n : Nat) (vol : Bool) : Bool :=
  s.poisoned pa n &&
    match h.cls with
    | .seq | .stream => true
    | .phase => vol || ((s.copyFor x .phase (pa / 64)).isNone && !((List.range n).all fun i => (wsGet x.heat.ws (pa + i)).isSome))
    | .priv => (s.copyFor x .priv (pa / 64)).isNone

/-- Read n bytes of one page in parts of at most 8 bytes, k parts. -/
def State.readParts (s : State) (x : Site) (h : Hit) (pa n rc : Nat) (vol : Bool) : Nat → List Byte × State
  | 0 => ([], s)
  | k + 1 =>
    let m := min n 8
    let (a, s) := s.readPart x h pa m rc vol
    let (b, s) := s.readParts x h (pa + m) (n - m) rc vol k
    (a ++ b, s)

/-- The page-format entry that governs plain accesses to a page: none when it is not quantised or its entry is not valid. -/
def State.pageEntry (s : State) (ctx : Nat) (h : Hit) : Option Entry :=
  if h.fmt = 0 ∨ h.size ≠ 65536 then none
  else
    match (s.ctx? ctx).bind fun c => c.fmts[h.fmt]? with
    | some w => if (Entry.ofWord w).valid then some (Entry.ofWord w) else none
    | none => none

/-- Zero the bytes of a quantised page that plain loads read as zero (R88). -/
def deadZero (f : Entry) (ofs : Nat) : List Byte → List Byte
  | [] => []
  | b :: bs => (if f.dead ofs then 0 else b) :: deadZero f (ofs + 1) bs

/-- A plain load of one page (R88, R232). -/
def State.loadPage (s : State) (x : Site) (h : Hit) (va n rc : Nat) (vol : Bool) : List Byte × State :=
  let (bs, s) := s.readParts x h (h.phys va) n rc vol ((n + 7) / 8)
  match s.pageEntry x.team.ctx h with
  | some f => (deadZero f (va - h.base) bs, s)
  | none => (bs, s)

/-! ### Order among the accesses of one unit (R126, R135) -/

/-- An earlier SEQ write of the unit is not performed yet, and its SEQ accesses keep their order (R126). -/
def State.seqWaits (s : State) (u : UnitRef) (h : Hit) : Bool := h.cls == .seq && s.posted.any fun p => p.by_ = some u

/-- A load in flight that has not been performed goes to a SEQ page, as far as its translation tells. -/
def State.waitsForSeq (s : State) (x : Site) (e : FlightElem) : Bool :=
  match e.waits with
  | .arrival | .claim _ _ _ => false
  | .translate => true
  | .channel _ _ | .order =>
    match x.check e.fibre e.ea.toNat 1 1 with
    | .ok (.virt va) => ((s.translate x.team.ctx x.tlb va).map fun h => h.cls == .seq).getD true
    | _ => false

/-- An earlier load of the fibre has not been performed, and comes before an access of a page: both to SEQ pages (R126), or both .vol (R135). -/
def State.loadsWait (s : State) (x : Site) (fib : Nat) (h : Hit) (vol : Bool) : Bool :=
  x.heat.flights.any fun f => (f.kind == .load || f.kind == .ldx) && f.elems.any fun e =>
    decide (e.fibre = fib) && ((h.cls == .seq && s.waitsForSeq x e) || (vol && f.vol && decide (e.waits = .translate ∨ e.waits = .order)))

/-- An access of a fibre waits for an earlier one of its unit: a SEQ access for SEQ accesses, a .vol access for .vol ones. -/
def State.orderWaits (s : State) (x : Site) (fib : Nat) (h : Hit) (vol : Bool) : Bool :=
  s.seqWaits x.u h || (vol && s.posted.any fun p => p.by_ = some x.u) || s.loadsWait x fib h vol

/-! ### Stores -/

/-- The granules of a range (R130): one for each line. -/
def granulesOf (pa n : Nat) : List Nat := linesOf pa n

/-- Set granule bits at the home (R130). -/
def State.setGranules (s : State) (gs : List Nat) : State := { s with granules := gs.filter (· ∉ s.granules) ++ s.granules }

/-- Write bytes of a copy of a line from an offset upwards, marking them dirty. -/
def CLine.put (c : CLine) (ofs : Nat) : List Byte → CLine
  | [] => c
  | b :: bs => CLine.put { c with bytes := c.bytes.set ofs b, dirty := c.dirty.set ofs true } (ofs + 1) bs

/-- The level whose copy a PRIV store dirties: the core's L0, or for the pacer its cluster cache, if there is one (R132, R136, R137). -/
def State.storeLevel (s : State) (x : Site) : Option Level :=
  match x.core? with
  | some c => some (.l0 x.team.cl c)
  | none => if s.hasCache x.team.cl then some (.clus x.team.cl) else none

/-- What a unit writes at the home of a PRIV line shows in the copies on its own path: it reads its own stores (R120). -/
def State.renewPriv (s : State) (x : Site) (pa : Nat) (bs : List Byte) : State :=
  { s with lines := s.lines.map fun c =>
      if c.cls = .priv ∧ c.line = pa / 64 ∧ (c.level ∈ x.levels ∨ c.level = .l2 c.level.die) then c.renew s.mem (addresses pa bs.length) else c }

/-- A store to a PRIV line: it dirties the copy of the unit's nearest cache, which is filled first, or reaches the home under BYPASS (R104, R132). -/
def State.storePriv (s : State) (x : Site) (h : Hit) (pa : Nat) (bs : List Byte) : State :=
  let at_ (s : State) : Option CLine := (s.storeLevel x).bind fun lv => s.lines.find? fun c => decide (c.level = lv ∧ c.line = pa / 64 ∧ c.cls = .priv)
  let s := if (at_ s).isSome ∨ h.policy = 3 then s else (s.bring x h (pa / 64) 0).2
  match at_ s with
  | some c => s.putCopy { (c.put (pa % 64) bs) with owner := h.owner, used := s.uses }
  | none => (s.homeWrite pa bs).renewPriv x pa bs

/-- Those who must answer before a write to a SEQ line is performed: the holders of its copies and those outside, the writer aside (R359, R366). -/
def State.answerers (s : State) (src : Option Requester) (pa : Nat) : List Nat :=
  ((s.copies (pa / 64)).map fun (c : CLine) => c.level.holder).dedup ++ s.outHolders src .seq (pa / 64)

/-- The lines of a posted write: those of its chunk when it is a QPACK (R280). -/
def Posted.lines (p : Posted) : List Nat :=
  match p.pack with
  | none => linesOf p.pa p.bytes.length
  | some k => linesOf k.base k.format.chunkBytes

/-- Those who must answer before a write to several SEQ lines is performed. -/
def State.answerersOf (s : State) (src : Option Requester) (lines : List Nat) : List Nat := (lines.flatMap fun l => s.answerers src (64 * l)).dedup

/-- Back-invalidate the recorded hosts among those who must answer for some lines (R366). -/
def State.snoopFor (s : State) (lines left : List Nat) : State :=
  lines.foldl (fun s l => s.sendSnoops l ((left.filter fun k => 2000 ≤ k ∧ k < 3000 ∧ k - 2000 ∈ s.hostsOut l).map (· - 2000))) s

/-- A SEQ write waits at its home, and the recorded hosts are back-invalidated (R359, R366). -/
def State.post (s : State) (p : Posted) : State :=
  ({ s with posted := s.posted ++ [{ p with id := s.nextId }], nextId := s.nextId + 1 } : State).snoopFor p.lines p.left

/-- A SEQ write is performed at its home: a store, or a QPACK of a chunk (R280); poisoned data poisons its lines (R374). -/
def State.performAt (s : State) (p : Posted) : State :=
  let s := match p.pack with
    | none => s.seqWrite p.pa p.bytes
    | some k =>
      let (c, s) := s.homeRead k.base k.format.chunkBytes
      s.publish (k.result c)
  if p.poison then { s with poison := p.lines ++ s.poison.filter (· ∉ p.lines) } else s

/-- An agent's write to lines of SEQ pages: performed at once when nobody must answer and the agent has no earlier write posted (R126), else posted until
every invalidation is acknowledged (R359). The caches inside the package answer at once, or later as the oracle chooses (log entry 2). The answer says
whether it was posted. -/
def State.seqPut (s : State) (p : Posted) (earlier : Bool) : State × Bool :=
  let inside := p.lines.any fun l => !(s.copies l).isEmpty
  let s := if inside = false then s else if s.choice = 0 then (s.dropCopies fun c => decide (c.line ∈ p.lines ∧ c.cls = .seq)).chosen else s
  let left := s.answerersOf p.src p.lines
  let s := if inside ∧ left.any (· < 2000) then s.chosen else s
  if left.isEmpty ∧ ¬ earlier then (s.performAt p, false) else (s.post { p with left := left }, true)

/-- A unit has an earlier SEQ write posted. -/
def State.posts (s : State) (u : UnitRef) : Bool := s.posted.any fun p => p.by_ = some u

/-- A unit's store to a SEQ line, at a virtual address (R126, R359). -/
def State.storeSeq (s : State) (u : UnitRef) (pa : Nat) (bs : List Byte) (va : Nat := 0) : State × Bool :=
  s.seqPut { id := 0, by_ := some u, pc := s.cur.pc, src := none, pa := pa, bytes := bs, left := [], tells := [], va := va } (s.posts u)

/-- Change the heat of a unit that the state holds. -/
def Team.heat? (t : Team) : Who → Option Heat
  | .heat q h => t.heats.find? fun x => x.squad = q ∧ x.idx = h
  | .pacer => t.pacer

/-- Put a heat back into its team. -/
def Team.setHeat (t : Team) (w : Who) (h : Heat) : Team :=
  match w with
  | .heat q i => { t with heats := t.heats.map fun x => if x.squad = q ∧ x.idx = i then h else x }
  | .pacer => { t with pacer := some h }

/-- A unit of a resident team, with its team. -/
def State.site? (s : State) (u : UnitRef) : Option Site :=
  (s.team? u.team).bind fun t => (t.heat? u.who).map fun h => { u := u, team := t, heat := h }

/-- Put a unit and its team back. -/
def State.put (s : State) (x : Site) : State := s.setTeam (x.team.setHeat x.u.who x.heat)

/-- Count writes that the home has still to acknowledge (R139). -/
def Site.owe (x : Site) (n : Nat) : Site := { x with heat := { x.heat with unacked := x.heat.unacked + n } }

/-- A published write on which leases stand is acknowledged when they have expired (R129). -/
def State.oweLease (s : State) (x : Site) (till : Nat) : State × Site :=
  if till = 0 then (s, x) else ({ s with pubs := s.pubs ++ [{ u := x.u, till := till }] }, x.owe 1)

/-- A write of a unit to a PHASE page at its home. -/
def State.phaseHome (s : State) (x : Site) (pa : Nat) (bs : List Byte) : State × Site :=
  let pas := addresses pa bs.length
  let x := { x with heat := { x.heat with ws := wsDrop x.heat.ws pa bs.length } }
  let till := s.leaseEnd pa bs.length
  (((((s.uncount x (pa / 64)).overtake x.team.id pas).homeWrite pa bs).renew x pas).passWide x.team.cl.die pas).oweLease (x.passed pas) till

/-- A plain store of at most 16 bytes to one page, of a class, as the unit makes it (R126, R127, R130, R132); `home` is a .vol store, which is
performed at the home (R135). -/
def State.storePage (s : State) (x : Site) (h : Hit) (pa : Nat) (bs : List Byte) (home : Bool) : State × Site :=
  match h.cls with
  | .seq =>
    let (s, posted) := s.storeSeq x.u pa bs (h.base + (pa - h.place))
    (s, if posted then x.owe 1 else x)
  | .phase =>
    if home then s.phaseHome x pa bs
    else (s.uncount x (pa / 64), { x with heat := { x.heat with ws := wsWrite x.heat.ws pa h.owner s.cur.pc bs } })
  | .stream => ((((s.uncount x (pa / 64)).keepOld [.unit x.u] [] pa bs.length).homeWrite pa bs).setGranules (granulesOf pa bs.length), x)
  | .priv => (s.storePriv x h pa bs, x)

/-- The faults of a store where it is performed (R130, R374); `before` are the granule bits as the instruction found them, `away` says that the write does
not meet its home now: it enters a write set, or a copy of a PRIV line takes it. -/
def State.storeFault (s : State) (h : Hit) (pa n : Nat) (before : List Nat) (away : Bool) : Option Byte :=
  if h.cls = .stream ∧ (granulesOf pa n).any (· ∈ before) then some cause.writeOnce
  else if (s.poison.any fun l => decide (64 * l < pa + n ∧ pa < 64 * l + 64) && !wholeLine l pa n) ∧ away = false then some cause.poison
  else none

/-- A store of a unit does not meet its home: it enters its write set, or takes a copy of a PRIV line that its path holds (R127, R132). -/
def State.storeAway (s : State) (x : Site) (h : Hit) (pa : Nat) (home : Bool) : Bool :=
  match h.cls with
  | .phase => !home
  | .priv => (s.copyFor x .priv (pa / 64)).isSome
  | .seq | .stream => false

/-! ### Scopes (R121, R158) -/

/-- Scope codes (R158). -/
inductive Scope where
  | sy | dv | di | tm | sq | ht
  deriving DecidableEq, Repr

/-- The scope of an RS field. -/
def scopeOf (rs : BitVec 3) : Scope :=
  match rs.toNat with
  | 0 => .sy
  | 1 => .dv
  | 2 => .di
  | 3 => .tm
  | 4 => .sq
  | _ => .ht

/-- The scope reaches beyond the team. -/
def Scope.far : Scope → Bool
  | .sy | .dv | .di => true
  | _ => false

/-- To whom a release of a unit at a scope reaches (Table 11.1); the pacer's at .sq or .ht reaches nobody (R121). -/
def Scope.audience (x : Site) : Scope → Option Audience
  | .sy | .dv => some .everybody
  | .di => some (.die x.team.cl.die)
  | .tm => some (.team x.team.id)
  | .sq => if x.isPacer then none else some (.squad x.team.id x.squad)
  | .ht => none

/-- A release synchronises with an acquire of a unit at a scope: each lies within the other's scope (R123). -/
def Offer.reaches (o : Offer) (x : Site) (sc : Scope) : Bool :=
  o.toward.has x &&
    match sc with
    | .sy | .dv => true
    | .di => (o.by_.map fun p => decide (p.2.die = x.team.cl.die)).getD false
    | .tm => (o.by_.map fun p => decide (p.1.team = x.team.id)).getD false
    | .sq => !x.isPacer && (o.by_.map fun p => decide (p.1.team = x.team.id) && match p.1.who with | .heat q _ => decide (q = x.squad) | .pacer => false).getD false
    | .ht => false

/-- A release at a scope covers the STREAM writes that the unit has made or seen. -/
def State.offerParts (s : State) (x : Site) (sc : Scope) : State :=
  match sc.audience x with
  | none => s
  | some a =>
    let o : Offer := { toward := a, by_ := some (x.u, x.team.cl) }
    { s with oldParts := s.oldParts.map fun p => if .unit x.u ∈ p.seen ∧ o ∉ p.offers then { p with offers := o :: p.offers } else p }

/-- An acquire at a scope: the unit reads the new contents of the STREAM parts whose writes a release has passed to it (R131). -/
def State.takeParts (s : State) (x : Site) (sc : Scope) : State := s.seePartsIf (.unit x.u) fun p => p.offers.any fun o => o.reaches x sc

/-- What every acquire at .sy takes: a write by an engine that a trigger counter or a status word covers (R149). -/
def offerAll (u : UnitRef) (cl : ClusterRef) : Offer := { toward := .everybody, by_ := some (u, cl) }

/-- A unit observes the write pointer of a channel: the bytes that the channel has written are visible to it (R110, R131). -/
def State.seePointer (s : State) (u : UnitRef) (cl : ClusterRef) (k : Nat) : State :=
  s.seePartsIf (.unit u) fun p => p.offers.any fun o => o.toward = .pointer cl k

/-! ### What a release publishes (R127, R139) -/

/-- Why a byte published from a die, with others at some addresses, does not reach its home: its path fails (R363, R375, R376, R400), or it meets poison that
the publication does not cover whole (R374). -/
def State.pubCause (s : State) (die : Nat) (pas : List Nat) (b : LayerByte) : Option Byte :=
  (s.pathFault die b.pa).or
    (if b.pa / 64 ∈ s.poison ∧ !((addresses (64 * (b.pa / 64)) 64).all fun a => decide (a ∈ pas)) then some cause.poison else none)

/-- The first published byte that does not reach its home. -/
def State.pubFault (s : State) (die : Nat) (pas : List Nat) (bs : List LayerByte) : Option (Byte × LayerByte) :=
  bs.findSome? fun b => (s.pubCause die pas b).map fun c => (c, b)

/-- The entries of a layer that a unit has seen, as bytes to publish, and the rest. -/
def layerSplit (u : UnitRef) (l : List LayerByte) : List LayerByte × List LayerByte := l.partition fun b => u ∈ b.seen

/-- A byte that a QPACK wrote and no later store replaced. -/
def Pack.covers (p : Pack) (b : LayerByte) : Bool := decide ((b.pa, b.byte) ∈ p.bytes)

/-- A byte of a write set on its way to a layer or to the home. -/
def WsByte.lift (u : UnitRef) (b : WsByte) : LayerByte := { pa := b.pa, byte := b.byte, seen := [u], pc := b.pc, pack := b.pack }

/-- A byte on its way to the home. -/
def LayerByte.cell (b : LayerByte) : Nat × Byte := (b.pa, b.byte)

/-- The QPACKs among bytes of a layer or a write set, the earliest first: each stands at its rind. -/
def packsOf (bs : List LayerByte) : List Pack := (bs.filterMap fun b => b.pack.filter fun p => p.rindAt == b.pa).reverse

/-- The plain bytes among them: not those that a QPACK wrote and that no later store replaced, which it writes itself. -/
def plainOf (bs : List LayerByte) : List LayerByte := bs.filter fun b => b.pack.isNone && !(packsOf bs).any fun p => p.covers b

/-- Publish bytes at the home: each QPACK is performed over the chunk as the home has it, and then the plain stores. -/
def State.publishAll (s : State) (bs : List LayerByte) : State :=
  let s := (packsOf bs).foldl (fun s p =>
    let (c, s) := s.homeRead p.base p.format.chunkBytes
    s.publish (p.result c)) s
  s.publish ((plainOf bs).map LayerByte.cell)

/-- Lines that a publication has written whole are poisoned no more (R374). -/
def State.heal (s : State) (pas : List Nat) : State :=
  if s.poison = [] then s else { s with poison := s.poison.filter fun l => !(addresses (64 * l) 64).all fun a => decide (a ∈ pas) }

/-- Perform a QPACK in a layer; `under` is the chunk below the layer. What the unit has published there to the chunk belongs to it from now on; QPACKs that
others performed there keep their own bytes and rinds, and are performed before it wherever both go (R91, R280). -/
def layerPack (u : UnitRef) (under : Nat → Nat → List Byte) (l : List LayerByte) (p : Pack) : List LayerByte :=
  let out := p.result (layerOver l p.base (under p.base p.format.chunkBytes))
  let mine := l.filter fun b => decide (p.base ≤ b.pa ∧ b.pa < p.rindAt ∧ u ∈ b.seen ∧ b.pa ∉ out.map Prod.fst)
  let q := { p with bytes := mine.map LayerByte.cell ++ out }
  let rind := (out.filter fun b => p.rindAt ≤ b.1).map fun b => { pa := b.1, byte := b.2, seen := [u], pc := 0, pack := some q : LayerByte }
  rind ++ (out.filter fun b => b.1 < p.rindAt).foldl (fun l b => layerPut l { pa := b.1, byte := b.2, seen := [u], pc := 0 }) l

/-- Move bytes of a unit into a layer. -/
def layerMove (u : UnitRef) (under : Nat → Nat → List Byte) (l : List LayerByte) (bs : List LayerByte) : List LayerByte :=
  let pcOf (b : LayerByte) : Pc := ((bs.find? fun c => c.pa = b.pa).map LayerByte.pc).getD b.pc
  let l := ((packsOf bs).foldl (layerPack u under) l).map fun b => { b with pc := pcOf b }
  (plainOf bs).foldl (fun l b => layerPut l { b with seen := [u] }) l

/-- A chunk as a layer has it over what lies below: its QPACKs performed as their home would, and then the plain stores (R92, R280). -/
def chunkOver (base : Nat) (chunk : List Byte) (l : List LayerByte) : List Byte :=
  let mine := l.filter fun b => decide (base ≤ b.pa ∧ b.pa < base + chunk.length)
  let lay (c : List Byte) (bs : List (Nat × Byte)) : List Byte := bs.foldl (fun c b => c.set (b.1 - base) b.2) c
  let done := ((packsOf mine).filter fun p => p.base = base).foldl (fun c p =>
    lay c ((p.result c).filter fun b => decide (base ≤ b.1 ∧ b.1 < base + chunk.length))) chunk
  lay done ((plainOf mine).map LayerByte.cell)

/-- A chunk of a PHASE page as a unit's converting read observes it, over the home's: what was published to the package, its die, its team and its squad, then
its own stores. -/
def State.chunkSeen (s : State) (x : Site) (base : Nat) (chunk : List Byte) : List Byte :=
  [s.wideAt none, s.wideAt (some x.team.cl.die), x.team.tmLayer, x.sqLayer, x.heat.ws.map (WsByte.lift x.u)].foldl (chunkOver base) chunk

/-- A later release of a unit at .sq or wider passes the team's bytes that it has seen to its squad (R123, R139). -/
def layerPass (x : Site) (l : List LayerByte) : List LayerByte :=
  if x.isPacer then l else l.map fun b => if x.u ∈ b.seen ∧ x.squad ∉ b.sq then { b with sq := b.sq ++ [x.squad] } else b

/-- A later release of a unit within its team passes the bytes published beyond it that the unit has seen to the team (R123, R139). -/
def State.passOn (s : State) (x : Site) : State :=
  if s.wide.isEmpty then s
  else { s with wide := s.wide.map fun p =>
    if x.u ∈ p.2.seen ∧ x.team.id ∉ p.2.sq then (p.1, { p.2 with sq := p.2.sq ++ [x.team.id] }) else p }

/-- What a release of a unit at a scope beyond its team publishes: what was published less widely that it has seen, its die's, its team's and its squad's,
and its write set. -/
def State.publishes (s : State) (x : Site) (sc : Scope) : List (List LayerByte) :=
  let mine (l : List LayerByte) : List LayerByte := (layerSplit x.u l).1
  let team := [mine x.team.tmLayer, mine x.sqLayer, x.heat.ws.map (WsByte.lift x.u)]
  match sc with
  | .sy => mine (s.wideAt none) :: mine (s.wideAt (some x.team.cl.die)) :: team
  | .dv => mine (s.wideAt (some x.team.cl.die)) :: team
  | .di => team
  | _ => []

/-- The lines outside whose copies a release waits for, those that it writes at their homes (R366). -/
def State.publishedLines (s : State) (x : Site) (sc : Scope) : List Nat :=
  if sc = .sy then (((s.publishes x sc).flatten.map fun b => b.pa / 64)).dedup else []

/-- The addresses of the last k lists of what a release publishes: what comes from the k narrowest places. -/
def lowest (k : Nat) (up : List (List LayerByte)) : List Nat := (up.drop (up.length - k)).flatten.map LayerByte.pa

/-- What a release publishes beyond a die follows, in the coherence order, the results of atomics near other teams that did not read it (R124, R136): those of
any die where it comes from the unit's team, and those of other dies where it was published to its own die before. -/
def State.overtakeUp (s : State) (x : Site) (up : List (List LayerByte)) : State :=
  (s.overtake x.team.id (lowest 3 up)).overtake x.team.id (lowest 4 up) fun t => decide (t.cl.die ≠ x.team.cl.die)

/-- Put what a release at .di or .dv publishes where the agents of its die, or of the package, see it (R121, R127). What others published to the die, and
the unit's team had not seen, it passes (R124). -/
def State.widen (s : State) (x : Site) (sc : Scope) (up : List (List LayerByte)) (pas : List Nat) : State :=
  let die := x.team.cl.die
  let home (pa n : Nat) : List Byte := (s.homeRead pa n).1
  let dies := (layerSplit x.u (s.wideAt (some die))).2
  if sc = .di then
    let under (pa n : Nat) : List Byte := layerOver (s.wideAt none) pa (home pa n)
    (s.overtake x.team.id pas fun t => decide (t.cl.die = die)).setWide (some die) (up.foldl (layerMove x.u under) (s.wideAt (some die)))
  else ((s.overtakeUp x up).setWide (some die) (layerDrop dies (lowest 3 up))).setWide none (up.foldl (layerMove x.u home) (s.wideAt none))

/-- Put what a release at .sy publishes at its homes; of what others published to the die or the package, it passes what stands nearer its home than it
came from (R124). -/
def State.publishHome (s : State) (x : Site) (up : List (List LayerByte)) (pas : List Nat) : State :=
  let rest (at_ : Option Nat) : List LayerByte := (layerSplit x.u (s.wideAt at_)).2
  let die := x.team.cl.die
  let t := if s.wide.isEmpty then s
    else (s.setWide (some die) (layerDrop (rest (some die)) (lowest 3 up))).setWide none (layerDrop (rest none) (lowest 4 up))
  ((up.foldl State.publishAll (t.overtakeUp x up)).heal pas).renew x pas

/-- The publishing half of a release: the write set, and the writes that happen before it at other agents, go to the agents within the scope (R127, R139); a
byte that does not reach its home is discarded with a deferred trap (R226, R374, R375), which carries the PC of its store (R350). -/
def State.releaseAt (s : State) (x : Site) (sc : Scope) : State × Site :=
  let ws := x.heat.ws.map (WsByte.lift x.u)
  let (sqMine, sqRest) := layerSplit x.u x.sqLayer
  let (_, tmRest) := layerSplit x.u x.team.tmLayer
  let done (t : Team) : Site := { x with team := t, heat := { x.heat with ws := [] } }
  let sqSet (l : List LayerByte) : List (List LayerByte) := if x.isPacer then x.team.sqLayer else x.team.sqLayer.set x.squad l
  let under (pa n : Nat) : List Byte := s.wideOver x.team.cl.die pa (s.homeRead pa n).1
  let s := s.offerParts x sc
  match sc with
  | .ht => (s, x)
  | .sq =>
    if x.isPacer then (s, x)
    else
      let sq := layerMove x.u (fun pa n => layerOver x.team.tmLayer pa (under pa n)) x.sqLayer ws
      (s.passOn x, done { x.team with sqLayer := sqSet sq, tmLayer := layerPass x x.team.tmLayer })
  | .tm =>
    let tm := layerPass x (layerMove x.u under (layerMove x.u under x.team.tmLayer sqMine) ws)
    let y := (done { x.team with sqLayer := sqSet sqRest }).passed ((sqMine ++ ws).map LayerByte.pa)
    (s.passOn x, { y with team := { y.team with tmLayer := tm } })
  | _ =>
    let die := x.team.cl.die
    let all := s.publishes x sc
    let every := all.flatten.map LayerByte.pa
    let up := all.map fun l => l.filter fun b => (s.pubCause die every b).isNone
    let pas := up.flatten.map LayerByte.pa
    let till := (pas.map fun pa => s.leaseEnd pa 1).foldl max 0
    let y := (done { x.team with sqLayer := sqSet sqRest, tmLayer := tmRest }).passed (lowest 2 up)
    let y := match s.pubFault die every (all.dropLast.flatten ++ ws.reverse) with
      | some (c, b) => { y with team := y.team.defer { cause := c, inner := 0, pc := b.pc, info := s.pathInfo die b.pa c (dw (2 ^ 63 + s.physical die b.pa)),
                                                       src := some x.u.who } }
      | none => y
    if pas = [] then (s, y) else (if sc = .sy then s.publishHome x up pas else s.widen x sc up pas).oweLease y till

/-! ### Acquires (R129, R138) -/

/-- Mark a layer's entries as seen by a unit. -/
def layerSee (u : UnitRef) (l : List LayerByte) : List LayerByte :=
  l.map fun b => if u ∈ b.seen then b else { b with seen := b.seen ++ [u] }

/-- The leased copies that an acquire discards (R129). -/
def Scope.discards (sc : Scope) (x : Site) (c : CLine) : Bool :=
  decide (c.cls = .phase) &&
    match c.level with
    | .l0 cl core => decide (sc ≠ .ht ∧ cl = x.team.cl ∧ x.core? = some core)
    | .clus cl => decide ((sc = .tm ∨ sc.far) ∧ cl = x.team.cl)
    | .l2 d => decide (sc.far ∧ d = x.team.cl.die)

/-- What an acquire at .sq sees of the team's bytes: those that a release has passed to the squad (R123). -/
def layerSeeSq (x : Site) (l : List LayerByte) : List LayerByte :=
  l.map fun b => if x.squad ∈ b.sq ∧ x.u ∉ b.seen then { b with seen := b.seen ++ [x.u] } else b

/-- What an acquire sees of the bytes published beyond its team: within the team, those that a release has passed to it; at .di, those published by agents of
the die; at .dv and .sy, all of them (R123). -/
def State.seeWide (s : State) (x : Site) (sc : Scope) : State :=
  let die := x.team.cl.die
  let here (b : LayerByte) : Bool := b.seen.any fun u => ((s.team? u.team).map fun t => decide (t.cl.die = die)).getD false
  let sees (p : Option Nat × LayerByte) : Bool :=
    match sc with
    | .ht => false
    | .sq | .tm => decide (x.team.id ∈ p.2.sq)
    | .di => decide (p.1 = some die) || (p.1.isNone && here p.2)
    | .dv | .sy => decide (p.1 = some die) || p.1.isNone
  if s.wide.isEmpty then s else { s with wide := s.wide.map fun p => if sees p ∧ x.u ∉ p.2.seen then (p.1, { p.2 with seen := p.2.seen ++ [x.u] }) else p }

/-- An acquire: leased copies go, and what was published to the unit counts as seen. -/
def State.acquireAt (s : State) (x : Site) (sc : Scope) : State × Site :=
  if sc = .ht ∨ (sc = .sq ∧ x.isPacer) then (s, x)
  else
    let sqL := if x.isPacer then x.team.sqLayer else x.team.sqLayer.set x.squad (layerSee x.u x.sqLayer)
    let tmL := if sc = .sq then layerSeeSq x x.team.tmLayer else layerSee x.u x.team.tmLayer
    (((s.dropCopies (sc.discards x)).takeParts x sc).seeWide x sc, { x with team := { x.team with sqLayer := sqL, tmLayer := tmL } })

end Sys2Proof.Machine
end

