-- ==== Sys2Proof/Machine/Work.lean ====
section
/-!
DEFINITION. Teams, meets and their charges: statuses of handles, budgets (R187, R336), and how a meet ends (R50, R323, R333, R337).
-/

namespace Sys2Proof.Machine

/-- A core of a die's command processor works (Table 1.3). -/
def Die.coreUp (d : Die) (core : Nat) : Bool := !((d.cps[core]?).map CpCore.failed).getD true

/-! ### Charges (R187, R336) -/

/-- Add to a number kept by key. -/
def SMap.bump (m : SMap Nat) (k n : Nat) : SMap Nat := SMap.set m k ((SMap.get? m k).getD 0 + n)

/-- Add to a team counter (R318). -/
def Team.count (t : Team) (c n : Nat) : Team := { t with counters := t.counters.modify c (· + n) }

/-- The L2 misses since the last step are those of a team (R318, counter 6). -/
def State.creditMisses (s : State) (team : Nat) : State :=
  if s.missed = 0 then s else { (s.updTeam team fun t => t.count 6 s.missed) with missed := 0 }

/-- Charge a meet on a die (R336). -/
def State.chargeMeet (s : State) (meet die n : Nat) : State :=
  match s.meet? meet with
  | some m => if m.live then s.setMeet { m with sums := SMap.bump m.sums die n } else s
  | none => s

/-- Charge a team: its counter 2 and the sum of its die (R318, R336). -/
def State.charge (s : State) (x : Site) (n : Nat) : State × Site :=
  (s.chargeMeet x.team.meet x.team.cl.die n, { x with team := x.team.count 2 n })

/-- The BC charged to a meet as the latest reports show it (R336). -/
def Meet.reported (m : Meet) : Nat := (m.reports.map Prod.snd).sum

/-- The BC charged to a meet. -/
def Meet.charged (m : Meet) : Nat := (m.sums.map Prod.snd).sum

/-! ### Handles (Table 18.7) -/

/-- Set the status word of a handle whose status is kept. -/
def Team.setStatus (t : Team) (h w : Word) : Team :=
  { t with status := t.status.map fun p => if p.1 = h then (h, w) else p }

/-- A status word. -/
def statusWord (gen : Nat) (cs : Byte) (st : Nat) : Word := wd (gen % 65536 * 65536 + cs.toNat * 256 + st)

/-- The generation that a handle's status carries: TXCOLL only. -/
def XferWork.gen : XferWork → Nat
  | .coll _ _ _ _ _ _ g => g
  | .tile _ _ _ _ _ => 0
  | .task _ _ _ => 0

/-- Complete an operation with a status: its slot is free again. -/
def Team.finish (t : Team) (x : Xfer) (cs : Byte) (st : Nat) : Team :=
  { (t.setStatus x.handle (statusWord x.work.gen cs st)) with xfers := t.xfers.filter fun y => y.handle ≠ x.handle }

/-- An operation that has not started: armed, or waiting for its launch time. -/
def Xfer.unstarted (x : Xfer) : Bool :=
  match x.st with
  | .armed _ => true
  | .timed => true
  | _ => false

/-- Cancel every operation that a test names (R256, R257, R337). -/
def Team.cancel (t : Team) (p : Xfer → Bool) : Team := (t.xfers.filter p).foldl (fun t x => t.finish x 0 2) t

/-! ### Completion (R50, R323, R333, R373) -/

/-- The parse core of a die takes a driver's command (R168); one sent to a core that has failed is lost (R403, log entry 43). -/
def State.parses (s : State) (die : Nat) : Bool := ((s.die? die).map fun d => d.coreUp 0).getD true

/-- The die that serves what a die keeps: itself, or the die that has adopted its role (R403). -/
def State.serverOf (s : State) (die : Nat) : Nat := ((s.die? die).bind Die.adopter).getD die

/-- The die's clusters run (R393, R398). -/
def Die.runs (d : Die) : Bool := decide (d.power = .active) && !d.offline

/-- The clusters of a die run. -/
def State.runsOn (s : State) (die : Nat) : Bool := ((s.die? die).map Die.runs).getD false

/-- The clusters of a team's die run. -/
def State.teamRuns (s : State) (team : Nat) : Bool := ((s.team? team).map fun t => s.runsOn t.cl.die).getD false

/-- The die identifier of the hub (R12). -/
def hubDie : Nat := 4

/-- A die's clock, by its die identifier (R12, R14). -/
def State.clockOf (s : State) (die : Nat) : Nat :=
  if die = hubDie then s.hubClock else ((s.die? die).map Die.clock).getD 0

/-- What stands in the place of a holder for a store that its home holds until a class change or a peer's contributions are through (R143, R362). -/
def heldAtHome : Nat := 9999

/-- Tell the host several things. -/
def State.tellAll (s : State) (es : List HostEvent) : State := { s with host := s.host ++ es }

/-- A release store at .sy by the schedule core of a die, and what the host learns once it is performed: the copies in the package are invalidated first,
and the store waits for those outside it and for the core's earlier stores (R126, R339, R359, R366); `wait` says that its home holds it. -/
def State.cpStore (s : State) (die : Nat) (cls : PageClass) (pa : Nat) (bs : List Byte) (tells : List HostEvent := []) (wait : Bool := false) : State :=
  let s := s.dropCopies fun c => decide (c.cls = .seq ∧ c.line = pa / 64)
  let left := (if wait then [heldAtHome] else []) ++ s.outHolders none cls (pa / 64)
  if left = [] ∧ ¬ s.posted.any fun p => p.cp = some die then (s.seqWrite pa bs).tellAll tells
  else
    (s.askOutside none cls [pa / 64]).post
      { id := 0, by_ := none, pc := 0, src := none, pa := pa, bytes := bs, left := left, tells := tells, cp := some die }

/-- Outcome codes (R323). -/
def Outcome.code : Outcome → Nat
  | .completed => 0
  | .rejected => 1
  | .overrun => 2
  | .aborted => 3
  | .faulted => 4

/-- Write a completion signal, or drop it when its address fails or is not aligned (R323, log entry 39). -/
def State.signal (s : State) (die queue ctx addr : Nat) (seq : Word) (late : Bool) (o : Outcome) (code : Byte) : State :=
  let w := seq.toNat * 2 ^ 32 + (if late then 65536 else 0) + o.code * 256 + code.toNat
  if addr % 8 ≠ 0 then s.tell (.signalDropped queue)
  else
    match s.cpReach die ctx addr .store .ordered, s.cpPlace die ctx addr with
    | .ok h, _ => s.cpStore die h.cls (h.phys addr) (leBytes w 8) [.signal queue (dw w)]
    | .error .hold, some h => s.cpStore die h.cls (h.phys addr) (leBytes w 8) [.signal queue (dw w)] true
    | .error _, _ => s.tell (.signalDropped queue)

/-- The meet completed after its deadline on some die. -/
def Meet.isLate (s : State) (m : Meet) : Bool :=
  m.dls.any fun k => k.commit && decide (k.dl < (s.clockOf k.on : Int))

/-- Return what a meet left of its budget, or charge what it took beyond it (R333). -/
def Tenant.settle (t : Tenant) (budget used : Nat) : Tenant :=
  if used ≤ budget then
    let back := budget - used
    let pay := min t.debt back
    { t with debt := t.debt - pay, tokens := min (t.tokens + (back - pay)) t.rate }
  else
    let more := used - budget
    { t with tokens := t.tokens - more, debt := t.debt + (more - t.tokens) }

/-- A meet completes: its signal, or a task's result flag, is written once, and its tokens are settled (R50, R333, R373). DESIGN CHOICE: the charge that
settles them is what the dies' sums stand at, as though each had sent a last report (log entry 83). A muted meet writes none (R401). -/
def State.completeMeet (s : State) (id : Nat) (o : Outcome) (code : Byte) : State :=
  match s.meet? id with
  | none => s
  | some m =>
    let late := m.isLate s
    let s := if m.mute = true then s else
      match m.task with
      | none => s.signal (s.serverOf m.home) m.queue m.ctx m.signal m.seq late o code
      | some (flag, counter) =>
        s.cpStore (s.serverOf m.home) .seq flag (leBytes (counter.toNat * 2 ^ 32 + code.toNat * 256 + o.code + 1) 8)
    let s := match s.tenant? m.tenant with
      | some t => s.setTenant (t.settle m.budget m.charged)
      | none => s
    (s.setMeet { m with st := .completed, late := late }).flushDue m.ctx

/-- Every field of a meet is complete (R50). -/
def Meet.allDone (m : Meet) : Bool := m.fields.all fun f => f.completed = f.teams

/-- Complete a meet whose fields are all complete (R50). -/
def State.completeIfDone (s : State) (id : Nat) : State :=
  match s.meet? id with
  | none => s
  | some m =>
    if m.allDone then
      match m.st with
      | .launched => s.completeMeet id .completed 0
      | .terminated o c => s.completeMeet id o c
      | _ => s
    else s

/-! ### Termination (R337, R345, R352) -/

/-- Stop every program of a team at once, and end what its engines have not begun (R337). -/
def Team.stop (t : Team) : Team :=
  let dead (h : Heat) : Heat := { h with fibres := h.fibres.map fun _ => none, flights := [], arm := none, bars := [] }
  { (t.cancel Xfer.unstarted) with
    heats := t.heats.map dead, pacer := t.pacer.map dead, queue := [], dtraps := [], leader := false, frame := [], frameAt := none }

/-- The copies of a channel that a team owns stop as after a fault (R254). -/
def Chan.stopFor (team : Nat) (ch : Chan) : Chan :=
  if ch.owner = some team ∧ ch.queue ≠ [] then { ch with err := true, queue := [] } else ch

/-- Running copies of a team stop (R337). -/
def State.stopCopies (s : State) (t : Team) : State :=
  s.updCluster t.cl fun c => { c with chans := c.chans.map (Chan.stopFor t.id) }

/-- Stop a team of a terminated meet: a resident team stops where it is, a saved team's frame is freed and counts as retired. -/
def State.stopTeam (s : State) (t : Team) : State :=
  match t.st with
  | .resident => (s.setTeam t.stop).stopCopies t
  | .saved => s.setTeam { t.stop with st := .retired }
  | .retired => s

/-- The teams of a field that will not run any more count as retired (R50). -/
def Field.drop (s : State) (m : Meet) (i : Nat) (f : Field) : Field :=
  let left := (s.teams.filter fun t => t.meet = m.id ∧ t.field = i ∧ t.st = .resident).length
  { f with handed := f.teams, handouts := [], placed := f.teams, completed := f.teams - left }

/-- Deferred traps that are queued for teams that stop: they go to the context (R355). DESIGN CHOICE: a BUDGET_OVERRUN among them, which told the meet that
now ends, goes with it (log entry 84). -/
def trapsOf (ts : List Team) : List DTrap := (ts.flatMap Team.dtraps).filter fun d => d.cause ≠ cause.budgetOverrun

/-- End a meet with an outcome (R337, R345, R352): its teams stop, what has not begun is cancelled, unstarted teams never
start, charges end; it completes once its running teams have retired. -/
def State.terminate (s : State) (id : Nat) (o : Outcome) (code : Byte) : State :=
  match s.meet? id with
  | none => s
  | some m =>
    if m.live = false then s
    else
      let ts := s.teams.filter fun t => t.meet = id
      let s := ts.foldl State.stopTeam s
      let fs := m.fields.zipIdx.map fun (f, i) => f.drop s m i
      let s := s.setMeet { m with st := .terminated o code, fields := fs }
      ((trapsOf ts).foldl (fun s d => s.ctxTrap m.ctx d) s).completeIfDone id

end Sys2Proof.Machine
end

