-- ==== Sys2Proof/Machine/Ops.lean ====
section
/-!
DEFINITION. The named operations over registers and fibres, the checks that every instruction makes before it
takes effect (R185, R224), taking a trap and returning from one (R352, R317), and advancing the program counter.
-/

namespace Sys2Proof.Machine

/-- What a meaning answers. -/
abbrev Out := Host.Outcome State Fault Refusal

/-! ### Fibres -/

/-- The fibre in a slot. -/
def Heat.fibre? (h : Heat) (i : Nat) : Option Fibre := (h.fibres[i]?).join

/-- Change the fibre in a slot. -/
def Heat.updFibre (h : Heat) (i : Nat) (f : Fibre → Fibre) : Heat := { h with fibres := h.fibres.modify i (Option.map f) }

/-- Change the fibre in a slot of a unit. -/
def Site.updFibre (x : Site) (i : Nat) (f : Fibre → Fibre) : Site := { x with heat := x.heat.updFibre i f }

/-- Change the fibres in several slots. -/
def Site.updFibres (x : Site) (is : List Nat) (f : Fibre → Fibre) : Site := is.foldl (fun x i => x.updFibre i f) x

/-- The slots that hold a live fibre, as a mask (R36). -/
def Heat.live (h : Heat) : Word :=
  (List.range 32).foldl (fun w i => if (h.fibre? i).isSome then w ||| (1#32 <<< i) else w) 0

/-! ### Registers (R52, R54, R55, R58) -/

/-- The lower heat of a heat's pair (R58). -/
def pairLow (i : Nat) : Nat := min i (i ^^^ 4)

/-- The extended set of a unit's heat pair. -/
def Site.xset? (x : Site) : Option XSet :=
  x.team.xsets.find? fun e => e.squad = x.squad ∧ e.low = pairLow x.heatNo

/-- The heat holds its pair's extended set; the pacer never does (R59, R63). -/
def Site.holdsX (x : Site) : Bool :=
  !x.isPacer && ((x.xset?.bind XSet.holder) == some x.heatNo)

/-- The base-set slot of a register below v128 (R55). -/
def Fibre.slotOf (f : Fibre) (r : Nat) : Nat := if r < 16 then r else f.win + r

/-- The number of a register after the window, as a frame's records name it (R73). -/
def Site.slotNo (x : Site) (i r : Nat) : Nat := if r < 128 then ((x.heat.fibre? i).map fun f => f.slotOf r).getD r else r

/-- The contents of a register. -/
def Site.slot (x : Site) (i r : Nat) : Slot :=
  match x.heat.fibre? i with
  | none => .val 0
  | some f =>
    if r < 128 then f.regs.getD (f.slotOf r) (.val 0)
    else (x.xset?.bind fun e => (e.regs[i]?).bind fun l => l[r - 128]?).getD (.val 0)

/-- Write one register. -/
def Site.setSlot (x : Site) (i r : Nat) (v : Slot) : Site :=
  if r < 128 then x.updFibre i fun f => { f with regs := f.regs.set (f.slotOf r) v }
  else
    { x with team := { x.team with xsets := x.team.xsets.map fun e =>
        if e.squad = x.squad ∧ e.low = pairLow x.heatNo then { e with regs := e.regs.modify i fun l => l.set (r - 128) v } else e } }

/-- The value of a register; a record still in flight has none, and no meaning reads one. -/
def Slot.word : Slot → Word
  | .val w => w
  | .bat _ => 0

/-- One register as a number. -/
def Site.word (x : Site) (i r : Nat) : Word := (x.slot i r).word

/-- n registers from r as one number, the lowest register lowest (R54, R161). -/
def Site.val (x : Site) (i r : Nat) : Nat → Nat
  | 0 => 0
  | n + 1 => (x.word i r).toNat + 2 ^ 32 * x.val i (r + 1) n

/-- Write a number to n registers from r. -/
def Site.setVal (x : Site) (i r : Nat) (n v : Nat) : Site :=
  match n with
  | 0 => x
  | n + 1 => (x.setSlot i r (.val (wd v))).setVal i (r + 1) n (v / 2 ^ 32)

/-- A guard bit of a fibre (R53). -/
def Site.guard (x : Site) (i g : Nat) : Bool := (x.word i 0).getLsbD g

/-- A word with one bit set or cleared. -/
def setBit (w : Word) (g : Nat) (b : Bool) : Word := if b then w ||| (1#32 <<< g) else w &&& ~~~(1#32 <<< g)

/-- Write one guard bit (R53). -/
def Site.setGuard (x : Site) (i g : Nat) (b : Bool) : Site := x.setSlot i 0 (.val (setBit (x.word i 0) g b))

/-- The seed of a fibre (R78). -/
def Site.seed (x : Site) (i : Nat) : Word := ((x.heat.fibre? i).map Fibre.seed).getD 0

/-- Set a fibre's seed. -/
def Site.setSeed (x : Site) (i : Nat) (w : Word) : Site := x.updFibre i fun f => { f with seed := w }

/-! ### The checks before an instruction takes effect -/

/-- Registers that a field names: the first, how many, and whether the instruction reads them in a blocking way. -/
structure Use where
  reg : Nat
  n   : Nat
  rd  : Bool
  deriving DecidableEq, Repr

/-- A trap with what its record holds (R353). -/
structure TrapRec where
  cause : Byte
  inner : Byte
  fibre : Nat
  pc    : Pc
  info  : DWord
  deriving DecidableEq, Repr

/-- WINDOW_OVERFLOW or XSET_NOT_HELD for one register of one fibre (R55, R59). -/
def Site.regCheck (x : Site) (i r : Nat) : Option Byte :=
  if r < 16 then none
  else if r < 128 then
    match x.heat.fibre? i with
    | some f => if f.regs.length ≤ f.win + r then some cause.windowOverflow else none
    | none => none
  else if x.holdsX then none
  else some cause.xsetNotHeld

/-- The first failing register of a field in one fibre. -/
def Site.fieldCheck (x : Site) (i r : Nat) : Nat → Option (Byte × Nat)
  | 0 => none
  | n + 1 =>
    match x.regCheck i r with
    | some c => some (c, r)
    | none => x.fieldCheck i (r + 1) n

/-- Step 2 of R185 and R224: fields in order, each in every executing fibre. -/
def Site.fieldsCheck (x : Site) (pc : Pc) (xs : List Nat) (us : List Use) : Option TrapRec :=
  us.findSome? fun u => xs.findSome? fun i =>
    (x.fieldCheck i u.reg u.n).map fun (c, r) => { cause := c, inner := 0, fibre := i, pc := pc, info := dw r }

/-- The records in a fibre's registers r to r + n - 1. -/
def Site.records (x : Site) (i r : Nat) : Nat → List Baton
  | 0 => []
  | n + 1 =>
    match x.slot i r with
    | .bat b => b :: x.records i (r + 1) n
    | .val _ => x.records i (r + 1) n

/-- The records that an instruction meets in a fibre by blocking uses; `v0` says that it uses the predicate word. -/
def Site.met (x : Site) (us : List Use) (v0 : Bool) (i : Nat) : List Baton :=
  (if v0 then x.records i 0 1 else []) ++ (us.filter Use.rd).flatMap fun u => x.records i u.reg u.n

/-- The order in which a record's producer stands, and the trap that its blocking use raises (R72). -/
def Baton.fault? (b : Baton) (i : Nat) : Option (Nat × TrapRec) :=
  match b.st with
  | .pending => none
  | .fault c pc info ord => some (ord, { cause := cause.batonFault, inner := c, fibre := i, pc := pc, info := info })
  | .drained pc r ord => some (ord, { cause := cause.fifoDrained, inner := 0, fibre := i, pc := pc, info := dw r })

/-- The earliest of several faults of a fibre (R72). -/
def earliest : List (Nat × TrapRec) → Option TrapRec
  | [] => none
  | (o, t) :: r =>
    match r.foldl (fun best p => if p.1 < best.1 then p else best) (o, t) with
    | (_, t) => some t

/-- What step 3 of R185 and R224 finds. -/
inductive Gate where
  | wait
  | trap (t : TrapRec)
  | go
  deriving DecidableEq, Repr

/-- Step 3: wait while a record is pending, else the fault record of the lowest blocking fibre, else go on (R70, R72). -/
def gateOf (blocks : Nat → Bool) (rs : List (Nat × List Baton)) : Gate :=
  if rs.all fun p => p.2.isEmpty || !blocks p.1 then .go
  else if rs.any fun p => p.2.any fun b => b.st = .pending then .wait
  else
    match rs.findSome? fun p => if blocks p.1 then earliest (p.2.filterMap fun b => b.fault? p.1) else none with
    | some t => .trap t
    | none => .go

/-- The fibres of a batch whose guard permits execution (R160). -/
def Site.executing (x : Site) (batch : List Nat) (g : Guard) : List Nat :=
  match g with
  | .always => batch
  | .ifSet n => batch.filter fun i => x.guard i n.toNat
  | .ifClear n => batch.filter fun i => !x.guard i n.toNat

/-! ### Program counters -/

/-- Advance the program counter of every fibre of the batch (R34). -/
def Site.advance (x : Site) (batch : List Nat) (len : Nat) : Site :=
  x.updFibres batch fun f => { f with pc := f.pc + BitVec.ofNat 56 len }

/-- The unit that issues, with its team (State.cur). -/
def State.here (s : State) : Option Site := s.site? s.cur.u

/-- Put the unit back, every fibre of the batch at the next instruction. -/
def State.done (s : State) (x : Site) : State := s.put (x.advance s.cur.batch s.cur.len)

/-- The issue is accounted: 1 BC, counter 1, the heat's issue slot, the batch's age (R35, R187, R318). -/
def State.account (s : State) (x : Site) : State × Site :=
  let (s, x) := s.charge x 1
  let h := x.heat
  let n := h.issued + 1
  let x := { x with team := x.team.count 1 1, heat := { h with issued := n, run := h.run + 1, waiting := false, long := false, tried := false } }
  (s, x.updFibres s.cur.batch fun f => { f with last := n, waits := false })

/-- A blocking use of the issuing batch waits and has been counted. -/
def Site.counted (x : Site) (batch : List Nat) : Bool := batch.any fun i => ((x.heat.fibre? i).map Fibre.waits).getD false

/-- The instruction waits: it has not issued and charges nothing (R187, R228). A blocking use that waits counts once in counter 4, whatever other batches
of its heat do meanwhile (R318); the attempt takes the batch's turn (log entry 11). `long` says that it is a long-latency dependence (R39). -/
def State.wait (s : State) (x : Site) (baton : Bool) (long : Bool := baton) : Out :=
  let n := x.heat.issued + 1
  let t := if baton ∧ x.counted s.cur.batch = false then x.team.count 4 1 else x.team
  let x := { x with team := t, heat := { x.heat with issued := n, waiting := true, long := long, tried := true } }
  .next (s.put (x.updFibres s.cur.batch fun f => { f with last := n, waits := f.waits || baton }))

/-! ### Traps (R350 to R353) -/

/-- The trap vector of a team's context (R315). -/
def State.tvec (s : State) (ctx : Nat) : DWord := ((s.ctx? ctx).map Context.tvec).getD 0

/-- The heat is in handler state: one of its fibres is in a trap handler (R352). -/
def Heat.inHandler (h : Heat) : Bool := h.fibres.any fun f => (f.map Fibre.handler).getD false

/-- One of some fibres of the unit is in a trap handler. -/
def Site.handling (x : Site) (is : List Nat) : Bool := is.any fun i => ((x.heat.fibre? i).map Fibre.handler).getD false

/-- %tcause (Table 22.6). -/
def tcauseOf (lost : Nat) (pacer deferred : Bool) (t : TrapRec) : Word :=
  wd (min lost 255 * 2 ^ 24 + (if pacer then 2 ^ 22 else 0) + (if deferred then 2 ^ 21 else 0) +
    t.fibre % 32 * 2 ^ 16 + t.inner.toNat * 2 ^ 8 + t.cause.toNat)

/-- The unit's heat waits no longer for its pair's extended set when the batch that stands at the XLOCK leaves it (R59). -/
def Site.unwaitX (x : Site) (is : List Nat) : Team :=
  { x.team with xsets := x.team.xsets.map fun e =>
      if !x.isPacer && decide (e.squad = x.squad ∧ e.waiter = some x.heatNo) && is.any fun i => decide ((x.heat.fibre? i).map Fibre.pc = some e.waitAt) then
        { e with waiter := none }
      else e }

/-- Taking a trap, the one operation: each entering fibre records its resume address, sets its handler flag and goes to %tvec, a batch that waited at an
XLOCK no longer does; the heat's trap registers take the record (R59, R352, R353). -/
def Site.enter (x : Site) (tvec : DWord) (is : List Nat) (resume : Nat → Pc) (pacer deferred : Bool) (t : TrapRec) : Site :=
  let y := is.foldl (fun x i => x.updFibre i fun f =>
    { f with epc := (resume i).setWidth 64, handler := true, pc := tvec.setWidth 56, waits := false }) x
  { y with
    team := { x.unwaitX is with lost := 0 }
    heat := { y.heat with
      tcause := tcauseOf x.team.lost pacer deferred t
      tpc := t.pc.setWidth 64
      tinfo := t.info
      waiting := false, long := false } }

/-- A trap that no handler can take ends the meet FAULTED, and the cause is recorded for the host (R352). -/
def State.fatal (s : State) (x : Site) (c : Byte) : State :=
  ((s.put x).tell (.faulted x.team.ctx c)).terminate x.team.meet .faulted c

/-- A precise trap of the executing fibres (R351, R352), fatal in handler state; `resume` is where ERET continues each. -/
def State.takeTrap (s : State) (x : Site) (is : List Nat) (resume : Nat → Pc) (t : TrapRec) : State :=
  if x.heat.inHandler ∨ s.tvec x.team.ctx = 0 then s.fatal x t.cause
  else s.put (x.enter (s.tvec x.team.ctx) is resume x.isPacer false t)

/-- A precise trap of the instruction that issues. -/
def State.trap (s : State) (x : Site) (is : List Nat) (c : Byte) (fib : Nat) (info : DWord) (inner : Byte := 0) : Out :=
  .next (s.takeTrap x is (fun _ => s.cur.pc) { cause := c, inner := inner, fibre := fib, pc := s.cur.pc, info := info })

/-- A trap with a record of its own. -/
def State.trapWith (s : State) (x : Site) (is : List Nat) (t : TrapRec) : Out := .next (s.takeTrap x is (fun _ => s.cur.pc) t)

/-! ### One issue -/

/-- The team leader is among the executing fibres (R44): its fibre lives in slot 0 of heat 0 of squad 0. -/
def Site.leads (x : Site) (is : List Nat) : Bool :=
  x.team.leader && x.u.who = .heat 0 0 && is.contains 0

/-- What an instruction demands before it takes effect. -/
structure Demand where
  uses   : List Use
  v0     : Bool
  leader : Bool
  handler : Bool := false
  deriving DecidableEq, Repr

/-- Check 5 of Table 13.7: the first executing fibre that may not run the instruction (R167, R315, R317). -/
def Site.barred (x : Site) (d : Demand) (is : List Nat) : Option Nat :=
  if d.leader ∧ x.leads is = false then is.head?
  else if d.handler then is.find? fun i => !x.handling [i]
  else none

/-- Issue: the guard, the privilege check, the fields, the batons, and then the effect on the executing fibres (R160, R167,
R185, R224). The effect receives the state and the unit with the issue accounted for. `met` gives the records that the
instruction meets, by fibre; `pass` says that a fibre transforms the record it meets and so does not block on it (R68, R69). -/
def issueOn (met : Site → List Nat → List (Nat × List Baton)) (pass : Site → Nat → Bool) (g : Guard) (d : Demand) (s : State)
    (effect : State → Site → List Nat → Out) : Out :=
  match s.here with
  | none => .next s
  | some x =>
    match (if g = .always then Gate.go else gateOf (fun _ => true) (s.cur.batch.map fun i => (i, x.records i 0 1))) with
    | .wait => s.wait x true
    | .trap t =>
      let (s, x) := s.account x
      s.trapWith x s.cur.batch t
    | .go =>
      let is := x.executing s.cur.batch g
      if is.isEmpty then
        let (s, x) := s.account x
        .next (s.done x)
      else
        match x.barred d is with
        | some i =>
          let (s, x) := s.account x
          s.trap x is cause.privileged i (s.cur.word0.setWidth 64)
        | none =>
          match x.fieldsCheck s.cur.pc is d.uses with
          | some t =>
            let (s, x) := s.account x
            s.trapWith x is t
          | none =>
            match gateOf (fun i => !pass x i) (met x is) with
            | .wait => s.wait x true
            | .trap t =>
              let (s, x) := s.account x
              s.trapWith x is t
            | .go =>
              let (s, x) := s.account x
              effect s x is

/-- The records that the executing fibres meet in the fields of a demand. -/
def Demand.records (d : Demand) (x : Site) (is : List Nat) : List (Nat × List Baton) := is.map fun i => (i, x.met d.uses d.v0 i)

/-- Issue an instruction that passes some records on. -/
def issueWith (pass : Site → Nat → Bool) (g : Guard) (d : Demand) (s : State) (effect : State → Site → List Nat → Out) : Out :=
  issueOn d.records pass g d s effect

/-- Issue an instruction that blocks on every record it meets. -/
def issue (g : Guard) (d : Demand) (s : State) (effect : State → Site → List Nat → Out) : Out :=
  issueWith (fun _ _ => false) g d s effect

/-- An effect that only writes registers and goes on: `f` writes for one fibre, reading the unit as it was. -/
def regEffect (f : Site → Nat → Site → Site) (s : State) (x : Site) (is : List Nat) : Out :=
  .next (s.done (is.foldl (fun y i => f x i y) x))

/-- A translation fault on a virtual address (R342): the page joins those that the team waits for. -/
def Site.wantPageFor (x : Site) (w : PageUser) (va : Nat) : Site :=
  let meets (p : PageReq) : Bool := decide (p.page = va / 4096 ∧ p.failed = false)
  let ps := x.team.pages
  let qs :=
    if ps.any meets then ps.map fun p => (if meets p ∧ w ∉ p.users then { p with users := p.users ++ [w] } else p)
    else ps ++ [{ page := va / 4096, tries := 0, failed := false, done := false, users := [w] }]
  { x with team := { x.team with pages := qs } }

/-- A page request that somebody waited for has failed (R344). -/
def Site.failedPageFor (x : Site) (w : PageUser) (va : Nat) : Bool := x.team.pages.any fun p => p.page == va / 4096 && p.failed && decide (w ∈ p.users)

/-- The failure has been reported to somebody: the next fault on the page asks for it again. -/
def Site.forgetPageFor (x : Site) (w : PageUser) (va : Nat) : Site :=
  { x with team := { x.team with pages := x.team.pages.filterMap fun p =>
      if p.page = va / 4096 ∧ p.failed then (if p.users.filter (· ≠ w) = [] then none else some { p with users := p.users.filter (· ≠ w) }) else some p } }

/-- The page that the unit's instruction at a PC needs. -/
def Site.wantPage (x : Site) (pc : Pc) (va : Nat) : Site := x.wantPageFor (.issue x.u.who pc) va

/-- A page request for the unit's instruction has failed. -/
def Site.failedPage (x : Site) (pc : Pc) (va : Nat) : Bool := x.failedPageFor (.issue x.u.who pc) va

/-- The unit's instruction has reported the failure. -/
def Site.forgetPage (x : Site) (pc : Pc) (va : Nat) : Site := x.forgetPageFor (.issue x.u.who pc) va

/-- The team waits to be saved for pages that it has not asked for yet (R342). -/
def Team.wantsPages (t : Team) : Bool := t.pages.any fun p => p.tries = 0 ∧ p.done = false ∧ p.failed = false

/-- What a translation fault does to the instruction that issues: no effect and a save, or, after a failed page request,
PAGE_REQUEST_FAILED (R342, R344). -/
def State.pageFault (s : State) (x : Site) (is : List Nat) (fib : Nat) (va : Nat) (info : DWord) : Out :=
  if x.failedPage s.cur.pc va then s.trap (x.forgetPage s.cur.pc va) is cause.pageRequestFailed fib info
  else .next (s.put (x.wantPage s.cur.pc va))

/-- A wait that an instruction finds once its operands are known: the unit waits as it stood before the issue. -/
def State.stall (s : State) (long : Bool := false) : Out :=
  match s.here with
  | none => .next s
  | some x => s.wait x false long

/-! ### Masks (R36, R37) -/

/-- Fibres that wait on a mask run again. -/
def Heat.release (h : Heat) (m : Nat) : Heat :=
  { h with fibres := h.fibres.map (Option.map fun f => if f.waitOn = some m then { f with waitOn := none } else f) }

/-- Set a mask; an empty one releases its waiters (R37). -/
def Heat.putMask (h : Heat) (m : Nat) (w : Word) : Heat :=
  let h := { h with masks := h.masks.set m w }
  if w = 0 then h.release m else h

/-- The executing fibres as a mask. -/
def slotMask (is : List Nat) : Word := is.foldl (fun w i => w ||| (1#32 <<< i)) 0

/-- leave (R37). -/
def Heat.leave (h : Heat) (m : Nat) (is : List Nat) : Heat := h.putMask m (h.masks.getD m 0 &&& ~~~(slotMask is))

/-- waitm (R37). -/
def Heat.waitm (h : Heat) (m : Nat) (is : List Nat) : Heat :=
  if h.masks.getD m 0 = 0 then h else is.foldl (fun h i => h.updFibre i fun f => { f with waitOn := some m }) h

/-- mset (R36, R37). -/
def Heat.mset (h : Heat) (m : Nat) (w : Word) : Heat := h.putMask m (w &&& h.live)

/-- Leave all twelve masks (R33). -/
def Heat.leaveAll (h : Heat) (is : List Nat) : Heat := (List.range 12).foldl (fun h m => h.leave m is) h

end Sys2Proof.Machine
end

