-- ==== Sys2Proof/Machine/Forms.lean ====
section
/-!
DEFINITION. The forms of an instruction: what R164 makes of a short form, and the base mnemonic and fields
that each constructor stands for.
-/

namespace Sys2Proof

/-- A short form whose X is register B (R164). -/
def shortReg (ty : Ty) (x : BitVec 7) (a d : BitVec 8) : Ext where
  form := .ext
  x := 0
  a := a
  d := d
  b := x.setWidth 8
  c := 0
  guard := .always
  ty := ty
  m1 := 0
  osel := 0
  rs := 0
  mod := 0
  p := 0
  imm := 0
  lit := 0

/-- A short form whose X is a signed imm7 (R164). -/
def shortImm (ty : Ty) (i : BitVec 7) (a d : BitVec 8) : Ext :=
  { shortReg ty 0 a d with osel := 1, imm := i.signExtend 16 }

/-- A short form whose X is FN, or res0 (R164). -/
def shortFn (ty : Ty) (fn : BitVec 7) (a d : BitVec 8) : Ext :=
  { shortReg ty 0 a d with x := fn }

/-- What a constructor stands for: a base mnemonic with the fields of its extended form, a branch of
format J, or an event. -/
inductive Shape where
  | form (m : Mn) (e : Ext)
  | jump (m : Mn) (j : JExt)
  | event
  deriving DecidableEq, Repr

/-- The base mnemonic and the fields of an instruction (R164). -/
def Instr.shape : Instr → Shape
  | .nop => .form .nop (shortFn .s8 1 0 0)
  | .nopExt e => .form .nop e
  | .yield => .form .yield (shortFn .s8 2 0 0)
  | .yieldExt e => .form .yield e
  | .endI => .form .endI (shortFn .s8 3 0 0)
  | .endExt e => .form .endI e
  | .add x a d => .form .add (shortReg .s32 x a d)
  | .addExt e => .form .add e
  | .sub x a d => .form .sub (shortReg .s32 x a d)
  | .subExt e => .form .sub e
  | .addc x a d => .form .addc (shortReg .s32 x a d)
  | .addcExt e => .form .addc e
  | .subb x a d => .form .subb (shortReg .s32 x a d)
  | .subbExt e => .form .subb e
  | .mul x a d => .form .mul (shortReg .s32 x a d)
  | .mulExt e => .form .mul e
  | .mulh x a d => .form .mulh (shortReg .s32 x a d)
  | .mulhExt e => .form .mulh e
  | .mad e => .form .mad e
  | .div x a d => .form .div (shortReg .s32 x a d)
  | .divExt e => .form .div e
  | .rem x a d => .form .rem (shortReg .s32 x a d)
  | .remExt e => .form .rem e
  | .neg a d => .form .neg (shortFn .s32 0 a d)
  | .negExt e => .form .neg e
  | .abs a d => .form .abs (shortFn .s32 1 a d)
  | .absExt e => .form .abs e
  | .min x a d => .form .min (shortReg .s32 x a d)
  | .minExt e => .form .min e
  | .max x a d => .form .max (shortReg .s32 x a d)
  | .maxExt e => .form .max e
  | .and x a d => .form .and (shortReg .b32 x a d)
  | .andExt e => .form .and e
  | .or x a d => .form .or (shortReg .b32 x a d)
  | .orExt e => .form .or e
  | .xor x a d => .form .xor (shortReg .b32 x a d)
  | .xorExt e => .form .xor e
  | .andn x a d => .form .andn (shortReg .b32 x a d)
  | .andnExt e => .form .andn e
  | .not a d => .form .not (shortFn .b32 0 a d)
  | .notExt e => .form .not e
  | .shl x a d => .form .shl (shortReg .b32 x a d)
  | .shlExt e => .form .shl e
  | .shr x a d => .form .shr (shortReg .b32 x a d)
  | .shrExt e => .form .shr e
  | .sha x a d => .form .sha (shortReg .b32 x a d)
  | .shaExt e => .form .sha e
  | .rot x a d => .form .rot (shortReg .b32 x a d)
  | .rotExt e => .form .rot e
  | .bfx e => .form .bfx e
  | .bfi e => .form .bfi e
  | .popc a d => .form .popc (shortFn .b32 0 a d)
  | .popcExt e => .form .popc e
  | .clz a d => .form .clz (shortFn .b32 1 a d)
  | .clzExt e => .form .clz e
  | .ctz a d => .form .ctz (shortFn .b32 2 a d)
  | .ctzExt e => .form .ctz e
  | .brev a d => .form .brev (shortFn .b32 3 a d)
  | .brevExt e => .form .brev e
  | .perm x a d => .form .perm (shortReg .b32 x a d)
  | .permExt e => .form .perm e
  | .mov a d => .form .mov (shortFn .b32 0 a d)
  | .movExt e => .form .mov e
  | .movi i d => .form .movi (shortImm .b32 i 0 d)
  | .moviExt e => .form .movi e
  | .lit e => .form .lit e
  | .sel e => .form .sel e
  | .cmp x a g => .form .cmp (shortReg .s32 x a (g.setWidth 8))
  | .cmpExt e => .form .cmp e
  | .cmpv x a d => .form .cmpv (shortReg .s32 x a d)
  | .cmpvExt e => .form .cmpv e
  | .lea x a d => .form .lea (shortReg .n64 x a d)
  | .leaExt e => .form .lea e
  | .sptest a d => .form .sptest (shortFn .s8 0 a d)
  | .sptestExt e => .form .sptest e
  | .spcastOfs a d => .form .spcastOfs (shortFn .s8 1 a d)
  | .spcastOfsExt e => .form .spcastOfs e
  | .spcastGen a d => .form .spcastGen (shortFn .s8 2 a d)
  | .spcastGenExt e => .form .spcastGen e
  | .gop f a d => .form .gop (shortFn .s8 (f.setWidth 7) (a.setWidth 8) (d.setWidth 8))
  | .gopExt e => .form .gop e
  | .bra o => .jump .bra ⟨o, .always, 0⟩
  | .braExt j => .jump .bra j
  | .call o => .jump .call ⟨o, .always, 0⟩
  | .callExt j => .jump .call j
  | .callW j => .jump .callW j
  | .brx a => .form .brx (shortFn .s8 0 a 0)
  | .brxExt e => .form .brx e
  | .callx a => .form .callx (shortFn .s8 1 a 0)
  | .callxExt e => .form .callx e
  | .callxW e => .form .callxW e
  | .ret => .form .ret (shortFn .s8 2 0 0)
  | .retExt e => .form .ret e
  | .join m => .form .join (shortFn .s8 0 0 (m.setWidth 8))
  | .joinExt e => .form .join e
  | .leave m => .form .leave (shortFn .s8 1 0 (m.setWidth 8))
  | .leaveExt e => .form .leave e
  | .waitm m => .form .waitm (shortFn .s8 2 0 (m.setWidth 8))
  | .waitmExt e => .form .waitm e
  | .mset a m => .form .mset (shortFn .s8 3 a (m.setWidth 8))
  | .msetExt e => .form .mset e
  | .mget a m => .form .mget (shortFn .s8 4 a (m.setWidth 8))
  | .mgetExt e => .form .mget e
  | .fork e => .form .fork e
  | .vote a d => .form .vote (shortFn .s8 1 (a.setWidth 8) d)
  | .voteExt e => .form .vote e
  | .shfl a d => .form .shfl (shortFn .b32 2 a d)
  | .shflExt e => .form .shfl e
  | .bcast a d => .form .bcast (shortFn .b32 3 a d)
  | .bcastExt e => .form .bcast e
  | .xlock => .form .xlock (shortFn .s8 4 0 0)
  | .xlockExt e => .form .xlock e
  | .xfree => .form .xfree (shortFn .s8 5 0 0)
  | .xfreeExt e => .form .xfree e
  | .ld i a d => .form .ld (shortImm .n32 i a d)
  | .ldExt e => .form .ld e
  | .st i a d => .form .st (shortImm .n32 i a d)
  | .stExt e => .form .st e
  | .ldx e => .form .ldx e
  | .stx e => .form .stx e
  | .pref i a => .form .pref (shortImm .s8 i a 0)
  | .prefExt e => .form .pref e
  | .flush a => .form .flush (shortFn .s8 0 a 0)
  | .flushExt e => .form .flush e
  | .flushInv a => .form .flushInv (shortFn .s8 1 a 0)
  | .flushInvExt e => .form .flushInv e
  | .pgarm e => .form .pgarm e
  | .amo e => .form .amo e
  | .red e => .form .red e
  | .cas e => .form .cas e
  | .fence => .form .fence (shortFn .s8 0 0 0)
  | .fenceExt e => .form .fence e
  | .phase => .form .phase (shortFn .s8 0 0 0)
  | .phaseExt e => .form .phase e
  | .wdrain => .form .wdrain (shortFn .s8 0 0 0)
  | .wdrainExt e => .form .wdrain e
  | .btnSync a => .form .btnSync (shortFn .s8 0 a 0)
  | .btnSyncExt e => .form .btnSync e
  | .btnTest a g => .form .btnTest (shortFn .s8 1 a (g.setWidth 8))
  | .btnTestExt e => .form .btnTest e
  | .barInit a d => .form .barInit (shortFn .s8 0 a d)
  | .barInitExt e => .form .barInit e
  | .barArv a d => .form .barArv (shortFn .s8 1 a d)
  | .barArvExt e => .form .barArv e
  | .barExp a d => .form .barExp (shortFn .s8 2 a d)
  | .barExpExt e => .form .barExp e
  | .barWait a d => .form .barWait (shortFn .s8 3 a d)
  | .barWaitExt e => .form .barWait e
  | .barTry a d => .form .barTry (shortFn .s8 4 a d)
  | .barTryExt e => .form .barTry e
  | .fifoMap e => .form .fifoMap e
  | .fifoPut a d => .form .fifoPut (shortFn .b32 1 a d)
  | .fifoPutExt e => .form .fifoPut e
  | .fifoGet a d => .form .fifoGet (shortFn .b32 2 a d)
  | .fifoGetExt e => .form .fifoGet e
  | .fifoClose d => .form .fifoClose (shortFn .b32 3 0 d)
  | .fifoCloseExt e => .form .fifoClose e
  | .fifoStat a d => .form .fifoStat (shortFn .b32 4 a d)
  | .fifoStatExt e => .form .fifoStat e
  | .cpy e => .form .cpy e
  | .cpyWait e => .form .cpyWait e
  | .cpyPtr e => .form .cpyPtr e
  | .cpyPtrSt e => .form .cpyPtrSt e
  | .cpyPtrClr e => .form .cpyPtrClr e
  | .trgAdd e => .form .trgAdd e
  | .trgSet e => .form .trgSet e
  | .trgWait e => .form .trgWait e
  | .trgArm e => .form .trgArm e
  | .bankcfg e => .form .bankcfg e
  | .fadd x a d => .form .fadd (shortReg .f32 x a d)
  | .faddExt e => .form .fadd e
  | .fsub x a d => .form .fsub (shortReg .f32 x a d)
  | .fsubExt e => .form .fsub e
  | .fmul x a d => .form .fmul (shortReg .f32 x a d)
  | .fmulExt e => .form .fmul e
  | .fma e => .form .fma e
  | .fms e => .form .fms e
  | .fnma e => .form .fnma e
  | .fmin x a d => .form .fmin (shortReg .f32 x a d)
  | .fminExt e => .form .fmin e
  | .fmax x a d => .form .fmax (shortReg .f32 x a d)
  | .fmaxExt e => .form .fmax e
  | .fabs a d => .form .fabs (shortFn .f32 0 a d)
  | .fabsExt e => .form .fabs e
  | .fneg a d => .form .fneg (shortFn .f32 1 a d)
  | .fnegExt e => .form .fneg e
  | .fcpys e => .form .fcpys e
  | .fcmp e => .form .fcmp e
  | .fclass a d => .form .fclass (shortFn .f32 0 a d)
  | .fclassExt e => .form .fclass e
  | .frcp a d => .form .frcp (shortFn .f32 0 a d)
  | .frcpExt e => .form .frcp e
  | .frsq a d => .form .frsq (shortFn .f32 1 a d)
  | .frsqExt e => .form .frsq e
  | .fsqrt a d => .form .fsqrt (shortFn .f32 2 a d)
  | .fsqrtExt e => .form .fsqrt e
  | .fdiv x a d => .form .fdiv (shortReg .f32 x a d)
  | .fdivExt e => .form .fdiv e
  | .fexp2 a d => .form .fexp2 (shortFn .f32 0 a d)
  | .fexp2Ext e => .form .fexp2 e
  | .flog2 a d => .form .flog2 (shortFn .f32 1 a d)
  | .flog2Ext e => .form .flog2 e
  | .fsin a d => .form .fsin (shortFn .f32 2 a d)
  | .fsinExt e => .form .fsin e
  | .fcos a d => .form .fcos (shortFn .f32 3 a d)
  | .fcosExt e => .form .fcos e
  | .ftanh a d => .form .ftanh (shortFn .f32 4 a d)
  | .ftanhExt e => .form .ftanh e
  | .frnd a d => .form .frnd (shortFn .f32 0 a d)
  | .frndExt e => .form .frnd e
  | .fscale x a d => .form .fscale (shortReg .f32 x a d)
  | .fscaleExt e => .form .fscale e
  | .f2i e => .form .f2i e
  | .i2f e => .form .i2f e
  | .fcvt e => .form .fcvt e
  | .dot2 e => .form .dot2 e
  | .dot4 e => .form .dot4 e
  | .hred e => .form .hred e
  | .qpack e => .form .qpack e
  | .qunpack e => .form .qunpack e
  | .qscale e => .form .qscale e
  | .qchk e => .form .qchk e
  | .topk e => .form .topk e
  | .topkm e => .form .topkm e
  | .sbound e => .form .sbound e
  | .mxbind e => .form .mxbind e
  | .mxma e => .form .mxma e
  | .mxzero e => .form .mxzero e
  | .mxwait => .form .mxwait (shortFn .s8 0 0 0)
  | .mxwaitExt e => .form .mxwait e
  | .mxfence => .form .mxfence (shortFn .s8 0 0 0)
  | .mxfenceExt e => .form .mxfence e
  | .mxstat d => .form .mxstat (shortFn .s8 0 0 d)
  | .mxstatExt e => .form .mxstat e
  | .awset e => .form .awset e
  | .accrd e => .form .accrd e
  | .accwr e => .form .accwr e
  | .txfer e => .form .txfer e
  | .txcoll e => .form .txcoll e
  | .txwait e => .form .txwait e
  | .tsend e => .form .tsend e
  | .sysrd e => .form .sysrd e
  | .syswr e => .form .syswr e
  | .trap i => .form .trap (shortImm .s8 i 0 0)
  | .trapExt e => .form .trap e
  | .eret => .form .eret (shortFn .s8 0 0 0)
  | .eretExt e => .form .eret e
  | .brk i => .form .brk (shortImm .s8 i 0 0)
  | .brkExt e => .form .brk e
  | .perfrd e => .form .perfrd e
  | .budget e => .form .budget e
  | .driverBankcfg _ _ _ _ => .event
  | .driverAwset _ _ _ _ _ => .event
  | .driverSyswr _ _ _ _ => .event
  | .queueDescribe _ _ => .event
  | .tailRegisterStore _ _ _ => .event
  | .notifyPageOtherStore _ _ _ => .event
  | .entryConsume _ => .event
  | .entryReread _ => .event
  | .reservationRequest _ _ _ => .event
  | .reservationAnswer _ _ _ => .event
  | .reservationTimeout _ => .event
  | .reservationCommit _ _ _ => .event
  | .reservationRelease _ _ => .event
  | .lapBoundary => .event
  | .lapLengthSet _ => .event
  | .tenantRecordSet _ _ _ _ _ => .event
  | .partitionConfig _ _ => .event
  | .meetLaunch _ => .event
  | .batchHandout _ _ _ _ => .event
  | .teamPlacement _ _ _ _ => .event
  | .teamRetirement _ => .event
  | .chargeReport _ _ => .event
  | .tenantRevoke _ _ => .event
  | .saveRequest _ _ => .event
  | .contextSave _ => .event
  | .pageResponse _ _ _ _ => .event
  | .atsCompletion _ _ _ => .event
  | .shootdown _ _ _ _ => .event
  | .pageWalkCompletion _ _ _ _ => .event
  | .contextRestore _ => .event
  | .awaitValueArrival _ _ _ _ => .event
  | .contextKill _ => .event
  | .framePoolRegister _ _ _ => .event
  | .valueArrival _ _ => .event
  | .forcedSwap _ _ _ => .event
  | .pendingSwap _ _ _ => .event
  | .rotation _ _ _ => .event
  | .deferredTrapDelivery _ => .event
  | .leaseExpiry _ _ => .event
  | .writeAcknowledgement _ => .event
  | .homeRequest _ => .event
  | .invalidationAck _ _ => .event
  | .externalAccess _ => .event
  | .backInvalidateSnoop _ => .event
  | .birsp _ _ => .event
  | .classChange _ _ => .event
  | .classTransition _ => .event
  | .copyStart _ _ => .event
  | .copyPortionWritten _ _ _ => .event
  | .copyFault _ _ => .event
  | .tileFetchChunk _ => .event
  | .tileFetchFault _ => .event
  | .arrayChunk _ => .event
  | .arrayZero _ => .event
  | .armedOperationStart _ _ => .event
  | .txferLaunchTime _ _ => .event
  | .txferCompletion _ _ => .event
  | .tsendPacketSend _ _ => .event
  | .taskPacketCheck _ => .event
  | .tsendAnswer _ _ => .event
  | .collectiveIssue _ _ => .event
  | .collectiveBufferGrant _ _ => .event
  | .collectiveDataArrival _ _ _ _ _ _ => .event
  | .collectiveCompletion _ _ => .event
  | .groupTableWrite _ _ _ => .event
  | .placeTableWrite _ _ _ => .event
  | .repairTableWrite _ _ _ => .event
  | .windowRegisterWrite _ _ _ _ _ => .event
  | .configRegisterWrite _ => .event
  | .dcAddExtent _ _ _ _ => .event
  | .dcReleaseExtent _ => .event
  | .keyExchange _ _ _ _ _ _ _ => .event
  | .keyUpdate _ _ _ => .event
  | .endSession _ _ => .event
  | .getMeasurements _ => .event
  | .firmwareImageLoad _ => .event
  | .writebackErrorAnswer _ _ _ => .event
  | .viralEntry _ => .event
  | .portReset _ => .event
  | .linkFailure _ => .event
  | .requestTimeout _ => .event
  | .powerActive _ => .event
  | .powerPark _ => .event
  | .powerDoze _ => .event
  | .powerOff _ => .event
  | .frequencyStep _ _ => .event
  | .temperatureSample _ _ => .event
  | .processMonitorSample _ _ => .event
  | .monitorThresholdSet _ _ => .event
  | .monitorRead _ _ => .event
  | .coldReset => .event
  | .warmReset _ => .event
  | .dieReadmission _ => .event
  | .functionLevelReset _ => .event
  | .mailboxMessage _ _ _ _ => .event
  | .heartbeat _ => .event
  | .adoption _ _ => .event
  | .migration _ _ => .event
  | .voltageDroop _ _ _ => .event
  | .deviceReconnection _ => .event
  | .commandProcessorCoreFailure _ _ => .event
  | .taskImageRegistration _ _ _ _ _ _ _ => .event

end Sys2Proof
end

