-- ==== Sys2Proof/WellFormed.lean ====
section
/-!
DEFINITION. Well-formed instructions: check 4 of Table 13.7 for the forms that have words, and the ranges the
manual gives the numbers that an event names.
-/

namespace Sys2Proof

/-- A key slot of the 64 of its die (R369). -/
def KeyEnd.ok : KeyEnd → Bool
  | .slot _ index => decide (index < 64)
  | .node _ => true

/-- The numbers an event names lie in the ranges of the manual (R118, R363, R369, R377, R395, R402). -/
def Instr.eventOk : Instr → Bool
  | .driverBankcfg _ _ _ _ => true
  | .driverAwset _ _ _ _ _ => true
  | .driverSyswr _ _ _ _ => true
  | .queueDescribe _ _ => true
  | .tailRegisterStore _ _ _ => true
  | .notifyPageOtherStore _ _ _ => true
  | .entryConsume _ => true
  | .entryReread _ => true
  | .reservationRequest _ _ _ => true
  | .reservationAnswer _ _ _ => true
  | .reservationTimeout _ => true
  | .reservationCommit _ _ _ => true
  | .reservationRelease _ _ => true
  | .lapBoundary => true
  | .lapLengthSet us => decide (0 < us)
  | .tenantRecordSet _ _ _ _ _ => true
  | .partitionConfig part _ => decide (part < 64)
  | .meetLaunch _ => true
  | .batchHandout _ _ _ _ => true
  | .teamPlacement _ _ _ _ => true
  | .teamRetirement _ => true
  | .chargeReport _ _ => true
  | .tenantRevoke _ _ => true
  | .saveRequest _ _ => true
  | .contextSave _ => true
  | .pageResponse _ _ _ _ => true
  | .atsCompletion _ _ _ => true
  | .shootdown _ _ _ _ => true
  | .pageWalkCompletion _ _ _ _ => true
  | .contextRestore _ => true
  | .awaitValueArrival _ _ _ _ => true
  | .contextKill _ => true
  | .framePoolRegister _ _ _ => true
  | .valueArrival _ _ => true
  | .forcedSwap _ _ _ => true
  | .pendingSwap _ _ _ => true
  | .rotation _ _ _ => true
  | .deferredTrapDelivery _ => true
  | .leaseExpiry _ _ => true
  | .writeAcknowledgement _ => true
  | .homeRequest _ => true
  | .invalidationAck _ _ => true
  | .externalAccess _ => true
  | .backInvalidateSnoop _ => true
  | .birsp _ _ => true
  | .classChange _ _ => true
  | .classTransition _ => true
  | .copyStart _ chan => decide (chan < 9)
  | .copyPortionWritten _ chan _ => decide (chan < 9)
  | .copyFault _ chan => decide (chan < 9)
  | .tileFetchChunk _ => true
  | .tileFetchFault _ => true
  | .arrayChunk _ => true
  | .arrayZero _ => true
  | .armedOperationStart _ _ => true
  | .txferLaunchTime _ _ => true
  | .txferCompletion _ _ => true
  | .tsendPacketSend _ _ => true
  | .taskPacketCheck _ => true
  | .tsendAnswer _ _ => true
  | .collectiveIssue _ _ => true
  | .collectiveBufferGrant _ _ => true
  | .collectiveDataArrival _ _ _ _ _ _ => true
  | .collectiveCompletion _ _ => true
  | .groupTableWrite _ group _ => decide (group < 256)
  | .placeTableWrite _ _ _ => true
  | .repairTableWrite _ _ _ => true
  | .windowRegisterWrite _ index base size _ => decide (index < 16 ∧ base % 2 ^ 28 = 0 ∧ size % 2 ^ 28 = 0)
  | .configRegisterWrite _ => true
  | .dcAddExtent _ _ _ _ => true
  | .dcReleaseExtent _ => true
  | .keyExchange k _ _ _ _ _ _ => k.ok
  | .keyUpdate d k _ => (keyEnd d k).ok
  | .endSession d k => (keyEnd d k).ok
  | .getMeasurements _ => true
  | .firmwareImageLoad _ => true
  | .writebackErrorAnswer _ _ _ => true
  | .viralEntry _ => true
  | .portReset _ => true
  | .linkFailure _ => true
  | .requestTimeout _ => true
  | .powerActive _ => true
  | .powerPark _ => true
  | .powerDoze _ => true
  | .powerOff _ => true
  | .frequencyStep _ step => decide (step < 8)
  | .temperatureSample _ _ => true
  | .processMonitorSample _ _ => true
  | .monitorThresholdSet _ _ => true
  | .monitorRead _ _ => true
  | .coldReset => true
  | .warmReset _ => true
  | .dieReadmission _ => true
  | .functionLevelReset _ => true
  | .mailboxMessage _ src dst _ => decide (src < 8 ∧ dst < 8)
  | .heartbeat _ => true
  | .adoption _ _ => true
  | .migration _ _ => true
  | .voltageDroop _ _ _ => true
  | .deviceReconnection _ => true
  | .commandProcessorCoreFailure _ core => decide (core < 8)
  | .taskImageRegistration _ _ _ _ _ _ _ => true
  | _ => true

/-- A well-formed instruction: FN, T, OSEL, RS, M1, MOD, L, register alignment and mask number are defined for
it, and every res0 field is zero (R167). -/
def Instr.wf (i : Instr) : Bool :=
  match i.shape with
  | .form m e => m.extOk e
  | .jump m j => m.jOk j
  | .event => i.eventOk

end Sys2Proof
end

