-- ==== Sys2Proof/Machine/Operands.lean ====
section
/-!
DEFINITION. Operand forms (R162, R163, R183, R184, R223): the second source, immediates by type, results by
type, and the register fields that an instruction names.
-/

namespace Sys2Proof.Machine

/-- imm16 as the second source of a type (R162). -/
def immOf (ty : Ty) (imm : BitVec 16) : Nat :=
  match ty with
  | .f16 | .bf16 => imm.toNat
  | .f32 => imm.toNat * 65536
  | .h2 | .b2 => imm.toNat * 65537
  | .s64 | .n64 | .b64 => (imm.signExtend 64).toNat
  | _ => (imm.signExtend 32).toNat

/-- The second source: n registers from B, an immediate, or the literal (R183). -/
def Site.second (x : Site) (i : Nat) (e : Ext) (n imm : Nat) : Nat :=
  match e.osel.toNat with
  | 0 => x.val i e.b.toNat n
  | 1 => imm
  | _ => e.lit.toNat

/-- The second source b of the operand type. -/
def Site.srcB (x : Site) (i : Nat) (e : Ext) : Nat := x.second i e e.ty.regs (immOf e.ty e.imm)

/-- A 32-bit second source: imm16 is sign-extended (R184). -/
def Site.src32 (x : Site) (i : Nat) (e : Ext) : Nat := x.second i e 1 (e.imm.signExtend 32).toNat % 2 ^ 32

/-- The second source of an instruction without a type: imm16 is zero-extended (R162). -/
def Site.srcN (x : Site) (i : Nat) (e : Ext) : Nat := x.second i e 1 e.imm.toNat % 2 ^ 32

/-- A 64-bit offset or index: a register extended to 64 bits, imm16 sign-extended, or the whole literal (R208, R223). -/
def Site.srcOfs (x : Site) (i : Nat) (e : Ext) (signed : Bool) : Nat :=
  match e.osel.toNat with
  | 0 => if signed then sext 32 64 (x.val i e.b.toNat 1) else x.val i e.b.toNat 1
  | 1 => (e.imm.signExtend 64).toNat
  | _ => e.lit.toNat

/-- A number of a type as the value it stands for (R184). -/
def valOf (ty : Ty) (v : Nat) : Int := if ty.signed then toSigned ty.bits v else ((v % 2 ^ ty.bits : Nat) : Int)

/-- A result of a type as the registers hold it: reduced modulo 2^W, sign- or zero-extended to 32 bits when narrower (R184). -/
def resultOf (ty : Ty) (x : Int) : Nat :=
  let v := wrap ty.bits x
  if ty.bits < 32 ∧ ty.signed then sext ty.bits 32 v else v

/-- Greatest and least value of a type (R191). -/
def typeMax (ty : Ty) : Int := if ty.signed then 2 ^ (ty.bits - 1) - 1 else 2 ^ ty.bits - 1
def typeMin (ty : Ty) : Int := if ty.signed then -(2 ^ (ty.bits - 1)) else 0

/-- finish of R191. -/
def finish (ty : Ty) (sat : Bool) (x : Int) : Nat :=
  resultOf ty (if sat then min (max x (typeMin ty)) (typeMax ty) else x)

/-- A value extended to a wider register by its type: how a load writes it (R232). -/
def extendOf (ty : Ty) (v : Nat) : Nat := if ty.signed ∧ ty.bits < 32 then sext ty.bits 32 v else v

/-- D as a destination. -/
def useD (e : Ext) (n : Nat) : Use := { reg := e.d.toNat, n := n, rd := false }

/-- D as a source. -/
def readD (e : Ext) (n : Nat) : Use := { reg := e.d.toNat, n := n, rd := true }

/-- A as a source. -/
def readA (e : Ext) (n : Nat) : Use := { reg := e.a.toNat, n := n, rd := true }

/-- B as the second source, when OSEL names it. -/
def readB (e : Ext) (n : Nat) : List Use := if e.osel = 0 then [{ reg := e.b.toNat, n := n, rd := true }] else []

/-- C as a source. -/
def readC (e : Ext) (n : Nat) : Use := { reg := e.c.toNat, n := n, rd := true }

/-- A demand on register fields alone. -/
def demand (us : List Use) : Demand := { uses := us, v0 := false, leader := false }

/-- A demand on register fields and on guard bits (R189). -/
def demandG (us : List Use) : Demand := { uses := us, v0 := true, leader := false }

/-- The fields d, a, b of one type. -/
def uses3 (e : Ext) : List Use := [useD e e.ty.regs, readA e e.ty.regs] ++ readB e e.ty.regs

/-- The fields d, a of one type. -/
def uses2 (e : Ext) : List Use := [useD e e.ty.regs, readA e e.ty.regs]

/-- Operand a of the type. -/
def Site.srcA (x : Site) (i : Nat) (e : Ext) : Nat := x.val i e.a.toNat e.ty.regs

/-- Operand c of the type. -/
def Site.srcC (x : Site) (i : Nat) (e : Ext) : Nat := x.val i e.c.toNat e.ty.regs

/-- Write the destination d of the type. -/
def Site.dst (y : Site) (i : Nat) (e : Ext) (v : Nat) : Site := y.setVal i e.d.toNat e.ty.regs v

/-- Write a 32-bit destination d. -/
def Site.dst32 (y : Site) (i : Nat) (e : Ext) (v : Nat) : Site := y.setVal i e.d.toNat 1 v

/-- An instruction that writes d of its type from each executing fibre's own operands. -/
def perFibre (e : Ext) (us : List Use) (s : State) (v : Site → Nat → Nat) : Out :=
  issue e.guard (demand us) s (regEffect fun x i y => y.dst i e (v x i))

/-- The same with a 32-bit destination. -/
def perFibre32 (e : Ext) (us : List Use) (s : State) (v : Site → Nat → Nat) : Out :=
  issue e.guard (demand us) s (regEffect fun x i y => y.dst32 i e (v x i))

/-! ### Commands of the driver (R168) -/

/-- What a command comes to: its status with the state, or a wait, after which it is performed. -/
inductive Command where
  | status (c : Byte) (s : State)
  | waits

/-- Answer a command; one that waits is performed later. -/
def Command.answer (d : DriverCommand) (s : State) : Command → State
  | .status c s => s.tell (.command c)
  | .waits => { s with commands := s.commands ++ [d] }

/-- A driver may name the contexts to which the hypervisor has bound it, and no other (R168). -/
def State.bound (s : State) (driver ctx : Nat) : Bool := ((s.ctx? ctx).map fun c => decide (c.driver = driver)).getD false

/-- The fibre of a leader that has ended, for a command that reads its registers (R44): the manual does not state what they hold, so they hold free values
(log entry 68). -/
def State.lentFibre (s : State) (x : Site) : Site × State :=
  let regs := (List.range x.team.base).map fun k => Slot.val ((Config.freeWord (s.freeCtr + k)).setWidth 32)
  let f : Fibre := { pc := 0, waitOn := none, win := 0, regs := regs, seed := 0, handler := false, epc := 0, last := 0 }
  ({ x with heat := { x.heat with fibres := x.heat.fibres.set 0 (some f) } }, { s with freeCtr := s.freeCtr + x.team.base })

/-- What a command comes to, its state changed. -/
def Command.map (f : State → State) : Command → Command
  | .status c s => .status c (f s)
  | .waits => .waits

/-- The heat of a unit with its fibres as they were. -/
def State.refibre (x : Site) (s : State) : State := s.updTeam x.team.id fun t => match t.heat? x.u.who with
  | some h => t.setHeat x.u.who { h with fibres := x.heat.fibres }
  | none => t

/-- Perform a command on a team as its leader would the instruction: the operand checks of R185 and R224 in the leader's fibre, then the effect. Where the
leader has ended, the driver still performs it (R44). DESIGN CHOICE: so it does on a die that is offline or OFF (log entry 68). -/
def State.commandOn (s : State) (d : DriverCommand) (i : Instr) (us : List Use) (cl : Option ClusterRef) (go : State → Site → Command) : Command :=
  let e := d.e
  if s.bound d.driver d.ctx = false then .status cause.privileged s
  else if i.wf = false then .status cause.illegal s
  else
    match s.team? d.team with
    | none => .status cause.protection s
    | some t =>
      if t.ctx ≠ d.ctx ∨ t.st = .retired ∨ (cl ≠ none ∧ cl ≠ some t.cl) then .status cause.protection s
      else
        match s.site? { team := d.team, who := .heat 0 0 } with
        | none => .status cause.protection s
        | some x =>
          let ended := (us ≠ [] ∨ e.guard ≠ .always) ∧ ¬ x.team.leader
          let (y, s) := if ended then s.lentFibre x else (x, s)
          match (if e.guard = .always then Gate.go else gateOf (fun _ => true) [(0, y.records 0 0 1)]) with
          | .wait => .waits
          | .trap t => .status t.cause s
          | .go =>
            if (y.executing [0] e.guard).isEmpty then .status 0 s
            else
              match y.fieldsCheck 0 [0] us with
              | some t => .status t.cause s
              | none =>
                match gateOf (fun _ => true) [(0, y.met us false 0)] with
                | .wait => .waits
                | .trap t => .status t.cause s
                | .go => if ended then (go s y).map (State.refibre x) else go s y

end Sys2Proof.Machine
end

