-- ==== Sys2Proof/Machine/Memory.lean ====
section
/-!
DEFINITION. Loads, stores, prefetch, write-back and re-arming: opcodes 0x28 to 0x2E (R223 to R237).
-/

namespace Sys2Proof.Machine

/-! ### Addresses -/

/-- The offset o of LD, ST and PREF (R223). -/
def Site.offset (x : Site) (i : Nat) (e : Ext) : Nat := x.srcOfs i e true

/-- The effective address (R223). -/
def Site.ea (x : Site) (i : Nat) (e : Ext) : Nat := (x.val i e.a.toNat 2 + x.offset i e) % 2 ^ 64

/-- Bytes of a type in memory (R232). -/
def memBytes (t : Ty) : Nat := t.bits / 8

/-- Register fields of an address with an offset. -/
def usesEa (e : Ext) : List Use := readA e 2 :: readB e 1

/-- The first fibre whose address fails checks 1 to 4 of R99 (R224). -/
def Site.badAddress (x : Site) (n align : Nat) (as : List (Nat × Nat)) : Option (Nat × Nat × Byte) :=
  as.findSome? fun (i, a) => match x.check i a n align with
    | .error c => some (i, a, c)
    | .ok _ => none

/-- Bytes of core scratch or cluster-shared memory. -/
def Site.readLocal (x : Site) (n : Nat) : Loc → List Byte
  | .scr o => Memory.read (x.team.scrMem.getD x.squad []) o n
  | .csh o => Memory.read x.team.cshMem o n
  | .virt _ => []

/-- Write core scratch or cluster-shared memory. -/
def Site.writeLocal (x : Site) (bs : List Byte) : Loc → Site
  | .scr o => { x with team := { x.team with scrMem := x.team.scrMem.modify x.squad fun m => Memory.write m o bs } }
  | .csh o => { x with team := { x.team with cshMem := Memory.write x.team.cshMem o bs } }
  | .virt _ => x

/-- Access to a virtual address by the unit. -/
def State.reachX (s : State) (x : Site) (va : Nat) (k : AccKind) (f : AccForm) : Except Bad Hit :=
  s.reach x.team.cl.die x.team.ctx x.tlb va k f

/-! ### What a load returns -/

/-- What becomes of one load of one fibre: its bytes as a number, a fault record, a page to ask for, a wait, or a wait for an earlier load of its fibre
(R126, R135). -/
inductive Got where
  | value (v : Nat)
  | fault (c : Byte)
  | page (va : Nat)
  | hold
  | order
  deriving DecidableEq, Repr

/-- The access form of a load (Table 11.2). -/
def loadForm (vol acq : Bool) : AccForm := if vol then .vol else if acq then .ordered else .plain

/-- How a load waits for an earlier access: one behind a load of its fibre leaves a baton, and its heat goes on issuing (R66, R232). -/
def State.loadHolds (s : State) (x : Site) (fib : Nat) (h : Hit) (vol : Bool) : Got := if s.loadsWait x fib h vol then .order else .hold

/-- A plain, volatile or acquiring load of n bytes (R232). -/
def State.loadGot (s : State) (x : Site) (fib ea n rc : Nat) (vol acq : Bool) : Got × State :=
  match x.check fib ea n n with
  | .error c => (.fault c, s)
  | .ok (.virt va) =>
    match s.reachX x va .load (loadForm vol acq) with
    | .error (.translation v) => (.page v, s)
    | .error (.early c) => (.fault c, s)
    | .error (.late c) => (.fault c, s)
    | .error .hold => (.hold, s)
    | .ok h =>
      if s.orderWaits x fib h vol then (s.loadHolds x fib h vol, s)
      else if s.loadPoison x h (h.phys va) n vol then (.fault cause.poison, s)
      else
        let (bs, s) := s.loadPage x h va n rc vol
        (.value (leNat bs), s)
  | .ok l => (.value (leNat (x.readLocal n l)), s)

/-- The format entry of a quantised page (R81); none is FORMAT_INVALID. -/
def State.convEntry (s : State) (ctx : Nat) (h : Hit) : Option Entry :=
  if h.fmt = 0 ∨ h.size ≠ 65536 then none
  else s.pageEntry ctx h

/-- A converting access of a page by a unit: its translation and format. -/
def State.convPage (s : State) (x : Site) (va : Nat) (k : AccKind) (f : AccForm) : Except Bad (Hit × Entry) :=
  match s.reachX x va k f with
  | .error b => .error b
  | .ok h =>
    match s.convEntry x.team.ctx h with
    | none => .error (.early cause.formatInvalid)
    | some fe => .ok (h, fe)

/-- The leased copies of a chunk's lines on a unit's path are not used by a converting read, and go (R92). -/
def State.freshen (s : State) (x : Site) (pa n : Nat) : State :=
  s.dropCopies fun c => decide (c.cls = .phase ∧ c.level ∈ x.levels ∧ 64 * c.line < pa + n ∧ pa < 64 * c.line + 64)

/-- Bring the lines of a chunk to a unit, for their copies and read counts. -/
def State.bringAll (s : State) (x : Site) (h : Hit) (rc : Nat) (lines : List Nat) : State := lines.foldl (fun s l => (s.bring x h l rc).2) s

/-- A part of at most 8 bytes of a page as an agent that acts for a unit observes it, beside the unit's caches but for its PRIV lines (R117, R145): no line
is brought nearer. Of a STREAM part it reads the new contents when the unit does, or when it has read them itself (R120, R124). -/
def State.lookPart (s : State) (x : Site) (g : Agent) (h : Hit) (pa n : Nat) : List Byte × State :=
  let home (s : State) : List Byte × State := if (s.notifyVf pa).isSome then s.seqRead pa n else (s.useHome h (pa / 64)).homeRead pa n
  match h.cls with
  | .seq => home s
  | .phase =>
    let (bs, s) := home s
    (s.phaseBytes x pa bs, s)
  | .stream =>
    match s.oldPart? (.unit x.u) pa with
    | some old =>
      if g ∈ old.seen then home s
      else if s.choice = 0 then home (s.chosen.seeParts g pa n)
      else ((old.bytes.drop (pa % 8)).take n, s.chosen)
    | none => home s
  | .priv =>
    match s.copyFor x .priv (pa / 64) with
    | some c => (c.slice pa n, s)
    | none => home s

/-- Bytes of one page in parts of at most 8 bytes, k parts. -/
def State.lookParts (s : State) (x : Site) (g : Agent) (h : Hit) (pa n : Nat) : Nat → List Byte × State
  | 0 => ([], s)
  | k + 1 =>
    let m := min n (8 - pa % 8)
    let (a, s) := s.lookPart x g h pa m
    let (b, s) := s.lookParts x g h (pa + m) (n - m) k
    (a ++ b, s)

/-- Bytes of one page (R124). -/
def State.look (s : State) (x : Site) (g : Agent) (h : Hit) (pa n : Nat) : List Byte × State := s.lookParts x g h pa n (n / 8 + 2)

/-- The old contents of STREAM parts over the bytes of a range. -/
def overOld (parts : List OldPart) (pa n : Nat) (bs : List Byte) : List Byte :=
  parts.foldl (fun c o => o.bytes.zipIdx.foldl (fun c b => if pa ≤ o.pa + b.2 ∧ o.pa + b.2 < pa + n then c.set (o.pa + b.2 - pa) b.1 else c) c) bs

/-- The dirty bytes of a unit's own path over the bytes of a range of a PRIV page, the nearest last. -/
def State.dirtyOver (s : State) (x : Site) (pa n : Nat) (bs : List Byte) : List Byte :=
  x.levels.reverse.foldl (fun bs lv => (s.lines.filter fun c => decide (c.level = lv ∧ c.cls = .priv)).foldl (fun bs c =>
    c.dirtyBytes.foldl (fun bs b => if pa ≤ b.1 ∧ b.1 < pa + n then bs.set (b.1 - pa) b.2 else bs) bs) bs) bs

/-- Which old contents of a STREAM chunk an agent that acts for a unit reads, as the oracle chooses (R131): of each part that still has them on its own, but
of the parts that one converting write replaced either all or none (R92). The others it reads new, and does so from now on (R124). -/
def State.oldChoice (s : State) (g : Agent) (whole : List (Option Nat × Nat)) : List OldPart → List OldPart × State
  | [] => ([], s)
  | o :: r =>
    let key := o.whole
    match (if key.isSome then whole.find? fun p => p.1 = key else none) with
    | some (_, k) =>
      let (os, s) := (if k = 0 then s.seeParts g o.pa 1 else s).oldChoice g whole r
      (if k = 0 then os else o :: os, s)
    | none =>
      let k := s.choice
      let (os, s) := (if k = 0 then s.chosen.seeParts g o.pa 1 else s.chosen).oldChoice g ((key, k) :: whole) r
      (if k = 0 then os else o :: os, s)

/-- The bytes of a chunk as an agent's converting read for a unit observes them: every converting write whole or not at all (R92). Of a PRIV chunk it reads
its own path's dirty bytes over the home's, whose lines converting writes reach together. -/
def State.chunkBytes (s : State) (x : Site) (g : Agent) (h : Hit) (pa n : Nat) : List Byte × State :=
  match h.cls with
  | .phase =>
    let (bs, s) := s.homeRead pa n
    (s.chunkSeen x pa bs, s)
  | .stream =>
    let open_ (o : OldPart) : Bool := o.meets pa n && !decide (.unit x.u ∈ o.seen ∨ g ∈ o.seen)
    let news := ((s.oldParts.filter fun o => o.meets pa n && !open_ o).filterMap OldPart.whole).map fun w => (some w, 0)
    let (bs, s) := s.homeRead pa n
    let (olds, s) := s.oldChoice g news (s.oldParts.filter open_)
    (overOld olds pa n bs, s)
  | .seq => s.look x g h pa n
  | .priv =>
    let (bs, s) := s.homeRead pa n
    (s.dirtyOver x pa n bs, s)

/-- The 4 KiB pages that a range of a page touches, each by an address of its own. -/
def piecesOf (va n : Nat) : List Nat := (List.range ((va + n - 1) / 4096 + 1 - va / 4096)).map fun k => max va (4096 * (va / 4096 + k))

/-- What an access of a range of one page meets, at each 4 KiB of it (R142, R143): the first fault, or the page. -/
def State.reachAll (go : Nat → Except Bad Hit) (va n : Nat) : Except Bad Hit :=
  match (piecesOf va n).findSome? fun v => (match go v with | .error b => some b | .ok _ => none) with
  | some b => .error b
  | none => go va

/-- The path of every line of a range: in the striped range they have different homes (R113, R400). -/
def State.wholePath (s : State) (die va n : Nat) (r : Except Bad Hit) : Except Bad Hit :=
  if s.dies.any Die.down then
    match r with
    | .error b => .error b
    | .ok h =>
      match (linesOf va n).findSome? fun l => s.pathFault die (h.phys (max va (64 * l))) with
      | some c => .error (.late c)
      | none => .ok h
  else r

/-- Access to a range of a page by the unit. -/
def State.reachRange (s : State) (x : Site) (va n : Nat) (k : AccKind) (f : AccForm) : Except Bad Hit :=
  s.wholePath x.team.cl.die va n (State.reachAll (fun v => s.reachX x v k f) va n)

/-- The bytes of a chunk of a quantised page, after the checks of a converting read (R92, R93). -/
def State.readChunk (s : State) (x : Site) (g : Agent) (h : Hit) (f : Entry) (c : Nat) : Except Byte (List Byte) × State :=
  let pa := h.phys (h.base + c * f.chunkBytes)
  if s.loadPoison x h pa f.chunkBytes false then (.error cause.poison, s)
  else
    let (bs, s) := s.chunkBytes x g h pa f.chunkBytes
    if f.rindOk h.fmt bs then (.ok bs, s) else (.error cause.rindMismatch, s)

/-- The f32 of an element of a chunk (R233). -/
def chunkElem (f : Entry) (chunk : List Byte) (i : Nat) : Nat :=
  FFmt.f32.round 0 0 (f.value (elemAt f.w chunk i) (scaleAt chunk (i / f.block)))

/-- The format entry of the page at an address, for a type-q access (R81, R115): the page itself is not accessed. -/
def State.formatAt (s : State) (ctx : Nat) (tlb : TlbId) (va : Nat) : Except Bad (Hit × Entry) :=
  match s.translate ctx tlb va with
  | none => .error (.translation va)
  | some h =>
    match s.convEntry ctx h with
    | none => .error (.early cause.formatInvalid)
    | some f => .ok (h, f)

/-- The bytes of an address's space that lie from the address on: all of a private space lies below PS (R100). -/
def Site.within (x : Site) (a ofs : Nat) : Bool :=
  match windowOf a with
  | some .priv => decide (bitsOf a 0 48 + ofs ≤ (if x.isPacer then 0 else x.team.ps))
  | _ => true

/-- The chunk of element `index` of a type-q access at a private or global address lies beyond the address's space (check 3 of R99). -/
def Site.qBeyond (x : Site) (f : Entry) (ea va index : Nat) : Bool :=
  let per := f.chunks * f.elems
  decide (2 ^ 56 ≤ va + 65536 * (index / per)) || !x.within ea (65536 * (index / per) + index % per / f.elems * f.chunkBytes + f.chunkBytes)

/-- The same where the page's format is at hand as the instruction issues. -/
def State.qOutside (s : State) (x : Site) (fib ea index : Nat) : Bool :=
  match x.check fib ea 1 65536 with
  | .ok (.virt va) =>
    match s.formatAt x.team.ctx x.tlb va with
    | .ok (_, f) => x.qBeyond f ea va index
    | .error _ => false
  | _ => false

/-- The converting load of one element (R233): every byte of its chunk lies in the address's space, and a private address leads to the start of a page
(log entry 63). An address check that waits for the page's format until the load is reissued leaves a fault record (log entry 63). -/
def State.loadQ (s : State) (x : Site) (fib ea index rc : Nat) (acq : Bool) : Got × State :=
  match x.check fib ea 1 65536 with
  | .error c => (.fault c, s)
  | .ok (.virt va) =>
    let form := if acq then AccForm.ordered else AccForm.plain
    if va % 65536 ≠ 0 then (.fault cause.misaligned, s)
    else
    match s.formatAt x.team.ctx x.tlb va with
    | .error (.translation v) => (.page v, s)
    | .error (.early c) => (.fault c, s)
    | .error (.late c) => (.fault c, s)
    | .error .hold => (.hold, s)
    | .ok (h, f) =>
      let per := f.chunks * f.elems
      let pg := va + 65536 * (index / per)
      let i := index % per
      let ofs := i / f.elems * f.chunkBytes
      if x.qBeyond f ea va index then (.fault cause.spaceWindow, s)
      else
        match (s.translate x.team.ctx x.tlb pg).map fun g => decide (g.fmt ≠ h.fmt ∨ g.size ≠ 65536) with
        | some true => (.fault cause.formatInvalid, s)
        | _ =>
          match s.reachRange x (pg + ofs) f.chunkBytes .load form with
          | .error (.translation v) => (.page v, s)
          | .error (.early c) => (.fault c, s)
          | .error (.late c) => (.fault c, s)
          | .error .hold => (.hold, s)
          | .ok g =>
            if s.orderWaits x fib g false then (s.loadHolds x fib g false, s)
            else
              match s.readChunk x (.unit x.u) g f (i / f.elems) with
              | (.error c, s) => (.fault c, s)
              | (.ok bs, s) =>
                let pa := g.phys (pg + ofs)
                (.value (chunkElem f bs (i % f.elems)), (s.freshen x pa f.chunkBytes).bringAll x g rc (linesOf pa f.chunkBytes))
  | .ok _ => (.fault cause.formatInvalid, s)

/-- Registers of a load's destination. -/
def destRegs (ty : Ty) : Nat := if ty = .q then 1 else ty.regs

/-- The words of a loaded value (R232). -/
def loadWords (ty : Ty) (v : Nat) : List Word :=
  let v := if ty = .q then v else extendOf ty v
  (List.range (destRegs ty)).map fun k => wd (v / 2 ^ (32 * k))

/-- Perform one element of a load, as it is issued or as it is replayed. -/
def State.performLoad (s : State) (x : Site) (f : Flight) (fib ea index : Nat) : Got × State :=
  if f.ty = .q then s.loadQ x fib ea index f.rc f.acq
  else s.loadGot x fib ea (memBytes f.ty) f.rc f.vol f.acq

/-! ### Destinations in flight (R66, R67) -/

/-- The wrap-distance condition of R110. -/
def holds (w t : Word) : Bool := decide ((w - t).toNat < 2 ^ 31)

/-- Tags in use on the unit's track (R67). -/
def State.tagsUsed (s : State) (x : Site) : List Nat :=
  s.teams.flatMap fun t =>
    if t.cl = x.team.cl ∧ t.st = .resident then
      (t.heats.filter fun h => h.track = x.heat.track && (some (t.cores.getD h.squad 0) == x.core?)).flatMap fun h =>
        h.flights.map fun f => f.tag.toNat
    else []

/-- The lowest free tag of the unit's track. -/
def State.freeTag (s : State) (x : Site) : Option (BitVec 6) :=
  ((List.range 64).find? fun k => k ∉ s.tagsUsed x).map (BitVec.ofNat 6)

/-- Put words into registers. -/
def Site.putWords (x : Site) (i r : Nat) : List Word → Site
  | [] => x
  | w :: ws => (x.setSlot i r (.val w)).putWords i (r + 1) ws

/-- Put a record into n registers, one part each. -/
def Site.putRecord (x : Site) (i r : Nat) (tag : BitVec 6) (st : RecState) : Nat → Nat → Site
  | _, 0 => x
  | k, n + 1 => (x.setSlot i r (.bat { tag := tag, part := k, a := 1, b := 0, chain := [], st := st })).putRecord i (r + 1) tag st (k + 1) n

/-- One fibre's load: the fibre, its destination, address and index, and for .cpy the channel and target. -/
structure Want where
  fib    : Nat
  reg    : Nat
  ea     : Nat
  index  : Nat
  target : Option (Nat × Word)
  deriving DecidableEq, Repr

/-- The state of a copy channel of the unit's cluster. -/
def State.chan? (s : State) (cl : ClusterRef) (c : Nat) : Option Chan := (s.cluster? cl).bind fun k => k.chans[c]?

/-- A .cpy load may be performed (R232): the channel's condition holds; an error state ends it; else it waits. -/
inductive Ready where
  | yes | no | failed
  deriving DecidableEq, Repr

/-- Whether a load's target is reached. -/
def State.ready (s : State) (cl : ClusterRef) : Option (Nat × Word) → Ready
  | none => .yes
  | some (c, t) =>
    match s.chan? cl c with
    | some ch => if holds ch.w t then .yes else if ch.err then .failed else .no
    | none => .failed

/-- A load whose channel has reached its target observes what the channel has written (R110, R232). -/
def State.seeTarget (s : State) (x : Site) : Option (Nat × Word) → State
  | none => s
  | some (c, _) => s.seePointer x.u x.team.cl c

/-- The outcome of each fibre's load, in order; none stands for a load that waits for its channel. -/
def State.loadEach (s : State) (x : Site) (f : Flight) : List Want → List (Want × Option Got) × State
  | [] => ([], s)
  | w :: ws =>
    let (g, s) := match s.ready x.team.cl w.target with
      | .yes =>
        let (g, s) := (s.seeTarget x w.target).performLoad x f w.fib w.ea w.index
        (some g, s)
      | .no => (none, s)
      | .failed => (some (.fault cause.protection), s)
    let (r, s) := s.loadEach x f ws
    ((w, g) :: r, s)

/-- The flight element of a load, when it is not delivered at issue. -/
def flightElem (x : Site) (later : Bool) (ty : Ty) (w : Want) (g : Option Got) : Option FlightElem :=
  let el (wt : Waits) (d : Deliv) : FlightElem :=
    { fibre := w.fib, reg := x.slotNo w.fib w.reg, ea := dw w.ea, index := wd w.index, cpy := w.target, waits := wt, deliv := d }
  match g with
  | none => w.target.map fun p => el (.channel p.1 p.2) (.words [])
  | some (.value v) => if later then some (el .arrival (.words (loadWords ty v))) else none
  | some (.fault c) => if later then some (el .arrival (.fault c (dw w.ea))) else none
  | some (.page _) => some (el .translate (.words []))
  | some .order => some (el .order (.words []))
  | some .hold => none

/-- Deliver one outcome at issue, or leave a baton. -/
def Site.takeLoad (x : Site) (f : Flight) (later : Bool) (y : Site) (p : Want × Option Got) : Site :=
  let n := destRegs f.ty
  match flightElem x later f.ty p.1 p.2 with
  | some _ =>
    let y := y.putRecord p.1.fib p.1.reg f.tag .pending 0 n
    match p.2 with
    | some (.page va) => y.wantPageFor (.load x.u.who f.tag p.1.fib) va
    | _ => y
  | none =>
    match p.2 with
    | some (.value v) => y.putWords p.1.fib p.1.reg (loadWords f.ty v)
    | some (.fault c) => y.putRecord p.1.fib p.1.reg f.tag (.fault c f.pc (dw p.1.ea) f.ord) 0 n
    | _ => y

/-- The range of virtual addresses that a load of one fibre reads: for a converting load its chunk. -/
def State.loadRange (s : State) (x : Site) (ty : Ty) (fib ea index : Nat) : Option (Nat × Nat) :=
  match x.check fib ea 1 1 with
  | .ok (.virt va) =>
    if ty = .q then
      match s.formatAt x.team.ctx x.tlb va with
      | .ok (_, f) => some (va + 65536 * (index / (f.chunks * f.elems)) + index % (f.chunks * f.elems) / f.elems * f.chunkBytes, f.chunkBytes)
      | .error _ => none
    else some (va, memBytes ty)
  | _ => none

/-- The lines that loads of an instruction read through copies, for their read counts (R111): a converting read hits no leased copy (R92). -/
def State.hitLines (s : State) (x : Site) (f : Flight) (ws : List (Nat × Nat × Nat)) : List (PageClass × Nat) :=
  if f.vol then []
  else
    ws.flatMap fun (fib, ea, index) =>
      match s.loadRange x f.ty fib ea index with
      | none => []
      | some (va, n) =>
        match s.reachX x va .load .plain with
        | .ok h => if f.ty = .q ∧ h.cls = .phase then [] else (linesOf (h.phys va) n).map fun l => (h.cls, l)
        | .error _ => []

/-- What a trap of an access to a virtual address reports (R354). -/
def State.pathInfoAt (s : State) (x : Site) (va : Nat) (c : Byte) (info : DWord) : DWord :=
  match s.translate x.team.ctx x.tlb va with
  | some h => s.pathInfo x.team.cl.die (h.phys va) c info
  | none => info

/-- What a trap of an access at a generic address of a fibre reports (R354). -/
def State.accessInfo (s : State) (x : Site) (fib ea : Nat) (c : Byte) : DWord :=
  match x.check fib ea 1 1 with
  | .ok (.virt va) => s.pathInfoAt x va c (dw ea)
  | _ => dw ea

/-- A load of the pacer waits for its value, and holds no record (R63, R230): a fault that would resolve one is taken as a precise trap at the
load (log entry 64). -/
def Site.loadFault (x : Site) (got : List (Want × Option Got)) : Option (Want × Byte) :=
  if x.isPacer then got.findSome? fun p => (match p.2 with | some (.fault c) => some (p.1, c) | _ => none) else none

/-- Issue a load; an acquire whose form is illegal everywhere has no effect (R134). `s0` is the state before the issue, `f` the flight it makes when
some value is not delivered at once (R66); `rest` finishes the destinations that make no access. -/
def State.issueLoad (s0 s : State) (x : Site) (f : Flight) (ws : List Want) (sc : Scope) (rest : Site → Site) : Out :=
  let later : Bool := !x.isPacer && s.choice ≠ 0
  let (got, s1) := s.chosen.loadEach x f ws
  if got.any fun p => p.2 = some .hold then s0.stall
  else if (x.isPacer && got.any fun p => p.2.isNone) || ((x.isPacer || f.acq) && got.any fun p => p.2 = some .order) then s0.stall
  else
    match (if x.isPacer then got.findSome? fun p => (match p.2 with | some (.page va) => some (p.1, va) | _ => none) else none) with
    | some (w, va) => s.pageFault x [w.fib] w.fib va (dw w.ea)
    | none =>
    match x.loadFault got with
    | some (w, c) => s.trap x [w.fib] c w.fib (s.accessInfo x w.fib w.ea c)
    | none =>
      let elems := got.filterMap fun p => flightElem x later f.ty p.1 p.2
      let hits := s.hitLines x f ((got.filter fun p => p.2.isSome ∧ p.2 ≠ some .order).map fun p => (p.1.fib, p.1.ea, p.1.index))
      let s2 := State.countHits s x hits s1
      match (if elems = [] then some 0 else s.freeTag x) with
      | none => s0.stall
      | some tag =>
        let f := { f with tag := tag, elems := elems, hits := (hits.map Prod.snd).dedup }
        let y := got.foldl (x.takeLoad f later) x
        let y := if elems = [] then y else { y with heat := { y.heat with flights := y.heat.flights ++ [f] } }
        let legal := got.any fun p => p.2 ≠ some (.fault cause.classIllegal)
        let (s3, y) := if f.acq ∧ legal then s2.acquireAt (rest y) sc else (s2, rest y)
        .next (s3.done y)

/-! ### LD and LDX (R231 to R234) -/

/-- Modifier of LD and ST (Table 16.2). -/
def ordOf (e : Ext) : Nat := bitsOf e.mod.toNat 0 2

/-- The flight that an LD makes. -/
def ldFlight (e : Ext) (s : State) (x : Site) : Flight :=
  { tag := 0, ord := x.heat.issued, kind := .load, pc := s.cur.pc, ty := e.ty, rs := e.rs, acq := ordOf e = 1, vol := ordOf e = 2,
    rc := e.m1.toNat, elems := [] }

/-- The physical copy channel that P names, when its entry is valid (R118). -/
def State.chanOf (s : State) (cl : ClusterRef) (p : BitVec 8) : Option Nat :=
  (s.cluster? cl).bind fun k => (k.chanPl[p.toNat]?).join

/-- The channel of a .cpy load that the team owns (R232). -/
def State.ownChan (s : State) (x : Site) (p : BitVec 8) : Option Nat :=
  (s.chanOf x.team.cl p).bind fun c =>
    if ((s.chan? x.team.cl c).bind Chan.owner) = some x.team.id then some c else none

/-- LD of type q (R233). -/
def ldQ (e : Ext) (s : State) : Out :=
  issue e.guard (demand ([useD e 1, readA e 2] ++ readB e 1)) s fun s1 x is =>
    let a (i : Nat) : Nat := x.val i e.a.toNat 2
    let space (i : Nat) : Bool := windowOf (a i) = some .scratch ∨ windowOf (a i) = some .shared
    match is.find? fun i => space i || (x.badAddress 1 65536 [(i, a i)]).isSome with
    | some i =>
      if space i then s1.trap x is cause.formatInvalid i (dw (a i))
      else
        match x.badAddress 1 65536 [(i, a i)] with
        | some (_, v, c) => s1.trap x is c i (dw v)
        | none => .next s
    | none =>
      match is.find? fun i => s1.qOutside x i (a i) (x.val i e.b.toNat 1) with
      | some i => s1.trap x is cause.spaceWindow i (dw (a i))
      | none =>
        let ws := is.map fun i => { fib := i, reg := e.d.toNat, ea := a i, index := x.val i e.b.toNat 1, target := none : Want }
        State.issueLoad s s1 x (ldFlight e s1 x) ws (scopeOf e.rs) id

/-- LD of a plain type (R232). -/
def ldPlain (e : Ext) (s : State) : Out :=
  let us := useD e e.ty.regs :: usesEa e ++ if ordOf e = 3 then [readC e 1] else []
  issue e.guard (demand us) s fun s1 x is =>
    match x.badAddress (memBytes e.ty) (memBytes e.ty) (is.map fun i => (i, x.ea i e)) with
    | some (i, a, c) => s1.trap x is c i (dw a)
    | none =>
      let chan := s1.ownChan x e.p
      if ordOf e = 3 ∧ chan = none then s1.trap x is cause.protection (is.headD 0) (dw (x.ea (is.headD 0) e))
      else
        let tgt (i : Nat) : Option (Nat × Word) := if ordOf e = 3 then chan.map fun c => (c, x.word i e.c.toNat) else none
        let ws := is.map fun i => { fib := i, reg := e.d.toNat, ea := x.ea i e, index := 0, target := tgt i : Want }
        State.issueLoad s s1 x (ldFlight e s1 x) ws (scopeOf e.rs) id

/-- LD (R232, R233). -/
def opLd (e : Ext) (s : State) : Out := if e.ty = .q then ldQ e s else ldPlain e s

/-- The address of an indexed element (R234). -/
def Site.eaX (x : Site) (i : Nat) (e : Ext) : Nat :=
  (x.val i e.a.toNat 2 + x.val i e.b.toNat 1 * 2 ^ (bitsOf e.imm.toNat 0 3)) % 2 ^ 64

/-- The element lies within the bound, where there is one. -/
def Site.inBound (x : Site) (e : Ext) (i : Nat) : Bool :=
  e.mod.getLsbD 0 = false || decide (x.val i e.b.toNat 1 < x.val i e.c.toNat 1)

/-- Fields of LDX and STX. -/
def usesIdx (e : Ext) : List Use :=
  [readA e 2, { reg := e.b.toNat, n := 1, rd := true }] ++ if e.mod.getLsbD 0 then [readC e 1] else []

/-- LDX (R234). -/
def opLdx (e : Ext) (s : State) : Out :=
  issue e.guard (demand (useD e e.ty.regs :: usesIdx e)) s fun s1 x is =>
    let ins := is.filter (x.inBound e)
    match x.badAddress (memBytes e.ty) (memBytes e.ty) (ins.map fun i => (i, x.eaX i e)) with
    | some (i, a, c) => s1.trap x is c i (dw a)
    | none =>
      let f : Flight := { tag := 0, ord := x.heat.issued, kind := .ldx, pc := s1.cur.pc, ty := e.ty, rs := 0, acq := false, vol := false,
                          rc := e.m1.toNat, elems := [] }
      let ws := ins.map fun i => { fib := i, reg := e.d.toNat, ea := x.eaX i e, index := 0, target := none : Want }
      State.issueLoad s s1 x f ws .ht fun y => (is.filter fun i => !x.inBound e i).foldl (fun y i => y.setVal i e.d.toNat e.ty.regs 0) y

/-! ### Stores (R226, R231, R232, R234) -/

/-- One fibre's store: address and bytes. -/
structure Put where
  fib   : Nat
  ea    : Nat
  bytes : List Byte
  deriving DecidableEq, Repr

/-- What a write meets after the address checks, before anything is performed (Table 16.1): fine, a translation, a precise
fault, a deferred one with the address that it reports, a wait, or copies outside the package that must go first (R359, R366). -/
inductive Meets where
  | fine
  | page (va : Nat)
  | precise (c : Byte)
  | deferred (c : Byte) (info : DWord)
  | hold
  | ask (cls : PageClass) (line : Nat)
  deriving DecidableEq, Repr

/-- What a write at the home of a range waits for outside the package. -/
def State.askFor (s : State) (cls : PageClass) (pa n : Nat) : Meets :=
  match (linesOf pa n).find? fun l => s.clear none cls [l] = false with
  | some l => .ask cls l
  | none => .fine

/-- What a write to a location meets; `before` are the granule bits as the instruction finds them (R130). A plain SEQ store is posted where it must wait,
and a plain PHASE store waits for its release. -/
def State.meetsOf (s : State) (x : Site) (form : AccForm) (before : List Nat) (fib ea n : Nat) : Meets :=
  match x.check fib ea n 1 with
  | .error c => .precise c
  | .ok (.virt va) =>
    let vol := decide (form = .vol)
    match s.reachX x va .store form with
    | .error (.translation v) => .page v
    | .error (.early c) => .precise c
    | .error (.late c) => .deferred c (s.pathInfoAt x va c (dw ea))
    | .error .hold => .hold
    | .ok h =>
      if s.loadsWait x fib h vol ∨ (vol ∧ h.cls = .phase ∧ s.posted.any fun p => p.by_ = some x.u) then .hold
      else
        match s.storeFault h (h.phys va) n before (s.storeAway x h (h.phys va) (decide (form = .vol))) with
        | some c => .deferred c (dw (if c = cause.writeOnce then ea - ea % 64 else ea))
        | none =>
          match h.cls, form with
          | .stream, _ => s.askFor .stream (h.phys va) n
          | .phase, .plain => .fine
          | .phase, .near => .fine
          | .phase, _ => s.askFor .phase (h.phys va) n
          | _, _ => .fine
  | .ok _ => .fine

/-- Bytes of a store that a quantised page takes: those that plain stores do not discard (R88), each with its offset. -/
def liveBytes (f : Entry) (ofs : Nat) : List Byte → List (Nat × Byte)
  | [] => []
  | b :: bs => (if f.dead ofs then [] else [(ofs, b)]) ++ liveBytes f (ofs + 1) bs

/-- Perform one plain store. -/
def State.performStore (s : State) (x : Site) (p : Put) (home : Bool) (form : AccForm) : State × Site :=
  match x.check p.fib p.ea p.bytes.length 1 with
  | .error _ => (s, x)
  | .ok (.virt va) =>
    match s.reachX x va .store form with
    | .error _ => (s, x)
    | .ok h =>
      match s.pageEntry x.team.ctx h with
      | none => s.storePage x h (h.phys va) p.bytes home
      | some f =>
        let live := liveBytes f (va - h.base) p.bytes
        if live.length = p.bytes.length then s.storePage x h (h.phys va) p.bytes home
        else live.foldl (fun (s, x) (o, b) => s.storePage x h (h.phys (h.base + o)) [b] home) (s, x)
  | .ok l => (s, x.writeLocal p.bytes l)

/-- A deferred trap that the issuing instruction raises for one fibre (R226, R351). -/
def Site.deferOwn (x : Site) (s : State) (c : Byte) (fib : Nat) (info : DWord) : Site :=
  { x with team := x.team.defer { cause := c, inner := 0, pc := s.cur.pc, info := info, src := some x.u.who, fibre := fib } }

/-- Copies outside must go first. -/
def Meets.asks : Meets → Bool
  | .ask _ _ => true
  | _ => false

/-- Ask those outside for what a write meets. -/
def State.askMeet (s : State) : Meets → State
  | .ask cls line => s.askOutside none cls [line]
  | _ => s

/-- The order in which Table 16.1 takes what several fibres meet: a wait, a page, a precise fault, else the performance of
what is fine. -/
def State.sortMeets (s0 s : State) (x : Site) (is : List Nat) (ms : List (Nat × Nat × Meets)) (go : Unit → Out) : Out :=
  if ms.any fun m => m.2.2 = .hold then s0.stall
  else if ms.any fun m => m.2.2.asks then (ms.foldl (fun s m => s.askMeet m.2.2) s0).stall
  else
    let pages := ms.filterMap fun m => match m.2.2 with
      | .page va => if x.failedPage s.cur.pc va then none else some va
      | _ => none
    if pages ≠ [] then .next (s.put (pages.foldl (fun x va => x.wantPage s.cur.pc va) x))
    else
      match ms.findSome? fun m => (match m.2.2 with
          | .page va => some (m.1, m.2.1, cause.pageRequestFailed, some va)
          | .precise c => some (m.1, m.2.1, c, none)
          | _ => none) with
      | some (i, a, c, v) => s.trap (match v with | some va => x.forgetPage s.cur.pc va | none => x) is c i (dw a)
      | none => go ()

/-- A release before the access that carries it (R139): it waits until nothing is unacknowledged, no peer's contributions to what it publishes are on their
way (R362) and nobody outside holds it (R366), publishes, and waits again for what it published. -/
def State.releaseThen (s0 s : State) (x : Site) (sc : Scope) (go : State → Site → Out) : Out :=
  match s0.here with
  | none => .next s0
  | some x0 =>
    let lines := s0.publishedLines x0 sc
    if x0.heat.unacked ≠ 0 ∨ lines.any (fun l => s0.awaitsU (64 * l)) then s0.wait x0 false
    else if s0.clear none .phase lines = false then (s0.askOutside none .phase lines).wait x0 false
    else
      let (s1, x1) := s0.releaseAt x0 sc
      if x1.heat.unacked ≠ 0 then s1.wait x1 false
      else
        let (s2, x2) := s.releaseAt x sc
        go s2 x2

/-- A write that would raise the unacknowledged-write counter above 65,535 waits (R139). -/
def Site.fullCount (x : Site) (n : Nat) : Bool := decide (65535 < x.heat.unacked + n)

/-- Issue a store of several fibres (R225, R226). -/
def State.issueStore (s0 s : State) (x : Site) (is : List Nat) (form : AccForm) (rel : Option Scope) (vol : Bool) (ps : List Put) : Out :=
  let before := s.granules
  let ms := ps.map fun p => (p.fib, p.ea, s.meetsOf x form before p.fib p.ea p.bytes.length)
  if x.fullCount ps.length then s0.stall
  else
    s0.sortMeets s x is ms fun _ =>
      let perform (s : State) (x : Site) : State × Site :=
        ps.foldl (fun (s, x) p =>
          match s.meetsOf x form before p.fib p.ea p.bytes.length with
          | .fine => s.performStore x p vol form
          | .deferred c info => (s, x.deferOwn s c p.fib info)
          | _ => (s, x)) (s, x)
      match rel with
      | none =>
        let (s, x) := perform s x
        .next (s.done x)
      | some sc => s0.releaseThen s x sc fun s x =>
        let (s, x) := perform s x
        let (s, x) := s.releaseAt x sc
        .next (s.done x)

/-- The data of a store (R232). -/
def Site.storeData (x : Site) (i : Nat) (e : Ext) : List Byte := leBytes (x.val i e.d.toNat e.ty.regs) (memBytes e.ty)

/-- ST (R232). -/
def opSt (e : Ext) (s : State) : Out :=
  issue e.guard (demand (readD e e.ty.regs :: usesEa e)) s fun s1 x is =>
    match x.badAddress (memBytes e.ty) (memBytes e.ty) (is.map fun i => (i, x.ea i e)) with
    | some (i, a, c) => s1.trap x is c i (dw a)
    | none =>
      let ps := is.map fun i => { fib := i, ea := x.ea i e, bytes := x.storeData i e : Put }
      let form : AccForm := match ordOf e with | 1 => .ordered | 2 => .vol | _ => .plain
      s.issueStore s1 x is form (if ordOf e = 1 then some (scopeOf e.rs) else none) (ordOf e = 2) ps

/-- STX (R234). -/
def opStx (e : Ext) (s : State) : Out :=
  issue e.guard (demand (readD e e.ty.regs :: usesIdx e)) s fun s1 x is =>
    let ins := is.filter (x.inBound e)
    match x.badAddress (memBytes e.ty) (memBytes e.ty) (ins.map fun i => (i, x.eaX i e)) with
    | some (i, a, c) => s1.trap x is c i (dw a)
    | none =>
      s.issueStore s1 x is .plain none false (ins.map fun i => { fib := i, ea := x.eaX i e, bytes := x.storeData i e : Put })

/-! ### PREF, FLUSH and PGARM (R235 to R237) -/

/-- Hold a line at a level whatever the nearer and farther levels hold, as the home or a PRIV copy of the path has it; a PHASE line takes a fresh lease. -/
def State.holdLine (s : State) (x : Site) (h : Hit) (line : Nat) (lv : Level) : State :=
  if s.mayHold h line lv = false then s
  else
    let (bs, s) := match (if h.cls = .priv then s.copyFor x .priv line else none) with
      | some c => (c.bytes, s)
      | none => s.homeRead (64 * line) 64
    s.hold h { level := lv, line := line, cls := h.cls, bytes := bs, dirty := List.replicate 64 false, lease := s.newLease lv, rc := 0, owner := h.owner,
               policy := h.policy, way := 0, used := 0 }

/-- The level that M1 names (R235): L0, the cluster cache, or the L2; the pacer has no L0, and a STREAM line is brought into the cluster cache. -/
def Site.prefLevel (x : Site) (cls : PageClass) (m1 : Nat) : Level :=
  match m1, x.core? with
  | 0, some c => if cls = .stream then .clus x.team.cl else .l0 x.team.cl c
  | 0, none => .clus x.team.cl
  | 1, _ => .clus x.team.cl
  | _, _ => .l2 x.team.cl.die

/-- Prefetch one line (R235); nothing for an address that fails a check. A line that the level holds in full force stays as it is. -/
def State.prefetch (s : State) (x : Site) (fib ea m1 : Nat) : State :=
  match x.check fib ea 1 1 with
  | .ok (.virt va) =>
    match s.reachX x va .load .plain with
    | .error _ => s
    | .ok h =>
      let line := h.phys va / 64
      let lv := x.prefLevel h.cls m1
      let there := s.lines.any fun c => decide (c.level = lv ∧ c.line = line ∧ c.cls = h.cls ∧ h.cls ≠ .phase)
      if (s.notifyVf (64 * line)).isSome ∨ s.poisoned (64 * line) 64 then s
      else
        match lv with
        | .l2 _ => if (s.homeOf (64 * line)).isSome then s.useHome h line else if there then s else s.holdLine x h line lv
        | _ => if h.policy = 3 then s.useHome h line else if there then s else s.holdLine x h line lv
  | _ => s

/-- The records that PREF waits for: a fault record raises nothing (R235). -/
def prefRecords (d : Demand) (x : Site) (is : List Nat) : List (Nat × List Baton) :=
  (d.records x is).map fun p => (p.1, p.2.filter fun b => b.st = .pending)

/-- PREF (R235): a fibre whose address is a fault record is ignored. -/
def opPref (e : Ext) (s : State) : Out :=
  let d := demand (usesEa e)
  issueOn (prefRecords d) (fun _ _ => false) e.guard d s fun s x is =>
    .next (((is.filter fun i => (x.met d.uses false i).isEmpty).foldl (fun s i => s.prefetch x i (x.ea i e) e.m1.toNat) s).done x)

/-- The lines of a range that a per-issue instruction names: their virtual numbers. -/
def rangeLines (va n : Nat) : List Nat := (List.range n).map fun k => va / 64 + k

/-- The L0 and cluster copies that FLUSH reaches. -/
def Site.nearLevels (x : Site) : List Level := x.levels.filter fun l => match l with
  | .l2 _ => false
  | _ => true

/-- The line holds write-set data in a cache: of a heat in its core's L0, of a pacer in the cluster cache (R127, R236). -/
def State.setData (s : State) (lv : Level) (line : Nat) : Bool :=
  let has (h : Heat) : Bool := h.ws.any fun b => decide (b.pa / 64 = line)
  s.teams.any fun t => match lv with
    | .l0 cl core => decide (t.cl = cl) && t.heats.any fun h => decide (t.cores.getD h.squad 0 = core) && has h
    | .clus cl => decide (t.cl = cl) && (t.pacer.map has).getD false
    | .l2 _ => false

/-- FLUSH of one physical line of a class (R236). -/
def State.flushLine (s : State) (x : Site) (cls : PageClass) (line : Nat) (inv : Bool) : State :=
  let mine (c : CLine) : Bool := c.line = line && c.cls = cls && c.level ∈ x.nearLevels
  match cls with
  | .priv =>
    let s := s.writeBackAll mine
    if inv then s.dropCopies mine else s
  | .phase => if inv then s.dropCopies fun c => mine c && !s.setData c.level line else s
  | _ => s

/-- FLUSH over a range of virtual lines; those whose translation fails, or leads nowhere, are skipped. -/
def State.flushRange (s : State) (x : Site) (inv : Bool) (ls : List Nat) : State :=
  ls.foldl (fun s l => match (s.translate x.team.ctx x.tlb (64 * l)).bind fun h => (s.place x.team.cl.die (h.phys (64 * l))).map fun p => (h, p) with
    | some (h, p) => s.flushLine x h.cls (p / 64) inv
    | none => s) s

/-- FLUSH and FLUSH.INV (R236). -/
def flushOp (e : Ext) (inv : Bool) (s : State) : Out :=
  issue e.guard (demand [readA e 2]) s fun s x is =>
    let i := is.headD 0
    let a := x.val i e.a.toNat 2
    let n := e.imm.toNat + 1
    match windowOf a with
    | some .scratch => .next (s.done x)
    | some .shared => .next (s.done x)
    | _ =>
      match x.check i a (64 * n - a % 64) 1 with
      | .error c => s.trap x is c i (dw a)
      | .ok (.virt va) => .next ((s.flushRange x inv (rangeLines va n)).done x)
      | .ok _ => .next (s.done x)

/-- FLUSH (R236). -/
def opFlush (e : Ext) (s : State) : Out := flushOp e false s

/-- FLUSH.INV (R236). -/
def opFlushInv (e : Ext) (s : State) : Out := flushOp e true s

/-- Re-arm granules of one page: their bits are cleared and every cached copy of them invalidated (R130, R131, R237). -/
def State.rearm (s : State) (gs : List Nat) : State :=
  { (s.dropCopies fun c => decide (c.line ∈ gs)) with granules := s.granules.filter (· ∉ gs) }

/-- What PGARM does page by page (R237): the state with the pages cleared so far, and what stops it. It waits for copies outside the package (R358). -/
def State.pgarmPages (s : State) (x : Site) : List (List Nat) → State × Option (Nat × Bad)
  | [] => (s, none)
  | ls :: r =>
    let va := 64 * ls.headD 0
    match s.translate x.team.ctx x.tlb va with
    | none => (s, some (va, .translation va))
    | some h =>
      if h.write = false then (s, some (va, .early cause.protection))
      else if h.cls ≠ .stream then (s, some (va, .early cause.classIllegal))
      else
        match s.reachX x va .store .plain with
        | .error b => (s, some (va, b))
        | .ok h =>
          let gs := ls.map fun l => h.phys (64 * l) / 64
          if s.clear none .stream gs then (s.rearm gs).pgarmPages x r else (s.askOutside none .stream gs, some (va, .hold))

/-- Lines grouped by their 4 KiB page, in ascending order. -/
def byPage (va n : Nat) : List (List Nat) :=
  let ls := rangeLines va n
  ((ls.map fun l => l / 64).dedup).map fun p => ls.filter fun l => l / 64 = p

/-- PGARM (R237): what it cleared before a trap or a save stays cleared (R228); where it waits, it has not issued and charges nothing (R187). -/
def opPgarm (e : Ext) (s : State) : Out :=
  issue e.guard (demand [readA e 2]) s fun s1 x is =>
    let i := is.headD 0
    let a := x.val i e.a.toNat 2
    let n := e.imm.toNat + 1
    match x.check i a (64 * n - a % 64) 1 with
    | .error c => s1.trap x is c i (dw a)
    | .ok (.virt va) =>
      if x.heat.unacked ≠ 0 then s.stall
      else
        match s1.pgarmPages x (byPage va n) with
        | (s2, none) => .next (s2.done x)
        | (s2, some (v, .translation _)) => s2.pageFault x is i v (dw (a - a % 64 + (v - va / 64 * 64)))
        | (s2, some (v, .early c)) => s2.trap x is c i (dw (a - a % 64 + (v - va / 64 * 64)))
        | (s2, some (v, .late c)) => s2.trap x is c i (s2.pathInfoAt x v c (dw (a - a % 64 + (v - va / 64 * 64))))
        | (_, some (_, .hold)) => (s.pgarmPages x (byPage va n)).1.stall
    | .ok _ => s1.trap x is cause.classIllegal i (dw a)

/-! ### The meanings, one for each row of the opcode table -/

/-- LD (R232), the short form (R164). -/
def execLd (i : BitVec 7) (a : BitVec 8) (d : BitVec 8) (s : State) : Out := opLd (shortImm .n32 i a d) s

/-- LD_EXT (R232). -/
def execLdExt (e : Ext) (s : State) : Out := opLd e s

/-- ST (R232), the short form (R164). -/
def execSt (i : BitVec 7) (a : BitVec 8) (d : BitVec 8) (s : State) : Out := opSt (shortImm .n32 i a d) s

/-- ST_EXT (R232). -/
def execStExt (e : Ext) (s : State) : Out := opSt e s

/-- LDX (R234). -/
def execLdx (e : Ext) (s : State) : Out := opLdx e s

/-- STX (R234). -/
def execStx (e : Ext) (s : State) : Out := opStx e s

/-- PREF (R235), the short form (R164). -/
def execPref (i : BitVec 7) (a : BitVec 8) (s : State) : Out := opPref (shortImm .s8 i a 0) s

/-- PREF_EXT (R235). -/
def execPrefExt (e : Ext) (s : State) : Out := opPref e s

/-- FLUSH (R236), the short form (R164). -/
def execFlush (a : BitVec 8) (s : State) : Out := opFlush (shortFn .s8 0 a 0) s

/-- FLUSH_EXT (R236). -/
def execFlushExt (e : Ext) (s : State) : Out := opFlush e s

/-- FLUSH_INV (R236), the short form (R164). -/
def execFlushInv (a : BitVec 8) (s : State) : Out := opFlushInv (shortFn .s8 1 a 0) s

/-- FLUSH_INV_EXT (R236). -/
def execFlushInvExt (e : Ext) (s : State) : Out := opFlushInv e s

/-- PGARM (R237). -/
def execPgarm (e : Ext) (s : State) : Out := opPgarm e s

end Sys2Proof.Machine
end

