-- ==== Sys2Proof/Machine/Flags.lean ====
section
/-!
DEFINITION. Guards and what is computed into them: conditions and combinations (Table 15.3), guard operations
(Table 15.4), carries (R192) and votes (R218).
-/

namespace Sys2Proof.Machine

/-- Conditions of CMP and CMPV (Table 15.3). -/
def condHolds (m1 : Nat) (a b : Int) : Bool :=
  match m1 with
  | 0 => a = b
  | 1 => a ≠ b
  | 2 => a < b
  | 3 => a ≤ b
  | 4 => b < a
  | _ => b ≤ a

/-- Conditions of FCMP (R268). -/
def fcondHolds (m1 : Nat) (x y : Fp) : Bool :=
  if x = .nan ∨ y = .nan then m1 = 1 ∨ m1 = 6
  else
    match m1, Fp.cmp x y with
    | 0, o => o = .eq
    | 1, o => o ≠ .eq
    | 2, o => o = .lt
    | 3, o => o ≠ .gt
    | 4, o => o = .gt
    | 5, o => o ≠ .lt
    | 7, _ => true
    | _, _ => false

/-- How a result combines with the guard's former value (Table 15.3). -/
def combineGuard (mod : Nat) (g res : Bool) : Bool :=
  match mod with
  | 1 => g && res
  | 2 => g || res
  | _ => res

/-- Guard operations (Table 15.4). -/
def gopBit (fn : Nat) (a b : Bool) : Bool :=
  match fn with
  | 0 => a
  | 1 => !a
  | 2 => a && b
  | 3 => a || b
  | 4 => a != b
  | 5 => a && !b
  | 6 => true
  | _ => false

/-- Sum and carry of ADDC (R192). -/
def addCarry (w a b : Nat) (k : Bool) : Nat × Bool :=
  let x := a + b + (if k then 1 else 0)
  (x % 2 ^ w, decide (2 ^ w ≤ x))

/-- Difference and borrow of SUBB (R192). -/
def subBorrow (w a b : Nat) (k : Bool) : Nat × Bool :=
  let x : Int := (a : Int) - b - (if k then 1 else 0)
  (wrap w x, decide (x < 0))

/-- The ballot: bit i set when slot i executes with its guard bit set (R218). -/
def Site.ballot (x : Site) (is : List Nat) (g : Nat) : Nat := ((is.filter fun i => x.guard i g).map fun i => 2 ^ i).sum

/-- Result of a vote (R218). -/
def voteOf (m1 : Nat) (ballot all count : Nat) : Nat :=
  match m1 with
  | 0 => ballot
  | 1 => if ballot = 0 then 0 else 1
  | 2 => if ballot = all then 1 else 0
  | _ => count

end Sys2Proof.Machine
end

