-- ==== Sys2Proof/Machine/Integer.lean ====
section
/-!
DEFINITION. Integer arithmetic, logic, moves, comparisons and addresses: opcodes 0x01 to 0x22 (R190 to R209).
-/

namespace Sys2Proof.Machine

/-! ### Records passed on (R68) -/

/-- The record in a register. -/
def Site.record? (x : Site) (i r : Nat) : Option Baton :=
  match x.slot i r with
  | .bat b => some b
  | .val _ => none

/-- A record under X -> p X + q: a fault or drained record is copied, one with a chain blocks (R68). -/
def Baton.affine (b : Baton) (p q : Word) : Option Slot :=
  if b.st ≠ .pending then some (.bat b)
  else if b.chain ≠ [] then none
  else some (.bat { b with a := p * b.a, b := p * b.b + q })

/-- The types and modifiers under which R68 transforms a record. -/
def transforms (e : Ext) : Bool := decide (e.mod = 0) && decide (e.ty = .s32 ∨ e.ty = .n32 ∨ e.ty = .b32)

/-- The record that an instruction with operands a and b makes of the one record it meets; `onA` and `onB` give the
coefficients from the known operand (Table 5.4). -/
def xform2 (e : Ext) (onA onB : Word → Option (Word × Word)) (x : Site) (i : Nat) : Option Slot :=
  if transforms e = false then none
  else
    match x.record? i e.a.toNat, (if e.osel = 0 then x.record? i e.b.toNat else none) with
    | some r, none => (onA (wd (x.srcB i e))).bind fun (p, q) => r.affine p q
    | none, some r => (onB (x.word i e.a.toNat)).bind fun (p, q) => r.affine p q
    | _, _ => none

/-- An instruction that passes some records on: it writes the record made, or the value. -/
def passOn (e : Ext) (us : List Use) (xf : Site → Nat → Option Slot) (s : State) (v : Site → Nat → Nat) : Out :=
  issueWith (fun x i => (xf x i).isSome) e.guard (demand us) s (regEffect fun x i y =>
    match xf x i with
    | some r => y.setSlot i e.d.toNat r
    | none => y.dst i e (v x i))

/-! ### Arithmetic (R190 to R195) -/

/-- The modifier .sat (R190). -/
def satOf (e : Ext) : Bool := e.mod.getLsbD 0

/-- A two-operand result of R191. -/
def arith (e : Ext) (f : Int → Int → Int) (x : Site) (i : Nat) : Nat :=
  finish e.ty (satOf e) (f (valOf e.ty (x.srcA i e)) (valOf e.ty (x.srcB i e)))

/-- ADD (R191). -/
def opAdd (e : Ext) (s : State) : Out :=
  passOn e (uses3 e) (xform2 e (fun k => some (1, k)) fun k => some (1, k)) s (arith e (· + ·))

/-- SUB (R191). -/
def opSub (e : Ext) (s : State) : Out :=
  passOn e (uses3 e) (xform2 e (fun k => some (1, -k)) fun k => some (-1, k)) s (arith e (· - ·))

/-- MUL (R191). -/
def opMul (e : Ext) (s : State) : Out :=
  passOn e (uses3 e) (xform2 e (fun k => some (k, 0)) fun k => some (k, 0)) s (arith e (· * ·))

/-- NEG (R191). -/
def opNeg (e : Ext) (s : State) : Out :=
  let xf (x : Site) (i : Nat) : Option Slot :=
    if transforms e then (x.record? i e.a.toNat).bind fun r => r.affine (-1) 0 else none
  passOn e (uses2 e) xf s fun x i => finish e.ty (satOf e) (-(valOf e.ty (x.srcA i e)))

/-- ABS (R191). -/
def opAbs (e : Ext) (s : State) : Out :=
  perFibre e (uses2 e) s fun x i => finish e.ty (satOf e) (valOf e.ty (x.srcA i e)).natAbs

/-- MIN (R191). -/
def opMin (e : Ext) (s : State) : Out := perFibre e (uses3 e) s (arith e min)

/-- MAX (R191). -/
def opMax (e : Ext) (s : State) : Out := perFibre e (uses3 e) s (arith e max)

/-- A result with a carry or borrow through the guard that C names (R192). -/
def carryOp (e : Ext) (f : Nat → Nat → Bool → Nat × Bool) (s : State) : Out :=
  issue e.guard (demandG (uses3 e)) s (regEffect fun x i y =>
    let g := e.c.toNat % 32
    let r := f (x.srcA i e % 2 ^ e.ty.bits) (x.srcB i e % 2 ^ e.ty.bits) (x.guard i g)
    (y.dst i e r.1).setGuard i g r.2)

/-- ADDC (R192). -/
def opAddc (e : Ext) (s : State) : Out := carryOp e (addCarry e.ty.bits) s

/-- SUBB (R192). -/
def opSubb (e : Ext) (s : State) : Out := carryOp e (subBorrow e.ty.bits) s

/-- MULH (R193). -/
def opMulh (e : Ext) (s : State) : Out :=
  perFibre e (uses3 e) s fun x i => wrap e.ty.bits (valOf e.ty (x.srcA i e) * valOf e.ty (x.srcB i e) / 2 ^ e.ty.bits)

/-- MAD (R194). -/
def opMad (e : Ext) (s : State) : Out :=
  perFibre e (uses3 e ++ [readC e e.ty.regs]) s fun x i =>
    wrap e.ty.bits (valOf e.ty (x.srcA i e) * valOf e.ty (x.srcB i e) + valOf e.ty (x.srcC i e))

/-- The quotient, truncated toward zero (R195). -/
def quotOf (ty : Ty) (a b : Int) : Nat := if b = 0 then wrap ty.bits (-1) else wrap ty.bits (a.tdiv b)

/-- The remainder, with the sign of a (R195). -/
def remOf (ty : Ty) (a b : Int) : Nat := if b = 0 then wrap ty.bits a else wrap ty.bits (a.tmod b)

/-- DIV (R195). -/
def opDiv (e : Ext) (s : State) : Out :=
  perFibre e (uses3 e) s fun x i => quotOf e.ty (valOf e.ty (x.srcA i e)) (valOf e.ty (x.srcB i e))

/-- REM (R195). -/
def opRem (e : Ext) (s : State) : Out :=
  perFibre e (uses3 e) s fun x i => remOf e.ty (valOf e.ty (x.srcA i e)) (valOf e.ty (x.srcB i e))

/-! ### Logic, shifts and bit fields (R196 to R200) -/

/-- All ones of a type. -/
def onesOf (ty : Ty) : Nat := 2 ^ ty.bits - 1

/-- AND (R196). -/
def opAnd (e : Ext) (s : State) : Out := perFibre e (uses3 e) s fun x i => x.srcA i e &&& x.srcB i e

/-- OR (R196). -/
def opOr (e : Ext) (s : State) : Out := perFibre e (uses3 e) s fun x i => x.srcA i e ||| x.srcB i e

/-- XOR (R196). -/
def opXor (e : Ext) (s : State) : Out := perFibre e (uses3 e) s fun x i => x.srcA i e ^^^ x.srcB i e

/-- ANDN (R196). -/
def opAndn (e : Ext) (s : State) : Out := perFibre e (uses3 e) s fun x i => x.srcA i e &&& (onesOf e.ty ^^^ x.srcB i e)

/-- NOT (R196). -/
def opNot (e : Ext) (s : State) : Out := perFibre e (uses2 e) s fun x i => onesOf e.ty ^^^ x.srcA i e

/-- The fields of a shift: a 32-bit count b (R197). -/
def usesShift (e : Ext) : List Use := uses2 e ++ readB e 1

/-- The count s := b mod W (R197). -/
def Site.count (x : Site) (i : Nat) (e : Ext) : Nat := x.src32 i e % e.ty.bits

/-- SHL (R197); by a known count it passes a record on (R68). -/
def opShl (e : Ext) (s : State) : Out :=
  let xf (x : Site) (i : Nat) : Option Slot :=
    if e.ty = .b32 ∧ (e.osel = 0 → x.record? i e.b.toNat = none) then
      (x.record? i e.a.toNat).bind fun r => r.affine (1#32 <<< x.count i e) 0
    else none
  passOn e (usesShift e) xf s fun x i => x.srcA i e * 2 ^ x.count i e % 2 ^ e.ty.bits

/-- SHR (R197). -/
def opShr (e : Ext) (s : State) : Out := perFibre e (usesShift e) s fun x i => x.srcA i e / 2 ^ x.count i e

/-- SHA (R197). -/
def opSha (e : Ext) (s : State) : Out :=
  perFibre e (usesShift e) s fun x i => wrap e.ty.bits (toSigned e.ty.bits (x.srcA i e) / 2 ^ x.count i e)

/-- Rotate w bits left. -/
def rotl (w a k : Nat) : Nat := a * 2 ^ k % 2 ^ w + a / 2 ^ (w - k)

/-- ROT (R197). -/
def opRot (e : Ext) (s : State) : Out := perFibre e (usesShift e) s fun x i => rotl e.ty.bits (x.srcA i e) (x.count i e)

/-- The field that BFX takes out (R198). -/
def bfxOf (ty : Ty) (a ctl : Nat) : Nat :=
  let pos := bitsOf ctl 0 8
  let len := bitsOf ctl 8 8
  let f := (valOf ty a / 2 ^ pos) % 2 ^ len
  if len = 0 then 0
  else wrap ty.bits (if ty.signed then toSigned len f.toNat else f)

/-- BFX (R198). -/
def opBfx (e : Ext) (s : State) : Out :=
  perFibre e (uses2 e ++ readB e 1) s fun x i => bfxOf e.ty (x.srcA i e) (x.srcN i e)

/-- The field that BFI puts in (R198). -/
def bfiOf (w a ctl c : Nat) : Nat :=
  let pos := bitsOf ctl 0 8
  let mask := (2 ^ bitsOf ctl 8 8 - 1) * 2 ^ pos % 2 ^ w
  (c &&& ((2 ^ w - 1) ^^^ mask)) ||| (a * 2 ^ pos &&& mask)

/-- BFI (R198). -/
def opBfi (e : Ext) (s : State) : Out :=
  perFibre e (uses2 e ++ readB e 1 ++ [readC e e.ty.regs]) s fun x i => bfiOf e.ty.bits (x.srcA i e) (x.srcN i e) (x.srcC i e)

/-- Number of one bits among the low n. -/
def onesIn (v : Nat) : Nat → Nat
  | 0 => 0
  | n + 1 => v % 2 + onesIn (v / 2) n

/-- Zero bits below the lowest one bit of the low n; n when there is none. -/
def trailing (v : Nat) : Nat → Nat
  | 0 => 0
  | n + 1 => if v % 2 = 1 then 0 else 1 + trailing (v / 2) n

/-- The low n bits in reverse order. -/
def reversed (v : Nat) : Nat → Nat
  | 0 => 0
  | n + 1 => v % 2 * 2 ^ n + reversed (v / 2) n

/-- A 32-bit result from an operand of the type. -/
def countOp (e : Ext) (f : Nat → Nat → Nat) (s : State) : Out :=
  perFibre32 e [useD e 1, readA e e.ty.regs] s fun x i => f e.ty.bits (x.srcA i e)

/-- POPC (R199). -/
def opPopc (e : Ext) (s : State) : Out := countOp e (fun w a => onesIn a w) s

/-- CLZ (R199). -/
def opClz (e : Ext) (s : State) : Out := countOp e (fun w a => trailing (reversed a w) w) s

/-- CTZ (R199). -/
def opCtz (e : Ext) (s : State) : Out := countOp e (fun w a => trailing a w) s

/-- BREV (R199). -/
def opBrev (e : Ext) (s : State) : Out := perFibre e (uses2 e) s fun x i => reversed (x.srcA i e) e.ty.bits

/-- One byte of PERM (R200). -/
def permByte (a d k : Nat) : Nat :=
  if k < 4 then bitsOf a (8 * k) 8
  else if k < 8 then bitsOf d (8 * (k - 4)) 8
  else if k < 12 then 0
  else if bitsOf a (8 * (k - 12) + 7) 1 = 1 then 255 else 0

/-- The four bytes of PERM (R200). -/
def permOf (a d b : Nat) : Nat := ((List.range 4).map fun i => permByte a d (bitsOf b (4 * i) 4) * 2 ^ (8 * i)).sum

/-- PERM (R200): it reads its destination. -/
def opPerm (e : Ext) (s : State) : Out :=
  perFibre e ([readD e 1, readA e 1] ++ readB e 1) s fun x i => permOf (x.srcA i e) (x.val i e.d.toNat 1) (x.srcB i e)

/-! ### Moves, constants and selection (R201 to R204) -/

/-- Copy n registers, records and all, read in full before any is written. -/
def Site.copyRegs (y x : Site) (i d a : Nat) : Nat → Site
  | 0 => y
  | n + 1 => (y.copyRegs x i d a n).setSlot i (d + n) (x.slot i (a + n))

/-- MOV (R201); it copies records of every accepted type (R189). -/
def opMov (e : Ext) (s : State) : Out :=
  issueWith (fun _ _ => true) e.guard (demand (uses2 e)) s (regEffect fun x i y => y.copyRegs x i e.d.toNat e.a.toNat e.ty.regs)

/-- MOVI (R202). -/
def opMovi (e : Ext) (s : State) : Out := perFibre e [useD e e.ty.regs] s fun x i => x.srcB i e

/-- LIT (R203). -/
def opLit (e : Ext) (s : State) : Out := perFibre e [useD e e.ty.regs] s fun _ _ => e.lit.toNat

/-- SEL (R204). -/
def opSel (e : Ext) (s : State) : Out :=
  issue e.guard (demandG (uses3 e)) s (regEffect fun x i y =>
    y.dst i e (if x.guard i (e.c.toNat % 32) = !(e.mod.getLsbD 0) then x.srcA i e else x.srcB i e))

/-! ### Comparisons and guards (R205 to R207) -/

/-- The condition of CMP and CMPV on a fibre's operands. -/
def Site.holds (x : Site) (i : Nat) (e : Ext) : Bool :=
  condHolds e.m1.toNat (valOf e.ty (x.srcA i e)) (valOf e.ty (x.srcB i e))

/-- CMP (R205). -/
def opCmp (e : Ext) (s : State) : Out :=
  issue e.guard (demandG (readA e e.ty.regs :: readB e e.ty.regs)) s (regEffect fun x i y =>
    let g := e.d.toNat % 32
    y.setGuard i g (combineGuard e.mod.toNat (x.guard i g) (x.holds i e)))

/-- CMPV (R206). -/
def opCmpv (e : Ext) (s : State) : Out :=
  perFibre32 e ([useD e 1, readA e e.ty.regs] ++ readB e e.ty.regs) s fun x i => if x.holds i e then 2 ^ 32 - 1 else 0

/-- GOP (R207). -/
def opGop (e : Ext) (s : State) : Out :=
  issue e.guard (demandG []) s (regEffect fun x i y =>
    y.setGuard i (e.d.toNat % 32) (gopBit e.x.toNat (x.guard i (e.a.toNat % 32)) (x.guard i (e.b.toNat % 32))))

/-! ### Addresses and spaces (R208, R209) -/

/-- Pair A. -/
def Site.pairA (x : Site) (i : Nat) (e : Ext) : Nat := x.val i e.a.toNat 2

/-- Write a pair. -/
def Site.dst64 (y : Site) (i : Nat) (e : Ext) (v : Nat) : Site := y.setVal i e.d.toNat 2 v

/-- LEA (R208). -/
def opLea (e : Ext) (s : State) : Out :=
  issue e.guard (demand ([useD e 2, readA e 2] ++ readB e 1)) s (regEffect fun x i y =>
    y.dst64 i e ((x.pairA i e + x.srcOfs i e e.ty.signed * 2 ^ e.m1.toNat) % 2 ^ 64))

/-- SPTEST (R209). -/
def opSptest (e : Ext) (s : State) : Out :=
  issue e.guard (demand [useD e 1, readA e 2]) s (regEffect fun x i y => y.dst32 i e (spaceOf (x.pairA i e)).code)

/-- Checks 1 and 2 of R99. -/
def Site.spaceCheck (x : Site) (a : Nat) : Option Byte :=
  match windowOf a with
  | none => some cause.spaceWindow
  | some .scratch => if x.coreId? = some (bitsOf a 32 8) then none else some cause.spaceForeign
  | some .shared => if bitsOf a 32 8 = x.team.cl.loc then none else some cause.spaceForeign
  | some _ => none

/-- The offset bits of an address in its space (R209). -/
def offsetOf (a : Nat) : Nat :=
  match spaceOf a with
  | .global => bitsOf a 0 56
  | .priv => bitsOf a 0 48
  | _ => bitsOf a 0 32

/-- SPCAST.OFS (R209). -/
def opSpcastOfs (e : Ext) (s : State) : Out :=
  issue e.guard (demand [useD e 2, readA e 2]) s fun s x is =>
    match is.findSome? fun i => (x.spaceCheck (x.pairA i e)).map fun c => (i, c) with
    | some (i, c) => s.trap x is c i (dw (x.pairA i e))
    | none => regEffect (fun x i y => y.dst64 i e (offsetOf (x.pairA i e))) s x is

/-- The generic address of an offset in a space (R102, R209). -/
def Site.generic (x : Site) (m1 a : Nat) : Nat :=
  match m1 with
  | 0 => bitsOf a 0 56
  | 1 => 0xFFF0 * 2 ^ 48 + bitsOf a 0 48
  | 2 => 0xFFF4 * 2 ^ 48 + (x.coreId?.getD 0) * 2 ^ 32 + bitsOf a 0 32
  | _ => 0xFFF8 * 2 ^ 48 + x.team.cl.loc * 2 ^ 32 + bitsOf a 0 32

/-- SPCAST.GEN (R209). -/
def opSpcastGen (e : Ext) (s : State) : Out :=
  issue e.guard (demand [useD e 2, readA e 2]) s (regEffect fun x i y => y.dst64 i e (x.generic e.m1.toNat (x.pairA i e)))

/-! ### The meanings, one for each row of the opcode table -/

/-- ADD (R191), the short form (R164). -/
def execAdd (x : BitVec 7) (a : BitVec 8) (d : BitVec 8) (s : State) : Out := opAdd (shortReg .s32 x a d) s

/-- ADD_EXT (R191). -/
def execAddExt (e : Ext) (s : State) : Out := opAdd e s

/-- SUB (R191), the short form (R164). -/
def execSub (x : BitVec 7) (a : BitVec 8) (d : BitVec 8) (s : State) : Out := opSub (shortReg .s32 x a d) s

/-- SUB_EXT (R191). -/
def execSubExt (e : Ext) (s : State) : Out := opSub e s

/-- ADDC (R192), the short form (R164). -/
def execAddc (x : BitVec 7) (a : BitVec 8) (d : BitVec 8) (s : State) : Out := opAddc (shortReg .s32 x a d) s

/-- ADDC_EXT (R192). -/
def execAddcExt (e : Ext) (s : State) : Out := opAddc e s

/-- SUBB (R192), the short form (R164). -/
def execSubb (x : BitVec 7) (a : BitVec 8) (d : BitVec 8) (s : State) : Out := opSubb (shortReg .s32 x a d) s

/-- SUBB_EXT (R192). -/
def execSubbExt (e : Ext) (s : State) : Out := opSubb e s

/-- MUL (R191), the short form (R164). -/
def execMul (x : BitVec 7) (a : BitVec 8) (d : BitVec 8) (s : State) : Out := opMul (shortReg .s32 x a d) s

/-- MUL_EXT (R191). -/
def execMulExt (e : Ext) (s : State) : Out := opMul e s

/-- MULH (R193), the short form (R164). -/
def execMulh (x : BitVec 7) (a : BitVec 8) (d : BitVec 8) (s : State) : Out := opMulh (shortReg .s32 x a d) s

/-- MULH_EXT (R193). -/
def execMulhExt (e : Ext) (s : State) : Out := opMulh e s

/-- MAD (R194). -/
def execMad (e : Ext) (s : State) : Out := opMad e s

/-- DIV (R195), the short form (R164). -/
def execDiv (x : BitVec 7) (a : BitVec 8) (d : BitVec 8) (s : State) : Out := opDiv (shortReg .s32 x a d) s

/-- DIV_EXT (R195). -/
def execDivExt (e : Ext) (s : State) : Out := opDiv e s

/-- REM (R195), the short form (R164). -/
def execRem (x : BitVec 7) (a : BitVec 8) (d : BitVec 8) (s : State) : Out := opRem (shortReg .s32 x a d) s

/-- REM_EXT (R195). -/
def execRemExt (e : Ext) (s : State) : Out := opRem e s

/-- NEG (R191), the short form (R164). -/
def execNeg (a : BitVec 8) (d : BitVec 8) (s : State) : Out := opNeg (shortFn .s32 0 a d) s

/-- NEG_EXT (R191). -/
def execNegExt (e : Ext) (s : State) : Out := opNeg e s

/-- ABS (R191), the short form (R164). -/
def execAbs (a : BitVec 8) (d : BitVec 8) (s : State) : Out := opAbs (shortFn .s32 1 a d) s

/-- ABS_EXT (R191). -/
def execAbsExt (e : Ext) (s : State) : Out := opAbs e s

/-- MIN (R191), the short form (R164). -/
def execMin (x : BitVec 7) (a : BitVec 8) (d : BitVec 8) (s : State) : Out := opMin (shortReg .s32 x a d) s

/-- MIN_EXT (R191). -/
def execMinExt (e : Ext) (s : State) : Out := opMin e s

/-- MAX (R191), the short form (R164). -/
def execMax (x : BitVec 7) (a : BitVec 8) (d : BitVec 8) (s : State) : Out := opMax (shortReg .s32 x a d) s

/-- MAX_EXT (R191). -/
def execMaxExt (e : Ext) (s : State) : Out := opMax e s

/-- AND (R196), the short form (R164). -/
def execAnd (x : BitVec 7) (a : BitVec 8) (d : BitVec 8) (s : State) : Out := opAnd (shortReg .b32 x a d) s

/-- AND_EXT (R196). -/
def execAndExt (e : Ext) (s : State) : Out := opAnd e s

/-- OR (R196), the short form (R164). -/
def execOr (x : BitVec 7) (a : BitVec 8) (d : BitVec 8) (s : State) : Out := opOr (shortReg .b32 x a d) s

/-- OR_EXT (R196). -/
def execOrExt (e : Ext) (s : State) : Out := opOr e s

/-- XOR (R196), the short form (R164). -/
def execXor (x : BitVec 7) (a : BitVec 8) (d : BitVec 8) (s : State) : Out := opXor (shortReg .b32 x a d) s

/-- XOR_EXT (R196). -/
def execXorExt (e : Ext) (s : State) : Out := opXor e s

/-- ANDN (R196), the short form (R164). -/
def execAndn (x : BitVec 7) (a : BitVec 8) (d : BitVec 8) (s : State) : Out := opAndn (shortReg .b32 x a d) s

/-- ANDN_EXT (R196). -/
def execAndnExt (e : Ext) (s : State) : Out := opAndn e s

/-- NOT (R196), the short form (R164). -/
def execNot (a : BitVec 8) (d : BitVec 8) (s : State) : Out := opNot (shortFn .b32 0 a d) s

/-- NOT_EXT (R196). -/
def execNotExt (e : Ext) (s : State) : Out := opNot e s

/-- SHL (R197), the short form (R164). -/
def execShl (x : BitVec 7) (a : BitVec 8) (d : BitVec 8) (s : State) : Out := opShl (shortReg .b32 x a d) s

/-- SHL_EXT (R197). -/
def execShlExt (e : Ext) (s : State) : Out := opShl e s

/-- SHR (R197), the short form (R164). -/
def execShr (x : BitVec 7) (a : BitVec 8) (d : BitVec 8) (s : State) : Out := opShr (shortReg .b32 x a d) s

/-- SHR_EXT (R197). -/
def execShrExt (e : Ext) (s : State) : Out := opShr e s

/-- SHA (R197), the short form (R164). -/
def execSha (x : BitVec 7) (a : BitVec 8) (d : BitVec 8) (s : State) : Out := opSha (shortReg .b32 x a d) s

/-- SHA_EXT (R197). -/
def execShaExt (e : Ext) (s : State) : Out := opSha e s

/-- ROT (R197), the short form (R164). -/
def execRot (x : BitVec 7) (a : BitVec 8) (d : BitVec 8) (s : State) : Out := opRot (shortReg .b32 x a d) s

/-- ROT_EXT (R197). -/
def execRotExt (e : Ext) (s : State) : Out := opRot e s

/-- BFX (R198). -/
def execBfx (e : Ext) (s : State) : Out := opBfx e s

/-- BFI (R198). -/
def execBfi (e : Ext) (s : State) : Out := opBfi e s

/-- POPC (R199), the short form (R164). -/
def execPopc (a : BitVec 8) (d : BitVec 8) (s : State) : Out := opPopc (shortFn .b32 0 a d) s

/-- POPC_EXT (R199). -/
def execPopcExt (e : Ext) (s : State) : Out := opPopc e s

/-- CLZ (R199), the short form (R164). -/
def execClz (a : BitVec 8) (d : BitVec 8) (s : State) : Out := opClz (shortFn .b32 1 a d) s

/-- CLZ_EXT (R199). -/
def execClzExt (e : Ext) (s : State) : Out := opClz e s

/-- CTZ (R199), the short form (R164). -/
def execCtz (a : BitVec 8) (d : BitVec 8) (s : State) : Out := opCtz (shortFn .b32 2 a d) s

/-- CTZ_EXT (R199). -/
def execCtzExt (e : Ext) (s : State) : Out := opCtz e s

/-- BREV (R199), the short form (R164). -/
def execBrev (a : BitVec 8) (d : BitVec 8) (s : State) : Out := opBrev (shortFn .b32 3 a d) s

/-- BREV_EXT (R199). -/
def execBrevExt (e : Ext) (s : State) : Out := opBrev e s

/-- PERM (R200), the short form (R164). -/
def execPerm (x : BitVec 7) (a : BitVec 8) (d : BitVec 8) (s : State) : Out := opPerm (shortReg .b32 x a d) s

/-- PERM_EXT (R200). -/
def execPermExt (e : Ext) (s : State) : Out := opPerm e s

/-- MOV (R201), the short form (R164). -/
def execMov (a : BitVec 8) (d : BitVec 8) (s : State) : Out := opMov (shortFn .b32 0 a d) s

/-- MOV_EXT (R201). -/
def execMovExt (e : Ext) (s : State) : Out := opMov e s

/-- MOVI (R202), the short form (R164). -/
def execMovi (i : BitVec 7) (d : BitVec 8) (s : State) : Out := opMovi (shortImm .b32 i 0 d) s

/-- MOVI_EXT (R202). -/
def execMoviExt (e : Ext) (s : State) : Out := opMovi e s

/-- LIT (R203). -/
def execLit (e : Ext) (s : State) : Out := opLit e s

/-- SEL (R204). -/
def execSel (e : Ext) (s : State) : Out := opSel e s

/-- CMP (R205), the short form (R164). -/
def execCmp (x : BitVec 7) (a : BitVec 8) (g : BitVec 5) (s : State) : Out := opCmp (shortReg .s32 x a (g.setWidth 8)) s

/-- CMP_EXT (R205). -/
def execCmpExt (e : Ext) (s : State) : Out := opCmp e s

/-- CMPV (R206), the short form (R164). -/
def execCmpv (x : BitVec 7) (a : BitVec 8) (d : BitVec 8) (s : State) : Out := opCmpv (shortReg .s32 x a d) s

/-- CMPV_EXT (R206). -/
def execCmpvExt (e : Ext) (s : State) : Out := opCmpv e s

/-- LEA (R208), the short form (R164). -/
def execLea (x : BitVec 7) (a : BitVec 8) (d : BitVec 8) (s : State) : Out := opLea (shortReg .n64 x a d) s

/-- LEA_EXT (R208). -/
def execLeaExt (e : Ext) (s : State) : Out := opLea e s

/-- SPTEST (R209), the short form (R164). -/
def execSptest (a : BitVec 8) (d : BitVec 8) (s : State) : Out := opSptest (shortFn .s8 0 a d) s

/-- SPTEST_EXT (R209). -/
def execSptestExt (e : Ext) (s : State) : Out := opSptest e s

/-- SPCAST_OFS (R209), the short form (R164). -/
def execSpcastOfs (a : BitVec 8) (d : BitVec 8) (s : State) : Out := opSpcastOfs (shortFn .s8 1 a d) s

/-- SPCAST_OFS_EXT (R209). -/
def execSpcastOfsExt (e : Ext) (s : State) : Out := opSpcastOfs e s

/-- SPCAST_GEN (R209), the short form (R164). -/
def execSpcastGen (a : BitVec 8) (d : BitVec 8) (s : State) : Out := opSpcastGen (shortFn .s8 2 a d) s

/-- SPCAST_GEN_EXT (R209). -/
def execSpcastGenExt (e : Ext) (s : State) : Out := opSpcastGen e s

/-- GOP (R207), the short form (R164). -/
def execGop (f : BitVec 3) (a : BitVec 5) (d : BitVec 5) (s : State) : Out := opGop (shortFn .s8 (f.setWidth 7) (a.setWidth 8) (d.setWidth 8)) s

/-- GOP_EXT (R207). -/
def execGopExt (e : Ext) (s : State) : Out := opGop e s

end Sys2Proof.Machine
end

