-- ==== Sys2Proof/Machine/VectorFloat.lean ====
section
/-!
DEFINITION. Floating-point arithmetic: opcodes 0x48 to 0x57 (R260 to R272), with the batons that float chains pass on (R69).
-/

namespace Sys2Proof.Machine

/-! ### Elements, rounding and draws (R74, R78, R260) -/

/-- Elements of a float type in one register. -/
def lanesOf (ty : Ty) : Nat := if ty = .h2 ∨ ty = .b2 then 2 else 1

/-- Element j of a register of a float type. -/
def laneOf (ty : Ty) (v j : Nat) : Nat := bitsOf v (fbits ty * j) (fbits ty)

/-- Element results of one type put into a register, low element first. -/
def packLanes (ty : Ty) (f : Nat → Nat) : Nat := ((List.range (lanesOf ty)).map fun j => f j * 2 ^ (fbits ty * j)).sum

/-- Rounding mode of an instruction (R77). -/
def rndOf (e : Ext) : Nat := e.rs.toNat

/-- The modifier .sub of Table 17.1. -/
def subOf (e : Ext) : Bool := e.mod.getLsbD 0

/-- The number that a fibre's generator gives for its k-th element result, k from 0 (R78). -/
def Site.draw (x : Site) (e : Ext) (i k : Nat) : Nat := if rndOf e = 4 then (srAfter (x.seed i) (k + 1)).toNat else 0

/-- The generator after the n element results of a fibre. -/
def Site.drawn (x : Site) (e : Ext) (i n : Nat) (y : Site) : Site := if rndOf e = 4 then y.setSeed i (srAfter (x.seed i) n) else y

/-- An instruction that rounds one result for each element of its type. -/
def rounds (e : Ext) (us : List Use) (s : State) (v : Site → Nat → Nat → Nat) : Out :=
  issue e.guard (demand us) s (regEffect fun x i y =>
    x.drawn e i (lanesOf e.ty) (y.dst32 i e (packLanes e.ty (v x i))))

/-- Element j of operand a as a value. -/
def Site.fa (x : Site) (e : Ext) (i j : Nat) : Fp := readF e.ty (subOf e) (laneOf e.ty (x.srcA i e) j)

/-- Element j of operand b as a value. -/
def Site.fb (x : Site) (e : Ext) (i j : Nat) : Fp := readF e.ty (subOf e) (laneOf e.ty (x.srcB i e) j)

/-- Element j of operand c as a value. -/
def Site.fc (x : Site) (e : Ext) (i j : Nat) : Fp := readF e.ty (subOf e) (laneOf e.ty (x.srcC i e) j)

/-- The rounded result of one element. -/
def Site.rnd (x : Site) (e : Ext) (i j : Nat) (v : Fp) (sticky : Bool := false) : Nat :=
  (fmtOf e.ty).round (rndOf e) (x.draw e i j) v sticky

/-! ### Sums and products (R265) -/

/-- The exact value of FADD, FSUB, FMUL or FMA (R265). -/
def ChainOp.exact (op : ChainOp) (mode : Nat) (a b c : Fp) : Fp :=
  match op with
  | .fadd => Fp.add (mode = 3) a b
  | .fsub => Fp.add (mode = 3) a b.neg
  | .fmul => Fp.mul a b
  | .fma => Fp.add (mode = 3) (Fp.mul a b) c

/-- A record extended by a chain step (R69): a fault or drained record is copied. -/
def Baton.extend (b : Baton) (st : ChainStep) : Option Slot :=
  if b.st ≠ .pending then some (.bat b)
  else if (b.a = 1 ∧ b.b = 0) ∧ b.chain.length < 4 then some (.bat { b with chain := b.chain ++ [st] })
  else none

/-- The forms that may append a step (R69). -/
def chains (e : Ext) : Bool := decide (rndOf e ≠ 4) && decide (e.ty = .f32 ∨ e.ty = .f16 ∨ e.ty = .bf16)

/-- The records of the operands a, b and c that an instruction of this group meets; `n` is how many it reads. -/
def Site.operandRecords (x : Site) (e : Ext) (i n : Nat) : List (Nat × Baton) :=
  ([(0, x.record? i e.a.toNat), (1, if e.osel = 0 then x.record? i e.b.toNat else none), (2, if n = 3 then x.record? i e.c.toNat else none)]).filterMap
    fun p => p.2.map fun b => (p.1, b)

/-- The operands that stay when the one at a position is taken out. -/
def without (pos a b c : Nat) : Nat × Nat :=
  match pos with
  | 0 => (b, c)
  | 1 => (a, c)
  | _ => (a, b)

/-- The record that a chain step makes, when exactly one operand is a record (R69). -/
def chainStep (op : ChainOp) (e : Ext) (n : Nat) (x : Site) (i : Nat) : Option Slot :=
  if chains e = false then none
  else
    match x.operandRecords e i n with
    | [(pos, b)] =>
      let k := without pos (x.srcA i e) (x.srcB i e) (if n = 3 then x.srcC i e else 0)
      b.extend { op := op, ty := e.ty, rm := e.rs, sub := subOf e, k1 := wd k.1, k2 := wd k.2, pos := pos }
    | _ => none

/-- An instruction of R265 that may extend a chain. -/
def chainOp (op : ChainOp) (n : Nat) (e : Ext) (us : List Use) (s : State) : Out :=
  issueWith (fun x i => (chainStep op e n x i).isSome) e.guard (demand us) s (regEffect fun x i y =>
    match chainStep op e n x i with
    | some r => y.setSlot i e.d.toNat r
    | none => x.drawn e i (lanesOf e.ty) (y.dst32 i e (packLanes e.ty fun j =>
        x.rnd e i j (op.exact (rndOf e) (x.fa e i j) (x.fb e i j) (x.fc e i j)))))

/-- FADD (R265). -/
def opFadd (e : Ext) (s : State) : Out := chainOp .fadd 2 e (uses3 e) s

/-- FSUB (R265). -/
def opFsub (e : Ext) (s : State) : Out := chainOp .fsub 2 e (uses3 e) s

/-- FMUL (R265). -/
def opFmul (e : Ext) (s : State) : Out := chainOp .fmul 2 e (uses3 e) s

/-- The fields d, a, b, c. -/
def uses4 (e : Ext) : List Use := uses3 e ++ [readC e e.ty.regs]

/-- FMA (R265). -/
def opFma (e : Ext) (s : State) : Out := chainOp .fma 3 e (uses4 e) s

/-- FMS (R265). -/
def opFms (e : Ext) (s : State) : Out :=
  rounds e (uses4 e) s fun x i j => x.rnd e i j (ChainOp.fma.exact (rndOf e) (x.fa e i j) (x.fb e i j) (x.fc e i j).neg)

/-- FNMA (R265). -/
def opFnma (e : Ext) (s : State) : Out :=
  rounds e (uses4 e) s fun x i j => x.rnd e i j (ChainOp.fma.exact (rndOf e) (x.fa e i j).neg (x.fb e i j) (x.fc e i j))

/-! ### Picking and signs (R266, R267) -/

/-- An instruction that computes the bits of each element. -/
def lanewise (e : Ext) (us : List Use) (s : State) (f : Nat → Nat → Nat) : Out :=
  perFibre32 e us s fun x i => packLanes e.ty fun j => f (laneOf e.ty (x.srcA i e) j) (laneOf e.ty (x.srcB i e) j)

/-- FMIN and FMAX of two patterns (R266). -/
def pickNum (e : Ext) (mx : Bool) (a b : Nat) : Nat :=
  let f := fmtOf e.ty
  let a := flushed e.ty (subOf e) a
  let b := flushed e.ty (subOf e) b
  if e.mod.getLsbD 1 ∧ f.read a = .nan then (if f.read b = .nan then f.nan else b)
  else if e.mod.getLsbD 1 ∧ f.read b = .nan then a
  else floatPick f mx a b

/-- FMIN (R266). -/
def opFmin (e : Ext) (s : State) : Out := lanewise e (uses3 e) s (pickNum e false)

/-- FMAX (R266). -/
def opFmax (e : Ext) (s : State) : Out := lanewise e (uses3 e) s (pickNum e true)

/-- The weight of the sign bit of an element. -/
def signAt (ty : Ty) : Nat := 2 ^ (fbits ty - 1)

/-- FABS (R267). -/
def opFabs (e : Ext) (s : State) : Out := lanewise e (uses2 e) s fun a _ => a % signAt e.ty

/-- FNEG (R267). -/
def opFneg (e : Ext) (s : State) : Out :=
  lanewise e (uses2 e) s fun a _ => a % signAt e.ty + (if signAt e.ty ≤ a then 0 else signAt e.ty)

/-- FCPYS (R267). -/
def opFcpys (e : Ext) (s : State) : Out :=
  lanewise e (uses3 e) s fun a b => a % signAt e.ty + (if signAt e.ty ≤ b then signAt e.ty else 0)

/-! ### Comparison and class (R268, R269) -/

/-- FCMP (R268): D names the guard, M1[3] is .sub. -/
def opFcmp (e : Ext) (s : State) : Out :=
  issue e.guard (demandG (readA e 1 :: readB e 1)) s (regEffect fun x i y =>
    let g := e.d.toNat % 32
    let sub := e.m1.getLsbD 3
    let res := fcondHolds (bitsOf e.m1.toNat 0 3) (readF e.ty sub (laneOf e.ty (x.srcA i e) 0)) (readF e.ty sub (laneOf e.ty (x.srcB i e) 0))
    y.setGuard i g (combineGuard e.mod.toNat (x.guard i g) res))

/-- The class bit of a pattern (Table 17.2). -/
def FFmt.classBit (f : FFmt) (v : Nat) : Nat :=
  match f.read v with
  | .nan => if bitsOf v (f.mb - 1) 1 = 1 then 9 else 8
  | .inf n => if n then 0 else 7
  | .fin n m _ =>
    if m = 0 then (if n then 3 else 4)
    else if f.tiny v then (if n then 2 else 5)
    else if n then 1 else 6

/-- FCLASS (R269). -/
def opFclass (e : Ext) (s : State) : Out :=
  perFibre32 e (uses2 e) s fun x i => 2 ^ (fmtOf e.ty).classBit (laneOf e.ty (x.srcA i e) 0)

/-! ### Division, roots and functions (R270, R271) -/

/-- An instruction of one operand whose exact value is known up to a remainder. -/
def unaryCut (e : Ext) (s : State) (f : Fp → Cut) : Out :=
  rounds e (uses2 e) s fun x i j => x.rnd e i j (f (x.fa e i j)).val (f (x.fa e i j)).sticky

/-- FRCP (R270). -/
def opFrcp (e : Ext) (s : State) : Out := unaryCut e s (Fp.div (.fin false 1 0))

/-- FRSQ (R270). -/
def opFrsq (e : Ext) (s : State) : Out := unaryCut e s Fp.rsqrt

/-- FSQRT (R270). -/
def opFsqrt (e : Ext) (s : State) : Out := unaryCut e s Fp.sqrt

/-- FDIV (R270). -/
def opFdiv (e : Ext) (s : State) : Out :=
  rounds e (uses3 e) s fun x i j =>
    let q := Fp.div (x.fa e i j) (x.fb e i j)
    x.rnd e i j q.val q.sticky

/-- An instruction of R271. -/
def funcOp (e : Ext) (s : State) (f : FFmt → Nat → Nat → Fp → Nat) : Out :=
  rounds e (uses2 e) s fun x i j => f (fmtOf e.ty) (rndOf e) (x.draw e i j) (x.fa e i j)

/-- FEXP2 (R271). -/
def opFexp2 (e : Ext) (s : State) : Out := funcOp e s FFmt.exp2

/-- FLOG2 (R271). -/
def opFlog2 (e : Ext) (s : State) : Out := funcOp e s FFmt.log2

/-- FSIN (R271). -/
def opFsin (e : Ext) (s : State) : Out := funcOp e s FFmt.sin

/-- FCOS (R271). -/
def opFcos (e : Ext) (s : State) : Out := funcOp e s FFmt.cos

/-- FTANH (R271). -/
def opFtanh (e : Ext) (s : State) : Out := funcOp e s FFmt.tanh

/-! ### FRND and FSCALE (R272) -/

/-- A value rounded to an integer in a mode; NaN and infinities stay. -/
def Fp.integral (mode u : Nat) : Fp → Fp
  | .nan => .nan
  | .inf n => .inf n
  | .fin n m e => .fin n (roundUnits mode n m e false 0 u) 0

/-- FRND (R272). -/
def opFrnd (e : Ext) (s : State) : Out :=
  rounds e (uses2 e) s fun x i j => (fmtOf e.ty).round 0 0 ((x.fa e i j).integral (rndOf e) (x.draw e i j))

/-- A value times 2^k. -/
def Fp.scale (k : Int) : Fp → Fp
  | .nan => .nan
  | .inf n => .inf n
  | .fin n m e => .fin n m (e + k)

/-- The shift of FSCALE; beyond 4,096 either way no result of any format changes any more. -/
def Site.scaleBy (x : Site) (i : Nat) (e : Ext) : Int := max (-4096) (min 4096 (toSigned 32 (x.src32 i e)))

/-- FSCALE (R272). -/
def opFscale (e : Ext) (s : State) : Out :=
  rounds e ([useD e 1, readA e 1] ++ readB e 1) s fun x i j => x.rnd e i j ((x.fa e i j).scale (x.scaleBy i e))

/-! ### The meanings, one for each row of the opcode table -/

/-- FADD (R265), the short form (R164). -/
def execFadd (x : BitVec 7) (a : BitVec 8) (d : BitVec 8) (s : State) : Out := opFadd (shortReg .f32 x a d) s

/-- FADD_EXT (R265). -/
def execFaddExt (e : Ext) (s : State) : Out := opFadd e s

/-- FSUB (R265), the short form (R164). -/
def execFsub (x : BitVec 7) (a : BitVec 8) (d : BitVec 8) (s : State) : Out := opFsub (shortReg .f32 x a d) s

/-- FSUB_EXT (R265). -/
def execFsubExt (e : Ext) (s : State) : Out := opFsub e s

/-- FMUL (R265), the short form (R164). -/
def execFmul (x : BitVec 7) (a : BitVec 8) (d : BitVec 8) (s : State) : Out := opFmul (shortReg .f32 x a d) s

/-- FMUL_EXT (R265). -/
def execFmulExt (e : Ext) (s : State) : Out := opFmul e s

/-- FMA (R265). -/
def execFma (e : Ext) (s : State) : Out := opFma e s

/-- FMS (R265). -/
def execFms (e : Ext) (s : State) : Out := opFms e s

/-- FNMA (R265). -/
def execFnma (e : Ext) (s : State) : Out := opFnma e s

/-- FMIN (R266), the short form (R164). -/
def execFmin (x : BitVec 7) (a : BitVec 8) (d : BitVec 8) (s : State) : Out := opFmin (shortReg .f32 x a d) s

/-- FMIN_EXT (R266). -/
def execFminExt (e : Ext) (s : State) : Out := opFmin e s

/-- FMAX (R266), the short form (R164). -/
def execFmax (x : BitVec 7) (a : BitVec 8) (d : BitVec 8) (s : State) : Out := opFmax (shortReg .f32 x a d) s

/-- FMAX_EXT (R266). -/
def execFmaxExt (e : Ext) (s : State) : Out := opFmax e s

/-- FABS (R267), the short form (R164). -/
def execFabs (a : BitVec 8) (d : BitVec 8) (s : State) : Out := opFabs (shortFn .f32 0 a d) s

/-- FABS_EXT (R267). -/
def execFabsExt (e : Ext) (s : State) : Out := opFabs e s

/-- FNEG (R267), the short form (R164). -/
def execFneg (a : BitVec 8) (d : BitVec 8) (s : State) : Out := opFneg (shortFn .f32 1 a d) s

/-- FNEG_EXT (R267). -/
def execFnegExt (e : Ext) (s : State) : Out := opFneg e s

/-- FCPYS (R267). -/
def execFcpys (e : Ext) (s : State) : Out := opFcpys e s

/-- FCMP (R268). -/
def execFcmp (e : Ext) (s : State) : Out := opFcmp e s

/-- FCLASS (R269), the short form (R164). -/
def execFclass (a : BitVec 8) (d : BitVec 8) (s : State) : Out := opFclass (shortFn .f32 0 a d) s

/-- FCLASS_EXT (R269). -/
def execFclassExt (e : Ext) (s : State) : Out := opFclass e s

/-- FRCP (R270), the short form (R164). -/
def execFrcp (a : BitVec 8) (d : BitVec 8) (s : State) : Out := opFrcp (shortFn .f32 0 a d) s

/-- FRCP_EXT (R270). -/
def execFrcpExt (e : Ext) (s : State) : Out := opFrcp e s

/-- FRSQ (R270), the short form (R164). -/
def execFrsq (a : BitVec 8) (d : BitVec 8) (s : State) : Out := opFrsq (shortFn .f32 1 a d) s

/-- FRSQ_EXT (R270). -/
def execFrsqExt (e : Ext) (s : State) : Out := opFrsq e s

/-- FSQRT (R270), the short form (R164). -/
def execFsqrt (a : BitVec 8) (d : BitVec 8) (s : State) : Out := opFsqrt (shortFn .f32 2 a d) s

/-- FSQRT_EXT (R270). -/
def execFsqrtExt (e : Ext) (s : State) : Out := opFsqrt e s

/-- FDIV (R270), the short form (R164). -/
def execFdiv (x : BitVec 7) (a : BitVec 8) (d : BitVec 8) (s : State) : Out := opFdiv (shortReg .f32 x a d) s

/-- FDIV_EXT (R270). -/
def execFdivExt (e : Ext) (s : State) : Out := opFdiv e s

/-- FEXP2 (R271), the short form (R164). -/
def execFexp2 (a : BitVec 8) (d : BitVec 8) (s : State) : Out := opFexp2 (shortFn .f32 0 a d) s

/-- FEXP2_EXT (R271). -/
def execFexp2Ext (e : Ext) (s : State) : Out := opFexp2 e s

/-- FLOG2 (R271), the short form (R164). -/
def execFlog2 (a : BitVec 8) (d : BitVec 8) (s : State) : Out := opFlog2 (shortFn .f32 1 a d) s

/-- FLOG2_EXT (R271). -/
def execFlog2Ext (e : Ext) (s : State) : Out := opFlog2 e s

/-- FSIN (R271), the short form (R164). -/
def execFsin (a : BitVec 8) (d : BitVec 8) (s : State) : Out := opFsin (shortFn .f32 2 a d) s

/-- FSIN_EXT (R271). -/
def execFsinExt (e : Ext) (s : State) : Out := opFsin e s

/-- FCOS (R271), the short form (R164). -/
def execFcos (a : BitVec 8) (d : BitVec 8) (s : State) : Out := opFcos (shortFn .f32 3 a d) s

/-- FCOS_EXT (R271). -/
def execFcosExt (e : Ext) (s : State) : Out := opFcos e s

/-- FTANH (R271), the short form (R164). -/
def execFtanh (a : BitVec 8) (d : BitVec 8) (s : State) : Out := opFtanh (shortFn .f32 4 a d) s

/-- FTANH_EXT (R271). -/
def execFtanhExt (e : Ext) (s : State) : Out := opFtanh e s

/-- FRND (R272), the short form (R164). -/
def execFrnd (a : BitVec 8) (d : BitVec 8) (s : State) : Out := opFrnd (shortFn .f32 0 a d) s

/-- FRND_EXT (R272). -/
def execFrndExt (e : Ext) (s : State) : Out := opFrnd e s

/-- FSCALE (R272), the short form (R164). -/
def execFscale (x : BitVec 7) (a : BitVec 8) (d : BitVec 8) (s : State) : Out := opFscale (shortReg .f32 x a d) s

/-- FSCALE_EXT (R272). -/
def execFscaleExt (e : Ext) (s : State) : Out := opFscale e s

end Sys2Proof.Machine
end

