-- ==== Sys2Proof/Machine/Batons.lean ====
section
/-!
DEFINITION. The arrival of values: resolving the records of a tag (R71, R72).
-/

namespace Sys2Proof.Machine

/-- One step of a chain on an arrived value, rounded as its instruction rounds (R69, R71). -/
def ChainStep.apply (c : ChainStep) (v : Word) : Word :=
  let rd (w : Word) : Fp := readF c.ty c.sub (laneOf c.ty w.toNat 0)
  let (x, y, z) := match c.pos with
    | 0 => (v, c.k1, c.k2)
    | 1 => (c.k1, v, c.k2)
    | _ => (c.k1, c.k2, v)
  wd ((fmtOf c.ty).round c.rm.toNat 0 (c.op.exact c.rm.toNat (rd x) (rd y) (rd z)))

/-- What a record becomes when its value arrives: a word, through the scale, the offset and the chain (R71). -/
def Baton.value (b : Baton) (ws : List Word) : Word := b.chain.foldl (fun v c => c.apply v) (b.a * ws.getD b.part 0 + b.b)

/-- A slot when an access delivers to its fibre: every pending record of the tag is resolved (R71). -/
def Slot.resolve (tag : BitVec 6) (pc : Pc) (ord : Nat) (d : Deliv) : Slot → Slot
  | .val v => .val v
  | .bat b =>
    if b.tag ≠ tag ∨ b.st ≠ .pending then .bat b
    else
      match d with
      | .words ws => .val (b.value ws)
      | .fault c info => .bat { b with a := 1, b := 0, chain := [], st := .fault c pc info ord }

/-- Resolve the records of a fibre: its own slots and its share of the pair's extended set. -/
def Site.resolve (x : Site) (f : Flight) (i : Nat) (d : Deliv) : Site :=
  let r := Slot.resolve f.tag f.pc f.ord d
  let y := x.updFibre i fun g => { g with regs := g.regs.map r }
  if y.holdsX then
    { y with team := { y.team with xsets := y.team.xsets.map fun e =>
        if e.squad = y.squad ∧ e.low = pairLow y.heatNo then { e with regs := e.regs.modify i fun l => l.map r } else e } }
  else y

/-- The unit before the loads of a flight and of those after it: an access waits for the earlier ones alone (R126). -/
def Site.before (x : Site) (f : Flight) : Site := { x with heat := { x.heat with flights := x.heat.flights.filter fun g => g.ord < f.ord } }

/-- What a load that has waited delivers once it is performed, with the page on which it met a translation fault (R342, R344). -/
def State.deliverLoad (s : State) (x : Site) (f : Flight) (el : FlightElem) : Option Deliv × Option Nat × State :=
  match s.performLoad (x.before f) f el.fibre el.ea.toNat el.index.toNat with
  | (.value v, s) => (some (.words (loadWords f.ty v)), none, s)
  | (.fault c, s) => (some (.fault c el.ea), none, s)
  | (.page va, s) =>
    (if x.failedPageFor (.load x.u.who f.tag el.fibre) va then some (.fault cause.pageRequestFailed el.ea) else none, some va, s)
  | (.hold, s) | (.order, s) => (none, none, s)

/-- What an element delivers now, if its data is there: an arrived value, a load whose fibre has performed its earlier ones (R126), or a copy-channel
load whose condition holds or whose channel failed (R232). -/
def State.deliverElem (s : State) (x : Site) (f : Flight) (el : FlightElem) : Option Deliv × Option Nat × State :=
  match el.waits with
  | .arrival => (some el.deliv, none, s)
  | .translate => (none, none, s)
  | .claim _ _ _ => (none, none, s)
  | .order => s.deliverLoad x f el
  | .channel c t =>
    match s.ready x.team.cl (some (c, t)) with
    | .no => (none, none, s)
    | .failed => (some (.fault cause.protection el.ea), none, s)
    | .yes => (s.seeTarget x (some (c, t))).deliverLoad x f el

/-- Deliver the elements of a flight that are there; the answer holds those that are not, with the unit and state after it. -/
def State.deliverEach (s : State) (x : Site) (f : Flight) : List FlightElem → State × Site × List FlightElem
  | [] => (s, x, [])
  | el :: r =>
    let user : PageUser := .load x.u.who f.tag el.fibre
    match s.deliverElem x f el with
    | (some d, pg, s1) =>
      let x := match pg with
        | some va => x.forgetPageFor user va
        | none => x
      s1.deliverEach (x.resolve f el.fibre d) f r
    | (none, pg, s1) =>
      let x := match pg with
        | some va => x.wantPageFor user va
        | none => x
      match s1.deliverEach x f r with
      | (s2, y, left) => (s2, y, el :: left)

/-- Count the lines that late loads of a flight hit, each line once for the instruction (R111); `s0` is the state before them. -/
def State.countLate (s0 : State) (x : Site) (f : Flight) (els : List FlightElem) (s : State) : State × Flight :=
  let hits := (s0.hitLines x f (els.map fun el => (el.fibre, el.ea.toNat, el.index.toNat))).filter fun p => p.2 ∉ f.hits
  (State.countHits s0 x hits s, { f with hits := f.hits ++ (hits.map Prod.snd).dedup })

/-- Take a flight's delivered elements out; a flight without elements frees its tag. -/
def Heat.setFlight (h : Heat) (f : Flight) (left : List FlightElem) : Heat :=
  { h with flights := h.flights.filterMap fun g =>
      if g.tag = f.tag then (if left = [] then none else some { f with elems := left }) else some g }

/-- Resolve the records of a tag as far as its data is there (R71). -/
def State.arrive (s : State) (u : UnitRef) (tag : BitVec 6) : State :=
  match s.site? u with
  | none => s
  | some x =>
    match x.heat.flights.find? fun f => f.tag = tag with
    | none => s
    | some f =>
      let (s1, y, left) := s.deliverEach x f f.elems
      let late := f.elems.filter fun el => decide (el ∉ left) && (el.waits == .order || (el.waits != .arrival && el.cpy.isSome))
      let (s1, f) := s.countLate x f late s1
      let y := { y with heat := y.heat.setFlight f left }
      let (s1, y) := if f.acq ∧ late ≠ [] then s1.acquireAt y (scopeOf f.rs) else (s1, y)
      s1.put y

/-- The unit's team is resident on a die that runs. -/
def State.residentUnit (s : State) (u : UnitRef) : Bool := ((s.team? u.team).map fun t => decide (t.st = .resident)).getD false

/-- VALUE_ARRIVAL (R71). -/
def execValueArrival (u : UnitRef) (tag : BitVec 6) (s : State) : Out := .next (if s.residentUnit u then s.arrive u tag else s)

end Sys2Proof.Machine
end

