-- ==== Sys2Proof/Machine/Atomics.lean ====
section
/-!
DEFINITION. Atomics, reductions, fences and values in flight: opcodes 0x2F to 0x35 (R97, R136 to R140, R238 to R244, R361).
-/

namespace Sys2Proof.Machine

/-! ### Atomics (R136, R239 to R241) -/

/-- Where an atomic on a PHASE page is performed (R136, R137). -/
inductive AtPlace where
  | squad | team | home
  deriving DecidableEq, Repr

/-- The place that a scope selects. -/
def State.atPlace (s : State) (x : Site) (sc : Scope) : AtPlace :=
  let near : AtPlace := if s.hasCache x.team.cl then .team else .home
  match sc with
  | .ht => if x.isPacer then near else .squad
  | .sq => if x.isPacer then near else .squad
  | .tm => near
  | _ => .home

/-- Change the layer of the unit's squad. -/
def Site.updSq (x : Site) (f : List LayerByte → List LayerByte) : Site :=
  if x.isPacer then x else { x with team := { x.team with sqLayer := x.team.sqLayer.modify x.squad f } }

/-- Change the layer of the unit's team. -/
def Site.updTm (x : Site) (f : List LayerByte → List LayerByte) : Site := { x with team := { x.team with tmLayer := f x.team.tmLayer } }

/-- Another team's place in the same cluster cache: its layer holds results of atomics performed there (R137). -/
def Team.sharesCache (t : Team) (x : Site) : Bool := decide (t.id ≠ x.team.id ∧ t.cl = x.team.cl ∧ t.st = .resident)

/-- A byte that an atomic performed in the cluster cache for another team left there (R136, R137). -/
def State.cacheByte (s : State) (x : Site) (pa : Nat) : Option Byte :=
  s.teams.findSome? fun t => if t.sharesCache x then layerGet (t.tmLayer.filter LayerByte.amo) pa else none

/-- Bytes of a PHASE page as an atomic of a unit reads them at its place: over the home, in the cluster cache, what other teams' atomics left there. -/
def State.atomicBytes (s : State) (x : Site) (pa : Nat) (under : List Byte) (pl : AtPlace) : List Byte :=
  let wide := s.wideOver x.team.cl.die pa under
  x.phaseBytes pa (if pl = .team then wide.zipIdx.map fun b => (s.cacheByte x (pa + b.2)).getD b.1 else wide)

/-- The results that other teams' atomics left in the cluster cache follow an atomic performed there: one place holds the location (R137). -/
def State.cacheFollow (s : State) (x : Site) (pa : Nat) (bs : List Byte) : State :=
  let upd (b : LayerByte) : LayerByte := if b.amo ∧ pa ≤ b.pa then { b with byte := bs.getD (b.pa - pa) b.byte } else b
  { s with teams := s.teams.map fun t => if t.sharesCache x then { t with tmLayer := t.tmLayer.map upd } else t }

/-- Write the result of an atomic on a PHASE page at its place (R127, R136); the unit's own earlier stores to the bytes are
superseded. -/
def State.phaseAtomic (s : State) (x : Site) (pa : Nat) (bs : List Byte) : AtPlace → State × Site
  | .squad =>
    let x := { x with heat := { x.heat with ws := wsDrop x.heat.ws pa bs.length } }
    (s, x.updSq fun l => layerWrite l x.u s.cur.pc pa bs)
  | .team =>
    let x := { x with heat := { x.heat with ws := wsDrop x.heat.ws pa bs.length } }
    let tm := x.team.tmLayer
    (s.cacheFollow x pa bs, (x.passed (addresses pa bs.length)).updTm fun _ => layerWrite tm x.u s.cur.pc pa bs)
  | .home => s.phaseHome x pa bs

/-- A read and a conditional write of a location of a page, indivisible (R124, R136): of a PRIV line in the unit's nearest cache, of a PHASE page
where the scope says, of a SEQ page at its home. Copies of a SEQ line are invalidated before the write is performed (R359). -/
def State.rmw (s : State) (x : Site) (h : Hit) (pa n : Nat) (sc : Scope) (f : Nat → Option Nat) : Nat × State × Site :=
  match h.cls with
  | .priv =>
    let (bs, s) := match s.copyFor x .priv (pa / 64) with
      | some c => (c.slice pa n, s)
      | none => s.homeRead pa n
    let old := leNat bs
    match f old with
    | some v => (old, s.storePriv x h pa (leBytes v n), x)
    | none => (old, s, x)
  | .phase =>
    let pl := s.atPlace x sc
    let (under, s) := (s.useHome h (pa / 64)).homeRead pa n
    let s := s.renew x (addresses pa n)
    let old := leNat (s.atomicBytes x pa under pl)
    match f old with
    | some v =>
      let (s, x) := s.phaseAtomic x pa (leBytes v n) pl
      (old, s, x)
    | none => (old, s, x)
  | _ =>
    let (bs, s) := (if (s.notifyVf pa).isSome then s else s.useHome h (pa / 64)).seqRead pa n
    let old := leNat bs
    match f old with
    | some v => (old, (s.dropCopies fun c => c.cls = .seq ∧ c.line = pa / 64).seqWrite pa (leBytes v n), x)
    | none => (old, s, x)

/-- The same at any location of the unit. -/
def State.rmwAt (s : State) (x : Site) (form : AccForm) (fib ea n : Nat) (sc : Scope) (f : Nat → Option Nat) : Nat × State × Site :=
  match x.check fib ea n n with
  | .error _ => (0, s, x)
  | .ok (.virt va) =>
    match s.reachX x va .store form with
    | .error _ => (0, s, x)
    | .ok h => s.rmw x h (h.phys va) n sc f
  | .ok l =>
    let old := leNat (x.readLocal n l)
    match f old with
    | some v => (old, s, x.writeLocal (leBytes v n) l)
    | none => (old, s, x)

/-- The legality column of an atomic (Table 11.2). -/
def atomicForm (sc : Scope) : AccForm :=
  match sc with
  | .ht | .sq => .near
  | _ => .far

/-- A location that an atomic also reads has no load permission (log entry 21), which is tested with the store permission, before the class (R226). -/
def State.unreadable (s : State) (x : Site) (fib ea n : Nat) : Bool :=
  match x.check fib ea n n with
  | .ok (.virt va) =>
    match s.reachX x va .load .plain with
    | .error (.early _) => true
    | _ => false
  | _ => false

/-- What an atomic of one fibre meets: an earlier SEQ access of the unit comes first (R126); poison at its place discards it (R374); copies outside the package
of a SEQ line, and of a PHASE line where it is performed at the home, go first (R359, R366). -/
def State.atomicMeets (s : State) (x : Site) (form : AccForm) (reads home : Bool) (fib ea n : Nat) : Meets :=
  if reads ∧ s.unreadable x fib ea n then .precise cause.protection
  else
    match s.meetsOf x form s.granules fib ea n with
    | .fine =>
      match x.check fib ea n n with
      | .ok (.virt va) =>
        match s.reachX x va .store form with
        | .ok h =>
          if s.orderWaits x fib h false then .hold
          else if s.loadPoison x h (h.phys va) n (decide (form = .far) || home) then .deferred cause.poison (dw ea)
          else if (h.cls = .seq ∧ (s.notifyVf (h.phys va)).isNone) ∨ (h.cls = .phase ∧ home) then s.askFor h.cls (h.phys va) n
          else .fine
        | .error _ => .fine
      | _ => .fine
    | m => m

/-- What an atomic answers for one fibre. -/
inductive AtGot where
  | old (v : Nat)
  | bad (c : Byte)
  deriving DecidableEq, Repr

/-- Perform the atomics of the fibres in ascending slot order (R225): a fault of the third row of Table 16.1 discards that
fibre's write. -/
def State.eachAtomic (s : State) (x : Site) (form : AccForm) (n : Nat) (sc : Scope) (f : Nat → Nat → Option Nat) :
    List (Nat × Nat) → List (Nat × Nat × AtGot) × State × Site
  | [] => ([], s, x)
  | (i, ea) :: r =>
    let (g, s, x) := match s.atomicMeets x form true (decide (s.atPlace x sc = .home)) i ea n with
      | .fine =>
        let (v, s, x) := s.rmwAt x form i ea n sc (f i)
        (AtGot.old v, s, x)
      | .deferred c _ => (.bad c, s, x)
      | _ => (.bad cause.protection, s, x)
    let (gs, s, x) := s.eachAtomic x form n sc f r
    ((i, ea, g) :: gs, s, x)

/-- The modes of MOD[1:0] of AMO and CAS (Table 16.3). -/
def acquires (e : Ext) : Bool := bitsOf e.mod.toNat 0 1 = 1
def releases (e : Ext) : Bool := bitsOf e.mod.toNat 1 1 = 1

/-- A bf16 old value is zero-extended; every other 32-bit or 64-bit value stands as it is (R239). -/
def oldWords (ty : Ty) (v : Nat) : List Word := (List.range ty.regs).map fun k => wd (v / 2 ^ (32 * k))

/-- Deliver the old values, or leave batons when the oracle says that they have not arrived (R66). -/
def State.giveOld (s : State) (x : Site) (e : Ext) (acq : Bool) (gs : List (Nat × Nat × AtGot)) : Option (State × Site) :=
  let later : Bool := !x.isPacer && s.choice ≠ 0
  let n := e.ty.regs
  if later then
    (s.freeTag x).map fun tag =>
      let el (g : Nat × Nat × AtGot) : FlightElem :=
        { fibre := g.1, reg := x.slotNo g.1 e.d.toNat, ea := dw g.2.1, index := 0, waits := .arrival,
          deliv := match g.2.2 with | .old v => .words (oldWords e.ty v) | .bad c => .fault c (dw g.2.1) }
      let f : Flight := { tag := tag, ord := x.heat.issued, kind := .atomic, pc := s.cur.pc, ty := e.ty, rs := e.rs, acq := acq, vol := false,
                          rc := 0, elems := gs.map el }
      let y := gs.foldl (fun y g => y.putRecord g.1 e.d.toNat tag .pending 0 n) x
      (s.chosen, { y with heat := { y.heat with flights := y.heat.flights ++ [f] } })
  else
    some (s.chosen, gs.foldl (fun y g => match g.2.2 with
      | .old v => y.putWords g.1 e.d.toNat (oldWords e.ty v)
      | .bad c => y.putRecord g.1 e.d.toNat 0 (.fault c s.cur.pc (dw g.2.1) x.heat.issued) 0 n) x)

/-- A value-returning atomic of the pacer waits for its value, and holds no record (R63, R230): a fault that would resolve one is taken as a precise
trap at the instruction (log entry 64). -/
def Site.ownFault (x : Site) (ms : List (Nat × Nat × Meets)) : Option (Nat × Byte × DWord) :=
  if x.isPacer then ms.findSome? fun m => (match m.2.2 with | .deferred c info => some (m.1, c, info) | _ => none) else none

/-- AMO and CAS (R238 to R241): `f` gives the new value of a location for a fibre. -/
def atomicOp (e : Ext) (us : List Use) (returns : Bool) (f : Site → Nat → Nat → Option Nat) (s : State) : Out :=
  let n := memBytes e.ty
  let sc := scopeOf e.rs
  let form := atomicForm sc
  issue e.guard (demand us) s fun s1 x is =>
    let as := is.map fun i => (i, x.val i e.a.toNat 2)
    match x.badAddress n n as with
    | some (i, a, c) => s1.trap x is c i (dw a)
    | none =>
      if x.fullCount is.length then s.stall
      else
        let ms := as.map fun p => (p.1, p.2, s1.atomicMeets x form true (decide (s1.atPlace x sc = .home)) p.1 p.2 n)
        s.sortMeets s1 x is ms fun _ =>
          let go (s2 : State) (y : Site) : Out :=
            let (gs, s3, z) := s2.eachAtomic y form n sc (f x) as
            let fin (s4 : State) (z : Site) : Out :=
              let (s5, z) := if acquires e then s4.acquireAt z sc else (s4, z)
              .next (s5.done z)
            if returns then
              match s3.giveOld z e (acquires e) gs with
              | some (s4, z) => fin s4 z
              | none => s.stall
            else
              fin s3 (gs.foldl (fun z g => match g.2.2 with
                | .old _ => z
                | .bad c => z.deferOwn s3 c g.1 (s3.accessInfo z g.1 g.2.1 c)) z)
          match (if returns then x.ownFault ms else none) with
          | some (i, c, info) => s1.trap x is c i info
          | none => if releases e then s.releaseThen s1 x sc go else go s1 x

/-- AMO (R239). -/
def opAmo (e : Ext) (s : State) : Out :=
  let nr := e.mod.getLsbD 2
  let us := (if nr then [] else [useD e e.ty.regs]) ++ [readA e 2] ++ readB e e.ty.regs
  atomicOp e us (!nr) (fun x i old => some (amoOp e.x.toNat e.ty old (x.srcB i e % 2 ^ e.ty.bits))) s

/-- CAS (R240). -/
def opCas (e : Ext) (s : State) : Out :=
  let us := [useD e e.ty.regs, readA e 2] ++ readB e e.ty.regs ++ [readC e e.ty.regs]
  atomicOp e us true (fun x i old => if old = x.srcB i e % 2 ^ e.ty.bits then some (x.srcC i e) else none) s

/-! ### Reductions (R97, R242, R361) -/

/-- A contribution to a location. -/
structure Contrib where
  h  : Hit
  pa : Nat
  v  : Nat
  deriving DecidableEq, Repr

/-- Combine the fibres' contributions to one location, in ascending slot order (R361 step 1). -/
def combineContribs (op : Nat) (ty : Ty) : List Contrib → List Contrib → List Contrib
  | acc, [] => acc
  | acc, c :: r =>
    combineContribs op ty
      (if acc.any fun d => d.pa = c.pa then acc.map fun d => if d.pa = c.pa then { d with v := amoOp op ty d.v c.v } else d
       else acc ++ [c]) r

/-- Return the U line that a cluster holds of a line to its home (R362). -/
def State.returnU (s : State) (cl : ClusterRef) (line : Nat) : State :=
  let mine (l : ULine) : Bool := decide (l.cl = cl ∧ l.pa / 64 = line)
  { s with mem := (s.ulines.filter mine).foldl applyU s.mem, ulines := s.ulines.filter fun l => !mine l }

/-- The U lines of a cluster's combining buffer, the oldest first. -/
def State.bufferLines (s : State) (cl : ClusterRef) : List Nat := ((s.ulines.filter fun l => l.cl = cl).map fun l => l.pa / 64).dedup

/-- A contribution enters the cluster combining buffer (R361): combined with the one it holds for the location, else placed in its line; one that
cannot combine returns the line first. A buffer of 256 U lines returns its oldest to make room (R362), and the directory records the cluster. -/
def State.putU (s : State) (cl : ClusterRef) (op : Nat) (ty : Ty) (c : Contrib) : State :=
  let n := memBytes ty
  let same (l : ULine) : Bool := l.cl = cl && l.pa = c.pa && l.ty = ty && l.op = op
  if s.ulines.any same then { s with ulines := s.ulines.map fun l => if same l then { l with val := dw (amoOp op ty l.val.toNat c.v) } else l }
  else
    let s := if s.ulines.any fun l => l.cl = cl ∧ decide (l.pa < c.pa + n ∧ c.pa < l.pa + l.bytes) then s.returnU cl (c.pa / 64) else s
    let held := s.bufferLines cl
    let s := if c.pa / 64 ∈ held ∨ held.length < 256 then s else s.returnU cl (held.headD 0)
    ({ s with ulines := s.ulines ++ [{ cl := cl, pa := c.pa, ty := ty, op := op, val := dw c.v }] } : State).track (.clus cl) c.pa 0

/-- RED at one location outside the combining path: at the bank, in a PRIV copy, at the home of a SEQ page at .tm or nearer, or at a notify page (R242). -/
def State.redAt (s : State) (x : Site) (form : AccForm) (sc : Scope) (op : Nat) (ty : Ty) (i ea v : Nat) : State × Site :=
  let (_, s, x) := s.rmwAt x form i ea (memBytes ty) sc fun old => some (amoOp op ty old v)
  (s, x)

/-- The contribution of one fibre that enters the combining path: one to memory behind a PHASE page, or at .di or wider behind a SEQ page (R242, R361). -/
def State.contrib (s : State) (x : Site) (form : AccForm) (sc : Scope) (n i ea v : Nat) : Option Contrib :=
  match x.check i ea n n with
  | .ok (.virt va) =>
    match s.reachX x va .store form with
    | .ok h =>
      if (h.cls = .phase ∨ (h.cls = .seq ∧ sc.far)) ∧ s.notifyVf (h.phys va) = none then some { h := h, pa := h.phys va, v := v } else none
    | .error _ => none
  | _ => none

/-- Somebody's bytes that the unit reads at some addresses have not reached the home: its own stores, or what was published less widely. -/
def State.nearAt (s : State) (x : Site) (pas : List Nat) : Bool :=
  let die := x.team.cl.die
  pas.any fun a => (wsGet x.heat.ws a).isSome || (layerGet x.sqLayer a).isSome || (layerGet x.team.tmLayer a).isSome ||
    (layerGet (s.wideAt (some die)) a).isSome || (layerGet (s.wideAt none) a).isSome

/-- A layer whose bytes of a range take new values. -/
def layerSet (l : List LayerByte) (pa : Nat) (bs : List Byte) : List LayerByte :=
  l.map fun b => if b.pack.isNone ∧ pa ≤ b.pa ∧ b.pa < pa + bs.length then { b with byte := bs.getD (b.pa - pa) b.byte } else b

/-- Stores to a location of a PHASE page that the unit reads and that have not reached the home come before its contribution there (R120, R124): the
contribution joins them where they stand, so that every load that returns one of them includes it (R136), and they become visible through releases alone
(R127). -/
def State.redNear (s : State) (x : Site) (op : Nat) (ty : Ty) (c : Contrib) : State × Site :=
  let n := memBytes ty
  if c.h.cls ≠ .phase ∨ s.nearAt x (addresses c.pa n) = false then (s, x)
  else
    let add (bs : List Byte) : List Byte := leBytes (amoOp op ty (leNat bs) c.v) n
    let die := x.team.cl.die
    let (b0, s) := s.homeRead c.pa n
    let b1 := layerOver (s.wideAt none) c.pa b0
    let b2 := layerOver (s.wideAt (some die)) c.pa b1
    let b3 := layerOver x.team.tmLayer c.pa b2
    let b4 := layerOver x.sqLayer c.pa b3
    let b5 := x.phaseBytes c.pa b2
    let ws := x.heat.ws.map fun w => if c.pa ≤ w.pa ∧ w.pa < c.pa + n then { w with byte := (add b5).getD (w.pa - c.pa) w.byte } else w
    let y := ({ x with heat := { x.heat with ws := ws } }.updSq fun l => layerSet l c.pa (add b4)).updTm fun l => layerSet l c.pa (add b3)
    let t := if s.wide.isEmpty then s
      else (s.setWide (some die) (layerSet (s.wideAt (some die)) c.pa (add b2))).setWide none (layerSet (s.wideAt none) c.pa (add b1))
    (t, y)

/-- One combined contribution: into a U line at .di or wider (R361), else at the home at once. The leased and cached copies of its line go, since a later load
includes every acknowledged contribution (R136). -/
def State.sendU (s : State) (x : Site) (sc : Scope) (op : Nat) (ty : Ty) (c : Contrib) : State × Site :=
  let n := memBytes ty
  let (s, x) := s.redNear x op ty c
  let s := (s.overtake x.team.id (addresses c.pa n)).dropCopies fun d => d.line = c.pa / 64 ∧ (d.cls = .seq ∨ d.cls = .phase)
  if sc.far then (s.putU x.team.cl op ty c, x)
  else
    let (old, s) := s.homeRead c.pa n
    (s.homeWrite c.pa (leBytes (amoOp op ty (leNat old) c.v) n), x)

/-- RED of the fibres (R242): the contributions that enter the combining path combine in the core first (R361); the others are performed one by one. -/
def State.eachRed (s : State) (x : Site) (e : Ext) (form : AccForm) (sc : Scope) (as : List (Nat × Nat × Nat)) : State × Site :=
  let n := memBytes e.ty
  let hits := as.map fun p => (p, s.contrib x form sc n p.1 p.2.1 p.2.2)
  let (s, x) := (combineContribs e.x.toNat e.ty [] (hits.filterMap Prod.snd)).foldl (fun (s, x) c => s.sendU x sc e.x.toNat e.ty c) (s, x)
  (hits.filter fun p => p.2.isNone).foldl (fun (s, x) p => s.redAt x form sc e.x.toNat e.ty p.1.1 p.1.2.1 p.1.2.2) (s, x)

/-- RED (R242). -/
def opRed (e : Ext) (s : State) : Out :=
  let n := memBytes e.ty
  let sc := scopeOf e.rs
  let form := atomicForm sc
  issue e.guard (demand (readA e 2 :: readB e e.ty.regs)) s fun s1 x is =>
    let as := is.map fun i => (i, x.val i e.a.toNat 2)
    match x.badAddress n n as with
    | some (i, a, c) => s1.trap x is c i (dw a)
    | none =>
      if x.fullCount is.length then s.stall
      else
        let ms := as.map fun p => (p.1, p.2, s1.atomicMeets x form false true p.1 p.2 n)
        s.sortMeets s1 x is ms fun _ =>
          let fine := ms.filter fun m => m.2.2 = .fine
          let (s2, y) := s1.eachRed x e form sc (fine.map fun m => (m.1, m.2.1, x.srcB m.1 e % 2 ^ e.ty.bits))
          let y := ms.foldl (fun y m => match m.2.2 with
            | .deferred c info => y.deferOwn s1 c m.1 info
            | _ => y) y
          .next (s2.done y)

/-! ### FENCE, PHASE and WDRAIN (R138 to R140, R243) -/

/-- The heat has loads that are not performed (R140). -/
def Heat.loading (h : Heat) : Bool := h.flights.any fun f => f.kind = .load || f.kind = .ldx || f.kind = .atomic

/-- A release, an acquire or both, at a scope. -/
def orderOp (e : Ext) (rel acq waits : Bool) (s : State) : Out :=
  let sc := scopeOf e.rs
  issue e.guard (demand []) s fun s1 x _ =>
    let fin (s : State) (x : Site) : Out :=
      let (s, x) := if acq then s.acquireAt x sc else (s, x)
      .next (s.done x)
    if waits ∧ x.heat.loading then s.stall
    else if rel then s.releaseThen s1 x sc fin
    else fin s1 x

/-- FENCE (R140, R243). -/
def opFence (e : Ext) (s : State) : Out := orderOp e (e.mod ≠ 2) (e.mod ≠ 1) (e.mod = 0) s

/-- PHASE (R243). -/
def opPhase (e : Ext) (s : State) : Out := orderOp e true true false s

/-- WDRAIN (R243). -/
def opWdrain (e : Ext) (s : State) : Out :=
  issue e.guard (demand []) s fun s1 x _ => if x.heat.unacked ≠ 0 then s.stall else .next (s1.done x)

/-! ### BTN (R244) -/

/-- Every register of a fibre that BTN.SYNC.all uses. -/
def allUses (x : Site) (i : Nat) : List Baton :=
  match x.heat.fibre? i with
  | none => []
  | some f => (f.regs.filterMap fun v => match v with | .bat b => some b | .val _ => none) ++
      if x.holdsX then x.records i 128 128 else []

/-- BTN.SYNC (R244). -/
def opBtnSync (e : Ext) (s : State) : Out :=
  if e.mod.getLsbD 0 then
    issueOn (fun x is => is.map fun i => (i, allUses x i)) (fun _ _ => false) e.guard (demand []) s fun s x _ => .next (s.done x)
  else issue e.guard (demand [readA e 1]) s fun s x _ => .next (s.done x)

/-- BTN.TEST (R244): a write of a guard blocks on v0, the tested register does not. -/
def opBtnTest (e : Ext) (s : State) : Out :=
  issue e.guard (demandG [{ reg := e.a.toNat, n := 1, rd := false }]) s (regEffect fun x i y =>
    y.setGuard i (e.d.toNat % 32) (match x.slot i e.a.toNat with
      | .bat b => decide (b.st ≠ .pending)
      | .val _ => true))

/-! ### The meanings, one for each row of the opcode table -/

/-- AMO (R239). -/
def execAmo (e : Ext) (s : State) : Out := opAmo e s

/-- RED (R242). -/
def execRed (e : Ext) (s : State) : Out := opRed e s

/-- CAS (R240). -/
def execCas (e : Ext) (s : State) : Out := opCas e s

/-- FENCE (R243), the short form (R164). -/
def execFence (s : State) : Out := opFence (shortFn .s8 0 0 0) s

/-- FENCE_EXT (R243). -/
def execFenceExt (e : Ext) (s : State) : Out := opFence e s

/-- PHASE (R243), the short form (R164). -/
def execPhase (s : State) : Out := opPhase (shortFn .s8 0 0 0) s

/-- PHASE_EXT (R243). -/
def execPhaseExt (e : Ext) (s : State) : Out := opPhase e s

/-- WDRAIN (R243), the short form (R164). -/
def execWdrain (s : State) : Out := opWdrain (shortFn .s8 0 0 0) s

/-- WDRAIN_EXT (R243). -/
def execWdrainExt (e : Ext) (s : State) : Out := opWdrain e s

/-- BTN_SYNC (R244), the short form (R164). -/
def execBtnSync (a : BitVec 8) (s : State) : Out := opBtnSync (shortFn .s8 0 a 0) s

/-- BTN_SYNC_EXT (R244). -/
def execBtnSyncExt (e : Ext) (s : State) : Out := opBtnSync e s

/-- BTN_TEST (R244), the short form (R164). -/
def execBtnTest (a : BitVec 8) (g : BitVec 5) (s : State) : Out := opBtnTest (shortFn .s8 1 a (g.setWidth 8)) s

/-- BTN_TEST_EXT (R244). -/
def execBtnTestExt (e : Ext) (s : State) : Out := opBtnTest e s

end Sys2Proof.Machine
end

