-- ==== Sys2Proof/Decode.lean ====
section
/-!
DEFINITION. The decoder, with the checks of Table 13.7 in their order, and the encoder written from the same
tables of chapter 13.
-/

namespace Sys2Proof

/-- What decoding answers: an instruction with its length in bytes, or the trap of checks 1 to 4 of
Table 13.7. -/
inductive Dec where
  | ok (i : Instr) (len : Nat)
  | illegal
  | wrongUnit
  deriving DecidableEq, Repr

/-- The base mnemonic of an opcode and function code (Tables 13.6a to 13.6d): `none` when reserved (R170). -/
def mnOf (op fn : BitVec 7) : Option Mn :=
  match op.toNat with
  | 0x00 => if fn = 1 then some .nop else if fn = 2 then some .yield else if fn = 3 then some .endI else none
  | 0x01 => some .add
  | 0x02 => some .sub
  | 0x03 => some .addc
  | 0x04 => some .subb
  | 0x05 => some .mul
  | 0x06 => some .mulh
  | 0x07 => some .mad
  | 0x08 => some .div
  | 0x09 => some .rem
  | 0x0A => if fn = 0 then some .neg else if fn = 1 then some .abs else none
  | 0x0B => some .min
  | 0x0C => some .max
  | 0x0D => some .and
  | 0x0E => some .or
  | 0x0F => some .xor
  | 0x10 => some .andn
  | 0x11 => some .not
  | 0x12 => some .shl
  | 0x13 => some .shr
  | 0x14 => some .sha
  | 0x15 => some .rot
  | 0x16 => some .bfx
  | 0x17 => some .bfi
  | 0x18 => if fn = 0 then some .popc else if fn = 1 then some .clz else if fn = 2 then some .ctz else if fn = 3 then some .brev else none
  | 0x19 => some .perm
  | 0x1A => some .mov
  | 0x1B => some .movi
  | 0x1C => some .lit
  | 0x1D => some .sel
  | 0x1E => some .cmp
  | 0x1F => some .cmpv
  | 0x20 => some .lea
  | 0x21 => if fn = 0 then some .sptest else if fn = 1 then some .spcastOfs else if fn = 2 then some .spcastGen else none
  | 0x22 => if fn < 8 then some .gop else none
  | 0x23 => some .bra
  | 0x24 => some .call
  | 0x25 => if fn = 0 then some .brx else if fn = 1 then some .callx else if fn = 2 then some .ret else none
  | 0x26 => if fn = 0 then some .join else if fn = 1 then some .leave else if fn = 2 then some .waitm else if fn = 3 then some .mset else if fn = 4 then some .mget else none
  | 0x27 => if fn = 0 then some .fork else if fn = 1 then some .vote else if fn = 2 then some .shfl else if fn = 3 then some .bcast else if fn = 4 then some .xlock else if fn = 5 then some .xfree else none
  | 0x28 => some .ld
  | 0x29 => some .st
  | 0x2A => some .ldx
  | 0x2B => some .stx
  | 0x2C => some .pref
  | 0x2D => if fn = 0 then some .flush else if fn = 1 then some .flushInv else none
  | 0x2E => some .pgarm
  | 0x2F => if fn < 9 then some .amo else none
  | 0x30 => if fn < 6 then some .red else none
  | 0x31 => some .cas
  | 0x32 => some .fence
  | 0x33 => some .phase
  | 0x34 => some .wdrain
  | 0x35 => if fn = 0 then some .btnSync else if fn = 1 then some .btnTest else none
  | 0x36 => if fn = 0 then some .barInit else if fn = 1 then some .barArv else if fn = 2 then some .barExp else if fn = 3 then some .barWait else if fn = 4 then some .barTry else none
  | 0x37 => if fn = 0 then some .fifoMap else if fn = 1 then some .fifoPut else if fn = 2 then some .fifoGet else if fn = 3 then some .fifoClose else if fn = 4 then some .fifoStat else none
  | 0x38 => some .cpy
  | 0x39 => some .cpyWait
  | 0x3A => some .cpyPtr
  | 0x3B => if fn = 0 then some .trgAdd else if fn = 1 then some .trgSet else if fn = 2 then some .trgWait else if fn = 3 then some .trgArm else none
  | 0x3C => some .bankcfg
  | 0x48 => some .fadd
  | 0x49 => some .fsub
  | 0x4A => some .fmul
  | 0x4B => some .fma
  | 0x4C => some .fms
  | 0x4D => some .fnma
  | 0x4E => some .fmin
  | 0x4F => some .fmax
  | 0x50 => if fn = 0 then some .fabs else if fn = 1 then some .fneg else if fn = 2 then some .fcpys else none
  | 0x51 => some .fcmp
  | 0x52 => some .fclass
  | 0x53 => if fn = 0 then some .frcp else if fn = 1 then some .frsq else if fn = 2 then some .fsqrt else none
  | 0x54 => some .fdiv
  | 0x55 => if fn = 0 then some .fexp2 else if fn = 1 then some .flog2 else if fn = 2 then some .fsin else if fn = 3 then some .fcos else if fn = 4 then some .ftanh else none
  | 0x56 => some .frnd
  | 0x57 => some .fscale
  | 0x58 => some .f2i
  | 0x59 => some .i2f
  | 0x5A => some .fcvt
  | 0x5B => some .dot2
  | 0x5C => some .dot4
  | 0x5D => some .hred
  | 0x5E => some .qpack
  | 0x5F => some .qunpack
  | 0x60 => some .qscale
  | 0x61 => some .qchk
  | 0x62 => some .topk
  | 0x63 => some .topkm
  | 0x64 => some .sbound
  | 0x68 => some .mxbind
  | 0x69 => some .mxma
  | 0x6A => some .mxzero
  | 0x6B => some .mxwait
  | 0x6C => some .mxfence
  | 0x6D => some .mxstat
  | 0x6E => some .awset
  | 0x6F => some .accrd
  | 0x70 => some .accwr
  | 0x71 => some .txfer
  | 0x72 => some .txcoll
  | 0x73 => some .txwait
  | 0x74 => some .tsend
  | 0x75 => some .sysrd
  | 0x76 => some .syswr
  | 0x77 => some .trap
  | 0x78 => some .eret
  | 0x79 => some .brk
  | 0x7A => some .perfrd
  | 0x7B => some .budget
  | _ => none

/-- The form that M1 selects where one opcode and function code carry several mnemonics (R212, R213, R255). -/
def Mn.byM1 (m : Mn) (m1 : BitVec 4) : Mn :=
  match m with
  | .call => if m1 = 0 then .call else .callW
  | .callx => if m1 = 0 then .callx else .callxW
  | .cpyPtr => if m1 = 1 then .cpyPtrSt else if m1 = 2 then .cpyPtrClr else .cpyPtr
  | m => m

/-- Type codes (Table 13.5); `none` for a reserved code. -/
def tyOf (t : BitVec 5) : Option Ty :=
  match t.toNat with
  | 0x00 => some .s8
  | 0x01 => some .s16
  | 0x02 => some .s32
  | 0x03 => some .s64
  | 0x04 => some .n8
  | 0x05 => some .n16
  | 0x06 => some .n32
  | 0x07 => some .n64
  | 0x08 => some .f16
  | 0x09 => some .bf16
  | 0x0A => some .f32
  | 0x0B => some .h2
  | 0x0C => some .b2
  | 0x0D => some .q
  | 0x0F => some .b32
  | 0x10 => some .b64
  | 0x11 => some .b128
  | _ => none

/-- The code of a type (Table 13.5). -/
def Ty.code : Ty → BitVec 5
  | .s8 => 0x00
  | .s16 => 0x01
  | .s32 => 0x02
  | .s64 => 0x03
  | .n8 => 0x04
  | .n16 => 0x05
  | .n32 => 0x06
  | .n64 => 0x07
  | .f16 => 0x08
  | .bf16 => 0x09
  | .f32 => 0x0A
  | .h2 => 0x0B
  | .b2 => 0x0C
  | .q => 0x0D
  | .b32 => 0x0F
  | .b64 => 0x10
  | .b128 => 0x11

/-- The guard of bits [54:48] of an extended form; `none` when a res0 bit is set (R160). -/
def guardOf (w1 : Word) : Option Guard :=
  if w1.getLsbD 22 then
    some (if w1.getLsbD 21 then .ifClear (w1.extractLsb' 16 5) else .ifSet (w1.extractLsb' 16 5))
  else if w1.extractLsb' 16 6 = 0 then some .always else none

/-- Bits [54:48] of a guard (Table 13.3). -/
def Guard.bits : Guard → BitVec 7
  | .always => 0
  | .ifSet g => 0b10#2 ++ g
  | .ifClear g => 0b11#2 ++ g

/-- The fields of an extended form from words 0 to 2 (Tables 13.2 to 13.4). -/
def extOf (form : Form) (w0 w1 w2 : Word) (lit : DWord) : Option Ext :=
  match guardOf w1, tyOf (w1.extractLsb' 23 5) with
  | some g, some t => some
      { form := form, x := w0.extractLsb' 25 7, a := w0.extractLsb' 17 8, d := w0.extractLsb' 9 8
        b := w1.extractLsb' 0 8, c := w1.extractLsb' 8 8, guard := g, ty := t, m1 := w1.extractLsb' 28 4
        osel := w2.extractLsb' 6 2, rs := w2.extractLsb' 3 3, mod := w2.extractLsb' 0 3
        p := w2.extractLsb' 8 8, imm := w2.extractLsb' 16 16, lit := lit }
  | _, _ => none

/-- The fields that R164 gives a short form with literal. -/
def litOf (m : Mn) (w0 : Word) (lit : DWord) : Ext :=
  { form := .shortLit, x := w0.extractLsb' 25 7, a := w0.extractLsb' 17 8, d := w0.extractLsb' 9 8
    b := 0, c := 0, guard := .always, ty := m.defTy, m1 := 0
    osel := if m = .lit ∨ m = .brx ∨ m = .callx then 0 else 2, rs := 0, mod := 0, p := 0, imm := 0, lit := lit }

/-- An extended form of format J (R155): every field of words 1 and 2 but the guard and M1 is res0. -/
def jumpOf (w0 w1 w2 : Word) : Option JExt :=
  match guardOf w1 with
  | some g =>
    if w1.extractLsb' 0 16 = 0 ∧ w1.extractLsb' 23 5 = 0 ∧ w2 = 0 then
      some { ofs := w0.extractLsb' 9 23, guard := g, m1 := w1.extractLsb' 28 4 }
    else none
  | none => none

/-- The constructor of a literal or extended form. -/
def Mn.mkExt (m : Mn) (e : Ext) : Option Instr :=
  match m with
  | .nop => some (.nopExt e)
  | .yield => some (.yieldExt e)
  | .endI => some (.endExt e)
  | .add => some (.addExt e)
  | .sub => some (.subExt e)
  | .addc => some (.addcExt e)
  | .subb => some (.subbExt e)
  | .mul => some (.mulExt e)
  | .mulh => some (.mulhExt e)
  | .mad => some (.mad e)
  | .div => some (.divExt e)
  | .rem => some (.remExt e)
  | .neg => some (.negExt e)
  | .abs => some (.absExt e)
  | .min => some (.minExt e)
  | .max => some (.maxExt e)
  | .and => some (.andExt e)
  | .or => some (.orExt e)
  | .xor => some (.xorExt e)
  | .andn => some (.andnExt e)
  | .not => some (.notExt e)
  | .shl => some (.shlExt e)
  | .shr => some (.shrExt e)
  | .sha => some (.shaExt e)
  | .rot => some (.rotExt e)
  | .bfx => some (.bfx e)
  | .bfi => some (.bfi e)
  | .popc => some (.popcExt e)
  | .clz => some (.clzExt e)
  | .ctz => some (.ctzExt e)
  | .brev => some (.brevExt e)
  | .perm => some (.permExt e)
  | .mov => some (.movExt e)
  | .movi => some (.moviExt e)
  | .lit => some (.lit e)
  | .sel => some (.sel e)
  | .cmp => some (.cmpExt e)
  | .cmpv => some (.cmpvExt e)
  | .lea => some (.leaExt e)
  | .sptest => some (.sptestExt e)
  | .spcastOfs => some (.spcastOfsExt e)
  | .spcastGen => some (.spcastGenExt e)
  | .gop => some (.gopExt e)
  | .brx => some (.brxExt e)
  | .callx => some (.callxExt e)
  | .callxW => some (.callxW e)
  | .ret => some (.retExt e)
  | .join => some (.joinExt e)
  | .leave => some (.leaveExt e)
  | .waitm => some (.waitmExt e)
  | .mset => some (.msetExt e)
  | .mget => some (.mgetExt e)
  | .fork => some (.fork e)
  | .vote => some (.voteExt e)
  | .shfl => some (.shflExt e)
  | .bcast => some (.bcastExt e)
  | .xlock => some (.xlockExt e)
  | .xfree => some (.xfreeExt e)
  | .ld => some (.ldExt e)
  | .st => some (.stExt e)
  | .ldx => some (.ldx e)
  | .stx => some (.stx e)
  | .pref => some (.prefExt e)
  | .flush => some (.flushExt e)
  | .flushInv => some (.flushInvExt e)
  | .pgarm => some (.pgarm e)
  | .amo => some (.amo e)
  | .red => some (.red e)
  | .cas => some (.cas e)
  | .fence => some (.fenceExt e)
  | .phase => some (.phaseExt e)
  | .wdrain => some (.wdrainExt e)
  | .btnSync => some (.btnSyncExt e)
  | .btnTest => some (.btnTestExt e)
  | .barInit => some (.barInitExt e)
  | .barArv => some (.barArvExt e)
  | .barExp => some (.barExpExt e)
  | .barWait => some (.barWaitExt e)
  | .barTry => some (.barTryExt e)
  | .fifoMap => some (.fifoMap e)
  | .fifoPut => some (.fifoPutExt e)
  | .fifoGet => some (.fifoGetExt e)
  | .fifoClose => some (.fifoCloseExt e)
  | .fifoStat => some (.fifoStatExt e)
  | .cpy => some (.cpy e)
  | .cpyWait => some (.cpyWait e)
  | .cpyPtr => some (.cpyPtr e)
  | .cpyPtrSt => some (.cpyPtrSt e)
  | .cpyPtrClr => some (.cpyPtrClr e)
  | .trgAdd => some (.trgAdd e)
  | .trgSet => some (.trgSet e)
  | .trgWait => some (.trgWait e)
  | .trgArm => some (.trgArm e)
  | .bankcfg => some (.bankcfg e)
  | .fadd => some (.faddExt e)
  | .fsub => some (.fsubExt e)
  | .fmul => some (.fmulExt e)
  | .fma => some (.fma e)
  | .fms => some (.fms e)
  | .fnma => some (.fnma e)
  | .fmin => some (.fminExt e)
  | .fmax => some (.fmaxExt e)
  | .fabs => some (.fabsExt e)
  | .fneg => some (.fnegExt e)
  | .fcpys => some (.fcpys e)
  | .fcmp => some (.fcmp e)
  | .fclass => some (.fclassExt e)
  | .frcp => some (.frcpExt e)
  | .frsq => some (.frsqExt e)
  | .fsqrt => some (.fsqrtExt e)
  | .fdiv => some (.fdivExt e)
  | .fexp2 => some (.fexp2Ext e)
  | .flog2 => some (.flog2Ext e)
  | .fsin => some (.fsinExt e)
  | .fcos => some (.fcosExt e)
  | .ftanh => some (.ftanhExt e)
  | .frnd => some (.frndExt e)
  | .fscale => some (.fscaleExt e)
  | .f2i => some (.f2i e)
  | .i2f => some (.i2f e)
  | .fcvt => some (.fcvt e)
  | .dot2 => some (.dot2 e)
  | .dot4 => some (.dot4 e)
  | .hred => some (.hred e)
  | .qpack => some (.qpack e)
  | .qunpack => some (.qunpack e)
  | .qscale => some (.qscale e)
  | .qchk => some (.qchk e)
  | .topk => some (.topk e)
  | .topkm => some (.topkm e)
  | .sbound => some (.sbound e)
  | .mxbind => some (.mxbind e)
  | .mxma => some (.mxma e)
  | .mxzero => some (.mxzero e)
  | .mxwait => some (.mxwaitExt e)
  | .mxfence => some (.mxfenceExt e)
  | .mxstat => some (.mxstatExt e)
  | .awset => some (.awset e)
  | .accrd => some (.accrd e)
  | .accwr => some (.accwr e)
  | .txfer => some (.txfer e)
  | .txcoll => some (.txcoll e)
  | .txwait => some (.txwait e)
  | .tsend => some (.tsend e)
  | .sysrd => some (.sysrd e)
  | .syswr => some (.syswr e)
  | .trap => some (.trapExt e)
  | .eret => some (.eretExt e)
  | .brk => some (.brkExt e)
  | .perfrd => some (.perfrd e)
  | .budget => some (.budget e)
  | .bra | .call | .callW => none

/-- The constructor of an extended form of format J. -/
def Mn.mkJump (m : Mn) (j : JExt) : Option Instr :=
  match m with
  | .bra => some (.braExt j)
  | .call => some (.callExt j)
  | .callW => some (.callW j)
  | _ => none

/-- The constructor of a short form, when word 0 has the fixed bits of its row. -/
def Mn.mkShort (m : Mn) (w : Word) : Option Instr :=
  match m with
  | .nop => if w &&& 0xFFFFFFFF = 0x02000000 then some (.nop) else none
  | .yield => if w &&& 0xFFFFFFFF = 0x04000000 then some (.yield) else none
  | .endI => if w &&& 0xFFFFFFFF = 0x06000000 then some (.endI) else none
  | .add => if w &&& 0x000001FF = 0x00000004 then some (.add (w.extractLsb' 25 7) (w.extractLsb' 17 8) (w.extractLsb' 9 8)) else none
  | .sub => if w &&& 0x000001FF = 0x00000008 then some (.sub (w.extractLsb' 25 7) (w.extractLsb' 17 8) (w.extractLsb' 9 8)) else none
  | .addc => if w &&& 0x000001FF = 0x0000000C then some (.addc (w.extractLsb' 25 7) (w.extractLsb' 17 8) (w.extractLsb' 9 8)) else none
  | .subb => if w &&& 0x000001FF = 0x00000010 then some (.subb (w.extractLsb' 25 7) (w.extractLsb' 17 8) (w.extractLsb' 9 8)) else none
  | .mul => if w &&& 0x000001FF = 0x00000014 then some (.mul (w.extractLsb' 25 7) (w.extractLsb' 17 8) (w.extractLsb' 9 8)) else none
  | .mulh => if w &&& 0x000001FF = 0x00000018 then some (.mulh (w.extractLsb' 25 7) (w.extractLsb' 17 8) (w.extractLsb' 9 8)) else none
  | .div => if w &&& 0x000001FF = 0x00000020 then some (.div (w.extractLsb' 25 7) (w.extractLsb' 17 8) (w.extractLsb' 9 8)) else none
  | .rem => if w &&& 0x000001FF = 0x00000024 then some (.rem (w.extractLsb' 25 7) (w.extractLsb' 17 8) (w.extractLsb' 9 8)) else none
  | .neg => if w &&& 0xFE0001FF = 0x00000028 then some (.neg (w.extractLsb' 17 8) (w.extractLsb' 9 8)) else none
  | .abs => if w &&& 0xFE0001FF = 0x02000028 then some (.abs (w.extractLsb' 17 8) (w.extractLsb' 9 8)) else none
  | .min => if w &&& 0x000001FF = 0x0000002C then some (.min (w.extractLsb' 25 7) (w.extractLsb' 17 8) (w.extractLsb' 9 8)) else none
  | .max => if w &&& 0x000001FF = 0x00000030 then some (.max (w.extractLsb' 25 7) (w.extractLsb' 17 8) (w.extractLsb' 9 8)) else none
  | .and => if w &&& 0x000001FF = 0x00000034 then some (.and (w.extractLsb' 25 7) (w.extractLsb' 17 8) (w.extractLsb' 9 8)) else none
  | .or => if w &&& 0x000001FF = 0x00000038 then some (.or (w.extractLsb' 25 7) (w.extractLsb' 17 8) (w.extractLsb' 9 8)) else none
  | .xor => if w &&& 0x000001FF = 0x0000003C then some (.xor (w.extractLsb' 25 7) (w.extractLsb' 17 8) (w.extractLsb' 9 8)) else none
  | .andn => if w &&& 0x000001FF = 0x00000040 then some (.andn (w.extractLsb' 25 7) (w.extractLsb' 17 8) (w.extractLsb' 9 8)) else none
  | .not => if w &&& 0xFE0001FF = 0x00000044 then some (.not (w.extractLsb' 17 8) (w.extractLsb' 9 8)) else none
  | .shl => if w &&& 0x000001FF = 0x00000048 then some (.shl (w.extractLsb' 25 7) (w.extractLsb' 17 8) (w.extractLsb' 9 8)) else none
  | .shr => if w &&& 0x000001FF = 0x0000004C then some (.shr (w.extractLsb' 25 7) (w.extractLsb' 17 8) (w.extractLsb' 9 8)) else none
  | .sha => if w &&& 0x000001FF = 0x00000050 then some (.sha (w.extractLsb' 25 7) (w.extractLsb' 17 8) (w.extractLsb' 9 8)) else none
  | .rot => if w &&& 0x000001FF = 0x00000054 then some (.rot (w.extractLsb' 25 7) (w.extractLsb' 17 8) (w.extractLsb' 9 8)) else none
  | .popc => if w &&& 0xFE0001FF = 0x00000060 then some (.popc (w.extractLsb' 17 8) (w.extractLsb' 9 8)) else none
  | .clz => if w &&& 0xFE0001FF = 0x02000060 then some (.clz (w.extractLsb' 17 8) (w.extractLsb' 9 8)) else none
  | .ctz => if w &&& 0xFE0001FF = 0x04000060 then some (.ctz (w.extractLsb' 17 8) (w.extractLsb' 9 8)) else none
  | .brev => if w &&& 0xFE0001FF = 0x06000060 then some (.brev (w.extractLsb' 17 8) (w.extractLsb' 9 8)) else none
  | .perm => if w &&& 0x000001FF = 0x00000064 then some (.perm (w.extractLsb' 25 7) (w.extractLsb' 17 8) (w.extractLsb' 9 8)) else none
  | .mov => if w &&& 0xFE0001FF = 0x00000068 then some (.mov (w.extractLsb' 17 8) (w.extractLsb' 9 8)) else none
  | .movi => if w &&& 0x01FE01FF = 0x0000006C then some (.movi (w.extractLsb' 25 7) (w.extractLsb' 9 8)) else none
  | .cmp => if w &&& 0x0001C1FF = 0x00000078 then some (.cmp (w.extractLsb' 25 7) (w.extractLsb' 17 8) (w.extractLsb' 9 5)) else none
  | .cmpv => if w &&& 0x000001FF = 0x0000007C then some (.cmpv (w.extractLsb' 25 7) (w.extractLsb' 17 8) (w.extractLsb' 9 8)) else none
  | .lea => if w &&& 0x000001FF = 0x00000080 then some (.lea (w.extractLsb' 25 7) (w.extractLsb' 17 8) (w.extractLsb' 9 8)) else none
  | .sptest => if w &&& 0xFE0001FF = 0x00000084 then some (.sptest (w.extractLsb' 17 8) (w.extractLsb' 9 8)) else none
  | .spcastOfs => if w &&& 0xFE0001FF = 0x02000084 then some (.spcastOfs (w.extractLsb' 17 8) (w.extractLsb' 9 8)) else none
  | .spcastGen => if w &&& 0xFE0001FF = 0x04000084 then some (.spcastGen (w.extractLsb' 17 8) (w.extractLsb' 9 8)) else none
  | .gop => if w &&& 0xF1C1C1FF = 0x00000088 then some (.gop (w.extractLsb' 25 3) (w.extractLsb' 17 5) (w.extractLsb' 9 5)) else none
  | .bra => if w &&& 0x000001FF = 0x0000008C then some (.bra (w.extractLsb' 9 23)) else none
  | .call => if w &&& 0x000001FF = 0x00000090 then some (.call (w.extractLsb' 9 23)) else none
  | .brx => if w &&& 0xFE01FFFF = 0x00000094 then some (.brx (w.extractLsb' 17 8)) else none
  | .callx => if w &&& 0xFE01FFFF = 0x02000094 then some (.callx (w.extractLsb' 17 8)) else none
  | .ret => if w &&& 0xFFFFFFFF = 0x04000094 then some (.ret) else none
  | .join => if w &&& 0xFFFFE1FF = 0x00000098 then some (.join (w.extractLsb' 9 4)) else none
  | .leave => if w &&& 0xFFFFE1FF = 0x02000098 then some (.leave (w.extractLsb' 9 4)) else none
  | .waitm => if w &&& 0xFFFFE1FF = 0x04000098 then some (.waitm (w.extractLsb' 9 4)) else none
  | .mset => if w &&& 0xFE01E1FF = 0x06000098 then some (.mset (w.extractLsb' 17 8) (w.extractLsb' 9 4)) else none
  | .mget => if w &&& 0xFE01E1FF = 0x08000098 then some (.mget (w.extractLsb' 17 8) (w.extractLsb' 9 4)) else none
  | .vote => if w &&& 0xFFC001FF = 0x0200009C then some (.vote (w.extractLsb' 17 5) (w.extractLsb' 9 8)) else none
  | .shfl => if w &&& 0xFE0001FF = 0x0400009C then some (.shfl (w.extractLsb' 17 8) (w.extractLsb' 9 8)) else none
  | .bcast => if w &&& 0xFE0001FF = 0x0600009C then some (.bcast (w.extractLsb' 17 8) (w.extractLsb' 9 8)) else none
  | .xlock => if w &&& 0xFFFFFFFF = 0x0800009C then some (.xlock) else none
  | .xfree => if w &&& 0xFFFFFFFF = 0x0A00009C then some (.xfree) else none
  | .ld => if w &&& 0x000001FF = 0x000000A0 then some (.ld (w.extractLsb' 25 7) (w.extractLsb' 17 8) (w.extractLsb' 9 8)) else none
  | .st => if w &&& 0x000001FF = 0x000000A4 then some (.st (w.extractLsb' 25 7) (w.extractLsb' 17 8) (w.extractLsb' 9 8)) else none
  | .pref => if w &&& 0x0001FFFF = 0x000000B0 then some (.pref (w.extractLsb' 25 7) (w.extractLsb' 17 8)) else none
  | .flush => if w &&& 0xFE01FFFF = 0x000000B4 then some (.flush (w.extractLsb' 17 8)) else none
  | .flushInv => if w &&& 0xFE01FFFF = 0x020000B4 then some (.flushInv (w.extractLsb' 17 8)) else none
  | .fence => if w &&& 0xFFFFFFFF = 0x000000C8 then some (.fence) else none
  | .phase => if w &&& 0xFFFFFFFF = 0x000000CC then some (.phase) else none
  | .wdrain => if w &&& 0xFFFFFFFF = 0x000000D0 then some (.wdrain) else none
  | .btnSync => if w &&& 0xFE01FFFF = 0x000000D4 then some (.btnSync (w.extractLsb' 17 8)) else none
  | .btnTest => if w &&& 0xFE01C1FF = 0x020000D4 then some (.btnTest (w.extractLsb' 17 8) (w.extractLsb' 9 5)) else none
  | .barInit => if w &&& 0xFE0001FF = 0x000000D8 then some (.barInit (w.extractLsb' 17 8) (w.extractLsb' 9 8)) else none
  | .barArv => if w &&& 0xFE0001FF = 0x020000D8 then some (.barArv (w.extractLsb' 17 8) (w.extractLsb' 9 8)) else none
  | .barExp => if w &&& 0xFE0001FF = 0x040000D8 then some (.barExp (w.extractLsb' 17 8) (w.extractLsb' 9 8)) else none
  | .barWait => if w &&& 0xFE0001FF = 0x060000D8 then some (.barWait (w.extractLsb' 17 8) (w.extractLsb' 9 8)) else none
  | .barTry => if w &&& 0xFE0001FF = 0x080000D8 then some (.barTry (w.extractLsb' 17 8) (w.extractLsb' 9 8)) else none
  | .fifoPut => if w &&& 0xFE0001FF = 0x020000DC then some (.fifoPut (w.extractLsb' 17 8) (w.extractLsb' 9 8)) else none
  | .fifoGet => if w &&& 0xFE0001FF = 0x040000DC then some (.fifoGet (w.extractLsb' 17 8) (w.extractLsb' 9 8)) else none
  | .fifoClose => if w &&& 0xFFFE01FF = 0x060000DC then some (.fifoClose (w.extractLsb' 9 8)) else none
  | .fifoStat => if w &&& 0xFE0001FF = 0x080000DC then some (.fifoStat (w.extractLsb' 17 8) (w.extractLsb' 9 8)) else none
  | .fadd => if w &&& 0x000001FF = 0x00000120 then some (.fadd (w.extractLsb' 25 7) (w.extractLsb' 17 8) (w.extractLsb' 9 8)) else none
  | .fsub => if w &&& 0x000001FF = 0x00000124 then some (.fsub (w.extractLsb' 25 7) (w.extractLsb' 17 8) (w.extractLsb' 9 8)) else none
  | .fmul => if w &&& 0x000001FF = 0x00000128 then some (.fmul (w.extractLsb' 25 7) (w.extractLsb' 17 8) (w.extractLsb' 9 8)) else none
  | .fmin => if w &&& 0x000001FF = 0x00000138 then some (.fmin (w.extractLsb' 25 7) (w.extractLsb' 17 8) (w.extractLsb' 9 8)) else none
  | .fmax => if w &&& 0x000001FF = 0x0000013C then some (.fmax (w.extractLsb' 25 7) (w.extractLsb' 17 8) (w.extractLsb' 9 8)) else none
  | .fabs => if w &&& 0xFE0001FF = 0x00000140 then some (.fabs (w.extractLsb' 17 8) (w.extractLsb' 9 8)) else none
  | .fneg => if w &&& 0xFE0001FF = 0x02000140 then some (.fneg (w.extractLsb' 17 8) (w.extractLsb' 9 8)) else none
  | .fclass => if w &&& 0xFE0001FF = 0x00000148 then some (.fclass (w.extractLsb' 17 8) (w.extractLsb' 9 8)) else none
  | .frcp => if w &&& 0xFE0001FF = 0x0000014C then some (.frcp (w.extractLsb' 17 8) (w.extractLsb' 9 8)) else none
  | .frsq => if w &&& 0xFE0001FF = 0x0200014C then some (.frsq (w.extractLsb' 17 8) (w.extractLsb' 9 8)) else none
  | .fsqrt => if w &&& 0xFE0001FF = 0x0400014C then some (.fsqrt (w.extractLsb' 17 8) (w.extractLsb' 9 8)) else none
  | .fdiv => if w &&& 0x000001FF = 0x00000150 then some (.fdiv (w.extractLsb' 25 7) (w.extractLsb' 17 8) (w.extractLsb' 9 8)) else none
  | .fexp2 => if w &&& 0xFE0001FF = 0x00000154 then some (.fexp2 (w.extractLsb' 17 8) (w.extractLsb' 9 8)) else none
  | .flog2 => if w &&& 0xFE0001FF = 0x02000154 then some (.flog2 (w.extractLsb' 17 8) (w.extractLsb' 9 8)) else none
  | .fsin => if w &&& 0xFE0001FF = 0x04000154 then some (.fsin (w.extractLsb' 17 8) (w.extractLsb' 9 8)) else none
  | .fcos => if w &&& 0xFE0001FF = 0x06000154 then some (.fcos (w.extractLsb' 17 8) (w.extractLsb' 9 8)) else none
  | .ftanh => if w &&& 0xFE0001FF = 0x08000154 then some (.ftanh (w.extractLsb' 17 8) (w.extractLsb' 9 8)) else none
  | .frnd => if w &&& 0xFE0001FF = 0x00000158 then some (.frnd (w.extractLsb' 17 8) (w.extractLsb' 9 8)) else none
  | .fscale => if w &&& 0x000001FF = 0x0000015C then some (.fscale (w.extractLsb' 25 7) (w.extractLsb' 17 8) (w.extractLsb' 9 8)) else none
  | .mxwait => if w &&& 0xFFFFFFFF = 0x000001AC then some (.mxwait) else none
  | .mxfence => if w &&& 0xFFFFFFFF = 0x000001B0 then some (.mxfence) else none
  | .mxstat => if w &&& 0xFFFE01FF = 0x000001B4 then some (.mxstat (w.extractLsb' 9 8)) else none
  | .trap => if w &&& 0x01FFFFFF = 0x000001DC then some (.trap (w.extractLsb' 25 7)) else none
  | .eret => if w &&& 0xFFFFFFFF = 0x000001E0 then some (.eret) else none
  | .brk => if w &&& 0x01FFFFFF = 0x000001E4 then some (.brk (w.extractLsb' 25 7)) else none
  | .mad | .bfx | .bfi | .lit | .sel | .callW | .callxW | .fork | .ldx | .stx | .pgarm | .amo => none
  | .red | .cas | .fifoMap | .cpy | .cpyWait | .cpyPtr | .cpyPtrSt | .cpyPtrClr | .trgAdd | .trgSet | .trgWait | .trgArm => none
  | .bankcfg | .fma | .fms | .fnma | .fcpys | .fcmp | .f2i | .i2f | .fcvt | .dot2 | .dot4 | .hred => none
  | .qpack | .qunpack | .qscale | .qchk | .topk | .topkm | .sbound | .mxbind | .mxma | .mxzero | .awset | .accrd => none
  | .accwr | .txfer | .txcoll | .txwait | .tsend | .sysrd | .syswr | .perfrd | .budget => none

/-- Two words as a literal: the lower word first (R151). -/
def litWord (lo hi : Word) : DWord := hi ++ lo

/-- The instruction of the words after check 3, or none when check 4 fails. -/
def formOf (m : Mn) (ws : List Word) : Option (Instr × Nat) :=
  match ws with
  | w0 :: rest =>
    match (w0.extractLsb' 0 2).toNat, rest with
    | 0, _ => (m.mkShort w0).map fun i => (i, 4)
    | 1, l0 :: l1 :: _ => (m.mkExt (litOf m w0 (litWord l0 l1))).map fun i => (i, 12)
    | 2, w1 :: w2 :: _ =>
      let n := m.byM1 (w1.extractLsb' 28 4)
      match n with
      | .bra | .call | .callW => (jumpOf w0 w1 w2).bind fun j => (n.mkJump j).map fun i => (i, 12)
      | _ => (extOf .ext w0 w1 w2 0).bind fun e => (n.mkExt e).map fun i => (i, 12)
    | 3, w1 :: w2 :: l0 :: l1 :: _ =>
      let n := m.byM1 (w1.extractLsb' 28 4)
      (extOf .extLit w0 w1 w2 (litWord l0 l1)).bind fun e => (n.mkExt e).map fun i => (i, 20)
    | _, _ => none
  | [] => none

/-- Decode the words at an instruction's address for a unit, by checks 1 to 4 of Table 13.7 (R167, R170).
Check 5 is made where the instruction executes. -/
def decode (k : UnitKind) (ws : List Word) : Dec :=
  match ws with
  | [] => .illegal
  | w0 :: _ =>
    let op := w0.extractLsb' 2 7
    if w0 = 0 then .illegal
    else if reservedOp op then .illegal
    else
      match mnOf op (w0.extractLsb' 25 7) with
      | none => .illegal
      | some m =>
        if m.runsOn k = false then .wrongUnit
        else
          match formOf m ws with
          | some (i, len) => if i.wf then .ok i len else .illegal
          | none => .illegal

/-- Words of an instruction that L = 00 to 11 announces (Table 13.1). -/
def wordsOf (w0 : Word) : Nat :=
  match (w0.extractLsb' 0 2).toNat with
  | 0 => 1
  | 3 => 5
  | _ => 3

/-- Bytes of an instruction as 32-bit words, little-endian (R151). -/
def wordsFrom : List Byte → List Word
  | b0 :: b1 :: b2 :: b3 :: rest => (b3 ++ b2 ++ b1 ++ b0) :: wordsFrom rest
  | _ => []

/-- A word as bytes, lowest address first (R151). -/
def wordBytes (w : Word) : List Byte :=
  [w.extractLsb' 0 8, w.extractLsb' 8 8, w.extractLsb' 16 8, w.extractLsb' 24 8]

/-- L of a form (Table 13.1). -/
def Form.bits : Form → BitVec 2
  | .shortLit => 1
  | .ext => 2
  | .extLit => 3

/-- The words of a literal or extended form (Tables 13.1 to 13.4). -/
def encodeExt (m : Mn) (e : Ext) : List Word :=
  let w0 : Word := e.x ++ e.a ++ e.d ++ m.op ++ e.form.bits
  let w1 : Word := e.m1 ++ e.ty.code ++ e.guard.bits ++ e.c ++ e.b
  let w2 : Word := e.imm ++ e.p ++ e.osel ++ e.rs ++ e.mod
  let lo : Word := e.lit.extractLsb' 0 32
  let hi : Word := e.lit.extractLsb' 32 32
  match e.form with
  | .shortLit => [w0, lo, hi]
  | .ext => [w0, w1, w2]
  | .extLit => [w0, w1, w2, lo, hi]

/-- The words of an extended form of format J (R155). -/
def encodeJump (m : Mn) (j : JExt) : List Word :=
  [j.ofs ++ m.op ++ 0b10#2, j.m1 ++ 0#5 ++ j.guard.bits ++ 0#16, 0]

/-- The word of a short form, field by field. -/
def encodeShort : Instr → Option Word
  | .nop => some (0x2000000#32)
  | .yield => some (0x4000000#32)
  | .endI => some (0x6000000#32)
  | .add x a d => some (x ++ a ++ d ++ 0x4#9)
  | .sub x a d => some (x ++ a ++ d ++ 0x8#9)
  | .addc x a d => some (x ++ a ++ d ++ 0xc#9)
  | .subb x a d => some (x ++ a ++ d ++ 0x10#9)
  | .mul x a d => some (x ++ a ++ d ++ 0x14#9)
  | .mulh x a d => some (x ++ a ++ d ++ 0x18#9)
  | .div x a d => some (x ++ a ++ d ++ 0x20#9)
  | .rem x a d => some (x ++ a ++ d ++ 0x24#9)
  | .neg a d => some (0x0#7 ++ a ++ d ++ 0x28#9)
  | .abs a d => some (0x1#7 ++ a ++ d ++ 0x28#9)
  | .min x a d => some (x ++ a ++ d ++ 0x2c#9)
  | .max x a d => some (x ++ a ++ d ++ 0x30#9)
  | .and x a d => some (x ++ a ++ d ++ 0x34#9)
  | .or x a d => some (x ++ a ++ d ++ 0x38#9)
  | .xor x a d => some (x ++ a ++ d ++ 0x3c#9)
  | .andn x a d => some (x ++ a ++ d ++ 0x40#9)
  | .not a d => some (0x0#7 ++ a ++ d ++ 0x44#9)
  | .shl x a d => some (x ++ a ++ d ++ 0x48#9)
  | .shr x a d => some (x ++ a ++ d ++ 0x4c#9)
  | .sha x a d => some (x ++ a ++ d ++ 0x50#9)
  | .rot x a d => some (x ++ a ++ d ++ 0x54#9)
  | .popc a d => some (0x0#7 ++ a ++ d ++ 0x60#9)
  | .clz a d => some (0x1#7 ++ a ++ d ++ 0x60#9)
  | .ctz a d => some (0x2#7 ++ a ++ d ++ 0x60#9)
  | .brev a d => some (0x3#7 ++ a ++ d ++ 0x60#9)
  | .perm x a d => some (x ++ a ++ d ++ 0x64#9)
  | .mov a d => some (0x0#7 ++ a ++ d ++ 0x68#9)
  | .movi i d => some (i ++ 0x0#8 ++ d ++ 0x6c#9)
  | .cmp x a g => some (x ++ a ++ 0x0#3 ++ g ++ 0x78#9)
  | .cmpv x a d => some (x ++ a ++ d ++ 0x7c#9)
  | .lea x a d => some (x ++ a ++ d ++ 0x80#9)
  | .sptest a d => some (0x0#7 ++ a ++ d ++ 0x84#9)
  | .spcastOfs a d => some (0x1#7 ++ a ++ d ++ 0x84#9)
  | .spcastGen a d => some (0x2#7 ++ a ++ d ++ 0x84#9)
  | .gop f a d => some (0x0#4 ++ f ++ 0x0#3 ++ a ++ 0x0#3 ++ d ++ 0x88#9)
  | .bra o => some (o ++ 0x8c#9)
  | .call o => some (o ++ 0x90#9)
  | .brx a => some (0x0#7 ++ a ++ 0x94#17)
  | .callx a => some (0x1#7 ++ a ++ 0x94#17)
  | .ret => some (0x4000094#32)
  | .join m => some (0x0#19 ++ m ++ 0x98#9)
  | .leave m => some (0x1000#19 ++ m ++ 0x98#9)
  | .waitm m => some (0x2000#19 ++ m ++ 0x98#9)
  | .mset a m => some (0x3#7 ++ a ++ 0x0#4 ++ m ++ 0x98#9)
  | .mget a m => some (0x4#7 ++ a ++ 0x0#4 ++ m ++ 0x98#9)
  | .vote a d => some (0x8#10 ++ a ++ d ++ 0x9c#9)
  | .shfl a d => some (0x2#7 ++ a ++ d ++ 0x9c#9)
  | .bcast a d => some (0x3#7 ++ a ++ d ++ 0x9c#9)
  | .xlock => some (0x800009c#32)
  | .xfree => some (0xa00009c#32)
  | .ld i a d => some (i ++ a ++ d ++ 0xa0#9)
  | .st i a d => some (i ++ a ++ d ++ 0xa4#9)
  | .pref i a => some (i ++ a ++ 0xb0#17)
  | .flush a => some (0x0#7 ++ a ++ 0xb4#17)
  | .flushInv a => some (0x1#7 ++ a ++ 0xb4#17)
  | .fence => some (0xc8#32)
  | .phase => some (0xcc#32)
  | .wdrain => some (0xd0#32)
  | .btnSync a => some (0x0#7 ++ a ++ 0xd4#17)
  | .btnTest a g => some (0x1#7 ++ a ++ 0x0#3 ++ g ++ 0xd4#9)
  | .barInit a d => some (0x0#7 ++ a ++ d ++ 0xd8#9)
  | .barArv a d => some (0x1#7 ++ a ++ d ++ 0xd8#9)
  | .barExp a d => some (0x2#7 ++ a ++ d ++ 0xd8#9)
  | .barWait a d => some (0x3#7 ++ a ++ d ++ 0xd8#9)
  | .barTry a d => some (0x4#7 ++ a ++ d ++ 0xd8#9)
  | .fifoPut a d => some (0x1#7 ++ a ++ d ++ 0xdc#9)
  | .fifoGet a d => some (0x2#7 ++ a ++ d ++ 0xdc#9)
  | .fifoClose d => some (0x300#15 ++ d ++ 0xdc#9)
  | .fifoStat a d => some (0x4#7 ++ a ++ d ++ 0xdc#9)
  | .fadd x a d => some (x ++ a ++ d ++ 0x120#9)
  | .fsub x a d => some (x ++ a ++ d ++ 0x124#9)
  | .fmul x a d => some (x ++ a ++ d ++ 0x128#9)
  | .fmin x a d => some (x ++ a ++ d ++ 0x138#9)
  | .fmax x a d => some (x ++ a ++ d ++ 0x13c#9)
  | .fabs a d => some (0x0#7 ++ a ++ d ++ 0x140#9)
  | .fneg a d => some (0x1#7 ++ a ++ d ++ 0x140#9)
  | .fclass a d => some (0x0#7 ++ a ++ d ++ 0x148#9)
  | .frcp a d => some (0x0#7 ++ a ++ d ++ 0x14c#9)
  | .frsq a d => some (0x1#7 ++ a ++ d ++ 0x14c#9)
  | .fsqrt a d => some (0x2#7 ++ a ++ d ++ 0x14c#9)
  | .fdiv x a d => some (x ++ a ++ d ++ 0x150#9)
  | .fexp2 a d => some (0x0#7 ++ a ++ d ++ 0x154#9)
  | .flog2 a d => some (0x1#7 ++ a ++ d ++ 0x154#9)
  | .fsin a d => some (0x2#7 ++ a ++ d ++ 0x154#9)
  | .fcos a d => some (0x3#7 ++ a ++ d ++ 0x154#9)
  | .ftanh a d => some (0x4#7 ++ a ++ d ++ 0x154#9)
  | .frnd a d => some (0x0#7 ++ a ++ d ++ 0x158#9)
  | .fscale x a d => some (x ++ a ++ d ++ 0x15c#9)
  | .mxwait => some (0x1ac#32)
  | .mxfence => some (0x1b0#32)
  | .mxstat d => some (0x0#15 ++ d ++ 0x1b4#9)
  | .trap i => some (i ++ 0x1dc#25)
  | .eret => some (0x1e0#32)
  | .brk i => some (i ++ 0x1e4#25)
  | _ => none

/-- The words of an instruction; an event has none. -/
def encode (i : Instr) : List Word :=
  match encodeShort i with
  | some w => [w]
  | none =>
    match i.shape with
    | .form m e => encodeExt m e
    | .jump m j => encodeJump m j
    | .event => []

/-- The bytes of `nbits` bits of a row of the opcode table, followed by operand words of zeros. -/
def tableWords (nbits w : Nat) : List Word :=
  let w := w % 2 ^ nbits
  [BitVec.ofNat 32 w, BitVec.ofNat 32 (w >>> 32), BitVec.ofNat 32 (w >>> 64), BitVec.ofNat 32 (w >>> 96),
    BitVec.ofNat 32 (w >>> 128)]

/-- The instruction the decoder reads from the bits of a row of the opcode table: as a heat, or as the pacer
where the opcode is the pacer's alone. -/
def decodeTableWord (nbits w : Nat) : Option Instr :=
  match decode .heat (tableWords nbits w) with
  | .ok i _ => some i
  | .wrongUnit =>
    match decode .pacer (tableWords nbits w) with
    | .ok i _ => some i
    | _ => none
  | .illegal => none

end Sys2Proof
end

