-- ==== Sys2Proof/Machine/Records.lean ====
section
/-!
DEFINITION. Tensor records and tiles (R114 to R116, R378), the accesses of engines (R117, R145), and barrier objects with the
deliveries that engines make to them (R245, R247).
-/

namespace Sys2Proof.Machine

/-! ### Tensor records -/

/-- A GRID field has one of the layouts of Tables 26.1 and 26.2. -/
def gridOk (g : Nat) : Bool :=
  match bitsOf g 62 2 with
  | 0 => bitsOf g 10 52 = 0
  | 1 => bitsOf g 56 6 = 0 && bitsOf g 6 34 = 0
  | _ => false

/-- Bytes of an element of a record; type q counts elements (R115). -/
def elemBytes (ty : Ty) : Nat := if ty = .q then 1 else memBytes ty

/-- A record as its 512 bits hold it; none when it is malformed (R114). -/
def TRec.parse (v : Nat) : Option TRec :=
  let rank := bitsOf v 441 3 + 1
  let g := bitsOf v 445 1 = 1
  let grid := bitsOf v 448 64
  let dim := (List.range rank).map fun d => bitsOf v (56 + 32 * d) 32
  (tyOf (BitVec.ofNat 5 (bitsOf v 436 5))).bind fun ty =>
    if bitsOf v 446 2 ≠ 0 ∨ 5 < rank ∨ dim.any (· = 0) ∨ (if g then !gridOk grid else grid ≠ 0) then none
    else some {
      grid := if g then some (dw grid) else none
      oobt := bitsOf v 444 1 = 1
      rank := rank
      ty := ty
      ext := (List.range rank).map fun d => bitsOf v (376 + 12 * d) 12
      stride := (List.range rank).map fun d => if d = 0 then elemBytes ty else bitsOf v (216 + 40 * (d - 1)) 40
      dim := dim
      base := bitsOf v 0 56 }

/-- BASE and the used strides are aligned as R115 requires. -/
def TRec.aligned (r : TRec) : Bool :=
  if r.ty = .q then r.base % 65536 = 0 else r.base % elemBytes r.ty = 0 && r.stride.all fun k => k % elemBytes r.ty = 0

/-- Elements of the tile (R115). -/
def TRec.count (r : TRec) : Nat := (r.ext.map fun e => e + 1).prod

/-- Coordinates of element k of the tile at an origin, dimension 0 fastest (R115). -/
def tileCoords : List Nat → List Nat → Nat → List Nat
  | e :: es, c :: cs, k => (c + k % (e + 1)) :: tileCoords es cs (k / (e + 1))
  | e :: es, [], k => (k % (e + 1)) :: tileCoords es [] (k / (e + 1))
  | [], _, _ => []

/-- Sum of products of coordinates and strides. -/
def dotNat : List Nat → List Nat → Nat
  | x :: xs, y :: ys => x * y + dotNat xs ys
  | _, _ => 0

/-- Element k of a tile: its offset in bytes or elements when it lies inside DIM. -/
def TRec.offset? (r : TRec) (org : List Nat) (k : Nat) : Option Nat :=
  let xs := tileCoords r.ext org k
  if (xs.zip r.dim).all fun p => p.1 < p.2 then some (dotNat xs r.stride) else none

/-- Read a record at a global address through the unit, with the observation of a plain load (R88, R114, R116, R224): the space and alignment tests have
passed. -/
def State.readRecord (s : State) (x : Site) (fib va : Nat) : Except Bad TRec × State :=
  match s.reachX x va .load .plain with
  | .error b => (.error b, s)
  | .ok h =>
    if s.orderWaits x fib h false then (.error .hold, s)
    else if s.loadPoison x h (h.phys va) 64 false then (.error (.late cause.poison), s)
    else
      let (bs, s) := s.loadPage x h va 64 0 false
      match TRec.parse (leNat bs) with
      | some r => (.ok r, s)
      | none => (.error (.early cause.illegal), s)

/-- The space and alignment tests of a record or packet address (R224 step 4). -/
def recordAddress (a : Nat) : Option Byte :=
  if windowOf a ≠ some .global then some cause.spaceWindow else if a % 64 ≠ 0 then some cause.misaligned else none

/-- What an instruction that reads a record does with a failed read: a wait, a save, or the precise trap, whose %tinfo is word 0
for ILLEGAL_INSTRUCTION and the address for the others (Table 22.7). -/
def State.recordFault (s0 s : State) (x : Site) (is : List Nat) (a : Nat) : Bad → Out
  | .hold => s0.stall
  | .translation va => s.pageFault x is (is.headD 0) va (dw a)
  | .early c | .late c => s.trap x is c (is.headD 0) (if c = cause.illegal then s.cur.word0.setWidth 64 else dw a)

/-- n registers from r of a fibre, as numbers. -/
def Site.regList (x : Site) (i r n : Nat) : List Nat := (List.range n).map fun k => x.val i (r + k) 1

/-! ### Accesses of engines (R117, R145) -/

/-- Read bytes of one line at a virtual address for an engine, as the unit that started it would observe them, or later (R88, R145). -/
def State.engRead (s : State) (x : Site) (tlb : TlbId) (va n : Nat) : Except Bad (List Byte) × State :=
  if 2 ^ 56 < va + n then (.error (.early cause.spaceWindow), s)
  else
    match s.reach x.team.cl.die x.team.ctx tlb va .load .plain with
    | .error b => (.error b, s)
    | .ok h =>
      if s.seqWaits x.u h then (.error .hold, s)
      else if s.loadPoison x h (h.phys va) n true then (.error (.late cause.poison), s)
      else
        let (bs, s) := s.look x (.engine tlb) h (h.phys va) n
        match s.pageEntry x.team.ctx h with
        | some f => (.ok (deadZero f (va - h.base) bs), s)
        | none => (.ok bs, s)

/-- A layer without the bytes that an engine's write follows. -/
def Team.dropLayers (t : Team) (pas : List Nat) : Team :=
  { t with tmLayer := layerDrop t.tmLayer pas, sqLayer := t.sqLayer.map fun l => layerDrop l pas }

/-- Write bytes at the home for an engine of a unit's team (R145). Copies of a SEQ line are invalidated first (R359). On a PHASE page the write follows
what the team has published nearer, and the leased copies of its cluster show it: nothing older stands before it (R110, R148). The first write of a
STREAM granule keeps what it replaces, for those to whom it is not visible yet (R131): `offers` are those to whom it may become so, `whole` the chunk that a
converting write replaces. -/
def State.engPut (s : State) (x : Site) (h : Hit) (offers : List Offer) (pa : Nat) (bs : List Byte) (whole : Option Nat := none) : State :=
  let pas := addresses pa bs.length
  match h.cls with
  | .seq => (s.dropCopies fun c => c.cls = .seq ∧ pa < 64 * c.line + 64 ∧ 64 * c.line < pa + bs.length).seqWrite pa bs
  | .phase => ((((s.overtake x.team.id pas).homeWrite pa bs).renew x pas).passWide x.team.cl.die pas).updTeam x.team.id fun t => t.dropLayers pas
  | .stream => ((s.keepOld [] offers pa bs.length whole).homeWrite pa bs).setGranules (granulesOf pa bs.length)
  | .priv => s.homeWrite pa bs

/-- What an engine has written: the state, the STREAM granules of its operation so far (R130), and the cycle at which the last lease on what it wrote
expires: until then its home does not acknowledge (R129). -/
structure EngWrote where
  s    : State
  own  : List Nat
  till : Nat

/-- The leases that a write meets. -/
def State.writeLease (s : State) (h : Hit) (pa n : Nat) : Nat := if h.cls = .phase then s.leaseEnd pa n else 0

/-- Write bytes of one line at a virtual address for an engine; `own` are the STREAM granules that its operation has already
written (R130). The write waits until nobody outside the package holds its line (R359, R366). -/
def State.engWrite (s : State) (x : Site) (tlb : TlbId) (va : Nat) (bs : List Byte) (own : List Nat) (offers : List Offer) : Except Bad EngWrote :=
  if 2 ^ 56 < va + bs.length then .error (.early cause.spaceWindow)
  else
    match s.reach x.team.cl.die x.team.ctx tlb va .store .plain with
    | .error b => .error b
    | .ok h =>
      let pa := h.phys va
      let lines := linesOf pa bs.length
      match s.storeFault h pa bs.length (s.granules.filter (· ∉ own)) false with
      | some c => .error (.late c)
      | none =>
        if (s.notifyVf pa).isNone ∧ s.clear none h.cls lines = false then .error .hold
        else
          let live : List (Nat × List Byte) := match s.pageEntry x.team.ctx h with
            | none => [(pa, bs)]
            | some f => if (liveBytes f (va - h.base) bs).length = bs.length then [(pa, bs)]
                else (liveBytes f (va - h.base) bs).map fun p => (h.phys (h.base + p.1), [p.2])
          .ok { s := live.foldl (fun s p => s.engPut x h offers p.1 p.2) s, own := lines ++ own, till := s.writeLease h pa bs.length }

/-- Ask those outside the package who hold what an engine's write waits for (R359, R366). -/
def State.engAsk (s : State) (x : Site) (tlb : TlbId) (va n : Nat) : State :=
  match s.reach x.team.cl.die x.team.ctx tlb va .store .plain with
  | .error _ => s
  | .ok h => s.askOutside none h.cls (linesOf (h.phys va) n)

/-- The page of a type-q record that holds element j, with the position of the element in its page (R115). The base page gives the format alone; the
element's chunk is reached at each 4 KiB of it (R142). -/
def State.engPageOf (s : State) (x : Site) (tlb : TlbId) (base j : Nat) (k : AccKind) : Except Bad (Hit × Entry × Nat × Nat) :=
  if 2 ^ 56 ≤ base then .error (.early cause.spaceWindow)
  else
    match s.formatAt x.team.ctx tlb base with
    | .error b => .error b
    | .ok (h, f) =>
      let per := f.chunks * f.elems
      let va := base + 65536 * (j / per)
      let at_ := va + j % per / f.elems * f.chunkBytes
      if 2 ^ 56 ≤ va then .error (.early cause.spaceWindow)
      else
        match (s.translate x.team.ctx tlb va).map fun g => decide (g.fmt = h.fmt ∧ g.size = 65536) with
        | none => .error (.translation va)
        | some false => .error (.early cause.formatInvalid)
        | some true =>
          (s.wholePath x.team.cl.die at_ f.chunkBytes
            (State.reachAll (fun v => s.reach x.team.cl.die x.team.ctx tlb v k .conv) at_ f.chunkBytes)).map fun g => (g, f, va, j % per)

/-- The address that a failed access to element j of a type-q record reports (Table 22.7): the base when its page gives no format, else the page of
the element, or its chunk where the chunk's contents failed. -/
def State.engWhere (s : State) (x : Site) (tlb : TlbId) (base j : Nat) (b : Bad) : DWord :=
  match s.formatAt x.team.ctx tlb base with
  | .error _ => dw base
  | .ok (_, f) =>
    let per := f.chunks * f.elems
    let va := base + 65536 * (j / per)
    match b with
    | .late c =>
      s.pathInfoAt x va c (if c = cause.rindMismatch ∨ c = cause.poison then dw (va + j % per / f.elems * f.chunkBytes) else dw va)
    | _ => dw va

/-- The exact value of element j of a type-q record, the whole chunk checked (R86, R93, R115). -/
def State.engElem (s : State) (x : Site) (tlb : TlbId) (base j : Nat) : Except Bad Fp × State :=
  match s.engPageOf x tlb base j .load with
  | .error b => (.error b, s)
  | .ok (g, f, _, i) =>
    if s.seqWaits x.u g then (.error .hold, s)
    else
      match s.readChunk x (.engine tlb) g f (i / f.elems) with
      | (.error c, s) => (.error (.late c), s)
      | (.ok bs, s) =>
        let k := i % f.elems
        (.ok (f.value (elemAt f.w bs k) (scaleAt bs (k / f.block))), s)

/-! ### Barrier objects (R245, R247) -/

/-- A barrier object taken apart (Table 16.5); `low` keeps the reserved bits. -/
structure Barrier where
  phase   : Bool
  low     : Nat
  arrived : Nat
  target  : Nat
  posted  : Nat
  landed  : Nat
  deriving DecidableEq, Repr

/-- The object that 16 bytes hold. -/
def Barrier.ofNat (v : Nat) : Barrier :=
  { phase := bitsOf v 0 1 = 1, low := bitsOf v 1 31, arrived := bitsOf v 32 16, target := bitsOf v 48 16, posted := bitsOf v 64 32,
    landed := bitsOf v 96 32 }

/-- The 16 bytes of an object. -/
def Barrier.bytes (b : Barrier) : List Byte :=
  leBytes ((if b.phase then 1 else 0) + 2 * b.low + 2 ^ 32 * b.arrived + 2 ^ 48 * b.target + 2 ^ 64 * b.posted + 2 ^ 96 * b.landed) 16

/-- evaluate of R247: the object, and whether the phase completed. -/
def Barrier.evaluate (b : Barrier) : Barrier × Bool :=
  if b.arrived = b.target ∧ b.landed = b.posted then
    ({ b with phase := !b.phase, arrived := 0, posted := 0, landed := 0 }, true)
  else (b, false)

/-- Wake every BAR.WAIT of a heat on an object that a test of its parity names. -/
def Heat.wake (obj : Nat) (p : Bool → Bool) (h : Heat) : Heat :=
  { h with bars := h.bars.map fun w => if w.obj = obj ∧ p w.par then { w with woken := true } else w }

/-- Wake the waiters of a team. -/
def Team.wake (t : Team) (obj : Nat) (p : Bool → Bool) : Team :=
  { t with heats := t.heats.map (Heat.wake obj p), pacer := t.pacer.map (Heat.wake obj p) }

/-- Wake the waiters of the unit's team, its own heat included. -/
def Site.wake (x : Site) (obj : Nat) (p : Bool → Bool) : Site := { x with team := x.team.wake obj p, heat := x.heat.wake obj p }

/-- The object at a location of the unit. -/
def Site.barrier (x : Site) (l : Loc) : Barrier := Barrier.ofNat (leNat (x.readLocal 16 l))

/-- Put an object back and evaluate it: one step of the bank's order (R247). -/
def Site.putBarrier (x : Site) (obj : Nat) (l : Loc) (b : Barrier) : Site :=
  match b.evaluate with
  | (b, true) => (x.writeLocal b.bytes l).wake obj fun _ => true
  | (b, false) => x.writeLocal b.bytes l

/-- The generic address of an offset of a team's cluster-shared memory. -/
def Team.cshAddr (t : Team) (o : Nat) : Nat := 0xFFF8 * 2 ^ 48 + t.cl.loc * 2 ^ 32 + o

/-- Put an object of cluster-shared memory back for an engine, and evaluate it. -/
def Team.putBarrier (t : Team) (o : Nat) (b : Barrier) : Team :=
  match b.evaluate with
  | (b, true) => { t with cshMem := Memory.write t.cshMem o b.bytes }.wake (t.cshAddr o) fun _ => true
  | (b, false) => { t with cshMem := Memory.write t.cshMem o b.bytes }

/-- deliver of R247, for an engine of a team: none is BARRIER_OVERRUN. -/
def Team.deliver (t : Team) (o n : Nat) (parity : Bool) : Option Team :=
  let b := Barrier.ofNat (leNat (Memory.read t.cshMem o 16))
  if parity ≠ b.phase ∨ 2 ^ 32 - 1 < b.landed + n then none else some (t.putBarrier o { b with landed := b.landed + n })

/-- An arrival by an engine (R298): none is BARRIER_OVERRUN. -/
def Team.arrive (t : Team) (o : Nat) : Option Team :=
  let b := Barrier.ofNat (leNat (Memory.read t.cshMem o 16))
  if b.target < b.arrived + 1 then none else some (t.putBarrier o { b with arrived := b.arrived + 1 })

/-- An offset of 16 bytes lies in the team's cluster-shared allocation. -/
def Team.cshHolds (t : Team) (o : Nat) : Bool := decide (o + 16 ≤ t.cshared) && segsHold t.cshSegs o 16

end Sys2Proof.Machine
end

