-- ==== Sys2Proof/Machine/Sync.lean ====
section
/-!
DEFINITION. Barrier objects, FIFO banks, trigger counters and bank configuration: opcodes 0x36, 0x37, 0x3B and 0x3C
(R105, R107, R245 to R250, R256 to R258), and the driver's BANKCFG (R168).
-/

namespace Sys2Proof.Machine

/-! ### Barrier instructions (R245 to R247) -/

/-- The checks of a barrier address (R224, R245): the space test comes with check 1. -/
def Site.barAddress (x : Site) (i a : Nat) : Except Byte Loc :=
  match windowOf a with
  | some .scratch => x.check i a 16 16
  | some .shared => x.check i a 16 16
  | _ => .error cause.spaceWindow

/-- A barrier instruction: address and D are taken per issue. `us` are its fields. -/
def barOp (e : Ext) (d : Demand) (s : State) (f : State → Site → List Nat → Nat → Loc → Out) : Out :=
  issue e.guard d s fun s x is =>
    let i := is.headD 0
    let a := x.val i e.a.toNat 2
    match x.barAddress i a with
    | .error c => s.trap x is c i (dw a)
    | .ok l => f s x is a l

/-- D of the lowest executing fibre. -/
def Site.perIssueD (x : Site) (is : List Nat) (e : Ext) : Nat := x.val (is.headD 0) e.d.toNat 1

/-- BAR.INIT (R246, R247). -/
def opBarInit (e : Ext) (s : State) : Out :=
  barOp e (demand [readD e 1, readA e 2]) s fun s x is a l =>
    let d := x.perIssueD is e
    if d < 1 ∨ 65535 < d then s.trap x is cause.protection (is.headD 0) 0
    else
      let b : Barrier := { phase := false, low := 0, arrived := 0, target := d, posted := 0, landed := 0 }
      .next (s.done ((x.putBarrier a l b).wake a fun par => par))

/-- BAR.ARV (R246): a release at .tm, then the arrival. -/
def opBarArv (e : Ext) (s : State) : Out :=
  barOp e (demand [useD e 1, readA e 2]) s fun s1 x is a l =>
    let n := e.imm.toNat + 1
    let b := x.barrier l
    if b.target < b.arrived + n then s1.trap x is cause.barrierOverrun (is.headD 0) (dw a)
    else
      s.releaseThen s1 x .tm fun s x =>
        let b := x.barrier l
        let y := x.putBarrier a l { b with arrived := b.arrived + n }
        regEffect (fun _ i y => y.dst32 i e (if b.phase then 1 else 0)) s y is

/-- BAR.EXP (R246). -/
def opBarExp (e : Ext) (s : State) : Out :=
  barOp e (demand [readD e 1, readA e 2]) s fun s x is a l =>
    let b := x.barrier l
    let p := b.posted + x.perIssueD is e
    if 2 ^ 32 - 1 < p then s.trap x is cause.barrierOverrun (is.headD 0) (dw a)
    else .next (s.done (x.putBarrier a l { b with posted := p }))

/-- A wait of the heat at a PC on an object. -/
def Heat.waitAt (h : Heat) (pc : Pc) (obj : Nat) : Option BarWait := h.bars.find? fun w => w.pc = pc ∧ w.obj = obj

/-- Forget the waits at a PC. -/
def Heat.unwait (h : Heat) (pc : Pc) : Heat := { h with bars := h.bars.filter fun w => w.pc ≠ pc }

/-- The BAR.WAIT completes: it acquires at .tm (R246). -/
def State.passBarrier (s : State) (x : Site) : Out :=
  let (s, x) := s.acquireAt { x with heat := x.heat.unwait s.cur.pc } .tm
  .next (s.done x)

/-- BAR.WAIT (R246, R247): completion is evaluated at its first issue; after that only a later step wakes it. -/
def opBarWait (e : Ext) (s : State) : Out :=
  barOp e (demand [readD e 1, readA e 2]) s fun s1 x is a l =>
    match x.heat.waitAt s1.cur.pc a with
    | some w => if w.woken then s1.passBarrier x else s.stall true
    | none =>
      let y := x.putBarrier a l (x.barrier l)
      let par := bitsOf (x.perIssueD is e) 0 1 = 1
      if (y.barrier l).phase ≠ par then s1.passBarrier y
      else
        match s.here with
        | none => .next s
        | some x0 =>
          let z := x0.putBarrier a l (x0.barrier l)
          let h := z.heat.unwait s.cur.pc
          s.wait { z with heat := { h with bars := h.bars ++ [{ pc := s.cur.pc, obj := a, par := par, woken := false }] } } false true

/-- BAR.TRY (R246). -/
def opBarTry (e : Ext) (s : State) : Out :=
  barOp e (demandG [readD e 1, readA e 2]) s fun s x is a l =>
    let y := x.putBarrier a l (x.barrier l)
    let ok : Bool := (y.barrier l).phase ≠ (bitsOf (x.perIssueD is e) 0 1 = 1)
    let (s, y) := if ok then s.acquireAt y .tm else (s, y)
    regEffect (fun _ i y => y.setGuard i (e.c.toNat % 32) ok) s y is

/-! ### FIFO banks (R248 to R250) -/

/-- Elements that a FIFO bank holds (Table 16.7). -/
def fifoCapacity (ty : Ty) : Nat := 262144 / memBytes ty

/-- The bank of the unit's cluster that the team has mapped to a register number. -/
def State.fifoBank (s : State) (x : Site) (reg : Nat) : Option (Nat × Fifo) :=
  (s.cluster? x.team.cl).bind fun c => c.banks.zipIdx.findSome? fun (b, i) =>
    b.fifo.bind fun f => if f.team = x.team.id ∧ f.reg = reg then some (i, f) else none

/-- Change a bank of a cluster. -/
def State.updBank (s : State) (cl : ClusterRef) (b : Nat) (f : Bank → Bank) : State :=
  s.updCluster cl fun c => { c with banks := c.banks.modify b f }

/-- Put a FIFO into its bank. -/
def State.setFifo (s : State) (cl : ClusterRef) (b : Nat) (f : Fifo) : State := s.updBank cl b fun k => { k with fifo := some f }

/-- The physical bank that P names (R118). -/
def State.bankOf (s : State) (cl : ClusterRef) (p : BitVec 8) : Option Nat :=
  (s.cluster? cl).bind fun k => (k.bankPl[p.toNat]?).join

/-- A bank holds part of an allocation of a team. -/
def Team.usesBank (t : Team) (b : Nat) : Bool := t.cshSegs.any (fun g => g.bank = b) || t.scrSegs.any fun l => l.any fun g => g.bank = b

/-- A bank holds part of an allocation of another resident team, or another team has mapped it (R107). -/
def State.othersBank (s : State) (cl : ClusterRef) (team b : Nat) (k : Bank) : Bool :=
  (s.teams.any fun t => t.id ≠ team ∧ t.cl = cl ∧ t.st = .resident ∧ t.usesBank b) ||
    (k.fifo.map fun f => decide (f.team ≠ team)).getD false

/-- FIFO.MAP (R248, R249). -/
def opFifoMap (e : Ext) (s : State) : Out :=
  issue e.guard (demand []) s fun s x is =>
    let bad := s.trap x is cause.protection (is.headD 0) 0
    match s.bankOf x.team.cl e.p with
    | none => bad
    | some b =>
      match (s.cluster? x.team.cl).bind fun c => c.banks[b]? with
      | none => bad
      | some k =>
        if k.mode ≠ .fifo ∨ k.fifo.isSome ∨ s.othersBank x.team.cl x.team.id b k ∨ (s.fifoBank x e.d.toNat).isSome ∨ e.d = 0 then bad
        else
          .next ((s.setFifo x.team.cl b { team := x.team.id, reg := e.d.toNat, ty := e.ty, elems := [], opened := bitsOf e.imm.toNat 0 8 }).done x)

/-- A FIFO instruction on the FIFO that a register number names; one that the team has not mapped, or of another type, raises
PROTECTION (R248, R249). -/
def fifoOp (e : Ext) (reg : BitVec 8) (typed : Bool) (us : List Use) (v0 : Bool) (s : State)
    (f : State → Site → List Nat → Nat → Fifo → Out) : Out :=
  issue e.guard { uses := us, v0 := v0, leader := false } s fun s x is =>
    match s.fifoBank x reg.toNat with
    | none => s.trap x is cause.protection (is.headD 0) 0
    | some (b, q) =>
      if typed ∧ q.ty ≠ e.ty then s.trap x is cause.protection (is.headD 0) 0 else f s x is b q

/-- FIFO.PUT (R248, R249): D names the FIFO. -/
def opFifoPut (e : Ext) (s : State) : Out :=
  fifoOp e e.d true [readA e e.ty.regs] false s fun s1 x is b q =>
    if q.opened = 0 then s1.trap x is cause.protection (is.headD 0) 0
    else if fifoCapacity q.ty < q.elems.length + is.length then s.stall
    else .next ((s1.setFifo x.team.cl b { q with elems := q.elems ++ is.map fun i => dw (x.srcA i e) }).done x)

/-- Deliver FIFO elements to the lowest fibres, at once or through batons (R66, R250). -/
def State.giveFifo (s : State) (x : Site) (e : Ext) (vs : List (Nat × DWord)) : Option (State × Site) :=
  let n := e.ty.regs
  let words (v : DWord) : List Word := (List.range n).map fun k => wd (v.toNat / 2 ^ (32 * k))
  if s.choice = 0 ∨ vs = [] then some (s.chosen, vs.foldl (fun y p => y.putWords p.1 e.d.toNat (words p.2)) x)
  else
    (s.freeTag x).map fun tag =>
      let el (p : Nat × DWord) : FlightElem :=
        { fibre := p.1, reg := x.slotNo p.1 e.d.toNat, ea := 0, index := 0, waits := .arrival, deliv := .words (words p.2) }
      let f : Flight := { tag := tag, ord := x.heat.issued, kind := .fifoGet, pc := s.cur.pc, ty := e.ty, rs := 0, acq := false, vol := false,
                          rc := 0, elems := vs.map el }
      let y := vs.foldl (fun y p => y.putRecord p.1 e.d.toNat tag .pending 0 n) x
      (s.chosen, { y with heat := { y.heat with flights := y.heat.flights ++ [f] } })

/-- FIFO.GET (R250): A names the FIFO. -/
def opFifoGet (e : Ext) (s : State) : Out :=
  let nb := e.mod.getLsbD 0
  fifoOp e e.a true [useD e e.ty.regs] nb s fun s1 x is b q =>
    let k := q.elems.length
    if k < is.length ∧ 0 < q.opened ∧ nb = false then s.stall true
    else
      let got := (is.zip q.elems)
      let rest := is.drop k
      match s1.giveFifo x e got with
      | none => s.stall
      | some (s2, y) =>
        let s3 := s2.setFifo x.team.cl b { q with elems := q.elems.drop is.length }
        if nb then
          let y := is.foldl (fun y i => y.setGuard i (e.c.toNat % 32) (i ∉ rest)) y
          .next (s3.done y)
        else
          let st : RecState := .drained s1.cur.pc e.a.toNat x.heat.issued
          .next (s3.done (rest.foldl (fun y i => y.putRecord i e.d.toNat 0 st 0 e.ty.regs) y))

/-- FIFO.CLOSE (R248, R249). -/
def opFifoClose (e : Ext) (s : State) : Out :=
  fifoOp e e.d true [] false s fun s x is b q =>
    if q.opened = 0 then s.trap x is cause.protection (is.headD 0) 0
    else .next ((s.setFifo x.team.cl b { q with opened := q.opened - 1 }).done x)

/-- FIFO.STAT (R248). -/
def opFifoStat (e : Ext) (s : State) : Out :=
  fifoOp e e.a true [useD e 1] false s fun s x is _ q =>
    regEffect (fun _ i y => y.dst32 i e (q.elems.length % 2 ^ 17 + q.opened % 2 ^ 8 * 2 ^ 17)) s x is

/-! ### Trigger counters (R256, R257) -/

/-- The physical counter that P names (R118). -/
def State.trigOf (s : State) (cl : ClusterRef) (p : BitVec 8) : Option Nat :=
  (s.cluster? cl).bind fun k => (k.trigPl[p.toNat]?).join

/-- The value of a counter. -/
def State.trig (s : State) (cl : ClusterRef) (k : Nat) : Word := ((s.cluster? cl).map fun c => c.trigs.getD k 0).getD 0

/-- Set a counter. -/
def State.setTrig (s : State) (cl : ClusterRef) (k : Nat) (w : Word) : State :=
  s.updCluster cl fun c => { c with trigs := c.trigs.set k w }

/-- An instruction on the counter that P names; an invalid entry raises PROTECTION (R118). -/
def trigOp (e : Ext) (us : List Use) (v0 : Bool) (s : State) (f : State → Site → List Nat → Nat → Word → Out) : Out :=
  issue e.guard { uses := us ++ readB e 1, v0 := v0, leader := false } s fun s x is =>
    match s.trigOf x.team.cl e.p with
    | none => s.trap x is cause.protection (is.headD 0) 0
    | some k => f s x is k (wd (x.srcB (is.headD 0) e))

/-- The operations of a team that are armed on a counter start when its value meets their threshold (R257, R388). -/
def Team.fire (k : Nat) (v : Word) (t : Team) : Team :=
  { t with xfers := t.xfers.map fun x => match x.st with
      | .armed a => if a.trig = k ∧ holds v a.at_ then { x with st := .started } else x
      | _ => x }

/-- A team on a cluster whose clusters run starts what a counter's value starts. -/
def Team.fireOn (cl : ClusterRef) (k : Nat) (v : Word) (t : Team) : Team := if t.cl = cl ∧ t.st = .resident then t.fire k v else t

/-- A counter takes a value that an addition gives it, and the operations armed on it start (R257, R388). -/
def State.raiseTrig (s : State) (cl : ClusterRef) (k : Nat) (w : Word) : State :=
  let s := s.setTrig cl k w
  if s.runsOn cl.die then { s with teams := s.teams.map (Team.fireOn cl k w) } else s

/-- TRG.ADD (R256): a release at .dv, then the addition. -/
def opTrgAdd (e : Ext) (s : State) : Out :=
  trigOp e [] false s fun s1 x _ k b =>
    s.releaseThen s1 x .dv fun s x =>
      let v := s.trig x.team.cl k + b
      .next ((s.raiseTrig x.team.cl k v).done { x with team := if s.runsOn x.team.cl.die then x.team.fireOn x.team.cl k v else x.team })

/-- An operation armed on a counter. -/
def Xfer.armedOn (k : Nat) (x : Xfer) : Bool :=
  match x.st with
  | .armed a => a.trig = k
  | _ => false

/-- TRG.SET (R256): every operation armed on the counter, by any team of the cluster, is cancelled; one whose threshold held before has started (R257, R388).
DESIGN CHOICE: an operation of a saved team is not armed on any counter until it is restored, and so it is not cancelled (log entry 81). -/
def opTrgSet (e : Ext) (s : State) : Out :=
  trigOp e [] false s fun s x _ k b =>
    let was := s.trig x.team.cl k
    let off (t : Team) : Team := if t.cl = x.team.cl ∧ t.st = .resident then (t.fire k was).cancel (Xfer.armedOn k) else t
    let s := (s.setTrig x.team.cl k b)
    .next (({ s with teams := s.teams.map off } : State).done { x with team := off x.team })

/-- TRG.WAIT (R256): D and C of the form without .try are as for .try. -/
def opTrgWait (e : Ext) (s : State) : Out :=
  let try_ := e.mod.getLsbD 0
  trigOp e [useD e 1] try_ s fun s1 x is k b =>
    let c := s1.trig x.team.cl k
    let ok := holds c b
    if ok = false ∧ try_ = false then s.stall true
    else
      let (s2, y) := if ok then s1.acquireAt x .dv else (s1, x)
      regEffect (fun _ i y => (if try_ then y.setGuard i (e.c.toNat % 32) ok else y).dst32 i e c.toNat) s2 y is

/-- TRG.ARM (R256, R257): the heat's next TXFER or TXCOLL. -/
def opTrgArm (e : Ext) (s : State) : Out :=
  trigOp e [] false s fun s x _ k b => .next (s.done { x with heat := { x.heat with arm := some { trig := k, at_ := b } } })

/-! ### BANKCFG (R107, R258) -/

/-- The mode that M1 names (R258). -/
def bankMode (m1 : Nat) : BankMode :=
  match m1 with
  | 1 => .cache
  | 2 => .scratch
  | _ => .fifo

/-- The results of the atomics that a cluster's teams have performed there reach the home: later ones are performed there (R137). -/
def State.atomicsHome (s : State) (cl : ClusterRef) : State :=
  (s.teams.filter fun t => t.cl = cl).foldl (fun s t =>
    let bs := t.tmLayer.filter LayerByte.amo
    let pas := bs.map LayerByte.pa
    if bs = [] then s
    else
      (((s.overtake t.id pas).publish (bs.map LayerByte.cell)).updTeam t.id fun t => { t with tmLayer := layerDrop t.tmLayer pas }).dropCopies fun c =>
        decide (c.cls = .phase) && c.level.onPath cl && pas.any fun pa => decide (pa / 64 = c.line)) s

/-- Write the lines of a bank of a cluster's cache back and invalidate them: a bank is one way (R103, log entry 13). With the last one the cluster's atomics
move to the home (R137). -/
def State.emptyBank (s : State) (cl : ClusterRef) (b : Nat) : State :=
  let mine (c : CLine) : Bool := c.level = .clus cl && c.way = b
  let s := if s.cacheWays cl = [b] then s.atomicsHome cl else s
  (s.writeBackAll mine).dropCopies mine

/-- Forget the bytes of an allocation that lie in a bank, and mark its segments there as without storage (R100, R258). -/
def loseBank (b : Nat) : List Seg → Nat → List Host.Cell → List Seg × List Host.Cell
  | [], _, m => ([], m)
  | g :: r, o, m =>
    let m := if g.bank = b then m.filter fun p => p.1 < o ∨ o + g.size ≤ p.1 else m
    let (r, m) := loseBank b r (o + g.size) m
    ({ g with bank := if g.bank = b then 12 else g.bank } :: r, m)

/-- A team loses a bank. -/
def Team.loseBank (t : Team) (b : Nat) : Team :=
  let c := Sys2Proof.Machine.loseBank b t.cshSegs 0 t.cshMem
  let q := (t.scrSegs.zip t.scrMem).map fun p => Sys2Proof.Machine.loseBank b p.1 0 p.2
  { t with cshSegs := c.1, cshMem := c.2, scrSegs := q.map Prod.fst, scrMem := q.map Prod.snd }

/-- The answer of a bank switch: done, PROTECTION, or a wait for a FIFO to drain. -/
inductive BankAns where
  | done (s : State)
  | refused
  | waits

/-- Switch a bank for a team (Table 9.4). -/
def State.switchBank (s : State) (t : Team) (p : BitVec 8) (mode : BankMode) : BankAns :=
  match s.bankOf t.cl p with
  | none => .refused
  | some b =>
    match (s.cluster? t.cl).bind fun c => c.banks[b]? with
    | none => .refused
    | some k =>
      if s.othersBank t.cl t.id b k then .refused
      else if k.mode = mode then .done s
      else
        match k.mode with
        | .fifo =>
          match k.fifo with
          | some f =>
            if f.opened ≠ 0 ∨ f.elems ≠ [] then .waits
            else .done (s.updBank t.cl b fun _ => { mode := mode, placed := false, fifo := none })
          | none => .done (s.updBank t.cl b fun _ => { mode := mode, placed := false, fifo := none })
        | .cache => .done ((s.emptyBank t.cl b).updBank t.cl b fun _ => { mode := mode, placed := false, fifo := none })
        | .scratch =>
          let s := match s.team? t.id with
            | some t => s.setTeam (t.loseBank b)
            | none => s
          .done (s.updBank t.cl b fun _ => { mode := mode, placed := false, fifo := none })

/-- A command waits for the bank that P names on a cluster (R107). -/
def DriverCommand.forBank (cl : ClusterRef) (p : BitVec 8) (d : DriverCommand) : Bool := decide (d.op = .bankcfg cl ∧ d.e.p = p)

/-- The command is a unit's own BANKCFG. -/
def DriverCommand.ofUnit (u : UnitRef) (d : DriverCommand) : Bool := d.leader.any fun l => decide (l.1 = u)

/-- BANKCFG (R258): it waits behind what has come to its bank before it, where it stands in the order of arrival (R107). -/
def opBankcfg (e : Ext) (s : State) : Out :=
  issue e.guard { uses := [], v0 := false, leader := true } s fun s1 x is =>
    let mine (d : DriverCommand) : Bool := d.ofUnit x.u && d.forBank x.team.cl e.p
    let rest := s1.commands.filter fun d => !d.ofUnit x.u
    let me : DriverCommand := { driver := 0, ctx := x.team.ctx, team := x.team.id, op := .bankcfg x.team.cl, e := e, leader := some (x.u, s.cur.pc) }
    let waits : Out := (if s.commands.any mine then s else { s with commands := rest ++ [me] }).stall
    if (s1.commands.takeWhile fun d => !mine d).any (DriverCommand.forBank x.team.cl e.p) then waits
    else
      let s1 : State := { s1 with commands := rest }
      match (s1.put x).switchBank x.team e.p (bankMode e.m1.toNat) with
      | .refused => s1.trap x is cause.protection (is.headD 0) 0
      | .waits => waits
      | .done s2 =>
        match s2.here with
        | some y => .next (s2.done y)
        | none => .next s2

/-- A leader's BANKCFG that has waited still does: its heat stands at it (R107). -/
def State.bankStands (s : State) (l : UnitRef × Pc) : Bool :=
  ((s.site? l.1).map fun x => decide (x.team.st = .resident) && x.heat.fibres.any fun f => (f.map fun f => decide (f.pc = l.2)).getD false).getD false

/-- Perform BANKCFG as the driver sends it: on a saved team the switch takes hold at restore, and behind an earlier command on the same bank that waits it
waits as well (R107, R168). -/
def State.driverBank (s : State) (e : Ext) (x : Site) : Command :=
  if x.team.st = .saved ∨ s.commands.any (DriverCommand.forBank x.team.cl e.p) then .waits
  else
    match s.switchBank x.team e.p (bankMode e.m1.toNat) with
    | .refused => .status cause.protection s
    | .waits => .waits
    | .done s => .status 0 s

/-- A command for BANKCFG (R107, R168): it names a team of the context on a cluster. -/
def State.commandBank (s : State) (d : DriverCommand) (cl : ClusterRef) : Command :=
  s.commandOn d (.bankcfg d.e) [] (some cl) fun s x => s.driverBank d.e x

/-- DRIVER_BANKCFG (R168). -/
def opDriverBankcfg (driver ctx team : Nat) (cl : ClusterRef) (e : Ext) (s : State) : Out :=
  let d : DriverCommand := { driver := driver, ctx := ctx, team := team, op := .bankcfg cl, e := e }
  .next ((s.commandBank d cl).answer d s)

/-- The command (R168). -/
def execDriverBankcfg (by_ : DriverRef) (team : Nat) (cl : ClusterRef) (e : Ext) (s : State) : Out :=
  if s.parses cl.die then opDriverBankcfg by_.driver by_.ctx team cl e s else .next s

/-! ### The meanings, one for each row of the opcode table -/

/-- BAR_INIT (R246), the short form (R164). -/
def execBarInit (a : BitVec 8) (d : BitVec 8) (s : State) : Out := opBarInit (shortFn .s8 0 a d) s

/-- BAR_INIT_EXT (R246). -/
def execBarInitExt (e : Ext) (s : State) : Out := opBarInit e s

/-- BAR_ARV (R246), the short form (R164). -/
def execBarArv (a : BitVec 8) (d : BitVec 8) (s : State) : Out := opBarArv (shortFn .s8 1 a d) s

/-- BAR_ARV_EXT (R246). -/
def execBarArvExt (e : Ext) (s : State) : Out := opBarArv e s

/-- BAR_EXP (R246), the short form (R164). -/
def execBarExp (a : BitVec 8) (d : BitVec 8) (s : State) : Out := opBarExp (shortFn .s8 2 a d) s

/-- BAR_EXP_EXT (R246). -/
def execBarExpExt (e : Ext) (s : State) : Out := opBarExp e s

/-- BAR_WAIT (R246), the short form (R164). -/
def execBarWait (a : BitVec 8) (d : BitVec 8) (s : State) : Out := opBarWait (shortFn .s8 3 a d) s

/-- BAR_WAIT_EXT (R246). -/
def execBarWaitExt (e : Ext) (s : State) : Out := opBarWait e s

/-- BAR_TRY (R246), the short form (R164). -/
def execBarTry (a : BitVec 8) (d : BitVec 8) (s : State) : Out := opBarTry (shortFn .s8 4 a d) s

/-- BAR_TRY_EXT (R246). -/
def execBarTryExt (e : Ext) (s : State) : Out := opBarTry e s

/-- FIFO_MAP (R248). -/
def execFifoMap (e : Ext) (s : State) : Out := opFifoMap e s

/-- FIFO_PUT (R248), the short form (R164). -/
def execFifoPut (a : BitVec 8) (d : BitVec 8) (s : State) : Out := opFifoPut (shortFn .b32 1 a d) s

/-- FIFO_PUT_EXT (R248). -/
def execFifoPutExt (e : Ext) (s : State) : Out := opFifoPut e s

/-- FIFO_GET (R250), the short form (R164). -/
def execFifoGet (a : BitVec 8) (d : BitVec 8) (s : State) : Out := opFifoGet (shortFn .b32 2 a d) s

/-- FIFO_GET_EXT (R250). -/
def execFifoGetExt (e : Ext) (s : State) : Out := opFifoGet e s

/-- FIFO_CLOSE (R248), the short form (R164). -/
def execFifoClose (d : BitVec 8) (s : State) : Out := opFifoClose (shortFn .b32 3 0 d) s

/-- FIFO_CLOSE_EXT (R248). -/
def execFifoCloseExt (e : Ext) (s : State) : Out := opFifoClose e s

/-- FIFO_STAT (R248), the short form (R164). -/
def execFifoStat (a : BitVec 8) (d : BitVec 8) (s : State) : Out := opFifoStat (shortFn .b32 4 a d) s

/-- FIFO_STAT_EXT (R248). -/
def execFifoStatExt (e : Ext) (s : State) : Out := opFifoStat e s

/-- TRG_ADD (R256). -/
def execTrgAdd (e : Ext) (s : State) : Out := opTrgAdd e s

/-- TRG_SET (R256). -/
def execTrgSet (e : Ext) (s : State) : Out := opTrgSet e s

/-- TRG_WAIT (R256). -/
def execTrgWait (e : Ext) (s : State) : Out := opTrgWait e s

/-- TRG_ARM (R256). -/
def execTrgArm (e : Ext) (s : State) : Out := opTrgArm e s

/-- BANKCFG (R258). -/
def execBankcfg (e : Ext) (s : State) : Out := opBankcfg e s

end Sys2Proof.Machine
end

