-- ==== Sys2Proof/Machine/Copy.lean ====
section
/-!
DEFINITION. Copies: opcodes 0x38 to 0x3A (R251 to R255), and the copy engine's own steps (R108, R109, R145, R253, R254).
-/

namespace Sys2Proof.Machine

/-! ### Sides of a copy -/

/-- Where a byte of one side lies: a generic address, a global address, or an element outside DIM, discarded or refused (R115). -/
inductive Spot where
  | generic (a : Nat)
  | va (a : Nat)
  | outside
  | barred (a : Nat)
  deriving DecidableEq, Repr

/-- The place of byte pos of a side whose elements have esz bytes. -/
def Side.spot (sd : Side) (esz pos : Nat) : Spot :=
  match sd with
  | .linear a => .generic ((a.toNat + pos) % 2 ^ 64)
  | .tile r org =>
    match r.offset? org (pos / esz) with
    | some o => .va (r.base + o + pos % esz)
    | none => if r.oobt then .barred (r.base + dotNat (tileCoords r.ext org (pos / esz)) r.stride) else .outside

/-- Bytes that a side takes before its next line or element begins. -/
def Side.room (sd : Side) (esz pos : Nat) : Nat :=
  match sd with
  | .linear a => 64 - (a.toNat + pos) % 64
  | .tile _ _ => esz - pos % esz

/-- The address that a trap of this place reports (R354). -/
def Spot.info : Spot → DWord
  | .generic a => dw a
  | .va a => dw a
  | .outside => 0
  | .barred a => dw a

/-- What an engine's access meets, with the address that it reports. -/
abbrev Miss := Bad × DWord

/-- What an engine's failed access at a virtual address reports (R354). -/
def State.missOf (s : State) (x : Site) (va : Nat) (info : DWord) (b : Bad) : Miss :=
  match b with
  | .late c => (b, s.pathInfoAt x va c info)
  | _ => (b, info)

/-- Read bytes of one line at a place, for an engine that a unit started (R145). -/
def State.spotRead (s : State) (x : Site) (tlb : TlbId) (fib n : Nat) (p : Spot) : Except Miss (List Byte) × State :=
  let put (va : Nat) : Except Miss (List Byte) × State :=
    match s.engRead x tlb va n with
    | (.error b, s) => (.error (s.missOf x va p.info b), s)
    | (.ok bs, s) => (.ok bs, s)
  match p with
  | .outside => (.ok (List.replicate n 0), s)
  | .barred _ => (.error (.early cause.protection, p.info), s)
  | .va a => put a
  | .generic a =>
    match x.check fib a n 1 with
    | .error c => (.error (.early c, p.info), s)
    | .ok (.virt va) => put va
    | .ok l => (.ok (x.readLocal n l), s)

/-- Write bytes of one line at a place, for an engine; `own` are the granules its operation has written (R130), `offers` those to whom a STREAM write may
become visible. -/
def State.spotWrite (s : State) (x : Site) (tlb : TlbId) (fib : Nat) (bs : List Byte) (own : List Nat) (offers : List Offer) (p : Spot) :
    Except Miss EngWrote :=
  let put (va : Nat) : Except Miss EngWrote := (s.engWrite x tlb va bs own offers).mapError (s.missOf x va p.info)
  match p with
  | .outside => .ok { s := s, own := own, till := 0 }
  | .barred _ => .error (.early cause.protection, p.info)
  | .va a => put a
  | .generic a =>
    match x.check fib a bs.length 1 with
    | .error c => .error (.early c, p.info)
    | .ok (.virt va) => put va
    | .ok l => .ok { s := s.put (x.writeLocal bs l), own := own, till := 0 }

/-- Ask those outside the package whom the write of a place waits for (R359, R366). -/
def State.spotAsk (s : State) (x : Site) (tlb : TlbId) (fib n : Nat) (p : Spot) : State :=
  match p with
  | .outside | .barred _ => s
  | .va a => s.engAsk x tlb a n
  | .generic a =>
    match x.check fib a n 1 with
    | .ok (.virt va) => s.engAsk x tlb va n
    | _ => s

/-- The record of a side, when it is one. -/
def Side.rec? : Side → Option TRec
  | .linear _ => none
  | .tile r _ => some r

/-- The tile origin of a side. -/
def Side.origin : Side → List Nat
  | .linear _ => []
  | .tile _ o => o

/-- Bytes of one element as a copy counts them in its destination (R253). -/
def Copy.esz (c : Copy) : Nat :=
  match c.mode with
  | .linear => 1
  | .tile => (c.src.rec?.map fun r => elemBytes r.ty).getD 1
  | .untile => (c.dst.rec?.map fun r => elemBytes r.ty).getD 1
  | .deq => memBytes c.ty
  | .quant => 1

/-- Bytes of the next piece: within one line, or one element, of each side. -/
def Copy.piece (c : Copy) : Nat :=
  let e := c.esz
  min (c.total - c.done) (min (c.dst.room e c.done) (match c.mode with
    | .deq => e - c.done % e
    | _ => c.src.room e c.done))

/-- The TLB of the copy engines of a cluster (R117). -/
def Site.copyTlb (x : Site) : TlbId := .copy x.team.cl

/-- The source bytes of the next piece; mode 3 converts the element with RNE (R233, R253). -/
def State.copySource (s : State) (x : Site) (c : Copy) (n : Nat) : Except Miss (List Byte) × State :=
  match c.mode, c.src with
  | .deq, .tile r org =>
    let e := c.esz
    let out (v : Nat) : List Byte := ((leBytes v e).drop (c.done % e)).take n
    match r.offset? org (c.done / e) with
    | none => if r.oobt then (.error (.early cause.protection, dw r.base), s) else (.ok (out 0), s)
    | some j =>
      match s.engElem x x.copyTlb r.base j with
      | (.error b, s) => (.error (b, s.engWhere x x.copyTlb r.base j b), s)
      | (.ok v, s) => (.ok (out ((fmtOf c.ty).round 0 0 v)), s)
  | _, sd => s.spotRead x x.copyTlb c.fibre n (sd.spot c.esz c.done)

/-- To whom the STREAM writes of a channel's copy may become visible: those who observe its write pointer, and with a barrier link the team's units that
complete a wait on the object (R131, R148). -/
def Copy.offers (c : Copy) (cl : ClusterRef) (k : Nat) : List Offer :=
  { toward := .pointer cl k, by_ := none } :: (if c.bar.isSome then [{ toward := .team c.u.team, by_ := some (c.u, cl) }] else [])

/-- The copy after it has written: n more bytes, whose leases end at a cycle. -/
def Copy.wrote (c : Copy) (n : Nat) (w : EngWrote) : Copy := { c with done := c.done + n, grans := w.own, till := max c.till w.till }

/-- One piece of a copy of modes 0 to 3 on channel k: what it meets, or the copy after it. Where its write waits for copies outside the package, they are
asked for. -/
def State.copyPiece (s : State) (x : Site) (k : Nat) (c : Copy) : Except Miss Copy × State :=
  let n := c.piece
  match s.copySource x c n with
  | (.error m, s) => (.error m, s)
  | (.ok bs, s) =>
    let p := c.dst.spot c.esz c.done
    match s.spotWrite x x.copyTlb c.fibre bs c.grans (c.offers x.team.cl k) p with
    | .error (.hold, info) => (.error (.hold, info), s.spotAsk x x.copyTlb c.fibre n p)
    | .error m => (.error m, s)
    | .ok w => (.ok (c.wrote n w), w.s)

/-! ### Mode 4 (R253, R91) -/

/-- The values of the tile's elements in element order, read from the linear source, with the numbers that SR drew. -/
def State.quantValues (s : State) (x : Site) (c : Copy) (a : Nat) : Nat → Nat → Word → Except Miss (List Supply) × State
  | 0, _, _ => (.ok [], s)
  | n + 1, k, seed =>
    let sz := memBytes c.ty
    let byte (s : State) (i : Nat) : Except Miss (List Byte) × State :=
      s.spotRead x x.copyTlb c.fibre 1 (.generic ((a + k * sz + i) % 2 ^ 64))
    let rec bytes (s : State) : Nat → Nat → Except Miss (List Byte) × State
      | 0, _ => (.ok [], s)
      | m + 1, i =>
        match byte s i with
        | (.error b, s) => (.error b, s)
        | (.ok v, s) =>
          match bytes s m (i + 1) with
          | (.error b, s) => (.error b, s)
          | (.ok r, s) => (.ok (v ++ r), s)
    match bytes s sz 0 with
    | (.error b, s) => (.error b, s)
    | (.ok bs, s) =>
      let seed := srNext seed
      match s.quantValues x c a n (k + 1) seed with
      | (.error b, s) => (.error b, s)
      | (.ok r, s) => (.ok ({ val := readF c.ty false (leNat bs), draw := seed.toNat } :: r), s)

/-- The positions of a tile's elements, none for one outside DIM. -/
def TRec.positions (r : TRec) (org : List Nat) : List (Option Nat) := (List.range r.count).map (r.offset? org)

/-- Every block that positions touch is covered whole (R252). -/
def blocksWhole (b : Nat) (ps : List Nat) : Bool := ps.all fun j => (List.range b).all fun i => (j / b * b + i) ∈ ps

/-- The latest value supplied for a position: where elements overlap, the later one prevails (R115). -/
def lastAt (j : Nat) (vs : List (Nat × Supply)) : Option Supply := (vs.reverse.find? fun p => p.1 = j).map Prod.snd

/-- Write one chunk of a converting copy: its covered blocks and its rind, and nothing else of it (R91, R92, R253); a chunk that is written whole has zero
bits after its last element (R87). -/
def State.quantChunk (s : State) (x : Site) (k : Nat) (c : Copy) (base ch : Nat) (vs : List (Nat × Supply)) : Except Miss EngWrote × State :=
  let j := (vs.headD (0, ⟨.nan, 0⟩)).1
  match s.engPageOf x x.copyTlb base j .store with
  | .error b => (.error (b, s.engWhere x x.copyTlb base j b), s)
  | .ok (h, f, va, _) =>
    let first := ch * f.elems
    let blocks := (List.range f.blocks).filter fun k => (lastAt (first + k * f.block) vs).isSome
    let whole : Bool := blocks.length = f.blocks
    let ofs := (ch % f.chunks) * f.chunkBytes
    let pa := h.phys (va + ofs)
    let lines := linesOf pa f.chunkBytes
    if h.cls = .stream ∧ whole = false then (.error (.early cause.classIllegal, dw (va + ofs)), s)
    else
      match s.storeFault h pa f.chunkBytes (s.granules.filter (· ∉ c.grans)) false with
      | some cs => (.error (.late cs, dw (va + ofs)), s)
      | none =>
        if s.clear none h.cls lines = false then (.error (.hold, dw (va + ofs)), s.askOutside none h.cls lines)
        else
          let (old, s) := s.homeRead pa f.chunkBytes
          let (new, sat) := blocks.foldl (fun (acc : List Byte × Nat) k =>
            let blk := (List.range f.block).map fun i => (lastAt (first + k * f.block + i) vs).getD ⟨.nan, 0⟩
            let (b, n) := f.putBlocks c.rs.toNat 1 acc.1 k blk
            (b, acc.2 + n)) (if whole then f.clearTail old else old, 0)
          let out := f.rewrite h.fmt new sat whole
          let piece (o n : Nat) : Nat × List Byte := (pa + o, (out.drop o).take n)
          let pieces := if whole then [(pa, out)] else
            blocks.flatMap (fun b => [piece (b * f.block * f.w / 8) (f.block * f.w / 8), piece (4096 + 3 * b) 3]) ++ [piece (4096 + f.scaleArea) 16]
          (.ok { s := pieces.foldl (fun s p => s.engPut x h (c.offers x.team.cl k) p.1 p.2 (some pa)) s, own := lines ++ c.grans,
                 till := s.writeLease h pa f.chunkBytes }, s)

/-- Write the chunks that are left, in the order of their first elements, until one fails. -/
def State.quantChunks (s : State) (x : Site) (k : Nat) (c : Copy) (base : Nat) (per : Nat) (vs : List (Nat × Supply)) :
    List Nat → State × Copy × Option Miss
  | [] => (s, c, none)
  | ch :: r =>
    if ch ∈ c.chunks then s.quantChunks x k c base per vs r
    else
      match s.quantChunk x k c base ch (vs.filter fun p => p.1 / per = ch) with
      | (.error m, s) => (s, c, some m)
      | (.ok w, _) => w.s.quantChunks x k { c.wrote 0 w with chunks := ch :: c.chunks } base per vs r

/-- Elements from the first whose chunks are all written; those outside DIM are discarded, and count (R253). -/
def leading (per : Nat) (done : List Nat) : List (Option Nat) → Nat
  | [] => 0
  | some j :: r => if j / per ∈ done then 1 + leading per done r else 0
  | none :: r => 1 + leading per done r

/-- A copy of mode 4, as far as it goes: element positions run through the record's pages, so chunk numbers do too. An element outside DIM is discarded, or
with OOBT stops the copy where it stands: chunks with elements after it are not written (R115, R253). -/
def State.copyQuant (s : State) (x : Site) (k : Nat) (c : Copy) : State × Copy × Option Miss :=
  match c.dst, c.src with
  | .tile r org, .linear a =>
    match s.formatAt x.team.ctx x.copyTlb r.base with
    | .error b => (s, c, some (b, dw r.base))
    | .ok (_, f) =>
      let ps := r.positions org
      if blocksWhole f.block (ps.filterMap id) = false then (s, c, some (.early cause.formatInvalid, dw r.base))
      else
        match s.quantValues x c a.toNat r.count 0 c.seed with
        | (.error m, s) => (s, c, some m)
        | (.ok us, s) =>
          let vs := (ps.zip us).filterMap fun p => p.1.map fun j => (j, p.2)
          let stop := if r.oobt then ps.findIdx? Option.isNone else none
          let late := match stop with
            | some i => ((ps.drop i).filterMap id).map fun j => j / f.elems
            | none => []
          let chunks := ((vs.map fun p => p.1 / f.elems).dedup).filter (· ∉ late)
          let (s, c, m) := s.quantChunks x k c r.base f.elems vs chunks
          let m := m.or (stop.map fun i => (.early cause.protection, (Side.spot (.tile r org) 1 i).info))
          let n := if m.isNone then c.total else min c.total (leading f.elems c.chunks (match stop with | some i => ps.take i | none => ps) * f.w / 8)
          (s, { c with done := max c.done n }, m)
  | _, _ => (s, c, none)

/-! ### Running copies -/

/-- Pieces of a copy until `left` bytes are moved, the copy ends, or a piece fails. -/
def State.copyRun (s : State) (k : Nat) (c : Copy) (left : Nat) : Nat → State × Copy × Option Miss
  | 0 => (s, c, none)
  | fuel + 1 =>
    if left = 0 ∨ c.total ≤ c.done then (s, c, none)
    else
      match s.site? c.u with
      | none => (s, c, none)
      | some x =>
        match s.copyPiece x k c with
        | (.error m, s) => (s, c, some m)
        | (.ok d, s) => s.copyRun k d (left - (d.done - c.done)) fuel

/-- Move up to n bytes of a copy. -/
def State.copyMove (s : State) (k : Nat) (c : Copy) (n : Nat) : State × Copy × Option Miss :=
  match c.mode with
  | .quant =>
    match s.site? c.u with
    | some x => if c.total ≤ c.done then (s, c, none) else s.copyQuant x k c
    | none => (s, c, none)
  | _ => s.copyRun k c n n

/-- Change a copy channel. -/
def State.updChan (s : State) (cl : ClusterRef) (k : Nat) (f : Chan → Chan) : State :=
  s.updCluster cl fun c => { c with chans := c.chans.modify k f }

/-- A deferred trap of a copy: it carries the PC of the CPY (R254). -/
def Copy.trap (c : Copy) (cs : Byte) (info : DWord) : DTrap :=
  { cause := cs, inner := 0, pc := c.pc, info := info, src := some c.u.who }

/-- A copy stops and its channel enters its error state (R254). DESIGN CHOICE: the copies queued behind it leave the queue, so that they neither run
after CPY.PTR.clr nor count as queued (log entry 65). -/
def State.copyStop (s : State) (cl : ClusterRef) (k : Nat) (c : Copy) (cs : Byte) (info : DWord) : State :=
  (s.updChan cl k fun ch => { ch with err := true, queue := [] }).defer c.u.team (c.trap cs info)

/-- Deliver written bytes to the linked object (R247, R253): an overrun is a deferred trap; an object whose bytes are out of reach stops
the copy (log entry 22). -/
def State.copyDeliver (s : State) (cl : ClusterRef) (k : Nat) (c : Copy) (n : Nat) : State :=
  match c.bar, s.team? c.u.team with
  | some b, some t =>
    if n = 0 then s
    else if t.cshHolds b.off = false then s.copyStop cl k c cause.spaceWindow (dw (t.cshAddr b.off))
    else
      match t.deliver b.off n b.parity with
      | some t => s.setTeam t
      | none => s.defer c.u.team (c.trap cause.barrierOverrun (dw (t.cshAddr b.off)))
  | _, _ => s

/-- What a copy has written is acknowledged, unless leases stand on it (R129). -/
def Copy.settle (now : Nat) (c : Copy) : Copy := if c.till ≤ now then { c with acked := c.done } else c

/-- Advance a channel past the bytes of its first copy that are acknowledged (R109): a finished copy leaves the queue. -/
def Chan.moved (ch : Chan) (c d : Copy) : Chan :=
  let rest := ch.queue.tail
  { ch with w := ch.w + wd (d.acked - c.acked), queue := if d.total ≤ d.acked then rest else d :: rest }

/-- A copy has moved on: W, counter 7 and the barrier link follow what is acknowledged (R109, R253, R318). -/
def State.copyOn (s : State) (cl : ClusterRef) (k : Nat) (c d : Copy) : State × Copy :=
  let d := d.settle s.now
  let n := d.acked - c.acked
  ((((s.updChan cl k fun ch => ch.moved c d).updTeam c.u.team fun t => t.count 7 n)).copyDeliver cl k d n, d)

/-- The running copy of a channel that may move: its team is resident on a die that runs. -/
def State.running (s : State) (cl : ClusterRef) (k : Nat) : Option Copy :=
  (s.chan? cl k).bind fun ch =>
    match ch.queue with
    | c :: _ =>
      if ch.err = false ∧ c.started ∧ c.held = none ∧ ((s.team? c.u.team).map fun t => decide (t.st = .resident)).getD false then some c else none
    | [] => none

/-- COPY_START (R109): the copy ahead has finished. -/
def opCopyStart (cl : ClusterRef) (chan : Nat) (s : State) : Out :=
  .next (s.updChan cl chan fun ch => match ch.queue with
    | c :: r => { ch with queue := { c with started := true } :: r }
    | [] => ch)

/-- The event while the clusters of the die run (R393, R398). -/
def execCopyStart (cl : ClusterRef) (chan : Nat) (s : State) : Out := if s.runsOn cl.die then opCopyStart cl chan s else .next s

/-- COPY_PORTION_WRITTEN (R109, R247, R253). -/
def opCopyPortionWritten (cl : ClusterRef) (chan : Nat) (count : Nat) (s : State) : Out :=
  match s.running cl chan with
  | none => .next s
  | some c =>
    let (s, d, _) := s.copyMove chan c count
    .next (s.copyOn cl chan c d).1

/-- The event while the clusters of the die run (R393, R398). -/
def execCopyPortionWritten (cl : ClusterRef) (chan : Nat) (count : Nat) (s : State) : Out := if s.runsOn cl.die then opCopyPortionWritten cl chan count s else .next s

/-- What a fault of a copy does (R254, R342, R344). -/
def State.copyMiss (s : State) (cl : ClusterRef) (k : Nat) (c : Copy) : Miss → State
  | (.hold, _) => s
  | (.translation va, info) =>
    match s.site? c.u with
    | none => s
    | some x =>
      if x.failedPageFor (.copy k) va then (s.put (x.forgetPageFor (.copy k) va)).copyStop cl k c cause.pageRequestFailed info
      else (s.put (x.wantPageFor (.copy k) va)).updChan cl k fun ch => { ch with queue := match ch.queue with
        | c :: r => { c with held := some (va / 4096) } :: r
        | [] => [] }
  | (.early cs, info) => s.copyStop cl k c cs info
  | (.late cs, info) => s.copyStop cl k c cs info

/-- COPY_FAULT (R254): the next piece of the copy meets a fault, once what it has written is acknowledged. A converting copy keeps the chunks that it
wrote before the fault. -/
def opCopyFault (cl : ClusterRef) (chan : Nat) (s : State) : Out :=
  match s.running cl chan with
  | none => .next s
  | some c =>
    if s.now < c.till then .next s
    else
      match (if c.mode = .quant then s.copyMove chan c 1 else ((s.copyMove chan c 1).1, c, (s.copyMove chan c 1).2.2)) with
      | (s2, d, some m) =>
        if s2.now < d.till then .next (s2.copyOn cl chan c d).1
        else
          let (s2, d) := s2.copyOn cl chan c d
          .next (s2.copyMiss cl chan d m)
      | (_, _, none) => .next s

/-- The event while the clusters of the die run (R393, R398). -/
def execCopyFault (cl : ClusterRef) (chan : Nat) (s : State) : Out := if s.runsOn cl.die then opCopyFault cl chan s else .next s

/-! ### CPY (R251, R252) -/

/-- The mode that M1 names (Table 16.8). -/
def copyModeOf (m1 : Nat) : CopyMode :=
  match m1 with
  | 0 => .linear
  | 1 => .tile
  | 2 => .untile
  | 3 => .deq
  | _ => .quant

/-- What the operands of a CPY name: both sides, and the destination byte count. -/
structure CopyPlan where
  dst   : Side
  src   : Side
  total : Nat
  draws : Nat
  deriving DecidableEq, Repr

/-- How planning a CPY ends: with a plan, a precise trap with its %tinfo, or what reading a record met. -/
inductive Planned where
  | plan (p : CopyPlan)
  | trap (c : Byte) (info : DWord)
  | miss (b : Bad) (a : Nat)

/-- A linear side (R252): checks 1 to 3 of R99 over the whole range. -/
def Site.linear (x : Site) (i a n : Nat) : Option (Byte × DWord) :=
  match x.check i a (max n 1) 1 with
  | .error c => some (c, dw a)
  | .ok _ => none

/-- The plan of a linear copy. -/
def Site.planLinear (x : Site) (i a b n : Nat) : Planned :=
  match (x.linear i a n).or (x.linear i b n) with
  | some (c, info) => .trap c info
  | none => if n < 1 ∨ 2 ^ 30 < n then .trap cause.protection 0 else .plan { dst := .linear (dw a), src := .linear (dw b), total := n, draws := 0 }

/-- The tests of a record and its linear side once the record is read; `lin` is the linear address and `bytes` its length, `total`
the destination's. -/
def Site.planTile (x : Site) (i : Nat) (r : TRec) (ra lin bytes total : Nat) (q : Bool) (p : CopyPlan) : Planned :=
  match x.linear i lin bytes with
  | some (c, info) => .trap c info
  | none =>
    if 2 ^ 30 < total then .trap cause.protection 0
    else if (r.ty == .q) ≠ q then .trap cause.formatInvalid (dw ra)
    else if r.aligned = false then .trap cause.misaligned (dw ra)
    else .plan p

/-- The plan of a CPY (R252), and the state after its record was read. -/
def State.planCopy (s : State) (x : Site) (e : Ext) (i a b : Nat) : Planned × State :=
  let mode := copyModeOf e.m1.toNat
  if mode = .linear then (x.planLinear i a b (x.val i e.c.toNat 1), s)
  else
    let toRec : Bool := mode = .untile ∨ mode = .quant
    let ra := if toRec then a else b
    let lin := if toRec then b else a
    match (if toRec then (recordAddress ra).map fun c => (c, dw ra) else none).or
        ((x.linear i lin 1).or (if toRec then none else (recordAddress ra).map fun c => (c, dw ra))) with
    | some (c, info) => (.trap c info, s)
    | none =>
      match s.readRecord x i ra with
      | (.error bad, s) => (.miss bad ra, s)
      | (.ok r, s) =>
        let org := x.regList i e.c.toNat 5
        let n := r.count
        let tile : Side := .tile r org
        let q : Bool := mode = .deq ∨ mode = .quant
        let each := if q then memBytes e.ty else elemBytes r.ty
        let plan (w draws : Nat) : CopyPlan :=
          { dst := if toRec then tile else .linear (dw lin), src := if toRec then .linear (dw lin) else tile, total := w, draws := draws }
        if mode = .quant ∧ r.ty = .q ∧ r.aligned then
          match x.linear i lin (n * each) with
          | some (c, info) => (.trap c info, s)
          | none =>
            match s.formatAt x.team.ctx x.copyTlb r.base with
            | .error (.translation va) => (.miss (.translation va) r.base, s)
            | .error _ => (.trap cause.formatInvalid (dw r.base), s)
            | .ok (_, f) =>
              if 2 ^ 30 < n * f.w / 8 then (.trap cause.protection 0, s)
              else if blocksWhole f.block ((r.positions org).filterMap id) = false then (.trap cause.formatInvalid (dw r.base), s)
              else (.plan (plan (n * f.w / 8) (if e.rs = 4 then n else 0)), s)
        else (x.planTile i r ra lin (n * each) (n * each) q (plan (n * each) 0), s)

/-- Queue a copy: its start value of W, and the channel with the copy unless the channel is in its error state (R109, R254). -/
def Chan.enqueue (ch : Chan) (team : Nat) (c : Copy) : Word × Chan :=
  let ch := if ch.owner = none then { ch with owner := some team, w := 0 } else ch
  let start := ch.w + wd ((ch.queue.map fun q => q.total - q.acked).sum)
  (start, if ch.err then ch else { ch with queue := ch.queue ++ [{ c with started := ch.queue.isEmpty }] })

/-- The barrier link of a CPY: its offset when the object lies outside the allocation. -/
def Site.linkFault (x : Site) (e : Ext) : Bool := e.mod.getLsbD 0 && !x.team.cshHolds (16 * e.imm.toNat)

/-- Start a planned copy (R108, R227, R252). -/
def State.startCopy (s0 s : State) (x : Site) (e : Ext) (is : List Nat) (p : CopyPlan) : Out :=
  let i := is.headD 0
  match s.chanOf x.team.cl e.p with
  | none => s.trap x is cause.protection i 0
  | some k =>
    match s.chan? x.team.cl k with
    | none => s.trap x is cause.protection i 0
    | some ch =>
      if ch.owner ≠ none ∧ ch.owner ≠ some x.team.id then s0.stall
      else
        let bar := if e.mod.getLsbD 0 then some { off := 16 * e.imm.toNat, parity := e.mod.getLsbD 1 : BarLink } else none
        let c : Copy := { mode := copyModeOf e.m1.toNat, ty := e.ty, rs := e.rs, dst := p.dst, src := p.src, total := p.total, done := 0, acked := 0, till := 0, bar := bar,
                          u := x.u, fibre := i, pc := s.cur.pc, seed := x.seed i, held := none, started := false, grans := [], chunks := [] }
        let (start, ch) := ch.enqueue x.team.id c
        let (s, x) := s.charge x (ceilDiv p.total 256)
        let s := s.updChan x.team.cl k fun _ => ch
        let y := if p.draws = 0 then x else x.setSeed i (srAfter (x.seed i) p.draws)
        regEffect (fun _ j y => y.dst32 j e start.toNat) s y is

/-- CPY (R251, R252). -/
def opCpy (e : Ext) (s : State) : Out :=
  let us := [useD e 1, readA e 2, { reg := e.b.toNat, n := 2, rd := true }, readC e (if e.m1 = 0 then 1 else 5)]
  issue e.guard (demand us) s fun s1 x is =>
    let i := is.headD 0
    match s1.planCopy x e i (x.val i e.a.toNat 2) (x.val i e.b.toNat 2) with
    | (.trap c info, s1) => s1.trap x is c i info
    | (.miss b a, s1) => State.recordFault s s1 x is a b
    | (.plan p, s1) =>
      if x.linkFault e then s1.trap x is cause.spaceWindow i (dw (x.team.cshAddr (16 * e.imm.toNat)))
      else State.startCopy s s1 x e is p

/-! ### CPY.WAIT and CPY.PTR (R110, R255) -/

/-- An instruction on a channel that the team owns. -/
def chanOp (e : Ext) (us : List Use) (v0 : Bool) (s : State) (f : State → Site → List Nat → Nat → Chan → Out) : Out :=
  issue e.guard { uses := us, v0 := v0, leader := false } s fun s x is =>
    match s.ownChan x e.p with
    | none => s.trap x is cause.protection (is.headD 0) 0
    | some k =>
      match s.chan? x.team.cl k with
      | none => s.trap x is cause.protection (is.headD 0) 0
      | some ch => f s x is k ch

/-- CPY.WAIT (R255). -/
def opCpyWait (e : Ext) (s : State) : Out :=
  chanOp e (readB e 1) false s fun s1 x is k ch =>
    if holds ch.w (wd (x.srcB (is.headD 0) e)) then .next ((s1.seePointer x.u x.team.cl k).done x)
    else if ch.err then s1.trap x is cause.protection (is.headD 0) 0
    else s.stall true

/-- CPY.PTR (R255). -/
def opCpyPtr (e : Ext) (s : State) : Out :=
  chanOp e (useD e 1 :: readB e 1) true s fun s x is k ch =>
    let ok := holds ch.w (wd (x.srcB (is.headD 0) e))
    regEffect (fun _ i y => (y.dst32 i e ch.w.toNat).setGuard i (e.c.toNat % 32) ok) (s.seePointer x.u x.team.cl k) x is

/-- CPY.PTR.st (R255). -/
def opCpyPtrSt (e : Ext) (s : State) : Out :=
  chanOp e [useD e 1] false s fun s x is _ ch =>
    regEffect (fun _ i y => y.dst32 i e ((if ch.queue = [] then 0 else 1) + (if ch.err then 2 else 0))) s x is

/-- CPY.PTR.clr (R255). -/
def opCpyPtrClr (e : Ext) (s : State) : Out :=
  chanOp e [useD e 1] false s fun s x is k ch =>
    regEffect (fun _ i y => y.dst32 i e ch.w.toNat) (s.updChan x.team.cl k fun ch => { ch with err := false }) x is

/-! ### The meanings, one for each row of the opcode table -/

/-- CPY (R251). -/
def execCpy (e : Ext) (s : State) : Out := opCpy e s

/-- CPY_WAIT (R255). -/
def execCpyWait (e : Ext) (s : State) : Out := opCpyWait e s

/-- CPY_PTR (R255). -/
def execCpyPtr (e : Ext) (s : State) : Out := opCpyPtr e s

/-- CPY_PTR_ST (R255). -/
def execCpyPtrSt (e : Ext) (s : State) : Out := opCpyPtrSt e s

/-- CPY_PTR_CLR (R255). -/
def execCpyPtrClr (e : Ext) (s : State) : Out := opCpyPtrClr e s

end Sys2Proof.Machine
end

