-- ==== Sys2Proof/Machine/Crypto.lean ====
section
/-!
DEFINITION. KMAC256, the tag of a task packet (R371). The manual names the function; its construction, from Keccak-f[1600] with the
encodings of strings and lengths, is that of the standard of that name (log entry 31).
-/

namespace Sys2Proof.Machine

/-- A lane of the permutation's state; lane x + 5 y stands at index x + 5 y. -/
abbrev Lanes := List DWord

/-- One lane. -/
def Lanes.at (a : Lanes) (i : Nat) : DWord := a.getD i 0

/-- Twenty-five lanes given by column and row. -/
def lanesBy (f : Nat → Nat → DWord) : Lanes := (List.range 25).map fun i => f (i % 5) (i / 5)

/-- The rotation of each lane, lane 0 first. -/
def laneTurns : List Nat :=
  [0, 1, 62, 28, 27, 36, 44, 6, 55, 20, 3, 10, 43, 25, 39, 41, 45, 15, 21, 8, 18, 2, 61, 56, 14]

/-- The constants of the 24 rounds. -/
def roundConsts : List DWord :=
  [0x0000000000000001, 0x0000000000008082, 0x800000000000808A, 0x8000000080008000, 0x000000000000808B, 0x0000000080000001,
   0x8000000080008081, 0x8000000000008009, 0x000000000000008A, 0x0000000000000088, 0x0000000080008009, 0x000000008000000A] ++
  [0x000000008000808B, 0x800000000000008B, 0x8000000000008089, 0x8000000000008003, 0x8000000000008002, 0x8000000000000080,
   0x000000000000800A, 0x800000008000000A, 0x8000000080008081, 0x8000000000008080, 0x0000000080000001, 0x8000000080008008]

/-- One round. -/
def keccakRound (a : Lanes) (rc : DWord) : Lanes :=
  let c := (List.range 5).map fun x => a.at x ^^^ a.at (x + 5) ^^^ a.at (x + 10) ^^^ a.at (x + 15) ^^^ a.at (x + 20)
  let d := (List.range 5).map fun x => c.getD ((x + 4) % 5) 0 ^^^ (c.getD ((x + 1) % 5) 0).rotateLeft 1
  let t := lanesBy fun x y => (a.at (x + 5 * y) ^^^ d.getD x 0).rotateLeft (laneTurns.getD (x + 5 * y) 0)
  let b := lanesBy fun x y => t.at ((x + 3 * y) % 5 + 5 * x)
  let e := lanesBy fun x y => b.at (x + 5 * y) ^^^ (~~~ b.at ((x + 1) % 5 + 5 * y) &&& b.at ((x + 2) % 5 + 5 * y))
  e.set 0 (e.at 0 ^^^ rc)

/-- The permutation. -/
def keccakF (a : Lanes) : Lanes := roundConsts.foldl keccakRound a

/-- Absorb one block of 136 bytes. -/
def absorb (a : Lanes) (block : List Byte) : Lanes :=
  keccakF (lanesBy fun x y => a.at (x + 5 * y) ^^^ dw (leNat ((block.drop (8 * (x + 5 * y))).take 8)))

/-- Absorb blocks until n of them are taken. -/
def absorbAll (a : Lanes) (bs : List Byte) : Nat → Lanes
  | 0 => a
  | n + 1 => absorbAll (absorb a (bs.take 136)) (bs.drop 136) n

/-- The first 256 bits of a sponge of rate 136 bytes over a message, with its domain bits. -/
def sponge256 (suffix : Byte) (msg : List Byte) : List Byte :=
  let room := 136 - msg.length % 136
  let pad : List Byte := if room = 1 then [suffix ||| 0x80] else suffix :: (List.replicate (room - 2) 0 ++ [0x80])
  let a := absorbAll (List.replicate 25 0) (msg ++ pad) (msg.length / 136 + 1)
  (List.range 4).flatMap fun i => leBytes (a.at i).toNat 8

/-- A number's bytes, highest first, at least one. -/
def beBytes (n : Nat) : List Byte :=
  let k := if n < 256 then 1 else if n < 65536 then 2 else 3
  (leBytes n k).reverse

/-- The encodings of lengths. -/
def leftEncode (n : Nat) : List Byte := BitVec.ofNat 8 (beBytes n).length :: beBytes n
def rightEncode (n : Nat) : List Byte := beBytes n ++ [BitVec.ofNat 8 (beBytes n).length]

/-- A string with its length in bits. -/
def encodeString (s : List Byte) : List Byte := leftEncode (8 * s.length) ++ s

/-- A string filled with zeros to whole blocks of 136 bytes, after the block length. -/
def bytepad (s : List Byte) : List Byte :=
  let t := leftEncode 136 ++ s
  t ++ List.replicate ((136 - t.length % 136) % 136) 0

/-- The bytes of a text. -/
def textBytes (s : List Nat) : List Byte := s.map (BitVec.ofNat 8)

/-- KMAC256 with an output of 256 bits; "KMAC" is the function's own name. -/
def kmac256 (key msg label : List Byte) : List Byte :=
  sponge256 0x04 (bytepad (encodeString (textBytes [75, 77, 65, 67]) ++ encodeString label) ++ bytepad (encodeString key) ++ msg ++ rightEncode 256)

/-- The label "KS4 TASK". -/
def taskLabel : List Byte := textBytes [75, 83, 52, 32, 84, 65, 83, 75]

/-- The tag of a packet (R371): KMAC256 of the session id and the packet with its tag field zero. -/
def taskTag (key : BitVec 256) (session : Word) (packet : List Byte) : BitVec 256 :=
  BitVec.ofNat 256 (leNat (kmac256 (leBytes key.toNat 32) (leBytes session.toNat 4 ++ (packet.take 32 ++ List.replicate 32 0 ++ packet.drop 64)) taskLabel))

end Sys2Proof.Machine
end

