-- ==== Sys2Proof/Machine/Transfers.lean ====
section
/-!
DEFINITION. Tile transfers and task packets: TXFER, TSEND and TXWAIT (R308 to R314), the transfer engines' own steps, and the
checks of the expander (R370 to R373).
-/

namespace Sys2Proof.Machine

/-! ### Handles and slots (R308) -/

/-- The next handle: the newest plus 1, skipping 0. -/
def Team.nextHandle (t : Team) : Word := if t.newest + 1 = 0 then 1 else t.newest + 1

/-- Handle h is the newest or one of the 255 issued before it. -/
def Team.status? (t : Team) (h : Word) : Word := ((t.status.find? fun p => p.1 = h).map Prod.snd).getD 5

/-- Take a new operation, its status PENDING; the statuses of the last 256 handles are kept. -/
def Team.begin (t : Team) (x : Xfer) : Team :=
  { t with newest := x.handle, xfers := t.xfers ++ [x], status := (t.status ++ [(x.handle, statusWord x.work.gen 0 0)]).drop (t.status.length + 1 - 256) }

/-- Operations not yet complete on a cluster. -/
def State.slotsUsed (s : State) (cl : ClusterRef) : Nat := ((s.teams.filter fun t => t.cl = cl).map fun t => t.xfers.length).sum

/-- A transfer slot is free for the unit's team. -/
def State.slotFree (s : State) (x : Site) : Bool := decide (s.slotsUsed x.team.cl < 32 ∧ x.team.xfers.length < 16)

/-- Replace an operation of a team. -/
def Team.putXfer (t : Team) (x : Xfer) : Team := { t with xfers := t.xfers.map fun y => if y.handle = x.handle then x else y }

/-- An operation of a team. -/
def Team.xfer? (t : Team) (h : Word) : Option Xfer := t.xfers.find? fun x => x.handle = h

/-- A new operation that a unit issues: armed, waiting for its launch time, or started (R257, R309). -/
def State.newXfer (s : State) (x : Site) (i : Nat) (w : XferWork) (trg : Option Nat) (armable : Bool) (launch : Bool) : Xfer :=
  let st : XferState := match x.heat.arm with
    | some a => if armable then (if holds (s.trig x.team.cl a.trig) a.at_ then .started else .armed a) else (if launch then .timed else .started)
    | none => if launch then .timed else .started
  { handle := x.team.nextHandle, work := w, st := st, trg := trg, u := x.u, fibre := i, pc := s.cur.pc, done := 0, wrote := 0, contribs := [],
    complete := [], held := none, asked := (0, 0), grans := [], till := 0, answer := none }

/-- Issue an operation: the wait for a slot, the charge, and the handle in every executing fibre; `w` is the arm that it uses up. DESIGN CHOICE: the wait for
a slot comes after the checks on the records (log entry 26). -/
def State.issueXfer (s0 s : State) (x : Site) (e : Ext) (is : List Nat) (w : XferWork) (trg : Option Nat) (armable launch : Bool) (bytes : Nat) : Out :=
  if s.slotFree x = false then s0.stall
  else
    let n := s.newXfer x (is.headD 0) w trg armable launch
    let (s, x) := s.charge x (ceilDiv bytes 256)
    let x := { x with team := x.team.begin n, heat := if armable then { x.heat with arm := none } else x.heat }
    regEffect (fun _ j y => y.dst32 j e n.handle.toNat) s x is

/-- The counter that .trg names: none when its place is not valid (R118). -/
def State.trgOf (s : State) (x : Site) (e : Ext) (trg : Bool) : Option (Option Nat) :=
  if trg then (s.trigOf x.team.cl e.p).map some else some none

/-! ### TXFER (R309, R310) -/

/-- The record tests that TXFER and TXCOLL share, at two addresses in order, and the records (R310). -/
def State.twoRecords (s0 s : State) (x : Site) (is : List Nat) (a b : Nat) (go : State → TRec → TRec → Out) : Out :=
  let i := is.headD 0
  match recordAddress a, recordAddress b with
  | some c, _ => s.trap x is c i (dw a)
  | none, some c => s.trap x is c i (dw b)
  | none, none =>
    match s.readRecord x i a with
    | (.error m, s) => State.recordFault s0 s x is a m
    | (.ok ra, s) =>
      match s.readRecord x i b with
      | (.error m, s) => State.recordFault s0 s x is b m
      | (.ok rb, s) => go s ra rb

/-- The TYPE test and the alignment test of two records: FORMAT_INVALID or MISALIGNED with its %tinfo (R310, R115). -/
def typesTest (a b : Nat) (ra rb : TRec) : Option (Byte × DWord) :=
  if ra.ty = .q ∨ rb.ty = .q ∨ ra.ty ≠ rb.ty then some (cause.formatInvalid, dw a)
  else if ra.aligned = false then some (cause.misaligned, dw a)
  else if rb.aligned = false then some (cause.misaligned, dw b)
  else none

/-- Bytes of a record's tile. -/
def TRec.bytes (r : TRec) : Nat := r.count * elemBytes r.ty

/-- TXFER (R309, R310). -/
def opTxfer (e : Ext) (s : State) : Out :=
  let trg := e.mod.getLsbD 0
  let timed := e.mod.getLsbD 1
  issue e.guard (demand [useD e 1, readA e 2, { reg := e.b.toNat, n := 2, rd := true }, readC e 10]) s fun s1 x is =>
    let i := is.headD 0
    let a := x.val i e.a.toNat 2
    let b := x.val i e.b.toNat 2
    State.twoRecords s s1 x is a b fun s1 dst src =>
      match typesTest a b dst src with
      | some (c, info) => s1.trap x is c i info
      | none =>
        if dst.ext ≠ src.ext ∨ dst.rank ≠ src.rank ∨ src.grid.isSome then s1.trap x is cause.protection i 0
        else
          match s1.trgOf x e trg with
          | none => s1.trap x is cause.protection i 0
          | some k =>
            let w : XferWork := .tile src dst (x.regList i e.c.toNat 5) (x.regList i (e.c.toNat + 5) 5) (if timed then some e.lit else none)
            State.issueXfer s s1 x e is w k true timed dst.bytes

/-! ### TSEND (R312) -/

/-- The key slot of a die that holds a session key of a context. -/
def State.keyOf (s : State) (die slot ctx : Nat) : Option KeySlot :=
  ((s.die? die).bind fun d => (d.keys[slot]?).join).bind fun k => if k.ctx = ctx then some k else none

/-- TSEND (R312). -/
def opTsend (e : Ext) (s : State) : Out :=
  let us := [useD e 1, readA e 2] ++ readB e 1
  issue e.guard (demand us) s fun s1 x is =>
    let i := is.headD 0
    let a := x.val i e.a.toNat 2
    let n := x.srcN i e
    match recordAddress a with
    | some c => s1.trap x is c i (dw a)
    | none =>
      let slot := bitsOf e.c.toNat 0 6
      if n < 64 ∨ 4096 < n ∨ n % 64 ≠ 0 ∨ (s1.keyOf x.team.cl.die slot x.team.ctx).isNone then s1.trap x is cause.protection i 0
      else
        match s1.trgOf x e (e.mod.getLsbD 0) with
        | none => s1.trap x is cause.protection i 0
        | some k => State.issueXfer s s1 x e is (.task (dw a) n slot) k false false n

/-! ### TXWAIT (R313) -/

/-- TXWAIT (R313). -/
def opTxwait (e : Ext) (s : State) : Out :=
  let try_ := e.mod.getLsbD 0
  issue e.guard { uses := [useD e 1, readA e 1], v0 := try_, leader := false } s fun s1 x is =>
    let i := is.headD 0
    let h := wd (x.val i e.a.toNat 1)
    let ahead := (h - x.team.newest).toNat
    if h = 0 ∨ (ahead ≠ 0 ∧ ahead < 2 ^ 31) then s1.trap x is cause.protection i 0
    else
      let w := x.team.status? h
      let st := bitsOf w.toNat 0 8
      if st = 0 ∧ try_ = false then s.stall true
      else
        let (s2, y) := if st = 1 then s1.acquireAt x .dv else (s1, x)
        regEffect (fun _ j y => (if try_ then y.setGuard j (e.c.toNat % 32) (st ≠ 0) else y).dst32 j e w.toNat) s2 y is

/-! ### How an operation ends (R308) -/

/-- The deferred trap of an operation: an engine's ERROR, whose inner cause is the one met (Table 22.6). -/
def Xfer.trap (x : Xfer) (c : Byte) (info : DWord) : DTrap := { cause := c, inner := c, pc := x.pc, info := info, src := some x.u.who }

/-- Chunk-buffer bytes that an operation holds while it runs (R384). -/
def Xfer.buffers (x : Xfer) : Nat :=
  match x.work, x.st with
  | .coll loc _ _ _ _ _ _, .running => 2 * loc.bytes
  | _, _ => 0

/-- An operation completes DONE: its counter is incremented, with its writes before it (R308, R149). -/
def State.xferDone (s : State) (t : Team) (x : Xfer) : State :=
  let s := ({ s with collBytes := s.collBytes - x.buffers } : State).setTeam (t.finish x 0 1)
  match x.trg with
  | some k => s.raiseTrig t.cl k (s.trig t.cl k + 1)
  | none => s

/-- An operation ends ERROR, with the deferred trap that carries its PC and the cause (R308). -/
def State.xferError (s : State) (t : Team) (x : Xfer) (c : Byte) (info : DWord) : State :=
  (({ s with collBytes := s.collBytes - x.buffers } : State).setTeam (t.finish x c 4)).defer t.id (x.trap c info)

/-- An operation with its team. -/
def State.xfer? (s : State) (team : Nat) (h : Word) : Option (Team × Xfer) := (s.team? team).bind fun t => (t.xfer? h).map fun x => (t, x)

/-- ARMED_OPERATION_START (R257): the threshold holds. -/
def opArmedOperationStart (team : Nat) (handle : Word) (s : State) : Out :=
  match s.xfer? team handle with
  | some (t, x) =>
    match x.st with
    | .armed a =>
      if t.st = .resident ∧ holds (s.trig t.cl a.trig) a.at_ then .next (s.setTeam (t.putXfer { x with st := .started })) else .next s
    | _ => .next s
  | none => .next s

/-- The event while the clusters of the die run (R393, R398). -/
def execArmedOperationStart (team : Nat) (handle : Word) (s : State) : Out := if s.teamRuns team then opArmedOperationStart team handle s else .next s

/-- The launch time of an operation. -/
def XferWork.launch : XferWork → Option DWord
  | .tile _ _ _ _ l => l
  | .coll _ _ _ _ _ _ _ => none
  | .task _ _ _ => none

/-- TXFER_LAUNCH_TIME (R309): the issuing die's clock has reached the launch time. -/
def opTxferLaunchTime (team : Nat) (handle : Word) (s : State) : Out :=
  match s.xfer? team handle with
  | some (t, x) =>
    match x.st, x.work.launch with
    | .timed, some l =>
      if t.st = .resident ∧ l.toNat ≤ s.clockOf t.cl.die then .next (s.setTeam (t.putXfer { x with st := .started })) else .next s
    | _, _ => .next s
  | none => .next s

/-- The event while the clusters of the die run (R393, R398). -/
def execTxferLaunchTime (team : Nat) (handle : Word) (s : State) : Out := if s.teamRuns team then opTxferLaunchTime team handle s else .next s

/-! ### The transfer engine (R310, R379) -/

/-- A peer can be reached from a die: a window leads to it and it is not lost (R379, R376). -/
def State.route (s : State) (die : Nat) (t : PortTarget) : Bool :=
  ((s.die? die).map fun d => d.windows.any fun w => (w.map fun w => decide (w.target = t) && !w.stale).getD false).getD false

/-- A window of a die names a device that has been lost since it was written, or is lost now (R376). -/
def State.routeLost (s : State) (die : Nat) (t : PortTarget) : Bool :=
  decide (t ∈ s.gone) ||
    !s.route die t && ((s.die? die).map fun d => d.windows.any fun w => (w.map fun w => decide (w.target = t)).getD false).getD false

/-- The peer context that a driver has bound to a context for a device (R379). -/
def State.peerCtx (s : State) (ctx dev : Nat) : Option Nat := ((s.ctx? ctx).bind fun c => c.peers.find? fun p => p.1 = dev).map Prod.snd

/-- The first reason that a destination record cannot be written at all, and what its trap reports (R375, R376, R379). -/
def State.gridFault (s : State) (x : Site) (r : TRec) : Option (Byte × DWord) :=
  match r.grid with
  | none => none
  | some g =>
    let dev := bitsOf g.toNat 0 10
    if bitsOf g.toNat 62 2 ≠ 0 ∨ (s.peerCtx x.team.ctx dev).isNone then some (cause.protection, dw r.base)
    else if s.routeLost x.team.cl.die (.peer dev) then some (cause.expanderLost, dw r.base)
    else if s.route x.team.cl.die (.peer dev) = false then some (cause.protection, dw r.base)
    else if portNo (.peer dev) ∈ s.viral then some (cause.viral, dw (portNo (.peer dev)))
    else none

/-- Move element k of a tile: what it meets, or the transfer after it (R115, R310). A write to a peer is sent there; where a write at home waits for copies
outside the package, they are asked for. -/
def State.moveElem (s : State) (x : Site) (src dst : TRec) (so dor : List Nat) (f : Xfer) (k : Nat) : Except Miss Xfer × State :=
  let e := elemBytes src.ty
  match s.spotRead x x.copyTlb f.fibre e ((Side.tile src so).spot e (k * e)) with
  | (.error m, s) => (.error m, s)
  | (.ok bs, s) =>
    let p := (Side.tile dst dor).spot e (k * e)
    match dst.grid, p with
    | some g, .va a =>
      let dev := bitsOf g.toNat 0 10
      (.ok f, s.tell (.peerWrite dev ((s.peerCtx x.team.ctx dev).getD 0) a bs))
    | _, _ =>
      match s.spotWrite x x.copyTlb f.fibre bs f.grans [offerAll x.u x.team.cl] p with
      | .error (.hold, info) => (.error (.hold, info), s.spotAsk x x.copyTlb f.fibre e p)
      | .error m => (.error m, s)
      | .ok w => (.ok { f with grans := w.own, till := max f.till w.till }, w.s)

/-- Move elements of a transfer until one fails or the tile ends. -/
def State.moveTile (s : State) (src dst : TRec) (so dor : List Nat) (x : Xfer) : Nat → State × Xfer × Option Miss
  | 0 => (s, x, none)
  | n + 1 =>
    match s.site? x.u with
    | none => (s, x, none)
    | some y =>
      match s.moveElem y src dst so dor x x.done with
      | (.error m, s) => (s, x, some m)
      | (.ok x, s) => s.moveTile src dst so dor { x with done := x.done + 1 } n

/-- Hold an operation at a page that its team must ask for, or end it when the request failed or no team is left to ask (R342, R344). -/
def State.holdXfer (s : State) (t : Team) (x : Xfer) (va : Nat) (info : DWord) : State :=
  match s.site? x.u with
  | none => s
  | some y =>
    if t.st = .retired then s.xferError t x cause.pageRequestFailed info
    else if y.failedPageFor (.xfer x.handle) va then
      let s := s.put (y.forgetPageFor (.xfer x.handle) va)
      match s.team? t.id with
      | some t => s.xferError t x cause.pageRequestFailed info
      | none => s
    else s.put ({ y with team := y.team.putXfer { x with held := some (va / 4096) } }.wantPageFor (.xfer x.handle) va)

/-- What an operation of a resident team does with what its engine met. -/
def State.xferMiss (s : State) (t : Team) (x : Xfer) : Miss → State
  | (.hold, _) => s.setTeam (t.putXfer x)
  | (.translation va, info) => (s.setTeam (t.putXfer x)).holdXfer t x va info
  | (.early c, info) => s.xferError t x c info
  | (.late c, info) => s.xferError t x c info

/-- A transfer whose tile is moved: it completes when every write is acknowledged: at home once the leases have expired (R129), at a peer by the peer's
answer, which a refusal ends (R310). -/
def State.xferMoved (s : State) (t : Team) (x : Xfer) (dst : TRec) (peer : Option (Option Byte)) : State :=
  if s.now < x.till then s.setTeam (t.putXfer x)
  else if dst.grid.isSome then
    match peer with
    | none => s.setTeam (t.putXfer x)
    | some none => s.xferDone t x
    | some (some c) => if definedCause c then s.xferError t x c (dw dst.base) else s.setTeam (t.putXfer x)
  else s.xferDone t x

/-- TXFER_COMPLETION (R308, R310): the engine moves what is left of the tile, and finishes or faults; `peer` is the answer of a peer device to the writes
sent to it: none yet, every one acknowledged, or refused with a cause. -/
def opTxferCompletion (team : Nat) (handle : Word) (peer : Option (Option Byte)) (s : State) : Out :=
  match s.xfer? team handle with
  | some (t, x) =>
    match x.st, x.work, s.site? x.u with
    | .started, .tile src dst so dor _, some y =>
      if t.st = .saved ∨ x.held.isSome then .next s
      else if src.count ≤ x.done then .next (s.xferMoved t x dst peer)
      else
        match s.gridFault y dst with
        | some (c, info) => .next (s.xferError t x c info)
        | none =>
          let (s, x2, m) := s.moveTile src dst so dor x (src.count - x.done)
          match s.team? team with
          | none => .next s
          | some t =>
            let t := t.count 7 ((x2.done - x.done) * elemBytes src.ty)
            match m with
            | none => .next ((s.setTeam t).xferMoved t x2 dst none)
            | some m => .next ((s.setTeam t).xferMiss t x2 m)
    | _, _, _ => .next s
  | none => .next s

/-- The event while the clusters of the die run (R393, R398). -/
def execTxferCompletion (team : Nat) (which : XferEnd) (s : State) : Out :=
  if s.teamRuns team then opTxferCompletion team which.handle which.peer s else .next s

/-! ### Task packets (R370 to R373) -/

/-- The memory at a device address of an expander: behind its CXL port, or on a KS4-X (no port) in its own dies, one after the other, the memory of the
striped range last (log entry 32). -/
def State.dpaPlace (s : State) (port : Option Nat) (dpa : Nat) : Nat :=
  match port with
  | some p => behindPort (.cxl p) dpa
  | none =>
    let own := s.ownBytes * s.dies.length
    if dpa < own then 2 ^ 41 * (dpa / s.ownBytes) + dpa % s.ownBytes else 2 ^ 44 + (dpa - own)

/-- An expander: behind a CXL port, or this package itself (no port). -/
def State.expanderAt (s : State) : Option Nat → Option Expander
  | some p => s.expander? p
  | none => if s.product = .ks4x then some s.expander else none

/-- Change an expander. -/
def State.updExpander (s : State) (port : Option Nat) (f : Expander → Expander) : State :=
  match port with
  | some p => { s with beyond := s.beyond.modify p f }
  | none => { s with expander := f s.expander }

/-- The bytes of a packet, line by line, as the sending unit observes them. -/
def State.readPacket (s : State) (y : Site) (a : Nat) : Nat → Except Miss (List Byte) × State
  | 0 => (.ok [], s)
  | n + 1 =>
    match s.engRead y y.copyTlb a 64 with
    | (.error b, s) => (.error (b, dw a), s)
    | (.ok bs, s) =>
      match s.readPacket y (a + 64) n with
      | (.error m, s) => (.error m, s)
      | (.ok r, s) => (.ok (bs ++ r), s)

/-- Change a key slot. -/
def State.updKey (s : State) (die slot : Nat) (f : Option KeySlot → Option KeySlot) : State :=
  s.updDie die fun d => { d with keys := d.keys.modify slot f }

/-- The slot's packet: the next counter and the tag computed over the copy that is sent (R371). -/
def KeySlot.packet (k : KeySlot) (team : Nat) (h : Word) (die slot : Nat) (bs : List Byte) : Packet :=
  let c := k.counter + 1
  let body := bs.take 24 ++ leBytes c 8 ++ bs.drop 32
  let tag := taskTag k.key k.session body
  { team := team, handle := h, die := die, slot := slot, expander := k.expander, session := k.session, counter := c,
    bytes := body.take 32 ++ leBytes tag.toNat 32 ++ body.drop 64, tag := tag }

/-- TSEND_PACKET_SEND (R312, R371). -/
def opTsendPacketSend (team : Nat) (handle : Word) (s : State) : Out :=
  match s.xfer? team handle with
  | some (t, x) =>
    match x.st, x.work, s.site? x.u with
    | .started, .task a n slot, some y =>
      if t.st = .saved ∨ x.held.isSome then .next s
      else
        match s.readPacket y a.toNat (n / 64) with
        | (.error m, s) => .next (s.xferMiss t x m)
        | (.ok bs, s) =>
          match s.keyOf t.cl.die slot t.ctx with
          | none => .next (s.xferError t x cause.taskAuth (x.handle.setWidth 64))
          | some k =>
            if .cxl k.expander ∈ s.gone ∨ k.expander ∈ s.viral ∨ (s.expander? k.expander).isNone then .next (s.xferError t x cause.expanderLost a)
            else
              let p := k.packet team handle t.cl.die slot bs
              let s := (s.updKey t.cl.die slot fun o => o.map fun k => { k with counter := k.counter + 1 }).setTeam (t.putXfer { x with st := .sent, port := some k.expander })
              .next (s.updExpander (some k.expander) fun x => { x with arriving := x.arriving ++ [p] })
    | _, _, _ => .next s
  | none => .next s

/-- The event while the clusters of the die run (R393, R398). -/
def execTsendPacketSend (team : Nat) (handle : Word) (s : State) : Out := if s.teamRuns team then opTsendPacketSend team handle s else .next s

/-- A field of a packet's header: n bytes from byte k. -/
def Packet.field (p : Packet) (k n : Nat) : Nat := leNat ((p.bytes.drop k).take n)

/-- The key of a session that serves a packet counter (R369). -/
def Session.keyFor (l : Session) (counter : Nat) : BitVec 256 := ((l.keys.find? fun k => k.1 ≤ counter).map Prod.snd).getD 0

/-- The session of a packet at an expander. -/
def Expander.session? (x : Expander) (id : Word) : Option Session := x.live.find? fun l => l.id = id

/-- The checks of Table 24.4 in their order, at an expander: the cause of the first that fails. -/
def State.packetFault (s : State) (port : Option Nat) (x : Expander) (p : Packet) : Option Byte :=
  let flag := p.field 8 8
  match x.session? p.session with
  | none => some cause.taskAuth
  | some l =>
    if (x.accepted.any fun a => a.1 = p.session ∧ p.counter ≤ a.2) ∨ taskTag (l.keyFor p.counter) p.session p.bytes ≠ p.tag then some cause.taskAuth
    else if (x.images.any fun m => m.tenant = l.tenant ∧ m.hash = dw (p.field 16 8)) = false then some cause.protection
    else if flag % 8 ≠ 0 ∨ (x.extents.any fun g => g.tenant = l.tenant ∧ g.dpa ≤ flag ∧ flag + 8 ≤ g.dpa + g.size) = false ∨
        s.recorded (s.dpaPlace port flag) ≠ .seq then some cause.protection
    else if p.field 4 4 < 1 ∨ p.field 0 4 < 4000 then some cause.protection
    else none

/-- Give an operation its answer. -/
def State.answerXfer (s : State) (p : Packet) (a : Option Byte) : State :=
  match s.xfer? p.team p.handle with
  | some (t, x) => s.setTeam (t.putXfer { x with answer := some a })
  | none => s

/-- TSEND_ANSWER (R312): DONE, or ERROR with the expander's cause; TASK_AUTH reports the handle (Table 22.7). -/
def execTsendAnswer (team : Nat) (handle : Word) (s : State) : Out :=
  match s.xfer? team handle with
  | some (t, x) =>
    match x.st, x.answer with
    | .sent, some none => .next (s.xferDone t x)
    | .sent, some (some c) => .next (s.xferError t x c (if c = cause.taskAuth then x.handle.setWidth 64 else 0))
    | _, _ => .next s
  | none => .next s

/-! ### The meanings, one for each row of the opcode table -/

/-- TXFER (R309). -/
def execTxfer (e : Ext) (s : State) : Out := opTxfer e s

/-- TXWAIT (R313). -/
def execTxwait (e : Ext) (s : State) : Out := opTxwait e s

/-- TSEND (R312). -/
def execTsend (e : Ext) (s : State) : Out := opTsend e s

end Sys2Proof.Machine
end

