-- ==== Sys2Proof/Machine/Collectives.lean ====
section
/-!
DEFINITION. Collectives: TXCOLL (R311), group tables (R377), and the hub's sequencer (R378 to R389).
-/

namespace Sys2Proof.Machine

/-! ### Groups, subgroups and delivery sets (R377, R378, R381) -/

/-- Fields of GRID in collective mode (Table 26.2). -/
def gridCid (g : DWord) : Nat := bitsOf g.toNat 48 8
def gridGroup (g : DWord) : Nat := bitsOf g.toNat 40 8
def gridRepl (g : DWord) : Nat := bitsOf g.toNat 3 3
def gridSpan (g : DWord) : Nat := bitsOf g.toNat 0 3
def gridMode (g : DWord) : Nat := bitsOf g.toNat 62 2

/-- Coordinates of a member (R377). -/
def memberCoords (e : GroupEntry) (i : Nat) : List Nat := [i % e.nx, i / e.nx % e.ny, i / e.nx / e.ny]

/-- A mask names dimension d. -/
def inMask (mask d : Nat) : Bool := mask / 2 ^ d % 2 = 1

/-- Every dimension that a mask does not name has equal coordinates. -/
def sameOutside (mask : Nat) (a b : List Nat) : Bool := (List.range 3).all fun d => inMask mask d || a.getD d 0 == b.getD d 0

/-- Every dimension that a mask names has coordinate 0. -/
def zeroInside (mask : Nat) (a : List Nat) : Bool := (List.range 3).all fun d => !inMask mask d || a.getD d 0 == 0

/-- The subgroup of the entry's own device, in ascending index (R381). -/
def subgroupOf (e : GroupEntry) (span : Nat) : List Nat :=
  (List.range (e.nx * e.ny * e.nz)).filter fun i => sameOutside span (memberCoords e i) (memberCoords e e.self)

/-- The origin of the subgroup. -/
def originOf (e : GroupEntry) (span : Nat) : Nat := ((subgroupOf e span).find? fun i => zeroInside span (memberCoords e i)).getD 0

/-- The delivery set: coordinate 0 in every dimension of SPAN that is not in REPL. -/
def deliveryOf (e : GroupEntry) (span repl : Nat) : List Nat :=
  (subgroupOf e span).filter fun i => zeroInside (span &&& (7 - repl)) (memberCoords e i)

/-- An entry that the table can hold (R377): members are devices of the domain (R24), and this device is one of them, once. -/
def groupOk (e : GroupEntry) : Bool :=
  let n := e.nx * e.ny * e.nz
  decide (1 ≤ e.nx ∧ e.nx ≤ 1024 ∧ 1 ≤ e.ny ∧ e.ny ≤ 1024 ∧ 1 ≤ e.nz ∧ e.nz ≤ 1024 ∧ n ≤ 1024 ∧ e.members.length = n ∧ e.self < n) &&
    (e.members.all fun m => decide (m < 1024)) && decide ((e.members.filter fun m => m == e.members.getD e.self 0).length = 1)

/-- The group entry of a context. -/
def State.group? (s : State) (ctx g : Nat) : Option Group := (s.ctx? ctx).bind fun c => SMap.get? c.groups g

/-- Put a group entry back. -/
def State.setGroup (s : State) (ctx g : Nat) (v : Group) : State :=
  match s.ctx? ctx with
  | some c => s.setCtx { c with groups := SMap.set c.groups g v }
  | none => s

/-! ### TXCOLL (R311, R380) -/

/-- TYPEs that an operator takes (R311). -/
def collTypeOk (op : Nat) (ty : Ty) : Bool :=
  match op with
  | 0 => ty ≠ .q
  | 1 => ty = .f32
  | 2 => ty = .bf16
  | 5 => ty = .f32 ∨ ty = .bf16
  | _ => ty = .f32 ∨ ty = .bf16 ∨ ty = .s32

/-- The step-5 checks that raise PROTECTION (R310, R311, R380). -/
def State.collRefused (s : State) (x : Site) (same : Bool) (loc out : TRec) (gen : Nat) : Bool :=
  match loc.grid with
  | none => true
  | some g =>
    decide (s.product = .ks4x ∨ out.ext ≠ loc.ext ∨ out.rank ≠ loc.rank ∨ gridMode g ≠ 1 ∨ (out.grid.isSome ∧ same = false) ∨
      (s.group? x.team.ctx (gridGroup g)).isNone ∨ gridRepl g &&& (7 - gridSpan g) ≠ 0 ∨ gen = 0 ∨ 2 ^ 24 < loc.bytes)

/-- TXCOLL (R311). -/
def opTxcoll (e : Ext) (s : State) : Out :=
  issue e.guard (demand [useD e 1, readA e 2, { reg := e.b.toNat, n := 2, rd := true }, readC e 6]) s fun s1 x is =>
    let i := is.headD 0
    let a := x.val i e.a.toNat 2
    let b := x.val i e.b.toNat 2
    State.twoRecords s s1 x is a b fun s1 loc out =>
      let op := e.m1.toNat
      let gen := x.val i (e.c.toNat + 5) 1 % 65536
      if loc.ty = .q ∨ out.ty ≠ loc.ty ∨ collTypeOk op loc.ty = false then s1.trap x is cause.formatInvalid i (dw a)
      else if loc.aligned = false then s1.trap x is cause.misaligned i (dw a)
      else if out.aligned = false then s1.trap x is cause.misaligned i (dw b)
      else if s1.collRefused x (a = b) loc out gen then s1.trap x is cause.protection i 0
      else
        match s1.trgOf x e (e.mod.getLsbD 2) with
        | none => s1.trap x is cause.protection i 0
        | some k =>
          let thr := if bitsOf e.imm.toNat 0 8 = 0 then 64 else bitsOf e.imm.toNat 0 8
          let w : XferWork := .coll loc out (x.regList i e.c.toNat 5) op (bitsOf e.mod.toNat 0 2) thr gen
          State.issueXfer s s1 x e is w k true false loc.bytes

/-! ### The instance of an operation -/

/-- What a running operation is: its records, operator, compression, instance, group entry and context. -/
structure Inst where
  loc   : TRec
  out   : TRec
  org   : List Nat
  op    : Nat
  comp  : Nat
  thr   : Nat
  ctx   : Nat
  group : Nat
  cid   : Nat
  gen   : Nat
  ent   : GroupEntry
  sub   : List Nat
  src   : Nat
  dlv   : List Nat
  deriving DecidableEq, Repr

/-- The instance of an operation of a team. -/
def State.inst? (s : State) (t : Team) (x : Xfer) : Option Inst :=
  match x.work with
  | .coll loc out org op comp thr gen =>
    loc.grid.bind fun g => (s.group? t.ctx (gridGroup g)).map fun v =>
      { loc := loc, out := out, org := org, op := op, comp := comp, thr := thr, ctx := t.ctx, group := gridGroup g, cid := gridCid g, gen := gen,
        ent := v.entry, sub := subgroupOf v.entry (gridSpan g), src := originOf v.entry (gridSpan g), dlv := deliveryOf v.entry (gridSpan g) (gridRepl g) }
  | .tile _ _ _ _ _ => none
  | .task _ _ _ => none

/-- The members whose tiles a member of the delivery set needs (R382). -/
def Inst.needs (n : Inst) : List Nat := if n.op = 0 then [n.src] else n.sub

/-- This member reads its own tile (R384 step 1). -/
def Inst.reads (n : Inst) : Bool := n.ent.self ∈ n.needs

/-- This member receives the output. -/
def Inst.delivers (n : Inst) : Bool := n.ent.self ∈ n.dlv

/-! ### Streams (R382, R383) -/

/-- Density test of a stream with so many elements that are not zero, of so many (R383): it crosses the wire as pairs. -/
def asPairs (ty : Ty) (comp thr nz count : Nat) : Bool :=
  match comp with
  | 1 => nz * (4 + elemBytes ty) < count * elemBytes ty
  | 2 => nz * 256 ≤ thr * count
  | _ => false

/-- The pairs of a tile: the position and the element, by ascending position, of each element that is not zero. -/
def pairsOf (es : List (BitVec 128)) : List (Nat × BitVec 128) := es.zipIdx.filterMap fun p => if p.1 = 0 then none else some (p.2, p.1)

/-- A tile in the wire form that its density calls for (R383). -/
def streamOf (ty : Ty) (comp thr : Nat) (es : List (BitVec 128)) : TileStream :=
  let ps := pairsOf es
  if asPairs ty comp thr ps.length es.length then .pairs ps else .dense es

/-- Bytes that a stream takes on the wire. -/
def wireBytes (ty : Ty) : TileStream → Nat
  | .dense es => es.length * elemBytes ty
  | .pairs ps => ps.length * (4 + elemBytes ty)

/-- Element k of a stream: what no pair carries is zero. -/
def streamAt (st : TileStream) (k : Nat) : BitVec 128 :=
  match st with
  | .dense es => es.getD k 0
  | .pairs ps => ((ps.find? fun p => p.1 = k).map Prod.snd).getD 0

/-- One addition of the sums of Table 26.3: a contribution that is +0 is passed over, another is added to the f32 sum and rounded RNE. -/
def sumStep (ty : Ty) (s b : BitVec 128) : BitVec 128 :=
  if b = 0 then s else BitVec.ofNat 128 (FFmt.f32.round 0 0 (Fp.add false (FFmt.f32.read s.toNat) ((fmtOf ty).read b.toNat)))

/-- A step merges the stream of the sums so far with a member's: pair streams by index, colliding elements added; the merged stream is tested again, and one
that fails is dense from then on (R383). -/
def mergeStreams (ty : Ty) (comp thr count : Nat) (acc b : TileStream) : TileStream :=
  let dense : TileStream := .dense ((List.range count).map fun k => sumStep ty (streamAt acc k) (streamAt b k))
  match acc, b with
  | .pairs ps, .pairs qs =>
    let ks := (List.range count).filter fun k => ps.any (fun p => p.1 = k) || qs.any fun p => p.1 = k
    let out := (ks.map fun k => (k, sumStep ty (streamAt acc k) (streamAt b k))).filter fun p => p.2 ≠ 0
    if asPairs ty comp thr out.length count then .pairs out else dense
  | _, _ => dense

/-- The sequencer's charge for bytes that it processes (R385): 1 BC per KiB, rounded up for the operation, in the hub's sum (R336). -/
def State.collBill (s : State) (t : Team) (x : Xfer) (n : Nat) : State × Xfer :=
  let bc := ceilDiv (x.done + n) 1024 - ceilDiv x.done 1024
  ((s.chargeMeet t.meet hubDie bc).updTeam t.id fun t => if t.st = .resident then t.count 2 bc else t, { x with done := x.done + n })

/-- A message of this member to the others. -/
def State.collTell (s : State) (n : Inst) (m : CollMsg) : State := s.tell (.collSend n.ctx n.group n.cid n.gen m)

/-- Put an operation back into its team. -/
def State.putXfer (s : State) (team : Nat) (x : Xfer) : State := s.updTeam team fun t => t.putXfer x

/-- A member has ended the last generation of a (GROUP, CID) (R386). DESIGN CHOICE: so it has where its instance ended ERROR (log entry 27). -/
def State.memberLeft (s : State) (ctx group cid member : Nat) : State :=
  match s.group? ctx group with
  | some g => s.setGroup ctx group { g with open_ := g.open_.map fun p => if p.1 = cid then (p.1, p.2.filter (· ≠ member)) else p }
  | none => s

/-- A member has ended this instance. -/
def State.collLeft (s : State) (n : Inst) (member : Nat) : State := s.memberLeft n.ctx n.group n.cid member

/-- An instance ends ERROR at this member (R377, R387): the other members learn of it. -/
def State.collFail (s : State) (team : Nat) (x : Xfer) (n : Inst) (c : Byte) (info : DWord) (news : CollMsg := .faulted) : State :=
  match s.team? team with
  | some t => ((s.xferError t x c info).collLeft n n.ent.self).collTell n news
  | none => s

/-- A page that holds the sequencer is asked for through the memory-management core of the issuing die, in its turn; after four requests it has failed
(R343, R384). -/
def State.collHold (s : State) (team : Nat) (x : Xfer) (n : Inst) (va : Nat) (info : DWord) : State :=
  let k := if x.asked.1 = va / 4096 then x.asked.2 else 0
  if 4 ≤ k then s.collFail team x n cause.pageRequestFailed info
  else s.putXfer team { x with held := some (va / 4096), asked := (va / 4096, k), asks := some (((s.team? team).map fun t => s.clockOf t.cl.die).getD 0) }

/-- What the sequencer does with what it met. -/
def State.collMiss (s : State) (team : Nat) (x : Xfer) (n : Inst) : Miss → State
  | (.hold, _) => s.putXfer team x
  | (.translation va, info) => s.collHold team x n va info
  | (.early c, info) => s.collFail team x n c info
  | (.late c, info) => s.collFail team x n c info

/-- The elements of the local tile from the first that is not read yet, n of them, until one cannot be read. -/
def State.collElems (s : State) (y : Site) (sd : Side) (e : Nat) (x : Xfer) : Nat → State × Xfer × Option Miss
  | 0 => (s, x, none)
  | n + 1 =>
    match s.spotRead y y.copyTlb x.fibre e (sd.spot e (x.part.length * e)) with
    | (.error m, s) => (s, x, some m)
    | (.ok bs, s) => s.collElems y sd e { x with part := x.part ++ [BitVec.ofNat 128 (leNat bs)] } n

/-- The bytes of a tile's elements from one position up to another that memory has: those inside DIM (R385). -/
def Side.bytesIn (sd : Side) (e from_ to_ : Nat) : Nat :=
  e * (((List.range to_).drop from_).filter fun k => match sd.spot e (k * e) with | .va _ | .generic _ => true | .outside | .barred _ => false).length

/-- Add a member's tile to an operation. -/
def Xfer.give (x : Xfer) (member : Nat) (st : TileStream) : Xfer :=
  { x with contribs := x.contribs.filter (fun p => p.1 ≠ member) ++ [(member, st)], part := [] }

/-- Step 1 of R384: the local tile is read whole, once, and sent to the other members that need it; what is read is charged as it is read (R385). -/
def State.collRead (s : State) (team : Nat) (x : Xfer) (n : Inst) : State :=
  if n.reads = false ∨ x.held.isSome ∨ x.contribs.any (fun p => p.1 = n.ent.self) then s.putXfer team x
  else
    match s.team? team, s.site? x.u with
    | some t, some y =>
      let sd := Side.tile n.loc n.org
      let e := elemBytes n.loc.ty
      let (s, z, m) := s.collElems y sd e x (n.loc.count - x.part.length)
      let (s, z) := s.collBill t z (sd.bytesIn e x.part.length z.part.length)
      match m with
      | some m => s.collMiss team z n m
      | none =>
        let st := streamOf n.loc.ty n.comp n.thr z.part
        let s := s.putXfer team (z.give n.ent.self st)
        if n.dlv.any (· ≠ n.ent.self) then s.collTell n (.tile st) else s
    | _, _ => s

/-- A number is in a list of members, which it joins otherwise. -/
def joined (ms : List Nat) (m : Nat) : List Nat := if m ∈ ms then ms else ms ++ [m]

/-- Two members hold identical entries for their group; each names itself in it (R377). -/
def sameEntry (a b : GroupEntry) : Bool := decide (a.nx = b.nx ∧ a.ny = b.ny ∧ a.nz = b.nz ∧ a.members = b.members)

/-- A member's data is still needed here (R382). -/
def Inst.awaits (n : Inst) (x : Xfer) (member : Nat) : Bool := n.delivers && decide (member ∈ n.needs) && !x.contribs.any fun p => p.1 = member

/-- Every other member's entry is known to be identical to this one's (R377). -/
def Inst.agrees (n : Inst) (x : Xfer) : Bool := n.sub.all fun m => m == n.ent.self || decide (m ∈ x.agreed)

/-- A message that has arrived for a running operation: a tile joins the contributions, is charged and counts as consumed (R384, R385); an entry is compared;
a member that has consumed this one's tile, or that has ended, needs it no more; a difference or a fault ends the instance (R377, R387). -/
def State.collTake (s : State) (team : Nat) (x : Xfer) (n : Inst) (member : Nat) : CollMsg → State
  | .tile st =>
    if n.awaits x member then
      match s.team? team with
      | some t =>
        let (s, x) := s.collBill t x (wireBytes n.loc.ty st)
        (s.putXfer team { x.give member st with part := x.part }).collTell n (.consumed member)
      | none => s
    else s
  | .entry e =>
    if sameEntry e n.ent then s.putXfer team { x with agreed := joined x.agreed member } else s.collFail team x n cause.protection 0 .entryDiffers
  | .consumed m => if m = n.ent.self then s.putXfer team { x with complete := joined x.complete member } else s
  | .completed => (s.putXfer team { x with complete := joined x.complete member }).collLeft n member
  | .entryDiffers => (s.collLeft n member).collFail team x n cause.protection 0 .entryDiffers
  | .faulted =>
    let s := s.collLeft n member
    if n.awaits x member then s.collFail team x n cause.protection 0 else s.putXfer team { x with complete := joined x.complete member }

/-- A running operation with its instance. -/
def State.runningColl (s : State) (team : Nat) (h : Word) : Option (Team × Xfer × Inst) :=
  (s.xfer? team h).bind fun (t, x) => if x.st = .running then (s.inst? t x).map fun n => (t, x, n) else none

/-- Hand what the chunk buffers hold for an instance to its operation. -/
def State.collDrain (s : State) (team : Nat) (h : Word) (n : Inst) : List Held → State
  | [] => s
  | m :: r =>
    if m.group = n.group ∧ m.cid = n.cid ∧ m.gen = n.gen then
      match s.runningColl team h with
      | some (_, x, n) => (s.collTake team x n m.member m.msg).collDrain team h n r
      | none => s.collDrain team h n r
    else s.collDrain team h n r

/-- A running instance waits for the tile of a member that sits on a lost device (R387). -/
def Inst.waitsFor (n : Inst) (x : Xfer) (device : Nat) : Bool := n.sub.any fun m => n.awaits x m && n.ent.members[m]? == some device

/-- The loss of a device at an instance: it ends ERROR where it still waits for data from there, and awaits nothing else from it (R387). -/
def State.collLost (s : State) (team : Nat) (x : Xfer) (n : Inst) (device : Nat) (info : DWord) : State :=
  let ms := n.sub.filter fun m => n.ent.members[m]? = some device
  let s := ms.foldl (fun s m => s.collLeft n m) s
  if n.waitsFor x device then s.collFail team x n cause.expanderLost info
  else s.putXfer team { x with agreed := ms.foldl joined x.agreed, complete := ms.foldl joined x.complete }

/-- The devices of the domain that are lost (R376). -/
def State.goneDevices (s : State) : List Nat := s.gone.filterMap fun t => match t with | .peer d => some d | .cxl _ | .host => none

/-- An operation that has its buffers begins: its entry goes to the other members, then come the local read, the data that came before it, and the members
that are lost already. What the %tinfo of their loss holds is a free value (log entry 6). -/
def State.collBegin (s : State) (team : Nat) (x : Xfer) (n : Inst) : State :=
  let x := { x with st := .running }
  let s := ({ s with collBytes := s.collBytes + x.buffers } : State).putXfer team x
  let s := if n.sub.any (· ≠ n.ent.self) then s.collTell n (.entry n.ent) else s
  let s := s.collRead team x n
  let s := match s.ctx? n.ctx with
    | some c =>
      (s.setCtx { c with held := c.held.filter fun m => ¬ (m.group = n.group ∧ m.cid = n.cid ∧ m.gen = n.gen) }).collDrain team x.handle n c.held
    | none => s
  s.goneDevices.foldl (fun s d =>
    match s.runningColl team x.handle with
    | some (_, x, n) =>
      let (info, s) := s.free
      s.collLost team x n d info
    | none => s) s

/-! ### Buffers (R384) -/

/-- Operations that wait for chunk buffers: the deadline of their meets, their team and handle. -/
def State.collWaiting (s : State) : List (Int × Nat × Xfer) :=
  s.teams.flatMap fun t => (t.xfers.filter fun x => x.st = .waitBuffer).map fun x =>
    ((((s.meet? t.meet).map fun m => ((m.t0 + m.deadline : Nat) : Int)).getD 0), t.id, x)

/-- The waiting operation that starts next: the earliest deadline, of equals the one that arrived first. -/
def firstDue : List (Int × Nat × Xfer) → Option (Nat × Xfer)
  | [] => none
  | p :: r => some (r.foldl (fun b q => if q.1 < b.1 ∨ (q.1 = b.1 ∧ q.2.2.order < b.2.2.order) then q else b) p).2

/-- Grant buffers to the operation whose turn it is, when they are free. -/
def State.collGrant (s : State) (team : Nat) (h : Word) : State :=
  match firstDue s.collWaiting with
  | some (id, x) =>
    match s.team? id with
    | some t =>
      match s.inst? t x with
      | some n =>
        if id = team ∧ x.handle = h ∧ s.collBytes + 2 * n.loc.bytes ≤ 2 ^ 26 then s.collBegin team x n else s
      | none => s
    | none => s
  | none => s

/-- COLLECTIVE_BUFFER_GRANT (R384). -/
def execCollectiveBufferGrant (team : Nat) (handle : Word) (s : State) : Out := .next (s.collGrant team handle)

/-! ### Generations (R386) -/

/-- The generation after another. -/
def nextGen (l : Nat) : Nat := if l = 65535 then 1 else l + 1

/-- What the hub decides of a generation. -/
inductive Verdict where
  | starts | busy | refused
  deriving DecidableEq, Repr

/-- The table of R386; `left` are the members that have not completed L. -/
def verdict (l g : Nat) (left : List Nat) : Verdict :=
  if g = nextGen l then (if l = 0 ∨ left = [] then .starts else .busy)
  else if g = l ∧ left ≠ [] then .busy
  else .refused

/-- COLLECTIVE_ISSUE (R386): the hub's decision; an instance that starts takes its buffers at once when it may. -/
def execCollectiveIssue (team : Nat) (handle : Word) (s : State) : Out :=
  match s.xfer? team handle with
  | some (t, x) =>
    if x.st ≠ .started then .next s
    else
      match x.work with
      | .coll _ _ _ _ _ _ gen =>
        match s.inst? t x with
        | none => .next (s.xferError t x cause.protection 0)
        | some n =>
          match s.group? n.ctx n.group with
          | none => .next (s.xferError t x cause.protection 0)
          | some g =>
            let left := ((g.open_.find? fun p => p.1 = n.cid).map Prod.snd).getD []
            match verdict ((SMap.get? g.last n.cid).getD 0) gen left with
            | .busy => .next (s.setTeam (t.finish x 0 3))
            | .refused => .next (s.xferError t x cause.protection 0)
            | .starts =>
              let g := { g with last := SMap.set g.last n.cid gen, open_ := (n.cid, n.sub) :: g.open_.filter fun p => p.1 ≠ n.cid }
              let s : State := { s with nextId := s.nextId + 1 }
              .next (((s.setGroup n.ctx n.group g).putXfer team { x with st := .waitBuffer, order := s.nextId }).collGrant team handle)
      | .tile _ _ _ _ _ => .next s
      | .task _ _ _ => .next s
  | none => .next s

/-! ### Data and completion (R382, R384, R387) -/

/-- The operations of a context that run or wait for an instance. -/
def State.collFor (s : State) (ctx group cid gen : Nat) (p : Xfer → Bool) : Option (Nat × Xfer × Inst) :=
  s.teams.findSome? fun t =>
    if t.ctx ≠ ctx then none
    else t.xfers.findSome? fun x =>
      if p x then
        (s.inst? t x).bind fun n => if n.group = group ∧ n.cid = cid ∧ n.gen = gen then some (t.id, x, n) else none
      else none

/-- A message says that its sender has ended its instance. -/
def endsInstance : CollMsg → Bool
  | .completed | .entryDiffers | .faulted => true
  | .tile _ | .entry _ | .consumed _ => false

/-- COLLECTIVE_DATA_ARRIVAL (R384, R386, R387): what comes before its instance is held. DESIGN CHOICE: it takes none of the 64 MiB of chunk buffers that
operations reserve, and any amount of it is held (log entry 27). -/
def execCollectiveDataArrival (ctx group cid gen member : Nat) (msg : CollMsg) (s : State) : Out :=
  match s.group? ctx group with
  | some g =>
    let last := (SMap.get? g.last cid).getD 0
    let s := if endsInstance msg = true ∧ gen = last then s.memberLeft ctx group cid member else s
    match s.collFor ctx group cid gen (fun x => x.st = .running) with
    | some (team, x, n) => .next (s.collTake team x n member msg)
    | none =>
      let waits := (s.collFor ctx group cid gen fun x => x.st = .waitBuffer).isSome
      match s.ctx? ctx with
      | some c =>
        if waits ∨ gen = nextGen last then
          .next (s.setCtx { c with held := c.held ++ [{ group := group, cid := cid, gen := gen, member := member, msg := msg }] })
        else .next s
      | none => .next s
  | none => .next s

/-- A member's element k of those present, in ascending member index. -/
def Xfer.column (x : Xfer) (ms : List Nat) (k : Nat) : List (BitVec 128) :=
  ms.filterMap fun m => (x.contribs.find? fun p => p.1 = m).map fun p => streamAt p.2 k

/-- A sum as it is written: that of bf16 contributions is rounded into bf16 once. -/
def sumOut (ty : Ty) (s : BitVec 128) : Nat := if ty = .bf16 then (fmtOf ty).round 0 0 (FFmt.f32.read s.toNat) else s.toNat

/-- The output element (Table 26.3). -/
def reduceElem (op : Nat) (ty : Ty) (es : List (BitVec 128)) : Nat :=
  let f := fmtOf ty
  let pick (mx : Bool) (a b : Nat) : Nat :=
    if ty = .s32 then (if (toSigned 32 a < toSigned 32 b) = mx then b else a) else floatPick f mx a b
  match op with
  | 0 => (es.headD 0).toNat
  | 3 => (es.tail.foldl (fun a b => pick true a b.toNat) (pick true (es.headD 0).toNat (es.headD 0).toNat))
  | 4 => (es.tail.foldl (fun a b => pick false a b.toNat) (pick false (es.headD 0).toNat (es.headD 0).toNat))
  | _ => sumOut ty (es.foldl (sumStep ty) 0)

/-- The sums of an instance: the streams of its members merged one after another, in ascending member index (R382, R383). -/
def Inst.merged (n : Inst) (x : Xfer) : TileStream :=
  (n.needs.filterMap fun m => (x.contribs.find? fun p => p.1 = m).map Prod.snd).foldl (mergeStreams n.out.ty n.comp n.thr n.out.count)
    (streamOf n.out.ty n.comp n.thr (List.replicate n.out.count 0))

/-- The output elements of an instance: sums come from the merged stream, the other operators from the members' elements. -/
def Inst.result (n : Inst) (x : Xfer) : Nat → Nat :=
  let m := n.merged x
  if n.op = 1 ∨ n.op = 2 ∨ n.op = 5 then fun k => sumOut n.out.ty (streamAt m k) else fun k => reduceElem n.op n.out.ty (x.column n.needs k)

/-- A place of the output: a write outside DIM is discarded, whatever OOBT says of reads (R382). -/
def Spot.discarding : Spot → Spot
  | .barred _ => .outside
  | .outside => .outside
  | .generic a => .generic a
  | .va a => .va a

/-- Write output elements until one fails or the tile ends; a write that waits for copies outside the package asks for them (R359, R366). -/
def State.collWrite (s : State) (n : Inst) (el : Nat → Nat) (x : Xfer) : Nat → State × Xfer × Option Miss
  | 0 => (s, x, none)
  | k + 1 =>
    match s.site? x.u with
    | none => (s, x, none)
    | some y =>
      let e := elemBytes n.out.ty
      let p := ((Side.tile n.out n.org).spot e (x.wrote * e)).discarding
      match s.spotWrite y y.copyTlb x.fibre (leBytes (el x.wrote) e) x.grans [offerAll y.u y.team.cl] p with
      | .error (.hold, info) => (s.spotAsk y y.copyTlb x.fibre e p, x, some (.hold, info))
      | .error m => (s, x, some m)
      | .ok w => w.s.collWrite n el { x with wrote := x.wrote + 1, grans := w.own, till := max x.till w.till } k

/-- Every tile that this member needs is present. -/
def Inst.ready (n : Inst) (x : Xfer) : Bool := n.needs.all fun m => x.contribs.any fun p => p.1 = m

/-- Step 4 of R384: the instance completes at this member. -/
def State.collDone (s : State) (team : Nat) (x : Xfer) (n : Inst) : State :=
  match s.team? team with
  | some t => ((s.xferDone t x).collLeft n n.ent.self).collTell n .completed
  | none => s

/-- COLLECTIVE_COMPLETION (R377, R384): once the members' entries are known to be identical, the output is written at a member of the delivery set, and the
instance completes when the leases on it have expired (R129); elsewhere it completes when the members that need this one's tile have consumed it. -/
def execCollectiveCompletion (team : Nat) (handle : Word) (s : State) : Out :=
  match s.runningColl team handle with
  | none => .next s
  | some (_, x, n) =>
    if x.held.isSome then .next s
    else if n.reads ∧ ¬ x.contribs.any (fun p => p.1 = n.ent.self) then .next (s.collRead team x n)
    else if n.agrees x = false then .next s
    else if n.delivers = false then
      if n.reads = false ∨ n.dlv.all (· ∈ x.complete) then .next (s.collDone team x n) else .next s
    else if n.ready x = false then .next s
    else
      let (s, y, m) := s.collWrite n (n.result x) x (n.out.count - x.wrote)
      match s.team? team with
      | none => .next s
      | some t =>
        let (s, y) := s.collBill t y ((Side.tile n.out n.org).bytesIn (elemBytes n.out.ty) x.wrote y.wrote)
        let s := s.putXfer team y
        match m with
        | none => if s.now < y.till then .next s else .next (s.collDone team y n)
        | some m => .next (s.collMiss team y n m)

/-- GROUP_TABLE_WRITE (R377): refused while an operation that names the entry is queued or running at the hub; none ends its validity. It comes through a
collective liaison core, and nothing becomes of it when those of every die have failed (R20, log entry 43). -/
def execGroupTableWrite (ctx : Nat) (group : Nat) (entry : Option GroupEntry) (s : State) : Out :=
  match s.ctx? ctx with
  | none => .next (s.tell (.command cause.privileged))
  | some c =>
    if s.dies.all fun d => !d.coreUp 6 then .next s
    else
    let atHub (x : Xfer) : Bool := x.st = .started || x.st = .waitBuffer || x.st = .running
    let busy := s.teams.any fun t => t.ctx = ctx ∧ t.xfers.any fun x =>
      match x.work with
      | .coll loc _ _ _ _ _ _ => atHub x && (loc.grid.map fun g => gridGroup g == group).getD false
      | .tile _ _ _ _ _ => false
      | .task _ _ _ => false
    let valid := (entry.map groupOk).getD true
    if busy ∨ 256 ≤ group ∨ valid = false ∨ s.product = .ks4x then .next (s.tell (.command cause.protection))
    else
      let gs := match entry with
        | some e => SMap.set c.groups group { entry := e, last := [], open_ := [] }
        | none => SMap.del c.groups group
      .next ((s.setCtx { c with groups := gs }).tell (.command 0))

/-! ### The meanings, one for each row of the opcode table -/

/-- TXCOLL (R311). -/
def execTxcoll (e : Ext) (s : State) : Out := opTxcoll e s

end Sys2Proof.Machine
end

