-- ==== Sys2Proof/Machine/FrameLayout.lean ====
section
/-!
DEFINITION. What a frame holds, as the words of Tables 22.2, 22.4 and 22.5 and the sizes of Table 22.3, computed from a
saved team (R346, R349; log entry 28).
-/

namespace Sys2Proof.Machine

/-- Baton records and chain steps of a list of slots, in bytes (Table 22.3). -/
def recordBytes (rs : List Slot) : Nat :=
  (rs.map fun r => match r with
    | .val _ => 0
    | .bat b => 16 + 16 * b.chain.length).sum

/-- The sizes of the eight sections of a team's frame, in the order of Table 22.3. -/
def Team.sectionBytes (t : Team) : List Nat :=
  [t.heats.length * (1024 + 128 * t.base),
   t.xsets.length * 16384,
   (t.heats.map fun h => (h.fibres.map fun f => (f.map fun f => recordBytes f.regs).getD 0).sum).sum +
     (t.xsets.map fun x => (x.regs.map recordBytes).sum).sum,
   32 * t.frame.length,
   if t.hasPacer then 4096 else 0,
   512 * t.accrows,
   t.cores.length * t.scratch + t.cshared + 262144 * t.fifos.length,
   8192]

/-- Bytes of a team's frame: the 64-byte header and the sections. -/
def Team.frameBytes (t : Team) : Nat := 64 + t.sectionBytes.sum

/-- The byte offset of each section: the sections follow the header without a gap. -/
def Team.sectionOffs (t : Team) : List Nat := (List.range 8).map fun i => 64 + (t.sectionBytes.take i).sum

/-- A number placed at a bit position of a wider word. -/
def placed (w : Nat) (lo : Nat) (n : Nat) : BitVec w := BitVec.ofNat w n <<< lo

/-- The frame header (Table 22.2), as the 512 bits of its 64 bytes. -/
def Team.frameHeader (t : Team) : BitVec 512 :=
  let squads := t.cores.length
  let heats := (t.heats.filter fun h => h.squad = 0).length
  let flags := (if t.hasPacer then 1 else 0) + (if t.xregs then 2 else 0) + (if t.pages.any (fun p => !p.failed && !p.done) then 4 else 0)
  let offs := t.sectionOffs.zipIdx.foldl (fun w (o, i) => w ||| placed 512 (256 + 32 * i) (o % 2 ^ 32)) 0
  offs ||| placed 512 224 (t.frameBytes % 2 ^ 32) ||| placed 512 208 (t.cl.loc % 2 ^ 16) ||| placed 512 192 (t.slotno % 2 ^ 16) |||
    placed 512 184 flags ||| placed 512 176 ((squads - 1) % 4 * 64 + (heats - 1) % 16) ||| placed 512 168 (t.field % 2 ^ 8) |||
    placed 512 96 (t.index % 2 ^ 32) ||| placed 512 64 t.gen.toNat ||| placed 512 0 0x4B53434652414D31

/-- A baton record as a frame holds it (Table 22.4), with the offset of its first chain step in 16-byte units. -/
def Baton.frameWord (b : Baton) (squad heat fibre reg chain : Nat) : BitVec 128 :=
  let st := match b.st with
    | .pending => 0
    | .fault _ _ _ _ => 1
    | .drained _ _ _ => 2
  let c := match b.st with
    | .fault c _ _ _ => c.toNat
    | _ => 0
  placed 128 96 b.b.toNat ||| placed 128 64 b.a.toNat ||| placed 128 48 (chain % 2 ^ 16) ||| placed 128 45 (b.chain.length % 8) |||
    placed 128 43 st ||| placed 128 35 c ||| placed 128 27 (reg % 2 ^ 8) ||| placed 128 22 (fibre % 32) ||| placed 128 16 b.tag.toNat |||
    placed 128 0 (squad % 4 * 256 + heat % 16)

/-- The 32 bytes of a replay or await record, from its fields (Table 22.5). -/
def replayWord (data kind squad heat fibre : Nat) (f : Flight) (el : FlightElem) : BitVec 256 :=
  let mods := (if f.acq then 1 else 0) + (if f.kind = .ldx then 2 else 0) + 4 * (f.rc % 16) + (if el.cpy.isSome then 64 else 0)
  placed 256 192 data ||| placed 256 184 kind ||| placed 256 168 (squad % 4 * 16 + heat % 16) ||| placed 256 160 (fibre % 32) |||
    placed 256 152 f.tag.toNat ||| placed 256 144 f.rs.toNat ||| placed 256 136 mods ||| placed 256 128 f.ty.code.toNat |||
    placed 256 120 (el.reg % 2 ^ 8) ||| placed 256 64 f.pc.toNat ||| placed 256 0 el.ea.toNat

/-- What the data field of a replay holds: the element index of type q, or the target and channel of a load with .cpy. -/
def replayData (f : Flight) (el : FlightElem) : Nat :=
  match el.cpy with
  | some (k, w) => w.toNat + 2 ^ 32 * (k % 8)
  | none => if f.ty = .q then el.index.toNat else 0

/-- A replay or await record of a team as its frame holds it. -/
def FrameRec.word (t : Team) (r : FrameRec) : Option (BitVec 256) :=
  let find (u : UnitRef) (tag : BitVec 6) (fibre : Nat) : Option (Nat × Nat × Flight × FlightElem) :=
    match u.who with
    | .pacer => none
    | .heat q i =>
      ((t.heats.find? fun h => decide (h.squad = q ∧ h.idx = i)).bind fun h => h.flights.find? fun f => decide (f.tag = tag)).bind fun f =>
        (f.elems.find? fun el => decide (el.fibre = fibre)).map fun el => (q, i, f, el)
  match r with
  | .replay u tag fibre => (find u tag fibre).map fun (q, i, f, el) => replayWord (replayData f el) 0 q i fibre f el
  | .await u tag fibre none => (find u tag fibre).map fun (q, i, f, el) => replayWord 0 1 q i fibre f el
  | .await u tag fibre (some (.value v)) => (find u tag fibre).map fun (q, i, f, el) => replayWord v.toNat 2 q i fibre f el
  | .await u tag fibre (some (.fault c)) => (find u tag fibre).map fun (q, i, f, el) => replayWord c.toNat 3 q i fibre f el

/-! ### The bytes of a frame (R346, log entry 28) -/

/-- The records of a list of slots with their register numbers. -/
def recordsFrom (reg : Nat) : List Slot → List (Nat × Baton)
  | [] => []
  | .val _ :: r => recordsFrom (reg + 1) r
  | .bat b :: r => (reg, b) :: recordsFrom (reg + 1) r

/-- The records of a team: squad, heat, fibre slot and register of each; those of an extended set stand under the heat that made
them. -/
def Team.batons (t : Team) : List (Nat × Nat × Nat × Nat × Baton) :=
  (t.heats.flatMap fun h => h.fibres.zipIdx.flatMap fun (f, i) =>
    (recordsFrom 0 ((f.map Fibre.regs).getD [])).map fun p => (h.squad, h.idx, i, p.1, p.2)) ++
  t.xsets.flatMap fun x => x.regs.zipIdx.flatMap fun (rs, i) => (recordsFrom 128 rs).map fun p => (x.squad, (p.2.left.or x.holder).getD x.low, i, p.1, p.2)

/-- The 16 bytes of a chain step: the known operands, the operation, the type, the mode, .sub and the baton's place. -/
def ChainStep.bytes (c : ChainStep) : List Byte :=
  let op : Nat := match c.op with
    | .fadd => 0
    | .fsub => 1
    | .fmul => 2
    | .fma => 3
  leBytes (c.k1.toNat + 2 ^ 32 * (c.k2.toNat + 2 ^ 32 * (op + 2 ^ 8 * (c.ty.code.toNat + 2 ^ 8 * (c.rm.toNat + 2 ^ 8 * ((if c.sub then 1 else 0) + 2 ^ 8 * c.pos)))))) 16

/-- The words of the records; the chain of each begins behind those of the records before it, counted from the first chain step on (R346). -/
def recordWords (chain : Nat) : List (Nat × Nat × Nat × Nat × Baton) → List (BitVec 128)
  | [] => []
  | (q, h, i, r, b) :: rest => b.frameWord q h i r chain :: recordWords (chain + b.chain.length) rest

/-- A slot's word in a frame: a record's holds 0 (Table 22.3). -/
def slotBytes : Slot → List Byte
  | .val w => leBytes w.toNat 4
  | .bat _ => leBytes 0 4

/-- The 28 bytes of a fibre: PC, state, mask wait, window base, %epc and seed. -/
def Fibre.frameBytes (f : Fibre) : List Byte :=
  leBytes f.pc.toNat 7 ++ leBytes (if f.handler then 3 else 1) 1 ++ leBytes (f.waitOn.getD 255) 1 ++ leBytes f.win 1 ++ leBytes 0 2 ++ leBytes f.epc.toNat 8 ++
    leBytes f.seed.toNat 4 ++ leBytes 0 4

/-- A heat with n slots a fibre: fibres, masks, and its slots; what is zero is left out. -/
def Heat.framePieces (h : Heat) (n at_ : Nat) : List (Nat × List Byte) :=
  (h.fibres.zipIdx.flatMap fun (f, i) =>
    match f with
    | none => []
    | some f => [(at_ + 28 * i, f.frameBytes), (at_ + 1024 + 4 * n * i, f.regs.flatMap slotBytes)]) ++
  [(at_ + 896, h.masks.flatMap fun w => leBytes w.toNat 4)]

/-- Cells of a storage as pieces of a frame. -/
def cellPieces (at_ : Nat) (m : List Host.Cell) : List (Nat × List Byte) := m.map fun c => (at_ + c.1, [c.2])

/-- The pieces of the memory section: core scratch by squad, then cluster-shared memory, then the banks of FIFOs with their elements. -/
def Team.storagePieces (t : Team) (at_ : Nat) : List (Nat × List Byte) :=
  (t.scrMem.zipIdx.flatMap fun (m, q) => cellPieces (at_ + q * t.scratch) m) ++ cellPieces (at_ + t.cores.length * t.scratch) t.cshMem ++
    t.fifos.zipIdx.map fun (f, i) =>
      (at_ + t.cores.length * t.scratch + t.cshared + 262144 * i, leBytes (f.2.reg + 256 * f.2.opened) 8 ++ f.2.elems.flatMap fun v => leBytes v.toNat 8)

/-- The pieces of the engines section: write pointers of channels, counters, and statuses of handles. -/
def Team.enginePieces (t : Team) (at_ : Nat) : List (Nat × List Byte) :=
  [(at_, t.counters.flatMap fun n => leBytes n 8), (at_ + 64, (t.chans.flatMap fun p => leBytes (p.1 + 2 ^ 32 * p.2.w.toNat) 8)),
   (at_ + 512, (t.status.take 960).flatMap fun p => leBytes (p.1.toNat + 2 ^ 32 * p.2.toNat) 8)]

/-- The pieces of a frame, each with its offset: what is left out is zero. The header, the records, and the replay and await records stand as the manual
lays them out, and DESIGN CHOICE: the rest stands in an order of the model's own within its section, and what of a pacer's queue, its operand slots and the
engines' work has no bytes here is in the team alone (log entry 28). -/
def Team.framePieces (t : Team) : List (Nat × List Byte) :=
  let at_ (i : Nat) : Nat := t.sectionOffs.getD i 0
  [(0, leBytes t.frameHeader.toNat 64)] ++
    (t.heats.zipIdx.flatMap fun (h, i) => h.framePieces t.base (at_ 0 + i * (1024 + 128 * t.base))) ++
    (t.xsets.zipIdx.map fun (x, i) => (at_ 1 + 16384 * i, x.regs.flatMap fun rs => rs.flatMap slotBytes)) ++
    [(at_ 2, ((recordWords 0 t.batons).flatMap fun w => leBytes w.toNat 16) ++ t.batons.flatMap fun p => p.2.2.2.2.chain.flatMap ChainStep.bytes),
     (at_ 3, (t.frame.filterMap (FrameRec.word t)).flatMap fun w => leBytes w.toNat 32)] ++
    (((t.pacer.bind fun h => (h.fibres[0]?).join).map fun f => [(at_ 4, f.frameBytes), (at_ 4 + 32, f.regs.flatMap slotBytes)]).getD []) ++
    (t.acc.map fun p => (at_ 5 + 4 * p.1, leBytes p.2.toNat 4)) ++ t.storagePieces (at_ 6) ++ t.enginePieces (at_ 7)

/-- Memory without the cells of a range. -/
def Memory.clear (m : List Host.Cell) (a n : Nat) : List Host.Cell := m.filter fun c => decide (c.1 < a ∨ a + n ≤ c.1)

/-- Write a range at its home: zero but for some pieces. -/
def State.homeFill (s : State) (a n : Nat) (ps : List (Nat × List Byte)) : State :=
  let s := s.recallU a n
  { s with
    mem := ps.foldl (fun m p => Memory.write m (a + p.1) p.2) (Memory.clear s.mem a n)
    poison := s.poison.filter fun l => !wholeLine l a n
    invals := s.invals.filter fun v => !(v.left.isEmpty && v.meets a n) }

/-- Write the frame of a saved team where it has been allocated. -/
def State.writeFrame (s : State) (t : Team) : State :=
  match t.frameAt with
  | none => s
  | some a => s.homeFill a t.frameBytes t.framePieces

end Sys2Proof.Machine
end

