-- ==== Sys2Proof/Machine/Convert.lean ====
section
/-!
DEFINITION. Conversions, dot products, reduction across a heat and SBOUND: opcodes 0x58 to 0x5D and 0x64 (R273 to R277, R287).
-/

namespace Sys2Proof.Machine

/-! ### Conversions (R273 to R275) -/

/-- The source type of F2I and FCVT that M1 names. -/
def fromOf (m1 : Nat) : Ty :=
  match m1 with
  | 0 => .f32
  | 1 => .f16
  | 2 => .bf16
  | 3 => .h2
  | _ => .b2

/-- The saturated integer of a value (R273). -/
def toInt (ty : Ty) (mode u : Nat) (v : Fp) : Int :=
  match v.integral mode u with
  | .nan => 0
  | .inf n => if n then typeMin ty else typeMax ty
  | .fin n m e => min (max (Fp.scaled n m e 0) (typeMin ty)) (typeMax ty)

/-- F2I (R273). -/
def opF2i (e : Ext) (s : State) : Out :=
  issue e.guard (demand [useD e e.ty.regs, readA e 1]) s (regEffect fun x i y =>
    let src := fromOf e.m1.toNat
    let v := toInt e.ty (rndOf e) (x.draw e i 0) (readF src (subOf e) (laneOf src (x.val i e.a.toNat 1) 0))
    x.drawn e i 1 (y.dst i e (resultOf e.ty v)))

/-- The source type of I2F (R274). -/
def intFrom (m1 : Nat) : Ty :=
  match m1 with
  | 0 => .s32
  | 1 => .n32
  | 2 => .s64
  | 3 => .n64
  | 4 => .s16
  | 5 => .n16
  | 6 => .s8
  | _ => .n8

/-- I2F (R274). -/
def opI2f (e : Ext) (s : State) : Out :=
  let src := intFrom e.m1.toNat
  issue e.guard (demand [useD e 1, readA e src.regs]) s (regEffect fun x i y =>
    let v := valOf src (x.val i e.a.toNat src.regs)
    x.drawn e i 1 (y.dst32 i e (x.rnd e i 0 (.fin (v < 0) v.natAbs 0))))

/-- Registers of the source of FCVT (R275). -/
def cvtSrcRegs (e : Ext) : Nat := if lanesOf e.ty = 2 ∧ fromOf e.m1.toNat = .f32 then 2 else 1

/-- Registers of the destination of FCVT. -/
def cvtDstRegs (e : Ext) : Nat := if lanesOf e.ty = 1 ∧ lanesOf (fromOf e.m1.toNat) = 2 then 2 else 1

/-- Elements that FCVT converts. -/
def cvtLanes (e : Ext) : Nat := max (lanesOf e.ty) (lanesOf (fromOf e.m1.toNat))

/-- Element j of the source of FCVT: a pair of f32 registers holds two. -/
def Site.cvtLane (x : Site) (i : Nat) (e : Ext) (j : Nat) : Nat :=
  let src := fromOf e.m1.toNat
  if src = .f32 then x.val i (e.a.toNat + j) 1 else laneOf src (x.val i e.a.toNat 1) j

/-- FCVT (R275). -/
def opFcvt (e : Ext) (s : State) : Out :=
  issue e.guard (demand [useD e (cvtDstRegs e), readA e (cvtSrcRegs e)]) s (regEffect fun x i y =>
    let src := fromOf e.m1.toNat
    let one (j : Nat) : Nat := x.rnd e i j (readF src (subOf e) (x.cvtLane i e j))
    let width := if cvtDstRegs e = 2 then 32 else fbits e.ty
    let v := ((List.range (cvtLanes e)).map fun j => one j * 2 ^ (width * j)).sum
    x.drawn e i (cvtLanes e) (y.setVal i e.d.toNat (cvtDstRegs e) v))

/-! ### Dot products (R95, R276) -/

/-- The exact sum of products and an accumulator (R94): the order of the additions changes nothing. -/
def dotSum (acc : Fp) (ps : List Fp) : Fp := ps.foldl (Fp.add false) acc

/-- The elements of n registers of packed pairs, low first. -/
def lanesAt (e : Ext) (v n : Nat) : List Fp :=
  (List.range (2 * n)).map fun j => readF e.ty (subOf e) (bitsOf v (16 * j) 16)

/-- A float dot product over registers of a, b and c. -/
def dotFloat (e : Ext) (n : Nat) (us : List Use) (b : Site → Nat → Nat) (s : State) : Out :=
  issue e.guard (demand us) s (regEffect fun x i y =>
    let ps := ((lanesAt e (x.val i e.a.toNat n) n).zip (lanesAt e (b x i) n)).map fun p => Fp.mul p.1 p.2
    let v := FFmt.f32.round (rndOf e) (x.draw e i 0) (dotSum (FFmt.f32.read (x.val i e.c.toNat 1)) ps)
    x.drawn e i 1 (y.dst32 i e v))

/-- DOT2 (R276). -/
def opDot2 (e : Ext) (s : State) : Out :=
  dotFloat e 1 ([useD e 1, readA e 1] ++ readB e 1 ++ [readC e 1]) (fun x i => x.srcB i e) s

/-- The integer DOT4 (R276): byte k of a register is element k. -/
def dotInt (e : Ext) (s : State) : Out :=
  perFibre32 e [useD e 1, readA e 1, { reg := e.b.toNat, n := 1, rd := true }, readC e 1] s fun x i =>
    let wide : Ty := if e.ty.signed then .s32 else .n32
    let el (r k : Nat) : Int := valOf e.ty (bitsOf (x.val i r 1) (8 * k) 8)
    let sum := ((List.range 4).map fun k => el e.a.toNat k * el e.b.toNat k).sum + valOf wide (x.val i e.c.toNat 1)
    finish wide (e.mod.getLsbD 0) sum

/-- DOT4 (R276). -/
def opDot4 (e : Ext) (s : State) : Out :=
  if e.ty = .s8 ∨ e.ty = .n8 then dotInt e s
  else
    dotFloat e 2 [useD e 1, readA e 2, { reg := e.b.toNat, n := 2, rd := true }, readC e 1] (fun x i => x.val i e.b.toNat 2) s

/-! ### Reduction across a heat (R96, R277) -/

/-- One level of the tree: neighbours combine, a lone one passes. -/
def treeLevel (f : Nat → Nat → Nat) : List (Option Nat) → List (Option Nat)
  | a :: b :: r => (match a, b with
      | some x, some y => some (f x y)
      | some x, none => some x
      | none, y => y) :: treeLevel f r
  | l => l

/-- The root of the tree of five levels. -/
def treeRoot (f : Nat → Nat → Nat) (l : List (Option Nat)) : Nat :=
  ((treeLevel f (treeLevel f (treeLevel f (treeLevel f (treeLevel f l))))).headD none).getD 0

/-- The type is one of the float types. -/
def isFloat (ty : Ty) : Bool := decide (ty = .f32 ∨ ty = .f16 ∨ ty = .bf16)

/-- A node of the tree (R277). -/
def hredNode (e : Ext) (a b : Nat) : Nat :=
  let f := fmtOf e.ty
  let v := valOf e.ty
  match e.m1.toNat with
  | 0 => if isFloat e.ty then f.round (rndOf e) 0 (Fp.add (rndOf e = 3) (f.read a) (f.read b)) else (a + b) % 2 ^ e.ty.bits
  | 1 => if isFloat e.ty then floatPick f false a b else if v b < v a then b else a
  | 2 => if isFloat e.ty then floatPick f true a b else if v a < v b then b else a
  | 3 => a &&& b
  | 4 => a ||| b
  | _ => a ^^^ b

/-- The value that a slot brings: a float as read. -/
def Site.hredLeaf (x : Site) (e : Ext) (i : Nat) : Nat :=
  if isFloat e.ty then flushed e.ty (subOf e) (laneOf e.ty (x.srcA i e) 0) else x.srcA i e

/-- The value written: every NaN is the default NaN. -/
def hredRoot (e : Ext) (v : Nat) : Nat := if isFloat e.ty ∧ (fmtOf e.ty).read v = .nan then (fmtOf e.ty).nan else v

/-- HRED (R277). -/
def opHred (e : Ext) (s : State) : Out :=
  issue e.guard (demand [useD e e.ty.regs, readA e e.ty.regs]) s fun s x is =>
    let leaves := (List.range 32).map fun i => if i ∈ is then some (x.hredLeaf e i) else none
    let v := hredRoot e (treeRoot (hredNode e) leaves)
    regEffect (fun _ i y => y.dst i e v) s x is

/-! ### SBOUND (R287) -/

/-- The greater of two exact values, -0 below +0; NaN if either is. -/
def Fp.maxOf (a b : Fp) : Fp := if a = .nan ∨ b = .nan then .nan else if Fp.below a b then b else a

/-- SBOUND (R287). -/
def opSbound (e : Ext) (s : State) : Out :=
  issue e.guard (demand [readD e 1, readA e 1, { reg := e.b.toNat, n := 1, rd := true }, readC e 1]) s (regEffect fun x i y =>
    let el (r j : Nat) : Fp := readF e.ty (subOf e) (laneOf e.ty (x.val i r 1) j)
    let terms := (List.range (lanesOf e.ty)).map fun j =>
      Fp.maxOf (Fp.mul (el e.a.toNat j) (el e.b.toNat j)) (Fp.mul (el e.a.toNat j) (el e.c.toNat j))
    let v := FFmt.f32.round (rndOf e) (x.draw e i 0) (dotSum (FFmt.f32.read (x.val i e.d.toNat 1)) terms)
    x.drawn e i 1 (y.dst32 i e v))

/-! ### The meanings, one for each row of the opcode table -/

/-- F2I (R273). -/
def execF2i (e : Ext) (s : State) : Out := opF2i e s

/-- I2F (R274). -/
def execI2f (e : Ext) (s : State) : Out := opI2f e s

/-- FCVT (R275). -/
def execFcvt (e : Ext) (s : State) : Out := opFcvt e s

/-- DOT2 (R276). -/
def execDot2 (e : Ext) (s : State) : Out := opDot2 e s

/-- DOT4 (R276). -/
def execDot4 (e : Ext) (s : State) : Out := opDot4 e s

/-- HRED (R277). -/
def execHred (e : Ext) (s : State) : Out := opHred e s

/-- SBOUND (R287). -/
def execSbound (e : Ext) (s : State) : Out := opSbound e s

end Sys2Proof.Machine
end

