-- ==== Sys2Proof/Machine/Matrix.lean ====
section
/-!
DEFINITION. The matrix array: opcodes 0x68 to 0x70 (R289 to R307), the driver's AWSET (R168), the tile fetch unit (R294, R299) and
the array's own steps (R297, R298, R300).
-/

namespace Sys2Proof.Machine

/-! ### Operand slots (R293) -/

/-- The record that a slot takes, or the trap of R293. -/
def bindTest (r : TRec) (ra : Nat) : Option (Byte × DWord) :=
  if r.grid.isSome ∨ ¬(r.ty = .f16 ∨ r.ty = .bf16 ∨ r.ty = .q) then some (cause.formatInvalid, dw ra)
  else if r.aligned = false then some (cause.misaligned, dw ra)
  else none

/-- MXBIND (R293). -/
def opMxbind (e : Ext) (s : State) : Out :=
  let hi := e.mod.getLsbD 0
  issue e.guard (demand (readA e 2 :: if hi then [readC e 3] else [])) s fun s1 x is =>
    let i := is.headD 0
    let a := x.val i e.a.toNat 2
    match recordAddress a with
    | some c => s1.trap x is c i (dw a)
    | none =>
      match s1.readRecord x i a with
      | (.error b, s1) => State.recordFault s s1 x is a b
      | (.ok r, s1) =>
        match bindTest r a with
        | some (c, info) => s1.trap x is c i info
        | none =>
          let o (k : Nat) : Nat := if hi then x.val i (e.c.toNat + k) 1 else 0
          let b : Bound := { r := r, o2 := o 0, o3 := o 1, o4 := o 2 }
          .next (s1.done { x with team := { x.team with slots := x.team.slots.set (bitsOf e.m1.toNat 0 3) (some b) } })

/-! ### Issue of MXMA and MXZERO (R295, R296, R300) -/

/-- The shape of an MXMA (Table 18.4). -/
structure MxShape where
  m : Nat
  n : Nat
  k : Nat
  deriving DecidableEq, Repr

/-- The shape that a word holds; none when a res0 bit is set. -/
def MxShape.ofWord (w : Word) : Option MxShape :=
  if bitsOf w.toNat 26 6 ≠ 0 then none
  else some { m := bitsOf w.toNat 0 7 + 1, n := bitsOf w.toNat 7 7 + 1, k := bitsOf w.toNat 14 12 + 1 }

/-- K-chunks of a reduction depth. -/
def kChunks (k : Nat) : Nat := ceilDiv k 32

/-- The link of an MXMA: none, .wt with its parity, or .ar (Table 18.3). -/
def linkOf (e : Ext) (a : Nat) : MxLink :=
  match bitsOf e.imm.toNat 0 2 with
  | 0 => .none
  | 1 => .wt (dw a) (e.imm.getLsbD 2)
  | _ => .ar (dw a)

/-- The address test of a link (R296): it must lie in cluster-shared space, and a core-scratch address is foreign to the pacer. -/
def Site.linkTest (x : Site) (i a : Nat) : Option Byte :=
  match windowOf a with
  | some .shared | some .scratch => (match x.check i a 16 16 with
    | .error c => some c
    | .ok _ => none)
  | _ => some cause.spaceWindow

/-- The tests of R296 and R300 that raise PROTECTION, in their order, and then the link. -/
def Site.mxmaTest (x : Site) (e : Ext) (i row0 link : Nat) (sh : Option MxShape) : Option (Byte × DWord) :=
  let slot (k : Nat) : Option Bound := (x.team.slots.getD k none)
  match sh with
  | none => some (cause.protection, 0)
  | some s =>
    if x.team.accrows < row0 + s.m then some (cause.protection, 0)
    else if (slot (bitsOf e.m1.toNat 0 3)).isNone ∨ (slot e.mod.toNat).isNone then some (cause.protection, 0)
    else if x.team.mxErr then some (cause.protection, 0)
    else if bitsOf e.imm.toNat 0 2 = 0 then none
    else (x.linkTest i link).map fun c => (c, dw link)

/-- The keeper has asked a team's cluster to save it: its pacer issues no array entry any more (R356). -/
def State.saving (s : State) (t : Team) : Bool := decide (((s.cluster? t.cl).bind Cluster.saving) = some t.id)

/-- Enter the array queue. -/
def Site.enqueue (x : Site) (q : MxEntry) : Site := { x with team := { x.team with queue := x.team.queue ++ [q], fenced := false } }

/-- MXMA (R295, R296). -/
def opMxma (e : Ext) (s : State) : Out :=
  let linked : Bool := bitsOf e.imm.toNat 0 2 ≠ 0
  let us := [readD e 1, readA e 1] ++ (if linked then [{ reg := e.b.toNat, n := 2, rd := true : Use }] else []) ++ [readC e 4]
  issue e.guard (demand us) s fun s1 x is =>
    let i := is.headD 0
    let sh := MxShape.ofWord (x.word i e.d.toNat)
    let row0 := x.val i e.a.toNat 1
    let link := if linked then x.val i e.b.toNat 2 else 0
    match x.mxmaTest e i row0 link sh, sh, x.team.slots.getD (bitsOf e.m1.toNat 0 3) none, x.team.slots.getD e.mod.toNat none with
    | some (c, info), _, _, _ => s1.trap x is c i info
    | none, some m, some a, some b =>
      if 8 ≤ x.team.queue.length ∨ s1.saving x.team then s.stall
      else
        let o (k : Nat) : Nat := x.val i (e.c.toNat + k) 1
        let w : MxWork := .mma m.n m.k a b (o 0) (o 1) (o 2) (o 3) (e.m1.getLsbD 3) (linkOf e link) x.team.fenced
        let q : MxEntry := { row0 := row0, rows := m.m, work := w, pc := s1.cur.pc, applied := 0, chunks := [], held := none, stop := none }
        let (s2, x) := s1.charge x (32 * kChunks m.k)
        .next (s2.done (x.enqueue q))
    | none, _, _, _ => .next (s1.done x)

/-- MXZERO (R300). -/
def opMxzero (e : Ext) (s : State) : Out :=
  issue e.guard (demand (readA e 1 :: readB e 1)) s fun s1 x is =>
    let i := is.headD 0
    let row0 := x.val i e.a.toNat 1
    let n := x.srcN i e
    if n < 1 ∨ 2048 < n ∨ x.team.accrows < row0 + n ∨ x.team.mxErr then s1.trap x is cause.protection i 0
    else if 8 ≤ x.team.queue.length ∨ s1.saving x.team then s.stall
    else
      let q : MxEntry := { row0 := row0, rows := n, work := .zero, pc := s1.cur.pc, applied := 0, chunks := [], held := none, stop := none }
      .next (s1.done { x with team := { x.team with queue := x.team.queue ++ [q] } })

/-! ### MXWAIT, MXFENCE, MXSTAT (R301, R302) -/

/-- MXWAIT (R301). -/
def opMxwait (e : Ext) (s : State) : Out :=
  issue e.guard (demand []) s fun s1 x _ => if x.team.queue = [] then .next (s1.done x) else s.stall

/-- MXFENCE (R301): tile fetches of later MXMAs use no line pinned before it. -/
def opMxfence (e : Ext) (s : State) : Out :=
  issue e.guard (demand []) s fun s x _ => .next (s.done { x with team := { x.team with fenced := true } })

/-- The lines that an entry has pinned. -/
def MxEntry.lines (q : MxEntry) : List (Nat × List Byte) := q.chunks.flatMap Chunk.lines

/-- The quantised chunks of which an entry pins lines. -/
def MxEntry.images (q : MxEntry) : List Image := q.chunks.flatMap Chunk.images

/-- Lines pinned in a cluster, each counted once (R294). -/
def State.pinned (s : State) (cl : ClusterRef) : List Nat :=
  (s.teams.flatMap fun t => if t.cl = cl ∧ t.st = .resident then t.queue.flatMap fun q => q.lines.map Prod.fst else []).dedup

/-- The word of MXSTAT (Table 18.5). -/
def Team.mxStat (t : Team) (pinned : Nat) : Nat :=
  t.queue.length + ((List.range 8).map fun k => if (t.slots.getD k none).isSome then 2 ^ (4 + k) else 0).sum +
    64 * pinned / 1024 * 2 ^ 12 + (if t.mxErr then 2 ^ 22 else 0)

/-- MXSTAT (R302): M1 = 1 is .clr. -/
def opMxstat (e : Ext) (s : State) : Out :=
  issue e.guard (demand [useD e 1]) s fun s x is =>
    let x := if e.m1 = 1 then { x with team := { x.team with mxErr := false } } else x
    let v := x.team.mxStat (s.pinned x.team.cl).length
    regEffect (fun _ i y => y.dst32 i e v) s x is

/-! ### The accumulator window (R303) -/

/-- AWSET (R303). -/
def opAwset (e : Ext) (s : State) : Out :=
  issue e.guard { uses := readA e 1 :: readB e 1, v0 := false, leader := true } s fun s x is =>
    let i := is.headD 0
    let awb := x.val i e.a.toNat 1
    let awl := x.srcN i e
    if x.team.accrows < awb + awl then s.trap x is cause.protection i 0
    else .next (s.done { x with team := { x.team with awb := awb, awl := awl } })

/-- A command for AWSET (R168, R303): it names a team of the context on a cluster. -/
def State.commandAwset (s : State) (d : DriverCommand) (cl : ClusterRef) : Command :=
  s.commandOn d (.awset d.e) (readA d.e 1 :: readB d.e 1) (some cl) fun s x =>
    let awb := x.val 0 d.e.a.toNat 1
    let awl := x.srcN 0 d.e
    if x.team.accrows < awb + awl then .status cause.protection s else .status 0 (s.setTeam { x.team with awb := awb, awl := awl })

/-- DRIVER_AWSET (R168, R303). -/
def execDriverAwset (driver ctx team : Nat) (cl : ClusterRef) (e : Ext) (s : State) : Out :=
  let d : DriverCommand := { driver := driver, ctx := ctx, team := team, op := .awset cl, e := e }
  if s.parses cl.die then .next ((s.commandAwset d cl).answer d s) else .next s

/-! ### Accumulator access (R304 to R306) -/

/-- One element of a team's accumulator rows: +0 until written. -/
def Team.accGet (t : Team) (row col : Nat) : Word := (SMap.get? t.acc (128 * row + col)).getD 0

/-- Write one element. -/
def Team.accPut (t : Team) (row col : Nat) (w : Word) : Team :=
  { t with acc := if w = 0 then SMap.del t.acc (128 * row + col) else SMap.set t.acc (128 * row + col) w }

/-- Values that an access of a type moves (Table 18.6). -/
def accCount (ty : Ty) : Nat :=
  match ty with
  | .f32 => 1
  | .b128 => 4
  | _ => 2

/-- The column of a fibre's access. -/
def Site.accCol (x : Site) (i : Nat) (e : Ext) : Nat := if e.osel = 0 then x.val i e.b.toNat 1 else e.imm.toNat

/-- The trap of R305 in one fibre; a misaligned column has no address to report (log entry 6). -/
def Site.accTest (x : Site) (e : Ext) (i : Nat) : Option (Nat × Byte) :=
  let a := x.val i e.a.toNat 1
  let c := x.accCol i e
  if a < x.team.awb ∨ x.team.awb + x.team.awl ≤ a ∨ 128 < c + accCount e.ty then some (i, cause.accWindow)
  else if c % accCount e.ty ≠ 0 then some (i, cause.misaligned)
  else none

/-- Raise what the first failing fibre meets. -/
def State.accTrap (s : State) (x : Site) (e : Ext) (is : List Nat) (i : Nat) (c : Byte) : Out :=
  if c = cause.accWindow then s.trap x is c i (dw (x.val i e.a.toNat 1 % 2 ^ 12 * 2 ^ 32 + x.accCol i e % 256))
  else
    let (v, s) := s.free
    s.trap x is c i v

/-- The words that an ACCRD writes from consecutive f32 values; packed types round them in a mode, SR from a seed (R304, R305). -/
def accWords (ty : Ty) (mode : Nat) (seed : Word) (vs : List Word) : List Word :=
  if ty = .h2 ∨ ty = .b2 then
    let r (k : Nat) : Nat :=
      (fmtOf ty).round mode (if mode = 4 then (srAfter seed (k + 1)).toNat else 0) (FFmt.f32.read (vs.getD k 0).toNat)
    [wd (r 0 + 2 ^ 16 * r 1)]
  else vs

/-- The values that an access reads. -/
def Team.accRead (t : Team) (row col n : Nat) : List Word := (List.range n).map fun k => t.accGet row (col + k)

/-- An entry claims a row (R296, R300). -/
def MxEntry.claims (q : MxEntry) (row : Nat) : Bool := decide (q.row0 ≤ row ∧ row < q.row0 + q.rows)

/-- Entries of the queue up to the last that claims a row: 0 when none does. -/
def Team.claimedBy (t : Team) (row : Nat) : Nat :=
  (t.queue.zipIdx.foldl (fun n p => if p.1.claims row then p.2 + 1 else n) 0)

/-- Registers of an ACCRD's destination. -/
def accRegs (ty : Ty) : Nat := if ty = .h2 ∨ ty = .b2 then 1 else accCount ty

/-- ACCRD (R304, R305). -/
def opAccrd (e : Ext) (s : State) : Out :=
  issue e.guard (demand ([useD e (accRegs e.ty), readA e 1] ++ readB e 1)) s fun s1 x is =>
    match is.findSome? (x.accTest e) with
    | some (i, c) => s1.accTrap x e is i c
    | none =>
      let row (i : Nat) : Nat := x.val i e.a.toNat 1
      let late := is.filter fun i => x.team.claimedBy (row i) ≠ 0
      match (if late = [] then some 0 else s1.freeTag x) with
      | none => s.stall
      | some tag =>
        let el (i : Nat) : FlightElem :=
          { fibre := i, reg := x.slotNo i e.d.toNat, ea := 0, index := x.seed i, waits := .claim (x.team.claimedBy (row i)) (row i) (x.accCol i e), deliv := .words [] }
        let f : Flight := { tag := tag, ord := x.heat.issued, kind := .accrd, pc := s1.cur.pc, ty := e.ty, rs := e.rs, acq := false, vol := false,
                            rc := 0, elems := late.map el }
        let one (y : Site) (i : Nat) : Site :=
          let y := if i ∈ late then y.putRecord i e.d.toNat tag .pending 0 (accRegs e.ty)
            else y.putWords i e.d.toNat (accWords e.ty (rndOf e) (x.seed i) (x.team.accRead (row i) (x.accCol i e) (accCount e.ty)))
          if e.ty = .h2 ∨ e.ty = .b2 then x.drawn e i 2 y else y
        let y := is.foldl one x
        .next (s1.done (if late = [] then y else { y with heat := { y.heat with flights := y.heat.flights ++ [f] } }))

/-- The f32 patterns that an ACCWR brings. -/
def Site.accData (x : Site) (i : Nat) (e : Ext) : List Word :=
  if e.ty = .h2 ∨ e.ty = .b2 then
    (List.range 2).map fun k => wd (FFmt.f32.round 0 0 (readF e.ty (subOf e) (bitsOf (x.val i e.d.toNat 1) (16 * k) 16)))
  else (List.range (accCount e.ty)).map fun k => x.word i (e.d.toNat + k)

/-- Add with one RNE rounding (R305). -/
def accAdd (a b : Word) : Word := wd (FFmt.f32.round 0 0 (Fp.add false (FFmt.f32.read a.toNat) (FFmt.f32.read b.toNat)))

/-- An ACCRD of the heat still waits for the claims on a row: what the heat writes to the row afterwards comes after it (R65, R306). -/
def Heat.reads (h : Heat) (row : Nat) : Bool := h.flights.any fun f => f.elems.any fun el => match el.waits with
  | .claim _ r _ => decide (r = row)
  | _ => false

/-- ACCWR (R304, R305): it issues after the heat's earlier readers of its rows (R65). -/
def opAccwr (e : Ext) (s : State) : Out :=
  issue e.guard (demand ([readD e (accRegs e.ty), readA e 1] ++ readB e 1)) s fun s1 x is =>
    match is.findSome? (x.accTest e) with
    | some (i, c) => s1.accTrap x e is i c
    | none =>
      if is.any fun i => x.heat.reads (x.val i e.a.toNat 1) then s.stall
      else
        let put (i : Nat) (t : Team) (p : Word × Nat) : Team :=
          let row := x.val i e.a.toNat 1
          let col := x.accCol i e + p.2
          t.accPut row col (if e.mod.getLsbD 1 then accAdd (t.accGet row col) p.1 else p.1)
        let t := is.foldl (fun t i => (x.accData i e).zipIdx.foldl (put i) t) x.team
        .next (s1.done { x with team := t })

/-! ### Claims that end (R305) -/

/-- An ACCRD element when one entry ahead of it has ended: after the last, its values are taken. -/
def FlightElem.claimed (t : Team) (ty : Ty) (rs : BitVec 3) (el : FlightElem) : FlightElem :=
  match el.waits with
  | .claim n row col =>
    if n ≤ 1 then { el with waits := .arrival, deliv := .words (accWords ty rs.toNat el.index (t.accRead row col (accCount ty))) }
    else { el with waits := .claim (n - 1) row col }
  | _ => el

/-- The head entry of the queue has completed or been discarded. -/
def Team.dequeue (t : Team) : Team :=
  { t with
    queue := t.queue.tail
    heats := t.heats.map fun h => { h with flights := h.flights.map fun f => { f with elems := f.elems.map (FlightElem.claimed t f.ty f.rs) } } }

/-- Every entry is discarded (R299). -/
def Team.dequeueAll (t : Team) : Team := t.queue.foldl (fun t _ => t.dequeue) t

/-- The array stops with a fault: a deferred trap with the PC of the MXMA, and the error state (R298, R299). -/
def State.mxStop (s : State) (t : Team) (pc : Pc) (c : Byte) (info : DWord) : State :=
  (s.setTeam { t.dequeueAll with mxErr := true }).defer t.id { cause := c, inner := 0, pc := pc, info := info, src := some .pacer }

/-! ### The tile fetch unit (R294, R299) -/

/-- The TLB of the tile fetch unit (R117). -/
def Site.fetchTlb (x : Site) : TlbId := .fetch x.team.cl

/-- The offset of an element at coordinates, none outside DIM (R115). -/
def TRec.at? (r : TRec) (xs : List Nat) : Option Nat :=
  if (xs.zip r.dim).all fun p => p.1 < p.2 then some (dotNat (xs.take r.rank) r.stride) else none

/-- What earlier chunks have pinned, the latest last. -/
structure Pins where
  lines  : List (Nat × List Byte)
  images : List Image

/-- What a fetch has read: the state, the lines of the chunk so far with their bytes and the quantised chunks of which they are lines, the latest first, and
the quantised chunks that it has read itself. -/
structure Fetched where
  s      : State
  lines  : List (Nat × List Byte)
  images : List Image := []
  fresh  : List (Nat × List Byte) := []

/-- The bytes of a line as the chunk or an earlier one has pinned them, the latest first. -/
def Fetched.pinned (w : Fetched) (pins : Pins) (line : Nat) : Option (List Byte) :=
  ((w.lines ++ pins.lines.reverse).find? fun p => p.1 = line).map Prod.snd

/-- Pin a line for the chunk. -/
def Fetched.pin (w : Fetched) (line : Nat) (bs : List Byte) : Fetched :=
  { w with lines := (line, bs) :: w.lines.filter fun p => p.1 ≠ line }

/-- The bytes of a line: as it is pinned, or as they are read now (R146, R294). DESIGN CHOICE: a later chunk that may use a pinned line always does
(log entry 69). -/
def Fetched.line (w : Fetched) (x : Site) (pins : Pins) (h : Hit) (line : Nat) : Except Bad (List Byte) × Fetched :=
  match w.pinned pins line with
  | some bs => (.ok bs, w.pin line bs)
  | none =>
    if w.s.seqWaits x.u h then (.error .hold, w)
    else if w.s.loadPoison x h (64 * line) 64 true then (.error (.late cause.poison), w)
    else
      let (bs, s) := w.s.look x (.engine x.fetchTlb) h (64 * line) 64
      (.ok bs, ({ w with s := s } : Fetched).pin line bs)

/-- n lines from one on, end to end. -/
def Fetched.run (w : Fetched) (x : Site) (pins : Pins) (h : Hit) (line : Nat) : Nat → Except Bad (List Byte) × Fetched
  | 0 => (.ok [], w)
  | n + 1 =>
    match w.line x pins h line with
    | (.error b, w) => (.error b, w)
    | (.ok bs, w) =>
      match w.run x pins h (line + 1) n with
      | (.error b, w) => (.error b, w)
      | (.ok r, w) => (.ok (bs ++ r), w)

/-- n bytes at a physical address of a page. -/
def Fetched.bytes (w : Fetched) (x : Site) (pins : Pins) (h : Hit) (pa n : Nat) : Except Bad (List Byte) × Fetched :=
  match w.run x pins h (pa / 64) (linesOf pa n).length with
  | (.error b, w) => (.error b, w)
  | (.ok bs, w) => (.ok ((bs.drop (pa % 64)).take n), w)

/-- A quantised chunk as this fetch has read it, or as some lines of it stand pinned (R294). -/
def Fetched.image (w : Fetched) (pins : Pins) (pa : Nat) (ls : List Nat) : Option (List Byte) :=
  ((w.fresh.find? fun p => p.1 = pa).map Prod.snd).or
    (((w.images ++ pins.images.reverse).find? fun p => decide (p.base = pa) && ls.all fun l => decide (l ∈ p.pinned)).map Image.bytes)

/-- Put the bytes of a range into the lines that are pinned for it. -/
def Fetched.overlay (w : Fetched) (pa : Nat) (bs : List Byte) (ls : List Nat) : Fetched :=
  { w with lines := w.lines.map fun p => if p.1 ∉ ls then p else (p.1, (List.range 64).map fun i =>
      let a := 64 * p.1 + i
      if pa ≤ a ∧ a < pa + bs.length then bs.getD (a - pa) 0 else p.2.getD i 0) }

/-- Note that lines of a quantised chunk are pinned. -/
def Fetched.noteImage (w : Fetched) (pa : Nat) (bs : List Byte) (ls : List Nat) : Fetched :=
  match w.images with
  | p :: r => if p.base = pa ∧ p.bytes = bs then { w with images := { p with pinned := (ls ++ p.pinned).dedup } :: r } else { w with images := ⟨pa, bs, ls⟩ :: w.images }
  | [] => { w with images := [⟨pa, bs, ls⟩] }

/-- Pin the lines of a quantised chunk over some bytes of it. -/
def Fetched.pinOf (w : Fetched) (x : Site) (pins : Pins) (h : Hit) (pa : Nat) (bs : List Byte) (ls : List Nat) : Except Bad (List Byte) × Fetched :=
  match w.run x pins h (ls.headD 0) ls.length with
  | (.error b, w) => (.error b, w)
  | (.ok _, w) => (.ok bs, (w.overlay pa bs ls).noteImage pa bs ls)

/-- The bytes of a chunk of a quantised page, of which the element's bytes from `ofs` on lie in lines that are pinned: as those lines were read where they
are pinned already, else read whole (R92, R294; log entry 69). -/
def Fetched.chunk (w : Fetched) (x : Site) (pins : Pins) (h : Hit) (pa n ofs m : Nat) : Except Bad (List Byte) × Fetched :=
  let ls := linesOf (pa + ofs) m
  match w.image pins pa ls with
  | some bs => w.pinOf x pins h pa bs ls
  | none =>
    if w.s.seqWaits x.u h then (.error .hold, w)
    else if w.s.loadPoison x h pa n true then (.error (.late cause.poison), w)
    else
      let (bs, s) := w.s.chunkBytes x (.engine x.fetchTlb) h pa n
      ({ w with s := s, fresh := (pa, bs) :: w.fresh } : Fetched).pinOf x pins h pa bs ls

/-- One operand element of an MXMA (R297), with the address that a fault reports. -/
def Fetched.elem (w : Fetched) (x : Site) (pins : Pins) (b : Bound) (sub : Bool) (x0 x1 : Nat) : Except Miss Fp × Fetched :=
  let r := b.r
  match r.at? ([x0, x1, b.o2, b.o3, b.o4].take r.rank) with
  | none => if r.oobt then (.error (.early cause.protection, dw r.base), w) else (.ok (.fin false 0 0), w)
  | some o =>
    if r.ty = .q then
      match w.s.engPageOf x x.fetchTlb r.base o .load with
      | .error bad => (.error (bad, w.s.engWhere x x.fetchTlb r.base o bad), w)
      | .ok (h, f, va, i) =>
        let c := i / f.elems
        let bit := i % f.elems * f.w
        match w.chunk x pins h (h.phys (h.base + c * f.chunkBytes)) f.chunkBytes (bit / 8) ((bit + f.w + 7) / 8 - bit / 8) with
        | (.error bad, w) => (.error (bad, dw (va + c * f.chunkBytes)), w)
        | (.ok bs, w) =>
          if f.rindOk h.fmt bs then
            let k := i % f.elems
            (.ok (f.value (elemAt f.w bs k) (scaleAt bs (k / f.block))), w)
          else (.error (.late cause.rindMismatch, dw (va + c * f.chunkBytes)), w)
    else
      let va := r.base + o
      if 2 ^ 56 < va + 2 then (.error (.early cause.spaceWindow, dw va), w)
      else
        match w.s.reach x.team.cl.die x.team.ctx x.fetchTlb va .load .plain with
        | .error bad => (.error (w.s.missOf x va (dw va) bad), w)
        | .ok h =>
          match w.bytes x pins h (h.phys va) 2 with
          | (.error bad, w) => (.error (bad, dw va), w)
          | (.ok bs, w) =>
            let bs := match w.s.pageEntry x.team.ctx h with
              | some f => deadZero f (va - h.base) bs
              | none => bs
            (.ok (readF r.ty sub (leNat bs)), w)

/-- A row of operand elements. -/
def Fetched.row (w : Fetched) (el : Fetched → Nat → Except Miss Fp × Fetched) (k : Nat) : Nat → Except Miss (List Fp) × Fetched
  | 0 => (.ok [], w)
  | n + 1 =>
    match el w k with
    | (.error m, w) => (.error m, w)
    | (.ok v, w) =>
      match w.row el (k + 1) n with
      | (.error m, w) => (.error m, w)
      | (.ok r, w) => (.ok (v :: r), w)

/-- Rows of operand elements. -/
def Fetched.rows (w : Fetched) (el : Nat → Fetched → Nat → Except Miss Fp × Fetched) (k0 kn i : Nat) : Nat → Except Miss (List (List Fp)) × Fetched
  | 0 => (.ok [], w)
  | n + 1 =>
    match w.row (el i) k0 kn with
    | (.error m, w) => (.error m, w)
    | (.ok v, w) =>
      match w.rows el k0 kn (i + 1) n with
      | (.error m, w) => (.error m, w)
      | (.ok r, w) => (.ok (v :: r), w)

/-- Fetch K-chunk j of an MXMA: A by row, B by k (R294, R297). -/
def State.fetchChunk (s : State) (x : Site) (pins : Pins) (q : MxEntry) (j : Nat) : Except Miss Chunk × State :=
  match q.work with
  | .zero => (.ok { a := [], b := [], lines := [] }, s)
  | .mma n k a b ax0 ax1 bx0 bx1 sub _ _ =>
    let kn := min 32 (k - 32 * j)
    match ({ s := s, lines := [] } : Fetched).rows (fun m w kk => w.elem x pins a sub (ax0 + kk) (ax1 + m)) (32 * j) kn 0 q.rows with
    | (.error m, w) => (.error m, w.s)
    | (.ok ra, w) =>
      match w.rows (fun kk w c => w.elem x pins b sub (bx0 + c) (bx1 + 32 * j + kk)) 0 n 0 kn with
      | (.error m, w) => (.error m, w.s)
      | (.ok rb, w) => (.ok { a := ra, b := rb, lines := w.lines, images := w.images }, w.s)

/-- K-chunks of an entry that are fetched or applied. -/
def MxEntry.fetched (q : MxEntry) : Nat := q.applied + q.chunks.length

/-- K-chunks of an entry in all. -/
def MxEntry.total (q : MxEntry) : Nat :=
  match q.work with
  | .zero => 0
  | .mma _ k _ _ _ _ _ _ _ _ _ => kChunks k

/-- The entry was issued after an MXFENCE that no earlier entry followed. -/
def MxEntry.fence (q : MxEntry) : Bool :=
  match q.work with
  | .zero => false
  | .mma _ _ _ _ _ _ _ _ _ _ f => f

/-- The place in the queue of the next chunk to fetch, with the lines pinned before it that it uses: none behind a fence, none behind an
entry that is held or stopped. -/
def nextFetch (pins : Pins) (i : Nat) : List MxEntry → Option (Nat × MxEntry × Pins)
  | [] => none
  | q :: r =>
    let pins : Pins := if q.fence then ⟨q.lines, q.images⟩ else ⟨pins.lines ++ q.lines, pins.images ++ q.images⟩
    if q.held.isSome ∨ q.stop.isSome then none
    else if q.fetched < q.total then some (i, q, pins)
    else nextFetch pins (i + 1) r

/-- The unit that the tile fetch of a team works for. -/
def State.pacerSite (s : State) (team : Nat) : Option Site :=
  match s.site? { team := team, who := .pacer } with
  | some x => if x.team.st = .resident then some x else none
  | none => none

/-- The outcome of the next chunk fetch. -/
def State.nextChunk (s : State) (team : Nat) : Option (Site × Nat × MxEntry × Except Miss Chunk × State) :=
  (s.pacerSite team).bind fun x => (nextFetch ⟨[], []⟩ 0 x.team.queue).map fun (i, q, pins) =>
    (x, i, q, s.fetchChunk x pins q q.fetched)

/-- TILE_FETCH_CHUNK (R294): it waits while the pinned lines would exceed 512 KiB. -/
def opTileFetchChunk (team : Nat) (s : State) : Out :=
  match s.nextChunk team with
  | some (x, i, q, .ok c, s1) =>
    if 8192 < (s.pinned x.team.cl ++ c.lines.map Prod.fst).dedup.length then .next s
    else .next ((s1.setTeam { x.team with queue := x.team.queue.set i { q with chunks := q.chunks ++ [c] } }).creditMisses team)
  | _ => .next s

/-- The event while the clusters of the die run (R393, R398). -/
def execTileFetchChunk (team : Nat) (s : State) : Out := if s.teamRuns team then opTileFetchChunk team s else .next s

/-- The head of the queue stops when the fetched chunks before its fault are applied (R299). -/
def State.mxHeadStop (s : State) (team : Nat) : State :=
  match s.team? team with
  | none => s
  | some t =>
    match t.queue with
    | q :: _ => (match q.stop with
      | some (c, info) => if q.chunks = [] then s.mxStop t q.pc c info else s
      | none => s)
    | [] => s

/-- What the fault of a tile fetch does to its entry (R299, R342, R344). -/
def State.fetchMiss (s : State) (x : Site) (i : Nat) (q : MxEntry) : Miss → State
  | (.hold, _) => s
  | (.translation va, info) =>
    let put (x : Site) (q : MxEntry) : State := s.put { x with team := { x.team with queue := x.team.queue.set i q } }
    if x.failedPageFor .tiles va then (put (x.forgetPageFor .tiles va) { q with stop := some (cause.pageRequestFailed, info) }).mxHeadStop x.team.id
    else put (x.wantPageFor .tiles va) { q with held := some (va / 4096) }
  | (.early c, info) => (s.setTeam { x.team with queue := x.team.queue.set i { q with stop := some (c, info) } }).mxHeadStop x.team.id
  | (.late c, info) => (s.setTeam { x.team with queue := x.team.queue.set i { q with stop := some (c, info) } }).mxHeadStop x.team.id

/-- TILE_FETCH_FAULT (R299): the next chunk fetch meets a fault. -/
def opTileFetchFault (team : Nat) (s : State) : Out :=
  match s.nextChunk team with
  | some (x, i, q, .error m, _) => .next (s.fetchMiss x i q m)
  | _ => .next s

/-- The event while the clusters of the die run (R393, R398). -/
def execTileFetchFault (team : Nat) (s : State) : Out := if s.teamRuns team then opTileFetchFault team s else .next s

/-! ### The array (R297, R298, R300) -/

/-- One element of the accumulator after a chunk (R94); a chunk of fewer than 32 k has +0 in place of the absent products. -/
def chunkSum (acc : Word) (as bs : List Fp) (full : Bool) : Word :=
  let ps := (as.zip bs).map fun p => Fp.mul p.1 p.2
  wd (FFmt.f32.round 0 0 (dotSum (FFmt.f32.read acc.toNat) (if full then ps else .fin false 0 0 :: ps)))

/-- Column n of the B elements of a chunk. -/
def Chunk.col (c : Chunk) (n : Nat) : List Fp := c.b.map fun r => r.getD n .nan

/-- Apply a chunk to the rows of its entry as one step (R297). -/
def Team.applyChunk (t : Team) (q : MxEntry) (n : Nat) (c : Chunk) : Team :=
  (List.range q.rows).foldl (fun t m => (List.range n).foldl (fun t j =>
    t.accPut (q.row0 + m) j (chunkSum (t.accGet (q.row0 + m) j) (c.a.getD m []) (c.col j) (c.b.length = 32))) t) t

/-- The offset of a link's object in cluster-shared memory, when its bytes are in reach (R298). -/
def Team.linkOfs (t : Team) (a : DWord) : Option Nat :=
  let o := bitsOf a.toNat 0 32
  if t.cshHolds o then some o else none

/-- A .wt link holds its entry before the first chunk: none when the object is out of reach (R298). -/
def Team.wtHolds (t : Team) (q : MxEntry) : Option Bool :=
  match q.work with
  | .mma _ _ _ _ _ _ _ _ _ (.wt a par) _ =>
    if q.applied ≠ 0 then some false
    else (t.linkOfs a).map fun o => decide ((Barrier.ofNat (leNat (Memory.read t.cshMem o 16))).phase = par)
  | _ => some false

/-- The link address of an entry. -/
def MxEntry.linkAddr (q : MxEntry) : DWord :=
  match q.work with
  | .mma _ _ _ _ _ _ _ _ _ (.wt a _) _ => a
  | .mma _ _ _ _ _ _ _ _ _ (.ar a) _ => a
  | _ => 0

/-- An MXMA completes: its claim ends, and its .ar link arrives (R297, R298). -/
def State.mxComplete (s : State) (t : Team) (q : MxEntry) : State :=
  match q.work with
  | .mma _ _ _ _ _ _ _ _ _ (.ar a) _ =>
    match t.linkOfs a with
    | none => s.mxStop t q.pc cause.spaceWindow a
    | some o =>
      match t.dequeue.arrive o with
      | some t => s.setTeam t
      | none => (s.setTeam t.dequeue).defer t.id { cause := cause.barrierOverrun, inner := 0, pc := q.pc, info := a, src := some .pacer }
  | _ => s.setTeam t.dequeue

/-- Apply the first fetched chunk of the head entry of a team (R297, R298). -/
def State.arrayStep (s : State) (t : Team) : State :=
  match t.queue with
  | [] => s
  | q :: r =>
    match q.work, q.chunks with
    | .mma n _ _ _ _ _ _ _ _ _ _, c :: cs =>
      match t.wtHolds q with
      | none => s.mxStop t q.pc cause.spaceWindow q.linkAddr
      | some true => s
      | some false =>
        let t := (t.applyChunk q n c).count 3 1
        let q := { q with applied := q.applied + 1, chunks := cs }
        let t := { t with queue := q :: r }
        if q.applied = q.total then s.mxComplete t q else (s.setTeam t).mxHeadStop t.id
    | .mma _ _ _ _ _ _ _ _ _ _ _, [] => s.mxHeadStop t.id
    | .zero, _ => s

/-- ARRAY_CHUNK (R297). -/
def opArrayChunk (team : Nat) (s : State) : Out :=
  match s.pacerSite team with
  | some x => .next (s.arrayStep x.team)
  | none => .next s

/-- The event while the clusters of the die run (R393, R398). -/
def execArrayChunk (team : Nat) (s : State) : Out := if s.teamRuns team then opArrayChunk team s else .next s

/-- +0 in every element of n rows (R300). -/
def Team.zeroRows (t : Team) (row0 n : Nat) : Team :=
  { t with acc := t.acc.filter fun p => decide (p.1 < 128 * row0 ∨ 128 * (row0 + n) ≤ p.1) }

/-- ARRAY_ZERO (R300). -/
def opArrayZero (team : Nat) (s : State) : Out :=
  match s.pacerSite team with
  | none => .next s
  | some x =>
    match x.team.queue with
    | q :: _ => (match q.work with
      | .zero => .next (s.setTeam (x.team.zeroRows q.row0 q.rows).dequeue)
      | .mma _ _ _ _ _ _ _ _ _ _ _ => .next s)
    | [] => .next s

/-- The event while the clusters of the die run (R393, R398). -/
def execArrayZero (team : Nat) (s : State) : Out := if s.teamRuns team then opArrayZero team s else .next s

/-! ### The meanings, one for each row of the opcode table -/

/-- MXBIND (R293). -/
def execMxbind (e : Ext) (s : State) : Out := opMxbind e s

/-- MXMA (R295). -/
def execMxma (e : Ext) (s : State) : Out := opMxma e s

/-- MXZERO (R300). -/
def execMxzero (e : Ext) (s : State) : Out := opMxzero e s

/-- MXWAIT (R301), the short form (R164). -/
def execMxwait (s : State) : Out := opMxwait (shortFn .s8 0 0 0) s

/-- MXWAIT_EXT (R301). -/
def execMxwaitExt (e : Ext) (s : State) : Out := opMxwait e s

/-- MXFENCE (R301), the short form (R164). -/
def execMxfence (s : State) : Out := opMxfence (shortFn .s8 0 0 0) s

/-- MXFENCE_EXT (R301). -/
def execMxfenceExt (e : Ext) (s : State) : Out := opMxfence e s

/-- MXSTAT (R302), the short form (R164). -/
def execMxstat (d : BitVec 8) (s : State) : Out := opMxstat (shortFn .s8 0 0 d) s

/-- MXSTAT_EXT (R302). -/
def execMxstatExt (e : Ext) (s : State) : Out := opMxstat e s

/-- AWSET (R303). -/
def execAwset (e : Ext) (s : State) : Out := opAwset e s

/-- ACCRD (R305). -/
def execAccrd (e : Ext) (s : State) : Out := opAccrd e s

/-- ACCWR (R305). -/
def execAccwr (e : Ext) (s : State) : Out := opAccwr e s

end Sys2Proof.Machine
end

