-- ==== Sys2Proof/Machine/Resources.lean ====
section
/-!
DEFINITION. The resources of a cluster that teams hold: tracks (R42, R58), accumulator rows, the pacer (R43), and the banks that
placement carves storage from (R106).
-/

namespace Sys2Proof.Machine

/-! ### Tracks (R42, R58) -/

/-- What a team takes of one track: heat slots and bytes of register file. -/
structure TrackUse where
  slots : Nat
  bytes : Nat
  deriving DecidableEq, Repr

/-- Sum of two. -/
def TrackUse.plus (a b : TrackUse) : TrackUse := { slots := a.slots + b.slots, bytes := a.bytes + b.bytes }

/-- Heats h of a squad on a track that occupy it, given those of the squad that still live: each takes 128 x S bytes; each pair that
has reserved an extended set takes 16 KiB, and a heat without a partner takes two slots (R42, R58). -/
def squadUse (live : List Nat) (heats base : Nat) (xregs : Bool) (track : Nat) : TrackUse :=
  let mine := live.filter fun h => h % 4 = track
  let lows := ((List.range heats).filter fun h => h % 4 = track).filter fun h => h ^^^ 4 ≥ heats ∨ h < h ^^^ 4
  let alone := mine.filter fun h => h ^^^ 4 ≥ heats
  { slots := mine.length + if xregs then alone.length else 0
    bytes := mine.length * 128 * base + if xregs then lows.length * 16384 else 0 }

/-- Heats of each squad of a team, retired ones included. -/
def Team.heatCount (t : Team) (q : Nat) : Nat := (t.heats.filter fun h => h.squad = q).length

/-- What a team takes of a track of a core: retired heats have freed their register space (R48). -/
def Team.trackUse (t : Team) (core track : Nat) : TrackUse :=
  t.cores.zipIdx.foldl (fun u p =>
    if p.1 = core then
      u.plus (squadUse ((t.heats.filter fun h => h.squad = p.2 ∧ h.alive).map Heat.idx) (t.heatCount p.2) t.base t.xregs track)
    else u) { slots := 0, bytes := 0 }

/-- Resident teams of a cluster. -/
def State.residents (s : State) (cl : ClusterRef) : List Team := s.teams.filter fun t => t.cl = cl ∧ t.st = .resident

/-- What the resident teams take of a track. -/
def State.trackTaken (s : State) (cl : ClusterRef) (core track : Nat) : TrackUse :=
  (s.residents cl).foldl (fun u t => u.plus (t.trackUse core track)) { slots := 0, bytes := 0 }

/-- A team fits on the tracks of its cores beside the resident teams (R42). -/
def State.tracksFit (s : State) (t : Team) : Bool :=
  t.cores.all fun core => (List.range 4).all fun k =>
    let u := (s.trackTaken t.cl core k).plus (t.trackUse core k)
    decide (u.slots ≤ 16 ∧ u.bytes ≤ 131072)

/-- Free accumulator rows of a cluster. -/
def State.rowsFree (s : State) (cl : ClusterRef) : Nat := 2048 - ((s.residents cl).map Team.accrows).sum

/-! ### The active sets (R39) -/

/-- A place where instructions issue: a track of a core, or a pacer (R16). -/
structure Lane where
  cl    : ClusterRef
  core  : Option Nat
  track : Nat
  deriving DecidableEq, Repr

/-- The lane of a unit. -/
def Site.lane (x : Site) : Lane := { cl := x.team.cl, core := x.core?, track := x.heat.track }

/-- The live heats of a track, with their teams: those of resident teams. -/
def State.trackHeats (s : State) (l : Lane) : List Site :=
  s.teams.flatMap fun t =>
    if t.cl = l.cl ∧ t.st = .resident then
      t.heats.filterMap fun h =>
        let x : Site := { u := { team := t.id, who := .heat h.squad h.idx }, team := t, heat := h }
        if h.alive ∧ x.lane = l then some x else none
    else []

/-- The active heats of a track. -/
def State.activeOn (s : State) (l : Lane) : List Site := (s.trackHeats l).filter fun x => x.heat.active

/-- Change the heat of a unit. -/
def State.updHeat (s : State) (u : UnitRef) (f : Heat → Heat) : State :=
  match s.site? u with
  | some x => s.put { x with heat := f x.heat }
  | none => s

/-- A heat enters the active set, as its youngest. -/
def State.enterActive (s : State) (u : UnitRef) : State :=
  ({ s with nextId := s.nextId + 1 } : State).updHeat u fun h =>
    { h with active := true, age := s.nextId, since := s.nextId, sinceAt := s.now, run := 0, ready := none }

/-- A heat enters the pending set, as its youngest; whether it is ready is found afterwards. -/
def State.enterPending (s : State) (u : UnitRef) : State :=
  ({ s with nextId := s.nextId + 1 } : State).updHeat u fun h => { h with active := false, since := s.nextId, sinceAt := s.now, run := 0, ready := none }

/-- The heats of a team as they are seated: those that were active first, oldest first, and then the pending ones in their order. -/
def Team.seating (t : Team) : List Heat :=
  let by_ (key : Heat → Nat) (hs : List Heat) : List Heat := hs.insertionSort fun a b => key a ≤ key b
  let live := t.heats.filter Heat.alive
  by_ Heat.age (live.filter Heat.active) ++ by_ Heat.since (live.filter fun h => !h.active)

/-- Seat the heats of a team that is placed, none of them active yet: each in its track's active set while that has room, else in its pending set (R39). -/
def State.seat (s : State) (team : Nat) (hs : List Heat) : State :=
  match s.team? team with
  | none => s
  | some t => hs.foldl (fun s h =>
      let x : Site := { u := { team := team, who := .heat h.squad h.idx }, team := t, heat := h }
      if (s.activeOn x.lane).length < 8 then s.enterActive x.u else s.enterPending x.u) s

/-! ### Banks (R106) -/

/-- Bytes of a bank. -/
def bankSize : Nat := 262144

/-- Bytes of a bank that resident teams hold. -/
def State.bankTaken (s : State) (cl : ClusterRef) (b : Nat) : Nat :=
  ((s.residents cl).map fun t => ((t.cshSegs ++ t.scrSegs.flatten).map fun g => if g.bank = b then g.size else 0).sum).sum

/-- The banks behind the valid entries of the place table, in ascending logical order (R118), one that two entries name counted once. -/
def Cluster.placedBanks (c : Cluster) : List Nat := (c.bankPl.filterMap id).dedup

/-- The mode of a bank. -/
def Cluster.modeOf (c : Cluster) (b : Nat) : BankMode := ((c.banks[b]?).map Bank.mode).getD .cache

/-- Free bytes of the SCRATCH banks, in ascending logical order. -/
def State.scratchFree (s : State) (cl : ClusterRef) : List (Nat × Nat) :=
  match s.cluster? cl with
  | some c => (c.placedBanks.filter fun b => c.modeOf b = .scratch).map fun b => (b, bankSize - s.bankTaken cl b)
  | none => []

/-- The CACHE banks that hold no allocation, highest bank number first. -/
def State.spareBanks (s : State) (cl : ClusterRef) : List Nat :=
  match s.cluster? cl with
  | some c => (c.placedBanks.filter fun b => c.modeOf b = .cache ∧ s.bankTaken cl b = 0).reverse
  | none => []

/-- Switch a bank from CACHE for placement, with the effect of BANKCFG (Table 9.4). -/
def State.takeBank (s : State) (cl : ClusterRef) (b : Nat) (mode : BankMode) : State :=
  (s.emptyBank cl b).updBank cl b fun _ => { mode := mode, placed := true, fifo := none }

/-- Switch banks to SCRATCH until n bytes are free: none when they cannot be (R106). -/
def State.makeRoom (s : State) (cl : ClusterRef) (n : Nat) : List Nat → Option State
  | [] => if n ≤ ((s.scratchFree cl).map Prod.snd).sum then some s else none
  | b :: r => if n ≤ ((s.scratchFree cl).map Prod.snd).sum then some s else (s.takeBank cl b .scratch).makeRoom cl n r

/-- Carve n bytes: the segments, and what is left of each bank. -/
def carve (n : Nat) : List (Nat × Nat) → List Seg × List (Nat × Nat)
  | [] => ([], [])
  | (b, f) :: r =>
    let k := min n f
    let (gs, r) := carve (n - k) r
    (if k = 0 then gs else { bank := b, size := k } :: gs, (b, f - k) :: r)

/-- Carve one allocation after another. -/
def carveAll (free : List (Nat × Nat)) : List Nat → List (List Seg)
  | [] => []
  | n :: r =>
    let (gs, free) := carve n free
    gs :: carveAll free r

/-- Provide a team's storage on its cluster: none when it does not fit (R106). DESIGN CHOICE: cluster-shared memory is carved first and then each squad's
scratch in turn, each from the lowest bank with room (log entry 67). -/
def State.provision (s : State) (t : Team) : Option (State × Team) :=
  let q := t.cores.length
  (s.makeRoom t.cl (t.cshared + q * t.scratch) (s.spareBanks t.cl)).map fun s =>
    match carveAll (s.scratchFree t.cl) (t.cshared :: List.replicate q t.scratch) with
    | c :: r => (s, { t with cshSegs := c, scrSegs := r })
    | [] => (s, t)

/-- Banks that placement switched and that hold no allocation any more return to CACHE mode (R106). -/
def State.returnBanks (s : State) (cl : ClusterRef) : State :=
  (List.range 12).foldl (fun s b =>
    match (s.cluster? cl).bind fun c => c.banks[b]? with
    | some k => if k.placed ∧ k.fifo = none ∧ s.bankTaken cl b = 0 then s.updBank cl b fun _ => Bank.reset else s
    | none => s) s

/-- The cluster's pacer is free for a team, or the team needs none (R43). -/
def State.pacerFree (s : State) (t : Team) : Bool := !t.hasPacer || ((s.cluster? t.cl).map fun c => c.pacer.isNone).getD false

/-- A team takes the pacer of its cluster when it has a pacer program. -/
def State.takePacer (s : State) (t : Team) : State :=
  if t.hasPacer then s.updCluster t.cl fun c => { c with pacer := some t.id } else s

/-- The pacer, copy channels and FIFO banks that a team holds become free; FIFO banks keep their mode (R49, R108). -/
def State.freeUnits (s : State) (t : Team) : State :=
  s.updCluster t.cl fun c =>
    { c with
      pacer := if c.pacer = some t.id then none else c.pacer
      chans := c.chans.map fun ch => if ch.owner = some t.id then Chan.reset else ch
      banks := c.banks.map fun b => if (b.fifo.map Fifo.team) = some t.id then { b with fifo := none } else b }

end Sys2Proof.Machine
end

