-- ==== Sys2Proof/Machine/Control.lean ====
section
/-!
DEFINITION. Control, masks, fibres and cross-fibre operations: opcodes 0x00 and 0x23 to 0x27 (R32, R33, R36, R37, R56,
R59, R210 to R221).
-/

namespace Sys2Proof.Machine

/-- A demand on nothing. -/
def demandNone : Demand := demand []

/-! ### NOP, YIELD, END (R210) -/

/-- NOP (R210). -/
def opNop (e : Ext) (s : State) : Out := issue e.guard demandNone s fun s x _ => .next (s.done x)

/-- The unit's heat becomes the youngest of its active set (R39): ages are drawn from one rising count. -/
def State.youngest (s : State) (x : Site) : State × Site :=
  ({ s with nextId := s.nextId + 1 }, { x with heat := { x.heat with age := s.nextId, run := 0 } })

/-- YIELD (R210). -/
def opYield (e : Ext) (s : State) : Out :=
  issue e.guard demandNone s fun s x _ =>
    let (s, x) := s.youngest x
    .next (s.done x)

/-- A record that its heat leaves in an extended set. -/
def Slot.leftBy (heat : Nat) : Slot → Slot
  | .val w => .val w
  | .bat b => .bat { b with left := some (b.left.getD heat) }

/-- Release the extended set that a heat holds: a partner waiting in XLOCK acquires it, and the contents stay (R59). -/
def Team.releaseX (t : Team) (squad heat : Nat) : Team :=
  { t with xsets := t.xsets.map fun e =>
      if e.squad = squad ∧ e.holder = some heat then
        { e with holder := e.waiter, waiter := none, regs := e.regs.map fun rs => rs.map (Slot.leftBy heat) }
      else if e.squad = squad ∧ e.waiter = some heat then { e with waiter := none }
      else e }

/-- The heat retires when its last live fibre has ended: it leaves the active set and releases the extended set it holds (R48). -/
def Site.retireIfDone (x : Site) : Site :=
  if x.heat.alive then x
  else { x with heat := { x.heat with active := false, bars := [] }, team := if x.isPacer then x.team else x.team.releaseX x.squad x.heatNo }

/-- The executing fibres end (R33): their bits leave all masks, their slots become free; the leader's privileges pass to none (R44). -/
def Site.endFibres (x : Site) (is : List Nat) : Site :=
  let lead := x.leads is
  let h := x.heat.leaveAll is
  let h := { h with fibres := is.foldl (fun fs i => fs.set i none) h.fibres }
  { x with heat := h, team := if lead then { x.team with leader := false } else x.team }.retireIfDone

/-- One register of the extended set without the record of an ended fibre, whose record `mine` names: what it then holds is not stated (log entry 6).
DESIGN CHOICE: a plain value stays, and the slot's next fibre reads it as the contents of the pair's set (R33, R52, R59; log entry 82). -/
def State.dropSlot (s : State) (mine : Baton → Bool) : Slot → Slot × State
  | .val w => (.val w, s)
  | .bat b =>
    if mine b then
      let (v, s) := s.free
      (.val (v.setWidth 32), s)
    else (.bat b, s)

/-- The registers of a fibre slot in the extended set without such records. -/
def State.dropSlots (s : State) (mine : Baton → Bool) : List Slot → List Slot × State
  | [] => ([], s)
  | r :: rs =>
    let (r, s) := s.dropSlot mine r
    let (rs, s) := s.dropSlots mine rs
    (r :: rs, s)

/-- A record in the extended set is one that the unit's heat has made: it holds the set, or it left the record there. -/
def Site.madeX (x : Site) (b : Baton) : Bool :=
  match b.left with
  | none => x.holdsX
  | some h => decide (h = x.heatNo)

/-- The records that ended fibres leave in their pair's extended set, held or released, are discarded: they raise nothing, and neither a later fibre of the
slot nor the partner heat meets them (R33, R72). -/
def State.dropX (s : State) (x : Site) : List Nat → State × Site
  | [] => (s, x)
  | i :: is =>
    match (if x.isPacer then none else x.xset?.bind fun e => e.regs[i]?) with
    | none => s.dropX x is
    | some rs =>
      let (rs, s) := s.dropSlots x.madeX rs
      s.dropX { x with team := { x.team with xsets := x.team.xsets.map fun e =>
        if e.squad = x.squad ∧ e.low = pairLow x.heatNo then { e with regs := e.regs.set i rs } else e } } is

/-- END (R210). -/
def opEnd (e : Ext) (s : State) : Out :=
  issue e.guard demandNone s fun s x is =>
    let (s, x) := s.dropX x is
    .next (s.put ((x.advance s.cur.batch s.cur.len).endFibres is))

/-! ### Transfers (R211 to R214) -/

/-- The executing fibres go to their targets, every other fibre of the batch to the next instruction (R211). -/
def State.jump (s : State) (x : Site) (is : List Nat) (target : Nat → Pc) : Out :=
  let y := x.advance s.cur.batch s.cur.len
  .next (s.put (is.foldl (fun y i => y.updFibre i fun f => { f with pc := target i }) y))

/-- The target of format J (R155). -/
def jumpTarget (j : JExt) (pc : Pc) : Pc := pc + (j.ofs.signExtend 56 <<< 2)

/-- BRA (R211). -/
def opBra (j : JExt) (_len : Nat) (s : State) : Out :=
  issue j.guard demandNone s fun s x is => s.jump x is fun _ => jumpTarget j s.cur.pc

/-- The slide that M1 of a call selects (R212). -/
def slideOf (m1 : BitVec 4) : Nat := 8 * m1.toNat

/-- A slide would take a fibre out of its allocation (R56). -/
def Site.slidesOut (x : Site) (k i : Nat) : Bool :=
  k ≠ 0 && match x.heat.fibre? i with
    | some f => decide (f.regs.length ≤ f.win + k + 16)
    | none => false

/-- Write the link and slide the window (R56). -/
def Site.link (x : Site) (ret : Pc) (k i : Nat) : Site :=
  (x.setVal i 14 2 (ret.toNat + k * 2 ^ 56)).updFibre i fun f => { f with win := f.win + k }

/-- Write the links and go: what every call does. -/
def State.callTo (s : State) (x : Site) (is : List Nat) (k : Nat) (target : Nat → Pc) : Out :=
  let ret := s.cur.pc + BitVec.ofNat 56 s.cur.len
  s.jump (is.foldl (fun y i => y.link ret k i) x) is target

/-- CALL and CALL.W (R212); a slide that leaves v16 outside the allocation reports register 16. -/
def callJ (j : JExt) (s : State) : Out :=
  issue j.guard demandNone s fun s x is =>
    match is.find? (x.slidesOut (slideOf j.m1)) with
    | some i => s.trap x is cause.windowOverflow i 16
    | none => s.callTo x is (slideOf j.m1) fun _ => jumpTarget j s.cur.pc

/-- CALL (R212). -/
def opCall (j : JExt) (_len : Nat) (s : State) : Out := callJ j s

/-- CALL.W (R212). -/
def opCallW (j : JExt) (_len : Nat) (s : State) : Out := callJ j s

/-- The checks of a computed target (R213). -/
def targetFault (t : Nat) : Option Byte :=
  if 2 ^ 56 ≤ t then some cause.spaceWindow else if t % 4 ≠ 0 then some cause.misaligned else none

/-- What the lowest failing fibre of a transfer meets: `own` is the test of the instruction that comes before its target's (R185, R213; log entry 70). -/
def firstTarget (is : List Nat) (target : Nat → Nat) (own : Nat → Option (Byte × Nat) := fun _ => none) : Option (Nat × Byte × Nat) :=
  is.findSome? fun i => ((own i).or ((targetFault (target i)).map fun c => (c, target i))).map fun p => (i, p.1, p.2)

/-- The target of opcode 0x25: the literal when one is present, else pair A (R213). -/
def Site.targetX (x : Site) (e : Ext) (i : Nat) : Nat := if noLit e then x.val i e.a.toNat 2 else e.lit.toNat

/-- The fields of a computed transfer. -/
def usesX (e : Ext) : List Use := if noLit e then [readA e 2] else []

/-- BRX, CALLX and CALLX.W (R213): the slide check comes before the target checks. -/
def transferX (e : Ext) (links : Bool) (s : State) : Out :=
  issue e.guard (demand (usesX e)) s fun s x is =>
    let slide (i : Nat) : Option (Byte × Nat) := if x.slidesOut (slideOf e.m1) i then some (cause.windowOverflow, 16) else none
    match firstTarget is (x.targetX e) slide with
    | some (i, c, v) => s.trap x is c i (dw v)
    | none =>
      let go (i : Nat) : Pc := BitVec.ofNat 56 (x.targetX e i)
      if links then s.callTo x is (slideOf e.m1) go else s.jump x is go

/-- BRX (R213). -/
def opBrx (e : Ext) (s : State) : Out := transferX e false s

/-- CALLX (R213). -/
def opCallx (e : Ext) (s : State) : Out := transferX e true s

/-- CALLX.W (R213). -/
def opCallxW (e : Ext) (s : State) : Out := transferX e true s

/-- The slide of a link may be undone (R56). -/
def Site.slideBack (x : Site) (i : Nat) : Bool :=
  let sl := bitsOf (x.val i 14 2) 56 8
  sl ∈ [0, 8, 16, 24, 32] && match x.heat.fibre? i with
    | some f => decide (sl ≤ f.win)
    | none => false

/-- RET (R213); a link that fails its check reports register 14, where the link begins (log entry 20). -/
def opRet (e : Ext) (s : State) : Out :=
  issue e.guard (demand [{ reg := 14, n := 2, rd := true }]) s fun s x is =>
    let target (i : Nat) : Nat := bitsOf (x.val i 14 2) 0 56
    let back (i : Nat) : Option (Byte × Nat) := if x.slideBack i then none else some (cause.windowOverflow, 14)
    match firstTarget is target back with
    | some (i, c, v) => s.trap x is c i (dw v)
    | none =>
      let y := is.foldl (fun y i => y.updFibre i fun f => { f with win := f.win - bitsOf (x.val i 14 2) 56 8 }) x
      s.jump y is fun i => BitVec.ofNat 56 (target i)

/-! ### Masks (R215, R216) -/

/-- The mask that D names (R156). -/
def maskOf (e : Ext) : Nat := e.d.toNat % 16

/-- A mask operation: the fibres of the batch advance, and the heat's masks change at once. -/
def maskOp (e : Ext) (us : List Use) (f : Site → List Nat → Heat → Heat) (s : State) : Out :=
  issue e.guard (demand us) s fun s x is =>
    let y := x.advance s.cur.batch s.cur.len
    .next (s.put { y with heat := f x is y.heat })

/-- JOIN (R215). -/
def opJoin (e : Ext) (s : State) : Out := maskOp e [] (fun _ is h => (h.leave (maskOf e) is).waitm (maskOf e) is) s

/-- LEAVE (R215). -/
def opLeave (e : Ext) (s : State) : Out := maskOp e [] (fun _ is h => h.leave (maskOf e) is) s

/-- WAITM (R215). -/
def opWaitm (e : Ext) (s : State) : Out := maskOp e [] (fun _ is h => h.waitm (maskOf e) is) s

/-- The value of MSET: register A of the lowest executing fibre, imm16 or the literal (R215). -/
def Site.msetValue (x : Site) (e : Ext) (is : List Nat) : Word :=
  match e.osel.toNat with
  | 0 => x.word (is.headD 0) e.a.toNat
  | 1 => e.imm.signExtend 32
  | _ => e.lit.setWidth 32

/-- MSET (R215). -/
def opMset (e : Ext) (s : State) : Out :=
  maskOp e (if e.osel = 0 then [readA e 1] else []) (fun x is h => h.mset (maskOf e) (x.msetValue e is)) s

/-- MGET (R215): A is the destination. -/
def opMget (e : Ext) (s : State) : Out :=
  issue e.guard (demand [{ reg := e.a.toNat, n := 1, rd := false }]) s (regEffect fun x i y =>
    y.setVal i e.a.toNat 1 (x.heat.masks.getD (maskOf e) 0).toNat)

/-! ### FORK (R32, R217) -/

/-- The seed of R79: a zero becomes the constant. -/
def seedOr (w : Word) : Word := if w = 0 then 0x2545F491 else w

/-- The fibre that a fibre creates (R32, R79). -/
def Fibre.child (f : Fibre) (n last : Nat) (target : Pc) : Fibre where
  pc := target
  waitOn := none
  win := f.win
  regs := (Slot.val 0 :: (f.regs.drop 1).take 15) ++ List.replicate (f.regs.length - 16) (.val 0)
  seed := seedOr (f.seed ^^^ (wd ((n + 1) * 0x9E3779B9)))
  handler := false
  epc := 0
  last := last

/-- The free slots of a heat, lowest first. -/
def Heat.freeSlots (h : Heat) : List Nat := (List.range 32).filter fun i => (h.fibre? i).isNone

/-- The target of FORK (R217): a relative one is a 64-bit sum, which the target check then takes whole. -/
def Site.forkTarget (x : Site) (e : Ext) (pc : Pc) (i : Nat) : Nat :=
  match e.osel.toNat with
  | 0 => x.val i e.b.toNat 2
  | 1 => (pc.setWidth 64 + (e.imm.signExtend 64 <<< 2)).toNat
  | _ => e.lit.toNat

/-- The loop of R217: `x` holds the creators as they stood. -/
def forkLoop (e : Ext) (x : Site) (pc : Pc) : List Nat → List Nat → Site → Site
  | [], _, y => y
  | i :: is, free, y =>
    match free, x.heat.fibre? i with
    | n :: ns, some f =>
      let c := f.child n x.heat.issued (BitVec.ofNat 56 (x.forkTarget e pc i))
      let y := { y with heat := { y.heat with fibres := y.heat.fibres.set n (some c), masks := y.heat.masks.modify 0 (· ||| (1#32 <<< n)) } }
      forkLoop e x pc is ns ((y.setVal i e.d.toNat 1 n).setGuard i (e.c.toNat % 32) true)
    | _, _ => forkLoop e x pc is [] ((y.setVal i e.d.toNat 1 (2 ^ 32 - 1)).setGuard i (e.c.toNat % 32) false)

/-- The records that FORK meets: v0 and pair B in each executing fibre, and v1 to v15 of each that creates one (R217). -/
def forkMet (e : Ext) (x : Site) (is : List Nat) : List (Nat × List Baton) :=
  is.zipIdx.map fun (i, k) =>
    (i, x.records i 0 (if k < x.heat.freeSlots.length then 16 else 1) ++ if e.osel = 0 then x.records i e.b.toNat 2 else [])

/-- FORK (R217). -/
def opFork (e : Ext) (s : State) : Out :=
  issueOn (forkMet e) (fun _ _ => false) e.guard (demandG (useD e 1 :: readB e 2)) s fun s x is =>
    match firstTarget is (x.forkTarget e s.cur.pc) with
    | some (i, c, v) => s.trap x is c i (dw v)
    | none => .next (s.done (forkLoop e x s.cur.pc is x.heat.freeSlots x))

/-! ### Cross-fibre operations (R218 to R220) -/

/-- VOTE (R218). -/
def opVote (e : Ext) (s : State) : Out :=
  issue e.guard (demandG [useD e 1]) s fun s x is =>
    let b := x.ballot is (e.a.toNat % 32)
    let v := voteOf e.m1.toNat b (slotMask is).toNat (onesOfBallot b)
    regEffect (fun _ i y => y.dst32 i e v) s x is
where
  /-- Number of one bits of a ballot. -/
  onesOfBallot (b : Nat) : Nat := ((List.range 32).filter fun i => b.testBit i).length

/-- The source slot of SHFL; none outside 0 to 31 (R219). -/
def shflSlot (m1 i b : Nat) : Option Nat :=
  match m1 with
  | 0 => some (b % 32)
  | 1 => if b ≤ i then some (i - b) else none
  | 2 => if i + b < 32 then some (i + b) else none
  | _ => some (i ^^^ (b % 32))

/-- SHFL (R219). -/
def opShfl (e : Ext) (s : State) : Out :=
  issue e.guard (demand (uses2 e ++ readB e 1)) s fun s x is =>
    let pick (i : Nat) : Nat :=
      match shflSlot e.m1.toNat i (x.src32 i e) with
      | some k => if k ∈ is then k else i
      | none => i
    regEffect (fun x i y => y.dst i e (x.srcA (pick i) e)) s x is

/-- The slot that BCAST names (R220). -/
def Site.bcastSlot (x : Site) (e : Ext) (is : List Nat) : Nat := x.src32 (is.headD 0) e % 32

/-- The records that BCAST meets: b in the lowest executing fibre, then register A in the named slot (R189, R220). -/
def bcastMet (e : Ext) (x : Site) (is : List Nat) : List (Nat × List Baton) :=
  let i := is.headD 0
  let bs := if e.osel = 0 then x.records i e.b.toNat 1 else []
  if bs ≠ [] then [(i, bs)] else [(x.bcastSlot e is, x.records (x.bcastSlot e is) e.a.toNat e.ty.regs)]

/-- BCAST (R220): the window check also holds in the slot that is read (R55). DESIGN CHOICE: in that slot, which need not execute, it is made once b and the
register have been waited for, and the trap record names that slot (log entry 71). -/
def opBcast (e : Ext) (s : State) : Out :=
  issueOn (bcastMet e) (fun _ _ => false) e.guard (demand (uses2 e ++ readB e 1)) s fun s x is =>
    let k := x.bcastSlot e is
    match x.fieldCheck k e.a.toNat e.ty.regs with
    | some (c, r) => s.trap x is c k (dw r)
    | none =>
      let v := if (x.heat.fibre? k).isSome then x.srcA k e else 0
      regEffect (fun _ i y => y.dst i e v) s x is

/-! ### The extended set (R59, R221) -/

/-- Change the extended set of the unit's pair. -/
def Site.updX (x : Site) (f : XSet → XSet) : Site :=
  { x with team := { x.team with xsets := x.team.xsets.map fun e => if e.squad = x.squad ∧ e.low = pairLow x.heatNo then f e else e } }

/-- XSET_NOT_HELD where no register is named: %tinfo is a value the manual does not state (log entry 6). -/
def State.xTrap (s : State) (x : Site) (is : List Nat) : Out :=
  let (v, s) := s.free
  s.trap x is cause.xsetNotHeld (is.headD 0) v

/-- XLOCK (R59): a heat whose partner holds the set waits, and is next. -/
def opXlock (e : Ext) (s : State) : Out :=
  issue e.guard demandNone s fun s1 x is =>
    match x.xset? with
    | none => s1.xTrap x is
    | some xs =>
      match xs.holder with
      | none => .next (s1.done (x.updX fun q => { q with holder := some x.heatNo, waiter := if q.waiter = some x.heatNo then none else q.waiter }))
      | some h =>
        if h = x.heatNo then .next (s1.done x)
        else
          match s.here with
          | some x0 => s.wait (x0.updX fun q => { q with waiter := some x.heatNo, waitAt := s.cur.pc }) false true
          | none => .next s

/-- A record is pending in the extended registers of some fibre of the heat. -/
def Site.pendingX (x : Site) : Bool :=
  (List.range 32).any fun i => (x.heat.fibre? i).isSome && (x.records i 128 128).any fun b => b.st = .pending

/-- XFREE (R59). -/
def opXfree (e : Ext) (s : State) : Out :=
  issue e.guard demandNone s fun s1 x is =>
    if x.holdsX = false then s1.xTrap x is
    else if x.pendingX then s.stall
    else .next (s1.done { x with team := x.team.releaseX x.squad x.heatNo })

/-! ### The meanings, one for each row of the opcode table -/

/-- NOP (R210), the short form (R164). -/
def execNop (s : State) : Out := opNop (shortFn .s8 1 0 0) s

/-- NOP_EXT (R210). -/
def execNopExt (e : Ext) (s : State) : Out := opNop e s

/-- YIELD (R210), the short form (R164). -/
def execYield (s : State) : Out := opYield (shortFn .s8 2 0 0) s

/-- YIELD_EXT (R210). -/
def execYieldExt (e : Ext) (s : State) : Out := opYield e s

/-- END (R210), the short form (R164). -/
def execEndI (s : State) : Out := opEnd (shortFn .s8 3 0 0) s

/-- END_EXT (R210). -/
def execEndExt (e : Ext) (s : State) : Out := opEnd e s

/-- BRA (R211), the short form (R164). -/
def execBra (o : BitVec 23) (s : State) : Out := opBra ⟨o, .always, 0⟩ 4 s

/-- BRA EXT (R211). -/
def execBraExt (j : JExt) (s : State) : Out := opBra j 12 s

/-- CALL (R212), the short form (R164). -/
def execCall (o : BitVec 23) (s : State) : Out := opCall ⟨o, .always, 0⟩ 4 s

/-- CALL EXT (R212). -/
def execCallExt (j : JExt) (s : State) : Out := opCall j 12 s

/-- CALL W (R212). -/
def execCallW (j : JExt) (s : State) : Out := opCallW j 12 s

/-- BRX (R213), the short form (R164). -/
def execBrx (a : BitVec 8) (s : State) : Out := opBrx (shortFn .s8 0 a 0) s

/-- BRX_EXT (R213). -/
def execBrxExt (e : Ext) (s : State) : Out := opBrx e s

/-- CALLX (R213), the short form (R164). -/
def execCallx (a : BitVec 8) (s : State) : Out := opCallx (shortFn .s8 1 a 0) s

/-- CALLX_EXT (R213). -/
def execCallxExt (e : Ext) (s : State) : Out := opCallx e s

/-- CALLX_W (R213). -/
def execCallxW (e : Ext) (s : State) : Out := opCallxW e s

/-- RET (R213), the short form (R164). -/
def execRet (s : State) : Out := opRet (shortFn .s8 2 0 0) s

/-- RET_EXT (R213). -/
def execRetExt (e : Ext) (s : State) : Out := opRet e s

/-- JOIN (R215), the short form (R164). -/
def execJoin (m : BitVec 4) (s : State) : Out := opJoin (shortFn .s8 0 0 (m.setWidth 8)) s

/-- JOIN_EXT (R215). -/
def execJoinExt (e : Ext) (s : State) : Out := opJoin e s

/-- LEAVE (R215), the short form (R164). -/
def execLeave (m : BitVec 4) (s : State) : Out := opLeave (shortFn .s8 1 0 (m.setWidth 8)) s

/-- LEAVE_EXT (R215). -/
def execLeaveExt (e : Ext) (s : State) : Out := opLeave e s

/-- WAITM (R215), the short form (R164). -/
def execWaitm (m : BitVec 4) (s : State) : Out := opWaitm (shortFn .s8 2 0 (m.setWidth 8)) s

/-- WAITM_EXT (R215). -/
def execWaitmExt (e : Ext) (s : State) : Out := opWaitm e s

/-- MSET (R215), the short form (R164). -/
def execMset (a : BitVec 8) (m : BitVec 4) (s : State) : Out := opMset (shortFn .s8 3 a (m.setWidth 8)) s

/-- MSET_EXT (R215). -/
def execMsetExt (e : Ext) (s : State) : Out := opMset e s

/-- MGET (R215), the short form (R164). -/
def execMget (a : BitVec 8) (m : BitVec 4) (s : State) : Out := opMget (shortFn .s8 4 a (m.setWidth 8)) s

/-- MGET_EXT (R215). -/
def execMgetExt (e : Ext) (s : State) : Out := opMget e s

/-- FORK (R217). -/
def execFork (e : Ext) (s : State) : Out := opFork e s

/-- VOTE (R218), the short form (R164). -/
def execVote (a : BitVec 5) (d : BitVec 8) (s : State) : Out := opVote (shortFn .s8 1 (a.setWidth 8) d) s

/-- VOTE_EXT (R218). -/
def execVoteExt (e : Ext) (s : State) : Out := opVote e s

/-- SHFL (R219), the short form (R164). -/
def execShfl (a : BitVec 8) (d : BitVec 8) (s : State) : Out := opShfl (shortFn .b32 2 a d) s

/-- SHFL_EXT (R219). -/
def execShflExt (e : Ext) (s : State) : Out := opShfl e s

/-- BCAST (R220), the short form (R164). -/
def execBcast (a : BitVec 8) (d : BitVec 8) (s : State) : Out := opBcast (shortFn .b32 3 a d) s

/-- BCAST_EXT (R220). -/
def execBcastExt (e : Ext) (s : State) : Out := opBcast e s

/-- XLOCK (R221), the short form (R164). -/
def execXlock (s : State) : Out := opXlock (shortFn .s8 4 0 0) s

/-- XLOCK_EXT (R221). -/
def execXlockExt (e : Ext) (s : State) : Out := opXlock e s

/-- XFREE (R221), the short form (R164). -/
def execXfree (s : State) : Out := opXfree (shortFn .s8 5 0 0) s

/-- XFREE_EXT (R221). -/
def execXfreeExt (e : Ext) (s : State) : Out := opXfree e s

end Sys2Proof.Machine
end

