-- ==== Sys2Proof/Machine/System.lean ====
section
/-!
DEFINITION. System registers, traps, returns, counters and the budget: opcodes 0x75 to 0x7B (R315 to R319), the
delivery of deferred traps (R351, R355), and the driver's SYSWR (R168).
-/

namespace Sys2Proof.Machine

/-! ### System registers (R315) -/

/-- The bits of a format-table entry that are stored (R80). -/
def fmtMask : Word := 0x00FFFF7F

/-- The value of a system register in a fibre (Table 18.10). -/
def State.sysReg (s : State) (x : Site) (i : Nat) (n : Nat) : Nat :=
  let c := s.ctx? x.team.ctx
  if 0x10 ≤ n ∧ n ≤ 0x1F then ((c.bind fun c => c.fmts[n - 0x10]?).getD 0).toNat
  else
    match n with
    | 0x00 => (x.seed i).toNat
    | 0x20 => ((s.die? x.team.cl.die).map Die.clock).getD 0
    | 0x21 => x.team.cl.die
    | 0x22 => clusterNo x.team.cl
    | 0x23 => x.coreId?.getD (2 ^ 32 - 1)
    | 0x24 => x.team.awb % 2 ^ 11 + x.team.awl % 2 ^ 12 * 2 ^ 16
    | 0x25 => x.team.slotno
    | 0x30 => (s.tvec x.team.ctx).toNat
    | 0x31 => (((x.heat.fibre? i).map Fibre.epc).getD 0).toNat
    | 0x32 => x.heat.tcause.toNat
    | 0x33 => x.heat.tpc.toNat
    | 0x34 => x.heat.tinfo.toNat
    | _ => ((c.map Context.gen).getD 0).toNat

/-- Registers that a system register takes. -/
def sysRegs (n : BitVec 16) : Nat := if sysWide n then 2 else 1

/-- SYSRD (R315). -/
def opSysrd (e : Ext) (s : State) : Out :=
  issue e.guard (demand [useD e (sysRegs e.imm)]) s fun s x is =>
    regEffect (fun x i y => y.setVal i e.d.toNat (sysRegs e.imm) (s.sysReg x i e.imm.toNat)) s x is

/-- Write a register of a context (R80, R315): writes to entry 0 of the format table have no effect. -/
def Context.sysWrite (c : Context) (n : Nat) (v : Nat) : Context :=
  if n = 0x10 then c
  else if 0x10 < n ∧ n ≤ 0x1F then { c with fmts := c.fmts.set (n - 0x10) (wd v &&& fmtMask) }
  else if n = 0x30 then { c with tvec := dw v }
  else c

/-- The registers of a context, which its team leader and the driver may write. -/
def sysOfContext (n : BitVec 16) : Bool := (0x10 ≤ n && n ≤ 0x1F) || n == 0x30

/-- SYSWR (R315). -/
def opSyswr (e : Ext) (s : State) : Out :=
  let d : Demand := { uses := [readA e (sysRegs e.imm)], v0 := false, leader := sysOfContext e.imm, handler := e.imm == 0x31 }
  issue e.guard d s fun s x is =>
    let v := x.val (is.headD 0) e.a.toNat (sysRegs e.imm)
    if e.imm = 0 then regEffect (fun x i y => y.setSeed i (seedOr (x.word i e.a.toNat))) s x is
    else if e.imm = 0x31 then regEffect (fun _ i y => y.updFibre i fun f => { f with epc := dw v }) s x is
    else
      match s.ctx? x.team.ctx with
      | some c => .next ((s.setCtx (c.sysWrite e.imm.toNat v)).done x)
      | none => .next (s.done x)

/-! ### TRAP, BRK and ERET (R316, R317) -/

/-- TRAP and BRK complete in every executing fibre and then raise their cause (R316). -/
def trapAfter (e : Ext) (c : Byte) (s : State) : Out :=
  issue e.guard (demand []) s fun s x is =>
    let next := s.cur.pc + BitVec.ofNat 56 s.cur.len
    .next (s.takeTrap (x.advance s.cur.batch s.cur.len) is (fun _ => next)
      { cause := c, inner := 0, fibre := is.headD 0, pc := s.cur.pc, info := e.imm.setWidth 64 })

/-- TRAP (R316). -/
def opTrap (e : Ext) (s : State) : Out := trapAfter e cause.software s

/-- BRK (R316). -/
def opBrk (e : Ext) (s : State) : Out := trapAfter e cause.breakpoint s

/-- Leave handler state, the one operation: each fibre continues at its %epc (R317, R352). -/
def Site.leaveHandler (x : Site) (is : List Nat) : Site :=
  x.updFibres is fun f => { f with handler := false, pc := f.epc.setWidth 56 }

/-- The bits of %tcause that Table 22.6 names: bit 23 reads as zero (R6). -/
def tcauseMask : Word := 0xFF7FFFFF

/-- The heat's trap registers hold its trap until the last handler fibre returns (R352); what they hold then is not stated
(log entry 6). -/
def State.forgetTrap (s : State) (x : Site) : State × Site :=
  if x.heat.inHandler then (s, x)
  else
    let (a, s) := s.free
    let (b, s) := s.free
    let (c, s) := s.free
    (s, { x with heat := { x.heat with tcause := a.setWidth 32 &&& tcauseMask, tpc := b, tinfo := c } })

/-- The target of ERET in a fibre. -/
def Site.epc (x : Site) (i : Nat) : Nat := (((x.heat.fibre? i).map Fibre.epc).getD 0).toNat

/-- ERET (R317). -/
def opEret (e : Ext) (s : State) : Out :=
  issue e.guard { uses := [], v0 := false, leader := false, handler := true } s fun s x is =>
    match firstTarget is x.epc with
    | some (i, c, v) => s.trap x is c i (dw v)
    | none =>
      let (s, y) := s.forgetTrap ((x.advance s.cur.batch s.cur.len).leaveHandler is)
      .next (s.put y)

/-! ### Counters and the budget (R318, R319) -/

/-- PERFRD (R318), as the counters stand before it issues (log entry 18). -/
def opPerfrd (e : Ext) (s : State) : Out :=
  let before := (s.here.map fun x => x.team.counters).getD []
  issue e.guard (demand [useD e 2]) s fun s x is =>
    let v := dw (before.getD e.imm.toNat 0)
    regEffect (fun _ i y => y.setVal i e.d.toNat 2 v.toNat) s x is

/-- What is charged to a meet as a die sees it: its own charges and the latest reports of the others (R319, R336). -/
def Meet.usedOn (m : Meet) (die : Nat) : Nat :=
  (SMap.get? m.sums die).getD 0 + ((m.reports.filter fun p => p.1 ≠ die).map Prod.snd).sum

/-- The deadline of a meet on a die's clock (R330). -/
def Meet.deadlineOn (m : Meet) (die : Nat) : Int :=
  match m.dls.find? fun k => k.keeper = die ∧ k.on = die ∧ k.commit with
  | some k => k.dl
  | none => m.t0 + m.deadline

/-- The tenant of a meet ends what overruns its budget, without a grace (R331, R337). -/
def State.ends (s : State) (m : Meet) : Bool := ((s.tenant? m.tenant).map fun t => decide (t.policy = .terminate)).getD false

/-- The values of BUDGET (R319): without a grace none of it is left. -/
def State.budgetValue (s : State) (m : Meet) (die m1 : Nat) : Nat :=
  let used := m.usedOn die
  match m1 with
  | 0 => m.budget - used
  | 1 => used
  | 2 => if s.ends m = false ∧ (m.graced ∨ m.budget ≤ used) then m.budget + m.budget / 16 - used else 0
  | _ => wrap 64 (m.deadlineOn die - ((s.die? die).map Die.clock).getD 0)

/-- BUDGET (R319): the charges made before it issued. -/
def opBudget (e : Ext) (s : State) : Out :=
  let before := s
  issue e.guard (demand [useD e 2]) s fun s x is =>
    let v := match before.meet? x.team.meet with
      | some m => s.budgetValue m x.team.cl.die e.m1.toNat
      | none => 0
    regEffect (fun _ i y => y.setVal i e.d.toNat 2 v) s x is

/-! ### Deferred traps (R351, R355) -/

/-- The unit that takes a deferred trap: its originator while it lives, else the lowest live heat, else the pacer (R351). -/
def Team.taker (t : Team) (src : Option Who) : Option Who :=
  let live (w : Who) : Bool := ((t.heat? w).map Heat.alive).getD false
  let low : Option Who :=
    match (t.heats.filter Heat.alive) with
    | [] => none
    | h :: r => some (let b := r.foldl (fun b h => if h.squad * 16 + h.idx < b.squad * 16 + b.idx then h else b) h; .heat b.squad b.idx)
  let other : Option Who := match low with
    | some w => some w
    | none => if live .pacer then some .pacer else none
  match src with
  | some w => if live w then some w else other
  | none => other

/-- The batch that holds the lowest runnable fibre slot (R351). -/
def Heat.lowestBatch (h : Heat) : List Nat :=
  let run (i : Nat) : Option Pc := (h.fibre? i).bind fun f => if f.waitOn = none then some f.pc else none
  match (List.range 32).findSome? run with
  | none => []
  | some pc => (List.range 32).filter fun i => run i = some pc

/-- The oldest deferred trap of a team with the unit and the batch that take it, when one can be delivered now: not while the
heat is in handler state, nor while every live fibre of it waits on a mask (R351, R352). -/
def State.deliverable (s : State) (team : Nat) : Option (DTrap × Site × List Nat) :=
  (s.team? team).bind fun t =>
    match t.st, t.dtraps with
    | .resident, d :: _ =>
      (t.taker d.src).bind fun w => (t.heat? w).bind fun h =>
        if h.inHandler ∨ h.lowestBatch = [] then none
        else some (d, { u := { team := team, who := w }, team := t, heat := h }, h.lowestBatch)
    | _, _ => none

/-- The record of a deferred trap as the heat takes it; BUDGET_OVERRUN carries the charge at delivery (Table 22.7). -/
def State.dRecord (s : State) (x : Site) (d : DTrap) : TrapRec :=
  let info := if d.cause = cause.budgetOverrun then dw (((s.meet? x.team.meet).map Meet.reported).getD 0) else d.info
  { cause := d.cause, inner := d.inner, fibre := d.fibre, pc := d.pc, info := info }

/-- Deliver a team's oldest deferred trap (R351, R352): BUDGET_OVERRUN is discarded while %tvec is 0, every other cause then
ends the meet (R337, R352). -/
def State.deliver (s : State) (team : Nat) : State :=
  match s.deliverable team with
  | none => s
  | some (d, x, is) =>
    let x := { x with team := { x.team with dtraps := x.team.dtraps.tail } }
    if s.tvec x.team.ctx = 0 then
      if d.cause = cause.budgetOverrun then s.put x else s.fatal x d.cause
    else
      let resume (i : Nat) : Pc := ((x.heat.fibre? i).map Fibre.pc).getD 0
      s.put (x.enter (s.tvec x.team.ctx) is resume (d.src == some .pacer) true (s.dRecord x d))

/-- DEFERRED_TRAP_DELIVERY (R351). -/
def opDeferredTrapDelivery (team : Nat) (s : State) : Out := .next (s.deliver team)

/-- The event while the clusters of the die run (R393, R398). -/
def execDeferredTrapDelivery (team : Nat) (s : State) : Out := if s.teamRuns team then opDeferredTrapDelivery team s else .next s

/-- A trap that waits for the next issue of a team of its context's earliest meet joins that team's queue (R355). -/
def State.adoptDue (s : State) (t : Team) : State :=
  match s.ctx? t.ctx, s.openMeets t.ctx with
  | some c, m :: _ =>
    if m.id = t.meet ∧ c.due ≠ [] then (s.setCtx { c with due := [] }).setTeam (c.due.foldl Team.defer t) else s
  | _, _ => s

/-! ### The driver's SYSWR (R168) -/

/-- A command for SYSWR of team state (R168, R315): the leader's register A supplies the value. -/
def State.commandSyswr (s : State) (d : DriverCommand) : Command :=
  let n := sysRegs d.e.imm
  s.commandOn d (.syswr d.e) [readA d.e n] none fun s x =>
    let v := x.val 0 d.e.a.toNat n
    if d.e.imm = 0 then .status 0 (s.put (x.setSeed 0 (seedOr (wd v))))
    else if x.handling [0] then .status 0 (s.put (x.updFibre 0 fun f => { f with epc := dw v }))
    else .status cause.privileged s

/-- DRIVER_SYSWR (R168): a register of the context takes the value that the command carries, for it names no team whose registers could supply one.
DESIGN CHOICE: a write of team state that names no team, a retired one or one of another context is answered with PROTECTION (log entry 68). -/
def opDriverSyswr (driver ctx : Nat) (team : Option Nat) (e : Ext) (v : DWord) (s : State) : Out :=
  if sysOfContext e.imm ∨ team = none then
    if s.bound driver ctx = false then .next (s.tell (.command cause.privileged))
    else if (Instr.syswr e).wf = false then .next (s.tell (.command cause.illegal))
    else
      match (if sysOfContext e.imm then s.ctx? ctx else none) with
      | some c => .next ((s.setCtx (c.sysWrite e.imm.toNat v.toNat)).tell (.command 0))
      | none => .next (s.tell (.command cause.protection))
  else
    let d : DriverCommand := { driver := driver, ctx := ctx, team := team.getD 0, op := .syswr, e := e }
    .next ((s.commandSyswr d).answer d s)

/-- The command (R168). -/
def execDriverSyswr (by_ : DriverRef) (team : Option Nat) (e : Ext) (v : DWord) (s : State) : Out :=
  let die := (team.bind s.team?).map fun t => t.cl.die
  if (match die with | some d => s.parses d | none => s.dies.any fun d => d.coreUp 0) then opDriverSyswr by_.driver by_.ctx team e v s else .next s

/-! ### The meanings, one for each row of the opcode table -/

/-- SYSRD (R315). -/
def execSysrd (e : Ext) (s : State) : Out := opSysrd e s

/-- SYSWR (R315). -/
def execSyswr (e : Ext) (s : State) : Out := opSyswr e s

/-- TRAP (R316), the short form (R164). -/
def execTrap (i : BitVec 7) (s : State) : Out := opTrap (shortImm .s8 i 0 0) s

/-- TRAP_EXT (R316). -/
def execTrapExt (e : Ext) (s : State) : Out := opTrap e s

/-- ERET (R317), the short form (R164). -/
def execEret (s : State) : Out := opEret (shortFn .s8 0 0 0) s

/-- ERET_EXT (R317). -/
def execEretExt (e : Ext) (s : State) : Out := opEret e s

/-- BRK (R316), the short form (R164). -/
def execBrk (i : BitVec 7) (s : State) : Out := opBrk (shortImm .s8 i 0 0) s

/-- BRK_EXT (R316). -/
def execBrkExt (e : Ext) (s : State) : Out := opBrk e s

/-- PERFRD (R318). -/
def execPerfrd (e : Ext) (s : State) : Out := opPerfrd e s

/-- BUDGET (R319). -/
def execBudget (e : Ext) (s : State) : Out := opBudget e s

end Sys2Proof.Machine
end

