-- ==== Sys2Proof/Machine/Frames.lean ====
section
/-!
DEFINITION. Saving and restoring teams (R73, R307, R346 to R349), page requests (R342 to R344), filled and dropped translations
(R340, R341, R343), and the kill of a context (R345).
-/

namespace Sys2Proof.Machine

/-! ### Frames (R346) -/

/-- The frames that stand in a die's memory: base and size of each. -/
def State.framesOn (s : State) (die : Nat) : List (Nat × Nat) :=
  s.teams.filterMap fun t => if t.cl.die = die then t.frameAt.map fun a => (a, t.frameBytes) else none

/-- Where a frame of n bytes finds room in the pools of a context on a die: the lowest place of the first pool that has one (R346). -/
def State.frameSpot (s : State) (ctx die n : Nat) : Option Nat :=
  let taken := s.framesOn die
  let pools := ((s.ctx? ctx).map fun c => c.pools.filter fun p => p.die = die).getD []
  let free (a : Nat) : Bool := taken.all fun p => decide (a + n ≤ p.1 ∨ p.1 + p.2 ≤ a)
  pools.findSome? fun p =>
    leastBy id ((p.base :: taken.map fun q => q.1 + q.2).filter fun a => decide (p.base ≤ a ∧ a + n ≤ p.base + p.size) && free a)

/-- Heats in ascending squad and heat, which is how a team lists them. -/
def Team.heatRefs (t : Team) : List (Who × Heat) := t.heats.map fun h => (.heat h.squad h.idx, h)

/-- The record in the frame of one flight element: none for ACCRD and FIFO.GET (R73). -/
def frameRec (u : UnitRef) (f : Flight) (el : FlightElem) : Option FrameRec :=
  match f.kind with
  | .accrd => none
  | .fifoGet => none
  | .atomic => some (.await u f.tag el.fibre none)
  | _ => if (f.vol || f.acq) && decide (el.waits = .arrival) then some (.await u f.tag el.fibre none) else some (.replay u f.tag el.fibre)

/-- The replay and await records of a heat, in program order per fibre. -/
def heatRecs (u : UnitRef) (h : Heat) : List FrameRec :=
  (List.range 32).flatMap fun i => h.flights.flatMap fun f => (f.elems.filter fun el => el.fibre = i).filterMap (frameRec u f)

/-- The replay and await records of a team. -/
def Team.records (t : Team) : List FrameRec := t.heatRefs.flatMap fun p => heatRecs { team := t.id, who := p.1 } p.2

/-! ### Saving (R73, R307, R347) -/

/-- The state that an outcome leaves. -/
def outState (s : State) : Out → State
  | .next t => t
  | _ => s

/-- An ACCRD of the team waits on an array entry. -/
def Team.awaitsArray (t : Team) : Bool :=
  t.heats.any fun h => h.flights.any fun f => f.elems.any fun el => match el.waits with
    | .claim _ _ _ => true
    | _ => false

/-- One step of the array towards the end of its head entry: it fetches what the entry lacks, and applies it (R307 step 2). -/
def State.arrayPush (s : State) (team : Nat) : State :=
  match (s.team? team).bind fun t => t.queue.head? with
  | none => s
  | some q =>
    match q.work with
    | .zero => outState s (opArrayZero team s)
    | .mma _ _ _ _ _ _ _ _ _ _ _ =>
      if q.chunks ≠ [] ∨ q.stop.isSome then outState s (opArrayChunk team s)
      else
        match s.nextChunk team with
        | some (x, i, q, .ok c, s1) => (s1.setTeam { x.team with queue := x.team.queue.set i { q with chunks := q.chunks ++ [c] } }).creditMisses team
        | some (x, i, q, .error m, _) => s.fetchMiss x i q m
        | none => s

/-- Carry array entries to completion while ACCRD records wait on them and they proceed (R307 step 2). -/
def State.carryArray (s : State) (team : Nat) : Nat → State
  | 0 => s
  | n + 1 => if ((s.team? team).map Team.awaitsArray).getD false then (s.arrayPush team).carryArray team n else s

/-- Steps that carry a whole queue. -/
def Team.arraySteps (t : Team) : Nat := (t.queue.map fun q => 2 * q.total + 2).sum

/-- Resolve the records of FIFO.GET and of arrived ACCRDs, which a save waits for (R73). -/
def State.settle (s : State) (t : Team) : State :=
  t.heatRefs.foldl (fun s p => p.2.flights.foldl (fun s f =>
    match f.kind with
    | .fifoGet => s.arrive { team := t.id, who := p.1 } f.tag
    | .accrd => s.arrive { team := t.id, who := p.1 } f.tag
    | _ => s) s) s

/-- A flight with its channel numbers changed. -/
def Flight.rechan (g : Nat → Nat) (f : Flight) : Flight :=
  { f with elems := f.elems.map fun el =>
      { el with
        cpy := el.cpy.map fun p => (g p.1, p.2)
        waits := match el.waits with
          | .channel k w => .channel (g k) w
          | w => w } }

/-- The pages that a team waits for with their channel numbers changed. -/
def PageReq.rechan (g : Nat → Nat) (p : PageReq) : PageReq :=
  { p with users := p.users.map fun u => match u with
      | .copy k => .copy (g k)
      | _ => u }

/-- The logical number of a physical channel, and the physical number of a logical one (R118). -/
def Cluster.chanLogical (c : Cluster) (k : Nat) : Nat := (c.chanPl.findIdx? fun p => p = some k).getD 8
def Cluster.chanPhysical (c : Cluster) (k : Nat) : Nat := (c.chanPl[k]?).join.getD 8

/-- A heat as the frame holds it: a wait stands as an instruction not yet issued, and channels by their logical numbers. -/
def Heat.framed (c : Cluster) (h : Heat) : Heat :=
  { h with bars := [], waiting := false, long := false, tried := false, flights := h.flights.map (Flight.rechan c.chanLogical) }

/-- An array entry as the frame holds it: pins are released, chunks applied are counted (R307). -/
def MxEntry.framed (q : MxEntry) : MxEntry := { q with chunks := [], stop := none }

/-- The channels of a team by their logical numbers. -/
def Cluster.chansOf (c : Cluster) (team : Nat) : List (Nat × Chan) :=
  c.chanPl.zipIdx.filterMap fun (p, k) => (p.bind fun i => c.chans[i]?).bind fun ch => if ch.owner = some team then some (k, ch) else none

/-- The FIFOs of a team by the logical numbers of their banks. -/
def Cluster.fifosOf (c : Cluster) (team : Nat) : List (Nat × Fifo) :=
  c.bankPl.zipIdx.filterMap fun (p, k) => ((p.bind fun i => c.banks[i]?).bind Bank.fifo).bind fun f => if f.team = team then some (k, f) else none

/-- The team as its frame holds it. -/
def Team.framed (t : Team) (s : State) (c : Cluster) : Team :=
  { t with
    st := .saved
    frame := t.records
    heats := t.heats.map (Heat.framed c), pacer := t.pacer.map (Heat.framed c)
    queue := t.queue.map MxEntry.framed
    pages := t.pages.map (PageReq.rechan c.chanLogical)
    chans := c.chansOf t.id, fifos := c.fifosOf t.id
    cshSegs := [], scrSegs := t.scrSegs.map fun _ => []
    clocks := some { die := s.clockOf t.cl.die, hub := s.hubClock, starts := ((s.die? t.cl.die).map Die.starts).getD 0 }
    gen := ((s.ctx? t.ctx).map Context.gen).getD 0 }

/-- Bytes of the frame that a save of the team would take. -/
def State.frameNeeds (s : State) (t : Team) : Nat := (((s.cluster? t.cl).map (t.framed s)).getD t).frameBytes

/-- A frame can be allocated for a team (R346). -/
def State.frameFree (s : State) (t : Team) : Bool := (s.frameSpot t.ctx t.cl.die (s.frameNeeds t)).isSome

/-- A page that is neither here nor failed, not asked for yet. -/
def PageReq.waits (p : PageReq) : Bool := decide (p.tries = 0 ∧ p.done = false ∧ p.failed = false)

/-- A page that has been asked for and not been answered. -/
def PageReq.open_ (p : PageReq) : Bool := decide (p.tries ≠ 0 ∧ p.done = false ∧ p.failed = false)

/-- A saved team of a die, whose pages the memory-management core of that die asks for. -/
def Team.asksOn (t : Team) (die : Nat) : Bool := decide (t.st = .saved ∧ t.cl.die = die)

/-- The page that a collective operation has asked for (R384). -/
def Xfer.collPage (x : Xfer) : Option Nat :=
  match x.work with
  | .coll _ _ _ _ _ _ _ => if x.st = .running ∧ x.asks = none then x.held else none
  | _ => none

/-- The page request groups outstanding on a die: a context and a page each (R343). -/
def State.pagesOut (s : State) (die : Nat) : List (Nat × Nat) :=
  (s.teams.flatMap fun t =>
    (if t.asksOn die then (t.pages.filter PageReq.open_).map fun p => (t.ctx, p.page) else []) ++
    (if t.cl.die = die then (t.xfers.filterMap Xfer.collPage).map fun p => (t.ctx, p) else [])).dedup

/-- How often a page that is outstanding on a die has been asked for. -/
def State.askedFor (s : State) (die ctx page : Nat) : Nat :=
  (s.teams.flatMap fun t =>
    (if t.asksOn die ∧ t.ctx = ctx then (t.pages.filter fun p => p.open_ ∧ p.page = page).map PageReq.tries else []) ++
    (if t.cl.die = die ∧ t.ctx = ctx then (t.xfers.filter fun x => x.collPage = some page).map fun x => x.asked.2 else [])).foldl max 1

/-- Everybody on a die who waits for a page that has just been asked for, or is outstanding, shares the request. -/
def State.shareAsk (s : State) (die ctx page k : Nat) : State :=
  { s with teams := s.teams.map fun t =>
      let t := if t.asksOn die ∧ t.ctx = ctx then { t with pages := t.pages.map fun p => if p.waits ∧ p.page = page then { p with tries := k } else p } else t
      if t.cl.die = die ∧ t.ctx = ctx then
        { t with xfers := t.xfers.map fun x =>
            if x.asks.isSome ∧ x.held = some page then { x with asks := none, asked := (page, max k (x.asked.2 + 1)) } else x }
      else t }

/-- The pages that wait to be asked for on a die: since when, the context and the page. -/
def State.pageWaits (s : State) (die : Nat) : List (Nat × Nat × Nat) :=
  s.teams.flatMap fun t =>
    (if t.asksOn die then (t.pages.filter PageReq.waits).map fun p => ((t.clocks.map SavedClocks.die).getD 0, t.ctx, p.page) else []) ++
    (if t.cl.die = die then t.xfers.filterMap fun x => x.asks.bind fun since => x.held.map fun p => (since, t.ctx, p) else [])

/-- What a request for a page sends: a fault of the second stage goes to the hypervisor, another to the host as a PRI request (R343). -/
def State.pageAsk (s : State) (die ctx page : Nat) : HostEvent :=
  let gen := ((s.ctx? ctx).map Context.gen).getD 0
  match (s.ctx? ctx).bind fun c => c.walkGuest s.mem (s.place die) (4096 * page) with
  | some _ => .stage2Fault ctx gen page
  | none => .pageRequest ctx gen page

/-- Ask for up to n pages that a die waits for, in order of arrival, while its memory-management core works (R20, R403): a page that is outstanding is not asked for again, and at most 256 page request
groups are outstanding (R343). -/
def State.askPages (s : State) (die : Nat) : Nat → State
  | 0 => s
  | n + 1 =>
    if ((s.die? die).map fun d => d.coreUp 2) = some false then s else
    match leastBy Prod.fst (s.pageWaits die) with
    | none => s
    | some (_, ctx, page) =>
      let out := s.pagesOut die
      if (ctx, page) ∈ out then (s.shareAsk die ctx page (s.askedFor die ctx page)).askPages die n
      else if 256 ≤ out.length then s
      else ((s.shareAsk die ctx page 1).tell (s.pageAsk die ctx page)).askPages die n

/-- Every page that a die waits for shares an outstanding request, if there is one. -/
def State.mergePages (s : State) (die : Nat) : State :=
  (s.pagesOut die).foldl (fun s p => s.shareAsk die p.1 p.2 (s.askedFor die p.1 p.2)) s

/-- Ask for what a die waits for. -/
def State.askAll (s : State) (die : Nat) : State :=
  (s.mergePages die).askPages die (s.pageWaits die).length

/-- On every die. -/
def State.askEverywhere (s : State) : State := (List.range s.dies.length).foldl State.askAll s

/-- Save a resident team when a frame can be had (R346, R347). -/
def State.saveTeam (s : State) (id : Nat) : State :=
  match s.team? id with
  | none => s
  | some t =>
    if t.st ≠ .resident ∨ s.frameFree t = false then s
    else
      let s := s.carryArray id t.arraySteps
      match s.team? id with
      | none => s
      | some t =>
        let s := s.settle t
        match s.team? id, s.cluster? t.cl with
        | some t, some c =>
          let f := t.framed s c
          let f := { f with frameAt := s.frameSpot t.ctx t.cl.die f.frameBytes }
          let s := ((s.setTeam f).writeFrame f).freeUnits t
          (s.updCluster t.cl fun c => { c with saving := if c.saving = some id then none else c.saving }).askAll t.cl.die
        | _, _ => s

/-- No array entry that an ACCRD of the team waits for proceeds without outside help: its head entry is held for a page, has met a fault, or stands
before a .wt link whose phase is not complete (R307, R356). -/
def Team.arrayRests (t : Team) : Bool :=
  !t.awaitsArray ||
    match t.queue with
    | [] => true
    | q :: _ => (q.chunks.isEmpty && (q.held.isSome || q.stop.isSome)) || t.wtHolds q == some true

/-- CONTEXT_SAVE (R335, R342, R347, R356): a team of which the keeper has given notice, once the array entries that its ACCRDs wait for have completed or
stopped, or a team that waits for pages. -/
def execContextSave (team : Nat) (s : State) : Out :=
  match s.team? team with
  | none => .next s
  | some t =>
    if t.wantsPages ∨ (s.saving t ∧ t.arrayRests) then .next (s.saveTeam team) else .next s

/-! ### Page requests (R343 to R345) -/

/-- The pages of a saved team after an answer: `ok` says that a walk of the page succeeds now; the answer tells whether to ask again. -/
def PageReq.answered (p : PageReq) (page : Nat) (success ok : Bool) : PageReq × Bool :=
  if p.page ≠ page ∨ p.done ∨ p.failed ∨ p.tries = 0 then (p, false)
  else if success = false then ({ p with failed := true }, false)
  else if ok then ({ p with done := true }, false)
  else if 4 ≤ p.tries then ({ p with failed := true }, false)
  else ({ p with tries := p.tries + 1 }, true)

/-- A saved team of a context. -/
def Team.waitsIn (t : Team) (ctx : Nat) : Bool := decide (t.ctx = ctx ∧ t.st = .saved)

/-- A team after an answer for its context. -/
def Team.answered (t : Team) (ctx page : Nat) (success : Bool) (ok : Nat → Bool) : Team :=
  if t.waitsIn ctx then { t with pages := t.pages.map fun p => (p.answered page success (ok t.cl.die)).1 } else t

/-- The collective operations of a context that wait for a page go on, or fail (R384, R387). -/
def State.collAnswered (s : State) (ctx page : Nat) (success : Bool) : State :=
  (s.teams.filter fun t => t.ctx = ctx).foldl (fun s t => (t.xfers.filter fun x => x.held = some page ∧ x.st = .running ∧ x.asks = none).foldl (fun s x =>
    match s.inst? t x with
    | some n =>
      if success then s.collRead t.id { x with held := none } n
      else s.collFail t.id { x with held := none } n cause.pageRequestFailed (dw (4096 * page))
    | none => s) s) s

/-- PAGE_RESPONSE (R343, R345): an answer that carries another generation is discarded. -/
def execPageResponse (ctx : Nat) (gen : Word) (page : Nat) (answer : PageAnswer) (s : State) : Out :=
  match s.ctx? ctx with
  | none => .next s
  | some c =>
    if c.gen ≠ gen then .next s
    else
      let success : Bool := answer = .success
      let ok (die : Nat) : Bool := (c.walk s.mem (s.place die) (4096 * page)).isSome
      let again := (s.teams.filter fun t => t.waitsIn ctx && t.pages.any fun p => (p.answered page success (ok t.cl.die)).2).map fun t => t.cl.die
      let s : State := { s with teams := s.teams.map fun t => t.answered ctx page success ok }
      let s := again.dedup.foldl (fun s die => s.tell (s.pageAsk die ctx page)) s
      .next (s.collAnswered ctx page success).askEverywhere

/-! ### Translations (R340, R341, R343) -/

/-- Entries that a structure holds (Table 22.1). -/
def TlbId.room : TlbId → Nat
  | .core _ _ => 2048
  | .pacer _ => 256
  | .fetch _ => 1024
  | .copy _ => 1024

/-- Add a walked translation to a structure; a full structure drops its oldest entry. -/
def State.fillTlb (s : State) (tlb : TlbId) (ctx : Nat) (h : Hit) : State :=
  let e : TlbEntry := { tlb := tlb, ctx := ctx, base := h.base, size := h.size, leaf := BitVec.ofNat 128 h.leaf }
  let other := s.tlb.filter fun x => ¬ (x.tlb = tlb ∧ x.ctx = ctx ∧ x.base < h.base + h.size ∧ h.base < x.base + x.size)
  let mine := other.filter fun x => x.tlb = tlb
  { s with tlb := e :: (if TlbId.room tlb ≤ mine.length then (match mine.getLast? with
    | some o => other.erase o
    | none => other) else other) }

/-- A walk has read its tables, which the L2s then hold (R340). -/
def State.walked (s : State) (tlb : TlbId) (ctx va : Nat) : State :=
  match s.ctx? ctx with
  | some c => s.useTables (tlbDie tlb) ((c.tableReads s.mem (s.place (tlbDie tlb)) va).takeWhile fun a => !s.downAt a)
  | none => s

/-- PAGE_WALK_COMPLETION (R340): a walk that finds a valid entry that permits the access fills the structure; another leaves nothing, and
the access that needs the page finds the fault itself. -/
def execPageWalkCompletion (ctx : Nat) (tlb : TlbId) (va : Pc) (kind : AccKind) (s : State) : Out :=
  match (s.ctx? ctx).bind fun c => c.walk s.mem (s.place (tlbDie tlb)) va.toNat with
  | some h => .next (if h.allows kind then (s.walked tlb ctx va.toNat).fillTlb tlb ctx h else s.walked tlb ctx va.toNat)
  | none => .next (s.walked tlb ctx va.toNat)

/-- ATS_COMPLETION (R343): it fills the core and walk-ahead TLBs as though walked. -/
def execAtsCompletion (ctx : Nat) (tlb : TlbId) (va : Pc) (s : State) : Out :=
  match tlb, (s.ctx? ctx).bind fun c => c.walk s.mem (s.place (tlbDie tlb)) va.toNat with
  | .pacer _, _ => .next s
  | _, some h => .next ((s.walked tlb ctx va.toNat).fillTlb tlb ctx h)
  | _, none => .next (s.walked tlb ctx va.toNat)

/-- Some byte of a posted write lies in a range of virtual addresses; one of a chunk reaches over the chunk's lines. -/
def Posted.within (p : Posted) (lo size : Nat) : Bool := decide (p.va < lo + size ∧ lo < p.va + max p.bytes.length (64 * p.lines.length))

/-- The posted writes to a range that units of a context make through some of the structures: they were translated before the shootdown (R341). -/
def State.postedThrough (s : State) (ctx : Nat) (tlbs : List TlbId) (lo size : Nat) : List Nat :=
  (s.posted.filter fun p => ((p.by_.bind s.site?).map fun x => decide (x.team.ctx = ctx ∧ x.tlb ∈ tlbs)).getD false && p.within lo size).map Posted.id

/-- A shootdown is complete once no access translated through what it dropped is left (R341). -/
def State.shotDone (s : State) : State :=
  let open_ (h : Shoot) : Bool := h.left.any fun k => s.posted.any fun p => decide (p.id = k)
  let done := s.shoots.filter fun h => !open_ h
  if done = [] then s else ({ s with shoots := s.shoots.filter open_ } : State).tellAll (done.map fun h => .shootdownDone h.ctx)

/-- SHOOTDOWN (R341): every covered structure drops each entry that maps the range, and reports completion once no write translated before is left. -/
def execShootdown (ctx : Nat) (lo : Nat) (size : Nat) (tlbs : List TlbId) (s : State) : Out :=
  let gone (e : TlbEntry) : Bool := decide (e.ctx = ctx ∧ e.tlb ∈ tlbs ∧ e.base < lo + size ∧ lo < e.base + e.size)
  let left := s.postedThrough ctx tlbs lo size
  .next ({ s with tlb := s.tlb.filter fun e => !gone e, shoots := s.shoots ++ [{ ctx := ctx, left := left }] } : State).shotDone

/-! ### Restoring (R334, R348, R349, R399) -/

/-- Every page that a saved team asked for has come or failed, every awaited value is there, and its frame is of this generation. -/
def State.restorable (s : State) (t : Team) : Bool :=
  decide (t.st = .saved) && decide (((s.ctx? t.ctx).map Context.gen) = some t.gen) && t.pages.all (fun p => p.done || p.failed) &&
    t.frame.all (fun r => match r with
      | .await _ _ _ none => false
      | _ => true)

/-- A field has a team that has not started. -/
def Field.waits (f : Field) : Bool := decide (f.placed < f.teams)

/-- An admitted meet, launched or not (R47), has a team that is ready to start or to be restored on a partition (R334). -/
def State.readyOn (s : State) (m : Meet) (part : Nat) : Bool :=
  m.live && m.fields.zipIdx.any fun (f, i) => decide (f.part = part) &&
    (f.waits || s.teams.any fun t => decide (t.meet = m.id ∧ t.field = i) && s.restorable t)

/-- The partition behind a logical number (R118). -/
def State.partOf (s : State) (part : Nat) : Option Partition := ((s.partPl[part]?).join).bind s.part?

/-- The keeper of a partition: the schedule core of its die, or the hub for whole dies (R329). -/
def State.keeperOf (s : State) (part : Nat) : Nat :=
  match s.partOf part with
  | some p => if p.whole then hubDie else ((p.locs.head?).map ClusterRef.die).getD hubDie
  | none => hubDie

/-- A meet's deadline as a keeper holds it, as time left on that keeper's clock (R330, R334). -/
def State.timeLeft (s : State) (m : Meet) (keeper : Nat) : Int :=
  match m.dls.find? fun k => k.keeper = keeper ∧ k.on = s.serverOf keeper with
  | some k => k.dl - s.clockOf k.on
  | none => ((m.t0 + m.deadline : Nat) : Int) - s.clockOf (s.serverOf m.home)

/-- A meet was admitted before another: meets are kept in the order of their admission. -/
def State.soonerOf (s : State) (a b : Meet) : Bool :=
  decide ((s.meets.findIdx fun m => m.id = a.id) < s.meets.findIdx fun m => m.id = b.id)

/-- No other meet with a ready team on the partition comes first: earliest deadline, then earliest admission (R334, R335). -/
def State.firstOn (s : State) (m : Meet) (part : Nat) : Bool :=
  let k := s.keeperOf part
  s.meets.all fun n => decide (n.id = m.id) || !s.readyOn n part ||
    decide (s.timeLeft m k < s.timeLeft n k ∨ (s.timeLeft m k = s.timeLeft n k ∧ s.soonerOf m n))

/-- Every channel of the frame can be taken again (R348). -/
def Cluster.chansFree (c : Cluster) (t : Team) : Bool :=
  t.chans.all fun p => (((c.chanPl[p.1]?).join.bind fun i => c.chans[i]?).map fun ch => ch.owner.isNone).getD false

/-- Put the frame's channels back. -/
def Cluster.putChans (c : Cluster) (t : Team) : Cluster :=
  t.chans.foldl (fun c p => match (c.chanPl[p.1]?).join with
    | some i => { c with chans := c.chans.set i { p.2 with queue := p.2.queue.map fun k => { k with held := none } } }
    | none => c) c

/-- The bank in which a FIFO of a frame is provided again: its own when it still is a free FIFO bank, another such bank, or a CACHE bank
without an allocation. -/
def State.fifoBankFor (s : State) (cl : ClusterRef) (logical : Nat) : Option Nat :=
  match s.cluster? cl with
  | none => none
  | some c =>
    let free (b : Nat) : Bool := c.modeOf b = .fifo && ((c.banks[b]?).map fun k => k.fifo.isNone).getD false
    (((c.bankPl[logical]?).join.filter free).or (c.placedBanks.find? free)).or (s.spareBanks cl).head?

/-- Provide the FIFOs of a frame again: none when a bank is lacking. -/
def State.putFifos (s : State) (cl : ClusterRef) : List (Nat × Fifo) → Option State
  | [] => some s
  | (k, f) :: r =>
    (s.fifoBankFor cl k).bind fun b =>
      let s := if ((s.cluster? cl).map fun c => decide (c.modeOf b = .fifo)).getD false then s else s.takeBank cl b .fifo
      (s.setFifo cl b f).putFifos cl r

/-- A launch time after a save (R399): as it was while the die clock has run on, else on the clock as it runs now, less the time since the save. -/
def launchAgain (l : Nat) (c : SavedClocks) (starts die hub : Nat) : Nat :=
  if c.starts = starts ∧ c.away = none then l else ((die : Int) + ((l : Int) - c.die) - ((hub : Int) - c.hub) - c.away.getD 0).toNat

/-- An operation of a restored team: a hold ends, and a launch time stands on the clock as it is. -/
def Xfer.restored (x : Xfer) (clocks : Option SavedClocks) (starts die hub : Nat) : Xfer :=
  match x.work, clocks with
  | .tile a b c d (some l), some k => { x with held := none, work := .tile a b c d (some (dw (launchAgain l.toNat k starts die hub))) }
  | .tile _ _ _ _ _, _ => { x with held := none }
  | .task _ _ _, _ => { x with held := none }
  | .coll _ _ _ _ _ _ _, _ => x

/-- A heat as it comes out of the frame: channels by their physical numbers. -/
def Heat.unframed (c : Cluster) (h : Heat) : Heat := { h with flights := h.flights.map (Flight.rechan c.chanPhysical) }

/-- The team as it is placed again, before its records are resolved. -/
def Team.unframed (t : Team) (s : State) (c : Cluster) : Team :=
  { t with
    st := .resident
    heats := t.heats.map fun h => { (h.unframed c) with active := false }
    queue := t.queue.map fun q => { q with held := none }
    xfers := t.xfers.map fun x => x.restored t.clocks (((s.die? t.cl.die).map Die.starts).getD 0) (s.clockOf t.cl.die) s.hubClock
    chans := [], fifos := [], clocks := none, frameAt := none
    pages := (t.pages.filter PageReq.failed).map (PageReq.rechan c.chanPhysical) }

/-- Take an element of a flight out, its records resolved. -/
def State.resolveElem (s : State) (u : UnitRef) (tag : BitVec 6) (fibre : Nat) (d : Deliv) (forget : Option Nat) : State :=
  let user : PageUser := .load u.who tag fibre
  match s.site? u with
  | none => s
  | some x =>
    match x.heat.flights.find? fun f => f.tag = tag with
    | none => s
    | some f =>
      let y := x.resolve f fibre d
      let y := match forget with
        | some va => y.forgetPageFor user va
        | none => y
      s.put { y with heat := y.heat.setFlight f (f.elems.filter fun el => el.fibre ≠ fibre) }

/-- Say what an element of a flight waits for. -/
def State.setWaits (s : State) (u : UnitRef) (tag : BitVec 6) (fibre : Nat) (w : Waits) : State :=
  match s.site? u with
  | none => s
  | some x =>
    s.put { x with heat := { x.heat with flights := x.heat.flights.map fun f =>
      if f.tag = tag then { f with elems := f.elems.map fun el => if el.fibre = fibre then { el with waits := w } else el } else f } }

/-- Keep an element for the next restore, on a page that its team asks for. -/
def State.keepReplay (s : State) (u : UnitRef) (tag : BitVec 6) (fibre va : Nat) : State :=
  match s.site? u with
  | none => s
  | some x =>
    (s.put (x.wantPageFor (.load u.who tag fibre) va)).setWaits u tag fibre .translate

/-- Reissue a replay record (R348): none when the home holds the access back, so that the restore cannot proceed yet. One with .cpy waits on its channel
again (R232), and one behind an earlier load of its fibre that waits on for that load (R126). -/
def State.replay (s : State) (u : UnitRef) (tag : BitVec 6) (fibre : Nat) : Option State :=
  match s.site? u with
  | none => some s
  | some x =>
    match x.heat.flights.find? fun f => f.tag = tag with
    | none => some s
    | some f =>
      match f.elems.find? fun el => el.fibre = fibre with
      | none => some s
      | some el =>
        match el.cpy with
        | some (k, w) => some (s.setWaits u tag fibre (.channel k w))
        | none =>
          match s.performLoad (x.before f) f fibre el.ea.toNat el.index.toNat with
          | (.value v, s1) =>
            let (s1, f) := s.countLate x f [el] s1
            let s1 := (s1.put { x with heat := x.heat.setFlight f f.elems }).resolveElem u tag fibre (.words (loadWords f.ty v)) none
            if f.acq then
              match s1.site? u with
              | some x =>
                let (s1, x) := s1.acquireAt x (scopeOf f.rs)
                some (s1.put x)
              | none => some s1
            else some s1
          | (.fault c, s1) => some (s1.resolveElem u tag fibre (.fault c el.ea) none)
          | (.page va, s1) =>
            if x.failedPageFor (.load u.who tag fibre) va then some (s1.resolveElem u tag fibre (.fault cause.pageRequestFailed el.ea) (some va))
            else some (s1.keepReplay u tag fibre va)
          | (.order, _) => some (s.setWaits u tag fibre .order)
          | (.hold, _) => none

/-- Resolve an await record with what arrived (R349). -/
def State.resolveAwait (s : State) (u : UnitRef) (tag : BitVec 6) (fibre : Nat) (got : Option Arrival) : State :=
  match s.site? u with
  | none => s
  | some x =>
    match (x.heat.flights.find? fun f => f.tag = tag).bind fun f => f.elems.find? fun el => el.fibre = fibre with
    | none => s
    | some el =>
      match got with
      | some (.fault c) => s.resolveElem u tag fibre (.fault c el.ea) none
      | _ => s.resolveElem u tag fibre el.deliv none

/-- Step 3 of R348: the records in their order. -/
def State.resolveFrame (s : State) : List FrameRec → Option State
  | [] => some s
  | .replay u tag i :: r => (s.replay u tag i).bind fun s => s.resolveFrame r
  | .await u tag i got :: r => (s.resolveAwait u tag i got).resolveFrame r

/-- A team that is about to run takes the BUDGET_OVERRUN that its meet owes it, once (R337). -/
def State.owedBudget (s : State) (t : Team) : Team :=
  if ((s.meet? t.meet).map Meet.graced).getD false ∧ t.budgetTrap = false then
    { t.defer { cause := cause.budgetOverrun, inner := 0, pc := 0, info := 0, src := none } with budgetTrap := true }
  else t

/-- Restore a team on the cluster of its save: none while it cannot be (R334, R348). -/
def State.restoreTeam (s : State) (t : Team) : Option State :=
  match s.cluster? t.cl, s.die? t.cl.die with
  | some c, some d =>
    if (d.power = .active ∧ d.offline = false ∧ d.closing = false) ∧ (d.clusPl[t.cl.loc]?).join.isSome ∧ s.tracksFit t ∧ t.accrows ≤ s.rowsFree t.cl ∧ s.pacerFree t ∧ c.chansFree t then
      (s.provision t).bind fun (s, t) => (s.putFifos t.cl t.fifos).bind fun s =>
        match s.cluster? t.cl with
        | none => none
        | some c =>
          let s := (s.takePacer t).updCluster t.cl fun c => c.putChans t
          let recs := t.frame
          let s := (s.setTeam (s.owedBudget { (t.unframed s c) with frame := [] })).seat t.id t.seating
          (s.resolveFrame recs).map fun s => s.creditMisses t.id
    else none
  | _, _ => none

/-- CONTEXT_RESTORE (R334, R348): the team whose turn it is among those of its partition, once its resources fit. DESIGN CHOICE: of two saved teams of a
meet with one index on the partition, that of the lower field comes first (log entry 87). -/
def execContextRestore (team : Nat) (s : State) : Out :=
  match s.team? team with
  | none => .next s
  | some t =>
    match s.meet? t.meet with
    | none => .next s
    | some m =>
      let part := ((m.fields[t.field]?).map Field.part).getD 0
      let partAt (f : Nat) : Nat := ((m.fields[f]?).map Field.part).getD 0
      let earlier := s.teams.any fun o =>
        decide (o.meet = t.meet ∧ partAt o.field = part ∧ (o.index < t.index ∨ (o.index = t.index ∧ o.field < t.field))) && s.restorable o
      if s.restorable t ∧ m.live ∧ s.firstOn m part ∧ earlier = false then
        match s.restoreTeam t with
        | some s => .next s
        | none => .next s
      else .next s

/-- What an await record receives: the value of the access, zero-extended from its type, or the fault that it met, or EXPANDER_LOST (R349, Table 22.5). -/
def arrivedAs (ty : Ty) (d : Deliv) (v : Arrival) : Arrival :=
  if v = .fault cause.expanderLost then v
  else
    match d with
    | .fault c _ => .fault c
    | .words ws => .value (dw (((ws.getD 0 0).toNat + 2 ^ 32 * (ws.getD 1 0).toNat) % 2 ^ (if ty = .q then 32 else ty.bits)))

/-- AWAIT_VALUE_ARRIVAL (R349): it is written into the frame. -/
def execAwaitValueArrival (u : UnitRef) (tag : BitVec 6) (fibre : Nat) (v : Arrival) (s : State) : Out :=
  match s.site? u with
  | none => .next s
  | some x =>
    match (x.heat.flights.find? fun f => f.tag = tag).bind fun f => (f.elems.find? fun el => el.fibre = fibre).map fun el => (f, el) with
    | none => .next s
    | some (f, el) =>
      let t := { x.team with frame := x.team.frame.map fun r => match r with
        | .await w t i none => if w = u ∧ t = tag ∧ i = fibre then .await w t i (some (arrivedAs f.ty el.deliv v)) else r
        | _ => r }
      .next ((s.setTeam t).writeFrame t)

/-! ### Contexts (R345, R346, R369) -/

/-- Empty the key slots that a test names; their sessions end at their expanders (R369). -/
def State.endSessions (s : State) (p : Nat → KeySlot → Bool) : State :=
  let gone := s.dies.zipIdx.flatMap fun (d, i) => d.keys.filterMap fun k => k.bind fun k => if p i k then some (k.expander, k.session) else none
  { s with
    dies := s.dies.zipIdx.map fun (d, i) => { d with keys := d.keys.map fun k => k.filter fun k => !p i k }
    beyond := s.beyond.zipIdx.map fun (e, i) => { e with live := e.live.filter fun l => (i, l.id) ∉ gone } }

/-- Kill a context (R345): its generation rises, its frames are freed, its meets complete ABORTED. -/
def State.killCtx (s : State) (ctx : Nat) : State :=
  match s.ctx? ctx with
  | none => s
  | some c =>
    let s := (s.setCtx { c with gen := c.gen + 1, killed := true }).endSessions fun _ k => k.ctx = ctx
    (s.openMeets ctx).foldl (fun s m => s.terminate m.id .aborted 0) s

/-- CONTEXT_KILL (R345). -/
def execContextKill (ctx : Nat) (s : State) : Out := .next (s.killCtx ctx).askEverywhere

/-- FRAME_POOL_REGISTER (R346): a pool of a context in the physical memory of a die. -/
def opFramePoolRegister (ctx : Nat) (die : Nat) (base : Nat) (bytes : Nat) (s : State) : Out :=
  match s.ctx? ctx with
  | some c =>
    if die < s.dies.length ∧ 2 ^ 41 * die ≤ base ∧ base + bytes ≤ 2 ^ 41 * die + s.ownBytes then
      .next (s.setCtx { c with pools := c.pools ++ [{ die := die, base := base, size := bytes }] })
    else .next s
  | none => .next s

/-- The command (R346). -/
def execFramePoolRegister (ctx : Nat) (die : Nat) (range : PhysRange) (s : State) : Out := opFramePoolRegister ctx die range.base range.size s

end Sys2Proof.Machine
end

