-- ==== Sys2Proof/Machine/Admission.lean ====
section
/-!
DEFINITION. Queues, admission and tokens (R321 to R333, R338), tenants and partitions (R30, R328, R331).
-/

namespace Sys2Proof.Machine

/-! ### Queues (R321, R324) -/

/-- What the driver may say of a queue (R321). -/
def State.queueOk (s : State) (d : QueueDesc) : Bool :=
  decide (d.vf < 64 ∧ d.index < 64 ∧ 4 ≤ d.n ∧ d.n ≤ 16 ∧ d.base % (128 * 2 ^ d.n) = 0 ∧ d.base < 2 ^ 56 ∧ d.head % 8 = 0 ∧ d.head < 2 ^ 56 ∧
    d.home < s.dies.length)

/-- QUEUE_DESCRIBE (R321): the queue is empty, its indices 0. -/
def execQueueDescribe (q : Nat) (desc : QueueDesc) (s : State) : Out :=
  if s.queueOk desc = false then .next (s.tell (.command cause.protection))
  else
    let v : Queue := { id := q, desc := desc, head := 0, tail := 0, errors := 0, noted := none, cand := none, revoked := false, server := s.serverOf desc.home }
    .next (({ s with queues := v :: s.queues.filter fun o => o.id ≠ q ∧ ¬ (o.desc.vf = desc.vf ∧ o.desc.index = desc.index) } : State).tell (.command 0))

/-- TAIL_REGISTER_STORE (R324): a 4-byte store; at a block that holds no queue it changes and counts nothing. -/
def execTailRegisterStore (vf : Nat) (index : Nat) (v : Word) (s : State) : Out :=
  match s.queueAt vf index with
  | some q => .next (s.setQueue (q.putTail v))
  | none => .next s

/-- NOTIFY_PAGE_OTHER_STORE (R324): counted in the queue whose 64-byte block it falls into. -/
def execNotifyPageOtherStore (vf : Nat) (offset : Nat) (width : Nat) (s : State) : Out :=
  match s.queueAt vf (offset / 64) with
  | some q => if offset % 64 = 0 ∧ width = 4 then .next s else .next (s.setQueue { q with errors := q.errors + 1 })
  | none => .next s

/-! ### Reading entries and descriptors (R322, R325, R326, R181, R339) -/

/-- Bytes read by a schedule core in a context, an acquire at .sy, page by page, in at most k pages: what fails when translation, permission or class does. -/
def State.cpBytes (s : State) (die ctx va n : Nat) : Nat → Except Bad (List Byte × State)
  | 0 => .ok ([], s)
  | k + 1 =>
    if n = 0 then .ok ([], s)
    else
      let m := min n (4096 - va % 4096)
      match s.cpReach die ctx va .load .ordered with
      | .error b => .error b
      | .ok h =>
        if s.poisoned (h.phys va) m then .error (.late cause.poison)
        else
          let (bs, s) := s.homeRead (h.phys va) m
          (s.cpBytes die ctx (va + m) (n - m) k).map fun r => (bs ++ r.1, r.2)

/-- The number that n bytes hold. -/
def State.cpRead (s : State) (die ctx va n : Nat) : Except Bad (Nat × State) :=
  (s.cpBytes die ctx va n (n / 4096 + 2)).map fun r => (leNat r.1, r.2)

/-- What is read is malformed, or cannot be read (ADM_MALFORMED). -/
def unread : Bad := .early cause.illegal

/-- Bytes k to k + n - 1 of a number that holds bytes. -/
def bytesOf (v k n : Nat) : Nat := bitsOf v (8 * k) (8 * n)

/-- A global address with an alignment. -/
def goodAddr (a n : Nat) : Bool := decide (a < 2 ^ 56 ∧ a % n = 0)

/-- A kernel table entry as part of a field (R181): none when it is malformed. -/
def parseKernel (k : Nat) (f : Field) : Option Field :=
  let regs := bytesOf k 12 1
  let pe := bytesOf k 8 4
  if bytesOf k 24 8 ≠ 0 ∨ 1 < bytesOf k 13 1 ∨ regs < 32 ∨ 128 < regs ∨ regs % 16 ≠ 0 ∨ 2048 < bytesOf k 14 2 ∨ (f.text + bytesOf k 4 4) % 4 ≠ 0 ∨
      (pe ≠ 0xFFFFFFFF ∧ (f.text + pe) % 4 ≠ 0) then none
  else some { f with
    entry := f.text + bytesOf k 4 4
    pentry := if pe = 0xFFFFFFFF then none else some (f.text + pe)
    regs := regs, xregs := bytesOf k 13 1 = 1, accrows := bytesOf k 14 2, scratch := bytesOf k 16 4, cshared := bytesOf k 20 4 }

/-- A field record (Table 20.3), its kernel entry aside. -/
def parseField (r : Nat) : Option Field :=
  let ps := bytesOf r 36 4
  if bytesOf r 40 24 ≠ 0 ∨ bytesOf r 32 4 ≠ 0 ∨ ps % 16 ≠ 0 ∨ 65536 < ps ∨ goodAddr (bytesOf r 24 8) 64 = false ∨
      goodAddr (bytesOf r 16 8) 1 = false ∨ goodAddr (bytesOf r 8 8) 1 = false ∨ 63 < bytesOf r 4 1 ∨
      bytesOf r 5 1 < 1 ∨ 4 < bytesOf r 5 1 ∨ bytesOf r 6 1 < 1 ∨ 16 < bytesOf r 6 1 ∨ bytesOf r 7 1 < 1 ∨ 32 < bytesOf r 7 1 then none
  else some { part := bytesOf r 4 1, teams := bytesOf r 0 4 + 1, squads := bytesOf r 5 1, heats := bytesOf r 6 1, fibres := bytesOf r 7 1,
              text := bytesOf r 16 8, privbase := bytesOf r 24 8, ps := ps, entry := 0, pentry := none, regs := 0, xregs := false, accrows := 0,
              scratch := 0, cshared := 0, handed := 0, handouts := [], placed := 0, completed := 0 }

/-- The fields of a descriptor from field k on, with their kernel entries. -/
def State.readFields (s : State) (die ctx a k : Nat) : Nat → Except Bad (List Field × State)
  | 0 => .ok ([], s)
  | n + 1 =>
    match s.cpRead die ctx (a + 64 + 64 * k) 64 with
    | .error b => .error b
    | .ok (r, s) =>
      match parseField r with
      | none => .error unread
      | some f =>
        match s.cpRead die ctx (bytesOf r 8 8) 32 with
        | .error b => .error b
        | .ok (e, s) =>
          match parseKernel e f with
          | none => .error unread
          | some f => (s.readFields die ctx a (k + 1) n).map fun p => (f :: p.1, p.2)

/-- The argument block and the fields of a meet descriptor, unless it cannot be read or is malformed (R326, R62). -/
def State.readMeet (s : State) (die ctx a : Nat) : Except Bad (Nat × List Field × State) :=
  match s.cpRead die ctx a 64 with
  | .error b => .error b
  | .ok (h, s) =>
    if bytesOf h 9 55 ≠ 0 ∨ bytesOf h 8 1 < 1 ∨ 8 < bytesOf h 8 1 ∨ 2 ^ 32 ≤ bytesOf h 0 8 then .error unread
    else (s.readFields die ctx a 0 (bytesOf h 8 1)).map fun p => (bytesOf h 0 8, p.1, p.2)

/-- An entry that meets the first check of Table 20.4 (R322). -/
def entryOk (v : Nat) : Bool :=
  decide (bytesOf v 40 88 = 0 ∧ bytesOf v 5 3 = 0 ∧ bytesOf v 4 1 = 1 ∧ bytesOf v 14 2 = 0 ∧ bytesOf v 22 2 = 0 ∧ bytesOf v 8 6 ≠ 0 ∧ bytesOf v 16 6 ≠ 0) &&
    goodAddr (bytesOf v 24 8) 64 && goodAddr (bytesOf v 32 8) 8

/-! ### The checks (R327 to R329) -/

/-- Partitions that a meet names. -/
def Meet.parts (m : Meet) : List Nat := (m.fields.map Field.part).dedup

/-- Teams of a meet, and those of its fields on a partition. -/
def Meet.teamCount (m : Meet) : Nat := (m.fields.map Field.teams).sum
def Meet.teamsOn (m : Meet) (p : Nat) : Nat := ((m.fields.filter fun f => f.part = p).map Field.teams).sum

/-- The weight of a meet on a partition (R328). -/
def Meet.weight (m : Meet) (p : Nat) : Rat := (m.teamsOn p : Rat) / (m.teamCount : Rat)

/-- A team shape fits on an empty cluster (R42, R106). -/
def Field.fits (f : Field) : Bool :=
  decide (f.scratch * f.squads + f.cshared ≤ 12 * bankSize) && (List.range 4).all fun k =>
    let u := squadUse (List.range f.heats) f.heats f.regs f.xregs k
    decide (u.slots ≤ 16 ∧ u.bytes ≤ 131072)

/-- Enabled clusters of a partition. -/
def State.clustersOf (s : State) (p : Partition) : List ClusterRef :=
  let all := if p.whole then p.dies.flatMap fun d => (List.range 24).map fun l => { die := d, loc := l : ClusterRef } else p.locs
  all.filter fun c => ((s.die? c.die).bind fun d => (d.clusPl[c.loc]?).join).isSome

/-- The capacity of a partition: as the hypervisor set it, else 48,000 for each of its enabled clusters (R328). -/
def State.capOf (s : State) (p : Partition) : Nat := p.cap.getD (48000 * (s.clustersOf p).length)

/-- Checks 7, 4, 5 and the bound of 3 of Table 20.4, in their order: the code of the first that fails. -/
def State.admitEarly (s : State) (m : Meet) : Option Nat :=
  let revoked := ((s.tenant? m.tenant).map Tenant.revoked).getD true || ((s.ctx? m.ctx).map Context.killed).getD true ||
    ((s.queue? m.queue).map Queue.revoked).getD (m.task.isNone)
  if revoked then some 7
  else if m.parts.any fun p => (s.partOf p).isNone || ((s.tenant? m.tenant).map fun t => decide (p ∉ t.parts)).getD true then some 4
  else if m.fields.any fun f => !f.fits || ((s.partOf f.part).map fun p => (s.clustersOf p).isEmpty).getD true then some 5
  else if m.deadline < 4000 then some 3
  else none

/-- A meet counts on a partition at a keeper: admitted and uncompleted, or a candidate that the keeper has a reservation of (R329). -/
def Meet.countsAt (m : Meet) (keeper : Nat) : Bool :=
  match m.st with
  | .admitted => true
  | .launched => true
  | .terminated _ _ => true
  | .deciding => m.dls.any fun k => k.keeper = keeper
  | .completed => false

/-- BC per microsecond that a meet demands of a partition, with `left` nanoseconds to go. -/
def Meet.demandOn (m : Meet) (p : Nat) (left : Int) : Rat := m.weight p * (((m.budget : Int) - (m.reported : Int) : Int) : Rat) * 1000 / (left : Rat)

/-- The two tests of R329 for the partitions that a keeper keeps, with the candidate's time left: 0, 3 (feasibility) or 2 (utilisation). -/
def State.keeperTest (s : State) (m : Meet) (keeper : Nat) (left : Int) : Nat :=
  let mine := m.parts.filter fun p => s.keeperOf p = keeper
  let cap (p : Nat) : Rat := (((s.partOf p).map s.capOf).getD 0 : Nat)
  let lim (p : Nat) : Rat := (((s.partOf p).map Partition.util).getD 0 : Nat) / 100
  let others (p : Nat) : Rat := ((s.meets.filter fun n => n.id ≠ m.id ∧ p ∈ n.parts ∧ n.countsAt keeper ∧ 0 < s.timeLeft n keeper).map fun n =>
    n.demandOn p (s.timeLeft n keeper)).sum
  if left ≤ 0 ∨ mine.any fun p => decide (cap p < m.demandOn p left) then 3
  else if mine.any fun p => decide (lim p * cap p < others p + m.demandOn p left) then 2
  else 0

/-- The keepers that a meet names. -/
def State.keepersOf (s : State) (m : Meet) : List Nat := (m.parts.map s.keeperOf).dedup

/-- The margin of R330 for clock rates and transit. -/
def dlMargin (deadline : Nat) : Int := 2000 + ceilDiv deadline 25000

/-! ### Tokens (R331 to R333) -/

/-- An admitted meet deducts its budget from the tenant's tokens, or borrows what is lacking from the pool: none when they do not cover it
(R331, R332). -/
def State.takeTokens (s : State) (m : Meet) : Option State :=
  (s.tenant? m.tenant).bind fun t =>
    let x := m.budget - t.tokens
    if t.debt ≠ 0 then none
    else if m.budget ≤ t.tokens then some (s.setTenant { t with tokens := t.tokens - m.budget })
    else if t.borrow ∧ x ≤ s.pool ∧ x ≤ 4 * t.rate then some ({ s with pool := s.pool - x }.setTenant { t with tokens := 0, debt := x })
    else none

/-! ### Deciding (R325, R327, R329) -/

/-- The head index moves on and is written, a release store at .sy (R325 step 4). DESIGN CHOICE: where the head's address fails its translation, permission
or class, the index moves on and the write is left out, without a record for the host (log entry 85). -/
def State.advanceHead (s : State) (q : Queue) : State :=
  let h := q.head + 1
  let s := s.setQueue { q with head := h, cand := none }
  match s.cpReach q.server q.desc.ctx q.desc.head .store .ordered with
  | .ok hit => s.cpStore q.server hit.cls (hit.phys q.desc.head) (leBytes h.toNat 8)
  | .error .hold =>
    match s.cpPlace q.server q.desc.ctx q.desc.head with
    | some hit => s.cpStore q.server hit.cls (hit.phys q.desc.head) (leBytes h.toNat 8) [] true
    | none => s
  | .error _ => s

/-- Write a rejected meet's signal or a rejected task's flag, and forget the meet (R323, R327, R373). -/
def State.reject (s : State) (m : Meet) (code : Nat) : State :=
  let s := match m.task with
    | none => s.signal (s.serverOf m.home) m.queue m.ctx m.signal m.seq false .rejected (BitVec.ofNat 8 code)
    | some (flag, counter) => s.cpStore (s.serverOf m.home) .seq flag (leBytes (counter.toNat * 2 ^ 32 + code * 256 + 2) 8)
  { s with meets := s.meets.filter fun n => n.id ≠ m.id }

/-- A queue's entry is decided: its head index moves on. -/
def State.settleQueue (s : State) (queue : Option Nat) : State :=
  match queue.bind s.queue? with
  | some q => s.advanceHead q
  | none => s

/-- An admitted meet stands behind those admitted before it (R334, R335, R355). -/
def State.enrol (s : State) (m : Meet) : State := { s with meets := (s.meets.filter fun n => n.id ≠ m.id) ++ [m] }

/-- Every keeper has answered: the meet is admitted when all accept and the tokens cover the budget, else rejected with the code of the
check that stands earliest in Table 20.4 (R327, R329). -/
def State.conclude (s : State) (m : Meet) (codes : List Nat) (queue : Option Nat) : State :=
  match s.admitEarly m with
  | some c => (s.reject m c).settleQueue queue
  | none =>
    if 3 ∈ codes then (s.reject m 3).settleQueue queue
    else if 2 ∈ codes then (s.reject m 2).settleQueue queue
    else
      match s.takeTokens m with
      | none => (s.reject m 1).settleQueue queue
      | some s => (s.enrol { m with st := .admitted }).settleQueue queue

/-- The home die's own deadline and its own test (R329, R330). -/
def State.homeAnswer (s : State) (m : Meet) : List (Nat × Nat) :=
  if m.home ∈ s.keepersOf m then [(m.home, s.keeperTest m m.home (s.timeLeft m m.home))] else []

/-- Begin the decision of a meet that has passed the early checks. -/
def State.beginRound (s : State) (m : Meet) (q : Queue) : State :=
  let m := { m with dls := (m.dls.filter fun k => k.keeper = m.home), rhos := [] }
  let s := s.setMeet m
  let got := s.homeAnswer m
  if (s.keepersOf m).all fun k => k = m.home then s.conclude m (got.map Prod.snd) (some q.id)
  else s.setQueue { q with cand := some { meet := m.id, asked := [], answered := got } }

/-- A new meet from an entry's bytes, as it is read (R325 step 3). -/
def State.newMeet (s : State) (q : Queue) (v args : Nat) (fs : List Field) : Meet :=
  let t0 := s.clockOf q.server
  { id := s.nextId, ctx := q.desc.ctx, queue := q.id, tenant := q.desc.tenant, seq := q.head, signal := bytesOf v 32 8, args := args,
    budget := bytesOf v 16 6, deadline := bytesOf v 8 6, t0 := t0, home := q.desc.home, st := .deciding, fields := fs,
    dls := [{ keeper := q.desc.home, on := q.server, dl := ((t0 + bytesOf v 8 6 : Nat) : Int), commit := true }], sums := [], reports := [], graced := false, late := false,
    mute := false, task := none }

/-- Read the slot at the head index, and decide a published entry (R325). -/
def State.consume (s : State) (q : Queue) : State :=
  let slot := q.desc.base + 128 * (q.head.toNat % 2 ^ q.desc.n)
  if q.head = q.tail ∨ q.cand.isSome then s
  else
    match s.cpRead q.server q.desc.ctx slot 128 with
    | .error .hold => s
    | .error _ => if q.noted = some q.head then s else (s.setQueue { q with noted := some q.head }).tell (.headFailure q.id)
    | .ok (v, s) =>
      if bytesOf v 0 4 ≠ q.head.toNat then s
      else
        match (if entryOk v then s.readMeet q.server q.desc.ctx (bytesOf v 24 8) else .error unread) with
        | .error .hold => s
        | .error _ =>
          let m := s.newMeet q v 0 []
          (({ s with nextId := s.nextId + 1 } : State).reject m 6).advanceHead q
        | .ok (args, fs, s) =>
          let m := s.newMeet q v args fs
          let s := { s with nextId := s.nextId + 1, meets := s.meets ++ [m] }
          match s.admitEarly m with
          | some c => (s.reject m c).advanceHead q
          | none => s.beginRound m q

/-- ENTRY_CONSUME (R325). -/
def execEntryConsume (q : Nat) (s : State) : Out :=
  match s.queue? q with
  | some v => .next (s.consume v)
  | none => .next s

/-- ENTRY_REREAD (R325): an unpublished slot is read again. -/
def execEntryReread (q : Nat) (s : State) : Out :=
  match s.queue? q with
  | some v => .next (s.consume v)
  | none => .next s

/-- A queue's candidate with its meet. -/
def State.candidate (s : State) (q : Nat) : Option (Queue × Cand × Meet) :=
  (s.queue? q).bind fun v => v.cand.bind fun c => (s.meet? c.meet).map fun m => (v, c, m)

/-- The time that the home die of a meet reads on its clock. -/
def State.homeTime (s : State) (m : Meet) : Nat := s.clockOf (s.serverOf m.home)

/-- RESERVATION_REQUEST (R329, R330): the home die sends the deadline less the time elapsed on its clock since t0; the keeper places the provisional
deadline on its own clock and tests, and its answer is a reservation. -/
def execReservationRequest (q : Nat) (meet : Nat) (keeper : Nat) (s : State) : Out :=
  match s.candidate q with
  | none => .next s
  | some (v, c, m) =>
    if c.meet ≠ meet ∨ keeper ∉ s.keepersOf m ∨ keeper = m.home ∨ c.answered.any (fun p => p.1 = keeper) then .next s
    else
      let left : Int := (m.deadline : Int) - ((s.homeTime m : Int) - (m.t0 : Int))
      let dp : Int := left - 10000 - dlMargin m.deadline
      let code := s.keeperTest m keeper dp
      let m := { m with dls := m.dls ++ [{ keeper := keeper, on := s.serverOf keeper, dl := (s.clockOf (s.serverOf keeper) : Int) + dp, commit := false }] }
      .next ((s.setMeet m).setQueue { v with cand := some { c with asked := (keeper, s.homeTime m) :: c.asked, answered := c.answered ++ [(keeper, code)] } })

/-- RESERVATION_ANSWER (R329, R330): the home die measures the round trip on its own clock; an answer slower than 10 microseconds counts as refusal and the
round is repeated; the last answer decides. -/
def execReservationAnswer (q : Nat) (meet : Nat) (keeper : Nat) (s : State) : Out :=
  match s.candidate q with
  | none => .next s
  | some (v, c, m) =>
    match c.asked.find? fun p => p.1 = keeper ∧ c.meet = meet with
    | none => .next s
    | some p =>
      let rho := s.homeTime m - p.2
      if 10000 < rho then .next (s.beginRound m v)
      else
        let c := { c with asked := c.asked.filter fun p => p.1 ≠ keeper }
        let m := { m with rhos := m.rhos ++ [(keeper, rho)] }
        let s := s.setMeet m
        if c.asked = [] ∧ (s.keepersOf m).all (fun k => c.answered.any fun p => p.1 = k) then .next (s.conclude m (c.answered.map Prod.snd) (some q))
        else .next (s.setQueue { v with cand := some c })

/-- RESERVATION_TIMEOUT (R330): an answer is out for more than 10 microseconds; every reservation is released and the whole round repeated. -/
def execReservationTimeout (q : Nat) (s : State) : Out :=
  match s.candidate q with
  | none => .next s
  | some (v, c, m) => if c.asked.any fun p => decide (p.2 + 10000 < s.homeTime m) then .next (s.beginRound m v) else .next s

/-- RESERVATION_COMMIT (R330): a provisional deadline lies 10 microseconds before what it would be with no round trip; the commit takes the measured
round trip in their place. -/
def execReservationCommit (q : Nat) (meet : Nat) (keeper : Nat) (s : State) : Out :=
  match s.meet? meet with
  | none => .next s
  | some m =>
    match m.rhos.find? fun p => p.1 = keeper with
    | none => .next s
    | some p =>
      if m.live = false ∨ m.queue ≠ q then .next s
      else .next (s.setMeet { m with dls := m.dls.map fun k =>
        if k.keeper = keeper ∧ k.commit = false then { k with dl := k.dl + 10000 - p.2, commit := true } else k })

/-- RESERVATION_RELEASE (R329): a keeper forgets the reservation of a candidate. -/
def execReservationRelease (q : Nat) (keeper : Nat) (s : State) : Out :=
  match s.candidate q with
  | none => .next s
  | some (v, c, m) =>
    if keeper = m.home then .next s
    else .next ((s.setMeet { m with dls := m.dls.filter fun k => k.keeper ≠ keeper }).setQueue
      { v with cand := some { c with asked := c.asked.filter (fun p => p.1 ≠ keeper), answered := c.answered.filter fun p => p.1 ≠ keeper } })

/-! ### Laps, tenants and partitions (R30, R328, R331, R332) -/

/-- A tenant's refill at a lap boundary (R331). -/
def Tenant.refill (t : Tenant) : Tenant :=
  let r := min t.debt t.rate
  { t with debt := t.debt - r, tokens := min (t.tokens + t.rate - r) t.rate }

/-- Admitted and not completed: a terminated meet whose teams still stop is one as well (R329, R332). -/
def Meet.uncompleted (m : Meet) : Bool :=
  match m.st with
  | .deciding => false
  | .admitted => true
  | .launched => true
  | .terminated _ _ => true
  | .completed => false

/-- A tenant lends its tokens: its flag is set, and it holds no admitted uncompleted meet and no unconsumed entry (R332). -/
def State.lends (s : State) (t : Tenant) : Bool :=
  t.lend && !(s.meets.any fun m => decide (m.tenant = t.id) && m.uncompleted) && !(s.queues.any fun q => decide (q.desc.tenant = t.id ∧ q.head ≠ q.tail))

/-- LAP_BOUNDARY (R331, R332): the hub die clock has reached the boundary. -/
def execLapBoundary (s : State) : Out :=
  if s.hubClock < s.nextLap then .next s
  else
    let ts := s.tenants.map Tenant.refill
    let lent := ((ts.filter s.lends).map Tenant.tokens).sum
    .next { s with
      tenants := ts.map fun t => if s.lends t then { t with tokens := 0 } else t
      pool := lent, lapNs := s.lapNew, nextLap := s.nextLap + s.lapNew }

/-- LAP_LENGTH_SET (R331): from 100 microseconds to 100 ms, in effect at the next boundary. -/
def execLapLengthSet (us : Nat) (s : State) : Out :=
  if 100 ≤ us ∧ us ≤ 100000 then .next ({ s with lapNew := 1000 * us }.tell (.command 0)) else .next (s.tell (.command cause.protection))

/-- TENANT_RECORD_SET (R331): a tenant that is new has no tokens until the next lap boundary (log entry 4). -/
def execTenantRecordSet (tenant : Nat) (rate : Nat) (policy : Policy) (lend : Bool) (borrow : Bool) (s : State) : Out :=
  match s.tenant? tenant with
  | some t => .next (s.setTenant { t with rate := rate, policy := policy, lend := lend, borrow := borrow })
  | none =>
    let t : Tenant := { id := tenant, rate := rate, tokens := 0, debt := 0, policy := policy, lend := lend, borrow := borrow, parts := [], revoked := false }
    .next { s with tenants := s.tenants ++ [t] }

/-- Set a partition, a new one with its defaults (R328). DESIGN CHOICE: one whose clusters are configured anew has them again, whatever capacity and limit
the hypervisor had set (log entry 86). -/
def State.putPart (s : State) (part : Nat) (locs : List ClusterRef) (whole : Bool) (ds : List Nat) : State :=
  let p : Partition := { id := part, locs := locs, whole := whole, dies := ds, cap := none, util := 90 }
  { s with parts := p :: s.parts.filter fun o => o.id ≠ part }

/-- Change a partition that exists. -/
def State.updPart (s : State) (part : Nat) (f : Partition → Partition) : State :=
  { s with parts := s.parts.map fun p => if p.id = part then f p else p }

/-- PARTITION_CONFIG (R30, R328): clusters of one die or whole dies, capacity, limit, or a grant; a partition that a live meet names keeps its
clusters. -/
def execPartitionConfig (part : Nat) (cmd : PartCmd) (s : State) : Out :=
  let used := s.meets.any fun m => m.live && m.parts.any fun p => (s.partPl[p]?).join = some part
  match cmd with
  | .clusters die locs =>
    if used ∨ s.dies.length ≤ die ∨ locs.any (fun l => 24 ≤ l) then .next (s.tell (.command cause.protection))
    else .next (s.putPart part (locs.dedup.map fun l => { die := die, loc := l }) false [die])
  | .dies ds =>
    if used ∨ ds.any (fun d => s.dies.length ≤ d) then .next (s.tell (.command cause.protection)) else .next (s.putPart part [] true ds.dedup)
  | .capacity c => .next (s.updPart part fun p => { p with cap := some c })
  | .limit u => if 50 ≤ u ∧ u ≤ 100 then .next (s.updPart part fun p => { p with util := u }) else .next (s.tell (.command cause.protection))
  | .grant t =>
    match s.tenant? t with
    | some t => .next (s.setTenant { t with parts := if part ∈ t.parts then t.parts else t.parts ++ [part] })
    | none => .next (s.tell (.command cause.protection))

/-- TENANT_REVOKE (R327, R338): the host revokes a tenant, or one of its queues: their meets end ABORTED. -/
def execTenantRevoke (tenant : Nat) (queue : Option Nat) (s : State) : Out :=
  match queue with
  | none =>
    match s.tenant? tenant with
    | none => .next s
    | some t =>
      let s := s.setTenant { t with revoked := true }
      .next ((s.meets.filter fun m => m.tenant = tenant ∧ m.live).foldl (fun s m => s.terminate m.id .aborted 0) s)
  | some q =>
    match s.queue? q with
    | none => .next s
    | some v =>
      let s := s.setQueue { v with revoked := true }
      .next ((s.meets.filter fun m => m.queue = q ∧ m.live ∧ m.task = none).foldl (fun s m => s.terminate m.id .aborted 0) s)

end Sys2Proof.Machine
end

