-- ==== Sys2Proof/Machine/Fetch.lean ====
section
/-!
DEFINITION. What `step` adds around an instruction: which unit issues which batch (R29, R34, R35, R39, R352), fetching and
decoding (R151, R167, R342), the passing of time (R13, R14), and placing one program for a look at one instruction.
-/

namespace Sys2Proof.Machine

/-! ### Who issues -/

/-- The fibre is runnable (R34, R37). -/
def Fibre.runnable (f : Fibre) : Bool := f.waitOn.isNone

/-- The PC of the fibre in a slot when it is runnable. -/
def Heat.runPc (h : Heat) (i : Nat) : Option Pc := (h.fibre? i).bind fun f => if f.runnable then some f.pc else none

/-- The batch at a PC (R34). -/
def Heat.batchAt (h : Heat) (pc : Pc) : List Nat := (List.range 32).filter fun i => h.runPc i = some pc

/-- The issue slot at which a batch last issued: that of the fibre that issued last. -/
def Heat.lastOf (h : Heat) (is : List Nat) : Nat := is.foldl (fun m i => max m (((h.fibre? i).map Fibre.last).getD 0)) 0

/-- The PCs of the batches that may issue: while a fibre of the heat is in handler state, those that hold one (R352). -/
def Heat.openPcs (h : Heat) : List Pc :=
  let pcs := ((List.range 32).filterMap h.runPc).dedup
  if h.inHandler then pcs.filter fun pc => (h.batchAt pc).any fun i => ((h.fibre? i).map Fibre.handler).getD false else pcs

/-- The batch that a heat issues: the aged batch that has waited longest, else the one with the lowest PC (R35). DESIGN CHOICE: of aged batches that
last issued in the same slot, as after a split, the one that holds the lowest fibre slot goes first (log entry 73). -/
def Heat.nextBatch (h : Heat) : Option (List Nat) :=
  let bs := h.openPcs.map h.batchAt
  let aged := bs.filter fun b => 128 ≤ h.issued - h.lastOf b
  match leastBy h.lastOf aged with
  | some b => some b
  | none => (leastBy BitVec.toNat h.openPcs).map h.batchAt

/-- The units of a team that may issue: its active heats and its pacer, all of them resident (R29, R39). -/
def Team.units (t : Team) : List Site :=
  let hs := t.heats.filterMap fun h =>
    if h.active ∧ h.openPcs ≠ [] then some { u := { team := t.id, who := .heat h.squad h.idx }, team := t, heat := h } else none
  let ps := match t.pacer with
    | some h => if h.openPcs ≠ [] then [{ u := { team := t.id, who := .pacer }, team := t, heat := h }] else []
    | none => []
  hs ++ ps

/-- The units of the device that may issue. -/
def State.units (s : State) : List Site :=
  s.teams.flatMap fun t => if t.st = .resident ∧ s.runsOn t.cl.die then t.units else []

/-- No attempt since something last changed (log entry 11). -/
def Heat.fresh (h : Heat) : Heat := { h with tried := false }

/-- Every unit may be tried again. -/
def State.refresh (s : State) : State :=
  { s with teams := s.teams.map fun t =>
      if t.heats.all (fun h => !h.tried) && (t.pacer.map fun h => !h.tried).getD true then t
      else { t with heats := t.heats.map Heat.fresh, pacer := t.pacer.map Heat.fresh } }

/-- Of the units of each lane, the oldest (R39). -/
def oldest (us : List Site) : List Site := us.filter fun x => !(us.any fun y => y.lane = x.lane ∧ y.heat.age < x.heat.age)

/-- The unit whose turn it is: the oldest of a lane that has not been tried since something changed; which lane comes next is
the schedule's (log entries 2 and 11). -/
def State.pick (s : State) : Option Site :=
  let us := s.units
  let fresh := us.filter fun x => !x.heat.tried
  let heads := oldest (if fresh = [] then us else fresh)
  heads[(s.turn + s.choice) % heads.length]?

/-- The lane's turn is taken; when every unit had been tried, all may be tried again. -/
def State.turned (s : State) : State :=
  let s := if s.units.all fun x => x.heat.tried then s.refresh else s
  { s.chosen with turn := s.turn + 1 }

/-! ### Fetching (R151, R342) -/

/-- One word of an instruction, through the unit's TLB; every page must permit execution. DESIGN CHOICE: a fetch reads the home's current bytes, so that a
write to instruction bytes during the team's lifetime is observed from its first fetch on, and reads poisoned bytes as they are (log entry 74). -/
def State.fetchWord (s : State) (x : Site) (pc : Pc) : Except Bad Word :=
  (s.reach x.team.cl.die x.team.ctx x.tlb pc.toNat .exec .plain).map fun h =>
    let bs := (s.homeRead (h.phys pc.toNat) 4).1
    match wordsFrom (match s.pageEntry x.team.ctx h with | some f => deadZero f (pc.toNat - h.base) bs | none => bs) with
    | w :: _ => w
    | [] => 0

/-- n further words. -/
def State.fetchMore (s : State) (x : Site) (pc : Pc) : Nat → Except Bad (List Word)
  | 0 => .ok []
  | n + 1 =>
    match s.fetchWord x pc with
    | .error b => .error b
    | .ok w => (s.fetchMore x (pc + 4) n).map (w :: ·)

/-- Every word of the instruction at a PC. -/
def State.fetch (s : State) (x : Site) (pc : Pc) : Except Bad (List Word) :=
  match s.fetchWord x pc with
  | .error b => .error b
  | .ok w => (s.fetchMore x (pc + 4) (wordsOf w - 1)).map (w :: ·)

/-- The guard that words name, for the trap of an instruction that does not decode: fibres it excludes take none (R53). -/
def guardIn (ws : List Word) : Guard :=
  match ws with
  | w0 :: w1 :: _ => if w0.getLsbD 1 then (guardOf w1).getD .always else .always
  | _ => .always

/-- The kind of a unit. -/
def Site.kind (x : Site) : UnitKind := if x.isPacer then .pacer else .heat

/-- A decode trap: its %tinfo is word 0 (R167, R354). -/
def State.decodeTrap (s : State) (ws : List Word) (c : Byte) : Out :=
  issue (guardIn ws) { uses := [], v0 := false, leader := false } s fun s x is =>
    s.trap x is c (is.headD 0) (s.cur.word0.setWidth 64)

/-- A fetch that fails is reported at the instruction's address (R151). -/
def State.fetchFault (s : State) (x : Site) (b : Bad) : Out :=
  match b with
  | .translation va =>
    let (s, x) := if x.failedPage s.cur.pc va then s.account x else (s, x)
    s.pageFault x s.cur.batch (s.cur.batch.headD 0) va (s.cur.pc.setWidth 64)
  | .early c =>
    let (s, x) := s.account x
    s.trap x s.cur.batch c (s.cur.batch.headD 0) (s.cur.pc.setWidth 64)
  | .late c =>
    let (s, x) := s.account x
    s.trap x s.cur.batch c (s.cur.batch.headD 0) (s.pathInfoAt x s.cur.pc.toNat c (s.cur.pc.setWidth 64))
  | .hold => s.wait x false

/-! ### Time (R13, R14, R318) -/

/-- Nanoseconds that a die's clock counts in a step, by its die identifier (R14). -/
def Pace.of (p : Pace) (die : Nat) : Nat := p.ns.getD die 0

/-- A die after c cycles at S0 and ns nanoseconds: its clock of 64 bits (R14), and, while its clusters run, what its arithmetic clock has of its next
cycle (R395). -/
def Die.tick (d : Die) (c ns : Nat) : Die :=
  if d.power = .off then d
  else { d with clock := (d.clock + ns) % 2 ^ 64, part := if d.runs then (d.part + c * stepRate d.step) % 24 else d.part }

/-- Cycles of a die's arithmetic clock in c cycles at S0; it stands still unless the die's clusters run (R393, R395). -/
def Die.cycles (d : Die) (c : Nat) : Nat := if d.runs then (d.part + c * stepRate d.step) / 24 else 0

/-- The package's clocks advance: arithmetic cycles, counted as at S0, and each die clock that runs by its own count; counter 0 counts the cycles of
resident teams on their dies' arithmetic clocks (R318, R395). Arithmetic clocks stand still while the package is halted (R397). -/
def State.tick (s : State) : State :=
  let c := if s.halted then 0 else s.pace.cycles
  if c = 0 ∧ s.pace.ns.all (· = 0) then s
  else
    { s with
      now := s.now + c
      hubClock := (s.hubClock + s.pace.of hubDie) % 2 ^ 64
      dies := s.dies.zipIdx.map fun (d, i) => d.tick c (s.pace.of i)
      teams := s.teams.map fun t =>
        if t.st = .resident then t.count 0 (((s.die? t.cl.die).map fun d => d.cycles c).getD 0) else t }

/-! ### One turn -/

/-- The unit with its batch at an instruction of given words. -/
def State.at_ (s : State) (u : UnitRef) (batch : List Nat) (pc : Pc) (len : Nat) (w : Word) : State :=
  { s with cur := { u := u, batch := batch, pc := pc, len := len, word0 := w } }

/-- What a turn comes to: it is complete, or an instruction runs in a state. -/
inductive Turn where
  | done (o : Out)
  | run (i : Instr) (s : State)

/-- A LD.acq of the heat has not been performed yet: after a restore it waits for an earlier load of its fibre (R126). -/
def Heat.owesAcquire (h : Heat) : Bool := h.flights.any fun f => f.acq && f.elems.any fun el => decide (el.waits = .order)

/-- Opcodes of the instructions by which a heat itself accesses memory. -/
def accessOps : List (BitVec 7) :=
  [0x28, 0x29, 0x2A, 0x2B, 0x2C, 0x2D, 0x2E, 0x2F, 0x30, 0x31, 0x32, 0x33, 0x34, 0x36, 0x5E, 0x61]

/-- The instruction is an access of the heat, which a LD.acq of the heat orders after itself (R141). -/
def accesses (i : Instr) : Bool :=
  match i.shape with
  | .form m _ => decide (m.op ∈ accessOps)
  | .jump _ _ => false
  | .event => false

/-- Fetch and decode at the PC of a batch (R151, R167); an access behind a LD.acq that has not been performed waits (R141). -/
def State.fetchTurn (s : State) (x : Site) (is : List Nat) : Turn :=
  let pc := (x.heat.runPc (is.headD 0)).getD 0
  match s.fetch x pc with
  | .error b => .done ((s.at_ x.u is pc 4 0).fetchFault x b)
  | .ok ws =>
    let w := ws.headD 0
    match decode x.kind ws with
    | .ok i len => if x.heat.owesAcquire && accesses i then .done ((s.at_ x.u is pc len w).wait x false) else .run i (s.at_ x.u is pc len w)
    | .illegal => .done ((s.at_ x.u is pc (4 * wordsOf w) w).decodeTrap ws cause.illegal)
    | .wrongUnit => .done ((s.at_ x.u is pc (4 * wordsOf w) w).decodeTrap ws cause.wrongUnit)

/-- The trap that is due at the next issue of a batch of a unit (R351). -/
def State.dueNow (s : State) (u : UnitRef) (is : List Nat) : Bool :=
  match s.deliverable u.team with
  | some (_, y, js) => decide (y.u = u ∧ js = is)
  | none => false

/-- The turn of a unit: its batch takes a trap that is due (R351), or fetches. -/
def State.unitTurn (s : State) (u : UnitRef) : Turn :=
  match s.site? u with
  | none => .done (.next s)
  | some x =>
    match x.heat.nextBatch with
    | none => .done (.next s)
    | some is => if s.dueNow u is then .done (.next (s.deliver u.team)) else s.fetchTurn x is

/-- The turn of a unit whose team waits for pages: the team is saved, or, while no frame can be had for it, waits (R342, R346). -/
def State.saveTurn (s : State) (u : UnitRef) : State :=
  let s := s.saveTeam u.team
  if ((s.team? u.team).map Team.st) = some .resident then s.updHeat u fun h => { h with tried := true } else s

/-- The turn of the schedule: the picked unit's, nothing when no unit may issue, a save when the team waits for pages (R342). -/
def State.turnOf (s : State) : Turn :=
  match s.pick with
  | none => .done (.next (s.turned.at_ s.cur.u [] 0 0 0))
  | some x =>
    let s := (s.turned.adoptDue x.team).at_ x.u [] 0 0 0
    if x.team.wantsPages then .done (.next (s.saveTurn x.u)) else s.unitTurn x.u

/-- The steps that go on while the package is halted: the die clocks, the monitors and the root complex run (R397). -/
def runsHalted : Instr → Bool
  | .coldReset => true
  | .temperatureSample _ _ => true
  | .processMonitorSample _ _ => true
  | .voltageDroop _ _ _ => true
  | .monitorRead _ _ => true
  | .monitorThresholdSet _ _ => true
  | _ => false

/-- An event of the agenda comes about: not one of those that a halted package stops. -/
def State.allows (s : State) (i : Instr) : Bool := decide (i.shape = .event) && (!s.halted || runsHalted i)

/-! ### A machine with one program placed (log entry 5) -/

/-- The leaf entry of the page that `placed` maps: readable, writable and executable, 4 KiB, class SEQ. -/
def placedLeaf : Nat := 1 + 2 + 56 + 0x5000

/-- Page tables at 0x1000 to 0x4000 that map virtual page 0 to the page at 0x5000 (R112). -/
def placedTables (m : List Host.Cell) : List Host.Cell :=
  let put (m : List Host.Cell) (a e : Nat) : List Host.Cell := Memory.write m a (leBytes e 16)
  put (put (put (put m 0x1000 (1 + 0x2000)) 0x2000 (1 + 0x3000)) 0x3000 (1 + 0x4000)) 0x4000 placedLeaf

/-- A fibre at address 0 with n slots. -/
def placedFibre (n : Nat) : Fibre :=
  { pc := 0, waitOn := none, win := 0, regs := List.replicate n (.val 0), seed := 0x2545F491, handler := false, epc := 0, last := 0 }

/-- A heat of one fibre. -/
def placedHeat (n : Nat) : Heat :=
  { squad := 0, idx := 0, track := 0, fibres := some (placedFibre n) :: List.replicate 31 none,
    masks := 1 :: List.replicate 11 0, active := true, age := 0, since := 0, sinceAt := 0, run := 0, issued := 0, flights := [], ws := [],
    unacked := 0, arm := none, bars := [], tcause := 0, tpc := 0, tinfo := 0, waiting := false, long := false, tried := false }

/-- Context 0. -/
def placedCtx : Context :=
  { id := 0, pasid := 0, vf := 0, root := 0x1000, root2 := none, tvec := 0, fmts := List.replicate 16 0, gen := 0, killed := false,
    groups := [], held := [], peers := [], pools := [], errlog := [], due := [] }

/-- A field of one team. -/
def placedField (pacer : Bool) : Field :=
  { part := 0, teams := 1, squads := 1, heats := 1, fibres := 1, text := 0, privbase := 0, ps := 0, entry := 0,
    pentry := if pacer then some 0 else none, regs := 128, xregs := false, accrows := 0, scratch := 0, cshared := 0, handed := 1,
    handouts := [], placed := 1, completed := 0 }

/-- A launched meet. -/
def placedMeet (pacer : Bool) : Meet :=
  { id := 0, ctx := 0, queue := 0, tenant := 0, seq := 0, signal := 0, args := 0, budget := 1000, deadline := 1000000, t0 := 0,
    home := 0, st := .launched, fields := [placedField pacer], dls := [], sums := [], reports := [], graced := false, late := false,
    mute := false, task := none }

/-- A resident team: its leader stands at address 0, or its pacer does. -/
def placedTeam (pacer : Bool) : Team :=
  { id := 0, ctx := 0, meet := 0, field := 0, index := 0, slotno := 0, cl := { die := 0, loc := 0 }, cores := [0], st := .resident,
    base := 128, accrows := 0, scratch := 0, cshared := 0, xregs := false, ps := 0, privbase := 0,
    heats := if pacer then [] else [placedHeat 128], pacer := if pacer then some (placedHeat 128) else none, hasPacer := pacer,
    leader := true, scrMem := [[]], scrSegs := [[]], cshMem := [], cshSegs := [], acc := [], awb := 0, awl := 0,
    slots := List.replicate 8 none, queue := [], fenced := false, mxErr := false, counters := List.replicate 8 0, newest := 0, status := [],
    xfers := [], dtraps := [], lost := 0, xsets := [], sqLayer := [[]], tmLayer := [], budgetTrap := false, frame := [], chans := [], fifos := [], pages := [],
    clocks := none, gen := 0 }

/-- The bits of a table row run on the pacer only. -/
def pacerOnly (ws : List Word) : Bool :=
  match decode .heat ws with
  | .wrongUnit => true
  | _ => false

/-- The state with one team placed whose only unit stands at an instruction of the given words. -/
def State.placed (s : State) (ws : List Word) : State :=
  let p := pacerOnly ws
  { s with
    mem := Memory.write (placedTables s.mem) 0x5000 (ws.flatMap wordBytes)
    classes := [], changes := [], tlb := [], ulines := [], wide := [], halted := false
    ctxs := [placedCtx], meets := [placedMeet p], teams := [placedTeam p]
    dies := s.dies.map fun d => { d with power := .active, offline := false, closing := false }
    agenda := [], oracle := [] }

end Sys2Proof.Machine
end

