-- ==== Sys2Proof/Machine/Swaps.lean ====
section
/-!
DEFINITION. The active and pending sets of a track (R39, R40): rotation and swaps.
-/

namespace Sys2Proof.Machine

/-- The pending heats of a track that are ready: some batch of theirs can issue. -/
def State.pendingOn (s : State) (l : Lane) : List Site := (s.trackHeats l).filter fun x => !x.heat.active && x.heat.ready.isSome

/-- A heat leaves the active set for the pending set, as its youngest; counter 5 counts it (R39, R318). -/
def State.leaveActive (s : State) (u : UnitRef) : State :=
  (s.enterPending u).updTeam u.team fun t => t.count 5 1

/-- Swap two heats of a track. -/
def State.swapHeats (s : State) (out inn : Site) : State := (s.leaveActive out.u).enterActive inn.u

/-- The heat that has been longest in its set. -/
def longest (xs : List Site) : Option Site := leastBy (fun x => x.heat.since) xs

/-- FORCED_SWAP (R39): a pending heat that has been ready for 1,024 cycles swaps with the longest-active heat. -/
def opForcedSwap (cl : ClusterRef) (core : Nat) (track : Nat) (s : State) : Out :=
  let l : Lane := { cl := cl, core := some core, track := track }
  match longest ((s.pendingOn l).filter fun x => x.heat.ready.any fun r => r + s.span cl.die 1024 ≤ s.now), longest (s.activeOn l) with
  | some p, some a => .next (s.swapHeats a p)
  | _, _ => .next s

/-- The event while the clusters of the die run (R393, R398). -/
def execForcedSwap (cl : ClusterRef) (core : Nat) (track : Nat) (s : State) : Out := if s.runsOn cl.die then opForcedSwap cl core track s else .next s

/-- A heat that swaps: it waits on a long-latency dependence that has not come to its end, or has no runnable batch at all (R39). -/
def Site.blocked (x : Site) : Bool := (x.heat.long && x.heat.ready.isNone) || x.heat.openPcs.isEmpty

/-- PENDING_SWAP (R39): the oldest ready pending heat takes a free place of the active set, or that of a blocked active heat. DESIGN
CHOICE: of several blocked heats the first in the order of the team list leaves (log entry 72). -/
def opPendingSwap (cl : ClusterRef) (core : Nat) (track : Nat) (s : State) : Out :=
  let l : Lane := { cl := cl, core := some core, track := track }
  match longest (s.pendingOn l) with
  | none => .next s
  | some p =>
    if (s.activeOn l).length < 8 then .next (s.enterActive p.u)
    else
      match (s.activeOn l).find? Site.blocked with
      | some a => .next (s.swapHeats a p)
      | none => .next s

/-- The event while the clusters of the die run (R393, R398). -/
def execPendingSwap (cl : ClusterRef) (core : Nat) (track : Nat) (s : State) : Out := if s.runsOn cl.die then opPendingSwap cl core track s else .next s

/-- ROTATION (R39): a heat that has issued 64 times in a row while another active heat was ready becomes the youngest. -/
def opRotation (cl : ClusterRef) (core : Nat) (track : Nat) (s : State) : Out :=
  let act := s.activeOn { cl := cl, core := some core, track := track }
  match act.find? fun x => 64 ≤ x.heat.run with
  | none => .next s
  | some x =>
    if act.any fun y => y.u ≠ x.u ∧ y.heat.ready.isSome then
      .next (({ s with nextId := s.nextId + 1 } : State).updHeat x.u fun h => { h with age := s.nextId, run := 0 })
    else .next s

/-- The event while the clusters of the die run (R393, R398). -/
def execRotation (cl : ClusterRef) (core : Nat) (track : Nat) (s : State) : Out := if s.runsOn cl.die then opRotation cl core track s else .next s

end Sys2Proof.Machine
end

