-- ==== Sys2Proof/Machine/Placement.lean ====
section
/-!
DEFINITION. Launching meets, handing out and placing teams (R42 to R47, R57, R58, R61, R63, R106), retiring them (R48 to R50), charges and
overrun (R336, R337), and the choice of teams to save (R335, R356).
-/

namespace Sys2Proof.Machine

/-! ### Launch values (R57, R61, R63, R79) -/

/-- The seed at launch (R79). -/
def launchSeed (index : Nat) (v3 : Word) : Word := seedOr (0x2545F491#32 ^^^ wd (index * 0x9E3779B9) ^^^ v3)

/-- A fibre at launch: n slots, with v1 to v4 as Table 5.2 gives them. -/
def launchFibre (entry n args index field : Nat) (v3 : Word) : Fibre where
  pc := BitVec.ofNat 56 entry
  waitOn := none
  win := 0
  regs := [.val 0, .val (wd args), .val (wd index), .val v3, .val (wd field)] ++ List.replicate (n - 5) (.val 0)
  seed := launchSeed index v3
  handler := false
  epc := 0
  last := 0

/-- A heat of the fibres given, not yet active. -/
def freshHeat (squad idx : Nat) (fibres : List (Option Fibre)) : Heat where
  squad := squad
  idx := idx
  track := idx % 4
  fibres := fibres
  masks := wd (2 ^ (fibres.filter Option.isSome).length - 1) :: List.replicate 11 0
  active := false
  age := 0
  since := 0
  sinceAt := 0
  run := 0
  issued := 0
  flights := []
  ws := []
  unacked := 0
  arm := none
  bars := []
  tcause := 0
  tpc := 0
  tinfo := 0
  waiting := false
  long := false
  tried := false

/-- The fibre identity of Table 5.3. -/
def identity (squad heat slot : Nat) : Word := wd (squad * 512 + heat * 32 + slot)

/-- Heat h of squad q of a field's team (R31, R61). -/
def Field.heat (f : Field) (args index field q h : Nat) : Heat :=
  freshHeat q h ((List.range 32).map fun i => if i < f.fibres then some (launchFibre f.entry f.regs args index field (identity q h i)) else none)

/-- The pacer program (R63): one fibre with 128 registers and an identity of ones. -/
def pacerHeat (entry args index field : Nat) : Heat :=
  freshHeat 0 0 (some (launchFibre entry 128 args index field 0xFFFFFFFF) :: List.replicate 31 none)

/-- The extended sets that a team reserves: one for each pair and each heat without a partner, all zero (R58). -/
def Field.xsets (f : Field) : List XSet :=
  if f.xregs = false then []
  else (List.range f.squads).flatMap fun q => ((List.range f.heats).filter fun h => h ^^^ 4 ≥ f.heats ∨ h < h ^^^ 4).map fun h =>
    { squad := q, low := pairLow h, holder := none, waiter := none, regs := List.replicate 32 (List.replicate 128 (.val 0)) }

/-- Team `index` of field `k` of a meet as it starts on a cluster (R45, R61, R106). -/
def newTeam (m : Meet) (k : Nat) (f : Field) (id index slotno : Nat) (cl : ClusterRef) (cores : List Nat) : Team where
  id := id
  ctx := m.ctx
  meet := m.id
  field := k
  index := index
  slotno := slotno
  cl := cl
  cores := cores
  st := .resident
  base := f.regs
  accrows := f.accrows
  scratch := f.scratch
  cshared := f.cshared
  xregs := f.xregs
  ps := f.ps
  privbase := f.privbase
  heats := (List.range f.squads).flatMap fun q => (List.range f.heats).map fun h => f.heat m.args index k q h
  pacer := f.pentry.map fun e => pacerHeat e m.args index k
  hasPacer := f.pentry.isSome
  leader := true
  scrMem := List.replicate f.squads []
  scrSegs := List.replicate f.squads []
  cshMem := []
  cshSegs := []
  acc := []
  awb := 0
  awl := f.accrows
  slots := List.replicate 8 none
  queue := []
  fenced := false
  mxErr := false
  counters := List.replicate 8 0
  newest := 0
  status := []
  xfers := []
  dtraps := []
  lost := 0
  xsets := f.xsets
  sqLayer := List.replicate f.squads []
  tmLayer := []
  budgetTrap := false
  frame := []
  chans := []
  fifos := []
  pages := []
  clocks := none
  gen := 0

/-! ### Placement (R42, R43, R45, R46, R101) -/

/-- A free private slot number of a field (R101); DESIGN CHOICE: the lowest one (log entry 75). -/
def State.freeSlotno (s : State) (meet field : Nat) : Option Nat :=
  let used := (s.teams.filter fun t => t.meet = meet ∧ t.field = field ∧ t.st ≠ .retired).map Team.slotno
  (List.range 4096).find? fun k => k ∉ used

/-- A cluster of a die that runs and that the host lets run teams (R393, R398). -/
def State.open_ (s : State) (cl : ClusterRef) : Bool :=
  ((s.die? cl.die).map fun d => decide (d.power = .active ∧ d.offline = false ∧ d.closing = false) && ((d.clusPl[cl.loc]?).join).isSome).getD false

/-- The launch of a team is an acquire at .sy by each of its units: the leased copies on their paths go, and what was released to everybody is new to
none of them (R138, R146, R339). -/
def State.launchAcquire (s : State) (team : Nat) : State :=
  match s.team? team with
  | none => s
  | some t =>
    let us := t.heats.map (fun h => (Who.heat h.squad h.idx)) ++ (if t.pacer.isSome then [Who.pacer] else [])
    us.foldl (fun s w => match s.site? { team := team, who := w } with
      | some x =>
        let (s, x) := s.acquireAt x .sy
        s.put x
      | none => s) s

/-- Place a team on a cluster and cores: none when it does not fit (R42, R43, R106). -/
def State.placeTeam (s : State) (m : Meet) (k index : Nat) (cl : ClusterRef) (cores : List Nat) : Option State :=
  (m.fields[k]?).bind fun f => (s.freeSlotno m.id k).bind fun slotno =>
    let t := newTeam m k f s.nextId index slotno cl cores
    if s.open_ cl ∧ cores.length = f.squads ∧ cores.Nodup ∧ cores.all (· < 4) ∧ s.tracksFit t ∧ t.accrows ≤ s.rowsFree cl ∧ s.pacerFree t then
      (s.provision t).map fun (s, t) =>
        let t := s.owedBudget t
        ({ s with nextId := s.nextId + 1, teams := s.teams ++ [t] }.takePacer t |>.seat t.id t.seating).launchAcquire t.id
    else none

/-- Choices of q distinct cores. -/
def coreChoices (q : Nat) : List (List Nat) := ((List.range 4).sublists).filter fun l => l.length = q

/-- Clusters and cores on which a team of a field may be placed. -/
def State.placesFor (s : State) (f : Field) : List (ClusterRef × List Nat) :=
  match s.partOf f.part with
  | some p => (s.clustersOf p).flatMap fun c => (coreChoices f.squads).map fun l => (c, l)
  | none => []

/-- The first of several places, begun at the oracle's choice, that takes a team. -/
def State.placeSome (s : State) (m : Meet) (k index : Nat) : Option State :=
  let ps := ((m.fields[k]?).map s.placesFor).getD []
  (ps.rotateLeft (s.choice % (ps.length + 1))).findSome? fun p => s.placeTeam m k index p.1 p.2

/-- Change a field of a meet. -/
def State.updField (s : State) (meet k : Nat) (f : Field → Field) : State :=
  match s.meet? meet with
  | some m => s.setMeet { m with fields := m.fields.modify k f }
  | none => s

/-- A meet with a deadline that stands on a die's clock, as its sender's time left and the round trip between them place it (R330). -/
def Meet.sent (m : Meet) (s : State) (sender die rho : Nat) : Meet :=
  if m.dls.any fun k => k.keeper = die ∧ k.on = die then m
  else { m with dls := m.dls ++ [{ keeper := die, on := die, dl := (s.clockOf die : Int) + s.timeLeft m sender - rho - dlMargin m.deadline, commit := true }] }

/-- The deadline that a die without a keeper's entry receives with its first batch: the dispatcher on the hub sends it, which has it from the home die; the
round trips to the die and to the hub are given (R45, R330). -/
def State.sendDeadline (s : State) (meet die rho rhoHub : Nat) : State :=
  match s.meet? meet with
  | none => s
  | some m => if m.dls.any fun k => k.keeper = die ∧ k.on = die then s else s.setMeet ((m.sent s m.home hubDie rhoHub).sent s hubDie die rho)

/-- Start the first team of each field from field k on: none when one does not fit (R47). -/
def State.launchFrom (s : State) (m : Meet) (k : Nat) : Nat → Option State
  | 0 => some s
  | n + 1 =>
    (s.placeSome m k 0).bind fun s =>
      let die := ((s.teams.getLast?).map fun t => t.cl.die).getD 0
      ((s.updField m.id k fun f => { f with handed := 1, placed := 1 }).sendDeadline m.id die s.choice s.chosen.choice).chosen.chosen.launchFrom m (k + 1) n

/-- Every keeper of a meet holds its deadline as committed (R330). -/
def State.committed (s : State) (m : Meet) : Bool := (s.keepersOf m).all fun k => m.dls.any fun d => decide (d.keeper = k) && d.commit

/-- A line of a task's argument block is still on its way to memory (R370, R372). -/
def State.argsAway (s : State) (m : Meet) : Bool :=
  m.task.isSome && (List.range 64).any fun i =>
    match s.cpPlace (s.serverOf m.home) m.ctx (m.args + 64 * i) with
    | some h => s.posted.any fun p => p.cp.isSome && decide (p.pa / 64 = h.phys (m.args + 64 * i) / 64)
    | none => false

/-- MEET_LAUNCH (R47): the first team of every field is reserved, committed and started as one step, or nothing changes; the keepers have had their
commits before (R330), and a task's argument block stands in memory (R370). -/
def execMeetLaunch (meet : Nat) (s : State) : Out :=
  match s.meet? meet with
  | none => .next s
  | some m =>
    if m.st ≠ .admitted ∨ s.committed m = false ∨ s.argsAway m ∨ (m.parts.all fun p => s.firstOn m p) = false then .next s
    else
      match (s.setMeet { m with st := .launched }).launchFrom { m with st := .launched } 0 m.fields.length with
      | some s => .next s
      | none => .next s

/-- Teams of a field that start on a die beside those that run there, counted up to n: its free team slots for the shape (R45). -/
def State.slotsOn (s : State) (m : Meet) (k die : Nat) : Nat → Nat
  | 0 => 0
  | n + 1 =>
    let ps := (((m.fields[k]?).map s.placesFor).getD []).filter fun p => p.1.die = die
    match ps.findSome? fun p => s.placeTeam m k 0 p.1 p.2 with
    | some s => 1 + s.slotsOn m k die n
    | none => 0

/-- Teams handed out to a die that have not started. -/
def Field.handedTo (f : Field) (die : Nat) : Nat := ((f.handouts.filter fun h => h.1 = die).map fun h => h.2.2).sum

/-- BATCH_HANDOUT (R45): at most 64 consecutive teams, no more than are left, nor than the die has free slots for; the die is one of the partition's. The
round trips of its deadline are the oracle's answers (log entry 2).
DESIGN CHOICE: a die's last report of its free slots is always of this moment, less the teams already handed to it (log entry 76). -/
def execBatchHandout (meet : Nat) (field : Nat) (die : Nat) (count : Nat) (s : State) : Out :=
  match s.meet? meet with
  | none => .next s
  | some m =>
    match m.fields[field]? with
    | none => .next s
    | some f =>
      let dies := ((s.partOf f.part).map fun p => (s.clustersOf p).map ClusterRef.die).getD []
      if m.st ≠ .launched ∨ die ∉ dies ∨ count < 1 ∨ 64 < count ∨ f.teams < f.handed + count ∨
          s.slotsOn m field die (f.handedTo die + count) < f.handedTo die + count then .next s
      else
        .next ((s.updField meet field fun f =>
          { f with handed := f.handed + count, handouts := f.handouts ++ [(die, f.handed, count)] }).sendDeadline meet die s.choice s.chosen.choice).chosen.chosen

/-- Take the first team out of a die's oldest batch: its index, and the batches left (R46). DESIGN CHOICE: of different batches of one field on one die,
whose order is open, the oldest is emptied first (log entry 77). -/
def takeBatch (die : Nat) : List (Nat × Nat × Nat) → Option (Nat × List (Nat × Nat × Nat))
  | [] => none
  | (d, first, n) :: r =>
    if d = die ∧ n ≠ 0 then some (first, if n = 1 then r else (d, first + 1, n - 1) :: r)
    else (takeBatch die r).map fun p => (p.1, (d, first, n) :: p.2)

/-- TEAM_PLACEMENT (R42, R45, R46, R334): saved teams of the meet come first. -/
def execTeamPlacement (meet : Nat) (field : Nat) (cl : ClusterRef) (cores : List Nat) (s : State) : Out :=
  match s.meet? meet with
  | none => .next s
  | some m =>
    match m.fields[field]? with
    | none => .next s
    | some f =>
      let inPart := ((s.partOf f.part).map fun p => decide (cl ∈ s.clustersOf p)).getD false
      let saved := s.teams.any fun t => decide (t.meet = meet ∧ ((m.fields[t.field]?).map Field.part) = some f.part) && s.restorable t
      if m.st ≠ .launched ∨ inPart = false ∨ saved ∨ s.firstOn m f.part = false then .next s
      else
        match takeBatch cl.die f.handouts with
        | none => .next s
        | some (index, left) =>
          match s.placeTeam m field index cl cores with
          | some s => .next (s.updField meet field fun f => { f with handouts := left, placed := f.placed + 1 })
          | none => .next s

/-! ### Retirement (R48 to R50) -/

/-- Write the dirty PRIV lines of some levels back to their homes; what a home refuses is discarded (R132, R407). -/
def State.cleanLevels (s : State) (p : Level → Bool) : State :=
  let mine (c : CLine) : Bool := p c.level && decide (c.cls = .priv)
  s.writeBackAll mine

/-- The units of a team. -/
def Team.refs (t : Team) : List UnitRef :=
  t.heatRefs.map (fun p => { team := t.id, who := p.1 }) ++ (if t.pacer.isSome then [{ team := t.id, who := .pacer }] else [])

/-- A release at system scope by every unit of a team, with what is left of its layers (R49 step 2). -/
def State.releaseTeam (s : State) (t : Team) : State :=
  let s := t.refs.foldl (fun s u => match s.site? u with
    | some x =>
      let (s, x) := s.releaseAt x .sy
      s.put x
    | none => s) s
  match s.team? t.id with
  | some t =>
    ((t.tmLayer :: t.sqLayer).foldl State.publishAll s).setTeam { t with tmLayer := [], sqLayer := t.sqLayer.map fun _ => [] }
  | none => s

/-- The lines that the release of a team publishes. -/
def State.teamLines (s : State) (t : Team) : List Nat :=
  ((t.refs.filterMap s.site?).flatMap (fun x : Site => s.publishedLines x .sy) ++
    ((t.tmLayer :: t.sqLayer).flatten.map fun b : LayerByte => b.pa / 64)).dedup

/-- Some write of a team is not acknowledged. -/
def Team.owes (t : Team) : Bool := t.heats.any (fun h => h.unacked ≠ 0) || (t.pacer.map fun h => decide (h.unacked ≠ 0)).getD false

/-- The team's engines have no queued or running copy (R49). -/
def State.copiesDone (s : State) (t : Team) : Bool :=
  ((s.cluster? t.cl).map fun c => c.chans.all fun ch => decide (ch.owner ≠ some t.id) || ch.queue.isEmpty).getD true

/-- Steps 3 and 4 of R49, and the meet's completion (R50): traps left in the queue go to the context (R355). -/
def State.retire (s : State) (t : Team) : State :=
  let gone := { (t.cancel Xfer.unstarted) with st := .retired, dtraps := [], queue := [], cshSegs := [], scrSegs := [], cshMem := [], scrMem := [], acc := [] }
  let s := ((s.setTeam gone).freeUnits t).returnBanks t.cl
  let s := t.dtraps.foldl (fun s d => s.ctxTrap t.ctx d) s
  (s.updField t.meet t.field fun f => { f with completed := f.completed + 1 }).completeIfDone t.meet

/-- The levels of a team's own caches: the L0s of its cores and its cluster's cache. -/
def Team.ownLevel (t : Team) : Level → Bool
  | .l0 c k => decide (c = t.cl ∧ k ∈ t.cores)
  | .clus c => decide (c = t.cl)
  | .l2 _ => false

/-- TEAM_RETIREMENT (R49): it waits for the team's copies, for peers' contributions to what it publishes (R362) and for its writes to be acknowledged. -/
def execTeamRetirement (team : Nat) (s : State) : Out :=
  match s.team? team with
  | none => .next s
  | some t =>
    if t.st ≠ .resident ∨ t.alive ∨ s.copiesDone t = false then .next s
    else
      let s := s.cleanLevels t.ownLevel
      let lines := s.teamLines t
      if lines.any (fun l => s.awaitsU (64 * l)) ∨ s.clear none .phase lines = false then .next (s.askOutside none .phase lines) else
      let s := s.releaseTeam t
      match s.team? team with
      | some t => if t.owes then .next s else .next (s.retire t)
      | none => .next s

/-! ### Charges and overrun (R336, R337) -/

/-- Every running team of a meet takes BUDGET_OVERRUN, once (R337). -/
def State.graceTraps (s : State) (meet : Nat) : State :=
  { s with teams := s.teams.map fun t => if t.meet = meet ∧ t.st = .resident ∧ t.alive then s.owedBudget t else t }

/-- What the home die does when the latest reports show the budget reached (R337). -/
def State.checkBudget (s : State) (meet : Nat) : State :=
  match s.meet? meet with
  | none => s
  | some m =>
    if m.live = false ∨ m.reported < m.budget then s
    else
      match (s.tenant? m.tenant).map Tenant.policy with
      | some .grace =>
        if m.budget + m.budget / 16 ≤ m.reported then s.terminate meet .overrun 0
        else if m.graced then s
        else (s.setMeet { m with graced := true }).graceTraps meet
      | _ => s.terminate meet .overrun 0

/-- CHARGE_REPORT (R336). -/
def execChargeReport (meet : Nat) (die : Nat) (s : State) : Out :=
  match s.meet? meet with
  | none => .next s
  | some m =>
    if m.live = false then .next s
    else .next ((s.setMeet { m with reports := SMap.set m.reports die ((SMap.get? m.sums die).getD 0) }).checkBudget meet)

/-! ### Pre-emption (R335, R356) -/

/-- A team would fit on its cluster beside the resident teams, storage included. -/
def State.wouldFit (s : State) (t : Team) : Bool :=
  s.tracksFit t && decide (t.accrows ≤ s.rowsFree t.cl) && s.pacerFree t && (s.provision t).isSome

/-- The state without some teams, to see what they free. -/
def State.without (s : State) (ts : List Team) : State :=
  ts.foldl (fun s t => (s.setTeam { t with st := .retired, cshSegs := [], scrSegs := [] }).freeUnits t) s

/-- A team of a field that has not started may start on a die: it is not handed out yet, or handed to that die (R45). -/
def Field.waitsOn (f : Field) (die : Nat) : Bool := decide (f.handed < f.teams) || f.handouts.any fun h => decide (h.1 = die ∧ h.2.2 ≠ 0)

/-- A saved team can come back as things stand. -/
def State.canReturn (s : State) (t : Team) : Bool := s.wouldFit t && ((s.cluster? t.cl).map fun c => c.chansFree t).getD false

/-- A team of a field can start somewhere as things stand. -/
def State.canStart (s : State) (m : Meet) (k : Nat) (f : Field) : Bool :=
  (s.placesFor f).any fun p => f.waitsOn p.1.die && s.open_ p.1 && s.wouldFit (newTeam m k f s.nextId 0 0 p.1 p.2)

/-- The first teams of all fields of a meet can start together as things stand (R47). -/
def State.launches (s : State) (m : Meet) : Bool := (s.launchFrom m 0 m.fields.length).isSome

/-- Taking teams of a cluster away frees what a ready team of a meet on a partition lacks; the first teams of a meet that has not launched need their places
all at once (R47, R335). -/
def State.frees (s : State) (cl : ClusterRef) (vs : List Team) (m : Meet) (part : Nat) : Bool :=
  let u := s.without vs
  (s.teams.any fun t => decide (t.meet = m.id ∧ t.cl = cl) && s.restorable t && !s.canReturn t && u.canReturn t) ||
    if m.st = .admitted then decide (part ∈ m.parts) && !s.launches m && u.launches m
    else m.fields.zipIdx.any fun (f, k) => decide (f.part = part) && f.waitsOn cl.die && !s.canStart m k f && (coreChoices f.squads).any fun l =>
      u.wouldFit (newTeam m k f u.nextId 0 0 cl l)

/-- The greatest element under a measure; the last of equals. -/
def greatestBy {α : Type} (lt : α → α → Bool) : List α → Option α
  | [] => none
  | a :: r => some (r.foldl (fun b c => if lt b c then c else b) a)

/-- The teams of later meets that run on a partition: those that a meet may pre-empt (R335). -/
def State.preemptible (s : State) (m : Meet) (part : Nat) : List Team :=
  let k := s.keeperOf part
  s.teams.filter fun t => t.st = .resident ∧ t.alive ∧
    ((s.meet? t.meet).any fun n => decide (n.id ≠ m.id ∧ ((n.fields[t.field]?).map Field.part) = some part ∧ s.timeLeft m k < s.timeLeft n k)) = true

/-- The victim of a waiting meet on a partition (R335): the meet with the latest deadline, the one admitted last of equals, and its team of
the highest index whose cluster frees what is needed: by its own room, or with that of the other teams of later meets there, which follow it, or with that of
all teams of later meets on the partitions of a meet that needs several places at once. A meet none of whose teams frees anything is passed over. -/
def State.victim (s : State) (m : Meet) (part : Nat) : Option Team :=
  let k := s.keeperOf part
  let running := s.preemptible m part
  let later := (s.meets.filter fun n => running.any fun t => t.meet = n.id).insertionSort fun a b =>
    s.timeLeft b k < s.timeLeft a k ∨ (s.timeLeft a k = s.timeLeft b k ∧ ¬ s.soonerOf a b)
  let top (p : Team → Bool) (n : Meet) : Option Team := greatestBy (fun a b => a.index < b.index) (running.filter fun t => t.meet = n.id ∧ p t)
  (later.findSome? (top fun t => s.frees t.cl [t] m part)).or
    (((later.findSome? (top fun t => s.frees t.cl (running.filter fun v => v.cl = t.cl) m part))).or
      (later.findSome? (top fun t => decide (m.st = .admitted) && s.frees t.cl (m.parts.flatMap (s.preemptible m)) m part)))

/-- Clusters of a die that are saving. -/
def Die.savings (d : Die) : Nat := (d.clusters.filter fun c => c.saving.isSome).length

/-- SAVE_REQUEST (R335, R356): the keeper's notice and request: one at a time for each cluster, and fewer than six other clusters of the die saving. From
the notice on the pacer issues no array entry. -/
def execSaveRequest (part : Nat) (waiting : Nat) (s : State) : Out :=
  match s.meet? waiting with
  | none => .next s
  | some m =>
    if s.readyOn m part = false then .next s
    else
      match s.victim m part with
      | none => .next s
      | some v =>
        if ((s.cluster? v.cl).map fun c => c.saving.isSome).getD true ∨ 6 ≤ ((s.die? v.cl.die).map Die.savings).getD 6 then .next s
        else .next (s.updCluster v.cl fun c => { c with saving := some v.id })

end Sys2Proof.Machine
end

