-- ==== Sys2Proof/Machine/Coherence.lean ====
section
/-!
DEFINITION. What a context maps (R112), the tracking structures' recalls (R357 to R362), invalidations and acknowledgements (R129, R359), hosts and
peers (R122, R324, R360, R366), and class changes (R143, R144, R368).
-/

namespace Sys2Proof.Machine

/-! ### What a context maps (R112) -/

/-- The 16-byte entries of a page that some listed byte belongs to. -/
def entriesIn (m : List Host.Cell) (a : Nat) : List Nat :=
  ((m.filter fun c => decide (a ≤ c.1 ∧ c.1 < a + 4096)).map fun c => (c.1 - a) / 16).dedup

/-- Every translation that the tables from a table on hold; an entry none of whose bytes is listed is not valid. -/
def leavesFrom (m : List Host.Cell) (host : Nat → Option Nat) (va : Nat) : List (Nat × Nat × Nat) → Nat → List Hit
  | [], _ => []
  | (lv, sh, n) :: r, t =>
    (List.range (2 ^ n / 256)).flatMap fun k =>
      match host (t + 4096 * k) with
      | none => []
      | some a => (entriesIn m a).flatMap fun j =>
        let v := va + (256 * k + j) * 2 ^ sh
        let e := entryAt m (a + 16 * j)
        if bitsOf e 0 1 = 0 then []
        else if bitsOf e 1 1 = 1 then (leafHit lv e v).toList
        else if e = 1 + bitsOf e 12 40 * 4096 then leavesFrom m host v r (bitsOf e 12 40 * 4096)
        else []

/-- A range of physical memory that a context maps, and its REACH: true for SYSTEM (R122). -/
structure Mapped where
  pa     : Nat
  size   : Nat
  system : Bool
  deriving DecidableEq, Repr

/-- The part of a guest page that a second-stage page holds. -/
def mappedPart (g h : Hit) : Option Mapped :=
  let lo := max (g.phys g.base) h.base
  let hi := min (g.phys g.base + g.size) (h.base + h.size)
  if lo < hi then some { pa := h.phys lo, size := hi - lo, system := g.system } else none

/-- Every range that a context maps; `place` gives the memory at a physical address. -/
def Context.mapped (c : Context) (m : List Host.Cell) (place : Nat → Option Nat) : List Mapped :=
  match c.root2 with
  | none => (leavesFrom m place 0 walkLevels c.root).map fun g => { pa := g.phys g.base, size := g.size, system := g.system }
  | some r2 =>
    let hs := leavesFrom m place 0 walkLevels r2
    let host (g : Nat) : Option Nat := (walkFrom m place g walkLevels r2).bind fun h => place (h.phys g)
    (leavesFrom m host 0 walkLevels c.root).flatMap fun g => hs.filterMap (mappedPart g)

/-- A mapped range has a byte that a die homes (R113). -/
def Mapped.on (r : Mapped) (s : State) (die : Nat) : Bool :=
  decide (r.pa < die * 2 ^ 41 + s.ownBytes ∧ die * 2 ^ 41 < r.pa + r.size) || decide (2 ^ 44 < r.pa + r.size ∧ r.pa < 2 ^ 44 + s.stripe)

/-- A mapped range has a byte behind a window that names a target (R363). -/
def State.behind (s : State) (r : Mapped) (t : PortTarget) : Bool :=
  s.dies.any fun d => d.windows.any fun w => (w.map fun w => decide (w.target = t ∧ r.pa < w.base + w.size ∧ w.base < r.pa + r.size)).getD false

/-- A context maps a range that a test names. -/
def State.maps (s : State) (c : Context) (p : Mapped → Bool) : Bool := (c.mapped s.mem (s.place 0)).any p

/-! ### Evictions and recalls (R357, R361, R362, R374) -/

/-- The copies of a line on a die. -/
def State.copiesOn (s : State) (die line : Nat) : List CLine := s.lines.filter fun c => c.line = line ∧ c.level.die = die

/-- Evict a line from the caches of a die. -/
def State.evict (s : State) (die line : Nat) (bad : Bool) : State := (outerFirst (s.copiesOn die line)).foldl (fun s c => s.evictCopy bad c) s

/-- Evict a line from one cache of a cluster: a core's L0, or the cluster cache. -/
def State.evictAt (s : State) (lv : Level) (line : Nat) (bad : Bool) : State :=
  match s.lines.find? fun c => c.level = lv ∧ c.line = line with
  | some c => s.evictCopy bad c
  | none => s

/-- The device keeps using a unit that errs, and reports the error (R390). -/
def State.report (s : State) (die line : Nat) (bad : Bool) : State := if bad then s.tell (.unitError die line) else s

/-- The victim entry that a structure recalls, as the oracle chooses, and the entries left. -/
def State.victimEntry (s : State) (ts : List Track) : Option (Track × List Track) :=
  (ts[s.choice % ts.length]?).map fun t => (t, ts.eraseIdx (s.choice % ts.length))

/-- A host holds the line no more. -/
def State.forgetHost (s : State) (line h : Nat) : State :=
  { s with snoopFl := (s.snoopFl.map fun t => if t.region = line then { t with holders := t.holders.filter (· ≠ h) } else t).filter fun t => t.holders ≠ [] }

/-- The writes that come from where a write comes from (R126). -/
def Posted.sameAgent (p q : Posted) : Bool := (p.by_.isSome && p.by_ == q.by_) || (p.src.isSome && p.src == q.src) || (p.cp.isSome && p.cp == q.cp)

/-- A posted write whose acknowledgements are all in is performed in its agent's order; copies made since are invalidated first, and the
back-invalidation of a host that is recorded again is reissued (R126, R359, R366). A tracker's entry stands for other lines too, so a peer
that has acknowledged is not asked again unless it has read the line since. -/
def State.performPosted (s : State) (id : Nat) : State :=
  match s.posted.find? fun p => p.id = id with
  | none => s
  | some p =>
    if p.left ≠ [] ∨ (s.posted.takeWhile fun q => q.id ≠ id).any p.sameAgent then s
    else
      match (s.answerersOf p.src p.lines).filter (· < 3000) with
      | [] => (({ s with posted := s.posted.filter fun q => q.id ≠ id } : State).performAt p).tellAll p.tells
      | left => ({ s with posted := s.posted.map fun q => if q.id = id then { q with left := left } else q } : State).snoopFor p.lines left

/-- Somebody need not answer any more for the posted writes that a test names; what waits for nobody is performed. -/
def State.answered (s : State) (p : Posted → Bool) (holder : Nat) : State :=
  let ids := (s.posted.filter p).map Posted.id
  ids.foldl State.performPosted { s with posted := s.posted.map fun q => if p q then { q with left := q.left.filter (· ≠ holder) } else q }

/-- Combine what a peer's U line held of one location of a line (R362). -/
def State.combineSum (s : State) (line : Nat) (c : PeerSum) : State :=
  let n := c.ty.bits / 8
  if c.pa / 64 = line then
    let (old, s) := s.homeRead c.pa n
    s.homeWrite c.pa (leBytes (amoOp c.op c.ty (leNat old) c.val.toNat) n)
  else s

/-- A posted write to a page. -/
def Posted.inPage (page : Nat) (p : Posted) : Bool := p.lines.any fun l => decide (l / 64 = page)

/-- What has waited for the contributions of peers to a line goes on, once none is on its way (R362). -/
def State.sumsIn (s : State) (line : Nat) : State :=
  s.answered (fun p => decide (line ∈ p.lines) && !p.lines.any (fun l => s.awaitsU (64 * l)) && !s.changes.any fun c => p.inPage c.page) heldAtHome

/-- A peer's contributions to a line return: copies of a SEQ line are invalidated before they are combined (R358, R359, R366), and what waited for them goes
on (R362). -/
def State.takeSums (s : State) (device line : Nat) (sums : List PeerSum) : State :=
  let cls := s.recorded (64 * line)
  if (device, line) ∉ s.peerU then s
  else if s.clear (some (.peer device)) cls [line] = false then s.askOutside (some (.peer device)) cls [line]
  else
    let s := ({ s with peerU := s.peerU.erase (device, line) } : State).dropCopies fun c => decide (c.cls = .seq ∧ c.line = line)
    (sums.foldl (fun s c => s.combineSum line c) s).sumsIn line

/-- A recall of a structure's entry, as the oracle chooses it. -/
def State.recallOne (s : State) (ts : List Track) (go : Track → List Track → State → State) : State :=
  match s.victimEntry ts with
  | some (t, r) => go t r s.chosen
  | none => s

/-- Some context maps a physical address with SYSTEM reach. -/
def State.systemReach (s : State) (pa : Nat) : Bool :=
  s.ctxs.any fun c => s.maps c fun r => decide (r.pa ≤ pa ∧ pa < r.pa + r.size) && r.system

/-- Some context maps a physical address. -/
def State.anyReach (s : State) (pa : Nat) : Bool := s.ctxs.any fun c => s.maps c fun r => decide (r.pa ≤ pa ∧ pa < r.pa + r.size)

/-- The device address of memory of this package as an expander (R365): the inverse of `dpaPlace`. -/
def State.dpaOf (s : State) (pa : Nat) : Nat :=
  if pa < 2 ^ 44 then s.ownBytes * (pa / 2 ^ 41) + pa % 2 ^ 41 else s.ownBytes * s.dies.length + (pa - 2 ^ 44)

/-- The memory at an address may be reached by a requester (R122): a page of DEVICE reach by nobody outside; on a KS4-X by the host of an extent that
holds it (R365), and by no peer, for it has no scale-up ports (R11). -/
def State.outside (s : State) (src : Requester) (pa : Nat) : Bool :=
  match s.product, src with
  | .ks4x, .host h => (s.expander.extents.any fun g => decide (g.host = h ∧ g.dpa ≤ s.dpaOf pa ∧ s.dpaOf pa < g.dpa + g.size)) && (s.systemReach pa || !s.anyReach pa)
  | .ks4x, .peer _ => false
  | .ks4n, .host h => decide (h = 0) && s.systemReach pa
  | .ks4n, .peer d => decide (d < 1024) && s.systemReach pa

/-- A peer's RED reaches its home as a U line (R361): the tracker records the peer. -/
def State.takePeerU (s : State) (device line : Nat) : State :=
  match s.homeOf (64 * line) with
  | some d =>
    if s.outside (.peer device) (64 * line) ∧ (s.recorded (64 * line) = .seq ∨ s.recorded (64 * line) = .phase) ∧ (device, line) ∉ s.peerU then
      ({ s with peerU := s.peerU ++ [(device, line)] } : State).recordPeer d (64 * line) device 0
    else s
  | none => s

/-- HOME_REQUEST (R357, R359, R361, R362, R374). -/
def execHomeRequest (r : HomeReq) (s : State) : Out :=
  match r with
  | .returnU line => .next (s.recallU (64 * line) 64)
  | .evict die line bad => .next ((s.evict die line bad).report die line bad)
  | .evictCopy cl core line bad => .next ((s.evictAt (match core with | some k => .l0 cl k | none => .clus cl) line bad).report cl.die line bad)
  | .postedWrite id => .next (s.performPosted id)
  | .recallFilter cl =>
    .next (s.recallOne ((SMap.get? s.filters (clusterNo cl)).getD []) fun t r s => ({ s with filters := SMap.set s.filters (clusterNo cl) r } : State).recallFilter cl t)
  | .recallDirectory die =>
    .next (s.recallOne ((SMap.get? s.dirs die).getD []) fun t r s => ({ s with dirs := SMap.set s.dirs die r } : State).recallDirectory die t)
  | .recallPort => .next (s.recallOne s.portDir fun t r s => ({ s with portDir := r } : State).recallPort t)
  | .recallPeer die =>
    .next (s.recallOne ((SMap.get? s.peerTrk die).getD []) fun t r s => ({ s with peerTrk := SMap.set s.peerTrk die r } : State).recallPeers t)
  | .recallSnoop => .next (s.recallOne s.snoopFl fun t r s => ({ s with snoopFl := r } : State).recallHosts t)
  | .peerU device line => .next (s.takePeerU device line)
  | .peerReturn device line sums => .next (s.takeSums device line sums)
  | .portPoison line => .next (if 2 ^ 52 ≤ 64 * line ∧ line ∉ s.poison then { s with poison := line :: s.poison } else s)

/-! ### Acknowledgements (R129, R139, R359) -/

/-- INVALIDATION_ACK (R359): the holder's copies of the line are gone; a peer answers for a write that waits, or for an invalidation ahead of one. -/
def execInvalidationAck (id : Nat) (holder : Nat) (s : State) : Out :=
  if (2000 ≤ holder ∧ holder < 3000) ∨ holder = heldAtHome then .next s
  else
    match s.posted.find? fun p => p.id = id with
    | some p =>
      if holder ∉ p.left then .next s
      else
        let s := s.dropCopies fun c => decide (c.line ∈ p.lines ∧ c.cls = .seq ∧ c.level.holder = holder)
        .next (s.answered (fun q => decide (q.id = id)) holder)
    | none => .next { s with invals := s.invals.map fun v => if v.id = id then { v with left := v.left.filter (· ≠ holder) } else v }

/-- One write of a unit is acknowledged. -/
def State.acked (s : State) (u : UnitRef) : State :=
  match s.site? u with
  | some x => s.put { x with heat := { x.heat with unacked := x.heat.unacked - 1 } }
  | none => s

/-- WRITE_ACKNOWLEDGEMENT (R139): one write that its home has performed, and on which no lease stands. -/
def execWriteAcknowledgement (u : UnitRef) (s : State) : Out :=
  match s.site? u with
  | none => .next s
  | some x =>
    let held := (s.posted.filter fun p => p.by_ = some u).length + (s.pubs.filter fun p => p.u = u ∧ s.now < p.till).length
    if held < x.heat.unacked then .next (({ s with pubs := s.pubs.eraseP fun p => decide (p.u = u ∧ p.till ≤ s.now) } : State).acked u) else .next s

/-- LEASE_EXPIRY (R129): the expired copies of a line go, and publications that waited for leases are acknowledged. -/
def execLeaseExpiry (die : Nat) (line : Nat) (s : State) : Out :=
  let s := s.dropCopies fun c => decide (c.cls = .phase ∧ c.line = line ∧ c.level.die = die ∧ c.lease ≤ s.now)
  let due := s.pubs.filter fun p => p.till ≤ s.now
  .next (due.foldl (fun s p => s.acked p.u) { s with pubs := s.pubs.filter fun p => s.now < p.till })

/-! ### Accesses from outside (R122, R130, R365, R366) -/

/-- A peer that reads a line on which a write waits must acknowledge before that write is performed, and one that has answered an invalidation ahead of
a write is asked again (R359). -/
def State.askAgain (s : State) (line device : Nat) : State :=
  { s with
    posted := s.posted.map fun p =>
      if line ∈ p.lines ∧ p.src ≠ some (.peer device) ∧ 3000 + device ∉ p.left then { p with left := p.left ++ [3000 + device] } else p
    invals := s.invals.filter fun v => !(v.left.isEmpty && v.meets (64 * line) 64) }

/-- Record a reader from outside: not of PRIV memory, whose copies nothing tracks (R358, R367); a peer holds a PHASE line under a lease (R129). -/
def State.recordReader (s : State) (src : Requester) (pa : Nat) : State :=
  if s.recorded pa = .priv then s
  else
    match src with
    | .host h => s.recordHost (pa / 64) h
    | .peer d => (s.recordPeer ((s.homeOf pa).getD 0) pa d (if s.recorded pa = .phase then s.now + 1024 else 0)).askAgain (pa / 64) d

/-- What has become of a part of an access from outside: it is served, or waits at its home as the state then is. -/
inductive Served where
  | done (s : State)
  | waits (s : State)

/-- A write from outside that is performed at once, when nobody else outside holds its line; else those are asked and it waits (R359, R366). -/
def State.outWrite (s : State) (x : ExtAccess) (cls : PageClass) (go : State → State) : Served :=
  if s.clear (some x.src) cls [x.pa / 64] then .done (go s) else .waits (s.askOutside (some x.src) cls [x.pa / 64])

/-- Poisoned data that a write brought in poisons its line (R374). -/
def State.taint (s : State) (x : ExtAccess) : State :=
  if x.poison then { s with poison := x.pa / 64 :: s.poison.filter (· ≠ x.pa / 64) } else s

/-- Perform or post a write from outside by the class of its page, on SEQ pages behind its requester's earlier writes (R126, R130, R131, R132, R358, R359,
R374). -/
def State.serveWrite (s : State) (x : ExtAccess) : Served :=
  match s.recorded x.pa with
  | .seq =>
    .done (s.seqPut { id := 0, by_ := none, pc := 0, src := some x.src, pa := x.pa, bytes := x.bytes, left := [], tells := [], poison := x.poison }
      (s.posted.any fun p => p.src = some x.src)).1
  | .phase => s.outWrite x .phase fun s => ((s.overtake s.nextId (addresses x.pa x.bytes.length)).homeWrite x.pa x.bytes).taint x
  | .stream =>
    if x.pa / 64 ∈ s.granules then .done (s.tell .errorResponse)
    else s.outWrite x .stream fun s =>
      (((s.keepOld [] [{ toward := .everybody, by_ := none }] x.pa x.bytes.length).homeWrite x.pa x.bytes).setGranules [x.pa / 64]).taint x
  | .priv => s.outWrite x .priv fun s => (s.homeWrite x.pa x.bytes).taint x

/-- Serve a part of an access that lies in one line: a host's on a notify page (R324), or one to memory that a die homes, of the class that it carries
(R142, R143, R368), behind its requester's own earlier writes (R126) and a peer's contributions (R362). -/
def State.servePart (s : State) (x : ExtAccess) : Served :=
  let n := if x.write then x.bytes.length else x.size
  let off := ((s.homeOf x.pa).bind fun d => (s.die? d).map Die.down).getD true
  match s.notifyVf x.pa, x.src with
  | some vf, .host _ =>
    .done (if x.write then s.notifyStore vf (x.pa % 4096) x.bytes else s.tell (.data (leBytes (s.notifyLoad vf (x.pa % 4096) n).toNat n)))
  | some _, .peer _ => .done (s.tell .errorResponse)
  | none, _ =>
    if off ∨ s.outside x.src x.pa = false then .done (s.tell .errorResponse)
    else
      match (match x.cls with | some c => s.classCheck x.pa c | none => .ok ()) with
      | .error .hold => .waits s
      | .error _ => .done (s.tell .errorResponse)
      | .ok _ =>
        if s.awaitsU x.pa ∨ (s.recorded x.pa = .seq ∧ ¬ x.write ∧ s.posted.any fun p => p.src = some x.src) then .waits s
        else if x.write then
          if s.poison.any (fun l => decide (l = x.pa / 64) && !wholeLine l x.pa n) then .done (s.tell .errorResponse) else s.serveWrite x
        else
          let (bs, s) := s.homeRead x.pa n
          .done ((s.recordReader x.src x.pa).tell (if s.poisoned x.pa n then .poisoned bs else .data bs))

/-- A part arrives: behind its requester's parts that wait, and behind a back-invalidation of its line to the same host (R366). -/
def State.arrivePart (s : State) (x : ExtAccess) : State :=
  let snooped (n : Snoop) : Bool := match x.src with
    | .host h => decide (n.line = x.pa / 64 ∧ n.host = h)
    | .peer _ => false
  if s.outq.any fun y => y.src = x.src then { s with outq := s.outq ++ [x] }
  else if s.snoops.any snooped then { s with snoops := s.snoops.map fun n => if snooped n then { n with held := n.held ++ [x] } else n }
  else
    match s.servePart x with
    | .done s => s
    | .waits s => { s with outq := s.outq ++ [x] }

/-- The parts that wait at their homes are tried again, in their order. -/
def State.drainOut (s : State) : State := if s.outq = [] then s else s.outq.foldl State.arrivePart { s with outq := [] }

/-- The parts of an access, one for each line it touches, and one for each notify page, whose registers take an access of their own width alone (R324); k
bounds their number. -/
def accessParts (notify : Nat → Bool) (x : ExtAccess) : Nat → List ExtAccess
  | 0 => []
  | k + 1 =>
    let n := if x.write then x.bytes.length else x.size
    if n = 0 then []
    else
      let unit := if notify x.pa then 4096 else 64
      let m := min n (unit - x.pa % unit)
      { x with bytes := x.bytes.take m, size := m } :: accessParts notify { x with pa := x.pa + m, bytes := x.bytes.drop m, size := n - m } k

/-- Where a part of an access under a peer context lies, and the class that its page bears (R379): this package translates it. None when the page has no
translation or permission; DESIGN CHOICE: the peer then receives an error response (log entry 80). -/
def State.placePart (s : State) (x : ExtAccess) : Option ExtAccess :=
  match x.ctx with
  | none => some x
  | some c =>
    let there (h : Hit) : ExtAccess := { x with pa := h.phys x.pa, cls := some h.cls, ctx := none }
    match s.cpReach 0 c x.pa (if x.write then .store else .load) .plain with
    | .ok h => some (there h)
    | .error .hold => (s.cpPlace 0 c x.pa).map there
    | .error _ => none

/-- EXTERNAL_ACCESS (R122, R365, R366, R379). -/
def execExternalAccess (x : ExtAccess) (s : State) : Out :=
  let notify (pa : Nat) : Bool := x.ctx.isNone && (s.notifyVf pa).isSome
  .next ((accessParts notify x ((if x.write then x.bytes.length else x.size) / 64 + 2)).foldl (fun s p =>
    match s.placePart p with
    | some p => s.arrivePart p
    | none => s.tell .errorResponse) s)

/-- A target by its port number (log entry 9). -/
def portTarget (n : Nat) : PortTarget := if n < 4 then .cxl n else if n < 16 then .host else .peer (n - 16)

/-- The dies that the port directory records drop a line of a device, PRIV copies aside, and the hub answers (R360, R366, R367). -/
def State.backInvalidate (s : State) (t : PortTarget) (line : Nat) : State :=
  let l := behindPort t (64 * line) / 64
  let dies := ((s.portDir.find? fun t => t.region = l / 8).map Track.holders).getD []
  ((s.recallU (64 * l) 64).dropCopies fun c => decide (c.line = l ∧ c.cls ≠ .priv ∧ c.level.die ∈ dies)).tell (.birsp line)

/-- BACK_INVALIDATE_SNOOP (R360, R366, R367) of a line of the device behind a port: the dies that the port directory records drop it, PRIV copies aside,
and the hub answers. Ports are numbered as in log entry 9, a peer device's from 16 on. A KS4-X sends back-invalidations and receives none (R364). -/
def opBackInvalidateSnoop (port : Nat) (line : Nat) (s : State) : Out :=
  if s.product = .ks4x ∨ (4 < port ∧ port < 16) ∨ 16 + 1024 ≤ port then .next s else .next (s.backInvalidate (portTarget port) line)

/-- The event (R360). -/
def execBackInvalidateSnoop (at_ : PortLine) (s : State) : Out := opBackInvalidateSnoop at_.port at_.line s

/-- BIRSP (R366): the host holds the line no more; writes that waited for it are performed, then its held requests are served. -/
def execBirsp (line : Nat) (host : Nat) (s : State) : Out :=
  match s.snoops.find? fun n => n.line = line ∧ n.host = host with
  | none => .next s
  | some n =>
    let s := ({ s with snoops := s.snoops.erase n } : State).forgetHost line host
    .next (n.held.foldl State.arrivePart (s.answered (fun p => decide (line ∈ p.lines)) (2000 + host)))

/-! ### Class changes (R143, R144, R368) -/

/-- A tenant holds a page whose class it asks to set: on an expander the tenant of its extent (R368); of the package's own memory on a KS4-N a driver
sets it for whom it will (R142). -/
def State.holdsPage (s : State) (tenant page : Nat) : Bool :=
  let pa := 4096 * page
  let has (e : Expander) (dpa : Nat) : Bool := e.extents.any fun g => decide (g.tenant = tenant ∧ g.dpa ≤ dpa ∧ dpa < g.dpa + g.size)
  if 2 ^ 52 ≤ pa then ((s.expander? (pa / 2 ^ 52 - 1)).map fun e => has e (pa % 2 ^ 52)).getD false
  else
    match s.product with
    | .ks4x => has s.expander (s.dpaOf pa)
    | .ks4n => true


/-- The home starts a change of a page's class; one change at a time. -/
def State.startChange (s : State) (page : Nat) (cls : PageClass) : State :=
  if s.changes.any fun c => c.page = page then s
  else { s with changes := s.changes ++ [{ page := page, old := s.recorded (4096 * page), new := cls }] }

/-- CLASS_CHANGE (R143, R368): `page` is a page of memory at its own place. -/
def opClassChange (tenant : Nat) (page : Nat) (cls : PageClass) (s : State) : Out :=
  if s.holdsPage tenant page then .next (s.startChange page cls) else .next (s.tell (.command cause.protection))

/-- The request (R143, R368). -/
def execClassChange (which : TenantPage) (cls : PageClass) (s : State) : Out := opClassChange which.tenant which.page cls s

/-- A list from its k-th element on round to it. -/
def rotateBy {α : Type} (k : Nat) (l : List α) : List α := l.drop (k % l.length) ++ l.take (k % l.length)

/-- The unpublished bytes of a page that heats and layers hold, in lists that are published one after another: what was published to the package, to a die,
to a team or a squad first, then the write sets, whose order the oracle chooses. -/
def State.unpublished (s : State) (page : Nat) : List (List LayerByte) :=
  let mine (l : List LayerByte) : List LayerByte := l.filter fun b => decide (b.pa / 4096 = page)
  let sets : List (List LayerByte) := s.teams.flatMap fun t =>
    t.heats.map (fun h => mine (h.ws.map (WsByte.lift { team := t.id, who := .heat h.squad h.idx }))) ++
      t.pacer.toList.map fun h => mine (h.ws.map (WsByte.lift { team := t.id, who := .pacer }))
  let dies := (List.range s.dies.length).map fun d => mine (s.wideAt (some d))
  mine (s.wideAt none) :: dies ++ (s.teams.flatMap fun t => mine t.tmLayer :: t.sqLayer.map mine) ++ rotateBy s.choice (sets.filter fun l => l ≠ [])

/-- A heat without the write-set bytes of a page. -/
def Heat.dropPage (page : Nat) (h : Heat) : Heat := { h with ws := h.ws.filter fun b => b.pa / 4096 ≠ page }

/-- A team without the unpublished bytes of a page. -/
def Team.dropPage (page : Nat) (t : Team) : Team :=
  let lay (l : List LayerByte) : List LayerByte := l.filter fun b => b.pa / 4096 ≠ page
  { t with heats := t.heats.map (Heat.dropPage page), pacer := t.pacer.map (Heat.dropPage page), tmLayer := lay t.tmLayer, sqLayer := t.sqLayer.map lay }

/-- A copy lies in a page. -/
def CLine.inPage (page : Nat) (c : CLine) : Bool := decide (c.line / 64 = page)

/-- The actions on leaving a class (R144). -/
def State.leaveClass (s : State) (page : Nat) : PageClass → State
  | .seq => s
  | .phase =>
    let bs := s.unpublished page
    let t : State := { s.chosen with teams := s.teams.map (Team.dropPage page), wide := s.wide.filter fun p => p.2.pa / 4096 ≠ page }
    (bs.foldl State.publishAll t).dropCopies fun c => c.inPage page && decide (c.cls = .phase)
  | .stream =>
    ({ s with granules := s.granules.filter (fun g => g / 64 ≠ page), oldParts := s.oldParts.filter fun o => o.pa / 4096 ≠ page } : State).dropCopies
      fun c => c.inPage page && decide (c.cls = .stream)
  | .priv =>
    let cs := rotateBy s.choice (s.lines.filter fun c => c.inPage page && decide (c.cls = .priv))
    ((outerFirst cs).foldl (fun s c => s.writeBackLine c.level.die c) s.chosen).dropCopies fun c => c.inPage page && decide (c.cls = .priv)

/-- The action on entering a class (R144). -/
def State.enterClass (s : State) (page : Nat) : PageClass → State
  | .stream => { s with granules := s.granules.filter fun g => g / 64 ≠ page }
  | _ => s

/-- A fetched chunk without its pins in a page. -/
def Chunk.unpin (page : Nat) (c : Chunk) : Chunk := { c with lines := c.lines.filter fun l => l.1 / 64 ≠ page }

/-- An array entry without its pins in a page. -/
def MxEntry.unpin (page : Nat) (q : MxEntry) : MxEntry := { q with chunks := q.chunks.map (Chunk.unpin page) }

/-- Pinned lines and read counts of a page are dropped (R144). -/
def State.unpin (s : State) (page : Nat) : State :=
  { s with
    lines := s.lines.map fun c => if c.inPage page then { c with rc := 0 } else c
    teams := s.teams.map fun t => { t with queue := t.queue.map (MxEntry.unpin page) } }

/-- The transition of a page to its new class. -/
def State.transition (s : State) (ch : ClassChg) : State :=
  let s := (s.recallU (4096 * ch.page) 4096).leaveClass ch.page ch.old
  let s := (s.unpin ch.page).enterClass ch.page ch.new
  { s with classes := SMap.set s.classes ch.page ch.new, changes := s.changes.filter fun c => c.page ≠ ch.page }

/-- The lines outside whose copies a page's change of class waits for: those that it writes back, and those that hosts hold of a page that becomes PRIV, of
which no later write asks (R358, R366). -/
def State.changeLines (s : State) (page : Nat) (new : PageClass) : List Nat :=
  let held : List Nat := if new = .priv then ((s.snoopFl.map Track.region ++ s.snoops.map Snoop.line).filter fun l => l / 64 = page) else []
  (((s.unpublished page).flatten.map fun b : LayerByte => b.pa / 64) ++ (s.lines.filter fun c : CLine => c.inPage page && c.dirty.any id).map CLine.line ++
    held).dedup

/-- A change of class of a page has to wait: for a posted write of the old class, or for the return of a peer's U line (R144, R362). -/
def State.changeWaits (s : State) (page : Nat) : Bool :=
  s.posted.any (fun p => p.inPage page && decide (heldAtHome ∉ p.left)) || s.peerU.any fun p => decide (p.2 / 64 = page)

/-- CLASS_TRANSITION (R143, R144): once every accepted access of the old class has completed, the peers' U lines have returned (R362), and nobody outside
holds what is written back (R366);
then what waited under the new class goes on. -/
def execClassTransition (page : Nat) (s : State) : Out :=
  match s.changes.find? fun c => c.page = page with
  | none => .next s
  | some ch =>
    let lines := s.changeLines page ch.new
    if s.changeWaits page then .next s
    else if s.clear none ch.old lines = false then .next (s.askOutside none ch.old lines)
    else
      let s := s.transition ch
      .next (s.answered (fun p => p.inPage page && !p.lines.any fun l => s.awaitsU (64 * l)) heldAtHome)

end Sys2Proof.Machine
end

