-- ==== Sys2Proof/Machine/Setup.lean ====
section
/-!
DEFINITION. What the host, the hypervisor and the driver set up: place and repair tables (R118, R119, R390, R391), windows (R363), configuration
registers, dynamic capacity (R365), sessions (R369), images and tasks at the expander (R372, R373), attestation (R405, R406).
-/

namespace Sys2Proof.Machine

/-- The host learns that its command is done, or is refused. -/
def State.done_ (s : State) : Out := .next (s.tell (.command 0))
def State.refuse (s : State) : Out := .next (s.tell (.command 1))

/-! ### Place tables (R118, R119, R391) -/

/-- A team that is not suspended runs on a cluster and so uses its tables (R119). -/
def State.inUse (s : State) (cl : ClusterRef) : Bool := s.teams.any fun t => decide (t.cl = cl ∧ t.st = .resident)

/-- A team that is not suspended belongs to a field that names a partition. -/
def State.partInUse (s : State) (p : Nat) : Bool :=
  s.teams.any fun t => decide (t.st = .resident ∧ (((s.meet? t.meet).bind fun m => m.fields[t.field]?).map Field.part) = some p)

/-- Write back and drop what a cluster's caches hold, its U lines included. -/
def State.emptyCluster (s : State) (cl : ClusterRef) : State :=
  let mine (lv : Level) : Bool := match lv with
    | .l0 c _ => decide (c = cl)
    | .clus c => decide (c = cl)
    | .l2 _ => false
  let s := (s.ulines.filter fun l => l.cl = cl).foldl (fun s l => s.recallU l.pa l.bytes) s
  (s.cleanLevels mine).dropCopies fun c => mine c.level

/-- The new physical cluster behind an entry: every bank in CACHE mode, the trigger counters copied while the old cluster can be read, else
0 with a report (R391). -/
def State.newCluster (s : State) (cl : ClusterRef) : State :=
  let lost : Bool := s.choice ≠ 0
  let s := (s.emptyCluster cl).chosen.updCluster cl fun c =>
    { Cluster.reset with trigs := if lost then Cluster.reset.trigs else c.trigs, bankPl := c.bankPl, chanPl := c.chanPl, trigPl := c.trigPl, rows := c.rows,
                         unit := c.unit }
  if lost then s.tell (.counterLoss cl.die cl.loc) else s

/-- The entry may be written: it lies in its table, its unit exists, and no running task uses it. DESIGN CHOICE: two entries of one table may name the same
unit; two logical clusters then keep separate state (log entry 78). -/
def State.placeOk (s : State) (kind : PlaceKind) (logical : Nat) (unit : Place) : Bool :=
  let fits (n : Nat) : Bool := unit.all fun u => decide (u < n)
  match kind with
  | .cluster d => decide (d < s.dies.length ∧ logical < 24) && fits 26 && !s.inUse { die := d, loc := logical }
  | .bank cl => decide (cl.die < s.dies.length ∧ cl.loc < 24 ∧ logical < 12) && fits 12 && !s.inUse cl
  | .channel cl => decide (cl.die < s.dies.length ∧ cl.loc < 24 ∧ logical < 8) && fits 9 && !s.inUse cl
  | .trigger cl => decide (cl.die < s.dies.length ∧ cl.loc < 24 ∧ logical < 64) && fits 64 && !s.inUse cl
  | .partition => decide (logical < 64) && !s.partInUse logical

/-- PLACE_TABLE_WRITE (R118, R119, R391): refused while a running task uses the entry. -/
def execPlaceTableWrite (kind : PlaceKind) (logical : Nat) (physical : Option Nat) (s : State) : Out :=
  if s.placeOk kind logical physical = false then s.refuse
  else
    match kind with
    | .cluster d =>
      let cl : ClusterRef := { die := d, loc := logical }
      let old := (s.cluster? cl).bind Cluster.unit
      let s := s.updDie d fun e => { e with clusPl := e.clusPl.set logical physical }
      if physical.isNone then s.done_
      else
        let s := if old.isSome ∧ physical ≠ old then s.newCluster cl else s
        (s.updCluster cl fun c => { c with unit := physical }).done_
    | .bank cl => (s.updCluster cl fun c => { c with bankPl := c.bankPl.set logical physical }).done_
    | .channel cl => (s.updCluster cl fun c => { c with chanPl := c.chanPl.set logical physical }).done_
    | .trigger cl => (s.updCluster cl fun c => { c with trigPl := c.trigPl.set logical physical }).done_
    | .partition => ({ s with partPl := s.partPl.set logical physical } : State).done_

/-! ### Repair tables (R390) -/

/-- A bank holds no part of an allocation of a resident team. -/
def State.bankEmpty (s : State) (cl : ClusterRef) (bank : Nat) : Bool :=
  !(s.teams.any fun t => decide (t.cl = cl ∧ t.st = .resident) && (t.cshSegs ++ t.scrSegs.flatten).any fun g => decide (g.bank = bank))

/-- The bank's row table may be rewritten: SCRATCH with no allocation, or CACHE (Table 28.1). -/
def State.bankQuiet (s : State) (cl : ClusterRef) (bank : Nat) : Bool :=
  match ((s.cluster? cl).bind fun c => c.banks[bank]?).map Bank.mode with
  | some .cache => true
  | some .scratch => s.bankEmpty cl bank
  | _ => false

/-- A compute die has the link: compute-to-compute links 0 and 1, of which the KS4-X has the second disabled, and compute-to-hub link 2 (R11, R15). -/
def State.hasLink (s : State) (link : Nat) : Bool := decide (link < 3) && !(decide (s.product = .ks4x ∧ link = 1))

/-- A spare takes the place of one unit: no other entry of the same group has it (R390). -/
def spareFree (table : SMap Nat) (key spare : Nat) (group : Nat → Bool) : Bool := table.all fun p => decide (p.1 = key ∨ p.2 ≠ spare) || !group p.1

/-- REPAIR_TABLE_WRITE (R390): slices, lanes and channels only while the die is in its warm reset. DESIGN CHOICE: the channels of the two stacks of a die are
numbered one stack after the other, 32 each, the spare of a stack by its stack, and a spare that another entry has is refused (log entry 54). -/
def execRepairTableWrite (kind : RepairKind) (index : Nat) (spare : Nat) (s : State) : Out :=
  let reset (d : Nat) : Bool := ((s.die? d).map Die.offline).getD false
  let free (d : Nat) (table : Die → SMap Nat) (key : Nat) (group : Nat → Bool) : Bool := ((s.die? d).map fun e => spareFree (table e) key spare group).getD false
  match kind with
  | .bankRow cl bank =>
    let rows := ((s.cluster? cl).map Cluster.rows).getD []
    if s.bankQuiet cl bank ∧ index < 256 ∧ spare < 8 ∧ spareFree rows (256 * bank + index) spare (fun k => k / 256 = bank) then
      (s.updCluster cl fun c => { c with rows := SMap.set c.rows (256 * bank + index) spare }).done_
    else s.refuse
  | .l2Slice d =>
    if reset d ∧ index < 64 ∧ spare < 4 ∧ free d Die.slicePl index (fun _ => true) then
      (s.updDie d fun e => { e with slicePl := SMap.set e.slicePl index spare }).done_
    else s.refuse
  | .lane d link =>
    if reset d ∧ s.hasLink link ∧ index < 64 ∧ spare < 4 ∧ free d Die.lanePl (64 * link + index) (fun k => k / 64 = link) then
      (s.updDie d fun e => { e with lanePl := SMap.set e.lanePl (64 * link + index) spare }).done_
    else s.refuse
  | .hbm d =>
    if reset d ∧ s.product = .ks4n ∧ index < 64 ∧ spare = index / 32 ∧ free d Die.hbmPl index (fun _ => true) then
      (s.updDie d fun e => { e with hbmPl := SMap.set e.hbmPl index spare }).done_
    else s.refuse

/-! ### Windows and configuration registers -/

/-- The package has the port that a window names: the host port, four CXL ports, and on a KS4-N the scale-up ports, which lead to 1,024 devices (R11,
R23, R24). -/
def State.hasPort (s : State) : PortTarget → Bool
  | .host => true
  | .cxl p => decide (p < 4)
  | .peer d => decide (s.product = .ks4n ∧ d < 1024)

/-- WINDOW_REGISTER_WRITE (R363, R376): base and size are multiples of 256 MiB. -/
def execWindowRegisterWrite (die : Nat) (index : Nat) (base : Nat) (size : Nat) (target : PortTarget) (s : State) : Out :=
  if s.dies.length ≤ die ∨ 16 ≤ index ∨ base % 2 ^ 28 ≠ 0 ∨ size % 2 ^ 28 ≠ 0 ∨ s.hasPort target = false then s.refuse
  else
    let w : Window := { base := base, size := size, target := target, stale := decide (target ∈ s.gone) }
    (s.updDie die fun d => { d with windows := d.windows.set index (some w) }).done_

/-- A new context: %tvec, the format table and everything else are 0 (log entry 4). -/
def newContext (ctx pasid vf driver root : Nat) (root2 : Option Nat) : Context :=
  { id := ctx, pasid := pasid, vf := vf, driver := driver, root := root, root2 := root2, tvec := 0, fmts := List.replicate 16 0, gen := 0, killed := false,
    groups := [], held := [], peers := [], pools := [], errlog := [], due := [] }

/-- The size of the striped range may be set: equal parts of the dies' memory, in steps of 1 GiB for each die (R113). -/
def State.stripeOk (s : State) (size : Nat) : Bool := decide (size % (2 ^ 30 * s.dies.length) = 0 ∧ size ≤ s.dies.length * s.product.dieBytes)

/-- Set the striped range; what memory held that it takes or gives up is lost (log entry 57). -/
def State.setStripe (s : State) (size : Nat) : State :=
  let t : State := { s with stripe := size }
  let kept (a : Nat) : Bool := decide (2 ^ 52 ≤ a) || (t.homeOf a).isSome
  { t with mem := s.mem.filter fun c => kept c.1, poison := s.poison.filter fun l => kept (64 * l) }

/-- A range of an expander's regions or decoders: 256 MiB blocks, none when the size is 0 (R364). -/
def blockRange (base size : Nat) : Option (Option (Nat × Nat)) :=
  if base % 2 ^ 28 ≠ 0 ∨ size % 2 ^ 28 ≠ 0 then none else some (if size = 0 then none else some (base, size))

/-- Set the recorded class of a page at once, when nothing is on its way there and nobody outside holds what is written back (R142). -/
def State.setClass (s : State) (page : Nat) (cls : PageClass) : Out :=
  let old := s.recorded (4096 * page)
  let lines := s.changeLines page cls
  if s.changes.any (fun c => c.page = page) ∨ s.posted.any (Posted.inPage page) ∨ s.changeWaits page then s.refuse
  else if s.clear none old lines = false then (s.askOutside none old lines).refuse
  else (s.transition { page := page, old := old, new := cls }).done_

/-- CONFIG_REGISTER_WRITE (R104, R112, R113, R142, R364, R365, R379, R404). -/
def execConfigRegisterWrite (cmd : ConfigCmd) (s : State) : Out :=
  match cmd with
  | .wayPartition die masks => if die < s.dies.length ∧ masks.length = 8 then (s.updDie die fun d => { d with waypart := masks }).done_ else s.refuse
  | .context ctx pasid vf root root2 driver =>
    match s.ctx? ctx with
    | some c => (s.setCtx { c with pasid := pasid, vf := vf, root := root, root2 := root2, driver := driver }).done_
    | none => ({ s with ctxs := s.ctxs ++ [newContext ctx pasid vf driver root root2] } : State).done_
  | .peerBinding ctx device peerCtx =>
    match s.ctx? ctx with
    | some c => if s.hasPort (.peer device) then (s.setCtx { c with peers := (device, peerCtx) :: c.peers.filter fun p => p.1 ≠ device }).done_ else s.refuse
    | none => s.refuse
  | .recordedClass tenant page cls => if s.holdsPage tenant page then s.setClass page cls else s.refuse
  | .ownerTag tag ctx => ({ s with owners := SMap.set s.owners tag.toNat ctx } : State).done_
  | .striped size => if s.stripeOk size then (s.setStripe size).done_ else s.refuse
  | .dcRegion port index base size =>
    match s.expanderAt port, blockRange base size with
    | some _, some r => if index < 8 then (s.updExpander port fun e => { e with regions := e.regions.set index r }).done_ else s.refuse
    | _, _ => s.refuse
  | .decoder port index base size =>
    match s.expanderAt port, blockRange base size with
    | some _, some r => if index < 8 then (s.updExpander port fun e => { e with decoders := e.decoders.set index r }).done_ else s.refuse
    | _, _ => s.refuse
  | .triggerCounter cl trig v =>
    match s.trigOf cl (BitVec.ofNat 8 trig) with
    | some k => if trig < 64 then (s.raiseTrig cl k v).done_ else s.refuse
    | none => s.refuse
  | .nodeNumber port host => if port < 4 then (s.updExpander (some port) fun e => { e with node := host }).done_ else s.refuse

/-! ### Dynamic capacity (R364, R365) -/

/-- A range lies in one of an expander's regions or decoders. -/
def covered (rs : List (Option (Nat × Nat))) (dpa size : Nat) : Bool := rs.any fun r => (r.map fun r => decide (r.1 ≤ dpa ∧ dpa + size ≤ r.1 + r.2)).getD false

/-- Bytes of memory that an expander has: this package's own, or those of a KS4-X behind a port (R22). -/
def State.expanderBytes (s : State) : Option Nat → Nat
  | some _ => 2 * Product.ks4x.dieBytes
  | none => s.dies.length * s.product.dieBytes

/-- The memory at a place belongs to a range of device addresses of an expander. -/
def State.inDpa (s : State) (port : Option Nat) (dpa size pa : Nat) : Bool :=
  match port with
  | some p => decide (behindPort (.cxl p) dpa ≤ pa ∧ pa < behindPort (.cxl p) dpa + size)
  | none => (s.homeOf pa).isSome && decide (dpa ≤ s.dpaOf pa ∧ s.dpaOf pa < dpa + size)

/-- Zero the memory that a test names. -/
def State.zeroWhere (s : State) (p : Nat → Bool) : State :=
  { s with
    mem := s.mem.filter fun c => !p c.1
    ulines := s.ulines.filter fun l => !p l.pa
    poison := s.poison.filter fun l => !p (64 * l) }

/-- DC_ADD_EXTENT (R364, R365): 256 MiB blocks of a dynamic-capacity region behind a decoder, which no other extent has; the extent reads as zero and is
usable at once. -/
def opDcAddExtent (port : Option Nat) (tenant : Nat) (host : Nat) (dpa : Nat) (blocks : Nat) (s : State) : Out :=
  let size := blocks * 2 ^ 28
  match s.expanderAt port with
  | none => s.refuse
  | some e =>
    if blocks = 0 ∨ dpa % 2 ^ 28 ≠ 0 ∨ s.expanderBytes port < dpa + size ∨ covered e.regions dpa size = false ∨ covered e.decoders dpa size = false ∨
        e.extents.any (fun g => g.dpa < dpa + size ∧ dpa < g.dpa + g.size) then s.refuse
    else
      ((s.zeroWhere (s.inDpa port dpa size)).updExpander port fun e =>
        { e with extents := e.extents ++ [{ tenant := tenant, host := host, dpa := dpa, size := size }] }).done_

/-- The command (R365). -/
def execDcAddExtent (at_ : AtPort) (host : Nat) (dpa : Nat) (blocks : Nat) (s : State) : Out := opDcAddExtent at_.port at_.tenant host dpa blocks s

/-- A task of a tenant has not completed, a terminated one whose team still stops included. -/
def State.tasksOf (s : State) (tenant : Nat) : Bool := s.meets.any fun m => decide (m.tenant = tenant ∧ m.st ≠ .completed) && m.task.isSome

/-- The lines of an extent that hosts hold, or from which back-invalidations are on their way, each with its hosts. -/
def State.heldIn (s : State) (port : Option Nat) (g : Extent) : List (Nat × List Nat) :=
  let mine (l : Nat) : Bool := s.inDpa port g.dpa g.size (64 * l)
  (s.snoopFl.filter fun t => mine t.region).map (fun t => (t.region, t.holders)) ++ (s.snoops.filter fun n => mine n.line).map fun n => (n.line, [n.host])

/-- DC_RELEASE_EXTENT (R365): every line of the extent is back-invalidated from every host, the tasks that touch it complete, and it is zeroed; until then
the release does not complete. This package's own copies of an extent behind a port go, PRIV ones aside (R367). -/
def opDcReleaseExtent (port : Option Nat) (dpa : Nat) (s : State) : Out :=
  match s.expanderAt port with
  | none => s.refuse
  | some e =>
    match e.extents.find? fun g => g.dpa = dpa with
    | none => s.refuse
    | some g =>
      let held := s.heldIn port g
      if held ≠ [] then .next (held.foldl (fun s p => s.sendSnoops p.1 p.2) s)
      else if port = none ∧ s.tasksOf g.tenant then .next s
      else
        let mine := s.inDpa port g.dpa g.size
        (((s.dropCopies fun c => decide (c.cls ≠ .priv) && mine (64 * c.line)).zeroWhere mine).updExpander port fun e =>
          { e with extents := e.extents.filter fun h => h.dpa ≠ dpa }).done_

/-- The command (R365). -/
def execDcReleaseExtent (at_ : DpaRef) (s : State) : Out := opDcReleaseExtent at_.port at_.dpa s

/-! ### Sessions (R369) -/

/-- An expander without a session. -/
def Expander.without (e : Expander) (session : Word) : Expander :=
  { e with live := e.live.filter fun l => l.id ≠ session, accepted := e.accepted.filter fun a => a.1 ≠ session }

/-- An expander with a new session: its first packet is number 1 (R371). -/
def Expander.begin_ (e : Expander) (session : Word) (tenant : Nat) (key : BitVec 256) : Expander :=
  let e := e.without session
  { e with live := { id := session, tenant := tenant, keys := [(0, key)] } :: e.live }

/-- An expander whose session takes a new key for its packets from a counter on (R369). -/
def Expander.rekey (e : Expander) (session : Word) (first : Nat) (key : BitVec 256) : Expander :=
  { e with live := e.live.map fun l => if l.id = session then { l with keys := (first, key) :: l.keys } else l }

/-- The key slot of a die. -/
def State.keySlot (s : State) (die index : Nat) : Option KeySlot := ((s.die? die).bind fun d => d.keys[index]?).join

/-- The counter that follows the packets of a session that have reached an expander. -/
def Expander.nextCounter (e : Expander) (session : Word) : Nat :=
  1 + ((e.accepted.filter fun a => a.1 = session).map Prod.snd ++ (e.arriving.filter fun p => p.session = session).map Packet.counter).foldl max 0

/-- KEY_EXCHANGE (R369): a slot is filled once the expander's signed responses are verified; its counter starts at 0, and an old session of the
slot ends. On a KS4-X, the other end of a node's session. -/
def execKeyExchange (which : KeyEnd) (ctx : Nat) (expander : Nat) (tenant : Nat) (session : Word) (key : BitVec 256) (verified : Bool) (s : State) : Out :=
  match which with
  | .slot die index =>
    if s.dies.length ≤ die ∨ 64 ≤ index ∨ 4 ≤ expander ∨ verified = false ∨ .cxl expander ∈ s.gone ∨ ((s.die? die).map fun d => d.coreUp 5) ≠ some true ∨ ((s.ctx? ctx).map fun c => !c.killed).getD false = false then s.refuse
    else
      let s := s.endSessions fun d k => d = die ∧ s.keySlot die index = some k
      ((s.updKey die index fun _ => some { ctx := ctx, expander := expander, session := session, key := key, counter := 0 }).updExpander (some expander)
        fun e => e.begin_ session tenant key).done_
  | .node id =>
    if s.product ≠ .ks4x ∨ verified = false then s.refuse else (s.updExpander none fun e => e.begin_ id tenant key).done_

/-- KEY_UPDATE (R369): the key is replaced between two packets, at both ends: packets sent before keep the old one. -/
def opKeyUpdate (which : KeyEnd) (key : BitVec 256) (s : State) : Out :=
  match which with
  | .slot die index =>
    match s.keySlot die index with
    | none => s.refuse
    | some k =>
      ((s.updKey die index fun o => o.map fun k => { k with key := key }).updExpander (some k.expander) fun e => e.rekey k.session (k.counter + 1) key).done_
  | .node id =>
    if s.product ≠ .ks4x ∨ (s.expander.session? id).isNone then s.refuse
    else (s.updExpander none fun e => e.rekey id (e.nextCounter id) key).done_

/-- The command (R369). -/
def execKeyUpdate (die : Option Nat) (index : Nat) (key : BitVec 256) (s : State) : Out := opKeyUpdate (keyEnd die index) key s

/-- END_SESSION (R369). -/
def opEndSession (which : KeyEnd) (s : State) : Out :=
  match which with
  | .slot die index =>
    match s.keySlot die index with
    | none => s.refuse
    | some k => ((s.endSessions fun d l => d = die ∧ l = k).updKey die index fun _ => none).done_
  | .node id =>
    if s.product ≠ .ks4x ∨ (s.expander.session? id).isNone then s.refuse else (s.updExpander none fun e => e.without id).done_

/-- The command (R369). -/
def execEndSession (die : Option Nat) (index : Nat) (s : State) : Out := opEndSession (keyEnd die index) s

/-! ### Images and tasks at the expander (R370 to R373) -/

/-- TASK_IMAGE_REGISTRATION (R372). -/
def opTaskImageRegistration (port : Option Nat) (tenant : Nat) (hash : DWord) (ctx : Nat) (kent : Nat) (text : Nat) (args : Nat) (part : Nat) (s : State) : Out :=
  let m : TaskImage := { tenant := tenant, hash := hash, ctx := ctx, kent := kent, text := text, args := args, part := part }
  match s.expanderAt port with
  | none => s.refuse
  | some _ => (s.updExpander port fun e => { e with images := m :: e.images.filter fun o => ¬ (o.tenant = tenant ∧ o.hash = hash) }).done_

/-- The command (R372). -/
def execTaskImageRegistration (at_ : AtPort) (hash : DWord) (ctx : Nat) (kent : Nat) (text : Nat) (args : Nat) (part : Nat) (s : State) : Out := opTaskImageRegistration at_.port at_.tenant hash ctx kent text args part s

/-- The one field of an accepted task: one team of one heat of one fibre, which runs the image's kernel entry (log entry 33). -/
def State.taskField (s : State) (g : TaskImage) : Option (Field × State) :=
  match s.cpRead 0 g.ctx g.kent 32 with
  | .error _ => none
  | .ok (e, s) =>
    (parseKernel e
      { part := g.part, teams := 1, squads := 1, heats := 1, fibres := 1, text := g.text, privbase := 0, ps := 0, entry := 0, pentry := none, regs := 0,
        xregs := false, accrows := 0, scratch := 0, cshared := 0, handed := 0, handouts := [], placed := 0, completed := 0 }).map fun f => (f, s)

/-- The argument block of a task: each task of an image that has not completed has its own 4 KiB from the image's place on (log entry 33). -/
def State.taskArgs (s : State) (g : TaskImage) : Nat :=
  let taken (a : Nat) : Bool := s.meets.any fun m => decide (m.task.isSome ∧ m.st ≠ .completed ∧ m.ctx = g.ctx ∧ m.args = a)
  g.args + 4096 * ((List.range (s.meets.length + 1)).find? fun k => !taken (g.args + 4096 * k)).getD 0

/-- The place of an accepted task's result flag. -/
def State.flagPlace (s : State) (p : Packet) : Nat := s.dpaPlace none (p.field 8 8)

/-- The meet of an accepted task (R373). -/
def State.taskMeet (s : State) (p : Packet) (tenant : Nat) (g : TaskImage) (f : Field) : Meet :=
  let dl := p.field 0 4
  let t0 := s.clockOf (s.serverOf 0)
  { id := s.nextId, ctx := g.ctx, queue := 0, tenant := tenant, seq := wd p.counter, signal := 0, args := s.taskArgs g, budget := p.field 4 4, deadline := dl,
    t0 := t0, home := 0, st := .deciding, fields := [f], dls := [{ keeper := 0, on := s.serverOf 0, dl := ((t0 + dl : Nat) : Int), commit := true }], sums := [],
    reports := [], graced := false, late := false, mute := false, task := some (s.flagPlace p, wd p.counter) }

/-- Deadlines of the other keepers of a task, their round trip taken as 0 (log entry 33). -/
def State.taskDls (s : State) (m : Meet) : Meet :=
  { m with dls := m.dls ++ ((s.keepersOf m).filter (· ≠ 0)).map fun k =>
      { keeper := k, on := s.serverOf k, dl := (s.clockOf (s.serverOf k) : Int) + m.deadline - dlMargin m.deadline, commit := true } }

/-- Write an argument block line by line, each line through its page's translation; a line that has none is not written. -/
def State.putArgs (s : State) (ctx a : Nat) (bs : List Byte) : Nat → State
  | 0 => s
  | k + 1 =>
    if bs = [] then s
    else
      let n := 64 - a % 64
      let s := match s.cpReach 0 ctx a .store .plain with
        | .ok h => s.cpStore (s.serverOf 0) h.cls (h.phys a) (bs.take n)
        | .error _ => s
      s.putArgs ctx (a + n) (bs.drop n) k

/-- An accepted task becomes a meet under admission (R327, R373); its argument block is written first. -/
def State.startTask (s : State) (p : Packet) (tenant : Nat) (g : TaskImage) : State :=
  match s.taskField g with
  | none => s.cpStore (s.serverOf 0) .seq (s.flagPlace p) (leBytes ((wd p.counter).toNat * 2 ^ 32 + 6 * 256 + 2) 8)
  | some (f, s) =>
    let m := s.taskDls (s.taskMeet p tenant g f)
    let s := ({ s with nextId := s.nextId + 1, meets := s.meets ++ [m] } : State).putArgs g.ctx m.args (p.bytes.drop 64) 65
    s.conclude m ((s.keepersOf m).map fun k => s.keeperTest m k (s.timeLeft m k)) none

/-- An expander with a packet's counter as the last accepted of its session (R372). -/
def Expander.accept (e : Expander) (p : Packet) : Expander :=
  { e with accepted := (p.session, p.counter) :: e.accepted.filter fun a => a.1 ≠ p.session }

/-- A packet that a node has sent to this expander. -/
def packetOf (n : NodePacket) : Packet :=
  { team := 0, handle := 0, die := 0, slot := 0, expander := 0, session := n.session, counter := leNat ((n.bytes.drop 24).take 8), bytes := n.bytes,
    tag := BitVec.ofNat 256 (leNat ((n.bytes.drop 32).take 32)) }

/-- A node's packet at this expander (R372, R373): it is checked, answered, and when it is accepted its task runs here. -/
def State.nodePacket (s : State) (p : Packet) : State :=
  match s.packetFault none s.expander p with
  | some c => s.tell (.taskAnswer p.session p.counter (some c))
  | none =>
    let tenant := ((s.expander.session? p.session).map Session.tenant).getD 0
    let hash := dw (p.field 16 8)
    let s := (s.updExpander none fun e => e.accept p).tellAll [.taskAnswer p.session p.counter none, .task tenant p.counter hash]
    match s.expander.images.find? fun g => g.tenant = tenant ∧ g.hash = hash with
    | some g => s.startTask p tenant g
    | none => s

/-- A write of a task that runs at the expander behind a port: this package's copies are back-invalidated first (R366, R373). -/
def State.taskWrite (s : State) (port dpa : Nat) (bs : List Byte) : State :=
  ((linesOf dpa bs.length).foldl (fun s l => s.backInvalidate (.cxl port) l) s).homeWrite (behindPort (.cxl port) dpa) bs

/-- TASK_PACKET_CHECK (R372, R373): the oldest packet that this package has sent through a CXL port is checked by the expander there, which runs the task
itself; or on a KS4-X a packet comes from a node; or a task that has run behind a port hands over what it wrote, its result flag last. -/
def execTaskPacketCheck (which : TaskArrival) (s : State) : Out :=
  match which with
  | .fromNode n => if s.product = .ks4x ∧ 64 ≤ n.bytes.length ∧ n.bytes.length ≤ 4096 then .next (s.nodePacket (packetOf n)) else .next s
  | .ran port writes flag word =>
    if (s.expander? port).isNone ∨ s.product = .ks4x ∨ .cxl port ∈ s.gone ∨ flag % 8 ≠ 0 then .next s
    else .next ((writes ++ [(flag, leBytes word.toNat 8)]).foldl (fun s w => s.taskWrite port w.1 w.2) s)
  | .sent port =>
    match (s.expander? port).bind fun e => e.arriving.head?.map fun p => (e, p) with
    | none => .next s
    | some (e, p) =>
      let s := s.updExpander (some port) fun e => { e with arriving := e.arriving.tail }
      match s.packetFault (some port) e p with
      | some c => .next (s.answerXfer p (some c))
      | none =>
        let tenant := ((e.session? p.session).map Session.tenant).getD 0
        .next (((s.updExpander (some port) fun e => e.accept p).answerXfer p none).tell (.task tenant p.counter (dw (p.field 16 8))))

/-! ### Attestation (R405, R406) -/

/-- An entry of a repair table as numbers: the die, the table, the cluster of a bank repair table, the index and the spare. -/
def repairLine (die table cluster : Nat) (p : Nat × Nat) : List Nat := [die, table, cluster, p.1, p.2]

/-- The repair tables as numbers, in the order of the dies: slices are table 0, channels 1, lanes 2 and bank rows 3. -/
def State.repairs (s : State) : List Nat :=
  s.dies.zipIdx.flatMap fun (d, k) =>
    d.slicePl.flatMap (repairLine k 0 0) ++ d.hbmPl.flatMap (repairLine k 1 0) ++ d.lanePl.flatMap (repairLine k 2 0) ++
      d.clusters.zipIdx.flatMap fun (c, l) => c.rows.flatMap (repairLine k 3 l)

/-- GET_MEASUREMENTS (R406): every layer's measurement and the repair tables; the signature is a free value (log entry 30). -/
def execGetMeasurements (requester : Nat) (s : State) : Out :=
  let (sig, s) := s.free
  .next (s.tell (.measurements (requester :: s.layers.map Layer.measurement ++ s.repairs) sig))

/-- FIRMWARE_IMAGE_LOAD (R405): refused, the running image kept, when the signature fails, the version lies below the rollback counter, or the
previous layer cannot measure it; the boot ROM is no image. The identifiers of the layers above follow from the new measurement. -/
def execFirmwareImageLoad (image : Firmware) (s : State) : Out :=
  match s.layers[image.layer]? with
  | none => s.refuse
  | some l =>
    if image.layer = 0 ∨ image.signatureOk = false ∨ image.version < l.rollback ∨ image.measurable = false then s.refuse
    else ({ s with layers := bootLayers (s.layers.set image.layer { l with measurement := image.measurement, version := image.version }) } : State).done_

end Sys2Proof.Machine
end

