-- ==== Sys2Proof/Machine/Errors.lean ====
section
/-!
DEFINITION. Errors of ports and homes: failed write-backs (R407), viral state (R375), and lost devices (R376, R387).
-/

namespace Sys2Proof.Machine

/-- WRITEBACK_ERROR_ANSWER (R407): the dirty data of the die's copies of the line is discarded, and its owner is charged. -/
def execWritebackErrorAnswer (die : Nat) (line : Nat) (cs : Byte) (s : State) : Out :=
  if cs ≠ cause.protection ∧ cs ≠ cause.classAlias then .next s
  else
    let bad (c : CLine) : Bool := decide (c.line = line ∧ c.level.die = die) && !c.dirtyBytes.isEmpty
    .next ((s.lines.filter bad).foldl (fun s c => s.chargeOwner die c cs) (s.dropCopies bad))

/-- The device that holds the memory at a place (R363). -/
def targetAt (pa : Nat) : Option PortTarget := if 2 ^ 52 ≤ pa then some (portTarget (pa / 2 ^ 52 - 1)) else none

/-- VIRAL comes to the teams of a context, resident or saved; a context without any takes it as R355 says. -/
def State.viralTraps (s : State) (c : Context) (port : Nat) : State :=
  let d : DTrap := { cause := cause.viral, inner := 0, pc := 0, info := dw port, src := none }
  match s.teams.filter fun t => t.ctx = c.id ∧ t.st ≠ .retired with
  | [] => s.ctxTrap c.id d
  | ts => ts.foldl (fun s t => s.defer t.id d) s

/-- Writes posted towards a device that has gone are discarded with a deferred trap, which carries the PC of their stores (R350, R375, R376). -/
def State.failPosted (s : State) (t : PortTarget) (c : Byte) : State :=
  let lost (p : Posted) : Bool := p.lines.any fun l => targetAt (64 * l) == some t
  (s.posted.filter lost).foldl (fun s p => match p.by_ with
    | some u =>
      let die := ((s.team? u.team).map fun t => t.cl.die).getD 0
      s.defer u.team { cause := c, inner := 0, pc := p.pc, info := if c = cause.viral then dw (portNo t) else dw (2 ^ 63 + s.physical die p.pa), src := some u.who }
    | none => s) { s with posted := s.posted.filter fun p => !lost p }

/-- VIRAL_ENTRY (R375): dirty lines homed behind the port go, writes on their way there are discarded, and the contexts that map memory through it take VIRAL. -/
def execViralEntry (port : Nat) (s : State) : Out :=
  let port := portNo (portTarget port)
  let behind (pa : Nat) : Bool := targetAt pa == some (portTarget port)
  let hit := s.ctxs.filter fun c => s.maps c fun r => s.behind r (portTarget port)
  let s := (s.failPosted (portTarget port) cause.viral).dropCopies fun c => behind (64 * c.line) && !c.dirtyBytes.isEmpty
  let s : State := { s with
    viral := if port ∈ s.viral then s.viral else port :: s.viral
    ulines := s.ulines.filter fun l => !behind l.pa }
  .next (hit.foldl (fun s c => s.viralTraps c port) s)

/-- PORT_RESET (R375): the host ends a port's viral state. -/
def execPortReset (port : Nat) (s : State) : Out := ({ s with viral := s.viral.filter (· ≠ portNo (portTarget port)) } : State).done_

/-- The expander of a TSEND that is still pending. -/
def State.pendingSend (s : State) (t : Team) (x : Xfer) : Option Nat :=
  match x.work with
  | .task _ _ slot => x.port.or ((s.keyOf t.cl.die slot t.ctx).map KeySlot.expander)
  | .tile _ _ _ _ _ => none
  | .coll _ _ _ _ _ _ _ => none

/-- The packet address of a TSEND. -/
def XferWork.packet : XferWork → DWord
  | .task a _ _ => a
  | .tile _ _ _ _ _ => 0
  | .coll _ _ _ _ _ _ _ => 0

/-- Pending TSEND handles of an expander become ERROR (R312, R376). -/
def State.failSends (s : State) (p : Nat) : State :=
  (s.teams.flatMap fun t => (t.xfers.filter fun x => s.pendingSend t x = some p).map fun x => (t.id, x)).foldl (fun s q =>
    match s.team? q.1 with
    | some t => s.xferError t q.2 cause.expanderLost q.2.work.packet
    | none => s) s

/-- A lost peer takes part in no collective any more (R387): the instances that wait for its data end ERROR, those that wait for buffers among them; what
their %tinfo holds is a free value (log entry 6). -/
def State.failColls (s : State) (device : Nat) : State :=
  let (info, s) := s.free
  let gone (g : Group) : Group :=
    { g with open_ := g.open_.map fun p => (p.1, p.2.filter fun m => g.entry.members[m]? ≠ some device) }
  (s.teams.flatMap fun t => t.xfers.filterMap fun x =>
      (s.inst? t x).bind fun n => if x.st = .running ∨ x.st = .waitBuffer then some (t.id, x, n) else none).foldl
    (fun s q => s.collLost q.1 q.2.1 q.2.2 device info)
    { s with ctxs := s.ctxs.map fun c => { c with groups := c.groups.map fun p => (p.1, gone p.2) } }

/-- A lost peer holds nothing and answers nothing any more: its contributions that have not returned are gone, and nobody waits for it. -/
def State.forgetPeer (s : State) (d : Nat) : State :=
  let lines := (s.peerU.filter fun p => p.1 = d).map Prod.snd
  let s := lines.foldl State.sumsIn { s with peerU := s.peerU.filter fun p => p.1 ≠ d }
  let s : State := { s with
    peerTrk := s.peerTrk.map fun p => (p.1, p.2.map fun t => { t with holders := t.holders.filter (· ≠ d) })
    invals := s.invals.map fun v => { v with left := v.left.filter (· ≠ 3000 + d) }
    outq := s.outq.filter fun x => x.src ≠ .peer d }
  s.answered (fun p => decide (3000 + d ∈ p.left)) (3000 + d)

/-- Empty the key slots of a lost expander; the packets on their way to it are lost, and so are its sessions. -/
def State.lostSessions (s : State) : PortTarget → State
  | .cxl p => ((s.updExpander (some p) fun e => { e with arriving := [], live := [] }).failSends p).endSessions fun _ k => k.expander = p
  | .peer d => (s.failColls d).forgetPeer d
  | .host => s

/-- A device is lost (R376): its lines go from every cache, its sessions end, and the contexts that map memory through a window naming it take
EXPANDER_LOST. -/
def State.lose (s : State) (t : PortTarget) : State :=
  match t with
  | .host => s
  | t =>
    let behind (pa : Nat) : Bool := targetAt pa == some t
    let hit := s.ctxs.filter fun c => s.maps c fun r => s.behind r t
    let s := (s.failPosted t cause.expanderLost).dropCopies fun c => behind (64 * c.line)
    let s : State := { s with
      ulines := s.ulines.filter fun l => !behind l.pa
      gone := if t ∈ s.gone then s.gone else t :: s.gone
      dies := s.dies.map fun d => { d with windows := d.windows.map (Option.map fun w => if w.target = t then { w with stale := true } else w) } }
    let (info, s) := (s.lostSessions t).free
    hit.foldl (fun s c => s.ctxTrap c.id { cause := cause.expanderLost, inner := 0, pc := 0, info := info, src := none }) s

/-- LINK_FAILURE (R376). -/
def execLinkFailure (target : PortTarget) (s : State) : Out := .next (s.lose target)

/-- REQUEST_TIMEOUT (R376): no completion within 2 ms. -/
def execRequestTimeout (target : PortTarget) (s : State) : Out := .next (s.lose target)

/-- DEVICE_RECONNECTION (R376): the link is up again; windows written before stay unusable until they are rewritten, and the sessions are gone. -/
def execDeviceReconnection (target : PortTarget) (s : State) : Out := .next { s with gone := s.gone.filter (· ≠ target) }

end Sys2Proof.Machine
end

