-- ==== Sys2Proof/Machine/PageFormat.lean ====
section
/-!
DEFINITION. Page formats: opcodes 0x5E to 0x61 (R278 to R283).
-/

namespace Sys2Proof.Machine

/-! ### The span (R279) -/

/-- Values that a slot supplies. -/
def spanEach (e : Ext) : Nat := (e.m1.toNat + 1) * lanesOf e.ty

/-- Elements of the span L. -/
def spanLen (e : Ext) : Nat := 32 * spanEach e

/-- Value k of a slot: register C before C + 1, the low element of a pair before the high. -/
def Site.spanValue (x : Site) (e : Ext) (i k : Nat) : Supply :=
  let n := lanesOf e.ty
  { val := readF e.ty (subOf e) (laneOf e.ty (x.val i (e.c.toNat + k / n) 1) (k % n)), draw := x.draw e i k }

/-- The values of the span: a slot that does not execute supplies +0. -/
def Site.span (x : Site) (e : Ext) (is : List Nat) : List Supply :=
  (List.range 32).flatMap fun i => (List.range (spanEach e)).map fun k =>
    if i ∈ is then x.spanValue e i k else { val := .fin false 0 0, draw := 0 }

/-- The generators after the span's draws (R78, R279). -/
def Site.spanDrawn (x : Site) (e : Ext) (is : List Nat) : Site := is.foldl (fun y i => x.drawn e i (spanEach e) y) x

/-- The value registers. -/
def usesSpan (e : Ext) : Use := readC e (e.m1.toNat + 1)

/-! ### QPACK (R279, R280) -/

/-- A chunk of a QPACK: its page's virtual address, its number in the page, the first element of the span in it, and how many. -/
structure PackChunk where
  page  : Nat
  chunk : Nat
  first : Nat
  ofs   : Nat
  count : Nat
  deriving DecidableEq, Repr

/-- The chunks of a span of L elements from element j0 on. -/
def packChunks (f : Entry) (a j0 l : Nat) : List PackChunk :=
  ((((List.range l).map fun k => (j0 + k) / f.elems)).dedup).map fun g =>
    let lo := max j0 (g * f.elems)
    let hi := min (j0 + l) ((g + 1) * f.elems)
    { page := a + 65536 * (g / f.chunks), chunk := g % f.chunks, first := lo % f.elems, ofs := lo - j0, count := hi - lo }

/-- What the checks of a QPACK on its page come to (R279, R226). -/
inductive PackAns where
  | go (f : Entry)
  | trap (c : Byte) (info : Nat)
  | page (va : Nat) (info : Nat)

/-- The address of a chunk. -/
def PackChunk.addr (f : Entry) (p : PackChunk) : Nat := p.page + p.chunk * f.chunkBytes

/-- The first of several chunks whose page fails: its format, then its translation, then its permission and its class, which are tested whatever its home
then says (R226, R280). -/
def State.packPages (s : State) (x : Site) (fmt : Nat) (ps : List PackChunk) : Option PackAns :=
  let hit (p : PackChunk) : Option Hit := s.translate x.team.ctx x.tlb p.page
  (ps.findSome? fun p =>
    if 2 ^ 56 ≤ p.page then some (.trap cause.spaceWindow p.page)
    else (hit p).bind fun h => if h.fmt ≠ fmt ∨ h.size ≠ 65536 then some (.trap cause.formatInvalid p.page) else none).or
  (ps.findSome? fun p => if (hit p).isNone then some (.page p.page p.page) else none) |>.or
  (ps.findSome? fun p => (hit p).bind fun h =>
    if h.write = false then some (.trap cause.protection p.page)
    else if h.cls = .stream then some (.trap cause.classIllegal p.page)
    else none)

/-- The checks of R279 in their order. -/
def State.packCheck (s : State) (x : Site) (e : Ext) (a j0 : Nat) : PackAns :=
  if windowOf a ≠ some .global then .trap cause.formatInvalid a
  else if a % 65536 ≠ 0 ∨ j0 % spanLen e ≠ 0 then .trap cause.misaligned a
  else
    match s.formatAt x.team.ctx x.tlb a with
    | .error (.translation va) => .page va a
    | .error _ => .trap cause.formatInvalid a
    | .ok (h, f) =>
      if spanLen e < f.block then .trap cause.formatInvalid a
      else (s.packPages x h.fmt (packChunks f a j0 (spanLen e))).getD (.go f)

/-- What the write of a chunk meets at each 4 KiB of it and at its home (R142, R226, R280). -/
def State.packMeets (s : State) (x : Site) (is : List Nat) (f : Entry) (p : PackChunk) : Meets :=
  let va := p.addr f
  match s.reachRange x va f.chunkBytes .store .conv with
  | .error (.translation v) => .page v
  | .error (.early c) => .precise c
  | .error (.late c) => .deferred c (s.pathInfoAt x va c (dw va))
  | .error .hold => .hold
  | .ok h =>
    let pa := h.phys va
    if is.any fun i => s.loadsWait x i h false then .hold
    else if s.loadPoison x h pa f.chunkBytes false then .deferred cause.poison (dw va)
    else .fine

/-- Store one piece of a converting write as the unit makes it (R280): a PHASE piece enters the write set, a PRIV one the unit's nearest cache. -/
def State.packPiece (s : State) (x : Site) (h : Hit) (pa : Nat) (bs : List Byte) : State × Site :=
  match h.cls with
  | .seq | .stream => (s.engPut x h [] pa bs, x)
  | .phase => s.storePage x h pa bs false
  | .priv => (bs.zipIdx.foldl (fun s p => s.storePriv x h (pa + p.2) [p.1]) s, x)

/-- The lines that a converting write of a PRIV chunk has dirtied reach the home together (R92). -/
def State.bindChunk (s : State) (x : Site) (pa n : Nat) : State :=
  { s with lines := s.lines.map fun c =>
      if c.cls = .priv ∧ some c.level = s.storeLevel x ∧ c.line ∈ linesOf pa n ∧ c.dirtyBytes ≠ [] then { c with chunk := some (pa, n) } else c }

/-- The word of a page's format. -/
def State.formatWord (s : State) (ctx fmt : Nat) : Word := ((s.ctx? ctx).bind fun c => c.fmts[fmt]?).getD 0

/-- The QPACK that a write set already holds for a chunk, by its rind. -/
def Site.packedAt (x : Site) (rind : Nat) : Nat := (((x.heat.ws.find? fun b => b.pa = rind).bind WsByte.pack).map Pack.sat).getD 0

/-- Note in the write set that a QPACK on a PHASE page wrote a chunk (R280): everything that the write set then holds of the chunk belongs to it,
and its home performs it as one write. `sat` counts what it and the QPACKs before it saturated (R91). -/
def Site.notePack (x : Site) (s : State) (h : Hit) (f : Entry) (pa sat : Nat) : Site :=
  let rind := pa + 4096 + f.scaleArea
  let word := s.formatWord x.team.ctx h.fmt
  let held := (x.heat.ws.filter fun b => decide (pa ≤ b.pa ∧ b.pa < pa + f.chunkBytes)).map fun b => (b.pa, b.byte)
  let p : Pack := { base := pa, fmt := h.fmt, word := word, sat := sat, bytes := held }
  { x with heat := { x.heat with ws := x.heat.ws.map fun b => if b.pa = rind then { b with pack := some p } else b } }

/-- The pieces of a chunk that a converting write changes: the data and scale of its blocks, and the rind. -/
def packedPieces (f : Entry) (p : PackChunk) (new : List Byte) : List (Nat × List Byte) :=
  let b := p.first / f.block
  let n := p.count / f.block
  let at_ (o k : Nat) : Nat × List Byte := (o, (new.drop o).take k)
  [at_ (b * f.block * f.w / 8) (n * f.block * f.w / 8), at_ (4096 + 3 * b) (3 * n), at_ (4096 + f.scaleArea) 16]

/-- The write of a chunk of a SEQ page, as its home performs it (R280). -/
def State.packSeq (s : State) (x : Site) (h : Hit) (pa va sat : Nat) (ps : List (Nat × List Byte)) : State × Site :=
  let p : Pack := { base := pa, fmt := h.fmt, word := s.formatWord x.team.ctx h.fmt, sat := sat,
                    bytes := ps.flatMap fun q => q.2.zipIdx.map fun b => (pa + q.1 + b.2, b.1) }
  let (s, posted) := s.seqPut { id := 0, by_ := some x.u, pc := s.cur.pc, src := none, pa := pa, bytes := [], left := [], tells := [], va := va, pack := some p }
    (s.posts x.u)
  (s, if posted then x.owe 1 else x)

/-- Write one chunk in one step (R92, R279, R280). One of a SEQ page counts as one store, which waits for those who hold a copy of any of its lines (R139,
R359). -/
def State.packChunk (s : State) (x : Site) (e : Ext) (f : Entry) (vs : List Supply) (p : PackChunk) : State × Site :=
  match s.reachRange x (p.addr f) f.chunkBytes .store .conv with
  | .error _ => (s, x)
  | .ok h =>
    let pa := h.phys (p.addr f)
    let before := x.packedAt (pa + 4096 + f.scaleArea)
    let (old, s) := (s.freshen x pa f.chunkBytes).chunkBytes x (.unit x.u) h pa f.chunkBytes
    let (new, sat) := f.putBlocks (rndOf e) (p.count / f.block) old (p.first / f.block) ((vs.drop p.ofs).take p.count)
    let ps := packedPieces f p (f.rewrite h.fmt new sat false)
    if h.cls = .seq then s.packSeq x h pa (p.addr f) sat ps
    else
      let (s, y) := ps.foldl (fun (s, y) q => s.packPiece y h (pa + q.1) q.2) (s, x)
      (if h.cls = .priv then s.bindChunk x pa f.chunkBytes else s, if h.cls = .phase then y.notePack s h f pa (sat + before) else y)

/-- QPACK (R279, R280): a fault at the home of one chunk is deferred and discards that chunk's write. -/
def opQpack (e : Ext) (s : State) : Out :=
  issue e.guard (demand [readA e 2, { reg := e.b.toNat, n := 1, rd := true }, usesSpan e]) s fun s1 x is =>
    let i := is.headD 0
    let a := x.val i e.a.toNat 2
    let j0 := x.val i e.b.toNat 1
    match s1.packCheck x e a j0 with
    | .trap c v => s1.trap x is c i (dw v)
    | .page va v => s1.pageFault x is i va (dw v)
    | .go f =>
      let ps := packChunks f a j0 (spanLen e)
      if x.fullCount ps.length then s.stall
      else
        State.sortMeets s s1 x is (ps.map fun p => (i, p.page, s1.packMeets x is f p)) fun _ =>
          let (s2, y) := ps.foldl (fun (s, y) p =>
            match s1.packMeets x is f p with
            | .deferred c info => (s, y.deferOwn s c i info)
            | _ => s.packChunk y e f (x.span e is) p) (s1, x.spanDrawn e is)
          .next (s2.done y)

/-! ### QUNPACK and QSCALE (R281, R282) -/

/-- The format entry that imm16 names, when it is valid. -/
def State.entryOf (s : State) (x : Site) (e : Ext) : Option Entry :=
  ((s.ctx? x.team.ctx).bind fun c => c.fmts[bitsOf e.imm.toNat 8 4]?).bind fun w =>
    if (Entry.ofWord w).valid then some (Entry.ofWord w) else none

/-- FORMAT_INVALID of an instruction that reaches no page: the manual states no address for it (log entry 6). -/
def State.formatTrap (s : State) (x : Site) (is : List Nat) : Out :=
  let (v, s) := s.free
  s.trap x is cause.formatInvalid (is.headD 0) v

/-- QUNPACK (R281). -/
def opQunpack (e : Ext) (s : State) : Out :=
  issue e.guard (demand [useD e 1, readA e 1, { reg := e.b.toNat, n := 1, rd := true }]) s fun s x is =>
    let t := bitsOf e.imm.toNat 0 5
    match s.entryOf x e with
    | none => s.formatTrap x is
    | some f =>
      if 32 < (t + 1) * f.w then s.formatTrap x is
      else
        regEffect (fun x i y =>
          let v := Fp.mul (f.decode (bitsOf (x.val i e.a.toNat 1) (t * f.w) f.w)) (FFmt.f32.read (x.val i e.b.toNat 1))
          x.drawn e i 1 (y.dst32 i e (x.rnd e i 0 v))) s x is

/-- QSCALE (R282). -/
def opQscale (e : Ext) (s : State) : Out :=
  issue e.guard (demand [useD e 1, usesSpan e]) s fun s x is =>
    match s.entryOf x e with
    | none => s.formatTrap x is
    | some f =>
      if spanLen e < f.block then s.formatTrap x is
      else
        let vs := (x.span e is).map Supply.val
        regEffect (fun _ i y =>
          let b := spanEach e * i / f.block
          y.dst32 i e (256 * chooseScale f ((vs.drop (b * f.block)).take f.block))) s x is

/-! ### QCHK (R283) -/

/-- The outcome of the read of a QCHK: the chunk with its format, what its access met, or what stops it. -/
inductive Checked where
  | rind (f : Entry) (chunk : List Byte) (ok : Bool)
  | trap (c : Byte) (info : DWord)
  | page (va : Nat)
  | hold

/-- Read and check a chunk (R92, R93, R283): its format before its page's permission, its path and its class, which are met at each 4 KiB of the chunk. -/
def State.checkChunk (s : State) (x : Site) (is : List Nat) (a c : Nat) : Checked × State :=
  match s.formatAt x.team.ctx x.tlb a with
  | .error (.translation va) => (.page va, s)
  | .error _ => (.trap cause.formatInvalid (dw a), s)
  | .ok (_, f) =>
    let va := a + c * f.chunkBytes
    if f.chunks ≤ c then (.trap cause.formatInvalid (dw a), s)
    else
      match s.reachRange x va f.chunkBytes .load .conv with
      | .error (.translation v) => (.page v, s)
      | .error (.early cs) => (.trap cs (dw a), s)
      | .error (.late cs) => (.trap cs (s.pathInfoAt x va cs (dw va)), s)
      | .error .hold => (.hold, s)
      | .ok h =>
        let pa := h.phys va
        if is.any fun i => s.orderWaits x i h false then (.hold, s)
        else if s.loadPoison x h pa f.chunkBytes false then (.trap cause.poison (dw va), s)
        else
          let (bs, s) := (s.freshen x pa f.chunkBytes).chunkBytes x (.unit x.u) h pa f.chunkBytes
          (.rind f bs (f.rindOk h.fmt bs), s)

/-- QCHK (R283). -/
def opQchk (e : Ext) (s : State) : Out :=
  let try_ := e.mod.getLsbD 0
  issue e.guard { uses := [useD e 1, readA e 2, { reg := e.b.toNat, n := 1, rd := true }], v0 := try_, leader := false } s fun s1 x is =>
    let i := is.headD 0
    let a := x.val i e.a.toNat 2
    let c := x.val i e.b.toNat 1
    if windowOf a ≠ some .global then s1.trap x is cause.formatInvalid i (dw a)
    else if a % 65536 ≠ 0 then s1.trap x is cause.misaligned i (dw a)
    else
      match s1.checkChunk x is a c with
      | (.hold, _) => s.stall
      | (.page va, s2) => s2.pageFault x is i va (dw a)
      | (.trap cs info, s2) => s2.trap x is cs i info
      | (.rind f bs ok, s2) =>
        if ok then
          regEffect (fun _ i y =>
            if try_ then (y.dst32 i e (f.rindWord bs)).setGuard i (e.c.toNat % 32) true else y.dst32 i e (f.rindWord bs)) s2 x is
        else if try_ then regEffect (fun _ i y => y.setGuard i (e.c.toNat % 32) false) s2 x is
        else s2.trap x is cause.rindMismatch i (dw (a + c * f.chunkBytes))

/-! ### The meanings, one for each row of the opcode table -/

/-- QPACK (R279). -/
def execQpack (e : Ext) (s : State) : Out := opQpack e s

/-- QUNPACK (R281). -/
def execQunpack (e : Ext) (s : State) : Out := opQunpack e s

/-- QSCALE (R282). -/
def execQscale (e : Ext) (s : State) : Out := opQscale e s

/-- QCHK (R283). -/
def execQchk (e : Ext) (s : State) : Out := opQchk e s

end Sys2Proof.Machine
end

