-- ==== Sys2Proof/Machine/Power.lean ====
section
/-!
DEFINITION. Monitors (R392, R397), power states (R393 to R396), resets (R398 to R401), the firmware complex (R402, R403) and
migration (R404).
-/

namespace Sys2Proof.Machine

/-! ### Adoption (R399, R403) -/

/-- The dies that adopt a die's queues, in the order of R403. -/
def State.heirs (s : State) (die : Nat) : List Nat :=
  match s.product with
  | .ks4n => [(die + 1) % 4, (die + 3) % 4]
  | .ks4x => [(die + 1) % 2]

/-- A die's schedule core works (log entry 34). -/
def Die.able (d : Die) : Bool := !d.offline && decide (d.power ≠ .off) && d.coreUp 1

/-- The die that adopts: the first neighbour whose error-handling core detects the missing heartbeat and whose schedule core can take over. -/
def State.heir (s : State) (die : Nat) : Option Nat := (s.heirs die).find? fun a => ((s.die? a).map fun d => d.able && d.coreUp 3).getD false

/-- A deadline converted from the clock of one die to that of another, with a round trip (R330, R399). -/
def State.moveDl (s : State) (m : Meet) (k : KeeperDl) (on : Nat) (rho : Nat) : KeeperDl :=
  { k with on := on, dl := (s.clockOf on : Int) + (k.dl - s.clockOf k.on) - rho - dlMargin m.deadline }

/-- Candidates of queues that change hands are decided anew (R403): an entry read but not admitted is read again. -/
def State.dropCands (s : State) (mine : Queue → Bool) : State :=
  let cs := s.queues.filterMap fun q => if mine q then q.cand.map Cand.meet else none
  { s with meets := s.meets.filter fun m => m.id ∉ cs, queues := s.queues.map fun q => if mine q then { q with cand := none } else q }

/-- A die adopts the queues, the keeper's role and the deadlines of another, and of those that it had adopted (R403). -/
def State.adopt (s : State) (die a : Nat) : State :=
  let served (k : Nat) : Bool := s.serverOf k == die
  let s2 := s.dropCands fun q => decide (q.server = die)
  { s2 with
    queues := s2.queues.map fun q => if q.server = die then { q with server := a } else q
    meets := s2.meets.map fun m => { m with dls := m.dls ++ (m.dls.filter fun k => served k.keeper && decide (k.on = die)).map fun k => s.moveDl m k a 0 }
    dies := s2.dies.zipIdx.map fun (d, i) => if served i then { d with adopter := some a } else d }

/-- A core's mailbox after a message of a core has come, or after the receiver has taken its oldest one, which that core sent: a sender that finds 64
messages waits, and a core that has failed takes none. -/
def CpCore.mail (c : CpCore) (src : Nat) : Option (BitVec 512) → CpCore
  | some msg => if src < 8 ∧ c.mailbox.length < 64 then { c with mailbox := c.mailbox ++ [(src, msg)] } else c
  | none => if c.failed = false ∧ (c.mailbox.head?.map Prod.fst) = some src then { c with mailbox := c.mailbox.tail } else c

/-- MAILBOX_MESSAGE (R402): a message from one core to another of the die, or the receiver's taking of it. -/
def execMailboxMessage (die : Nat) (src : Nat) (dst : Nat) (msg : Option (BitVec 512)) (s : State) : Out :=
  .next (s.updDie die fun d => { d with cps := d.cps.modify dst fun c => c.mail src msg })

/-- HEARTBEAT (R402). -/
def execHeartbeat (die : Nat) (s : State) : Out :=
  .next (s.updDie die fun d => if d.able then { d with beat := d.beat + 1, beatAt := s.hubClock } else d)

/-- A core of a die's command processor has failed. -/
def Die.failCore (d : Die) (core : Nat) : Die := { d with cps := d.cps.modify core fun c => { c with failed := true } }

/-- ADOPTION (R403): the heartbeat has been missing for 100 microseconds, as the hub's clock measures it: the schedule core has failed. -/
def execAdoption (die : Nat) (adopter : Nat) (s : State) : Out :=
  match s.die? die with
  | none => .next s
  | some d =>
    if s.hubClock < d.beatAt + 100000 ∨ d.adopter.isSome ∨ s.heir die ≠ some adopter then .next s else .next ((s.adopt die adopter).updDie die fun d => d.failCore 1)

/-- COMMAND_PROCESSOR_CORE_FAILURE (R403): of a core other than the schedule core; the host learns of it. -/
def execCommandProcessorCoreFailure (die : Nat) (core : Nat) (s : State) : Out :=
  if core = 1 ∨ 8 ≤ core ∨ s.dies.length ≤ die then .next s
  else .next ((s.updDie die fun d => d.failCore core).tell (.coreFailed die core))

/-! ### Monitors (R392, R397) -/

/-- A reading crosses its warning threshold upwards (log entry 35). -/
def crossed (w : Option Int) (old new : Int) : Bool := w.any fun t => decide (old ≤ t ∧ t < new)

/-- Interrupt the host for every monitor of a list (R392): temperature sensors 0 to 47, droop monitors from 48, process monitors from 80. -/
def State.warnAll (s : State) (die : Nat) (ms : List Nat) : State := ms.foldl (fun s m => s.tell (.interrupt die m)) s

/-- The sensors of a die that read above their trip points halt the package, and the host learns of them (R397). -/
def State.tripCheck (s : State) (die : Nat) : State :=
  match s.die? die with
  | none => s
  | some d =>
    let hot := d.temps.zipIdx.filter fun (t, _) => t.trip < t.reading
    if hot.isEmpty then s else hot.foldl (fun (s : State) p => s.tell (.thermal die p.2 p.1.reading)) { s with halted := true }

/-- Warnings of a die, which its power core sends while it works (R20, R392, R403). -/
def Die.warnings (d : Die) (ms : List Nat) : List Nat := if d.coreUp 4 then ms else []

/-- TEMPERATURE_SAMPLE (R392, R397). -/
def execTemperatureSample (die : Nat) (readings : List Int) (s : State) : Out :=
  match s.die? die with
  | none => .next s
  | some d =>
    let ts := d.temps.zipIdx.map fun (t, i) => { t with reading := readings.getD i t.reading }
    let ws := d.warnings ((d.temps.zip ts).zipIdx.filterMap fun (p, i) => if crossed p.1.warn p.1.reading p.2.reading then some i else none)
    .next (((s.updDie die fun d => { d with temps := ts }).warnAll die ws).tripCheck die)

/-- PROCESS_MONITOR_SAMPLE (R392). -/
def execProcessMonitorSample (die : Nat) (counts : List Nat) (s : State) : Out :=
  match s.die? die with
  | none => .next s
  | some d =>
    let ps := d.procs.zipIdx.map fun (p, i) => { p with count := counts.getD i p.count }
    let ws := d.warnings ((d.procs.zip ps).zipIdx.filterMap fun (p, i) => if crossed (p.1.warn.map Int.ofNat) p.1.count p.2.count then some (80 + i) else none)
    .next ((s.updDie die fun d => { d with procs := ps }).warnAll die ws)

/-- A droop monitor after a droop: one deeper than the threshold counts, and the deepest one is kept whatever the threshold (R392). -/
def DroopMon.take (m : DroopMon) (mv : Nat) : DroopMon :=
  { m with count := if (m.depth.map fun t => decide (t < mv)).getD false then m.count + 1 else m.count, deepest := max m.deepest mv }

/-- VOLTAGE_DROOP (R392). -/
def execVoltageDroop (die : Nat) (monitor : Nat) (mv : Nat) (s : State) : Out :=
  match (s.die? die).bind fun d => d.droops[monitor]?.map fun m => (d, m) with
  | none => .next s
  | some (d, m) =>
    let n := m.take mv
    let s := s.updDie die fun d => { d with droops := d.droops.set monitor n }
    .next (s.warnAll die (d.warnings (if crossed (m.warn.map Int.ofNat) m.count n.count then [48 + monitor] else [])))

/-- A request that the power core of a die serves: with that core failed nobody answers it (R20, R392, R396, R403; log entry 43). -/
def State.powerCore (s : State) (die : Nat) (o : Out) : Out := if ((s.die? die).map fun d => d.coreUp 4) = some false then .next s else o

/-- Set a threshold (R392, R397): a trip point is at most 110 degrees. A reading that already lies above a new threshold has crossed it. -/
def opMonitorThresholdSet (die : Nat) (cmd : MonitorCmd) (s : State) : Out :=
  match s.die? die with
  | none => s.refuse
  | some d =>
    match cmd with
    | .tempWarn i w =>
      match d.temps[i]? with
      | none => s.refuse
      | some t => ((s.updDie die fun d => { d with temps := d.temps.set i { t with warn := some w } }).warnAll die (if w < t.reading then [i] else [])).done_
    | .tempTrip i w =>
      match d.temps[i]? with
      | none => s.refuse
      | some t => if 880 < w then s.refuse else ((s.updDie die fun d => { d with temps := d.temps.set i { t with trip := w } }).tripCheck die).done_
    | .droopDepth i mv =>
      match d.droops[i]? with
      | none => s.refuse
      | some m => (s.updDie die fun d => { d with droops := d.droops.set i { m with depth := some mv } }).done_
    | .droopWarn i c =>
      match d.droops[i]? with
      | none => s.refuse
      | some m => ((s.updDie die fun d => { d with droops := d.droops.set i { m with warn := some c } }).warnAll die (if c < m.count then [48 + i] else [])).done_
    | .processWarn i c =>
      match d.procs[i]? with
      | none => s.refuse
      | some m => ((s.updDie die fun d => { d with procs := d.procs.set i { m with warn := some c } }).warnAll die (if c < m.count then [80 + i] else [])).done_

/-- MONITOR_THRESHOLD_SET (R392, R397). -/
def execMonitorThresholdSet (die : Nat) (cmd : MonitorCmd) (s : State) : Out := s.powerCore die (opMonitorThresholdSet die cmd s)

/-- Read a monitor (R392): reading a droop monitor starts its deepest droop anew. -/
def opMonitorRead (die : Nat) (sel : MonitorSel) (s : State) : Out :=
  match s.die? die with
  | none => s.refuse
  | some d =>
    match sel with
    | .temp i => match d.temps[i]? with
      | some t => .next (s.tell (.reading t.reading 0))
      | none => s.refuse
    | .droop i => match d.droops[i]? with
      | some m => .next ((s.updDie die fun d => { d with droops := d.droops.set i { m with deepest := 0 } }).tell (.reading m.count m.deepest))
      | none => s.refuse
    | .process i => match d.procs[i]? with
      | some m => .next (s.tell (.reading m.count 0))
      | none => s.refuse

/-- MONITOR_READ (R392). -/
def execMonitorRead (die : Nat) (sel : MonitorSel) (s : State) : Out := s.powerCore die (opMonitorRead die sel s)

/-! ### Power states (R393 to R396) -/

/-- The clusters of a die come back from DOZE: empty, with the trigger counters that they held; tables are kept (R394). -/
def Die.wake (d : Die) : Die :=
  { d with
    clusters := d.clusters.zipIdx.map fun (c, i) =>
      { Cluster.reset with
        trigs := d.dozed.getD i c.trigs, bankPl := c.bankPl, chanPl := c.chanPl, trigPl := c.trigPl, rows := c.rows, unit := c.unit }
    dozed := [] }

/-- A die whose power has been off: nothing of it is kept but its step, which only a command changes (R396). -/
def Die.fresh (p : Power) (d : Die) : Die := { Die.reset with power := p, adopter := d.adopter, step := d.step, starts := d.starts + 1 }

/-- Enter a state in which the clusters' contents exist. -/
def Die.enter (p : Power) (d : Die) : Die :=
  match d.power with
  | .doze => { d.wake with power := p }
  | .off => Die.fresh p d
  | _ => { d with power := p }

/-- A power command: malformed, refused or done (R396). -/
def State.powerCmd (s : State) (die : Nat) (refused : Bool) (f : State → State) : Out :=
  if s.dies.length ≤ die then .next (s.tell (.command 2))
  else s.powerCore die (if refused then s.refuse else (f s).done_)

/-- POWER_ACTIVE (R393, R394). -/
def execPowerActive (die : Nat) (s : State) : Out := s.powerCmd die false fun s => s.updDie die (Die.enter .active)

/-- POWER_PARK (R393, R394): never refused. -/
def execPowerPark (die : Nat) (s : State) : Out := s.powerCmd die false fun s => s.updDie die (Die.enter .park)

/-- A team is resident on a die, or an engine holds work there (Table 28.2). -/
def State.busyDie (s : State) (die : Nat) : Bool :=
  (s.teams.any fun t => decide (t.cl.die = die) && (decide (t.st = .resident) || (decide (t.st = .retired) && !t.xfers.isEmpty))) ||
    ((s.die? die).map fun d => d.clusters.any fun c => c.chans.any fun ch => !ch.queue.isEmpty).getD false

/-- Empty the caches of every cluster of a die. -/
def State.emptyClusters (s : State) (die : Nat) : State := (List.range 24).foldl (fun s l => s.emptyCluster { die := die, loc := l }) s

/-- The die in DOZE: the trigger counters of its clusters are stored (R394). -/
def Die.doze (d : Die) : Die :=
  match d.power with
  | .doze => d
  | .off => { Die.fresh .doze d with dozed := List.replicate 24 Cluster.reset.trigs }
  | _ => { d with power := .doze, dozed := d.clusters.map Cluster.trigs }

/-- POWER_DOZE (R393, R394). -/
def execPowerDoze (die : Nat) (s : State) : Out := s.powerCmd die (s.busyDie die) fun s => (s.emptyClusters die).updDie die Die.doze

/-- A partition lies on a die, wholly or in part. -/
def Partition.on (p : Partition) (die : Nat) : Bool := if p.whole then p.dies.contains die else p.locs.any fun c => c.die == die

/-- An admitted meet that has not completed, a terminated one whose teams still stop included, names a partition on a die. -/
def State.meetOn (s : State) (die : Nat) : Bool :=
  s.meets.any fun m => decide (m.st ≠ .deciding ∧ m.st ≠ .completed) && m.parts.any fun p => ((s.partOf p).map fun p => p.on die).getD false

/-- A die's memory is lost: its own range and its lines of the striped range (R113, R393). -/
def State.losesMemory (s : State) (die : Nat) : State :=
  let mine (pa : Nat) : Bool := s.homeOf pa == some die
  { s with
    mem := s.mem.filter fun c => !mine c.1
    poison := s.poison.filter fun l => !mine (64 * l)
    granules := s.granules.filter fun l => !mine (64 * l)
    lines := s.lines.filter fun c => !mine (64 * c.line) && decide (c.level.die ≠ die)
    slices := s.slices.filter fun t => decide (t.die ≠ die)
    ulines := s.ulines.filter fun l => !mine l.pa && decide (l.cl.die ≠ die)
    classes := s.classes.filter fun p => decide (2 ^ 44 ≤ 4096 * p.1) || !mine (4096 * p.1) }

/-- POWER_OFF (R393): refused while an admitted meet names a partition on the die or a context maps memory homed on it; the key slots go with the
die (R369). -/
def execPowerOff (die : Nat) (s : State) : Out :=
  s.powerCmd die (s.meetOn die || s.ctxs.any (fun c => s.maps c fun r => r.on s die)) fun s =>
    ((s.endSessions fun d _ => d = die).losesMemory die).updDie die (Die.fresh .off)

/-- FREQUENCY_STEP (R395, R396). DESIGN CHOICE: it takes effect at once, and halts no issue for a time (log entry 79). -/
def execFrequencyStep (die : Nat) (step : Nat) (s : State) : Out :=
  if s.dies.length ≤ die then .next (s.tell (.command 2))
  else s.powerCore die (if 8 ≤ step then .next (s.tell (.command 2)) else (s.updDie die fun d => { d with step := step }).done_)

/-! ### Resets (R397 to R401) -/

/-- COLD_RESET (R397): the package as it comes out of reset. What lies behind the ports stays as it is, and so do the images of the layers; the
schedule data and what the host has seen are no part of the package. -/
def execColdReset (s : State) : Out :=
  let far (pa : Nat) : Bool := decide (2 ^ 52 ≤ pa)
  .next { State.resetOf s.product with
    mem := s.mem.filter fun c => far c.1
    poison := s.poison.filter fun l => far (64 * l)
    classes := s.classes.filter fun p => far (4096 * p.1)
    granules := s.granules.filter fun l => far (64 * l)
    beyond := s.beyond
    layers := bootLayers s.layers
    host := s.host, agenda := s.agenda, oracle := s.oracle, pace := s.pace, turn := s.turn, freeCtr := s.freeCtr }

/-- A ring neighbour of a die is in its warm reset (R400). -/
def State.neighbourDown (s : State) (die : Nat) : Bool := (s.heirs die).any fun a => ((s.die? a).map fun d => d.offline || d.closing).getD false

/-- A die's L2 holds nothing of its own memory. -/
def State.emptySlices (s : State) (die : Nat) : State := { s with slices := s.slices.filter fun t => decide (t.die ≠ die) }

/-- Step 4 of R398: the die's caches write back every dirty line, and the others give up the lines homed on it, U lines included. -/
def State.cleanDie (s : State) (die : Nat) : State :=
  let mine (c : CLine) : Bool := decide (c.level.die = die) || s.homeOf (64 * c.line) == some die
  let s := (s.ulines.filter fun l => decide (l.cl.die = die) || s.homeOf l.pa == some die).foldl (fun s l => s.recallU l.pa l.bytes) s
  (s.writeBackAll mine).dropCopies mine |>.emptySlices die

/-- Step 6 of R398: clusters and place tables are reset; registers that R398 does not have reloaded keep their values (log entry 36), and so do the
power state and the step, which only a command changes (R396). -/
def Die.warm (d : Die) : Die :=
  { d with
    offline := true, closing := false
    clusPl := Die.reset.clusPl, dozed := [], cps := Die.reset.cps
    clusters := d.clusters.map fun c => { Cluster.reset with rows := c.rows } }

/-- A write that a unit of a die or its command processor has on its way, or that is on its way to memory which the die homes (R398 step 3). -/
def State.inFlight (s : State) (die : Nat) : Bool :=
  s.posted.any fun p => decide (p.by_.isNone ∧ p.src.isNone) || decide (s.homeOf p.pa = some die) ||
    ((p.by_.bind fun u => s.team? u.team).map fun t => decide (t.cl.die = die)).getD false

/-- WARM_RESET (R398, R400), its steps 1 to 6: from step 1 on no team starts or is restored on the die; a team that finds no room for its frame holds it
at step 2, and a write in flight at step 3. -/
def execWarmReset (die : Nat) (s : State) : Out :=
  match s.die? die, s.heir die with
  | some d, some a =>
    if d.offline ∨ d.power = .off ∨ s.neighbourDown die then s.refuse
    else
      let s := if d.adopter.isSome then s else s.adopt die a
      let s := s.updDie die fun d => { d with closing := true }
      let s := (s.teams.filter fun t => t.cl.die = die ∧ t.st = .resident).foldl (fun s t => s.saveTeam t.id) s
      if (s.teams.any fun t => t.cl.die = die ∧ t.st = .resident) ∨ s.inFlight die = true then .next s
      else ((s.cleanDie die).updDie die Die.warm).done_
  | _, _ => s.refuse

/-- DIE_READMISSION (R398 step 7, R399): the die clock starts from zero, its schedule core takes back its queues, and each deadline is handed back as
a remaining time, the round trip as the oracle has it. -/
def execDieReadmission (die : Nat) (s : State) : Out :=
  match s.die? die with
  | none => .next s
  | some d =>
    if d.offline = false then .next s
    else
      let rho := min s.choice 10000
      let from_ := s.serverOf die
      let s := (s.dropCands fun q => decide (q.desc.home = die)).chosen
      let s := s.updDie die fun d => { d with offline := false, clock := 0, starts := d.starts + 1, adopter := none, beatAt := s.hubClock }
      let back (m : Meet) : List KeeperDl :=
        (m.dls.filter fun k => k.keeper ≠ die) ++ (m.dls.filter fun k => k.keeper = die ∧ k.on = from_).map fun k => s.moveDl m k die rho
      .next { s with
        queues := s.queues.map fun q => if q.desc.home = die then { q with server := die } else q
        meets := s.meets.map fun m => { m with dls := back m } }

/-- FUNCTION_LEVEL_RESET (R401): at one boundary the queues of the VF go and its contexts are killed; no signal is written for it afterwards, one on its way
included. -/
def execFunctionLevelReset (vf : Nat) (s : State) : Out :=
  let s := s.dropCands fun q => decide (q.desc.vf = vf)
  let qs := (s.queues.filter fun q => q.desc.vf = vf).map Queue.id
  let cs := (s.ctxs.filter fun c => c.vf = vf).map Context.id
  let s : State := { s with
    queues := s.queues.filter fun q => q.desc.vf ≠ vf
    posted := s.posted.filter fun p => !p.tells.any fun e => match e with
      | .signal q _ => decide (q ∈ qs)
      | _ => false
    meets := s.meets.map fun m => if m.ctx ∈ cs ∨ (m.queue ∈ qs ∧ m.task = none) then { m with mute := true } else m }
  (cs.foldl State.killCtx s).done_

/-! ### Migration (R399, R404) -/

/-- A frame that travels: the time of its journey, as the hypervisor measures it, adds to what has passed since the save. -/
def Team.travel (elapsed : Nat) (t : Team) : Team := { t with clocks := t.clocks.map fun c => { c with away := some (c.away.getD 0 + elapsed) } }

/-- MIGRATION (R399, R404): every team of the context is saved, its times travel as remaining times, and its key slots stay behind; the
destination is this package (log entry 37). -/
def execMigration (ctx : Nat) (elapsedNs : Nat) (s : State) : Out :=
  let s := (s.teams.filter fun t => t.ctx = ctx ∧ t.st = .resident).foldl (fun s t => s.saveTeam t.id) s
  if s.teams.any fun t => t.ctx = ctx ∧ t.st = .resident then .next s
  else
    let s := s.endSessions fun _ k => k.ctx = ctx
    .next { s with
      teams := s.teams.map fun t => if t.ctx = ctx ∧ t.st = .saved then t.travel elapsedNs else t
      meets := s.meets.map fun m => if m.ctx = ctx then
          { m with dls := m.dls.map fun k => let j := s.moveDl m k k.on 0; { j with dl := j.dl - elapsedNs } }
        else m }

end Sys2Proof.Machine
end

