-- ==== Sys2Proof/Machine/Select.lean ====
section
/-!
DEFINITION. Selection across a heat: opcodes 0x62 and 0x63 (R284 to R286).
-/

namespace Sys2Proof.Machine

/-- A candidate: its index, the bits of its score, the score as it ranks, and its place in slot order. -/
structure Cand2 where
  index : Nat
  bits  : Nat
  score : Nat
  place : Nat
  deriving DecidableEq, Repr

/-- The bits of a score as its register holds them (R260, R285). -/
def scoreBits (e : Ext) (v : Nat) : Nat := if isFloat e.ty then laneOf e.ty v 0 else v

/-- A score as it ranks: a bf16 subnormal reads as zero without .sub (R284). -/
def scoreRead (e : Ext) (v : Nat) : Nat := if isFloat e.ty then flushed e.ty (subOf e) (laneOf e.ty v 0) else v

/-- A candidate from its index and its score register. -/
def candOf (e : Ext) (index score place : Nat) : Cand2 := { index := index, bits := scoreBits e score, score := scoreRead e score, place := place }

/-- Order of two scores: a NaN ranks below every number, -0 equals +0 (R284). -/
def scoreCmp (ty : Ty) (a b : Nat) : Ordering :=
  if isFloat ty then
    match (fmtOf ty).read a, (fmtOf ty).read b with
    | .nan, .nan => .eq
    | .nan, _ => .lt
    | _, .nan => .gt
    | x, y => Fp.cmp x y
  else compare (valOf ty a) (valOf ty b)

/-- One candidate ranks above another (R284). -/
def Cand2.above (ty : Ty) (p q : Cand2) : Bool :=
  match scoreCmp ty p.score q.score with
  | .gt => true
  | .lt => false
  | .eq => decide (p.index < q.index ∨ (p.index = q.index ∧ p.place < q.place))

/-- Put a candidate into a ranked list. -/
def rankIn (ty : Ty) (c : Cand2) : List Cand2 → List Cand2
  | [] => [c]
  | d :: r => if c.above ty d then c :: d :: r else d :: rankIn ty c r

/-- Rank candidates, best first. -/
def ranked (ty : Ty) (cs : List Cand2) : List Cand2 := cs.foldl (fun l c => rankIn ty c l) []

/-- The filler score of a type (R285). -/
def fillerOf (ty : Ty) : Nat :=
  match ty with
  | .f32 => 0xFFFFFFFF
  | .s32 => 0x80000000
  | .n32 => 0
  | _ => 0xFFFF

/-- Write the ranked candidates to the executing fibres, their bits unchanged (R260), and fillers to the rest (R285, R286). -/
def selectOut (e : Ext) (is : List Nat) (cs : List Cand2) (y : Site) : Site :=
  let best := (ranked e.ty cs).take e.imm.toNat
  (is.zipIdx).foldl (fun y p =>
    match best[p.2]? with
    | some c => y.setVal p.1 e.d.toNat 2 (c.index + 2 ^ 32 * c.bits)
    | none => y.setVal p.1 e.d.toNat 2 (0xFFFFFFFF + 2 ^ 32 * fillerOf e.ty)) y

/-- TOPK (R285). -/
def opTopk (e : Ext) (s : State) : Out :=
  issue e.guard (demand [useD e 2, readA e 1, { reg := e.b.toNat, n := 1, rd := true }]) s fun s x is =>
    let cs := is.map fun i => candOf e (x.val i e.b.toNat 1) (x.val i e.a.toNat 1) i
    .next (s.done (selectOut e is cs x))

/-- TOPKM (R286): in one slot the entry of A ranks before that of B. -/
def opTopkm (e : Ext) (s : State) : Out :=
  issue e.guard (demand [useD e 2, readA e 2, { reg := e.b.toNat, n := 2, rd := true }]) s fun s x is =>
    let cand (i r k : Nat) : Cand2 := candOf e (x.val i r 1) (x.val i (r + 1) 1) (2 * i + k)
    .next (s.done (selectOut e is (is.flatMap fun i => [cand i e.a.toNat 0, cand i e.b.toNat 1]) x))

/-! ### The meanings, one for each row of the opcode table -/

/-- TOPK (R285). -/
def execTopk (e : Ext) (s : State) : Out := opTopk e s

/-- TOPKM (R286). -/
def execTopkm (e : Ext) (s : State) : Out := opTopkm e s

end Sys2Proof.Machine
end

