-- ==== Sys2Proof/Machine/Dispatch.lean ====
section
/-!
DEFINITION. The dispatch: one arm for each constructor of Instr, each a direct call of that instruction's own meaning.
-/

namespace Sys2Proof.Machine

/-- The meaning of an instruction or event. -/
def exec (i : Instr) (s : State) : Host.Outcome State Fault Refusal :=
  match i with
  | .nopExt e => Sys2Proof.Machine.execNopExt e s
  | .yieldExt e => Sys2Proof.Machine.execYieldExt e s
  | .endExt e => Sys2Proof.Machine.execEndExt e s
  | .add x a d => Sys2Proof.Machine.execAdd x a d s
  | .addExt e => Sys2Proof.Machine.execAddExt e s
  | .sub x a d => Sys2Proof.Machine.execSub x a d s
  | .subExt e => Sys2Proof.Machine.execSubExt e s
  | .addc x a d => Sys2Proof.Machine.execAddc x a d s
  | .addcExt e => Sys2Proof.Machine.execAddcExt e s
  | .subb x a d => Sys2Proof.Machine.execSubb x a d s
  | .subbExt e => Sys2Proof.Machine.execSubbExt e s
  | .mul x a d => Sys2Proof.Machine.execMul x a d s
  | .mulExt e => Sys2Proof.Machine.execMulExt e s
  | .mulh x a d => Sys2Proof.Machine.execMulh x a d s
  | .mulhExt e => Sys2Proof.Machine.execMulhExt e s
  | .mad e => Sys2Proof.Machine.execMad e s
  | .div x a d => Sys2Proof.Machine.execDiv x a d s
  | .divExt e => Sys2Proof.Machine.execDivExt e s
  | .rem x a d => Sys2Proof.Machine.execRem x a d s
  | .remExt e => Sys2Proof.Machine.execRemExt e s
  | .neg a d => Sys2Proof.Machine.execNeg a d s
  | .negExt e => Sys2Proof.Machine.execNegExt e s
  | .abs a d => Sys2Proof.Machine.execAbs a d s
  | .absExt e => Sys2Proof.Machine.execAbsExt e s
  | .min x a d => Sys2Proof.Machine.execMin x a d s
  | .minExt e => Sys2Proof.Machine.execMinExt e s
  | .max x a d => Sys2Proof.Machine.execMax x a d s
  | .maxExt e => Sys2Proof.Machine.execMaxExt e s
  | .and x a d => Sys2Proof.Machine.execAnd x a d s
  | .andExt e => Sys2Proof.Machine.execAndExt e s
  | .or x a d => Sys2Proof.Machine.execOr x a d s
  | .orExt e => Sys2Proof.Machine.execOrExt e s
  | .xor x a d => Sys2Proof.Machine.execXor x a d s
  | .xorExt e => Sys2Proof.Machine.execXorExt e s
  | .andn x a d => Sys2Proof.Machine.execAndn x a d s
  | .andnExt e => Sys2Proof.Machine.execAndnExt e s
  | .not a d => Sys2Proof.Machine.execNot a d s
  | .notExt e => Sys2Proof.Machine.execNotExt e s
  | .shl x a d => Sys2Proof.Machine.execShl x a d s
  | .shlExt e => Sys2Proof.Machine.execShlExt e s
  | .shr x a d => Sys2Proof.Machine.execShr x a d s
  | .shrExt e => Sys2Proof.Machine.execShrExt e s
  | .sha x a d => Sys2Proof.Machine.execSha x a d s
  | .shaExt e => Sys2Proof.Machine.execShaExt e s
  | .rot x a d => Sys2Proof.Machine.execRot x a d s
  | .rotExt e => Sys2Proof.Machine.execRotExt e s
  | .bfx e => Sys2Proof.Machine.execBfx e s
  | .bfi e => Sys2Proof.Machine.execBfi e s
  | .popc a d => Sys2Proof.Machine.execPopc a d s
  | .popcExt e => Sys2Proof.Machine.execPopcExt e s
  | .clz a d => Sys2Proof.Machine.execClz a d s
  | .clzExt e => Sys2Proof.Machine.execClzExt e s
  | .ctz a d => Sys2Proof.Machine.execCtz a d s
  | .ctzExt e => Sys2Proof.Machine.execCtzExt e s
  | .brev a d => Sys2Proof.Machine.execBrev a d s
  | .brevExt e => Sys2Proof.Machine.execBrevExt e s
  | .perm x a d => Sys2Proof.Machine.execPerm x a d s
  | .permExt e => Sys2Proof.Machine.execPermExt e s
  | .mov a d => Sys2Proof.Machine.execMov a d s
  | .movExt e => Sys2Proof.Machine.execMovExt e s
  | .movi imm d => Sys2Proof.Machine.execMovi imm d s
  | .moviExt e => Sys2Proof.Machine.execMoviExt e s
  | .lit e => Sys2Proof.Machine.execLit e s
  | .sel e => Sys2Proof.Machine.execSel e s
  | .cmp x a g => Sys2Proof.Machine.execCmp x a g s
  | .cmpExt e => Sys2Proof.Machine.execCmpExt e s
  | .cmpv x a d => Sys2Proof.Machine.execCmpv x a d s
  | .cmpvExt e => Sys2Proof.Machine.execCmpvExt e s
  | .lea x a d => Sys2Proof.Machine.execLea x a d s
  | .leaExt e => Sys2Proof.Machine.execLeaExt e s
  | .sptest a d => Sys2Proof.Machine.execSptest a d s
  | .sptestExt e => Sys2Proof.Machine.execSptestExt e s
  | .spcastOfs a d => Sys2Proof.Machine.execSpcastOfs a d s
  | .spcastOfsExt e => Sys2Proof.Machine.execSpcastOfsExt e s
  | .spcastGen a d => Sys2Proof.Machine.execSpcastGen a d s
  | .spcastGenExt e => Sys2Proof.Machine.execSpcastGenExt e s
  | .gop f a d => Sys2Proof.Machine.execGop f a d s
  | .gopExt e => Sys2Proof.Machine.execGopExt e s
  | .bra o => Sys2Proof.Machine.execBra o s
  | .braExt j => Sys2Proof.Machine.execBraExt j s
  | .call o => Sys2Proof.Machine.execCall o s
  | .callExt j => Sys2Proof.Machine.execCallExt j s
  | .callW j => Sys2Proof.Machine.execCallW j s
  | .brx a => Sys2Proof.Machine.execBrx a s
  | .brxExt e => Sys2Proof.Machine.execBrxExt e s
  | .callx a => Sys2Proof.Machine.execCallx a s
  | .callxExt e => Sys2Proof.Machine.execCallxExt e s
  | .callxW e => Sys2Proof.Machine.execCallxW e s
  | .retExt e => Sys2Proof.Machine.execRetExt e s
  | .join m => Sys2Proof.Machine.execJoin m s
  | .joinExt e => Sys2Proof.Machine.execJoinExt e s
  | .leave m => Sys2Proof.Machine.execLeave m s
  | .leaveExt e => Sys2Proof.Machine.execLeaveExt e s
  | .waitm m => Sys2Proof.Machine.execWaitm m s
  | .waitmExt e => Sys2Proof.Machine.execWaitmExt e s
  | .mset a m => Sys2Proof.Machine.execMset a m s
  | .msetExt e => Sys2Proof.Machine.execMsetExt e s
  | .mget a m => Sys2Proof.Machine.execMget a m s
  | .mgetExt e => Sys2Proof.Machine.execMgetExt e s
  | .fork e => Sys2Proof.Machine.execFork e s
  | .vote a d => Sys2Proof.Machine.execVote a d s
  | .voteExt e => Sys2Proof.Machine.execVoteExt e s
  | .shfl a d => Sys2Proof.Machine.execShfl a d s
  | .shflExt e => Sys2Proof.Machine.execShflExt e s
  | .bcast a d => Sys2Proof.Machine.execBcast a d s
  | .bcastExt e => Sys2Proof.Machine.execBcastExt e s
  | .xlockExt e => Sys2Proof.Machine.execXlockExt e s
  | .xfreeExt e => Sys2Proof.Machine.execXfreeExt e s
  | .ld imm a d => Sys2Proof.Machine.execLd imm a d s
  | .ldExt e => Sys2Proof.Machine.execLdExt e s
  | .st imm a d => Sys2Proof.Machine.execSt imm a d s
  | .stExt e => Sys2Proof.Machine.execStExt e s
  | .ldx e => Sys2Proof.Machine.execLdx e s
  | .stx e => Sys2Proof.Machine.execStx e s
  | .pref imm a => Sys2Proof.Machine.execPref imm a s
  | .prefExt e => Sys2Proof.Machine.execPrefExt e s
  | .flush a => Sys2Proof.Machine.execFlush a s
  | .flushExt e => Sys2Proof.Machine.execFlushExt e s
  | .flushInv a => Sys2Proof.Machine.execFlushInv a s
  | .flushInvExt e => Sys2Proof.Machine.execFlushInvExt e s
  | .pgarm e => Sys2Proof.Machine.execPgarm e s
  | .amo e => Sys2Proof.Machine.execAmo e s
  | .red e => Sys2Proof.Machine.execRed e s
  | .cas e => Sys2Proof.Machine.execCas e s
  | .fenceExt e => Sys2Proof.Machine.execFenceExt e s
  | .phaseExt e => Sys2Proof.Machine.execPhaseExt e s
  | .wdrainExt e => Sys2Proof.Machine.execWdrainExt e s
  | .btnSync a => Sys2Proof.Machine.execBtnSync a s
  | .btnSyncExt e => Sys2Proof.Machine.execBtnSyncExt e s
  | .btnTest a g => Sys2Proof.Machine.execBtnTest a g s
  | .btnTestExt e => Sys2Proof.Machine.execBtnTestExt e s
  | .barInit a d => Sys2Proof.Machine.execBarInit a d s
  | .barInitExt e => Sys2Proof.Machine.execBarInitExt e s
  | .barArv a d => Sys2Proof.Machine.execBarArv a d s
  | .barArvExt e => Sys2Proof.Machine.execBarArvExt e s
  | .barExp a d => Sys2Proof.Machine.execBarExp a d s
  | .barExpExt e => Sys2Proof.Machine.execBarExpExt e s
  | .barWait a d => Sys2Proof.Machine.execBarWait a d s
  | .barWaitExt e => Sys2Proof.Machine.execBarWaitExt e s
  | .barTry a d => Sys2Proof.Machine.execBarTry a d s
  | .barTryExt e => Sys2Proof.Machine.execBarTryExt e s
  | .fifoMap e => Sys2Proof.Machine.execFifoMap e s
  | .fifoPut a d => Sys2Proof.Machine.execFifoPut a d s
  | .fifoPutExt e => Sys2Proof.Machine.execFifoPutExt e s
  | .fifoGet a d => Sys2Proof.Machine.execFifoGet a d s
  | .fifoGetExt e => Sys2Proof.Machine.execFifoGetExt e s
  | .fifoClose d => Sys2Proof.Machine.execFifoClose d s
  | .fifoCloseExt e => Sys2Proof.Machine.execFifoCloseExt e s
  | .fifoStat a d => Sys2Proof.Machine.execFifoStat a d s
  | .fifoStatExt e => Sys2Proof.Machine.execFifoStatExt e s
  | .cpy e => Sys2Proof.Machine.execCpy e s
  | .cpyWait e => Sys2Proof.Machine.execCpyWait e s
  | .cpyPtr e => Sys2Proof.Machine.execCpyPtr e s
  | .cpyPtrSt e => Sys2Proof.Machine.execCpyPtrSt e s
  | .cpyPtrClr e => Sys2Proof.Machine.execCpyPtrClr e s
  | .trgAdd e => Sys2Proof.Machine.execTrgAdd e s
  | .trgSet e => Sys2Proof.Machine.execTrgSet e s
  | .trgWait e => Sys2Proof.Machine.execTrgWait e s
  | .trgArm e => Sys2Proof.Machine.execTrgArm e s
  | .bankcfg e => Sys2Proof.Machine.execBankcfg e s
  | .fadd x a d => Sys2Proof.Machine.execFadd x a d s
  | .faddExt e => Sys2Proof.Machine.execFaddExt e s
  | .fsub x a d => Sys2Proof.Machine.execFsub x a d s
  | .fsubExt e => Sys2Proof.Machine.execFsubExt e s
  | .fmul x a d => Sys2Proof.Machine.execFmul x a d s
  | .fmulExt e => Sys2Proof.Machine.execFmulExt e s
  | .fma e => Sys2Proof.Machine.execFma e s
  | .fms e => Sys2Proof.Machine.execFms e s
  | .fnma e => Sys2Proof.Machine.execFnma e s
  | .fmin x a d => Sys2Proof.Machine.execFmin x a d s
  | .fminExt e => Sys2Proof.Machine.execFminExt e s
  | .fmax x a d => Sys2Proof.Machine.execFmax x a d s
  | .fmaxExt e => Sys2Proof.Machine.execFmaxExt e s
  | .fabs a d => Sys2Proof.Machine.execFabs a d s
  | .fabsExt e => Sys2Proof.Machine.execFabsExt e s
  | .fneg a d => Sys2Proof.Machine.execFneg a d s
  | .fnegExt e => Sys2Proof.Machine.execFnegExt e s
  | .fcpys e => Sys2Proof.Machine.execFcpys e s
  | .fcmp e => Sys2Proof.Machine.execFcmp e s
  | .fclass a d => Sys2Proof.Machine.execFclass a d s
  | .fclassExt e => Sys2Proof.Machine.execFclassExt e s
  | .frcp a d => Sys2Proof.Machine.execFrcp a d s
  | .frcpExt e => Sys2Proof.Machine.execFrcpExt e s
  | .frsq a d => Sys2Proof.Machine.execFrsq a d s
  | .frsqExt e => Sys2Proof.Machine.execFrsqExt e s
  | .fsqrt a d => Sys2Proof.Machine.execFsqrt a d s
  | .fsqrtExt e => Sys2Proof.Machine.execFsqrtExt e s
  | .fdiv x a d => Sys2Proof.Machine.execFdiv x a d s
  | .fdivExt e => Sys2Proof.Machine.execFdivExt e s
  | .fexp2 a d => Sys2Proof.Machine.execFexp2 a d s
  | .fexp2Ext e => Sys2Proof.Machine.execFexp2Ext e s
  | .flog2 a d => Sys2Proof.Machine.execFlog2 a d s
  | .flog2Ext e => Sys2Proof.Machine.execFlog2Ext e s
  | .fsin a d => Sys2Proof.Machine.execFsin a d s
  | .fsinExt e => Sys2Proof.Machine.execFsinExt e s
  | .fcos a d => Sys2Proof.Machine.execFcos a d s
  | .fcosExt e => Sys2Proof.Machine.execFcosExt e s
  | .ftanh a d => Sys2Proof.Machine.execFtanh a d s
  | .ftanhExt e => Sys2Proof.Machine.execFtanhExt e s
  | .frnd a d => Sys2Proof.Machine.execFrnd a d s
  | .frndExt e => Sys2Proof.Machine.execFrndExt e s
  | .fscale x a d => Sys2Proof.Machine.execFscale x a d s
  | .fscaleExt e => Sys2Proof.Machine.execFscaleExt e s
  | .f2i e => Sys2Proof.Machine.execF2i e s
  | .i2f e => Sys2Proof.Machine.execI2f e s
  | .fcvt e => Sys2Proof.Machine.execFcvt e s
  | .dot2 e => Sys2Proof.Machine.execDot2 e s
  | .dot4 e => Sys2Proof.Machine.execDot4 e s
  | .hred e => Sys2Proof.Machine.execHred e s
  | .qpack e => Sys2Proof.Machine.execQpack e s
  | .qunpack e => Sys2Proof.Machine.execQunpack e s
  | .qscale e => Sys2Proof.Machine.execQscale e s
  | .qchk e => Sys2Proof.Machine.execQchk e s
  | .topk e => Sys2Proof.Machine.execTopk e s
  | .topkm e => Sys2Proof.Machine.execTopkm e s
  | .sbound e => Sys2Proof.Machine.execSbound e s
  | .mxbind e => Sys2Proof.Machine.execMxbind e s
  | .mxma e => Sys2Proof.Machine.execMxma e s
  | .mxzero e => Sys2Proof.Machine.execMxzero e s
  | .mxwaitExt e => Sys2Proof.Machine.execMxwaitExt e s
  | .mxfenceExt e => Sys2Proof.Machine.execMxfenceExt e s
  | .mxstat d => Sys2Proof.Machine.execMxstat d s
  | .mxstatExt e => Sys2Proof.Machine.execMxstatExt e s
  | .awset e => Sys2Proof.Machine.execAwset e s
  | .accrd e => Sys2Proof.Machine.execAccrd e s
  | .accwr e => Sys2Proof.Machine.execAccwr e s
  | .txfer e => Sys2Proof.Machine.execTxfer e s
  | .txcoll e => Sys2Proof.Machine.execTxcoll e s
  | .txwait e => Sys2Proof.Machine.execTxwait e s
  | .tsend e => Sys2Proof.Machine.execTsend e s
  | .sysrd e => Sys2Proof.Machine.execSysrd e s
  | .syswr e => Sys2Proof.Machine.execSyswr e s
  | .trap imm => Sys2Proof.Machine.execTrap imm s
  | .trapExt e => Sys2Proof.Machine.execTrapExt e s
  | .eretExt e => Sys2Proof.Machine.execEretExt e s
  | .brk imm => Sys2Proof.Machine.execBrk imm s
  | .brkExt e => Sys2Proof.Machine.execBrkExt e s
  | .perfrd e => Sys2Proof.Machine.execPerfrd e s
  | .budget e => Sys2Proof.Machine.execBudget e s
  | .nop => Sys2Proof.Machine.execNop s
  | .yield => Sys2Proof.Machine.execYield s
  | .endI => Sys2Proof.Machine.execEndI s
  | .ret => Sys2Proof.Machine.execRet s
  | .xlock => Sys2Proof.Machine.execXlock s
  | .xfree => Sys2Proof.Machine.execXfree s
  | .fence => Sys2Proof.Machine.execFence s
  | .phase => Sys2Proof.Machine.execPhase s
  | .wdrain => Sys2Proof.Machine.execWdrain s
  | .mxwait => Sys2Proof.Machine.execMxwait s
  | .mxfence => Sys2Proof.Machine.execMxfence s
  | .eret => Sys2Proof.Machine.execEret s
  | .driverBankcfg by_ team cl e => Sys2Proof.Machine.execDriverBankcfg by_ team cl e s
  | .driverAwset driver ctx team cl e => Sys2Proof.Machine.execDriverAwset driver ctx team cl e s
  | .driverSyswr by_ team e v => Sys2Proof.Machine.execDriverSyswr by_ team e v s
  | .queueDescribe q desc => Sys2Proof.Machine.execQueueDescribe q desc s
  | .tailRegisterStore vf index v => Sys2Proof.Machine.execTailRegisterStore vf index v s
  | .notifyPageOtherStore vf offset width => Sys2Proof.Machine.execNotifyPageOtherStore vf offset width s
  | .entryConsume q => Sys2Proof.Machine.execEntryConsume q s
  | .entryReread q => Sys2Proof.Machine.execEntryReread q s
  | .reservationRequest q meet keeper => Sys2Proof.Machine.execReservationRequest q meet keeper s
  | .reservationAnswer q meet keeper => Sys2Proof.Machine.execReservationAnswer q meet keeper s
  | .reservationTimeout q => Sys2Proof.Machine.execReservationTimeout q s
  | .reservationCommit q meet keeper => Sys2Proof.Machine.execReservationCommit q meet keeper s
  | .reservationRelease q keeper => Sys2Proof.Machine.execReservationRelease q keeper s
  | .lapBoundary => Sys2Proof.Machine.execLapBoundary s
  | .lapLengthSet us => Sys2Proof.Machine.execLapLengthSet us s
  | .tenantRecordSet tenant rate policy lend borrow => Sys2Proof.Machine.execTenantRecordSet tenant rate policy lend borrow s
  | .partitionConfig part cmd => Sys2Proof.Machine.execPartitionConfig part cmd s
  | .meetLaunch meet => Sys2Proof.Machine.execMeetLaunch meet s
  | .batchHandout meet field die count => Sys2Proof.Machine.execBatchHandout meet field die count s
  | .teamPlacement meet field cl cores => Sys2Proof.Machine.execTeamPlacement meet field cl cores s
  | .teamRetirement team => Sys2Proof.Machine.execTeamRetirement team s
  | .chargeReport meet die => Sys2Proof.Machine.execChargeReport meet die s
  | .tenantRevoke tenant queue => Sys2Proof.Machine.execTenantRevoke tenant queue s
  | .saveRequest part waiting => Sys2Proof.Machine.execSaveRequest part waiting s
  | .contextSave team => Sys2Proof.Machine.execContextSave team s
  | .pageResponse ctx gen page answer => Sys2Proof.Machine.execPageResponse ctx gen page answer s
  | .atsCompletion ctx tlb va => Sys2Proof.Machine.execAtsCompletion ctx tlb va s
  | .shootdown ctx lo size tlbs => Sys2Proof.Machine.execShootdown ctx lo size tlbs s
  | .pageWalkCompletion ctx tlb va kind => Sys2Proof.Machine.execPageWalkCompletion ctx tlb va kind s
  | .contextRestore team => Sys2Proof.Machine.execContextRestore team s
  | .awaitValueArrival u tag fibre v => Sys2Proof.Machine.execAwaitValueArrival u tag fibre v s
  | .contextKill ctx => Sys2Proof.Machine.execContextKill ctx s
  | .framePoolRegister ctx die range => Sys2Proof.Machine.execFramePoolRegister ctx die range s
  | .valueArrival u tag => Sys2Proof.Machine.execValueArrival u tag s
  | .forcedSwap cl core track => Sys2Proof.Machine.execForcedSwap cl core track s
  | .pendingSwap cl core track => Sys2Proof.Machine.execPendingSwap cl core track s
  | .rotation cl core track => Sys2Proof.Machine.execRotation cl core track s
  | .deferredTrapDelivery team => Sys2Proof.Machine.execDeferredTrapDelivery team s
  | .leaseExpiry die line => Sys2Proof.Machine.execLeaseExpiry die line s
  | .writeAcknowledgement u => Sys2Proof.Machine.execWriteAcknowledgement u s
  | .homeRequest r => Sys2Proof.Machine.execHomeRequest r s
  | .invalidationAck id holder => Sys2Proof.Machine.execInvalidationAck id holder s
  | .externalAccess x => Sys2Proof.Machine.execExternalAccess x s
  | .backInvalidateSnoop at_ => Sys2Proof.Machine.execBackInvalidateSnoop at_ s
  | .birsp line host => Sys2Proof.Machine.execBirsp line host s
  | .classChange which cls => Sys2Proof.Machine.execClassChange which cls s
  | .classTransition page => Sys2Proof.Machine.execClassTransition page s
  | .copyStart cl chan => Sys2Proof.Machine.execCopyStart cl chan s
  | .copyPortionWritten cl chan count => Sys2Proof.Machine.execCopyPortionWritten cl chan count s
  | .copyFault cl chan => Sys2Proof.Machine.execCopyFault cl chan s
  | .tileFetchChunk team => Sys2Proof.Machine.execTileFetchChunk team s
  | .tileFetchFault team => Sys2Proof.Machine.execTileFetchFault team s
  | .arrayChunk team => Sys2Proof.Machine.execArrayChunk team s
  | .arrayZero team => Sys2Proof.Machine.execArrayZero team s
  | .armedOperationStart team handle => Sys2Proof.Machine.execArmedOperationStart team handle s
  | .txferLaunchTime team handle => Sys2Proof.Machine.execTxferLaunchTime team handle s
  | .txferCompletion team which => Sys2Proof.Machine.execTxferCompletion team which s
  | .tsendPacketSend team handle => Sys2Proof.Machine.execTsendPacketSend team handle s
  | .taskPacketCheck which => Sys2Proof.Machine.execTaskPacketCheck which s
  | .tsendAnswer team handle => Sys2Proof.Machine.execTsendAnswer team handle s
  | .collectiveIssue team handle => Sys2Proof.Machine.execCollectiveIssue team handle s
  | .collectiveBufferGrant team handle => Sys2Proof.Machine.execCollectiveBufferGrant team handle s
  | .collectiveDataArrival ctx group cid gen member msg => Sys2Proof.Machine.execCollectiveDataArrival ctx group cid gen member msg s
  | .collectiveCompletion team handle => Sys2Proof.Machine.execCollectiveCompletion team handle s
  | .groupTableWrite ctx group entry => Sys2Proof.Machine.execGroupTableWrite ctx group entry s
  | .placeTableWrite kind logical physical => Sys2Proof.Machine.execPlaceTableWrite kind logical physical s
  | .repairTableWrite kind index spare => Sys2Proof.Machine.execRepairTableWrite kind index spare s
  | .windowRegisterWrite die index base size target => Sys2Proof.Machine.execWindowRegisterWrite die index base size target s
  | .configRegisterWrite cmd => Sys2Proof.Machine.execConfigRegisterWrite cmd s
  | .dcAddExtent at_ host dpa blocks => Sys2Proof.Machine.execDcAddExtent at_ host dpa blocks s
  | .dcReleaseExtent at_ => Sys2Proof.Machine.execDcReleaseExtent at_ s
  | .keyExchange which ctx expander tenant session key verified => Sys2Proof.Machine.execKeyExchange which ctx expander tenant session key verified s
  | .keyUpdate die index key => Sys2Proof.Machine.execKeyUpdate die index key s
  | .endSession die index => Sys2Proof.Machine.execEndSession die index s
  | .getMeasurements requester => Sys2Proof.Machine.execGetMeasurements requester s
  | .firmwareImageLoad image => Sys2Proof.Machine.execFirmwareImageLoad image s
  | .writebackErrorAnswer die line cause => Sys2Proof.Machine.execWritebackErrorAnswer die line cause s
  | .viralEntry port => Sys2Proof.Machine.execViralEntry port s
  | .portReset port => Sys2Proof.Machine.execPortReset port s
  | .linkFailure target => Sys2Proof.Machine.execLinkFailure target s
  | .requestTimeout target => Sys2Proof.Machine.execRequestTimeout target s
  | .powerActive die => Sys2Proof.Machine.execPowerActive die s
  | .powerPark die => Sys2Proof.Machine.execPowerPark die s
  | .powerDoze die => Sys2Proof.Machine.execPowerDoze die s
  | .powerOff die => Sys2Proof.Machine.execPowerOff die s
  | .frequencyStep die step => Sys2Proof.Machine.execFrequencyStep die step s
  | .temperatureSample die readings => Sys2Proof.Machine.execTemperatureSample die readings s
  | .processMonitorSample die counts => Sys2Proof.Machine.execProcessMonitorSample die counts s
  | .monitorThresholdSet die cmd => Sys2Proof.Machine.execMonitorThresholdSet die cmd s
  | .monitorRead die sel => Sys2Proof.Machine.execMonitorRead die sel s
  | .coldReset => Sys2Proof.Machine.execColdReset s
  | .warmReset die => Sys2Proof.Machine.execWarmReset die s
  | .dieReadmission die => Sys2Proof.Machine.execDieReadmission die s
  | .functionLevelReset vf => Sys2Proof.Machine.execFunctionLevelReset vf s
  | .mailboxMessage die src dst msg => Sys2Proof.Machine.execMailboxMessage die src dst msg s
  | .heartbeat die => Sys2Proof.Machine.execHeartbeat die s
  | .adoption die adopter => Sys2Proof.Machine.execAdoption die adopter s
  | .migration ctx elapsedNs => Sys2Proof.Machine.execMigration ctx elapsedNs s
  | .voltageDroop die monitor mv => Sys2Proof.Machine.execVoltageDroop die monitor mv s
  | .deviceReconnection target => Sys2Proof.Machine.execDeviceReconnection target s
  | .commandProcessorCoreFailure die core => Sys2Proof.Machine.execCommandProcessorCoreFailure die core s
  | .taskImageRegistration at_ hash ctx kent text args part => Sys2Proof.Machine.execTaskImageRegistration at_ hash ctx kent text args part s

end Sys2Proof.Machine
end

