-- ==== Sys2Proof/Machine/Ready.lean ====
section
/-!
DEFINITION. What follows a step: which heats are ready (R39), driver commands that waited (R168), shootdowns that are complete (R341),
pages that are asked for (R343), and the passing of time.
-/

namespace Sys2Proof.Machine

/-- The unit that issued waits. -/
def State.waited (s : State) : Bool := ((s.site? s.cur.u).map fun x => x.heat.tried).getD false

/-- Apply a function to a next state. -/
def Out.map (f : State → State) : Out → Out
  | .next s => .next (f s)
  | .fault r => .fault r
  | .refused r => .refused r

/-! ### Readiness (R39) -/

/-- An issue that went through, not one that waited. -/
def issued : Out → Bool
  | .next s => !s.waited
  | .fault _ => true
  | .refused _ => true

/-- The next instruction of a unit can issue as things stand: it is tried in the mind. -/
def State.canIssue (s : State) (u : UnitRef) : Bool :=
  match s.unitTurn u with
  | .done o => issued o
  | .run i s => issued (exec i s)

/-- What a heat's readiness is now: since when, kept while it lasts. -/
def State.readiness (s : State) (x : Site) : Option Nat :=
  if s.canIssue x.u then some (x.heat.ready.getD s.now) else none

/-- The heats of resident teams that have a runnable batch, or were ready. -/
def State.watchedHeats (s : State) : List Site :=
  s.teams.flatMap fun t =>
    if t.st = .resident then
      t.heats.filterMap fun h =>
        if h.openPcs ≠ [] ∨ h.ready.isSome then some { u := { team := t.id, who := .heat h.squad h.idx }, team := t, heat := h } else none
    else []

/-- Find which heats are ready: one without a runnable batch is not. -/
def State.noteReady (s : State) : State :=
  s.watchedHeats.foldl (fun t x => t.updHeat x.u fun h => { h with ready := if h.openPcs = [] then none else s.readiness x }) s

/-! ### Runs (R39) -/

/-- A heat shares the lane of a unit without being it. -/
def Site.rival (x : Site) (t : Team) (h : Heat) : Bool :=
  decide (t.cl = x.team.cl ∧ h.track = x.heat.track) && (some (t.cores.getD h.squad 0) == x.core?) &&
    !decide (x.u = { team := t.id, who := .heat h.squad h.idx })

/-- The other heats of the lane have not issued last (R39). -/
def State.breakRuns (s : State) (x : Site) : State :=
  { s with teams := s.teams.map fun t =>
      { t with heats := t.heats.map fun h => if x.rival t h then { h with run := 0 } else h } }

/-- An active heat of the unit's lane was ready as the unit issued. -/
def State.hasReadyRival (s : State) (x : Site) : Bool :=
  s.teams.any fun t => decide (t.st = .resident) && t.heats.any fun h => x.rival t h && h.active && h.ready.isSome

/-- A unit has issued, unless the turn was none of a batch: the runs of its rivals end, its own ends when none of them was ready, and its L2 misses are
counted (R39, R318). -/
def State.noteIssue (s : State) : State :=
  match (if s.cur.batch = [] then none else s.site? s.cur.u) with
  | some x =>
    let s := if s.hasReadyRival x then s else s.updHeat x.u fun h => { h with run := 0 }
    (s.breakRuns x).creditMisses s.cur.u.team
  | none => { s with missed := 0 }

/-! ### What waited -/

/-- Perform a command that waited, or let it wait on; a leader's own keeps its place while the leader stands at it. -/
def State.retry (s : State) (d : DriverCommand) : State :=
  match d.leader with
  | some l => if s.bankStands l then { s with commands := s.commands ++ [d] } else s
  | none =>
    (match d.op with
      | .bankcfg cl => s.commandBank d cl
      | .awset cl => s.commandAwset d cl
      | .syswr => s.commandSyswr d).answer d s

/-- The driver's commands that wait are tried again, in their order (R107, R168). -/
def State.retryAll (s : State) : State :=
  if s.commands = [] then s else s.commands.foldl State.retry { s with commands := [] }

/-- What a change may have made possible: commands and write-backs that waited, shootdowns, page requests whose turn has come (R343, R384). -/
def State.follow (s : State) : State := s.retryAll.drainOut.shotDone.askEverywhere.refresh

/-! ### After a step -/

/-- What follows a step: time passes, and unless the step was a wait, every unit may be tried again. -/
def State.after (s : State) : State := (if s.waited then { s with missed := 0 } else s.noteIssue.follow).tick.noteReady

/-- The same after an event. -/
def State.afterEvent (s : State) : State := ({ s with missed := 0 } : State).follow.tick.noteReady

end Sys2Proof.Machine
end

