-- ==== Sys2Proof/Machine/Step.lean ====
section
/-!
DEFINITION. One step: the event that the agenda names next, or else one issue. And placing an instruction where the next
step fetches it.
-/

namespace Sys2Proof.Machine

/-- One step of the package (log entry 2). -/
def step (s : State) : Host.Outcome State Fault Refusal :=
  match s.agenda with
  | i :: rest =>
    if s.allows i then Out.map State.afterEvent (exec i { s with agenda := rest }) else .next { s with agenda := rest }.tick
  | [] =>
    if s.halted then .next s.tick
    else
      match s.turnOf with
      | .done o => Out.map State.after o
      | .run i s => Out.map State.after (exec i s)

/-- The state with the instruction of a table row where the next step fetches it (log entry 5). -/
def State.withFetchWord (s : State) (nbits w : Nat) : State := s.placed (tableWords nbits w)

end Sys2Proof.Machine
end

