-- ==== Sys2Proof/Safety.lean ====
section
/-!
DEFINITION. What counts as a safe run, and the terms that claims use: runs, when a unit issues an instruction, what an
instruction leaves unchanged, and the invariants of the state.
-/

namespace Sys2Proof.Machine

/-! ### Runs -/

/-- The states that a run from a state passes through. -/
inductive Reaches : State → State → Prop where
  | start (s : State) : Reaches s s
  | step (s t u : State) : Reaches s t → step t = .next u → Reaches s u

/-- A run is safe when every state it reaches has a next one: it meets neither a fault nor a refusal. -/
def SafeFrom (s : State) : Prop := ∀ t, Reaches s t → ∃ u, step t = .next u

/-- The shared memory and the scratch memories of a team have the canonical form. -/
def Team.MemOk (t : Team) : Prop := Memory.wf t.cshMem = true ∧ ∀ m ∈ t.scrMem, Memory.wf m = true

/-- Memory, and every local memory, has its canonical form: addresses strictly rising, no cell equal to what an unlisted address reads as. -/
def State.MemOk (s : State) : Prop := Memory.wf s.mem = true ∧ ∀ t ∈ s.teams, t.MemOk

/-! ### Issuing -/

/-- Fibre i of a unit has a register r (R52, R55, R58, R59). -/
def Site.Has (x : Site) (i r : Nat) : Prop :=
  ∃ f, x.heat.fibre? i = some f ∧
    if r < 128 then f.slotOf r < f.regs.length
    else x.holdsX = true ∧ ∃ e l, x.xset? = some e ∧ e.regs[i]? = some l ∧ r - 128 < l.length

/-- Fibre i of a unit has a register r, and it holds a value (R67). -/
def Site.Knows (x : Site) (i r : Nat) : Prop := x.Has i r ∧ ∃ w, x.slot i r = .val w

/-- The unit x issues a batch of live fibres, of which `is` execute under a guard, and the registers that the instruction names are there
and, where it reads them, hold values (R34, R160, R185, R224). -/
structure Issues (s : State) (x : Site) (is : List Nat) (g : Guard) (us : List Use) : Prop where
  here : s.here = some x
  once : s.cur.batch.Nodup
  live : ∀ i ∈ s.cur.batch, (x.heat.fibre? i).isSome
  known : g = .always ∨ ∀ i ∈ s.cur.batch, x.Knows i 0
  executing : x.executing s.cur.batch g = is
  nonempty : is ≠ []
  fields : ∀ u ∈ us, ∀ i ∈ is, ∀ k < u.n, x.Has i (u.reg + k)
  values : ∀ u ∈ us, u.rd = true → ∀ i ∈ is, ∀ k < u.n, x.Knows i (u.reg + k)

/-- Of the package only teams and meets have changed, of them only the unit's own; of its team no other unit has (R120, R187). -/
structure Own (s t : State) (x y : Site) : Prop where
  here : t.site? s.cur.u = some y
  rest : t = { s with teams := t.teams, meets := t.meets }
  teams : ∀ id, id ≠ x.team.id → t.team? id = s.team? id
  meets : ∀ id, id ≠ x.team.meet → t.meet? id = s.meet? id
  units : ∀ w, w ≠ x.u.who → y.team.heat? w = x.team.heat? w

/-- Besides, of the team only the unit, the counters and the extended sets have changed, and of the unit only its fibres and what counts
its issues: no mask, no trap register, no write set, nothing of the team's storage, queues and operations. -/
structure Frame (s t : State) (x y : Site) : Prop extends Own s t x y where
  team : y.team = { x.team with heats := y.team.heats, pacer := y.team.pacer, counters := y.team.counters, xsets := y.team.xsets }
  heat : y.heat = { x.heat with fibres := y.heat.fibres, issued := y.heat.issued, run := y.heat.run, waiting := y.heat.waiting,
                                long := y.heat.long, tried := y.heat.tried }

/-- The fibres of the batch stand at the next instruction and wait for no baton, every other one is as it stood, and nothing else of a fibre but its
registers, its seed and the count of its last issue has changed (R34). -/
def Advanced (s : State) (x y : Site) : Prop :=
  ∀ i, y.heat.fibre? i = (x.heat.fibre? i).bind fun f =>
    (y.heat.fibre? i).map fun g =>
      { f with pc := if i ∈ s.cur.batch then f.pc + BitVec.ofNat 56 s.cur.len else f.pc, regs := g.regs, seed := g.seed, last := g.last,
               waits := if i ∈ s.cur.batch then false else f.waits }

/-- What an instruction writes in each executing fibre: a number to n registers from d, and where it has one a guard bit and the
generator's new state. -/
structure Effect where
  d    : Nat
  n    : Nat
  v    : Nat → Nat
  bit  : Option (Nat × (Nat → Bool)) := none
  seed : Option (Nat → Word) := none

/-- The predicate word of a fibre after an effect on a unit: the number written, if v0 is a destination, with the guard bit set or cleared. -/
def Effect.v0 (e : Effect) (x : Site) (i : Nat) : Slot :=
  let w : Slot := if e.d = 0 ∧ 0 < e.n then .val (wd (e.v i)) else x.slot i 0
  match e.bit with
  | none => w
  | some (g, b) => .val (setBit w.word g (b i))

/-- The executing fibres hold what an effect writes; no other register and no other generator has changed. -/
structure Wrote (x y : Site) (is : List Nat) (e : Effect) : Prop where
  result : ∀ i ∈ is, ∀ k < e.n, e.d + k ≠ 0 → y.slot i (e.d + k) = .val (wd (e.v i / 2 ^ (32 * k)))
  v0 : ∀ i ∈ is, y.slot i 0 = e.v0 x i
  others : ∀ i r, i ∉ is ∨ (r ≠ 0 ∧ (r < e.d ∨ e.d + e.n ≤ r)) → y.slot i r = x.slot i r
  seeds : ∀ i, y.seed i = match e.seed with
    | some f => if i ∈ is then f i else x.seed i
    | none => x.seed i

/-- An outcome is a next state in which the executing fibres hold an effect, the batch has advanced, and nothing else has changed. -/
def Computes (o : Out) (s : State) (x : Site) (is : List Nat) (e : Effect) : Prop :=
  ∃ t y, o = .next t ∧ Frame s t x y ∧ Advanced s x y ∧ Wrote x y is e

/-- The predicate word as a source. -/
def readV0 : Use := { reg := 0, n := 1, rd := true }

/-- A result of the type in D. -/
def toD (e : Ext) (v : Nat → Nat) : Effect := { d := e.d.toNat, n := e.ty.regs, v := v }

/-- A 32-bit result in D. -/
def toD32 (e : Ext) (v : Nat → Nat) : Effect := { d := e.d.toNat, n := 1, v := v }

/-- A 64-bit result in the pair D. -/
def toD64 (e : Ext) (v : Nat → Nat) : Effect := { d := e.d.toNat, n := 2, v := v }

/-- A result in a guard alone. -/
def toG (g : BitVec 8) (b : Nat → Bool) : Effect := { d := 0, n := 0, v := fun _ => 0, bit := some (g.toNat % 32, b) }

end Sys2Proof.Machine
end

