-- ==== Sys2Proof/Certificates/Slice0/Obligations.lean ====
section
/-!
DEFINITION. The statements for the provers, with the terms that they use: what the rules of the manual say that instructions, events and the
machine do.
-/

/-! ### What register instructions compute -/

namespace Sys2Proof.Machine

/-- Integer arithmetic (R191, R193 to R195): the registers named and the effect, from the values a, b, c of the operands. -/
def integerResult (m : Mn) (e : Ext) (x : Site) : Option (List Use × Effect) :=
  let a (i : Nat) : Int := valOf e.ty (x.srcA i e)
  let b (i : Nat) : Int := valOf e.ty (x.srcB i e)
  let c (i : Nat) : Int := valOf e.ty (x.srcC i e)
  let fin (f : Nat → Int) : Effect := toD e fun i => finish e.ty (satOf e) (f i)
  let low (f : Nat → Int) : Effect := toD e fun i => wrap e.ty.bits (f i)
  match m with
  | .add => some (uses3 e, fin fun i => a i + b i)
  | .sub => some (uses3 e, fin fun i => a i - b i)
  | .mul => some (uses3 e, fin fun i => a i * b i)
  | .neg => some (uses2 e, fin fun i => -(a i))
  | .abs => some (uses2 e, fin fun i => (a i).natAbs)
  | .min => some (uses3 e, fin fun i => min (a i) (b i))
  | .max => some (uses3 e, fin fun i => max (a i) (b i))
  | .mulh => some (uses3 e, low fun i => a i * b i / 2 ^ e.ty.bits)
  | .mad => some (uses3 e ++ [readC e e.ty.regs], low fun i => a i * b i + c i)
  | .div => some (uses3 e, low fun i => if b i = 0 then -1 else (a i).tdiv (b i))
  | .rem => some (uses3 e, low fun i => if b i = 0 then a i else (a i).tmod (b i))
  | _ => none

/-- Addition with carry and subtraction with borrow (R192): W bits of the result in D, the carry or borrow in guard C. -/
def carryResult (m : Mn) (e : Ext) (x : Site) : Option (List Use × Effect) :=
  let w := e.ty.bits
  let a (i : Nat) : Nat := x.srcA i e % 2 ^ w
  let b (i : Nat) : Nat := x.srcB i e % 2 ^ w
  let k (i : Nat) : Nat := if x.guard i (e.c.toNat % 32) then 1 else 0
  match m with
  | .addc => some (readV0 :: uses3 e,
      { toD e (fun i => (a i + b i + k i) % 2 ^ w) with bit := some (e.c.toNat % 32, fun i => decide (2 ^ w ≤ a i + b i + k i)) })
  | .subb => some (readV0 :: uses3 e,
      { toD e (fun i => wrap w (a i - b i - k i)) with bit := some (e.c.toNat % 32, fun i => decide (a i < b i + k i)) })
  | _ => none

/-- Logic, shifts and bit fields (R196 to R200). -/
def logicResult (m : Mn) (e : Ext) (x : Site) : Option (List Use × Effect) :=
  let w := e.ty.bits
  let a (i : Nat) : Nat := x.srcA i e
  let b (i : Nat) : Nat := x.srcB i e
  let s (i : Nat) : Nat := x.src32 i e % w
  match m with
  | .and => some (uses3 e, toD e fun i => a i &&& b i)
  | .or => some (uses3 e, toD e fun i => a i ||| b i)
  | .xor => some (uses3 e, toD e fun i => a i ^^^ b i)
  | .andn => some (uses3 e, toD e fun i => a i &&& ((2 ^ w - 1) ^^^ b i))
  | .not => some (uses2 e, toD e fun i => (2 ^ w - 1) ^^^ a i)
  | .shl => some (usesShift e, toD e fun i => a i * 2 ^ s i % 2 ^ w)
  | .shr => some (usesShift e, toD e fun i => a i / 2 ^ s i)
  | .sha => some (usesShift e, toD e fun i => wrap w (toSigned w (a i) / 2 ^ s i))
  | .rot => some (usesShift e, toD e fun i => a i * 2 ^ s i % 2 ^ w + a i / 2 ^ (w - s i))
  | .bfx => some (uses2 e ++ readB e 1, toD e fun i => bfxOf e.ty (a i) (x.srcN i e))
  | .bfi => some (uses2 e ++ readB e 1 ++ [readC e e.ty.regs], toD e fun i => bfiOf w (a i) (x.srcN i e) (x.srcC i e))
  | .popc => some ([useD e 1, readA e e.ty.regs], toD32 e fun i => onesIn (a i) w)
  | .clz => some ([useD e 1, readA e e.ty.regs], toD32 e fun i => trailing (reversed (a i) w) w)
  | .ctz => some ([useD e 1, readA e e.ty.regs], toD32 e fun i => trailing (a i) w)
  | .brev => some (uses2 e, toD e fun i => reversed (a i) w)
  | .perm => some ([readD e e.ty.regs, readA e e.ty.regs] ++ readB e e.ty.regs, toD e fun i => permOf (a i) (x.val i e.d.toNat 1) (b i))
  | _ => none

/-- Moves, constants and selection (R201 to R204), and addresses (R208, R209). -/
def moveResult (m : Mn) (e : Ext) (x : Site) : Option (List Use × Effect) :=
  match m with
  | .mov => some (uses2 e, toD e fun i => x.srcA i e)
  | .movi => some ([useD e e.ty.regs], toD e fun i => x.srcB i e)
  | .lit => some ([useD e e.ty.regs], toD e fun _ => e.lit.toNat)
  | .sel => some (readV0 :: uses3 e, toD e fun i => if x.guard i (e.c.toNat % 32) = !(e.mod.getLsbD 0) then x.srcA i e else x.srcB i e)
  | .lea => some ([useD e 2, readA e 2] ++ readB e 1,
      toD64 e fun i => (x.val i e.a.toNat 2 + x.srcOfs i e e.ty.signed * 2 ^ e.m1.toNat) % 2 ^ 64)
  | .sptest => some ([useD e 1, readA e 2], toD32 e fun i => (spaceOf (x.val i e.a.toNat 2)).code)
  | .spcastGen => some ([useD e 2, readA e 2], toD64 e fun i => x.generic e.m1.toNat (x.val i e.a.toNat 2))
  | _ => none

/-- Comparisons and guards (R205 to R207). -/
def compareResult (m : Mn) (e : Ext) (x : Site) : Option (List Use × Effect) :=
  let holds (i : Nat) : Bool := condHolds e.m1.toNat (valOf e.ty (x.srcA i e)) (valOf e.ty (x.srcB i e))
  match m with
  | .cmp => some (readV0 :: readA e e.ty.regs :: readB e e.ty.regs,
      toG e.d fun i => combineGuard e.mod.toNat (x.guard i (e.d.toNat % 32)) (holds i))
  | .cmpv => some ([useD e 1, readA e e.ty.regs] ++ readB e e.ty.regs, toD32 e fun i => if holds i then 2 ^ 32 - 1 else 0)
  | .gop => some ([readV0], toG e.d fun i => gopBit e.x.toNat (x.guard i (e.a.toNat % 32)) (x.guard i (e.b.toNat % 32)))
  | _ => none

/-! ### What float instructions compute -/

/-- The seed after n element results of each executing fibre, when the instruction rounds stochastically (R78). -/
def drawn (e : Ext) (x : Site) (n : Nat) : Option (Nat → Word) := if e.rs = 4 then some fun i => srAfter (x.seed i) n else none

/-- One rounded result for each element of the type (R260): `v` gives the exact value of element j in fibre i and whether digits were cut
off it. -/
def rounded (e : Ext) (x : Site) (v : Nat → Nat → Cut) : Effect :=
  { toD32 e (fun i => packLanes e.ty fun j => x.rnd e i j (v i j).val (v i j).sticky) with seed := drawn e x (lanesOf e.ty) }

/-- A value known in full. -/
def whole (v : Fp) : Cut := { val := v, sticky := false }

/-- Float arithmetic, quotients, roots and functions (R265, R270 to R272). -/
def floatResult (m : Mn) (e : Ext) (x : Site) : Option (List Use × Effect) :=
  let a (i j : Nat) : Fp := readF e.ty (subOf e) (laneOf e.ty (x.srcA i e) j)
  let b (i j : Nat) : Fp := readF e.ty (subOf e) (laneOf e.ty (x.srcB i e) j)
  let c (i j : Nat) : Fp := readF e.ty (subOf e) (laneOf e.ty (x.srcC i e) j)
  let down := decide (e.rs.toNat = 3)
  let func (f : FFmt → Nat → Nat → Fp → Nat) : Option (List Use × Effect) :=
    some (uses2 e, { toD32 e (fun i => packLanes e.ty fun j => f (fmtOf e.ty) e.rs.toNat (x.draw e i j) (a i j)) with seed := drawn e x (lanesOf e.ty) })
  match m with
  | .fadd => some (uses3 e, rounded e x fun i j => whole (Fp.add down (a i j) (b i j)))
  | .fsub => some (uses3 e, rounded e x fun i j => whole (Fp.add down (a i j) (b i j).neg))
  | .fmul => some (uses3 e, rounded e x fun i j => whole (Fp.mul (a i j) (b i j)))
  | .fma => some (uses4 e, rounded e x fun i j => whole (Fp.add down (Fp.mul (a i j) (b i j)) (c i j)))
  | .fms => some (uses4 e, rounded e x fun i j => whole (Fp.add down (Fp.mul (a i j) (b i j)) (c i j).neg))
  | .fnma => some (uses4 e, rounded e x fun i j => whole (Fp.add down (Fp.mul (a i j).neg (b i j)) (c i j)))
  | .frcp => some (uses2 e, rounded e x fun i j => Fp.div (.fin false 1 0) (a i j))
  | .frsq => some (uses2 e, rounded e x fun i j => Fp.rsqrt (a i j))
  | .fsqrt => some (uses2 e, rounded e x fun i j => Fp.sqrt (a i j))
  | .fdiv => some (uses3 e, rounded e x fun i j => Fp.div (a i j) (b i j))
  | .fscale => some ([useD e 1, readA e 1] ++ readB e 1, rounded e x fun i j => whole ((a i j).scale (x.scaleBy i e)))
  | .fexp2 => func FFmt.exp2
  | .flog2 => func FFmt.log2
  | .fsin => func FFmt.sin
  | .fcos => func FFmt.cos
  | .ftanh => func FFmt.tanh
  | .frnd => func fun f r u v => f.round 0 0 (v.integral r u)
  | _ => none

/-- Picking, signs, class and comparison (R266 to R269). -/
def pickResult (m : Mn) (e : Ext) (x : Site) : Option (List Use × Effect) :=
  let lane (f : Nat → Nat → Nat) : Effect :=
    toD32 e fun i => packLanes e.ty fun j => f (laneOf e.ty (x.srcA i e) j) (laneOf e.ty (x.srcB i e) j)
  let top := 2 ^ (fbits e.ty - 1)
  match m with
  | .fmin => some (uses3 e, lane (pickNum e false))
  | .fmax => some (uses3 e, lane (pickNum e true))
  | .fabs => some (uses2 e, lane fun a _ => a % top)
  | .fneg => some (uses2 e, lane fun a _ => a % top + (if top ≤ a then 0 else top))
  | .fcpys => some (uses3 e, lane fun a b => a % top + (if top ≤ b then top else 0))
  | .fclass => some (uses2 e, toD32 e fun i => 2 ^ (fmtOf e.ty).classBit (laneOf e.ty (x.srcA i e) 0))
  | .fcmp => some (readV0 :: readA e 1 :: readB e 1, toG e.d fun i =>
      combineGuard e.mod.toNat (x.guard i (e.d.toNat % 32)) (fcondHolds (bitsOf e.m1.toNat 0 3)
        (readF e.ty (e.m1.getLsbD 3) (laneOf e.ty (x.srcA i e) 0)) (readF e.ty (e.m1.getLsbD 3) (laneOf e.ty (x.srcB i e) 0))))
  | _ => none

/-! ### What becomes of records that instructions pass on -/

/-- The forms that transform a record (Table 5.4, R69, R189), with the registers that they name and their register sources, each with its place among the
operands. -/
def passForm (m : Mn) (e : Ext) : Option (List Use × List (Nat × Nat)) :=
  let second : List (Nat × Nat) := if e.osel = 0 then [(1, e.b.toNat)] else []
  let two := (0, e.a.toNat) :: second
  let plain := decide (e.ty = .s32 ∨ e.ty = .n32 ∨ e.ty = .b32) && decide (e.mod = 0)
  let float := decide (e.ty = .f32 ∨ e.ty = .f16 ∨ e.ty = .bf16) && decide (e.rs ≠ 4)
  match m with
  | .add | .sub | .mul => if plain then some (uses3 e, two) else none
  | .neg => if plain then some (uses2 e, [(0, e.a.toNat)]) else none
  | .shl => if e.ty = .b32 then some (usesShift e, two) else none
  | .fadd | .fsub | .fmul => if float then some (uses3 e, two) else none
  | .fma => if float then some (uses4 e, two ++ [(2, e.c.toNat)]) else none
  | _ => none

/-- The record that an instruction makes of the one at a place among its operands in a fibre, from the values of the others; none where it waits. A fault
or drained record is copied (R68, R69). -/
def passRecord (m : Mn) (e : Ext) (x : Site) (i place : Nat) (b : Baton) : Option Baton :=
  let known : Word := wd (if place = 0 then x.srcB i e else x.srcA i e)
  let linear (p q : Word) : Option Baton :=
    if b.st ≠ .pending then some b else if b.chain = [] then some { b with a := p * b.a, b := p * b.b + q } else none
  let step (op : ChainOp) (k1 k2 : Nat) : Option Baton :=
    if b.st ≠ .pending then some b
    else if b.a = 1 ∧ b.b = 0 ∧ b.chain.length < 4 then
      some { b with chain := b.chain ++ [{ op := op, ty := e.ty, rm := e.rs, sub := subOf e, k1 := wd k1, k2 := wd k2, pos := place }] }
    else none
  let other : Nat := if place = 0 then x.srcB i e else x.srcA i e
  match m with
  | .add => linear 1 known
  | .sub => if place = 0 then linear 1 (-known) else linear (-1) known
  | .mul => linear known 0
  | .neg => linear (-1) 0
  | .shl => if place = 0 then linear (wd (2 ^ (x.src32 i e % 32))) 0 else none
  | .fadd => step .fadd other 0
  | .fsub => step .fsub other 0
  | .fmul => step .fmul other 0
  | .fma => step .fma other (if place = 2 then x.srcB i e else x.srcC i e)
  | _ => none

/-- In a fibre every source of an instruction holds a value, or exactly one holds a record, which becomes a new one. -/
def Site.Passes (x : Site) (m : Mn) (e : Ext) (i : Nat) (src : List (Nat × Nat)) : Option Baton → Prop
  | none => ∀ p ∈ src, x.Knows i p.2
  | some r => ∃ p ∈ src, ∃ b, x.slot i p.2 = .bat b ∧ (∀ q ∈ src, q ≠ p → x.Knows i q.2) ∧ passRecord m e x i p.1 b = some r

/-- The registers that an instruction names, without a wait for what they hold. -/
def named (us : List Use) : List Use := us.map fun u => { u with rd := false }

end Sys2Proof.Machine

section
open Sys2Proof Sys2Proof.Machine

/-- R191 to R200: integer arithmetic, carries, logic, shifts and bit fields leave in D, or in D and guard C, what their rules give for the operands'
values, in every executing fibre, and change nothing else. -/
def Obligations.IntegerAndLogicResults : Prop :=
  ∀ (i : Instr) (m : Mn) (e : Ext) (s : State) (x : Site) (is : List Nat) (us : List Use) (f : Effect), i.shape = .form m e →
    integerResult m e x = some (us, f) ∨ carryResult m e x = some (us, f) ∨ logicResult m e x = some (us, f) → Issues s x is e.guard us →
    Computes (exec i s) s x is f

/-- R201 to R209: moves, constants, selection, comparisons, guard operations and addresses; SPCAST.OFS of addresses that pass its check. -/
def Obligations.MovesComparisonsAndAddresses : Prop :=
  (∀ (i : Instr) (m : Mn) (e : Ext) (s : State) (x : Site) (is : List Nat) (us : List Use) (f : Effect), i.shape = .form m e →
    moveResult m e x = some (us, f) ∨ compareResult m e x = some (us, f) → Issues s x is e.guard us → Computes (exec i s) s x is f) ∧
  (∀ (i : Instr) (e : Ext) (s : State) (x : Site) (is : List Nat), i.shape = .form .spcastOfs e → Issues s x is e.guard [useD e 2, readA e 2] →
    (∀ k ∈ is, x.spaceCheck (x.val k e.a.toNat 2) = none) → Computes (exec i s) s x is (toD64 e fun k => offsetOf (x.val k e.a.toNat 2)))

/-- R78, R83 and R265 to R272: float arithmetic rounds the exact result of each element once; picks, signs, class and comparison act on the bits. -/
def Obligations.FloatResults : Prop :=
  ∀ (i : Instr) (m : Mn) (e : Ext) (s : State) (x : Site) (is : List Nat) (us : List Use) (f : Effect), i.shape = .form m e →
    floatResult m e x = some (us, f) ∨ pickResult m e x = some (us, f) → Issues s x is e.guard us → Computes (exec i s) s x is f

end

/-! ### Encoding, the step, memory and reset -/

namespace Sys2Proof.Machine

/-- The function codes of each opcode that has some, the first and the last (Tables 13.6a to 13.6d; GOP, FLUSH, AMO and RED as their
descriptions list them). -/
def codesOf : List (Nat × Nat × Nat) :=
  [(0x00, 1, 3), (0x0A, 0, 1), (0x18, 0, 3), (0x21, 0, 2), (0x22, 0, 7), (0x25, 0, 2), (0x26, 0, 4), (0x27, 0, 5), (0x2D, 0, 1), (0x2F, 0, 8),
    (0x30, 0, 5), (0x35, 0, 1), (0x36, 0, 4), (0x37, 0, 4), (0x3B, 0, 3), (0x50, 0, 2), (0x53, 0, 2), (0x55, 0, 4)]

/-- A reserved opcode, or a reserved function code of an opcode (R169, R170). -/
def reservedCode (op fn : Nat) : Prop :=
  (0x3D ≤ op ∧ op ≤ 0x47) ∨ (0x65 ≤ op ∧ op ≤ 0x67) ∨ (0x7C ≤ op ∧ op ≤ 0x7F) ∨ ∃ p ∈ codesOf, p.1 = op ∧ (fn < p.2.1 ∨ p.2.2 < fn)

/-- An extended form of which every field that is not named is zero. -/
def plainExt (a d b : BitVec 8) (ty : Ty) : Ext :=
  { form := .ext, x := 0, a := a, d := d, b := b, c := 0, guard := .always, ty := ty, m1 := 0, osel := 0, rs := 0, mod := 0, p := 0, imm := 0, lit := 0 }

/-- The count of a fibre's last issue after an issue of the unit: the fibres of the batch have issued (R35). -/
def Site.lastOf (x : Site) (s : State) (i : Nat) (f : Fibre) : Nat := if i ∈ s.cur.batch then x.heat.issued + 1 else f.last

/-- Whether a counted use of a fibre still waits after an issue of the unit: one of the batch has issued (R318). -/
def Site.waitsOf (s : State) (i : Nat) (f : Fibre) : Bool := if i ∈ s.cur.batch then false else f.waits

/-- An outcome is a next state in which the executing fibres of the unit have entered its trap handler by a precise trap of the instruction,
which has had no other effect: %tvec gives the handler's address. DESIGN CHOICE: of a %tvec that is no such address, its low 56 bits (log entry 29). -/
def Trapped (o : Out) (s : State) (x : Site) (is : List Nat) (c : Byte) (fib : Nat) (info : DWord) : Prop :=
  ∃ t y, o = .next t ∧ Own s t x y ∧
    y.heat.tcause = tcauseOf x.team.lost x.isPacer false { cause := c, inner := 0, fibre := fib, pc := s.cur.pc, info := info } ∧
    y.heat.tpc = s.cur.pc.setWidth 64 ∧ y.heat.tinfo = info ∧ (∀ k r, y.slot k r = x.slot k r) ∧
    ∀ k, y.heat.fibre? k = (x.heat.fibre? k).map fun f =>
      if k ∈ is then
        { f with last := x.lastOf s k f, waits := Site.waitsOf s k f, epc := s.cur.pc.setWidth 64, handler := true
                 pc := (s.tvec x.team.ctx).setWidth 56 }
      else { f with last := x.lastOf s k f, waits := Site.waitsOf s k f }

end Sys2Proof.Machine

section
open Sys2Proof Sys2Proof.Machine

/-- R150, R151, R153, R155 to R158, R161, R163 and R164: words put together field by field from Tables 13.1 to 13.6 decode to the instructions that
they stand for. -/
def Obligations.SpecWordsDecode : Prop :=
  decode .heat [0x02000000] = .ok .nop 4 ∧
  decode .heat [0x04020604] = .ok (.add 2 1 3) 4 ∧
  decode .heat [0xFFFFFE8C] = .ok (.bra (BitVec.allOnes 23)) 4 ∧
  decode .heat [0x00000498] = .ok (.join 2) 4 ∧
  decode .heat [0x00000C71, 0x89ABCDEF, 0x01234567] =
    .ok (.lit { plainExt 0 6 0 .b64 with form := .shortLit, lit := 0x0123456789ABCDEF }) 12 ∧
  decode .heat [0x00080D22, 0x05430005, 0x00000000] = .ok (.faddExt { plainExt 4 6 5 .f32 with guard := .ifSet 3 }) 12 ∧
  decode .heat [0x000408A2, 0x03000000, 0xFFF00040] = .ok (.ldExt { plainExt 2 4 0 .n32 with osel := 1, imm := 0xFFF0 }) 12 ∧
  decode .pacer [0x000401A6, 0x00000800, 0x00000000] = .ok (.mxma { plainExt 2 0 0 .s8 with c := 8 }) 12 ∧
  decode .heat [0x000401A6, 0x00000800, 0x00000000] = .wrongUnit ∧
  decode .heat [0x00020607, 0x07C02000, 0x00000080, 0x00000009, 0x00000000] = .illegal

/-- For every well-formed instruction that has words, the decoder reads from the words of its encoding exactly that instruction, with every operand at
every value that its encoding admits, on a unit that runs it, whatever follows them. -/
def Obligations.DecodeOfEncode : Prop :=
  ∀ (i : Instr) (k : UnitKind) (r : List Word), i.wf = true → i.shape ≠ .event →
    (∀ m e, i.shape = .form m e → m.runsOn k = true) → (∀ m j, i.shape = .jump m j → m.runsOn k = true) →
    decode k (encode i ++ r) = .ok i (4 * (encode i).length)

/-- R150, R152 and R170: an instruction has one, three or five words as the field L of its word 0 says; the all-zero word, and every reserved opcode
and function code, is ILLEGAL_INSTRUCTION in every length and on every unit. -/
def Obligations.LengthsAndReservedCodes : Prop :=
  (∀ (k : UnitKind) (w : Word) (r : List Word) (i : Instr) (n : Nat), decode k (w :: r) = .ok i n → n = match (w.extractLsb' 0 2).toNat with
    | 0 => 4
    | 3 => 20
    | _ => 12) ∧
  (∀ (k : UnitKind) (r : List Word), decode k (0 :: r) = .illegal) ∧
  (∀ (k : UnitKind) (w : Word) (r : List Word), reservedCode (w.extractLsb' 2 7).toNat (w.extractLsb' 25 7).toNat → decode k (w :: r) = .illegal)

/-- R34, R35, R151 and R167: when no event is due and the unit whose turn it is has a batch to issue, and the words at the batch's PC, each read from
memory through the unit's translation for execution, decode to an instruction, the step is that instruction's execution by that batch, and then time
passes; words that do not decode raise their decode trap. R141: an access behind a LD.acq of its heat that has not been performed waits instead. Of the
model: an issue takes a step when the agenda is empty, by the unit that the schedule picks (log entry 2), and reads the home's current bytes, poisoned
ones as they are (log entry 74). -/
def Obligations.StepRunsTheInstruction : Prop :=
  ∀ (s u : State) (x y : Site) (is : List Nat) (pc : Pc) (w : Word) (r : List Word), s.agenda = [] → s.halted = false → s.pick = some x →
    x.team.wantsPages = false → s.turned.adoptDue x.team = u → u.site? x.u = some y → y.heat.nextBatch = some is →
    u.dueNow x.u is = false → y.heat.runPc (is.headD 0) = some pc → (w :: r).length = wordsOf w →
    (∀ (k : Nat) (v : Word), (w :: r)[k]? = some v → ∃ h, u.reach y.team.cl.die y.team.ctx y.tlb (pc + BitVec.ofNat 56 (4 * k)).toNat .exec .plain = .ok h ∧
      (match u.pageEntry y.team.ctx h with
        | some f => deadZero f ((pc + BitVec.ofNat 56 (4 * k)).toNat - h.base) (u.homeRead (h.phys (pc + BitVec.ofNat 56 (4 * k)).toNat) 4).1
        | none => (u.homeRead (h.phys (pc + BitVec.ofNat 56 (4 * k)).toNat) 4).1) = wordBytes v) →
    (∀ i n, decode y.kind (w :: r) = .ok i n → y.heat.owesAcquire = false ∨ accesses i = false →
      step s = Out.map State.after (exec i (u.at_ y.u is pc n w))) ∧
    (∀ i n, decode y.kind (w :: r) = .ok i n → y.heat.owesAcquire = true → accesses i = true →
      step s = Out.map State.after ((u.at_ y.u is pc n w).wait y false)) ∧
    (decode y.kind (w :: r) = .illegal → step s = Out.map State.after ((u.at_ y.u is pc (4 * wordsOf w) w).decodeTrap (w :: r) cause.illegal)) ∧
    (decode y.kind (w :: r) = .wrongUnit → step s = Out.map State.after ((u.at_ y.u is pc (4 * wordsOf w) w).decodeTrap (w :: r) cause.wrongUnit))

/-- R397 and log entry 2: the event that the agenda names next comes about in a step of its own, if it is not one that a halted package stops, and is
then no longer due; a halted package issues nothing, and its arithmetic clock and its teams stand still. -/
def Obligations.StepRunsTheAgenda : Prop :=
  ∀ s : State,
    (∀ i r, s.agenda = i :: r → i.shape = .event → s.halted = false ∨ runsHalted i = true → step s = Out.map State.afterEvent (exec i { s with agenda := r })) ∧
    (∀ i r, s.agenda = i :: r → i.shape ≠ .event ∨ (s.halted = true ∧ runsHalted i = false) → step s = .next { s with agenda := r }.tick) ∧
    (s.agenda = [] → s.halted = true → ∃ t, step s = .next t ∧ t = { s with hubClock := t.hubClock, dies := t.dies, teams := t.teams } ∧
      t.teams.map Team.heats = s.teams.map Team.heats ∧ t.teams.map Team.pacer = s.teams.map Team.pacer)

/-- R167, R185, R315, R317, R223, R224 and R351: what is checked before an instruction takes effect raises its trap precisely: words that do not
decode, a privileged instruction by another fibre than one permitted, a register outside the fibre's allocation or an extended register without the
extended set, and an address that fails its check. Of the model: which address of a %tvec above 2^56 or not a multiple of 4 the handler has (log entry 29),
and which fibre a record names where the rules name none (log entry 70). -/
def Obligations.ChecksRaiseTraps : Prop :=
  ∀ (s : State) (x : Site) (is : List Nat), x.heat.inHandler = false → s.tvec x.team.ctx ≠ 0 →
    (∀ ws c, guardIn ws = .always → Issues s x is .always [] → Trapped (s.decodeTrap ws c) s x is c (is.headD 0) (s.cur.word0.setWidth 64)) ∧
    (∀ (i : Instr) (m : Mn) (e : Ext), i.shape = .form m e → m = .bankcfg ∨ m = .awset ∨ (m = .syswr ∧ sysOfContext e.imm = true) → Issues s x is e.guard [] →
      x.leads is = false → Trapped (exec i s) s x is cause.privileged (is.headD 0) (s.cur.word0.setWidth 64)) ∧
    (∀ (i : Instr) (m : Mn) (e : Ext), i.shape = .form m e → m = .eret ∨ (m = .syswr ∧ e.imm = 0x31) → Issues s x is e.guard [] →
      (∀ k ∈ is, x.handling [k] = false) → Trapped (exec i s) s x is cause.privileged (is.headD 0) (s.cur.word0.setWidth 64)) ∧
    (∀ (i : Instr) (m : Mn) (e : Ext) (k : Nat) (f : Fibre) (us : List Use) (g : Effect), i.shape = .form m e → integerResult m e x = some (us, g) → is = [k] →
      Issues s x is e.guard [] → x.heat.fibre? k = some f →
      (16 ≤ e.d.toNat → e.d.toNat < 128 → f.regs.length ≤ f.win + e.d.toNat → Trapped (exec i s) s x is cause.windowOverflow k (dw e.d.toNat)) ∧
      (128 ≤ e.d.toNat → x.holdsX = false → Trapped (exec i s) s x is cause.xsetNotHeld k (dw e.d.toNat))) ∧
    (∀ (i : Instr) (e : Ext) (k a : Nat) (c : Byte), i.shape = .form .ld e ∧ e.ty ≠ .q ∧ ordOf e ≠ 3 ∧ Issues s x is e.guard (useD e e.ty.regs :: usesEa e) ∨
        i.shape = .form .st e ∧ Issues s x is e.guard (readD e e.ty.regs :: usesEa e) →
      x.badAddress (memBytes e.ty) (memBytes e.ty) (is.map fun j => (j, x.ea j e)) = some (k, a, c) → Trapped (exec i s) s x is c k (dw a))

/-- Every step keeps the canonical form of memory and of every local memory. -/
def Obligations.StepKeepsMemoryCanonical : Prop :=
  ∀ s t : State, s.MemOk → step s = .next t → t.MemOk

/-- R14, R105, R256, R331 and log entries 1, 3 and 4: the package right after a cold reset. From the manual: the die clocks at 0, every bank in CACHE
mode and mapped to no FIFO, every trigger counter 0, a lap of 1 ms. Of the model (log entries 1, 3 and 4): the KS4-N of four dies, which are ACTIVE,
memory that lists nothing, and no context, no meet and no team. -/
def Obligations.ResetState : Prop :=
  State.reset.MemOk ∧ State.reset.product = .ks4n ∧ State.reset.dies.length = 4 ∧
  (∀ d ∈ State.reset.dies, d.clock = 0 ∧ d.offline = false ∧ d.power = .active ∧ d.clusters.length = 24 ∧
    ∀ c ∈ d.clusters, c.banks.length = 12 ∧ (∀ b ∈ c.banks, b.mode = .cache ∧ b.fifo = none) ∧ c.trigs = List.replicate 64 0 ∧ c.pacer = none ∧
      c.chans.length = 9 ∧ ∀ q ∈ c.chans, q.owner = none ∧ q.queue = [] ∧ q.err = false ∧ q.w = 0) ∧
  State.reset.lapNs = 1000000 ∧ State.reset.halted = false ∧ State.reset.ctxs = [] ∧ State.reset.meets = [] ∧ State.reset.teams = [] ∧
  State.reset.queues = [] ∧ State.reset.lines = [] ∧ ∀ a, Memory.get State.reset.mem a = 0

end

/-! ### Control -/

namespace Sys2Proof.Machine

/-- Where a fibre stands after an issue that goes on: at the next instruction if it is of the batch (R34). -/
def Site.nextPc (s : State) (i : Nat) (f : Fibre) : Pc := if i ∈ s.cur.batch then f.pc + BitVec.ofNat 56 s.cur.len else f.pc

/-- What a transfer of control does in each executing fibre (R56, R211 to R213): its target, the base of its window, and the link that v14
and v15 take; `ok` is the condition on the window and the target under which it does. -/
structure Jump where
  guard : Guard
  uses  : List Use
  pc    : Nat → Nat
  win   : Nat → Fibre → Nat
  link  : Option Nat
  ok    : Nat → Fibre → Prop

/-- The window can slide by k: v16 stays inside the allocation (R56). -/
def slides (k : Nat) (f : Fibre) : Prop := k = 0 ∨ f.win + k + 16 < f.regs.length

/-- A computed target lies in the address space and is a multiple of 4 (R213). -/
def goodTarget (t : Nat) : Prop := t < 2 ^ 56 ∧ t % 4 = 0

/-- The link of a call: the address of the next instruction, and the slide in the top byte (R56). -/
def State.linkWord (s : State) (k : Nat) : Nat := (s.cur.pc + BitVec.ofNat 56 s.cur.len).toNat + k * 2 ^ 56

/-- What each transfer of control does (R56, R211 to R213). -/
def jumpResult (i : Instr) (s : State) (x : Site) : Option Jump :=
  match i.shape with
  | .jump .bra j => some
      { guard := j.guard, uses := [], pc := fun _ => (jumpTarget j s.cur.pc).toNat, win := fun _ f => f.win, link := none, ok := fun _ _ => True }
  | .jump .call j | .jump .callW j => some
      { guard := j.guard, uses := [], pc := fun _ => (jumpTarget j s.cur.pc).toNat, win := fun _ f => f.win + 8 * j.m1.toNat,
        link := some (s.linkWord (8 * j.m1.toNat)), ok := fun _ f => slides (8 * j.m1.toNat) f }
  | .form .brx e => some
      { guard := e.guard, uses := usesX e, pc := x.targetX e, win := fun _ f => f.win, link := none,
        ok := fun i f => slides (8 * e.m1.toNat) f ∧ goodTarget (x.targetX e i) }
  | .form .callx e | .form .callxW e => some
      { guard := e.guard, uses := usesX e, pc := x.targetX e, win := fun _ f => f.win + 8 * e.m1.toNat,
        link := some (s.linkWord (8 * e.m1.toNat)), ok := fun i f => slides (8 * e.m1.toNat) f ∧ goodTarget (x.targetX e i) }
  | .form .ret e =>
    let l (i : Nat) : Nat := x.val i 14 2
    some
      { guard := e.guard, uses := [{ reg := 14, n := 2, rd := true }], pc := fun i => l i % 2 ^ 56, win := fun i f => f.win - l i / 2 ^ 56,
        link := none, ok := fun i f => l i / 2 ^ 56 ∈ [0, 8, 16, 24, 32] ∧ l i / 2 ^ 56 ≤ f.win ∧ goodTarget (l i % 2 ^ 56) }
  | _ => none

/-- An outcome is a next state in which the executing fibres have transferred control, and nothing else has changed. -/
def Jumps (o : Out) (s : State) (x : Site) (is : List Nat) (j : Jump) : Prop :=
  ∃ t y, o = .next t ∧ Frame s t x y ∧ y.team.xsets = x.team.xsets ∧
    ∀ i, y.heat.fibre? i = (x.heat.fibre? i).map fun f =>
      { f with
        pc := if i ∈ is then BitVec.ofNat 56 (j.pc i) else Site.nextPc s i f
        win := if i ∈ is then j.win i f else f.win
        regs := match j.link with
          | some l => if i ∈ is then (f.regs.set 14 (.val (wd l))).set 15 (.val (wd (l / 2 ^ 32))) else f.regs
          | none => f.regs
        last := x.lastOf s i f
        waits := Site.waitsOf s i f }

/-- Nothing written. -/
def nothing : Effect := { d := 0, n := 0, v := fun _ => 0 }

/-- What a mask operation does: the registers it names, the new value of mask D, whether its fibres wait on the mask, and whether fibres
that wait on it are released when it is empty (R36, R37, R215). -/
def maskResult (m : Mn) (e : Ext) (x : Site) (is : List Nat) : Option (List Use × Word × Bool × Bool) :=
  let old := x.heat.masks.getD (e.d.toNat % 16) 0
  match m with
  | .join => some ([], old &&& ~~~(slotMask is), true, true)
  | .leave => some ([], old &&& ~~~(slotMask is), false, true)
  | .waitm => some ([], old, true, false)
  | .mset => some (if e.osel = 0 then [readA e 1] else [], x.msetValue e is &&& x.heat.live, false, true)
  | _ => none

/-- Operations across the executing fibres (R218, R219), and the read of a mask (R215). -/
def crossResult (m : Mn) (e : Ext) (x : Site) (is : List Nat) : Option (List Use × Effect) :=
  match m with
  | .vote =>
    let ballot := x.ballot is (e.a.toNat % 32)
    some ([readV0, useD e 1], toD32 e fun _ =>
      match e.m1.toNat with
      | 0 => ballot
      | 1 => if ballot = 0 then 0 else 1
      | 2 => if ballot = (slotMask is).toNat then 1 else 0
      | _ => ((List.range 32).filter fun k => ballot.testBit k).length)
  | .shfl =>
    let b (i : Nat) : Nat := x.src32 i e
    let slot (i : Nat) : Nat :=
      match e.m1.toNat with
      | 0 => b i % 32
      | 1 => if b i ≤ i then i - b i else i
      | 2 => if i + b i < 32 then i + b i else i
      | _ => i ^^^ (b i % 32)
    some (uses2 e ++ readB e 1, toD e fun i => x.srcA (if slot i ∈ is then slot i else i) e)
  | .mget => some ([{ reg := e.a.toNat, n := 1, rd := false }],
      { d := e.a.toNat, n := 1, v := fun _ => (x.heat.masks.getD (e.d.toNat % 16) 0).toNat })
  | _ => none

/-- The slot that FORK gives the k-th executing fibre's new fibre: the k-th free one (R32, R217). -/
def Site.forkSlot (x : Site) (is : List Nat) (i : Nat) : Option Nat := x.heat.freeSlots[is.idxOf i]?

end Sys2Proof.Machine

section
open Sys2Proof Sys2Proof.Machine

/-- R211 to R213 and R56: BRA, CALL, CALL.W, BRX, CALLX, CALLX.W and RET. -/
def Obligations.TransfersOfControl : Prop :=
  ∀ (i : Instr) (s : State) (x : Site) (is : List Nat) (j : Jump), jumpResult i s x = some j → Issues s x is j.guard j.uses →
    (∀ k ∈ is, ∀ f, x.heat.fibre? k = some f → j.ok k f) → Jumps (exec i s) s x is j

/-- R36, R37 and R215: JOIN, LEAVE, WAITM and MSET. -/
def Obligations.MaskOperations : Prop :=
  ∀ (i : Instr) (m : Mn) (e : Ext) (s : State) (x : Site) (is : List Nat) (us : List Use) (w : Word) (waits frees : Bool), i.shape = .form m e →
    maskResult m e x is = some (us, w, waits, frees) → Issues s x is e.guard us →
    ∃ t y, exec i s = .next t ∧ Own s t x y ∧
      y.team = { x.team with heats := y.team.heats, pacer := y.team.pacer, counters := y.team.counters } ∧
      y.heat = { x.heat with
        fibres := y.heat.fibres, masks := x.heat.masks.set (e.d.toNat % 16) w, issued := x.heat.issued + 1, run := x.heat.run + 1,
        waiting := false, long := false, tried := false } ∧
      ∀ k, y.heat.fibre? k = (x.heat.fibre? k).map fun f =>
        { f with
          pc := Site.nextPc s k f
          waitOn :=
            if w = 0 then (if frees ∧ f.waitOn = some (e.d.toNat % 16) then none else f.waitOn)
            else if waits ∧ k ∈ is then some (e.d.toNat % 16) else f.waitOn
          last := x.lastOf s k f
          waits := Site.waitsOf s k f }

/-- R215, R218 and R219: MGET, VOTE and SHFL. R220: BCAST copies operand A of the slot that b names in the lowest executing fibre; a slot that holds
no fibre gives 0. -/
def Obligations.CrossFibreResults : Prop :=
  (∀ (i : Instr) (m : Mn) (e : Ext) (s : State) (x : Site) (is : List Nat) (us : List Use) (f : Effect), i.shape = .form m e →
     crossResult m e x is = some (us, f) → Issues s x is e.guard us → Computes (exec i s) s x is f) ∧
  (∀ (i : Instr) (e : Ext) (s : State) (x : Site) (is : List Nat), i.shape = .form .bcast e →
     Issues s x is e.guard ([useD e e.ty.regs, { reg := e.a.toNat, n := e.ty.regs, rd := false }] ++ readB e 1) →
     let k := x.src32 (is.headD 0) e % 32
     (∀ f, x.heat.fibre? k = some f → ∀ r < e.ty.regs, x.Knows k (e.a.toNat + r)) →
     Computes (exec i s) s x is (toD e fun _ => if (x.heat.fibre? k).isSome then x.srcA k e else 0))

/-- R210: NOP only moves past itself, and YIELD makes its heat the youngest: its age is a number that no heat has yet. R33, R37, R44, R48, R72
and R210: END frees the slots of the executing fibres, takes them out of every mask, discards the records that their heat has made for them in its pair's
extended set, held or released, and ends the leader's privileges; a heat without fibres is no longer active. -/
def Obligations.NopYieldAndEnd : Prop :=
  (∀ (i : Instr) (e : Ext) (s : State) (x : Site) (is : List Nat), Issues s x is e.guard [] →
     (i.shape = .form .nop e → Computes (exec i s) s x is nothing) ∧
     (i.shape = .form .yield e → ∃ t y, exec i s = .next t ∧ t.site? s.cur.u = some y ∧
       t = { s with teams := t.teams, meets := t.meets, nextId := s.nextId + 1 } ∧
       (∀ id, id ≠ x.team.id → t.team? id = s.team? id) ∧ (∀ w, w ≠ x.u.who → y.team.heat? w = x.team.heat? w) ∧
       y.team = { x.team with heats := y.team.heats, pacer := y.team.pacer, counters := y.team.counters } ∧
       y.heat = { x.heat with
         fibres := y.heat.fibres, age := s.nextId, run := 0, issued := x.heat.issued + 1, waiting := false, long := false, tried := false } ∧
       ∀ k, y.heat.fibre? k = (x.heat.fibre? k).map fun f => { f with pc := Site.nextPc s k f, last := x.lastOf s k f, waits := Site.waitsOf s k f })) ∧
  (∀ (i : Instr) (e : Ext) (s : State) (x : Site) (is : List Nat), i.shape = .form .endI e → Issues s x is e.guard [] →
     ∃ t y, exec i s = .next t ∧ Own { s with freeCtr := t.freeCtr } t x y ∧
       y.team = { x.team with
         heats := y.team.heats, pacer := y.team.pacer, counters := y.team.counters, xsets := y.team.xsets, leader := x.team.leader && !x.leads is } ∧
       y.heat = { x.heat with
         fibres := y.heat.fibres, masks := y.heat.masks, active := x.heat.active && y.heat.alive, bars := if y.heat.alive then x.heat.bars else [],
         issued := x.heat.issued + 1, run := x.heat.run + 1, waiting := false, long := false, tried := false } ∧
       (∀ k, y.heat.masks[k]? = (x.heat.masks[k]?).map fun w => if k < 12 then w &&& ~~~(slotMask is) else w) ∧
       (∀ q, x.isPacer = false → y.xset? = some q → ∀ k ∈ is, ∀ b, Slot.bat b ∈ q.regs.getD k [] →
         b.left ≠ some x.heatNo ∧ (x.holdsX = true → b.left ≠ none)) ∧
       (∀ k, y.heat.fibre? k = if k ∈ is then none else (x.heat.fibre? k).map fun f =>
         { f with
           pc := Site.nextPc s k f
           waitOn := f.waitOn.bind fun m => if m < 12 ∧ x.heat.masks.getD m 0 &&& ~~~(slotMask is) = 0 then none else some m
           last := x.lastOf s k f
           waits := Site.waitsOf s k f }))

/-- R32, R79 and R217: FORK creates one fibre for each executing fibre in order, in the lowest free slots; each creator gets the slot's number and
guard C set, or 2^32 - 1 and guard C clear when no slot is left. R34: the whole batch stands at the next instruction; nothing else of the fibres
that are there, and nothing else of the heat, changes. -/
def Obligations.ForkCreatesFibres : Prop :=
  ∀ (i : Instr) (e : Ext) (s : State) (x : Site) (is : List Nat), i.shape = .form .fork e →
    Issues s x is e.guard ([readV0, { reg := 1, n := 15, rd := true }, useD e 1] ++ readB e 2) →
    (∀ k ∈ is, goodTarget (x.forkTarget e s.cur.pc k)) →
    let f : Effect :=
      { d := e.d.toNat, n := 1, v := fun k => (x.forkSlot is k).getD (2 ^ 32 - 1), bit := some (e.c.toNat % 32, fun k => (x.forkSlot is k).isSome) }
    ∃ t y, exec i s = .next t ∧ Own s t x y ∧
      y.team = { x.team with heats := y.team.heats, pacer := y.team.pacer, counters := y.team.counters, xsets := y.team.xsets } ∧
      (∀ k ∈ is, y.slot k 0 = f.v0 x k ∧ (e.d.toNat ≠ 0 → y.slot k e.d.toNat = .val (wd (f.v k)))) ∧
      (∀ k r, (x.heat.fibre? k).isSome → k ∉ is ∨ (r ≠ 0 ∧ r ≠ e.d.toNat) → y.slot k r = x.slot k r) ∧
      (∀ k ∈ is, ∀ n p, x.forkSlot is k = some n → x.heat.fibre? k = some p → x.heat.fibres[n]? = some none →
        y.heat.fibre? n = some
        { pc := BitVec.ofNat 56 (x.forkTarget e s.cur.pc k), waitOn := none, win := p.win,
          regs := (Slot.val 0 :: (p.regs.drop 1).take 15) ++ List.replicate (p.regs.length - 16) (.val 0),
          seed := seedOr (p.seed ^^^ wd ((n + 1) * 0x9E3779B9)), handler := false, epc := 0, last := x.heat.issued + 1 }) ∧
      (∀ n, x.heat.fibre? n = none → (∀ k ∈ is, x.forkSlot is k ≠ some n) → y.heat.fibre? n = none) ∧
      (∀ k p, x.heat.fibre? k = some p → ∃ g, y.heat.fibre? k = some g ∧
        g = { p with pc := Site.nextPc s k p, regs := g.regs, last := x.lastOf s k p, waits := Site.waitsOf s k p }) ∧
      y.heat = { x.heat with
        fibres := y.heat.fibres, issued := x.heat.issued + 1, run := x.heat.run + 1, waiting := false, long := false, tried := false
        masks := x.heat.masks.modify 0 fun w => (is.filterMap (x.forkSlot is)).foldl (fun w n => w ||| (1#32 <<< n)) w }

/-- R59 and R221: XLOCK takes a free extended set, or keeps the one that the heat holds; XFREE hands it to the heat that waits for it, with its contents,
of which the records are marked as those of the heat that left them (R72). -/
def Obligations.ExtendedSetLocks : Prop :=
  ∀ (i : Instr) (e : Ext) (s : State) (x : Site) (is : List Nat) (q : XSet), Issues s x is e.guard [] → x.xset? = some q →
    (i.shape = .form .xlock e → q.holder = none ∨ q.holder = some x.heatNo →
      ∃ t y, exec i s = .next t ∧ Frame s t x y ∧ Advanced s x y ∧ Wrote x y is nothing ∧
        y.xset? = some { q with holder := some x.heatNo, waiter := if q.holder = none ∧ q.waiter = some x.heatNo then none else q.waiter }) ∧
    (i.shape = .form .xfree e → x.holdsX = true → x.pendingX = false →
      ∃ t y, exec i s = .next t ∧ Frame s t x y ∧ Advanced s x y ∧
        (∀ k, (∀ r < 128, y.slot k r = x.slot k r) ∧ (∀ r, 128 ≤ r → y.slot k r = (x.slot k r).leftBy x.heatNo) ∧ y.seed k = x.seed k) ∧
        y.xset? = some { q with holder := q.waiter, waiter := none, regs := q.regs.map fun rs => rs.map (Slot.leftBy x.heatNo) })

end

/-! ### Loads and stores -/

namespace Sys2Proof.Machine

/-- A byte of memory lies where some U line's reduction has not reached its home yet (R361). -/
def State.pendingAt (s : State) (a : Nat) : Prop := ∃ l ∈ s.ulines, l.pa ≤ a ∧ a < l.pa + l.bytes

/-- A cached copy holds a byte of an address dirty (R132). -/
def State.dirtyAt (s : State) (a : Nat) : Prop := ∃ c ∈ s.lines, ∃ b ∈ c.dirtyBytes, b.1 = a

/-- A context but for the traps and errors recorded for it. -/
def Context.bare (c : Context) : Context := { c with due := [], errlog := [] }

/-- Reading may recall U lines, fill, replace and track copies, take in new contents, and write a replaced dirty copy back, with what its home answers
(R407); it uses up answers of the schedule. Nothing else outside the unit and the meets changes, and memory changes only where a U line's
reduction or a dirty byte reaches its home. -/
structure Reads (s t : State) : Prop where
  rest : t = { s with
    mem := t.mem, poison := t.poison, lines := t.lines, slices := t.slices, uses := t.uses, missed := t.missed, ulines := t.ulines, filters := t.filters
    dirs := t.dirs, portDir := t.portDir, oldParts := t.oldParts, invals := t.invals, ctxs := t.ctxs, oracle := t.oracle, teams := t.teams
    meets := t.meets }
  bytes : ∀ a, ¬ s.pendingAt a → ¬ s.dirtyAt a → Memory.get t.mem a = Memory.get s.mem a
  pending : ∀ l ∈ t.ulines, l ∈ s.ulines
  ctxs : ∀ id, (t.ctx? id).map Context.bare = (s.ctx? id).map Context.bare

/-- A team but for what its units have published within it (R127, R139). -/
def Team.bare (t : Team) : Team := { t with tmLayer := [], sqLayer := [] }

/-- A team holds the result of an atomic that its home does not have yet (R136). -/
def Team.holdsAtomic (t : Team) : Bool := (t.tmLayer ++ t.sqLayer.flatten).any LayerByte.amo

/-- The unit after an issue that goes on: of its team and of itself only these have changed; every other unit and meet stands as it
stood, and so does every other team, but for results of its own atomics that a write at the home has overtaken. -/
structure UnitOnly (s t : State) (x y : Site) : Prop where
  here : t.site? s.cur.u = some y
  teams : ∀ id, id ≠ x.team.id → (t.team? id).map Team.bare = (s.team? id).map Team.bare ∧
    ((∀ u, s.team? id = some u → u.holdsAtomic = false) → t.team? id = s.team? id)
  meets : ∀ id, id ≠ x.team.meet → t.meet? id = s.meet? id
  units : ∀ w, w ≠ x.u.who → y.team.heat? w = x.team.heat? w

/-- The loads of an instruction: the registers it names, the flight they make, one want for each fibre that makes an access, the scope of an
acquire, the fibres that get 0 without an access, and the checks of the addresses and of the copy channel (R99, R223, R232 to R234). -/
structure LoadPlan where
  uses   : List Use
  flight : Flight
  wants  : List Want
  scope  : Scope
  zeros  : List Nat
  ok     : Prop

/-- The loads of LD and LDX (R232 to R234), in the state and the unit whose issue is accounted. -/
def loadPlan (m : Mn) (e : Ext) (s : State) (x : Site) (is : List Nat) : Option LoadPlan :=
  match m with
  | .ld =>
    if e.ty = .q then
      let a (i : Nat) : Nat := x.val i e.a.toNat 2
      some {
        uses := [useD e 1, readA e 2] ++ readB e 1
        flight := ldFlight e s x
        wants := is.map fun i => { fib := i, reg := e.d.toNat, ea := a i, index := x.val i e.b.toNat 1, target := none }
        scope := scopeOf e.rs
        zeros := []
        ok := ∀ i ∈ is, windowOf (a i) ≠ some .scratch ∧ windowOf (a i) ≠ some .shared ∧ x.badAddress 1 65536 [(i, a i)] = none ∧
          s.qOutside x i (a i) (x.val i e.b.toNat 1) = false }
    else
      some {
        uses := useD e e.ty.regs :: usesEa e ++ if ordOf e = 3 then [readC e 1] else []
        flight := ldFlight e s x
        wants := is.map fun i =>
          { fib := i, reg := e.d.toNat, ea := x.ea i e, index := 0
            target := if ordOf e = 3 then (s.ownChan x e.p).map fun c => (c, x.word i e.c.toNat) else none }
        scope := scopeOf e.rs
        zeros := []
        ok := x.badAddress (memBytes e.ty) (memBytes e.ty) (is.map fun i => (i, x.ea i e)) = none ∧ (ordOf e = 3 → (s.ownChan x e.p).isSome) }
  | .ldx =>
    let ins := is.filter (x.inBound e)
    some {
      uses := useD e e.ty.regs :: usesIdx e
      flight := { tag := 0, ord := x.heat.issued, kind := .ldx, pc := s.cur.pc, ty := e.ty, rs := 0, acq := false, vol := false,
                  rc := e.m1.toNat, elems := [] }
      wants := ins.map fun i => { fib := i, reg := e.d.toNat, ea := x.eaX i e, index := 0, target := none }
      scope := .ht
      zeros := is.filter fun i => !x.inBound e i
      ok := x.badAddress (memBytes e.ty) (memBytes e.ty) (ins.map fun i => (i, x.eaX i e)) = none }
  | _ => none

/-- What the loads of a plan find, in order. -/
def LoadPlan.found (p : LoadPlan) (s : State) (x : Site) : List (Want × Option Got) := (s.chosen.loadEach x p.flight p.wants).1

/-- The stores of an instruction: the registers it names, one put for each fibre that makes an access, the access form, the scope of a
release, whether the stores reach the home at once, and the address checks (R223, R231, R232, R234). -/
structure StorePlan where
  uses : List Use
  puts : List Put
  form : AccForm
  rel  : Option Scope
  vol  : Bool
  ok   : Prop

/-- The stores of ST and STX (R232, R234), in the unit whose issue is accounted. -/
def storePlan (m : Mn) (e : Ext) (x : Site) (is : List Nat) : Option StorePlan :=
  match m with
  | .st => some {
      uses := readD e e.ty.regs :: usesEa e
      puts := is.map fun i => { fib := i, ea := x.ea i e, bytes := x.storeData i e }
      form := if ordOf e = 1 then .ordered else if ordOf e = 2 then .vol else .plain
      rel := if ordOf e = 1 then some (scopeOf e.rs) else none
      vol := decide (ordOf e = 2)
      ok := x.badAddress (memBytes e.ty) (memBytes e.ty) (is.map fun i => (i, x.ea i e)) = none }
  | .stx =>
    let ins := is.filter (x.inBound e)
    some {
      uses := readD e e.ty.regs :: usesIdx e
      puts := ins.map fun i => { fib := i, ea := x.eaX i e, bytes := x.storeData i e }
      form := .plain
      rel := none
      vol := false
      ok := x.badAddress (memBytes e.ty) (memBytes e.ty) (ins.map fun i => (i, x.eaX i e)) = none }
  | _ => none

/-- The physical bytes that a put may change: none in scratch, in shared memory, or where it does not translate. -/
def State.putRange (s : State) (x : Site) (form : AccForm) (p : Put) : List (Nat × Nat) :=
  match x.check p.fib p.ea p.bytes.length 1 with
  | .ok (.virt va) => match s.reachX x va .store form with
    | .ok h => [(h.phys va, p.bytes.length)]
    | .error _ => []
  | _ => []

/-- Perform puts in order, each of which meets nothing that stops it; with the physical ranges that they name (R225, R226). -/
def State.storeAll (s : State) (x : Site) (form : AccForm) (vol : Bool) (before : List Nat) : List Put → Option (State × Site × List (Nat × Nat))
  | [] => some (s, x, [])
  | p :: r =>
    if s.meetsOf x form before p.fib p.ea p.bytes.length = .fine then
      match (s.performStore x p vol form).1.storeAll (s.performStore x p vol form).2 form vol before r with
      | some (t, y, l) => some (t, y, s.putRange x form p ++ l)
      | none => none
    else none

/-- A release of a unit at a scope need not wait (R139, R362, R366): nothing of the unit is unacknowledged, no peer's contributions to what it publishes are on
their way, nobody outside the package holds it, and no lease stands on it. -/
structure State.mayRelease (s : State) (x : Site) (sc : Scope) : Prop where
  acked : x.heat.unacked = 0
  summed : ∀ l ∈ s.publishedLines x sc, s.awaitsU (64 * l) = false
  alone : s.clear none .phase (s.publishedLines x sc) = true
  after : (s.releaseAt x sc).2.heat.unacked = 0

/-- A byte lies outside some ranges. -/
def outside (a : Nat) (l : List (Nat × Nat)) : Prop := ∀ p ∈ l, a < p.1 ∨ p.1 + p.2 ≤ a

end Sys2Proof.Machine

section
open Sys2Proof Sys2Proof.Machine

/-- R223, R232 to R234: a load whose every fibre finds a value, and which is delivered as it is issued, leaves the values, extended by the type, in D;
an indexed load beyond its bound leaves 0. Whether a load is delivered as it is issued is the model's schedule (log entry 2). -/
def Obligations.LoadsDeliverValues : Prop :=
  ∀ (i : Instr) (m : Mn) (e : Ext) (s : State) (x : Site) (is : List Nat) (p : LoadPlan), i.shape = .form m e →
    loadPlan m e (s.account x).1 (s.account x).2 is = some p → Issues s x is e.guard p.uses → p.ok →
    (∀ g ∈ p.found (s.account x).1 (s.account x).2, ∃ v, g.2 = some (.value v)) → x.isPacer = true ∨ s.choice = 0 →
    ∃ t y, exec i s = .next t ∧ Reads s t ∧ UnitOnly s t x y ∧ Advanced s x y ∧
      y.team = { x.team with
        heats := y.team.heats, pacer := y.team.pacer, counters := y.team.counters, xsets := y.team.xsets, sqLayer := y.team.sqLayer
        tmLayer := y.team.tmLayer } ∧
      y.heat = { x.heat with fibres := y.heat.fibres, issued := y.heat.issued, run := y.heat.run, waiting := false, long := false, tried := false } ∧
      (∀ g ∈ p.found (s.account x).1 (s.account x).2, ∀ v, g.2 = some (.value v) → ∀ k < destRegs e.ty,
        y.slot g.1.fib (e.d.toNat + k) = .val (wd ((if e.ty = .q then v else extendOf e.ty v) / 2 ^ (32 * k)))) ∧
      (∀ n ∈ p.zeros, ∀ k < e.ty.regs, y.slot n (e.d.toNat + k) = .val 0) ∧
      (∀ n r, n ∉ is ∨ r < e.d.toNat ∨ e.d.toNat + destRegs e.ty ≤ r → y.slot n r = x.slot n r) ∧ (∀ n, y.seed n = x.seed n)

/-- R66, R67 and R71: a load of a heat whose data comes later leaves a pending record in each destination register, and the access in flight under a
free tag of its track. R68, R69, R72 and R189: ADD, SUB, MUL, SHL, NEG, FADD, FSUB, FMUL and FMA with one operand that is a record, in forms that
transform it, do not wait: the destination holds the record made, a fault or drained record being copied; MOV copies records and values alike. Of the
model: that the schedule says whether the data comes later (log entry 2). -/
def Obligations.LoadsLeaveBatons : Prop :=
  (∀ (i : Instr) (m : Mn) (e : Ext) (s : State) (x : Site) (is : List Nat) (p : LoadPlan) (tag : BitVec 6), i.shape = .form m e →
    loadPlan m e (s.account x).1 (s.account x).2 is = some p → Issues s x is e.guard p.uses → p.ok →
    (∀ g ∈ p.found (s.account x).1 (s.account x).2, g.2 = none ∨ (∃ v, g.2 = some (.value v)) ∨ ∃ c, g.2 = some (.fault c)) →
    x.isPacer = false → s.choice ≠ 0 → p.wants ≠ [] → s.freeTag x = some tag →
    ∃ t y f, exec i s = .next t ∧ Reads s t ∧ UnitOnly s t x y ∧ Advanced s x y ∧
      y.heat.flights = x.heat.flights ++ [f] ∧ f.tag = tag ∧ f.ord = x.heat.issued + 1 ∧ f.pc = s.cur.pc ∧ f.ty = e.ty ∧
      (∀ w ∈ p.wants, (∃ el ∈ f.elems, el.fibre = w.fib ∧ el.reg = x.slotNo w.fib w.reg) ∧ ∀ k < destRegs e.ty,
        y.slot w.fib (w.reg + k) = .bat { tag := tag, part := k, a := 1, b := 0, chain := [], st := .pending }) ∧
      (∀ n r, n ∉ is ∨ r < e.d.toNat ∨ e.d.toNat + destRegs e.ty ≤ r → y.slot n r = x.slot n r)) ∧
  (∀ (i : Instr) (m : Mn) (e : Ext) (s : State) (x : Site) (is : List Nat) (us : List Use) (src : List (Nat × Nat)) (f : Effect) (new : Nat → Option Baton),
    i.shape = .form m e → passForm m e = some (us, src) →
    integerResult m e x = some (us, f) ∨ logicResult m e x = some (us, f) ∨ floatResult m e x = some (us, f) → Issues s x is e.guard (named us) →
    (∀ k ∈ is, x.Passes m e k src (new k)) →
    ∃ t y, exec i s = .next t ∧ Frame s t x y ∧ Advanced s x y ∧
      (∀ k ∈ is, y.slot k e.d.toNat = match new k with
        | some b => .bat b
        | none => .val (wd (f.v k))) ∧
      (∀ k r, k ∉ is ∨ r ≠ e.d.toNat → y.slot k r = x.slot k r) ∧ ∀ k, y.seed k = x.seed k) ∧
  (∀ (i : Instr) (e : Ext) (s : State) (x : Site) (is : List Nat), i.shape = .form .mov e → Issues s x is e.guard (named (uses2 e)) →
    ∃ t y, exec i s = .next t ∧ Frame s t x y ∧ Advanced s x y ∧
      (∀ k ∈ is, ∀ r < e.ty.regs, y.slot k (e.d.toNat + r) = x.slot k (e.a.toNat + r)) ∧
      (∀ k r, k ∉ is ∨ r < e.d.toNat ∨ e.d.toNat + e.ty.regs ≤ r → y.slot k r = x.slot k r) ∧ ∀ k, y.seed k = x.seed k)

/-- R98 to R101, R127, R130 to R132 and R135: what one fibre's load finds. Local memories give their bytes; a SEQ page gives the home's bytes, a tail
register (R324) its tail, where log entry 38 has its page; a PHASE page gives the unit's own latest store before what it published to its squad and
its team, before what was published to its die and to the package, and before the copy or the home, a .vol load of one the home; a STREAM page gives the
home's bytes once no old ones are left to the unit; a PRIV page gives the copy on the unit's path, else the home. Of the model: the order of these layers
(log entry 12), and that a .vol load finds the home's bytes also where the unit itself has a store that is not published (log entry 62). -/
def Obligations.LoadedValuesByClass : Prop :=
  ∀ (s : State) (x : Site) (fib ea n rc : Nat) (vol acq : Bool), n ∈ [1, 2, 4, 8] →
    (∀ o, x.check fib ea n n = .ok (.scr o) →
      (s.loadGot x fib ea n rc vol acq).1 = .value (leNat (Memory.read (x.team.scrMem.getD x.squad []) o n))) ∧
    (∀ o, x.check fib ea n n = .ok (.csh o) → (s.loadGot x fib ea n rc vol acq).1 = .value (leNat (Memory.read x.team.cshMem o n))) ∧
    (∀ va h, x.check fib ea n n = .ok (.virt va) → s.reachX x va .load (loadForm vol acq) = .ok h → s.orderWaits x fib h vol = false →
      s.loadPoison x h (h.phys va) n vol = false → s.pageEntry x.team.ctx h = none → h.phys va % 64 + n ≤ 64 →
      (h.cls = .seq → s.notifyVf (h.phys va) = none → (s.loadGot x fib ea n rc vol acq).1 = .value (leNat (s.homeRead (h.phys va) n).1)) ∧
      (∀ vf q, h.cls = .seq → s.notifyVf (h.phys va) = some vf → s.queueAt vf (h.phys va % 4096 / 64) = some q →
        (s.loadGot x fib ea n rc vol acq).1 = .value (if h.phys va % 64 = 0 ∧ n = 4 then q.tail.toNat else 0)) ∧
      (h.cls = .phase → vol = false → s.copyFor x .phase (h.phys va / 64) = none →
        (s.loadGot x fib ea n rc vol acq).1 = .value (leNat (s.phaseBytes x (h.phys va) (s.homeRead (h.phys va) n).1))) ∧
      (∀ c, h.cls = .phase → vol = false → s.copyFor x .phase (h.phys va / 64) = some c →
        (s.loadGot x fib ea n rc vol acq).1 = .value (leNat (s.phaseBytes x (h.phys va) (c.slice (h.phys va) n)))) ∧
      (h.cls = .phase → vol = true → (s.loadGot x fib ea n rc vol acq).1 = .value (leNat (s.homeRead (h.phys va) n).1)) ∧
      (h.cls = .stream → s.oldPart? (.unit x.u) (h.phys va) = none → (s.loadGot x fib ea n rc vol acq).1 = .value (leNat (s.homeRead (h.phys va) n).1)) ∧
      (h.cls = .priv → s.copyFor x .priv (h.phys va / 64) = none →
        (s.loadGot x fib ea n rc vol acq).1 = .value (leNat (s.homeRead (h.phys va) n).1)) ∧
      (∀ c, h.cls = .priv → s.copyFor x .priv (h.phys va / 64) = some c →
        (s.loadGot x fib ea n rc vol acq).1 = .value (leNat (c.slice (h.phys va) n))))

/-- R223 to R226 and R231 to R234: a store whose every fibre meets nothing that stops it performs each fibre's store in order and moves on; no byte
outside the ranges that the stores name changes, and no register does. R127, R138, R139 and R366: a store with release semantics, when nothing is
unacknowledged and nobody outside the package holds what it publishes, first publishes what the unit has written before it, then stores, then
publishes the store. -/
def Obligations.StoresPerform : Prop :=
  (∀ (i : Instr) (m : Mn) (e : Ext) (s t : State) (x y : Site) (is : List Nat) (p : StorePlan) (l : List (Nat × Nat)), i.shape = .form m e →
     storePlan m e (s.account x).2 is = some p → Issues s x is e.guard p.uses → p.ok → x.heat.unacked + p.puts.length ≤ 65535 → p.rel = none →
     (∀ q ∈ p.puts, (s.account x).1.meetsOf (s.account x).2 p.form s.granules q.fib q.ea q.bytes.length = .fine) →
     (s.account x).1.storeAll (s.account x).2 p.form p.vol s.granules p.puts = some (t, y, l) →
     exec i s = .next (t.done y) ∧
       (∀ a, ¬ s.pendingAt a → ¬ s.dirtyAt a → outside a l → Memory.get (t.done y).mem a = Memory.get s.mem a) ∧
       ∃ z, UnitOnly s (t.done y) x z ∧ Advanced s x z ∧ (∀ n r, z.slot n r = x.slot n r) ∧ ∀ n, z.seed n = x.seed n) ∧
  (∀ (i : Instr) (m : Mn) (e : Ext) (s t : State) (x y : Site) (is : List Nat) (p : StorePlan) (l : List (Nat × Nat)) (sc : Scope), i.shape = .form m e →
     storePlan m e (s.account x).2 is = some p → Issues s x is e.guard p.uses → p.ok → s.mayRelease x sc → p.puts.length ≤ 65535 → p.rel = some sc →
     (∀ q ∈ p.puts, (s.account x).1.meetsOf (s.account x).2 p.form s.granules q.fib q.ea q.bytes.length = .fine) →
     ((s.account x).1.releaseAt (s.account x).2 sc).1.storeAll ((s.account x).1.releaseAt (s.account x).2 sc).2 p.form p.vol s.granules p.puts =
       some (t, y, l) →
     exec i s = .next ((t.releaseAt y sc).1.done (t.releaseAt y sc).2))

/-- R126, R127, R130, R132, R135 and R324: what one store does by the class of its page. Of the model: where the notify pages lie (log entry 38); that a
store to a SEQ line with copies inside the package alone is performed at once where the oracle answers 0, and is else posted until they are given up (log
entries 2 and 16); and that a PRIV store changes the copy of the unit's nearest cache and leaves memory as it was (log entry 15). -/
def Obligations.StoredBytesByClass : Prop :=
  ∀ (s : State) (x : Site) (h : Hit) (pa : Nat) (bs : List Byte) (home : Bool),
    let ls := linesOf pa bs.length
    (h.cls = .seq → s.MemOk → s.notifyVf pa = none → s.answerersOf none ls = [] → (∀ p ∈ s.posted, p.by_ ≠ some x.u) →
      Memory.read (s.storePage x h pa bs home).1.mem pa bs.length = bs ∧ (s.storePage x h pa bs home).2 = x) ∧
    (h.cls = .seq → s.notifyVf pa = none → s.MemOk → s.choice = 0 → (∀ l ∈ ls, s.outHolders none .seq l = [] ∧ ∀ c ∈ s.copies l, c.cls = .seq) →
      (∀ p ∈ s.posted, p.by_ ≠ some x.u) →
      Memory.read (s.storePage x h pa bs home).1.mem pa bs.length = bs ∧ ∀ c ∈ (s.storePage x h pa bs home).1.lines, c.line ∉ ls) ∧
    (h.cls = .seq → (s.answerersOf none ls ≠ [] ∧ ((∀ l ∈ ls, s.copies l = []) ∨ s.choice ≠ 0)) ∨ (∃ p ∈ s.posted, p.by_ = some x.u) →
      (s.storePage x h pa bs home).1.mem = s.mem ∧ (s.storePage x h pa bs home).2.heat.unacked = x.heat.unacked + 1 ∧
        ∃ p ∈ (s.storePage x h pa bs home).1.posted, p.pa = pa ∧ p.bytes = bs ∧ p.by_ = some x.u ∧
          ((∀ l ∈ ls, s.copies l = []) ∨ s.choice ≠ 0 → p.left = s.answerersOf none ls)) ∧
    (∀ vf q, h.cls = .seq → s.notifyVf pa = some vf → s.queueAt vf (pa % 4096 / 64) = some q → s.answerersOf none ls = [] →
      (∀ p ∈ s.posted, p.by_ ≠ some x.u) →
      s.storePage x h pa bs home =
        (s.setQueue (if pa % 64 = 0 ∧ bs.length = 4 then q.putTail (wd (leNat bs)) else { q with errors := q.errors + 1 }), x)) ∧
    (h.cls = .phase → home = true → s.MemOk → Memory.read (s.storePage x h pa bs home).1.mem pa bs.length = bs) ∧
    (h.cls = .phase → home = false → (s.storePage x h pa bs home).1.mem = s.mem ∧
      ∀ k (hk : k < bs.length), wsGet (s.storePage x h pa bs home).2.heat.ws (pa + k) = some bs[k]) ∧
    (h.cls = .stream → s.MemOk → Memory.read (s.storePage x h pa bs home).1.mem pa bs.length = bs ∧
      ∀ g ∈ granulesOf pa bs.length, g ∈ (s.storePage x h pa bs home).1.granules) ∧
    (h.cls = .stream → (∃ g ∈ granulesOf pa bs.length, g ∈ s.granules) → ∀ away, s.storeFault h pa bs.length s.granules away = some cause.writeOnce) ∧
    (∀ lv c, h.cls = .priv → s.storeLevel x = some lv → s.lines.find? (fun d => decide (d.level = lv ∧ d.line = pa / 64 ∧ d.cls = .priv)) = some c →
      (s.storePage x h pa bs home).1.mem = s.mem ∧ ∃ d ∈ (s.storePage x h pa bs home).1.lines, d.level = lv ∧ d.line = pa / 64 ∧ d.cls = .priv ∧
        d.bytes = (c.put (pa % 64) bs).bytes ∧ d.dirty = (c.put (pa % 64) bs).dirty ∧ d.owner = h.owner)

/-- R104 and R235: PREF fetches a copy of a SEQ line into the L0 that it names while that has room, or the line into the L2 of its home die; it
changes no register; where an address fails a check it fetches nothing. R236: FLUSH and FLUSH.INV skip local memories; of a virtual range they flush
every line whose translation succeeds. R132 and R236: flushing one PRIV line leaves no dirty byte of it in the unit's L0 and cluster cache, with .inv
no copy at all, and what was dirty stands at the home if its path is free and its home does not answer with an error; of a PHASE line .inv leaves only
copies in a cache that holds write-set data of the line. Of the model: sets, ways and replacement, and so that the fetched line is held (log entry 60);
that FLUSH needs no permission and which checks it makes (log entry 51); that PGARM needs the permission to store (log entry 21). R130, R131, R237 and R358: PGARM, with nothing unacknowledged and every page of its range a writable STREAM page that can be reached
and that nobody outside the package holds, re-arms the range: its granules are clear and no copy of them is left. -/
def Obligations.CacheInstructions : Prop :=
  (∀ (i : Instr) (e : Ext) (s : State) (x : Site) (is : List Nat), i.shape = .form .pref e → Issues s x is e.guard (usesEa e) →
     ∃ t y, exec i s = .next t ∧ Reads s t ∧ UnitOnly s t x y ∧ Advanced s x y ∧ (∀ n r, y.slot n r = x.slot n r) ∧
       ((∀ k ∈ is, ∃ c, x.check k (x.ea k e) 1 1 = .error c) → t.lines = s.lines) ∧
       (∀ k va h, is = [k] → x.check k (x.ea k e) 1 1 = .ok (.virt va) → s.reachX x va .load .plain = .ok h → h.cls = .seq →
         s.notifyVf (64 * (h.phys va / 64)) = none → s.poisoned (64 * (h.phys va / 64)) 64 = false →
         (∀ c, e.m1.toNat = 0 → x.core? = some c → h.policy ≠ 3 → (s.lines.filter fun d => d.level = .l0 x.team.cl c).length < 1024 →
           ∃ d ∈ t.lines, d.level = .l0 x.team.cl c ∧ d.line = h.phys va / 64) ∧
         (∀ d, 2 ≤ e.m1.toNat → s.homeOf (64 * (h.phys va / 64)) = some d →
           ∃ g ∈ t.slices, g.die = d ∧ g.line = h.phys va / 64))) ∧
  (∀ (i : Instr) (m : Mn) (e : Ext) (s : State) (x : Site) (is : List Nat) (inv : Bool), i.shape = .form m e →
     (m = .flush ∧ inv = false) ∨ (m = .flushInv ∧ inv = true) → Issues s x is e.guard [readA e 2] →
     let a := x.val (is.headD 0) e.a.toNat 2
     (windowOf a = some .scratch ∨ windowOf a = some .shared → Computes (exec i s) s x is nothing) ∧
     (∀ va, x.check (is.headD 0) a (64 * (e.imm.toNat + 1) - a % 64) 1 = .ok (.virt va) →
       exec i s = .next (((s.account x).1.flushRange (s.account x).2 inv ((List.range (e.imm.toNat + 1)).map fun k => va / 64 + k)).done (s.account x).2))) ∧
  (∀ (s : State) (x : Site) (line : Nat) (inv : Bool),
     (∀ c ∈ (s.flushLine x .priv line inv).lines, c.line = line → c.cls = .priv → c.level ∈ x.nearLevels → inv = false ∧ c.dirtyBytes = []) ∧
     (∀ c ∈ (s.flushLine x .phase line true).lines, c.line = line → c.cls = .phase → c.level ∈ x.nearLevels → s.setData c.level line = true) ∧
     (∀ c, (s.lines.filter fun d => d.line = line && d.cls = .priv && decide (d.level ∈ x.nearLevels)) = [c] →
       s.MemOk → s.pathFault x.team.cl.die (64 * line) = none → s.classCheck (64 * line) .priv = .ok () → (∀ u ∈ s.ulines, u.onLines (64 * line) 64 = false) →
       c.dirtyBytes.length = 64 ∨ line ∉ s.poison → ∀ b ∈ c.dirtyBytes, Memory.get (s.flushLine x .priv line inv).mem b.1 = b.2)) ∧
  (∀ (i : Instr) (e : Ext) (s t : State) (x : Site) (is : List Nat) (va : Nat), i.shape = .form .pgarm e → Issues s x is e.guard [readA e 2] →
     let a := x.val (is.headD 0) e.a.toNat 2
     x.check (is.headD 0) a (64 * (e.imm.toNat + 1) - a % 64) 1 = .ok (.virt va) → x.heat.unacked = 0 →
     (s.account x).1.pgarmPages (s.account x).2 (byPage va (e.imm.toNat + 1)) = (t, none) →
     exec i s = .next (t.done (s.account x).2) ∧ t = { s with granules := t.granules, lines := t.lines, meets := t.meets } ∧
       ∀ ls ∈ byPage va (e.imm.toNat + 1), ∀ h, s.reachX x (64 * ls.headD 0) .store .plain = .ok h → ∀ l ∈ ls,
         h.phys (64 * l) / 64 ∉ t.granules ∧ ∀ c ∈ t.lines, c.line ≠ h.phys (64 * l) / 64)

end

/-! ### Atomics, order, barriers, FIFOs and triggers -/

namespace Sys2Proof.Machine

/-- What an atomic does at its location (R239 to R241): the registers it names, whether it returns the old value, and the new value, if it
writes one, from the old. -/
structure AtomicPlan where
  uses    : List Use
  returns : Bool
  new     : Nat → Nat → Option Nat

/-- AMO and CAS. -/
def atomicPlan (m : Mn) (e : Ext) (x : Site) : Option AtomicPlan :=
  match m with
  | .amo => some {
      uses := (if e.mod.getLsbD 2 then [] else [useD e e.ty.regs]) ++ [readA e 2] ++ readB e e.ty.regs
      returns := !e.mod.getLsbD 2
      new := fun i old => some (amoOp e.x.toNat e.ty old (x.srcB i e % 2 ^ e.ty.bits)) }
  | .cas => some {
      uses := [useD e e.ty.regs, readA e 2] ++ readB e e.ty.regs ++ [readC e e.ty.regs]
      returns := true
      new := fun i old => if old = x.srcB i e % 2 ^ e.ty.bits then some (x.srcC i e) else none }
  | _ => none

/-- The range of an atomic at a state. -/
def State.atomicRange (s : State) (x : Site) (form : AccForm) (i ea n : Nat) : List (Nat × Nat) :=
  match x.check i ea n n with
  | .ok (.virt va) => match s.reachX x va .store form with
    | .ok h => [(h.phys va, n)]
    | .error _ => []
  | _ => []

/-- Perform atomics in order, each of which meets nothing that stops it: the old values, and the ranges that they name (R225). -/
def State.atomicAll (s : State) (x : Site) (form : AccForm) (n : Nat) (sc : Scope) (f : Nat → Nat → Option Nat) :
    List (Nat × Nat) → Option (List (Nat × Nat) × State × Site × List (Nat × Nat))
  | [] => some ([], s, x, [])
  | (i, ea) :: r =>
    if s.atomicMeets x form true (decide (s.atPlace x sc = .home)) i ea n = .fine then
      let a := s.rmwAt x form i ea n sc (f i)
      match a.2.1.atomicAll a.2.2 form n sc f r with
      | some (vs, t, y, l) => some ((i, a.1) :: vs, t, y, s.atomicRange x form i ea n ++ l)
      | none => none
    else none

/-- A fence, and PHASE: whether it releases, acquires and waits for loads (R140, R243). -/
def fencePlan (m : Mn) (e : Ext) : Option (Bool × Bool × Bool) :=
  match m with
  | .fence => some (decide (e.mod ≠ 2), decide (e.mod ≠ 1), decide (e.mod = 0))
  | .phase => some (true, true, false)
  | _ => none

/-- What a barrier instruction does (R246, R247): the registers it names, its condition, the object that the bank then evaluates, and what it
writes. -/
structure BarPlan where
  uses   : List Use
  ok     : Prop
  obj    : Barrier
  effect : Effect

/-- BAR.INIT, BAR.ARV, BAR.EXP, BAR.TRY, and a BAR.WAIT that its first issue finds complete; `l` is the object's location, `a` its generic
address. -/
def barPlan (m : Mn) (e : Ext) (s : State) (x : Site) (is : List Nat) (a : Nat) (l : Loc) : Option BarPlan :=
  let b := x.barrier l
  let d := x.val (is.headD 0) e.d.toNat 1
  let n := e.imm.toNat + 1
  let parity : Bool := decide (d % 2 = 1)
  match m with
  | .barInit => some {
      uses := [readD e 1, readA e 2], ok := 1 ≤ d ∧ d ≤ 65535
      obj := { phase := false, low := 0, arrived := 0, target := d, posted := 0, landed := 0 }, effect := nothing }
  | .barArv => some {
      uses := [useD e 1, readA e 2], ok := b.arrived + n ≤ b.target ∧ x.heat.unacked = 0, obj := { b with arrived := b.arrived + n }
      effect := toD32 e fun _ => if b.phase then 1 else 0 }
  | .barExp => some {
      uses := [readD e 1, readA e 2], ok := b.posted + d ≤ 2 ^ 32 - 1, obj := { b with posted := b.posted + d }, effect := nothing }
  | .barTry => some {
      uses := [readV0, readD e 1, readA e 2], ok := True, obj := b, effect := toG e.c fun _ => decide (b.evaluate.1.phase ≠ parity) }
  | .barWait => some {
      uses := [readD e 1, readA e 2], ok := b.evaluate.1.phase ≠ parity ∧ x.heat.waitAt s.cur.pc a = none, obj := b, effect := nothing }
  | _ => none

/-- A byte of the unit's scratch or shared memory. -/
def Site.localByte (x : Site) : Loc → Byte
  | .scr o => Memory.get (x.team.scrMem.getD x.squad []) o
  | .csh o => Memory.get x.team.cshMem o
  | .virt _ => 0

/-- A byte lies outside n bytes of a local memory. -/
def Loc.apart (l : Loc) (n : Nat) : Loc → Prop
  | .scr a => ∀ o, l = .scr o → a < o ∨ o + n ≤ a
  | .csh a => ∀ o, l = .csh o → a < o ∨ o + n ≤ a
  | .virt _ => False

end Sys2Proof.Machine

section
open Sys2Proof Sys2Proof.Machine

/-- R136, R225 and R238 to R241: AMO and CAS perform each fibre's access in order and, delivered at once, leave the old values in D; with release they
publish first, with acquire they acquire last. Without a release no byte outside the locations changes. That a location which is read needs the permission
to load as well is the model's choice (log entry 21), and so is the schedule by which the values come at once (log entry 2). -/
def Obligations.AtomicsPerform : Prop :=
  ∀ (i : Instr) (m : Mn) (e : Ext) (s t : State) (x y : Site) (is : List Nat) (p : AtomicPlan) (vs l : List (Nat × Nat)), i.shape = .form m e →
    atomicPlan m e x = some p → Issues s x is e.guard p.uses →
    let sc := scopeOf e.rs
    let form := atomicForm sc
    let as := is.map fun k => (k, x.val k e.a.toNat 2)
    let start := if releases e then (s.account x).1.releaseAt (s.account x).2 sc else s.account x
    x.badAddress (memBytes e.ty) (memBytes e.ty) as = none → x.heat.unacked + is.length ≤ 65535 →
    (∀ q ∈ as, (s.account x).1.atomicMeets (s.account x).2 form true (decide (s.atPlace x sc = .home)) q.1 q.2 (memBytes e.ty) = .fine) →
    (releases e = true → s.mayRelease x sc) →
    start.1.atomicAll start.2 form (memBytes e.ty) sc p.new as = some (vs, t, y, l) → x.isPacer = true ∨ s.choice = 0 →
    ∃ u z, exec i s = .next u ∧ UnitOnly s u x z ∧ Advanced s x z ∧ u.mem = t.mem ∧
      (p.returns = true → ∀ v ∈ vs, ∀ k < e.ty.regs, z.slot v.1 (e.d.toNat + k) = .val (wd (v.2 / 2 ^ (32 * k)))) ∧
      (∀ n r, n ∉ is ∨ p.returns = false ∨ r < e.d.toNat ∨ e.d.toNat + e.ty.regs ≤ r → z.slot n r = x.slot n r) ∧
      (releases e = false → ∀ a, ¬ s.pendingAt a → ¬ s.dirtyAt a → outside a l → Memory.get u.mem a = Memory.get s.mem a)

/-- R124, R136, R240 and R359: an atomic on a SEQ page reads the home, writes what its function gives, if anything, and leaves no other copy of the
line; its old value is what stood at the home. R136 and R137: an atomic on a PHASE page at squad scope leaves its result with the squad, at team scope
with the team where the cluster has a cache, else at the home. Of the model: where the result stands (log entry 12), and that the unit's own store to the
location and what narrower layers hold of it give way (log entry 40). -/
def Obligations.AtomicsByClass : Prop :=
  (∀ (s : State) (x : Site) (h : Hit) (pa n : Nat) (sc : Scope) (f : Nat → Option Nat) (v : Nat), h.cls = .seq → s.notifyVf pa = none → s.MemOk →
     (s.rmw x h pa n sc f).1 = leNat (s.homeRead pa n).1 ∧
     (f (leNat (s.homeRead pa n).1) = some v →
       Memory.read (s.rmw x h pa n sc f).2.1.mem pa n = leBytes v n ∧ ∀ c ∈ (s.rmw x h pa n sc f).2.1.lines, c.cls = .seq → c.line ≠ pa / 64) ∧
     (f (leNat (s.homeRead pa n).1) = none → (s.rmw x h pa n sc f).2.1 = ((s.useHome h (pa / 64)).homeRead pa n).2)) ∧
  (∀ (s : State) (x : Site) (pa : Nat) (bs : List Byte), s.MemOk → x.isPacer = false → x.squad < x.team.sqLayer.length →
     (∀ k (hk : k < bs.length), layerGet (s.phaseAtomic x pa bs .squad).2.sqLayer (pa + k) = some bs[k]) ∧
     (∀ k (hk : k < bs.length), layerGet (s.phaseAtomic x pa bs .team).2.team.tmLayer (pa + k) = some bs[k] ∧
       layerGet (s.phaseAtomic x pa bs .team).2.sqLayer (pa + k) = none) ∧
     (∀ k, k < bs.length → layerGet (s.phaseAtomic x pa bs .home).2.team.tmLayer (pa + k) = none ∧
       layerGet (s.phaseAtomic x pa bs .home).2.sqLayer (pa + k) = none) ∧
     Memory.read (s.phaseAtomic x pa bs .home).1.mem pa bs.length = bs ∧
     (∀ pl k, k < bs.length → wsGet (s.phaseAtomic x pa bs pl).2.heat.ws (pa + k) = none))

/-- R225 and R242: RED sends each executing fibre's contribution on its way and moves on. R361 and R362: a contribution that a combining buffer has
taken is part of what its home reads afterwards. R136 and R361: one at .tm or nearer to a PHASE page that nobody's published bytes cover stands at the home
at once, and no copy of its line is left. -/
def Obligations.Reductions : Prop :=
  (∀ (i : Instr) (e : Ext) (s : State) (x : Site) (is : List Nat), i.shape = .form .red e → Issues s x is e.guard (readA e 2 :: readB e e.ty.regs) →
     let form := atomicForm (scopeOf e.rs)
     let as := is.map fun k => (k, x.val k e.a.toNat 2)
     x.badAddress (memBytes e.ty) (memBytes e.ty) as = none → x.heat.unacked + is.length ≤ 65535 →
     (∀ q ∈ as, (s.account x).1.atomicMeets (s.account x).2 form false true q.1 q.2 (memBytes e.ty) = .fine) →
     let r := (s.account x).1.eachRed (s.account x).2 e form (scopeOf e.rs) (as.map fun q => (q.1, q.2, x.srcB q.1 e % 2 ^ e.ty.bits))
     exec i s = .next (r.1.done r.2) ∧ ∃ z, UnitOnly s (r.1.done r.2) x z ∧ Advanced s x z ∧ ∀ n k, z.slot n k = x.slot n k) ∧
  (∀ (s : State) (cl : ClusterRef) (op : Nat) (ty : Ty) (c : Contrib), s.MemOk → ty.bits ∈ [16, 32, 64] → c.pa % memBytes ty = 0 → c.v < 2 ^ 64 →
     (∀ l ∈ s.ulines, l.onLines c.pa (memBytes ty) = false ∧ l.pa % 64 + l.bytes ≤ 64) → (s.bufferLines cl).length < 256 →
     leNat ((s.putU cl op ty c).homeRead c.pa (memBytes ty)).1 = amoOp op ty (leNat (Memory.read s.mem c.pa (memBytes ty))) c.v % 2 ^ ty.bits) ∧
  (∀ (s : State) (x : Site) (sc : Scope) (op : Nat) (ty : Ty) (c : Contrib), s.MemOk → ty.bits ∈ [16, 32, 64] → c.h.cls = .phase → sc.far = false →
     s.nearAt x (addresses c.pa (memBytes ty)) = false → (s.sendU x sc op ty c).2 = x ∧
       leNat (Memory.read (s.sendU x sc op ty c).1.mem c.pa (memBytes ty)) = amoOp op ty (leNat (s.homeRead c.pa (memBytes ty)).1) c.v % 2 ^ ty.bits ∧
       ∀ d ∈ (s.sendU x sc op ty c).1.lines, d.line = c.pa / 64 → d.cls ≠ .seq ∧ d.cls ≠ .phase)

/-- R138 to R140 and R243: FENCE and PHASE release, then acquire, at their scope, and change no register. R121, R127 and R139: a release at .sy puts
every byte of the write set at its home, where its path is free, and empties the set; one at .di shows it to the agents of the die, and one at .dv to those
of the package, over what the home holds, and leaves memory as it was. R129: an acquire leaves no leased copy that its scope discards; only copies and
what the unit has seen change. R243 and R244: WDRAIN with nothing unacknowledged, and BTN.SYNC on registers that hold
values, change nothing; BTN.TEST sets guard D where register A holds no pending record. -/
def Obligations.FencesAndDrains : Prop :=
  (∀ (i : Instr) (m : Mn) (e : Ext) (s : State) (x : Site) (is : List Nat) (rel acq waits : Bool), i.shape = .form m e →
     fencePlan m e = some (rel, acq, waits) → Issues s x is e.guard [] →
     let sc := scopeOf e.rs
     (waits = true → x.heat.loading = false) → (rel = true → s.mayRelease x sc) →
     let a := if rel then (s.account x).1.releaseAt (s.account x).2 sc else s.account x
     let b := if acq then a.1.acquireAt a.2 sc else a
     exec i s = .next (b.1.done b.2) ∧ ∃ z, UnitOnly s (b.1.done b.2) x z ∧ Advanced s x z ∧ ∀ n k, z.slot n k = x.slot n k) ∧
  (∀ (s : State) (x : Site) (sc : Scope), s.MemOk → sc.far = true → s.ulines = [] → s.poison = [] → (x.heat.ws.map WsByte.pa).Nodup →
     (∀ b ∈ x.heat.ws, b.pack = none) → (∀ b ∈ x.heat.ws, s.pathFault x.team.cl.die b.pa = none) →
     (s.releaseAt x sc).2.heat.ws = [] ∧
     (sc = .sy → ∀ b ∈ x.heat.ws, Memory.get (s.releaseAt x sc).1.mem b.pa = b.byte) ∧
     (sc ≠ .sy → (s.releaseAt x sc).1.mem = s.mem ∧ ∀ b ∈ x.heat.ws,
       layerGet ((s.releaseAt x sc).1.wideAt (if sc = .di then some x.team.cl.die else none)) b.pa = some b.byte)) ∧
  (∀ (s : State) (x : Site) (sc : Scope), sc ≠ .ht → (sc = .sq → x.isPacer = false) →
     (∀ c ∈ (s.acquireAt x sc).1.lines, c ∈ s.lines ∧ sc.discards x c = false) ∧
     (s.acquireAt x sc).1 = { s with
       lines := (s.acquireAt x sc).1.lines, oldParts := (s.acquireAt x sc).1.oldParts, wide := (s.acquireAt x sc).1.wide } ∧
     (s.acquireAt x sc).1.wide.map (fun p => (p.1, p.2.pa, p.2.byte)) = s.wide.map (fun p => (p.1, p.2.pa, p.2.byte)) ∧
     (s.acquireAt x sc).2 = { x with team := { x.team with sqLayer := (s.acquireAt x sc).2.team.sqLayer, tmLayer := (s.acquireAt x sc).2.team.tmLayer } }) ∧
  (∀ (i : Instr) (e : Ext) (s : State) (x : Site) (is : List Nat),
     (i.shape = .form .wdrain e → Issues s x is e.guard [] → x.heat.unacked = 0 → Computes (exec i s) s x is nothing) ∧
     (i.shape = .form .btnSync e → e.mod.getLsbD 0 = false → Issues s x is e.guard [readA e 1] → Computes (exec i s) s x is nothing) ∧
     (i.shape = .form .btnSync e → e.mod.getLsbD 0 = true → Issues s x is e.guard [] → (∀ k ∈ is, allUses x k = []) →
       Computes (exec i s) s x is nothing) ∧
     (i.shape = .form .btnTest e → Issues s x is e.guard [readV0, { reg := e.a.toNat, n := 1, rd := false }] →
       Computes (exec i s) s x is (toG e.d fun k => match x.slot k e.a.toNat with
         | .bat b => decide (b.st ≠ .pending)
         | .val _ => true)))

/-- R245 to R247: a barrier instruction leaves the object that its bank evaluates after the change, wakes the heats that wait on an object whose phase
completes, and changes no other byte of local memory and no byte of memory. R246 and R247: a BAR.WAIT whose phase has not completed waits; one that a
completion has woken goes on. -/
def Obligations.Barriers : Prop :=
  (∀ (i : Instr) (m : Mn) (e : Ext) (s : State) (x : Site) (is : List Nat) (l : Loc) (p : BarPlan), i.shape = .form m e → s.MemOk →
     let a := x.val (is.headD 0) e.a.toNat 2
     barPlan m e s x is a l = some p → Issues s x is e.guard p.uses → x.barAddress (is.headD 0) a = .ok l → p.ok →
     (∀ o, l = .scr o → x.squad < x.team.scrMem.length) →
     ∃ t y, exec i s = .next t ∧ t.site? s.cur.u = some y ∧
       t = { s with teams := t.teams, meets := t.meets, lines := t.lines, oldParts := t.oldParts, wide := t.wide } ∧
       (∀ id, id ≠ x.team.id → t.team? id = s.team? id) ∧ Advanced s x y ∧ Wrote x y is p.effect ∧
       y.barrier l = p.obj.evaluate.1 ∧ (∀ k, l.apart 16 k → y.localByte k = x.localByte k) ∧
       (p.obj.evaluate.2 = true → ∀ h ∈ y.team.heats, ∀ w ∈ h.bars, w.obj = a → w.woken = true)) ∧
  (∀ (i : Instr) (e : Ext) (s : State) (x : Site) (is : List Nat) (l : Loc), i.shape = .form .barWait e → s.MemOk →
     let a := x.val (is.headD 0) e.a.toNat 2
     Issues s x is e.guard [readD e 1, readA e 2] → x.barAddress (is.headD 0) a = .ok l →
     (∀ w, x.heat.waitAt s.cur.pc a = some w → w.woken = true → ∃ t y, exec i s = .next t ∧ UnitOnly s t x y ∧ Advanced s x y ∧
       (∀ n r, y.slot n r = x.slot n r) ∧ y.heat.waitAt s.cur.pc a = none) ∧
     (x.heat.waitAt s.cur.pc a = none → (∀ o, l = .scr o → x.squad < x.team.scrMem.length) →
       (x.barrier l).evaluate.1.phase = decide (x.val (is.headD 0) e.d.toNat 1 % 2 = 1) →
       ∃ t y, exec i s = .next t ∧ t.site? s.cur.u = some y ∧ (∀ n, (y.heat.fibre? n).map Fibre.pc = (x.heat.fibre? n).map Fibre.pc) ∧
         y.barrier l = (x.barrier l).evaluate.1 ∧
         ∃ w ∈ y.heat.bars, w.pc = s.cur.pc ∧ w.obj = a ∧ w.woken = false))

/-- R248 to R250: FIFO.MAP maps a free bank in FIFO mode; FIFO.PUT appends the fibres' elements in order where there is room; FIFO.CLOSE closes one
producer; FIFO.STAT reports what the FIFO holds and how many producers are open. R72, R248 and R250: FIFO.GET, delivered at once, gives the executing
fibres the oldest elements in order and takes them out; of a FIFO whose producers are closed the fibres that get none hold a drained record, and with
.nb their guard C is clear and D as it was. R107 and R258: BANKCFG by the team leader, when no earlier command waits for the bank, leaves its bank in the
new mode; a bank that changes its mode is mapped to no FIFO. Of the model: whether a value is delivered at once (log entry 2), and that FIFO.GET.nb
writes D before its guard where both are in v0 (log entry 23). -/
def Obligations.FifosAndBanks : Prop :=
  (∀ (i : Instr) (e : Ext) (s : State) (x : Site) (is : List Nat) (b : Nat) (q : Fifo),
     (∀ k, i.shape = .form .fifoMap e → Issues s x is e.guard [] → s.bankOf x.team.cl e.p = some b →
       (s.cluster? x.team.cl).bind (fun c => c.banks[b]?) = some k → k.mode = .fifo → k.fifo = none →
       s.othersBank x.team.cl x.team.id b k = false → s.fifoBank x e.d.toNat = none → e.d ≠ 0 →
       ∃ t y, exec i s = .next t ∧ UnitOnly s t x y ∧ Advanced s x y ∧ (∀ n r, y.slot n r = x.slot n r) ∧
         t.fifoBank y e.d.toNat = some (b, { team := x.team.id, reg := e.d.toNat, ty := e.ty, elems := [], opened := e.imm.toNat % 256 }) ∧
         t = { s with dies := t.dies, teams := t.teams, meets := t.meets }) ∧
     (i.shape = .form .fifoPut e → Issues s x is e.guard [readA e e.ty.regs] → s.fifoBank x e.d.toNat = some (b, q) → q.ty = e.ty → q.opened ≠ 0 →
       q.elems.length + is.length ≤ fifoCapacity q.ty →
       ∃ t y, exec i s = .next t ∧ UnitOnly s t x y ∧ Advanced s x y ∧ (∀ n r, y.slot n r = x.slot n r) ∧
         t.fifoBank y e.d.toNat = some (b, { q with elems := q.elems ++ is.map fun k => dw (x.srcA k e) }) ∧
         t = { s with dies := t.dies, teams := t.teams, meets := t.meets }) ∧
     (i.shape = .form .fifoClose e → Issues s x is e.guard [] → s.fifoBank x e.d.toNat = some (b, q) → q.opened ≠ 0 →
       ∃ t y, exec i s = .next t ∧ UnitOnly s t x y ∧ Advanced s x y ∧ (∀ n r, y.slot n r = x.slot n r) ∧
         t.fifoBank y e.d.toNat = some (b, { q with opened := q.opened - 1 }) ∧ t = { s with dies := t.dies, teams := t.teams, meets := t.meets }) ∧
     (i.shape = .form .fifoStat e → Issues s x is e.guard [useD e 1] → s.fifoBank x e.a.toNat = some (b, q) →
       Computes (exec i s) s x is (toD32 e fun _ => q.elems.length % 2 ^ 17 + q.opened % 2 ^ 8 * 2 ^ 17))) ∧
  (∀ (i : Instr) (e : Ext) (s : State) (x : Site) (is : List Nat) (b : Nat) (q : Fifo), i.shape = .form .fifoGet e →
     let nb := e.mod.getLsbD 0
     Issues s x is e.guard ((if nb then [readV0] else []) ++ [useD e e.ty.regs]) → s.fifoBank x e.a.toNat = some (b, q) → q.ty = e.ty → s.choice = 0 →
     is.length ≤ q.elems.length ∨ q.opened = 0 ∨ nb = true →
     ∃ t y, exec i s = .next t ∧ UnitOnly s t x y ∧ Advanced s x y ∧
       t.fifoBank y e.a.toNat = some (b, { q with elems := q.elems.drop is.length }) ∧
       t = { s with dies := t.dies, oracle := t.oracle, teams := t.teams, meets := t.meets } ∧
       (∀ (n k : Nat), is[n]? = some k → ∀ v : DWord, (q.elems[n]? : Option DWord) = some v → ∀ r < e.ty.regs,
         y.slot k (e.d.toNat + r) = .val
           (if nb = true ∧ e.d.toNat + r = 0 then setBit (wd v.toNat) (e.c.toNat % 32) true else wd (v.toNat / 2 ^ (32 * r)))) ∧
       (∀ (n k : Nat), is[n]? = some k → q.elems[n]? = none → ∀ r < e.ty.regs, nb = false ∨ e.d.toNat + r ≠ 0 → y.slot k (e.d.toNat + r) =
         if nb then x.slot k (e.d.toNat + r)
         else .bat { tag := 0, part := r, a := 1, b := 0, chain := [], st := .drained s.cur.pc e.a.toNat (x.heat.issued + 1) }) ∧
       (nb = true → ∀ (n k : Nat), is[n]? = some k → y.guard k (e.c.toNat % 32) = (q.elems[n]?).isSome) ∧
       (∀ k r, k ∉ is ∨ (r ≠ 0 ∧ (r < e.d.toNat ∨ e.d.toNat + e.ty.regs ≤ r)) → y.slot k r = x.slot k r)) ∧
  (∀ (i : Instr) (e : Ext) (s t : State) (x : Site) (is : List Nat) (b : Nat) (k : Bank), i.shape = .form .bankcfg e → Issues s x is e.guard [] →
     x.leads is = true → s.bankOf x.team.cl e.p = some b → (s.cluster? x.team.cl).bind (fun c => c.banks[b]?) = some k →
     (s.commands.takeWhile fun d => !(d.ofUnit x.u && d.forBank x.team.cl e.p)).any (DriverCommand.forBank x.team.cl e.p) = false →
     (({ (s.account x).1 with commands := s.commands.filter fun d => !d.ofUnit x.u } : State).put (s.account x).2).switchBank (s.account x).2.team e.p
       (bankMode e.m1.toNat) = .done t →
     ∃ y, exec i s = .next (t.done y) ∧ t.here = some y ∧ (∀ n r, y.slot n r = x.slot n r) ∧
       (s.cluster? x.team.cl).bind (fun c => c.banks[b]?) = some k ∧
       ((t.done y).cluster? x.team.cl).bind (fun c => c.banks[b]?) =
         some (if k.mode = bankMode e.m1.toNat then k else { mode := bankMode e.m1.toNat, placed := false, fifo := none }))

/-- R256, R257 and R388: TRG.ADD releases at .dv and adds, and what is armed on the counter and finds its threshold reached starts; TRG.SET sets, and
cancels what is armed on the counter, but what its value had reached before starts; TRG.WAIT with the counter reached delivers it to D and acquires at
.dv; TRG.ARM arms the heat's next operation. Of the model: that D is written after the guard where both are v0 (log entry 23), and that an operation of a
saved team is not cancelled (log entry 81). -/
def Obligations.TriggerInstructions : Prop :=
  ∀ (i : Instr) (e : Ext) (s : State) (x : Site) (is : List Nat) (k : Nat), s.trigOf x.team.cl e.p = some k →
    let b : Word := wd (x.srcB (is.headD 0) e)
    let r := (s.account x).1.releaseAt (s.account x).2 .dv
    (i.shape = .form .trgAdd e → Issues s x is e.guard (readB e 1) → s.mayRelease x .dv →
      let v := s.trig x.team.cl k + b
      exec i s = .next ((r.1.raiseTrig x.team.cl k v).done (if s.runsOn x.team.cl.die then { r.2 with team := r.2.team.fireOn x.team.cl k v } else r.2))) ∧
    (i.shape = .form .trgSet e → Issues s x is e.guard (readB e 1) →
      ∃ t y, exec i s = .next t ∧ t.site? s.cur.u = some y ∧ t = { s with dies := (s.setTrig x.team.cl k b).dies, teams := t.teams, meets := t.meets } ∧
        Advanced s x y ∧ (∀ n q, y.slot n q = x.slot n q) ∧
        (∀ u ∈ t.teams, u.cl = x.team.cl → u.st = .resident → ∀ op ∈ u.xfers, op.armedOn k = false) ∧
        (x.team.st = .resident → ∀ op ∈ x.team.xfers, (∀ p ∈ x.team.xfers, p.handle = op.handle → p = op) → ∀ a, op.st = .armed a → a.trig = k →
          (s.trig x.team.cl k - a.at_).toNat < 2 ^ 31 →
          { op with st := .started } ∈ y.team.xfers)) ∧
    (i.shape = .form .trgWait e → e.mod.getLsbD 0 = false → Issues s x is e.guard (useD e 1 :: readB e 1) → (s.trig x.team.cl k - b).toNat < 2 ^ 31 →
      ∃ t y, exec i s = .next t ∧ UnitOnly s t x y ∧ Advanced s x y ∧ Wrote x y is (toD32 e fun _ => (s.trig x.team.cl k).toNat) ∧
        t = { s with lines := t.lines, oldParts := t.oldParts, wide := t.wide, teams := t.teams, meets := t.meets }) ∧
    (i.shape = .form .trgWait e → e.mod.getLsbD 0 = true → Issues s x is e.guard (readV0 :: useD e 1 :: readB e 1) →
      ∃ t y, exec i s = .next t ∧ UnitOnly s t x y ∧ Advanced s x y ∧
        Wrote x y is { toD32 e (fun _ => (s.trig x.team.cl k).toNat) with
          bit := if e.d = 0 then none else some (e.c.toNat % 32, fun _ => decide ((s.trig x.team.cl k - b).toNat < 2 ^ 31)) }) ∧
    (i.shape = .form .trgArm e → Issues s x is e.guard (readB e 1) →
      ∃ t y, exec i s = .next t ∧ Own s t x y ∧ Advanced s x y ∧ (∀ n q, y.slot n q = x.slot n q) ∧ y.heat.arm = some { trig := k, at_ := b })

end

/-! ### Copies -/

namespace Sys2Proof.Machine

/-- The registers of a CPY (R251, R252). -/
def usesCpy (e : Ext) : List Use :=
  [useD e 1, readA e 2, { reg := e.b.toNat, n := 2, rd := true }, readC e (if e.m1 = 0 then 1 else 5)]

/-- The copy that a planned CPY queues. -/
def Site.copyOf (x : Site) (s : State) (e : Ext) (i : Nat) (p : CopyPlan) : Copy :=
  { mode := copyModeOf e.m1.toNat, ty := e.ty, rs := e.rs, dst := p.dst, src := p.src, total := p.total, done := 0, acked := 0, till := 0
    bar := if e.mod.getLsbD 0 then some { off := 16 * e.imm.toNat, parity := e.mod.getLsbD 1 } else none
    u := x.u, fibre := i, pc := s.cur.pc, seed := x.seed i, held := none, started := false, grans := [], chunks := [] }

/-- A channel as the team that starts a copy finds it: a free one becomes its own, with W at 0 (R108). -/
def Chan.taken (ch : Chan) (team : Nat) : Chan := if ch.owner = none then { ch with owner := some team, w := 0 } else ch

/-- The value of W at which a copy queued on a channel begins (R109). -/
def Chan.begins (ch : Chan) : Word := ch.w + wd ((ch.queue.map fun c => c.total - c.acked).sum)

end Sys2Proof.Machine

section
open Sys2Proof Sys2Proof.Machine

/-- R108, R109, R227, R251 and R252: a CPY whose plan passes its checks queues its copy on the channel that P names, which is free or the team's own
and not in its error state, delivers the value of W at which the copy begins, and charges 1 BC for every 256 bytes beyond its issue. R99 and R252: a
linear CPY of 1 to 2^30 bytes whose two ranges pass the address checks is planned as it stands. -/
def Obligations.CpyQueuesACopy : Prop :=
  (∀ (i : Instr) (e : Ext) (s u : State) (x : Site) (is : List Nat) (p : CopyPlan) (k : Nat) (ch : Chan), i.shape = .form .cpy e →
     Issues s x is e.guard (usesCpy e) →
     let n := is.headD 0
     (s.account x).1.planCopy (s.account x).2 e n (x.val n e.a.toNat 2) (x.val n e.b.toNat 2) = (.plan p, u) → x.linkFault e = false →
     u.chanOf x.team.cl e.p = some k → u.chan? x.team.cl k = some ch → ch.owner = none ∨ ch.owner = some x.team.id → ch.err = false →
     let took := ch.taken x.team.id
     let c := { x.copyOf s e n p with started := took.queue.isEmpty }
     ∃ t y, exec i s = .next t ∧ UnitOnly s t x y ∧ Advanced s x y ∧
       Wrote x y is { toD32 e (fun _ => took.begins.toNat) with
         seed := if p.draws = 0 then none else some fun m => if m = n then srAfter (x.seed n) p.draws else x.seed m } ∧
       t = { u with
         teams := t.teams, meets := t.meets, dies := (u.updChan x.team.cl k fun _ => { took with queue := took.queue ++ [c] }).dies } ∧
       ∀ a b, s.meet? x.team.meet = some a → a.live = true → t.meet? x.team.meet = some b →
         b.sums = SMap.bump (SMap.bump a.sums x.team.cl.die 1) x.team.cl.die ((p.total + 255) / 256)) ∧
  (∀ (s : State) (x : Site) (e : Ext) (i a b : Nat) (l m : Loc), e.m1 = 0 → x.check i a (max (x.val i e.c.toNat 1) 1) 1 = .ok l →
     x.check i b (max (x.val i e.c.toNat 1) 1) 1 = .ok m → 1 ≤ x.val i e.c.toNat 1 → x.val i e.c.toNat 1 ≤ 2 ^ 30 →
     s.planCopy x e i a b = (.plan { dst := .linear (dw a), src := .linear (dw b), total := x.val i e.c.toNat 1, draws := 0 }, s))

/-- R110, R131 and R255: CPY.WAIT goes on when the channel's W has reached its target; CPY.PTR delivers W and sets guard C by the target, and with it
the unit observes what the channel has written; CPY.PTR.st delivers the busy and error bits; CPY.PTR.clr delivers W and clears the error state. -/
def Obligations.CopyPointerInstructions : Prop :=
  ∀ (i : Instr) (e : Ext) (s : State) (x : Site) (is : List Nat) (k : Nat) (ch : Chan), s.ownChan x e.p = some k → s.chan? x.team.cl k = some ch →
    let b : Word := wd (x.srcB (is.headD 0) e)
    (i.shape = .form .cpyWait e → Issues s x is e.guard (readB e 1) → (ch.w - b).toNat < 2 ^ 31 →
      Computes (exec i s) (s.seePointer x.u x.team.cl k) x is nothing) ∧
    (i.shape = .form .cpyPtr e → Issues s x is e.guard (readV0 :: useD e 1 :: readB e 1) →
      Computes (exec i s) (s.seePointer x.u x.team.cl k) x is
        { toD32 e (fun _ => ch.w.toNat) with bit := some (e.c.toNat % 32, fun _ => decide ((ch.w - b).toNat < 2 ^ 31)) }) ∧
    (i.shape = .form .cpyPtrSt e → Issues s x is e.guard [useD e 1] →
      Computes (exec i s) s x is (toD32 e fun _ => (if ch.queue = [] then 0 else 1) + (if ch.err then 2 else 0))) ∧
    (i.shape = .form .cpyPtrClr e → Issues s x is e.guard [useD e 1] →
      ∃ t y, exec i s = .next t ∧ UnitOnly s t x y ∧ Advanced s x y ∧ Wrote x y is (toD32 e fun _ => ch.w.toNat) ∧
        t = { s with teams := t.teams, meets := t.meets, dies := (s.updChan x.team.cl k fun c => { c with err := false }).dies })

/-- R109: COPY_START starts the copy ahead of its channel. R109, R129, R247 and R253: a portion that the running copy has written and that is
acknowledged, as it is unless leases stand on it, advances W by its bytes, counts in counter 7 of its team, and is delivered to the linked object.
R145 and R253: a piece of a linear copy from one place of cluster-shared memory to another leaves the source's bytes at the destination, and advances
the copy by their number. R254: a fault of the running copy other than one of translation stops it, once what it has written is acknowledged: the
channel enters its error state, and the team gets a deferred trap with the PC of the CPY. That the queue empties is the model's choice (log entry 65).
-/
def Obligations.CopyEngines : Prop :=
  (∀ (s : State) (cl : ClusterRef) (chan : Nat) (ch : Chan) (c : Copy) (r : List Copy), s.runsOn cl.die = true → s.chan? cl chan = some ch →
     ch.queue = c :: r →
     ∃ t, exec (.copyStart cl chan) s = .next t ∧ t = { s with dies := t.dies } ∧
       t.chan? cl chan = some { ch with queue := { c with started := true } :: r } ∧
       ∀ q j, (q, j) ≠ (cl, chan) → t.chan? q j = s.chan? q j) ∧
  (∀ (s u : State) (cl : ClusterRef) (chan count : Nat) (c d : Copy) (m : Option Miss), s.runsOn cl.die = true → s.running cl chan = some c →
     s.copyMove chan c count = (u, d, m) → ∀ ch, u.chan? cl chan = some ch →
     let a := d.settle u.now
     let n := a.acked - c.acked
     let v := (u.updChan cl chan fun q => q.moved c a).updTeam c.u.team fun t => t.count 7 n
     exec (.copyPortionWritten cl chan count) s = .next (v.copyDeliver cl chan a n) ∧ (d.till ≤ u.now → a.acked = d.done) ∧
       ∃ q, v.chan? cl chan = some q ∧ q.w = ch.w + wd n ∧ (c.total ≤ a.acked → a.total = c.total → q.queue = ch.queue.tail)) ∧
  (∀ (s : State) (x : Site) (k : Nat) (c : Copy) (a b : DWord) (o p : Nat), s.MemOk → s.site? c.u = some x → c.mode = .linear → c.dst = .linear a → c.src = .linear b →
     let n := min (c.total - c.done) (min (64 - (a.toNat + c.done) % 64) (64 - (b.toNat + c.done) % 64))
     x.check c.fibre ((b.toNat + c.done) % 2 ^ 64) n 1 = .ok (.csh o) → x.check c.fibre ((a.toNat + c.done) % 2 ^ 64) n 1 = .ok (.csh p) →
     ∃ t y, s.copyPiece x k c = (.ok { c with done := c.done + n }, t) ∧ t.site? c.u = some y ∧ t = { s with teams := t.teams } ∧
       Memory.read y.team.cshMem p n = Memory.read x.team.cshMem o n ∧
       ∀ q, q < p ∨ p + n ≤ q → Memory.get y.team.cshMem q = Memory.get x.team.cshMem q) ∧
  (∀ (s u : State) (cl : ClusterRef) (chan : Nat) (c d : Copy) (cs : Byte) (info : DWord) (t : Team) (ch : Chan), s.runsOn cl.die = true →
     s.running cl chan = some c → c.mode ≠ .quant → c.acked = c.done → c.till = 0 →
     s.copyMove chan c 1 = (u, d, some (.early cs, info)) ∨ s.copyMove chan c 1 = (u, d, some (.late cs, info)) →
     u.chan? cl chan = some ch → u.team? c.u.team = some t → t.alive = true → t.st = .resident → t.dtraps.length < 16 →
     ∃ v, exec (.copyFault cl chan) s = .next v ∧ v.chan? cl chan = some { ch with err := true, queue := [] } ∧
       v.team? c.u.team = some { t with
         dtraps := t.dtraps ++ [DTrap.recorded { cause := cs, inner := 0, pc := c.pc, info := info, src := some c.u.who }] } ∧
       v = { u with dies := v.dies, teams := v.teams })

end

/-! ### Conversions, dot products, reductions and selection across a heat, page formats -/

namespace Sys2Proof.Machine

/-- One rounded f32, f16 or bf16 result of each executing fibre, of an exact value. -/
def rounded1 (e : Ext) (x : Site) (f : FFmt) (v : Nat → Fp) : Effect :=
  { toD32 e (fun i => f.round e.rs.toNat (x.draw e i 0) (v i) false) with seed := drawn e x 1 }

/-- Conversions and dot products of a fibre's own registers (R273 to R276, R287). -/
def convertResult (m : Mn) (e : Ext) (x : Site) : Option (List Use × Effect) :=
  let lane (ty : Ty) (i r j : Nat) : Fp := readF ty (subOf e) (laneOf ty (x.val i r 1) j)
  let f32 (i r : Nat) : Fp := FFmt.f32.read (x.val i r 1)
  let byte (i r k : Nat) : Int := valOf e.ty (bitsOf (x.val i r 1) (8 * k) 8)
  let pairs (n : Nat) (b : Nat → Nat) (i : Nat) : List Fp :=
    ((lanesAt e (x.val i e.a.toNat n) n).zip (lanesAt e (b i) n)).map fun p => Fp.mul p.1 p.2
  match m with
  | .f2i =>
    let src := fromOf e.m1.toNat
    some ([useD e e.ty.regs, readA e 1],
      { toD e (fun i => resultOf e.ty (toInt e.ty e.rs.toNat (x.draw e i 0) (lane src i e.a.toNat 0))) with seed := drawn e x 1 })
  | .i2f =>
    let src := intFrom e.m1.toNat
    let v (i : Nat) : Int := valOf src (x.val i e.a.toNat src.regs)
    some ([useD e 1, readA e src.regs], rounded1 e x (fmtOf e.ty) fun i => .fin (decide (v i < 0)) (v i).natAbs 0)
  | .fcvt =>
    let width := if cvtDstRegs e = 2 then 32 else fbits e.ty
    let one (i j : Nat) : Nat := x.rnd e i j (readF (fromOf e.m1.toNat) (subOf e) (x.cvtLane i e j))
    some ([useD e (cvtDstRegs e), readA e (cvtSrcRegs e)],
      { d := e.d.toNat, n := cvtDstRegs e, v := fun i => ((List.range (cvtLanes e)).map fun j => one i j * 2 ^ (width * j)).sum
        seed := drawn e x (cvtLanes e) })
  | .dot2 => some ([useD e 1, readA e 1] ++ readB e 1 ++ [readC e 1],
      rounded1 e x .f32 fun i => dotSum (f32 i e.c.toNat) (pairs 1 (fun i => x.srcB i e) i))
  | .dot4 =>
    if e.ty = .s8 ∨ e.ty = .n8 then
      let wide : Ty := if e.ty.signed then .s32 else .n32
      some ([useD e 1, readA e 1, { reg := e.b.toNat, n := 1, rd := true }, readC e 1],
        toD32 e fun i => finish wide (e.mod.getLsbD 0)
          (((List.range 4).map fun k => byte i e.a.toNat k * byte i e.b.toNat k).sum + valOf wide (x.val i e.c.toNat 1)))
    else some ([useD e 1, readA e 2, { reg := e.b.toNat, n := 2, rd := true }, readC e 1],
      rounded1 e x .f32 fun i => dotSum (f32 i e.c.toNat) (pairs 2 (fun i => x.val i e.b.toNat 2) i))
  | .sbound => some ([readD e 1, readA e 1, { reg := e.b.toNat, n := 1, rd := true }, readC e 1],
      rounded1 e x .f32 fun i => dotSum (f32 i e.d.toNat) ((List.range (lanesOf e.ty)).map fun j =>
        Fp.maxOf (Fp.mul (lane e.ty i e.a.toNat j) (lane e.ty i e.b.toNat j)) (Fp.mul (lane e.ty i e.a.toNat j) (lane e.ty i e.c.toNat j))))
  | _ => none

/-- The candidates of TOPK and TOPKM with the registers that they name (R284 to R286). -/
def candidates (m : Mn) (e : Ext) (x : Site) (is : List Nat) : Option (List Use × List Cand2) :=
  let cand (index score place : Nat) : Cand2 := { index := index, bits := scoreBits e score, score := scoreRead e score, place := place }
  let entry (i r k : Nat) : Cand2 := cand (x.val i r 1) (x.val i (r + 1) 1) (2 * i + k)
  match m with
  | .topk => some ([useD e 2, readA e 1, { reg := e.b.toNat, n := 1, rd := true }],
      is.map fun i => cand (x.val i e.b.toNat 1) (x.val i e.a.toNat 1) i)
  | .topkm => some ([useD e 2, readA e 2, { reg := e.b.toNat, n := 2, rd := true }], is.flatMap fun i => [entry i e.a.toNat 0, entry i e.b.toNat 1])
  | _ => none

end Sys2Proof.Machine

section
open Sys2Proof Sys2Proof.Machine

/-- R77, R78, R95, R273 to R276 and R287: F2I, I2F, FCVT, DOT2, DOT4 and SBOUND. -/
def Obligations.ConversionsAndDotProducts : Prop :=
  ∀ (i : Instr) (m : Mn) (e : Ext) (s : State) (x : Site) (is : List Nat) (us : List Use) (f : Effect), i.shape = .form m e →
    convertResult m e x = some (us, f) → Issues s x is e.guard us → Computes (exec i s) s x is f

/-- R96 and R277: HRED combines the executing fibres' operands in the tree of 32 slots and gives the root to each of them. R260 and R284 to R286: TOPK
and TOPKM write the best candidates, best first, one to each executing fibre in slot order, index below score with its bits unchanged, and fillers to
the fibres that are left. R284: ranking keeps every candidate once, and none stands before one that ranks above it, when no score is out of its type's
order. -/
def Obligations.HeatReductionAndSelection : Prop :=
  (∀ (i : Instr) (e : Ext) (s : State) (x : Site) (is : List Nat), i.shape = .form .hred e →
     Issues s x is e.guard [useD e e.ty.regs, readA e e.ty.regs] →
     Computes (exec i s) s x is (toD e fun _ => hredRoot e (treeRoot (hredNode e)
       ((List.range 32).map fun k => if k ∈ is then some (x.hredLeaf e k) else none)))) ∧
  (∀ (i : Instr) (m : Mn) (e : Ext) (s : State) (x : Site) (is : List Nat) (us : List Use) (cs : List Cand2), i.shape = .form m e →
     candidates m e x is = some (us, cs) → Issues s x is e.guard us →
     Computes (exec i s) s x is { d := e.d.toNat, n := 2, v := fun k =>
       match ((ranked e.ty cs).take e.imm.toNat)[is.idxOf k]? with
       | some c => c.index + 2 ^ 32 * c.bits
       | none => 0xFFFFFFFF + 2 ^ 32 * fillerOf e.ty }) ∧
  (∀ (ty : Ty) (cs : List Cand2), (ranked ty cs).Perm cs ∧
     (∀ a b c : Cand2, a ∈ cs → b ∈ cs → c ∈ cs → a.above ty b = true → b.above ty c = true → a.above ty c = true) →
     (∀ a b : Cand2, a ∈ cs → b ∈ cs → a ≠ b → a.above ty b = !(b.above ty a)) →
     (ranked ty cs).Pairwise fun a b => a = b ∨ a.above ty b = true)

/-- R78, R281 and R282: QUNPACK multiplies an element by the scale that its fibre holds and rounds; QSCALE gives each executing fibre the scale of its
block. R92, R93 and R283: QCHK of a chunk whose check passes delivers its rind word, and with .try sets its guard; of one whose check fails .try
clears the guard and leaves D as it was. R87, R91, R279 and R280: a QPACK whose checks pass, and whose chunks meet nothing at their homes, writes the
chunks that its span covers in order and moves on; no register changes, and with stochastic rounding each executing fibre's generator has moved past
its values. Of the model: that QCHK.try writes its guard after D where both are in v0 (log entry 23). -/
def Obligations.PageFormats : Prop :=
  (∀ (i : Instr) (e : Ext) (s : State) (x : Site) (is : List Nat) (f : Entry), s.entryOf x e = some f →
     (i.shape = .form .qunpack e → Issues s x is e.guard [useD e 1, readA e 1, { reg := e.b.toNat, n := 1, rd := true }] →
       (e.imm.toNat % 32 + 1) * f.w ≤ 32 →
       Computes (exec i s) s x is (rounded1 e x (fmtOf e.ty) fun k =>
         Fp.mul (f.decode (bitsOf (x.val k e.a.toNat 1) (e.imm.toNat % 32 * f.w) f.w)) (FFmt.f32.read (x.val k e.b.toNat 1)))) ∧
     (i.shape = .form .qscale e → Issues s x is e.guard [useD e 1, usesSpan e] → f.block ≤ spanLen e →
       Computes (exec i s) s x is (toD32 e fun k =>
         256 * chooseScale f ((((x.span e is).map Supply.val).drop (spanEach e * k / f.block * f.block)).take f.block)))) ∧
  (∀ (i : Instr) (e : Ext) (s u : State) (x : Site) (is : List Nat) (f : Entry) (chunk : List Byte) (ok : Bool), i.shape = .form .qchk e →
     let tries := e.mod.getLsbD 0
     Issues s x is e.guard ((if tries then [readV0] else []) ++ [useD e 1, readA e 2, { reg := e.b.toNat, n := 1, rd := true }]) →
     let n := is.headD 0
     windowOf (x.val n e.a.toNat 2) = some .global → x.val n e.a.toNat 2 % 65536 = 0 →
     (s.account x).1.checkChunk (s.account x).2 is (x.val n e.a.toNat 2) (x.val n e.b.toNat 1) = (.rind f chunk ok, u) → ok = true ∨ tries = true →
     ∃ t y, exec i s = .next t ∧ Reads s t ∧ UnitOnly s t x y ∧ Advanced s x y ∧
       Wrote x y is
         { d := e.d.toNat, n := if ok then 1 else 0, v := fun _ => f.rindWord chunk, bit := if tries then some (e.c.toNat % 32, fun _ => ok) else none }) ∧
  (∀ (i : Instr) (e : Ext) (s : State) (x : Site) (is : List Nat) (f : Entry), i.shape = .form .qpack e →
     Issues s x is e.guard [readA e 2, { reg := e.b.toNat, n := 1, rd := true }, usesSpan e] →
     let a := x.val (is.headD 0) e.a.toNat 2
     let j := x.val (is.headD 0) e.b.toNat 1
     let ps := packChunks f a j (spanLen e)
     (s.account x).1.packCheck (s.account x).2 e a j = .go f → x.heat.unacked + ps.length ≤ 65535 →
     (∀ p ∈ ps, (s.account x).1.packMeets (s.account x).2 is f p = .fine) →
     let y := ps.foldl (fun p q => p.1.packChunk p.2 e f (x.span e is) q) ((s.account x).1, (s.account x).2.spanDrawn e is)
     exec i s = .next (y.1.done y.2) ∧ ∃ z, UnitOnly s (y.1.done y.2) x z ∧ Advanced s x z ∧ (∀ n r, z.slot n r = x.slot n r) ∧
       ∀ n, z.seed n = if n ∈ is ∧ e.rs = 4 then srAfter (x.seed n) (spanEach e) else x.seed n)

end

/-! ### The matrix array -/

namespace Sys2Proof.Machine

/-- An outcome is a next state in which the unit's team has become `u`, the batch has advanced, and no register, no generator and nothing of another
team, meet or unit has changed. -/
structure Works (s t : State) (x y : Site) (u : Team) : Prop extends UnitOnly s t x y where
  moved : Advanced s x y
  slots : ∀ n r, y.slot n r = x.slot n r
  seeds : ∀ n, y.seed n = x.seed n
  team  : y.team = { u with heats := y.team.heats, pacer := y.team.pacer, counters := y.team.counters }

/-- The charges of a meet after an issue that charges n more (R187, R336). -/
def charged (s t : State) (x : Site) (n : Nat) : Prop :=
  ∀ a b, s.meet? x.team.meet = some a → a.live = true → t.meet? x.team.meet = some b →
    b.sums = SMap.bump (SMap.bump a.sums x.team.cl.die 1) x.team.cl.die n

/-- The entry that an MXMA puts into the array queue (R295). -/
def Site.mxEntry (x : Site) (s : State) (e : Ext) (i : Nat) (m : MxShape) (a b : Bound) : MxEntry :=
  let o (k : Nat) : Nat := x.val i (e.c.toNat + k) 1
  let link : MxLink := match e.imm.toNat % 4 with
    | 0 => .none
    | 1 => .wt (dw (x.val i e.b.toNat 2)) (e.imm.getLsbD 2)
    | _ => .ar (dw (x.val i e.b.toNat 2))
  { row0 := x.val i e.a.toNat 1, rows := m.m, work := .mma m.n m.k a b (o 0) (o 1) (o 2) (o 3) (e.m1.getLsbD 3) link x.team.fenced
    pc := s.cur.pc, applied := 0, chunks := [], held := none, stop := none }

/-- The element of the accumulator that word k of a fibre's ACCWR goes to (R303, R305). -/
def Site.accPlace (x : Site) (e : Ext) (i k : Nat) : Nat × Nat := (x.val i e.a.toNat 1, x.accCol i e + k)

/-- An element of the accumulator after the ACCWR of some fibres, in ascending slot order: each word written there replaces it, or with .add is added to it
(R305). -/
def Site.accAfter (x : Site) (e : Ext) (row col : Nat) (old : Word) (is : List Nat) : Word :=
  is.foldl (fun w i => (x.accData i e).zipIdx.foldl (fun w p =>
    if x.accPlace e i p.2 = (row, col) then (if e.mod.getLsbD 1 then accAdd w p.1 else p.1) else w) w) old

end Sys2Proof.Machine

section
open Sys2Proof Sys2Proof.Machine

/-- R293, R301 to R303: MXBIND binds the record it reads to its slot; MXWAIT goes on when the queue is empty; MXFENCE marks the next MXMA; MXSTAT
delivers the status word, with .clr after the error state has ended; AWSET, by the team leader, sets the accumulator window. -/
def Obligations.MatrixSetup : Prop :=
  ∀ (i : Instr) (e : Ext) (s u : State) (x : Site) (is : List Nat) (r : TRec),
    let n := is.headD 0
    (i.shape = .form .mxbind e → Issues s x is e.guard (readA e 2 :: if e.mod.getLsbD 0 then [readC e 3] else []) →
      recordAddress (x.val n e.a.toNat 2) = none → (s.account x).1.readRecord (s.account x).2 n (x.val n e.a.toNat 2) = (.ok r, u) →
      bindTest r (x.val n e.a.toNat 2) = none →
      let o (k : Nat) : Nat := if e.mod.getLsbD 0 then x.val n (e.c.toNat + k) 1 else 0
      ∃ t y, exec i s = .next t ∧ Reads s t ∧
        Works s t x y { x.team with slots := x.team.slots.set (e.m1.toNat % 8) (some { r := r, o2 := o 0, o3 := o 1, o4 := o 2 }) }) ∧
    (i.shape = .form .mxwait e → Issues s x is e.guard [] → x.team.queue = [] → Computes (exec i s) s x is nothing) ∧
    (i.shape = .form .mxfence e → Issues s x is e.guard [] →
      ∃ t y, exec i s = .next t ∧ t = { s with teams := t.teams, meets := t.meets } ∧ Works s t x y { x.team with fenced := true }) ∧
    (i.shape = .form .mxstat e → Issues s x is e.guard [useD e 1] →
      let v := { x.team with mxErr := x.team.mxErr && decide (e.m1 ≠ 1) }
      ∃ t y, exec i s = .next t ∧ Own s t x y ∧ Advanced s x y ∧ Wrote x y is (toD32 e fun _ => v.mxStat (s.pinned x.team.cl).length) ∧
        y.team = { v with heats := y.team.heats, pacer := y.team.pacer, counters := y.team.counters, xsets := y.team.xsets }) ∧
    (i.shape = .form .awset e → Issues s x is e.guard (readA e 1 :: readB e 1) → x.leads is = true →
      x.val n e.a.toNat 1 + x.srcN n e ≤ x.team.accrows →
      ∃ t y, exec i s = .next t ∧ t = { s with teams := t.teams, meets := t.meets } ∧
        Works s t x y { x.team with awb := x.val n e.a.toNat 1, awl := x.srcN n e })

/-- R187, R295, R296, R300 and R356: MXMA and MXZERO that pass their tests enter the array queue, which has room, while no save of the team is asked
for; an MXMA charges 32 BC more for each K-chunk. -/
def Obligations.MatrixEntriesAreQueued : Prop :=
  ∀ (i : Instr) (e : Ext) (s : State) (x : Site) (is : List Nat),
    let n := is.headD 0
    let row := x.val n e.a.toNat 1
    (∀ m a b, i.shape = .form .mxma e →
      Issues s x is e.guard
        ([readD e 1, readA e 1] ++ (if bitsOf e.imm.toNat 0 2 ≠ 0 then [{ reg := e.b.toNat, n := 2, rd := true }] else []) ++ [readC e 4]) →
      MxShape.ofWord (x.word n e.d.toNat) = some m → row + m.m ≤ x.team.accrows → x.team.slots.getD (bitsOf e.m1.toNat 0 3) none = some a →
      x.team.slots.getD e.mod.toNat none = some b → x.team.mxErr = false →
      (bitsOf e.imm.toNat 0 2 ≠ 0 → x.linkTest n (x.val n e.b.toNat 2) = none) → x.team.queue.length < 8 → s.saving x.team = false →
      ∃ t y, exec i s = .next t ∧ t = { s with teams := t.teams, meets := t.meets } ∧
        Works s t x y { x.team with queue := x.team.queue ++ [x.mxEntry s e n m a b], fenced := false } ∧ charged s t x (32 * ((m.k + 31) / 32))) ∧
    (i.shape = .form .mxzero e → Issues s x is e.guard (readA e 1 :: readB e 1) → 1 ≤ x.srcN n e → x.srcN n e ≤ 2048 →
      row + x.srcN n e ≤ x.team.accrows → x.team.mxErr = false → x.team.queue.length < 8 → s.saving x.team = false →
      ∃ t y, exec i s = .next t ∧ t = { s with teams := t.teams, meets := t.meets } ∧
        Works s t x y { x.team with queue := x.team.queue ++ [
          { row0 := row, rows := x.srcN n e, work := .zero, pc := s.cur.pc, applied := 0, chunks := [], held := none, stop := none }] })

/-- R303 to R306: an ACCRD inside the window delivers the elements of an unclaimed row to D, and leaves a pending record where an entry of the queue
still claims the row. R65 and R303 to R306: an ACCWR inside the window, when no earlier ACCRD of the heat still waits for its rows, writes, or with
.add adds to, the elements that its fibres name, in ascending slot order, and no other element of the accumulator. -/
def Obligations.AccumulatorAccess : Prop :=
  (∀ (i : Instr) (e : Ext) (s : State) (x : Site) (is : List Nat) (tag : BitVec 6), i.shape = .form .accrd e →
     Issues s x is e.guard ([useD e (accRegs e.ty), readA e 1] ++ readB e 1) → is.findSome? (x.accTest e) = none →
     let late (k : Nat) : Prop := x.team.claimedBy (x.val k e.a.toNat 1) ≠ 0
     (∀ k ∈ is, ¬ late k) ∨ s.freeTag x = some tag →
     ∃ t y, exec i s = .next t ∧ Own s t x y ∧ Advanced s x y ∧
       (∀ k ∈ is, ∀ r < accRegs e.ty,
         (¬ late k → y.slot k (e.d.toNat + r) =
           .val ((accWords e.ty e.rs.toNat (x.seed k) (x.team.accRead (x.val k e.a.toNat 1) (x.accCol k e) (accCount e.ty))).getD r 0)) ∧
         (late k → y.slot k (e.d.toNat + r) = .bat { tag := tag, part := r, a := 1, b := 0, chain := [], st := .pending })) ∧
       (∀ k r, k ∉ is ∨ r < e.d.toNat ∨ e.d.toNat + accRegs e.ty ≤ r → y.slot k r = x.slot k r) ∧ y.team.acc = x.team.acc) ∧
  (∀ (i : Instr) (e : Ext) (s : State) (x : Site) (is : List Nat), i.shape = .form .accwr e →
     Issues s x is e.guard ([readD e (accRegs e.ty), readA e 1] ++ readB e 1) → is.findSome? (x.accTest e) = none →
     (∀ k ∈ is, x.heat.reads (x.val k e.a.toNat 1) = false) →
     ∃ t y, exec i s = .next t ∧ t = { s with teams := t.teams, meets := t.meets } ∧ Works s t x y { x.team with acc := y.team.acc } ∧
       ∀ row col, col < 128 → y.team.accGet row col = x.accAfter e row col (x.team.accGet row col) is)

/-- R94 and R297: applying a K-chunk leaves in each element of its rows and columns the rounded sum of the old element and the chunk's products, and
no other element changes. R294, R297, R299 and R300: the tile fetch unit adds the chunk that it has read to its entry while the pinned lines leave
room; the array applies the first fetched chunk of the head entry, which ends with its last chunk; an MXZERO at the head leaves +0 in its rows. R299:
a fault other than one of translation in the next chunk fetch of the head entry, with no fetched chunk left, discards the queue, sets the array's
error state, and gives the team a deferred trap with the PC of the MXMA. -/
def Obligations.ArrayAndTileFetch : Prop :=
  (∀ (t : Team) (q : MxEntry) (n : Nat) (c : Chunk) (row col : Nat), n ≤ 128 → col < 128 →
     (t.applyChunk q n c).accGet row col =
       if q.row0 ≤ row ∧ row < q.row0 + q.rows ∧ col < n then
         chunkSum (t.accGet row col) (c.a.getD (row - q.row0) []) (c.col col) (decide (c.b.length = 32))
       else t.accGet row col) ∧
  (∀ (s : State) (team : Nat), s.teamRuns team = true →
     (∀ x k q c u, s.nextChunk team = some (x, k, q, .ok c, u) → (s.pinned x.team.cl ++ c.lines.map Prod.fst).dedup.length ≤ 8192 →
       exec (.tileFetchChunk team) s =
         .next ((u.setTeam { x.team with queue := x.team.queue.set k { q with chunks := q.chunks ++ [c] } }).creditMisses team) ∧
       Reads s u ∧ u.teams = s.teams ∧ u.meets = s.meets) ∧
     (∀ x q r n k a b o0 o1 o2 o3 sub link f c cs, s.pacerSite team = some x → x.team.queue = q :: r →
       q.work = .mma n k a b o0 o1 o2 o3 sub link f → q.chunks = c :: cs → x.team.wtHolds q = some false →
       let t := (x.team.applyChunk q n c).count 3 1
       let p := { q with applied := q.applied + 1, chunks := cs }
       (q.applied + 1 < q.total → q.stop = none → exec (.arrayChunk team) s = .next (s.setTeam { t with queue := p :: r })) ∧
       (q.applied + 1 = q.total → (∀ d, link ≠ .ar d) → exec (.arrayChunk team) s = .next (s.setTeam (Team.dequeue { t with queue := p :: r })))) ∧
     (∀ x q r, s.pacerSite team = some x → x.team.queue = q :: r → q.work = .zero →
       ∃ v, exec (.arrayZero team) s = .next (s.setTeam v) ∧ v.queue = r ∧ v.id = x.team.id ∧
         ∀ row col, col < 128 → v.accGet row col = if q.row0 ≤ row ∧ row < q.row0 + q.rows then 0 else x.team.accGet row col)) ∧
  (∀ (s u : State) (team : Nat) (x : Site) (q : MxEntry) (cs : Byte) (info : DWord), s.teamRuns team = true →
     s.nextChunk team = some (x, 0, q, .error (.early cs, info), u) ∨ s.nextChunk team = some (x, 0, q, .error (.late cs, info), u) →
     q.chunks = [] → x.team.alive = true → x.team.dtraps.length < 16 →
     ∃ t v, exec (.tileFetchFault team) s = .next t ∧ t = { s with teams := t.teams } ∧ t.team? team = some v ∧ v.queue = [] ∧ v.mxErr = true ∧
       v.dtraps = x.team.dtraps ++ [DTrap.recorded { cause := cs, inner := 0, pc := q.pc, info := info, src := some .pacer }])

end

/-! ### Transfers, system registers, traps -/

namespace Sys2Proof.Machine

/-- A tile transfer or a collective that has read its two records (R309, R311): the registers named, the operation, whether it counts on a
trigger, whether it waits for a launch time, the bytes that it charges for, and its checks (R310, R311, R380). -/
structure XferPlan where
  uses   : List Use
  work   : XferWork
  counts : Bool
  launch : Bool
  bytes  : Nat
  ok     : Prop

/-- TXFER and TXCOLL with the records that their operands A and B name. -/
def xferPlan (m : Mn) (e : Ext) (s : State) (x : Site) (i : Nat) (a b : TRec) : Option XferPlan :=
  match m with
  | .txfer => some {
      uses := [useD e 1, readA e 2, { reg := e.b.toNat, n := 2, rd := true }, readC e 10]
      work := .tile b a (x.regList i e.c.toNat 5) (x.regList i (e.c.toNat + 5) 5) (if e.mod.getLsbD 1 then some e.lit else none)
      counts := e.mod.getLsbD 0
      launch := e.mod.getLsbD 1
      bytes := a.count * elemBytes a.ty
      ok := typesTest (x.val i e.a.toNat 2) (x.val i e.b.toNat 2) a b = none ∧ a.ext = b.ext ∧ a.rank = b.rank ∧ b.grid = none }
  | .txcoll =>
    let gen := x.val i (e.c.toNat + 5) 1 % 65536
    some {
      uses := [useD e 1, readA e 2, { reg := e.b.toNat, n := 2, rd := true }, readC e 6]
      work := .coll a b (x.regList i e.c.toNat 5) e.m1.toNat (bitsOf e.mod.toNat 0 2)
        (if bitsOf e.imm.toNat 0 8 = 0 then 64 else bitsOf e.imm.toNat 0 8) gen
      counts := e.mod.getLsbD 2
      launch := false
      bytes := a.count * elemBytes a.ty
      ok := a.ty ≠ .q ∧ b.ty = a.ty ∧ collTypeOk e.m1.toNat a.ty = true ∧ a.aligned = true ∧ b.aligned = true ∧
        s.collRefused x (x.val i e.a.toNat 2 = x.val i e.b.toNat 2) a b gen = false }
  | _ => none

/-- The team has taken a new operation under its next handle, which the executing fibres hold, and nothing else of the unit, but its charge, has
changed (R308). -/
def Begins (s t : State) (x y : Site) (is : List Nat) (e : Ext) (n : Xfer) (bytes : Nat) : Prop :=
  UnitOnly s t x y ∧ Advanced s x y ∧ Wrote x y is (toD32 e fun _ => n.handle.toNat) ∧
    y.team = { x.team.begin n with heats := y.team.heats, pacer := y.team.pacer, counters := y.team.counters, xsets := y.team.xsets } ∧
    charged s t x (ceilDiv bytes 256)

/-- A fibre in its trap handler (R352): where it resumes, and the vector. -/
def Fibre.entered (f : Fibre) (resume : Pc) (tvec : DWord) : Fibre :=
  { f with epc := resume.setWidth 64, handler := true, pc := tvec.setWidth 56, waits := false }

/-- TRAP and BRK with their causes (R316). -/
def trapCause : Mn → Option Byte
  | .trap => some cause.software
  | .brk => some cause.breakpoint
  | _ => none

end Sys2Proof.Machine

section
open Sys2Proof Sys2Proof.Machine

/-- R308 to R313: TXFER and TXCOLL whose records and checks pass, and TSEND, take a slot, deliver the new handle and begin their operation, armed if
the unit has armed it; TXWAIT delivers the status of a handle that is not pending, and acquires when it is done. That D is written after the guard of
TXWAIT.try where both are v0 is the model's choice (log entry 23). -/
def Obligations.TransferOperationsBegin : Prop :=
  (∀ (i : Instr) (m : Mn) (e : Ext) (s u v : State) (x : Site) (is : List Nat) (a b : TRec) (p : XferPlan) (k : Option Nat), i.shape = .form m e →
    let n := is.headD 0
    xferPlan m e s x n a b = some p → Issues s x is e.guard p.uses → recordAddress (x.val n e.a.toNat 2) = none →
    recordAddress (x.val n e.b.toNat 2) = none → (s.account x).1.readRecord (s.account x).2 n (x.val n e.a.toNat 2) = (.ok a, u) →
    u.readRecord (s.account x).2 n (x.val n e.b.toNat 2) = (.ok b, v) → p.ok → s.trgOf x e p.counts = some k → s.slotFree x = true →
    ∃ t y, exec i s = .next t ∧ Reads s t ∧ Begins s t x y is e (s.newXfer x n p.work k true p.launch) p.bytes ∧ y.heat.arm = none) ∧
  (∀ (i : Instr) (e : Ext) (s : State) (x : Site) (is : List Nat) (q : KeySlot) (k : Option Nat), i.shape = .form .tsend e →
    let n := is.headD 0
    let len := x.srcN n e
    let slot := bitsOf e.c.toNat 0 6
    Issues s x is e.guard ([useD e 1, readA e 2] ++ readB e 1) → recordAddress (x.val n e.a.toNat 2) = none → 64 ≤ len → len ≤ 4096 → len % 64 = 0 →
    s.keyOf x.team.cl.die slot x.team.ctx = some q → s.trgOf x e (e.mod.getLsbD 0) = some k → s.slotFree x = true →
    ∃ t y, exec i s = .next t ∧ t = { s with teams := t.teams, meets := t.meets } ∧
      Begins s t x y is e (s.newXfer x n (.task (dw (x.val n e.a.toNat 2)) len slot) k false false) len ∧ y.heat.arm = x.heat.arm) ∧
  (∀ (i : Instr) (e : Ext) (s : State) (x : Site) (is : List Nat), i.shape = .form .txwait e →
    let tries := e.mod.getLsbD 0
    let h : Word := wd (x.val (is.headD 0) e.a.toNat 1)
    let w := x.team.status? h
    Issues s x is e.guard ((if tries then [readV0] else []) ++ [useD e 1, readA e 1]) → h ≠ 0 → ¬ (0 < (h - x.team.newest).toNat ∧ (h - x.team.newest).toNat < 2 ^ 31) →
    w.toNat % 256 ≠ 0 ∨ tries = true →
    ∃ t y, exec i s = .next t ∧ UnitOnly s t x y ∧ Advanced s x y ∧
      Wrote x y is { toD32 e (fun _ => w.toNat) with
        bit := if tries ∧ e.d ≠ 0 then some (e.c.toNat % 32, fun _ => decide (w.toNat % 256 ≠ 0)) else none } ∧
      t = { s with lines := t.lines, oldParts := t.oldParts, wide := t.wide, teams := t.teams, meets := t.meets } ∧
      (w.toNat % 256 = 1 → ∀ c ∈ t.lines, Scope.discards .dv x c = false))

/-- R315, R318 and R319: SYSRD, SYSWR, PERFRD and BUDGET. R318: every counter is read as State holds it. That counters and budget are read as they stand
before the issue is the model's choice (log entry 18). -/
def Obligations.SystemRegistersAndCounters : Prop :=
  ∀ (i : Instr) (e : Ext) (s : State) (x : Site) (is : List Nat),
    let n := is.headD 0
    (i.shape = .form .sysrd e → Issues s x is e.guard [useD e (sysRegs e.imm)] →
      Computes (exec i s) s x is { d := e.d.toNat, n := sysRegs e.imm, v := fun k => s.sysReg x k e.imm.toNat }) ∧
    (i.shape = .form .syswr e → e.imm = 0 → Issues s x is e.guard [readA e 1] →
      Computes (exec i s) s x is { nothing with seed := some fun k => if x.word k e.a.toNat = 0 then 0x2545F491 else x.word k e.a.toNat }) ∧
    (i.shape = .form .syswr e → e.imm = 0x31 → Issues s x is e.guard [readA e 2] → (∀ k ∈ is, x.handling [k] = true) →
      ∃ t y, exec i s = .next t ∧ Own s t x y ∧
        y.team = { x.team with heats := y.team.heats, pacer := y.team.pacer, counters := y.team.counters } ∧
        ∀ k, y.heat.fibre? k = (x.heat.fibre? k).map fun f =>
          { f with
            pc := Site.nextPc s k f, epc := if k ∈ is then dw (x.val n e.a.toNat 2) else f.epc, last := x.lastOf s k f, waits := Site.waitsOf s k f }) ∧
    (∀ c, i.shape = .form .syswr e → sysOfContext e.imm = true → Issues s x is e.guard [readA e (sysRegs e.imm)] → x.leads is = true →
      s.ctx? x.team.ctx = some c →
      ∃ t y, exec i s = .next t ∧ t = { s with ctxs := t.ctxs, teams := t.teams, meets := t.meets } ∧ UnitOnly s t x y ∧ Advanced s x y ∧
        (∀ k r, y.slot k r = x.slot k r) ∧ t.ctx? x.team.ctx = some (c.sysWrite e.imm.toNat (x.val n e.a.toNat (sysRegs e.imm))) ∧
        ∀ d, d ≠ x.team.ctx → t.ctx? d = s.ctx? d) ∧
    (i.shape = .form .perfrd e → e.imm.toNat < 8 → Issues s x is e.guard [useD e 2] →
      Computes (exec i s) s x is (toD64 e fun _ => (dw (x.team.counters.getD e.imm.toNat 0)).toNat)) ∧
    (∀ m, i.shape = .form .budget e → Issues s x is e.guard [useD e 2] → s.meet? x.team.meet = some m →
      Computes (exec i s) s x is (toD64 e fun _ => s.budgetValue m x.team.cl.die e.m1.toNat))

/-- R316, R317, R351 to R353: a precise trap enters the handler of a heat that is in none when %tvec is set, and ends the meet FAULTED otherwise; TRAP
and BRK take theirs after completing; ERET leaves the handler at %epc, and the trap registers stand while a fibre is left in it. R59: a batch that leaves
its XLOCK for the handler waits for the extended set no more. The exception of R352, a BUDGET_OVERRUN where %tvec is 0, is a deferred trap, which its delivery
discards: no precise trap has that cause. Of the model: which address of a %tvec above 2^56 or not a multiple of 4 the handler has (log entry 29). -/
def Obligations.TrapsAndReturns : Prop :=
  (∀ (s : State) (x : Site) (is : List Nat) (resume : Nat → Pc) (r : TrapRec), is.Nodup → x.heat.inHandler = false → s.tvec x.team.ctx ≠ 0 →
    s.site? x.u = some x →
    ∃ t y, s.takeTrap x is resume r = t ∧ t = { s with teams := t.teams } ∧ t.site? x.u = some y ∧
      y.heat = { x.heat with fibres := y.heat.fibres, tcause := tcauseOf x.team.lost x.isPacer false r, tpc := r.pc.setWidth 64, tinfo := r.info, waiting := false, long := false } ∧
      y.team = { x.team with
        heats := y.team.heats, pacer := y.team.pacer, lost := 0
        xsets := x.team.xsets.map fun p =>
          if x.isPacer = false ∧ p.squad = x.squad ∧ p.waiter = some x.heatNo ∧ ∃ k ∈ is, (x.heat.fibre? k).map Fibre.pc = some p.waitAt then
            { p with waiter := none }
          else p } ∧
      ∀ k, y.heat.fibre? k = (x.heat.fibre? k).map fun f => if k ∈ is then f.entered (resume k) (s.tvec x.team.ctx) else f) ∧
  (∀ (s : State) (x : Site) (is : List Nat) (resume : Nat → Pc) (r : TrapRec) (m : Meet), x.heat.inHandler = true ∨ s.tvec x.team.ctx = 0 →
    s.meet? x.team.meet = some m → m.live = true → r.cause ≠ cause.budgetOverrun →
    let t := s.takeTrap x is resume r
    HostEvent.faulted x.team.ctx r.cause ∈ t.host ∧ (∀ n, t.meet? x.team.meet = some n → n.live = false) ∧
      ∀ u ∈ t.teams, u.meet = x.team.meet → u.st ≠ .retired → u.alive = false) ∧
  (∀ (i : Instr) (m : Mn) (e : Ext) (c : Byte) (s : State) (x : Site) (is : List Nat), i.shape = .form m e → trapCause m = some c → Issues s x is e.guard [] →
    x.heat.inHandler = false → s.tvec x.team.ctx ≠ 0 →
    ∃ t y, exec i s = .next t ∧ Own s t x y ∧
      y.heat.tcause = tcauseOf x.team.lost x.isPacer false { cause := c, inner := 0, fibre := is.headD 0, pc := s.cur.pc, info := e.imm.setWidth 64 } ∧
      y.heat.tpc = s.cur.pc.setWidth 64 ∧ y.heat.tinfo = e.imm.setWidth 64 ∧ (∀ k r, y.slot k r = x.slot k r) ∧
      ∀ k, y.heat.fibre? k = (x.heat.fibre? k).map fun f =>
        let g := { f with pc := Site.nextPc s k f, last := x.lastOf s k f, waits := Site.waitsOf s k f }
        if k ∈ is then g.entered g.pc (s.tvec x.team.ctx) else g) ∧
  (∀ (i : Instr) (e : Ext) (s : State) (x : Site) (is : List Nat), i.shape = .form .eret e → Issues s x is e.guard [] → (∀ k ∈ is, x.handling [k] = true) →
    (∀ k ∈ is, goodTarget (x.epc k)) →
    ∃ t y, exec i s = .next t ∧ t = { s with teams := t.teams, meets := t.meets, freeCtr := t.freeCtr } ∧ UnitOnly s t x y ∧ (∀ k r, y.slot k r = x.slot k r) ∧
      (∀ k, y.heat.fibre? k = (x.heat.fibre? k).map fun f =>
        { f with
          pc := if k ∈ is then f.epc.setWidth 56 else Site.nextPc s k f
          handler := f.handler && decide (k ∉ is)
          last := x.lastOf s k f
          waits := Site.waitsOf s k f }) ∧
      (y.heat.inHandler = true → y.heat.tcause = x.heat.tcause ∧ y.heat.tpc = x.heat.tpc ∧ y.heat.tinfo = x.heat.tinfo))

end

/-! ### Host commands, queues, admission and the life of a meet -/

namespace Sys2Proof.Machine

/-- The state with another die in its place and news for the host. -/
def State.withDie (s : State) (d : Nat) (v : Die) (news : List HostEvent) : State := { s with dies := s.dies.set d v, host := s.host ++ news }

/-- The host's command is done. -/
def done0 : List HostEvent := [.command 0]

/-- A driver may name a context and one of its teams for an instruction: it is bound to the context, the team has not retired, and the instruction's guard is
TRUE (R168). -/
def State.commandable (s : State) (driver ctx team : Nat) (cl : ClusterRef) (e : Ext) (i : Instr) (x : Site) : Prop :=
  s.bound driver ctx = true ∧ i.wf = true ∧ e.guard = .always ∧ s.site? { team := team, who := .heat 0 0 } = some x ∧ s.team? team = some x.team ∧
    x.team.ctx = ctx ∧ x.team.cl = cl ∧ x.team.st ≠ .retired

end Sys2Proof.Machine

section
open Sys2Proof Sys2Proof.Machine

/-- R168: a driver command on a context, and where it needs one on a team of it, does what the instruction does for a team leader and answers 0; a
BANKCFG of a saved team takes hold later; a context to which the driver is not bound is refused with PRIVILEGED, and a team that is not there with
PROTECTION. R44: AWSET acts for the driver when the leader has ended as well. Of the model: that a register of the context takes the value that the
command carries, that the registers of an ended leader hold free values, and that SYSWR of team state which names no team is answered with PROTECTION
(log entry 68); that a die whose parse core has failed performs no command (log entry 43). -/
def Obligations.DriverCommandsAct : Prop :=
  ∀ (s : State) (driver ctx team : Nat) (cl : ClusterRef) (e : Ext) (w : DWord),
   (s.parses cl.die = false → ∀ i ∈ [Instr.driverBankcfg ⟨driver, ctx⟩ team cl e, .driverAwset driver ctx team cl e], exec i s = .next s) ∧
   (s.dies ≠ [] → (∀ d ∈ s.dies, d.coreUp 0 = true) →
    (∀ i ∈ [Instr.driverBankcfg ⟨driver, ctx⟩ team cl e, .driverAwset driver ctx team cl e, .driverSyswr ⟨driver, ctx⟩ (some team) e w],
      s.bound driver ctx = false → exec i s = .next (s.tell (.command cause.privileged))) ∧
    (s.bound driver ctx = true → s.team? team = none →
      ((Instr.bankcfg e).wf = true → exec (.driverBankcfg ⟨driver, ctx⟩ team cl e) s = .next (s.tell (.command cause.protection))) ∧
      ((Instr.awset e).wf = true → exec (.driverAwset driver ctx team cl e) s = .next (s.tell (.command cause.protection)))) ∧
    (∀ x, s.commandable driver ctx team cl e (.bankcfg e) x →
      (∀ u, x.team.st = .resident → (∀ d ∈ s.commands, d.op = .bankcfg cl → d.e.p ≠ e.p) →
        s.switchBank x.team e.p (bankMode e.m1.toNat) = .done u →
        exec (.driverBankcfg ⟨driver, ctx⟩ team cl e) s = .next (u.tell (.command 0)) ∧
          ∃ b k, s.bankOf cl e.p = some b ∧ (u.cluster? cl).bind (fun q => q.banks[b]?) = some k ∧ k.mode = bankMode e.m1.toNat) ∧
      (x.team.st = .saved → exec (.driverBankcfg ⟨driver, ctx⟩ team cl e) s =
        .next { s with commands := s.commands ++ [{ driver := driver, ctx := ctx, team := team, op := .bankcfg cl, e := e }] })) ∧
    (∀ x, s.commandable driver ctx team cl e (.awset e) x → x.team.leader = true → x.fieldsCheck 0 [0] (readA e 1 :: readB e 1) = none →
      x.met (readA e 1 :: readB e 1) false 0 = [] → x.val 0 e.a.toNat 1 + x.srcN 0 e ≤ x.team.accrows →
      ∃ v, exec (.driverAwset driver ctx team cl e) s = .next v ∧ v = { s with teams := v.teams, host := s.host ++ done0 } ∧
        v.team? team = some { x.team with awb := x.val 0 e.a.toNat 1, awl := x.srcN 0 e } ∧ ∀ id, id ≠ team → v.team? id = s.team? id) ∧
    (∀ x, s.commandable driver ctx team cl e (.awset e) x → x.team.leader = false → (∀ u ∈ readA e 1 :: readB e 1, u.reg < 16) →
      ∃ v, exec (.driverAwset driver ctx team cl e) s = .next v ∧ v = { s with teams := v.teams, host := v.host, freeCtr := v.freeCtr } ∧
        (v.host = s.host ++ [.command cause.protection] ∨
          v.host = s.host ++ done0 ∧ ∃ b l u, b + l ≤ x.team.accrows ∧ v.team? team = some u ∧
            u = { x.team with awb := b, awl := l, heats := u.heats } ∧ (u.heat? (.heat 0 0)).map Heat.fibres = some x.heat.fibres)) ∧
    (∀ x, s.commandable driver ctx team cl e (.syswr e) x → x.team.leader = true → x.fieldsCheck 0 [0] [readA e (sysRegs e.imm)] = none →
      x.met [readA e (sysRegs e.imm)] false 0 = [] →
      (e.imm = 0 → exec (.driverSyswr ⟨driver, ctx⟩ (some team) e w) s =
        .next ((s.put (x.setSeed 0 (seedOr (wd (x.val 0 e.a.toNat 1))))).tell (.command 0))) ∧
      (e.imm = 0x31 → x.handling [0] = true → exec (.driverSyswr ⟨driver, ctx⟩ (some team) e w) s =
        .next ((s.put (x.updFibre 0 fun f => { f with epc := dw (x.val 0 e.a.toNat 2) })).tell (.command 0)))) ∧
    (∀ (o : Option Nat) (c : Context), s.ctx? ctx = some c → c.driver = driver → (Instr.syswr e).wf = true → sysOfContext e.imm = true →
      ∃ v, exec (.driverSyswr ⟨driver, ctx⟩ o e w) s = .next v ∧ v = { s with ctxs := v.ctxs, host := s.host ++ done0 } ∧
        v.ctx? ctx = some (c.sysWrite e.imm.toNat w.toNat) ∧ ∀ d, d ≠ ctx → v.ctx? d = s.ctx? d) ∧
    (s.bound driver ctx = true → (Instr.syswr e).wf = true → sysOfContext e.imm = false →
      exec (.driverSyswr ⟨driver, ctx⟩ none e w) s = .next (s.tell (.command cause.protection))))

/-- R118, R119, R390 and R391: an entry of a place table is refused while a running task uses it, and else written; behind a valid entry that names
another unit than it last did stands a cluster in CACHE mode, its trigger counters copied or 0; repair entries are written. R104, R113, R142, R363,
R364, R377, R379 and R404: window registers, way partitions, contexts, bindings of peers, OWNER tags, the striped range, regions, decoders, recorded
classes, trigger counters and groups are written as they come. Of the model: what a new context holds beside its names (log entry 4), what memory loses to the
striped range (log entry 57), the numbers of repair entries and that a spare which another entry has is refused (log entry 54), and that a hub whose
core has failed takes no group (log entry 43). -/
def Obligations.TablesAndWindowsAreWritten : Prop :=
  (∀ s : State,
     (∀ kind l p, s.placeOk kind l p = false → exec (.placeTableWrite kind l p) s = .next (s.tell (.command 1))) ∧
     (∀ l p, s.placeOk .partition l p = true →
       exec (.placeTableWrite .partition l p) s = .next { s with partPl := s.partPl.set l p, host := s.host ++ done0 }) ∧
     (∀ cl l p d q, s.die? cl.die = some d → d.clusters[cl.loc]? = some q →
       let with_ (r : Cluster) : State := s.withDie cl.die { d with clusters := d.clusters.set cl.loc r } done0
       (s.placeOk (.bank cl) l p = true → exec (.placeTableWrite (.bank cl) l p) s = .next (with_ { q with bankPl := q.bankPl.set l p })) ∧
       (s.placeOk (.channel cl) l p = true → exec (.placeTableWrite (.channel cl) l p) s = .next (with_ { q with chanPl := q.chanPl.set l p })) ∧
       (s.placeOk (.trigger cl) l p = true → exec (.placeTableWrite (.trigger cl) l p) s = .next (with_ { q with trigPl := q.trigPl.set l p }))) ∧
     (∀ die l d, s.placeOk (.cluster die) l none = true → s.die? die = some d →
       exec (.placeTableWrite (.cluster die) l none) s = .next (s.withDie die { d with clusPl := d.clusPl.set l none } done0)) ∧
     (∀ die l p d q, s.placeOk (.cluster die) l (some p) = true → s.die? die = some d → d.clusters[l]? = some q → q.unit = none ∨ q.unit = some p →
       exec (.placeTableWrite (.cluster die) l (some p)) s =
         .next (s.withDie die { d with clusPl := d.clusPl.set l (some p), clusters := d.clusters.set l { q with unit := some p } } done0)) ∧
     (∀ die l p o d q, s.placeOk (.cluster die) l (some p) = true → s.die? die = some d → l < d.clusPl.length → d.clusters[l]? = some q →
       q.unit = some o → p ≠ o →
       ∃ t r, exec (.placeTableWrite (.cluster die) l (some p)) s = .next t ∧ t.cluster? { die := die, loc := l } = some r ∧
         (t.die? die).bind (fun d => d.clusPl[l]?) = some (some p) ∧ r.unit = some p ∧ (∀ b ∈ r.banks, b.mode = .cache ∧ b.fifo = none) ∧
         (r.trigs = q.trigs ∨ ((∀ w ∈ r.trigs, w = 0) ∧ HostEvent.counterLoss die l ∈ t.host))) ∧
     (∀ die d, s.die? die = some d → d.offline = true →
       (∀ i b, i < 64 → b < 4 → (∀ p ∈ d.slicePl, p.1 = i ∨ p.2 ≠ b) →
         exec (.repairTableWrite (.l2Slice die) i b) s = .next (s.withDie die { d with slicePl := SMap.set d.slicePl i b } done0)) ∧
       (∀ k i b, s.hasLink k = true → i < 64 → b < 4 → (∀ p ∈ d.lanePl, p.1 = 64 * k + i ∨ p.2 ≠ b ∨ p.1 / 64 ≠ k) →
         exec (.repairTableWrite (.lane die k) i b) s = .next (s.withDie die { d with lanePl := SMap.set d.lanePl (64 * k + i) b } done0)) ∧
       (∀ i b, s.product = .ks4n → i < 64 → b = i / 32 → (∀ p ∈ d.hbmPl, p.1 = i ∨ p.2 ≠ b) →
         exec (.repairTableWrite (.hbm die) i b) s = .next (s.withDie die { d with hbmPl := SMap.set d.hbmPl i b } done0))) ∧
     (∀ cl bank i b d q, s.die? cl.die = some d → d.clusters[cl.loc]? = some q → s.bankQuiet cl bank = true → i < 256 → b < 8 →
       (∀ p ∈ q.rows, p.1 = 256 * bank + i ∨ p.2 ≠ b ∨ p.1 / 256 ≠ bank) →
       exec (.repairTableWrite (.bankRow cl bank) i b) s =
         .next (s.withDie cl.die { d with clusters := d.clusters.set cl.loc { q with rows := SMap.set q.rows (256 * bank + i) b } } done0))) ∧
  (∀ s : State,
     (∀ die i base size tgt d, s.die? die = some d → i < 16 → base % 2 ^ 28 = 0 → size % 2 ^ 28 = 0 → s.hasPort tgt = true →
       exec (.windowRegisterWrite die i base size tgt) s = .next (s.withDie die
         { d with windows := d.windows.set i (some { base := base, size := size, target := tgt, stale := decide (tgt ∈ s.gone) }) } done0)) ∧
     (∀ die masks d, s.die? die = some d → masks.length = 8 →
       exec (.configRegisterWrite (.wayPartition die masks)) s = .next (s.withDie die { d with waypart := masks } done0)) ∧
     (∀ ctx pasid vf root r2 driver, s.ctx? ctx = none → exec (.configRegisterWrite (.context ctx pasid vf root r2 driver)) s =
       .next { s with ctxs := s.ctxs ++ [newContext ctx pasid vf driver root r2], host := s.host ++ done0 }) ∧
     (∀ ctx device peer c, s.ctx? ctx = some c → s.product = .ks4n → device < 1024 →
       ∃ t, exec (.configRegisterWrite (.peerBinding ctx device peer)) s = .next t ∧ t = { s with ctxs := t.ctxs, host := s.host ++ done0 } ∧
         ∃ v, t.ctx? ctx = some v ∧ v = { c with peers := v.peers } ∧ v.peers.find? (fun p => p.1 = device) = some (device, peer)) ∧
     (∀ tag ctx, exec (.configRegisterWrite (.ownerTag tag ctx)) s = .next { s with owners := SMap.set s.owners tag.toNat ctx, host := s.host ++ done0 }) ∧
     (∀ size, size % (2 ^ 30 * s.dies.length) = 0 → size ≤ s.dies.length * s.product.dieBytes →
       ∃ t, exec (.configRegisterWrite (.striped size)) s = .next t ∧ t = { s with stripe := size, mem := t.mem, poison := t.poison, host := s.host ++ done0 } ∧
         ∀ a, (t.homeOf a).isSome = true → Memory.get t.mem a = Memory.get s.mem a) ∧
     (∀ port e i base size r, s.expanderAt port = some e → i < 8 → blockRange base size = some r →
       (∃ t, exec (.configRegisterWrite (.dcRegion port i base size)) s = .next t ∧ t.expanderAt port = some { e with regions := e.regions.set i r } ∧
         t = { s with expander := t.expander, beyond := t.beyond, host := s.host ++ done0 }) ∧
       (∃ t, exec (.configRegisterWrite (.decoder port i base size)) s = .next t ∧ t.expanderAt port = some { e with decoders := e.decoders.set i r } ∧
         t = { s with expander := t.expander, beyond := t.beyond, host := s.host ++ done0 })) ∧
     (∀ cl trig k v, trig < 64 → s.trigOf cl (BitVec.ofNat 8 trig) = some k →
       exec (.configRegisterWrite (.triggerCounter cl trig v)) s = .next ((s.raiseTrig cl k v).tell (.command 0))) ∧
     (∀ tenant page cls, s.holdsPage tenant page = true → (∀ c ∈ s.changes, c.page ≠ page) → (∀ p ∈ s.posted, p.inPage page = false) →
       s.changeWaits page = false → s.clear none (s.recorded (4096 * page)) (s.changeLines page cls) = true →
       ∃ t, exec (.configRegisterWrite (.recordedClass tenant page cls)) s = .next t ∧ t.recorded (4096 * page) = cls) ∧
     (∀ ctx g e c, s.ctx? ctx = some c → s.product = .ks4n → g < 256 → groupOk e = true → (∃ d ∈ s.dies, d.coreUp 6 = true) → (∀ t ∈ s.teams, t.ctx = ctx → t.xfers = []) →
       ∃ t, exec (.groupTableWrite ctx g (some e)) s = .next t ∧ t = { s with ctxs := t.ctxs, host := s.host ++ done0 } ∧
         t.group? ctx g = some { entry := e, last := [], open_ := [] }))

/-- R364, R365, R369, R372, R405 and R406: extents of dynamic capacity are added within a region and a decoder, and released once no host holds a line
of them and no task of the tenant runs, their memory zero; sessions fill, change and leave their key slots; measurements are reported, a good firmware
image is taken and a bad one refused, and a task image is registered. Where the addresses of an extent lie (log entry 32), that it lies in a region
and a decoder (log entry 55), the value of the signature and the function that derives an identifier (log entry 30) are the model's. -/
def Obligations.CapacitySessionsAndAttestation : Prop :=
  ∀ s : State,
    (∀ port e tenant host dpa blocks, s.expanderAt port = some e → blocks ≠ 0 → dpa % 2 ^ 28 = 0 → dpa + blocks * 2 ^ 28 ≤ s.expanderBytes port →
      covered e.regions dpa (blocks * 2 ^ 28) = true → covered e.decoders dpa (blocks * 2 ^ 28) = true →
      (∀ g ∈ e.extents, g.dpa + g.size ≤ dpa ∨ dpa + blocks * 2 ^ 28 ≤ g.dpa) →
      ∃ t, exec (.dcAddExtent ⟨port, tenant⟩ host dpa blocks) s = .next t ∧
        t = { s with expander := t.expander, beyond := t.beyond, mem := t.mem, ulines := t.ulines, poison := t.poison, host := s.host ++ done0 } ∧
        t.expanderAt port = some { e with extents := e.extents ++ [{ tenant := tenant, host := host, dpa := dpa, size := blocks * 2 ^ 28 }] } ∧
        ∀ pa, s.inDpa port dpa (blocks * 2 ^ 28) pa = true → Memory.get t.mem pa = 0) ∧
    (∀ port e dpa g, s.expanderAt port = some e → (e.extents.find? fun h => h.dpa = dpa) = some g →
      (s.heldIn port g = [] → (port = none → s.tasksOf g.tenant = false) →
        ∃ t, exec (.dcReleaseExtent ⟨port, dpa⟩) s = .next t ∧ (∃ x, t.expanderAt port = some x ∧ ∀ h, h ∈ x.extents ↔ h ∈ e.extents ∧ h.dpa ≠ dpa) ∧
          HostEvent.command 0 ∈ t.host ∧ ∀ pa, s.inDpa port g.dpa g.size pa = true → Memory.get t.mem pa = 0) ∧
      (s.heldIn port g ≠ [] → ∃ t, exec (.dcReleaseExtent ⟨port, dpa⟩) s = .next t ∧ t = { s with snoops := t.snoops, host := t.host } ∧
        ∀ p ∈ s.heldIn port g, ∀ h ∈ p.2, ∃ n ∈ t.snoops, n.line = p.1 ∧ n.host = h)) ∧
    (∀ die slot ctx p tenant session key d old c x, s.die? die = some d → d.coreUp 5 = true → d.keys[slot]? = some old → slot < 64 → p < 4 → .cxl p ∉ s.gone →
      s.ctx? ctx = some c → c.killed = false → s.expander? p = some x →
      ∃ t y, exec (.keyExchange (.slot die slot) ctx p tenant session key true) s = .next t ∧
        t = { s with dies := t.dies, beyond := t.beyond, host := s.host ++ done0 } ∧
        t.keySlot die slot = some { ctx := ctx, expander := p, session := session, key := key, counter := 0 } ∧ t.expander? p = some y ∧
        y.session? session = some { id := session, tenant := tenant, keys := [(0, key)] } ∧ ∀ a ∈ y.accepted, a.1 ≠ session) ∧
    (∀ die slot key k x, s.keySlot die slot = some k → s.expander? k.expander = some x →
      ∃ t, exec (.keyUpdate (some die) slot key) s = .next t ∧ t = { s with dies := t.dies, beyond := t.beyond, host := s.host ++ done0 } ∧
        t.keySlot die slot = some { k with key := key } ∧ t.expander? k.expander = some { x with live := x.live.map fun l =>
          if l.id = k.session then { l with keys := (k.counter + 1, key) :: l.keys } else l }) ∧
    (∀ die slot k, s.keySlot die slot = some k →
      ∃ t, exec (.endSession (some die) slot) s = .next t ∧ t = { s with dies := t.dies, beyond := t.beyond, host := s.host ++ done0 } ∧
        t.keySlot die slot = none ∧ ∀ x, t.expander? k.expander = some x → ∀ l ∈ x.live, l.id ≠ k.session) ∧
    (∀ id ctx p tenant session key, s.product = .ks4x →
      (∃ t, exec (.keyExchange (.node id) ctx p tenant session key true) s = .next t ∧ t = { s with expander := t.expander, host := s.host ++ done0 } ∧
        t.expander.session? id = some { id := id, tenant := tenant, keys := [(0, key)] }) ∧
      ((s.expander.session? id).isSome = true →
        (∃ t, exec (.keyUpdate none id.toNat key) s = .next t ∧ t = { s with expander := t.expander, host := s.host ++ done0 }) ∧
        ∃ t, exec (.endSession none id.toNat) s = .next t ∧ t = { s with expander := t.expander, host := s.host ++ done0 } ∧ t.expander.session? id = none)) ∧
    (∀ r, ∃ sig, exec (.getMeasurements r) s =
      .next { s with freeCtr := s.freeCtr + 1, host := s.host ++ [.measurements (r :: s.layers.map Layer.measurement ++ s.repairs) sig] }) ∧
    (∀ (f : Firmware) l, s.layers[f.layer]? = some l → f.layer ≠ 0 → f.signatureOk = true → f.measurable = true → l.rollback ≤ f.version →
      ∃ t, exec (.firmwareImageLoad f) s = .next t ∧ t = { s with layers := t.layers, host := s.host ++ done0 } ∧
        t.layers.map (fun k => (k.measurement, k.version, k.rollback)) =
          (s.layers.set f.layer { l with measurement := f.measurement, version := f.version }).map (fun k => (k.measurement, k.version, k.rollback)) ∧
        ∀ hub, t.layers[1]? = some hub → hub.cdi = Config.deriveCdi Config.deviceSecret hub.measurement ∧
          ∀ (k : Nat) cp, t.layers[k + 2]? = some cp → cp.cdi = Config.deriveCdi hub.cdi cp.measurement) ∧
    (∀ (f : Firmware) l, s.layers[f.layer]? = some l → f.signatureOk = false ∨ f.version < l.rollback ∨ f.measurable = false →
      exec (.firmwareImageLoad f) s = .next (s.tell (.command 1))) ∧
    (∀ port e tenant hash ctx kent text args part, s.expanderAt port = some e →
      ∃ t x, exec (.taskImageRegistration ⟨port, tenant⟩ hash ctx kent text args part) s = .next t ∧
        t = { s with expander := t.expander, beyond := t.beyond, host := s.host ++ done0 } ∧ t.expanderAt port = some x ∧
        (x.images.find? fun m => m.tenant = tenant ∧ m.hash = hash) =
          some { tenant := tenant, hash := hash, ctx := ctx, kent := kent, text := text, args := args, part := part })

/-- R321, R324, R325 and R327 to R330: a described queue starts empty; a store to its tail register moves the tail within the slots or counts an
error, and any other store to its block counts one; a published entry that passes every check at its home die is admitted and leaves the queue, an
unpublished one waits; a reservation round asks, answers, repeats, commits and releases. The number of the hub as a keeper is the model's (log entry 10). -/
def Obligations.QueuesAndAdmission : Prop :=
  ∀ s : State,
    (∀ q d, s.queueOk d = true → ∃ t, exec (.queueDescribe q d) s = .next t ∧ t = { s with queues := t.queues, host := s.host ++ done0 } ∧
      t.queue? q = some { id := q, desc := d, head := 0, tail := 0, errors := 0, noted := none, cand := none, revoked := false, server := s.serverOf d.home }) ∧
    (∀ vf idx (v : Word) q, s.queueAt vf idx = some q →
      let good := 1 ≤ (v - q.tail).toNat ∧ (v - q.tail).toNat < 2 ^ 31 ∧ (v - q.head).toNat ≤ 2 ^ q.desc.n
      ∃ t, exec (.tailRegisterStore vf idx v) s = .next t ∧ t = { s with queues := t.queues } ∧
        (good → t.queue? q.id = some { q with tail := v }) ∧ (¬ good → t.queue? q.id = some { q with errors := q.errors + 1 })) ∧
    (∀ vf ofs width q, s.queueAt vf (ofs / 64) = some q → ofs % 64 ≠ 0 ∨ width ≠ 4 →
      ∃ t, exec (.notifyPageOtherStore vf ofs width) s = .next t ∧ t = { s with queues := t.queues } ∧
        t.queue? q.id = some { q with errors := q.errors + 1 }) ∧
    (∀ q v e s1, s.queue? q = some v → v.cand = none → v.head ≠ v.tail →
      s.cpRead v.server v.desc.ctx (v.desc.base + 128 * (v.head.toNat % 2 ^ v.desc.n)) 128 = .ok (e, s1) →
      ∀ i, i = .entryConsume q ∨ i = .entryReread q →
      (bytesOf e 0 4 ≠ v.head.toNat → exec i s = .next s1) ∧
      (∀ args fs s2 u, bytesOf e 0 4 = v.head.toNat → entryOk e = true → s1.readMeet v.server v.desc.ctx (bytesOf e 24 8) = .ok (args, fs, s2) →
        let m := s2.newMeet v e args fs
        let s3 := { s2 with nextId := s2.nextId + 1, meets := s2.meets ++ [m] }
        s2.meet? s2.nextId = none → s3.admitEarly m = none → (∀ k ∈ s3.keepersOf m, k = m.home) → s3.keeperTest m m.home (s3.timeLeft m m.home) = 0 →
        s3.takeTokens m = some u →
        ∃ t w, exec i s = .next t ∧ t.queue? q = some w ∧ w.desc = v.desc ∧ w.head = v.head + 1 ∧ t.meet? s2.nextId = some { m with st := .admitted })) ∧
    (∀ q v c m keeper, s.candidate q = some (v, c, m) → keeper ∈ s.keepersOf m → keeper ≠ m.home → (∀ p ∈ c.answered, p.1 ≠ keeper) →
      let left : Int := (m.deadline : Int) - ((s.homeTime m : Int) - (m.t0 : Int)) - 10000 - dlMargin m.deadline
      ∃ t, exec (.reservationRequest q m.id keeper) s = .next t ∧ t = { s with queues := t.queues, meets := t.meets } ∧
        t.queue? q = some { v with cand := some { c with
          asked := (keeper, s.homeTime m) :: c.asked, answered := c.answered ++ [(keeper, s.keeperTest m keeper left)] } } ∧
        t.meet? m.id = some { m with
          dls := m.dls ++ [{ keeper := keeper, on := s.serverOf keeper, dl := (s.clockOf (s.serverOf keeper) : Int) + left, commit := false }] }) ∧
    (∀ q v c m keeper sent u, s.candidate q = some (v, c, m) → c.asked = [(keeper, sent)] → s.homeTime m ≤ sent + 10000 →
      (∀ k ∈ s.keepersOf m, ∃ p ∈ c.answered, p.1 = k) → (∀ p ∈ c.answered, p.2 ≠ 3 ∧ p.2 ≠ 2) → s.admitEarly m = none → s.takeTokens m = some u →
      ∃ t w, exec (.reservationAnswer q m.id keeper) s = .next t ∧ t.queue? q = some w ∧ w.desc = v.desc ∧ w.head = v.head + 1 ∧
        t.meet? m.id = some { m with st := .admitted, rhos := m.rhos ++ [(keeper, s.homeTime m - sent)] }) ∧
    (∀ q v c m, s.candidate q = some (v, c, m) → (∃ p ∈ c.asked, p.2 + 10000 < s.homeTime m) → (∃ k ∈ s.keepersOf m, k ≠ m.home) →
      ∃ t a, exec (.reservationTimeout q) s = .next t ∧ t = { s with queues := t.queues, meets := t.meets } ∧
        t.queue? q = some { v with cand := some { meet := m.id, asked := [], answered := a } } ∧ (∀ p ∈ a, p.1 = m.home) ∧
        t.meet? m.id = some { m with dls := m.dls.filter (fun k => k.keeper = m.home), rhos := [] }) ∧
    (∀ meet m keeper p, s.meet? meet = some m → m.live = true → (m.rhos.find? fun p => p.1 = keeper) = some p →
      ∃ t, exec (.reservationCommit m.queue meet keeper) s = .next t ∧ t = { s with meets := t.meets } ∧
        t.meet? meet = some { m with dls := m.dls.map fun k =>
          if k.keeper = keeper ∧ k.commit = false then { k with dl := k.dl + 10000 - p.2, commit := true } else k }) ∧
    (∀ q v c m keeper, s.candidate q = some (v, c, m) → keeper ≠ m.home →
      ∃ t, exec (.reservationRelease q keeper) s = .next t ∧ t = { s with queues := t.queues, meets := t.meets } ∧
        t.queue? q = some { v with cand := some { c with
          asked := c.asked.filter (fun p => p.1 ≠ keeper), answered := c.answered.filter (fun p => p.1 ≠ keeper) } } ∧
        t.meet? m.id = some { m with dls := m.dls.filter fun k => k.keeper ≠ keeper })

/-- R331 and R332: at a lap boundary every tenant's refill first repays its debt and then adds tokens, never beyond its rate; the tokens of those who
lend make the pool and leave them; before its time no boundary comes. The host sets the lap length from 100 microseconds to 100 ms, for the next
boundary, and the hypervisor the record of a tenant. R30, R327, R328 and R338: a partition that no live meet names takes clusters of one die or whole
dies, with the capacity of its enabled clusters and a limit of 0.90 until they are set; a partition that one names keeps its clusters; a partition is
granted to a tenant; the meets of a revoked tenant or queue end ABORTED. Of the model: that a new tenant has no tokens until the next lap (log entry 4),
that a meet which was terminated and has not completed keeps its tenant from lending (log entry 42), and that a partition configured anew has the capacity
and the limit of a new one (log entry 86). -/
def Obligations.LapsTenantsAndPartitions : Prop :=
  (∀ s : State,
     (∀ u : Tenant, s.lends u = true ↔ u.lend = true ∧ (∀ m ∈ s.meets, m.tenant = u.id → m.st = .deciding ∨ m.st = .completed) ∧
       ∀ q ∈ s.queues, q.desc.tenant = u.id → q.head = q.tail) ∧
     (s.hubClock < s.nextLap → exec .lapBoundary s = .next s) ∧
     (s.nextLap ≤ s.hubClock →
       let refilled (u : Tenant) : Tenant := { u with
         debt := u.debt - min u.debt u.rate, tokens := min (u.tokens + u.rate - min u.debt u.rate) u.rate }
       ∃ t, exec .lapBoundary s = .next t ∧
         t = { s with tenants := t.tenants, pool := t.pool, lapNs := s.lapNew, nextLap := s.nextLap + s.lapNew } ∧
         (∀ id u, s.tenant? id = some u →
           t.tenant? id = some (if s.lends (refilled u) then { refilled u with tokens := 0 } else refilled u)) ∧
         (∀ u ∈ t.tenants, u.tokens ≤ u.rate) ∧
         t.pool = (((s.tenants.map refilled).filter s.lends).map Tenant.tokens).sum) ∧
     (∀ us, 100 ≤ us → us ≤ 100000 → exec (.lapLengthSet us) s = .next { s with lapNew := 1000 * us, host := s.host ++ done0 }) ∧
     (∀ us, us < 100 ∨ 100000 < us → exec (.lapLengthSet us) s = .next (s.tell (.command cause.protection))) ∧
     (∀ id rate pol lend borrow,
       ∃ t, exec (.tenantRecordSet id rate pol lend borrow) s = .next t ∧ t = { s with tenants := t.tenants } ∧
         (∀ u, s.tenant? id = some u → t.tenant? id = some { u with rate := rate, policy := pol, lend := lend, borrow := borrow }) ∧
         (s.tenant? id = none → t.tenant? id = some
           { id := id, rate := rate, tokens := 0, debt := 0, policy := pol, lend := lend, borrow := borrow, parts := [], revoked := false }) ∧
         ∀ j, j ≠ id → t.tenant? j = s.tenant? j)) ∧
  (∀ (s : State) (part : Nat),
     ((∀ m ∈ s.meets, m.live = true → ∀ p ∈ m.parts, (s.partPl[p]?).join ≠ some part) →
       (∀ die locs, die < s.dies.length → (∀ l ∈ locs, l < 24) →
         ∃ t p, exec (.partitionConfig part (.clusters die locs)) s = .next t ∧ t = { s with parts := t.parts } ∧ t.part? part = some p ∧
           p.whole = false ∧ p.util = 90 ∧ t.capOf p = 48000 * (t.clustersOf p).length ∧ ∀ c, c ∈ p.locs ↔ c.die = die ∧ c.loc ∈ locs) ∧
       (∀ ds, (∀ d ∈ ds, d < s.dies.length) →
         ∃ t p, exec (.partitionConfig part (.dies ds)) s = .next t ∧ t = { s with parts := t.parts } ∧ t.part? part = some p ∧
           p.whole = true ∧ p.util = 90 ∧ t.capOf p = 48000 * (t.clustersOf p).length ∧ ∀ d, d ∈ p.dies ↔ d ∈ ds)) ∧
     (∀ m ∈ s.meets, m.live = true → (∃ p ∈ m.parts, (s.partPl[p]?).join = some part) →
       (∀ die locs, exec (.partitionConfig part (.clusters die locs)) s = .next (s.tell (.command cause.protection))) ∧
       ∀ ds, exec (.partitionConfig part (.dies ds)) s = .next (s.tell (.command cause.protection))) ∧
     (∀ p, s.part? part = some p →
       (∀ c, ∃ t, exec (.partitionConfig part (.capacity c)) s = .next t ∧ t = { s with parts := t.parts } ∧ t.part? part = some { p with cap := some c }) ∧
       ∀ u, 50 ≤ u → u ≤ 100 →
         ∃ t, exec (.partitionConfig part (.limit u)) s = .next t ∧ t = { s with parts := t.parts } ∧ t.part? part = some { p with util := u }) ∧
     (∀ tn u, s.tenant? tn = some u → ∃ t w, exec (.partitionConfig part (.grant tn)) s = .next t ∧ t = { s with tenants := t.tenants } ∧
       t.tenant? tn = some w ∧ w = { u with parts := w.parts } ∧ ∀ p, p ∈ w.parts ↔ p ∈ u.parts ∨ p = part) ∧
     ((s.meets.map Meet.id).Nodup →
       (∀ tenant u, s.tenant? tenant = some u →
         ∃ t w, exec (.tenantRevoke tenant none) s = .next t ∧ t.tenant? tenant = some w ∧ w.revoked = true ∧
           ∀ m ∈ s.meets, m.tenant = tenant → m.live = true →
             ∃ n, t.meet? m.id = some n ∧ (n.st = .terminated .aborted 0 ∨ n.st = .completed)) ∧
       (∀ tenant q v, s.queue? q = some v →
         ∃ t w, exec (.tenantRevoke tenant (some q)) s = .next t ∧ t.queue? q = some w ∧ w.revoked = true ∧
           ∀ m ∈ s.meets, m.queue = q → m.task = none → m.live = true →
             ∃ n, t.meet? m.id = some n ∧ (n.st = .terminated .aborted 0 ∨ n.st = .completed))))

/-- R45 to R50, R330 and R335 to R337: a meet whose keepers hold its deadline is launched with the first team of every field; batches are handed out
and their teams placed; a team whose work is done writes its dirty PRIV lines back, releases its stores, retires and counts as completed; a charge report reaches the home die, and ends a meet over its
budget under TERMINATE; a save is asked of the victim. Of the model: that the schedule answers how long a reservation's message took (log entry 2). -/
def Obligations.MeetsRunAndRetire : Prop :=
  ∀ (s : State) (meet : Nat) (m : Meet), s.meet? meet = some m →
    (∀ u, m.st = .admitted → s.committed m = true → s.argsAway m = false → (∀ p ∈ m.parts, s.firstOn m p = true) →
      (s.setMeet { m with st := .launched }).launchFrom { m with st := .launched } 0 m.fields.length = some u →
      exec (.meetLaunch meet) s = .next u ∧ u.teams.length = s.teams.length + m.fields.length ∧
        ∃ n, u.meet? meet = some n ∧ n.st = .launched ∧ ∀ f ∈ n.fields, f.handed = 1 ∧ f.placed = 1) ∧
    (∀ field die count f p, m.fields[field]? = some f → m.st = .launched → s.partOf f.part = some p → (∃ c ∈ s.clustersOf p, c.die = die) → 1 ≤ count →
      count ≤ 64 → f.handed + count ≤ f.teams → f.handedTo die + count ≤ s.slotsOn m field die (f.handedTo die + count) →
      ∃ t n, exec (.batchHandout meet field die count) s = .next t ∧ t = { s with meets := t.meets, oracle := s.oracle.tail.tail } ∧ t.meet? meet = some n ∧
        n.fields[field]? = some { f with handed := f.handed + count, handouts := f.handouts ++ [(die, f.handed, count)] }) ∧
    (∀ field cl cores f p index left u, m.fields[field]? = some f → m.st = .launched → s.partOf f.part = some p → cl ∈ s.clustersOf p →
      (∀ t ∈ s.teams, t.meet = meet → s.restorable t = false) → s.firstOn m f.part = true → takeBatch cl.die f.handouts = some (index, left) →
      s.placeTeam m field index cl cores = some u →
      ∃ t n, exec (.teamPlacement meet field cl cores) s = .next t ∧ t.teams = u.teams ∧ t.teams.length = s.teams.length + 1 ∧ t.meet? meet = some n ∧
        n.fields[field]? = some { f with handouts := left, placed := f.placed + 1 }) ∧
    (∀ (team : Nat) (t : Team) (f : Field), s.team? team = some t → t.meet = meet → m.fields[t.field]? = some f → t.st = .resident → t.alive = false →
      s.copiesDone t = true →
      let a := s.cleanLevels t.ownLevel
      a.clear none .phase (a.teamLines t) = true → (∀ l ∈ a.teamLines t, a.awaitsU (64 * l) = false) →
      ∀ r, (a.releaseTeam t).team? team = some r → r.owes = false →
      ∃ v w n g, exec (.teamRetirement team) s = .next v ∧ v.team? team = some w ∧ w.st = .retired ∧ (∀ y ∈ w.xfers, y.unstarted = false) ∧
        v.meet? meet = some n ∧ n.fields[t.field]? = some g ∧ g.completed = f.completed + 1 ∧
        (∀ c, v.cluster? t.cl = some c → c.pacer ≠ some team ∧ ∀ ch ∈ c.chans, ch.owner ≠ some team) ∧
        (∀ c ∈ v.lines, t.ownLevel c.level = true → c.cls = .priv → c.dirtyBytes = []) ∧
        (∀ c, s.MemOk → (s.lines.filter fun d => t.ownLevel d.level && decide (d.cls = .priv) && !d.dirtyBytes.isEmpty) = [c] → c.chunk = none →
          s.pathFault c.level.die (64 * c.line) = none → s.classCheck (64 * c.line) .priv = .ok () → c.line ∉ s.poison →
          ∀ p ∈ c.dirtyBytes, Memory.get a.mem p.1 = p.2) ∧
        (f.completed + 1 < f.teams → v.mem = (a.releaseTeam t).mem ∧
          ∀ u x, s.MemOk → t.refs = [u] → a.site? u = some x → t.tmLayer = [] → (∀ l ∈ t.sqLayer, l = []) → a.wide = [] →
            (x.heat.ws.map WsByte.pa).Nodup → (∀ b ∈ x.heat.ws, b.pack = none ∧ a.pathFault t.cl.die b.pa = none ∧ b.pa / 64 ∉ a.poison) →
            ∀ b ∈ x.heat.ws, Memory.get v.mem b.pa = b.byte)) ∧
    (∀ die, m.live = true →
      let r := SMap.set m.reports die ((SMap.get? m.sums die).getD 0)
      ((r.map Prod.snd).sum < m.budget → ∃ t, exec (.chargeReport meet die) s = .next t ∧ t = { s with meets := t.meets } ∧
        t.meet? meet = some { m with reports := r }) ∧
      (m.budget ≤ (r.map Prod.snd).sum → (s.tenant? m.tenant).map Tenant.policy ≠ some .grace →
        ∃ t, exec (.chargeReport meet die) s = .next t ∧ ∀ n, t.meet? meet = some n → n.live = false)) ∧
    (∀ part v c d, s.readyOn m part = true → s.victim m part = some v → s.cluster? v.cl = some c → c.saving = none → s.die? v.cl.die = some d →
      d.savings < 6 →
      ∃ t, exec (.saveRequest part meet) s = .next t ∧ t = { s with dies := t.dies } ∧ t.cluster? v.cl = some { c with saving := some v.id })

end

/-! ### Translations, saves, arrivals, swaps and coherence -/

section
open Sys2Proof Sys2Proof.Machine

/-- R340, R341, R343, R345 and R346: a walk brings the lines of the tables that it reads into an L2, as a load does, and one that finds a page fills its
structure; a shootdown drops exactly the entries that it names and is complete once no write that was translated before it is still on its way; an answer to a page request reaches the saved teams of its generation and no other; a pool joins its context;
a kill raises the generation and ends the context's meets. Of the
model: which walks leave an entry in a structure (log entry 8). -/
def Obligations.TranslationsAndPageRequests : Prop :=
  ∀ (s : State) (ctx : Nat) (c : Context), s.ctx? ctx = some c →
    (∀ (tlb : TlbId) (va : Pc), Reads s (s.walked tlb ctx va.toNat) ∧ (s.walked tlb ctx va.toNat).tlb = s.tlb ∧
      ∀ kind, c.walk s.mem (s.place (tlbDie tlb)) va.toNat = none →
        exec (.pageWalkCompletion ctx tlb va kind) s = .next (s.walked tlb ctx va.toNat)) ∧
    (∀ tlb va h, c.walk s.mem (s.place (tlbDie tlb)) va.toNat = some h →
      let w := s.walked tlb ctx va.toNat
      let filled (t : State) : Prop := t = { w with tlb := t.tlb } ∧
        t.tlb.head? = some { tlb := tlb, ctx := ctx, base := h.base, size := h.size, leaf := BitVec.ofNat 128 h.leaf }
      (∀ kind, h.allows kind = true → ∃ t, exec (.pageWalkCompletion ctx tlb va kind) s = .next t ∧ filled t) ∧
      (∀ kind, h.allows kind = false → exec (.pageWalkCompletion ctx tlb va kind) s = .next w) ∧
      ((∀ cl, tlb ≠ .pacer cl) → ∃ t, exec (.atsCompletion ctx tlb va) s = .next t ∧ filled t)) ∧
    (∀ lo size tlbs,
      let gone (e : TlbEntry) : Bool := decide (e.ctx = ctx ∧ e.tlb ∈ tlbs ∧ e.base < lo + size ∧ lo < e.base + e.size)
      ∃ t, exec (.shootdown ctx lo size tlbs) s = .next t ∧ t = { s with tlb := t.tlb, shoots := t.shoots, host := t.host } ∧
        (∀ e, e ∈ t.tlb ↔ e ∈ s.tlb ∧ gone e = false) ∧ (s.posted = [] → HostEvent.shootdownDone ctx ∈ t.host) ∧
        ∀ p ∈ s.posted, p.id ∈ s.postedThrough ctx tlbs lo size → ∃ h ∈ t.shoots, h.ctx = ctx ∧ p.id ∈ h.left) ∧
    (∀ gen page a, gen ≠ c.gen → exec (.pageResponse ctx gen page a) s = .next s) ∧
    (∀ page a id t p, s.team? id = some t → t.ctx = ctx → t.st = .saved → p ∈ t.pages → p.page = page → p.done = false → p.failed = false → p.tries ≠ 0 →
      (∀ u ∈ s.teams, u.ctx = ctx → ∀ q ∈ u.xfers, q.held ≠ some page) →
      let found := c.walk s.mem (s.place t.cl.die) (4096 * page)
      ∃ v w, exec (.pageResponse ctx c.gen page a) s = .next v ∧ v.team? id = some w ∧
        (a ≠ .success → { p with failed := true } ∈ w.pages) ∧
        (a = .success → found.isSome = true → { p with done := true } ∈ w.pages) ∧
        (a = .success → found = none → 4 ≤ p.tries → { p with failed := true } ∈ w.pages) ∧
        (a = .success → found = none → p.tries < 4 → { p with tries := p.tries + 1 } ∈ w.pages ∧
          (c.root2 = none → HostEvent.pageRequest ctx c.gen page ∈ v.host) ∧
          ((c.walkGuest s.mem (s.place t.cl.die) (4096 * page)).isSome = true → HostEvent.stage2Fault ctx c.gen page ∈ v.host))) ∧
    (∀ die base n, die < s.dies.length → 2 ^ 41 * die ≤ base → base + n ≤ 2 ^ 41 * die + s.ownBytes →
      ∃ t, exec (.framePoolRegister ctx die ⟨base, n⟩) s = .next t ∧ t = { s with ctxs := t.ctxs } ∧
        t.ctx? ctx = some { c with pools := c.pools ++ [{ die := die, base := base, size := n }] }) ∧
    ((s.meets.map Meet.id).Nodup → ∃ t k, exec (.contextKill ctx) s = .next t ∧ t.ctx? ctx = some k ∧ k.gen = c.gen + 1 ∧ k.killed = true ∧
      ∀ m ∈ t.meets, m.ctx = ctx → m.live = false)

/-- R346 to R349 and R356: a team that waits for pages, or whose save is asked for and whose array entries rest, is saved with its registers and
storage, has its frame's place, and gives its units up, after the array entries that its ACCRDs wait for and its FIFO.GETs have answered; a load in flight leaves
its record in the frame; a saved team is restored when it is its turn and it fits; a value that arrives meanwhile goes into its frame. Of the model: that
the value is the one of the moment of the access (log entry 53), and where the frame stands (log entry 28). -/
def Obligations.SavesAndRestores : Prop :=
  ∀ (s : State) (team : Nat) (t : Team) (c : Cluster), s.team? team = some t → s.cluster? t.cl = some c →
    (t.st = .resident → t.wantsPages = true ∨ (c.saving = some team ∧ t.arrayRests = true) → s.frameFree t = true →
      let done := s.carryArray team t.arraySteps
      let after := ((done.team? team).map done.settle).getD done
      ∀ u d, after.team? team = some u → after.cluster? u.cl = some d →
      ∃ v w, exec (.contextSave team) s = .next v ∧ v.team? team = some w ∧ w.st = .saved ∧ w.heats.map Heat.fibres = u.heats.map Heat.fibres ∧
        w.acc = u.acc ∧ w.cshMem = u.cshMem ∧ w.scrMem = u.scrMem ∧ w.frame = u.records ∧
        (∀ q, v.cluster? u.cl = some q → q.pacer ≠ some team ∧ ∀ ch ∈ q.chans, ch.owner ≠ some team) ∧
        (t.awaitsArray = false → (∀ h ∈ t.heats, ∀ f ∈ h.flights, f.kind ≠ .fifoGet ∧ f.kind ≠ .accrd) → u = t ∧ w.frameAt.isSome = true)) ∧
    (∀ m v, s.restorable t = true → s.meet? t.meet = some m → m.live = true →
      let partAt (f : Nat) : Nat := ((m.fields[f]?).map Field.part).getD 0
      s.firstOn m (partAt t.field) = true →
      (∀ o ∈ s.teams, o.meet = t.meet → partAt o.field = partAt t.field → o.index < t.index ∨ (o.index = t.index ∧ o.field < t.field) →
        s.restorable o = false) → s.restoreTeam t = some v →
      exec (.contextRestore team) s = .next v ∧ ∃ w, v.team? team = some w ∧ w.st = .resident ∧ w.frame = []) ∧
    (∀ (u : UnitRef) (tag : BitVec 6) (i : Nat) (a : Arrival) (x : Site) (f : Flight) (el : FlightElem), s.site? u = some x → u.team = team →
      (x.heat.flights.find? fun g => g.tag = tag) = some f → (f.elems.find? fun e => e.fibre = i) = some el →
      FrameRec.await u tag i none ∈ t.frame →
      ∃ v w, exec (.awaitValueArrival u tag i a) s = .next v ∧
        v = { s with teams := v.teams, mem := v.mem, ulines := v.ulines, poison := v.poison, invals := v.invals } ∧ v.team? team = some w ∧
        FrameRec.await u tag i (some (arrivedAs f.ty el.deliv a)) ∈ w.frame)

/-- R59, R71, R72 and R351 to R353: what arrives for a tag resolves the records of the tag in the registers of its fibres, those of a held extended set
included: a value through their scale, offset and chain, a fault to a fault record; other registers stand, and the tag is free. A team's oldest deferred
trap enters the handler of its taker. Of the model: delivery strictly in the queue's order (log entry 44), and the handler's address of a %tvec above
2^56 or not a multiple of 4 (log entry 29). -/
def Obligations.ArrivalsAndDeferredTraps : Prop :=
  (∀ (s : State) (x : Site) (tag : BitVec 6) (f : Flight), s.site? x.u = some x → s.residentUnit x.u = true →
    (x.heat.flights.find? fun g => g.tag = tag) = some f → (∀ el ∈ f.elems, el.waits = .arrival) → (f.elems.map FlightElem.fibre).Nodup →
    let mine (b : Baton) : Prop := b.tag = tag ∧ b.st = .pending
    ∃ v y, exec (.valueArrival x.u tag) s = .next v ∧ v = { s with teams := v.teams } ∧ v.site? x.u = some y ∧
      (∀ el ∈ f.elems, ∀ r b, r < 128 ∨ x.holdsX = true → x.slot el.fibre r = .bat b → mine b →
        (∀ ws, el.deliv = .words ws → y.slot el.fibre r = .val (b.value ws)) ∧
        ∀ c info, el.deliv = .fault c info → y.slot el.fibre r = .bat { b with a := 1, b := 0, chain := [], st := .fault c f.pc info f.ord }) ∧
      (∀ k r, (∀ el ∈ f.elems, el.fibre ≠ k) ∨ (∀ b, x.slot k r = .bat b → ¬ mine b) → y.slot k r = x.slot k r) ∧
      ∀ g ∈ y.heat.flights, g.tag ≠ tag) ∧
  (∀ (s : State) (team : Nat) (d : DTrap) (x : Site) (is : List Nat), s.teamRuns team = true → s.deliverable team = some (d, x, is) →
    s.tvec x.team.ctx ≠ 0 →
    ∃ v y, exec (.deferredTrapDelivery team) s = .next v ∧ v = { s with teams := v.teams } ∧ v.site? x.u = some y ∧ y.team.dtraps = x.team.dtraps.tail ∧
      y.heat.tcause = tcauseOf x.team.lost (d.src == some .pacer) true (s.dRecord x d) ∧ y.heat.tpc = d.pc.setWidth 64 ∧
      (d.cause ≠ cause.budgetOverrun → y.heat.tinfo = d.info) ∧
      ∀ k, y.heat.fibre? k = (x.heat.fibre? k).map fun g => if k ∈ is then g.entered g.pc (s.tvec x.team.ctx) else g)

/-- R39: the longest-pending ready heat takes a free place of the active set, or that of a heat that waits on a long-latency dependence or has no
runnable batch; without a ready pending heat nothing changes; one that has been ready for 1,024 cycles of its die swaps with the longest-active heat; and a heat
that has issued 64 times in a row while another could becomes the youngest. Which of several blocked heats leaves is the model's choice (log entry
72), and so is when a swap comes about (log entry 2). -/
def Obligations.SwapsAndRotation : Prop :=
  ∀ (s : State) (cl : ClusterRef) (core track : Nat) (p a : Site), s.runsOn cl.die = true → s.site? p.u = some p → s.site? a.u = some a →
    let l : Lane := { cl := cl, core := some core, track := track }
    let swapped (v : State) : Prop := v = { s with teams := v.teams, nextId := s.nextId + 2 } ∧ ∃ y z, v.site? p.u = some y ∧ v.site? a.u = some z ∧
      y.heat = { p.heat with active := true, age := s.nextId + 1, since := s.nextId + 1, sinceAt := s.now, run := 0, ready := none } ∧
      z.heat = { a.heat with active := false, since := s.nextId, sinceAt := s.now, run := 0, ready := none }
    (longest ((s.pendingOn l).filter fun x => x.heat.ready.any fun r => r + s.span cl.die 1024 ≤ s.now) = some p → longest (s.activeOn l) = some a →
      ∃ v, exec (.forcedSwap cl core track) s = .next v ∧ swapped v) ∧
    (longest (s.pendingOn l) = none → exec (.pendingSwap cl core track) s = .next s) ∧
    (longest (s.pendingOn l) = some p → (s.activeOn l).length < 8 →
      ∃ v y, exec (.pendingSwap cl core track) s = .next v ∧ v = { s with teams := v.teams, nextId := s.nextId + 1 } ∧ v.site? p.u = some y ∧
        y.heat = { p.heat with active := true, age := s.nextId, since := s.nextId, sinceAt := s.now, run := 0, ready := none }) ∧
    (longest (s.pendingOn l) = some p → 8 ≤ (s.activeOn l).length → (s.activeOn l).find? Site.blocked = some a →
      ∃ v, exec (.pendingSwap cl core track) s = .next v ∧ swapped v) ∧
    (((s.activeOn l).find? fun x => 64 ≤ x.heat.run) = some a → (∃ b ∈ s.activeOn l, b.u ≠ a.u ∧ b.heat.ready.isSome) →
      ∃ v y, exec (.rotation cl core track) s = .next v ∧ v = { s with teams := v.teams, nextId := s.nextId + 1 } ∧ v.site? a.u = some y ∧
        y.heat = { a.heat with age := s.nextId, run := 0 })

/-- R126, R129, R139, R143, R144, R357 to R362, R366 to R368: leases, acknowledgements, recalls, evictions, snoops, accesses from outside and class
changes. Of the model: the numbers of the ports (log entry 9), the addresses of what lies behind a port (log entry 59), and that a write waits, posted,
for those who must answer (log entry 16). -/
def Obligations.CoherenceTransactions : Prop :=
  ∀ s : State,
    (∀ die line, ∃ t, exec (.leaseExpiry die line) s = .next t ∧ t = { s with lines := t.lines, pubs := t.pubs, teams := t.teams } ∧
      (∀ c, c ∈ t.lines ↔ c ∈ s.lines ∧ ¬ (c.cls = .phase ∧ c.line = line ∧ c.level.die = die ∧ c.lease ≤ s.now)) ∧
      (∀ p, p ∈ t.pubs ↔ p ∈ s.pubs ∧ s.now < p.till)) ∧
    (∀ u x, s.site? u = some x →
      (s.posted.filter fun p => p.by_ = some u).length + (s.pubs.filter fun p => p.u = u ∧ s.now < p.till).length < x.heat.unacked →
      ∃ t y, exec (.writeAcknowledgement u) s = .next t ∧ t = { s with teams := t.teams, pubs := t.pubs } ∧ t.site? u = some y ∧
        y.heat = { x.heat with unacked := x.heat.unacked - 1 }) ∧
    (∀ line, ∃ t, exec (.homeRequest (.returnU line)) s = .next t ∧ t = { s with mem := t.mem, ulines := t.ulines } ∧
      (∀ l, l ∈ t.ulines ↔ l ∈ s.ulines ∧ l.pa / 64 ≠ line) ∧ ∀ a, ¬ s.pendingAt a → Memory.get t.mem a = Memory.get s.mem a) ∧
    (∀ die line, ∃ t, exec (.homeRequest (.evict die line false)) s = .next t ∧ (∀ c ∈ t.lines, ¬ (c.line = line ∧ c.level.die = die)) ∧
      ((∀ c ∈ s.lines, c.line = line → c.level.die = die → c.dirtyBytes = [] ∧ c.chunk = none) → t = { s with lines := t.lines } ∧
        ∀ c, c ∈ t.lines ↔ c ∈ s.lines ∧ ¬ (c.line = line ∧ c.level.die = die))) ∧
    (∀ cl ts e r, SMap.get? s.filters (clusterNo cl) = some ts → s.victimEntry ts = some (e, r) →
      ∃ t, exec (.homeRequest (.recallFilter cl)) s = .next t ∧ SMap.get? t.filters (clusterNo cl) = some r ∧
        ∀ c, c ∈ t.lines ↔ c ∈ s.lines ∧ ¬ (c.cls ≠ .priv ∧ c.line = e.region ∧ ∃ k ∈ e.holders, c.level = .l0 cl k)) ∧
    (∀ e r, s.victimEntry s.portDir = some (e, r) →
      ∃ t, exec (.homeRequest .recallPort) s = .next t ∧ t.portDir = r ∧ (∀ l ∈ t.ulines, l.pa / 512 ≠ e.region) ∧
        ∀ c, c ∈ t.lines ↔ c ∈ s.lines ∧ ¬ (c.cls ≠ .priv ∧ c.line / 8 = e.region ∧ c.level.die ∈ e.holders)) ∧
    (∀ e r, s.victimEntry s.snoopFl = some (e, r) →
      ∃ t, exec (.homeRequest .recallSnoop) s = .next t ∧ t.snoopFl = r ∧ ∀ h ∈ e.holders, ∃ n ∈ t.snoops, n.line = e.region ∧ n.host = h) ∧
    (∀ p r, s.MemOk → s.posted = p :: r → p.left = [] → p.pack = none → s.notifyVf p.pa = none → (∀ k ∈ s.answerersOf p.src p.lines, 3000 ≤ k) →
      ∃ t, exec (.homeRequest (.postedWrite p.id)) s = .next t ∧ Memory.read t.mem p.pa p.bytes.length = p.bytes ∧ ∀ q ∈ t.posted, q.id ≠ p.id) ∧
    (∀ id h p, (s.posted.find? fun q => q.id = id) = some p → h ∈ p.left → h < 2000 →
      ∃ t, exec (.invalidationAck id h) s = .next t ∧ ∀ c ∈ t.lines, ¬ (c.line ∈ p.lines ∧ c.cls = .seq ∧ c.level.holder = h)) ∧
    (∀ id h, (s.posted.find? fun q => q.id = id) = none → 3000 ≤ h → h ≠ heldAtHome →
      ∃ t, exec (.invalidationAck id h) s = .next t ∧ t = { s with invals := t.invals } ∧ ∀ v ∈ t.invals, v.id = id → h ∉ v.left) ∧
    (∀ x d, x.ctx = none → s.notifyVf x.pa = none → s.homeOf x.pa = some d → (∃ e, s.die? d = some e ∧ e.down = false) → s.outside x.src x.pa = true →
      (∀ y ∈ s.outq, y.src ≠ x.src) → (∀ n ∈ s.snoops, n.line ≠ x.pa / 64) → (∀ c, x.cls = some c → s.classCheck x.pa c = .ok ()) →
      s.awaitsU x.pa = false → (∀ p ∈ s.posted, p.src ≠ some x.src) →
      (1 ≤ x.size → x.pa % 64 + x.size ≤ 64 → x.write = false → s.poisoned x.pa x.size = false →
        ∃ t, exec (.externalAccess x) s = .next t ∧ t.host.getLast? = some (.data (s.homeRead x.pa x.size).1) ∧ t.mem = (s.homeRead x.pa x.size).2.mem) ∧
      (s.MemOk → 1 ≤ x.bytes.length → x.pa % 64 + x.bytes.length ≤ 64 → x.write = true → x.pa / 64 ∉ s.poison → s.recorded x.pa = .seq →
        s.answerersOf (some x.src) [x.pa / 64] = [] →
        ∃ t, exec (.externalAccess x) s = .next t ∧ Memory.read t.mem x.pa x.bytes.length = x.bytes)) ∧
    (∀ port line, s.product = .ks4n → port ≤ 4 ∨ (16 ≤ port ∧ port < 16 + 1024) →
      let l := behindPort (portTarget port) (64 * line) / 64
      ∃ t, exec (.backInvalidateSnoop ⟨port, line⟩) s = .next t ∧ t.host = s.host ++ [.birsp line] ∧
        ∀ k, (s.portDir.find? fun e => e.region = l / 8) = some k → ∀ c ∈ t.lines, c.line = l → c.cls ≠ .priv → c.level.die ∉ k.holders) ∧
    (∀ port line, s.product = .ks4x → exec (.backInvalidateSnoop ⟨port, line⟩) s = .next s) ∧
    (∀ n, n ∈ s.snoops → n.held = [] → (∀ m ∈ s.snoops, m.line = n.line → m.host = n.host → m = n) → (∀ p ∈ s.posted, n.line ∉ p.lines) →
      ∃ t, exec (.birsp n.line n.host) s = .next t ∧ t = { s with snoops := s.snoops.erase n, snoopFl := t.snoopFl } ∧ n.host ∉ t.hostsOf n.line) ∧
    (∀ tenant page cls, s.holdsPage tenant page = true → (∀ c ∈ s.changes, c.page ≠ page) → exec (.classChange ⟨tenant, page⟩ cls) s =
      .next { s with changes := s.changes ++ [{ page := page, old := s.recorded (4096 * page), new := cls }] }) ∧
    (∀ tenant page cls, s.holdsPage tenant page = false → exec (.classChange ⟨tenant, page⟩ cls) s = .next (s.tell (.command cause.protection))) ∧
    (∀ page ch, (s.changes.find? fun c => c.page = page) = some ch → (∀ p ∈ s.posted, p.inPage page = false) → s.changeWaits page = false →
      s.clear none ch.old (s.changeLines page ch.new) = true →
      ∃ t, exec (.classTransition page) s = .next t ∧ t.recorded (4096 * page) = ch.new ∧ (∀ c ∈ t.changes, c.page ≠ page) ∧
        (∀ c ∈ t.lines, c.line / 64 = page → c.cls = ch.old → ch.old = .seq) ∧
        (ch.old = .stream ∨ ch.new = .stream → ∀ g ∈ t.granules, g / 64 ≠ page) ∧
        (ch.old = .phase → (∀ u ∈ t.teams, ∀ h ∈ u.heats, ∀ b ∈ h.ws, b.pa / 4096 ≠ page) ∧ ∀ p ∈ t.wide, p.2.pa / 4096 ≠ page))

end

/-! ### Transfer engines and collectives -/

namespace Sys2Proof.Machine

/-- An operation of a team has ended with a status word, which its handle keeps if it was kept (R308). -/
def Team.ended (t w : Team) (h s : Word) : Prop := w.xfer? h = none ∧ ∀ p ∈ t.status, p.1 = h → (h, s) ∈ w.status

end Sys2Proof.Machine

section
open Sys2Proof Sys2Proof.Machine

/-- R257, R308 to R312, R370 to R373: an armed operation starts when its threshold holds and a timed one at its launch time; a transfer that has moved
its whole tile ends DONE and counts on its trigger, at a peer once the peer has acknowledged it, and ERROR where the peer refuses; a task packet is
sent under the next counter, checked by the expander, and its answer ends the operation; on a KS4-X a node's packet is checked here, and on a KS4-N a
task that has run behind a port hands over what it wrote, its result flag last. -/
def Obligations.TransferEnginesProgress : Prop :=
  ∀ (s : State) (team : Nat) (handle : Word) (t : Team) (x : Xfer), s.xfer? team handle = some (t, x) →
    (s.teamRuns team = true →
      (∀ a, x.st = .armed a → t.st = .resident → (s.trig t.cl a.trig - a.at_).toNat < 2 ^ 31 →
        ∃ v, exec (.armedOperationStart team handle) s = .next v ∧ v = { s with teams := v.teams } ∧
          (v.xfer? team handle).map Prod.snd = some { x with st := .started }) ∧
      (∀ l, x.st = .timed → x.work.launch = some l → t.st = .resident → l.toNat ≤ s.clockOf t.cl.die →
        ∃ v, exec (.txferLaunchTime team handle) s = .next v ∧ v = { s with teams := v.teams } ∧
          (v.xfer? team handle).map Prod.snd = some { x with st := .started }) ∧
      (∀ src dst so dor l y, x.st = .started → x.work = .tile src dst so dor l → s.site? x.u = some y → t.st ≠ .saved → x.held = none →
        (∀ u x2 t2 peer, dst.grid = none → x.done < src.count → s.moveTile src dst so dor x (src.count - x.done) = (u, x2, none) → u.team? team = some t2 →
          x2.till ≤ u.now →
          ∃ v w, exec (.txferCompletion team ⟨handle, peer⟩) s = .next v ∧ v.team? team = some w ∧ t2.ended w handle 1 ∧
            ∀ k c, x2.trg = some k → (u.cluster? t2.cl).bind (fun q => q.trigs[k]?) = some c → v.trig t2.cl k = c + 1) ∧
        (dst.grid ≠ none → src.count ≤ x.done → x.till ≤ s.now →
          (∃ v, exec (.txferCompletion team ⟨handle, none⟩) s = .next v ∧ (v.xfer? team handle).map Prod.snd = some x) ∧
          (∃ v w, exec (.txferCompletion team ⟨handle, some none⟩) s = .next v ∧ v.team? team = some w ∧ t.ended w handle 1) ∧
          (∀ c, definedCause c = true → t.alive = true → t.st ≠ .retired → t.dtraps.length < 16 →
            ∃ v w, exec (.txferCompletion team ⟨handle, some (some c)⟩) s = .next v ∧
              v.team? team = some w ∧ t.ended w handle (statusWord 0 c 4) ∧ ∃ d ∈ w.dtraps, d.inner = c ∧ d.pc = x.pc) ∧
          ∀ c, definedCause c = false →
            ∃ v, exec (.txferCompletion team ⟨handle, some (some c)⟩) s = .next v ∧ (v.xfer? team handle).map Prod.snd = some x)) ∧
      (∀ a n slot y u bs k e, x.st = .started → x.work = .task a n slot → s.site? x.u = some y → t.st ≠ .saved → x.held = none →
        s.readPacket y a.toNat (n / 64) = (.ok bs, u) → u.keyOf t.cl.die slot t.ctx = some k → .cxl k.expander ∉ u.gone → k.expander ∉ u.viral →
        u.expander? k.expander = some e → (u.team? team).isSome →
        ∃ v, exec (.tsendPacketSend team handle) s = .next v ∧
          v.expander? k.expander = some { e with arriving := e.arriving ++ [k.packet team handle t.cl.die slot bs] } ∧
          v.keyOf t.cl.die slot t.ctx = some { k with counter := k.counter + 1 } ∧ (v.xfer? team handle).map Prod.snd = some { x with st := .sent, port := some k.expander })) ∧
    (∀ port e writes flag (word : DWord), s.MemOk → s.product = .ks4n → s.expander? port = some e → .cxl port ∉ s.gone → flag % 8 = 0 →
      ∃ v, exec (.taskPacketCheck (.ran port writes flag word)) s = .next v ∧
        Memory.read v.mem (behindPort (.cxl port) flag) 8 = leBytes word.toNat 8) ∧
    (∀ port e p r, s.expander? port = some e → e.arriving = p :: r → p.team = team → p.handle = handle →
      (∀ c, s.packetFault (some port) e p = some c → ∃ v, exec (.taskPacketCheck (.sent port)) s = .next v ∧ v.host = s.host ∧
        v.expander? port = some { e with arriving := r } ∧ (v.xfer? team handle).map Prod.snd = some { x with answer := some (some c) }) ∧
      (∀ l, s.packetFault (some port) e p = none → e.session? p.session = some l → ∃ v y, exec (.taskPacketCheck (.sent port)) s = .next v ∧
        v.expander? port = some y ∧ y.arriving = r ∧ (p.session, p.counter) ∈ y.accepted ∧
        v.host = s.host ++ [.task l.tenant p.counter (dw (p.field 16 8))] ∧ (v.xfer? team handle).map Prod.snd = some { x with answer := some none })) ∧
    (∀ n, s.product = .ks4x → 64 ≤ n.bytes.length → n.bytes.length ≤ 4096 →
      let p := packetOf n
      (∀ c, s.packetFault none s.expander p = some c → exec (.taskPacketCheck (.fromNode n)) s = .next (s.tell (.taskAnswer p.session p.counter (some c)))) ∧
      (s.packetFault none s.expander p = none →
        ∃ v, exec (.taskPacketCheck (.fromNode n)) s = .next v ∧ (p.session, p.counter) ∈ v.expander.accepted ∧
          HostEvent.taskAnswer p.session p.counter none ∈ v.host)) ∧
    (x.st = .sent → x.answer = some none → ∃ v w, exec (.tsendAnswer team handle) s = .next v ∧ v.team? team = some w ∧
      t.ended w handle (statusWord x.work.gen 0 1)) ∧
    (∀ c, x.st = .sent → x.answer = some (some c) → t.alive = true → t.st ≠ .retired → t.dtraps.length < 16 →
      ∃ v w, exec (.tsendAnswer team handle) s = .next v ∧ v.team? team = some w ∧ t.ended w handle (statusWord x.work.gen c 4) ∧
        w.dtraps = t.dtraps ++ 
          [({ cause := c, inner := c, pc := x.pc, info := if c = cause.taskAuth then handle.setWidth 64 else 0, src := some x.u.who } : DTrap).recorded])

/-- R377 to R387: the hub starts, turns away or refuses a generation; a waiting instance gets its buffers in the order of deadlines; the members'
entries are compared, and a difference ends the instance; a member's tile joins a running instance or is held for one that waits; an instance completes at
a member once it has what it needs and what it sent is consumed. Of the model: that a member's contribution is taken and billed whole in one step and the
result written in another, and what is held before the instance has its buffers (log entry 27). -/
def Obligations.CollectivesProgress : Prop :=
  ∀ (s : State) (team : Nat) (handle : Word) (t : Team) (x : Xfer) (n : Inst), s.xfer? team handle = some (t, x) → s.inst? t x = some n →
    let sent (m : CollMsg) : HostEvent := .collSend n.ctx n.group n.cid n.gen m
    let arrives (member : Nat) (m : CollMsg) : Instr := .collectiveDataArrival n.ctx n.group n.cid n.gen member m
    let runs : Prop := s.collFor n.ctx n.group n.cid n.gen (fun y => y.st = .running) = some (team, x, n)
    (∀ g, x.st = .started → s.group? n.ctx n.group = some g →
      let left := ((g.open_.find? fun p => p.1 = n.cid).map Prod.snd).getD []
      let v := verdict ((SMap.get? g.last n.cid).getD 0) n.gen left
      (v = .busy → ∃ u w, exec (.collectiveIssue team handle) s = .next u ∧ u = { s with teams := u.teams } ∧ u.team? team = some w ∧
        t.ended w handle (statusWord n.gen 0 3)) ∧
      (v = .refused → ∃ u w, exec (.collectiveIssue team handle) s = .next u ∧ u.team? team = some w ∧ t.ended w handle (statusWord n.gen cause.protection 4)) ∧
      (v = .starts → ∃ u h, exec (.collectiveIssue team handle) s = .next u ∧ u.group? n.ctx n.group = some h ∧ SMap.get? h.last n.cid = some n.gen)) ∧
    (∀ c, firstDue s.collWaiting = some (team, x) → s.collBytes + 2 * n.loc.bytes ≤ 2 ^ 26 → n.reads = false → s.ctx? n.ctx = some c →
      (∀ h ∈ c.held, h.group ≠ n.group ∨ h.cid ≠ n.cid ∨ h.gen ≠ n.gen) →
      (∀ d ∈ s.goneDevices, ∀ m ∈ n.sub, n.ent.members[m]? ≠ some d) →
      ∃ u, exec (.collectiveBufferGrant team handle) s = .next u ∧ u.collBytes = s.collBytes + 2 * n.loc.bytes ∧
        (u.xfer? team handle).map Prod.snd = some { x with st := .running } ∧ ((∃ m ∈ n.sub, m ≠ n.ent.self) → sent (.entry n.ent) ∈ u.host)) ∧
    (∀ g st member, s.group? n.ctx n.group = some g → member ∈ n.needs → n.delivers = true → (∀ p ∈ x.contribs, p.1 ≠ member) → runs →
      ∃ u, exec (arrives member (.tile st)) s = .next u ∧ sent (.consumed member) ∈ u.host ∧
        (u.xfer? team handle).map Prod.snd = some { x with contribs := x.contribs ++ [(member, st)], done := x.done + wireBytes n.loc.ty st }) ∧
    (∀ g e member, s.group? n.ctx n.group = some g → runs →
      (sameEntry e n.ent = true → ∃ u, exec (arrives member (.entry e)) s = .next u ∧ u = { s with teams := u.teams } ∧
        (u.xfer? team handle).map Prod.snd = some { x with agreed := joined x.agreed member }) ∧
      (sameEntry e n.ent = false → ∃ u w, exec (arrives member (.entry e)) s = .next u ∧ u.team? team = some w ∧
        t.ended w handle (statusWord n.gen cause.protection 4) ∧ sent .entryDiffers ∈ u.host)) ∧
    (∀ c g member msg, s.ctx? n.ctx = some c → s.group? n.ctx n.group = some g →
      s.collFor n.ctx n.group n.cid n.gen (fun y => y.st = .running) = none →
      (s.collFor n.ctx n.group n.cid n.gen fun y => y.st = .waitBuffer).isSome ∨ n.gen = nextGen ((SMap.get? g.last n.cid).getD 0) →
      ∃ u k, exec (arrives member msg) s = .next u ∧ u = { s with ctxs := u.ctxs } ∧ u.ctx? n.ctx = some k ∧
        k.held = c.held ++ [{ group := n.group, cid := n.cid, gen := n.gen, member := member, msg := msg }] ∧
        (endsInstance msg = false → k = { c with held := k.held })) ∧
    (x.st = .running → x.held = none → n.agrees x = true → n.delivers = false →
      n.reads = false ∨ ((∃ p ∈ x.contribs, p.1 = n.ent.self) ∧ ∀ m ∈ n.dlv, m ∈ x.complete) →
      ∃ u w, exec (.collectiveCompletion team handle) s = .next u ∧ u.team? team = some w ∧ t.ended w handle (statusWord n.gen 0 1) ∧
        sent .completed ∈ u.host) ∧
    (∀ u y t2, x.st = .running → x.held = none → n.agrees x = true → n.delivers = true → (n.reads = true → ∃ p ∈ x.contribs, p.1 = n.ent.self) →
      n.ready x = true → s.collWrite n (n.result x) x (n.out.count - x.wrote) = (u, y, none) → u.team? team = some t2 → y.till ≤ u.now →
      ∃ v w, exec (.collectiveCompletion team handle) s = .next v ∧ v.team? team = some w ∧ t2.ended w handle (statusWord n.gen 0 1) ∧
        sent .completed ∈ v.host)

end

/-! ### Errors, power, monitors, resets and the firmware complex -/

section
open Sys2Proof Sys2Proof.Machine

/-- R375, R376 and R407: a refused write-back discards the dirty data of its line and charges the owner; a viral port loses the dirty lines behind it
and the writes on their way there, and its contexts' teams take VIRAL; a lost device's lines go and its windows become unusable; a reset of the port and
a reconnection end this. Memory itself stays. The numbers of the ports, one of which the %tinfo of VIRAL holds, are the model's choice (log entry 9). -/
def Obligations.PortsAndHomesFail : Prop :=
  ∀ s : State,
    (∀ die line c, c = cause.protection ∨ c = cause.classAlias →
      ∃ t, exec (.writebackErrorAnswer die line c) s = .next t ∧ t = { s with lines := t.lines, ctxs := t.ctxs } ∧
        (∀ l, l ∈ t.lines ↔ l ∈ s.lines ∧ ¬ (l.line = line ∧ l.level.die = die ∧ l.dirtyBytes ≠ [])) ∧
        ∀ l ctx k, (s.lines.filter fun l => l.line = line && decide (l.level.die = die) && !l.dirtyBytes.isEmpty) = [l] →
          SMap.get? s.owners l.owner.toNat = some ctx → s.ctx? ctx = some k → s.openMeets ctx = [] →
          t.ctx? ctx = some { k with errlog := k.errlog ++ [{ cause := c, info := dw (2 ^ 63 + s.physical die (64 * line)) }] }) ∧
    (∀ port, port < 4 →
      ∃ t, exec (.viralEntry port) s = .next t ∧ t.mem = s.mem ∧ port ∈ t.viral ∧
        (∀ l ∈ t.lines, targetAt (64 * l.line) = some (.cxl port) → l.dirtyBytes = []) ∧
        (∀ p ∈ t.posted, ∀ l ∈ p.lines, targetAt (64 * l) ≠ some (.cxl port)) ∧
        ∀ c ∈ s.ctxs, s.maps c (fun r => s.behind r (.cxl port)) = true → ∀ u, s.team? u.id = some u → u.ctx = c.id → u.st ≠ .retired → u.alive = true →
          u.dtraps.length < 16 → ∃ w, t.team? u.id = some w ∧ ∃ d ∈ w.dtraps, d.cause = cause.viral ∧ d.info = dw port) ∧
    (∀ port, port < 4 → exec (.portReset port) s = .next { s with viral := s.viral.filter (· ≠ port), host := s.host ++ done0 }) ∧
    (∀ i target, i = .linkFailure target ∨ i = .requestTimeout target → target ≠ .host →
      ∃ t, exec i s = .next t ∧ target ∈ t.gone ∧ (∀ p, target = .cxl p → t.mem = s.mem) ∧ (∀ l ∈ t.lines, targetAt (64 * l.line) ≠ some target) ∧
        ∀ d ∈ t.dies, ∀ w, some w ∈ d.windows → w.target = target → w.stale = true) ∧
    (∀ target, exec (.deviceReconnection target) s = .next { s with gone := s.gone.filter (· ≠ target) })

/-- R393 to R396: power states and frequency steps. A die leaves DOZE with empty clusters and the trigger counters that it held; DOZE is refused to a
busy die, and OFF while a meet or a context needs it; OFF loses the memory that the die homes, and keeps the step. Of the model: that memory homed on a
die that has been OFF reads 0 (log entry 48), that a dozing cluster leaves no copies behind (log entry 47), that a step takes effect at once (log entry 79), and
that a die whose power core has failed answers no command (log entry 43). -/
def Obligations.PowerCommandsAct : Prop :=
  ∀ (s : State) (die : Nat) (d : Die), s.die? die = some d →
   (d.coreUp 4 = false → ∀ i ∈ [Instr.powerActive die, .powerPark die, .powerDoze die, .powerOff die, .frequencyStep die 0], exec i s = .next s) ∧
   (∀ p, d.power = .active ∨ d.power = .park → d.enter p = { d with power := p }) ∧
   (∀ p, d.power = .doze → (d.enter p).power = p ∧ (d.enter p).windows = d.windows ∧ (d.enter p).keys = d.keys ∧ (d.enter p).step = d.step ∧
     ∀ (k : Nat) (c : Cluster), d.clusters[k]? = some c → (d.enter p).clusters[k]? = some { Cluster.reset with
       trigs := d.dozed.getD k c.trigs, bankPl := c.bankPl, chanPl := c.chanPl, trigPl := c.trigPl, rows := c.rows, unit := c.unit }) ∧
   (∀ p, d.power = .off → d.enter p = { Die.reset with power := p, adopter := d.adopter, step := d.step, starts := d.starts + 1 }) ∧
   (d.coreUp 4 = true →
    (exec (.powerActive die) s = .next (s.withDie die (d.enter .active) done0) ∧ exec (.powerPark die) s = .next (s.withDie die (d.enter .park) done0)) ∧
    (s.busyDie die = true → exec (.powerDoze die) s = .next (s.tell (.command 1))) ∧
    (s.busyDie die = false → d.power = .active ∨ d.power = .park → ∃ t, exec (.powerDoze die) s = .next t ∧
      t.dies = s.dies.set die { d with power := .doze, dozed := d.clusters.map Cluster.trigs } ∧ HostEvent.command 0 ∈ t.host ∧
      ∀ c ∈ t.lines, ∀ k loc, loc < 24 → c.level ≠ .l0 { die := die, loc := loc } k ∧ c.level ≠ .clus { die := die, loc := loc }) ∧
    (s.meetOn die = true ∨ (∃ c ∈ s.ctxs, s.maps c (fun r => r.on s die) = true) → exec (.powerOff die) s = .next (s.tell (.command 1))) ∧
    (s.meetOn die = false → (∀ c ∈ s.ctxs, s.maps c (fun r => r.on s die) = false) → ∃ t, exec (.powerOff die) s = .next t ∧
      t.die? die = some { Die.reset with power := .off, adopter := d.adopter, step := d.step, starts := d.starts + 1 } ∧
      ∀ a, Memory.get t.mem a = if s.homeOf a = some die then 0 else Memory.get s.mem a) ∧
    (∀ k, k < 8 → exec (.frequencyStep die k) s = .next (s.withDie die { d with step := k } done0)) ∧
    (∀ k, 8 ≤ k → exec (.frequencyStep die k) s = .next (s.tell (.command 2))))

/-- R392 and R397: samples become readings; a reading above its trip point halts the package; thresholds are set, a trip point of at most 110 degrees;
a droop deeper than its threshold counts, the deepest droop is kept, and reading its monitor starts it anew. The details of the thresholds are log entry
35; that a die whose power core has failed gives no answer and no warning is log entry 43. -/
def Obligations.MonitorsReport : Prop :=
  ∀ (s : State) (die : Nat) (d : Die), s.die? die = some d →
    let droops (k : Nat) (m : DroopMon) : Die := { d with droops := d.droops.set k m }
    (∀ rs, let ts := d.temps.zipIdx.map fun p => { p.1 with reading := rs.getD p.2 p.1.reading }
      ∃ t, exec (.temperatureSample die rs) s = .next t ∧
        t = { s with dies := s.dies.set die { d with temps := ts }, halted := s.halted || ts.any (fun m => decide (m.trip < m.reading)), host := t.host } ∧
        ∀ (k : Nat) (m n : TempMon), d.temps[k]? = some m → ts[k]? = some n →
          (∀ w, m.warn = some w → m.reading ≤ w → w < n.reading → d.coreUp 4 = true → HostEvent.interrupt die k ∈ t.host) ∧
          (n.trip < n.reading → HostEvent.thermal die k n.reading ∈ t.host)) ∧
    (∀ cs, ∃ t, exec (.processMonitorSample die cs) s = .next t ∧
      t = { s with dies := s.dies.set die { d with procs := d.procs.zipIdx.map fun p => { p.1 with count := cs.getD p.2 p.1.count } }, host := t.host } ∧
      ∀ (k : Nat) (m : ProcMon), d.procs[k]? = some m → ∀ w : Nat, m.warn = some w → m.count ≤ w → w < cs.getD k m.count → d.coreUp 4 = true →
        HostEvent.interrupt die (80 + k) ∈ t.host) ∧
    (∀ (k : Nat) m mv, d.droops[k]? = some m →
      ((∀ th, m.depth = some th → mv ≤ th) →
        exec (.voltageDroop die k mv) s = .next (s.withDie die (droops k { m with deepest := max m.deepest mv }) [])) ∧
      (∀ th, m.depth = some th → th < mv → ∃ t, exec (.voltageDroop die k mv) s = .next t ∧
        t = { s.withDie die (droops k { m with count := m.count + 1, deepest := max m.deepest mv }) [] with host := t.host } ∧
        (m.warn = some m.count → d.coreUp 4 = true → HostEvent.interrupt die (48 + k) ∈ t.host) ∧ (m.warn = none → t.host = s.host))) ∧
    (d.coreUp 4 = false → (∀ c, exec (.monitorThresholdSet die c) s = .next s) ∧ ∀ c, exec (.monitorRead die c) s = .next s) ∧
    (d.coreUp 4 = true →
      (∀ (k : Nat) m w, d.temps[k]? = some m →
        (m.reading ≤ w → exec (.monitorThresholdSet die (.tempWarn k w)) s = .next (s.withDie die { d with temps := d.temps.set k { m with warn := some w } } done0)) ∧
        (880 < w → exec (.monitorThresholdSet die (.tempTrip k w)) s = .next (s.tell (.command 1))) ∧
        (w ≤ 880 →
          let ts := d.temps.set k { m with trip := w }
          ∃ t, exec (.monitorThresholdSet die (.tempTrip k w)) s = .next t ∧
            t = { s with dies := s.dies.set die { d with temps := ts }, halted := s.halted || ts.any (fun m => decide (m.trip < m.reading)), host := t.host } ∧
            HostEvent.command 0 ∈ t.host ∧ (w < m.reading → HostEvent.thermal die k m.reading ∈ t.host)) ∧
        exec (.monitorRead die (.temp k)) s = .next (s.tell (.reading m.reading 0))) ∧
      (∀ (k : Nat) m v, d.droops[k]? = some m →
        exec (.monitorThresholdSet die (.droopDepth k v)) s = .next (s.withDie die (droops k { m with depth := some v }) done0) ∧
        (m.count ≤ v → exec (.monitorThresholdSet die (.droopWarn k v)) s = .next (s.withDie die (droops k { m with warn := some v }) done0)) ∧
        (v < m.count → exec (.monitorThresholdSet die (.droopWarn k v)) s =
          .next (s.withDie die (droops k { m with warn := some v }) [.interrupt die (48 + k), .command 0])) ∧
        exec (.monitorRead die (.droop k)) s = .next (s.withDie die (droops k { m with deepest := 0 }) [.reading m.count m.deepest])) ∧
      (∀ (k : Nat) (m : ProcMon) v, d.procs[k]? = some m →
        let e := { d with procs := d.procs.set k { m with warn := some v } }
        (m.count ≤ v → exec (.monitorThresholdSet die (.processWarn k v)) s = .next (s.withDie die e done0)) ∧
        (v < m.count → exec (.monitorThresholdSet die (.processWarn k v)) s = .next (s.withDie die e [.interrupt die (80 + k), .command 0])) ∧
        exec (.monitorRead die (.process k)) s = .next (s.tell (.reading m.count 0))))

/-- R397 to R404: a cold reset gives the package of reset, its own memory empty and what lies behind the ports as it was; a warm reset saves and takes
the die out, its queues adopted, once no write of the die is in flight; readmission starts its clock at 0 and gives the queues back; a function-level reset
removes the function's queues and kills its contexts; mailboxes, heartbeats, adoption, a failed core, and migration. Of the model: what memory keeps over a
cold reset (log entry 4), what a warm reset leaves in the die (log entry 36), the choice of the heir and the time of adoption (log entry 34), and that
this package is the destination of a migration (log entry 37). -/
def Obligations.ResetsAndTheFirmwareComplex : Prop :=
  (∀ s : State, ∃ t, exec .coldReset s = .next t ∧ t.dies = List.replicate s.product.dies Die.reset ∧ t.teams = [] ∧ t.meets = [] ∧ t.ctxs = [] ∧ t.queues = [] ∧
    t.halted = false ∧ t.host = s.host ∧ ∀ a, Memory.get t.mem a = if a < 2 ^ 52 then 0 else Memory.get s.mem a) ∧
  ∀ (s : State) (die : Nat) (d : Die), s.die? die = some d →
    (∀ a, s.heir die = some a → d.offline = false → d.power ≠ .off → s.neighbourDown die = false → d.adopter = none →
      (∀ t ∈ s.teams, t.cl.die = die → t.st ≠ .resident) →
      (s.inFlight die = true → ∃ t e, exec (.warmReset die) s = .next t ∧ t.die? die = some e ∧ e.offline = false ∧ e.closing = true) ∧
      (s.inFlight die = false →
       ∃ t e, exec (.warmReset die) s = .next t ∧ t.die? die = some e ∧ e.offline = true ∧ e.clusPl = Die.reset.clusPl ∧ e.adopter = some a ∧
        e.power = d.power ∧ e.step = d.step ∧ (∀ c ∈ e.clusters, c = { Cluster.reset with rows := c.rows }) ∧ (∀ q ∈ t.queues, q.server ≠ die) ∧
        (∀ c ∈ t.lines, c.level.die ≠ die ∧ s.homeOf (64 * c.line) ≠ some die) ∧ HostEvent.command 0 ∈ t.host)) ∧
    (d.offline = true → ∃ t, exec (.dieReadmission die) s = .next t ∧
      t.dies = s.dies.set die { d with offline := false, clock := 0, starts := d.starts + 1, adopter := none, beatAt := s.hubClock } ∧
      ∀ q ∈ t.queues, q.desc.home = die → q.server = die) ∧
    (∀ vf, ∃ t, exec (.functionLevelReset vf) s = .next t ∧ (∀ q ∈ t.queues, q.desc.vf ≠ vf) ∧
      (∀ c ∈ t.ctxs, c.vf = vf → c.killed = true) ∧ HostEvent.command 0 ∈ t.host) ∧
    (∀ core c, d.cps[core]? = some c →
      (∀ src msg, src < 8 → c.mailbox.length < 64 → exec (.mailboxMessage die src core (some msg)) s =
        .next (s.withDie die { d with cps := d.cps.set core { c with mailbox := c.mailbox ++ [(src, msg)] } } [])) ∧
      (∀ src msg, 64 ≤ c.mailbox.length → exec (.mailboxMessage die src core (some msg)) s = .next s) ∧
      (∀ src msg r, c.failed = false → c.mailbox = (src, msg) :: r → exec (.mailboxMessage die src core none) s =
        .next (s.withDie die { d with cps := d.cps.set core { c with mailbox := r } } []))) ∧
    (d.able = true → exec (.heartbeat die) s = .next (s.withDie die { d with beat := d.beat + 1, beatAt := s.hubClock } [])) ∧
    (∀ a, d.beatAt + 100000 ≤ s.hubClock → d.adopter = none → s.heir die = some a →
      ∃ t, exec (.adoption die a) s = .next t ∧ (∀ q ∈ t.queues, q.server ≠ die) ∧ (t.die? die).map Die.adopter = some (some a) ∧
        (t.die? die).map (fun e => e.coreUp 1) = some false ∧
        ∀ q ∈ s.queues, q.cand = none → { q with server := if q.server = die then a else q.server } ∈ t.queues) ∧
    (∀ core c, d.cps[core]? = some c → core ≠ 1 → core < 8 → exec (.commandProcessorCoreFailure die core) s =
      .next (s.withDie die { d with cps := d.cps.set core { c with failed := true } } [.coreFailed die core])) ∧
    (∀ ctx elapsed, (∀ t ∈ s.teams, t.ctx = ctx → t.st ≠ .resident) →
      ∃ t, exec (.migration ctx elapsed) s = .next t ∧ (∀ e ∈ t.dies, ∀ k, some k ∈ e.keys → k.ctx ≠ ctx) ∧
        ∀ u ∈ s.teams, u.ctx = ctx → u.st = .saved → ∀ c, u.clocks = some c →
          { u with clocks := some { c with away := some (c.away.getD 0 + elapsed) } } ∈ t.teams)

end
end

