-- ==== Sys2Proof/Laws/Registers.lean ====
section
/-!
SUPPORT. What the operations over fibres and registers can do: reading back a write, and what a write leaves.
-/

namespace Sys2Proof.Machine

/-! ### Fibres -/

theorem Heat.fibre?_updFibre (h : Heat) (i j : Nat) (f : Fibre → Fibre) :
    (h.updFibre i f).fibre? j = if i = j then (h.fibre? j).map f else h.fibre? j := by
  unfold Heat.fibre? Heat.updFibre
  simp only [List.getElem?_modify]
  split
  · cases h.fibres[j]? <;> rfl
  · simp

theorem Site.fibre?_updFibre (x : Site) (i j : Nat) (f : Fibre → Fibre) :
    (x.updFibre i f).heat.fibre? j = if i = j then (x.heat.fibre? j).map f else x.heat.fibre? j :=
  Heat.fibre?_updFibre x.heat i j f

/-- Updating fibres changes the heat's fibres and nothing else. -/
theorem Site.updFibre_eq (x : Site) (i : Nat) (f : Fibre → Fibre) :
    x.updFibre i f = { x with heat := { x.heat with fibres := (x.updFibre i f).heat.fibres } } := rfl

theorem Site.updFibres_eq (x : Site) (is : List Nat) (f : Fibre → Fibre) :
    x.updFibres is f = { x with heat := { x.heat with fibres := (x.updFibres is f).heat.fibres } } := by
  unfold Site.updFibres
  induction is generalizing x with
  | nil => rfl
  | cons i r ih =>
    simp only [List.foldl_cons]
    rw [ih (x.updFibre i f)]
    rfl

/-- Updating several fibres by an idempotent function. -/
theorem Site.fibre?_updFibres (x : Site) (is : List Nat) (f : Fibre → Fibre) (hf : ∀ a, f (f a) = f a) (j : Nat) :
    (x.updFibres is f).heat.fibre? j = if j ∈ is then (x.heat.fibre? j).map f else x.heat.fibre? j := by
  unfold Site.updFibres
  induction is generalizing x with
  | nil => simp
  | cons i r ih =>
    simp only [List.foldl_cons]
    rw [ih (x.updFibre i f), Site.fibre?_updFibre]
    by_cases h : i = j
    · subst h
      simp only [if_true, List.mem_cons, true_or]
      split
      · rw [Option.map_map]
        congr 1
        funext a
        exact hf a
      · rfl
    · have : j ≠ i := fun e => h e.symm
      simp [h, List.mem_cons, this]

/-! ### Reading and writing registers -/

/-- A register depends on the fibre's base set and window, and on the extended sets. -/
theorem Site.slot_congr (x y : Site) (i r : Nat) (hu : y.u = x.u)
    (hf : (y.heat.fibre? i).map (fun f => (f.regs, f.win)) = (x.heat.fibre? i).map fun f => (f.regs, f.win))
    (hx : y.team.xsets = x.team.xsets) : y.slot i r = x.slot i r := by
  unfold Site.slot Site.xset? Site.heatNo Site.squad
  rw [hu, hx]
  cases hy : y.heat.fibre? i with
  | none =>
    cases hx : x.heat.fibre? i with
    | none => rfl
    | some b => rw [hy, hx] at hf; simp at hf
  | some a =>
    cases hx : x.heat.fibre? i with
    | none => rw [hy, hx] at hf; simp at hf
    | some b =>
      rw [hy, hx] at hf
      simp only [Option.map_some, Option.some.injEq, Prod.mk.injEq] at hf
      simp only [Fibre.slotOf, hf.1, hf.2]

theorem Fibre.slotOf_inj (f : Fibre) (r q : Nat) (h : f.slotOf r = f.slotOf q) : r = q := by
  unfold Fibre.slotOf at h
  split at h <;> split at h <;> omega

/-- Writing a register changes fibres and extended sets alone. -/
theorem Site.setSlot_eq (x : Site) (i r : Nat) (v : Slot) :
    x.setSlot i r v = { x with
      team := { x.team with xsets := (x.setSlot i r v).team.xsets }
      heat := { x.heat with fibres := (x.setSlot i r v).heat.fibres } } := by
  unfold Site.setSlot
  split <;> rfl

/-- Changing every element that a test finds, when the change keeps the test's answer. -/
theorem find?_map_upd {α : Type} (l : List α) (p : α → Bool) (g : α → α) (hg : ∀ a, p a = true → p (g a) = true) :
    (l.map fun a => if p a = true then g a else a).find? p = (l.find? p).map g := by
  induction l with
  | nil => rfl
  | cons a r ih =>
    simp only [List.map_cons, List.find?_cons]
    by_cases h : p a = true
    · simp [h, hg a h]
    · simp only [h]
      simpa [h] using ih

/-- The test that picks a unit's extended set. -/
def Site.xtest (x : Site) (e : XSet) : Bool := decide (e.squad = x.squad ∧ e.low = pairLow x.heatNo)

theorem Site.xset?_eq (x : Site) : x.xset? = x.team.xsets.find? x.xtest := by
  unfold Site.xset? Site.xtest
  congr 1

theorem Site.xset?_setSlot (x : Site) (i r : Nat) (v : Slot) (h : ¬ r < 128) :
    (x.setSlot i r v).xset? = x.xset?.map fun e => { e with regs := e.regs.modify i fun l => l.set (r - 128) v } := by
  have key := find?_map_upd x.team.xsets x.xtest (fun e => { e with regs := e.regs.modify i fun l => l.set (r - 128) v })
    (fun a ha => by simpa [Site.xtest] using ha)
  have hx : (x.setSlot i r v).team.xsets = x.team.xsets.map fun e => if x.xtest e = true then
      { e with regs := e.regs.modify i fun l => l.set (r - 128) v } else e := by
    unfold Site.setSlot
    rw [if_neg h]
    simp only [Site.xtest, decide_eq_true_eq]
  have ht : (x.setSlot i r v).xtest = x.xtest := by
    unfold Site.setSlot
    rw [if_neg h]
    rfl
  rw [Site.xset?_eq, Site.xset?_eq, hx, ht, key]

theorem Site.xset?_setSlot_base (x : Site) (i r : Nat) (v : Slot) (h : r < 128) : (x.setSlot i r v).xset? = x.xset? := by
  unfold Site.setSlot
  rw [if_pos h]
  rfl

theorem Site.fibre?_setSlot (x : Site) (i r : Nat) (v : Slot) (j : Nat) :
    (x.setSlot i r v).heat.fibre? j =
      if r < 128 ∧ i = j then (x.heat.fibre? j).map fun f => { f with regs := f.regs.set (f.slotOf r) v } else x.heat.fibre? j := by
  unfold Site.setSlot
  by_cases h : r < 128
  · rw [if_pos h, Site.fibre?_updFibre]
    simp [h]
  · simp [h]

theorem Site.holdsX_setSlot (x : Site) (i r : Nat) (v : Slot) : (x.setSlot i r v).holdsX = x.holdsX := by
  have hu : (x.setSlot i r v).u = x.u := by unfold Site.setSlot; split <;> rfl
  unfold Site.holdsX
  by_cases h : r < 128
  · rw [Site.xset?_setSlot_base x i r v h]
    unfold Site.isPacer Site.heatNo
    rw [hu]
  · rw [Site.xset?_setSlot x i r v h]
    unfold Site.isPacer Site.heatNo
    rw [hu]
    cases x.xset? <;> rfl

/-- A register by where it stands. -/
theorem Site.slot_eq (x : Site) (i r : Nat) (f : Fibre) (h : x.heat.fibre? i = some f) :
    x.slot i r = if r < 128 then f.regs.getD (f.slotOf r) (.val 0)
      else (x.xset?.bind fun e => (e.regs[i]?).bind fun l => l[r - 128]?).getD (.val 0) := by
  unfold Site.slot
  rw [h]

/-- A register reads as it was written. -/
theorem Site.slot_setSlot (x : Site) (i r : Nat) (v : Slot) (h : x.Has i r) : (x.setSlot i r v).slot i r = v := by
  obtain ⟨f, hf, h⟩ := h
  by_cases hr : r < 128
  · rw [if_pos hr] at h
    rw [Site.slot_eq _ i r { f with regs := f.regs.set (f.slotOf r) v } (by rw [Site.fibre?_setSlot]; simp [hr, hf]), if_pos hr]
    change (f.regs.set (f.slotOf r) v).getD (f.slotOf r) (.val 0) = v
    simp [List.getD, h]
  · rw [if_neg hr] at h
    obtain ⟨_, e, l, he, hl, hb⟩ := h
    rw [Site.slot_eq _ i r f (by rw [Site.fibre?_setSlot]; simp [hr, hf]), if_neg hr, Site.xset?_setSlot x i r v hr, he]
    simp [hl, hb]

/-- A write leaves every other register. -/
theorem Site.slot_setSlot_other (x : Site) (i r j q : Nat) (v : Slot) (h : i ≠ j ∨ r ≠ q) :
    (x.setSlot i r v).slot j q = x.slot j q := by
  cases hf : x.heat.fibre? j with
  | none =>
    have : (x.setSlot i r v).heat.fibre? j = none := by rw [Site.fibre?_setSlot]; split <;> simp [hf]
    unfold Site.slot
    rw [this, hf]
  | some f =>
    rw [Site.slot_eq x j q f hf]
    by_cases hr : r < 128
    · by_cases hij : i = j
      · have hq : r ≠ q := by rcases h with h | h; exact absurd hij h; exact h
        rw [Site.slot_eq _ j q { f with regs := f.regs.set (f.slotOf r) v } (by rw [Site.fibre?_setSlot]; simp [hr, hij, hf]),
          Site.xset?_setSlot_base x i r v hr]
        split
        · change (f.regs.set (f.slotOf r) v).getD (f.slotOf q) (.val 0) = _
          have : f.slotOf r ≠ f.slotOf q := fun e => hq (f.slotOf_inj r q e)
          simp [List.getD, this]
        · rfl
      · rw [Site.slot_eq _ j q f (by rw [Site.fibre?_setSlot]; simp [hij, hf]), Site.xset?_setSlot_base x i r v hr]
    · rw [Site.slot_eq _ j q f (by rw [Site.fibre?_setSlot]; simp [hr, hf]), Site.xset?_setSlot x i r v hr]
      split
      · rfl
      · rename_i hq
        cases x.xset? with
        | none => rfl
        | some e =>
          simp only [Option.map_some, Option.bind_some, List.getElem?_modify]
          cases he : e.regs[j]? with
          | none => simp
          | some l =>
            by_cases hij : i = j
            · have hq2 : r ≠ q := by rcases h with h | h; exact absurd hij h; exact h
              have : r - 128 ≠ q - 128 := by omega
              simp [hij, this]
            · simp [hij]

/-- A write takes no register away. -/
theorem Site.has_setSlot (x : Site) (i r j q : Nat) (v : Slot) (h : x.Has j q) : (x.setSlot i r v).Has j q := by
  obtain ⟨f, hf, h⟩ := h
  by_cases hr : r < 128 ∧ i = j
  · refine ⟨{ f with regs := f.regs.set (f.slotOf r) v }, by rw [Site.fibre?_setSlot]; simp [hr, hf], ?_⟩
    split
    · rename_i hq
      rw [if_pos hq] at h
      change f.slotOf q < (f.regs.set _ v).length
      simpa using h
    · rename_i hq
      rw [if_neg hq] at h
      rw [Site.holdsX_setSlot, Site.xset?_setSlot_base x i r v hr.1]
      exact h
  · refine ⟨f, by rw [Site.fibre?_setSlot]; simp [hr, hf], ?_⟩
    split
    · rename_i hq
      rw [if_pos hq] at h
      exact h
    · rename_i hq
      rw [if_neg hq] at h
      rw [Site.holdsX_setSlot]
      refine ⟨h.1, ?_⟩
      obtain ⟨_, e, l, he, hl, hb⟩ := h
      by_cases hb2 : r < 128
      · rw [Site.xset?_setSlot_base x i r v hb2]
        exact ⟨e, l, he, hl, hb⟩
      · rw [Site.xset?_setSlot x i r v hb2, he]
        refine ⟨_, if i = j then l.set (r - 128) v else l, rfl, ?_, ?_⟩
        · simp only [List.getElem?_modify, hl]
          split <;> simp
        · split <;> simpa using hb

/-- n registers read as they were written. -/
theorem Site.slot_setVal (x : Site) (i r n v : Nat) (h : ∀ k < n, x.Has i (r + k)) (k : Nat) (hk : k < n) :
    (x.setVal i r n v).slot i (r + k) = .val (wd (v / 2 ^ (32 * k))) := by
  induction n generalizing x r v k with
  | zero => omega
  | succ n ih =>
    unfold Site.setVal
    cases k with
    | zero =>
      have : ∀ (m : Nat) (y : Site) (w : Nat) (q : Nat), r < q → (y.setVal i q m w).slot i r = y.slot i r := by
        intro m
        induction m with
        | zero => intros; rfl
        | succ m ihm =>
          intro y w q hq
          unfold Site.setVal
          rw [ihm _ _ _ (by omega), Site.slot_setSlot_other _ _ _ _ _ _ (Or.inr (by omega))]
      change ((x.setSlot i r (.val (wd v))).setVal i (r + 1) n (v / 2 ^ 32)).slot i r = _
      rw [this n _ _ (r + 1) (by omega), Site.slot_setSlot x i r _ (by simpa using h 0 (by omega))]
      simp
    | succ k =>
      have := ih (x.setSlot i r (.val (wd v))) (r + 1) (v / 2 ^ 32)
        (fun m hm => Site.has_setSlot _ _ _ _ _ _ (by have := h (m + 1) (by omega); rwa [show r + (m + 1) = r + 1 + m by omega] at this)) k (by omega)
      rw [show r + (k + 1) = r + 1 + k by omega, this]
      rw [Nat.div_div_eq_div_mul, ← Nat.pow_add, show 32 + 32 * k = 32 * (k + 1) by omega]

/-- Writing n registers leaves every other register. -/
theorem Site.slot_setVal_other (x : Site) (i r n v j q : Nat) (h : i ≠ j ∨ q < r ∨ r + n ≤ q) :
    (x.setVal i r n v).slot j q = x.slot j q := by
  induction n generalizing x r v with
  | zero => rfl
  | succ n ih =>
    unfold Site.setVal
    rw [ih _ _ _ (by omega), Site.slot_setSlot_other _ _ _ _ _ _ (by omega)]

theorem Site.has_setVal (x : Site) (i r n v j q : Nat) (h : x.Has j q) : (x.setVal i r n v).Has j q := by
  induction n generalizing x r v with
  | zero => exact h
  | succ n ih =>
    unfold Site.setVal
    exact ih _ _ _ (Site.has_setSlot _ _ _ _ _ _ h)

/-- Two units that differ in registers and seeds alone. -/
structure Site.SameBut (x y : Site) : Prop where
  rest : y = { x with
    team := { x.team with xsets := y.team.xsets }
    heat := { x.heat with fibres := y.heat.fibres } }
  fibres : ∀ i, y.heat.fibre? i = (x.heat.fibre? i).bind fun f => (y.heat.fibre? i).map fun g => { f with regs := g.regs, seed := g.seed }
  holdsX : y.holdsX = x.holdsX
  isSome : ∀ i, (x.heat.fibre? i).isSome → (y.heat.fibre? i).isSome

theorem Site.SameBut.rfl' (x : Site) : Site.SameBut x x where
  rest := rfl
  fibres i := by cases x.heat.fibre? i <;> rfl
  holdsX := rfl
  isSome _ h := h

theorem Site.sameBut_setSlot (x : Site) (i r : Nat) (v : Slot) : Site.SameBut x (x.setSlot i r v) where
  rest := Site.setSlot_eq x i r v
  fibres j := by
    rw [Site.fibre?_setSlot]
    split <;> cases x.heat.fibre? j <;> rfl
  holdsX := Site.holdsX_setSlot x i r v
  isSome j h := by
    rw [Site.fibre?_setSlot]
    split
    · simpa using h
    · exact h

theorem Site.SameBut.trans {x y z : Site} (h : Site.SameBut x y) (k : Site.SameBut y z) : Site.SameBut x z where
  rest := by
    have h1 := h.rest
    have k1 := k.rest
    rw [h1] at k1
    rw [k1]
  fibres i := by
    have h1 := h.fibres i
    have k1 := k.fibres i
    rw [k1, h1]
    cases x.heat.fibre? i with
    | none => rfl
    | some f =>
      cases hy : y.heat.fibre? i with
      | none => rfl
      | some g =>
        cases z.heat.fibre? i <;> rfl
  holdsX := k.holdsX.trans h.holdsX
  isSome i hi := k.isSome i (h.isSome i hi)

theorem Site.sameBut_setVal (x : Site) (i r n v : Nat) : Site.SameBut x (x.setVal i r n v) := by
  induction n generalizing x r v with
  | zero => exact Site.SameBut.rfl' x
  | succ n ih => exact (Site.sameBut_setSlot x i r _).trans (ih _ _ _)

/-! ### Seeds and guards -/

theorem Site.seed_setSlot (x : Site) (i r : Nat) (v : Slot) (j : Nat) : (x.setSlot i r v).seed j = x.seed j := by
  unfold Site.seed
  rw [Site.fibre?_setSlot]
  split <;> cases x.heat.fibre? j <;> rfl

theorem Site.seed_setVal (x : Site) (i r n v j : Nat) : (x.setVal i r n v).seed j = x.seed j := by
  induction n generalizing x r v with
  | zero => rfl
  | succ n ih =>
    unfold Site.setVal
    rw [ih, Site.seed_setSlot]

theorem Site.slot_setSeed (x : Site) (i : Nat) (w : Word) (j r : Nat) : (x.setSeed i w).slot j r = x.slot j r := by
  apply Site.slot_congr
  · rfl
  · unfold Site.setSeed
    rw [Site.fibre?_updFibre]
    split <;> cases x.heat.fibre? j <;> rfl
  · rfl

theorem Site.has_setSeed (x : Site) (i : Nat) (w : Word) (j q : Nat) (h : x.Has j q) : (x.setSeed i w).Has j q := by
  obtain ⟨f, hf, h⟩ := h
  refine ⟨if i = j then { f with seed := w } else f, ?_, ?_⟩
  · unfold Site.setSeed
    rw [Site.fibre?_updFibre, hf]
    split <;> rfl
  · split
    · rename_i hq
      rw [if_pos hq] at h
      split <;> exact h
    · rename_i hq
      rw [if_neg hq] at h
      exact h

theorem Site.seed_setSeed (x : Site) (i j : Nat) (w : Word) :
    (x.setSeed i w).seed j = if i = j ∧ (x.heat.fibre? j).isSome then w else x.seed j := by
  unfold Site.seed Site.setSeed
  rw [Site.fibre?_updFibre]
  by_cases h : i = j
  · cases hx : x.heat.fibre? j <;> simp [h]
  · simp [h]

theorem Site.sameBut_setSeed (x : Site) (i : Nat) (w : Word) : Site.SameBut x (x.setSeed i w) where
  rest := rfl
  fibres j := by
    unfold Site.setSeed
    rw [Site.fibre?_updFibre]
    split <;> cases x.heat.fibre? j <;> rfl
  holdsX := rfl
  isSome j h := by
    unfold Site.setSeed
    rw [Site.fibre?_updFibre]
    split
    · simpa using h
    · exact h

end Sys2Proof.Machine
end

