-- ==== Sys2Proof/Laws/Issue.lean ====
section
/-!
SUPPORT. What issuing an instruction comes to when its registers are there and hold values: the effect, on the state and
the unit with the issue accounted for; and what an effect that writes registers alone leaves.
-/

namespace Sys2Proof.Machine

/-! ### The checks pass -/

theorem Site.regCheck_none (x : Site) (i r : Nat) (h : x.Has i r) : x.regCheck i r = none := by
  obtain ⟨f, hf, h⟩ := h
  unfold Site.regCheck
  split
  · rfl
  · rename_i h16
    split
    · rename_i h128
      rw [if_pos h128] at h
      rw [hf]
      have : f.slotOf r = f.win + r := by unfold Fibre.slotOf; rw [if_neg h16]
      rw [this] at h
      simp only [ite_eq_right_iff, reduceCtorEq, imp_false]
      omega
    · rename_i h128
      rw [if_neg h128] at h
      rw [if_pos h.1]

theorem Site.fieldCheck_none (x : Site) (i r n : Nat) (h : ∀ k < n, x.Has i (r + k)) : x.fieldCheck i r n = none := by
  induction n generalizing r with
  | zero => rfl
  | succ n ih =>
    unfold Site.fieldCheck
    rw [Site.regCheck_none x i r (by simpa using h 0 (by omega))]
    exact ih (r + 1) fun k hk => by
      have := h (k + 1) (by omega)
      rwa [show r + (k + 1) = r + 1 + k by omega] at this

theorem Site.records_nil (x : Site) (i r n : Nat) (h : ∀ k < n, ∃ w, x.slot i (r + k) = .val w) : x.records i r n = [] := by
  induction n generalizing r with
  | zero => rfl
  | succ n ih =>
    obtain ⟨w, hw⟩ := h 0 (by omega)
    unfold Site.records
    have hw : x.slot i r = .val w := hw
    rw [hw]
    exact ih (r + 1) fun k hk => by
      have := h (k + 1) (by omega)
      rwa [show r + (k + 1) = r + 1 + k by omega] at this

theorem gateOf_nil (b : Nat → Bool) (rs : List (Nat × List Baton)) (h : ∀ p ∈ rs, p.2 = []) : gateOf b rs = .go := by
  unfold gateOf
  rw [if_pos]
  rw [List.all_eq_true]
  intro p hp
  simp [h p hp]

/-- Issuing an instruction whose registers are there and hold values is its effect on the accounted issue. -/
theorem issueWith_eq {s : State} {x : Site} {is : List Nat} {g : Guard} {d : Demand} (pass : Site → Nat → Bool)
    (h : Issues s x is g d.uses) (hb : x.barred d is = none) (hv : d.v0 = true → ∀ i ∈ is, x.Knows i 0)
    (eff : State → Site → List Nat → Out) :
    issueWith pass g d s eff = eff (s.account x).1 (s.account x).2 is := by
  unfold issueWith issueOn
  rw [h.here]
  have hgate : (if g = .always then Gate.go else gateOf (fun _ => true) (s.cur.batch.map fun i => (i, x.records i 0 1))) = .go := by
    split
    · rfl
    · rename_i hg
      apply gateOf_nil
      intro p hp
      obtain ⟨i, hi, rfl⟩ := List.mem_map.mp hp
      apply Site.records_nil
      intro k hk
      have : k = 0 := by omega
      subst this
      exact (h.known.resolve_left hg i hi).2
  simp only [hgate]
  have hex : x.executing s.cur.batch g = is := h.executing
  have hne : is.isEmpty = false := by
    cases his : is with
    | nil => exact absurd his h.nonempty
    | cons => rfl
  have hfields : x.fieldsCheck s.cur.pc is d.uses = none := by
    unfold Site.fieldsCheck
    rw [List.findSome?_eq_none_iff]
    intro u hu
    rw [List.findSome?_eq_none_iff]
    intro i hi
    rw [Site.fieldCheck_none x i u.reg u.n fun k hk => h.fields u hu i hi k hk]
    rfl
  have hmet : gateOf (fun i => !pass x i) (d.records x is) = .go := by
    apply gateOf_nil
    intro p hp
    obtain ⟨i, hi, rfl⟩ := List.mem_map.mp hp
    simp only [Site.met, List.append_eq_nil_iff, List.flatMap_eq_nil_iff, List.mem_filter]
    refine ⟨?_, ?_⟩
    · split
      · rename_i hv0
        apply Site.records_nil
        intro k hk
        have : k = 0 := by omega
        subst this
        exact (hv hv0 i hi).2
      · rfl
    · intro u hu
      exact Site.records_nil _ _ _ _ fun k hk => (h.values u hu.1 hu.2 i hi k hk).2
  rw [hex]
  simp only [hne, Bool.false_eq_true, if_false, hb, hfields, hmet]

/-- A demand on register fields alone bars no fibre. -/
theorem Site.barred_demand (x : Site) (us : List Use) (is : List Nat) : x.barred (demand us) is = none := by
  simp [Site.barred, demand]

theorem Site.barred_demandG (x : Site) (us : List Use) (is : List Nat) : x.barred (demandG us) is = none := by
  simp [Site.barred, demandG]

theorem issue_eq {s : State} {x : Site} {is : List Nat} {g : Guard} {us : List Use} (h : Issues s x is g us)
    (eff : State → Site → List Nat → Out) : issue g (demand us) s eff = eff (s.account x).1 (s.account x).2 is :=
  issueWith_eq _ h (Site.barred_demand x us is) (fun h => by simp [demand] at h) eff

/-! ### The accounted unit -/

/-- A charge changes the meets alone. -/
theorem State.chargeMeet_eq (s : State) (m d n : Nat) : s.chargeMeet m d n = { s with meets := (s.chargeMeet m d n).meets } := by
  unfold State.chargeMeet
  split
  · split <;> rfl
  · rfl

theorem State.account_snd (s : State) (x : Site) :
    (s.account x).2 = { x with
      team := { x.team with counters := (s.account x).2.team.counters }
      heat := { x.heat with fibres := (s.account x).2.heat.fibres, issued := x.heat.issued + 1, run := x.heat.run + 1,
                            waiting := false, long := false, tried := false } } := by
  unfold State.account State.charge
  simp only
  rw [Site.updFibres_eq]
  rfl

theorem State.account_fibre? (s : State) (x : Site) (i : Nat) :
    (s.account x).2.heat.fibre? i =
      if i ∈ s.cur.batch then (x.heat.fibre? i).map fun f => { f with last := x.heat.issued + 1, waits := false } else x.heat.fibre? i := by
  unfold State.account State.charge
  simp only
  rw [Site.fibre?_updFibres _ _ (fun f => { f with last := x.heat.issued + 1, waits := false }) (fun _ => rfl)]
  rw [State.chargeMeet_eq]
  rfl

/-- The account of an issue changes no register. -/
theorem State.account_slot (s : State) (x : Site) (i r : Nat) : (s.account x).2.slot i r = x.slot i r := by
  apply Site.slot_congr
  · rw [State.account_snd]
  · rw [State.account_fibre?]
    split <;> cases x.heat.fibre? i <;> rfl
  · rw [State.account_snd]

theorem State.account_word (s : State) (x : Site) (i r : Nat) : (s.account x).2.word i r = x.word i r := by
  unfold Site.word
  rw [State.account_slot]

theorem State.account_val (s : State) (x : Site) (i r n : Nat) : (s.account x).2.val i r n = x.val i r n := by
  induction n generalizing r with
  | zero => rfl
  | succ n ih =>
    unfold Site.val
    rw [State.account_word, ih]

theorem State.account_xset? (s : State) (x : Site) : (s.account x).2.xset? = x.xset? := by
  unfold Site.xset? Site.squad Site.heatNo
  rw [State.account_snd]

theorem State.account_has (s : State) (x : Site) (i r : Nat) (h : x.Has i r) : (s.account x).2.Has i r := by
  obtain ⟨f, hf, h⟩ := h
  have hx : (s.account x).2.holdsX = x.holdsX := by
    unfold Site.holdsX Site.isPacer Site.heatNo
    rw [State.account_xset?]
    rw [State.account_snd]
  refine ⟨if i ∈ s.cur.batch then { f with last := x.heat.issued + 1, waits := false } else f, ?_, ?_⟩
  · rw [State.account_fibre?, hf]
    split <;> rfl
  · rw [hx, State.account_xset?]
    split
    · rename_i hr
      rw [if_pos hr] at h
      split <;> exact h
    · rename_i hr
      rw [if_neg hr] at h
      exact h

/-- The state of an accounted issue differs in the meets alone. -/
theorem State.account_fst (s : State) (x : Site) : (s.account x).1 = { s with meets := (s.account x).1.meets } := by
  unfold State.account State.charge State.chargeMeet
  simp only
  split
  · split <;> rfl
  · rfl

theorem find?_map_key {α : Type} (l : List α) (key : α → Nat) (a : α) (k : Nat) (hk : key a ≠ k) :
    (l.map fun b => if key b = key a then a else b).find? (fun b => key b == k) = l.find? fun b => key b == k := by
  induction l with
  | nil => rfl
  | cons b r ih =>
    simp only [List.map_cons, List.find?_cons]
    by_cases h : key b = key a
    · have h1 : (key a == k) = false := by simpa using hk
      have h2 : (key b == k) = false := by rw [h]; exact h1
      rw [if_pos h, h1, h2]
      exact ih
    · rw [if_neg h]
      cases key b == k
      · exact ih
      · rfl

theorem State.account_meet? (s : State) (x : Site) (id : Nat) (h : id ≠ x.team.meet) : (s.account x).1.meet? id = s.meet? id := by
  unfold State.account State.charge State.chargeMeet
  simp only
  split
  · rename_i m hm
    split
    · unfold State.meet? State.setMeet
      have hid : m.id = x.team.meet := by
        have := List.find?_some hm
        simpa using this
      exact find?_map_key s.meets Meet.id { m with sums := SMap.bump m.sums x.team.cl.die 1 } id (by change m.id ≠ id; rw [hid]; exact Ne.symm h)
    · rfl
  · rfl

/-! ### Putting a unit back -/

theorem State.team?_setTeam_other (s : State) (t : Team) (id : Nat) (h : id ≠ t.id) : (s.setTeam t).team? id = s.team? id :=
  find?_map_key s.teams Team.id t id (Ne.symm h)

theorem find?_map_same {α : Type} (l : List α) (key : α → Nat) (a b : α) (k : Nat) (h : l.find? (fun c => key c == k) = some b) (hk : key a = k) :
    (l.map fun c => if key c = key a then a else c).find? (fun c => key c == k) = some a := by
  induction l with
  | nil => simp at h
  | cons c r ih =>
    simp only [List.map_cons, List.find?_cons] at h ⊢
    by_cases hc : key c = key a
    · rw [if_pos hc]
      simp [hk]
    · rw [if_neg hc]
      have : (key c == k) = false := by rw [hk] at hc; simpa using hc
      rw [this] at h ⊢
      exact ih h

theorem State.team?_setTeam (s : State) (t u : Team) (h : s.team? t.id = some u) : (s.setTeam t).team? t.id = some t :=
  find?_map_same s.teams Team.id t u t.id h rfl

theorem find?_map_upd2 {α : Type} (l : List α) (p : α → Bool) (a b : α) (h : l.find? p = some b) (ha : p a = true) :
    (l.map fun c => if p c = true then a else c).find? p = some a := by
  have := find?_map_upd l p (fun _ => a) (fun _ _ => ha)
  rw [this, h]
  rfl

/-- The unit that a team holds after it has been put back. -/
theorem Team.heat?_setHeat (t : Team) (w : Who) (h k : Heat) (hk : t.heat? w = some k) (hs : h.squad = k.squad) (hi : h.idx = k.idx) :
    (t.setHeat w h).heat? w = some h := by
  cases w with
  | pacer => rfl
  | heat q i =>
    unfold Team.heat? at hk ⊢
    unfold Team.setHeat
    have hp := List.find?_some hk
    simp only [decide_eq_true_eq] at hp
    have := find?_map_upd2 t.heats (fun x => decide (x.squad = q ∧ x.idx = i)) h k hk (by simp [hs, hi, hp])
    simpa using this

theorem Team.heat?_setHeat_other (t : Team) (w v : Who) (h k : Heat) (hk : t.heat? w = some k) (hs : h.squad = k.squad) (hi : h.idx = k.idx)
    (hv : v ≠ w) : (t.setHeat w h).heat? v = t.heat? v := by
  cases w with
  | pacer =>
    cases v with
    | pacer => exact absurd rfl hv
    | heat _ _ => rfl
  | heat q i =>
    cases v with
    | pacer => rfl
    | heat r j =>
      unfold Team.heat? Team.setHeat
      have hp := List.find?_some hk
      simp only [decide_eq_true_eq] at hp
      induction t.heats with
      | nil => rfl
      | cons a l ih =>
        simp only [List.map_cons, List.find?_cons]
        have hne : ¬ (q = r ∧ i = j) := by
          rintro ⟨rfl, rfl⟩
          exact hv rfl
        by_cases ha : a.squad = q ∧ a.idx = i
        · have h1 : decide (h.squad = r ∧ h.idx = j) = false := by simp only [hs, hi, hp.1, hp.2, decide_eq_false_iff_not]; exact hne
          have h2 : decide (a.squad = r ∧ a.idx = j) = false := by simp only [ha.1, ha.2, decide_eq_false_iff_not]; exact hne
          rw [if_pos ha, h1, h2]
          exact ih
        · rw [if_neg ha]
          cases decide (a.squad = r ∧ a.idx = j)
          · exact ih
          · rfl

theorem State.site?_some {s : State} {u : UnitRef} {x : Site} (h : s.site? u = some x) :
    x.u = u ∧ s.team? u.team = some x.team ∧ x.team.heat? u.who = some x.heat ∧ x.team.id = u.team := by
  unfold State.site? at h
  cases ht : s.team? u.team with
  | none => rw [ht] at h; simp at h
  | some t =>
    rw [ht] at h
    simp only [Option.bind_some] at h
    cases hh : t.heat? u.who with
    | none => rw [hh] at h; simp at h
    | some k =>
      rw [hh] at h
      simp only [Option.map_some, Option.some.injEq] at h
      subst h
      refine ⟨rfl, rfl, hh, ?_⟩
      have := List.find?_some ht
      simpa using this

/-- Putting back a unit that was there: it is found as it was put, and every other unit of its team, and every other team, as it stood. -/
theorem State.put_spec {s : State} {u : UnitRef} {x y : Site} (h : s.site? u = some x) (hu : y.u = x.u) (hid : y.team.id = x.team.id)
    (hh : y.team.heats = x.team.heats) (hp : y.team.pacer = x.team.pacer) (hs : y.heat.squad = x.heat.squad) (hi : y.heat.idx = x.heat.idx) :
    (s.put y).site? u = some { u := u, team := y.team.setHeat u.who y.heat, heat := y.heat } ∧
    (∀ w, w ≠ u.who → (y.team.setHeat u.who y.heat).heat? w = x.team.heat? w) ∧
    (∀ id, id ≠ x.team.id → (s.put y).team? id = s.team? id) := by
  obtain ⟨h1, h2, h3, h4⟩ := State.site?_some h
  have hy : y.u = u := hu.trans h1
  have hk : y.team.heat? u.who = some x.heat := by
    cases hw : u.who with
    | pacer =>
      rw [hw] at h3
      unfold Team.heat? at h3 ⊢
      rw [hp]
      exact h3
    | heat q i =>
      rw [hw] at h3
      unfold Team.heat? at h3 ⊢
      rw [hh]
      exact h3
  have hset : (y.team.setHeat u.who y.heat).id = u.team := by
    rw [← h4, ← hid]
    cases u.who <;> rfl
  refine ⟨?_, ?_, ?_⟩
  · unfold State.put State.site?
    rw [hy]
    have := State.team?_setTeam s (y.team.setHeat u.who y.heat) x.team (by rw [hset]; exact h2)
    rw [hset] at this
    rw [this]
    simp only [Option.bind_some]
    rw [Team.heat?_setHeat _ _ _ _ hk hs hi]
    rfl
  · intro w hw
    rw [Team.heat?_setHeat_other _ _ _ _ _ hk hs hi hw]
    cases w with
    | pacer => exact hp
    | heat q i => unfold Team.heat?; rw [hh]
  · intro id hne
    unfold State.put
    rw [hy]
    exact State.team?_setTeam_other _ _ _ (by rw [hset, ← h4]; exact hne)

end Sys2Proof.Machine
end

