-- ==== Sys2Proof/Laws/Effects.lean ====
section
/-!
SUPPORT. What an effect that writes registers and goes on can do: the registers it writes, the program counters of the batch, and nothing
else.
-/

namespace Sys2Proof.Machine

theorem Site.slot_advance (x : Site) (b : List Nat) (n i r : Nat) : (x.advance b n).slot i r = x.slot i r := by
  apply Site.slot_congr
  · unfold Site.advance
    rw [Site.updFibres_eq]
  · unfold Site.advance Site.updFibres
    induction b generalizing x with
    | nil => rfl
    | cons a l ih =>
      simp only [List.foldl_cons]
      rw [ih, Site.fibre?_updFibre]
      split <;> cases x.heat.fibre? i <;> rfl
  · unfold Site.advance
    rw [Site.updFibres_eq]

/-- The program counters after an advance of a batch that lists each fibre once. -/
theorem Site.fibre?_advance (x : Site) (b : List Nat) (hb : b.Nodup) (n i : Nat) :
    (x.advance b n).heat.fibre? i =
      if i ∈ b then (x.heat.fibre? i).map fun f => { f with pc := f.pc + BitVec.ofNat 56 n } else x.heat.fibre? i := by
  unfold Site.advance Site.updFibres
  induction b generalizing x with
  | nil => simp
  | cons a l ih =>
    simp only [List.foldl_cons]
    rw [ih (x.updFibre a _) (List.nodup_cons.mp hb).2, Site.fibre?_updFibre]
    by_cases h : a = i
    · subst h
      have := (List.nodup_cons.mp hb).1
      simp [this]
    · have : i ≠ a := fun e => h e.symm
      simp [h, this]

theorem Site.slot_team (x : Site) (t : Team) (h : t.xsets = x.team.xsets) (i r : Nat) : ({ x with team := t } : Site).slot i r = x.slot i r :=
  Site.slot_congr x { x with team := t } i r rfl rfl h

theorem Team.setHeat_xsets (t : Team) (w : Who) (h : Heat) : (t.setHeat w h).xsets = t.xsets := by cases w <;> rfl

theorem Team.setHeat_eq (t : Team) (w : Who) (h : Heat) :
    t.setHeat w h = { t with heats := (t.setHeat w h).heats, pacer := (t.setHeat w h).pacer } := by cases w <;> rfl

/-- A fold of changes that each differ in registers alone. -/
theorem sameBut_fold (f : Nat → Site → Site) (hf : ∀ i y, Site.SameBut y (f i y)) (is : List Nat) (x : Site) :
    Site.SameBut x (is.foldl (fun y i => f i y) x) := by
  induction is generalizing x with
  | nil => exact Site.SameBut.rfl' x
  | cons i r ih => exact (hf i x).trans (ih (f i x))

/-- An effect that changes registers alone: the state that follows, its frame, and its registers. -/
theorem regEffect_spec {s : State} {x : Site} {is : List Nat} {g : Guard} {us : List Use} (h : Issues s x is g us)
    (f : Site → Nat → Site → Site) (hf : ∀ z i y, Site.SameBut y (f z i y)) :
    ∃ t y, regEffect f (s.account x).1 (s.account x).2 is = .next t ∧ Frame s t x y ∧ Advanced s x y ∧
      (∀ i r, y.slot i r = (is.foldl (fun y i => f (s.account x).2 i y) (s.account x).2).slot i r) ∧
      ∀ i, y.seed i = (is.foldl (fun y i => f (s.account x).2 i y) (s.account x).2).seed i := by
  have hb := h.once
  have hz := sameBut_fold (f (s.account x).2) (hf _) is (s.account x).2
  generalize hzz : is.foldl (fun y i => f (s.account x).2 i y) (s.account x).2 = z at hz
  have hcur : (s.account x).1.cur = s.cur := by rw [State.account_fst]
  have hsite : (s.account x).1.site? s.cur.u = some x := by
    have := h.here
    unfold State.here State.site? State.team? at this
    unfold State.site? State.team?
    rw [State.account_fst]
    exact this
  obtain ⟨hxu, _, _, _⟩ := State.site?_some hsite
  -- the unit as it is put back
  have hadv : z.advance s.cur.batch s.cur.len =
      { z with heat := { z.heat with fibres := (z.advance s.cur.batch s.cur.len).heat.fibres } } := by
    unfold Site.advance
    exact Site.updFibres_eq _ _ _
  generalize hw : z.advance s.cur.batch s.cur.len = w at hadv
  have hacc := State.account_snd s x
  have hu : w.u = x.u := by rw [hadv, hz.rest, hacc]
  have hput := State.put_spec (y := w) hsite hu (by rw [hadv, hz.rest, hacc]) (by rw [hadv, hz.rest, hacc]) (by rw [hadv, hz.rest, hacc])
    (by rw [hadv, hz.rest, hacc]) (by rw [hadv, hz.rest, hacc])
  refine ⟨(s.account x).1.put w, { u := s.cur.u, team := w.team.setHeat s.cur.u.who w.heat, heat := w.heat }, ?_, ?_, ?_, ?_, ?_⟩
  · unfold regEffect State.done
    rw [hcur, hzz, hw]
  · refine ⟨⟨hput.1, ?_, ?_, ?_, ?_⟩, ?_, ?_⟩
    · rw [State.account_fst]
      rfl
    · intro id hid
      rw [hput.2.2 id hid]
      rw [State.account_fst]
      rfl
    · intro id hid
      exact State.account_meet? s x id hid
    · intro v hv
      have := hput.2.1 v (by rw [← hxu]; exact hv)
      exact this
    · change w.team.setHeat s.cur.u.who w.heat = _
      rw [Team.setHeat_eq, hadv, hz.rest, hacc]
    · change w.heat = _
      rw [hadv, hz.rest, hacc]
  · intro i
    change w.heat.fibre? i = (x.heat.fibre? i).bind fun f => (w.heat.fibre? i).map _
    have hzf := hz.fibres i
    rw [State.account_fibre?] at hzf
    have hwf : w.heat.fibre? i = if i ∈ s.cur.batch then (z.heat.fibre? i).map fun f => { f with pc := f.pc + BitVec.ofNat 56 s.cur.len } else z.heat.fibre? i := by
      rw [← hw]
      exact Site.fibre?_advance z s.cur.batch hb s.cur.len i
    rw [hwf]
    cases hx : x.heat.fibre? i with
    | none =>
      rw [hx] at hzf
      have : z.heat.fibre? i = none := by rw [hzf]; split <;> rfl
      rw [this]
      split <;> rfl
    | some k =>
      rw [hx] at hzf
      cases hzi : z.heat.fibre? i with
      | none => split <;> rfl
      | some m =>
        rw [hzi] at hzf
        by_cases hm : i ∈ s.cur.batch
        · simp only [if_pos hm, Option.map_some, Option.bind_some, Option.some.injEq] at hzf ⊢
          rw [hzf]
        · simp only [if_neg hm, Option.map_some, Option.bind_some, Option.some.injEq] at hzf ⊢
          rw [hzf]
  · intro i r
    rw [show ({ u := s.cur.u, team := w.team.setHeat s.cur.u.who w.heat, heat := w.heat } : Site).slot i r = w.slot i r from
      Site.slot_congr w _ i r (by rw [hu]; exact hxu.symm) rfl (Team.setHeat_xsets _ _ _)]
    rw [← hw]
    exact Site.slot_advance z _ _ _ _
  · intro i
    change ((w.heat.fibre? i).map Fibre.seed).getD 0 = ((z.heat.fibre? i).map Fibre.seed).getD 0
    rw [← hw]
    unfold Site.advance
    have : ∀ (b : List Nat) (z : Site), (((z.updFibres b fun f => { f with pc := f.pc + BitVec.ofNat 56 s.cur.len }).heat.fibre? i).map Fibre.seed).getD 0 =
        ((z.heat.fibre? i).map Fibre.seed).getD 0 := by
      intro b
      unfold Site.updFibres
      induction b with
      | nil => intro _; rfl
      | cons a l ih =>
        intro z
        simp only [List.foldl_cons]
        rw [ih, Site.fibre?_updFibre]
        split <;> cases z.heat.fibre? i <;> rfl
    exact this _ _

/-! ### One effect in each executing fibre -/

/-- The guard bit of an effect. -/
def Effect.bitOn (e : Effect) (i : Nat) (y : Site) : Site :=
  match e.bit with
  | some (g, b) => y.setGuard i g (b i)
  | none => y

/-- The seed of an effect. -/
def Effect.seedOn (e : Effect) (i : Nat) (y : Site) : Site :=
  match e.seed with
  | some f => y.setSeed i (f i)
  | none => y

/-- Write an effect in one fibre, its guard bit and its seed last. -/
def Site.write (y : Site) (e : Effect) (i : Nat) : Site := e.seedOn i (e.bitOn i (y.setVal i e.d e.n (e.v i)))

theorem Effect.sameBut_bitOn (e : Effect) (i : Nat) (y : Site) : Site.SameBut y (e.bitOn i y) := by
  unfold Effect.bitOn
  split
  · exact Site.sameBut_setSlot _ _ _ _
  · exact Site.SameBut.rfl' y

theorem Effect.sameBut_seedOn (e : Effect) (i : Nat) (y : Site) : Site.SameBut y (e.seedOn i y) := by
  unfold Effect.seedOn
  split
  · exact Site.sameBut_setSeed _ _ _
  · exact Site.SameBut.rfl' y

theorem Site.sameBut_write (y : Site) (e : Effect) (i : Nat) : Site.SameBut y (y.write e i) :=
  ((Site.sameBut_setVal y i e.d e.n (e.v i)).trans (e.sameBut_bitOn i _)).trans (e.sameBut_seedOn i _)

theorem Effect.has_bitOn (e : Effect) (i : Nat) (y : Site) (j q : Nat) (h : y.Has j q) : (e.bitOn i y).Has j q := by
  unfold Effect.bitOn
  split
  · exact Site.has_setSlot _ _ _ _ _ _ h
  · exact h

theorem Effect.has_seedOn (e : Effect) (i : Nat) (y : Site) (j q : Nat) (h : y.Has j q) : (e.seedOn i y).Has j q := by
  unfold Effect.seedOn
  split
  · exact Site.has_setSeed _ _ _ _ _ h
  · exact h

theorem Site.has_write (y : Site) (e : Effect) (i j q : Nat) (h : y.Has j q) : (y.write e i).Has j q :=
  e.has_seedOn i _ j q (e.has_bitOn i _ j q (Site.has_setVal y i e.d e.n (e.v i) j q h))

theorem Effect.slot_seedOn (e : Effect) (i : Nat) (y : Site) (j q : Nat) : (e.seedOn i y).slot j q = y.slot j q := by
  unfold Effect.seedOn
  split
  · exact Site.slot_setSeed _ _ _ _ _
  · rfl

theorem Effect.slot_bitOn (e : Effect) (i : Nat) (y : Site) (j q : Nat) (h : i ≠ j ∨ q ≠ 0) : (e.bitOn i y).slot j q = y.slot j q := by
  unfold Effect.bitOn
  split
  · exact Site.slot_setSlot_other _ _ _ _ _ _ (by omega)
  · rfl

theorem Effect.slot_bitOn_zero (e : Effect) (i : Nat) (y : Site) (h : e.bit.isSome → y.Has i 0) :
    (e.bitOn i y).slot i 0 = match e.bit with
      | none => y.slot i 0
      | some (g, b) => .val (setBit (y.slot i 0).word g (b i)) := by
  unfold Effect.bitOn
  cases he : e.bit with
  | none => rfl
  | some p => exact Site.slot_setSlot _ _ _ _ (h (by rw [he]; rfl))

theorem Effect.seed_bitOn (e : Effect) (i : Nat) (y : Site) (j : Nat) : (e.bitOn i y).seed j = y.seed j := by
  unfold Effect.bitOn
  split
  · exact Site.seed_setSlot _ _ _ _ _
  · rfl

/-- What one write leaves in another fibre, or in a register it does not name. -/
theorem Site.slot_write_other (y : Site) (e : Effect) (i j r : Nat) (h : i ≠ j ∨ (r ≠ 0 ∧ (r < e.d ∨ e.d + e.n ≤ r))) :
    (y.write e i).slot j r = y.slot j r := by
  unfold Site.write
  rw [Effect.slot_seedOn, Effect.slot_bitOn _ _ _ _ _ (by omega), Site.slot_setVal_other _ _ _ _ _ _ _ (by omega)]

/-- What one write puts into its own fibre. -/
theorem Site.slot_write (y : Site) (e : Effect) (i : Nat) (hd : ∀ k < e.n, y.Has i (e.d + k)) (h0 : e.bit.isSome → y.Has i 0) :
    (∀ k < e.n, e.d + k ≠ 0 → (y.write e i).slot i (e.d + k) = .val (wd (e.v i / 2 ^ (32 * k)))) ∧ (y.write e i).slot i 0 = e.v0 y i := by
  have hv : ∀ k < e.n, (y.setVal i e.d e.n (e.v i)).slot i (e.d + k) = .val (wd (e.v i / 2 ^ (32 * k))) := fun k hk => Site.slot_setVal _ _ _ _ _ hd k hk
  have h0v : (y.setVal i e.d e.n (e.v i)).slot i 0 = if e.d = 0 ∧ 0 < e.n then .val (wd (e.v i)) else y.slot i 0 := by
    split
    · rename_i h
      have := hv 0 h.2
      rw [h.1] at this
      rw [h.1]
      simpa using this
    · exact Site.slot_setVal_other _ _ _ _ _ _ _ (by omega)
  unfold Site.write
  constructor
  · intro k hk hne
    rw [Effect.slot_seedOn, Effect.slot_bitOn _ _ _ _ _ (Or.inr hne), hv k hk]
  · rw [Effect.slot_seedOn, Effect.slot_bitOn_zero _ _ _ fun hb => Site.has_setVal _ _ _ _ _ _ _ (h0 hb), h0v]
    rfl

/-- Writing an effect in each of some fibres. -/
theorem wrote_fold (is : List Nat) (e : Effect) (x : Site) (hd : ∀ i ∈ is, ∀ k < e.n, x.Has i (e.d + k)) (h0 : e.bit.isSome → ∀ i ∈ is, x.Has i 0)
    (hl : ∀ i ∈ is, (x.heat.fibre? i).isSome) (hn : is.Nodup) : Wrote x (is.foldl (fun y i => y.write e i) x) is e := by
  induction is using List.reverseRecOn with
  | nil =>
    refine ⟨fun i hi => absurd hi (by simp), fun i hi => absurd hi (by simp), fun _ _ _ => rfl, fun i => ?_⟩
    split <;> simp
  | append_singleton l a ih =>
    have hnl : l.Nodup ∧ a ∉ l := by
      rw [List.nodup_append] at hn
      refine ⟨hn.1, fun h => ?_⟩
      exact hn.2.2 a h a (by simp) rfl
    have ih := ih (fun i hi => hd i (by simp [hi])) (fun hb i hi => h0 hb i (by simp [hi])) (fun i hi => hl i (by simp [hi])) hnl.1
    simp only [List.foldl_append, List.foldl_cons, List.foldl_nil]
    generalize hz : l.foldl (fun y i => y.write e i) x = z at ih
    have hhas : ∀ (l : List Nat) (j q : Nat), x.Has j q → (l.foldl (fun y i => y.write e i) x).Has j q := by
      intro l
      induction l using List.reverseRecOn with
      | nil => exact fun _ _ h => h
      | append_singleton l b ihb =>
        intro j q h
        simp only [List.foldl_append, List.foldl_cons, List.foldl_nil]
        exact Site.has_write _ _ _ _ _ (ihb j q h)
    have hza : ∀ q, x.Has a q → z.Has a q := fun q h => hz ▸ hhas l a q h
    have hslot : ∀ r, z.slot a r = x.slot a r := fun r => ih.others a r (Or.inl hnl.2)
    have hw := Site.slot_write z e a (fun k hk => hza _ (hd a (by simp) k hk)) (fun hb => hza _ (h0 hb a (by simp)))
    have hne : ∀ i ∈ l, a ≠ i := fun i hi h => hnl.2 (h ▸ hi)
    constructor
    · intro i hi k hk hk0
      rcases List.mem_append.mp hi with h | h
      · rw [Site.slot_write_other _ _ _ _ _ (Or.inl (hne i h))]
        exact ih.result i h k hk hk0
      · rw [List.mem_singleton.mp h]
        exact hw.1 k hk hk0
    · intro i hi
      rcases List.mem_append.mp hi with h | h
      · rw [Site.slot_write_other _ _ _ _ _ (Or.inl (hne i h))]
        exact ih.v0 i h
      · rw [List.mem_singleton.mp h, hw.2]
        unfold Effect.v0
        rw [hslot]
    · intro i r hr
      rw [Site.slot_write_other _ _ _ _ _ (by
        rcases hr with h | h
        · exact Or.inl fun ha => h (by simp [ha])
        · exact Or.inr h)]
      exact ih.others i r (by
        rcases hr with h | h
        · exact Or.inl fun ha => h (by simp [ha])
        · exact Or.inr h)
    · intro i
      have ihs := ih.seeds i
      unfold Site.write
      have hlive : a = i → (Heat.fibre? (Site.heat (e.bitOn a (z.setVal a e.d e.n (e.v a)))) i).isSome = true := by
        intro hai
        have hx : (x.heat.fibre? i).isSome := hl i (by simp [hai])
        have hs : Site.SameBut x (e.bitOn a (z.setVal a e.d e.n (e.v a))) := by
          rw [← hz]
          exact ((sameBut_fold (fun i y => y.write e i) (fun i y => Site.sameBut_write y e i) l x).trans (Site.sameBut_setVal _ _ _ _ _)).trans (e.sameBut_bitOn _ _)
        exact hs.isSome i hx
      unfold Effect.seedOn
      cases he : e.seed with
      | none =>
        rw [he] at ihs
        simp only
        rw [Effect.seed_bitOn, Site.seed_setVal, ihs]
      | some f =>
        rw [he] at ihs
        simp only at ihs ⊢
        rw [Site.seed_setSeed, Effect.seed_bitOn, Site.seed_setVal, ihs]
        by_cases hai : a = i
        · rw [if_pos ⟨hai, hlive hai⟩]
          simp [hai]
        · have : i ≠ a := fun h => hai h.symm
          simp [hai, this]

/-- The wrote relation from the accounted unit is one from the unit. -/
theorem Wrote.ofAccount {s : State} {x y : Site} {is : List Nat} {e : Effect} (h : Wrote (s.account x).2 y is e) : Wrote x y is e where
  result := h.result
  v0 i hi := by
    rw [h.v0 i hi]
    unfold Effect.v0
    rw [State.account_slot]
  others i r hr := by rw [h.others i r hr, State.account_slot]
  seeds i := by
    rw [h.seeds i]
    have : (s.account x).2.seed i = x.seed i := by
      unfold Site.seed
      rw [State.account_fibre?]
      split <;> cases x.heat.fibre? i <;> rfl
    rw [this]

/-- An instruction whose registers are there and hold values, and whose effect in each executing fibre is a write: it answers a next state
with that effect and nothing else. -/
theorem writes_spec {s : State} {x : Site} {is : List Nat} {g : Guard} {d : Demand} (pass : Site → Nat → Bool)
    (h : Issues s x is g d.uses) (hb : x.barred d is = none) (hv : d.v0 = true → ∀ i ∈ is, x.Knows i 0)
    (e : Site → Effect) (f : Site → Nat → Site → Site)
    (hf : ∀ i ∈ is, ∀ y, f (s.account x).2 i y = y.write (e (s.account x).2) i)
    (hfs : ∀ z i y, Site.SameBut y (f z i y))
    (hd : ∀ i ∈ is, ∀ k < (e (s.account x).2).n, x.Has i ((e (s.account x).2).d + k))
    (h0 : (e (s.account x).2).bit.isSome → ∀ i ∈ is, x.Has i 0) :
    ∃ t y, issueWith pass g d s (regEffect f) = .next t ∧ Frame s t x y ∧ Advanced s x y ∧ Wrote x y is (e (s.account x).2) := by
  rw [issueWith_eq pass h hb hv]
  obtain ⟨t, y, h1, h2, h3, h4, h5⟩ := regEffect_spec (us := d.uses) h f hfs
  have hn := h.once
  have hl : ∀ i ∈ is, (x.heat.fibre? i).isSome := fun i hi => h.live i (by
    rw [← h.executing] at hi
    unfold Site.executing at hi
    split at hi
    · exact hi
    · exact (List.mem_filter.mp hi).1
    · exact (List.mem_filter.mp hi).1)
  have hin : is.Nodup := by
    rw [← h.executing]
    unfold Site.executing
    split
    · exact hn
    · exact hn.filter _
    · exact hn.filter _
  have hfold : ∀ (l : List Nat) (z : Site), (∀ i ∈ l, i ∈ is) → l.foldl (fun y i => f (s.account x).2 i y) z =
      l.foldl (fun y i => y.write (e (s.account x).2) i) z := by
    intro l
    induction l with
    | nil => intros; rfl
    | cons a r ih =>
      intro z hz
      simp only [List.foldl_cons]
      rw [hf a (hz a (by simp)), ih _ fun i hi => hz i (by simp [hi])]
  rw [hfold is _ fun _ hi => hi] at h4 h5
  have hw := wrote_fold is (e (s.account x).2) (s.account x).2 (fun i hi k hk => State.account_has s x _ _ (hd i hi k hk))
    (fun hb i hi => State.account_has s x _ _ (h0 hb i hi)) (fun i hi => by
      rw [State.account_fibre?]
      split
      · simpa using hl i hi
      · exact hl i hi) hin
  refine ⟨t, y, h1, h2, h3, Wrote.ofAccount (s := s) ⟨?_, ?_, ?_, ?_⟩⟩
  · intro i hi k hk hk0
    rw [h4]
    exact hw.result i hi k hk hk0
  · intro i hi
    rw [h4]
    exact hw.v0 i hi
  · intro i r hr
    rw [h4]
    exact hw.others i r hr
  · intro i
    rw [h5]
    exact hw.seeds i

end Sys2Proof.Machine
end

