-- ==== Sys2Proof/Laws/Memory.lean ====
section
/-!
SUPPORT. Memory: reading after writing, and that every operation keeps the canonical form.
-/

namespace Sys2Proof.Machine

@[simp] theorem Memory.get_nil (a : Nat) : Memory.get [] a = 0 := rfl

theorem Memory.get_cons (k : Nat) (v : Byte) (r : List Host.Cell) (a : Nat) :
    Memory.get ((k, v) :: r) a = if k = a then v else Memory.get r a := rfl

/-- A canonical memory above a bound is one above every lower bound. -/
theorem Memory.wfFrom_mono {lo hi : Nat} (h : lo ≤ hi) : ∀ m : List Host.Cell, Memory.wfFrom hi m = true → Memory.wfFrom lo m = true
  | [], _ => rfl
  | (k, v) :: r, w => by
    simp only [Memory.wfFrom, Bool.and_eq_true, decide_eq_true_eq] at w ⊢
    exact ⟨⟨by omega, w.1.2⟩, w.2⟩

/-- A canonical memory lists nothing below its bound. -/
theorem Memory.get_of_lt : ∀ (m : List Host.Cell) (lo a : Nat), Memory.wfFrom lo m = true → a < lo → Memory.get m a = 0
  | [], _, _, _, _ => rfl
  | (k, v) :: r, lo, a, w, h => by
    simp only [Memory.wfFrom, Bool.and_eq_true, decide_eq_true_eq] at w
    rw [Memory.get_cons, if_neg (by omega)]
    exact Memory.get_of_lt r (k + 1) a w.2 (by omega)

/-- A byte just written reads back from a canonical memory. -/
theorem Memory.get_set_same : ∀ (m : List Host.Cell) (lo a : Nat) (b : Byte), Memory.wfFrom lo m = true → Memory.get (Memory.set m a b) a = b
  | [], _, a, b, _ => by
    by_cases h : b = Memory.unlisted
    · rw [show Memory.set [] a b = [] by simp [Memory.set, h]]
      exact h.symm
    · simp [Memory.set, h, Memory.get_cons]
  | (k, v) :: r, lo, a, b, w => by
    simp only [Memory.wfFrom, Bool.and_eq_true, decide_eq_true_eq] at w
    by_cases h1 : a < k
    · by_cases h : b = Memory.unlisted
      · rw [show Memory.set ((k, v) :: r) a b = (k, v) :: r by simp [Memory.set, h1, h], Memory.get_cons, if_neg (by omega), h]
        exact Memory.get_of_lt r (k + 1) a w.2 (by omega)
      · rw [show Memory.set ((k, v) :: r) a b = (a, b) :: (k, v) :: r by simp [Memory.set, h1, h], Memory.get_cons, if_pos rfl]
    · by_cases h2 : k = a
      · by_cases h : b = Memory.unlisted
        · rw [show Memory.set ((k, v) :: r) a b = r by simp [Memory.set, h2, h], h]
          exact Memory.get_of_lt r (k + 1) a w.2 (by omega)
        · rw [show Memory.set ((k, v) :: r) a b = (a, b) :: r by simp [Memory.set, h2, h], Memory.get_cons, if_pos rfl]
      · rw [show Memory.set ((k, v) :: r) a b = (k, v) :: Memory.set r a b by simp [Memory.set, h1, h2], Memory.get_cons, if_neg h2]
        exact Memory.get_set_same r (k + 1) a b w.2

/-- Writing one byte leaves every other byte. -/
theorem Memory.get_set_other : ∀ (m : List Host.Cell) (a c : Nat) (b : Byte), c ≠ a → Memory.get (Memory.set m a b) c = Memory.get m c
  | [], a, c, b, h => by
    by_cases hb : b = Memory.unlisted
    · simp [Memory.set, hb]
    · simp [Memory.set, hb, Memory.get_cons, Ne.symm h]
  | (k, v) :: r, a, c, b, h => by
    have := Memory.get_set_other r a c b h
    unfold Memory.set
    split_ifs with h1 h2 h2 h3
    · rfl
    · rw [Memory.get_cons, if_neg (Ne.symm h)]
    · rw [Memory.get_cons, if_neg (by omega)]
    · rw [Memory.get_cons, Memory.get_cons, if_neg (Ne.symm h), if_neg (by omega)]
    · rw [Memory.get_cons, Memory.get_cons, this]

/-- Writing one byte keeps the canonical form. -/
theorem Memory.wfFrom_set : ∀ (m : List Host.Cell) (lo a : Nat) (b : Byte), lo ≤ a → Memory.wfFrom lo m = true →
    Memory.wfFrom lo (Memory.set m a b) = true
  | [], lo, a, b, h, _ => by
    by_cases hb : b = Memory.unlisted
    · simp [Memory.set, hb, Memory.wfFrom]
    · simp [Memory.set, hb, Memory.wfFrom, h]
  | (k, v) :: r, lo, a, b, h, w => by
    have w' := w
    simp only [Memory.wfFrom, Bool.and_eq_true, decide_eq_true_eq] at w
    unfold Memory.set
    split_ifs with h1 h2 h3 h4
    · exact w'
    · simp only [Memory.wfFrom, Bool.and_eq_true, decide_eq_true_eq]
      exact ⟨⟨h, h2⟩, ⟨by omega, w.1.2⟩, w.2⟩
    · exact Memory.wfFrom_mono (by omega) r w.2
    · simp only [Memory.wfFrom, Bool.and_eq_true, decide_eq_true_eq]
      exact ⟨⟨h, h4⟩, h3 ▸ w.2⟩
    · simp only [Memory.wfFrom, Bool.and_eq_true, decide_eq_true_eq]
      exact ⟨w.1, Memory.wfFrom_set r (k + 1) a b (by omega) w.2⟩

theorem Memory.wf_set (m : List Host.Cell) (a : Nat) (b : Byte) (h : Memory.wf m = true) : Memory.wf (Memory.set m a b) = true :=
  Memory.wfFrom_set m 0 a b (Nat.zero_le _) h

/-- Writing bytes keeps the canonical form. -/
theorem Memory.wf_write : ∀ (bs : List Byte) (m : List Host.Cell) (a : Nat), Memory.wf m = true → Memory.wf (Memory.write m a bs) = true
  | [], _, _, h => h
  | b :: bs, m, a, h => Memory.wf_write bs _ _ (Memory.wf_set m a b h)

/-- Dropping cells keeps the canonical form. -/
theorem Memory.wfFrom_filter (p : Host.Cell → Bool) : ∀ (m : List Host.Cell) (lo : Nat), Memory.wfFrom lo m = true →
    Memory.wfFrom lo (m.filter p) = true
  | [], _, _ => rfl
  | (k, v) :: r, lo, w => by
    simp only [Memory.wfFrom, Bool.and_eq_true, decide_eq_true_eq] at w
    have := Memory.wfFrom_filter p r (k + 1) w.2
    rw [List.filter_cons]
    split
    · simp only [Memory.wfFrom, Bool.and_eq_true, decide_eq_true_eq]
      exact ⟨w.1, this⟩
    · exact Memory.wfFrom_mono (by omega) _ this

theorem Memory.wf_filter (p : Host.Cell → Bool) (m : List Host.Cell) (h : Memory.wf m = true) : Memory.wf (m.filter p) = true :=
  Memory.wfFrom_filter p m 0 h

/-- Dropping cells by their addresses empties those addresses and leaves every other. -/
theorem Memory.get_filter (q : Nat → Bool) : ∀ (m : List Host.Cell) (a : Nat),
    Memory.get (m.filter fun c => q c.1) a = if q a = true then Memory.get m a else 0
  | [], a => by rw [List.filter_nil, Memory.get_nil, ite_self]
  | (k, v) :: r, a => by
    have ih := Memory.get_filter q r a
    rw [List.filter_cons, Memory.get_cons]
    split
    · rename_i h
      rw [Memory.get_cons, ih]
      by_cases h2 : k = a
      · rw [if_pos h2, if_pos h2, if_pos (h2 ▸ h)]
      · rw [if_neg h2, if_neg h2]
    · rename_i h
      rw [ih]
      by_cases h2 : k = a
      · rw [if_neg (h2 ▸ h), if_neg (h2 ▸ h)]
      · rw [if_neg h2]

/-- Writing bytes leaves every byte outside them. -/
theorem Memory.get_write_other : ∀ (bs : List Byte) (m : List Host.Cell) (a c : Nat), c < a ∨ a + bs.length ≤ c →
    Memory.get (Memory.write m a bs) c = Memory.get m c
  | [], _, _, _, _ => rfl
  | b :: bs, m, a, c, h => by
    simp only [List.length_cons] at h
    exact (Memory.get_write_other bs (Memory.set m a b) (a + 1) c (by omega)).trans (Memory.get_set_other m a c b (by omega))

/-- Bytes just written read back from a canonical memory. -/
theorem Memory.read_write : ∀ (bs : List Byte) (m : List Host.Cell) (a : Nat), Memory.wf m = true →
    Memory.read (Memory.write m a bs) a bs.length = bs
  | [], _, _, _ => rfl
  | b :: bs, m, a, h => by
    have h1 := Memory.wf_set m a b h
    show Memory.get (Memory.write (Memory.set m a b) (a + 1) bs) a :: Memory.read (Memory.write (Memory.set m a b) (a + 1) bs) (a + 1) bs.length = b :: bs
    rw [Memory.get_write_other bs _ _ _ (by omega), Memory.get_set_same m 0 a b h, Memory.read_write bs _ _ h1]

/-- The bytes read are those of the addresses. -/
theorem Memory.length_read : ∀ (n : Nat) (m : List Host.Cell) (a : Nat), (Memory.read m a n).length = n
  | 0, _, _ => rfl
  | n + 1, m, a => congrArg (· + 1) (Memory.length_read n m (a + 1))

/-- Combining U lines with memory keeps the canonical form. -/
theorem wf_applyU : ∀ (ls : List ULine) (m : List Host.Cell), Memory.wf m = true → Memory.wf (ls.foldl applyU m) = true
  | [], _, h => h
  | l :: ls, m, h => wf_applyU ls _ (Memory.wf_write _ m l.pa h)

theorem State.wf_recallU (s : State) (pa n : Nat) (h : Memory.wf s.mem = true) : Memory.wf (s.recallU pa n).mem = true :=
  wf_applyU _ _ h

theorem State.wf_homeRead (s : State) (pa n : Nat) (h : Memory.wf s.mem = true) : Memory.wf (s.homeRead pa n).2.mem = true :=
  s.wf_recallU pa n h

theorem State.wf_homeWrite (s : State) (pa : Nat) (bs : List Byte) (h : Memory.wf s.mem = true) : Memory.wf (s.homeWrite pa bs).mem = true :=
  Memory.wf_write bs _ pa (s.wf_recallU pa bs.length h)

/-- What is written at a home reads back there. -/
theorem State.read_homeWrite (s : State) (pa : Nat) (bs : List Byte) (h : Memory.wf s.mem = true) :
    Memory.read (s.homeWrite pa bs).mem pa bs.length = bs :=
  Memory.read_write bs _ pa (s.wf_recallU pa bs.length h)

/-- A bank that changes its mode keeps the canonical form of what is left of an allocation. -/
theorem wf_loseBank (b : Nat) : ∀ (gs : List Seg) (o : Nat) (m : List Host.Cell), Memory.wf m = true → Memory.wf (loseBank b gs o m).2 = true
  | [], _, _, h => h
  | g :: r, o, m, h => by
    simp only [loseBank]
    split
    · exact wf_loseBank b r _ _ (Memory.wf_filter _ m h)
    · exact wf_loseBank b r _ _ h

end Sys2Proof.Machine
end

