-- ==== Sys2Proof/Laws/Operands.lean ====
section
/-!
SUPPORT. The operands of an instruction are the same before and after its issue is accounted, and a register that holds a value holds no record.
-/

namespace Sys2Proof.Machine

variable (s : State) (x : Site) (e : Ext) (i : Nat)

@[simp] theorem account_slot (r : Nat) : (s.account x).2.slot i r = x.slot i r := State.account_slot s x i r
@[simp] theorem account_word (r : Nat) : (s.account x).2.word i r = x.word i r := State.account_word s x i r
@[simp] theorem account_val (r n : Nat) : (s.account x).2.val i r n = x.val i r n := State.account_val s x i r n
@[simp] theorem account_guard (g : Nat) : (s.account x).2.guard i g = x.guard i g := by unfold Site.guard; rw [account_word]
@[simp] theorem account_srcA : (s.account x).2.srcA i e = x.srcA i e := account_val s x i _ _
@[simp] theorem account_srcC : (s.account x).2.srcC i e = x.srcC i e := account_val s x i _ _
@[simp] theorem account_second (n m : Nat) : (s.account x).2.second i e n m = x.second i e n m := by unfold Site.second; rw [account_val]
@[simp] theorem account_srcB : (s.account x).2.srcB i e = x.srcB i e := account_second s x e i _ _
@[simp] theorem account_src32 : (s.account x).2.src32 i e = x.src32 i e := by unfold Site.src32; rw [account_second]
@[simp] theorem account_srcN : (s.account x).2.srcN i e = x.srcN i e := by unfold Site.srcN; rw [account_second]
@[simp] theorem account_srcOfs (b : Bool) : (s.account x).2.srcOfs i e b = x.srcOfs i e b := by unfold Site.srcOfs; rw [account_val]
@[simp] theorem account_u : (s.account x).2.u = x.u := by rw [State.account_snd]
@[simp] theorem account_cl : (s.account x).2.team.cl = x.team.cl := by rw [State.account_snd]
@[simp] theorem account_team_ctx : (s.account x).2.team.ctx = x.team.ctx := by rw [State.account_snd]
@[simp] theorem account_team_meet : (s.account x).2.team.meet = x.team.meet := by rw [State.account_snd]
@[simp] theorem account_masks : (s.account x).2.heat.masks = x.heat.masks := by rw [State.account_snd]
@[simp] theorem account_cur : (s.account x).1.cur = s.cur := by rw [State.account_fst]
@[simp] theorem account_mem : (s.account x).1.mem = s.mem := by rw [State.account_fst]
@[simp] theorem account_dies : (s.account x).1.dies = s.dies := by rw [State.account_fst]
@[simp] theorem account_ctxs : (s.account x).1.ctxs = s.ctxs := by rw [State.account_fst]
@[simp] theorem account_teams : (s.account x).1.teams = s.teams := by rw [State.account_fst]

@[simp] theorem account_seed : (s.account x).2.seed i = x.seed i := by
  unfold Site.seed
  rw [State.account_fibre?]
  split <;> cases x.heat.fibre? i <;> rfl

@[simp] theorem account_coreId? : (s.account x).2.coreId? = x.coreId? := by
  unfold Site.coreId? Site.core?
  rw [State.account_snd]

@[simp] theorem account_generic (m a : Nat) : (s.account x).2.generic m a = x.generic m a := by
  unfold Site.generic
  rw [account_coreId?, account_cl]

/-- A register that holds a value holds no record. -/
theorem Site.Knows.record? {x : Site} {i r : Nat} (h : x.Knows i r) : x.record? i r = none := by
  obtain ⟨_, w, hw⟩ := h
  unfold Site.record?
  rw [hw]

theorem account_record? (r : Nat) : (s.account x).2.record? i r = x.record? i r := by unfold Site.record?; rw [account_slot]

/-- Whether an instruction issues depends on the registers it names alone. -/
theorem Issues.mono {s : State} {x : Site} {is : List Nat} {g : Guard} {us vs : List Use} (h : Issues s x is g us) (hs : ∀ u ∈ vs, u ∈ us) :
    Issues s x is g vs where
  here := h.here
  once := h.once
  live := h.live
  known := h.known
  executing := h.executing
  nonempty := h.nonempty
  fields u hu := h.fields u (hs u hu)
  values u hu := h.values u (hs u hu)

/-- The executing fibres are of the batch, each once. -/
theorem Issues.sub {s : State} {x : Site} {is : List Nat} {g : Guard} {us : List Use} (h : Issues s x is g us) : ∀ i ∈ is, i ∈ s.cur.batch := by
  intro i hi
  rw [← h.executing] at hi
  unfold Site.executing at hi
  split at hi
  · exact hi
  · exact (List.mem_filter.mp hi).1
  · exact (List.mem_filter.mp hi).1

/-! ### What the shared shapes of a register instruction can do -/

/-- An effect that is a write in each executing fibre. -/
theorem issue_computes {s : State} {x : Site} {is : List Nat} {g : Guard} {us : List Use} (h : Issues s x is g us) (ef : Site → Effect)
    (f : Site → Nat → Site → Site) (hf : ∀ z i y, f z i y = y.write (ef z) i) (he : ef (s.account x).2 = ef x)
    (hd : ∀ i ∈ is, ∀ k < (ef x).n, x.Has i ((ef x).d + k)) (h0 : (ef x).bit.isSome → ∀ i ∈ is, x.Has i 0) :
    Computes (issue g (demand us) s (regEffect f)) s x is (ef x) := by
  have := writes_spec (fun _ _ => false) (d := demand us) h (Site.barred_demand _ _ _) (fun h => by simp [demand] at h) ef f
    (fun i _ y => hf _ _ _) (fun z i y => by rw [hf]; exact Site.sameBut_write _ _ _) (by rw [he]; exact hd) (by rw [he]; exact h0)
  rwa [he] at this

/-- The same where guard bits are read or written. -/
theorem issueG_computes {s : State} {x : Site} {is : List Nat} {g : Guard} {us : List Use} (h : Issues s x is g (readV0 :: us)) (ef : Site → Effect)
    (f : Site → Nat → Site → Site) (hf : ∀ z i y, f z i y = y.write (ef z) i) (he : ef (s.account x).2 = ef x)
    (hd : ∀ i ∈ is, ∀ k < (ef x).n, x.Has i ((ef x).d + k)) : Computes (issue g (demandG us) s (regEffect f)) s x is (ef x) := by
  have hk : ∀ i ∈ is, x.Knows i 0 := fun i hi => h.values readV0 (by simp) rfl i hi 0 (by simp [readV0])
  have := writes_spec (fun _ _ => false) (d := demandG us) (h.mono fun u hu => List.mem_cons_of_mem _ hu) (Site.barred_demandG _ _ _)
    (fun _ => hk) ef f (fun i _ y => hf _ _ _) (fun z i y => by rw [hf]; exact Site.sameBut_write _ _ _) (by rw [he]; exact hd)
    (fun _ i hi => (hk i hi).1)
  rwa [he] at this

theorem perFibre_computes {s : State} {x : Site} {is : List Nat} {e : Ext} {us : List Use} (h : Issues s x is e.guard us)
    (hd : useD e e.ty.regs ∈ us ∨ readD e e.ty.regs ∈ us) (v : Site → Nat → Nat) (hv : v (s.account x).2 = v x) :
    Computes (perFibre e us s v) s x is (toD e (v x)) := by
  refine issue_computes h (fun z => toD e (v z)) _ (fun _ _ _ => rfl) (by simp [hv]) ?_ (by simp [toD])
  rcases hd with hd | hd
  · exact fun i hi k hk => h.fields _ hd i hi k hk
  · exact fun i hi k hk => h.fields _ hd i hi k hk

theorem perFibre32_computes {s : State} {x : Site} {is : List Nat} {e : Ext} {us : List Use} (h : Issues s x is e.guard us)
    (hd : useD e 1 ∈ us) (v : Site → Nat → Nat) (hv : v (s.account x).2 = v x) : Computes (perFibre32 e us s v) s x is (toD32 e (v x)) :=
  issue_computes h (fun z => toD32 e (v z)) _ (fun _ _ _ => rfl) (by simp [hv]) (fun i hi k hk => h.fields _ hd i hi k hk) (by simp [toD32])

theorem passOn_computes {s : State} {x : Site} {is : List Nat} {e : Ext} {us : List Use} (h : Issues s x is e.guard us)
    (hd : useD e e.ty.regs ∈ us) (xf : Site → Nat → Option Slot) (v : Site → Nat → Nat) (hv : v (s.account x).2 = v x)
    (hx : ∀ i ∈ is, xf (s.account x).2 i = none) : Computes (passOn e us xf s v) s x is (toD e (v x)) := by
  have := writes_spec (fun x i => (xf x i).isSome) (d := demand us) h (Site.barred_demand _ _ _) (fun h => by simp [demand] at h)
    (fun z => toD e (v z)) (fun x i y => match xf x i with
      | some r => y.setSlot i e.d.toNat r
      | none => y.dst i e (v x i))
    (fun i hi y => by simp only [hx i hi]; rfl) (fun z i y => by
      split
      · exact Site.sameBut_setSlot _ _ _ _
      · exact Site.sameBut_setVal _ _ _ _ _) (fun i hi k hk => h.fields _ hd i hi k hk) (by simp [toD])
  simp only [hv] at this
  exact this

theorem Ty.regs_pos (ty : Ty) : 0 < ty.regs := by cases ty <;> decide

theorem Issues.noRecordA {s : State} {x : Site} {is : List Nat} {g : Guard} {us : List Use} {e : Ext} (n : Nat) (h : Issues s x is g us)
    (ha : readA e n ∈ us) (hn : 0 < n) : ∀ i ∈ is, (s.account x).2.record? i e.a.toNat = none := by
  intro i hi
  rw [account_record?]
  exact (h.values _ ha rfl i hi 0 hn).record?

theorem Issues.noRecordB {s : State} {x : Site} {is : List Nat} {g : Guard} {us : List Use} {e : Ext} (n : Nat) (h : Issues s x is g us)
    (hb : ∀ u ∈ readB e n, u ∈ us) (hn : 0 < n) : ∀ i ∈ is, (if e.osel = 0 then (s.account x).2.record? i e.b.toNat else none) = none := by
  intro i hi
  split
  · rename_i ho
    rw [account_record?]
    exact (h.values { reg := e.b.toNat, n := n, rd := true } (hb _ (by simp [readB, ho])) rfl i hi 0 hn).record?
  · rfl

/-- Where both operands hold values there is no record to transform. -/
theorem xform2_none {s : State} {x : Site} {is : List Nat} {e : Ext} (h : Issues s x is e.guard (uses3 e)) (p q : Word → Option (Word × Word)) :
    ∀ i ∈ is, xform2 e p q (s.account x).2 i = none := by
  intro i hi
  unfold xform2
  split
  · rfl
  · rw [Issues.noRecordA e.ty.regs h (by simp [uses3]) (Ty.regs_pos _) i hi,
      Issues.noRecordB e.ty.regs h (fun u hu => by simp [uses3, hu]) (Ty.regs_pos _) i hi]

end Sys2Proof.Machine
end

