-- ==== Sys2Proof/Laws/PerInstr.lean ====
section
/-!
SUPPORT. One fact for each instruction: the number of words of its encoding (R150), none for an event.
-/

namespace Sys2Proof.Laws.EncodedLength

/-- An instruction has one, three or five words; an event has none. -/
def Statement (i : Instr) : Prop := (encode i).length ∈ [0, 1, 3, 5]

theorem of_any (i : Instr) : Statement i := by
  unfold Statement encode
  split
  · simp
  · split
    · unfold encodeExt
      rename_i m e _
      cases e.form <;> simp
    · simp [encodeJump]
    · simp

theorem nopExt (e : Ext) : Statement (.nopExt e) := of_any _
theorem yieldExt (e : Ext) : Statement (.yieldExt e) := of_any _
theorem endExt (e : Ext) : Statement (.endExt e) := of_any _
theorem add (x : BitVec 7) (a : BitVec 8) (d : BitVec 8) : Statement (.add x a d) := of_any _
theorem addExt (e : Ext) : Statement (.addExt e) := of_any _
theorem sub (x : BitVec 7) (a : BitVec 8) (d : BitVec 8) : Statement (.sub x a d) := of_any _
theorem subExt (e : Ext) : Statement (.subExt e) := of_any _
theorem addc (x : BitVec 7) (a : BitVec 8) (d : BitVec 8) : Statement (.addc x a d) := of_any _
theorem addcExt (e : Ext) : Statement (.addcExt e) := of_any _
theorem subb (x : BitVec 7) (a : BitVec 8) (d : BitVec 8) : Statement (.subb x a d) := of_any _
theorem subbExt (e : Ext) : Statement (.subbExt e) := of_any _
theorem mul (x : BitVec 7) (a : BitVec 8) (d : BitVec 8) : Statement (.mul x a d) := of_any _
theorem mulExt (e : Ext) : Statement (.mulExt e) := of_any _
theorem mulh (x : BitVec 7) (a : BitVec 8) (d : BitVec 8) : Statement (.mulh x a d) := of_any _
theorem mulhExt (e : Ext) : Statement (.mulhExt e) := of_any _
theorem mad (e : Ext) : Statement (.mad e) := of_any _
theorem div (x : BitVec 7) (a : BitVec 8) (d : BitVec 8) : Statement (.div x a d) := of_any _
theorem divExt (e : Ext) : Statement (.divExt e) := of_any _
theorem rem (x : BitVec 7) (a : BitVec 8) (d : BitVec 8) : Statement (.rem x a d) := of_any _
theorem remExt (e : Ext) : Statement (.remExt e) := of_any _
theorem neg (a : BitVec 8) (d : BitVec 8) : Statement (.neg a d) := of_any _
theorem negExt (e : Ext) : Statement (.negExt e) := of_any _
theorem abs (a : BitVec 8) (d : BitVec 8) : Statement (.abs a d) := of_any _
theorem absExt (e : Ext) : Statement (.absExt e) := of_any _
theorem min (x : BitVec 7) (a : BitVec 8) (d : BitVec 8) : Statement (.min x a d) := of_any _
theorem minExt (e : Ext) : Statement (.minExt e) := of_any _
theorem max (x : BitVec 7) (a : BitVec 8) (d : BitVec 8) : Statement (.max x a d) := of_any _
theorem maxExt (e : Ext) : Statement (.maxExt e) := of_any _
theorem and (x : BitVec 7) (a : BitVec 8) (d : BitVec 8) : Statement (.and x a d) := of_any _
theorem andExt (e : Ext) : Statement (.andExt e) := of_any _
theorem or (x : BitVec 7) (a : BitVec 8) (d : BitVec 8) : Statement (.or x a d) := of_any _
theorem orExt (e : Ext) : Statement (.orExt e) := of_any _
theorem xor (x : BitVec 7) (a : BitVec 8) (d : BitVec 8) : Statement (.xor x a d) := of_any _
theorem xorExt (e : Ext) : Statement (.xorExt e) := of_any _
theorem andn (x : BitVec 7) (a : BitVec 8) (d : BitVec 8) : Statement (.andn x a d) := of_any _
theorem andnExt (e : Ext) : Statement (.andnExt e) := of_any _
theorem not (a : BitVec 8) (d : BitVec 8) : Statement (.not a d) := of_any _
theorem notExt (e : Ext) : Statement (.notExt e) := of_any _
theorem shl (x : BitVec 7) (a : BitVec 8) (d : BitVec 8) : Statement (.shl x a d) := of_any _
theorem shlExt (e : Ext) : Statement (.shlExt e) := of_any _
theorem shr (x : BitVec 7) (a : BitVec 8) (d : BitVec 8) : Statement (.shr x a d) := of_any _
theorem shrExt (e : Ext) : Statement (.shrExt e) := of_any _
theorem sha (x : BitVec 7) (a : BitVec 8) (d : BitVec 8) : Statement (.sha x a d) := of_any _
theorem shaExt (e : Ext) : Statement (.shaExt e) := of_any _
theorem rot (x : BitVec 7) (a : BitVec 8) (d : BitVec 8) : Statement (.rot x a d) := of_any _
theorem rotExt (e : Ext) : Statement (.rotExt e) := of_any _
theorem bfx (e : Ext) : Statement (.bfx e) := of_any _
theorem bfi (e : Ext) : Statement (.bfi e) := of_any _
theorem popc (a : BitVec 8) (d : BitVec 8) : Statement (.popc a d) := of_any _
theorem popcExt (e : Ext) : Statement (.popcExt e) := of_any _
theorem clz (a : BitVec 8) (d : BitVec 8) : Statement (.clz a d) := of_any _
theorem clzExt (e : Ext) : Statement (.clzExt e) := of_any _
theorem ctz (a : BitVec 8) (d : BitVec 8) : Statement (.ctz a d) := of_any _
theorem ctzExt (e : Ext) : Statement (.ctzExt e) := of_any _
theorem brev (a : BitVec 8) (d : BitVec 8) : Statement (.brev a d) := of_any _
theorem brevExt (e : Ext) : Statement (.brevExt e) := of_any _
theorem perm (x : BitVec 7) (a : BitVec 8) (d : BitVec 8) : Statement (.perm x a d) := of_any _
theorem permExt (e : Ext) : Statement (.permExt e) := of_any _
theorem mov (a : BitVec 8) (d : BitVec 8) : Statement (.mov a d) := of_any _
theorem movExt (e : Ext) : Statement (.movExt e) := of_any _
theorem movi (i : BitVec 7) (d : BitVec 8) : Statement (.movi i d) := of_any _
theorem moviExt (e : Ext) : Statement (.moviExt e) := of_any _
theorem lit (e : Ext) : Statement (.lit e) := of_any _
theorem sel (e : Ext) : Statement (.sel e) := of_any _
theorem cmp (x : BitVec 7) (a : BitVec 8) (g : BitVec 5) : Statement (.cmp x a g) := of_any _
theorem cmpExt (e : Ext) : Statement (.cmpExt e) := of_any _
theorem cmpv (x : BitVec 7) (a : BitVec 8) (d : BitVec 8) : Statement (.cmpv x a d) := of_any _
theorem cmpvExt (e : Ext) : Statement (.cmpvExt e) := of_any _
theorem lea (x : BitVec 7) (a : BitVec 8) (d : BitVec 8) : Statement (.lea x a d) := of_any _
theorem leaExt (e : Ext) : Statement (.leaExt e) := of_any _
theorem sptest (a : BitVec 8) (d : BitVec 8) : Statement (.sptest a d) := of_any _
theorem sptestExt (e : Ext) : Statement (.sptestExt e) := of_any _
theorem spcastOfs (a : BitVec 8) (d : BitVec 8) : Statement (.spcastOfs a d) := of_any _
theorem spcastOfsExt (e : Ext) : Statement (.spcastOfsExt e) := of_any _
theorem spcastGen (a : BitVec 8) (d : BitVec 8) : Statement (.spcastGen a d) := of_any _
theorem spcastGenExt (e : Ext) : Statement (.spcastGenExt e) := of_any _
theorem gop (f : BitVec 3) (a : BitVec 5) (d : BitVec 5) : Statement (.gop f a d) := of_any _
theorem gopExt (e : Ext) : Statement (.gopExt e) := of_any _
theorem bra (o : BitVec 23) : Statement (.bra o) := of_any _
theorem braExt (j : JExt) : Statement (.braExt j) := of_any _
theorem call (o : BitVec 23) : Statement (.call o) := of_any _
theorem callExt (j : JExt) : Statement (.callExt j) := of_any _
theorem callW (j : JExt) : Statement (.callW j) := of_any _
theorem brx (a : BitVec 8) : Statement (.brx a) := of_any _
theorem brxExt (e : Ext) : Statement (.brxExt e) := of_any _
theorem callx (a : BitVec 8) : Statement (.callx a) := of_any _
theorem callxExt (e : Ext) : Statement (.callxExt e) := of_any _
theorem callxW (e : Ext) : Statement (.callxW e) := of_any _
theorem retExt (e : Ext) : Statement (.retExt e) := of_any _
theorem join (m : BitVec 4) : Statement (.join m) := of_any _
theorem joinExt (e : Ext) : Statement (.joinExt e) := of_any _
theorem leave (m : BitVec 4) : Statement (.leave m) := of_any _
theorem leaveExt (e : Ext) : Statement (.leaveExt e) := of_any _
theorem waitm (m : BitVec 4) : Statement (.waitm m) := of_any _
theorem waitmExt (e : Ext) : Statement (.waitmExt e) := of_any _
theorem mset (a : BitVec 8) (m : BitVec 4) : Statement (.mset a m) := of_any _
theorem msetExt (e : Ext) : Statement (.msetExt e) := of_any _
theorem mget (a : BitVec 8) (m : BitVec 4) : Statement (.mget a m) := of_any _
theorem mgetExt (e : Ext) : Statement (.mgetExt e) := of_any _
theorem fork (e : Ext) : Statement (.fork e) := of_any _
theorem vote (a : BitVec 5) (d : BitVec 8) : Statement (.vote a d) := of_any _
theorem voteExt (e : Ext) : Statement (.voteExt e) := of_any _
theorem shfl (a : BitVec 8) (d : BitVec 8) : Statement (.shfl a d) := of_any _
theorem shflExt (e : Ext) : Statement (.shflExt e) := of_any _
theorem bcast (a : BitVec 8) (d : BitVec 8) : Statement (.bcast a d) := of_any _
theorem bcastExt (e : Ext) : Statement (.bcastExt e) := of_any _
theorem xlockExt (e : Ext) : Statement (.xlockExt e) := of_any _
theorem xfreeExt (e : Ext) : Statement (.xfreeExt e) := of_any _
theorem ld (i : BitVec 7) (a : BitVec 8) (d : BitVec 8) : Statement (.ld i a d) := of_any _
theorem ldExt (e : Ext) : Statement (.ldExt e) := of_any _
theorem st (i : BitVec 7) (a : BitVec 8) (d : BitVec 8) : Statement (.st i a d) := of_any _
theorem stExt (e : Ext) : Statement (.stExt e) := of_any _
theorem ldx (e : Ext) : Statement (.ldx e) := of_any _
theorem stx (e : Ext) : Statement (.stx e) := of_any _
theorem pref (i : BitVec 7) (a : BitVec 8) : Statement (.pref i a) := of_any _
theorem prefExt (e : Ext) : Statement (.prefExt e) := of_any _
theorem flush (a : BitVec 8) : Statement (.flush a) := of_any _
theorem flushExt (e : Ext) : Statement (.flushExt e) := of_any _
theorem flushInv (a : BitVec 8) : Statement (.flushInv a) := of_any _
theorem flushInvExt (e : Ext) : Statement (.flushInvExt e) := of_any _
theorem pgarm (e : Ext) : Statement (.pgarm e) := of_any _
theorem amo (e : Ext) : Statement (.amo e) := of_any _
theorem red (e : Ext) : Statement (.red e) := of_any _
theorem cas (e : Ext) : Statement (.cas e) := of_any _
theorem fenceExt (e : Ext) : Statement (.fenceExt e) := of_any _
theorem phaseExt (e : Ext) : Statement (.phaseExt e) := of_any _
theorem wdrainExt (e : Ext) : Statement (.wdrainExt e) := of_any _
theorem btnSync (a : BitVec 8) : Statement (.btnSync a) := of_any _
theorem btnSyncExt (e : Ext) : Statement (.btnSyncExt e) := of_any _
theorem btnTest (a : BitVec 8) (g : BitVec 5) : Statement (.btnTest a g) := of_any _
theorem btnTestExt (e : Ext) : Statement (.btnTestExt e) := of_any _
theorem barInit (a : BitVec 8) (d : BitVec 8) : Statement (.barInit a d) := of_any _
theorem barInitExt (e : Ext) : Statement (.barInitExt e) := of_any _
theorem barArv (a : BitVec 8) (d : BitVec 8) : Statement (.barArv a d) := of_any _
theorem barArvExt (e : Ext) : Statement (.barArvExt e) := of_any _
theorem barExp (a : BitVec 8) (d : BitVec 8) : Statement (.barExp a d) := of_any _
theorem barExpExt (e : Ext) : Statement (.barExpExt e) := of_any _
theorem barWait (a : BitVec 8) (d : BitVec 8) : Statement (.barWait a d) := of_any _
theorem barWaitExt (e : Ext) : Statement (.barWaitExt e) := of_any _
theorem barTry (a : BitVec 8) (d : BitVec 8) : Statement (.barTry a d) := of_any _
theorem barTryExt (e : Ext) : Statement (.barTryExt e) := of_any _
theorem fifoMap (e : Ext) : Statement (.fifoMap e) := of_any _
theorem fifoPut (a : BitVec 8) (d : BitVec 8) : Statement (.fifoPut a d) := of_any _
theorem fifoPutExt (e : Ext) : Statement (.fifoPutExt e) := of_any _
theorem fifoGet (a : BitVec 8) (d : BitVec 8) : Statement (.fifoGet a d) := of_any _
theorem fifoGetExt (e : Ext) : Statement (.fifoGetExt e) := of_any _
theorem fifoClose (d : BitVec 8) : Statement (.fifoClose d) := of_any _
theorem fifoCloseExt (e : Ext) : Statement (.fifoCloseExt e) := of_any _
theorem fifoStat (a : BitVec 8) (d : BitVec 8) : Statement (.fifoStat a d) := of_any _
theorem fifoStatExt (e : Ext) : Statement (.fifoStatExt e) := of_any _
theorem cpy (e : Ext) : Statement (.cpy e) := of_any _
theorem cpyWait (e : Ext) : Statement (.cpyWait e) := of_any _
theorem cpyPtr (e : Ext) : Statement (.cpyPtr e) := of_any _
theorem cpyPtrSt (e : Ext) : Statement (.cpyPtrSt e) := of_any _
theorem cpyPtrClr (e : Ext) : Statement (.cpyPtrClr e) := of_any _
theorem trgAdd (e : Ext) : Statement (.trgAdd e) := of_any _
theorem trgSet (e : Ext) : Statement (.trgSet e) := of_any _
theorem trgWait (e : Ext) : Statement (.trgWait e) := of_any _
theorem trgArm (e : Ext) : Statement (.trgArm e) := of_any _
theorem bankcfg (e : Ext) : Statement (.bankcfg e) := of_any _
theorem fadd (x : BitVec 7) (a : BitVec 8) (d : BitVec 8) : Statement (.fadd x a d) := of_any _
theorem faddExt (e : Ext) : Statement (.faddExt e) := of_any _
theorem fsub (x : BitVec 7) (a : BitVec 8) (d : BitVec 8) : Statement (.fsub x a d) := of_any _
theorem fsubExt (e : Ext) : Statement (.fsubExt e) := of_any _
theorem fmul (x : BitVec 7) (a : BitVec 8) (d : BitVec 8) : Statement (.fmul x a d) := of_any _
theorem fmulExt (e : Ext) : Statement (.fmulExt e) := of_any _
theorem fma (e : Ext) : Statement (.fma e) := of_any _
theorem fms (e : Ext) : Statement (.fms e) := of_any _
theorem fnma (e : Ext) : Statement (.fnma e) := of_any _
theorem fmin (x : BitVec 7) (a : BitVec 8) (d : BitVec 8) : Statement (.fmin x a d) := of_any _
theorem fminExt (e : Ext) : Statement (.fminExt e) := of_any _
theorem fmax (x : BitVec 7) (a : BitVec 8) (d : BitVec 8) : Statement (.fmax x a d) := of_any _
theorem fmaxExt (e : Ext) : Statement (.fmaxExt e) := of_any _
theorem fabs (a : BitVec 8) (d : BitVec 8) : Statement (.fabs a d) := of_any _
theorem fabsExt (e : Ext) : Statement (.fabsExt e) := of_any _
theorem fneg (a : BitVec 8) (d : BitVec 8) : Statement (.fneg a d) := of_any _
theorem fnegExt (e : Ext) : Statement (.fnegExt e) := of_any _
theorem fcpys (e : Ext) : Statement (.fcpys e) := of_any _
theorem fcmp (e : Ext) : Statement (.fcmp e) := of_any _
theorem fclass (a : BitVec 8) (d : BitVec 8) : Statement (.fclass a d) := of_any _
theorem fclassExt (e : Ext) : Statement (.fclassExt e) := of_any _
theorem frcp (a : BitVec 8) (d : BitVec 8) : Statement (.frcp a d) := of_any _
theorem frcpExt (e : Ext) : Statement (.frcpExt e) := of_any _
theorem frsq (a : BitVec 8) (d : BitVec 8) : Statement (.frsq a d) := of_any _
theorem frsqExt (e : Ext) : Statement (.frsqExt e) := of_any _
theorem fsqrt (a : BitVec 8) (d : BitVec 8) : Statement (.fsqrt a d) := of_any _
theorem fsqrtExt (e : Ext) : Statement (.fsqrtExt e) := of_any _
theorem fdiv (x : BitVec 7) (a : BitVec 8) (d : BitVec 8) : Statement (.fdiv x a d) := of_any _
theorem fdivExt (e : Ext) : Statement (.fdivExt e) := of_any _
theorem fexp2 (a : BitVec 8) (d : BitVec 8) : Statement (.fexp2 a d) := of_any _
theorem fexp2Ext (e : Ext) : Statement (.fexp2Ext e) := of_any _
theorem flog2 (a : BitVec 8) (d : BitVec 8) : Statement (.flog2 a d) := of_any _
theorem flog2Ext (e : Ext) : Statement (.flog2Ext e) := of_any _
theorem fsin (a : BitVec 8) (d : BitVec 8) : Statement (.fsin a d) := of_any _
theorem fsinExt (e : Ext) : Statement (.fsinExt e) := of_any _
theorem fcos (a : BitVec 8) (d : BitVec 8) : Statement (.fcos a d) := of_any _
theorem fcosExt (e : Ext) : Statement (.fcosExt e) := of_any _
theorem ftanh (a : BitVec 8) (d : BitVec 8) : Statement (.ftanh a d) := of_any _
theorem ftanhExt (e : Ext) : Statement (.ftanhExt e) := of_any _
theorem frnd (a : BitVec 8) (d : BitVec 8) : Statement (.frnd a d) := of_any _
theorem frndExt (e : Ext) : Statement (.frndExt e) := of_any _
theorem fscale (x : BitVec 7) (a : BitVec 8) (d : BitVec 8) : Statement (.fscale x a d) := of_any _
theorem fscaleExt (e : Ext) : Statement (.fscaleExt e) := of_any _
theorem f2i (e : Ext) : Statement (.f2i e) := of_any _
theorem i2f (e : Ext) : Statement (.i2f e) := of_any _
theorem fcvt (e : Ext) : Statement (.fcvt e) := of_any _
theorem dot2 (e : Ext) : Statement (.dot2 e) := of_any _
theorem dot4 (e : Ext) : Statement (.dot4 e) := of_any _
theorem hred (e : Ext) : Statement (.hred e) := of_any _
theorem qpack (e : Ext) : Statement (.qpack e) := of_any _
theorem qunpack (e : Ext) : Statement (.qunpack e) := of_any _
theorem qscale (e : Ext) : Statement (.qscale e) := of_any _
theorem qchk (e : Ext) : Statement (.qchk e) := of_any _
theorem topk (e : Ext) : Statement (.topk e) := of_any _
theorem topkm (e : Ext) : Statement (.topkm e) := of_any _
theorem sbound (e : Ext) : Statement (.sbound e) := of_any _
theorem mxbind (e : Ext) : Statement (.mxbind e) := of_any _
theorem mxma (e : Ext) : Statement (.mxma e) := of_any _
theorem mxzero (e : Ext) : Statement (.mxzero e) := of_any _
theorem mxwaitExt (e : Ext) : Statement (.mxwaitExt e) := of_any _
theorem mxfenceExt (e : Ext) : Statement (.mxfenceExt e) := of_any _
theorem mxstat (d : BitVec 8) : Statement (.mxstat d) := of_any _
theorem mxstatExt (e : Ext) : Statement (.mxstatExt e) := of_any _
theorem awset (e : Ext) : Statement (.awset e) := of_any _
theorem accrd (e : Ext) : Statement (.accrd e) := of_any _
theorem accwr (e : Ext) : Statement (.accwr e) := of_any _
theorem txfer (e : Ext) : Statement (.txfer e) := of_any _
theorem txcoll (e : Ext) : Statement (.txcoll e) := of_any _
theorem txwait (e : Ext) : Statement (.txwait e) := of_any _
theorem tsend (e : Ext) : Statement (.tsend e) := of_any _
theorem sysrd (e : Ext) : Statement (.sysrd e) := of_any _
theorem syswr (e : Ext) : Statement (.syswr e) := of_any _
theorem trap (i : BitVec 7) : Statement (.trap i) := of_any _
theorem trapExt (e : Ext) : Statement (.trapExt e) := of_any _
theorem eretExt (e : Ext) : Statement (.eretExt e) := of_any _
theorem brk (i : BitVec 7) : Statement (.brk i) := of_any _
theorem brkExt (e : Ext) : Statement (.brkExt e) := of_any _
theorem perfrd (e : Ext) : Statement (.perfrd e) := of_any _
theorem budget (e : Ext) : Statement (.budget e) := of_any _
theorem nop : Statement (.nop) := of_any _
theorem yield : Statement (.yield) := of_any _
theorem endI : Statement (.endI) := of_any _
theorem ret : Statement (.ret) := of_any _
theorem xlock : Statement (.xlock) := of_any _
theorem xfree : Statement (.xfree) := of_any _
theorem fence : Statement (.fence) := of_any _
theorem phase : Statement (.phase) := of_any _
theorem wdrain : Statement (.wdrain) := of_any _
theorem mxwait : Statement (.mxwait) := of_any _
theorem mxfence : Statement (.mxfence) := of_any _
theorem eret : Statement (.eret) := of_any _
theorem driverBankcfg (by_ : DriverRef) (team : Nat) (cl : ClusterRef) (e : Ext) : Statement (.driverBankcfg by_ team cl e) := of_any _
theorem driverAwset (driver : Nat) (ctx : Nat) (team : Nat) (cl : ClusterRef) (e : Ext) : Statement (.driverAwset driver ctx team cl e) := of_any _
theorem driverSyswr (by_ : DriverRef) (team : Option Nat) (e : Ext) (v : DWord) : Statement (.driverSyswr by_ team e v) := of_any _
theorem queueDescribe (q : Nat) (desc : QueueDesc) : Statement (.queueDescribe q desc) := of_any _
theorem tailRegisterStore (vf : Nat) (index : Nat) (v : Word) : Statement (.tailRegisterStore vf index v) := of_any _
theorem notifyPageOtherStore (vf : Nat) (offset : Nat) (width : Nat) : Statement (.notifyPageOtherStore vf offset width) := of_any _
theorem entryConsume (q : Nat) : Statement (.entryConsume q) := of_any _
theorem entryReread (q : Nat) : Statement (.entryReread q) := of_any _
theorem reservationRequest (q : Nat) (meet : Nat) (keeper : Nat) : Statement (.reservationRequest q meet keeper) := of_any _
theorem reservationAnswer (q : Nat) (meet : Nat) (keeper : Nat) : Statement (.reservationAnswer q meet keeper) := of_any _
theorem reservationTimeout (q : Nat) : Statement (.reservationTimeout q) := of_any _
theorem reservationCommit (q : Nat) (meet : Nat) (keeper : Nat) : Statement (.reservationCommit q meet keeper) := of_any _
theorem reservationRelease (q : Nat) (keeper : Nat) : Statement (.reservationRelease q keeper) := of_any _
theorem lapBoundary : Statement (.lapBoundary) := of_any _
theorem lapLengthSet (us : Nat) : Statement (.lapLengthSet us) := of_any _
theorem tenantRecordSet (tenant : Nat) (rate : Nat) (policy : Policy) (lend : Bool) (borrow : Bool) : Statement (.tenantRecordSet tenant rate policy lend borrow) := of_any _
theorem partitionConfig (part : Nat) (cmd : PartCmd) : Statement (.partitionConfig part cmd) := of_any _
theorem meetLaunch (meet : Nat) : Statement (.meetLaunch meet) := of_any _
theorem batchHandout (meet : Nat) (field : Nat) (die : Nat) (count : Nat) : Statement (.batchHandout meet field die count) := of_any _
theorem teamPlacement (meet : Nat) (field : Nat) (cl : ClusterRef) (cores : List Nat) : Statement (.teamPlacement meet field cl cores) := of_any _
theorem teamRetirement (team : Nat) : Statement (.teamRetirement team) := of_any _
theorem chargeReport (meet : Nat) (die : Nat) : Statement (.chargeReport meet die) := of_any _
theorem tenantRevoke (tenant : Nat) (queue : Option Nat) : Statement (.tenantRevoke tenant queue) := of_any _
theorem saveRequest (part : Nat) (waiting : Nat) : Statement (.saveRequest part waiting) := of_any _
theorem contextSave (team : Nat) : Statement (.contextSave team) := of_any _
theorem pageResponse (ctx : Nat) (gen : Word) (page : Nat) (answer : PageAnswer) : Statement (.pageResponse ctx gen page answer) := of_any _
theorem atsCompletion (ctx : Nat) (tlb : TlbId) (va : Pc) : Statement (.atsCompletion ctx tlb va) := of_any _
theorem shootdown (ctx : Nat) (lo : Nat) (size : Nat) (tlbs : List TlbId) : Statement (.shootdown ctx lo size tlbs) := of_any _
theorem pageWalkCompletion (ctx : Nat) (tlb : TlbId) (va : Pc) (kind : AccKind) : Statement (.pageWalkCompletion ctx tlb va kind) := of_any _
theorem contextRestore (team : Nat) : Statement (.contextRestore team) := of_any _
theorem awaitValueArrival (u : UnitRef) (tag : BitVec 6) (fibre : Nat) (v : Arrival) : Statement (.awaitValueArrival u tag fibre v) := of_any _
theorem contextKill (ctx : Nat) : Statement (.contextKill ctx) := of_any _
theorem framePoolRegister (ctx : Nat) (die : Nat) (range : PhysRange) : Statement (.framePoolRegister ctx die range) := of_any _
theorem valueArrival (u : UnitRef) (tag : BitVec 6) : Statement (.valueArrival u tag) := of_any _
theorem forcedSwap (cl : ClusterRef) (core : Nat) (track : Nat) : Statement (.forcedSwap cl core track) := of_any _
theorem pendingSwap (cl : ClusterRef) (core : Nat) (track : Nat) : Statement (.pendingSwap cl core track) := of_any _
theorem rotation (cl : ClusterRef) (core : Nat) (track : Nat) : Statement (.rotation cl core track) := of_any _
theorem deferredTrapDelivery (team : Nat) : Statement (.deferredTrapDelivery team) := of_any _
theorem leaseExpiry (die : Nat) (line : Nat) : Statement (.leaseExpiry die line) := of_any _
theorem writeAcknowledgement (u : UnitRef) : Statement (.writeAcknowledgement u) := of_any _
theorem homeRequest (r : HomeReq) : Statement (.homeRequest r) := of_any _
theorem invalidationAck (id : Nat) (holder : Nat) : Statement (.invalidationAck id holder) := of_any _
theorem externalAccess (x : ExtAccess) : Statement (.externalAccess x) := of_any _
theorem backInvalidateSnoop (at_ : PortLine) : Statement (.backInvalidateSnoop at_) := of_any _
theorem birsp (line : Nat) (host : Nat) : Statement (.birsp line host) := of_any _
theorem classChange (which : TenantPage) (cls : PageClass) : Statement (.classChange which cls) := of_any _
theorem classTransition (page : Nat) : Statement (.classTransition page) := of_any _
theorem copyStart (cl : ClusterRef) (chan : Nat) : Statement (.copyStart cl chan) := of_any _
theorem copyPortionWritten (cl : ClusterRef) (chan : Nat) (count : Nat) : Statement (.copyPortionWritten cl chan count) := of_any _
theorem copyFault (cl : ClusterRef) (chan : Nat) : Statement (.copyFault cl chan) := of_any _
theorem tileFetchChunk (team : Nat) : Statement (.tileFetchChunk team) := of_any _
theorem tileFetchFault (team : Nat) : Statement (.tileFetchFault team) := of_any _
theorem arrayChunk (team : Nat) : Statement (.arrayChunk team) := of_any _
theorem arrayZero (team : Nat) : Statement (.arrayZero team) := of_any _
theorem armedOperationStart (team : Nat) (handle : Word) : Statement (.armedOperationStart team handle) := of_any _
theorem txferLaunchTime (team : Nat) (handle : Word) : Statement (.txferLaunchTime team handle) := of_any _
theorem txferCompletion (team : Nat) (which : XferEnd) : Statement (.txferCompletion team which) := of_any _
theorem tsendPacketSend (team : Nat) (handle : Word) : Statement (.tsendPacketSend team handle) := of_any _
theorem taskPacketCheck (which : TaskArrival) : Statement (.taskPacketCheck which) := of_any _
theorem tsendAnswer (team : Nat) (handle : Word) : Statement (.tsendAnswer team handle) := of_any _
theorem collectiveIssue (team : Nat) (handle : Word) : Statement (.collectiveIssue team handle) := of_any _
theorem collectiveBufferGrant (team : Nat) (handle : Word) : Statement (.collectiveBufferGrant team handle) := of_any _
theorem collectiveDataArrival (ctx : Nat) (group : Nat) (cid : Nat) (gen : Nat) (member : Nat) (msg : CollMsg) : Statement (.collectiveDataArrival ctx group cid gen member msg) := of_any _
theorem collectiveCompletion (team : Nat) (handle : Word) : Statement (.collectiveCompletion team handle) := of_any _
theorem groupTableWrite (ctx : Nat) (group : Nat) (entry : Option GroupEntry) : Statement (.groupTableWrite ctx group entry) := of_any _
theorem placeTableWrite (kind : PlaceKind) (logical : Nat) (physical : Option Nat) : Statement (.placeTableWrite kind logical physical) := of_any _
theorem repairTableWrite (kind : RepairKind) (index : Nat) (spare : Nat) : Statement (.repairTableWrite kind index spare) := of_any _
theorem windowRegisterWrite (die : Nat) (index : Nat) (base : Nat) (size : Nat) (target : PortTarget) : Statement (.windowRegisterWrite die index base size target) := of_any _
theorem configRegisterWrite (cmd : ConfigCmd) : Statement (.configRegisterWrite cmd) := of_any _
theorem dcAddExtent (at_ : AtPort) (host : Nat) (dpa : Nat) (blocks : Nat) : Statement (.dcAddExtent at_ host dpa blocks) := of_any _
theorem dcReleaseExtent (at_ : DpaRef) : Statement (.dcReleaseExtent at_) := of_any _
theorem keyExchange (which : KeyEnd) (ctx : Nat) (expander : Nat) (tenant : Nat) (session : Word) (key : BitVec 256) (verified : Bool) : Statement (.keyExchange which ctx expander tenant session key verified) := of_any _
theorem keyUpdate (die : Option Nat) (index : Nat) (key : BitVec 256) : Statement (.keyUpdate die index key) := of_any _
theorem endSession (die : Option Nat) (index : Nat) : Statement (.endSession die index) := of_any _
theorem getMeasurements (requester : Nat) : Statement (.getMeasurements requester) := of_any _
theorem firmwareImageLoad (image : Firmware) : Statement (.firmwareImageLoad image) := of_any _
theorem writebackErrorAnswer (die : Nat) (line : Nat) (cause : Byte) : Statement (.writebackErrorAnswer die line cause) := of_any _
theorem viralEntry (port : Nat) : Statement (.viralEntry port) := of_any _
theorem portReset (port : Nat) : Statement (.portReset port) := of_any _
theorem linkFailure (target : PortTarget) : Statement (.linkFailure target) := of_any _
theorem requestTimeout (target : PortTarget) : Statement (.requestTimeout target) := of_any _
theorem powerActive (die : Nat) : Statement (.powerActive die) := of_any _
theorem powerPark (die : Nat) : Statement (.powerPark die) := of_any _
theorem powerDoze (die : Nat) : Statement (.powerDoze die) := of_any _
theorem powerOff (die : Nat) : Statement (.powerOff die) := of_any _
theorem frequencyStep (die : Nat) (step : Nat) : Statement (.frequencyStep die step) := of_any _
theorem temperatureSample (die : Nat) (readings : List Int) : Statement (.temperatureSample die readings) := of_any _
theorem processMonitorSample (die : Nat) (counts : List Nat) : Statement (.processMonitorSample die counts) := of_any _
theorem monitorThresholdSet (die : Nat) (cmd : MonitorCmd) : Statement (.monitorThresholdSet die cmd) := of_any _
theorem monitorRead (die : Nat) (sel : MonitorSel) : Statement (.monitorRead die sel) := of_any _
theorem coldReset : Statement (.coldReset) := of_any _
theorem warmReset (die : Nat) : Statement (.warmReset die) := of_any _
theorem dieReadmission (die : Nat) : Statement (.dieReadmission die) := of_any _
theorem functionLevelReset (vf : Nat) : Statement (.functionLevelReset vf) := of_any _
theorem mailboxMessage (die : Nat) (src : Nat) (dst : Nat) (msg : Option (BitVec 512)) : Statement (.mailboxMessage die src dst msg) := of_any _
theorem heartbeat (die : Nat) : Statement (.heartbeat die) := of_any _
theorem adoption (die : Nat) (adopter : Nat) : Statement (.adoption die adopter) := of_any _
theorem migration (ctx : Nat) (elapsedNs : Nat) : Statement (.migration ctx elapsedNs) := of_any _
theorem voltageDroop (die : Nat) (monitor : Nat) (mv : Nat) : Statement (.voltageDroop die monitor mv) := of_any _
theorem deviceReconnection (target : PortTarget) : Statement (.deviceReconnection target) := of_any _
theorem commandProcessorCoreFailure (die : Nat) (core : Nat) : Statement (.commandProcessorCoreFailure die core) := of_any _
theorem taskImageRegistration (at_ : AtPort) (hash : DWord) (ctx : Nat) (kent : Nat) (text : Nat) (args : Nat) (part : Nat) : Statement (.taskImageRegistration at_ hash ctx kent text args part) := of_any _

end Sys2Proof.Laws.EncodedLength
end

