-- ==== Sys2Proof/Laws/State.lean ====
section
/-!
SUPPORT. One lemma per field per update of the state: an update of one part leaves every other field as it was.
-/

namespace Sys2Proof.Machine

/-! ### State.setTeam -/

@[simp] theorem State.setTeam_product (s : State) (t : Team) : (s.setTeam t).product = s.product := rfl
@[simp] theorem State.setTeam_mem (s : State) (t : Team) : (s.setTeam t).mem = s.mem := rfl
@[simp] theorem State.setTeam_poison (s : State) (t : Team) : (s.setTeam t).poison = s.poison := rfl
@[simp] theorem State.setTeam_classes (s : State) (t : Team) : (s.setTeam t).classes = s.classes := rfl
@[simp] theorem State.setTeam_changes (s : State) (t : Team) : (s.setTeam t).changes = s.changes := rfl
@[simp] theorem State.setTeam_granules (s : State) (t : Team) : (s.setTeam t).granules = s.granules := rfl
@[simp] theorem State.setTeam_oldParts (s : State) (t : Team) : (s.setTeam t).oldParts = s.oldParts := rfl
@[simp] theorem State.setTeam_stripe (s : State) (t : Team) : (s.setTeam t).stripe = s.stripe := rfl
@[simp] theorem State.setTeam_lines (s : State) (t : Team) : (s.setTeam t).lines = s.lines := rfl
@[simp] theorem State.setTeam_slices (s : State) (t : Team) : (s.setTeam t).slices = s.slices := rfl
@[simp] theorem State.setTeam_uses (s : State) (t : Team) : (s.setTeam t).uses = s.uses := rfl
@[simp] theorem State.setTeam_missed (s : State) (t : Team) : (s.setTeam t).missed = s.missed := rfl
@[simp] theorem State.setTeam_ulines (s : State) (t : Team) : (s.setTeam t).ulines = s.ulines := rfl
@[simp] theorem State.setTeam_peerU (s : State) (t : Team) : (s.setTeam t).peerU = s.peerU := rfl
@[simp] theorem State.setTeam_wide (s : State) (t : Team) : (s.setTeam t).wide = s.wide := rfl
@[simp] theorem State.setTeam_filters (s : State) (t : Team) : (s.setTeam t).filters = s.filters := rfl
@[simp] theorem State.setTeam_dirs (s : State) (t : Team) : (s.setTeam t).dirs = s.dirs := rfl
@[simp] theorem State.setTeam_portDir (s : State) (t : Team) : (s.setTeam t).portDir = s.portDir := rfl
@[simp] theorem State.setTeam_peerTrk (s : State) (t : Team) : (s.setTeam t).peerTrk = s.peerTrk := rfl
@[simp] theorem State.setTeam_snoopFl (s : State) (t : Team) : (s.setTeam t).snoopFl = s.snoopFl := rfl
@[simp] theorem State.setTeam_snoops (s : State) (t : Team) : (s.setTeam t).snoops = s.snoops := rfl
@[simp] theorem State.setTeam_posted (s : State) (t : Team) : (s.setTeam t).posted = s.posted := rfl
@[simp] theorem State.setTeam_invals (s : State) (t : Team) : (s.setTeam t).invals = s.invals := rfl
@[simp] theorem State.setTeam_outq (s : State) (t : Team) : (s.setTeam t).outq = s.outq := rfl
@[simp] theorem State.setTeam_pubs (s : State) (t : Team) : (s.setTeam t).pubs = s.pubs := rfl
@[simp] theorem State.setTeam_tlb (s : State) (t : Team) : (s.setTeam t).tlb = s.tlb := rfl
@[simp] theorem State.setTeam_shoots (s : State) (t : Team) : (s.setTeam t).shoots = s.shoots := rfl
@[simp] theorem State.setTeam_commands (s : State) (t : Team) : (s.setTeam t).commands = s.commands := rfl
@[simp] theorem State.setTeam_now (s : State) (t : Team) : (s.setTeam t).now = s.now := rfl
@[simp] theorem State.setTeam_hubClock (s : State) (t : Team) : (s.setTeam t).hubClock = s.hubClock := rfl
@[simp] theorem State.setTeam_lapNs (s : State) (t : Team) : (s.setTeam t).lapNs = s.lapNs := rfl
@[simp] theorem State.setTeam_lapNew (s : State) (t : Team) : (s.setTeam t).lapNew = s.lapNew := rfl
@[simp] theorem State.setTeam_nextLap (s : State) (t : Team) : (s.setTeam t).nextLap = s.nextLap := rfl
@[simp] theorem State.setTeam_pool (s : State) (t : Team) : (s.setTeam t).pool = s.pool := rfl
@[simp] theorem State.setTeam_partPl (s : State) (t : Team) : (s.setTeam t).partPl = s.partPl := rfl
@[simp] theorem State.setTeam_parts (s : State) (t : Team) : (s.setTeam t).parts = s.parts := rfl
@[simp] theorem State.setTeam_tenants (s : State) (t : Team) : (s.setTeam t).tenants = s.tenants := rfl
@[simp] theorem State.setTeam_queues (s : State) (t : Team) : (s.setTeam t).queues = s.queues := rfl
@[simp] theorem State.setTeam_notify (s : State) (t : Team) : (s.setTeam t).notify = s.notify := rfl
@[simp] theorem State.setTeam_ctxs (s : State) (t : Team) : (s.setTeam t).ctxs = s.ctxs := rfl
@[simp] theorem State.setTeam_meets (s : State) (t : Team) : (s.setTeam t).meets = s.meets := rfl
@[simp] theorem State.setTeam_nextId (s : State) (t : Team) : (s.setTeam t).nextId = s.nextId := rfl
@[simp] theorem State.setTeam_dies (s : State) (t : Team) : (s.setTeam t).dies = s.dies := rfl
@[simp] theorem State.setTeam_owners (s : State) (t : Team) : (s.setTeam t).owners = s.owners := rfl
@[simp] theorem State.setTeam_collBytes (s : State) (t : Team) : (s.setTeam t).collBytes = s.collBytes := rfl
@[simp] theorem State.setTeam_expander (s : State) (t : Team) : (s.setTeam t).expander = s.expander := rfl
@[simp] theorem State.setTeam_beyond (s : State) (t : Team) : (s.setTeam t).beyond = s.beyond := rfl
@[simp] theorem State.setTeam_viral (s : State) (t : Team) : (s.setTeam t).viral = s.viral := rfl
@[simp] theorem State.setTeam_gone (s : State) (t : Team) : (s.setTeam t).gone = s.gone := rfl
@[simp] theorem State.setTeam_layers (s : State) (t : Team) : (s.setTeam t).layers = s.layers := rfl
@[simp] theorem State.setTeam_halted (s : State) (t : Team) : (s.setTeam t).halted = s.halted := rfl
@[simp] theorem State.setTeam_host (s : State) (t : Team) : (s.setTeam t).host = s.host := rfl
@[simp] theorem State.setTeam_agenda (s : State) (t : Team) : (s.setTeam t).agenda = s.agenda := rfl
@[simp] theorem State.setTeam_oracle (s : State) (t : Team) : (s.setTeam t).oracle = s.oracle := rfl
@[simp] theorem State.setTeam_pace (s : State) (t : Team) : (s.setTeam t).pace = s.pace := rfl
@[simp] theorem State.setTeam_turn (s : State) (t : Team) : (s.setTeam t).turn = s.turn := rfl
@[simp] theorem State.setTeam_cur (s : State) (t : Team) : (s.setTeam t).cur = s.cur := rfl
@[simp] theorem State.setTeam_freeCtr (s : State) (t : Team) : (s.setTeam t).freeCtr = s.freeCtr := rfl

/-! ### State.setCtx -/

@[simp] theorem State.setCtx_product (s : State) (c : Context) : (s.setCtx c).product = s.product := rfl
@[simp] theorem State.setCtx_mem (s : State) (c : Context) : (s.setCtx c).mem = s.mem := rfl
@[simp] theorem State.setCtx_poison (s : State) (c : Context) : (s.setCtx c).poison = s.poison := rfl
@[simp] theorem State.setCtx_classes (s : State) (c : Context) : (s.setCtx c).classes = s.classes := rfl
@[simp] theorem State.setCtx_changes (s : State) (c : Context) : (s.setCtx c).changes = s.changes := rfl
@[simp] theorem State.setCtx_granules (s : State) (c : Context) : (s.setCtx c).granules = s.granules := rfl
@[simp] theorem State.setCtx_oldParts (s : State) (c : Context) : (s.setCtx c).oldParts = s.oldParts := rfl
@[simp] theorem State.setCtx_stripe (s : State) (c : Context) : (s.setCtx c).stripe = s.stripe := rfl
@[simp] theorem State.setCtx_lines (s : State) (c : Context) : (s.setCtx c).lines = s.lines := rfl
@[simp] theorem State.setCtx_slices (s : State) (c : Context) : (s.setCtx c).slices = s.slices := rfl
@[simp] theorem State.setCtx_uses (s : State) (c : Context) : (s.setCtx c).uses = s.uses := rfl
@[simp] theorem State.setCtx_missed (s : State) (c : Context) : (s.setCtx c).missed = s.missed := rfl
@[simp] theorem State.setCtx_ulines (s : State) (c : Context) : (s.setCtx c).ulines = s.ulines := rfl
@[simp] theorem State.setCtx_peerU (s : State) (c : Context) : (s.setCtx c).peerU = s.peerU := rfl
@[simp] theorem State.setCtx_wide (s : State) (c : Context) : (s.setCtx c).wide = s.wide := rfl
@[simp] theorem State.setCtx_filters (s : State) (c : Context) : (s.setCtx c).filters = s.filters := rfl
@[simp] theorem State.setCtx_dirs (s : State) (c : Context) : (s.setCtx c).dirs = s.dirs := rfl
@[simp] theorem State.setCtx_portDir (s : State) (c : Context) : (s.setCtx c).portDir = s.portDir := rfl
@[simp] theorem State.setCtx_peerTrk (s : State) (c : Context) : (s.setCtx c).peerTrk = s.peerTrk := rfl
@[simp] theorem State.setCtx_snoopFl (s : State) (c : Context) : (s.setCtx c).snoopFl = s.snoopFl := rfl
@[simp] theorem State.setCtx_snoops (s : State) (c : Context) : (s.setCtx c).snoops = s.snoops := rfl
@[simp] theorem State.setCtx_posted (s : State) (c : Context) : (s.setCtx c).posted = s.posted := rfl
@[simp] theorem State.setCtx_invals (s : State) (c : Context) : (s.setCtx c).invals = s.invals := rfl
@[simp] theorem State.setCtx_outq (s : State) (c : Context) : (s.setCtx c).outq = s.outq := rfl
@[simp] theorem State.setCtx_pubs (s : State) (c : Context) : (s.setCtx c).pubs = s.pubs := rfl
@[simp] theorem State.setCtx_tlb (s : State) (c : Context) : (s.setCtx c).tlb = s.tlb := rfl
@[simp] theorem State.setCtx_shoots (s : State) (c : Context) : (s.setCtx c).shoots = s.shoots := rfl
@[simp] theorem State.setCtx_commands (s : State) (c : Context) : (s.setCtx c).commands = s.commands := rfl
@[simp] theorem State.setCtx_now (s : State) (c : Context) : (s.setCtx c).now = s.now := rfl
@[simp] theorem State.setCtx_hubClock (s : State) (c : Context) : (s.setCtx c).hubClock = s.hubClock := rfl
@[simp] theorem State.setCtx_lapNs (s : State) (c : Context) : (s.setCtx c).lapNs = s.lapNs := rfl
@[simp] theorem State.setCtx_lapNew (s : State) (c : Context) : (s.setCtx c).lapNew = s.lapNew := rfl
@[simp] theorem State.setCtx_nextLap (s : State) (c : Context) : (s.setCtx c).nextLap = s.nextLap := rfl
@[simp] theorem State.setCtx_pool (s : State) (c : Context) : (s.setCtx c).pool = s.pool := rfl
@[simp] theorem State.setCtx_partPl (s : State) (c : Context) : (s.setCtx c).partPl = s.partPl := rfl
@[simp] theorem State.setCtx_parts (s : State) (c : Context) : (s.setCtx c).parts = s.parts := rfl
@[simp] theorem State.setCtx_tenants (s : State) (c : Context) : (s.setCtx c).tenants = s.tenants := rfl
@[simp] theorem State.setCtx_queues (s : State) (c : Context) : (s.setCtx c).queues = s.queues := rfl
@[simp] theorem State.setCtx_notify (s : State) (c : Context) : (s.setCtx c).notify = s.notify := rfl
@[simp] theorem State.setCtx_meets (s : State) (c : Context) : (s.setCtx c).meets = s.meets := rfl
@[simp] theorem State.setCtx_teams (s : State) (c : Context) : (s.setCtx c).teams = s.teams := rfl
@[simp] theorem State.setCtx_nextId (s : State) (c : Context) : (s.setCtx c).nextId = s.nextId := rfl
@[simp] theorem State.setCtx_dies (s : State) (c : Context) : (s.setCtx c).dies = s.dies := rfl
@[simp] theorem State.setCtx_owners (s : State) (c : Context) : (s.setCtx c).owners = s.owners := rfl
@[simp] theorem State.setCtx_collBytes (s : State) (c : Context) : (s.setCtx c).collBytes = s.collBytes := rfl
@[simp] theorem State.setCtx_expander (s : State) (c : Context) : (s.setCtx c).expander = s.expander := rfl
@[simp] theorem State.setCtx_beyond (s : State) (c : Context) : (s.setCtx c).beyond = s.beyond := rfl
@[simp] theorem State.setCtx_viral (s : State) (c : Context) : (s.setCtx c).viral = s.viral := rfl
@[simp] theorem State.setCtx_gone (s : State) (c : Context) : (s.setCtx c).gone = s.gone := rfl
@[simp] theorem State.setCtx_layers (s : State) (c : Context) : (s.setCtx c).layers = s.layers := rfl
@[simp] theorem State.setCtx_halted (s : State) (c : Context) : (s.setCtx c).halted = s.halted := rfl
@[simp] theorem State.setCtx_host (s : State) (c : Context) : (s.setCtx c).host = s.host := rfl
@[simp] theorem State.setCtx_agenda (s : State) (c : Context) : (s.setCtx c).agenda = s.agenda := rfl
@[simp] theorem State.setCtx_oracle (s : State) (c : Context) : (s.setCtx c).oracle = s.oracle := rfl
@[simp] theorem State.setCtx_pace (s : State) (c : Context) : (s.setCtx c).pace = s.pace := rfl
@[simp] theorem State.setCtx_turn (s : State) (c : Context) : (s.setCtx c).turn = s.turn := rfl
@[simp] theorem State.setCtx_cur (s : State) (c : Context) : (s.setCtx c).cur = s.cur := rfl
@[simp] theorem State.setCtx_freeCtr (s : State) (c : Context) : (s.setCtx c).freeCtr = s.freeCtr := rfl

/-! ### State.setMeet -/

@[simp] theorem State.setMeet_product (s : State) (m : Meet) : (s.setMeet m).product = s.product := rfl
@[simp] theorem State.setMeet_mem (s : State) (m : Meet) : (s.setMeet m).mem = s.mem := rfl
@[simp] theorem State.setMeet_poison (s : State) (m : Meet) : (s.setMeet m).poison = s.poison := rfl
@[simp] theorem State.setMeet_classes (s : State) (m : Meet) : (s.setMeet m).classes = s.classes := rfl
@[simp] theorem State.setMeet_changes (s : State) (m : Meet) : (s.setMeet m).changes = s.changes := rfl
@[simp] theorem State.setMeet_granules (s : State) (m : Meet) : (s.setMeet m).granules = s.granules := rfl
@[simp] theorem State.setMeet_oldParts (s : State) (m : Meet) : (s.setMeet m).oldParts = s.oldParts := rfl
@[simp] theorem State.setMeet_stripe (s : State) (m : Meet) : (s.setMeet m).stripe = s.stripe := rfl
@[simp] theorem State.setMeet_lines (s : State) (m : Meet) : (s.setMeet m).lines = s.lines := rfl
@[simp] theorem State.setMeet_slices (s : State) (m : Meet) : (s.setMeet m).slices = s.slices := rfl
@[simp] theorem State.setMeet_uses (s : State) (m : Meet) : (s.setMeet m).uses = s.uses := rfl
@[simp] theorem State.setMeet_missed (s : State) (m : Meet) : (s.setMeet m).missed = s.missed := rfl
@[simp] theorem State.setMeet_ulines (s : State) (m : Meet) : (s.setMeet m).ulines = s.ulines := rfl
@[simp] theorem State.setMeet_peerU (s : State) (m : Meet) : (s.setMeet m).peerU = s.peerU := rfl
@[simp] theorem State.setMeet_wide (s : State) (m : Meet) : (s.setMeet m).wide = s.wide := rfl
@[simp] theorem State.setMeet_filters (s : State) (m : Meet) : (s.setMeet m).filters = s.filters := rfl
@[simp] theorem State.setMeet_dirs (s : State) (m : Meet) : (s.setMeet m).dirs = s.dirs := rfl
@[simp] theorem State.setMeet_portDir (s : State) (m : Meet) : (s.setMeet m).portDir = s.portDir := rfl
@[simp] theorem State.setMeet_peerTrk (s : State) (m : Meet) : (s.setMeet m).peerTrk = s.peerTrk := rfl
@[simp] theorem State.setMeet_snoopFl (s : State) (m : Meet) : (s.setMeet m).snoopFl = s.snoopFl := rfl
@[simp] theorem State.setMeet_snoops (s : State) (m : Meet) : (s.setMeet m).snoops = s.snoops := rfl
@[simp] theorem State.setMeet_posted (s : State) (m : Meet) : (s.setMeet m).posted = s.posted := rfl
@[simp] theorem State.setMeet_invals (s : State) (m : Meet) : (s.setMeet m).invals = s.invals := rfl
@[simp] theorem State.setMeet_outq (s : State) (m : Meet) : (s.setMeet m).outq = s.outq := rfl
@[simp] theorem State.setMeet_pubs (s : State) (m : Meet) : (s.setMeet m).pubs = s.pubs := rfl
@[simp] theorem State.setMeet_tlb (s : State) (m : Meet) : (s.setMeet m).tlb = s.tlb := rfl
@[simp] theorem State.setMeet_shoots (s : State) (m : Meet) : (s.setMeet m).shoots = s.shoots := rfl
@[simp] theorem State.setMeet_commands (s : State) (m : Meet) : (s.setMeet m).commands = s.commands := rfl
@[simp] theorem State.setMeet_now (s : State) (m : Meet) : (s.setMeet m).now = s.now := rfl
@[simp] theorem State.setMeet_hubClock (s : State) (m : Meet) : (s.setMeet m).hubClock = s.hubClock := rfl
@[simp] theorem State.setMeet_lapNs (s : State) (m : Meet) : (s.setMeet m).lapNs = s.lapNs := rfl
@[simp] theorem State.setMeet_lapNew (s : State) (m : Meet) : (s.setMeet m).lapNew = s.lapNew := rfl
@[simp] theorem State.setMeet_nextLap (s : State) (m : Meet) : (s.setMeet m).nextLap = s.nextLap := rfl
@[simp] theorem State.setMeet_pool (s : State) (m : Meet) : (s.setMeet m).pool = s.pool := rfl
@[simp] theorem State.setMeet_partPl (s : State) (m : Meet) : (s.setMeet m).partPl = s.partPl := rfl
@[simp] theorem State.setMeet_parts (s : State) (m : Meet) : (s.setMeet m).parts = s.parts := rfl
@[simp] theorem State.setMeet_tenants (s : State) (m : Meet) : (s.setMeet m).tenants = s.tenants := rfl
@[simp] theorem State.setMeet_queues (s : State) (m : Meet) : (s.setMeet m).queues = s.queues := rfl
@[simp] theorem State.setMeet_notify (s : State) (m : Meet) : (s.setMeet m).notify = s.notify := rfl
@[simp] theorem State.setMeet_ctxs (s : State) (m : Meet) : (s.setMeet m).ctxs = s.ctxs := rfl
@[simp] theorem State.setMeet_teams (s : State) (m : Meet) : (s.setMeet m).teams = s.teams := rfl
@[simp] theorem State.setMeet_nextId (s : State) (m : Meet) : (s.setMeet m).nextId = s.nextId := rfl
@[simp] theorem State.setMeet_dies (s : State) (m : Meet) : (s.setMeet m).dies = s.dies := rfl
@[simp] theorem State.setMeet_owners (s : State) (m : Meet) : (s.setMeet m).owners = s.owners := rfl
@[simp] theorem State.setMeet_collBytes (s : State) (m : Meet) : (s.setMeet m).collBytes = s.collBytes := rfl
@[simp] theorem State.setMeet_expander (s : State) (m : Meet) : (s.setMeet m).expander = s.expander := rfl
@[simp] theorem State.setMeet_beyond (s : State) (m : Meet) : (s.setMeet m).beyond = s.beyond := rfl
@[simp] theorem State.setMeet_viral (s : State) (m : Meet) : (s.setMeet m).viral = s.viral := rfl
@[simp] theorem State.setMeet_gone (s : State) (m : Meet) : (s.setMeet m).gone = s.gone := rfl
@[simp] theorem State.setMeet_layers (s : State) (m : Meet) : (s.setMeet m).layers = s.layers := rfl
@[simp] theorem State.setMeet_halted (s : State) (m : Meet) : (s.setMeet m).halted = s.halted := rfl
@[simp] theorem State.setMeet_host (s : State) (m : Meet) : (s.setMeet m).host = s.host := rfl
@[simp] theorem State.setMeet_agenda (s : State) (m : Meet) : (s.setMeet m).agenda = s.agenda := rfl
@[simp] theorem State.setMeet_oracle (s : State) (m : Meet) : (s.setMeet m).oracle = s.oracle := rfl
@[simp] theorem State.setMeet_pace (s : State) (m : Meet) : (s.setMeet m).pace = s.pace := rfl
@[simp] theorem State.setMeet_turn (s : State) (m : Meet) : (s.setMeet m).turn = s.turn := rfl
@[simp] theorem State.setMeet_cur (s : State) (m : Meet) : (s.setMeet m).cur = s.cur := rfl
@[simp] theorem State.setMeet_freeCtr (s : State) (m : Meet) : (s.setMeet m).freeCtr = s.freeCtr := rfl

/-! ### State.setQueue -/

@[simp] theorem State.setQueue_product (s : State) (q : Queue) : (s.setQueue q).product = s.product := rfl
@[simp] theorem State.setQueue_mem (s : State) (q : Queue) : (s.setQueue q).mem = s.mem := rfl
@[simp] theorem State.setQueue_poison (s : State) (q : Queue) : (s.setQueue q).poison = s.poison := rfl
@[simp] theorem State.setQueue_classes (s : State) (q : Queue) : (s.setQueue q).classes = s.classes := rfl
@[simp] theorem State.setQueue_changes (s : State) (q : Queue) : (s.setQueue q).changes = s.changes := rfl
@[simp] theorem State.setQueue_granules (s : State) (q : Queue) : (s.setQueue q).granules = s.granules := rfl
@[simp] theorem State.setQueue_oldParts (s : State) (q : Queue) : (s.setQueue q).oldParts = s.oldParts := rfl
@[simp] theorem State.setQueue_stripe (s : State) (q : Queue) : (s.setQueue q).stripe = s.stripe := rfl
@[simp] theorem State.setQueue_lines (s : State) (q : Queue) : (s.setQueue q).lines = s.lines := rfl
@[simp] theorem State.setQueue_slices (s : State) (q : Queue) : (s.setQueue q).slices = s.slices := rfl
@[simp] theorem State.setQueue_uses (s : State) (q : Queue) : (s.setQueue q).uses = s.uses := rfl
@[simp] theorem State.setQueue_missed (s : State) (q : Queue) : (s.setQueue q).missed = s.missed := rfl
@[simp] theorem State.setQueue_ulines (s : State) (q : Queue) : (s.setQueue q).ulines = s.ulines := rfl
@[simp] theorem State.setQueue_peerU (s : State) (q : Queue) : (s.setQueue q).peerU = s.peerU := rfl
@[simp] theorem State.setQueue_wide (s : State) (q : Queue) : (s.setQueue q).wide = s.wide := rfl
@[simp] theorem State.setQueue_filters (s : State) (q : Queue) : (s.setQueue q).filters = s.filters := rfl
@[simp] theorem State.setQueue_dirs (s : State) (q : Queue) : (s.setQueue q).dirs = s.dirs := rfl
@[simp] theorem State.setQueue_portDir (s : State) (q : Queue) : (s.setQueue q).portDir = s.portDir := rfl
@[simp] theorem State.setQueue_peerTrk (s : State) (q : Queue) : (s.setQueue q).peerTrk = s.peerTrk := rfl
@[simp] theorem State.setQueue_snoopFl (s : State) (q : Queue) : (s.setQueue q).snoopFl = s.snoopFl := rfl
@[simp] theorem State.setQueue_snoops (s : State) (q : Queue) : (s.setQueue q).snoops = s.snoops := rfl
@[simp] theorem State.setQueue_posted (s : State) (q : Queue) : (s.setQueue q).posted = s.posted := rfl
@[simp] theorem State.setQueue_invals (s : State) (q : Queue) : (s.setQueue q).invals = s.invals := rfl
@[simp] theorem State.setQueue_outq (s : State) (q : Queue) : (s.setQueue q).outq = s.outq := rfl
@[simp] theorem State.setQueue_pubs (s : State) (q : Queue) : (s.setQueue q).pubs = s.pubs := rfl
@[simp] theorem State.setQueue_tlb (s : State) (q : Queue) : (s.setQueue q).tlb = s.tlb := rfl
@[simp] theorem State.setQueue_shoots (s : State) (q : Queue) : (s.setQueue q).shoots = s.shoots := rfl
@[simp] theorem State.setQueue_commands (s : State) (q : Queue) : (s.setQueue q).commands = s.commands := rfl
@[simp] theorem State.setQueue_now (s : State) (q : Queue) : (s.setQueue q).now = s.now := rfl
@[simp] theorem State.setQueue_hubClock (s : State) (q : Queue) : (s.setQueue q).hubClock = s.hubClock := rfl
@[simp] theorem State.setQueue_lapNs (s : State) (q : Queue) : (s.setQueue q).lapNs = s.lapNs := rfl
@[simp] theorem State.setQueue_lapNew (s : State) (q : Queue) : (s.setQueue q).lapNew = s.lapNew := rfl
@[simp] theorem State.setQueue_nextLap (s : State) (q : Queue) : (s.setQueue q).nextLap = s.nextLap := rfl
@[simp] theorem State.setQueue_pool (s : State) (q : Queue) : (s.setQueue q).pool = s.pool := rfl
@[simp] theorem State.setQueue_partPl (s : State) (q : Queue) : (s.setQueue q).partPl = s.partPl := rfl
@[simp] theorem State.setQueue_parts (s : State) (q : Queue) : (s.setQueue q).parts = s.parts := rfl
@[simp] theorem State.setQueue_tenants (s : State) (q : Queue) : (s.setQueue q).tenants = s.tenants := rfl
@[simp] theorem State.setQueue_notify (s : State) (q : Queue) : (s.setQueue q).notify = s.notify := rfl
@[simp] theorem State.setQueue_ctxs (s : State) (q : Queue) : (s.setQueue q).ctxs = s.ctxs := rfl
@[simp] theorem State.setQueue_meets (s : State) (q : Queue) : (s.setQueue q).meets = s.meets := rfl
@[simp] theorem State.setQueue_teams (s : State) (q : Queue) : (s.setQueue q).teams = s.teams := rfl
@[simp] theorem State.setQueue_nextId (s : State) (q : Queue) : (s.setQueue q).nextId = s.nextId := rfl
@[simp] theorem State.setQueue_dies (s : State) (q : Queue) : (s.setQueue q).dies = s.dies := rfl
@[simp] theorem State.setQueue_owners (s : State) (q : Queue) : (s.setQueue q).owners = s.owners := rfl
@[simp] theorem State.setQueue_collBytes (s : State) (q : Queue) : (s.setQueue q).collBytes = s.collBytes := rfl
@[simp] theorem State.setQueue_expander (s : State) (q : Queue) : (s.setQueue q).expander = s.expander := rfl
@[simp] theorem State.setQueue_beyond (s : State) (q : Queue) : (s.setQueue q).beyond = s.beyond := rfl
@[simp] theorem State.setQueue_viral (s : State) (q : Queue) : (s.setQueue q).viral = s.viral := rfl
@[simp] theorem State.setQueue_gone (s : State) (q : Queue) : (s.setQueue q).gone = s.gone := rfl
@[simp] theorem State.setQueue_layers (s : State) (q : Queue) : (s.setQueue q).layers = s.layers := rfl
@[simp] theorem State.setQueue_halted (s : State) (q : Queue) : (s.setQueue q).halted = s.halted := rfl
@[simp] theorem State.setQueue_host (s : State) (q : Queue) : (s.setQueue q).host = s.host := rfl
@[simp] theorem State.setQueue_agenda (s : State) (q : Queue) : (s.setQueue q).agenda = s.agenda := rfl
@[simp] theorem State.setQueue_oracle (s : State) (q : Queue) : (s.setQueue q).oracle = s.oracle := rfl
@[simp] theorem State.setQueue_pace (s : State) (q : Queue) : (s.setQueue q).pace = s.pace := rfl
@[simp] theorem State.setQueue_turn (s : State) (q : Queue) : (s.setQueue q).turn = s.turn := rfl
@[simp] theorem State.setQueue_cur (s : State) (q : Queue) : (s.setQueue q).cur = s.cur := rfl
@[simp] theorem State.setQueue_freeCtr (s : State) (q : Queue) : (s.setQueue q).freeCtr = s.freeCtr := rfl

/-! ### State.setTenant -/

@[simp] theorem State.setTenant_product (s : State) (t : Tenant) : (s.setTenant t).product = s.product := rfl
@[simp] theorem State.setTenant_mem (s : State) (t : Tenant) : (s.setTenant t).mem = s.mem := rfl
@[simp] theorem State.setTenant_poison (s : State) (t : Tenant) : (s.setTenant t).poison = s.poison := rfl
@[simp] theorem State.setTenant_classes (s : State) (t : Tenant) : (s.setTenant t).classes = s.classes := rfl
@[simp] theorem State.setTenant_changes (s : State) (t : Tenant) : (s.setTenant t).changes = s.changes := rfl
@[simp] theorem State.setTenant_granules (s : State) (t : Tenant) : (s.setTenant t).granules = s.granules := rfl
@[simp] theorem State.setTenant_oldParts (s : State) (t : Tenant) : (s.setTenant t).oldParts = s.oldParts := rfl
@[simp] theorem State.setTenant_stripe (s : State) (t : Tenant) : (s.setTenant t).stripe = s.stripe := rfl
@[simp] theorem State.setTenant_lines (s : State) (t : Tenant) : (s.setTenant t).lines = s.lines := rfl
@[simp] theorem State.setTenant_slices (s : State) (t : Tenant) : (s.setTenant t).slices = s.slices := rfl
@[simp] theorem State.setTenant_uses (s : State) (t : Tenant) : (s.setTenant t).uses = s.uses := rfl
@[simp] theorem State.setTenant_missed (s : State) (t : Tenant) : (s.setTenant t).missed = s.missed := rfl
@[simp] theorem State.setTenant_ulines (s : State) (t : Tenant) : (s.setTenant t).ulines = s.ulines := rfl
@[simp] theorem State.setTenant_peerU (s : State) (t : Tenant) : (s.setTenant t).peerU = s.peerU := rfl
@[simp] theorem State.setTenant_wide (s : State) (t : Tenant) : (s.setTenant t).wide = s.wide := rfl
@[simp] theorem State.setTenant_filters (s : State) (t : Tenant) : (s.setTenant t).filters = s.filters := rfl
@[simp] theorem State.setTenant_dirs (s : State) (t : Tenant) : (s.setTenant t).dirs = s.dirs := rfl
@[simp] theorem State.setTenant_portDir (s : State) (t : Tenant) : (s.setTenant t).portDir = s.portDir := rfl
@[simp] theorem State.setTenant_peerTrk (s : State) (t : Tenant) : (s.setTenant t).peerTrk = s.peerTrk := rfl
@[simp] theorem State.setTenant_snoopFl (s : State) (t : Tenant) : (s.setTenant t).snoopFl = s.snoopFl := rfl
@[simp] theorem State.setTenant_snoops (s : State) (t : Tenant) : (s.setTenant t).snoops = s.snoops := rfl
@[simp] theorem State.setTenant_posted (s : State) (t : Tenant) : (s.setTenant t).posted = s.posted := rfl
@[simp] theorem State.setTenant_invals (s : State) (t : Tenant) : (s.setTenant t).invals = s.invals := rfl
@[simp] theorem State.setTenant_outq (s : State) (t : Tenant) : (s.setTenant t).outq = s.outq := rfl
@[simp] theorem State.setTenant_pubs (s : State) (t : Tenant) : (s.setTenant t).pubs = s.pubs := rfl
@[simp] theorem State.setTenant_tlb (s : State) (t : Tenant) : (s.setTenant t).tlb = s.tlb := rfl
@[simp] theorem State.setTenant_shoots (s : State) (t : Tenant) : (s.setTenant t).shoots = s.shoots := rfl
@[simp] theorem State.setTenant_commands (s : State) (t : Tenant) : (s.setTenant t).commands = s.commands := rfl
@[simp] theorem State.setTenant_now (s : State) (t : Tenant) : (s.setTenant t).now = s.now := rfl
@[simp] theorem State.setTenant_hubClock (s : State) (t : Tenant) : (s.setTenant t).hubClock = s.hubClock := rfl
@[simp] theorem State.setTenant_lapNs (s : State) (t : Tenant) : (s.setTenant t).lapNs = s.lapNs := rfl
@[simp] theorem State.setTenant_lapNew (s : State) (t : Tenant) : (s.setTenant t).lapNew = s.lapNew := rfl
@[simp] theorem State.setTenant_nextLap (s : State) (t : Tenant) : (s.setTenant t).nextLap = s.nextLap := rfl
@[simp] theorem State.setTenant_pool (s : State) (t : Tenant) : (s.setTenant t).pool = s.pool := rfl
@[simp] theorem State.setTenant_partPl (s : State) (t : Tenant) : (s.setTenant t).partPl = s.partPl := rfl
@[simp] theorem State.setTenant_parts (s : State) (t : Tenant) : (s.setTenant t).parts = s.parts := rfl
@[simp] theorem State.setTenant_queues (s : State) (t : Tenant) : (s.setTenant t).queues = s.queues := rfl
@[simp] theorem State.setTenant_notify (s : State) (t : Tenant) : (s.setTenant t).notify = s.notify := rfl
@[simp] theorem State.setTenant_ctxs (s : State) (t : Tenant) : (s.setTenant t).ctxs = s.ctxs := rfl
@[simp] theorem State.setTenant_meets (s : State) (t : Tenant) : (s.setTenant t).meets = s.meets := rfl
@[simp] theorem State.setTenant_teams (s : State) (t : Tenant) : (s.setTenant t).teams = s.teams := rfl
@[simp] theorem State.setTenant_nextId (s : State) (t : Tenant) : (s.setTenant t).nextId = s.nextId := rfl
@[simp] theorem State.setTenant_dies (s : State) (t : Tenant) : (s.setTenant t).dies = s.dies := rfl
@[simp] theorem State.setTenant_owners (s : State) (t : Tenant) : (s.setTenant t).owners = s.owners := rfl
@[simp] theorem State.setTenant_collBytes (s : State) (t : Tenant) : (s.setTenant t).collBytes = s.collBytes := rfl
@[simp] theorem State.setTenant_expander (s : State) (t : Tenant) : (s.setTenant t).expander = s.expander := rfl
@[simp] theorem State.setTenant_beyond (s : State) (t : Tenant) : (s.setTenant t).beyond = s.beyond := rfl
@[simp] theorem State.setTenant_viral (s : State) (t : Tenant) : (s.setTenant t).viral = s.viral := rfl
@[simp] theorem State.setTenant_gone (s : State) (t : Tenant) : (s.setTenant t).gone = s.gone := rfl
@[simp] theorem State.setTenant_layers (s : State) (t : Tenant) : (s.setTenant t).layers = s.layers := rfl
@[simp] theorem State.setTenant_halted (s : State) (t : Tenant) : (s.setTenant t).halted = s.halted := rfl
@[simp] theorem State.setTenant_host (s : State) (t : Tenant) : (s.setTenant t).host = s.host := rfl
@[simp] theorem State.setTenant_agenda (s : State) (t : Tenant) : (s.setTenant t).agenda = s.agenda := rfl
@[simp] theorem State.setTenant_oracle (s : State) (t : Tenant) : (s.setTenant t).oracle = s.oracle := rfl
@[simp] theorem State.setTenant_pace (s : State) (t : Tenant) : (s.setTenant t).pace = s.pace := rfl
@[simp] theorem State.setTenant_turn (s : State) (t : Tenant) : (s.setTenant t).turn = s.turn := rfl
@[simp] theorem State.setTenant_cur (s : State) (t : Tenant) : (s.setTenant t).cur = s.cur := rfl
@[simp] theorem State.setTenant_freeCtr (s : State) (t : Tenant) : (s.setTenant t).freeCtr = s.freeCtr := rfl

/-! ### State.updDie -/

@[simp] theorem State.updDie_product (s : State) (d : Nat) (f : Die → Die) : (s.updDie d f).product = s.product := rfl
@[simp] theorem State.updDie_mem (s : State) (d : Nat) (f : Die → Die) : (s.updDie d f).mem = s.mem := rfl
@[simp] theorem State.updDie_poison (s : State) (d : Nat) (f : Die → Die) : (s.updDie d f).poison = s.poison := rfl
@[simp] theorem State.updDie_classes (s : State) (d : Nat) (f : Die → Die) : (s.updDie d f).classes = s.classes := rfl
@[simp] theorem State.updDie_changes (s : State) (d : Nat) (f : Die → Die) : (s.updDie d f).changes = s.changes := rfl
@[simp] theorem State.updDie_granules (s : State) (d : Nat) (f : Die → Die) : (s.updDie d f).granules = s.granules := rfl
@[simp] theorem State.updDie_oldParts (s : State) (d : Nat) (f : Die → Die) : (s.updDie d f).oldParts = s.oldParts := rfl
@[simp] theorem State.updDie_stripe (s : State) (d : Nat) (f : Die → Die) : (s.updDie d f).stripe = s.stripe := rfl
@[simp] theorem State.updDie_lines (s : State) (d : Nat) (f : Die → Die) : (s.updDie d f).lines = s.lines := rfl
@[simp] theorem State.updDie_slices (s : State) (d : Nat) (f : Die → Die) : (s.updDie d f).slices = s.slices := rfl
@[simp] theorem State.updDie_uses (s : State) (d : Nat) (f : Die → Die) : (s.updDie d f).uses = s.uses := rfl
@[simp] theorem State.updDie_missed (s : State) (d : Nat) (f : Die → Die) : (s.updDie d f).missed = s.missed := rfl
@[simp] theorem State.updDie_ulines (s : State) (d : Nat) (f : Die → Die) : (s.updDie d f).ulines = s.ulines := rfl
@[simp] theorem State.updDie_peerU (s : State) (d : Nat) (f : Die → Die) : (s.updDie d f).peerU = s.peerU := rfl
@[simp] theorem State.updDie_wide (s : State) (d : Nat) (f : Die → Die) : (s.updDie d f).wide = s.wide := rfl
@[simp] theorem State.updDie_filters (s : State) (d : Nat) (f : Die → Die) : (s.updDie d f).filters = s.filters := rfl
@[simp] theorem State.updDie_dirs (s : State) (d : Nat) (f : Die → Die) : (s.updDie d f).dirs = s.dirs := rfl
@[simp] theorem State.updDie_portDir (s : State) (d : Nat) (f : Die → Die) : (s.updDie d f).portDir = s.portDir := rfl
@[simp] theorem State.updDie_peerTrk (s : State) (d : Nat) (f : Die → Die) : (s.updDie d f).peerTrk = s.peerTrk := rfl
@[simp] theorem State.updDie_snoopFl (s : State) (d : Nat) (f : Die → Die) : (s.updDie d f).snoopFl = s.snoopFl := rfl
@[simp] theorem State.updDie_snoops (s : State) (d : Nat) (f : Die → Die) : (s.updDie d f).snoops = s.snoops := rfl
@[simp] theorem State.updDie_posted (s : State) (d : Nat) (f : Die → Die) : (s.updDie d f).posted = s.posted := rfl
@[simp] theorem State.updDie_invals (s : State) (d : Nat) (f : Die → Die) : (s.updDie d f).invals = s.invals := rfl
@[simp] theorem State.updDie_outq (s : State) (d : Nat) (f : Die → Die) : (s.updDie d f).outq = s.outq := rfl
@[simp] theorem State.updDie_pubs (s : State) (d : Nat) (f : Die → Die) : (s.updDie d f).pubs = s.pubs := rfl
@[simp] theorem State.updDie_tlb (s : State) (d : Nat) (f : Die → Die) : (s.updDie d f).tlb = s.tlb := rfl
@[simp] theorem State.updDie_shoots (s : State) (d : Nat) (f : Die → Die) : (s.updDie d f).shoots = s.shoots := rfl
@[simp] theorem State.updDie_commands (s : State) (d : Nat) (f : Die → Die) : (s.updDie d f).commands = s.commands := rfl
@[simp] theorem State.updDie_now (s : State) (d : Nat) (f : Die → Die) : (s.updDie d f).now = s.now := rfl
@[simp] theorem State.updDie_hubClock (s : State) (d : Nat) (f : Die → Die) : (s.updDie d f).hubClock = s.hubClock := rfl
@[simp] theorem State.updDie_lapNs (s : State) (d : Nat) (f : Die → Die) : (s.updDie d f).lapNs = s.lapNs := rfl
@[simp] theorem State.updDie_lapNew (s : State) (d : Nat) (f : Die → Die) : (s.updDie d f).lapNew = s.lapNew := rfl
@[simp] theorem State.updDie_nextLap (s : State) (d : Nat) (f : Die → Die) : (s.updDie d f).nextLap = s.nextLap := rfl
@[simp] theorem State.updDie_pool (s : State) (d : Nat) (f : Die → Die) : (s.updDie d f).pool = s.pool := rfl
@[simp] theorem State.updDie_partPl (s : State) (d : Nat) (f : Die → Die) : (s.updDie d f).partPl = s.partPl := rfl
@[simp] theorem State.updDie_parts (s : State) (d : Nat) (f : Die → Die) : (s.updDie d f).parts = s.parts := rfl
@[simp] theorem State.updDie_tenants (s : State) (d : Nat) (f : Die → Die) : (s.updDie d f).tenants = s.tenants := rfl
@[simp] theorem State.updDie_queues (s : State) (d : Nat) (f : Die → Die) : (s.updDie d f).queues = s.queues := rfl
@[simp] theorem State.updDie_notify (s : State) (d : Nat) (f : Die → Die) : (s.updDie d f).notify = s.notify := rfl
@[simp] theorem State.updDie_ctxs (s : State) (d : Nat) (f : Die → Die) : (s.updDie d f).ctxs = s.ctxs := rfl
@[simp] theorem State.updDie_meets (s : State) (d : Nat) (f : Die → Die) : (s.updDie d f).meets = s.meets := rfl
@[simp] theorem State.updDie_teams (s : State) (d : Nat) (f : Die → Die) : (s.updDie d f).teams = s.teams := rfl
@[simp] theorem State.updDie_nextId (s : State) (d : Nat) (f : Die → Die) : (s.updDie d f).nextId = s.nextId := rfl
@[simp] theorem State.updDie_owners (s : State) (d : Nat) (f : Die → Die) : (s.updDie d f).owners = s.owners := rfl
@[simp] theorem State.updDie_collBytes (s : State) (d : Nat) (f : Die → Die) : (s.updDie d f).collBytes = s.collBytes := rfl
@[simp] theorem State.updDie_expander (s : State) (d : Nat) (f : Die → Die) : (s.updDie d f).expander = s.expander := rfl
@[simp] theorem State.updDie_beyond (s : State) (d : Nat) (f : Die → Die) : (s.updDie d f).beyond = s.beyond := rfl
@[simp] theorem State.updDie_viral (s : State) (d : Nat) (f : Die → Die) : (s.updDie d f).viral = s.viral := rfl
@[simp] theorem State.updDie_gone (s : State) (d : Nat) (f : Die → Die) : (s.updDie d f).gone = s.gone := rfl
@[simp] theorem State.updDie_layers (s : State) (d : Nat) (f : Die → Die) : (s.updDie d f).layers = s.layers := rfl
@[simp] theorem State.updDie_halted (s : State) (d : Nat) (f : Die → Die) : (s.updDie d f).halted = s.halted := rfl
@[simp] theorem State.updDie_host (s : State) (d : Nat) (f : Die → Die) : (s.updDie d f).host = s.host := rfl
@[simp] theorem State.updDie_agenda (s : State) (d : Nat) (f : Die → Die) : (s.updDie d f).agenda = s.agenda := rfl
@[simp] theorem State.updDie_oracle (s : State) (d : Nat) (f : Die → Die) : (s.updDie d f).oracle = s.oracle := rfl
@[simp] theorem State.updDie_pace (s : State) (d : Nat) (f : Die → Die) : (s.updDie d f).pace = s.pace := rfl
@[simp] theorem State.updDie_turn (s : State) (d : Nat) (f : Die → Die) : (s.updDie d f).turn = s.turn := rfl
@[simp] theorem State.updDie_cur (s : State) (d : Nat) (f : Die → Die) : (s.updDie d f).cur = s.cur := rfl
@[simp] theorem State.updDie_freeCtr (s : State) (d : Nat) (f : Die → Die) : (s.updDie d f).freeCtr = s.freeCtr := rfl

/-! ### State.updCluster -/

@[simp] theorem State.updCluster_product (s : State) (c : ClusterRef) (f : Cluster → Cluster) : (s.updCluster c f).product = s.product := rfl
@[simp] theorem State.updCluster_mem (s : State) (c : ClusterRef) (f : Cluster → Cluster) : (s.updCluster c f).mem = s.mem := rfl
@[simp] theorem State.updCluster_poison (s : State) (c : ClusterRef) (f : Cluster → Cluster) : (s.updCluster c f).poison = s.poison := rfl
@[simp] theorem State.updCluster_classes (s : State) (c : ClusterRef) (f : Cluster → Cluster) : (s.updCluster c f).classes = s.classes := rfl
@[simp] theorem State.updCluster_changes (s : State) (c : ClusterRef) (f : Cluster → Cluster) : (s.updCluster c f).changes = s.changes := rfl
@[simp] theorem State.updCluster_granules (s : State) (c : ClusterRef) (f : Cluster → Cluster) : (s.updCluster c f).granules = s.granules := rfl
@[simp] theorem State.updCluster_oldParts (s : State) (c : ClusterRef) (f : Cluster → Cluster) : (s.updCluster c f).oldParts = s.oldParts := rfl
@[simp] theorem State.updCluster_stripe (s : State) (c : ClusterRef) (f : Cluster → Cluster) : (s.updCluster c f).stripe = s.stripe := rfl
@[simp] theorem State.updCluster_lines (s : State) (c : ClusterRef) (f : Cluster → Cluster) : (s.updCluster c f).lines = s.lines := rfl
@[simp] theorem State.updCluster_slices (s : State) (c : ClusterRef) (f : Cluster → Cluster) : (s.updCluster c f).slices = s.slices := rfl
@[simp] theorem State.updCluster_uses (s : State) (c : ClusterRef) (f : Cluster → Cluster) : (s.updCluster c f).uses = s.uses := rfl
@[simp] theorem State.updCluster_missed (s : State) (c : ClusterRef) (f : Cluster → Cluster) : (s.updCluster c f).missed = s.missed := rfl
@[simp] theorem State.updCluster_ulines (s : State) (c : ClusterRef) (f : Cluster → Cluster) : (s.updCluster c f).ulines = s.ulines := rfl
@[simp] theorem State.updCluster_peerU (s : State) (c : ClusterRef) (f : Cluster → Cluster) : (s.updCluster c f).peerU = s.peerU := rfl
@[simp] theorem State.updCluster_wide (s : State) (c : ClusterRef) (f : Cluster → Cluster) : (s.updCluster c f).wide = s.wide := rfl
@[simp] theorem State.updCluster_filters (s : State) (c : ClusterRef) (f : Cluster → Cluster) : (s.updCluster c f).filters = s.filters := rfl
@[simp] theorem State.updCluster_dirs (s : State) (c : ClusterRef) (f : Cluster → Cluster) : (s.updCluster c f).dirs = s.dirs := rfl
@[simp] theorem State.updCluster_portDir (s : State) (c : ClusterRef) (f : Cluster → Cluster) : (s.updCluster c f).portDir = s.portDir := rfl
@[simp] theorem State.updCluster_peerTrk (s : State) (c : ClusterRef) (f : Cluster → Cluster) : (s.updCluster c f).peerTrk = s.peerTrk := rfl
@[simp] theorem State.updCluster_snoopFl (s : State) (c : ClusterRef) (f : Cluster → Cluster) : (s.updCluster c f).snoopFl = s.snoopFl := rfl
@[simp] theorem State.updCluster_snoops (s : State) (c : ClusterRef) (f : Cluster → Cluster) : (s.updCluster c f).snoops = s.snoops := rfl
@[simp] theorem State.updCluster_posted (s : State) (c : ClusterRef) (f : Cluster → Cluster) : (s.updCluster c f).posted = s.posted := rfl
@[simp] theorem State.updCluster_invals (s : State) (c : ClusterRef) (f : Cluster → Cluster) : (s.updCluster c f).invals = s.invals := rfl
@[simp] theorem State.updCluster_outq (s : State) (c : ClusterRef) (f : Cluster → Cluster) : (s.updCluster c f).outq = s.outq := rfl
@[simp] theorem State.updCluster_pubs (s : State) (c : ClusterRef) (f : Cluster → Cluster) : (s.updCluster c f).pubs = s.pubs := rfl
@[simp] theorem State.updCluster_tlb (s : State) (c : ClusterRef) (f : Cluster → Cluster) : (s.updCluster c f).tlb = s.tlb := rfl
@[simp] theorem State.updCluster_shoots (s : State) (c : ClusterRef) (f : Cluster → Cluster) : (s.updCluster c f).shoots = s.shoots := rfl
@[simp] theorem State.updCluster_commands (s : State) (c : ClusterRef) (f : Cluster → Cluster) : (s.updCluster c f).commands = s.commands := rfl
@[simp] theorem State.updCluster_now (s : State) (c : ClusterRef) (f : Cluster → Cluster) : (s.updCluster c f).now = s.now := rfl
@[simp] theorem State.updCluster_hubClock (s : State) (c : ClusterRef) (f : Cluster → Cluster) : (s.updCluster c f).hubClock = s.hubClock := rfl
@[simp] theorem State.updCluster_lapNs (s : State) (c : ClusterRef) (f : Cluster → Cluster) : (s.updCluster c f).lapNs = s.lapNs := rfl
@[simp] theorem State.updCluster_lapNew (s : State) (c : ClusterRef) (f : Cluster → Cluster) : (s.updCluster c f).lapNew = s.lapNew := rfl
@[simp] theorem State.updCluster_nextLap (s : State) (c : ClusterRef) (f : Cluster → Cluster) : (s.updCluster c f).nextLap = s.nextLap := rfl
@[simp] theorem State.updCluster_pool (s : State) (c : ClusterRef) (f : Cluster → Cluster) : (s.updCluster c f).pool = s.pool := rfl
@[simp] theorem State.updCluster_partPl (s : State) (c : ClusterRef) (f : Cluster → Cluster) : (s.updCluster c f).partPl = s.partPl := rfl
@[simp] theorem State.updCluster_parts (s : State) (c : ClusterRef) (f : Cluster → Cluster) : (s.updCluster c f).parts = s.parts := rfl
@[simp] theorem State.updCluster_tenants (s : State) (c : ClusterRef) (f : Cluster → Cluster) : (s.updCluster c f).tenants = s.tenants := rfl
@[simp] theorem State.updCluster_queues (s : State) (c : ClusterRef) (f : Cluster → Cluster) : (s.updCluster c f).queues = s.queues := rfl
@[simp] theorem State.updCluster_notify (s : State) (c : ClusterRef) (f : Cluster → Cluster) : (s.updCluster c f).notify = s.notify := rfl
@[simp] theorem State.updCluster_ctxs (s : State) (c : ClusterRef) (f : Cluster → Cluster) : (s.updCluster c f).ctxs = s.ctxs := rfl
@[simp] theorem State.updCluster_meets (s : State) (c : ClusterRef) (f : Cluster → Cluster) : (s.updCluster c f).meets = s.meets := rfl
@[simp] theorem State.updCluster_teams (s : State) (c : ClusterRef) (f : Cluster → Cluster) : (s.updCluster c f).teams = s.teams := rfl
@[simp] theorem State.updCluster_nextId (s : State) (c : ClusterRef) (f : Cluster → Cluster) : (s.updCluster c f).nextId = s.nextId := rfl
@[simp] theorem State.updCluster_owners (s : State) (c : ClusterRef) (f : Cluster → Cluster) : (s.updCluster c f).owners = s.owners := rfl
@[simp] theorem State.updCluster_collBytes (s : State) (c : ClusterRef) (f : Cluster → Cluster) : (s.updCluster c f).collBytes = s.collBytes := rfl
@[simp] theorem State.updCluster_expander (s : State) (c : ClusterRef) (f : Cluster → Cluster) : (s.updCluster c f).expander = s.expander := rfl
@[simp] theorem State.updCluster_beyond (s : State) (c : ClusterRef) (f : Cluster → Cluster) : (s.updCluster c f).beyond = s.beyond := rfl
@[simp] theorem State.updCluster_viral (s : State) (c : ClusterRef) (f : Cluster → Cluster) : (s.updCluster c f).viral = s.viral := rfl
@[simp] theorem State.updCluster_gone (s : State) (c : ClusterRef) (f : Cluster → Cluster) : (s.updCluster c f).gone = s.gone := rfl
@[simp] theorem State.updCluster_layers (s : State) (c : ClusterRef) (f : Cluster → Cluster) : (s.updCluster c f).layers = s.layers := rfl
@[simp] theorem State.updCluster_halted (s : State) (c : ClusterRef) (f : Cluster → Cluster) : (s.updCluster c f).halted = s.halted := rfl
@[simp] theorem State.updCluster_host (s : State) (c : ClusterRef) (f : Cluster → Cluster) : (s.updCluster c f).host = s.host := rfl
@[simp] theorem State.updCluster_agenda (s : State) (c : ClusterRef) (f : Cluster → Cluster) : (s.updCluster c f).agenda = s.agenda := rfl
@[simp] theorem State.updCluster_oracle (s : State) (c : ClusterRef) (f : Cluster → Cluster) : (s.updCluster c f).oracle = s.oracle := rfl
@[simp] theorem State.updCluster_pace (s : State) (c : ClusterRef) (f : Cluster → Cluster) : (s.updCluster c f).pace = s.pace := rfl
@[simp] theorem State.updCluster_turn (s : State) (c : ClusterRef) (f : Cluster → Cluster) : (s.updCluster c f).turn = s.turn := rfl
@[simp] theorem State.updCluster_cur (s : State) (c : ClusterRef) (f : Cluster → Cluster) : (s.updCluster c f).cur = s.cur := rfl
@[simp] theorem State.updCluster_freeCtr (s : State) (c : ClusterRef) (f : Cluster → Cluster) : (s.updCluster c f).freeCtr = s.freeCtr := rfl

/-! ### State.tell -/

@[simp] theorem State.tell_product (s : State) (e : HostEvent) : (s.tell e).product = s.product := rfl
@[simp] theorem State.tell_mem (s : State) (e : HostEvent) : (s.tell e).mem = s.mem := rfl
@[simp] theorem State.tell_poison (s : State) (e : HostEvent) : (s.tell e).poison = s.poison := rfl
@[simp] theorem State.tell_classes (s : State) (e : HostEvent) : (s.tell e).classes = s.classes := rfl
@[simp] theorem State.tell_changes (s : State) (e : HostEvent) : (s.tell e).changes = s.changes := rfl
@[simp] theorem State.tell_granules (s : State) (e : HostEvent) : (s.tell e).granules = s.granules := rfl
@[simp] theorem State.tell_oldParts (s : State) (e : HostEvent) : (s.tell e).oldParts = s.oldParts := rfl
@[simp] theorem State.tell_stripe (s : State) (e : HostEvent) : (s.tell e).stripe = s.stripe := rfl
@[simp] theorem State.tell_lines (s : State) (e : HostEvent) : (s.tell e).lines = s.lines := rfl
@[simp] theorem State.tell_slices (s : State) (e : HostEvent) : (s.tell e).slices = s.slices := rfl
@[simp] theorem State.tell_uses (s : State) (e : HostEvent) : (s.tell e).uses = s.uses := rfl
@[simp] theorem State.tell_missed (s : State) (e : HostEvent) : (s.tell e).missed = s.missed := rfl
@[simp] theorem State.tell_ulines (s : State) (e : HostEvent) : (s.tell e).ulines = s.ulines := rfl
@[simp] theorem State.tell_peerU (s : State) (e : HostEvent) : (s.tell e).peerU = s.peerU := rfl
@[simp] theorem State.tell_wide (s : State) (e : HostEvent) : (s.tell e).wide = s.wide := rfl
@[simp] theorem State.tell_filters (s : State) (e : HostEvent) : (s.tell e).filters = s.filters := rfl
@[simp] theorem State.tell_dirs (s : State) (e : HostEvent) : (s.tell e).dirs = s.dirs := rfl
@[simp] theorem State.tell_portDir (s : State) (e : HostEvent) : (s.tell e).portDir = s.portDir := rfl
@[simp] theorem State.tell_peerTrk (s : State) (e : HostEvent) : (s.tell e).peerTrk = s.peerTrk := rfl
@[simp] theorem State.tell_snoopFl (s : State) (e : HostEvent) : (s.tell e).snoopFl = s.snoopFl := rfl
@[simp] theorem State.tell_snoops (s : State) (e : HostEvent) : (s.tell e).snoops = s.snoops := rfl
@[simp] theorem State.tell_posted (s : State) (e : HostEvent) : (s.tell e).posted = s.posted := rfl
@[simp] theorem State.tell_invals (s : State) (e : HostEvent) : (s.tell e).invals = s.invals := rfl
@[simp] theorem State.tell_outq (s : State) (e : HostEvent) : (s.tell e).outq = s.outq := rfl
@[simp] theorem State.tell_pubs (s : State) (e : HostEvent) : (s.tell e).pubs = s.pubs := rfl
@[simp] theorem State.tell_tlb (s : State) (e : HostEvent) : (s.tell e).tlb = s.tlb := rfl
@[simp] theorem State.tell_shoots (s : State) (e : HostEvent) : (s.tell e).shoots = s.shoots := rfl
@[simp] theorem State.tell_commands (s : State) (e : HostEvent) : (s.tell e).commands = s.commands := rfl
@[simp] theorem State.tell_now (s : State) (e : HostEvent) : (s.tell e).now = s.now := rfl
@[simp] theorem State.tell_hubClock (s : State) (e : HostEvent) : (s.tell e).hubClock = s.hubClock := rfl
@[simp] theorem State.tell_lapNs (s : State) (e : HostEvent) : (s.tell e).lapNs = s.lapNs := rfl
@[simp] theorem State.tell_lapNew (s : State) (e : HostEvent) : (s.tell e).lapNew = s.lapNew := rfl
@[simp] theorem State.tell_nextLap (s : State) (e : HostEvent) : (s.tell e).nextLap = s.nextLap := rfl
@[simp] theorem State.tell_pool (s : State) (e : HostEvent) : (s.tell e).pool = s.pool := rfl
@[simp] theorem State.tell_partPl (s : State) (e : HostEvent) : (s.tell e).partPl = s.partPl := rfl
@[simp] theorem State.tell_parts (s : State) (e : HostEvent) : (s.tell e).parts = s.parts := rfl
@[simp] theorem State.tell_tenants (s : State) (e : HostEvent) : (s.tell e).tenants = s.tenants := rfl
@[simp] theorem State.tell_queues (s : State) (e : HostEvent) : (s.tell e).queues = s.queues := rfl
@[simp] theorem State.tell_notify (s : State) (e : HostEvent) : (s.tell e).notify = s.notify := rfl
@[simp] theorem State.tell_ctxs (s : State) (e : HostEvent) : (s.tell e).ctxs = s.ctxs := rfl
@[simp] theorem State.tell_meets (s : State) (e : HostEvent) : (s.tell e).meets = s.meets := rfl
@[simp] theorem State.tell_teams (s : State) (e : HostEvent) : (s.tell e).teams = s.teams := rfl
@[simp] theorem State.tell_nextId (s : State) (e : HostEvent) : (s.tell e).nextId = s.nextId := rfl
@[simp] theorem State.tell_dies (s : State) (e : HostEvent) : (s.tell e).dies = s.dies := rfl
@[simp] theorem State.tell_owners (s : State) (e : HostEvent) : (s.tell e).owners = s.owners := rfl
@[simp] theorem State.tell_collBytes (s : State) (e : HostEvent) : (s.tell e).collBytes = s.collBytes := rfl
@[simp] theorem State.tell_expander (s : State) (e : HostEvent) : (s.tell e).expander = s.expander := rfl
@[simp] theorem State.tell_beyond (s : State) (e : HostEvent) : (s.tell e).beyond = s.beyond := rfl
@[simp] theorem State.tell_viral (s : State) (e : HostEvent) : (s.tell e).viral = s.viral := rfl
@[simp] theorem State.tell_gone (s : State) (e : HostEvent) : (s.tell e).gone = s.gone := rfl
@[simp] theorem State.tell_layers (s : State) (e : HostEvent) : (s.tell e).layers = s.layers := rfl
@[simp] theorem State.tell_halted (s : State) (e : HostEvent) : (s.tell e).halted = s.halted := rfl
@[simp] theorem State.tell_agenda (s : State) (e : HostEvent) : (s.tell e).agenda = s.agenda := rfl
@[simp] theorem State.tell_oracle (s : State) (e : HostEvent) : (s.tell e).oracle = s.oracle := rfl
@[simp] theorem State.tell_pace (s : State) (e : HostEvent) : (s.tell e).pace = s.pace := rfl
@[simp] theorem State.tell_turn (s : State) (e : HostEvent) : (s.tell e).turn = s.turn := rfl
@[simp] theorem State.tell_cur (s : State) (e : HostEvent) : (s.tell e).cur = s.cur := rfl
@[simp] theorem State.tell_freeCtr (s : State) (e : HostEvent) : (s.tell e).freeCtr = s.freeCtr := rfl

/-! ### State.chosen -/

@[simp] theorem State.chosen_product (s : State) : (s.chosen).product = s.product := rfl
@[simp] theorem State.chosen_mem (s : State) : (s.chosen).mem = s.mem := rfl
@[simp] theorem State.chosen_poison (s : State) : (s.chosen).poison = s.poison := rfl
@[simp] theorem State.chosen_classes (s : State) : (s.chosen).classes = s.classes := rfl
@[simp] theorem State.chosen_changes (s : State) : (s.chosen).changes = s.changes := rfl
@[simp] theorem State.chosen_granules (s : State) : (s.chosen).granules = s.granules := rfl
@[simp] theorem State.chosen_oldParts (s : State) : (s.chosen).oldParts = s.oldParts := rfl
@[simp] theorem State.chosen_stripe (s : State) : (s.chosen).stripe = s.stripe := rfl
@[simp] theorem State.chosen_lines (s : State) : (s.chosen).lines = s.lines := rfl
@[simp] theorem State.chosen_slices (s : State) : (s.chosen).slices = s.slices := rfl
@[simp] theorem State.chosen_uses (s : State) : (s.chosen).uses = s.uses := rfl
@[simp] theorem State.chosen_missed (s : State) : (s.chosen).missed = s.missed := rfl
@[simp] theorem State.chosen_ulines (s : State) : (s.chosen).ulines = s.ulines := rfl
@[simp] theorem State.chosen_peerU (s : State) : (s.chosen).peerU = s.peerU := rfl
@[simp] theorem State.chosen_wide (s : State) : (s.chosen).wide = s.wide := rfl
@[simp] theorem State.chosen_filters (s : State) : (s.chosen).filters = s.filters := rfl
@[simp] theorem State.chosen_dirs (s : State) : (s.chosen).dirs = s.dirs := rfl
@[simp] theorem State.chosen_portDir (s : State) : (s.chosen).portDir = s.portDir := rfl
@[simp] theorem State.chosen_peerTrk (s : State) : (s.chosen).peerTrk = s.peerTrk := rfl
@[simp] theorem State.chosen_snoopFl (s : State) : (s.chosen).snoopFl = s.snoopFl := rfl
@[simp] theorem State.chosen_snoops (s : State) : (s.chosen).snoops = s.snoops := rfl
@[simp] theorem State.chosen_posted (s : State) : (s.chosen).posted = s.posted := rfl
@[simp] theorem State.chosen_invals (s : State) : (s.chosen).invals = s.invals := rfl
@[simp] theorem State.chosen_outq (s : State) : (s.chosen).outq = s.outq := rfl
@[simp] theorem State.chosen_pubs (s : State) : (s.chosen).pubs = s.pubs := rfl
@[simp] theorem State.chosen_tlb (s : State) : (s.chosen).tlb = s.tlb := rfl
@[simp] theorem State.chosen_shoots (s : State) : (s.chosen).shoots = s.shoots := rfl
@[simp] theorem State.chosen_commands (s : State) : (s.chosen).commands = s.commands := rfl
@[simp] theorem State.chosen_now (s : State) : (s.chosen).now = s.now := rfl
@[simp] theorem State.chosen_hubClock (s : State) : (s.chosen).hubClock = s.hubClock := rfl
@[simp] theorem State.chosen_lapNs (s : State) : (s.chosen).lapNs = s.lapNs := rfl
@[simp] theorem State.chosen_lapNew (s : State) : (s.chosen).lapNew = s.lapNew := rfl
@[simp] theorem State.chosen_nextLap (s : State) : (s.chosen).nextLap = s.nextLap := rfl
@[simp] theorem State.chosen_pool (s : State) : (s.chosen).pool = s.pool := rfl
@[simp] theorem State.chosen_partPl (s : State) : (s.chosen).partPl = s.partPl := rfl
@[simp] theorem State.chosen_parts (s : State) : (s.chosen).parts = s.parts := rfl
@[simp] theorem State.chosen_tenants (s : State) : (s.chosen).tenants = s.tenants := rfl
@[simp] theorem State.chosen_queues (s : State) : (s.chosen).queues = s.queues := rfl
@[simp] theorem State.chosen_notify (s : State) : (s.chosen).notify = s.notify := rfl
@[simp] theorem State.chosen_ctxs (s : State) : (s.chosen).ctxs = s.ctxs := rfl
@[simp] theorem State.chosen_meets (s : State) : (s.chosen).meets = s.meets := rfl
@[simp] theorem State.chosen_teams (s : State) : (s.chosen).teams = s.teams := rfl
@[simp] theorem State.chosen_nextId (s : State) : (s.chosen).nextId = s.nextId := rfl
@[simp] theorem State.chosen_dies (s : State) : (s.chosen).dies = s.dies := rfl
@[simp] theorem State.chosen_owners (s : State) : (s.chosen).owners = s.owners := rfl
@[simp] theorem State.chosen_collBytes (s : State) : (s.chosen).collBytes = s.collBytes := rfl
@[simp] theorem State.chosen_expander (s : State) : (s.chosen).expander = s.expander := rfl
@[simp] theorem State.chosen_beyond (s : State) : (s.chosen).beyond = s.beyond := rfl
@[simp] theorem State.chosen_viral (s : State) : (s.chosen).viral = s.viral := rfl
@[simp] theorem State.chosen_gone (s : State) : (s.chosen).gone = s.gone := rfl
@[simp] theorem State.chosen_layers (s : State) : (s.chosen).layers = s.layers := rfl
@[simp] theorem State.chosen_halted (s : State) : (s.chosen).halted = s.halted := rfl
@[simp] theorem State.chosen_host (s : State) : (s.chosen).host = s.host := rfl
@[simp] theorem State.chosen_agenda (s : State) : (s.chosen).agenda = s.agenda := rfl
@[simp] theorem State.chosen_pace (s : State) : (s.chosen).pace = s.pace := rfl
@[simp] theorem State.chosen_turn (s : State) : (s.chosen).turn = s.turn := rfl
@[simp] theorem State.chosen_cur (s : State) : (s.chosen).cur = s.cur := rfl
@[simp] theorem State.chosen_freeCtr (s : State) : (s.chosen).freeCtr = s.freeCtr := rfl

/-! ### State.put -/

@[simp] theorem State.put_product (s : State) (x : Site) : (s.put x).product = s.product := rfl
@[simp] theorem State.put_mem (s : State) (x : Site) : (s.put x).mem = s.mem := rfl
@[simp] theorem State.put_poison (s : State) (x : Site) : (s.put x).poison = s.poison := rfl
@[simp] theorem State.put_classes (s : State) (x : Site) : (s.put x).classes = s.classes := rfl
@[simp] theorem State.put_changes (s : State) (x : Site) : (s.put x).changes = s.changes := rfl
@[simp] theorem State.put_granules (s : State) (x : Site) : (s.put x).granules = s.granules := rfl
@[simp] theorem State.put_oldParts (s : State) (x : Site) : (s.put x).oldParts = s.oldParts := rfl
@[simp] theorem State.put_stripe (s : State) (x : Site) : (s.put x).stripe = s.stripe := rfl
@[simp] theorem State.put_lines (s : State) (x : Site) : (s.put x).lines = s.lines := rfl
@[simp] theorem State.put_slices (s : State) (x : Site) : (s.put x).slices = s.slices := rfl
@[simp] theorem State.put_uses (s : State) (x : Site) : (s.put x).uses = s.uses := rfl
@[simp] theorem State.put_missed (s : State) (x : Site) : (s.put x).missed = s.missed := rfl
@[simp] theorem State.put_ulines (s : State) (x : Site) : (s.put x).ulines = s.ulines := rfl
@[simp] theorem State.put_peerU (s : State) (x : Site) : (s.put x).peerU = s.peerU := rfl
@[simp] theorem State.put_wide (s : State) (x : Site) : (s.put x).wide = s.wide := rfl
@[simp] theorem State.put_filters (s : State) (x : Site) : (s.put x).filters = s.filters := rfl
@[simp] theorem State.put_dirs (s : State) (x : Site) : (s.put x).dirs = s.dirs := rfl
@[simp] theorem State.put_portDir (s : State) (x : Site) : (s.put x).portDir = s.portDir := rfl
@[simp] theorem State.put_peerTrk (s : State) (x : Site) : (s.put x).peerTrk = s.peerTrk := rfl
@[simp] theorem State.put_snoopFl (s : State) (x : Site) : (s.put x).snoopFl = s.snoopFl := rfl
@[simp] theorem State.put_snoops (s : State) (x : Site) : (s.put x).snoops = s.snoops := rfl
@[simp] theorem State.put_posted (s : State) (x : Site) : (s.put x).posted = s.posted := rfl
@[simp] theorem State.put_invals (s : State) (x : Site) : (s.put x).invals = s.invals := rfl
@[simp] theorem State.put_outq (s : State) (x : Site) : (s.put x).outq = s.outq := rfl
@[simp] theorem State.put_pubs (s : State) (x : Site) : (s.put x).pubs = s.pubs := rfl
@[simp] theorem State.put_tlb (s : State) (x : Site) : (s.put x).tlb = s.tlb := rfl
@[simp] theorem State.put_shoots (s : State) (x : Site) : (s.put x).shoots = s.shoots := rfl
@[simp] theorem State.put_commands (s : State) (x : Site) : (s.put x).commands = s.commands := rfl
@[simp] theorem State.put_now (s : State) (x : Site) : (s.put x).now = s.now := rfl
@[simp] theorem State.put_hubClock (s : State) (x : Site) : (s.put x).hubClock = s.hubClock := rfl
@[simp] theorem State.put_lapNs (s : State) (x : Site) : (s.put x).lapNs = s.lapNs := rfl
@[simp] theorem State.put_lapNew (s : State) (x : Site) : (s.put x).lapNew = s.lapNew := rfl
@[simp] theorem State.put_nextLap (s : State) (x : Site) : (s.put x).nextLap = s.nextLap := rfl
@[simp] theorem State.put_pool (s : State) (x : Site) : (s.put x).pool = s.pool := rfl
@[simp] theorem State.put_partPl (s : State) (x : Site) : (s.put x).partPl = s.partPl := rfl
@[simp] theorem State.put_parts (s : State) (x : Site) : (s.put x).parts = s.parts := rfl
@[simp] theorem State.put_tenants (s : State) (x : Site) : (s.put x).tenants = s.tenants := rfl
@[simp] theorem State.put_queues (s : State) (x : Site) : (s.put x).queues = s.queues := rfl
@[simp] theorem State.put_notify (s : State) (x : Site) : (s.put x).notify = s.notify := rfl
@[simp] theorem State.put_ctxs (s : State) (x : Site) : (s.put x).ctxs = s.ctxs := rfl
@[simp] theorem State.put_meets (s : State) (x : Site) : (s.put x).meets = s.meets := rfl
@[simp] theorem State.put_nextId (s : State) (x : Site) : (s.put x).nextId = s.nextId := rfl
@[simp] theorem State.put_dies (s : State) (x : Site) : (s.put x).dies = s.dies := rfl
@[simp] theorem State.put_owners (s : State) (x : Site) : (s.put x).owners = s.owners := rfl
@[simp] theorem State.put_collBytes (s : State) (x : Site) : (s.put x).collBytes = s.collBytes := rfl
@[simp] theorem State.put_expander (s : State) (x : Site) : (s.put x).expander = s.expander := rfl
@[simp] theorem State.put_beyond (s : State) (x : Site) : (s.put x).beyond = s.beyond := rfl
@[simp] theorem State.put_viral (s : State) (x : Site) : (s.put x).viral = s.viral := rfl
@[simp] theorem State.put_gone (s : State) (x : Site) : (s.put x).gone = s.gone := rfl
@[simp] theorem State.put_layers (s : State) (x : Site) : (s.put x).layers = s.layers := rfl
@[simp] theorem State.put_halted (s : State) (x : Site) : (s.put x).halted = s.halted := rfl
@[simp] theorem State.put_host (s : State) (x : Site) : (s.put x).host = s.host := rfl
@[simp] theorem State.put_agenda (s : State) (x : Site) : (s.put x).agenda = s.agenda := rfl
@[simp] theorem State.put_oracle (s : State) (x : Site) : (s.put x).oracle = s.oracle := rfl
@[simp] theorem State.put_pace (s : State) (x : Site) : (s.put x).pace = s.pace := rfl
@[simp] theorem State.put_turn (s : State) (x : Site) : (s.put x).turn = s.turn := rfl
@[simp] theorem State.put_cur (s : State) (x : Site) : (s.put x).cur = s.cur := rfl
@[simp] theorem State.put_freeCtr (s : State) (x : Site) : (s.put x).freeCtr = s.freeCtr := rfl

end Sys2Proof.Machine
end

