-- ==== Sys2Proof/Tests/Slice0.lean ====
section
/-!
SUPPORT. Tests: ill-formed terms that WellFormed refuses, words of the manual's encodings, values of the manual's worked cases, and a
witness that meets the hypotheses of each statement.
-/

set_option maxRecDepth 20000
set_option Elab.async false

namespace Sys2Proof.Tests

open Sys2Proof Sys2Proof.Machine

/-! ### Ill-formed instructions (R158, R159, R161, R163, R165, R166) -/

/-- ADD.s32 v20, v21, v22 with every other field zero. -/
def plainAdd : Ext := plainExt 21 20 22 .s32

theorem test_wf_add : (Instr.addExt plainAdd).wf = true := by decide
theorem test_wf_function_code : (Instr.addExt { plainAdd with x := 1 }).wf = false := by decide
theorem test_wf_type : (Instr.addExt { plainAdd with ty := .f32 }).wf = false := by decide
theorem test_wf_second_source : (Instr.addExt { plainAdd with b := 0, osel := 3 }).wf = false := by decide
theorem test_wf_literal_without_words : (Instr.addExt { plainAdd with b := 0, osel := 2 }).wf = false := by decide
theorem test_wf_literal_not_consumed : (Instr.addExt { plainAdd with form := .extLit }).wf = false := by decide
theorem test_wf_upper_literal_bits : (Instr.addExt { plainAdd with b := 0, form := .extLit, osel := 2, lit := 0xFFFFFFFFFFFE7960 }).wf = false := by decide
theorem test_wf_rounding : (Instr.addExt { plainAdd with rs := 1 }).wf = false := by decide
theorem test_wf_reserved_rounding : (Instr.faddExt { plainExt 21 20 22 .f32 with rs := 7 }).wf = false := by decide
theorem test_wf_m1 : (Instr.cmpExt { plainExt 21 3 22 .s32 with m1 := 6 }).wf = false := by decide
theorem test_wf_mod : (Instr.addExt { plainAdd with mod := 2 }).wf = false := by decide
theorem test_wf_place : (Instr.addExt { plainAdd with p := 1 }).wf = false := by decide
theorem test_wf_unused_register : (Instr.addExt { plainAdd with c := 1 }).wf = false := by decide
theorem test_wf_unused_immediate : (Instr.addExt { plainAdd with imm := 1 }).wf = false := by decide
theorem test_wf_pair : (Instr.addExt (plainExt 22 21 24 .s64)).wf = false := by decide
theorem test_wf_four : (Instr.movExt (plainExt 24 22 0 .b128)).wf = false := by decide
theorem test_wf_mask_number : (Instr.join 12).wf = false := by decide
theorem test_wf_guard_index : (Instr.cmpExt (plainExt 21 32 22 .s32)).wf = false := by decide
theorem test_wf_jump_m1 : (Instr.callW { ofs := 1, guard := .always, m1 := 5 }).wf = false := by decide
theorem test_wf_system_register : (Instr.sysrd { plainExt 0 20 0 .s8 with imm := 0xFFFF }).wf = false := by decide
theorem test_wf_lap : (Instr.lapLengthSet 0).wf = false := by decide
theorem test_wf_partition : (Instr.partitionConfig 64 (.limit 90)).wf = false := by decide
theorem test_wf_channel : (Instr.copyStart { die := 0, loc := 0 } 9).wf = false := by decide
theorem test_wf_group : (Instr.groupTableWrite 0 256 none).wf = false := by decide
theorem test_wf_window : (Instr.windowRegisterWrite 0 0 4096 0 .host).wf = false := by decide
theorem test_wf_key_slot : (Instr.endSession (some 0) 64).wf = false := by decide
theorem test_wf_frequency : (Instr.frequencyStep 0 8).wf = false := by decide
theorem test_wf_mailbox : (Instr.mailboxMessage 0 0 8 none).wf = false := by decide
theorem test_wf_core : (Instr.commandProcessorCoreFailure 0 8).wf = false := by decide

/-! ### Words of the manual (Table 14.1, the short-form words of the instruction chapters, and the worked programs) -/

theorem test_decode_add_short : decode .heat [0x2C2A2804] = .ok (.add 22 21 20) 4 := by decide
theorem test_decode_add_literal : decode .heat [0x002A2805, 0x000186A0, 0] =
    .ok (.addExt { plainExt 21 20 0 .s32 with form := .shortLit, osel := 2, lit := 100000 }) 12 := by decide
theorem test_decode_add_guarded : decode .heat [0x002A2806, 0x01650000, 0x03E80040] =
    .ok (.addExt { plainExt 21 20 0 .s32 with guard := .ifClear 5, osel := 1, imm := 1000 }) 12 := by decide
theorem test_decode_add_five_words : decode .heat [0x002A2807, 0x01450000, 0x00000080, 0x000186A0, 0] =
    .ok (.addExt { plainExt 21 20 0 .s32 with form := .extLit, guard := .ifSet 5, osel := 2, lit := 100000 }) 20 := by decide
theorem test_decode_add_sign_extended_literal : decode .heat [0x002A2805, 0xFFFE7960, 0xFFFFFFFF] = .illegal := by decide
theorem test_decode_movi : decode .heat [0xFA00286C] = .ok (.movi 0x7D 20) 4 := by decide
theorem test_decode_bra : decode .heat [0xFFFFFC8C] = .ok (.bra 0x7FFFFE) 4 := by decide
theorem test_decode_nop_yield_end : decode .heat [0x02000000] = .ok .nop 4 ∧ decode .heat [0x04000000] = .ok .yield 4 ∧
    decode .heat [0x06000000] = .ok .endI 4 := by decide
theorem test_decode_yield_on_the_pacer : decode .pacer [0x04000000] = .wrongUnit := by decide
theorem test_decode_sptest : decode .heat [0x00242884] = .ok (.sptest 18 20) 4 := by decide
theorem test_decode_spcast : decode .heat [0x044C4C86, 0x20000000, 0] = .ok (.spcastGenExt { plainExt 38 38 0 .s8 with x := 2, m1 := 2 }) 12 := by decide
theorem test_decode_ld : decode .heat [0x002C34A0] = .ok (.ld 0 22 26) 4 := by decide
theorem test_decode_ld_acquire : decode .heat [0x001828A2, 0x08000000, 0x00000041] = .ok (.ldExt { plainExt 12 20 0 .b64 with osel := 1, mod := 1 }) 12 := by
  decide
theorem test_decode_ldx : decode .heat [0x002854AA, 0x08000027, 0x00030000] = .ok (.ldx { plainExt 20 42 39 .b64 with imm := 3 }) 12 := by decide
theorem test_decode_st_release : decode .heat [0x003020A6, 0x03000000, 0x00000041] = .ok (.stExt { plainExt 24 16 0 .n32 with osel := 1, mod := 1 }) 12 := by
  decide
theorem test_decode_amo : decode .heat [0x001020BE, 0x03000000, 0x00010040] = .ok (.amo { plainExt 8 16 0 .n32 with osel := 1, imm := 1 }) 12 := by decide
theorem test_decode_fences : decode .heat [0x000000C8] = .ok .fence 4 ∧ decode .heat [0x000000CC] = .ok .phase 4 ∧ decode .heat [0x000000D0] = .ok .wdrain 4 := by
  decide
theorem test_decode_cpy_wait : decode .heat [0x000000E6, 0x03000019, 0] = .ok (.cpyWait (plainExt 0 0 25 .n32)) 12 := by decide
theorem test_decode_trg_wait : decode .heat [0x04002AEE, 0x03000000, 0x00010040] =
    .ok (.trgWait { plainExt 0 21 0 .n32 with x := 2, osel := 1, imm := 1 }) 12 := by decide
theorem test_decode_topk : decode .heat [0x0038718A, 0x0500001D, 0x00040000] = .ok (.topk { plainExt 28 56 29 .f32 with imm := 4 }) 12 := by decide
theorem test_decode_mxma : decode .pacer [0x005251A6, 0x00002C2E, 0x00020001] =
    .ok (.mxma { plainExt 41 40 46 .s8 with c := 44, mod := 1, imm := 2 }) 12 := by decide
theorem test_decode_mxma_on_a_heat : decode .heat [0x005251A6, 0x00002C2E, 0x00020001] = .wrongUnit := by decide
theorem test_decode_mxwait : decode .pacer [0x000001AC] = .ok .mxwait 4 ∧ decode .pacer [0x000001B0] = .ok .mxfence 4 ∧
    decode .pacer [0x000029B4] = .ok (.mxstat 20) 4 := by decide
theorem test_decode_tsend : decode .heat [0x00102DD2, 0x00000300, 0x00800040] = .ok (.tsend { plainExt 8 22 0 .s8 with c := 3, osel := 1, imm := 128 }) 12 := by
  decide
theorem test_decode_txwait : decode .heat [0x002C2FCE, 0, 0] = .ok (.txwait (plainExt 22 23 0 .s8)) 12 := by decide
theorem test_decode_txcoll : decode .heat [0x001029CA, 0x50000A08, 0x00000005] =
    .ok (.txcoll { plainExt 8 20 8 .s8 with c := 10, m1 := 5, mod := 5 }) 12 := by decide
theorem test_decode_traps : decode .heat [0x0A0001DC] = .ok (.trap 5) 4 ∧ decode .heat [0x000001E4] = .ok (.brk 0) 4 ∧ decode .heat [0x000001E0] = .ok .eret 4 := by
  decide
theorem test_decode_zero : decode .heat [0] = .illegal ∧ decode .pacer [0] = .illegal := by decide
theorem test_decode_reserved_opcode : decode .heat [0x000000F4] = .illegal := by decide
theorem test_encode_five_words : encode (.addExt { plainExt 21 20 0 .s32 with form := .extLit, guard := .ifSet 5, osel := 2, lit := 100000 }) =
    [0x002A2807, 0x01450000, 0x00000080, 0x000186A0, 0] := by decide
theorem test_table_word : decodeTableWord 32 0x02000000 = some .nop := by decide

/-! ### Values of the manual's worked cases (Table 19.1) -/

theorem test_div_corner : wrap 32 (Int.tdiv (-2147483648) (-1)) = 0x80000000 := by decide
theorem test_fmin_zeros : pickNum (plainExt 0 0 0 .f32) false 0x80000000 0 = 0x80000000 := by decide
theorem test_fmin_nan : pickNum (plainExt 0 0 0 .f32) false 0x7FC00001 0x3F800000 = 0x7FC00000 := by decide
theorem test_f2i_saturates : toInt .s8 0 0 (FFmt.f32.read 0x4396599A) = 127 := by decide
theorem test_f2i_nan : toInt .s8 0 0 .nan = 0 := by decide
theorem test_crc : crc32c [0x31, 0x32, 0x33, 0x34, 0x35, 0x36, 0x37, 0x38, 0x39] = 0xE3069283 := by decide +kernel


/-! ### Small machines for the witnesses -/

/-- A fibre has a register, as a check that runs. -/
def hasB (x : Site) (i r : Nat) : Bool :=
  match x.heat.fibre? i with
  | none => false
  | some f =>
    if r < 128 then decide (f.slotOf r < f.regs.length)
    else x.holdsX && match x.xset? with
      | none => false
      | some e => match e.regs[i]? with
        | none => false
        | some l => decide (r - 128 < l.length)

/-- A fibre has a register that holds a value. -/
def knowsB (x : Site) (i r : Nat) : Bool :=
  hasB x i r && match x.slot i r with
    | .val _ => true
    | .bat _ => false

theorem has_of (x : Site) (i r : Nat) (h : hasB x i r = true) : x.Has i r := by
  unfold hasB at h
  unfold Site.Has
  split at h
  · cases h
  · rename_i f hf
    refine ⟨f, hf, ?_⟩
    split at h
    · rename_i hr
      rw [if_pos hr]
      exact of_decide_eq_true h
    · rename_i hr
      rw [if_neg hr]
      obtain ⟨hx, h⟩ := Bool.and_eq_true_iff.mp h
      refine ⟨hx, ?_⟩
      split at h
      · cases h
      · rename_i e he
        split at h
        · cases h
        · rename_i l hl
          exact ⟨e, l, he, hl, of_decide_eq_true h⟩

theorem knows_of (x : Site) (i r : Nat) (h : knowsB x i r = true) : x.Knows i r := by
  obtain ⟨h1, h2⟩ := Bool.and_eq_true_iff.mp h
  refine ⟨has_of x i r h1, ?_⟩
  split at h2
  · rename_i w hw
    exact ⟨w, hw⟩
  · cases h2

/-- The conditions of an issue, as a check that runs. -/
def issuesB (s : State) (x : Site) (is : List Nat) (g : Guard) (us : List Use) : Bool :=
  decide (s.cur.batch.Nodup) && s.cur.batch.all (fun i => (x.heat.fibre? i).isSome) && (decide (g = .always) || s.cur.batch.all fun i => knowsB x i 0) &&
    decide (x.executing s.cur.batch g = is) && decide (is ≠ []) &&
    us.all fun u => is.all fun i => (List.range u.n).all fun k => hasB x i (u.reg + k) && (!u.rd || knowsB x i (u.reg + k))

theorem issues_of {s : State} {x : Site} {is : List Nat} {g : Guard} {us : List Use} (h : s.here = some x) (b : issuesB s x is g us = true) :
    Issues s x is g us := by
  unfold issuesB at b
  simp only [Bool.and_eq_true, Bool.or_eq_true, decide_eq_true_eq, List.all_eq_true, List.mem_range] at b
  obtain ⟨⟨⟨⟨⟨b1, b2⟩, b3⟩, b4⟩, b5⟩, b6⟩ := b
  exact
    { here := h, once := b1, live := b2, known := b3.imp id fun h i hi => knows_of x i 0 (h i hi), executing := b4, nonempty := b5
      fields := fun u hu i hi k hk => has_of x i _ (b6 u hu i hi k hk).1
      values := fun u hu r i hi k hk => knows_of x i _ ((b6 u hu i hi k hk).2.resolve_left (by simp [r])) }

/-- A fibre at address 0 whose first registers are given, with 48 registers in all. -/
def fib (vs : List Word) : Fibre := { placedFibre 48 with regs := vs.map .val ++ List.replicate (48 - vs.length) (.val 0) }

/-- A heat of the given fibres in the slots from 0. -/
def heatOf (fs : List Fibre) : Heat := { placedHeat 48 with fibres := fs.map some ++ List.replicate (32 - fs.length) none }

/-- A team of one heat. -/
def teamOf (h : Heat) : Team := { placedTeam false with heats := [h], awl := 0 }

/-- The leader's place in a team of one heat. -/
def seat (t : Team) (h : Heat) : Site := { u := { team := 0, who := .heat 0 0 }, team := t, heat := h }

/-- The package of reset with page tables, context 0, a launched meet and one team, whose heat issues the batch of fibre 0. -/
def bench (t : Team) (batch : List Nat := [0]) (len : Nat := 4) : State :=
  let s := State.reset.placed [0x02000000]
  { s with teams := [t], cur := { u := { team := 0, who := .heat 0 0 }, batch := batch, pc := 0, len := len, word0 := 0x02000000 } }

/-- One fibre whose registers hold small numbers. -/
def h1 : Heat := heatOf [fib [1, 7, 5, 9, 12, 0, 64, 0, 3, 0, 2, 0, 4, 0, 8, 0, 16, 0]]

def t1 : Team := teamOf h1

def s1 : State := bench t1

def x1 : Site := seat t1 h1

theorem here1 : s1.here = some x1 := by decide +kernel

/-- Two fibres, of which the second holds other numbers. -/
def h2 : Heat := heatOf [fib [1, 7, 5, 9], fib [0, 8, 6, 10]]

def t2 : Team := teamOf h2

def s2 : State := bench t2 [0, 1]

def x2 : Site := seat t2 h2

theorem here2 : s2.here = some x2 := by decide +kernel


/-! ### Witnesses: register instructions -/

theorem test_witness_integer : ∃ (i : Instr) (m : Mn) (e : Ext) (s : State) (x : Site) (is : List Nat) (us : List Use) (f : Effect),
    i.shape = .form m e ∧ integerResult m e x = some (us, f) ∧ Issues s x is e.guard us :=
  ⟨.add 2 1 3, .add, _, s2, x2, [0, 1], _, _, rfl, rfl, issues_of here2 (by decide +kernel)⟩

theorem test_witness_carry : ∃ (i : Instr) (m : Mn) (e : Ext) (s : State) (x : Site) (is : List Nat) (us : List Use) (f : Effect),
    i.shape = .form m e ∧ carryResult m e x = some (us, f) ∧ Issues s x is e.guard us :=
  ⟨.addcExt { plainExt 1 3 2 .s32 with guard := .ifSet 0, c := 31 }, .addc, _, s2, x2, [0], _, _, rfl, rfl, issues_of here2 (by decide +kernel)⟩

theorem test_witness_logic : ∃ (i : Instr) (m : Mn) (e : Ext) (s : State) (x : Site) (is : List Nat) (us : List Use) (f : Effect),
    i.shape = .form m e ∧ logicResult m e x = some (us, f) ∧ Issues s x is e.guard us :=
  ⟨.permExt (plainExt 1 3 2 .b32), .perm, _, s2, x2, [0, 1], _, _, rfl, rfl, issues_of here2 (by decide +kernel)⟩

theorem test_witness_moves : ∃ (i : Instr) (m : Mn) (e : Ext) (s : State) (x : Site) (is : List Nat) (us : List Use) (f : Effect),
    i.shape = .form m e ∧ moveResult m e x = some (us, f) ∧ Issues s x is e.guard us :=
  ⟨.movExt (plainExt 4 8 0 .b128), .mov, _, s1, x1, [0], _, _, rfl, rfl, issues_of here1 (by decide +kernel)⟩

theorem test_witness_compare : ∃ (i : Instr) (m : Mn) (e : Ext) (s : State) (x : Site) (is : List Nat) (us : List Use) (f : Effect),
    i.shape = .form m e ∧ compareResult m e x = some (us, f) ∧ Issues s x is e.guard us :=
  ⟨.cmpExt { plainExt 1 31 2 .s32 with m1 := 5, mod := 2 }, .cmp, _, s2, x2, [0, 1], _, _, rfl, rfl, issues_of here2 (by decide +kernel)⟩

theorem test_witness_spcast : ∃ (i : Instr) (e : Ext) (s : State) (x : Site) (is : List Nat), i.shape = .form .spcastOfs e ∧
    Issues s x is e.guard [useD e 2, readA e 2] ∧ ∀ k ∈ is, x.spaceCheck (x.val k e.a.toNat 2) = none :=
  ⟨.spcastOfs 6 8, _, s1, x1, [0], rfl, issues_of here1 (by decide +kernel), by decide +kernel⟩

theorem test_witness_float : ∃ (i : Instr) (m : Mn) (e : Ext) (s : State) (x : Site) (is : List Nat) (us : List Use) (f : Effect),
    i.shape = .form m e ∧ floatResult m e x = some (us, f) ∧ Issues s x is e.guard us :=
  ⟨.fma { plainExt 1 3 2 .h2 with c := 4, rs := 4 }, .fma, _, s2, x2, [0, 1], _, _, rfl, rfl, issues_of here2 (by decide +kernel)⟩

theorem test_witness_pick : ∃ (i : Instr) (m : Mn) (e : Ext) (s : State) (x : Site) (is : List Nat) (us : List Use) (f : Effect),
    i.shape = .form m e ∧ pickResult m e x = some (us, f) ∧ Issues s x is e.guard us :=
  ⟨.fcmp { plainExt 1 31 2 .f32 with m1 := 7 }, .fcmp, _, s2, x2, [0, 1], _, _, rfl, rfl, issues_of here2 (by decide +kernel)⟩

/-! ### Witnesses: control -/

theorem test_witness_jump : ∃ (i : Instr) (s : State) (x : Site) (is : List Nat) (j : Jump), jumpResult i s x = some j ∧ Issues s x is j.guard j.uses ∧
    ∀ k ∈ is, ∀ f, x.heat.fibre? k = some f → j.ok k f :=
  ⟨.callW { ofs := 2, guard := .always, m1 := 3 }, bench t2 [0, 1] 12, x2, [0, 1], _, rfl, issues_of (by decide +kernel) (by decide +kernel), by
    intro k hk f hf
    have : f.win = 0 ∧ f.regs.length = 48 := by
      fin_cases hk <;> (injection (show some _ = some f from hf) with h; subst h; decide +kernel)
    exact .inr (by simp [this])⟩

theorem test_witness_jump_back : ∃ (i : Instr) (s : State) (x : Site) (is : List Nat) (j : Jump), jumpResult i s x = some j ∧ Issues s x is j.guard j.uses ∧
    ∀ k ∈ is, ∀ f, x.heat.fibre? k = some f → j.ok k f :=
  ⟨.ret, s1, x1, [0], _, rfl, issues_of here1 (by decide +kernel), by
    intro k hk f hf
    have : f.win = 0 := by
      fin_cases hk
      injection (show some _ = some f from hf) with h
      subst h
      rfl
    fin_cases hk
    refine ⟨by decide +kernel, ?_, by decide +kernel, by decide +kernel⟩
    rw [this]
    decide +kernel⟩

theorem test_witness_mask : ∃ (i : Instr) (m : Mn) (e : Ext) (s : State) (x : Site) (is : List Nat) (us : List Use) (w : Word) (waits frees : Bool),
    i.shape = .form m e ∧ maskResult m e x is = some (us, w, waits, frees) ∧ Issues s x is e.guard us :=
  ⟨.joinExt { plainExt 0 11 0 .s8 with guard := .ifSet 0 }, .join, _, s2, x2, [0], _, _, _, _, rfl, rfl, issues_of here2 (by decide +kernel)⟩

theorem test_witness_cross : ∃ (i : Instr) (m : Mn) (e : Ext) (s : State) (x : Site) (is : List Nat) (us : List Use) (f : Effect),
    i.shape = .form m e ∧ crossResult m e x is = some (us, f) ∧ Issues s x is e.guard us :=
  ⟨.shflExt { plainExt 1 3 2 .b32 with x := 2, m1 := 3 }, .shfl, _, s2, x2, [0, 1], _, _, rfl, rfl, issues_of here2 (by decide +kernel)⟩

theorem test_witness_bcast : ∃ (i : Instr) (e : Ext) (s : State) (x : Site) (is : List Nat), i.shape = .form .bcast e ∧
    Issues s x is e.guard ([useD e e.ty.regs, { reg := e.a.toNat, n := e.ty.regs, rd := false }] ++ readB e 1) ∧
    ∀ f, x.heat.fibre? (x.src32 (is.headD 0) e % 32) = some f → ∀ r < e.ty.regs, x.Knows (x.src32 (is.headD 0) e % 32) (e.a.toNat + r) :=
  ⟨.bcastExt { plainExt 1 3 0 .b32 with x := 3, osel := 1, imm := 1 }, _, s2, x2, [0, 1], rfl, issues_of here2 (by decide +kernel), by
    intro f _ r hr
    have : r = 0 := by simpa [Ty.regs, plainExt] using hr
    subst this
    exact knows_of _ _ _ (by decide +kernel)⟩

theorem test_witness_nop : Issues s2 x2 [0, 1] .always [] := issues_of here2 (by decide +kernel)

theorem test_witness_fork : ∃ (i : Instr) (e : Ext) (s : State) (x : Site) (is : List Nat), i.shape = .form .fork e ∧
    Issues s x is e.guard ([readV0, { reg := 1, n := 15, rd := true }, useD e 1] ++ readB e 2) ∧ ∀ k ∈ is, goodTarget (x.forkTarget e s.cur.pc k) :=
  ⟨.fork { plainExt 0 20 0 .s8 with osel := 1, imm := 3 }, _, s2, x2, [0, 1], rfl, issues_of here2 (by decide +kernel), by
    intro k hk
    fin_cases hk <;> exact ⟨by decide +kernel, by decide +kernel⟩⟩

/-- A free extended set, and one that the heat holds. -/
def freeSet (h : Option Nat) : XSet := { squad := 0, low := 0, holder := h, waiter := none, regs := [List.replicate 128 (.val 0)] }

theorem test_witness_xlock : ∃ (s : State) (x : Site) (q : XSet), Issues s x [0] .always [] ∧ x.xset? = some q ∧ q.holder = none :=
  ⟨bench { t1 with xregs := true, xsets := [freeSet none] }, seat { t1 with xregs := true, xsets := [freeSet none] } h1, freeSet none,
    issues_of (by decide +kernel) (by decide +kernel), by decide +kernel, rfl⟩

theorem test_witness_xfree : ∃ (s : State) (x : Site) (q : XSet), Issues s x [0] .always [] ∧ x.xset? = some q ∧ x.holdsX = true ∧ x.pendingX = false :=
  ⟨bench { t1 with xregs := true, xsets := [freeSet (some 0)] }, seat { t1 with xregs := true, xsets := [freeSet (some 0)] } h1, freeSet (some 0),
    issues_of (by decide +kernel) (by decide +kernel), by decide +kernel, by decide +kernel, by decide +kernel⟩


/-! ### Witnesses: memory -/

/-- The page of a bench under another class, as the mapping and the home hold it (Table 9.5). -/
def inClass (code : Nat) (c : PageClass) (s : State) : State :=
  { s with mem := Memory.write s.mem 0x400C [BitVec.ofNat 8 (16 * code)], classes := [(5, c)] }

/-- The translation of the page of a bench. -/
def benchHit (code : Nat) : Hit := { base := 0, size := 4096, leaf := placedLeaf + code * 2 ^ 100, place := 0x5000 }

/-- LD.n32 v3, [v6]. -/
def ld1 : Ext := { plainExt 6 3 0 .n32 with osel := 1 }

/-- The state in which the loads of a bench are delivered later. -/
def late (s : State) : State := { s with oracle := [1] }

theorem found_of (p : LoadPlan) (s : State) (x : Site) (v : Nat) (h : ((p.found s x).all fun g => decide (g.2 = some (.value v))) = true) :
    ∀ g ∈ p.found s x, ∃ v, g.2 = some (.value v) := fun g hg => ⟨v, of_decide_eq_true (List.all_eq_true.mp h g hg)⟩

theorem test_witness_load : ∃ (i : Instr) (m : Mn) (e : Ext) (s : State) (x : Site) (is : List Nat) (p : LoadPlan), i.shape = .form m e ∧
    loadPlan m e (s.account x).1 (s.account x).2 is = some p ∧ Issues s x is e.guard p.uses ∧ p.ok ∧
    (∀ g ∈ p.found (s.account x).1 (s.account x).2, ∃ v, g.2 = some (.value v)) ∧ s.choice = 0 :=
  ⟨.ldExt ld1, .ld, _, s1, x1, [0], _, rfl, rfl, issues_of here1 (by decide +kernel), ⟨by decide +kernel, fun h => absurd h (by decide +kernel)⟩,
    found_of _ _ _ 0 (by decide +kernel), rfl⟩

theorem test_witness_indexed_load : ∃ (i : Instr) (m : Mn) (e : Ext) (s : State) (x : Site) (is : List Nat) (p : LoadPlan), i.shape = .form m e ∧
    loadPlan m e (s.account x).1 (s.account x).2 is = some p ∧ Issues s x is e.guard p.uses ∧ p.ok ∧
    (∀ g ∈ p.found (s.account x).1 (s.account x).2, ∃ v, g.2 = some (.value v)) ∧ s.choice = 0 ∧ p.zeros = [0] :=
  ⟨.ldx { plainExt 6 3 8 .n32 with mod := 1, c := 2 }, .ldx, _, bench (teamOf (heatOf [fib [1, 7, 3, 0, 0, 0, 64, 0, 3]])),
    seat (teamOf (heatOf [fib [1, 7, 3, 0, 0, 0, 64, 0, 3]])) (heatOf [fib [1, 7, 3, 0, 0, 0, 64, 0, 3]]), [0], _, rfl, rfl,
    issues_of (by decide +kernel) (by decide +kernel), by decide +kernel, found_of _ _ _ 0 (by decide +kernel), rfl, by decide +kernel⟩

theorem test_witness_baton : ∃ (i : Instr) (m : Mn) (e : Ext) (s : State) (x : Site) (is : List Nat) (p : LoadPlan) (tag : BitVec 6), i.shape = .form m e ∧
    loadPlan m e (s.account x).1 (s.account x).2 is = some p ∧ Issues s x is e.guard p.uses ∧ p.ok ∧
    (∀ g ∈ p.found (s.account x).1 (s.account x).2, ∃ v, g.2 = some (.value v)) ∧ x.isPacer = false ∧ s.choice ≠ 0 ∧ p.wants ≠ [] ∧
    s.freeTag x = some tag :=
  ⟨.ldExt ld1, .ld, _, late s1, x1, [0], _, 0, rfl, rfl, issues_of (by decide +kernel) (by decide +kernel),
    ⟨by decide +kernel, fun h => absurd h (by decide +kernel)⟩, found_of _ _ _ 0 (by decide +kernel), by decide +kernel, by decide +kernel,
    by decide +kernel, by decide +kernel⟩

/-- The checks of a pass of records, as a check that runs. -/
def passesB (x : Site) (m : Mn) (e : Ext) (i : Nat) (src : List (Nat × Nat)) : Option Baton → Bool
  | none => src.all fun p => knowsB x i p.2
  | some r => src.any fun p => match x.slot i p.2 with
    | .bat b => (src.all fun q => decide (q = p) || knowsB x i q.2) && decide (passRecord m e x i p.1 b = some r)
    | .val _ => false

theorem passes_of {x : Site} {m : Mn} {e : Ext} {i : Nat} {src : List (Nat × Nat)} {r : Option Baton} (h : passesB x m e i src r = true) :
    x.Passes m e i src r := by
  cases r with
  | none => exact fun p hp => knows_of x i p.2 (List.all_eq_true.mp h p hp)
  | some r =>
    obtain ⟨p, hp, h⟩ := List.any_eq_true.mp h
    split at h
    · rename_i b hb
      obtain ⟨h1, h2⟩ := Bool.and_eq_true_iff.mp h
      refine ⟨p, hp, b, hb, fun q hq hne => ?_, of_decide_eq_true h2⟩
      have := List.all_eq_true.mp h1 q hq
      simp only [Bool.or_eq_true, decide_eq_true_eq] at this
      exact knows_of x i q.2 (this.resolve_left hne)
    · cases h

/-- A pending record under tag 1, with a scale and an offset. -/
def rec17 (a b : Word) : Baton := { tag := 1, part := 0, a := a, b := b, chain := [], st := .pending }

/-- Two fibres: v1 and v2 hold values, v3 a record in the first, pending or drained, and a value in the second. -/
def h17 (b : Baton) : Heat :=
  heatOf [{ fib [1, 7, 5] with regs := [.val 1, .val 7, .val 5, .bat b] ++ List.replicate 44 (.val 0) }, fib [0, 8, 6, 10]]

def s17r (b : Baton) : State := bench (teamOf (h17 b)) [0, 1]

def x17 (b : Baton) : Site := seat (teamOf (h17 b)) (h17 b)

/-- R68: v1 - v3 in a pending record of scale 2 and offset 3 has scale -2 and offset 7 - 3; in the fibre with values it is a value. -/
theorem test_witness_pass_sub : ∃ (e : Ext) (us : List Use) (src : List (Nat × Nat)) (f : Effect), (Instr.sub 3 1 4).shape = .form .sub e ∧
    passForm .sub e = some (us, src) ∧ integerResult .sub e (x17 (rec17 2 3)) = some (us, f) ∧
    Issues (s17r (rec17 2 3)) (x17 (rec17 2 3)) [0, 1] e.guard (named us) ∧
    ∀ k ∈ [0, 1], (x17 (rec17 2 3)).Passes .sub e k src (if k = 0 then some (rec17 (-2) 4) else none) :=
  ⟨_, _, _, _, rfl, rfl, rfl, issues_of (by decide +kernel) (by decide +kernel), fun k hk => by fin_cases hk <;> exact passes_of (by decide +kernel)⟩

/-- R68: SHL of a record by 4 multiplies its scale. -/
theorem test_witness_pass_shl : ∃ (e : Ext) (us : List Use) (src : List (Nat × Nat)) (f : Effect), (Instr.shlExt e).shape = .form .shl e ∧
    passForm .shl e = some (us, src) ∧ logicResult .shl e (x17 (rec17 1 1)) = some (us, f) ∧
    Issues (s17r (rec17 1 1)) (x17 (rec17 1 1)) [0, 1] e.guard (named us) ∧
    ∀ k ∈ [0, 1], (x17 (rec17 1 1)).Passes .shl e k src (if k = 0 then some (rec17 16 16) else none) :=
  ⟨{ plainExt 3 4 0 .b32 with osel := 1, imm := 4 }, _, _, _, rfl, rfl, rfl, issues_of (by decide +kernel) (by decide +kernel),
    fun k hk => by fin_cases hk <;> exact passes_of (by decide +kernel)⟩

/-- R69: FMA with its third operand a record appends a step that holds the other two; a drained record is copied. -/
theorem test_witness_pass_fma : ∃ (e : Ext) (us : List Use) (src : List (Nat × Nat)) (f : Effect), (Instr.fma e).shape = .form .fma e ∧
    passForm .fma e = some (us, src) ∧ floatResult .fma e (x17 (rec17 1 0)) = some (us, f) ∧
    Issues (s17r (rec17 1 0)) (x17 (rec17 1 0)) [0, 1] e.guard (named us) ∧
    (∀ k ∈ [0, 1], (x17 (rec17 1 0)).Passes .fma e k src (if k = 0 then
      some { rec17 1 0 with chain := [{ op := .fma, ty := .f32, rm := 0, sub := false, k1 := 7, k2 := 5, pos := 2 }] } else none)) ∧
    (x17 { rec17 2 3 with st := .drained 0 20 1 }).Passes .fma e 0 src (some { rec17 2 3 with st := .drained 0 20 1 }) :=
  ⟨{ plainExt 1 4 2 .f32 with c := 3 }, _, _, _, rfl, rfl, rfl, issues_of (by decide +kernel) (by decide +kernel),
    fun k hk => by fin_cases hk <;> exact passes_of (by decide +kernel), passes_of (by decide +kernel)⟩

theorem test_witness_pass_mov : ∃ e, (Instr.movExt e).shape = .form .mov e ∧ Issues (s17r (rec17 2 3)) (x17 (rec17 2 3)) [0, 1] e.guard (named (uses2 e)) ∧
    (x17 (rec17 2 3)).slot 0 e.a.toNat = .bat (rec17 2 3) :=
  ⟨plainExt 3 5 0 .b32, rfl, issues_of (by decide +kernel) (by decide +kernel), by decide +kernel⟩

/-- A team with 64 bytes of shared memory and of scratch in bank 0. -/
def local1 : Team := { t1 with scratch := 64, scrSegs := [[{ bank := 0, size := 64 }]], cshared := 64, cshSegs := [{ bank := 0, size := 64 }] }

theorem test_witness_local_addresses : (seat local1 h1).check 0 ((seat local1 h1).generic 2 60) 4 4 = .ok (.scr 60) ∧
    (seat local1 h1).check 0 ((seat local1 h1).generic 3 60) 4 4 = .ok (.csh 60) := by decide +kernel

theorem test_witness_loaded_by_class (code : Nat) (c : PageClass) (h : (code, c) ∈ [(0, PageClass.seq), (1, .phase), (3, .priv)]) :
    x1.check 0 64 4 4 = .ok (.virt 64) ∧ (inClass code c s1).reachX x1 64 .load (loadForm false false) = .ok (benchHit code) ∧
    (inClass code c s1).orderWaits x1 0 (benchHit code) false = false ∧
    (inClass code c s1).loadPoison x1 (benchHit code) ((benchHit code).phys 64) 4 false = false ∧
    (inClass code c s1).pageEntry x1.team.ctx (benchHit code) = none ∧ (benchHit code).cls = c := by
  fin_cases h <;> exact ⟨rfl, rfl, by decide +kernel, by decide +kernel, by decide +kernel, by decide +kernel⟩

/-- A clean copy of the line of address 64 in the L0 cache of core 0. -/
def copy1 (c : PageClass) : CLine :=
  { level := .l0 { die := 0, loc := 0 } 0, line := 321, cls := c, bytes := List.replicate 64 5, dirty := List.replicate 64 false, lease := 100, rc := 0, owner := 0, policy := 0
    way := 0, used := 0 }

theorem test_witness_copies : { inClass 1 .phase s1 with lines := [copy1 .phase] }.copyFor x1 .phase ((benchHit 1).phys 64 / 64) = some (copy1 .phase) ∧
    { inClass 3 .priv s1 with lines := [copy1 .priv] }.copyFor x1 .priv ((benchHit 3).phys 64 / 64) = some (copy1 .priv) ∧
    (inClass 1 .phase s1).copyFor x1 .phase ((benchHit 1).phys 64 / 64) = none := by decide +kernel

/-- ST.n32 v1, [v6]. -/
def st1 : Ext := { plainExt 6 1 0 .n32 with osel := 1 }

theorem test_witness_store : ∃ (i : Instr) (m : Mn) (e : Ext) (s t : State) (x y : Site) (is : List Nat) (p : StorePlan) (l : List (Nat × Nat)),
    i.shape = .form m e ∧ storePlan m e (s.account x).2 is = some p ∧ Issues s x is e.guard p.uses ∧ p.ok ∧
    x.heat.unacked + p.puts.length ≤ 65535 ∧ p.rel = none ∧
    (∀ q ∈ p.puts, (s.account x).1.meetsOf (s.account x).2 p.form s.granules q.fib q.ea q.bytes.length = .fine) ∧
    (s.account x).1.storeAll (s.account x).2 p.form p.vol s.granules p.puts = some (t, y, l) ∧ l = [(0x5040, 4)] :=
  ⟨.stExt st1, .st, _, s1, _, x1, _, [0], _, _, rfl, rfl, issues_of here1 (by decide +kernel), by decide +kernel, by decide +kernel, rfl, by decide +kernel,
    rfl, by decide +kernel⟩

/-- The unit of a bench, which has published nothing and waits for nothing, may release at every scope. -/
theorem may1 (sc : Scope) : s1.mayRelease x1 sc := by
  cases sc <;> exact { acked := by decide +kernel, summed := by decide +kernel, alone := by decide +kernel, after := by decide +kernel }

theorem test_witness_releasing_store : ∃ (i : Instr) (m : Mn) (e : Ext) (s t : State) (x y : Site) (is : List Nat) (p : StorePlan) (l : List (Nat × Nat))
    (sc : Scope), i.shape = .form m e ∧ storePlan m e (s.account x).2 is = some p ∧ Issues s x is e.guard p.uses ∧ p.ok ∧ s.mayRelease x sc ∧
    p.puts.length ≤ 65535 ∧ p.rel = some sc ∧
    (∀ q ∈ p.puts, (s.account x).1.meetsOf (s.account x).2 p.form s.granules q.fib q.ea q.bytes.length = .fine) ∧
    ((s.account x).1.releaseAt (s.account x).2 sc).1.storeAll ((s.account x).1.releaseAt (s.account x).2 sc).2 p.form p.vol s.granules p.puts =
      some (t, y, l) :=
  ⟨.stExt { st1 with mod := 1 }, .st, _, s1, _, x1, _, [0], _, _, _, rfl, rfl, issues_of here1 (by decide +kernel), by decide +kernel, may1 _,
    by decide +kernel, rfl, by decide +kernel, rfl⟩

theorem test_witness_stored_by_class : linesOf 0x5040 4 = [0x5040 / 64] ∧ s1.answerersOf none [0x5040 / 64] = [] ∧ s1.posted = [] ∧
    s1.notifyVf 0x5040 = none ∧ { s1 with lines := [copy1 .seq] }.answerersOf none [0x5040 / 64] = [Level.holder (.l0 { die := 0, loc := 0 } 0)] ∧
    { s1 with lines := [copy1 .seq] }.copies (0x5040 / 64) = [copy1 .seq] ∧ (late { s1 with lines := [copy1 .seq] }).choice ≠ 0 ∧
    { s1 with lines := [copy1 .seq] }.choice = 0 ∧ { s1 with lines := [copy1 .seq] }.outHolders none .seq (0x5040 / 64) = [] ∧
    granulesOf 0x5040 4 = [0x5040 / 64] := by decide +kernel

theorem test_witness_priv_store : { inClass 3 .priv s1 with lines := [copy1 .priv] }.storeLevel x1 = some (copy1 .priv).level ∧
    { inClass 3 .priv s1 with lines := [copy1 .priv] }.lines.find? (fun d =>
      decide (d.level = (copy1 .priv).level ∧ d.line = 0x5040 / 64 ∧ d.cls = PageClass.priv)) = some (copy1 .priv) := by decide +kernel

/-- Queue 1 of VF 0. -/
def queue22 : Queue :=
  { id := 3, desc := { vf := 0, index := 1, base := 0x2000, n := 4, device := false, head := 8, tenant := 0, ctx := 0, home := 0 }, head := 5, tail := 7,
    errors := 0, noted := none, cand := none, revoked := false, server := 0 }

/-- The bench whose page is the notify page of VF 0, and the translation of that page. -/
def s22 : State :=
  { s1 with
    mem := Memory.write s1.mem 0x4000 (leBytes (placedLeaf + (2 ^ 32 - 64 - 5) * 4096) 16), classes := []
    queues := [queue22] }

def hit22 : Hit := { base := 0, size := 4096, leaf := placedLeaf + (2 ^ 32 - 64 - 5) * 4096, place := (2 ^ 32 - 64) * 4096 }

theorem test_witness_notify_page : s22.reachX x1 64 .load (loadForm false false) = .ok hit22 ∧ hit22.cls = .seq ∧
    s22.notifyVf (hit22.phys 64) = some 0 ∧ (s22.queueAt 0 (hit22.phys 64 % 4096 / 64)).isSome = true ∧ hit22.phys 64 % 64 = 0 ∧
    s22.orderWaits x1 0 hit22 false = false ∧ s22.loadPoison x1 hit22 (hit22.phys 64) 4 false = false ∧ s22.pageEntry x1.team.ctx hit22 = none ∧
    s22.answerersOf none (linesOf (hit22.phys 64) 4) = [] ∧ s22.posted = [] := by
  exact ⟨rfl, by decide +kernel, by decide +kernel, by decide +kernel, by decide +kernel, by decide +kernel, by decide +kernel, by decide +kernel,
    by decide +kernel, rfl⟩

/-- R324: a 4-byte store to a tail register moves the tail; one that does not advance it counts as an error. -/
theorem test_tail_register : ((s22.storePage x1 hit22 (hit22.phys 64) [9, 0, 0, 0] false).1.queues.map fun q => (q.tail, q.errors)) = [(9, 0)] ∧
    ((s22.storePage x1 hit22 (hit22.phys 64) [6, 0, 0, 0] false).1.queues.map fun q => (q.tail, q.errors)) = [(7, 1)] := by decide +kernel

theorem test_witness_prefetch : ∃ (i : Instr) (e : Ext) (s : State) (x : Site), i.shape = .form .pref e ∧ Issues s x [0] e.guard (usesEa e) ∧
    x.check 0 (x.ea 0 e) 1 1 = .ok (.virt 64) ∧ s.reachX x 64 .load .plain = .ok (benchHit 0) ∧ (benchHit 0).policy ≠ 3 ∧ (benchHit 0).cls = .seq ∧
    s.notifyVf (64 * ((benchHit 0).phys 64 / 64)) = none ∧ s.poisoned (64 * ((benchHit 0).phys 64 / 64)) 64 = false ∧ x.core? = some 0 ∧
    s.lines = [] ∧ s.homeOf (64 * ((benchHit 0).phys 64 / 64)) = some 0 ∧ 2 ≤ e.m1.toNat :=
  ⟨.prefExt { plainExt 6 0 0 .s8 with osel := 1, m1 := 2 }, _, s1, x1, rfl, issues_of here1 (by decide +kernel), rfl, rfl, by decide +kernel,
    by decide +kernel, by decide +kernel, by decide +kernel, by decide +kernel, rfl, by decide +kernel, by decide⟩

/-- A heat whose v2 to v3 hold 2^56, beyond the address space. -/
def hFar : Heat := heatOf [fib [1, 7, 0, 0x1000000]]

theorem test_witness_prefetch_fault : ∃ (i : Instr) (e : Ext), i.shape = .form .pref e ∧ Issues (bench (teamOf hFar)) (seat (teamOf hFar) hFar) [0] e.guard (usesEa e) ∧
    ∀ k ∈ [0], ∃ c, (seat (teamOf hFar) hFar).check k ((seat (teamOf hFar) hFar).ea k e) 1 1 = .error c :=
  ⟨.prefExt { plainExt 2 0 0 .s8 with osel := 1 }, _, rfl, issues_of (by decide +kernel) (by decide +kernel), by
    intro k hk
    fin_cases hk
    exact ⟨cause.spaceWindow, rfl⟩⟩

theorem test_witness_flush : ∃ (i : Instr) (e : Ext) (s : State) (x : Site), i.shape = .form .flushInv e ∧ Issues s x [0] e.guard [readA e 2] ∧
    x.check 0 (x.val 0 e.a.toNat 2) (64 * (e.imm.toNat + 1) - x.val 0 e.a.toNat 2 % 64) 1 = .ok (.virt 64) :=
  ⟨.flushInvExt { plainExt 6 0 0 .s8 with x := 1, imm := 1 }, _, s1, x1, rfl, issues_of here1 (by decide +kernel), rfl⟩

/-- A dirty PRIV copy. -/
def dirty1 : CLine := { copy1 .priv with dirty := true :: List.replicate 63 false }

theorem test_witness_dirty_line : ({ inClass 3 .priv s1 with lines := [dirty1] }.lines.filter fun d =>
      d.line = 321 && d.cls = PageClass.priv && decide (d.level ∈ x1.nearLevels)) = [dirty1] ∧
    (inClass 3 .priv s1).pathFault x1.team.cl.die (64 * 321) = none ∧ ((inClass 3 .priv s1).classCheck (64 * 321) PageClass.priv).isOk = true ∧
    dirty1.dirtyBytes ≠ [] ∧ Memory.wf (inClass 3 .priv s1).mem = true ∧ (inClass 3 .priv s1).ulines = [] ∧ 321 ∉ (inClass 3 .priv s1).poison := by
  decide +kernel

theorem test_witness_pgarm : ∃ (i : Instr) (e : Ext) (s t : State) (x : Site), i.shape = .form .pgarm e ∧ Issues s x [0] e.guard [readA e 2] ∧
    x.check 0 (x.val 0 e.a.toNat 2) (64 * (e.imm.toNat + 1) - x.val 0 e.a.toNat 2 % 64) 1 = .ok (.virt 64) ∧ x.heat.unacked = 0 ∧
    (s.account x).1.pgarmPages (s.account x).2 (byPage 64 (e.imm.toNat + 1)) = (t, none) :=
  ⟨.pgarm { plainExt 6 0 0 .s8 with imm := 1 }, _, { inClass 2 .stream s1 with granules := [321] }, _, x1, rfl, issues_of (by decide +kernel) (by decide +kernel), rfl,
    rfl, rfl⟩


/-! ### Witnesses: encoding and the step -/

theorem test_witness_encoding : ∃ (i : Instr) (k : UnitKind), i.wf = true ∧ i.shape ≠ .event ∧ (∀ m e, i.shape = .form m e → m.runsOn k = true) ∧
    (∀ m j, i.shape = .jump m j → m.runsOn k = true) :=
  ⟨.addExt plainAdd, .pacer, by decide, by decide, (by intro m e h; injection h with h1 h2; subst h1; decide), by intro m j h; cases h⟩

theorem test_witness_lengths : ∃ (k : UnitKind) (w : Word) (r : List Word) (i : Instr) (n : Nat), decode k (w :: r) = .ok i n ∧ n = 20 :=
  ⟨.heat, 0x002A2807, [0x01450000, 0x00000080, 0x000186A0, 0], .addExt { plainExt 21 20 0 .s32 with form := .extLit, guard := .ifSet 5, osel := 2, lit := 100000 }, 20, by decide, rfl⟩

theorem test_witness_reserved : reservedCode 0x3D 0 ∧ reservedCode 0x47 127 ∧ reservedCode 0x65 0 ∧ reservedCode 0x67 1 ∧ reservedCode 0x7C 2 ∧
    reservedCode 0x7F 3 ∧ reservedCode 0x00 0 ∧ reservedCode 0x00 4 ∧ reservedCode 0x55 5 :=
  ⟨.inl (by decide), .inl (by decide), .inr (.inl (by decide)), .inr (.inl (by decide)), .inr (.inr (.inl (by decide))), .inr (.inr (.inl (by decide))),
    .inr (.inr (.inr (by decide))), .inr (.inr (.inr (by decide))), .inr (.inr (.inr (by decide)))⟩

/-- The package of reset with one word of code placed. -/
def placed0 (w : Word) : State := State.reset.placed [w]

/-- The placed unit. -/
def unit0 : Site := { u := { team := 0, who := .heat 0 0 }, team := placedTeam false, heat := placedHeat 128 }

/-- The state in which it fetches. -/
def turn0 (w : Word) : State := (placed0 w).turned.adoptDue unit0.team

theorem pick0 (w : Word) (h : pacerOnly [w] = false) : (placed0 w).teams = [placedTeam false] := by
  show [placedTeam (pacerOnly [w])] = _
  rw [h]

theorem test_witness_step : ∃ (s u : State) (x y : Site) (is : List Nat) (pc : Pc) (w : Word), s.agenda = [] ∧ s.halted = false ∧ s.pick = some x ∧
    x.team.wantsPages = false ∧ s.turned.adoptDue x.team = u ∧ u.site? x.u = some y ∧ y.heat.nextBatch = some is ∧
    u.dueNow x.u is = false ∧ y.heat.runPc (is.headD 0) = some pc ∧ [w].length = wordsOf w ∧
    (∀ (k : Nat) (v : Word), [w][k]? = some v → ∃ h, u.reach y.team.cl.die y.team.ctx y.tlb (pc + BitVec.ofNat 56 (4 * k)).toNat .exec .plain = .ok h ∧
      (match u.pageEntry y.team.ctx h with
        | some f => deadZero f ((pc + BitVec.ofNat 56 (4 * k)).toNat - h.base) (u.homeRead (h.phys (pc + BitVec.ofNat 56 (4 * k)).toNat) 4).1
        | none => (u.homeRead (h.phys (pc + BitVec.ofNat 56 (4 * k)).toNat) 4).1) = wordBytes v) ∧ decode y.kind [w] = .ok .nop 4 ∧
    y.heat.owesAcquire = false :=
  ⟨placed0 0x02000000, turn0 0x02000000, unit0, unit0, [0], 0, 0x02000000, rfl, rfl, by decide +kernel, by decide +kernel, rfl, by decide +kernel,
    by decide +kernel, by decide +kernel, by decide +kernel, by decide, by
      intro k v h
      match k, h with
      | 0, h =>
        injection h with h
        subst h
        exact ⟨benchHit 0, rfl, by decide +kernel⟩, by decide, by decide +kernel⟩

theorem test_step_runs_nop : ∃ t x, step (State.reset.withFetchWord 32 0x02000000) = .next t ∧ t.site? { team := 0, who := .heat 0 0 } = some x ∧
    (x.heat.fibre? 0).map Fibre.pc = some 4 :=
  ⟨_, _, rfl, rfl, by decide +kernel⟩

theorem test_witness_agenda : (∃ (s : State) (i : Instr), s.agenda = [i] ∧ i.shape = .event ∧ (s.halted = false ∨ runsHalted i = true)) ∧
    (∃ (s : State) (i : Instr), s.agenda = [i] ∧ (i.shape ≠ .event ∨ (s.halted = true ∧ runsHalted i = false))) ∧
    ∃ s : State, s.agenda = [] ∧ s.halted = true :=
  ⟨⟨{ State.reset with agenda := [.lapBoundary] }, _, rfl, rfl, .inl rfl⟩, ⟨{ State.reset with agenda := [.lapBoundary], halted := true }, _, rfl, .inr ⟨rfl, rfl⟩⟩,
    { State.reset with halted := true }, rfl, rfl⟩

/-- The bench of a context with a trap vector, one of whose fibres is not the leader. -/
def trapping (s : State) : State := { s with ctxs := [{ placedCtx with tvec := 0x40 }] }

theorem test_witness_trapping : x1.heat.inHandler = false ∧ (trapping s1).tvec x1.team.ctx ≠ 0 := by decide +kernel

theorem test_witness_decode_trap : guardIn [0] = .always ∧ Issues (trapping s1) x1 [0] .always [] := ⟨by decide, issues_of (by decide +kernel) (by decide +kernel)⟩

/-- The bench in which a fibre that is not the leader issues. -/
def s5 : State := trapping (bench t2 [1])

theorem test_witness_leader_trap : Issues s5 x2 [1] .always [] ∧ x2.leads [1] = false ∧ (Instr.bankcfg (plainExt 0 0 0 .s8)).shape = .form .bankcfg (plainExt 0 0 0 .s8) ∧
    (Instr.awset (plainExt 0 16 0 .s8)).shape = .form .awset (plainExt 0 16 0 .s8) ∧
    (Instr.syswr { plainExt 16 0 0 .s8 with imm := 0x30 }).shape = .form .syswr { plainExt 16 0 0 .s8 with imm := 0x30 } ∧ sysOfContext 0x30 = true :=
  ⟨issues_of (by decide +kernel) (by decide +kernel), by decide +kernel, rfl, rfl, rfl, by decide⟩

theorem test_witness_handler_trap : (∃ e, Instr.eret.shape = .form .eret e ∧ e.guard = .always) ∧ Issues (trapping s1) x1 [0] .always [] ∧
    ∀ k ∈ [0], x1.handling [k] = false :=
  ⟨⟨_, rfl, rfl⟩, issues_of (by decide +kernel) (by decide +kernel), by decide +kernel⟩

theorem test_witness_register_trap : ∃ (i : Instr) (m : Mn) (e : Ext) (f : Fibre) (us : List Use) (g : Effect), i.shape = .form m e ∧
    integerResult m e x1 = some (us, g) ∧ Issues (trapping s1) x1 [0] e.guard [] ∧ x1.heat.fibre? 0 = some f ∧ 16 ≤ e.d.toNat ∧ e.d.toNat < 128 ∧
    f.regs.length ≤ f.win + e.d.toNat :=
  ⟨.add 1 2 127, .add, _, _, _, _, rfl, rfl, issues_of (by decide +kernel) (by decide +kernel), rfl, by decide, by decide, by decide +kernel⟩

theorem test_witness_extended_register_trap : ∃ (i : Instr) (m : Mn) (e : Ext) (us : List Use) (g : Effect), i.shape = .form m e ∧
    integerResult m e x1 = some (us, g) ∧ Issues (trapping s1) x1 [0] e.guard [] ∧ 128 ≤ e.d.toNat ∧ x1.holdsX = false :=
  ⟨.add 1 2 128, .add, _, _, _, rfl, rfl, issues_of (by decide +kernel) (by decide +kernel), by decide, by decide +kernel⟩

theorem test_witness_address_trap : ∃ (i : Instr) (e : Ext), i.shape = .form .ld e ∧ e.ty ≠ .q ∧ ordOf e ≠ 3 ∧
    Issues (trapping s1) x1 [0] e.guard (useD e e.ty.regs :: usesEa e) ∧
    x1.badAddress (memBytes e.ty) (memBytes e.ty) ([0].map fun j => (j, x1.ea j e)) = some (0, 65, cause.misaligned) :=
  ⟨.ldExt { ld1 with imm := 1 }, _, rfl, by decide, by decide, issues_of (by decide +kernel) (by decide +kernel), by decide +kernel⟩

theorem test_witness_store_address_trap : ∃ (i : Instr) (e : Ext), i.shape = .form .st e ∧
    Issues (trapping s1) x1 [0] e.guard (readD e e.ty.regs :: usesEa e) ∧
    (x1.badAddress (memBytes e.ty) (memBytes e.ty) ([0].map fun j => (j, x1.ea j e))).isSome :=
  ⟨.stExt { st1 with imm := 2 }, _, rfl, issues_of (by decide +kernel) (by decide +kernel), by decide +kernel⟩

theorem test_witness_canonical : State.reset.MemOk ∧ ∃ t, step State.reset = .next t := ⟨⟨by decide, fun t h => by cases h⟩, _, rfl⟩


/-! ### Witnesses: atomics, order, barriers, FIFOs, triggers -/

theorem test_witness_atomic : ∃ (i : Instr) (m : Mn) (e : Ext) (s t : State) (x y : Site) (is : List Nat) (p : AtomicPlan) (vs l : List (Nat × Nat)),
    i.shape = .form m e ∧ atomicPlan m e x = some p ∧ Issues s x is e.guard p.uses ∧
    x.badAddress (memBytes e.ty) (memBytes e.ty) (is.map fun k => (k, x.val k e.a.toNat 2)) = none ∧ x.heat.unacked + is.length ≤ 65535 ∧
    (∀ q ∈ is.map fun k => (k, x.val k e.a.toNat 2), (s.account x).1.atomicMeets (s.account x).2 (atomicForm (scopeOf e.rs)) true
      (decide (s.atPlace x (scopeOf e.rs) = .home)) q.1 q.2 (memBytes e.ty) = .fine) ∧ releases e = false ∧
    (s.account x).1.atomicAll (s.account x).2 (atomicForm (scopeOf e.rs)) (memBytes e.ty) (scopeOf e.rs) p.new (is.map fun k => (k, x.val k e.a.toNat 2)) =
      some (vs, t, y, l) ∧ s.choice = 0 ∧ vs = [(0, 0)] ∧ l = [(0x5040, 4)] :=
  ⟨.amo { plainExt 6 3 1 .n32 with x := 0 }, .amo, _, s1, _, x1, _, [0], _, _, _, rfl, rfl, issues_of here1 (by decide +kernel), by decide +kernel,
    by decide +kernel, by decide +kernel, by decide +kernel, rfl, rfl, by decide +kernel, by decide +kernel⟩

theorem test_witness_cas_releases : ∃ (i : Instr) (m : Mn) (e : Ext) (s t : State) (x y : Site) (is : List Nat) (p : AtomicPlan) (vs l : List (Nat × Nat)),
    i.shape = .form m e ∧ atomicPlan m e x = some p ∧ Issues s x is e.guard p.uses ∧
    x.badAddress (memBytes e.ty) (memBytes e.ty) (is.map fun k => (k, x.val k e.a.toNat 2)) = none ∧
    (∀ q ∈ is.map fun k => (k, x.val k e.a.toNat 2), (s.account x).1.atomicMeets (s.account x).2 (atomicForm (scopeOf e.rs)) true
      (decide (s.atPlace x (scopeOf e.rs) = .home)) q.1 q.2 (memBytes e.ty) = .fine) ∧ releases e = true ∧ s.mayRelease x (scopeOf e.rs) ∧
    ((s.account x).1.releaseAt (s.account x).2 (scopeOf e.rs)).1.atomicAll ((s.account x).1.releaseAt (s.account x).2 (scopeOf e.rs)).2
      (atomicForm (scopeOf e.rs)) (memBytes e.ty) (scopeOf e.rs) p.new (is.map fun k => (k, x.val k e.a.toNat 2)) = some (vs, t, y, l) :=
  ⟨.cas { plainExt 6 3 1 .b32 with c := 2, mod := 2 }, .cas, _, s1, _, x1, _, [0], _, _, _, rfl, rfl, issues_of here1 (by decide +kernel), by decide +kernel,
    by decide +kernel, by decide +kernel, may1 _, rfl⟩

theorem mem1 : s1.MemOk :=
  ⟨by decide +kernel, fun t ht => by
    rw [show s1.teams = [t1] from rfl, List.mem_singleton] at ht
    subst ht
    exact ⟨rfl, by decide +kernel⟩⟩

theorem test_witness_atomic_by_class : s1.MemOk ∧ (benchHit 0).cls = .seq ∧ s1.notifyVf 0x5040 = none ∧ x1.isPacer = false ∧ x1.squad < x1.team.sqLayer.length :=
  ⟨mem1, by decide +kernel, by decide +kernel, by decide +kernel, by decide +kernel⟩

theorem test_witness_red : ∃ (i : Instr) (e : Ext) (s : State) (x : Site), i.shape = .form .red e ∧ Issues s x [0] e.guard (readA e 2 :: readB e e.ty.regs) ∧
    x.badAddress (memBytes e.ty) (memBytes e.ty) [(0, x.val 0 e.a.toNat 2)] = none ∧ x.heat.unacked + 1 ≤ 65535 ∧
    (s.account x).1.atomicMeets (s.account x).2 (atomicForm (scopeOf e.rs)) false true 0 (x.val 0 e.a.toNat 2) (memBytes e.ty) = .fine :=
  ⟨.red (plainExt 6 0 1 .n32), _, s1, x1, rfl, issues_of here1 (by decide +kernel), by decide +kernel, by decide +kernel, by decide +kernel⟩

theorem test_witness_contribution : ∃ (s : State) (c : Contrib) (ty : Ty), s.MemOk ∧ ty.bits ∈ [16, 32, 64] ∧ c.pa % memBytes ty = 0 ∧ c.v < 2 ^ 64 ∧
    (∀ l ∈ s.ulines, l.onLines c.pa (memBytes ty) = false ∧ l.pa % 64 + l.bytes ≤ 64) ∧ s.ulines ≠ [] ∧ (s.bufferLines { die := 0, loc := 0 }).length < 256 :=
  ⟨{ s1 with ulines := [{ cl := { die := 0, loc := 0 }, pa := 0x5080, ty := .n64, op := 0, val := 3 }] }, { h := benchHit 0, pa := 0x5040, v := 7 }, .n32,
    ⟨mem1.1, mem1.2⟩, by decide +kernel, by decide +kernel, by decide +kernel, by decide +kernel, by decide +kernel, by decide +kernel⟩

theorem test_witness_fence : ∃ (i : Instr) (m : Mn) (e : Ext) (s : State) (x : Site), i.shape = .form m e ∧ fencePlan m e = some (true, true, true) ∧
    Issues s x [0] e.guard [] ∧ x.heat.loading = false ∧ s.mayRelease x (scopeOf e.rs) :=
  ⟨.fence, .fence, _, s1, x1, rfl, rfl, issues_of here1 (by decide +kernel), by decide +kernel, may1 _⟩

/-- A heat with one byte in its PHASE write set. -/
def h3 : Heat := { h1 with ws := [{ pa := 0x5040, byte := 9, owner := 0, pc := 0 }] }

theorem test_witness_release : ∃ (s : State) (x : Site), s.MemOk ∧ (∀ sc ∈ [Scope.di, .dv, .sy], sc.far = true) ∧ s.ulines = [] ∧ s.poison = [] ∧
    (x.heat.ws.map WsByte.pa).Nodup ∧ x.heat.ws ≠ [] ∧ (∀ b ∈ x.heat.ws, b.pack = none) ∧ ∀ b ∈ x.heat.ws, s.pathFault x.team.cl.die b.pa = none :=
  ⟨s1, seat t1 h3, mem1, by decide +kernel, rfl, rfl, by decide +kernel, by decide +kernel, by decide +kernel, by decide +kernel⟩

/-- A contribution at .tm to a PHASE page that nobody has published to. -/
theorem test_witness_near_contribution : s1.MemOk ∧ (benchHit 1).cls = .phase ∧ Scope.tm.far = false ∧ s1.nearAt x1 (addresses 0x5040 4) = false :=
  ⟨mem1, by decide +kernel, by decide, by decide +kernel⟩

theorem test_witness_acquire : Scope.dv ≠ .ht ∧ x1.isPacer = false := by decide +kernel

theorem test_witness_drain : ∃ (i : Instr) (e : Ext), i.shape = .form .btnSync e ∧ e.mod.getLsbD 0 = true ∧ Issues s2 x2 [0, 1] e.guard [] ∧
    (∀ k ∈ [0, 1], allUses x2 k = []) ∧ x2.heat.unacked = 0 :=
  ⟨.btnSyncExt { plainExt 0 0 0 .s8 with mod := 1 }, _, rfl, rfl, issues_of here2 (by decide +kernel), by decide +kernel, rfl⟩

/-- A heat whose registers name a barrier object in shared memory. -/
def h4 (d : Word) : Heat := heatOf [fib [1, 7, d, 0, 0, 0, 0, 0xFFF80000]]

/-- An object of target 2 with one arrival, at the start of shared memory. -/
def objMem : List Host.Cell := [(4, 1), (6, 2)]

/-- A team with that object. -/
def t4 (d : Word) : Team := { local1 with heats := [h4 d], cshMem := objMem }

theorem mem4 (d : Word) : (bench (t4 d)).MemOk :=
  ⟨mem1.1, fun t ht => by
    rw [show (bench (t4 d)).teams = [t4 d] from rfl, List.mem_singleton] at ht
    subst ht
    exact ⟨(by decide +kernel : Memory.wf objMem = true), (by decide +kernel : ∀ m ∈ [([] : List Host.Cell)], Memory.wf m = true)⟩⟩

theorem test_witness_barrier : ∃ (i : Instr) (m : Mn) (e : Ext) (s : State) (x : Site) (l : Loc) (p : BarPlan), i.shape = .form m e ∧ s.MemOk ∧
    barPlan m e s x [0] (x.val 0 e.a.toNat 2) l = some p ∧ Issues s x [0] e.guard p.uses ∧ x.barAddress 0 (x.val 0 e.a.toNat 2) = .ok l ∧ p.ok ∧
    (∀ o, l = .scr o → x.squad < x.team.scrMem.length) :=
  ⟨.barArvExt { plainExt 6 3 0 .s8 with x := 1 }, .barArv, _, bench (t4 0), seat (t4 0) (h4 0), .csh 0, _, rfl, mem4 0, rfl,
    issues_of (by decide +kernel) (by decide +kernel), rfl, by decide +kernel, fun _ h => by cases h⟩

theorem test_witness_barrier_init : ∃ (i : Instr) (m : Mn) (e : Ext) (s : State) (x : Site) (l : Loc) (p : BarPlan), i.shape = .form m e ∧ s.MemOk ∧
    barPlan m e s x [0] (x.val 0 e.a.toNat 2) l = some p ∧ Issues s x [0] e.guard p.uses ∧ x.barAddress 0 (x.val 0 e.a.toNat 2) = .ok l ∧ p.ok :=
  ⟨.barInit 6 2, .barInit, _, bench (t4 65535), seat (t4 65535) (h4 65535), .csh 0, _, rfl, mem4 65535, rfl,
    issues_of (by decide +kernel) (by decide +kernel), rfl, by decide +kernel⟩

theorem test_witness_barrier_wait : ∃ (i : Instr) (e : Ext) (s : State) (x : Site) (l : Loc), i.shape = .form .barWait e ∧ s.MemOk ∧
    Issues s x [0] e.guard [readD e 1, readA e 2] ∧ x.barAddress 0 (x.val 0 e.a.toNat 2) = .ok l ∧ x.heat.waitAt s.cur.pc (x.val 0 e.a.toNat 2) = none ∧
    (∀ o, l = .scr o → x.squad < x.team.scrMem.length) ∧ (x.barrier l).evaluate.1.phase = decide (x.val 0 e.d.toNat 1 % 2 = 1) :=
  ⟨.barWait 6 2, _, bench (t4 0), seat (t4 0) (h4 0), .csh 0, rfl, mem4 0, issues_of (by decide +kernel) (by decide +kernel), rfl, by decide +kernel,
    (fun _ h => by cases h), by decide +kernel⟩

/-- The wait of a heat that a completion has woken. -/
def woken4 : BarWait := { pc := 0, obj := 0xFFF80000 * 2 ^ 32, par := false, woken := true }

theorem test_witness_woken : ({ h4 0 with bars := [woken4] } : Heat).waitAt 0 (seat (t4 0) (h4 0) |>.val 0 6 2) = some woken4 ∧ woken4.woken = true := by
  decide +kernel

/-- A cluster whose logical units are its physical ones, with a bank in FIFO mode. -/
def place (fifo : Option Fifo) (s : State) : State :=
  { s with dies := s.dies.modify 0 fun d => { d with clusters := d.clusters.modify 0 fun c =>
      { c with
        bankPl := (List.range 12).map some, chanPl := (List.range 8).map some, trigPl := (List.range 64).map some
        banks := c.banks.modify 3 fun b => { b with mode := .fifo, fifo := fifo } } } }

/-- A FIFO of two elements. -/
def fifo1 : Fifo := { team := 0, reg := 20, ty := .b32, elems := [5, 6], opened := 1 }

theorem test_witness_fifo_map : ∃ (i : Instr) (e : Ext) (s : State) (x : Site) (b : Nat) (k : Bank), i.shape = .form .fifoMap e ∧ Issues s x [0] e.guard [] ∧
    s.bankOf x.team.cl e.p = some b ∧ (s.cluster? x.team.cl).bind (fun c => c.banks[b]?) = some k ∧ k.mode = .fifo ∧ k.fifo = none ∧
    s.othersBank x.team.cl x.team.id b k = false ∧ s.fifoBank x e.d.toNat = none ∧ e.d ≠ 0 :=
  ⟨.fifoMap { plainExt 0 20 0 .b32 with p := 3, imm := 1 }, _, place none s1, x1, 3, { mode := .fifo, placed := false, fifo := none }, rfl,
    issues_of (by decide +kernel) (by decide +kernel), by decide +kernel, by decide +kernel, rfl, rfl, by decide +kernel, by decide +kernel, by decide⟩

theorem test_witness_fifo : ∃ (s : State) (x : Site) (q : Fifo), s.fifoBank x 20 = some (3, q) ∧ q.ty = .b32 ∧ q.opened ≠ 0 ∧
    q.elems.length + 1 ≤ fifoCapacity q.ty ∧ Issues s x [0] .always [readA (plainExt 1 20 0 .b32) 1] :=
  ⟨place (some fifo1) s1, x1, fifo1, by decide +kernel, rfl, by decide, by decide +kernel, issues_of (by decide +kernel) (by decide +kernel)⟩

theorem test_witness_fifo_get : ∃ (i : Instr) (e : Ext) (s : State) (x : Site) (q : Fifo), i.shape = .form .fifoGet e ∧
    Issues s x [0, 1] e.guard ([readV0] ++ [useD e e.ty.regs]) ∧ s.fifoBank x e.a.toNat = some (3, q) ∧ q.ty = e.ty ∧ s.choice = 0 ∧ e.mod.getLsbD 0 = true :=
  ⟨.fifoGetExt { plainExt 20 3 0 .b32 with x := 2, mod := 1, c := 4 }, _, place (some fifo1) s2, x2, fifo1, rfl,
    issues_of (by decide +kernel) (by decide +kernel), by decide +kernel, rfl, rfl, rfl⟩

theorem test_witness_trigger : ∃ (i : Instr) (e : Ext) (s : State) (x : Site), i.shape = .form .trgWait e ∧ s.trigOf x.team.cl e.p = some 63 ∧
    Issues s x [0] e.guard (useD e 1 :: readB e 1) ∧ (s.trig x.team.cl 63 - wd (x.srcB 0 e)).toNat < 2 ^ 31 ∧ s.mayRelease x .dv :=
  ⟨.trgWait { plainExt 0 3 0 .n32 with x := 2, osel := 1, p := 63 }, _, place none s1, x1, rfl, by decide +kernel,
    issues_of (by decide +kernel) (by decide +kernel), by decide +kernel,
    { acked := by decide +kernel, summed := by decide +kernel, alone := by decide +kernel, after := by decide +kernel }⟩

theorem test_witness_bankcfg : ∃ (i : Instr) (e : Ext) (s t : State) (x : Site) (b : Nat) (k : Bank), i.shape = .form .bankcfg e ∧ Issues s x [0] e.guard [] ∧
    x.leads [0] = true ∧ s.bankOf x.team.cl e.p = some b ∧ (s.cluster? x.team.cl).bind (fun c => c.banks[b]?) = some k ∧
    (s.commands.takeWhile fun d => !(d.ofUnit x.u && d.forBank x.team.cl e.p)).any (DriverCommand.forBank x.team.cl e.p) = false ∧
    (({ (s.account x).1 with commands := s.commands.filter fun d => !d.ofUnit x.u } : State).put (s.account x).2).switchBank (s.account x).2.team e.p
      (bankMode e.m1.toNat) = .done t :=
  ⟨.bankcfg { plainExt 0 0 0 .s8 with m1 := 2, p := 11 }, _, place none s1, _, x1, 11, Bank.reset, rfl, issues_of (by decide +kernel) (by decide +kernel),
    by decide +kernel, by decide +kernel, by decide +kernel, by decide +kernel, rfl⟩


/-! ### Witnesses: copies -/

/-- A heat whose registers name the two halves of local shared memory: v2 to v3 is byte 0, v4 to v5 byte 32, v6 the count 8. -/
def h5 : Heat := heatOf [fib [1, 7, 0, 0xFFF80000, 32, 0xFFF80000, 8, 0]]

/-- Its team, with one byte in shared memory. -/
def t5 : Team := { local1 with heats := [h5], cshMem := [(33, 9)] }

def x5 : Site := seat t5 h5

/-- A linear copy of 8 bytes from byte 32 to byte 0 of shared memory. -/
def copy5 : Copy :=
  { mode := .linear, ty := .s8, rs := 0, dst := .linear 0xFFF8000000000000, src := .linear 0xFFF8000000000020, total := 8, done := 0, acked := 0, till := 0, bar := none
    u := { team := 0, who := .heat 0 0 }, fibre := 0, pc := 0, seed := 0, held := none, started := true, grans := [], chunks := [] }

/-- A channel of the team. -/
def chan5 (cs : List Copy) : Chan := { owner := some 0, w := 100, err := false, queue := cs }

/-- A bench with channel 0 in a given state. -/
def channel (ch : Chan) (t : Team) : State := (place none (bench t)).updChan { die := 0, loc := 0 } 0 fun _ => ch

/-- CPY of v6 bytes to [v2] from [v4] on the channel of place 0. -/
def cpy5 : Ext := { plainExt 2 3 4 .s8 with c := 6 }

theorem test_witness_cpy : ∃ (i : Instr) (e : Ext) (s u : State) (x : Site) (p : CopyPlan) (k : Nat) (ch : Chan), i.shape = .form .cpy e ∧
    Issues s x [0] e.guard (usesCpy e) ∧
    (s.account x).1.planCopy (s.account x).2 e 0 (x.val 0 e.a.toNat 2) (x.val 0 e.b.toNat 2) = (.plan p, u) ∧ x.linkFault e = false ∧
    u.chanOf x.team.cl e.p = some k ∧ u.chan? x.team.cl k = some ch ∧ ch.owner = none ∧ ch.err = false :=
  ⟨.cpy cpy5, _, place none (bench t5), _, x5, _, 0, Chan.reset, rfl, issues_of (by decide +kernel) (by decide +kernel), rfl, by decide +kernel,
    by decide +kernel, by decide +kernel, rfl, rfl⟩

theorem test_witness_linear_plan : cpy5.m1 = 0 ∧ x5.check 0 (x5.val 0 2 2) (max (x5.val 0 6 1) 1) 1 = .ok (.csh 0) ∧
    x5.check 0 (x5.val 0 4 2) (max (x5.val 0 6 1) 1) 1 = .ok (.csh 32) ∧ 1 ≤ x5.val 0 6 1 ∧ x5.val 0 6 1 ≤ 2 ^ 30 := by decide +kernel

theorem test_witness_copy_pointer : ∃ (s : State) (x : Site) (ch : Chan), s.ownChan x 0 = some 0 ∧ s.chan? x.team.cl 0 = some ch ∧
    (∃ e, (Instr.cpyWait e).shape = .form .cpyWait e ∧ Issues s x [0] e.guard (readB e 1) ∧ (ch.w - wd (x.srcB 0 e)).toNat < 2 ^ 31) ∧
    (∃ e, (Instr.cpyPtr e).shape = .form .cpyPtr e ∧ Issues s x [0] e.guard (readV0 :: useD e 1 :: readB e 1)) ∧
    (∃ e, (Instr.cpyPtrSt e).shape = .form .cpyPtrSt e ∧ Issues s x [0] e.guard [useD e 1]) ∧
    ∃ e, (Instr.cpyPtrClr e).shape = .form .cpyPtrClr e ∧ Issues s x [0] e.guard [useD e 1] :=
  ⟨channel (chan5 []) t5, x5, chan5 [], by decide +kernel, by decide +kernel,
    ⟨{ plainExt 0 0 6 .n32 with x := 0 }, rfl, issues_of (by decide +kernel) (by decide +kernel), by decide +kernel⟩,
    ⟨{ plainExt 0 7 6 .n32 with c := 31, x := 1 }, rfl, issues_of (by decide +kernel) (by decide +kernel)⟩,
    ⟨{ plainExt 0 7 0 .n32 with x := 2 }, rfl, issues_of (by decide +kernel) (by decide +kernel)⟩,
    ⟨{ plainExt 0 7 0 .n32 with x := 3 }, rfl, issues_of (by decide +kernel) (by decide +kernel)⟩⟩

theorem test_witness_copy_start : ∃ (s : State) (cl : ClusterRef) (ch : Chan) (c : Copy), s.runsOn cl.die = true ∧ s.chan? cl 0 = some ch ∧ ch.queue = [c] :=
  ⟨channel (chan5 [copy5]) t5, { die := 0, loc := 0 }, chan5 [copy5], copy5, by decide +kernel, by decide +kernel, rfl⟩

theorem test_witness_copy_portion : ∃ (s u : State) (cl : ClusterRef) (c d : Copy) (m : Option Miss) (ch : Chan), s.runsOn cl.die = true ∧
    s.running cl 0 = some c ∧ s.copyMove 0 c 8 = (u, d, m) ∧ u.chan? cl 0 = some ch ∧ c.total ≤ d.done :=
  ⟨channel (chan5 [copy5]) t5, _, { die := 0, loc := 0 }, copy5, _, _, chan5 [copy5], by decide +kernel, by decide +kernel, rfl, by decide +kernel,
    by decide +kernel⟩

theorem mem5 : (bench t5).MemOk :=
  ⟨mem1.1, fun t ht => by
    rw [show (bench t5).teams = [t5] from rfl, List.mem_singleton] at ht
    subst ht
    exact ⟨by decide +kernel, by decide +kernel⟩⟩

theorem test_witness_copy_piece : (bench t5).MemOk ∧ (bench t5).site? copy5.u = some x5 ∧ copy5.mode = .linear ∧
    x5.check 0 ((0xFFF8000000000020 + 0) % 2 ^ 64) 8 1 = .ok (.csh 32) ∧ x5.check 0 ((0xFFF8000000000000 + 0) % 2 ^ 64) 8 1 = .ok (.csh 0) ∧
    min (copy5.total - copy5.done) (min (64 - (0xFFF8000000000000 + 0) % 64) (64 - (0xFFF8000000000020 + 0) % 64)) = 8 :=
  ⟨mem5, by decide +kernel, rfl, by decide +kernel, by decide +kernel, by decide +kernel⟩

/-- A copy whose source lies beyond the page that is mapped executable only: an address of no window. -/
def copy6 : Copy := { copy5 with src := .linear 0xFFF8000000000040 }

theorem test_witness_copy_fault : ∃ (s u : State) (cl : ClusterRef) (c d : Copy) (cs : Byte) (info : DWord) (t : Team) (ch : Chan), s.runsOn cl.die = true ∧
    s.running cl 0 = some c ∧ s.chan? cl 0 = some ch ∧ c.mode ≠ .quant ∧ c.acked = c.done ∧ c.till = 0 ∧ s.copyMove 0 c 1 = (u, d, some (.early cs, info)) ∧
    u.team? c.u.team = some t ∧ t.alive = true ∧ t.st = .resident ∧ t.dtraps.length < 16 :=
  ⟨channel (chan5 [copy6]) t5, _, { die := 0, loc := 0 }, copy6, _, _, _, t5, chan5 [copy6], by decide +kernel, by decide +kernel, by decide +kernel,
    by decide, rfl, rfl, rfl, by decide +kernel, by decide +kernel, rfl, by decide⟩

theorem test_witness_late_copy_fault : ∃ (s u : State) (cl : ClusterRef) (c d : Copy) (cs : Byte) (info : DWord) (t : Team) (ch : Chan),
    s.runsOn cl.die = true ∧ s.running cl 0 = some c ∧ s.chan? cl 0 = some ch ∧ c.mode ≠ .quant ∧ c.acked = c.done ∧ c.till = 0 ∧ s.copyMove 0 c 1 = (u, d, some (.late cs, info)) ∧
    u.team? c.u.team = some t ∧ t.alive = true ∧ t.st = .resident ∧ t.dtraps.length < 16 :=
  ⟨{ channel (chan5 [{ copy5 with dst := .linear 64 }]) t5 with classes := [(5, .phase)] }, _, { die := 0, loc := 0 }, _, _, _, _, t5, chan5 _, by decide +kernel, rfl,
    rfl, by decide, rfl, rfl, rfl, by decide +kernel, by decide +kernel, rfl, by decide⟩


/-! ### Witnesses: conversions, dot products, reductions, selection -/

theorem test_witness_convert : ∃ (i : Instr) (m : Mn) (e : Ext) (s : State) (x : Site) (is : List Nat) (us : List Use) (f : Effect), i.shape = .form m e ∧
    convertResult m e x = some (us, f) ∧ Issues s x is e.guard us :=
  ⟨.fcvt { plainExt 1 4 0 .f16 with x := 2, rs := 4 }, .fcvt, _, s2, x2, [0, 1], _, _, rfl, rfl, issues_of here2 (by decide +kernel)⟩

theorem test_witness_dot : ∃ (i : Instr) (m : Mn) (e : Ext) (s : State) (x : Site) (is : List Nat) (us : List Use) (f : Effect), i.shape = .form m e ∧
    convertResult m e x = some (us, f) ∧ Issues s x is e.guard us :=
  ⟨.dot4 { plainExt 1 5 2 .s8 with c := 3, mod := 1 }, .dot4, _, s2, x2, [0, 1], _, _, rfl, rfl, issues_of here2 (by decide +kernel)⟩

theorem test_witness_hred : ∃ (i : Instr) (e : Ext), i.shape = .form .hred e ∧ Issues s2 x2 [0, 1] e.guard [useD e e.ty.regs, readA e e.ty.regs] :=
  ⟨.hred { plainExt 2 4 0 .s32 with m1 := 4 }, _, rfl, issues_of here2 (by decide +kernel)⟩

theorem test_witness_topk : ∃ (i : Instr) (m : Mn) (e : Ext) (us : List Use) (cs : List Cand2), i.shape = .form m e ∧
    candidates m e x2 [0, 1] = some (us, cs) ∧ Issues s2 x2 [0, 1] e.guard us ∧ cs.length = 2 :=
  ⟨.topk { plainExt 2 4 3 .f32 with imm := 1 }, .topk, _, _, _, rfl, rfl, issues_of here2 (by decide +kernel), by decide +kernel⟩

theorem test_witness_topkm : ∃ (i : Instr) (m : Mn) (e : Ext) (us : List Use) (cs : List Cand2), i.shape = .form m e ∧
    candidates m e x2 [0, 1] = some (us, cs) ∧ Issues s2 x2 [0, 1] e.guard us ∧ cs.length = 4 :=
  ⟨.topkm { plainExt 2 6 4 .s32 with x := 1, imm := 32 }, .topkm, _, _, _, rfl, rfl, issues_of here2 (by decide +kernel), by decide +kernel⟩

theorem test_witness_order : (∀ a ∈ [(⟨0, 5, 5, 0⟩ : Cand2), ⟨1, 7, 7, 1⟩], ∀ b ∈ [(⟨0, 5, 5, 0⟩ : Cand2), ⟨1, 7, 7, 1⟩],
      ∀ c ∈ [(⟨0, 5, 5, 0⟩ : Cand2), ⟨1, 7, 7, 1⟩], a.above .s32 b = true → b.above .s32 c = true → a.above .s32 c = true) ∧
    ∀ a ∈ [(⟨0, 5, 5, 0⟩ : Cand2), ⟨1, 7, 7, 1⟩], ∀ b ∈ [(⟨0, 5, 5, 0⟩ : Cand2), ⟨1, 7, 7, 1⟩], a ≠ b → a.above .s32 b = !(b.above .s32 a) := by decide

/-! ### Witnesses: page formats -/

/-- Entry 1 of the format table: sign, four bits of exponent and three of mantissa, blocks of 32 under a scale of 24 bits. -/
def word6 : Word := 0x00890739

def entry6 : Entry := Entry.ofWord word6

theorem test_entry : entry6 =
    { valid := true, pow2 := false, block := 32, ovf := false, spec := 1, bias := 7, m := 3, e := 4, s := 1 } ∧ entry6.chunks = 14 ∧
    entry6.elems = 4096 ∧ entry6.chunkBytes = 4496 := by decide +kernel

/-- A translation of the 64 KiB page at 0x10000, of format 1. -/
def leaf6 : BitVec 128 := BitVec.ofNat 128 (2 ^ 108 + 0x100000 + 56 + 3)

/-- The bench of a heat, with the format and the page. -/
def formats (t : Team) (is : List Nat := [0]) : State :=
  { bench t is with
    ctxs := [{ placedCtx with fmts := (List.replicate 16 0).set 1 word6 }]
    tlb := [{ tlb := (seat t (t.heats.headD h1)).tlb, ctx := 0, base := 0x10000, size := 65536, leaf := leaf6 }] }

/-- A heat whose v2 to v3 name the page, v4 is 0, and v5 a value. -/
def h6 : Heat := heatOf [fib [1, 0, 0x10000, 0, 0, 0x3F800000]]

def t6 : Team := teamOf h6

def x6 : Site := seat t6 h6

theorem test_witness_unpack : ∃ (i : Instr) (e : Ext) (f : Entry), i.shape = .form .qunpack e ∧ (formats t6).entryOf x6 e = some f ∧
    Issues (formats t6) x6 [0] e.guard [useD e 1, readA e 1, { reg := e.b.toNat, n := 1, rd := true }] ∧ (e.imm.toNat % 32 + 1) * f.w ≤ 32 :=
  ⟨.qunpack { plainExt 2 7 5 .f32 with imm := 0x103 }, _, _, rfl, rfl, issues_of (by decide +kernel) (by decide +kernel), by decide +kernel⟩

theorem test_witness_scale : ∃ (i : Instr) (e : Ext) (f : Entry), i.shape = .form .qscale e ∧ (formats t6).entryOf x6 e = some f ∧
    Issues (formats t6) x6 [0] e.guard [useD e 1, usesSpan e] ∧ f.block ≤ spanLen e :=
  ⟨.qscale { plainExt 0 7 0 .f32 with c := 5, imm := 0x100 }, _, _, rfl, rfl, issues_of (by decide +kernel) (by decide +kernel), by decide +kernel⟩

theorem rind_of (s : State) (x : Site) (is : List Nat) (a c : Nat) (g h : Hit) (f : Entry) (h1 : s.formatAt x.team.ctx x.tlb a = .ok (g, f)) (h2 : c < f.chunks)
    (h3 : s.reachRange x (a + c * f.chunkBytes) f.chunkBytes .load .conv = .ok h) (h4 : (is.any fun i => s.orderWaits x i h false) = false)
    (h5 : s.loadPoison x h (h.phys (a + c * f.chunkBytes)) f.chunkBytes false = false) : ∃ chunk ok u, s.checkChunk x is a c = (.rind f chunk ok, u) := by
  unfold State.checkChunk
  simp only [h1, h3, h4, h5, Nat.not_le.mpr h2, if_false, Bool.false_eq_true]
  exact ⟨_, _, _, rfl⟩

/-- The translation of the page. -/
def hit6 : Hit := { base := 0x10000, size := 65536, leaf := leaf6.toNat, place := 0x100000 }

theorem test_witness_qchk : ∃ (i : Instr) (e : Ext) (s u : State) (x : Site) (f : Entry) (chunk : List Byte) (ok : Bool), i.shape = .form .qchk e ∧
    e.mod.getLsbD 0 = true ∧ Issues s x [0] e.guard ([readV0] ++ [useD e 1, readA e 2, { reg := e.b.toNat, n := 1, rd := true }]) ∧
    windowOf (x.val 0 e.a.toNat 2) = some .global ∧ x.val 0 e.a.toNat 2 % 65536 = 0 ∧
    (s.account x).1.checkChunk (s.account x).2 [0] (x.val 0 e.a.toNat 2) (x.val 0 e.b.toNat 1) = (.rind f chunk ok, u) :=
  let e : Ext := { plainExt 2 7 4 .s8 with c := 3, mod := 1 }
  have ⟨chunk, ok, u, h⟩ := rind_of ((formats t6).account x6).1 ((formats t6).account x6).2 [0] 0x10000 0 hit6 hit6 entry6 (by decide +kernel)
    (by decide +kernel) (by decide +kernel) (by decide +kernel) (by decide +kernel)
  ⟨.qchk e, e, formats t6, u, x6, entry6, chunk, ok, rfl, by decide, issues_of (by decide +kernel) (by decide +kernel), by decide +kernel, by decide +kernel, h⟩

/-- QPACK of the heat's v5. -/
def pack6 : Ext := { plainExt 2 0 4 .f32 with c := 5 }

theorem go_of {a : PackAns} {f : Entry} (h : (match a with | .go g => decide (g = f) | _ => false) = true) : a = .go f := by
  cases a with
  | go g => rw [of_decide_eq_true h]
  | trap => cases h
  | page => cases h

theorem test_witness_qpack : ∃ (i : Instr) (e : Ext) (s : State) (x : Site) (f : Entry), i.shape = .form .qpack e ∧
    Issues s x [0] e.guard [readA e 2, { reg := e.b.toNat, n := 1, rd := true }, usesSpan e] ∧
    (s.account x).1.packCheck (s.account x).2 e (x.val 0 e.a.toNat 2) (x.val 0 e.b.toNat 1) = .go f ∧
    x.heat.unacked + (packChunks f (x.val 0 e.a.toNat 2) (x.val 0 e.b.toNat 1) (spanLen e)).length ≤ 65535 ∧
    packChunks f (x.val 0 e.a.toNat 2) (x.val 0 e.b.toNat 1) (spanLen e) ≠ [] ∧
    ∀ p ∈ packChunks f (x.val 0 e.a.toNat 2) (x.val 0 e.b.toNat 1) (spanLen e), (s.account x).1.packMeets (s.account x).2 [0] f p = .fine :=
  ⟨.qpack pack6, pack6, formats t6, x6, entry6, rfl, issues_of (by decide +kernel) (by decide +kernel), go_of (by decide +kernel), by decide +kernel,
    by decide +kernel, by decide +kernel⟩


/-! ### Witnesses: the matrix array -/

/-- The record of an f16 matrix of 32 by 32 elements at address 128, whose tile is one element (Table 9.6). -/
def record7 : TRec := { grid := none, oobt := false, rank := 2, ty := .f16, ext := [0, 0], stride := [2, 64], dim := [32, 32], base := 128 }

/-- Its 512 bits. -/
def bits7 : Nat := 128 + 32 * 2 ^ 56 + 32 * 2 ^ 88 + 64 * 2 ^ 216 + 8 * 2 ^ 436 + 2 ^ 441

theorem test_record : TRec.parse bits7 = some record7 := by decide +kernel

/-- The pacer program: v2 the row 0, v3 a shape of one row, one column and k of one, v4 to v7 zero, v8 to v9 the record's address, v10 the number 4. -/
def h7 : Heat := heatOf [fib [1, 7, 0, 0, 0, 0, 0, 0, 64, 0, 4]]

/-- Its record bound. -/
def bound7 : Bound := { r := record7, o2 := 0, o3 := 0, o4 := 0 }

/-- Its MXMA in the array queue. -/
def entry7 : MxEntry :=
  { row0 := 0, rows := 1, work := .mma 1 1 bound7 bound7 0 0 0 0 false .none false, pc := 0, applied := 0, chunks := [], held := none, stop := none }

/-- A team with a pacer and 8 rows. -/
def t7 (q : List MxEntry) : Team := { placedTeam true with pacer := some h7, accrows := 8, awb := 0, awl := 8, slots := List.replicate 8 (some bound7), queue := q }

def x7 (q : List MxEntry) : Site := { u := { team := 0, who := .pacer }, team := t7 q, heat := h7 }

/-- Its bench, with the record at address 64. -/
def s7 (q : List MxEntry) : State :=
  let s := bench (t7 q)
  { s with mem := Memory.write s.mem 0x5040 (leBytes bits7 64), cur := { s.cur with u := { team := 0, who := .pacer } } }

theorem record_of {s : State} {x : Site} {a : Nat} {r : TRec} (h : (match (s.readRecord x 0 a).1 with
      | .ok q => decide (q = r)
      | _ => false) = true) : ∃ u, s.readRecord x 0 a = (.ok r, u) := by
  split at h
  · rename_i q hq
    exact ⟨(s.readRecord x 0 a).2, Prod.ext (by rw [hq, of_decide_eq_true h]) rfl⟩
  · cases h

theorem test_witness_mxbind : ∃ (e : Ext) (u : State) (r : TRec), (Instr.mxbind e).shape = .form .mxbind e ∧
    Issues (s7 []) (x7 []) [0] e.guard (readA e 2 :: if e.mod.getLsbD 0 then [readC e 3] else []) ∧
    recordAddress ((x7 []).val 0 e.a.toNat 2) = none ∧
    ((s7 []).account (x7 [])).1.readRecord ((s7 []).account (x7 [])).2 0 ((x7 []).val 0 e.a.toNat 2) = (.ok r, u) ∧
    bindTest r ((x7 []).val 0 e.a.toNat 2) = none :=
  have ⟨u, h⟩ := record_of (s := ((s7 []).account (x7 [])).1) (x := ((s7 []).account (x7 [])).2) (a := 64) (r := record7) (by decide +kernel)
  ⟨plainExt 8 0 0 .s8, u, record7, rfl, issues_of (by decide +kernel) (by decide +kernel), by decide +kernel, h, by decide +kernel⟩

theorem test_witness_matrix_setup : (x7 []).team.queue = [] ∧
    (∃ e, Instr.mxwait.shape = .form .mxwait e ∧ Issues (s7 []) (x7 []) [0] e.guard []) ∧
    (∃ e, Instr.mxfence.shape = .form .mxfence e ∧ Issues (s7 []) (x7 []) [0] e.guard []) ∧
    (∃ e, (Instr.mxstat 11).shape = .form .mxstat e ∧ Issues (s7 []) (x7 []) [0] e.guard [useD e 1]) ∧
    ∃ e, (Instr.awset e).shape = .form .awset e ∧ Issues s1 x1 [0] e.guard (readA e 1 :: readB e 1) ∧ x1.leads [0] = true ∧
      x1.val 0 e.a.toNat 1 + x1.srcN 0 e ≤ x1.team.accrows :=
  ⟨rfl, ⟨_, rfl, issues_of (by decide +kernel) (by decide +kernel)⟩, ⟨_, rfl, issues_of (by decide +kernel) (by decide +kernel)⟩,
    ⟨_, rfl, issues_of (by decide +kernel) (by decide +kernel)⟩,
    ⟨plainExt 5 0 7 .s8, rfl, issues_of here1 (by decide +kernel), by decide +kernel, by decide +kernel⟩⟩

theorem test_witness_mxma : ∃ (e : Ext) (m : MxShape) (a b : Bound), (Instr.mxma e).shape = .form .mxma e ∧
    Issues (s7 []) (x7 []) [0] e.guard
      ([readD e 1, readA e 1] ++ (if bitsOf e.imm.toNat 0 2 ≠ 0 then [{ reg := e.b.toNat, n := 2, rd := true }] else []) ++ [readC e 4]) ∧
    MxShape.ofWord ((x7 []).word 0 e.d.toNat) = some m ∧ (x7 []).val 0 e.a.toNat 1 + m.m ≤ (x7 []).team.accrows ∧
    (x7 []).team.slots.getD (bitsOf e.m1.toNat 0 3) none = some a ∧ (x7 []).team.slots.getD e.mod.toNat none = some b ∧ (x7 []).team.mxErr = false ∧
    (bitsOf e.imm.toNat 0 2 ≠ 0 → (x7 []).linkTest 0 ((x7 []).val 0 e.b.toNat 2) = none) ∧ (x7 []).team.queue.length < 8 ∧
    (s7 []).saving (x7 []).team = false :=
  ⟨{ plainExt 2 3 0 .s8 with c := 4, mod := 1 }, _, _, _, rfl, issues_of (by decide +kernel) (by decide +kernel), rfl, by decide +kernel, rfl, rfl, rfl,
    (fun h => absurd rfl h), by decide +kernel, by decide +kernel⟩

theorem test_witness_mxzero : ∃ e : Ext, (Instr.mxzero e).shape = .form .mxzero e ∧ Issues (s7 []) (x7 []) [0] e.guard (readA e 1 :: readB e 1) ∧
    1 ≤ (x7 []).srcN 0 e ∧ (x7 []).srcN 0 e ≤ 2048 ∧ (x7 []).val 0 e.a.toNat 1 + (x7 []).srcN 0 e ≤ (x7 []).team.accrows ∧
    (x7 []).team.mxErr = false ∧ (x7 []).team.queue.length < 8 ∧ (s7 []).saving (x7 []).team = false :=
  ⟨plainExt 10 0 10 .s8, rfl, issues_of (by decide +kernel) (by decide +kernel), by decide +kernel, by decide +kernel, by decide +kernel, rfl,
    by decide +kernel, by decide +kernel⟩

/-- A heat's team with 16 rows, all of them in its window. -/
def t8 (q : List MxEntry) : Team := { t1 with accrows := 16, awl := 16, queue := q }

theorem test_witness_accrd : ∃ (e : Ext) (s : State) (x : Site), (Instr.accrd e).shape = .form .accrd e ∧
    Issues s x [0] e.guard ([useD e (accRegs e.ty), readA e 1] ++ readB e 1) ∧ [0].findSome? (x.accTest e) = none ∧
    ∀ k ∈ [0], x.team.claimedBy (x.val k e.a.toNat 1) = 0 :=
  ⟨plainExt 1 3 5 .f32, bench (t8 []), seat (t8 []) h1, rfl, issues_of (by decide +kernel) (by decide +kernel), by decide +kernel, by decide +kernel⟩

theorem test_witness_accrd_late : ∃ (e : Ext) (s : State) (x : Site) (tag : BitVec 6), (Instr.accrd e).shape = .form .accrd e ∧
    Issues s x [0] e.guard ([useD e (accRegs e.ty), readA e 1] ++ readB e 1) ∧ [0].findSome? (x.accTest e) = none ∧
    x.team.claimedBy (x.val 0 e.a.toNat 1) ≠ 0 ∧ s.freeTag x = some tag :=
  ⟨plainExt 5 3 5 .f32, bench (t8 [entry7]), seat (t8 [entry7]) h1, 0, rfl, issues_of (by decide +kernel) (by decide +kernel), by decide +kernel,
    by decide +kernel, by decide +kernel⟩

theorem test_witness_accwr : ∃ (e : Ext) (s : State) (x : Site), (Instr.accwr e).shape = .form .accwr e ∧
    Issues s x [0] e.guard ([readD e (accRegs e.ty), readA e 1] ++ readB e 1) ∧ [0].findSome? (x.accTest e) = none ∧
    ∀ k ∈ [0], x.heat.reads (x.val k e.a.toNat 1) = false :=
  ⟨{ plainExt 1 3 5 .f32 with mod := 2 }, bench (t8 []), seat (t8 []) h1, rfl, issues_of (by decide +kernel) (by decide +kernel), by decide +kernel,
    by decide +kernel⟩

/-- The bounds of an applied chunk, at the last column. -/
theorem test_witness_chunk : (128 : Nat) ≤ 128 ∧ (127 : Nat) < 128 := by decide

theorem fetched_of {s : State} {team : Nat} (h : (match s.nextChunk team with
      | some (x, k, _, .ok c, _) => decide (k = 0 ∧ (s.pinned x.team.cl ++ c.lines.map Prod.fst).dedup.length ≤ 8192)
      | _ => false) = true) :
    ∃ x q c u, s.nextChunk team = some (x, 0, q, .ok c, u) ∧ (s.pinned x.team.cl ++ c.lines.map Prod.fst).dedup.length ≤ 8192 := by
  generalize hn : s.nextChunk team = n at h
  split at h
  · rename_i x k q c u
    rw [decide_eq_true_eq] at h
    obtain ⟨rfl, h⟩ := h
    exact ⟨x, q, c, u, rfl, h⟩
  · cases h

theorem test_witness_tile_fetch : (s7 [entry7]).teamRuns 0 = true ∧ ∃ x q c u, (s7 [entry7]).nextChunk 0 = some (x, 0, q, .ok c, u) ∧
    ((s7 [entry7]).pinned x.team.cl ++ c.lines.map Prod.fst).dedup.length ≤ 8192 :=
  ⟨by decide +kernel, fetched_of (by decide +kernel)⟩

/-- The entry with its chunk. -/
def entry8 : MxEntry := { entry7 with chunks := [{ a := [[.fin false 1 0]], b := [[.fin false 3 0]], lines := [] }] }

theorem test_witness_array_chunk : (s7 [entry8]).teamRuns 0 = true ∧ (s7 [entry8]).pacerSite 0 = some (x7 [entry8]) ∧ (t7 [entry8]).wtHolds entry8 = some false ∧
    entry8.applied + 1 = entry8.total := by decide +kernel

/-- The entry of depth 33, of two chunks, with its first. -/
def entry9 : MxEntry := { entry8 with work := .mma 1 33 bound7 bound7 0 0 0 0 false .none false }

theorem test_witness_array_first_chunk : (s7 [entry9]).pacerSite 0 = some (x7 [entry9]) ∧ (t7 [entry9]).wtHolds entry9 = some false ∧
    entry9.applied + 1 < entry9.total ∧ entry9.stop = none := by decide +kernel

/-- An MXZERO in the queue. -/
def entry10 : MxEntry := { entry7 with work := .zero, rows := 4 }

theorem test_witness_array_zero : (s7 [entry10]).teamRuns 0 = true ∧ (s7 [entry10]).pacerSite 0 = some (x7 [entry10]) ∧ entry10.work = .zero := by decide +kernel

/-- The entry with a record that traps outside its extents, whose element lies there. -/
def entry11 : MxEntry :=
  { entry7 with work := .mma 1 1 { bound7 with r := { record7 with oobt := true } } bound7 32 0 0 0 false .none false }

theorem fault_of {s : State} {team : Nat} {x : Site} {q : MxEntry} (h : (match s.nextChunk team with
      | some (y, k, p, .error (.early _, _), _) => decide (y = x ∧ k = 0 ∧ p = q)
      | _ => false) = true) : ∃ c info u, s.nextChunk team = some (x, 0, q, .error (.early c, info), u) := by
  generalize hn : s.nextChunk team = n at h
  split at h
  · rename_i y k p c info u
    rw [decide_eq_true_eq] at h
    obtain ⟨rfl, rfl, rfl⟩ := h
    exact ⟨c, info, u, rfl⟩
  · cases h

theorem late_of {s : State} {team : Nat} {x : Site} {q : MxEntry} (h : (match s.nextChunk team with
      | some (y, k, p, .error (.late _, _), _) => decide (y = x ∧ k = 0 ∧ p = q)
      | _ => false) = true) : ∃ c info u, s.nextChunk team = some (x, 0, q, .error (.late c, info), u) := by
  generalize hn : s.nextChunk team = n at h
  split at h
  · rename_i y k p c info u
    rw [decide_eq_true_eq] at h
    obtain ⟨rfl, rfl, rfl⟩ := h
    exact ⟨c, info, u, rfl⟩
  · cases h

theorem test_witness_tile_fetch_fault : (s7 [entry11]).teamRuns 0 = true ∧
    (∃ c info u, (s7 [entry11]).nextChunk 0 = some (x7 [entry11], 0, entry11, .error (.early c, info), u)) ∧ entry11.chunks = [] ∧
    (t7 [entry11]).alive = true ∧ (t7 [entry11]).dtraps.length < 16 :=
  ⟨by decide +kernel, fault_of (by decide +kernel), rfl, by decide +kernel, by decide +kernel⟩

theorem test_witness_late_tile_fetch_fault : ∃ c info u, { s7 [entry7] with classes := [(5, .phase)] }.nextChunk 0 =
    some (x7 [entry7], 0, entry7, .error (.late c, info), u) :=
  late_of (by decide +kernel)


/-! ### Witnesses: transfers, system registers, traps -/

/-- v2 to v3 the address 64, v4 to v5 the address 128, v6 to v10 zero, v11 the generation 1, v12 and v13 zero, v16 the number 128. -/
def h9 : Heat := heatOf [fib [1, 7, 64, 0, 128, 0, 0, 0, 0, 0, 0, 1, 0, 0, 0, 0, 128]]

/-- The record of a collective in group 0: f32, at address 256, of one element (Tables 9.6 and 26.2). -/
def bits8 : Nat := 256 + 32 * 2 ^ 56 + 10 * 2 ^ 436 + 2 ^ 445 + 2 ^ 510

/-- The record that takes its output. -/
def bits9 : Nat := 512 + 32 * 2 ^ 56 + 10 * 2 ^ 436

theorem test_collective_records : TRec.parse bits8 = some
      { grid := some (2 ^ 62), oobt := false, rank := 1, ty := .f32, ext := [0], stride := [4], dim := [32], base := 256 } ∧
    TRec.parse bits9 = some { grid := none, oobt := false, rank := 1, ty := .f32, ext := [0], stride := [4], dim := [32], base := 512 } := by decide +kernel

/-- A group of the package alone. -/
def group1 : GroupEntry := { nx := 1, ny := 1, nz := 1, members := [0], self := 0 }

def x9 : Site := seat (teamOf h9) h9

/-- The bench with two records, a group, a key slot and place tables. -/
def s9 (a b : Nat) (t : Team) : State :=
  let s := place none (bench t)
  { s with
    mem := Memory.write (Memory.write s.mem 0x5040 (leBytes a 64)) 0x5080 (leBytes b 64)
    ctxs := [{ placedCtx with groups := [(0, { entry := group1, last := [], open_ := [] })] }]
    dies := s.dies.modify 0 fun d => { d with keys := d.keys.set 3 (some { ctx := 0, expander := 0, session := 1, key := 5, counter := 0 }) } }

theorem records_of {s u : State} {x : Site} {a : Nat} {r : TRec} (h : (match (s.readRecord x 0 a).1 with
      | .ok q => decide (q = r)
      | _ => false) = true) (k : (s.readRecord x 0 a).2 = u) : s.readRecord x 0 a = (.ok r, u) := by
  split at h
  · rename_i q hq
    exact Prod.ext (by rw [hq, of_decide_eq_true h]) k
  · cases h

theorem test_witness_txfer : ∃ (e : Ext) (s u v : State) (x : Site) (a b : TRec) (p : XferPlan), (Instr.txfer e).shape = .form .txfer e ∧
    xferPlan .txfer e s x 0 a b = some p ∧ Issues s x [0] e.guard p.uses ∧ recordAddress (x.val 0 e.a.toNat 2) = none ∧
    recordAddress (x.val 0 e.b.toNat 2) = none ∧ (s.account x).1.readRecord (s.account x).2 0 (x.val 0 e.a.toNat 2) = (.ok a, u) ∧
    u.readRecord (s.account x).2 0 (x.val 0 e.b.toNat 2) = (.ok b, v) ∧ p.ok ∧ s.trgOf x e p.counts = some (some 7) ∧ s.slotFree x = true := by
  refine ⟨{ plainExt 2 20 4 .s8 with c := 6, mod := 1, p := 7 }, s9 bits7 bits7 (teamOf h9), _, _, x9, record7, record7, _, rfl, rfl,
    issues_of (by decide +kernel) (by decide +kernel), by decide +kernel, by decide +kernel, records_of (by decide +kernel) rfl,
    records_of (by decide +kernel) rfl, ⟨by decide +kernel, by decide +kernel, by decide +kernel, by decide +kernel⟩, by decide +kernel, by decide +kernel⟩

theorem test_witness_txcoll : ∃ (e : Ext) (s u v : State) (x : Site) (a b : TRec) (p : XferPlan), (Instr.txcoll e).shape = .form .txcoll e ∧
    xferPlan .txcoll e s x 0 a b = some p ∧ Issues s x [0] e.guard p.uses ∧ recordAddress (x.val 0 e.a.toNat 2) = none ∧
    recordAddress (x.val 0 e.b.toNat 2) = none ∧ (s.account x).1.readRecord (s.account x).2 0 (x.val 0 e.a.toNat 2) = (.ok a, u) ∧
    u.readRecord (s.account x).2 0 (x.val 0 e.b.toNat 2) = (.ok b, v) ∧ p.ok ∧ s.trgOf x e p.counts = some none ∧ s.slotFree x = true := by
  refine ⟨{ plainExt 2 20 4 .s8 with c := 6, m1 := 3 }, s9 bits8 bits9 (teamOf h9), _, _, x9, _, _, _, rfl, rfl,
    issues_of (by decide +kernel) (by decide +kernel), by decide +kernel, by decide +kernel,
    records_of (r := { grid := some (2 ^ 62), oobt := false, rank := 1, ty := .f32, ext := [0], stride := [4], dim := [32], base := 256 })
      (by decide +kernel) rfl,
    records_of (r := { grid := none, oobt := false, rank := 1, ty := .f32, ext := [0], stride := [4], dim := [32], base := 512 }) (by decide +kernel) rfl,
    ⟨by decide +kernel, by decide +kernel, by decide +kernel, by decide +kernel, by decide +kernel, by decide +kernel⟩, by decide +kernel, by decide +kernel⟩

theorem test_witness_tsend : ∃ (e : Ext) (s : State) (x : Site) (q : KeySlot), (Instr.tsend e).shape = .form .tsend e ∧
    Issues s x [0] e.guard ([useD e 1, readA e 2] ++ readB e 1) ∧ recordAddress (x.val 0 e.a.toNat 2) = none ∧ 64 ≤ x.srcN 0 e ∧ x.srcN 0 e ≤ 4096 ∧
    x.srcN 0 e % 64 = 0 ∧ s.keyOf x.team.cl.die (bitsOf e.c.toNat 0 6) x.team.ctx = some q ∧ s.trgOf x e (e.mod.getLsbD 0) = some none ∧
    s.slotFree x = true :=
  ⟨{ plainExt 2 20 16 .s8 with c := 3 }, s9 0 0 (teamOf h9), x9, _, rfl, issues_of (by decide +kernel) (by decide +kernel), by decide +kernel,
    by decide +kernel, by decide +kernel, by decide +kernel, rfl, by decide +kernel, by decide +kernel⟩

/-- The team whose first handle has the status "done" of generation 1. -/
def t9 : Team := { teamOf h9 with newest := 1, status := [(1, 0x00010001)] }

theorem test_witness_txwait : ∃ (e : Ext) (s : State) (x : Site), (Instr.txwait e).shape = .form .txwait e ∧
    Issues s x [0] e.guard ((if e.mod.getLsbD 0 then [readV0] else []) ++ [useD e 1, readA e 1]) ∧ wd (x.val 0 e.a.toNat 1) ≠ 0 ∧
    ¬ (0 < (wd (x.val 0 e.a.toNat 1) - x.team.newest).toNat ∧ (wd (x.val 0 e.a.toNat 1) - x.team.newest).toNat < 2 ^ 31) ∧
    (x.team.status? (wd (x.val 0 e.a.toNat 1))).toNat % 256 = 1 :=
  ⟨{ plainExt 11 20 0 .s8 with mod := 1, c := 4 }, bench t9, seat t9 h9, rfl, issues_of (by decide +kernel) (by decide +kernel), by decide +kernel,
    by decide +kernel, by decide +kernel⟩

/-- A heat whose fibre is in its trap handler, and stands to return to 0x20. -/
def h10 : Heat :=
  { heatOf [{ fib [1, 7, 5, 0, 64, 0] with handler := true, epc := 0x20 }] with tcause := 5, tpc := 0x20 }

theorem test_witness_system_registers : (∃ e, (Instr.sysrd e).shape = .form .sysrd e ∧ e.imm = 0x20 ∧ Issues s1 x1 [0] e.guard [useD e (sysRegs e.imm)]) ∧
    (∃ e, (Instr.syswr e).shape = .form .syswr e ∧ e.imm = 0 ∧ Issues s1 x1 [0] e.guard [readA e 1]) ∧
    (∃ e, (Instr.syswr e).shape = .form .syswr e ∧ e.imm = 0x31 ∧ Issues (bench (teamOf h10)) (seat (teamOf h10) h10) [0] e.guard [readA e 2] ∧
      ∀ k ∈ [0], (seat (teamOf h10) h10).handling [k] = true) ∧
    (∃ e, (Instr.syswr e).shape = .form .syswr e ∧ sysOfContext e.imm = true ∧ Issues s1 x1 [0] e.guard [readA e (sysRegs e.imm)] ∧ x1.leads [0] = true ∧
      s1.ctx? x1.team.ctx = some placedCtx) ∧
    (∃ e, (Instr.perfrd e).shape = .form .perfrd e ∧ e.imm.toNat < 8 ∧ e.imm ≠ 6 ∧ Issues s1 x1 [0] e.guard [useD e 2]) ∧
    (∃ e, (Instr.perfrd e).shape = .form .perfrd e ∧ e.imm = 6 ∧ Issues s1 x1 [0] e.guard [useD e 2]) ∧
    ∃ e, (Instr.budget e).shape = .form .budget e ∧ Issues s1 x1 [0] e.guard [useD e 2] ∧ s1.meet? x1.team.meet = some (placedMeet false) :=
  ⟨⟨{ plainExt 0 4 0 .s8 with imm := 0x20 }, rfl, rfl, issues_of here1 (by decide +kernel)⟩, ⟨plainExt 5 0 0 .s8, rfl, rfl, issues_of here1 (by decide +kernel)⟩,
    ⟨{ plainExt 4 0 0 .s8 with imm := 0x31 }, rfl, rfl, issues_of (by decide +kernel) (by decide +kernel), by decide +kernel⟩,
    ⟨{ plainExt 4 0 0 .s8 with imm := 0x30 }, rfl, by decide, issues_of here1 (by decide +kernel), by decide +kernel, by decide +kernel⟩,
    ⟨{ plainExt 0 4 0 .s8 with imm := 7 }, rfl, by decide, by decide, issues_of here1 (by decide +kernel)⟩,
    ⟨{ plainExt 0 4 0 .s8 with imm := 6 }, rfl, by decide, issues_of here1 (by decide +kernel)⟩,
    ⟨{ plainExt 0 4 0 .s8 with m1 := 3 }, rfl, issues_of here1 (by decide +kernel), by decide +kernel⟩⟩

theorem test_witness_trap_entry : [0, 1].Nodup ∧ x2.heat.inHandler = false ∧ (trapping s2).tvec x2.team.ctx ≠ 0 ∧ (trapping s2).site? x2.u = some x2 := by
  decide +kernel

theorem test_witness_fatal_trap : s1.tvec x1.team.ctx = 0 ∧ (seat (teamOf h10) h10).heat.inHandler = true ∧ s1.meet? x1.team.meet = some (placedMeet false) ∧
    (placedMeet false).live = true := by decide +kernel

theorem test_witness_trap : (∃ e, (Instr.trap 5).shape = .form .trap e ∧ e.guard = .always) ∧ (∃ e, (Instr.brk 0).shape = .form .brk e ∧ e.guard = .always) ∧
    Issues (trapping s2) x2 [0, 1] .always [] ∧ x2.heat.inHandler = false ∧ (trapping s2).tvec x2.team.ctx ≠ 0 :=
  ⟨⟨_, rfl, rfl⟩, ⟨_, rfl, rfl⟩, issues_of (by decide +kernel) (by decide +kernel), by decide +kernel, by decide +kernel⟩

theorem test_witness_eret : (∃ e, Instr.eret.shape = .form .eret e ∧ e.guard = .always) ∧
    Issues (bench (teamOf h10)) (seat (teamOf h10) h10) [0] .always [] ∧ (∀ k ∈ [0], (seat (teamOf h10) h10).handling [k] = true) ∧
    goodTarget ((seat (teamOf h10) h10).epc 0) :=
  ⟨⟨_, rfl, rfl⟩, issues_of (by decide +kernel) (by decide +kernel), by decide +kernel, by decide +kernel, by decide +kernel⟩


/-! ### Witnesses: the host, queues, admission, the life of a meet -/

/-- The partition of cluster 0 of die 0. -/
def part10 : Partition := { id := 0, locs := [{ die := 0, loc := 0 }], whole := false, dies := [], cap := none, util := 90 }

/-- A tenant with the partition. -/
def tenant10 : Tenant :=
  { id := 0, rate := 2000, tokens := 1500, debt := 0, policy := .terminate, lend := false, borrow := true, parts := [0], revoked := false }

/-- A queue of 16 slots at address 2048, its head index at 8. -/
def queue10 : Queue :=
  { id := 0, desc := { vf := 0, index := 0, base := 2048, n := 4, device := false, head := 8, tenant := 0, ctx := 0, home := 0 }, head := 0, tail := 1,
    errors := 0, noted := none, cand := none, revoked := false, server := 0 }

/-- The entry of the queue's first slot (Table 20.1): deadline 10^8, budget 1000, descriptor at 512, signal at 1024. -/
def entry12 (turn : Nat) : Nat := turn + 2 ^ 32 + 100000000 * 2 ^ 64 + 1000 * 2 ^ 128 + 512 * 2 ^ 192 + 1024 * 2 ^ 256

/-- The descriptor, its field record and the kernel table entry (Tables 20.2, 20.3 and R181): one team of one heat of one fibre with 32 registers. -/
def descriptor10 : Nat := 2 ^ 64 + (2 ^ 40 + 2 ^ 48 + 2 ^ 56 + 768 * 2 ^ 64) * 2 ^ 512

def kernel10 : Nat := 0xFFFFFFFF * 2 ^ 64 + 32 * 2 ^ 96

/-- The field that they describe. -/
def field10 : Field :=
  { part := 0, teams := 1, squads := 1, heats := 1, fibres := 1, text := 0, privbase := 0, ps := 0, entry := 0, pentry := none, regs := 32, xregs := false,
    accrows := 0, scratch := 0, cshared := 0, handed := 0, handouts := [], placed := 0, completed := 0 }

/-- The bench with the partition, the tenant and the queue, and what they name in memory. -/
def s10 : State :=
  let s := place none s1
  { s with
    mem := Memory.write (Memory.write (Memory.write s.mem 0x5800 (leBytes (entry12 0) 128)) 0x5200 (leBytes descriptor10 128)) 0x5300 (leBytes kernel10 32)
    nextId := 1, parts := [part10], partPl := (List.replicate 64 none).set 0 (some 0), tenants := [tenant10], queues := [queue10]
    dies := s.dies.modify 0 fun d => { d with clusPl := d.clusPl.set 0 (some 0) } }

/-- AWSET of no rows and BANKCFG of bank 11. -/
def awset10 : Ext := plainExt 9 0 7 .s8

def bankcfg10 : Ext := { plainExt 0 0 0 .s8 with m1 := 2, p := 11 }

theorem test_witness_driver : s10.bound 0 0 = true ∧ s10.bound 9 0 = false ∧ s10.team? 77 = none ∧ (Instr.bankcfg bankcfg10).wf = true ∧
    (Instr.awset awset10).wf = true ∧ (Instr.syswr { plainExt 2 0 0 .s8 with imm := 0x1F }).wf = true ∧ sysOfContext 0x1F = true ∧
    s10.ctx? 0 = some placedCtx ∧ placedCtx.driver = 0 := by decide +kernel

theorem test_witness_driver_bankcfg : ∃ u, s10.commandable 0 0 0 { die := 0, loc := 0 } bankcfg10 (.bankcfg bankcfg10) x1 ∧ x1.team.st = .resident ∧
    (∀ d ∈ s10.commands, d.op = .bankcfg { die := 0, loc := 0 } → d.e.p ≠ bankcfg10.p) ∧ s10.switchBank x1.team bankcfg10.p (bankMode bankcfg10.m1.toNat) = .done u :=
  ⟨_, ⟨by decide +kernel, by decide +kernel, rfl, by decide +kernel, by decide +kernel, rfl, rfl, by decide⟩, rfl, by decide +kernel, rfl⟩

theorem test_witness_driver_awset : s10.commandable 0 0 0 { die := 0, loc := 0 } awset10 (.awset awset10) x1 ∧ x1.team.leader = true ∧
    x1.fieldsCheck 0 [0] (readA awset10 1 :: readB awset10 1) = none ∧ x1.met (readA awset10 1 :: readB awset10 1) false 0 = [] ∧
    x1.val 0 awset10.a.toNat 1 + x1.srcN 0 awset10 ≤ x1.team.accrows :=
  ⟨⟨by decide +kernel, by decide +kernel, rfl, by decide +kernel, by decide +kernel, rfl, rfl, by decide⟩, rfl, by decide +kernel, by decide +kernel, by decide +kernel⟩

/-- The same with the parse core of die 0 failed, and with a team whose leader has ended. -/
theorem test_witness_parse_core : { s10 with dies := s10.dies.modify 0 fun d => { d with cps := d.cps.modify 0 fun c => { c with failed := true } } }.parses 0 = false ∧
    s10.dies ≠ [] ∧ ∀ d ∈ s10.dies, d.coreUp 0 = true := by decide +kernel

theorem test_witness_ended_leader : { s10 with teams := [{ t1 with leader := false }] }.commandable 0 0 0 { die := 0, loc := 0 } awset10 (.awset awset10)
      (seat { t1 with leader := false } h1) ∧ ∀ u ∈ readA awset10 1 :: readB awset10 1, u.reg < 16 :=
  ⟨⟨by decide +kernel, by decide +kernel, rfl, by decide +kernel, by decide +kernel, rfl, rfl, by decide⟩, by decide⟩

/-- SYSWR of %seed, and of %epc in a trap handler. -/
def syswr10 (imm : BitVec 16) : Ext := { plainExt 2 0 0 .s8 with imm := imm }

theorem test_witness_driver_syswr : { s10 with teams := [teamOf h10] }.commandable 0 0 0 { die := 0, loc := 0 } (syswr10 0x31) (.syswr (syswr10 0x31)) (seat (teamOf h10) h10) ∧
    (seat (teamOf h10) h10).team.leader = true ∧ (seat (teamOf h10) h10).fieldsCheck 0 [0] [readA (syswr10 0x31) (sysRegs 0x31)] = none ∧
    (seat (teamOf h10) h10).met [readA (syswr10 0x31) (sysRegs 0x31)] false 0 = [] ∧ (seat (teamOf h10) h10).handling [0] = true ∧ (Instr.syswr (syswr10 0)).wf = true :=
  ⟨⟨by decide +kernel, by decide +kernel, rfl, by decide +kernel, by decide +kernel, rfl, rfl, by decide⟩, rfl, by decide +kernel, by decide +kernel,
    by decide +kernel, by decide +kernel⟩

theorem test_witness_driver_saved : { s10 with teams := [{ t1 with st := .saved }] }.commandable 0 0 0 { die := 0, loc := 0 } bankcfg10 (.bankcfg bankcfg10)
      (seat { t1 with st := .saved } h1) ∧ (seat { t1 with st := .saved } h1).team.st = .saved :=
  ⟨⟨by decide +kernel, by decide +kernel, rfl, by decide +kernel, by decide +kernel, rfl, rfl, by decide⟩, rfl⟩

theorem test_witness_place_tables : s1.placeOk .partition 64 none = false ∧ s1.placeOk .partition 63 (some 1) = true ∧
    s1.placeOk (.bank { die := 3, loc := 23 }) 11 (some 11) = true ∧ s1.placeOk (.cluster 3) 23 (some 25) = true ∧
    ((s1.die? 3).bind fun d => (d.clusPl[23]?).join) = none ∧ (s1.die? 3).isSome = true ∧
    (((s1.die? 3).bind fun d => d.clusters[23]?).bind fun c => (c.banks[11]?).map Bank.mode) = some .cache := by decide +kernel

/-- The cluster of die 3 that an entry has named before, and one that none has. -/
theorem test_witness_cluster_units : (((s1.die? 3).bind fun d => d.clusters[23]?).map Cluster.unit) = some none ∧
    { s1 with dies := s1.dies.modify 3 fun d => { d with clusters := d.clusters.modify 23 fun c => { c with unit := some 7 } } }.placeOk (.cluster 3) 23 (some 25) = true ∧
    s1.placeOk (.cluster 3) 23 none = true ∧ (((s1.die? 3).map fun d => d.clusPl.length)) = some 24 := by decide +kernel

/-- Repair entries at the ends of their ranges, with their spares free (Table 28.1). -/
theorem test_witness_spares : (63 : Nat) / 32 = 1 ∧ Die.reset.slicePl = [] ∧ Die.reset.lanePl = [] ∧ Die.reset.hbmPl = [] ∧ Cluster.reset.rows = [] ∧
    (∀ p ∈ ([(64 * 1 + 5, 3)] : SMap Nat), p.1 = 64 * 2 + 63 ∨ p.2 ≠ 3 ∨ p.1 / 64 ≠ 2) := by decide +kernel

theorem test_witness_cluster_place : (s10.die? 0).bind (fun d => d.clusPl[0]?) = some (some 0) ∧ { s10 with teams := [], meets := [] }.placeOk (.cluster 0) 0 (some 25) = true ∧
    ((s10.die? 0).bind fun d => d.clusters[0]?).isSome = true := by decide +kernel

theorem test_witness_repair : ((State.reset.withDie 3 { Die.reset with offline := true } []).die? 3).map Die.offline = some true ∧ State.reset.hasLink 2 = true ∧
    (State.resetOf .ks4x).hasLink 1 = false ∧ State.reset.bankQuiet { die := 3, loc := 23 } 11 = true ∧ (State.reset.die? 3).isSome = true := by decide +kernel

theorem test_witness_groups : s1.ctx? 0 = some placedCtx ∧ s1.ctx? 5 = none ∧ s1.product = .ks4n ∧ groupOk group1 = true ∧
    (∀ t ∈ s1.teams, t.ctx = 0 → t.xfers = []) ∧ (List.replicate 8 (0 : BitVec 16)).length = 8 := by decide +kernel

theorem test_witness_registers : s1.hasPort (.cxl 3) = true ∧ s1.hasPort (.peer 1023) = true ∧ (State.resetOf .ks4x).hasPort (.peer 0) = false ∧
    (2 ^ 38 : Nat) % (2 ^ 30 * s1.dies.length) = 0 ∧ 2 ^ 38 ≤ s1.dies.length * s1.product.dieBytes ∧ blockRange (2 ^ 28) (2 ^ 28) = some (some (2 ^ 28, 2 ^ 28)) ∧
    blockRange 0 0 = some none ∧ s1.expanderAt (some 3) = some Expander.reset ∧ s1.expanderAt none = none ∧ (State.resetOf .ks4x).expanderAt none = some Expander.reset ∧
    s1.holdsPage 0 5 = true ∧ (∀ c ∈ s1.changes, c.page ≠ 5) ∧ (∀ p ∈ s1.posted, p.inPage 5 = false) ∧
    s1.clear none (s1.recorded (4096 * 5)) (s1.changeLines 5 .priv) = true ∧
    s1.changeWaits 5 = false ∧ (∃ d ∈ s1.dies, d.coreUp 6 = true) ∧ (place none s1).trigOf { die := 0, loc := 0 } (BitVec.ofNat 8 63) = some 63 := by
  refine ⟨?_, ?_, ?_, ?_, ?_, ?_, ?_, ?_, ?_, ?_, ?_, ?_, ?_, ?_, ?_, ⟨Die.reset, ?_, ?_⟩, ?_⟩ <;> decide +kernel

/-- An expander with a region, a decoder and an extent. -/
def expander10 : Expander :=
  { Expander.reset with
    regions := Expander.reset.regions.set 7 (some (0, 2 ^ 31)), decoders := Expander.reset.decoders.set 0 (some (2 ^ 28, 2 ^ 30))
    extents := [{ tenant := 4, host := 0, dpa := 2 ^ 28, size := 2 ^ 28 }] }

theorem test_witness_capacity : (∀ g ∈ expander10.extents, g.dpa + g.size ≤ 2 ^ 29 ∨ 2 ^ 29 + 1 * 2 ^ 28 ≤ g.dpa) ∧ (2 ^ 29 : Nat) % 2 ^ 28 = 0 ∧
    { s1 with beyond := [expander10] }.expanderAt (some 0) = some expander10 ∧ 2 ^ 29 + 1 * 2 ^ 28 ≤ s1.expanderBytes (some 0) ∧
    covered expander10.regions (2 ^ 29) (1 * 2 ^ 28) = true ∧ covered expander10.decoders (2 ^ 29) (1 * 2 ^ 28) = true ∧
    covered expander10.decoders (5 * 2 ^ 28) (1 * 2 ^ 28) = false ∧
    (expander10.extents.find? fun h => h.dpa = 2 ^ 28) = some { tenant := 4, host := 0, dpa := 2 ^ 28, size := 2 ^ 28 } := by decide +kernel

theorem test_witness_extent_release : { State.resetOf .ks4x with expander := expander10 }.expanderAt none = some expander10 ∧
    { State.resetOf .ks4x with expander := expander10 }.tasksOf 4 = false ∧
    { State.resetOf .ks4x with expander := expander10 }.heldIn none { tenant := 4, host := 0, dpa := 2 ^ 28, size := 2 ^ 28 } = [] ∧
    { State.resetOf .ks4x with expander := expander10, snoopFl := [{ region := 2 ^ 22, holders := [3], bcast := false }] }.heldIn none
      { tenant := 4, host := 0, dpa := 2 ^ 28, size := 2 ^ 28 } = [(2 ^ 22, [3])] := by decide +kernel

theorem test_witness_sessions : (s9 0 0 (teamOf h9)).keySlot 0 3 = some { ctx := 0, expander := 0, session := 1, key := 5, counter := 0 } ∧
    ((s9 0 0 (teamOf h9)).die? 0).bind (fun d => d.keys[63]?) = some none ∧ ((s9 0 0 (teamOf h9)).die? 0).map (fun d => d.coreUp 5) = some true ∧
    PortTarget.cxl 0 ∉ (s9 0 0 (teamOf h9)).gone ∧ placedCtx.killed = false ∧ s1.ctx? 0 = some placedCtx ∧ s1.expander? 0 = some Expander.reset ∧
    ({ Expander.reset with live := [{ id := 7, tenant := 4, keys := [(0, 5)] }] } : Expander).session? 7 = some { id := 7, tenant := 4, keys := [(0, 5)] } := by
  decide +kernel

theorem test_witness_firmware : State.reset.layers[5]?.map (fun l => (l.measurement, l.version, l.rollback)) = some (0, 0, 0) := by decide +kernel

theorem test_witness_queues : s10.queueOk queue10.desc = true ∧ s10.queueAt 0 0 = some queue10 ∧ (1 ≤ (2 - queue10.tail).toNat ∧ (2 - queue10.tail).toNat < 2 ^ 31 ∧
      (2 - queue10.head).toNat ≤ 2 ^ queue10.desc.n) ∧ ¬ (1 ≤ ((17 : Word) - queue10.tail).toNat ∧ ((17 : Word) - queue10.tail).toNat < 2 ^ 31 ∧
      ((17 : Word) - queue10.head).toNat ≤ 2 ^ queue10.desc.n) ∧ s10.queueAt 0 (60 / 64) = some queue10 := by decide +kernel

/-- The state after a read. -/
def stateOf (r : Except Bad (Nat × State)) : State :=
  match r with
  | .ok p => p.2
  | .error _ => State.reset

theorem read_of {r : Except Bad (Nat × State)} {a : Nat} (h : (match r with
      | .ok p => decide (p.1 = a)
      | .error _ => false) = true) : r = .ok (a, stateOf r) := by
  cases r with
  | ok p =>
    obtain ⟨b, t⟩ := p
    rw [show b = a from of_decide_eq_true h]
    rfl
  | error => cases h

/-- The state after the read of a meet. -/
def stateOfMeet (r : Except Bad (Nat × List Machine.Field × State)) : State :=
  match r with
  | .ok p => p.2.2
  | .error _ => State.reset

theorem meet_of {r : Except Bad (Nat × List Machine.Field × State)} {a : Nat} {fs : List Machine.Field} (h : (match r with
      | .ok p => decide (p.1 = a ∧ p.2.1 = fs)
      | .error _ => false) = true) : r = .ok (a, fs, stateOfMeet r) := by
  cases r with
  | ok p =>
    obtain ⟨b, gs, t⟩ := p
    obtain ⟨rfl, rfl⟩ := of_decide_eq_true h
    rfl
  | error => cases h

/-- The states of the admission of a meet. -/
def s10a : State := stateOf (s10.cpRead 0 0 2048 128)

def s10b : State := stateOfMeet (s10a.readMeet 0 0 512)

def s11 : State := { s10b with nextId := s10b.nextId + 1, meets := s10b.meets ++ [s10b.newMeet queue10 (entry12 0) 0 [field10]] }

theorem test_witness_admission : s10.queue? 0 = some queue10 ∧ queue10.cand = none ∧ queue10.head ≠ queue10.tail ∧ s10.cpRead 0 0 2048 128 = .ok (entry12 0, s10a) ∧
    bytesOf (entry12 0) 0 4 = queue10.head.toNat ∧ entryOk (entry12 0) = true ∧ s10a.readMeet 0 0 512 = .ok (0, [field10], s10b) ∧
    s10b.meet? s10b.nextId = none :=
  ⟨by decide +kernel, rfl, by decide, read_of (by decide +kernel), by decide +kernel, by decide +kernel, meet_of (by decide +kernel), by decide +kernel⟩

theorem test_witness_admission_checks : s11.admitEarly (s10b.newMeet queue10 (entry12 0) 0 [field10]) = none ∧
    (∀ k ∈ s11.keepersOf (s10b.newMeet queue10 (entry12 0) 0 [field10]), k = 0) ∧
    s11.keeperTest (s10b.newMeet queue10 (entry12 0) 0 [field10]) 0 (s11.timeLeft (s10b.newMeet queue10 (entry12 0) 0 [field10]) 0) = 0 ∧
    (s11.takeTokens (s10b.newMeet queue10 (entry12 0) 0 [field10])).isSome = true := by decide +kernel

theorem test_witness_unpublished : (∃ t, { s10 with mem := Memory.write s10.mem 0x5800 [16] }.cpRead 0 0 2048 128 = .ok (entry12 16, t)) ∧
    bytesOf (entry12 16) 0 4 ≠ queue10.head.toNat := ⟨⟨_, read_of (by decide +kernel)⟩, by decide +kernel⟩

/-- The partition of a cluster of die 1, another keeper's. -/
def part11 : Partition := { part10 with id := 1, locs := [{ die := 1, loc := 0 }] }

/-- A meet on both partitions, under decision. -/
def meet11 : Meet := { s10.newMeet queue10 (entry12 0) 0 [field10, { field10 with part := 1 }] with id := 1 }

/-- The round of its reservations, with answers. -/
def s12 (asked : List (Nat × Nat)) (answered : List (Nat × Nat)) : State :=
  { s10 with
    nextId := 2, meets := [meet11], parts := [part10, part11], partPl := ((List.replicate 64 none).set 0 (some 0)).set 1 (some 1)
    tenants := [{ tenant10 with parts := [0, 1] }], queues := [{ queue10 with cand := some { meet := 1, asked := asked, answered := answered } }]
    dies := s10.dies.modify 1 fun d => { d with clusPl := d.clusPl.set 0 (some 0) } }

/-- The same, past the time in which a reservation must answer (R330). -/
def s12late : State := let s := s12 [(1, 0)] [(0, 0)]; { s with dies := s.dies.map fun d => { d with clock := 10001 } }

theorem test_witness_reservation : (∃ v c m, (s12 [] [(0, 0)]).candidate 0 = some (v, c, m) ∧ 1 ∈ (s12 [] [(0, 0)]).keepersOf m ∧ 1 ≠ m.home ∧
      ∀ p ∈ c.answered, p.1 ≠ 1) ∧
    (∃ v c m u, (s12 [(1, 0)] [(0, 0), (1, 0)]).candidate 0 = some (v, c, m) ∧ c.asked = [(1, 0)] ∧ (s12 [(1, 0)] [(0, 0), (1, 0)]).homeTime m ≤ 0 + 10000 ∧
      (∀ k ∈ (s12 [(1, 0)] [(0, 0), (1, 0)]).keepersOf m, ∃ p ∈ c.answered, p.1 = k) ∧ (∀ p ∈ c.answered, p.2 ≠ 3 ∧ p.2 ≠ 2) ∧
      (s12 [(1, 0)] [(0, 0), (1, 0)]).admitEarly m = none ∧ (s12 [(1, 0)] [(0, 0), (1, 0)]).takeTokens m = some u) ∧
    ∃ v c m, s12late.candidate 0 = some (v, c, m) ∧ (∃ p ∈ c.asked, p.2 + 10000 < s12late.homeTime m) ∧ ∃ k ∈ s12late.keepersOf m, k ≠ m.home :=
  ⟨⟨_, _, meet11, rfl, by decide +kernel, by decide +kernel, by decide +kernel⟩,
    ⟨_, _, meet11, _, rfl, by decide +kernel, by decide +kernel, by decide +kernel, by decide +kernel, by decide +kernel, rfl⟩,
    ⟨_, _, meet11, rfl, ⟨(1, 0), by decide +kernel, by decide +kernel⟩, 1, by decide +kernel, by decide +kernel⟩⟩

/-- A live meet whose home die has measured a round trip. -/
def meet15 : Meet := { placedMeet false with rhos := [(1, 700)], dls := [{ keeper := 1, on := 1, dl := 5, commit := false }] }

theorem test_witness_commit : { s1 with meets := [meet15] }.meet? 0 = some meet15 ∧ meet15.live = true ∧
    (meet15.rhos.find? fun p => p.1 = 1) = some (1, 700) := by decide +kernel

theorem test_witness_laps : { s10 with hubClock := 1000000 }.nextLap ≤ { s10 with hubClock := 1000000 }.hubClock ∧
    (∀ u ∈ s10.tenants, s10.lends u.refill = false) ∧ { s10 with meets := [], queues := [] }.lends { tenant10 with lend := true } = true := by decide +kernel

theorem test_witness_lap_times : State.reset.hubClock < State.reset.nextLap ∧ (100 ≤ 100 ∧ (100 : Nat) ≤ 100000) ∧ (100000 : Nat) < 100001 ∧
    State.reset.tenant? 7 = none := by decide +kernel

theorem test_witness_running_partition : (placedMeet false) ∈ s10.meets ∧ (placedMeet false).live = true ∧
    (∃ p ∈ (placedMeet false).parts, (s10.partPl[p]?).join = some 0) ∧ s10.queue? 0 = some queue10 := by decide +kernel

theorem test_witness_partitions : (∀ m ∈ State.reset.meets, m.live = false) ∧ 3 < State.reset.dies.length ∧ s10.part? 0 = some part10 ∧
    s10.tenant? 0 = some tenant10 ∧ (s10.meets.map Meet.id).Nodup := by decide +kernel

/-- A meet that is admitted and has not been launched. -/
def meet12 : Meet := { placedMeet false with st := .admitted, fields := [field10], dls := [{ keeper := 0, on := 0, dl := 1000000, commit := true }] }

/-- The package before its launch. -/
def s13 : State := { s10 with meets := [meet12], teams := [] }

theorem test_witness_launch : s13.meet? 0 = some meet12 ∧ meet12.st = .admitted ∧ s13.committed meet12 = true ∧ s13.argsAway meet12 = false ∧ (∀ p ∈ meet12.parts, s13.firstOn meet12 p = true) ∧
    ∃ u, (s13.setMeet { meet12 with st := .launched }).launchFrom { meet12 with st := .launched } 0 meet12.fields.length = some u :=
  ⟨by decide +kernel, rfl, by decide +kernel, by decide +kernel, by decide +kernel, Option.isSome_iff_exists.mp (by decide +kernel)⟩

/-- A launched meet whose field has teams left, one of them handed out. -/
def meet13 : Meet := { placedMeet false with fields := [{ field10 with teams := 70, handed := 6, placed := 1, handouts := [(0, 1, 5)] }] }

def s14 : State := { s10 with meets := [meet13], teams := [] }

theorem test_witness_handout : s14.meet? 0 = some meet13 ∧ meet13.st = .launched ∧ s14.partOf 0 = some part10 ∧
    (∃ c ∈ s14.clustersOf part10, c.die = 0) ∧ 6 + 7 ≤ 70 ∧
    ({ field10 with teams := 70, handed := 6, placed := 1, handouts := [(0, 1, 5)] } : Machine.Field).handedTo 0 + 7 ≤
      s14.slotsOn meet13 0 0 (({ field10 with teams := 70, handed := 6, placed := 1, handouts := [(0, 1, 5)] } : Machine.Field).handedTo 0 + 7) :=
  ⟨by decide +kernel, rfl, by decide +kernel, ⟨{ die := 0, loc := 0 }, by decide +kernel, rfl⟩, by decide, by decide +kernel⟩

theorem test_witness_placement : ({ die := 0, loc := 0 } : ClusterRef) ∈ s14.clustersOf part10 ∧ (∀ t ∈ s14.teams, t.meet = 0 → s14.restorable t = false) ∧
    s14.firstOn meet13 0 = true ∧ takeBatch 0 [(0, 1, 5)] = some (1, [(0, 2, 4)]) ∧ (s14.placeTeam meet13 0 1 { die := 0, loc := 0 } [3]).isSome = true := by
  decide +kernel

/-- A team whose fibres have ended. -/
def h14 : Heat := { placedHeat 48 with fibres := List.replicate 32 none, ws := [{ pa := 0x6040, byte := 9, owner := 0, pc := 0 }] }

def t14 : Team := teamOf h14

/-- Their bench, with a dirty PRIV line in an L0 of the team's core, and a field of two teams. -/
def s14r : State :=
  { inClass 3 .priv (bench t14) with lines := [dirty1], meets := (bench t14).meets.map fun m => { m with fields := m.fields.map fun f => { f with teams := 2 } } }

/-- What the team has after the first step of its retirement. -/
def s14a : State := s14r.cleanLevels t14.ownLevel

theorem mem14 : s14r.MemOk :=
  ⟨by decide +kernel, fun t ht => by
    rw [show s14r.teams = [t14] from rfl, List.mem_singleton] at ht
    subst ht
    exact ⟨rfl, by decide +kernel⟩⟩

theorem test_witness_retirement : s14r.MemOk ∧ s14r.team? 0 = some t14 ∧ t14.st = .resident ∧ t14.alive = false ∧ s14r.copiesDone t14 = true ∧
    s14a.clear none .phase (s14a.teamLines t14) = true ∧ (∀ l ∈ s14a.teamLines t14, s14a.awaitsU (64 * l) = false) ∧
    (s14a.teamLines t14) = [0x6040 / 64] ∧ ((s14a.releaseTeam t14).team? 0).map Team.owes = some false :=
  ⟨mem14, by decide +kernel, rfl, by decide +kernel, by decide +kernel, by decide +kernel, by decide +kernel, by decide +kernel, by decide +kernel⟩

theorem test_witness_retiring_line : (s14r.lines.filter fun d => t14.ownLevel d.level && decide (d.cls = .priv) && !d.dirtyBytes.isEmpty) = [dirty1] ∧
    dirty1.chunk = none ∧ s14r.pathFault dirty1.level.die (64 * dirty1.line) = none ∧ (s14r.classCheck (64 * dirty1.line) .priv).isOk = true ∧
    dirty1.line ∉ s14r.poison := by decide +kernel

theorem test_witness_retiring_unit : (s14r.meet? 0).map (fun m => m.fields.map fun f => decide (f.completed + 1 < f.teams)) = some [true] ∧
    t14.refs = [{ team := 0, who := .heat 0 0 }] ∧ (s14a.site? { team := 0, who := .heat 0 0 }).map (fun x => x.heat.ws) = some h14.ws ∧ t14.tmLayer = [] ∧
    (∀ l ∈ t14.sqLayer, l = []) ∧ s14a.wide = [] ∧ (h14.ws.map WsByte.pa).Nodup ∧
    ∀ b ∈ h14.ws, b.pack = none ∧ s14a.pathFault t14.cl.die b.pa = none ∧ b.pa / 64 ∉ s14a.poison := by decide +kernel

theorem test_witness_charges : ((SMap.set (placedMeet false).reports 0 ((SMap.get? (placedMeet false).sums 0).getD 0)).map Prod.snd).sum < (placedMeet false).budget ∧
    1000 ≤ ((SMap.set (placedMeet false).reports 0 ((SMap.get? [(0, 1000)] 0).getD 0)).map Prod.snd).sum ∧ (s10.tenant? 0).map Tenant.policy ≠ some .grace := by decide +kernel

/-- A later meet whose team fills the cluster's accumulator rows, which the waiting meet's team needs. -/
def s15 : State :=
  let big : Team := { t1 with id := 7, meet := 1, accrows := 2048, index := 3 }
  let m : Meet := { meet13 with fields := [{ field10 with teams := 70, handed := 6, placed := 1, handouts := [(0, 1, 5)], accrows := 64 }] }
  { s10 with meets := [m, { m with id := 1, deadline := 2000000, fields := [{ field10 with teams := 9, handed := 9, placed := 9, accrows := 2048 }] }], teams := [big] }

theorem test_witness_save_request : ∃ m v c d, s15.meet? 0 = some m ∧ s15.readyOn m 0 = true ∧ s15.victim m 0 = some v ∧ s15.cluster? v.cl = some c ∧
    c.saving = none ∧ s15.die? v.cl.die = some d ∧ d.savings < 6 := by
  refine ⟨_, { t1 with id := 7, meet := 1, accrows := 2048, index := 3 }, _, _, rfl, by decide +kernel, by decide +kernel, rfl, by decide +kernel, rfl, by decide +kernel⟩


/-! ### Witnesses: translations, saves, arrivals, swaps, coherence -/

theorem test_witness_translations : s1.ctx? 0 = some placedCtx ∧ placedCtx.walk s1.mem (s1.place 0) 64 = some (benchHit 0) ∧ (benchHit 0).allows .store = true ∧
    (1 : Word) ≠ placedCtx.gen ∧ 3 < s1.dies.length ∧ (s1.meets.map Meet.id).Nodup := by decide +kernel

/-- An entry of the fetch unit's structure for the bench's page, and a posted write through it. -/
def s23 : State :=
  { s1 with
    tlb := [{ tlb := .fetch { die := 0, loc := 0 }, ctx := 0, base := 0, size := 4096, leaf := BitVec.ofNat 128 (benchHit 0).leaf }]
    posted := [{ id := 5, by_ := some { team := 0, who := .heat 0 0 }, src := none, pa := 0x5040, bytes := [1], left := [1], pc := 0, tells := [], va := 64 }] }

theorem test_witness_shootdown : (5 : Nat) ∈ s23.postedThrough 0 [x1.tlb] 64 1 ∧ (5 : Nat) ∉ s23.postedThrough 0 [x1.tlb] 128 1 ∧ s1.posted = [] ∧
    ({ benchHit 0 with leaf := 0 } : Hit).allows .exec = false ∧ placedCtx.walk s1.mem (s1.place 0) 0x80000 = none := by decide +kernel

/-- A saved team that waits for a page. -/
def saved11 (page : Nat) : Team := { t1 with st := .saved, pages := [{ page := page, tries := 3, failed := false, done := false, users := [] }] }

theorem test_witness_page_response : (bench (saved11 0)).team? 0 = some (saved11 0) ∧ (placedCtx.walk (bench (saved11 0)).mem ((bench (saved11 0)).place 0) (4096 * 0)).isSome = true ∧
    placedCtx.walk (bench (saved11 7)).mem ((bench (saved11 7)).place 0) (4096 * 7) = none ∧ ∀ u ∈ (bench (saved11 7)).teams, u.ctx = 0 → ∀ q ∈ u.xfers, q.held ≠ some 7 := by decide +kernel

/-- The bench with frames for its context, and cluster 0 saving a team when one is named. -/
def framed (saving : Option Nat) (t : Team) : State :=
  let s := place none (bench t)
  { s with
    ctxs := [{ placedCtx with pools := [{ die := 0, base := 2 ^ 30, size := 2 ^ 24 }] }]
    dies := s.dies.modify 0 fun d => { d with
      clusPl := d.clusPl.set 0 (some 0), clusters := d.clusters.modify 0 fun c => { c with saving := saving } } }

theorem test_witness_save : (framed (some 0) t1).team? 0 = some t1 ∧ ((framed (some 0) t1).cluster? t1.cl).map Cluster.saving = some (some 0) ∧ t1.st = .resident ∧
    t1.arrayRests = true ∧ (framed (some 0) t1).frameFree t1 = true ∧ t1.awaitsArray = false := by decide +kernel

theorem test_witness_save_for_pages : { t1 with pages := [{ page := 7, tries := 0, failed := false, done := false, users := [] }] }.wantsPages = true := by decide +kernel

/-- A saved team that may come back. -/
def saved12 : Team := { t1 with st := .saved }

theorem test_witness_restore : ∃ v, (framed none saved12).team? 0 = some saved12 ∧ ((framed none saved12).cluster? saved12.cl).isSome = true ∧
    (framed none saved12).restorable saved12 = true ∧ (framed none saved12).meet? 0 = some (placedMeet false) ∧
    (framed none saved12).firstOn (placedMeet false) 0 = true ∧
    (∀ o ∈ (framed none saved12).teams, o.meet = 0 → o.field = 0 → o.id ≠ 0 → o.index < 0 → (framed none saved12).restorable o = false) ∧
    (framed none saved12).restoreTeam saved12 = some v :=
  have ⟨v, h⟩ := Option.isSome_iff_exists.mp (by decide +kernel : ((framed none saved12).restoreTeam saved12).isSome = true)
  ⟨v, by decide +kernel, by decide +kernel, by decide +kernel, by decide +kernel, by decide +kernel, by decide +kernel, h⟩

/-- A load of 4 bytes on its way to v3 of fibre 0. -/
def elem11 : FlightElem := { fibre := 0, reg := 3, ea := 64, index := 0, waits := .arrival, deliv := .words [77] }

def flight11 : Flight := { tag := 2, ord := 0, kind := .load, pc := 0, ty := .n32, rs := 0, acq := false, vol := true, rc := 0, elems := [elem11] }

/-- Its record: the value times 3 plus 1. -/
def baton11 : Baton := { tag := 2, part := 0, a := 3, b := 1, chain := [], st := .pending }

def h11 : Heat :=
  { h1 with
    fibres := some { fib [1, 7, 5] with regs := [.val 1, .val 7, .val 5, .bat baton11] ++ List.replicate 44 (.val 0) } :: List.replicate 31 none
    flights := [flight11] }

def t11 : Team := teamOf h11

theorem test_witness_arrival : (bench t11).site? { team := 0, who := .heat 0 0 } = some (seat t11 h11) ∧ (bench t11).residentUnit { team := 0, who := .heat 0 0 } = true ∧
    (h11.flights.find? fun g => g.tag = 2) = some flight11 ∧ (seat t11 h11).slot 0 3 = .bat baton11 ∧ baton11.value [77] = 232 := by decide +kernel

/-- A team with a load in flight, whose save is asked for. -/
theorem test_witness_save_in_flight : (framed (some 0) t11).team? 0 = some t11 ∧ t11.arrayRests = true ∧ (framed (some 0) t11).frameFree t11 = true ∧
    t11.awaitsArray = false ∧ (∀ h ∈ t11.heats, ∀ f ∈ h.flights, f.kind ≠ .fifoGet ∧ f.kind ≠ .accrd) ∧ t11.records ≠ [] := by decide +kernel

/-- The saved team whose frame awaits the value. -/
def saved13 : Team := { t11 with st := .saved, frame := [.await { team := 0, who := .heat 0 0 } 2 0 none] }

theorem test_witness_await : (bench saved13).site? { team := 0, who := .heat 0 0 } = some (seat saved13 h11) ∧ (bench saved13).team? 0 = some saved13 ∧
    ((bench saved13).cluster? saved13.cl).isSome = true ∧ (flight11.elems.find? fun e => e.fibre = 0) = some elem11 ∧
    FrameRec.await { team := 0, who := .heat 0 0 } 2 0 none ∈ saved13.frame := by decide +kernel

/-- A load of two fibres, of which the second meets a fault; the first holds the extended set, whose v130 has a record of the load too. -/
def flight12 : Flight := { flight11 with elems := [elem11, { elem11 with fibre := 1, deliv := .fault cause.poison 0x80 }] }

def h12x : Heat :=
  { h1 with
    fibres := some { fib [1, 7, 5] with regs := [.val 1, .val 7, .val 5, .bat baton11] ++ List.replicate 44 (.val 0) } ::
      some { fib [1, 7, 5] with regs := [.val 1, .val 7, .val 5, .bat baton11] ++ List.replicate 44 (.val 0) } :: List.replicate 30 none
    flights := [flight12] }

def t12x : Team :=
  { teamOf h12x with
    xregs := true
    xsets := [{ freeSet (some 0) with regs := [[.val 0, .val 0, .bat { baton11 with part := 0, a := 1, b := 0 }] ++ List.replicate 125 (.val 0), List.replicate 128 (.val 0)] }] }

theorem test_witness_arrivals : (bench t12x).site? { team := 0, who := .heat 0 0 } = some (seat t12x h12x) ∧
    (bench t12x).residentUnit { team := 0, who := .heat 0 0 } = true ∧ (h12x.flights.find? fun g => g.tag = 2) = some flight12 ∧
    (∀ el ∈ flight12.elems, el.waits = .arrival) ∧ (flight12.elems.map FlightElem.fibre).Nodup ∧ (seat t12x h12x).holdsX = true ∧
    (seat t12x h12x).slot 0 130 = .bat { baton11 with a := 1, b := 0 } ∧ (seat t12x h12x).slot 1 3 = .bat baton11 := by decide +kernel

/-- A team with a deferred trap. -/
def t12 : Team := { t1 with dtraps := [{ cause := cause.poison, inner := 0, pc := 0x10, info := 0x80, src := some (.heat 0 0) }] }

theorem test_witness_deferred : (trapping (bench t12)).teamRuns 0 = true ∧ (∃ d x is, (trapping (bench t12)).deliverable 0 = some (d, x, is) ∧
    (trapping (bench t12)).tvec x.team.ctx ≠ 0) :=
  ⟨by decide +kernel, _, _, _, rfl, by decide +kernel⟩

/-- Two heats of one track: one in the active set, which has issued 64 times, and one pending or active. -/
def t13 (act : Bool) : Team := { teamOf { h1 with run := 64 } with heats := [{ h1 with run := 64 }, { h1 with idx := 1, active := act, since := 1, age := 1, ready := some 0 }] }

/-- The same heats, and more up to a full active set. -/
def t13full : Team :=
  { t13 false with
    heats := [{ h1 with run := 64, long := true }, { h1 with idx := 1, active := false, since := 1, age := 1, ready := some 0 }] ++
      (List.range 7).map (fun k => { h1 with idx := k + 2, since := k + 2, age := k + 2 }) }

def seat13 (act : Bool) (k : Nat) (h : Heat) : Site := { u := { team := 0, who := .heat 0 k }, team := t13 act, heat := h }

theorem test_witness_forced_swap : { bench (t13 false) with now := 1024 }.runsOn 0 = true ∧
    longest (({ bench (t13 false) with now := 1024 }.pendingOn { cl := { die := 0, loc := 0 }, core := some 0, track := 0 }).filter fun x =>
      x.heat.ready.any fun r => r + { bench (t13 false) with now := 1024 }.span 0 1024 ≤ { bench (t13 false) with now := 1024 }.now) =
      some (seat13 false 1 { h1 with idx := 1, active := false, since := 1, age := 1, ready := some 0 }) ∧
    longest ({ bench (t13 false) with now := 1024 }.activeOn { cl := { die := 0, loc := 0 }, core := some 0, track := 0 }) =
      some (seat13 false 0 { h1 with run := 64 }) := by decide +kernel

theorem test_witness_pending_swap :
    longest ((bench (t13 false)).pendingOn { cl := { die := 0, loc := 0 }, core := some 0, track := 0 }) =
      some (seat13 false 1 { h1 with idx := 1, active := false, since := 1, age := 1, ready := some 0 }) ∧
    ((bench (t13 false)).activeOn { cl := { die := 0, loc := 0 }, core := some 0, track := 0 }).length < 8 ∧
    longest (s1.pendingOn { cl := { die := 0, loc := 0 }, core := some 0, track := 0 }) = none := by decide +kernel

theorem test_witness_blocked_swap :
    longest ((bench t13full).pendingOn { cl := { die := 0, loc := 0 }, core := some 0, track := 0 }) =
      some { u := { team := 0, who := .heat 0 1 }, team := t13full, heat := { h1 with idx := 1, active := false, since := 1, age := 1, ready := some 0 } } ∧
    8 ≤ ((bench t13full).activeOn { cl := { die := 0, loc := 0 }, core := some 0, track := 0 }).length ∧
    ((bench t13full).activeOn { cl := { die := 0, loc := 0 }, core := some 0, track := 0 }).find? Site.blocked =
      some { u := { team := 0, who := .heat 0 0 }, team := t13full, heat := { h1 with run := 64, long := true } } := by decide +kernel

theorem test_witness_rotation :
    (((bench (t13 true)).activeOn { cl := { die := 0, loc := 0 }, core := some 0, track := 0 }).find? fun x => 64 ≤ x.heat.run) =
      some (seat13 true 0 { h1 with run := 64 }) ∧
    ∃ b ∈ (bench (t13 true)).activeOn { cl := { die := 0, loc := 0 }, core := some 0, track := 0 }, b.u ≠ { team := 0, who := .heat 0 0 } ∧
      b.heat.ready.isSome :=
  ⟨by decide +kernel, seat13 true 1 { h1 with idx := 1, active := true, since := 1, age := 1, ready := some 0 }, by decide +kernel, by decide +kernel, rfl⟩

/-- A heat that owes two acknowledgements. -/
def h12 : Heat := { h1 with unacked := 2 }

theorem test_witness_acknowledgement : (bench (teamOf h12)).site? { team := 0, who := .heat 0 0 } = some (seat (teamOf h12) h12) ∧
    ((bench (teamOf h12)).posted.filter fun p => p.by_ = some { team := 0, who := .heat 0 0 }).length +
      ((bench (teamOf h12)).pubs.filter fun p => p.u = { team := 0, who := .heat 0 0 } ∧ (bench (teamOf h12)).now < p.till).length < h12.unacked := by decide +kernel

/-- Structures with one entry each, and a copy that a core holds. -/
def s24 : State :=
  { s1 with
    portDir := [{ region := 40, holders := [0], bcast := false }], snoopFl := [{ region := 321, holders := [3], bcast := false }]
    lines := [copy1 .seq], invals := [{ id := 9, base := 0x5040, size := 64, left := [3001] }] }

theorem test_witness_victims : s24.victimEntry s24.portDir = some ({ region := 40, holders := [0], bcast := false }, []) ∧
    s24.victimEntry s24.snoopFl = some ({ region := 321, holders := [3], bcast := false }, []) ∧ (s24.posted.find? fun q => q.id = 9) = none ∧ (3000 : Nat) ≤ 3001 ∧
    3001 ≠ heldAtHome ∧ ((copy1 .seq).level.holder < 2000) ∧ (∀ c ∈ s24.lines, c.line = 321 → c.level.die = 0 → c.dirtyBytes = [] ∧ c.chunk = none) := by
  decide +kernel

/-- A filter of cluster 0 with one line, held by core 0. -/
def filters11 : SMap (List Track) := [(0, [{ region := 321, holders := [0], bcast := false }])]

theorem test_witness_recall : SMap.get? { s1 with filters := filters11 }.filters (clusterNo { die := 0, loc := 0 }) =
      some [{ region := 321, holders := [0], bcast := false }] ∧
    { s1 with filters := filters11 }.victimEntry [{ region := 321, holders := [0], bcast := false }] = some ({ region := 321, holders := [0], bcast := false }, []) := by
  decide +kernel

/-- A write that waits for holders. -/
def post11 (left : List Nat) : Posted := { id := 5, by_ := none, src := none, pa := 0x5040, bytes := [1, 2], left := left, pc := 0, tells := [] }

theorem test_witness_posted : { s1 with posted := [post11 []] }.MemOk ∧ { s1 with posted := [post11 []] }.notifyVf 0x5040 = none ∧ (∀ k ∈ s1.answerersOf none (post11 []).lines, 3000 ≤ k) ∧
    (post11 []).pack = none ∧ ([post11 [1]].find? fun q => q.id = 5) = some (post11 [1]) ∧ 1 ∈ (post11 [1]).left :=
  ⟨mem1, by decide +kernel, by decide +kernel, rfl, by decide +kernel, by decide +kernel⟩

/-- The bench whose page has REACH SYSTEM (Table 9.5). -/
def s16 : State := { s1 with mem := Memory.write s1.mem 0x400C [64] }

theorem test_witness_external : s16.homeOf 0x5040 = some 0 ∧ (s16.die? 0).map Die.down = some false ∧ s16.notifyVf 0x5040 = none ∧
    s16.outside (.host 0) 0x5040 = true ∧ s16.poisoned 0x5040 4 = false ∧ (∀ n ∈ s16.snoops, n.line ≠ 0x5040 / 64) ∧ s16.recorded 0x5040 = .seq ∧
    s16.answerersOf (some (.host 0)) [0x5040 / 64] = [] ∧ 0x5040 / 64 ∉ s16.poison ∧ Memory.wf s16.mem = true := by decide +kernel

/-- An access of host 0 to the page of REACH SYSTEM. -/
def access16 (w : Bool) : ExtAccess := { src := .host 0, pa := 0x5040, bytes := [1, 2], write := w, size := 64 }

theorem test_witness_external_access : (access16 true).ctx = none ∧ s16.outside (access16 true).src 0x5040 = true ∧ (∀ y ∈ s16.outq, y.src ≠ .host 0) ∧ (∀ n ∈ s16.snoops, n.line ≠ 0x5040 / 64) ∧
    (∀ c, (access16 true).cls = some c → s16.classCheck 0x5040 c = .ok ()) ∧ s16.awaitsU 0x5040 = false ∧ (∀ p ∈ s16.posted, p.src ≠ some (.host 0)) ∧
    0x5040 % 64 + (access16 true).size ≤ 64 ∧ 0x5040 % 64 + (access16 true).bytes.length ≤ 64 :=
  ⟨rfl, by decide +kernel, by decide +kernel, by decide +kernel, fun _ h => (nomatch h), by decide +kernel, by decide +kernel, by decide, by decide⟩

theorem test_witness_requesters : s1.holdsPage 0 5 = true ∧ (State.resetOf .ks4x).holdsPage 0 5 = false ∧
    (({ s1 with changes := [{ page := 5, old := .stream, new := .phase }] } : State).changes.find? fun c => c.page = 5) = some { page := 5, old := .stream, new := .phase } ∧
    s1.clear none .stream (s1.changeLines 5 .phase) = true ∧ s1.changeWaits 5 = false := by decide +kernel

theorem test_witness_snoop : ({ line := 321, host := 0, held := [] } : Snoop) ∈ { s1 with snoops := [{ line := 321, host := 0, held := [] }] }.snoops ∧
    (∀ m ∈ { s1 with snoops := [{ line := 321, host := 0, held := [] }] }.snoops, m.line = 321 → m.host = 0 → m = { line := 321, host := 0, held := [] }) ∧
    (∀ p ∈ s1.posted, 321 ∉ p.lines) ∧ ([({ region := 40, holders := [0], bcast := false } : Track)].find? fun e => e.region = 321 / 8) =
      some { region := 40, holders := [0], bcast := false } := by decide +kernel

theorem test_witness_class_change : (∀ c ∈ s1.changes, c.page ≠ 5) ∧ ([({ page := 5, old := .stream, new := .phase } : ClassChg)].find? fun c => c.page = 5) =
    some { page := 5, old := .stream, new := .phase } ∧ ∀ p ∈ s1.posted, p.inPage 5 = false := by decide +kernel


/-! ### Witnesses: transfer engines and collectives -/

/-- The operation of handle 1 of a team. -/
def xfer15 (w : XferWork) (st : XferState) : Xfer :=
  { handle := 1, work := w, st := st, trg := some 7, u := { team := 0, who := .heat 0 0 }, fibre := 0, pc := 0, done := 0, wrote := 0, contribs := [],
    complete := [], held := none, asked := (0, 0), grans := [], till := 0, answer := none }

/-- Its team. -/
def t15 (x : Xfer) : Team := { teamOf h9 with xfers := [x], newest := 1, status := [(1, 0)] }

/-- Its bench. -/
def s17 (x : Xfer) : State := s9 bits8 bits9 (t15 x)

/-- A transfer of one element from address 128 to itself. -/
def tile15 (l : Option DWord) : XferWork := .tile record7 record7 [0, 0] [0, 0] l

theorem test_witness_armed : (s17 (xfer15 (tile15 none) (.armed { trig := 3, at_ := 0 }))).xfer? 0 1 =
      some (t15 (xfer15 (tile15 none) (.armed { trig := 3, at_ := 0 })), xfer15 (tile15 none) (.armed { trig := 3, at_ := 0 })) ∧
    (s17 (xfer15 (tile15 none) (.armed { trig := 3, at_ := 0 }))).teamRuns 0 = true ∧
    ((s17 (xfer15 (tile15 none) (.armed { trig := 3, at_ := 0 }))).trig { die := 0, loc := 0 } 3 - 0).toNat < 2 ^ 31 := by decide +kernel

theorem test_witness_timed : (tile15 (some 0)).launch = some 0 ∧ (0 : DWord).toNat ≤ (s17 (xfer15 (tile15 (some 0)) .timed)).clockOf 0 ∧
    (s17 (xfer15 (tile15 (some 0)) .timed)).teamRuns 0 = true := by decide +kernel

theorem moved_of {s : State} {x : Xfer} {src dst : TRec} {so dor : List Nat} {n : Nat} (h : (match (s.moveTile src dst so dor x n).2.2 with
      | none => true
      | some _ => false) = true) : ∃ u y, s.moveTile src dst so dor x n = (u, y, none) := by
  generalize hm : s.moveTile src dst so dor x n = m at h
  obtain ⟨u, y, o⟩ := m
  cases o with
  | none => exact ⟨u, y, rfl⟩
  | some => cases h

theorem test_witness_transfer : (s17 (xfer15 (tile15 none) .started)).site? { team := 0, who := .heat 0 0 } = some (seat (t15 (xfer15 (tile15 none) .started)) h9) ∧
    (s17 (xfer15 (tile15 none) .started)).gridFault (seat (t15 (xfer15 (tile15 none) .started)) h9) record7 = none ∧
    (∃ u y, (s17 (xfer15 (tile15 none) .started)).moveTile record7 record7 [0, 0] [0, 0] (xfer15 (tile15 none) .started) (record7.count - 0) = (u, y, none)) :=
  ⟨by decide +kernel, by decide +kernel, moved_of (by decide +kernel)⟩

/-- A transfer to a peer's memory that has sent its one element. -/
def peer15 : Xfer := { xfer15 (.tile record7 { record7 with grid := some 1 } [0, 0] [0, 0] none) .started with done := record7.count }

theorem test_witness_peer_transfer : (s17 peer15).xfer? 0 1 = some (t15 peer15, peer15) ∧ (s17 peer15).teamRuns 0 = true ∧
    (s17 peer15).site? peer15.u = some (seat (t15 peer15) h9) ∧ (t15 peer15).st ≠ .saved ∧ peer15.held = none ∧ ({ record7 with grid := some 1 } : TRec).grid ≠ none ∧
    record7.count ≤ peer15.done ∧ peer15.till ≤ (s17 peer15).now ∧ (t15 peer15).alive = true ∧ definedCause cause.protection = true ∧
    definedCause 0x10 = false ∧ definedCause 0x1D = false ∧ definedCause 0xFF = false := by decide +kernel

/-- A task packet of 64 bytes at address 64 under key slot 3. -/
def task15 : XferWork := .task 64 64 3

theorem packet_of {s : State} {y : Site} {a n : Nat} {p : State → Prop} [DecidablePred p] (h : (match s.readPacket y a n with
      | (.ok _, u) => decide (p u)
      | (.error _, _) => false) = true) : ∃ bs u, s.readPacket y a n = (.ok bs, u) ∧ p u := by
  generalize hm : s.readPacket y a n = m at h
  obtain ⟨o, u⟩ := m
  cases o with
  | ok bs => exact ⟨bs, u, rfl, of_decide_eq_true h⟩
  | error => cases h

theorem test_witness_packet : (s17 (xfer15 task15 .started)).site? { team := 0, who := .heat 0 0 } = some (seat (t15 (xfer15 task15 .started)) h9) ∧
    (∃ bs u, (s17 (xfer15 task15 .started)).readPacket (seat (t15 (xfer15 task15 .started)) h9) 64 (64 / 64) = (.ok bs, u) ∧ (u.team? 0).isSome ∧
      (u.expander? 0).isSome ∧ (u.keyOf 0 3 0).isSome) ∧
    ((s17 (xfer15 task15 .started)).keyOf 0 3 0).isSome = true ∧ PortTarget.cxl 0 ∉ (s17 (xfer15 task15 .started)).gone ∧ 0 ∉ (s17 (xfer15 task15 .started)).viral :=
  ⟨by decide +kernel, packet_of (by decide +kernel), by decide +kernel, by decide +kernel, by decide +kernel⟩

/-- The header of a packet (Table 24.2): deadline 4000, budget 1, flag at device address 0, image 9. -/
def body15 : List Byte := leBytes (4000 + 2 ^ 32 + 9 * 2 ^ 128) 64

/-- The packet as its sender sends it. -/
def packet15 : Packet := ({ ctx := 0, expander := 0, session := 1, key := 5, counter := 0 } : KeySlot).packet 0 1 0 3 body15

/-- An expander that knows the tenant and the image, with an extent for this package, and a packet on its way. -/
def node15 (live : List Session) : Expander :=
  { (State.reset.expander) with
    extents := [{ tenant := 0, host := 0, dpa := 0, size := 2 ^ 28 }]
    images := [{ tenant := 0, hash := 9, ctx := 0, kent := 0, text := 0, args := 0, part := 0 }]
    live := live
    arriving := [packet15] }

/-- The session, with its one key. -/
def live15 : Session := { id := 1, tenant := 0, keys := [(0, 5)] }

/-- The sender, and the expander at port 0. -/
def s18 (live : List Session) : State :=
  { s17 (xfer15 task15 .sent) with beyond := State.reset.beyond.set 0 (node15 live) }

theorem test_witness_packet_check : (s18 [live15]).expander? 0 = some (node15 [live15]) ∧ (node15 [live15]).arriving = [packet15] ∧ packet15.team = 0 ∧
    packet15.handle = 1 ∧ (s18 [live15]).packetFault (some 0) (node15 [live15]) packet15 = none ∧
    (node15 [live15]).session? packet15.session = some live15 := by decide +kernel

theorem test_witness_packet_refused : (s18 []).packetFault (some 0) (node15 []) packet15 = some cause.taskAuth := by decide +kernel

/-- The same packet as a node sends it. -/
def nodePacket15 : NodePacket :=
  { session := 1, bytes := packet15.bytes }

/-- A KS4-X that knows the session and the image. -/
def s18x : State := { State.resetOf .ks4x with expander := node15 [live15] }

theorem test_witness_node_packet : s18x.product = .ks4x ∧ nodePacket15.bytes.length = 64 ∧
    s18x.packetFault none s18x.expander (packetOf nodePacket15) = none ∧
    { s18x with expander := node15 [] }.packetFault none (node15 []) (packetOf nodePacket15) = some cause.taskAuth := by decide +kernel

theorem test_witness_answer : ((xfer15 task15 .sent).st = .sent ∧ (t15 (xfer15 task15 .sent)).alive = true) ∧ (t15 (xfer15 task15 .sent)).st ≠ .retired ∧
    (t15 (xfer15 task15 .sent)).dtraps.length < 16 := by decide +kernel

theorem test_witness_task_ran : s1.MemOk ∧ s1.product = .ks4n ∧ (s1.expander? 3).isSome ∧ PortTarget.cxl 3 ∉ s1.gone ∧ (64 : Nat) % 8 = 0 :=
  ⟨mem1, by decide +kernel, by decide +kernel, by decide +kernel, by decide⟩

/-! Collectives of a group of two members, of which this package is the first. -/

/-- Two members along x. -/
def group2 (self : Nat) : GroupEntry := { nx := 2, ny := 1, nz := 1, members := [0, 1], self := self }

/-- A local record and an output record, of group 0 and operation number 0, with a SPAN and a REPL (Table 26.2). -/
def loc15 (span repl : Nat) : TRec :=
  { grid := some (BitVec.ofNat 64 (2 ^ 62 + 8 * repl + span)), oobt := false, rank := 1, ty := .f32, ext := [0], stride := [4], dim := [32], base := 256 }

def out15 : TRec := { grid := none, oobt := false, rank := 1, ty := .f32, ext := [0], stride := [4], dim := [32], base := 512 }

/-- A sum of generation 1. -/
def coll15 (span repl : Nat) : XferWork := .coll (loc15 span repl) out15 [0] 3 0 64 1

/-- The bench of an operation in a group with a last generation and members that have not completed it. -/
def s19 (self last : Nat) (left : List Nat) (x : Xfer) : State :=
  { s17 x with ctxs := [{ placedCtx with groups := [(0, { entry := group2 self, last := [(0, last)], open_ := [(0, left)] })] }] }

/-- Its instance. -/
def inst15 (self span repl : Nat) : Inst :=
  { loc := loc15 span repl, out := out15, org := [0], op := 3, comp := 0, thr := 64, ctx := 0, group := 0, cid := 0, gen := 1, ent := group2 self,
    sub := subgroupOf (group2 self) span, src := originOf (group2 self) span, dlv := deliveryOf (group2 self) span repl }

theorem test_witness_instance : (s19 0 0 [] (xfer15 (coll15 1 1) .started)).xfer? 0 1 = some (t15 (xfer15 (coll15 1 1) .started), xfer15 (coll15 1 1) .started) ∧
    (s19 0 0 [] (xfer15 (coll15 1 1) .started)).inst? (t15 (xfer15 (coll15 1 1) .started)) (xfer15 (coll15 1 1) .started) = some (inst15 0 1 1) ∧
    ((s19 0 0 [] (xfer15 (coll15 1 1) .started)).group? 0 0).isSome = true ∧ verdict 0 1 [] = .starts ∧ verdict 1 1 [1] = .busy ∧ verdict 1 1 [] = .refused ∧
    verdict 65535 1 [0] = .busy ∧ verdict 65535 1 [] = .starts := by decide +kernel

/-- Member 1 of a broadcast (operator 0) along x, which needs only member 0's tile. -/
def cast15 : XferWork := .coll (loc15 1 1) out15 [0] 0 0 64 1

theorem test_witness_buffers : firstDue (s19 1 1 [] (xfer15 cast15 .waitBuffer)).collWaiting = some (0, xfer15 cast15 .waitBuffer) ∧
    (s19 1 1 [] (xfer15 cast15 .waitBuffer)).collBytes + 2 * (loc15 1 1).bytes ≤ 2 ^ 26 ∧ ({ inst15 1 1 1 with op := 0 } : Inst).reads = false ∧
    (s19 1 1 [] (xfer15 cast15 .waitBuffer)).inst? (t15 (xfer15 cast15 .waitBuffer)) (xfer15 cast15 .waitBuffer) = some { inst15 1 1 1 with op := 0 } := by
  decide +kernel

theorem test_witness_contribution_arrives : 1 ∈ (inst15 0 1 1).needs ∧ (inst15 0 1 1).delivers = true ∧
    (s19 0 1 [0, 1] (xfer15 (coll15 1 1) .running)).collFor 0 0 0 1 (fun y => y.st = .running) = some (0, xfer15 (coll15 1 1) .running, inst15 0 1 1) ∧
    (s19 0 1 [0, 1] (xfer15 (coll15 1 1) .waitBuffer)).collFor 0 0 0 1 (fun y => y.st = .running) = none ∧
    ((s19 0 1 [0, 1] (xfer15 (coll15 1 1) .waitBuffer)).collFor 0 0 0 1 fun y => y.st = .waitBuffer).isSome = true := by decide +kernel

/-- Member 1 of a group reads no tile and delivers none in a broadcast to member 0 alone. -/
theorem test_witness_bystander : ({ inst15 1 1 0 with op := 0 } : Inst).delivers = false ∧ ({ inst15 1 1 0 with op := 0 } : Inst).reads = false := by decide +kernel

/-- The operation with both tiles, whose other member has completed. -/
def ready15 : Xfer :=
  { xfer15 (coll15 1 1) .running with contribs := [(0, .dense [1]), (1, .pairs [(0, 2)])], complete := [1], agreed := [1], part := [0x7FC00000] }

theorem written_of {s : State} {n : Inst} {el : Nat → Nat} {x : Xfer} {k : Nat} (h : (match (s.collWrite n el x k).2.2 with
      | none => true
      | some _ => false) = true) : ∃ u y, s.collWrite n el x k = (u, y, none) := by
  generalize hm : s.collWrite n el x k = m at h
  obtain ⟨u, y, o⟩ := m
  cases o with
  | none => exact ⟨u, y, rfl⟩
  | some => cases h

theorem test_witness_completion : (s19 0 1 [0] ready15).inst? (t15 ready15) ready15 = some (inst15 0 1 1) ∧ (inst15 0 1 1).agrees ready15 = true ∧
    (∃ p ∈ ready15.contribs, p.1 = 0) ∧ (inst15 0 1 1).ready ready15 = true ∧
    ∃ u y, (s19 0 1 [0] ready15).collWrite (inst15 0 1 1) ((inst15 0 1 1).result ready15) ready15 ((inst15 0 1 1).out.count - 0) = (u, y, none) :=
  ⟨by decide +kernel, by decide +kernel, ⟨(0, .dense [1]), by decide, rfl⟩, by decide +kernel, written_of (by decide +kernel)⟩

/-- Member 1 of a sum that member 0 alone gets, which has sent its tile. -/
def sent15 : Xfer := { xfer15 (coll15 1 0) .running with contribs := [(1, .dense [1])], complete := [0], agreed := [0] }

theorem test_witness_sender : ((s19 1 1 [1] sent15).inst? (t15 sent15) sent15).map (fun n => (n.agrees sent15, decide (∀ m ∈ n.dlv, m ∈ sent15.complete))) =
    some (true, true) ∧ (inst15 1 1 0).delivers = false ∧ (inst15 1 1 0).reads = true := by decide +kernel

theorem test_witness_entries : sameEntry (group2 1) (group2 0) = true ∧ sameEntry { group2 1 with members := [0, 2] } (group2 0) = false ∧
    (s19 0 1 [0, 1] (xfer15 (coll15 1 1) .running)).goneDevices = [] ∧ (placedCtx.held = []) ∧ (1 : Nat) ∈ (inst15 0 1 1).sub := by decide +kernel


/-! ### Witnesses: errors, power, monitors, resets -/

/-- A dirty line of class PRIV, owned by tag 4 of context 0, whose meet has ended. -/
def s20 : State := { s1 with lines := [{ dirty1 with owner := 4 }], owners := [(4, 0)], meets := [] }

theorem test_witness_writeback : (s20.lines.filter fun l => l.line = 321 && decide (l.level.die = 0) && !l.dirtyBytes.isEmpty) = [{ dirty1 with owner := 4 }] ∧
    SMap.get? s20.owners (4 : BitVec 16).toNat = some 0 ∧ s20.ctx? 0 = some placedCtx ∧ s20.openMeets 0 = [] := by decide +kernel

/-- A bench whose page lies behind a window to port 2. -/
def s21 : State :=
  { s1 with dies := s1.dies.modify 0 fun d => { d with windows := d.windows.set 0 (some { base := 0, size := 2 ^ 28, target := .cxl 2, stale := false }) } }

theorem test_witness_ports : s21.maps placedCtx (fun r => s21.behind r (.cxl 2)) = true ∧ placedCtx ∈ s21.ctxs ∧ s21.team? 0 = some t1 ∧ t1.ctx = 0 ∧ t1.st ≠ .retired ∧
    t1.alive = true ∧ t1.dtraps.length < 16 ∧ PortTarget.cxl 2 ≠ .host := by decide +kernel

theorem test_witness_power : State.reset.die? 3 = some Die.reset ∧ s1.busyDie 0 = true ∧ State.reset.busyDie 3 = false ∧ Die.reset.power = .active ∧
    s10.meetOn 0 = true ∧ State.reset.meetOn 3 = false ∧ (∀ c ∈ State.reset.ctxs, State.reset.maps c (fun r => r.on State.reset 3) = false) ∧
    ({ Die.reset with power := .doze } : Die).power = .doze ∧ Die.reset.coreUp 4 = true ∧
    ({ Die.reset with cps := Die.reset.cps.modify 4 fun c => { c with failed := true } } : Die).coreUp 4 = false := by decide +kernel

theorem test_witness_monitors : Die.reset.temps[47]? = some { reading := 0, warn := none, trip := 880 } ∧
    Die.reset.droops[31]? = some { count := 0, deepest := 0, depth := none, warn := none } ∧ Die.reset.procs[15]? = some { count := 0, warn := none } ∧
    State.reset.die? 0 = some Die.reset ∧ (0 : Int) ≤ 500 ∧ (880 : Int) < 881 := by decide +kernel

theorem test_witness_droop : ({ Die.reset with droops := Die.reset.droops.set 31 { count := 0, deepest := 0, depth := some 50, warn := none } } : Die).droops[31]? =
    some { count := 0, deepest := 0, depth := some 50, warn := none } := by decide +kernel

theorem test_witness_warning : ({ Die.reset with temps := Die.reset.temps.set 0 { reading := 10, warn := some 20, trip := 880 } } : Die).temps[0]? =
    some { reading := 10, warn := some 20, trip := 880 } := by decide +kernel

theorem test_witness_warm_reset : State.reset.heir 0 = some 1 ∧ Die.reset.offline = false ∧ Die.reset.power ≠ .off ∧ State.reset.neighbourDown 0 = false ∧
    Die.reset.adopter = none ∧ State.reset.inFlight 0 = false ∧ (∀ t ∈ State.reset.teams, t.cl.die = 0 → t.st ≠ .resident) ∧
    { State.reset with posted := [{ post11 [1] with cp := some 0 }] }.inFlight 0 = true := by decide +kernel

theorem test_witness_firmware_complex : (State.reset.withDie 3 { Die.reset with offline := true } []).die? 3 = some { Die.reset with offline := true } ∧
    Die.reset.cps[7]? = some { mailbox := [], failed := false } ∧ Die.reset.able = true ∧
    Die.reset.beatAt + 100000 ≤ { State.reset with hubClock := 100000 }.hubClock ∧ { State.reset with hubClock := 100000 }.heir 0 = some 1 := by decide +kernel

/-- A saved team with its clocks. -/
def saved14 : Team := { t1 with st := .saved, clocks := some { die := 5, hub := 9, starts := 0 } }

theorem test_witness_migration : (∀ t ∈ (bench saved14).teams, t.ctx = 0 → t.st ≠ .resident) ∧ saved14 ∈ (bench saved14).teams ∧ saved14.clocks = some { die := 5, hub := 9, starts := 0 } := by
  decide +kernel


/-! ### One step, with results worked out from the rule that each test names -/

/-- The register after an instruction, in a bench whose fibre 0 holds the given values. -/
def after (i : Instr) (vs : List Word) (r : Nat) : Option Slot :=
  match exec i (bench (teamOf (heatOf [fib vs]))) with
  | .next t => (t.site? { team := 0, who := .heat 0 0 }).map fun x => x.slot 0 r
  | _ => none

/-- The fibre after it. -/
def fibreAfter (i : Instr) (s : State) : Option Fibre :=
  match exec i s with
  | .next t => (t.site? { team := 0, who := .heat 0 0 }).bind fun x => x.heat.fibre? 0
  | _ => none

/-- R191: the sum is reduced modulo 2^32. -/
theorem test_add_wraps : after (.add 1 2 3) [0, 0xFFFFFFFF, 3] 3 = some (.val 2) := by decide +kernel
/-- R191: a saturating sum of s32 stops at the largest value. -/
theorem test_add_saturates : after (.addExt { plainExt 1 3 2 .s32 with mod := 1 }) [0, 0x7FFFFFFF, 3] 3 = some (.val 0x7FFFFFFF) := by decide +kernel
/-- R192: the borrow goes to the guard. -/
theorem test_subb_borrows : after (.subbExt { plainExt 1 3 2 .n32 with c := 4 }) [0, 2, 3] 0 = some (.val 16) := by decide +kernel
/-- R193: a register that is also the source holds the high word of a signed product. -/
theorem test_mulh_signed : after (.mulhExt (plainExt 1 1 2 .s32)) [0, 0xFFFFFFFF, 5] 1 = some (.val 0xFFFFFFFF) := by decide +kernel
/-- R195: the remainder takes the sign of the dividend. -/
theorem test_rem_sign : after (.remExt (plainExt 1 3 2 .s32)) [0, 0xFFFFFFF9, 2] 3 = some (.val 0xFFFFFFFF) := by decide +kernel
/-- R195: division by zero of an n type gives all ones. -/
theorem test_div_by_zero : after (.divExt (plainExt 1 3 2 .n32)) [0, 9, 0] 3 = some (.val 0xFFFFFFFF) := by decide +kernel
/-- R197: the count is taken modulo the width. -/
theorem test_shl_count : after (.shl 2 1 3) [0, 3, 33] 3 = some (.val 6) := by decide +kernel
/-- R198: a field of an s type is sign-extended. -/
theorem test_bfx_signed : after (.bfx { plainExt 1 3 0 .s32 with osel := 1, imm := 0x0404 }) [0, 0xF0] 3 = some (.val 0xFFFFFFFF) := by decide +kernel
/-- R198: bits of a replace bits of c from the position on. -/
theorem test_bfi : after (.bfi { plainExt 1 3 0 .b32 with osel := 1, imm := 0x0808, c := 2 }) [0, 0xFF, 0x12345678] 3 = some (.val 0x1234FF78) := by
  decide +kernel
/-- R155: a branch to two words before its own address wraps in the 56-bit address space. -/
theorem test_bra_back : (fibreAfter (.bra (BitVec.ofInt 23 (-2))) s1).map Fibre.pc = some (BitVec.ofInt 56 (-8)) := by decide +kernel
/-- R212: the link holds the address after a short CALL. -/
theorem test_call_link : (fibreAfter (.call 4) s1).map (fun f => f.regs[14]?) = some (some (.val 4)) := by decide +kernel
/-- R352, R316: a trap enters the handler, and %epc is the address after TRAP. -/
theorem test_trap_enters : (fibreAfter (.trap 5) (trapping s1)).map (fun f => (f.handler, f.pc, f.epc)) = some (true, 0x40, 4) := by decide +kernel
/-- R317: ERET goes to %epc and leaves handler state. -/
theorem test_eret_returns : (fibreAfter .eret (bench (teamOf h10))).map (fun f => (f.handler, f.pc)) = some (false, 0x20) := by decide +kernel

/-- The byte at an address after an instruction. -/
def byteAfter (i : Instr) (s : State) (pa : Nat) : Option Byte :=
  match exec i s with
  | .next t => some (Memory.get t.mem pa)
  | _ => none

/-- Byte order of 00_scope.md: a store puts the low byte at the lower address. -/
theorem test_store_bytes : byteAfter (.stExt { st1 with a := 6, d := 2 }) (bench (teamOf (heatOf [fib [1, 0, 0x11223344, 0, 0, 0, 64, 0]]))) 0x5040 = some 0x44 ∧
    byteAfter (.stExt { st1 with a := 6, d := 2 }) (bench (teamOf (heatOf [fib [1, 0, 0x11223344, 0, 0, 0, 64, 0]]))) 0x5043 = some 0x11 := by decide +kernel
/-- R232: a load of one byte at offset 3 of the code word 0x02000000 gives its highest byte. -/
theorem test_load_byte : after (.ldExt { plainExt 6 3 0 .s8 with osel := 1, imm := 3 }) [1, 0, 0, 0, 0, 0, 0, 0] 3 = some (.val 2) := by decide +kernel
/-- R239: an atomic addition returns the old value. -/
theorem test_amo_returns_old : after (.amo { plainExt 6 3 1 .n32 with x := 0 }) [1, 9, 0, 0, 0, 0, 0, 0] 3 = some (.val 0x02000000) := by decide +kernel

end Sys2Proof.Tests
end

section
/-!
SUPPORT. An instruction that issues and goes on: the unit with its issue accounted and its batch at the next instruction, what the machine is
when such a unit is put back, and the operations on the masks of a heat (R34, R36, R37, R215).
-/

namespace Sys2Proof.Machine

/-! ### The unit after an issue that goes on -/

/-- The unit with its issue accounted and its batch at the next instruction. -/
def State.issued (s : State) (x : Site) : Site := (s.account x).2.advance s.cur.batch s.cur.len

/-- The unit as it stands in its team once it has been put back. -/
def Site.putBack (z : Site) : Site := { z with team := z.team.setHeat z.u.who z.heat }

theorem State.issued_eq (s : State) (x : Site) :
    s.issued x = { x with
      team := { x.team with counters := (s.issued x).team.counters }
      heat := { x.heat with fibres := (s.issued x).heat.fibres, issued := x.heat.issued + 1, run := x.heat.run + 1,
                            waiting := false, long := false, tried := false } } := by
  unfold State.issued Site.advance
  rw [Site.updFibres_eq, State.account_snd]

theorem State.issued_fibre? {s : State} (x : Site) (hb : s.cur.batch.Nodup) (k : Nat) :
    (s.issued x).heat.fibre? k = (x.heat.fibre? k).map fun f =>
      { f with pc := Site.nextPc s k f, last := x.lastOf s k f, waits := Site.waitsOf s k f } := by
  unfold State.issued
  rw [Site.fibre?_advance _ _ hb, State.account_fibre?]
  by_cases hk : k ∈ s.cur.batch
  · simp [hk, Site.nextPc, Site.lastOf, Site.waitsOf, Function.comp_def]
  · simp [hk, Site.nextPc, Site.lastOf, Site.waitsOf]

@[simp] theorem State.issued_u (s : State) (x : Site) : (s.issued x).u = x.u := by rw [State.issued_eq]
@[simp] theorem State.issued_squad (s : State) (x : Site) : (s.issued x).heat.squad = x.heat.squad := by rw [State.issued_eq]
@[simp] theorem State.issued_idx (s : State) (x : Site) : (s.issued x).heat.idx = x.heat.idx := by rw [State.issued_eq]
@[simp] theorem State.issued_masks (s : State) (x : Site) : (s.issued x).heat.masks = x.heat.masks := by rw [State.issued_eq]

theorem State.issued_team (s : State) (x : Site) : (s.issued x).team = { x.team with counters := (s.issued x).team.counters } :=
  congrArg Site.team (State.issued_eq s x)

/-- Two heats with a live fibre in the same slots have the same live mask. -/
theorem Heat.live_congr {h g : Heat} (hf : ∀ k, (g.fibre? k).isSome = (h.fibre? k).isSome) : g.live = h.live := by
  unfold Heat.live
  simp only [hf]

theorem State.issued_live {s : State} (x : Site) (hb : s.cur.batch.Nodup) : (s.issued x).heat.live = x.heat.live :=
  Heat.live_congr fun k => by rw [State.issued_fibre? x hb, Option.isSome_map]

@[simp] theorem account_msetValue (s : State) (x : Site) (e : Ext) (is : List Nat) : (s.account x).2.msetValue e is = x.msetValue e is := by
  unfold Site.msetValue
  rw [account_word]

/-- Putting back, after its issue is accounted, the unit that issues: of its team only its counters and what the effect has changed differ, and
of the package nothing but the team and the charge to its meet. -/
theorem State.put_own {s : State} {x z : Site} (h : s.here = some x) (hu : z.u = x.u) (hid : z.team.id = x.team.id)
    (hh : z.team.heats = x.team.heats) (hp : z.team.pacer = x.team.pacer) (hs : z.heat.squad = x.heat.squad) (hi : z.heat.idx = x.heat.idx) :
    Own s ((s.account x).1.put z) x z.putBack := by
  have hsite : (s.account x).1.site? s.cur.u = some x := by
    rw [State.account_fst]
    exact h
  have hxu : x.u = s.cur.u := (State.site?_some hsite).1
  have hzu : z.u = s.cur.u := hu.trans hxu
  obtain ⟨hfound, hunits, hteams⟩ := State.put_spec hsite hu hid hh hp hs hi
  constructor
  case here => rw [hfound, Site.putBack, hzu]
  case rest => rw [State.account_fst]; rfl
  case teams =>
    intro id hne
    rw [hteams id hne, State.account_fst]
    rfl
  case meets => exact fun id hne => State.account_meet? s x id hne
  case units =>
    intro w hw
    rw [Site.putBack, hzu]
    exact hunits w (hxu ▸ hw)

/-- Putting back a unit of whose team only the counters have changed changes the team's heats and pacer besides. -/
theorem Site.putBack_team {x z : Site} (h : z.team = { x.team with counters := z.team.counters }) :
    z.putBack.team = { x.team with heats := z.putBack.team.heats, pacer := z.putBack.team.pacer, counters := z.putBack.team.counters } := by
  rw [Site.putBack, Team.setHeat_eq, h]

/-! ### Masks of a heat (R36, R37) -/

/-- The heat g is h after mask m has taken the value w: where it is empty, the fibres that wait on it run again if `frees` says so; where it is not, the
fibres of a set wait on it if `waits` says so. -/
structure Heat.MaskTo (h g : Heat) (m : Nat) (w : Word) (waits frees : Bool) (is : List Nat) : Prop where
  rest : g = { h with fibres := g.fibres, masks := h.masks.set m w }
  empty : w = 0 → ∀ k, g.fibre? k = (h.fibre? k).map fun f => { f with waitOn := if frees ∧ f.waitOn = some m then none else f.waitOn }
  held : w ≠ 0 → ∀ k, g.fibre? k = (h.fibre? k).map fun f => { f with waitOn := if waits ∧ k ∈ is then some m else f.waitOn }

theorem Heat.fibre?_release (h : Heat) (m k : Nat) :
    (h.release m).fibre? k = (h.fibre? k).map fun f => { f with waitOn := if f.waitOn = some m then none else f.waitOn } := by
  unfold Heat.release Heat.fibre?
  rw [List.getElem?_map]
  rcases h.fibres[k]? with _ | _ | f
  · rfl
  · rfl
  · simp only [Option.map_some, Option.join_some]
    split <;> rfl

/-- Setting a mask makes no fibre wait on it, and releases its waiters where it is empty. -/
theorem Heat.maskTo_putMask (h : Heat) (m : Nat) (w : Word) (is : List Nat) : h.MaskTo (h.putMask m w) m w false true is := by
  unfold Heat.putMask
  by_cases hw : w = 0
  · rw [if_pos hw]
    exact ⟨rfl, fun _ k => by rw [Heat.fibre?_release]; simp [Heat.fibre?], fun h => absurd hw h⟩
  · rw [if_neg hw]
    exact ⟨rfl, fun h => absurd h hw, fun _ k => by simp [Heat.fibre?]⟩

/-- The fibres of a set wait on a mask. -/
def Heat.park (h : Heat) (m : Nat) (is : List Nat) : Heat := is.foldl (fun h i => h.updFibre i fun f => { f with waitOn := some m }) h

theorem Heat.waitm_eq_park (h : Heat) (m : Nat) (is : List Nat) : h.waitm m is = if h.masks.getD m 0 = 0 then h else h.park m is := rfl

theorem Heat.park_eq (h : Heat) (m : Nat) (is : List Nat) : h.park m is = { h with fibres := (h.park m is).fibres } := by
  unfold Heat.park
  induction is generalizing h with
  | nil => rfl
  | cons i r ih =>
    rw [List.foldl_cons, ih (h.updFibre i _)]
    rfl

theorem Heat.fibre?_park (h : Heat) (m : Nat) (is : List Nat) (k : Nat) :
    (h.park m is).fibre? k = (h.fibre? k).map fun f => { f with waitOn := if k ∈ is then some m else f.waitOn } := by
  unfold Heat.park
  induction is generalizing h with
  | nil => simp
  | cons i r ih =>
    rw [List.foldl_cons, ih, Heat.fibre?_updFibre]
    by_cases hik : i = k
    · simp [hik, Function.comp_def]
    · simp [hik, Ne.symm hik]

/-- Writing back what a look-up with a default gives changes no list, whether the place is there or not. -/
theorem set_getD_self {α : Type} (l : List α) (m : Nat) (d : α) : l.set m (l.getD m d) = l := by
  by_cases h : m < l.length
  · rw [List.getD_eq_getElem _ _ h, List.set_getElem_self]
  · exact List.set_eq_of_length_le (Nat.le_of_not_lt h)

/-- WAITM leaves every mask as it was: its fibres wait on a mask that is not empty. -/
theorem Heat.maskTo_waitm (h : Heat) (m : Nat) (is : List Nat) : h.MaskTo (h.waitm m is) m (h.masks.getD m 0) true false is := by
  rw [Heat.waitm_eq_park]
  by_cases hw : h.masks.getD m 0 = 0
  · rw [if_pos hw]
    exact ⟨by rw [set_getD_self], fun _ k => by simp, fun h => absurd hw h⟩
  · rw [if_neg hw]
    exact ⟨by rw [set_getD_self]; exact h.park_eq m is, fun h => absurd h hw, fun _ k => by simp [Heat.fibre?_park]⟩

/-- The mask that LEAVE has set reads as its new value; a mask that is not there reads as empty before and after. -/
theorem Heat.leave_mask (h : Heat) (m : Nat) (is : List Nat) :
    (h.leave m is).masks.getD m 0 = h.masks.getD m 0 &&& ~~~(slotMask is) := by
  rw [Heat.leave, (h.maskTo_putMask m _ is).rest]
  by_cases hm : m < h.masks.length
  · simp [hm]
  · simp [Nat.le_of_not_lt hm]

/-- JOIN is LEAVE and then WAITM. -/
theorem Heat.maskTo_join (h : Heat) (m : Nat) (is : List Nat) :
    h.MaskTo ((h.leave m is).waitm m is) m (h.masks.getD m 0 &&& ~~~(slotMask is)) true true is := by
  have hl : h.MaskTo (h.leave m is) m _ false true is := h.maskTo_putMask m _ is
  have hw := (h.leave m is).maskTo_waitm m is
  rw [h.leave_mask] at hw
  generalize h.masks.getD m 0 &&& ~~~(slotMask is) = w at hl hw ⊢
  constructor
  case rest => rw [hw.rest, hl.rest, List.set_set]
  case empty =>
    intro h0 k
    rw [hw.empty h0, hl.empty h0]
    simp [Function.comp_def]
  case held =>
    intro h0 k
    rw [hw.held h0, hl.held h0]
    simp

/-! ### JOIN, LEAVE, WAITM and MSET (R215) -/

/-- The operation of each mask mnemonic. -/
def maskOpOf : Mn → Option (Ext → State → Out)
  | .join => some opJoin
  | .leave => some opLeave
  | .waitm => some opWaitm
  | .mset => some opMset
  | _ => none

/-- Both forms of a mask instruction, the short and the extended, have its operation as their meaning. -/
theorem exec_of_maskOpOf {i : Instr} {m : Mn} {e : Ext} {op : Ext → State → Out} (hi : i.shape = .form m e) (ho : maskOpOf m = some op) (s : State) :
    exec i s = op e s := by
  cases i with
  | join | joinExt | leave | leaveExt | waitm | waitmExt | mset | msetExt => cases hi; cases ho; rfl
  | _ => cases hi <;> cases ho

/-- The outcome of a mask operation: mask m of the issuing unit has taken the value w, its batch stands at the next instruction, and nothing else of the
unit has changed but the count of its issues. -/
def MaskOutcome (o : Out) (s : State) (x : Site) (is : List Nat) (m : Nat) (w : Word) (waits frees : Bool) : Prop :=
  ∃ t y, o = .next t ∧ Own s t x y ∧
    y.team = { x.team with heats := y.team.heats, pacer := y.team.pacer, counters := y.team.counters } ∧
    (s.issued x).heat.MaskTo y.heat m w waits frees is

/-- A mask operation that issues has the effect on the heat that it states, the batch having advanced. -/
theorem maskOp_outcome {s : State} {x : Site} {is : List Nat} {e : Ext} {us : List Use} {f : Site → List Nat → Heat → Heat} {m : Nat} {w : Word}
    {waits frees : Bool} (h : Issues s x is e.guard us)
    (hf : (s.issued x).heat.MaskTo (f (s.account x).2 is (s.issued x).heat) m w waits frees is) :
    MaskOutcome (maskOp e us f s) s x is m w waits frees := by
  have hteam := State.issued_team s x
  refine ⟨_, _, ?next, State.put_own (z := { s.issued x with heat := f (s.account x).2 is (s.issued x).heat }) h.here (State.issued_u s x)
    (congrArg Team.id hteam :) (congrArg Team.heats hteam :) (congrArg Team.pacer hteam :) ?squad ?idx, Site.putBack_team hteam, hf⟩
  case next =>
    rw [maskOp, issue_eq h, account_cur]
    rfl
  case squad => exact (congrArg Heat.squad hf.rest).trans (State.issued_squad s x)
  case idx => exact (congrArg Heat.idx hf.rest).trans (State.issued_idx s x)

/-- JOIN, LEAVE, WAITM and MSET have the outcome that the statement's table gives them: masks, live fibres and operands are, after the account and the
advance, those of the unit before. -/
theorem maskResult_outcome {i : Instr} {m : Mn} {e : Ext} {s : State} {x : Site} {is : List Nat} {us : List Use} {w : Word} {waits frees : Bool}
    (hi : i.shape = .form m e) (hr : maskResult m e x is = some (us, w, waits, frees)) (h : Issues s x is e.guard us) :
    MaskOutcome (exec i s) s x is (maskOf e) w waits frees := by
  cases m with
  | join =>
    cases hr
    rw [exec_of_maskOpOf hi rfl, ← State.issued_masks s x]
    exact maskOp_outcome h (Heat.maskTo_join _ _ _)
  | leave =>
    cases hr
    rw [exec_of_maskOpOf hi rfl, ← State.issued_masks s x]
    exact maskOp_outcome h (Heat.maskTo_putMask _ _ _ _)
  | waitm =>
    cases hr
    rw [exec_of_maskOpOf hi rfl, ← State.issued_masks s x]
    exact maskOp_outcome h (Heat.maskTo_waitm _ _ _)
  | mset =>
    cases hr
    rw [exec_of_maskOpOf hi rfl, ← State.issued_live x h.once, ← account_msetValue s]
    exact maskOp_outcome h (Heat.maskTo_putMask _ _ _ _)
  | _ => cases hr

/-- Settles O13: each of the four operations has its mask outcome, read back through what accounting the issue and advancing the batch leave. -/
theorem maskOperations : Obligations.MaskOperations := by
  intro i m e s x is us w waits frees hi hr h
  obtain ⟨t, y, hexec, hown, hteam, hmask⟩ := maskResult_outcome hi hr h
  refine ⟨t, y, hexec, hown, hteam, ?_, fun k => ?_⟩
  · rw [hmask.rest, State.issued_eq]
    rfl
  · by_cases hw : w = 0
    · rw [hmask.empty hw, State.issued_fibre? x h.once, Option.map_map]
      simp only [if_pos hw]
      rfl
    · rw [hmask.held hw, State.issued_fibre? x h.once, Option.map_map]
      simp only [if_neg hw]
      rfl

end Sys2Proof.Machine
end

section
/-!
SUPPORT. What decoding answers, check by check: the words that no check passes, and what a decoded instruction has passed (R150, R167, R170).
-/

namespace Sys2Proof.Machine

/-! ### Words that decode to ILLEGAL_INSTRUCTION -/

theorem decode_zero (k : UnitKind) (r : List Word) : decode k (0 :: r) = .illegal := by
  rw [decode, if_pos rfl]

theorem decode_of_reservedOp {w : Word} (h : reservedOp (w.extractLsb' 2 7) = true) (k : UnitKind) (r : List Word) : decode k (w :: r) = .illegal := by
  simp only [decode, if_pos h, ite_self]

theorem decode_of_mnOf_eq_none {w : Word} (h : mnOf (w.extractLsb' 2 7) (w.extractLsb' 25 7) = none) (k : UnitKind) (r : List Word) :
    decode k (w :: r) = .illegal := by
  simp only [decode, h, ite_self]

/-- The opcodes that the tables reserve are those that the decoder refuses before it reads a function code. -/
theorem reservedOp_iff (op : BitVec 7) :
    reservedOp op = true ↔ (0x3D ≤ op.toNat ∧ op.toNat ≤ 0x47) ∨ (0x65 ≤ op.toNat ∧ op.toNat ≤ 0x67) ∨ (0x7C ≤ op.toNat ∧ op.toNat ≤ 0x7F) := by
  have hop : op.toNat < 128 := op.isLt
  simp only [reservedOp, Bool.or_eq_true, Bool.and_eq_true, decide_eq_true_eq, BitVec.le_def, BitVec.ofNat_eq_ofNat, BitVec.reduceToNat]
  omega

/-- A reserved code is an opcode that the decoder refuses, or a function code outside the row of its opcode. -/
theorem reservedCode_iff {op fn : BitVec 7} : reservedCode op.toNat fn.toNat ↔
    reservedOp op = true ∨ ∃ p ∈ codesOf, p.1 = op.toNat ∧ (fn.toNat < p.2.1 ∨ p.2.2 < fn.toNat) := by
  rw [reservedOp_iff, reservedCode, or_assoc, or_assoc]

/-- A function code outside the row of its opcode has no mnemonic. -/
theorem mnOf_eq_none_of_codesOf {op fn : BitVec 7} {p : Nat × Nat × Nat} (hp : p ∈ codesOf) (hop : p.1 = op.toNat)
    (hfn : fn.toNat < p.2.1 ∨ p.2.2 < fn.toNat) : mnOf op fn = none := by
  unfold mnOf
  rw [← hop]
  simp only [codesOf, List.mem_cons, List.not_mem_nil, or_false] at hp
  rcases hp with rfl | rfl | rfl | rfl | rfl | rfl | rfl | rfl | rfl | rfl | rfl | rfl | rfl | rfl | rfl | rfl | rfl | rfl
  all_goals
    simp only [BitVec.lt_def, BitVec.toNat_eq, BitVec.ofNat_eq_ofNat, BitVec.reduceToNat] at hfn ⊢
    simp (disch := omega) only [if_neg]

/-! ### The length of what decodes -/

/-- Words that decode to an instruction hold a form of some mnemonic: no other branch of the checks answers an instruction (R167). -/
theorem exists_formOf_of_decode {k : UnitKind} {w : Word} {r : List Word} {i : Instr} {n : Nat} (h : decode k (w :: r) = .ok i n) :
    ∃ m, formOf m (w :: r) = some (i, n) := by
  cases hm : mnOf (w.extractLsb' 2 7) (w.extractLsb' 25 7) with
  | none => cases (decode_of_mnOf_eq_none hm k r).symm.trans h
  | some m =>
    simp only [decode, hm] at h
    split_ifs at h
    split at h
    · rename_i hf
      split_ifs at h
      cases h
      exact ⟨m, hf⟩
    · cases h

theorem len_of_map {o : Option Instr} {i : Instr} {len n : Nat} (h : (o.map fun i => (i, len)) = some (i, n)) : n = len := by
  obtain ⟨_, _, ⟨⟩⟩ := Option.map_eq_some_iff.mp h
  rfl

theorem len_of_bind {α : Type} {o : Option α} {f : α → Option Instr} {i : Instr} {len n : Nat}
    (h : (o.bind fun e => (f e).map fun i => (i, len)) = some (i, n)) : n = len := by
  obtain ⟨_, _, hi⟩ := Option.bind_eq_some_iff.mp h
  exact len_of_map hi

/-- A form read from words has the length that the field L of word 0 says (R150). -/
theorem len_of_formOf {m : Mn} {w : Word} {r : List Word} {i : Instr} {n : Nat} (h : formOf m (w :: r) = some (i, n)) : n = 4 * wordsOf w := by
  simp only [formOf] at h
  split at h
  case h_1 hl =>
    rw [wordsOf, hl]
    exact len_of_map h
  case h_2 hl =>
    rw [wordsOf, hl]
    exact len_of_map h
  case h_3 hl =>
    rw [wordsOf, hl]
    split at h <;> exact len_of_bind h
  case h_4 hl =>
    rw [wordsOf, hl]
    exact len_of_bind h
  case h_5 => cases h

theorem len_of_decode {k : UnitKind} {w : Word} {r : List Word} {i : Instr} {n : Nat} (h : decode k (w :: r) = .ok i n) : n = 4 * wordsOf w := by
  obtain ⟨m, hm⟩ := exists_formOf_of_decode h
  exact len_of_formOf hm

/-- Settles O6: a form has the length of its L, and a reserved code fails the check of the opcode or has no mnemonic, before L is read. -/
theorem lengthsAndReservedCodes : Obligations.LengthsAndReservedCodes := by
  refine ⟨fun k w r i n h => ?_, decode_zero, fun k w r h => ?_⟩
  · rw [len_of_decode h, wordsOf]
    generalize (w.extractLsb' 0 2).toNat = l
    match l with
    | 0 | 1 | 2 | 3 | _ + 4 => rfl
  · obtain hop | ⟨p, hp, hop, hfn⟩ := reservedCode_iff.mp h
    · exact decode_of_reservedOp hop k r
    · exact decode_of_mnOf_eq_none (mnOf_eq_none_of_codesOf hp hop hfn) k r

end Sys2Proof.Machine
end

section
/-!
SUPPORT. Scalar instructions: the operation of each mnemonic, in its short and its extended form (R164).
-/

namespace Sys2Proof.Machine

/-- The operation of each mnemonic of integer arithmetic, carries, logic, shifts and bit fields (R190 to R200), of the computed transfers (R213),
and of MGET, VOTE, SHFL and BCAST (R215, R218 to R220). -/
def scalarOpOf : Mn → Option (Ext → State → Out)
  | .add => some opAdd
  | .sub => some opSub
  | .mul => some opMul
  | .neg => some opNeg
  | .abs => some opAbs
  | .min => some opMin
  | .max => some opMax
  | .mulh => some opMulh
  | .mad => some opMad
  | .div => some opDiv
  | .rem => some opRem
  | .addc => some opAddc
  | .subb => some opSubb
  | .and => some opAnd
  | .or => some opOr
  | .xor => some opXor
  | .andn => some opAndn
  | .not => some opNot
  | .shl => some opShl
  | .shr => some opShr
  | .sha => some opSha
  | .rot => some opRot
  | .bfx => some opBfx
  | .bfi => some opBfi
  | .popc => some opPopc
  | .clz => some opClz
  | .ctz => some opCtz
  | .brev => some opBrev
  | .perm => some opPerm
  | .brx => some opBrx
  | .callx => some opCallx
  | .callxW => some opCallxW
  | .ret => some opRet
  | .mget => some opMget
  | .vote => some opVote
  | .shfl => some opShfl
  | .bcast => some opBcast
  | _ => none

/-- Every form of a scalar instruction, short or extended, has its operation as its meaning. -/
theorem exec_of_scalarOpOf {i : Instr} {m : Mn} {e : Ext} {op : Ext → State → Out} (hi : i.shape = .form m e) (ho : scalarOpOf m = some op)
    (s : State) : exec i s = op e s := by
  cases i with
  | add | addExt | sub | subExt | mul | mulExt | neg | negExt | abs | absExt | min | minExt | max | maxExt | mulh | mulhExt | mad | div | divExt
  | rem | remExt | addc | addcExt | subb | subbExt | and | andExt | or | orExt | xor | xorExt | andn | andnExt | not | notExt | shl | shlExt
  | shr | shrExt | sha | shaExt | rot | rotExt | bfx | bfi | popc | popcExt | clz | clzExt | ctz | ctzExt | brev | brevExt | perm | permExt
  | brx | brxExt | callx | callxExt | callxW | ret | retExt | mget | mgetExt | vote | voteExt | shfl | shflExt | bcast | bcastExt =>
    cases hi; cases ho; rfl
  | _ => cases hi <;> cases ho

end Sys2Proof.Machine
end

section
/-!
SUPPORT. Integer arithmetic, carries, logic, shifts and bit fields (R191 to R200): each operation computes what its table gives.
-/

namespace Sys2Proof.Machine

/-! ### Fields -/

theorem useD_mem_uses2 (e : Ext) : useD e e.ty.regs ∈ uses2 e := by simp [uses2]

theorem useD_mem_uses3 (e : Ext) : useD e e.ty.regs ∈ uses3 e := by simp [uses3]

theorem useD_mem_usesShift (e : Ext) : useD e e.ty.regs ∈ usesShift e := by simp [usesShift, uses2]

/-- An instruction that names fewer registers issues where one that names more of them does. -/
theorem Issues.narrow {s : State} {x : Site} {is : List Nat} {g : Guard} {us vs : List Use} (h : Issues s x is g us)
    (hs : ∀ v ∈ vs, ∃ u ∈ us, u.reg = v.reg ∧ v.n ≤ u.n ∧ (v.rd = true → u.rd = true)) : Issues s x is g vs where
  here := h.here
  once := h.once
  live := h.live
  known := h.known
  executing := h.executing
  nonempty := h.nonempty
  fields v hv i hi k hk := by
    obtain ⟨u, hu, hr, hn, -⟩ := hs v hv
    exact hr ▸ h.fields u hu i hi k (hk.trans_le hn)
  values v hv hrd i hi k hk := by
    obtain ⟨u, hu, hr, hn, hd⟩ := hs v hv
    exact hr ▸ h.values u hu (hd hrd) i hi k (hk.trans_le hn)

/-! ### Integer arithmetic (R191, R193 to R195) -/

@[simp] theorem account_arith (s : State) (x : Site) (e : Ext) (f : Int → Int → Int) : arith e f (s.account x).2 = arith e f x := by
  funext i
  simp [arith]

theorem quotOf_eq (ty : Ty) (a b : Int) : quotOf ty a b = wrap ty.bits (if b = 0 then -1 else a.tdiv b) := (apply_ite _ _ _ _).symm

theorem remOf_eq (ty : Ty) (a b : Int) : remOf ty a b = wrap ty.bits (if b = 0 then a else a.tmod b) := (apply_ite _ _ _ _).symm

/-- ADD, SUB and MUL of known operands transform no record and compute their result (R191). -/
theorem arith_computes {s : State} {x : Site} {is : List Nat} {e : Ext} (h : Issues s x is e.guard (uses3 e))
    (p q : Word → Option (Word × Word)) (f : Int → Int → Int) :
    Computes (passOn e (uses3 e) (xform2 e p q) s (arith e f)) s x is (toD e (arith e f x)) :=
  passOn_computes h (useD_mem_uses3 e) _ _ (account_arith s x e f) (xform2_none h p q)

/-- NEG and SHL of a known operand A transform no record. -/
theorem unary_computes {s : State} {x : Site} {is : List Nat} {e : Ext} {us : List Use} (h : Issues s x is e.guard us)
    (hd : useD e e.ty.regs ∈ us) (ha : readA e e.ty.regs ∈ us) {xf : Site → Nat → Option Slot}
    (hx : ∀ z i, z.record? i e.a.toNat = none → xf z i = none) (v : Site → Nat → Nat) (hv : v (s.account x).2 = v x) :
    Computes (passOn e us xf s v) s x is (toD e (v x)) :=
  passOn_computes h hd xf v hv fun i hi => hx _ i (h.noRecordA e.ty.regs ha (Ty.regs_pos _) i hi)

theorem integerResult_computes {i : Instr} {m : Mn} {e : Ext} {s : State} {x : Site} {is : List Nat} {us : List Use} {f : Effect}
    (hi : i.shape = .form m e) (hr : integerResult m e x = some (us, f)) (h : Issues s x is e.guard us) : Computes (exec i s) s x is f := by
  cases m with
  | add | sub | mul =>
    cases hr
    rw [exec_of_scalarOpOf hi rfl]
    exact arith_computes h _ _ _
  | neg =>
    cases hr
    rw [exec_of_scalarOpOf hi rfl]
    exact unary_computes h (useD_mem_uses2 e) (by simp [uses2]) (fun z i hz => by simp [hz]) _ (by simp)
  | abs | min | max | mulh | mad =>
    cases hr
    rw [exec_of_scalarOpOf hi rfl]
    exact perFibre_computes h (.inl (by simp [uses2, uses3])) _ (by simp)
  | div =>
    cases hr
    rw [exec_of_scalarOpOf hi rfl]
    simp only [← quotOf_eq]
    exact perFibre_computes h (.inl (useD_mem_uses3 e)) _ (by simp)
  | rem =>
    cases hr
    rw [exec_of_scalarOpOf hi rfl]
    simp only [← remOf_eq]
    exact perFibre_computes h (.inl (useD_mem_uses3 e)) _ (by simp)
  | _ => cases hr

/-! ### Carries (R192) -/

/-- A borrow leaves the difference below zero. -/
theorem subBorrow_eq (w a b : Nat) (k : Bool) :
    subBorrow w a b k = (wrap w (a - b - (if k then 1 else 0 : Nat)), decide (a < b + if k then 1 else 0)) := by
  cases k with
  | false => simp [subBorrow]
  | true =>
    simp only [subBorrow, Prod.mk.injEq, decide_eq_decide, if_true]
    exact ⟨rfl, by omega⟩

/-- The effect of an operation with a carry or borrow: the result in D, the bit in guard C. -/
def carryEffect (e : Ext) (f : Nat → Nat → Bool → Nat × Bool) (x : Site) : Effect :=
  let r (i : Nat) : Nat × Bool := f (x.srcA i e % 2 ^ e.ty.bits) (x.srcB i e % 2 ^ e.ty.bits) (x.guard i (e.c.toNat % 32))
  { toD e (fun i => (r i).1) with bit := some (e.c.toNat % 32, fun i => (r i).2) }

theorem carryOp_computes {s : State} {x : Site} {is : List Nat} {e : Ext} (h : Issues s x is e.guard (readV0 :: uses3 e))
    (f : Nat → Nat → Bool → Nat × Bool) : Computes (carryOp e f s) s x is (carryEffect e f x) :=
  issueG_computes h (carryEffect e f) _ (fun _ _ _ => rfl) (by simp [carryEffect])
    fun i hi k hk => h.fields _ (List.mem_cons_of_mem _ (useD_mem_uses3 e)) i hi k hk

theorem carryResult_computes {i : Instr} {m : Mn} {e : Ext} {s : State} {x : Site} {is : List Nat} {us : List Use} {f : Effect}
    (hi : i.shape = .form m e) (hr : carryResult m e x = some (us, f)) (h : Issues s x is e.guard us) : Computes (exec i s) s x is f := by
  cases m with
  | addc =>
    cases hr
    rw [exec_of_scalarOpOf hi rfl]
    exact carryOp_computes h _
  | subb =>
    cases hr
    rw [exec_of_scalarOpOf hi rfl]
    simpa only [opSubb, carryEffect, subBorrow_eq] using carryOp_computes h (subBorrow e.ty.bits)
  | _ => cases hr

/-! ### Logic, shifts and bit fields (R196 to R200) -/

@[simp] theorem account_count (s : State) (x : Site) (i : Nat) (e : Ext) : (s.account x).2.count i e = x.count i e := by
  simp [Site.count]

theorem mem_readB {e : Ext} {n : Nat} {u : Use} : u ∈ readB e n ↔ e.osel = 0 ∧ u = { reg := e.b.toNat, n := n, rd := true } := by
  unfold readB
  split <;> simp_all

/-- PERM names one register for each operand, of however many its type has. -/
theorem perm_issues {s : State} {x : Site} {is : List Nat} {e : Ext}
    (h : Issues s x is e.guard ([readD e e.ty.regs, readA e e.ty.regs] ++ readB e e.ty.regs)) :
    Issues s x is e.guard ([readD e 1, readA e 1] ++ readB e 1) := by
  have hn : 1 ≤ e.ty.regs := Ty.regs_pos _
  refine h.narrow fun v hv => ?_
  simp only [List.mem_append, List.mem_cons, List.not_mem_nil, or_false] at hv
  obtain (rfl | rfl) | hv := hv
  · exact ⟨readD e e.ty.regs, by simp, rfl, hn, id⟩
  · exact ⟨readA e e.ty.regs, by simp, rfl, hn, id⟩
  · obtain ⟨ho, rfl⟩ := mem_readB.mp hv
    exact ⟨_, List.mem_append_right _ (mem_readB.mpr ⟨ho, rfl⟩), rfl, hn, id⟩

theorem logicResult_computes {i : Instr} {m : Mn} {e : Ext} {s : State} {x : Site} {is : List Nat} {us : List Use} {f : Effect}
    (hi : i.shape = .form m e) (hr : logicResult m e x = some (us, f)) (h : Issues s x is e.guard us) : Computes (exec i s) s x is f := by
  cases m with
  | and | or | xor | andn | not | brev | shr | sha | rot | bfx | bfi =>
    cases hr
    rw [exec_of_scalarOpOf hi rfl]
    exact perFibre_computes h (.inl (by simp [uses2, uses3, usesShift])) _ (by simp)
  | shl =>
    cases hr
    rw [exec_of_scalarOpOf hi rfl]
    exact unary_computes h (useD_mem_usesShift e) (by simp [usesShift, uses2]) (fun z i hz => by simp [hz]) _ (by simp)
  | popc | clz | ctz =>
    cases hr
    rw [exec_of_scalarOpOf hi rfl]
    exact perFibre32_computes h (by simp) _ (by simp)
  | perm =>
    cases hr
    rw [exec_of_scalarOpOf hi rfl]
    exact issue_computes (perm_issues h) (fun z => toD e fun i => permOf (z.srcA i e) (z.val i e.d.toNat 1) (z.srcB i e)) _
      (fun _ _ _ => rfl) (by simp) (fun i hi k hk => h.fields (readD e e.ty.regs) (by simp) i hi k hk) (by simp [toD])
  | _ => cases hr

/-- Settles O1: arithmetic, carries and logic each have their table. -/
theorem integerAndLogicResults : Obligations.IntegerAndLogicResults := by
  intro i m e s x is us f hi hr h
  obtain hr | hr | hr := hr
  · exact integerResult_computes hi hr h
  · exact carryResult_computes hi hr h
  · exact logicResult_computes hi hr h

end Sys2Proof.Machine
end

section
/-!
SUPPORT. Operations across the executing fibres (R215, R218 to R220): effects that read the unit as a whole, and BCAST, whose source is one slot
for all.
-/

namespace Sys2Proof.Machine

/-! ### Effects that read the unit as a whole -/

theorem issueG_eq {s : State} {x : Site} {is : List Nat} {g : Guard} {us : List Use} (h : Issues s x is g (readV0 :: us))
    (eff : State → Site → List Nat → Out) : issue g (demandG us) s eff = eff (s.account x).1 (s.account x).2 is :=
  issueWith_eq _ (h.mono fun _ hu => List.mem_cons_of_mem _ hu) (Site.barred_demandG x us is)
    (fun _ i hi => h.values readV0 (List.mem_cons_self ..) rfl i hi 0 Nat.one_pos) eff

/-- Register writes after an accounted issue, however the issue was reached: a write in each executing fibre is the effect. -/
theorem regEffect_computes {s : State} {x : Site} {is : List Nat} {g : Guard} {us : List Use} (h : Issues s x is g us) (ef : Site → Effect)
    (f : Site → Nat → Site → Site) (hf : ∀ z i y, f z i y = y.write (ef z) i) (he : ef (s.account x).2 = ef x)
    (hd : ∀ i ∈ is, ∀ k < (ef x).n, x.Has i ((ef x).d + k)) (h0 : (ef x).bit.isSome → ∀ i ∈ is, x.Has i 0) :
    Computes (regEffect f (s.account x).1 (s.account x).2 is) s x is (ef x) :=
  issue_eq h (regEffect f) ▸ issue_computes h ef f hf he hd h0

/-! ### MGET, VOTE and SHFL (R215, R218, R219) -/

@[simp] theorem account_ballot (s : State) (x : Site) (is : List Nat) (g : Nat) : (s.account x).2.ballot is g = x.ballot is g := by
  simp [Site.ballot]

/-- The slot that SHFL reads in fibre i: the one that its mode names, if it executes, else its own. -/
def shflPick (is : List Nat) (m1 i b : Nat) : Nat :=
  match shflSlot m1 i b with
  | some k => if k ∈ is then k else i
  | none => i

theorem crossResult_vote (e : Ext) (x : Site) (is : List Nat) :
    crossResult .vote e x is = some ([readV0, useD e 1], toD32 e fun _ =>
      voteOf e.m1.toNat (x.ballot is (e.a.toNat % 32)) (slotMask is).toNat (opVote.onesOfBallot (x.ballot is (e.a.toNat % 32)))) := rfl

theorem crossResult_shfl (e : Ext) (x : Site) (is : List Nat) :
    crossResult .shfl e x is =
      some (uses2 e ++ readB e 1, toD e fun i => x.srcA (shflPick is e.m1.toNat i (x.src32 i e)) e) := by
  simp only [crossResult, Option.some.injEq, Prod.mk.injEq, true_and]
  congr 1
  funext i
  congr 1
  generalize x.src32 i e = b
  match e.m1.toNat with
  | 0 => rfl
  | 1 =>
    by_cases hb : b ≤ i
    · simp [shflPick, shflSlot, hb]
    · simp [shflPick, shflSlot, hb]
  | 2 =>
    by_cases hb : i + b < 32
    · simp [shflPick, shflSlot, hb]
    · simp [shflPick, shflSlot, hb]
  | _ + 3 => rfl

theorem crossResult_computes {i : Instr} {m : Mn} {e : Ext} {s : State} {x : Site} {is : List Nat} {us : List Use} {f : Effect}
    (hi : i.shape = .form m e) (hr : crossResult m e x is = some (us, f)) (h : Issues s x is e.guard us) : Computes (exec i s) s x is f := by
  cases m with
  | mget =>
    cases hr
    rw [exec_of_scalarOpOf hi rfl]
    exact issue_computes h (fun z => { d := e.a.toNat, n := 1, v := fun _ => (z.heat.masks.getD (maskOf e) 0).toNat }) _ (fun _ _ _ => rfl)
      (by simp) (h.fields _ (List.mem_singleton_self _)) (by simp)
  | vote =>
    rw [crossResult_vote] at hr
    cases hr
    rw [exec_of_scalarOpOf hi rfl, opVote, issueG_eq h, account_ballot]
    exact regEffect_computes h (fun _ => toD32 e fun _ => voteOf e.m1.toNat _ _ _) _ (fun _ _ _ => rfl) rfl (h.fields (useD e 1) (by simp))
      (by simp [toD32])
  | shfl =>
    rw [crossResult_shfl] at hr
    cases hr
    rw [exec_of_scalarOpOf hi rfl, opShfl, issue_eq h]
    simp only [account_src32]
    exact regEffect_computes h (fun z => toD e fun i => z.srcA (shflPick is e.m1.toNat i (x.src32 i e)) e) _ (fun _ _ _ => rfl) (by simp)
      (h.fields (useD e e.ty.regs) (by simp [uses2])) (by simp [toD])
  | _ => cases hr

/-! ### BCAST (R220) -/

theorem Issues.guardGate {s : State} {x : Site} {is : List Nat} {g : Guard} {us : List Use} (h : Issues s x is g us) :
    (if g = .always then Gate.go else gateOf (fun _ => true) (s.cur.batch.map fun i => (i, x.records i 0 1))) = .go := by
  by_cases hg : g = .always
  · rw [if_pos hg]
  · rw [if_neg hg]
    refine gateOf_nil _ _ fun p hp => ?_
    obtain ⟨i, hi, rfl⟩ := List.mem_map.mp hp
    refine x.records_nil i 0 1 fun k hk => ?_
    rw [Nat.lt_one_iff.mp hk]
    exact (h.known.resolve_left hg i hi).2

theorem Site.fieldsCheck_none {x : Site} {is : List Nat} {us : List Use} (pc : Pc) (h : ∀ u ∈ us, ∀ i ∈ is, ∀ k < u.n, x.Has i (u.reg + k)) :
    x.fieldsCheck pc is us = none := by
  refine List.findSome?_eq_none_iff.mpr fun u hu => List.findSome?_eq_none_iff.mpr fun i hi => ?_
  rw [x.fieldCheck_none i u.reg u.n (h u hu i hi), Option.map_none]

/-- Issuing with records of its own is the effect on the accounted issue, where the fields are there and no record is met. -/
theorem issueOn_eq {s : State} {x : Site} {is : List Nat} {g : Guard} {us vs : List Use} {met : Site → List Nat → List (Nat × List Baton)}
    {pass : Site → Nat → Bool} (h : Issues s x is g us) (hv : ∀ v ∈ vs, ∀ i ∈ is, ∀ k < v.n, x.Has i (v.reg + k))
    (hm : ∀ p ∈ met x is, p.2 = []) (eff : State → Site → List Nat → Out) :
    issueOn met pass g (demand vs) s eff = eff (s.account x).1 (s.account x).2 is := by
  have hne : is.isEmpty = false := List.isEmpty_eq_false_iff.mpr h.nonempty
  have hf : x.fieldsCheck s.cur.pc is (demand vs).uses = none := Site.fieldsCheck_none _ hv
  simp only [issueOn, h.here, h.guardGate, h.executing, hne, Bool.false_eq_true, if_false, Site.barred_demand, hf, gateOf_nil _ _ hm]

/-- The lowest executing fibre executes. -/
theorem Issues.headD_mem {s : State} {x : Site} {is : List Nat} {g : Guard} {us : List Use} (h : Issues s x is g us) : is.headD 0 ∈ is := by
  cases is with
  | nil => exact absurd rfl h.nonempty
  | cons i r => exact List.mem_cons_self ..

@[simp] theorem account_holdsX (s : State) (x : Site) : (s.account x).2.holdsX = x.holdsX := by
  unfold Site.holdsX Site.isPacer Site.heatNo
  rw [State.account_xset?, account_u]

@[simp] theorem account_isSome_fibre? (s : State) (x : Site) (k : Nat) :
    ((s.account x).2.heat.fibre? k).isSome = (x.heat.fibre? k).isSome := by
  rw [State.account_fibre?]
  split
  · exact Option.isSome_map
  · rfl

theorem account_fibre?_eq_none {s : State} {x : Site} {k : Nat} (hk : x.heat.fibre? k = none) : (s.account x).2.heat.fibre? k = none := by
  rw [State.account_fibre?, hk, Option.map_none, ite_self]

/-- A slot that holds no fibre passes the check of registers: past v127 it asks for the unit's extended set alone. -/
theorem Site.fieldCheck_none_of_empty {x : Site} {k : Nat} (hk : x.heat.fibre? k = none) (n r : Nat)
    (h : ∀ j < n, 128 ≤ r + j → x.holdsX = true) : x.fieldCheck k r n = none := by
  induction n generalizing r with
  | zero => rfl
  | succ n ih =>
    have hr : x.regCheck k r = none := by
      unfold Site.regCheck
      split_ifs with h16 h128 hx
      · rfl
      · rw [hk]
      · rfl
      · exact absurd (h 0 n.succ_pos (Nat.le_of_not_lt h128)) hx
    simp only [Site.fieldCheck, hr]
    exact ih (r + 1) fun j hj h128 => h (j + 1) (by omega) (by omega)

theorem Site.Has.holdsX {x : Site} {i r : Nat} (h : x.Has i r) (hr : 128 ≤ r) : x.holdsX = true := by
  obtain ⟨f, -, h⟩ := h
  rw [if_neg (Nat.not_lt.mpr hr)] at h
  exact h.1

/-- The registers that BCAST names: none of A in the executing fibres is read. -/
def bcastUses (e : Ext) : List Use := [useD e e.ty.regs, { reg := e.a.toNat, n := e.ty.regs, rd := false }] ++ readB e 1

/-- Register A of the slot that BCAST names is there and holds a value, if the slot holds a fibre. -/
def BcastKnown (x : Site) (e : Ext) (is : List Nat) : Prop :=
  ∀ f, x.heat.fibre? (x.bcastSlot e is) = some f → ∀ r < e.ty.regs, x.Knows (x.bcastSlot e is) (e.a.toNat + r)

section
variable {s : State} {x : Site} {is : List Nat} {e : Ext} (h : Issues s x is e.guard (bcastUses e))
include h

theorem bcast_fields : ∀ v ∈ uses2 e ++ readB e 1, ∀ i ∈ is, ∀ k < v.n, x.Has i (v.reg + k) := by
  intro v hv
  simp only [uses2, List.mem_append, List.mem_cons, List.not_mem_nil, or_false] at hv
  obtain (rfl | rfl) | hv := hv
  · exact h.fields (useD e e.ty.regs) (by simp [bcastUses])
  · exact h.fields { reg := e.a.toNat, n := e.ty.regs, rd := false } (by simp [bcastUses])
  · exact h.fields v (by simp [bcastUses, hv])

/-- BCAST waits for no record: operand b of the lowest executing fibre holds a value, and so does the register it reads. -/
theorem bcastMet_nil (hk : BcastKnown x e is) : ∀ p ∈ bcastMet e x is, p.2 = [] := by
  have hb : (if e.osel = 0 then x.records (is.headD 0) e.b.toNat 1 else []) = [] := by
    by_cases ho : e.osel = 0
    · rw [if_pos ho]
      exact x.records_nil _ _ _ fun k hk =>
        (h.values { reg := e.b.toNat, n := 1, rd := true } (by simp [bcastUses, readB, ho]) rfl _ h.headD_mem k hk).2
    · rw [if_neg ho]
  have ha : x.records (x.bcastSlot e is) e.a.toNat e.ty.regs = [] := by
    refine x.records_nil _ _ _ fun r hr => ?_
    cases hf : x.heat.fibre? (x.bcastSlot e is) with
    | none => exact ⟨0, by rw [Site.slot, hf]⟩
    | some f => exact (hk f hf r hr).2
  intro p hp
  simp only [bcastMet, hb, ha, ne_eq, not_true_eq_false, if_false, List.mem_singleton] at hp
  rw [hp]

/-- The register that BCAST reads passes its check: a live slot has it, and any other asks at most for the set that the executing fibres hold. -/
theorem bcast_fieldCheck (hk : BcastKnown x e is) : (s.account x).2.fieldCheck (x.bcastSlot e is) e.a.toNat e.ty.regs = none := by
  cases hf : x.heat.fibre? (x.bcastSlot e is) with
  | none =>
    refine Site.fieldCheck_none_of_empty (account_fibre?_eq_none hf) _ _ fun j hj h128 => ?_
    rw [account_holdsX]
    exact (h.fields { reg := e.a.toNat, n := e.ty.regs, rd := false } (by simp [bcastUses]) _ h.headD_mem j hj).holdsX h128
  | some f => exact Site.fieldCheck_none _ _ _ _ fun r hr => State.account_has s x _ _ (hk f hf r hr).1

theorem opBcast_computes (hk : BcastKnown x e is) :
    Computes (opBcast e s) s x is
      (toD e fun _ => if (x.heat.fibre? (x.bcastSlot e is)).isSome then x.srcA (x.bcastSlot e is) e else 0) := by
  have hslot : (s.account x).2.bcastSlot e is = x.bcastSlot e is := by simp [Site.bcastSlot]
  rw [opBcast, issueOn_eq h (bcast_fields h) (bcastMet_nil h hk)]
  simp only [hslot, bcast_fieldCheck h hk, account_isSome_fibre?, account_srcA]
  exact regEffect_computes h (fun _ => toD e fun _ => _) _ (fun _ _ _ => rfl) rfl (h.fields (useD e e.ty.regs) (by simp [bcastUses]))
    (by simp [toD])

end

/-- Settles O14: MGET, VOTE and SHFL by their table, and BCAST. -/
theorem crossFibreResults : Obligations.CrossFibreResults := by
  refine ⟨fun _ _ _ _ _ _ _ _ hi hr h => crossResult_computes hi hr h, fun i e s x is hi h hk => ?_⟩
  rw [exec_of_scalarOpOf hi rfl]
  exact opBcast_computes h hk

end Sys2Proof.Machine
end

section
/-!
SUPPORT. Transfers of control (R56, R211 to R213): what they do fibre by fibre, and that their checks pass where the statement's conditions hold.
-/

namespace Sys2Proof.Machine

/-! ### Changes fibre by fibre -/

/-- The unit y is x after each fibre has changed by a function of its slot, and nothing else of it has changed. -/
structure Site.Each (x y : Site) (f : Nat → Fibre → Fibre) : Prop where
  rest : y = { x with heat := { x.heat with fibres := y.heat.fibres } }
  fibres : ∀ k, y.heat.fibre? k = (x.heat.fibre? k).map (f k)

theorem Site.Each.congr {x y : Site} {f g : Nat → Fibre → Fibre} (h : x.Each y f) (hfg : ∀ k a, f k a = g k a) : x.Each y g :=
  funext (fun k => funext (hfg k)) ▸ h

theorem Site.Each.refl (x : Site) : x.Each x fun _ a => a where
  rest := rfl
  fibres _ := Option.map_id'.symm

theorem Site.Each.trans {x y z : Site} {f g : Nat → Fibre → Fibre} (h : x.Each y f) (k : y.Each z g) : x.Each z fun i a => g i (f i a) where
  rest := by
    have hz := k.rest
    rw [h.rest] at hz
    exact hz
  fibres i := by
    rw [k.fibres, h.fibres, Option.map_map]
    rfl

theorem Site.each_updFibre (x : Site) (i : Nat) (f : Fibre → Fibre) : x.Each (x.updFibre i f) fun k a => if k = i then f a else a where
  rest := rfl
  fibres k := by
    rw [Site.fibre?_updFibre]
    by_cases hk : i = k
    · simp [hk]
    · simp [hk, Ne.symm hk]

/-- Changing the fibre of each slot of a list, each once. -/
theorem Site.each_foldl {g : Site → Nat → Site} {f : Nat → Fibre → Fibre} (hg : ∀ (y : Site) i, y.Each (g y i) fun k a => if k = i then f i a else a)
    {is : List Nat} (hn : is.Nodup) (x : Site) : x.Each (is.foldl g x) fun k a => if k ∈ is then f k a else a := by
  induction is generalizing x with
  | nil => exact (Site.Each.refl x).congr fun k a => (if_neg List.not_mem_nil).symm
  | cons i r ih =>
    obtain ⟨hi, hr⟩ := List.nodup_cons.mp hn
    refine ((hg x i).trans (ih hr (g x i))).congr fun k a => ?_
    by_cases hk : k = i
    · simp [hk, hi]
    · simp [hk]

/-- Moving program counters: each fibre of a list goes to a place of its own. -/
theorem Site.each_goto (x : Site) {is : List Nat} (hn : is.Nodup) (p : Nat → Pc → Pc) :
    x.Each (is.foldl (fun y i => y.updFibre i fun f => { f with pc := p i f.pc }) x) fun k a => { a with pc := if k ∈ is then p k a.pc else a.pc } := by
  refine (Site.each_foldl (f := fun i a => { a with pc := p i a.pc }) (fun y i => y.each_updFibre i _) hn x).congr fun k a => ?_
  split <;> rfl

/-- The executing fibres are listed once. -/
theorem Issues.nodup {s : State} {x : Site} {is : List Nat} {g : Guard} {us : List Use} (h : Issues s x is g us) : is.Nodup := by
  rw [← h.executing]
  cases g with
  | always => exact h.once
  | ifSet | ifClear => exact h.once.filter _

/-! ### The state after a transfer -/

/-- A fibre after the issue of its batch is accounted, before its program counter moves. -/
def Fibre.issuedBy (s : State) (x : Site) (k : Nat) (f : Fibre) : Fibre :=
  { f with last := x.lastOf s k f, waits := Site.waitsOf s k f }

theorem account_fibre?_eq (s : State) (x : Site) (k : Nat) : (s.account x).2.heat.fibre? k = (x.heat.fibre? k).map (Fibre.issuedBy s x k) := by
  rw [State.account_fibre?]
  unfold Fibre.issuedBy Site.lastOf Site.waitsOf
  by_cases hk : k ∈ s.cur.batch
  · simp only [if_pos hk]
  · simp only [if_neg hk]
    exact Option.map_id'.symm

/-- A unit put back after an issue that has changed its fibres: the frame of a register instruction, the extended sets as they were. -/
theorem put_frame {s : State} {x z : Site} {f : Nat → Fibre → Fibre} (h : s.here = some x) (hz : (s.account x).2.Each z f) :
    Frame s ((s.account x).1.put z) x z.putBack ∧ z.putBack.team.xsets = x.team.xsets ∧
      ∀ k, z.putBack.heat.fibre? k = (x.heat.fibre? k).map fun a => f k (Fibre.issuedBy s x k a) := by
  have hr := hz.rest
  rw [State.account_snd] at hr
  have hteam : z.team = { x.team with counters := z.team.counters } := by rw [hr]
  refine ⟨⟨State.put_own h (by rw [hr]) (by rw [hteam]) (by rw [hteam]) (by rw [hteam]) (by rw [hr]) (by rw [hr]), ?team, ?heat⟩, ?xsets, ?fibres⟩
  case team => rw [Site.putBack, Team.setHeat_eq, hteam]
  case heat => rw [Site.putBack, hr]
  case xsets => rw [Site.putBack, Team.setHeat_xsets, hteam]
  case fibres =>
    intro k
    change z.heat.fibre? k = _
    rw [hz.fibres, account_fibre?_eq, Option.map_map]
    rfl

/-! ### What a transfer does to a fibre -/

/-- A fibre once a transfer has written the link of an executing one and moved its window, whose base `w` gives from the old one. -/
def Jump.slid (j : Jump) (is : List Nat) (w : Nat → Nat → Nat) (k : Nat) (f : Fibre) : Fibre :=
  { f with
    win := if k ∈ is then w k f.win else f.win
    regs := match j.link with
      | some l => if k ∈ is then (f.regs.set 14 (.val (wd l))).set 15 (.val (wd (l / 2 ^ 32))) else f.regs
      | none => f.regs }

/-- Going to the targets once links and windows are as the transfer has them is the transfer. -/
theorem jump_jumps {s : State} {x z : Site} {is : List Nat} {j : Jump} (h : Issues s x is j.guard j.uses) {w : Nat → Nat → Nat}
    (hw : ∀ k f, j.win k f = w k f.win) (hz : (s.account x).2.Each z (j.slid is w)) {target : Nat → Pc}
    (ht : ∀ k, target k = BitVec.ofNat 56 (j.pc k)) : Jumps ((s.account x).1.jump z is target) s x is j := by
  have hnext : z.Each (z.advance s.cur.batch s.cur.len) _ := z.each_goto h.once fun _ pc => pc + BitVec.ofNat 56 s.cur.len
  obtain ⟨hframe, hsets, hfibres⟩ := put_frame h.here ((hz.trans hnext).trans (Site.each_goto _ h.nodup fun k _ => target k))
  refine ⟨_, _, ?_, hframe, hsets, fun k => ?_⟩
  · rw [State.jump, account_cur]
  · rw [hfibres]
    simp only [ht, hw]
    rfl

/-- The link takes v14 and v15, and the window slides. -/
theorem Site.each_link (y : Site) (ret : Pc) (n i : Nat) :
    y.Each (y.link ret n i) fun k f => if k = i then
      { f with
        win := f.win + n
        regs := (f.regs.set 14 (.val (wd (ret.toNat + n * 2 ^ 56)))).set 15 (.val (wd ((ret.toNat + n * 2 ^ 56) / 2 ^ 32))) }
      else f := by
  refine (((y.each_updFibre i _).trans (Site.each_updFibre _ i _)).trans (Site.each_updFibre _ i _)).congr fun k f => ?_
  split <;> rfl

section
variable {s : State} {x : Site} {is : List Nat} {j : Jump} (h : Issues s x is j.guard j.uses)
include h

/-- A transfer without a link that leaves the windows. -/
theorem goto_jumps (hl : j.link = none) (hw : ∀ k f, j.win k f = f.win) {target : Nat → Pc} (ht : ∀ k, target k = BitVec.ofNat 56 (j.pc k)) :
    Jumps ((s.account x).1.jump (s.account x).2 is target) s x is j := by
  refine jump_jumps h (w := fun _ v => v) hw ((Site.Each.refl _).congr fun k f => ?_) ht
  simp only [Jump.slid, hl, ite_self]

/-- A transfer that writes the link and slides the windows up. -/
theorem callTo_jumps {n : Nat} (hl : j.link = some (s.linkWord n)) (hw : ∀ k f, j.win k f = f.win + n) {target : Nat → Pc}
    (ht : ∀ k, target k = BitVec.ofNat 56 (j.pc k)) : Jumps ((s.account x).1.callTo (s.account x).2 is n target) s x is j := by
  rw [State.callTo, account_cur]
  refine jump_jumps h (w := fun _ v => v + n) hw ((Site.each_foldl (fun y i => y.each_link _ n i) h.nodup _).congr fun k f => ?_) ht
  simp only [Jump.slid, hl]
  split <;> rfl

/-- A transfer without a link that moves the windows, each by a function of its base. -/
theorem slideTo_jumps {w : Nat → Nat → Nat} (hl : j.link = none) (hw : ∀ k f, j.win k f = w k f.win) {target : Nat → Pc}
    (ht : ∀ k, target k = BitVec.ofNat 56 (j.pc k)) :
    Jumps ((s.account x).1.jump (is.foldl (fun y i => y.updFibre i fun f => { f with win := w i f.win }) (s.account x).2) is target) s x is j := by
  refine jump_jumps h hw
    ((Site.each_foldl (f := fun i f => { f with win := w i f.win }) (fun y i => y.each_updFibre i _) h.nodup _).congr fun k f => ?_) ht
  simp only [Jump.slid, hl]
  split <;> rfl

end

/-! ### The checks of a transfer -/

theorem Site.slidesOut_eq_false {x : Site} {n i : Nat} (h : ∀ f, x.heat.fibre? i = some f → slides n f) : x.slidesOut n i = false := by
  unfold Site.slidesOut
  cases hf : x.heat.fibre? i with
  | none => simp
  | some f =>
    obtain rfl | hw := h f hf
    · simp
    · simp [hw]

@[simp] theorem account_slidesOut (s : State) (x : Site) (n i : Nat) : (s.account x).2.slidesOut n i = x.slidesOut n i := by
  unfold Site.slidesOut
  rw [account_fibre?_eq]
  cases x.heat.fibre? i <;> rfl

@[simp] theorem account_targetX (s : State) (x : Site) (e : Ext) : (s.account x).2.targetX e = x.targetX e := by
  funext i
  simp [Site.targetX]

theorem targetFault_eq_none {t : Nat} (h : goodTarget t) : targetFault t = none := by
  rw [targetFault, if_neg (Nat.not_le.mpr h.1), if_neg (not_not.mpr h.2)]

/-- No fibre fails where each passes the test of its instruction and has a good target. -/
theorem firstTarget_eq_none {is : List Nat} {target : Nat → Nat} {own : Nat → Option (Byte × Nat)} (ho : ∀ i ∈ is, own i = none)
    (ht : ∀ i ∈ is, goodTarget (target i)) : firstTarget is target own = none := by
  refine List.findSome?_eq_none_iff.mpr fun i hi => ?_
  simp [ho i hi, targetFault_eq_none (ht i hi)]

/-- n registers hold a number below 2^(32 n). -/
theorem Site.val_lt (x : Site) (i r n : Nat) : x.val i r n < 2 ^ (32 * n) := by
  induction n generalizing r with
  | zero => exact Nat.one_pos
  | succ n ih =>
    have hw : (x.word i r).toNat < 2 ^ 32 := (x.word i r).isLt
    have hr := ih (r + 1)
    rw [Site.val, Nat.mul_succ, Nat.pow_add]
    omega

/-- The slide of a link is its top byte. -/
theorem Site.bitsOf_link (x : Site) (i : Nat) : bitsOf (x.val i 14 2) 56 8 = x.val i 14 2 / 2 ^ 56 := by
  have := x.val_lt i 14 2
  rw [bitsOf]
  omega

theorem Site.slideBack_eq_true {x : Site} {i : Nat} {f : Fibre} (hf : x.heat.fibre? i = some f)
    (hm : x.val i 14 2 / 2 ^ 56 ∈ [0, 8, 16, 24, 32]) (hw : x.val i 14 2 / 2 ^ 56 ≤ f.win) : x.slideBack i = true := by
  simp only [Site.slideBack, x.bitsOf_link, hf, hw, hm, decide_true, Bool.and_self]

@[simp] theorem account_slideBack (s : State) (x : Site) (i : Nat) : (s.account x).2.slideBack i = x.slideBack i := by
  unfold Site.slideBack
  rw [account_val, account_fibre?_eq]
  cases x.heat.fibre? i <;> rfl

/-! ### BRA, CALL, CALL.W, BRX, CALLX, CALLX.W and RET -/

/-- The operation of each mnemonic of format J. -/
def branchOpOf : Mn → Option (JExt → State → Out)
  | .bra => some fun b => opBra b 0
  | .call | .callW => some callJ
  | _ => none

/-- Every form of a branch has its operation as its meaning. -/
theorem exec_of_branchOpOf {i : Instr} {m : Mn} {b : JExt} {op : JExt → State → Out} (hi : i.shape = .jump m b) (ho : branchOpOf m = some op)
    (s : State) : exec i s = op b s := by
  cases i with
  | bra | braExt | call | callExt | callW => cases hi; cases ho; rfl
  | _ => cases hi

section
variable {i : Instr} {m : Mn} {s : State} {x : Site} {is : List Nat} {j : Jump}

/-- BRA, CALL and CALL.W (R211, R212). -/
theorem branch_jumps {b : JExt} (hi : i.shape = .jump m b) (hr : jumpResult i s x = some j) (h : Issues s x is j.guard j.uses)
    (hok : ∀ k ∈ is, ∀ f, x.heat.fibre? k = some f → j.ok k f) : Jumps (exec i s) s x is j := by
  rw [jumpResult, hi] at hr
  cases m with
  | bra =>
    cases hr
    rw [exec_of_branchOpOf hi rfl]
    simp only [opBra, demandNone]
    rw [issue_eq (g := b.guard) (us := []) h, account_cur]
    exact goto_jumps h rfl (fun _ _ => rfl) fun _ => by simp
  | call | callW =>
    cases hr
    have hs : is.find? ((s.account x).2.slidesOut (slideOf b.m1)) = none :=
      List.find?_eq_none.mpr fun k hk => by simp [Site.slidesOut_eq_false (hok k hk), slideOf]
    rw [exec_of_branchOpOf hi rfl]
    simp only [callJ, demandNone]
    rw [issue_eq (g := b.guard) (us := []) h, hs, account_cur]
    exact callTo_jumps h rfl (fun _ _ => rfl) fun _ => by simp
  | _ => cases hr

/-- The checks of BRX, CALLX and CALLX.W pass: the slide, then the target (R213). -/
theorem transferX_checks {e : Ext} (hok : ∀ k ∈ is, ∀ f, x.heat.fibre? k = some f → slides (8 * e.m1.toNat) f ∧ goodTarget (x.targetX e k))
    (hlive : ∀ k ∈ is, (x.heat.fibre? k).isSome) :
    firstTarget is (x.targetX e) (fun k => if x.slidesOut (slideOf e.m1) k then some (cause.windowOverflow, 16) else none) = none := by
  refine firstTarget_eq_none (fun k hk => if_neg ?_) fun k hk => ?_
  · rw [slideOf, Site.slidesOut_eq_false fun f hf => (hok k hk f hf).1]
    exact Bool.false_ne_true
  · obtain ⟨f, hf⟩ := Option.isSome_iff_exists.mp (hlive k hk)
    exact (hok k hk f hf).2

/-- The checks of RET pass: the slide of the link can be undone, then the target (R56, R213). -/
theorem ret_checks
    (hok : ∀ k ∈ is, ∀ f, x.heat.fibre? k = some f → x.val k 14 2 / 2 ^ 56 ∈ [0, 8, 16, 24, 32] ∧ x.val k 14 2 / 2 ^ 56 ≤ f.win ∧
      goodTarget (x.val k 14 2 % 2 ^ 56))
    (hlive : ∀ k ∈ is, (x.heat.fibre? k).isSome) :
    firstTarget is (fun k => bitsOf (x.val k 14 2) 0 56) (fun k => if x.slideBack k then none else some (cause.windowOverflow, 14)) = none := by
  refine firstTarget_eq_none (fun k hk => ?_) fun k hk => ?_
  all_goals
    obtain ⟨f, hf⟩ := Option.isSome_iff_exists.mp (hlive k hk)
    obtain ⟨hm, hw, ht⟩ := hok k hk f hf
  · rw [if_pos (Site.slideBack_eq_true hf hm hw)]
  · simpa [bitsOf] using ht

/-- BRX, CALLX, CALLX.W and RET (R213). -/
theorem computed_jumps {e : Ext} (hi : i.shape = .form m e) (hr : jumpResult i s x = some j) (h : Issues s x is j.guard j.uses)
    (hok : ∀ k ∈ is, ∀ f, x.heat.fibre? k = some f → j.ok k f) : Jumps (exec i s) s x is j := by
  have hlive : ∀ k ∈ is, (x.heat.fibre? k).isSome := fun k hk => h.live k (h.sub k hk)
  rw [jumpResult, hi] at hr
  cases m with
  | brx =>
    cases hr
    rw [exec_of_scalarOpOf hi rfl, opBrx, transferX, issue_eq (g := e.guard) (us := usesX e) h]
    simp only [account_targetX, account_slidesOut, transferX_checks hok hlive]
    exact goto_jumps h rfl (fun _ _ => rfl) fun _ => rfl
  | callx | callxW =>
    cases hr
    rw [exec_of_scalarOpOf hi rfl]
    change Jumps (transferX e true s) s x is _
    rw [transferX, issue_eq (g := e.guard) (us := usesX e) h]
    simp only [account_targetX, account_slidesOut, transferX_checks hok hlive]
    exact callTo_jumps h rfl (fun _ _ => rfl) fun _ => rfl
  | ret =>
    cases hr
    rw [exec_of_scalarOpOf hi rfl, opRet, issue_eq (g := e.guard) (us := [{ reg := 14, n := 2, rd := true }]) h]
    simp only [account_val, account_slideBack, ret_checks hok hlive, Site.bitsOf_link]
    exact slideTo_jumps h (w := fun k v => v - x.val k 14 2 / 2 ^ 56) rfl (fun _ _ => rfl) fun _ => by simp [bitsOf]
  | _ => cases hr

end

/-- Settles O12: a branch of format J goes to the target of its offset, every other transfer to a computed one. -/
theorem transfersOfControl : Obligations.TransfersOfControl := by
  intro i s x is j hr h hok
  cases hi : i.shape with
  | form m e => exact computed_jumps hi hr h hok
  | jump m b => exact branch_jumps hi hr h hok
  | event =>
    rw [jumpResult, hi] at hr
    cases hr

end Sys2Proof.Machine
end

section
/-!
SUPPORT. Float instructions: the operation of each mnemonic, in its short and its extended form (R164).
-/

namespace Sys2Proof.Machine

/-- The operation of each mnemonic of float arithmetic, picking, signs, comparison, class, quotients, roots and functions (R265 to R272). -/
def floatOpOf : Mn → Option (Ext → State → Out)
  | .fadd => some opFadd
  | .fsub => some opFsub
  | .fmul => some opFmul
  | .fma => some opFma
  | .fms => some opFms
  | .fnma => some opFnma
  | .fmin => some opFmin
  | .fmax => some opFmax
  | .fabs => some opFabs
  | .fneg => some opFneg
  | .fcpys => some opFcpys
  | .fcmp => some opFcmp
  | .fclass => some opFclass
  | .frcp => some opFrcp
  | .frsq => some opFrsq
  | .fsqrt => some opFsqrt
  | .fdiv => some opFdiv
  | .fexp2 => some opFexp2
  | .flog2 => some opFlog2
  | .fsin => some opFsin
  | .fcos => some opFcos
  | .ftanh => some opFtanh
  | .frnd => some opFrnd
  | .fscale => some opFscale
  | _ => none

/-- Every form of a float instruction, short or extended, has its operation as its meaning. -/
theorem exec_of_floatOpOf {i : Instr} {m : Mn} {e : Ext} {op : Ext → State → Out} (hi : i.shape = .form m e) (ho : floatOpOf m = some op)
    (s : State) : exec i s = op e s := by
  cases i with
  | fadd | faddExt | fsub | fsubExt | fmul | fmulExt | fma | fms | fnma | fmin | fminExt | fmax | fmaxExt | fabs | fabsExt | fneg | fnegExt
  | fcpys | fcmp | fclass | fclassExt | frcp | frcpExt | frsq | frsqExt | fsqrt | fsqrtExt | fdiv | fdivExt | fexp2 | fexp2Ext
  | flog2 | flog2Ext | fsin | fsinExt | fcos | fcosExt | ftanh | ftanhExt | frnd | frndExt | fscale | fscaleExt =>
    cases hi; cases ho; rfl
  | _ => cases hi <;> cases ho

end Sys2Proof.Machine
end

section
/-!
SUPPORT. Float arithmetic, picks, signs, class and comparison (R265 to R272): each operation computes what its table gives, and stochastic rounding
moves the generators past the numbers drawn (R78).
-/

namespace Sys2Proof.Machine

/-! ### Operands and draws after the account of an issue -/

section
variable (s : State) (x : Site) (e : Ext) (i j : Nat)

@[simp] theorem account_draw : (s.account x).2.draw e i j = x.draw e i j := by simp [Site.draw]
@[simp] theorem account_fa : (s.account x).2.fa e i j = x.fa e i j := by simp [Site.fa]
@[simp] theorem account_fb : (s.account x).2.fb e i j = x.fb e i j := by simp [Site.fb]
@[simp] theorem account_fc : (s.account x).2.fc e i j = x.fc e i j := by simp [Site.fc]
@[simp] theorem account_rnd (v : Fp) (b : Bool) : (s.account x).2.rnd e i j v b = x.rnd e i j v b := by simp [Site.rnd]
@[simp] theorem account_scaleBy : (s.account x).2.scaleBy i e = x.scaleBy i e := by simp [Site.scaleBy]
@[simp] theorem account_drawn (n : Nat) : drawn e (s.account x).2 n = drawn e x n := by simp [drawn]

end

/-! ### Element results -/

/-- Element results packed into D, each executing fibre's generator past the numbers that they drew. -/
def elementEffect (e : Ext) (x : Site) (r : Nat → Nat → Nat) : Effect :=
  { toD32 e (fun i => packLanes e.ty (r i)) with seed := drawn e x (lanesOf e.ty) }

/-- The mode SR of R78, as the field of the instruction and as the number of the mode. -/
theorem rndOf_eq_four_iff (e : Ext) : rndOf e = 4 ↔ e.rs = 4 := (BitVec.toNat_eq (y := 4)).symm

/-- Writing D and then moving the generator is the write of the element results. -/
theorem Site.drawn_dst32 (x y : Site) (e : Ext) (r : Nat → Nat → Nat) (i : Nat) :
    x.drawn e i (lanesOf e.ty) (y.dst32 i e (packLanes e.ty (r i))) = y.write (elementEffect e x r) i := by
  unfold Site.drawn elementEffect Site.write Effect.seedOn Machine.drawn
  by_cases h : e.rs = 4
  · rw [if_pos ((rndOf_eq_four_iff e).mpr h), if_pos h]
    rfl
  · rw [if_neg fun h4 => h ((rndOf_eq_four_iff e).mp h4), if_neg h]
    rfl

theorem elementEffect_account (s : State) (x : Site) (e : Ext) (r : Nat → Nat → Nat) :
    elementEffect e (s.account x).2 r = elementEffect e x r := by
  simp [elementEffect]

section
variable {s : State} {x : Site} {is : List Nat} {g : Guard} {e : Ext} {us : List Use}

/-- The first register of a destination is there. -/
theorem Issues.hasD (h : Issues s x is g us) {n : Nat} (hd : useD e n ∈ us) (hn : 0 < n) : ∀ i ∈ is, ∀ k < 1, x.Has i (e.d.toNat + k) :=
  fun i hi k hk => h.fields _ hd i hi k (Nat.lt_of_lt_of_le hk hn)

/-- An instruction that rounds its element results once computes them. -/
theorem rounds_computes (h : Issues s x is e.guard us) {n : Nat} (hd : useD e n ∈ us) (hn : 0 < n) (r : Site → Nat → Nat → Nat)
    (hr : r (s.account x).2 = r x) : Computes (rounds e us s r) s x is (elementEffect e x (r x)) :=
  issue_computes h (fun z => elementEffect e z (r z)) _ (fun z i y => z.drawn_dst32 y e (r z) i) (by rw [hr, elementEffect_account]) (h.hasD hd hn)
    (by simp [elementEffect, toD32])

/-- An instruction that computes the bits of each element. -/
theorem lanewise_computes (h : Issues s x is e.guard us) (hd : useD e e.ty.regs ∈ us) (f : Nat → Nat → Nat) :
    Computes (lanewise e us s f) s x is
      (toD32 e fun i => packLanes e.ty fun j => f (laneOf e.ty (x.srcA i e) j) (laneOf e.ty (x.srcB i e) j)) :=
  issue_computes h (fun z => toD32 e fun i => packLanes e.ty fun j => f (laneOf e.ty (z.srcA i e) j) (laneOf e.ty (z.srcB i e) j)) _
    (fun _ _ _ => rfl) (by simp) (h.hasD hd (Ty.regs_pos _)) (by simp [toD32])

end

/-! ### Sums and products (R265) -/

/-- Where no operand is a record, no chain is extended. -/
theorem chainStep_eq_none {op : ChainOp} {e : Ext} {n : Nat} {x : Site} {i : Nat} (h : x.operandRecords e i n = []) :
    chainStep op e n x i = none := by
  rw [chainStep, h, ite_self]

/-- The element results of an operation of R265 on a unit's operands. -/
def ChainOp.results (op : ChainOp) (e : Ext) (x : Site) (i j : Nat) : Nat :=
  x.rnd e i j (op.exact (rndOf e) (x.fa e i j) (x.fb e i j) (x.fc e i j))

theorem ChainOp.results_account (op : ChainOp) (e : Ext) (s : State) (x : Site) : op.results e (s.account x).2 = op.results e x := by
  funext i j
  simp [ChainOp.results]

/-- What an operation of R265 writes in one fibre: the record that it has extended, or its element results. -/
def chainWrite (op : ChainOp) (n : Nat) (e : Ext) (x : Site) (i : Nat) (y : Site) : Site :=
  match chainStep op e n x i with
  | some r => y.setSlot i e.d.toNat r
  | none => y.write (elementEffect e x (op.results e x)) i

theorem chainOp_eq (op : ChainOp) (n : Nat) (e : Ext) (us : List Use) (s : State) :
    chainOp op n e us s = issueWith (fun x i => (chainStep op e n x i).isSome) e.guard (demand us) s (regEffect (chainWrite op n e)) := by
  unfold chainOp
  congr 2
  funext x i y
  unfold chainWrite
  cases chainStep op e n x i with
  | some r => rfl
  | none => exact Site.drawn_dst32 x y e (op.results e x) i

theorem sameBut_chainWrite (op : ChainOp) (n : Nat) (e : Ext) (x : Site) (i : Nat) (y : Site) : Site.SameBut y (chainWrite op n e x i y) := by
  unfold chainWrite
  split
  · exact Site.sameBut_setSlot _ _ _ _
  · exact Site.sameBut_write _ _ _

/-- An operation of R265 that meets no record rounds its exact value. -/
theorem chainOp_computes {s : State} {x : Site} {is : List Nat} {e : Ext} {us : List Use} {n : Nat} (h : Issues s x is e.guard us)
    (hd : useD e e.ty.regs ∈ us) (op : ChainOp) (hn : ∀ i ∈ is, (s.account x).2.operandRecords e i n = []) :
    Computes (chainOp op n e us s) s x is (elementEffect e x (op.results e x)) := by
  have heffect : elementEffect e (s.account x).2 (op.results e (s.account x).2) = elementEffect e x (op.results e x) := by
    rw [op.results_account, elementEffect_account]
  rw [chainOp_eq, ← heffect]
  refine writes_spec _ (d := demand us) h (Site.barred_demand _ _ _) (fun h => by simp [demand] at h) (fun z => elementEffect e z (op.results e z))
    (chainWrite op n e) (fun i hi y => ?_) (sameBut_chainWrite op n e) (h.hasD hd (Ty.regs_pos _)) (by simp [elementEffect, toD32])
  rw [chainWrite, chainStep_eq_none (hn i hi)]

/-- An instruction whose operands hold values meets no record, C counting where it reads three. -/
theorem Site.operandRecords_nil {x : Site} {e : Ext} {i n : Nat} (ha : x.record? i e.a.toNat = none)
    (hb : (if e.osel = 0 then x.record? i e.b.toNat else none) = none) (hc : (if n = 3 then x.record? i e.c.toNat else none) = none) :
    x.operandRecords e i n = [] := by
  rw [Site.operandRecords, ha, hb, hc]
  rfl

section
variable {s : State} {x : Site} {is : List Nat} {e : Ext}

/-- FADD, FSUB and FMUL of known operands meet no record. -/
theorem operandRecords_two (h : Issues s x is e.guard (uses3 e)) : ∀ i ∈ is, (s.account x).2.operandRecords e i 2 = [] := fun i hi =>
  Site.operandRecords_nil (h.noRecordA e.ty.regs (by simp [uses3]) (Ty.regs_pos _) i hi)
    (h.noRecordB e.ty.regs (fun u hu => by simp [uses3, hu]) (Ty.regs_pos _) i hi) (if_neg (by decide))

/-- FMA of known operands meets no record. -/
theorem operandRecords_three (h : Issues s x is e.guard (uses4 e)) : ∀ i ∈ is, (s.account x).2.operandRecords e i 3 = [] := by
  intro i hi
  have hc : (s.account x).2.record? i e.c.toNat = none := by
    rw [account_record?]
    exact (h.values (readC e e.ty.regs) (by simp [uses4]) rfl i hi 0 (Ty.regs_pos _)).record?
  exact Site.operandRecords_nil (h.noRecordA e.ty.regs (by simp [uses4, uses3]) (Ty.regs_pos _) i hi)
    (h.noRecordB e.ty.regs (fun u hu => by simp [uses4, uses3, hu]) (Ty.regs_pos _) i hi) ((if_pos rfl).trans hc)

end

theorem useD_mem_uses4 (e : Ext) : useD e e.ty.regs ∈ uses4 e := List.mem_append_left _ (useD_mem_uses3 e)

/-! ### The tables -/

section
variable {i : Instr} {m : Mn} {e : Ext} {s : State} {x : Site} {is : List Nat} {us : List Use} {f : Effect}

/-- Arithmetic, quotients, roots and functions (R265, R270 to R272). -/
theorem floatResult_computes (hi : i.shape = .form m e) (hr : floatResult m e x = some (us, f)) (h : Issues s x is e.guard us) :
    Computes (exec i s) s x is f := by
  cases m with
  | fadd | fsub | fmul =>
    cases hr
    rw [exec_of_floatOpOf hi rfl]
    exact chainOp_computes h (useD_mem_uses3 e) _ (operandRecords_two h)
  | fma =>
    cases hr
    rw [exec_of_floatOpOf hi rfl]
    exact chainOp_computes h (useD_mem_uses4 e) _ (operandRecords_three h)
  | fms | fnma =>
    cases hr
    rw [exec_of_floatOpOf hi rfl]
    exact rounds_computes h (useD_mem_uses4 e) (Ty.regs_pos _) _ (by simp)
  | fdiv =>
    cases hr
    rw [exec_of_floatOpOf hi rfl]
    exact rounds_computes h (useD_mem_uses3 e) (Ty.regs_pos _) _ (by simp)
  | frcp | frsq | fsqrt | fexp2 | flog2 | fsin | fcos | ftanh | frnd =>
    cases hr
    rw [exec_of_floatOpOf hi rfl]
    exact rounds_computes h (useD_mem_uses2 e) (Ty.regs_pos _) _ (by simp)
  | fscale =>
    cases hr
    rw [exec_of_floatOpOf hi rfl]
    exact rounds_computes h (n := 1) (by simp) Nat.one_pos _ (by simp)
  | _ => cases hr

/-- Picking, signs, class and comparison (R266 to R269). -/
theorem pickResult_computes (hi : i.shape = .form m e) (hr : pickResult m e x = some (us, f)) (h : Issues s x is e.guard us) :
    Computes (exec i s) s x is f := by
  cases m with
  | fmin | fmax | fcpys =>
    cases hr
    rw [exec_of_floatOpOf hi rfl]
    exact lanewise_computes h (useD_mem_uses3 e) _
  | fabs | fneg =>
    cases hr
    rw [exec_of_floatOpOf hi rfl]
    exact lanewise_computes h (useD_mem_uses2 e) _
  | fclass =>
    cases hr
    rw [exec_of_floatOpOf hi rfl]
    exact issue_computes h (fun z => toD32 e fun k => 2 ^ (fmtOf e.ty).classBit (laneOf e.ty (z.srcA k e) 0)) _ (fun _ _ _ => rfl) (by simp)
      (h.hasD (useD_mem_uses2 e) (Ty.regs_pos _)) (by simp [toD32])
  | fcmp =>
    cases hr
    rw [exec_of_floatOpOf hi rfl]
    exact issueG_computes h (fun z => toG e.d fun k =>
        combineGuard e.mod.toNat (z.guard k (e.d.toNat % 32)) (fcondHolds (bitsOf e.m1.toNat 0 3)
          (readF e.ty (e.m1.getLsbD 3) (laneOf e.ty (z.srcA k e) 0)) (readF e.ty (e.m1.getLsbD 3) (laneOf e.ty (z.srcB k e) 0))))
      _ (fun _ _ _ => rfl) (by simp) fun _ _ _ hk => absurd hk (Nat.not_lt_zero _)
  | _ => cases hr

end

/-- Settles O3: arithmetic, quotients, roots and functions round the results of their table; picks, signs, class and comparison have their own. -/
theorem floatResults : Obligations.FloatResults := by
  intro i m e s x is us f hi hr h
  obtain hr | hr := hr
  · exact floatResult_computes hi hr h
  · exact pickResult_computes hi hr h

end Sys2Proof.Machine
end

section
/-!
SUPPORT. The words of the encoder and what the decoder reads from them: word 0 field by field, the rows of the short forms (Tables 13.1 and 13.2), and the
words of literal and extended forms (Tables 13.3 and 13.4).
-/

namespace Sys2Proof.Machine

/-! ### Word 0 -/

/-- Word 0 by its fields X, A and D, and its opcode with L (Table 13.2). -/
def fieldWord (x : BitVec 7) (a d : BitVec 8) (k : BitVec 9) : Word := x ++ a ++ d ++ k

theorem toNat_append_eq {n m : Nat} (u : BitVec n) (v : BitVec m) : (u ++ v).toNat = u.toNat * 2 ^ m + v.toNat := by
  rw [BitVec.toNat_append, ← Nat.shiftLeft_add_eq_or_of_lt v.isLt, Nat.shiftLeft_eq]

theorem toNat_extract_eq {n : Nat} (w : BitVec n) (s l : Nat) : (w.extractLsb' s l).toNat = w.toNat / 2 ^ s % 2 ^ l := by
  rw [BitVec.extractLsb'_toNat, Nat.shiftRight_eq_div_pow]

section
variable (x x' : BitVec 7) (a a' d d' : BitVec 8) (k k' : BitVec 9)

theorem fieldWord_toNat : (fieldWord x a d k).toNat = x.toNat * 2 ^ 25 + a.toNat * 2 ^ 17 + d.toNat * 2 ^ 9 + k.toNat := by
  simp only [fieldWord, toNat_append_eq]
  omega

theorem fieldWord_inj : fieldWord x a d k = fieldWord x' a' d' k' ↔ x = x' ∧ a = a' ∧ d = d' ∧ k = k' := by
  simp only [BitVec.toNat_eq, fieldWord_toNat]
  omega

@[simp] theorem fieldWord_x : (fieldWord x a d k).extractLsb' 25 7 = x :=
  BitVec.eq_of_toNat_eq (by rw [toNat_extract_eq, fieldWord_toNat]; omega)

@[simp] theorem fieldWord_a : (fieldWord x a d k).extractLsb' 17 8 = a :=
  BitVec.eq_of_toNat_eq (by rw [toNat_extract_eq, fieldWord_toNat]; omega)

@[simp] theorem fieldWord_d : (fieldWord x a d k).extractLsb' 9 8 = d :=
  BitVec.eq_of_toNat_eq (by rw [toNat_extract_eq, fieldWord_toNat]; omega)

@[simp] theorem fieldWord_op : (fieldWord x a d k).extractLsb' 2 7 = k.extractLsb' 2 7 :=
  BitVec.eq_of_toNat_eq (by rw [toNat_extract_eq, toNat_extract_eq, fieldWord_toNat]; omega)

@[simp] theorem fieldWord_l : (fieldWord x a d k).extractLsb' 0 2 = k.extractLsb' 0 2 :=
  BitVec.eq_of_toNat_eq (by rw [toNat_extract_eq, toNat_extract_eq, fieldWord_toNat]; omega)

@[simp] theorem fieldWord_ofs : (fieldWord x a d k).extractLsb' 9 23 = x ++ a ++ d :=
  BitVec.eq_of_toNat_eq (by rw [toNat_extract_eq, toNat_append_eq, toNat_append_eq, fieldWord_toNat]; omega)

@[simp] theorem fieldWord_fn3 : (fieldWord x a d k).extractLsb' 25 3 = x.extractLsb' 0 3 :=
  BitVec.eq_of_toNat_eq (by rw [toNat_extract_eq, toNat_extract_eq, fieldWord_toNat]; omega)

@[simp] theorem fieldWord_a5 : (fieldWord x a d k).extractLsb' 17 5 = a.extractLsb' 0 5 :=
  BitVec.eq_of_toNat_eq (by rw [toNat_extract_eq, toNat_extract_eq, fieldWord_toNat]; omega)

@[simp] theorem fieldWord_d5 : (fieldWord x a d k).extractLsb' 9 5 = d.extractLsb' 0 5 :=
  BitVec.eq_of_toNat_eq (by rw [toNat_extract_eq, toNat_extract_eq, fieldWord_toNat]; omega)

@[simp] theorem fieldWord_d4 : (fieldWord x a d k).extractLsb' 9 4 = d.extractLsb' 0 4 :=
  BitVec.eq_of_toNat_eq (by rw [toNat_extract_eq, toNat_extract_eq, fieldWord_toNat]; omega)

end

/-- Every word is made of its fields. -/
theorem fieldWord_extract (w : Word) : fieldWord (w.extractLsb' 25 7) (w.extractLsb' 17 8) (w.extractLsb' 9 8) (w.extractLsb' 0 9) = w := by
  apply BitVec.eq_of_toNat_eq
  simp only [fieldWord_toNat, toNat_extract_eq]
  omega

/-- The fixed bits of a row, field by field. -/
theorem fieldWord_and_eq (x : BitVec 7) (a d : BitVec 8) (k : BitVec 9) (m v : Word) : fieldWord x a d k &&& m = v ↔
    x &&& m.extractLsb' 25 7 = v.extractLsb' 25 7 ∧ a &&& m.extractLsb' 17 8 = v.extractLsb' 17 8 ∧
      d &&& m.extractLsb' 9 8 = v.extractLsb' 9 8 ∧ k &&& m.extractLsb' 0 9 = v.extractLsb' 0 9 := by
  conv_lhs => rw [← fieldWord_extract m, ← fieldWord_extract v]
  rw [fieldWord, fieldWord, BitVec.and_append, BitVec.and_append, BitVec.and_append]
  exact fieldWord_inj ..

/-! A guard, a mask or an operation of GOP in its field, whose upper bits are zero. -/

@[simp] theorem zero_guard_and : ∀ g : BitVec 5, (0#3 ++ g : BitVec 8) &&& 0xE0#8 = 0#8 := by decide
@[simp] theorem zero_guard_extract : ∀ g : BitVec 5, (0#3 ++ g : BitVec 8).extractLsb' 0 5 = g := by decide
@[simp] theorem zero_mask_and : ∀ m : BitVec 4, (0#4 ++ m : BitVec 8) &&& 0xF0#8 = 0#8 := by decide
@[simp] theorem zero_mask_extract : ∀ m : BitVec 4, (0#4 ++ m : BitVec 8).extractLsb' 0 4 = m := by decide
@[simp] theorem zero_fn_and : ∀ f : BitVec 3, (0#4 ++ f : BitVec 7) &&& 0x78#7 = 0#7 := by decide
@[simp] theorem zero_fn_extract : ∀ f : BitVec 3, (0#4 ++ f : BitVec 7).extractLsb' 0 3 = f := by decide

/-! ### The words of short forms (Table 13.2, R154) -/

section
variable (x : BitVec 7) (a d : BitVec 8) (k : BitVec 9) (g h : BitVec 5) (m : BitVec 4)

theorem word_low17 (l : BitVec 17) : x ++ a ++ l = fieldWord x a (l.extractLsb' 9 8) (l.extractLsb' 0 9) := by
  apply BitVec.eq_of_toNat_eq
  simp only [fieldWord_toNat, toNat_append_eq, toNat_extract_eq]
  omega

theorem word_low25 (l : BitVec 25) : x ++ l = fieldWord x (l.extractLsb' 17 8) (l.extractLsb' 9 8) (l.extractLsb' 0 9) := by
  apply BitVec.eq_of_toNat_eq
  simp only [fieldWord_toNat, toNat_append_eq, toNat_extract_eq]
  omega

theorem word_ofs (o : BitVec 23) : o ++ k = fieldWord (o.extractLsb' 16 7) (o.extractLsb' 8 8) (o.extractLsb' 0 8) k := by
  apply BitVec.eq_of_toNat_eq
  simp only [fieldWord_toNat, toNat_append_eq, toNat_extract_eq]
  omega

theorem ofs_extract (o : BitVec 23) : o.extractLsb' 16 7 ++ o.extractLsb' 8 8 ++ o.extractLsb' 0 8 = o := by
  apply BitVec.eq_of_toNat_eq
  simp only [toNat_append_eq, toNat_extract_eq]
  omega

theorem word_mask (u : BitVec 19) : u ++ m ++ k = fieldWord (u.extractLsb' 12 7) (u.extractLsb' 4 8) (u.extractLsb' 0 4 ++ m) k := by
  apply BitVec.eq_of_toNat_eq
  simp only [fieldWord_toNat, toNat_append_eq, toNat_extract_eq]
  omega

theorem word_a_mask : x ++ a ++ 0#4 ++ m ++ k = fieldWord x a (0#4 ++ m) k := by
  apply BitVec.eq_of_toNat_eq
  simp only [fieldWord_toNat, toNat_append_eq]
  omega

theorem word_a_guard : x ++ a ++ 0#3 ++ g ++ k = fieldWord x a (0#3 ++ g) k := by
  apply BitVec.eq_of_toNat_eq
  simp only [fieldWord_toNat, toNat_append_eq]
  omega

theorem word_guards (f : BitVec 3) : 0#4 ++ f ++ 0#3 ++ g ++ 0#3 ++ h ++ k = fieldWord (0#4 ++ f) (0#3 ++ g) (0#3 ++ h) k := by
  apply BitVec.eq_of_toNat_eq
  simp only [fieldWord_toNat, toNat_append_eq]
  omega

theorem word_guard_d (u : BitVec 10) : u ++ g ++ d ++ k = fieldWord (u.extractLsb' 3 7) (u.extractLsb' 0 3 ++ g) d k := by
  apply BitVec.eq_of_toNat_eq
  simp only [fieldWord_toNat, toNat_append_eq, toNat_extract_eq]
  omega

theorem word_d (u : BitVec 15) : u ++ d ++ k = fieldWord (u.extractLsb' 8 7) (u.extractLsb' 0 8) d k := by
  apply BitVec.eq_of_toNat_eq
  simp only [fieldWord_toNat, toNat_append_eq, toNat_extract_eq]
  omega

end

/-- The mnemonic of a form or a branch. -/
def mnemonicOf : Shape → Option Mn
  | .form m _ | .jump m _ => some m
  | .event => none

/-- A word is that of a short form of a mnemonic: its opcode and X name the mnemonic, its L is 00, and its other fields give the instruction. -/
structure ShortRow (m : Mn) (w : Word) (i : Instr) : Prop where
  mn : mnOf (w.extractLsb' 2 7) (w.extractLsb' 25 7) = some m
  len : w.extractLsb' 0 2 = 0
  form : m.mkShort w = some i

theorem ShortRow.of_fields {m : Mn} {i : Instr} {x : BitVec 7} {a d : BitVec 8} {k : BitVec 9} (hm : mnOf (k.extractLsb' 2 7) x = some m)
    (hl : k.extractLsb' 0 2 = 0) (hi : m.mkShort (fieldWord x a d k) = some i) : ShortRow m (fieldWord x a d k) i where
  mn := by rw [fieldWord_op, fieldWord_x, hm]
  len := by rw [fieldWord_l, hl]
  form := hi

theorem mnOf_gop : ∀ f : BitVec 3, mnOf 0x22 (0#4 ++ f) = some .gop := by decide

theorem exists_shortRow {i : Instr} {w : Word} (h : encodeShort i = some w) : ∃ m, mnemonicOf i.shape = some m ∧ ShortRow m w i := by
  cases i with
  | nop | yield | endI | ret | xlock | xfree | fence | phase | wdrain | mxwait | mxfence | eret =>
    cases h
    exact ⟨_, rfl, rfl, rfl, rfl⟩
  | add | sub | addc | subb | mul | mulh | div | rem | min | max | and | or | xor | andn | shl | shr | sha | rot | perm | cmpv | lea | ld | st
  | fadd | fsub | fmul | fmin | fmax | fdiv | fscale | neg | abs | not | popc | clz | ctz | brev | mov | movi | sptest | spcastOfs | spcastGen
  | shfl | bcast | barInit | barArv | barExp | barWait | barTry | fifoPut | fifoGet | fifoStat | fabs | fneg | fclass | frcp | frsq | fsqrt | fexp2
  | flog2 | fsin | fcos | ftanh | frnd =>
    cases h
    exact ⟨_, rfl, .of_fields rfl rfl (by simp [Mn.mkShort, fieldWord_and_eq])⟩
  | brx | callx | pref | flush | flushInv | btnSync =>
    cases h
    rw [word_low17]
    exact ⟨_, rfl, .of_fields rfl rfl (by simp [Mn.mkShort, fieldWord_and_eq])⟩
  | trap | brk =>
    cases h
    rw [word_low25]
    exact ⟨_, rfl, .of_fields rfl rfl (by simp [Mn.mkShort, fieldWord_and_eq])⟩
  | bra | call =>
    cases h
    rw [word_ofs]
    exact ⟨_, rfl, .of_fields rfl rfl (by simp [Mn.mkShort, fieldWord_and_eq, ofs_extract])⟩
  | join | leave | waitm =>
    cases h
    rw [word_mask]
    exact ⟨_, rfl, .of_fields rfl rfl (by simp [Mn.mkShort, fieldWord_and_eq])⟩
  | mset | mget =>
    cases h
    rw [word_a_mask]
    exact ⟨_, rfl, .of_fields rfl rfl (by simp [Mn.mkShort, fieldWord_and_eq])⟩
  | cmp | btnTest =>
    cases h
    rw [word_a_guard]
    exact ⟨_, rfl, .of_fields rfl rfl (by simp [Mn.mkShort, fieldWord_and_eq])⟩
  | gop =>
    cases h
    rw [word_guards]
    exact ⟨_, rfl, .of_fields (mnOf_gop _) rfl (by simp [Mn.mkShort, fieldWord_and_eq])⟩
  | vote =>
    cases h
    rw [word_guard_d]
    exact ⟨_, rfl, .of_fields rfl rfl (by simp [Mn.mkShort, fieldWord_and_eq])⟩
  | fifoClose | mxstat =>
    cases h
    rw [word_d]
    exact ⟨_, rfl, .of_fields rfl rfl (by simp [Mn.mkShort, fieldWord_and_eq])⟩
  | _ => nomatch h

/-! ### What decoding finds -/

theorem mnOf_eq_none_of_reservedOp {op : BitVec 7} (h : reservedOp op = true) (fn : BitVec 7) : mnOf op fn = none := by
  rw [reservedOp_iff] at h
  unfold mnOf
  generalize op.toNat = n at h
  obtain ⟨_, _⟩ | ⟨_, _⟩ | ⟨_, _⟩ := h <;> interval_cases n <;> rfl

/-- Words whose opcode and X name a mnemonic that runs on the unit, and of which a well-formed form can be read, decode to it (R167). -/
theorem decode_eq_ok {k : UnitKind} {w : Word} {r : List Word} {m : Mn} {i : Instr} {n : Nat}
    (hm : mnOf (w.extractLsb' 2 7) (w.extractLsb' 25 7) = some m) (hk : m.runsOn k = true) (hf : formOf m (w :: r) = some (i, n))
    (hw : i.wf = true) : decode k (w :: r) = .ok i n := by
  have hzero : w ≠ 0 := by
    rintro rfl
    cases hm
  have hres : reservedOp (w.extractLsb' 2 7) ≠ true := fun h => by
    rw [mnOf_eq_none_of_reservedOp h] at hm
    cases hm
  simp only [decode, if_neg hzero, if_neg hres, hm, hk, hf, hw, reduceCtorEq, if_true, if_false]

theorem decode_of_shortRow {k : UnitKind} {w : Word} {r : List Word} {m : Mn} {i : Instr} (h : ShortRow m w i) (hk : m.runsOn k = true)
    (hw : i.wf = true) : decode k (w :: r) = .ok i 4 :=
  decode_eq_ok h.mn hk (by simp [formOf, h.len, h.form]) hw

/-! ### Words 0 to 2 of literal and extended forms (Tables 13.2 to 13.4) -/

theorem op_append_op (op : BitVec 7) (l : BitVec 2) : BitVec.extractLsb' (n := 9) 2 7 (op ++ l) = op := BitVec.extractLsb'_append_eq_left

theorem op_append_l (op : BitVec 7) (l : BitVec 2) : BitVec.extractLsb' (n := 9) 0 2 (op ++ l) = l := BitVec.extractLsb'_append_eq_right

theorem word_op (x : BitVec 7) (a d : BitVec 8) (op : BitVec 7) (l : BitVec 2) : x ++ a ++ d ++ op ++ l = fieldWord x a d (op ++ l) := by
  apply BitVec.eq_of_toNat_eq
  simp only [fieldWord_toNat, toNat_append_eq]
  omega

theorem word_ofs_op (o : BitVec 23) (op : BitVec 7) (l : BitVec 2) :
    o ++ op ++ l = fieldWord (o.extractLsb' 16 7) (o.extractLsb' 8 8) (o.extractLsb' 0 8) (op ++ l) := by
  apply BitVec.eq_of_toNat_eq
  simp only [fieldWord_toNat, toNat_append_eq, toNat_extract_eq]
  omega

/-- Word 1: M1, T, the guard, C and B (Table 13.3). -/
def word1 (m1 : BitVec 4) (t : BitVec 5) (g : BitVec 7) (c b : BitVec 8) : Word := m1 ++ t ++ g ++ c ++ b

/-- Word 2: imm16, P, OSEL, RS and MOD (Table 13.4). -/
def word2 (imm : BitVec 16) (p : BitVec 8) (osel : BitVec 2) (rs md : BitVec 3) : Word := imm ++ p ++ osel ++ rs ++ md

section
variable (m1 : BitVec 4) (t : BitVec 5) (g : BitVec 7) (c b : BitVec 8)

theorem word1_toNat : (word1 m1 t g c b).toNat = m1.toNat * 2 ^ 28 + t.toNat * 2 ^ 23 + g.toNat * 2 ^ 16 + c.toNat * 2 ^ 8 + b.toNat := by
  simp only [word1, toNat_append_eq]
  omega

@[simp] theorem word1_m1 : (word1 m1 t g c b).extractLsb' 28 4 = m1 :=
  BitVec.eq_of_toNat_eq (by rw [toNat_extract_eq, word1_toNat]; omega)

@[simp] theorem word1_ty : (word1 m1 t g c b).extractLsb' 23 5 = t :=
  BitVec.eq_of_toNat_eq (by rw [toNat_extract_eq, word1_toNat]; omega)

@[simp] theorem word1_guard : (word1 m1 t g c b).extractLsb' 16 7 = g :=
  BitVec.eq_of_toNat_eq (by rw [toNat_extract_eq, word1_toNat]; omega)

@[simp] theorem word1_c : (word1 m1 t g c b).extractLsb' 8 8 = c :=
  BitVec.eq_of_toNat_eq (by rw [toNat_extract_eq, word1_toNat]; omega)

@[simp] theorem word1_b : (word1 m1 t g c b).extractLsb' 0 8 = b :=
  BitVec.eq_of_toNat_eq (by rw [toNat_extract_eq, word1_toNat]; omega)

end

section
variable (imm : BitVec 16) (p : BitVec 8) (osel : BitVec 2) (rs md : BitVec 3)

theorem word2_toNat : (word2 imm p osel rs md).toNat = imm.toNat * 2 ^ 16 + p.toNat * 2 ^ 8 + osel.toNat * 2 ^ 6 + rs.toNat * 2 ^ 3 + md.toNat := by
  simp only [word2, toNat_append_eq]
  omega

@[simp] theorem word2_imm : (word2 imm p osel rs md).extractLsb' 16 16 = imm :=
  BitVec.eq_of_toNat_eq (by rw [toNat_extract_eq, word2_toNat]; omega)

@[simp] theorem word2_p : (word2 imm p osel rs md).extractLsb' 8 8 = p :=
  BitVec.eq_of_toNat_eq (by rw [toNat_extract_eq, word2_toNat]; omega)

@[simp] theorem word2_osel : (word2 imm p osel rs md).extractLsb' 6 2 = osel :=
  BitVec.eq_of_toNat_eq (by rw [toNat_extract_eq, word2_toNat]; omega)

@[simp] theorem word2_rs : (word2 imm p osel rs md).extractLsb' 3 3 = rs :=
  BitVec.eq_of_toNat_eq (by rw [toNat_extract_eq, word2_toNat]; omega)

@[simp] theorem word2_mod : (word2 imm p osel rs md).extractLsb' 0 3 = md :=
  BitVec.eq_of_toNat_eq (by rw [toNat_extract_eq, word2_toNat]; omega)

end

@[simp] theorem tyOf_code (t : Ty) : tyOf t.code = some t := by cases t <;> rfl

theorem extract_extract {n : Nat} (w : BitVec n) (s : Nat) {l len : Nat} (h : l ≤ len) : (w.extractLsb' s len).extractLsb' 0 l = w.extractLsb' s l := by
  apply BitVec.eq_of_toNat_eq
  rw [toNat_extract_eq, toNat_extract_eq, toNat_extract_eq, Nat.pow_zero, Nat.div_one, Nat.mod_mod_of_dvd _ (Nat.pow_dvd_pow 2 h)]

/-- The guard of a word depends on its bits [22:16] alone. -/
theorem guardOf_eq (w : Word) : guardOf w =
    if (w.extractLsb' 16 7).getLsbD 6 then
      some (if (w.extractLsb' 16 7).getLsbD 5 then .ifClear ((w.extractLsb' 16 7).extractLsb' 0 5) else .ifSet ((w.extractLsb' 16 7).extractLsb' 0 5))
    else if (w.extractLsb' 16 7).extractLsb' 0 6 = 0 then some .always else none := by
  rw [guardOf, extract_extract w 16 (by decide), extract_extract w 16 (by decide), BitVec.getLsbD_extractLsb', BitVec.getLsbD_extractLsb']
  rfl

theorem guardOf_bits {w : Word} {g : Guard} (h : w.extractLsb' 16 7 = g.bits) : guardOf w = some g := by
  rw [guardOf_eq, h]
  cases g with
  | always => rfl
  | ifSet g | ifClear g =>
    clear h
    revert g
    decide

theorem litWord_eq (l : DWord) : litWord (l.extractLsb' 0 32) (l.extractLsb' 32 32) = l := BitVec.extractLsb'_append_extractLsb'

/-- The fields read back from the words of an extended form. -/
theorem extOf_words (e : Ext) (k : BitVec 9) :
    extOf e.form (fieldWord e.x e.a e.d k) (word1 e.m1 e.ty.code e.guard.bits e.c e.b) (word2 e.imm e.p e.osel e.rs e.mod) e.lit = some e := by
  simp only [extOf, guardOf_bits (word1_guard ..), word1_ty, tyOf_code, fieldWord_x, fieldWord_a, fieldWord_d, word1_b, word1_c, word1_m1, word2_osel,
    word2_rs, word2_mod, word2_p, word2_imm]

theorem jumpOf_words (j : JExt) (k : BitVec 9) :
    jumpOf (fieldWord (j.ofs.extractLsb' 16 7) (j.ofs.extractLsb' 8 8) (j.ofs.extractLsb' 0 8) k) (word1 j.m1 0 j.guard.bits 0 0) 0 = some j := by
  have h16 : (word1 j.m1 0 j.guard.bits 0 0).extractLsb' 0 16 = 0 :=
    BitVec.eq_of_toNat_eq (by rw [toNat_extract_eq, word1_toNat]; simp; omega)
  simp only [jumpOf, guardOf_bits (word1_guard ..), h16, word1_ty, fieldWord_ofs, ofs_extract, word1_m1, and_self, if_true]

/-! ### The mnemonic that opcode, X and M1 select -/

/-- The mnemonic of the row of an opcode and a function code, of which M1 selects the form (R212, R213, R255). -/
def rowOf : Mn → Mn
  | .callW => .call
  | .callxW => .callx
  | .cpyPtrSt | .cpyPtrClr => .cpyPtr
  | m => m

theorem mnOf_op {m : Mn} {x : BitVec 7} (h : m.fnOk x = true) : mnOf m.op x = some (rowOf m) := by
  cases m with
  | gop | amo | red =>
    revert x
    decide
  | _ =>
    cases of_decide_eq_true h
    rfl

theorem runsOn_rowOf (m : Mn) (k : UnitKind) : (rowOf m).runsOn k = m.runsOn k := by cases m <;> rfl

theorem byM1_rowOf {m : Mn} {e : Ext} (h : m.fieldsOk e = true) : (rowOf m).byM1 e.m1 = m := by
  cases m with
  | call => cases h
  | callW => cases h
  | callx =>
    obtain ⟨-, -, -, -, h1, -⟩ := of_decide_eq_true h
    simp [rowOf, Mn.byM1, h1]
  | callxW =>
    obtain ⟨-, -, h1, -⟩ := of_decide_eq_true h
    have h0 : e.m1 ≠ 0 := fun h0 => absurd (h0 ▸ h1) (by decide)
    simp only [rowOf, Mn.byM1, if_neg h0]
  | cpyPtr =>
    obtain ⟨-, -, -, -, -, h1, -⟩ := of_decide_eq_true h
    simp [rowOf, Mn.byM1, h1]
  | cpyPtrSt | cpyPtrClr =>
    obtain ⟨-, -, -, h1, -⟩ := of_decide_eq_true h
    simp [rowOf, Mn.byM1, h1]
  | _ => rfl

/-- An instruction that is no short form is its mnemonic's literal or extended form. -/
theorem mkExt_of_shape {i : Instr} {m : Mn} {e : Ext} (hs : encodeShort i = none) (hi : i.shape = .form m e) : m.mkExt e = some i := by
  cases i with
  | nop | yield | endI | ret | xlock | xfree | fence | phase | wdrain | mxwait | mxfence | eret
  | add | sub | addc | subb | mul | mulh | div | rem | min | max | and | or | xor | andn | shl | shr | sha | rot | perm | cmpv | lea | ld | st
  | fadd | fsub | fmul | fmin | fmax | fdiv | fscale | neg | abs | not | popc | clz | ctz | brev | mov | movi | sptest | spcastOfs | spcastGen
  | shfl | bcast | barInit | barArv | barExp | barWait | barTry | fifoPut | fifoGet | fifoStat | fabs | fneg | fclass | frcp | frsq | fsqrt | fexp2
  | flog2 | fsin | fcos | ftanh | frnd | brx | callx | pref | flush | flushInv | btnSync | trap | brk | bra | call | join | leave | waitm
  | mset | mget | cmp | btnTest | gop | vote | fifoClose | mxstat => cases hs
  | _ => cases hi <;> rfl

theorem mkJump_of_shape {i : Instr} {m : Mn} {j : JExt} (hs : encodeShort i = none) (hi : i.shape = .jump m j) : m.mkJump j = some i := by
  cases i with
  | braExt | callExt | callW => cases hi; rfl
  | bra | call => cases hs
  | _ => cases hi

/-! ### Literal and extended forms, and those of format J -/

/-- What a literal or extended form's check 4 says, part by part. -/
theorem extOk_iff {m : Mn} {e : Ext} : m.extOk e = true ↔
    m.fnOk e.x = true ∧ m.fieldsOk e = true ∧ (e.form = .shortLit → m.shortLitOk e = true) ∧ (e.form ≠ .extLit → e.form ≠ .shortLit → e.lit = 0) :=
  ⟨of_decide_eq_true, decide_eq_true⟩

/-- A short form with literal names its mnemonic by opcode and X alone. -/
theorem rowOf_of_shortLit {m : Mn} {e : Ext} (hf : m.fieldsOk e = true) (hs : m.shortLitOk e = true) : rowOf m = m := by
  have hb := byM1_rowOf hf
  obtain ⟨-, -, -, -, h1, -, -, -, -, -, hx⟩ := of_decide_eq_true hs
  rw [h1] at hb
  cases m with
  | callW | callxW | cpyPtrSt | cpyPtrClr => cases hb
  | _ => rfl

/-- The fields that a short form with literal leaves out are those that R164 gives it. -/
theorem litOf_words {m : Mn} {e : Ext} (hl : e.form = .shortLit) (hs : m.shortLitOk e = true) (k : BitVec 9) :
    litOf m (fieldWord e.x e.a e.d k) e.lit = e := by
  obtain ⟨hg, ht, hb, hc, h1, hr, hm, hp, hi, ho, -⟩ := of_decide_eq_true hs
  obtain ⟨form, x, a, d, b, c, guard, ty, m1, osel, rs, mod, p, imm, lit⟩ := e
  simp only at hl hg ht hb hc h1 hr hm hp hi ho
  simp only [litOf, fieldWord_x, fieldWord_a, fieldWord_d, hl, hg, ht, hb, hc, h1, hr, hm, hp, hi, ho]

/-- The first word of a literal or extended form has its L. -/
theorem encodeExt_eq (m : Mn) (e : Ext) : encodeExt m e =
    fieldWord e.x e.a e.d (m.op ++ e.form.bits) ::
      (match e.form with
        | .shortLit => [e.lit.extractLsb' 0 32, e.lit.extractLsb' 32 32]
        | .ext => [word1 e.m1 e.ty.code e.guard.bits e.c e.b, word2 e.imm e.p e.osel e.rs e.mod]
        | .extLit => [word1 e.m1 e.ty.code e.guard.bits e.c e.b, word2 e.imm e.p e.osel e.rs e.mod, e.lit.extractLsb' 0 32, e.lit.extractLsb' 32 32]) := by
  rw [← word_op]
  unfold encodeExt
  cases e.form <;> rfl

/-- No literal or extended form is one of format J. -/
theorem not_jump_of_fieldsOk {m : Mn} {e : Ext} (h : m.fieldsOk e = true) : m ≠ .bra ∧ m ≠ .call ∧ m ≠ .callW := by
  refine ⟨?_, ?_, ?_⟩ <;> rintro rfl <;> cases h

theorem formOf_ext {m n : Mn} {w0 w1 w2 : Word} (r : List Word) (hl : (w0.extractLsb' 0 2).toNat = 2) (hn : m.byM1 (w1.extractLsb' 28 4) = n)
    (hb : n ≠ .bra) (hc : n ≠ .call) (hcw : n ≠ .callW) :
    formOf m (w0 :: w1 :: w2 :: r) = (extOf .ext w0 w1 w2 0).bind fun e => (n.mkExt e).map fun i => (i, 12) := by
  simp only [formOf, hl, hn]

theorem formOf_extLit {m n : Mn} {w0 w1 w2 lo hi : Word} (r : List Word) (hl : (w0.extractLsb' 0 2).toNat = 3) (hn : m.byM1 (w1.extractLsb' 28 4) = n) :
    formOf m (w0 :: w1 :: w2 :: lo :: hi :: r) = (extOf .extLit w0 w1 w2 (litWord lo hi)).bind fun e => (n.mkExt e).map fun i => (i, 20) := by
  simp only [formOf, hl, hn]

theorem formOf_jump {m n : Mn} {w0 w1 w2 : Word} (r : List Word) (hl : (w0.extractLsb' 0 2).toNat = 2) (hn : m.byM1 (w1.extractLsb' 28 4) = n)
    (hj : n = .bra ∨ n = .call ∨ n = .callW) :
    formOf m (w0 :: w1 :: w2 :: r) = (jumpOf w0 w1 w2).bind fun j => (n.mkJump j).map fun i => (i, 12) := by
  simp only [formOf, hl, hn]
  obtain rfl | rfl | rfl := hj <;> rfl

theorem formOf_shortLit {m : Mn} {w0 lo hi : Word} (r : List Word) (hl : (w0.extractLsb' 0 2).toNat = 1) :
    formOf m (w0 :: lo :: hi :: r) = (m.mkExt (litOf m w0 (litWord lo hi))).map fun i => (i, 12) := by
  simp only [formOf, hl]

theorem formOf_encodeExt {m : Mn} {e : Ext} {i : Instr} (r : List Word) (hi : m.mkExt e = some i) (hw : m.extOk e = true) :
    formOf (rowOf m) (encodeExt m e ++ r) = some (i, 4 * (encodeExt m e).length) := by
  obtain ⟨-, hf, hlit, hz⟩ := extOk_iff.mp hw
  obtain ⟨hb, hc, hcw⟩ := not_jump_of_fieldsOk hf
  have he := extOf_words e (m.op ++ e.form.bits)
  have hl : (fieldWord e.x e.a e.d (m.op ++ e.form.bits)).extractLsb' 0 2 = e.form.bits := by rw [fieldWord_l, op_append_l]
  have hn : (rowOf m).byM1 ((word1 e.m1 e.ty.code e.guard.bits e.c e.b).extractLsb' 28 4) = m := by rw [word1_m1, byM1_rowOf hf]
  rw [encodeExt_eq]
  cases hform : e.form <;> rw [hform] at he hl
  case shortLit =>
    rw [rowOf_of_shortLit hf (hlit hform)]
    refine (formOf_shortLit r (congrArg _ hl)).trans ?_
    rw [litWord_eq, litOf_words hform (hlit hform), hi]
    rfl
  case ext =>
    rw [hz (by simp [hform]) (by simp [hform])] at he
    refine (formOf_ext r (congrArg _ hl) hn hb hc hcw).trans ?_
    rw [he, Option.bind_some, hi]
    rfl
  case extLit =>
    refine (formOf_extLit r (congrArg _ hl) hn).trans ?_
    rw [litWord_eq, he, Option.bind_some, hi]
    rfl

theorem decode_encodeExt {k : UnitKind} {m : Mn} {e : Ext} {i : Instr} (r : List Word) (hi : m.mkExt e = some i) (hw : m.extOk e = true)
    (hk : m.runsOn k = true) (hwf : i.wf = true) : decode k (encodeExt m e ++ r) = .ok i (4 * (encodeExt m e).length) := by
  have hf := formOf_encodeExt r hi hw
  rw [encodeExt_eq] at hf ⊢
  refine decode_eq_ok ?_ ((runsOn_rowOf m k).trans hk) hf hwf
  rw [fieldWord_op, fieldWord_x, op_append_op, mnOf_op (extOk_iff.mp hw).1]

theorem encodeJump_eq (m : Mn) (j : JExt) : encodeJump m j =
    [fieldWord (j.ofs.extractLsb' 16 7) (j.ofs.extractLsb' 8 8) (j.ofs.extractLsb' 0 8) (m.op ++ 0b10#2), word1 j.m1 0 j.guard.bits 0 0, 0] := by
  have h1 : j.m1 ++ 0#5 ++ j.guard.bits ++ 0#16 = word1 j.m1 0 j.guard.bits 0 0 := by
    apply BitVec.eq_of_toNat_eq
    rw [word1_toNat]
    simp only [toNat_append_eq]
    simp
    omega
  rw [← word_ofs_op, ← h1]
  rfl

/-- What the row of a mnemonic of format J gives, whatever bits of OFS stand in X, and the form that its M1 selects. -/
theorem jump_row {m : Mn} {j : JExt} (h : m.jOk j = true) (x : BitVec 7) :
    (m = .bra ∨ m = .call ∨ m = .callW) ∧ mnOf m.op x = some (rowOf m) ∧ (rowOf m).byM1 j.m1 = m := by
  cases m with
  | bra => exact ⟨.inl rfl, rfl, rfl⟩
  | call =>
    have h1 : j.m1 = 0 := of_decide_eq_true h
    exact ⟨.inr (.inl rfl), rfl, if_pos h1⟩
  | callW =>
    have h1 : j.m1 ≠ 0 := fun h0 => absurd (h0 ▸ (of_decide_eq_true h).1) (by decide)
    exact ⟨.inr (.inr rfl), rfl, if_neg h1⟩
  | _ => cases h

theorem decode_encodeJump {k : UnitKind} {m : Mn} {j : JExt} {i : Instr} (r : List Word) (hi : m.mkJump j = some i) (hw : m.jOk j = true)
    (hk : m.runsOn k = true) (hwf : i.wf = true) : decode k (encodeJump m j ++ r) = .ok i (4 * (encodeJump m j).length) := by
  rw [encodeJump_eq]
  obtain ⟨hj, hmn, hm1⟩ := jump_row hw (j.ofs.extractLsb' 16 7)
  refine decode_eq_ok (m := rowOf m) ?_ ((runsOn_rowOf m k).trans hk) ?_ hwf
  · rw [fieldWord_op, fieldWord_x, op_append_op, hmn]
  · refine (formOf_jump r (by rw [fieldWord_l, op_append_l]; rfl) (by rw [word1_m1, hm1]) hj).trans ?_
    rw [jumpOf_words, Option.bind_some, hi]
    rfl

/-- Settles O5: a short form by its row, every other form by the fields of its words. -/
theorem decodeOfEncode : Obligations.DecodeOfEncode := by
  intro i k r hw hev hform hjump
  unfold encode
  cases hs : encodeShort i with
  | some w =>
    obtain ⟨m, hm, hrow⟩ := exists_shortRow hs
    refine decode_of_shortRow hrow ?_ hw
    cases hi : i.shape with
    | form m' e => rw [hi] at hm; cases hm; exact hform _ _ hi
    | jump m' j => rw [hi] at hm; cases hm; exact hjump _ _ hi
    | event => exact absurd hi hev
  | none =>
    cases hi : i.shape with
    | form m e =>
      have hok : m.extOk e = true := by rw [← hw, Instr.wf, hi]
      exact decode_encodeExt r (mkExt_of_shape hs hi) hok (hform _ _ hi) hw
    | jump m j =>
      have hok : m.jOk j = true := by rw [← hw, Instr.wf, hi]
      exact decode_encodeJump r (mkJump_of_shape hs hi) hok (hjump _ _ hi) hw
    | event => exact absurd hi hev

end Sys2Proof.Machine
end

section
/-!
SUPPORT. The step (R34, R35, R151, R167, R397): fetching words, the turn of the unit that issues, the agenda, and the state after a cold reset.
-/

namespace Sys2Proof.Machine

/-- Settles O4: each word decodes by evaluation. -/
theorem specWordsDecode : Obligations.SpecWordsDecode := by
  refine ⟨?_, ?_, ?_, ?_, ?_, ?_, ?_, ?_, ?_, ?_⟩ <;> rfl

/-! ### After a cold reset -/

theorem mem_reset_dies {d : Die} (hd : d ∈ State.reset.dies) : d = Die.reset := List.eq_of_mem_replicate hd

theorem mem_reset_clusters {c : Cluster} (hc : c ∈ Die.reset.clusters) : c = Cluster.reset := List.eq_of_mem_replicate hc

theorem mem_reset_banks {b : Bank} (hb : b ∈ Cluster.reset.banks) : b.mode = .cache ∧ b.fifo = none := by
  cases List.eq_of_mem_replicate hb
  exact ⟨rfl, rfl⟩

theorem mem_reset_chans {q : Chan} (hq : q ∈ Cluster.reset.chans) : q.owner = none ∧ q.queue = [] ∧ q.err = false ∧ q.w = 0 := by
  cases List.eq_of_mem_replicate hq
  exact ⟨rfl, rfl, rfl, rfl⟩

/-- Settles O11: every die, cluster, bank and channel is a copy of the one after reset. -/
theorem resetState : Obligations.ResetState := by
  refine ⟨⟨rfl, fun t ht => nomatch ht⟩, rfl, rfl, fun d hd => ?_, rfl, rfl, rfl, rfl, rfl, rfl, rfl, Memory.get_nil⟩
  cases mem_reset_dies hd
  refine ⟨rfl, rfl, rfl, rfl, fun c hc => ?_⟩
  cases mem_reset_clusters hc
  exact ⟨rfl, fun b => mem_reset_banks, rfl, rfl, rfl, fun q => mem_reset_chans⟩

/-! ### Fetching (R151) -/

theorem wordsFrom_wordBytes (v : Word) : wordsFrom (wordBytes v) = [v] := by
  have h : v.extractLsb' 24 8 ++ v.extractLsb' 16 8 ++ v.extractLsb' 8 8 ++ v.extractLsb' 0 8 = v := by
    apply BitVec.eq_of_toNat_eq
    simp only [toNat_append_eq, toNat_extract_eq]
    omega
  exact congrArg (· :: []) h

/-- The word v can be fetched at a PC: the access is permitted, and the home's bytes, as the page shows them, are those of v. -/
def State.Holds (s : State) (x : Site) (pc : Pc) (v : Word) : Prop :=
  ∃ h, s.reach x.team.cl.die x.team.ctx x.tlb pc.toNat .exec .plain = .ok h ∧
    (match s.pageEntry x.team.ctx h with
      | some f => deadZero f (pc.toNat - h.base) (s.homeRead (h.phys pc.toNat) 4).1
      | none => (s.homeRead (h.phys pc.toNat) 4).1) = wordBytes v

theorem State.fetchWord_eq {s : State} {x : Site} {pc : Pc} {v : Word} (hv : s.Holds x pc v) : s.fetchWord x pc = .ok v := by
  obtain ⟨h, hr, hb⟩ := hv
  rw [State.fetchWord, hr]
  cases hp : s.pageEntry x.team.ctx h with
  | none =>
    simp only [hp] at hb
    simp only [Except.map, hp, hb, wordsFrom_wordBytes]
  | some f =>
    simp only [hp] at hb
    simp only [Except.map, hp, hb, wordsFrom_wordBytes]

theorem State.fetchMore_eq {s : State} {x : Site} : ∀ (vs : List Word) (pc : Pc),
    (∀ k v, vs[k]? = some v → s.Holds x (pc + BitVec.ofNat 56 (4 * k)) v) → s.fetchMore x pc vs.length = .ok vs
  | [], _, _ => rfl
  | v :: vs, pc, h => by
    have h0 : s.Holds x pc v := by simpa using h 0 v rfl
    have hvs := State.fetchMore_eq vs (pc + 4) fun k w hk => by
      rw [BitVec.add_assoc]
      have hk' := h (k + 1) w hk
      rwa [show BitVec.ofNat 56 (4 * (k + 1)) = 4 + BitVec.ofNat 56 (4 * k) by rw [Nat.mul_add, Nat.add_comm, BitVec.ofNat_add]; rfl] at hk'
    rw [List.length_cons, State.fetchMore, State.fetchWord_eq h0]
    simp only [hvs, Except.map]

/-- Words that each can be fetched are fetched together. -/
theorem State.fetch_eq {s : State} {x : Site} {pc : Pc} {w : Word} {r : List Word} (hl : (w :: r).length = wordsOf w)
    (h : ∀ k v, (w :: r)[k]? = some v → s.Holds x (pc + BitVec.ofNat 56 (4 * k)) v) : s.fetch x pc = .ok (w :: r) := by
  have h0 : s.Holds x pc w := by simpa using h 0 w rfl
  have hvs := State.fetchMore_eq (s := s) (x := x) r (pc + 4) fun k v hk => by
    rw [BitVec.add_assoc]
    have hk' := h (k + 1) v hk
    rwa [show BitVec.ofNat 56 (4 * (k + 1)) = 4 + BitVec.ofNat 56 (4 * k) by rw [Nat.mul_add, Nat.add_comm, BitVec.ofNat_add]; rfl] at hk'
  rw [State.fetch, State.fetchWord_eq h0]
  simp only [← hl, List.length_cons, Nat.add_sub_cancel, hvs, Except.map]

/-! ### The turn of a unit -/

/-- The turn of the unit that the schedule picks is the fetch of its batch. -/
theorem State.turnOf_eq {s u : State} {x y : Site} {is : List Nat} (hp : s.pick = some x) (hw : x.team.wantsPages = false)
    (hu : s.turned.adoptDue x.team = u) (hy : u.site? x.u = some y) (hb : y.heat.nextBatch = some is) (hd : u.dueNow x.u is = false) :
    s.turnOf = (u.at_ x.u [] 0 0 0).fetchTurn y is := by
  have hy' : (u.at_ x.u [] 0 0 0).site? x.u = some y := hy
  have hd' : (u.at_ x.u [] 0 0 0).dueNow x.u is = false := hd
  simp only [State.turnOf, hp, hu, hw, Bool.false_eq_true, if_false, State.unitTurn, hy', hb, hd']

/-- What a turn that has been complete, or an instruction that it runs, comes to. -/
def Turn.outcome : Turn → Out
  | .done o => Out.map State.after o
  | .run i t => Out.map State.after (exec i t)

theorem step_issue {s : State} (ha : s.agenda = []) (hh : s.halted = false) : step s = s.turnOf.outcome := by
  rw [step, ha]
  simp only [hh, Bool.false_eq_true, if_false]
  cases s.turnOf <;> rfl

/-- Settles O7: the words at the PC are fetched, and what they decode to is the turn. -/
theorem stepRunsTheInstruction : Obligations.StepRunsTheInstruction := by
  intro s u x y is pc w r ha hh hp hw hu hy hb hd hpc hl hv
  have hf : (u.at_ x.u [] 0 0 0).fetch y pc = .ok (w :: r) := State.fetch_eq hl hv
  have hturn := State.turnOf_eq hp hw hu hy hb hd
  simp only [State.fetchTurn, hpc, Option.getD_some, hf, List.headD_cons] at hturn
  rw [step_issue ha hh, hturn]
  refine ⟨fun i n hdec hacq => ?_, fun i n hdec ho hacc => ?_, fun hdec => ?_, fun hdec => ?_⟩
  · have hno : (y.heat.owesAcquire && accesses i) = false := Bool.and_eq_false_iff.mpr hacq
    simp only [hdec, hno, Bool.false_eq_true, if_false]
    rfl
  · simp only [hdec, ho, hacc, Bool.and_self, if_true]
    rfl
  · simp only [hdec]
    rfl
  · simp only [hdec]
    rfl

/-! ### The agenda -/

theorem State.allows_iff (s : State) (i : Instr) : s.allows i = true ↔ i.shape = .event ∧ (s.halted = false ∨ runsHalted i = true) := by
  simp [State.allows]

/-- The clocks of a halted package leave every heat and pacer. -/
theorem State.tick_halted {s : State} (h : s.halted = true) :
    s.tick = { s with hubClock := s.tick.hubClock, dies := s.tick.dies, teams := s.tick.teams } ∧
      s.tick.teams.map Team.heats = s.teams.map Team.heats ∧ s.tick.teams.map Team.pacer = s.teams.map Team.pacer := by
  have hc : (if s.halted = true then 0 else s.pace.cycles) = 0 := if_pos h
  unfold State.tick
  rw [hc]
  dsimp only
  split
  · exact ⟨rfl, rfl, rfl⟩
  · refine ⟨rfl, ?_, ?_⟩ <;> simp only [List.map_map] <;> refine List.map_congr_left fun t _ => ?_ <;> simp only [Function.comp] <;> split <;> rfl

/-- Settles O8: the head of the agenda comes about or is dropped, and a halted package only ticks. -/
theorem stepRunsTheAgenda : Obligations.StepRunsTheAgenda := by
  intro s
  refine ⟨fun i r ha hi hh => ?_, fun i r ha hi => ?_, fun ha hh => ?_⟩
  · rw [step, ha]
    exact if_pos ((s.allows_iff i).mpr ⟨hi, hh⟩)
  · rw [step, ha]
    refine if_neg fun hal => ?_
    obtain ⟨hev, hrun⟩ := (s.allows_iff i).mp hal
    obtain hne | ⟨hh, hno⟩ := hi
    · exact hne hev
    · simp [hh, hno] at hrun
  · obtain ⟨hrest, hheats, hpacer⟩ := State.tick_halted hh
    refine ⟨s.tick, ?_, hrest, hheats, hpacer⟩
    rw [step, ha]
    exact if_pos hh

end Sys2Proof.Machine
end

section
/-!
SUPPORT. Moves, constants, selection, comparisons, guard operations and addresses (R201 to R209): each operation computes what its table gives.
-/

namespace Sys2Proof.Machine

/-- The operation of each mnemonic of moves, constants, selection, comparisons, guards and addresses. -/
def moveOpOf : Mn → Option (Ext → State → Out)
  | .mov => some opMov
  | .movi => some opMovi
  | .lit => some opLit
  | .sel => some opSel
  | .lea => some opLea
  | .sptest => some opSptest
  | .spcastOfs => some opSpcastOfs
  | .spcastGen => some opSpcastGen
  | .cmp => some opCmp
  | .cmpv => some opCmpv
  | .gop => some opGop
  | _ => none

/-- Every form of these instructions, short or extended, has its operation as its meaning. -/
theorem exec_of_moveOpOf {i : Instr} {m : Mn} {e : Ext} {op : Ext → State → Out} (hi : i.shape = .form m e) (ho : moveOpOf m = some op)
    (s : State) : exec i s = op e s := by
  cases i with
  | mov | movExt | movi | moviExt | lit | sel | lea | leaExt | sptest | sptestExt | spcastOfs | spcastOfsExt | spcastGen | spcastGenExt | cmp | cmpExt
  | cmpv | cmpvExt | gop | gopExt => cases hi; cases ho; rfl
  | _ => cases hi <;> cases ho

/-! ### MOV (R201) -/

/-- Register k of a number read from n registers. -/
theorem Site.wd_val (x : Site) (i : Nat) : ∀ (n r k : Nat), k < n → wd (x.val i r n / 2 ^ (32 * k)) = x.word i (r + k)
  | n + 1, r, 0, _ => by
    apply BitVec.eq_of_toNat_eq
    have := (x.word i r).isLt
    simp only [Site.val, wd, BitVec.toNat_ofNat, Nat.mul_zero, Nat.pow_zero, Nat.div_one, Nat.add_zero]
    omega
  | n + 1, r, k + 1, h => by
    have hw := (x.word i r).isLt
    have hdiv : x.val i r (n + 1) / 2 ^ (32 * (k + 1)) = x.val i (r + 1) n / 2 ^ (32 * k) := by
      rw [show 32 * (k + 1) = 32 + 32 * k by omega, Nat.pow_add, ← Nat.div_div_eq_div_mul, Site.val]
      congr 1
      omega
    rw [hdiv, Site.wd_val x i n (r + 1) k (by omega), Nat.add_right_comm, Nat.add_assoc]

/-- Writing one more register is a write of the register above. -/
theorem Site.setVal_succ (i : Nat) : ∀ (n : Nat) (y : Site) (r v : Nat),
    y.setVal i r (n + 1) v = (y.setVal i r n v).setSlot i (r + n) (.val (wd (v / 2 ^ (32 * n))))
  | 0, y, r, v => by simp [Site.setVal]
  | n + 1, y, r, v => by
    rw [Site.setVal, Site.setVal_succ i n, Site.setVal, Nat.div_div_eq_div_mul, ← Nat.pow_add, Nat.add_assoc, Nat.add_comm 1 n, Nat.mul_add, Nat.add_comm 32]

/-- Copying registers that hold values is a write of the number they hold. -/
theorem Site.copyRegs_eq_setVal {z : Site} {i a n : Nat} (h : ∀ k < n, ∃ w, z.slot i (a + k) = .val w) (y : Site) (d : Nat) :
    ∀ m ≤ n, y.copyRegs z i d a m = y.setVal i d m (z.val i a n)
  | 0, _ => rfl
  | m + 1, hm => by
    obtain ⟨w, hw⟩ := h m hm
    have hs : z.slot i (a + m) = .val (z.word i (a + m)) := by rw [Site.word, hw]; rfl
    rw [Site.copyRegs, Site.copyRegs_eq_setVal h y d m (Nat.le_of_succ_le hm), Site.setVal_succ, Site.wd_val z i n a m hm, hs]

theorem Site.sameBut_copyRegs (z : Site) (i d a : Nat) : ∀ (n : Nat) (y : Site), Site.SameBut y (y.copyRegs z i d a n)
  | 0, y => .rfl' y
  | n + 1, y => (Site.sameBut_copyRegs z i d a n y).trans (Site.sameBut_setSlot _ _ _ _)

theorem mov_computes {s : State} {x : Site} {is : List Nat} {e : Ext} (h : Issues s x is e.guard (uses2 e)) :
    Computes (opMov e s) s x is (toD e fun i => x.srcA i e) := by
  have he : (toD e fun i => (s.account x).2.srcA i e) = toD e fun i => x.srcA i e := by simp
  rw [← he]
  refine writes_spec _ (d := demand (uses2 e)) h (Site.barred_demand _ _ _) (fun hv => nomatch hv) (fun z => toD e fun i => z.srcA i e) _
    (fun i hi y => ?_) (fun z i y => Site.sameBut_copyRegs ..) (fun i hi k hk => h.fields _ (useD_mem_uses2 e) i hi k hk) (fun hb => nomatch hb)
  refine Site.copyRegs_eq_setVal (fun k hk => ?_) y _ _ (Nat.le_refl _)
  rw [account_slot]
  exact (h.values (readA e e.ty.regs) (by simp [uses2]) rfl i hi k hk).2

/-! ### Tables -/

section
variable {i : Instr} {m : Mn} {e : Ext} {s : State} {x : Site} {is : List Nat} {us : List Use} {f : Effect}

/-- An effect that writes a pair. -/
theorem pair_computes (h : Issues s x is e.guard us) (hd : useD e 2 ∈ us) (v : Site → Nat → Nat) (hv : v (s.account x).2 = v x) :
    Computes (issue e.guard (demand us) s (regEffect fun z i y => y.dst64 i e (v z i))) s x is (toD64 e (v x)) :=
  issue_computes h (fun z => toD64 e (v z)) _ (fun _ _ _ => rfl) (by rw [hv]) (fun i hi k hk => h.fields _ hd i hi k hk) (by simp [toD64])

@[simp] theorem account_pairA (s : State) (x : Site) (i : Nat) (e : Ext) : (s.account x).2.pairA i e = x.pairA i e := by simp [Site.pairA]

theorem moveResult_computes (hi : i.shape = .form m e) (hr : moveResult m e x = some (us, f)) (h : Issues s x is e.guard us) :
    Computes (exec i s) s x is f := by
  cases m with
  | mov =>
    cases hr
    rw [exec_of_moveOpOf hi rfl]
    exact mov_computes h
  | movi | lit =>
    cases hr
    rw [exec_of_moveOpOf hi rfl]
    exact perFibre_computes h (.inl (by simp)) _ (by simp)
  | sel =>
    cases hr
    rw [exec_of_moveOpOf hi rfl]
    exact issueG_computes h (fun z => toD e fun i => if z.guard i (e.c.toNat % 32) = !(e.mod.getLsbD 0) then z.srcA i e else z.srcB i e) _
      (fun _ _ _ => rfl) (by simp) fun i hi k hk => h.fields _ (List.mem_cons_of_mem _ (useD_mem_uses3 e)) i hi k hk
  | lea =>
    cases hr
    rw [exec_of_moveOpOf hi rfl]
    exact pair_computes h (by simp) (fun z i => (z.pairA i e + z.srcOfs i e e.ty.signed * 2 ^ e.m1.toNat) % 2 ^ 64) (by simp)
  | sptest =>
    cases hr
    rw [exec_of_moveOpOf hi rfl]
    exact issue_computes h (fun z => toD32 e fun i => (spaceOf (z.pairA i e)).code) _ (fun _ _ _ => rfl) (by simp)
      (fun i hi k hk => h.fields (useD e 1) (by simp) i hi k hk) (by simp [toD32])
  | spcastGen =>
    cases hr
    rw [exec_of_moveOpOf hi rfl]
    exact pair_computes h (by simp) (fun z i => z.generic e.m1.toNat (z.pairA i e)) (by simp)
  | _ => cases hr

@[simp] theorem account_holds (s : State) (x : Site) (i : Nat) (e : Ext) : (s.account x).2.holds i e = x.holds i e := by simp [Site.holds]

theorem compareResult_computes (hi : i.shape = .form m e) (hr : compareResult m e x = some (us, f)) (h : Issues s x is e.guard us) :
    Computes (exec i s) s x is f := by
  cases m with
  | cmp =>
    cases hr
    rw [exec_of_moveOpOf hi rfl]
    exact issueG_computes h (fun z => toG e.d fun i => combineGuard e.mod.toNat (z.guard i (e.d.toNat % 32)) (z.holds i e)) _ (fun _ _ _ => rfl)
      (by simp) fun i hi k hk => nomatch hk
  | cmpv =>
    cases hr
    rw [exec_of_moveOpOf hi rfl]
    exact perFibre32_computes h (by simp) (fun z i => if z.holds i e then 2 ^ 32 - 1 else 0) (by simp)
  | gop =>
    cases hr
    rw [exec_of_moveOpOf hi rfl]
    exact issueG_computes h (fun z => toG e.d fun i => gopBit e.x.toNat (z.guard i (e.a.toNat % 32)) (z.guard i (e.b.toNat % 32))) _
      (fun _ _ _ => rfl) (by simp) fun i hi k hk => nomatch hk
  | _ => cases hr

@[simp] theorem account_spaceCheck (s : State) (x : Site) (a : Nat) : (s.account x).2.spaceCheck a = x.spaceCheck a := by simp [Site.spaceCheck]

/-- SPCAST.OFS of addresses that pass its check (R209). -/
theorem spcastOfs_computes (hi : i.shape = .form .spcastOfs e) (h : Issues s x is e.guard [useD e 2, readA e 2])
    (hc : ∀ k ∈ is, x.spaceCheck (x.val k e.a.toNat 2) = none) :
    Computes (exec i s) s x is (toD64 e fun k => offsetOf (x.val k e.a.toNat 2)) := by
  rw [exec_of_moveOpOf hi rfl]
  have hpair := pair_computes h (by simp) (fun z i => offsetOf (z.pairA i e)) (by simp)
  rw [issue_eq h] at hpair
  have hnone : is.findSome? (fun i => ((s.account x).2.spaceCheck ((s.account x).2.pairA i e)).map fun c => (i, c)) = none := by
    rw [List.findSome?_eq_none_iff]
    intro k hk
    rw [account_pairA, account_spaceCheck, Site.pairA, hc k hk]
    rfl
  rw [opSpcastOfs, issue_eq h]
  simp only [hnone]
  exact hpair

end

/-- Settles O2: moves and comparisons by their tables, and SPCAST.OFS where its checks pass. -/
theorem movesComparisonsAndAddresses : Obligations.MovesComparisonsAndAddresses := by
  refine ⟨fun i m e s x is us f hi hr h => ?_, fun i e s x is hi h hc => spcastOfs_computes hi h hc⟩
  obtain hr | hr := hr
  · exact moveResult_computes hi hr h
  · exact compareResult_computes hi hr h

end Sys2Proof.Machine
end

section
/-!
SUPPORT. NOP, YIELD and END (R33, R37, R44, R48, R72, R210): what they do to the heat's fibres and masks, and to the extended set of its pair.
-/

namespace Sys2Proof.Machine

/-! ### NOP and YIELD -/

/-- The operation of each mnemonic that touches no register. -/
def flowOpOf : Mn → Option (Ext → State → Out)
  | .nop => some opNop
  | .yield => some opYield
  | .endI => some opEnd
  | .fork => some opFork
  | .xlock => some opXlock
  | .xfree => some opXfree
  | _ => none

theorem exec_of_flowOpOf {i : Instr} {m : Mn} {e : Ext} {op : Ext → State → Out} (hi : i.shape = .form m e) (ho : flowOpOf m = some op)
    (s : State) : exec i s = op e s := by
  cases i with
  | nop | nopExt | yield | yieldExt | endI | endExt | fork | xlock | xlockExt | xfree | xfreeExt => cases hi; cases ho; rfl
  | _ => cases hi <;> cases ho

section
variable {s : State} {x : Site} {is : List Nat} {e : Ext}

/-- An effect that writes nothing. -/
theorem foldl_unchanged (is : List Nat) (y : Site) : is.foldl (fun y _ => y) y = y := by
  induction is with
  | nil => rfl
  | cons _ _ ih => exact ih

theorem nop_computes (h : Issues s x is e.guard []) : Computes (opNop e s) s x is nothing := by
  have hnop : opNop e s = issue e.guard (demand []) s (regEffect fun _ _ y => y) := by
    unfold opNop regEffect
    simp only [foldl_unchanged]
    rfl
  rw [hnop]
  exact issue_computes h (fun _ => nothing) _ (fun _ _ _ => rfl) rfl (fun i hi k hk => nomatch hk) (fun hb => nomatch hb)

/-- Advancing the batch changes the program counters of its fibres alone. -/
theorem Site.each_advance (z : Site) {b : List Nat} (hb : b.Nodup) (n : Nat) :
    z.Each (z.advance b n) fun k a => { a with pc := if k ∈ b then a.pc + BitVec.ofNat 56 n else a.pc } :=
  z.each_goto hb fun _ pc => pc + BitVec.ofNat 56 n

/-- The fibres of an issue that is accounted and goes on. -/
theorem advance_fibre? {z : Site} (hb : s.cur.batch.Nodup) (hz : z.heat.fibres = (s.account x).2.heat.fibres) (k : Nat) :
    (z.advance s.cur.batch s.cur.len).heat.fibre? k = (x.heat.fibre? k).map fun f =>
      { f with pc := Site.nextPc s k f, last := x.lastOf s k f, waits := Site.waitsOf s k f } := by
  have hzk : z.heat.fibre? k = (s.account x).2.heat.fibre? k := by rw [Heat.fibre?, hz]; rfl
  rw [(z.each_advance hb _).fibres, hzk, account_fibre?_eq, Option.map_map]
  rfl

/-- The unit that YIELD leaves, before its batch advances. -/
def State.yielded (s : State) (x : Site) : Site :=
  { (s.account x).2 with heat := { (s.account x).2.heat with age := s.nextId, run := 0 } }

theorem yield_eq (h : Issues s x is e.guard []) :
    opYield e s = .next { (s.account x).1.put ((s.yielded x).advance s.cur.batch s.cur.len) with nextId := s.nextId + 1 } := by
  rw [opYield, demandNone, issue_eq h, State.youngest, State.yielded, State.account_fst]
  rfl

end

/-! ### The masks that ended fibres leave (R33, R37) -/

/-- The heat g is h after the fibres of a set have left some masks: their bits are gone, and what waits on an emptied mask runs again. -/
structure Heat.Left (h g : Heat) (ms is : List Nat) : Prop where
  rest : g = { h with fibres := g.fibres, masks := g.masks }
  masks : ∀ k, g.masks[k]? = (h.masks[k]?).map fun w => if k ∈ ms then w &&& ~~~(slotMask is) else w
  fibres : ∀ k, g.fibre? k = (h.fibre? k).map fun f =>
    { f with waitOn := f.waitOn.bind fun m => if m ∈ ms ∧ h.masks.getD m 0 &&& ~~~(slotMask is) = 0 then none else some m }

theorem Heat.left_nil (h : Heat) (is : List Nat) : h.Left h [] is where
  rest := rfl
  masks k := by simp
  fibres k := by simp

/-- Leaving one mask. -/
theorem Heat.left_leave (h : Heat) (m : Nat) (is : List Nat) : h.Left (h.leave m is) [m] is where
  rest := by
    have hr := (h.maskTo_putMask m (h.masks.getD m 0 &&& ~~~(slotMask is)) is).rest
    rw [Heat.leave, hr]
  masks k := by
    have hr := (h.maskTo_putMask m (h.masks.getD m 0 &&& ~~~(slotMask is)) is).rest
    rw [Heat.leave, hr, List.getElem?_set]
    by_cases hk : m = k
    · subst hk
      cases hm : h.masks[m]? with
      | none => simp [List.getElem?_eq_none_iff.mp hm]
      | some w =>
        obtain ⟨hlt, hw⟩ := List.getElem?_eq_some_iff.mp hm
        simp [hlt, hw]
    · simp [hk, Ne.symm hk]
  fibres k := by
    have hto := h.maskTo_putMask m (h.masks.getD m 0 &&& ~~~(slotMask is)) is
    rw [Heat.leave]
    by_cases hw : h.masks.getD m 0 &&& ~~~(slotMask is) = 0
    · rw [hto.empty hw]
      refine congrArg (Option.map · _) (funext fun f => congrArg (fun w => { f with waitOn := w }) ?_)
      cases f.waitOn with
      | none => rfl
      | some n =>
        by_cases hn : n = m
        · subst hn
          rw [if_pos ⟨rfl, rfl⟩, Option.bind_some, if_pos ⟨List.mem_singleton.mpr rfl, hw⟩]
        · rw [if_neg fun hc => hn (Option.some.inj hc.2), Option.bind_some, if_neg fun hc => hn (List.mem_singleton.mp hc.1)]
    · rw [hto.held hw]
      refine congrArg (Option.map · _) (funext fun f => congrArg (fun w => { f with waitOn := w }) ?_)
      rw [if_neg fun hc => nomatch hc.1]
      cases f.waitOn with
      | none => rfl
      | some n =>
        refine (if_neg ?_).symm
        rintro ⟨hn, hz⟩
        exact hw (List.mem_singleton.mp hn ▸ hz)

theorem Heat.Left.getD {h g : Heat} {ms is : List Nat} (hl : h.Left g ms is) {k : Nat} (hk : k ∉ ms) : g.masks.getD k 0 = h.masks.getD k 0 := by
  rw [List.getD_eq_getElem?_getD, List.getD_eq_getElem?_getD, hl.masks]
  simp [hk]

theorem Heat.Left.trans {h g j : Heat} {m : Nat} {ms is : List Nat} (hl : h.Left g [m] is) (hr : g.Left j ms is) (hm : m ∉ ms) :
    h.Left j (m :: ms) is where
  rest := by
    have hj := hr.rest
    rw [hl.rest] at hj
    exact hj
  masks k := by
    rw [hr.masks, hl.masks, Option.map_map]
    refine congrArg (Option.map · _) (funext fun w => ?_)
    by_cases hk : k = m
    · simp [hk, hm]
    · simp [hk]
  fibres k := by
    rw [hr.fibres, hl.fibres, Option.map_map]
    refine congrArg (Option.map · _) (funext fun f => congrArg (fun w => { f with waitOn := w }) ?_)
    dsimp only
    cases f.waitOn with
    | none => rfl
    | some n =>
      rw [Option.bind_some, Option.bind_some]
      by_cases hn : n = m
      · subst hn
        by_cases hz : h.masks.getD n 0 &&& ~~~(slotMask is) = 0
        · rw [if_pos ⟨List.mem_singleton.mpr rfl, hz⟩, if_pos ⟨List.mem_cons_self, hz⟩]
          rfl
        · rw [if_neg fun hc => hz hc.2, if_neg fun hc => hz hc.2]
          exact if_neg fun hc => hm hc.1
      · have hg : g.masks.getD n 0 = h.masks.getD n 0 := hl.getD fun hc => hn (List.mem_singleton.mp hc)
        rw [if_neg fun hc => hn (List.mem_singleton.mp hc.1), Option.bind_some, hg]
        simp only [List.mem_cons, hn, false_or]

theorem Heat.left_foldl (is : List Nat) : ∀ (ms : List Nat), ms.Nodup → ∀ h : Heat, h.Left (ms.foldl (fun h m => h.leave m is) h) ms is
  | [], _, h => h.left_nil is
  | m :: ms, hn, h =>
    have hd := List.nodup_cons.mp hn
    (h.left_leave m is).trans (Heat.left_foldl is ms hd.2 _) hd.1

theorem Heat.left_leaveAll (h : Heat) (is : List Nat) : h.Left (h.leaveAll is) (List.range 12) is := Heat.left_foldl is _ List.nodup_range h

/-! ### The records that ended fibres leave in the extended set (R33, R72) -/

/-- No record of some registers is one that a test names. -/
def cleanOf (mine : Baton → Bool) (rs : List Slot) : Prop := ∀ b, Slot.bat b ∈ rs → mine b = false

theorem State.dropSlot_spec (s : State) (mine : Baton → Bool) (r : Slot) :
    (s.dropSlot mine r).2 = { s with freeCtr := (s.dropSlot mine r).2.freeCtr } ∧ ∀ b, (s.dropSlot mine r).1 = .bat b → mine b = false := by
  cases r with
  | val w => exact ⟨rfl, fun b hb => nomatch hb⟩
  | bat b =>
    by_cases hm : mine b = true
    · simp [State.dropSlot, hm, State.free]
    · refine ⟨by simp [State.dropSlot, hm], fun c hc => ?_⟩
      simp only [State.dropSlot, hm] at hc
      cases hc
      simpa using hm

theorem State.dropSlots_spec (mine : Baton → Bool) : ∀ (rs : List Slot) (s : State),
    (s.dropSlots mine rs).2 = { s with freeCtr := (s.dropSlots mine rs).2.freeCtr } ∧ cleanOf mine (s.dropSlots mine rs).1
  | [], s => ⟨rfl, fun b hb => nomatch hb⟩
  | r :: rs, s => by
    obtain ⟨hs, hr⟩ := s.dropSlot_spec mine r
    obtain ⟨hs', hrs⟩ := State.dropSlots_spec mine rs (s.dropSlot mine r).2
    refine ⟨?_, fun b hb => ?_⟩
    · rw [hs] at hs'
      simp only [State.dropSlots]
      rw [hs]
      exact hs'
    · obtain h | h := List.mem_cons.mp hb
      · exact hr b h.symm
      · exact hrs b h

/-- The sets of a team but for the contents of the extended set of the unit's pair. -/
structure Site.OnlyX (x y : Site) : Prop where
  rest : y = { x with team := { x.team with xsets := y.team.xsets } }
  xset : ∀ q, y.xset? = some q → ∃ p, x.xset? = some p ∧ q = { p with regs := q.regs }
  holds : y.holdsX = x.holdsX

theorem Site.OnlyX.refl (x : Site) : x.OnlyX x := ⟨rfl, fun q hq => ⟨q, hq, rfl⟩, rfl⟩

theorem Site.xset?_updX (x : Site) (f : XSet → XSet) (hf : ∀ q, (f q).squad = q.squad ∧ (f q).low = q.low) :
    (x.updX f).xset? = x.xset?.map f := by
  have key := find?_map_upd x.team.xsets x.xtest f fun a ha => by simpa [Site.xtest, hf] using ha
  rw [Site.xset?_eq, Site.xset?_eq, ← key]
  have hx : (x.updX f).team.xsets = x.team.xsets.map fun e => if x.xtest e = true then f e else e := by
    simp only [Site.updX, Site.xtest, decide_eq_true_eq]
  rw [hx]
  rfl

theorem Site.holdsX_eq_of_xset? {x y : Site} (hu : y.u = x.u) (h : y.xset?.bind XSet.holder = x.xset?.bind XSet.holder) : y.holdsX = x.holdsX := by
  simp only [Site.holdsX, Site.isPacer, Site.heatNo, hu, h]

theorem Site.onlyX_updX (x : Site) (i : Nat) (rs : List Slot) : x.OnlyX (x.updX fun q => { q with regs := q.regs.set i rs }) := by
  have hx := x.xset?_updX (fun q => { q with regs := q.regs.set i rs }) fun _ => ⟨rfl, rfl⟩
  refine ⟨rfl, fun q hq => ?_, Site.holdsX_eq_of_xset? rfl ?_⟩
  · rw [hx, Option.map_eq_some_iff] at hq
    obtain ⟨p, hp, rfl⟩ := hq
    exact ⟨p, hp, rfl⟩
  · rw [hx]
    cases x.xset? <;> rfl

theorem Site.madeX_congr {x y : Site} (hu : y.u = x.u) (h : y.holdsX = x.holdsX) : y.madeX = x.madeX := by
  funext b
  rw [Site.madeX, Site.madeX, h, Site.heatNo, hu]
  rfl

/-- What discarding the records of ended fibres leaves: the unit but for the contents of its pair's set, in which the registers of those fibres hold no
record that the heat has made; and free values have been drawn. -/
structure DroppedX (s t : State) (x y : Site) (is : List Nat) : Prop where
  state : t = { s with freeCtr := t.freeCtr }
  only : x.OnlyX y
  clean : x.isPacer = false → ∀ q, y.xset? = some q → ∀ k ∈ is, cleanOf x.madeX (q.regs.getD k [])

theorem Site.OnlyX.trans {x y z : Site} (h : x.OnlyX y) (k : y.OnlyX z) : x.OnlyX z where
  rest := by
    have hz := k.rest
    rw [h.rest] at hz
    exact hz
  xset q hq := by
    obtain ⟨p, hp, hqp⟩ := k.xset q hq
    obtain ⟨r, hr, hpr⟩ := h.xset p hp
    exact ⟨r, hr, by rw [hqp, hpr]⟩
  holds := k.holds.trans h.holds

theorem Site.OnlyX.u {x y : Site} (h : x.OnlyX y) : y.u = x.u := by rw [h.rest]

/-- Clean registers put into a place of the set leave every clean place clean. -/
theorem cleanOf_set {made : Baton → Bool} {regs : List (List Slot)} {rs : List Slot} {k : Nat} (i : Nat) (hrs : cleanOf made rs)
    (hk : i = k ∨ cleanOf made (regs.getD k [])) : cleanOf made ((regs.set i rs).getD k []) := by
  rw [List.getD_eq_getElem?_getD, List.getElem?_set]
  by_cases hi : i = k
  · rw [if_pos hi]
    split
    · exact hrs
    · exact fun b hb => nomatch hb
  · rw [if_neg hi, ← List.getD_eq_getElem?_getD]
    exact hk.resolve_left hi

/-- The set of the unit's pair once the registers of one place have been put there. -/
theorem Site.xset?_set {x : Site} {i : Nat} {rs : List Slot} {q : XSet} (h : (x.updX fun q => { q with regs := q.regs.set i rs }).xset? = some q) :
    ∃ p, x.xset? = some p ∧ q.regs = p.regs.set i rs := by
  rw [Site.xset?_updX x (fun q => { q with regs := q.regs.set i rs }) fun _ => ⟨rfl, rfl⟩, Option.map_eq_some_iff] at h
  obtain ⟨p, hp, rfl⟩ := h
  exact ⟨p, hp, rfl⟩

/-- The registers of a fibre slot in the extended set of the unit's pair. -/
def Site.xslots (x : Site) (i : Nat) : Option (List Slot) := if x.isPacer then none else x.xset?.bind fun e => e.regs[i]?

theorem State.dropX_of_none {s : State} {x : Site} {i : Nat} (is : List Nat) (h : x.xslots i = none) : s.dropX x (i :: is) = s.dropX x is := by
  rw [Site.xslots] at h
  rw [State.dropX, h]

theorem State.dropX_of_some {s : State} {x : Site} {i : Nat} {rs : List Slot} (is : List Nat) (h : x.xslots i = some rs) :
    s.dropX x (i :: is) =
      (s.dropSlots x.madeX rs).2.dropX (x.updX fun q => { q with regs := q.regs.set i (s.dropSlots x.madeX rs).1 }) is := by
  rw [Site.xslots] at h
  rw [State.dropX, h]
  rfl

/-- Discarding the records of further fibres keeps what is clean clean. -/
theorem State.dropX_keeps {made : Baton → Bool} {k : Nat} : ∀ (is : List Nat) (s : State) (x : Site), x.madeX = made →
    (∀ q, x.xset? = some q → cleanOf made (q.regs.getD k [])) → ∀ q, (s.dropX x is).2.xset? = some q → cleanOf made (q.regs.getD k [])
  | [], _, _, _, h => h
  | i :: is, s, x, hm, h => by
    cases hx : x.xslots i with
    | none =>
      rw [State.dropX_of_none is hx]
      exact State.dropX_keeps is s x hm h
    | some rs =>
      rw [State.dropX_of_some is hx]
      have hu := x.onlyX_updX i (s.dropSlots x.madeX rs).1
      refine State.dropX_keeps is _ _ ((Site.madeX_congr hu.u hu.holds).trans hm) fun q hq => ?_
      obtain ⟨p, hp, hregs⟩ := Site.xset?_set hq
      rw [hregs]
      exact cleanOf_set i (hm ▸ (s.dropSlots_spec x.madeX rs).2) (.inr (h p hp))

theorem State.dropX_spec : ∀ (is : List Nat) (s : State) (x : Site), DroppedX s (s.dropX x is).1 x (s.dropX x is).2 is
  | [], s, x => ⟨rfl, .refl x, fun _ _ _ k hk => nomatch hk⟩
  | i :: is, s, x => by
    cases hx : x.xslots i with
    | none =>
      rw [State.dropX_of_none is hx]
      obtain ⟨hs, ho, hc⟩ := State.dropX_spec is s x
      refine ⟨hs, ho, fun hp q hq k hk => ?_⟩
      obtain rfl | hk := List.mem_cons.mp hk
      · refine State.dropX_keeps is s x rfl (fun p hxp b hb => ?_) q hq
        simp only [Site.xslots, hp, Bool.false_eq_true, if_false, hxp, Option.bind_some] at hx
        rw [List.getD_eq_getElem?_getD, hx] at hb
        cases hb
      · exact hc hp q hq k hk
    | some rs =>
      rw [State.dropX_of_some is hx]
      obtain ⟨hdrop, hclean⟩ := State.dropSlots_spec x.madeX rs s
      have hu := x.onlyX_updX i (s.dropSlots x.madeX rs).1
      have hmade := Site.madeX_congr hu.u hu.holds
      obtain ⟨hs, ho, hc⟩ := State.dropX_spec is (s.dropSlots x.madeX rs).2 (x.updX fun q => { q with regs := q.regs.set i (s.dropSlots x.madeX rs).1 })
      refine ⟨?_, hu.trans ho, fun hp q hq k hk => ?_⟩
      · rw [hdrop] at hs ⊢
        exact hs
      · obtain rfl | hk := List.mem_cons.mp hk
        · refine State.dropX_keeps is _ _ hmade (fun p hxp => ?_) q hq
          obtain ⟨r, -, hregs⟩ := Site.xset?_set hxp
          rw [hregs]
          exact cleanOf_set k hclean (.inl rfl)
        · exact hmade ▸ hc hp q hq k hk

/-! ### The heat that ended fibres leave (R33, R44, R48) -/

/-- The fibres of a heat without those of some slots. -/
theorem fibre?_without (is : List Nat) (fs : List (Option Fibre)) (k : Nat) :
    ((is.foldl (fun fs i => fs.set i none) fs)[k]?).join = if k ∈ is then none else (fs[k]?).join := by
  induction is generalizing fs with
  | nil => simp
  | cons i is ih =>
    rw [List.foldl_cons, ih, List.getElem?_set]
    by_cases hi : i = k
    · subst hi
      by_cases hlt : i < fs.length <;> simp [hlt]
    · simp [hi, Ne.symm hi]

/-- The heat once some of its fibres have ended, before it retires. -/
def Heat.ended (h : Heat) (is : List Nat) : Heat := { h.leaveAll is with fibres := is.foldl (fun fs i => fs.set i none) (h.leaveAll is).fibres }

theorem Heat.fibre?_ended (h : Heat) (is : List Nat) (k : Nat) : (h.ended is).fibre? k = if k ∈ is then none else (h.fibre? k).map fun f =>
    { f with waitOn := f.waitOn.bind fun m => if m < 12 ∧ h.masks.getD m 0 &&& ~~~(slotMask is) = 0 then none else some m } := by
  rw [Heat.fibre?, Heat.ended, fibre?_without]
  have hf := (h.left_leaveAll is).fibres k
  simp only [List.mem_range] at hf
  rw [← hf]
  rfl

theorem Heat.masks_ended (h : Heat) (is : List Nat) (k : Nat) :
    (h.ended is).masks[k]? = (h.masks[k]?).map fun w => if k < 12 then w &&& ~~~(slotMask is) else w := by
  have hm := (h.left_leaveAll is).masks k
  simp only [List.mem_range] at hm
  exact hm

theorem Heat.ended_eq (h : Heat) (is : List Nat) : h.ended is = { h with fibres := (h.ended is).fibres, masks := (h.ended is).masks } := by
  have hr := (h.left_leaveAll is).rest
  rw [Heat.ended, hr]

section
variable (w : Site) (is : List Nat)

/-- The team whose leader may have ended. -/
def Site.leaderless : Team := if w.leads is then { w.team with leader := false } else w.team

theorem Site.leaderless_eq : w.leaderless is = { w.team with leader := w.team.leader && !w.leads is } := by
  rw [Site.leaderless]
  cases hl : w.leads is with
  | true => simp
  | false => simp

theorem Site.endFibres_eq : w.endFibres is = { w with heat := w.heat.ended is, team := w.leaderless is }.retireIfDone := rfl

theorem Site.endFibres_heat : (w.endFibres is).heat = { w.heat with
    fibres := (w.heat.ended is).fibres, masks := (w.heat.ended is).masks, active := w.heat.active && (w.heat.ended is).alive
    bars := if (w.heat.ended is).alive then w.heat.bars else [] } := by
  have he := w.heat.ended_eq is
  rw [Site.endFibres_eq, Site.retireIfDone]
  cases ha : (w.heat.ended is).alive with
  | true =>
    simp only [Bool.and_true, if_true]
    exact he
  | false =>
    simp only [Bool.and_false, Bool.false_eq_true, if_false]
    rw [he]

theorem Site.endFibres_team : (w.endFibres is).team = { w.team with
    xsets := (w.endFibres is).team.xsets, leader := w.team.leader && !w.leads is } := by
  have hl := w.leaderless_eq is
  rw [Site.endFibres_eq, Site.retireIfDone]
  dsimp only
  split
  · rw [hl]
  · split
    · rw [hl]
    · rw [hl]
      rfl

theorem Site.endFibres_u : (w.endFibres is).u = w.u := by
  rw [Site.endFibres_eq, Site.retireIfDone]
  split <;> rfl

/-- What releasing the set does to the set that a test picks, when the test is about squad and pair alone. -/
def XSet.released (squad heat : Nat) (e : XSet) : XSet :=
  if e.squad = squad ∧ e.holder = some heat then
    { e with holder := e.waiter, waiter := none, regs := e.regs.map fun rs => rs.map (Slot.leftBy heat) }
  else if e.squad = squad ∧ e.waiter = some heat then { e with waiter := none }
  else e

theorem XSet.released_key (squad heat : Nat) (e : XSet) : (e.released squad heat).squad = e.squad ∧ (e.released squad heat).low = e.low := by
  rw [XSet.released]
  split
  · exact ⟨rfl, rfl⟩
  · split <;> exact ⟨rfl, rfl⟩

theorem Site.xset?_releaseX (t : Team) (ht : t.xsets = w.team.xsets) (squad heat : Nat) :
    ({ w with team := t.releaseX squad heat } : Site).xset? = w.xset?.map (XSet.released squad heat) := by
  change (t.xsets.map (XSet.released squad heat)).find? _ = _
  rw [List.find?_map, ht, Site.xset?]
  congr 2
  funext e
  obtain ⟨hs, hl⟩ := XSet.released_key squad heat e
  simp only [Function.comp, hs, hl]
  rfl

/-- The set of the unit's pair after some fibres have ended: as it stood, or released. -/
theorem Site.xset?_endFibres : (w.endFibres is).xset? = w.xset? ∨
    (w.isPacer = false ∧ (w.endFibres is).xset? = w.xset?.map (XSet.released w.squad w.heatNo)) := by
  have hx : (w.leaderless is).xsets = w.team.xsets := by rw [Site.leaderless_eq]
  have hsame : ∀ t : Team, t.xsets = w.team.xsets → ∀ h : Heat, ({ w with heat := h, team := t } : Site).xset? = w.xset? := fun t ht h => by
    rw [Site.xset?, Site.xset?, ht]
    rfl
  rw [Site.endFibres_eq, Site.retireIfDone]
  cases ha : (w.heat.ended is).alive with
  | true => exact .inl (hsame _ hx _)
  | false =>
    cases hp : w.isPacer with
    | true =>
      have hp' : ({ w with heat := w.heat.ended is, team := w.leaderless is } : Site).isPacer = true := hp
      simp only [Bool.false_eq_true, if_false, hp', if_true]
      exact .inl (hsame _ hx _)
    | false =>
      have hp' : ({ w with heat := w.heat.ended is, team := w.leaderless is } : Site).isPacer = false := hp
      simp only [Bool.false_eq_true, if_false, hp']
      exact .inr ⟨trivial, w.xset?_releaseX _ hx _ _⟩

end

/-- Records that the heat has not made keep their mark when the set is released. -/
theorem Site.unmade_iff {x : Site} {b : Baton} : x.madeX b = false ↔ b.left ≠ some x.heatNo ∧ (x.holdsX = true → b.left ≠ none) := by
  rw [Site.madeX]
  cases b.left with
  | none => simp
  | some h => simp

theorem cleanOf_leftBy {x : Site} {rs : List Slot} (hx : x.holdsX = true) (h : cleanOf x.madeX rs) : cleanOf x.madeX (rs.map (Slot.leftBy x.heatNo)) := by
  intro b hb
  obtain ⟨r, hr, hrb⟩ := List.mem_map.mp hb
  cases r with
  | val w => cases hrb
  | bat c =>
    obtain ⟨hne, hsome⟩ := Site.unmade_iff.mp (h c hr)
    cases hrb
    cases hc : c.left with
    | none => exact absurd hc (hsome hx)
    | some n =>
      rw [hc] at hne
      refine Site.unmade_iff.mpr ?_
      simp only [Option.getD_some]
      exact ⟨hne, fun _ => nofun⟩

/-! ### END -/

/-- A change of the counter of free values beside a change of the unit's own. -/
theorem Own.freeCtr {s t : State} {x y : Site} (h : Own s t x y) (c : Nat) : Own { s with freeCtr := c } { t with freeCtr := c } x y where
  here := h.here
  rest := congrArg (fun u : State => { u with freeCtr := c }) h.rest
  teams := h.teams
  meets := h.meets
  units := h.units

section
variable {s : State} {x : Site} {is : List Nat} {e : Ext}

/-- The unit after END, before it is put back. -/
def State.ending (s : State) (x : Site) (is : List Nat) : Site :=
  (((s.account x).1.dropX (s.account x).2 is).2.advance s.cur.batch s.cur.len).endFibres is

theorem end_eq (h : Issues s x is e.guard []) : opEnd e s =
    .next { (s.account x).1.put (s.ending x is) with freeCtr := ((s.account x).1.dropX (s.account x).2 is).1.freeCtr } := by
  have hs := (State.dropX_spec is (s.account x).1 (s.account x).2).state
  have hgo : opEnd e s = .next (((s.account x).1.dropX (s.account x).2 is).1.put ((((s.account x).1.dropX (s.account x).2 is).2.advance
      ((s.account x).1.dropX (s.account x).2 is).1.cur.batch ((s.account x).1.dropX (s.account x).2 is).1.cur.len).endFibres is)) := by
    rw [opEnd, demandNone, issue_eq h]
  have hcur : ((s.account x).1.dropX (s.account x).2 is).1.cur = s.cur := by
    rw [hs]
    exact account_cur s x
  rw [hgo, hcur]
  conv_lhs => rw [hs]
  rfl

/-- The unit whose fibres END ends: its pair's set without their records, its batch at the next instruction. -/
def State.dropped (s : State) (x : Site) (is : List Nat) : Site :=
  ((s.account x).1.dropX (s.account x).2 is).2.advance s.cur.batch s.cur.len

theorem State.dropped_eq : s.dropped x is = { x with
    team := { x.team with counters := (s.account x).2.team.counters, xsets := (s.dropped x is).team.xsets }
    heat := { x.heat with fibres := (s.dropped x is).heat.fibres, issued := x.heat.issued + 1, run := x.heat.run + 1,
                          waiting := false, long := false, tried := false } } := by
  have hd := (State.dropX_spec is (s.account x).1 (s.account x).2).only.rest
  rw [State.dropped, Site.advance, Site.updFibres_eq, hd, State.account_snd]

theorem State.ending_eq : (s.ending x is).team = { x.team with
      counters := (s.account x).2.team.counters, xsets := (s.ending x is).team.xsets, leader := x.team.leader && !x.leads is } ∧
    (s.ending x is).heat = { x.heat with
      fibres := (s.ending x is).heat.fibres, masks := (s.ending x is).heat.masks, active := x.heat.active && (s.ending x is).heat.alive
      bars := if (s.ending x is).heat.alive then x.heat.bars else []
      issued := x.heat.issued + 1, run := x.heat.run + 1, waiting := false, long := false, tried := false } ∧
    (s.ending x is).u = x.u := by
  have hz : s.ending x is = (s.dropped x is).endFibres is := rfl
  have hd := State.dropped_eq (s := s) (x := x) (is := is)
  rw [hz]
  generalize s.dropped x is = z at hd
  have hh := z.endFibres_heat is
  have ha : (z.endFibres is).heat.alive = (z.heat.ended is).alive := by rw [hh]; rfl
  refine ⟨?_, ?_, ?_⟩
  · rw [z.endFibres_team, hd]
    rfl
  · rw [ha, hh, hd]
  · rw [z.endFibres_u, hd]

theorem State.masks_ending (k : Nat) :
    (s.ending x is).heat.masks[k]? = (x.heat.masks[k]?).map fun w => if k < 12 then w &&& ~~~(slotMask is) else w := by
  change (((s.dropped x is).endFibres is).heat).masks[k]? = _
  rw [Site.endFibres_heat]
  dsimp only
  rw [Heat.masks_ended, State.dropped_eq]

theorem State.dropped_fibre? (hb : s.cur.batch.Nodup) (k : Nat) : (s.dropped x is).heat.fibre? k = (x.heat.fibre? k).map fun f =>
    { f with pc := Site.nextPc s k f, last := x.lastOf s k f, waits := Site.waitsOf s k f } := by
  refine advance_fibre? hb ?_ k
  rw [(State.dropX_spec is (s.account x).1 (s.account x).2).only.rest]

theorem State.fibre?_ending (hb : s.cur.batch.Nodup) (k : Nat) : (s.ending x is).heat.fibre? k =
    if k ∈ is then none else (x.heat.fibre? k).map fun f =>
      { f with
        pc := Site.nextPc s k f
        waitOn := f.waitOn.bind fun m => if m < 12 ∧ x.heat.masks.getD m 0 &&& ~~~(slotMask is) = 0 then none else some m
        last := x.lastOf s k f
        waits := Site.waitsOf s k f } := by
  have hm : (s.dropped x is).heat.masks = x.heat.masks := by rw [State.dropped_eq]
  have hf : (s.ending x is).heat.fibre? k = ((s.dropped x is).heat.ended is).fibre? k := by
    change (((s.dropped x is).endFibres is).heat).fibre? k = _
    rw [Site.endFibres_heat]
    rfl
  rw [hf, Heat.fibre?_ended, State.dropped_fibre? hb, hm, Option.map_map]
  rfl

/-- What END leaves of the records in its pair's set: none that the heat has made in the place of a fibre that has ended. -/
theorem State.ending_clean (hp : x.isPacer = false) {q : XSet} (hq : (s.ending x is).xset? = some q) {k : Nat} (hk : k ∈ is) :
    cleanOf x.madeX (q.regs.getD k []) := by
  obtain ⟨-, honly, hclean⟩ := State.dropX_spec is (s.account x).1 (s.account x).2
  have hmade : (s.account x).2.madeX = x.madeX := Site.madeX_congr (account_u s x) (account_holdsX s x)
  have hp' : (s.account x).2.isPacer = false := by rw [State.account_snd]; exact hp
  rw [hmade] at hclean
  have hd : (s.dropped x is).xset? = ((s.account x).1.dropX (s.account x).2 is).2.xset? := by
    rw [State.dropped, Site.advance, Site.updFibres_eq]
    rfl
  have hu : (s.dropped x is).u = x.u := by rw [State.dropped_eq]
  obtain hx | ⟨-, hx⟩ := (s.dropped x is).xset?_endFibres is
  · exact hclean hp' q (hd ▸ hx ▸ hq) k hk
  · have hq' : ((s.dropped x is).endFibres is).xset? = some q := hq
    rw [hx, hd, Option.map_eq_some_iff] at hq'
    obtain ⟨p, hp2, rfl⟩ := hq'
    have hcl := hclean hp' p hp2 k hk
    have hsq : (s.dropped x is).squad = x.squad ∧ (s.dropped x is).heatNo = x.heatNo := by rw [Site.squad, Site.heatNo, hu]; exact ⟨rfl, rfl⟩
    have hy : ((s.account x).1.dropX (s.account x).2 is).2.heatNo = x.heatNo := by rw [Site.heatNo, honly.u, account_u]; rfl
    rw [XSet.released, hsq.1, hsq.2]
    split
    next hc =>
      have hx : x.holdsX = true := by
        rw [← account_holdsX s x, ← honly.holds, Site.holdsX, hp2, hy, Option.bind_some, hc.2, beq_self_eq_true, Bool.and_true, Site.isPacer, honly.u]
        exact congrArg (!·) hp'
      rw [List.getD_eq_getElem?_getD, List.getElem?_map] at *
      cases hr : p.regs[k]? with
      | none => exact fun b hb => nomatch hb
      | some rs =>
        rw [hr] at hcl
        exact cleanOf_leftBy hx hcl
    · split <;> exact hcl

end

/-- Settles O15: NOP computes nothing, YIELD and END put back a unit whose heat is the youngest, or has lost the executing fibres. -/
theorem nopYieldAndEnd : Obligations.NopYieldAndEnd := by
  refine ⟨fun i e s x is h => ⟨fun hi => ?_, fun hi => ?_⟩, fun i e s x is hi h => ?_⟩
  · rw [exec_of_flowOpOf hi rfl]
    exact nop_computes h
  · rw [exec_of_flowOpOf hi rfl, yield_eq h]
    have hz := (s.yielded x).each_advance h.once s.cur.len
    have hu : ((s.yielded x).advance s.cur.batch s.cur.len).u = x.u := by rw [hz.rest, State.yielded, State.account_snd]
    have hteam : ((s.yielded x).advance s.cur.batch s.cur.len).team = { x.team with counters := (s.account x).2.team.counters } := by
      rw [hz.rest, State.yielded, State.account_snd]
    have hheat : ((s.yielded x).advance s.cur.batch s.cur.len).heat = { x.heat with
        fibres := ((s.yielded x).advance s.cur.batch s.cur.len).heat.fibres, age := s.nextId, run := 0, issued := x.heat.issued + 1
        waiting := false, long := false, tried := false } := by
      rw [hz.rest, State.yielded, State.account_snd]
    have hown := State.put_own h.here hu (by rw [hteam]) (by rw [hteam]) (by rw [hteam]) (by rw [hheat]) (by rw [hheat])
    refine ⟨_, _, rfl, hown.here, ?_, hown.teams, hown.units, ?_, hheat, advance_fibre? h.once rfl⟩
    · rw [hown.rest]
    · exact Site.putBack_team (by rw [hteam])
  · rw [exec_of_flowOpOf hi rfl, end_eq h]
    obtain ⟨hteam, hheat, hu⟩ := State.ending_eq (s := s) (x := x) (is := is)
    have hown := State.put_own h.here hu (by rw [hteam]) (by rw [hteam]) (by rw [hteam]) (by rw [hheat]) (by rw [hheat])
    refine ⟨_, _, rfl, hown.freeCtr _, ?_, ?_, State.masks_ending, ?_, State.fibre?_ending h.once⟩
    · rw [Site.putBack, Team.setHeat_eq, hteam]
    · exact hheat
    · intro q hp hq k hk b hb
      refine Site.unmade_iff.mp (State.ending_clean (s := s) hp ?_ hk b hb)
      rw [← hq, Site.xset?, Site.xset?, Site.putBack]
      dsimp only
      rw [Team.setHeat_xsets]
      rfl

end Sys2Proof.Machine
end

section
/-!
SUPPORT. What is left of an instruction that goes on once its own effect is known: the unit that the effect leaves advances its batch and is put back, and
the package that the effect leaves takes it (R34, R187). XLOCK and XFREE (R59, R221).
-/

namespace Sys2Proof.Machine

/-! ### The unit that an effect leaves -/

/-- A unit as an effect leaves it, its issue accounted and its batch not yet advanced: it is the same unit of the same team, and of its fibres only
registers and seeds have changed besides what accounts the issue. -/
structure State.Keeps (s : State) (x z : Site) : Prop where
  u : z.u = x.u
  id : z.team.id = x.team.id
  heats : z.team.heats = x.team.heats
  pacer : z.team.pacer = x.team.pacer
  squad : z.heat.squad = x.heat.squad
  idx : z.heat.idx = x.heat.idx
  fibres : ∀ i, z.heat.fibre? i = (x.heat.fibre? i).bind fun f =>
    (z.heat.fibre? i).map fun g => { Fibre.issuedBy s x i f with regs := g.regs, seed := g.seed }

/-- The unit once its batch has advanced and it has been put back. -/
def Site.after (z : Site) (s : State) : Site := (z.advance s.cur.batch s.cur.len).putBack

theorem bind_map_self {α : Type} (o : Option α) (f : α → α → α) (hf : ∀ a, f a a = a) : (o.bind fun a => o.map (f a)) = o := by
  cases o with
  | none => rfl
  | some a => exact congrArg some (hf a)

section
variable {s : State} {x z w : Site}

theorem State.keeps_account (s : State) (x : Site) : s.Keeps x (s.account x).2 where
  u := account_u s x
  id := by rw [State.account_snd]
  heats := by rw [State.account_snd]
  pacer := by rw [State.account_snd]
  squad := by rw [State.account_snd]
  idx := by rw [State.account_snd]
  fibres i := by
    rw [account_fibre?_eq]
    cases x.heat.fibre? i <;> rfl

/-- What changes neither the unit's place nor its fibres keeps this. -/
theorem State.Keeps.congr (h : s.Keeps x z) (hu : w.u = z.u) (hid : w.team.id = z.team.id) (hh : w.team.heats = z.team.heats)
    (hp : w.team.pacer = z.team.pacer) (hs : w.heat.squad = z.heat.squad) (hi : w.heat.idx = z.heat.idx) (hf : w.heat.fibres = z.heat.fibres) :
    s.Keeps x w where
  u := hu.trans h.u
  id := hid.trans h.id
  heats := hh.trans h.heats
  pacer := hp.trans h.pacer
  squad := hs.trans h.squad
  idx := hi.trans h.idx
  fibres i := by
    have hw : w.heat.fibre? i = z.heat.fibre? i := by rw [Heat.fibre?, hf, Heat.fibre?]
    rw [hw]
    exact h.fibres i

/-- Writing registers and seeds keeps it. -/
theorem State.Keeps.sameBut (h : s.Keeps x z) (hw : z.SameBut w) : s.Keeps x w where
  u := by rw [hw.rest]; exact h.u
  id := by rw [hw.rest]; exact h.id
  heats := by rw [hw.rest]; exact h.heats
  pacer := by rw [hw.rest]; exact h.pacer
  squad := by rw [hw.rest]; exact h.squad
  idx := by rw [hw.rest]; exact h.idx
  fibres i := by
    have hz := h.fibres i
    have hwi := hw.fibres i
    generalize w.heat.fibre? i = b at *
    generalize z.heat.fibre? i = a at *
    cases hx : x.heat.fibre? i with
    | none =>
      rw [hx, Option.bind_none] at hz
      rw [hz] at hwi
      exact hwi
    | some f =>
      rw [hx] at hz
      cases a with
      | none =>
        rw [Option.bind_none] at hwi
        rw [hwi]
        rfl
      | some c =>
        cases b with
        | none => rfl
        | some d =>
          simp only [Option.bind_some, Option.map_some, Option.some.injEq] at hz hwi ⊢
          rw [hwi, hz]

theorem Site.slot_after (z : Site) (s : State) (i r : Nat) : (z.after s).slot i r = z.slot i r := by
  exact (Site.slot_congr (z.advance s.cur.batch s.cur.len) (z.after s) i r rfl rfl (Team.setHeat_xsets _ _ _)).trans (Site.slot_advance z _ _ i r)

theorem Site.seed_after (z : Site) {s : State} (hb : s.cur.batch.Nodup) (i : Nat) : (z.after s).seed i = z.seed i := by
  change (((z.advance s.cur.batch s.cur.len).heat.fibre? i).map Fibre.seed).getD 0 = _
  rw [(z.each_advance hb _).fibres, Option.map_map]
  rfl

theorem Site.xset?_after (z : Site) (s : State) : (z.after s).xset? = z.xset? := by
  rw [Site.after, Site.advance, Site.updFibres_eq, Site.xset?, Site.xset?, Site.putBack]
  dsimp only
  rw [Team.setHeat_xsets]
  rfl

theorem Site.after_u (z : Site) (s : State) : (z.after s).u = z.u := by rw [Site.after, Site.advance, Site.updFibres_eq]; rfl

theorem Site.after_heat (z : Site) (s : State) : (z.after s).heat = { z.heat with fibres := (z.after s).heat.fibres } := by
  change (z.advance s.cur.batch s.cur.len).heat = _
  rw [Site.advance, Site.updFibres_eq]
  rfl

theorem Site.after_team (z : Site) (s : State) : (z.after s).team = { z.team with heats := (z.after s).team.heats, pacer := (z.after s).team.pacer } := by
  rw [Site.after, Site.putBack, Team.setHeat_eq, Site.advance, Site.updFibres_eq]

/-- The batch of a kept unit stands, once advanced, at the next instruction. -/
theorem State.Keeps.advanced (h : s.Keeps x z) (hb : s.cur.batch.Nodup) : Advanced s x (z.after s) := by
  intro i
  change (z.advance s.cur.batch s.cur.len).heat.fibre? i = _
  have hi := h.fibres i
  have ha : (z.after s).heat.fibre? i = _ := (z.each_advance hb s.cur.len).fibres i
  rw [ha, (z.each_advance hb s.cur.len).fibres]
  cases hx : x.heat.fibre? i with
  | none =>
    rw [hx] at hi
    rw [hi]
    rfl
  | some f =>
    rw [hx] at hi
    cases hz : z.heat.fibre? i with
    | none => rfl
    | some g =>
      rw [hz] at hi
      simp only [Option.bind_some, Option.map_some, Option.some.injEq] at hi ⊢
      rw [hi]
      rfl

/-- What the unit's registers and seeds are after an effect is what the effect has written. -/
theorem Wrote.after {is : List Nat} {e : Effect} (h : Wrote x z is e) (hb : s.cur.batch.Nodup) : Wrote x (z.after s) is e where
  result i hi k hk hne := (z.slot_after s i _).trans (h.result i hi k hk hne)
  v0 i hi := (z.slot_after s i 0).trans (h.v0 i hi)
  others i r hr := (z.slot_after s i r).trans (h.others i r hr)
  seeds i := (z.seed_after hb i).trans (h.seeds i)

/-! ### Putting it back -/

/-- Where only the meets have changed, the put leaves the unit's own. -/
theorem State.Keeps.own (h : s.Keeps x z) (hx : s.here = some x) : Own s ((s.account x).1.done z) x (z.after s) := by
  have hd : (s.account x).1.done z = (s.account x).1.put (z.advance s.cur.batch s.cur.len) := by rw [State.done, account_cur]
  rw [hd]
  refine State.put_own hx ?_ ?_ ?_ ?_ ?_ ?_
  · rw [Site.advance, Site.updFibres_eq]; exact h.u
  · rw [Site.advance, Site.updFibres_eq]; exact h.id
  · rw [Site.advance, Site.updFibres_eq]; exact h.heats
  · rw [Site.advance, Site.updFibres_eq]; exact h.pacer
  · rw [Site.advance, Site.updFibres_eq]; exact h.squad
  · rw [Site.advance, Site.updFibres_eq]; exact h.idx

theorem State.Keeps.frame (h : s.Keeps x z) (hx : s.here = some x) (ht : z.team = { x.team with counters := z.team.counters, xsets := z.team.xsets })
    (hh : z.heat = { x.heat with fibres := z.heat.fibres, issued := z.heat.issued, run := z.heat.run, waiting := z.heat.waiting, long := z.heat.long,
                                 tried := z.heat.tried }) : Frame s ((s.account x).1.done z) x (z.after s) where
  toOwn := h.own hx
  team := by rw [Site.after_team, ht]
  heat := by rw [Site.after_heat, hh]

/-- A package beside that of an issue: the same issue, and only what UnitOnly leaves open has changed. -/
structure State.Beside (s t : State) (x : Site) : Prop where
  cur : t.cur = s.cur
  teams : ∀ id, (t.team? id).map Team.bare = (s.team? id).map Team.bare
  exact : ∀ id, id ≠ x.team.id → (∀ u, s.team? id = some u → u.holdsAtomic = false) → t.team? id = s.team? id
  meets : ∀ id, id ≠ x.team.meet → t.meet? id = s.meet? id

theorem State.Beside.of_teams {t : State} (hc : t.cur = s.cur) (ht : t.teams = s.teams) (hm : ∀ id, id ≠ x.team.meet → t.meet? id = s.meet? id) :
    s.Beside t x where
  cur := hc
  teams id := by rw [State.team?, ht, State.team?]
  exact id _ _ := by rw [State.team?, ht, State.team?]
  meets := hm

theorem State.beside_account (s : State) (x : Site) : s.Beside (s.account x).1 x :=
  .of_teams (account_cur s x) (account_teams s x) (State.account_meet? s x)

theorem Team.bare_heat? {t u : Team} (h : t.bare = u.bare) (w : Who) : t.heat? w = u.heat? w := by
  have hh : t.heats = u.heats := (congrArg Team.heats h : t.bare.heats = u.bare.heats)
  have hp : t.pacer = u.pacer := (congrArg Team.pacer h : t.bare.pacer = u.bare.pacer)
  cases w with
  | pacer => exact hp
  | heat q i => rw [Team.heat?, Team.heat?, hh]

/-- A kept unit put back in a package beside its own. -/
theorem State.Keeps.unitOnly {t : State} (h : s.Keeps x z) (hx : s.here = some x) (ht : s.Beside t x) : UnitOnly s (t.done z) x (z.after s) := by
  obtain ⟨hxu, hteam, hheat, hid⟩ := State.site?_some hx
  have hb := ht.teams s.cur.u.team
  rw [hteam, Option.map_some, Option.map_eq_some_iff] at hb
  obtain ⟨o, ho, hbare⟩ := hb
  have hsite : t.site? s.cur.u = some { u := s.cur.u, team := o, heat := x.heat } := by
    rw [State.site?, ho, Option.bind_some, Team.bare_heat? hbare, hheat]
    rfl
  have hoid : o.id = x.team.id := (congrArg Team.id hbare : o.bare.id = x.team.bare.id)
  have hoh : o.heats = x.team.heats := (congrArg Team.heats hbare : o.bare.heats = x.team.bare.heats)
  have hop : o.pacer = x.team.pacer := (congrArg Team.pacer hbare : o.bare.pacer = x.team.bare.pacer)
  have hd : t.done z = t.put (z.advance s.cur.batch s.cur.len) := by rw [State.done, ht.cur]
  have hadv : z.advance s.cur.batch s.cur.len = { z with heat := { z.heat with fibres := (z.advance s.cur.batch s.cur.len).heat.fibres } } :=
    Site.updFibres_eq _ _ _
  obtain ⟨hfound, hunits, hteams⟩ := State.put_spec (y := z.advance s.cur.batch s.cur.len) hsite (by rw [hadv]; exact h.u.trans hxu)
    (by rw [hadv]; exact h.id.trans hoid.symm) (by rw [hadv]; exact h.heats.trans hoh.symm) (by rw [hadv]; exact h.pacer.trans hop.symm)
    (by rw [hadv]; exact h.squad) (by rw [hadv]; exact h.idx)
  have hzu : (z.advance s.cur.batch s.cur.len).u = s.cur.u := by rw [hadv]; exact h.u.trans hxu
  rw [hd]
  refine ⟨?_, fun id hne => ?_, fun id hne => ?_, fun w hw => ?_⟩
  · rw [hfound, Site.after, Site.putBack, hzu]
  · rw [hteams id (hoid ▸ hne)]
    exact ⟨ht.teams id, ht.exact id hne⟩
  · exact ht.meets id hne
  · rw [Site.after, Site.putBack, hzu]
    refine (hunits w (hxu ▸ hw)).trans ?_
    exact Team.bare_heat? hbare w

end

/-! ### XLOCK and XFREE (R59, R221) -/

section
variable {s : State} {x : Site} {is : List Nat} {e : Ext} {q : XSet}

theorem account_xset?_eq (h : x.xset? = some q) : (s.account x).2.xset? = some q := (State.account_xset? s x).trans h

theorem account_heatNo : (s.account x).2.heatNo = x.heatNo := by rw [Site.heatNo, account_u]; rfl

end

/-- Changing the extended sets of the accounted unit leaves a frame. -/
theorem frame_xsets {s : State} {x : Site} (h : s.here = some x) {z : Site}
    (hz : z = { (s.account x).2 with team := { (s.account x).2.team with xsets := z.team.xsets } }) : s.Keeps x z ∧
    Frame s ((s.account x).1.done z) x (z.after s) := by
  have hk : s.Keeps x z := (State.keeps_account s x).congr (by rw [hz]) (by rw [hz]) (by rw [hz]) (by rw [hz]) (by rw [hz]) (by rw [hz]) (by rw [hz])
  refine ⟨hk, hk.frame h ?_ ?_⟩
  · rw [hz, State.account_snd]
  · rw [hz, State.account_snd]

/-- A register depends on the fibres and on the registers of the pair's set. -/
theorem Site.slot_of_regs {x y : Site} (hf : y.heat.fibres = x.heat.fibres) (hx : y.xset?.map XSet.regs = x.xset?.map XSet.regs) (i r : Nat) :
    y.slot i r = x.slot i r := by
  have hb : (y.xset?.bind fun e => (e.regs[i]?).bind fun l => l[r - 128]?) = x.xset?.bind fun e => (e.regs[i]?).bind fun l => l[r - 128]? := by
    have hc := congrArg (Option.bind · fun rs => (rs[i]?).bind fun l => l[r - 128]?) hx
    rw [Option.bind_map, Option.bind_map] at hc
    exact hc
  rw [Site.slot, Site.slot, Heat.fibre?, Heat.fibre?, hf, hb]

theorem Site.seed_of_fibres {x y : Site} (hf : y.heat.fibres = x.heat.fibres) (i : Nat) : y.seed i = x.seed i := by
  rw [Site.seed, Heat.fibre?, hf, Site.seed, Heat.fibre?]

/-- A unit whose registers and seeds stand has been written nothing. -/
theorem wrote_nothing {x z : Site} {is : List Nat} (hs : ∀ i r, z.slot i r = x.slot i r) (hd : ∀ i, z.seed i = x.seed i) : Wrote x z is nothing where
  result i _ k hk := absurd hk (Nat.not_lt_zero k)
  v0 i _ := by
    rw [hs, Effect.v0]
    exact (if_neg fun hc => Nat.lt_irrefl 0 hc.2).symm
  others i r _ := hs i r
  seeds := hd

section
variable {s : State} {x : Site} {is : List Nat} {e : Ext} {q : XSet}

/-- The heat takes the set. -/
def Site.takeX (y : Site) : Site :=
  y.updX fun q => { q with holder := some y.heatNo, waiter := if q.waiter = some y.heatNo then none else q.waiter }

theorem xlock_free (h : Issues s x is e.guard []) (hq : x.xset? = some q) (hf : q.holder = none) :
    opXlock e s = .next ((s.account x).1.done (s.account x).2.takeX) := by
  rw [opXlock, demandNone, issue_eq h, account_xset?_eq hq]
  dsimp only
  rw [hf]
  rfl

theorem xlock_own (h : Issues s x is e.guard []) (hq : x.xset? = some q) (hf : q.holder = some x.heatNo) :
    opXlock e s = .next ((s.account x).1.done (s.account x).2) := by
  rw [opXlock, demandNone, issue_eq h, account_xset?_eq hq]
  dsimp only
  rw [hf]
  dsimp only
  rw [account_heatNo, if_pos rfl]

theorem xset?_takeX (hq : x.xset? = some q) : (s.account x).2.takeX.xset? =
    some { q with holder := some x.heatNo, waiter := if q.waiter = some x.heatNo then none else q.waiter } := by
  have hu := (s.account x).2.xset?_updX (fun q => { q with
    holder := some (s.account x).2.heatNo, waiter := if q.waiter = some (s.account x).2.heatNo then none else q.waiter }) fun _ => ⟨rfl, rfl⟩
  rw [account_xset?_eq hq, account_heatNo] at hu
  rw [Site.takeX, account_heatNo]
  exact hu

theorem account_records (i r n : Nat) : (s.account x).2.records i r n = x.records i r n := by
  induction n generalizing r with
  | zero => rfl
  | succ n ih => rw [Site.records, Site.records, account_slot, ih]

theorem xfree_eq (h : Issues s x is e.guard []) (hh : x.holdsX = true) (hp : x.pendingX = false) :
    opXfree e s = .next ((s.account x).1.done
      { (s.account x).2 with team := (s.account x).2.team.releaseX (s.account x).2.squad (s.account x).2.heatNo }) := by
  have hpa : (s.account x).2.pendingX = x.pendingX := by
    unfold Site.pendingX
    simp only [account_isSome_fibre?, account_records]
  rw [opXfree, demandNone, issue_eq h, if_neg (by rw [account_holdsX, hh]; exact nofun), if_neg (by rw [hpa, hp]; exact nofun)]

/-- The heat that holds its pair's set holds it by name. -/
theorem Site.holder_of_holdsX (hh : x.holdsX = true) (hq : x.xset? = some q) : q.squad = x.squad ∧ q.holder = some x.heatNo := by
  have hf : x.xtest q = true := List.find?_some (x.xset?_eq ▸ hq)
  rw [Site.holdsX, hq, Bool.and_eq_true, Option.bind_some, beq_iff_eq] at hh
  exact ⟨(of_decide_eq_true hf).1, hh.2⟩

theorem xset?_releaseX (hh : x.holdsX = true) (hq : x.xset? = some q) :
    ({ (s.account x).2 with team := (s.account x).2.team.releaseX (s.account x).2.squad (s.account x).2.heatNo } : Site).xset? =
      some { q with holder := q.waiter, waiter := none, regs := q.regs.map fun rs => rs.map (Slot.leftBy x.heatNo) } := by
  obtain ⟨hsq, hho⟩ := Site.holder_of_holdsX hh hq
  have hsx : (s.account x).2.squad = x.squad := by rw [Site.squad, account_u]; rfl
  rw [Site.xset?_releaseX _ _ rfl, account_xset?_eq hq, account_heatNo, hsx, Option.map_some, XSet.released, if_pos ⟨hsq, hho⟩]

end

/-- The registers of a unit whose pair's set has been left by a heat. -/
theorem Site.slot_left {x y : Site} {q p : XSet} {n : Nat} (hf : ∀ i, (y.heat.fibre? i).map (fun f => (f.regs, f.win)) = (x.heat.fibre? i).map fun f => (f.regs, f.win))
    (hx : x.xset? = some q) (hy : y.xset? = some p) (hp : p.regs = q.regs.map fun rs => rs.map (Slot.leftBy n)) (i r : Nat) :
    (r < 128 → y.slot i r = x.slot i r) ∧ (128 ≤ r → y.slot i r = (x.slot i r).leftBy n) := by
  have hi := hf i
  rw [Site.slot, Site.slot]
  cases hxi : x.heat.fibre? i with
  | none =>
    rw [hxi, Option.map_none, Option.map_eq_none_iff] at hi
    rw [hi]
    exact ⟨fun _ => rfl, fun _ => rfl⟩
  | some f =>
    rw [hxi, Option.map_some, Option.map_eq_some_iff] at hi
    obtain ⟨g, hg, hgf⟩ := hi
    obtain ⟨hregs, hwin⟩ := Prod.mk.inj hgf
    rw [hg]
    refine ⟨fun hr => ?_, fun hr => ?_⟩
    · dsimp only
      rw [if_pos hr, if_pos hr, hregs, Fibre.slotOf, Fibre.slotOf, hwin]
    · dsimp only
      rw [if_neg (Nat.not_lt.mpr hr), if_neg (Nat.not_lt.mpr hr), hx, hy, Option.bind_some, Option.bind_some, hp, List.getElem?_map]
      cases q.regs[i]? with
      | none => rfl
      | some rs =>
        rw [Option.map_some, Option.bind_some, Option.bind_some, List.getElem?_map]
        cases rs[r - 128]? <;> rfl

/-- Settles O17: both instructions change the pair's set of the accounted unit and nothing else of it. -/
theorem extendedSetLocks : Obligations.ExtendedSetLocks := by
  refine fun i e s x is q h hq => ⟨fun hi hf => ?_, fun hi hh hp => ?_⟩
  · rw [exec_of_flowOpOf hi rfl]
    obtain hf | hf := hf
    · obtain ⟨hk, hframe⟩ := frame_xsets (z := (s.account x).2.takeX) h.here rfl
      have hset := xset?_takeX (s := s) hq
      have hregs : (s.account x).2.takeX.xset?.map XSet.regs = (s.account x).2.xset?.map XSet.regs := by rw [hset, account_xset?_eq hq]; rfl
      have hslot i r : (s.account x).2.takeX.slot i r = x.slot i r := (Site.slot_of_regs (x := (s.account x).2) (y := (s.account x).2.takeX) rfl hregs i r).trans (account_slot s x i r)
      refine ⟨_, _, xlock_free h hq hf, hframe, hk.advanced h.once, (wrote_nothing hslot fun i => ?_).after h.once, ?_⟩
      · exact (Site.seed_of_fibres (x := (s.account x).2) rfl i).trans (account_seed s x i)
      · rw [Site.xset?_after, hset, hf]
        simp only [true_and]
    · have hk := State.keeps_account s x
      refine ⟨_, _, xlock_own h hq hf, (frame_xsets h.here rfl).2, hk.advanced h.once,
        (wrote_nothing (account_slot s x) (account_seed s x)).after h.once, ?_⟩
      rw [Site.xset?_after, account_xset?_eq hq, if_neg fun hc => (nomatch hc.1.symm.trans hf), ← hf]
  · rw [exec_of_flowOpOf hi rfl]
    obtain ⟨hk, hframe⟩ := frame_xsets (z := { (s.account x).2 with
      team := (s.account x).2.team.releaseX (s.account x).2.squad (s.account x).2.heatNo }) h.here rfl
    have hleft k r := Site.slot_left (x := (s.account x).2) (y := { (s.account x).2 with
      team := (s.account x).2.team.releaseX (s.account x).2.squad (s.account x).2.heatNo }) (fun _ => rfl) (account_xset?_eq (s := s) hq) (xset?_releaseX (s := s) hh hq) rfl k r
    have hset := xset?_releaseX (s := s) hh hq
    refine ⟨_, _, xfree_eq h hh hp, hframe, hk.advanced h.once, fun k => ⟨fun r hr => ?_, fun r hr => ?_, ?_⟩, ?_⟩
    · rw [Site.slot_after]
      exact ((hleft k r).1 hr).trans (account_slot s x k r)
    · rw [Site.slot_after, ← account_slot s x]
      exact (hleft k r).2 hr
    · rw [Site.seed_after _ h.once]
      exact (Site.seed_of_fibres (x := (s.account x).2) rfl k).trans (account_seed s x k)
    · rw [Site.xset?_after, hset]

end Sys2Proof.Machine
end

section
/-!
SUPPORT. FORK (R32, R34, R79, R217): the new fibres of the lowest free slots, which stand beside what is written in their creators.
-/

namespace Sys2Proof.Machine

/-- What is put into a free slot of a heat, with its place in mask 0; nothing where no slot is given. -/
def Site.spawn (y : Site) (c : Nat → Option Fibre) : Option Nat → Site
  | none => y
  | some n => { y with heat := { y.heat with fibres := y.heat.fibres.set n (c n), masks := y.heat.masks.modify 0 (· ||| (1#32 <<< n)) } }

/-! ### Writing in a fibre beside a new one -/

section
variable {y : Site} {i n : Nat} {c : Nat → Option Fibre}

theorem Site.fibre?_spawn_other {o : Option Nat} {k : Nat} (h : o ≠ some k) : (y.spawn c o).heat.fibre? k = y.heat.fibre? k := by
  cases o with
  | none => rfl
  | some n =>
    rw [Site.spawn, Heat.fibre?, List.getElem?_set_ne fun hn => h (congrArg some hn)]
    rfl

theorem Site.slot_spawn (h : i ≠ n) (r : Nat) : (y.spawn c (some n)).slot i r = y.slot i r :=
  Site.slot_congr y _ i r rfl (congrArg _ (Site.fibre?_spawn_other fun hc => h (Option.some.inj hc).symm)) rfl

theorem Fibre.set_modify_comm {fs : List (Option Fibre)} (h : i ≠ n) (o : Option Fibre) (f : Option Fibre → Option Fibre) :
    (fs.set n o).modify i f = (fs.modify i f).set n o := by
  refine List.ext_getElem? fun k => ?_
  rw [List.getElem?_modify, List.getElem?_set, List.getElem?_set, List.getElem?_modify, List.length_modify]
  by_cases hk : n = k
  · subst hk
    simp [h]
  · simp [hk]

theorem Site.setSlot_spawn (h : i ≠ n) (r : Nat) (v : Slot) : (y.spawn c (some n)).setSlot i r v = (y.setSlot i r v).spawn c (some n) := by
  rw [Site.setSlot, Site.setSlot]
  by_cases hr : r < 128
  · rw [if_pos hr, if_pos hr]
    change Site.mk _ _ { y.heat with fibres := (y.heat.fibres.set n (c n)).modify i _, masks := _ } = _
    rw [Fibre.set_modify_comm h]
    rfl
  · rw [if_neg hr, if_neg hr]
    rfl

theorem Site.setVal_spawn (h : i ≠ n) (r m v : Nat) : (y.spawn c (some n)).setVal i r m v = (y.setVal i r m v).spawn c (some n) := by
  induction m generalizing y r v with
  | zero => rfl
  | succ m ih => rw [Site.setVal, Site.setVal, Site.setSlot_spawn h, ih]

theorem Site.setGuard_spawn (h : i ≠ n) (g : Nat) (b : Bool) : (y.spawn c (some n)).setGuard i g b = (y.setGuard i g b).spawn c (some n) := by
  rw [Site.setGuard, Site.setGuard, Site.word, Site.word, Site.slot_spawn h, Site.setSlot_spawn h]

/-- A write without a seed and a new fibre in another slot do not meet. -/
theorem Site.write_spawn {f : Effect} (hs : f.seed = none) {o : Option Nat} (h : o ≠ some i) : (y.spawn c o).write f i = (y.write f i).spawn c o := by
  cases o with
  | none => rfl
  | some n =>
    have hn : i ≠ n := fun hc => h (congrArg some hc.symm)
    rw [Site.write, Site.write, Effect.seedOn, Effect.seedOn, hs, Effect.bitOn, Effect.bitOn, Site.setVal_spawn hn]
    cases f.bit with
    | none => rfl
    | some p => exact Site.setGuard_spawn hn _ _

theorem Site.fibre?_setSlot_other {k : Nat} (h : i ≠ k) (r : Nat) (v : Slot) : (y.setSlot i r v).heat.fibre? k = y.heat.fibre? k := by
  rw [Site.fibre?_setSlot, if_neg fun hc => h hc.2]

theorem Site.fibre?_setVal_other {k : Nat} (h : i ≠ k) (r m v : Nat) : (y.setVal i r m v).heat.fibre? k = y.heat.fibre? k := by
  induction m generalizing y r v with
  | zero => rfl
  | succ m ih => rw [Site.setVal, ih, Site.fibre?_setSlot_other h]

/-- A write without a seed leaves every other fibre. -/
theorem Site.fibre?_write_other {f : Effect} (hs : f.seed = none) {k : Nat} (h : i ≠ k) : (y.write f i).heat.fibre? k = y.heat.fibre? k := by
  rw [Site.write, Effect.seedOn, hs, Effect.bitOn]
  cases f.bit with
  | none => exact Site.fibre?_setVal_other h _ _ _
  | some p => exact (Site.fibre?_setSlot_other h _ _).trans (Site.fibre?_setVal_other h _ _ _)

end

/-! ### All the new fibres, and all the writes -/

section
variable {o : Nat → Option Nat} {c : Nat → Nat → Option Fibre} {f : Effect}

/-- A new fibre for each of some fibres that has a slot for one. -/
def Site.spawns (y : Site) (c : Nat → Nat → Option Fibre) (o : Nat → Option Nat) (is : List Nat) : Site := is.foldl (fun y i => y.spawn (c i) (o i)) y

/-- The fibres may all be made first: none of them takes the slot of a fibre that is written. -/
theorem Site.foldl_spawn_write (hs : f.seed = none) : ∀ (is : List Nat) (y : Site), (∀ i ∈ is, ∀ j ∈ is, o j ≠ some i) →
    is.foldl (fun y i => (y.spawn (c i) (o i)).write f i) y = is.foldl (fun y i => y.write f i) (y.spawns c o is)
  | [], _, _ => rfl
  | i :: is, y, h => by
    have hi : ∀ j ∈ is, o j ≠ some i := fun j hj => h i List.mem_cons_self j (List.mem_cons_of_mem _ hj)
    have hmove : ∀ (l : List Nat) (z : Site), (∀ j ∈ l, o j ≠ some i) → (z.write f i).spawns c o l = (z.spawns c o l).write f i := by
      intro l
      induction l with
      | nil => exact fun _ _ => rfl
      | cons j l ih =>
        intro z hl
        have hw := Site.write_spawn (y := z) (c := c j) hs (hl j List.mem_cons_self)
        change ((z.write f i).spawn (c j) (o j)).spawns c o l = ((z.spawn (c j) (o j)).spawns c o l).write f i
        rw [← hw, ih _ fun k hk => hl k (List.mem_cons_of_mem _ hk)]
    rw [List.foldl_cons, Site.foldl_spawn_write hs is _ fun a ha b hb => h a (List.mem_cons_of_mem _ ha) b (List.mem_cons_of_mem _ hb),
      hmove is _ hi]
    rfl

theorem Site.fibre?_spawns_other {k : Nat} : ∀ (is : List Nat) (y : Site), (∀ i ∈ is, o i ≠ some k) → (y.spawns c o is).heat.fibre? k = y.heat.fibre? k
  | [], _, _ => rfl
  | i :: is, _, h =>
    (Site.fibre?_spawns_other is _ fun j hj => h j (List.mem_cons_of_mem _ hj)).trans (Site.fibre?_spawn_other (h i List.mem_cons_self))

/-- A new fibre stands in the slot that it alone has been given. -/
theorem Site.fibre?_spawns {i n : Nat} : ∀ (is : List Nat) (y : Site), i ∈ is → o i = some n → (∀ j ∈ is, o j = some n → j = i) →
    n < y.heat.fibres.length → (y.spawns c o is).heat.fibre? n = c i n
  | [], _, hi, _, _, _ => nomatch hi
  | j :: is, y, hi, ho, hu, hn => by
    have hlen : n < (y.spawn (c j) (o j)).heat.fibres.length := by
      cases o j with
      | none => exact hn
      | some m =>
        rw [Site.spawn, List.length_set]
        exact hn
    change ((y.spawn (c j) (o j)).spawns c o is).heat.fibre? n = _
    by_cases hmem : i ∈ is
    · exact Site.fibre?_spawns is _ hmem ho (fun k hk => hu k (List.mem_cons_of_mem _ hk)) hlen
    · have hij : i = j := (List.mem_cons.mp hi).resolve_right hmem
      rw [Site.fibre?_spawns_other is _ fun k hk hc => hmem (hu k (List.mem_cons_of_mem _ hk) hc ▸ hk), ← hij, ho]
      change ((y.heat.fibres.set n (c i n))[n]?).join = _
      rw [List.getElem?_set_self hn]
      rfl

/-- New fibres change the fibres and mask 0 of their heat. -/
theorem Site.spawns_eq : ∀ (is : List Nat) (y : Site), y.spawns c o is = { y with heat := { y.heat with
    fibres := (y.spawns c o is).heat.fibres, masks := y.heat.masks.modify 0 fun w => (is.filterMap o).foldl (fun w n => w ||| (1#32 <<< n)) w } }
  | [], y => by
    have hm : y.heat.masks.modify 0 (fun w => w) = y.heat.masks := List.modify_id 0 _
    change y = Site.mk _ _ { y.heat with fibres := _, masks := y.heat.masks.modify 0 fun w => w }
    rw [hm]
    rfl
  | i :: is, y => by
    have ih := Site.spawns_eq is (y.spawn (c i) (o i))
    change (y.spawn (c i) (o i)).spawns c o is = Site.mk _ _ { y.heat with fibres := ((y.spawn (c i) (o i)).spawns c o is).heat.fibres, masks := _ }
    rw [ih]
    cases ho : o i with
    | none => rw [List.filterMap_cons_none ho]; rfl
    | some n =>
      rw [List.filterMap_cons_some ho]
      simp only [Site.spawn, List.foldl_cons, List.modify_modify_eq]
      rfl

theorem Site.spawns_u (y : Site) (is : List Nat) : (y.spawns c o is).u = y.u := by rw [Site.spawns_eq]

theorem Site.spawns_team (y : Site) (is : List Nat) : (y.spawns c o is).team = y.team := by rw [Site.spawns_eq]

theorem Site.slot_spawns (y : Site) {is : List Nat} {k : Nat} (h : ∀ i ∈ is, o i ≠ some k) (r : Nat) : (y.spawns c o is).slot k r = y.slot k r :=
  Site.slot_congr y _ k r (y.spawns_u is) (congrArg _ (Site.fibre?_spawns_other is y h)) (by rw [Site.spawns_team])

theorem Site.has_spawns (y : Site) {is : List Nat} {k : Nat} (h : ∀ i ∈ is, o i ≠ some k) {r : Nat} (hr : y.Has k r) : (y.spawns c o is).Has k r := by
  obtain ⟨f, hf, hr⟩ := hr
  have hx : (y.spawns c o is).xset? = y.xset? := by rw [Site.spawns_eq]; rfl
  have hh : (y.spawns c o is).holdsX = y.holdsX := Site.holdsX_eq_of_xset? (y.spawns_u is) (by rw [hx])
  refine ⟨f, (Site.fibre?_spawns_other is y h).trans hf, ?_⟩
  rw [hx, hh]
  exact hr

theorem Site.fibre?_writes_other (hs : f.seed = none) {k : Nat} : ∀ (is : List Nat) (y : Site), k ∉ is →
    (is.foldl (fun y i => y.write f i) y).heat.fibre? k = y.heat.fibre? k
  | [], _, _ => rfl
  | i :: is, y, h => by
    have hi : i ≠ k := fun hc => h (hc ▸ List.mem_cons_self)
    exact (Site.fibre?_writes_other hs is _ fun hk => h (List.mem_cons_of_mem _ hk)).trans (Site.fibre?_write_other hs hi)

end

/-! ### The loop of FORK -/

/-- What FORK writes in its creators: the slot's number and guard C. -/
def forkEffect (e : Ext) (x : Site) (is : List Nat) : Effect :=
  { d := e.d.toNat, n := 1, v := fun k => (x.forkSlot is k).getD (2 ^ 32 - 1), bit := some (e.c.toNat % 32, fun k => (x.forkSlot is k).isSome) }

/-- The fibre that a fibre of x creates in slot n. -/
def Site.forkChild (x : Site) (e : Ext) (pc : Pc) (i n : Nat) : Option Fibre :=
  (x.heat.fibre? i).map fun f => f.child n x.heat.issued (BitVec.ofNat 56 (x.forkTarget e pc i))

section
variable {x : Site} {e : Ext} {pc : Pc} {is : List Nat}

theorem forkLoop_some {i n : Nat} {r ns : List Nat} {p : Fibre} (hp : x.heat.fibre? i = some p) (y : Site) :
    forkLoop e x pc (i :: r) (n :: ns) y =
      forkLoop e x pc r ns (((y.spawn (x.forkChild e pc i) (some n)).setVal i e.d.toNat 1 n).setGuard i (e.c.toNat % 32) true) := by
  have hc : x.forkChild e pc i n = some (p.child n x.heat.issued (BitVec.ofNat 56 (x.forkTarget e pc i))) := by rw [Site.forkChild, hp]; rfl
  rw [forkLoop, Site.spawn, hc]
  exact hp

theorem forkLoop_none {i : Nat} {r : List Nat} (y : Site) : forkLoop e x pc (i :: r) [] y =
    forkLoop e x pc r [] ((y.setVal i e.d.toNat 1 (2 ^ 32 - 1)).setGuard i (e.c.toNat % 32) false) := by
  rw [forkLoop]
  exact fun _ _ _ hc => nomatch hc

theorem write_forkEffect (y : Site) (i : Nat) : y.write (forkEffect e x is) i =
    (y.setVal i e.d.toNat 1 ((x.forkSlot is i).getD (2 ^ 32 - 1))).setGuard i (e.c.toNat % 32) (x.forkSlot is i).isSome := rfl

/-- The loop gives each of the executing fibres that are left its new fibre and its results. -/
theorem forkLoop_eq (hn : is.Nodup) (hl : ∀ i ∈ is, (x.heat.fibre? i).isSome) : ∀ (r l : List Nat) (y : Site), l ++ r = is →
    forkLoop e x pc r (x.heat.freeSlots.drop l.length) y =
      r.foldl (fun y i => (y.spawn (x.forkChild e pc i) (x.forkSlot is i)).write (forkEffect e x is) i) y
  | [], _, _, _ => rfl
  | i :: r, l, y, h => by
    have hil : i ∉ l := fun hc => by
      rw [← h, List.nodup_append] at hn
      exact hn.2.2 i hc i List.mem_cons_self rfl
    have hslot : x.forkSlot is i = x.heat.freeSlots[l.length]? := by
      rw [Site.forkSlot, ← h, List.idxOf_append_of_notMem hil, List.idxOf_cons_self, Nat.add_zero]
    have ih y := forkLoop_eq hn hl r (l ++ [i]) y (by rw [← h, List.append_assoc]; rfl)
    rw [List.length_append, List.length_singleton] at ih
    obtain ⟨p, hp⟩ := Option.isSome_iff_exists.mp (hl i (h ▸ List.mem_append_right _ List.mem_cons_self))
    rw [List.foldl_cons, ← ih, write_forkEffect, hslot]
    cases hf : x.heat.freeSlots[l.length]? with
    | none =>
      have hlen := List.getElem?_eq_none_iff.mp hf
      rw [List.drop_eq_nil_of_le hlen, List.drop_eq_nil_of_le (Nat.le_succ_of_le hlen), forkLoop_none]
      rfl
    | some n =>
      obtain ⟨hlt, hg⟩ := List.getElem?_eq_some_iff.mp hf
      rw [List.drop_eq_getElem_cons hlt, hg, forkLoop_some hp]
      rfl

end

/-! ### FORK -/

/-- The registers that FORK names. -/
def forkUses (e : Ext) : List Use := [readV0, { reg := 1, n := 15, rd := true }, useD e 1] ++ readB e 2

theorem issueOnG_eq {s : State} {x : Site} {is : List Nat} {g : Guard} {us vs : List Use} {met : Site → List Nat → List (Nat × List Baton)}
    {pass : Site → Nat → Bool} (h : Issues s x is g us) (hv : ∀ v ∈ vs, ∀ i ∈ is, ∀ k < v.n, x.Has i (v.reg + k))
    (hm : ∀ p ∈ met x is, p.2 = []) (eff : State → Site → List Nat → Out) :
    issueOn met pass g (demandG vs) s eff = eff (s.account x).1 (s.account x).2 is := by
  have hne : is.isEmpty = false := List.isEmpty_eq_false_iff.mpr h.nonempty
  have hf : x.fieldsCheck s.cur.pc is (demandG vs).uses = none := Site.fieldsCheck_none _ hv
  simp only [issueOn, h.here, h.guardGate, h.executing, hne, Bool.false_eq_true, if_false, Site.barred_demandG, hf, gateOf_nil _ _ hm]

section
variable {s : State} {x : Site} {is : List Nat} {e : Ext}

theorem forkMet_nil (h : Issues s x is e.guard (forkUses e)) : ∀ p ∈ forkMet e x is, p.2 = [] := by
  intro p hp
  obtain ⟨⟨i, k⟩, hik, rfl⟩ := List.mem_map.mp hp
  have hi : i ∈ is := (List.mem_zipIdx hik).2.2 ▸ List.getElem_mem _
  have h0 : ∃ w, x.slot i 0 = .val w := (h.values readV0 (by simp [forkUses]) rfl i hi 0 Nat.one_pos).2
  have hr : ∀ k < 16, ∃ w, x.slot i (0 + k) = .val w := by
    intro k hk
    rw [Nat.zero_add]
    cases k with
    | zero => exact h0
    | succ k =>
      rw [Nat.add_comm]
      exact (h.values { reg := 1, n := 15, rd := true } (by simp [forkUses]) rfl i hi k (Nat.lt_of_succ_lt_succ hk)).2
  have hb : (if e.osel = 0 then x.records i e.b.toNat 2 else []) = [] := by
    by_cases ho : e.osel = 0
    · rw [if_pos ho]
      exact x.records_nil _ _ _ fun k hk =>
        (h.values { reg := e.b.toNat, n := 2, rd := true } (by simp [forkUses, readB, ho]) rfl i hi k hk).2
    · rw [if_neg ho]
  dsimp only
  rw [hb, List.append_nil]
  split
  · exact x.records_nil _ _ _ hr
  · exact x.records_nil _ _ _ fun k hk => hr k (by omega)

theorem Site.length_updFibres (x : Site) (f : Fibre → Fibre) (is : List Nat) : (x.updFibres is f).heat.fibres.length = x.heat.fibres.length := by
  induction is generalizing x with
  | nil => rfl
  | cons i is ih => exact (ih _).trans (List.length_modify ..)

theorem account_length_fibres (s : State) (x : Site) : (s.account x).2.heat.fibres.length = x.heat.fibres.length := Site.length_updFibres _ _ _

@[simp] theorem account_freeSlots (s : State) (x : Site) : (s.account x).2.heat.freeSlots = x.heat.freeSlots := by
  simp only [Heat.freeSlots, ← Option.not_isSome, account_isSome_fibre?]

theorem account_forkTarget (s : State) (x : Site) (pc : Pc) (i : Nat) : (s.account x).2.forkTarget e pc i = x.forkTarget e pc i := by
  simp only [Site.forkTarget, account_val]

theorem account_forkSlot (s : State) (x : Site) (is : List Nat) (i : Nat) : (s.account x).2.forkSlot is i = x.forkSlot is i := by
  rw [Site.forkSlot, account_freeSlots, Site.forkSlot]

/-- The unit with the new fibres and nothing written yet. -/
def State.forked (s : State) (x : Site) (e : Ext) (is : List Nat) : Site :=
  (s.account x).2.spawns ((s.account x).2.forkChild e s.cur.pc) (x.forkSlot is) is

/-- The slots that FORK gives hold no fibre. -/
theorem fibre?_forkSlot {i n : Nat} (h : x.forkSlot is i = some n) : x.heat.fibre? n = none := by
  have hm := List.mem_of_getElem? h
  rw [Heat.freeSlots, List.mem_filter] at hm
  exact Option.isNone_iff_eq_none.mp hm.2

theorem forkSlot_inj {i j n : Nat} (hi : i ∈ is) (h : x.forkSlot is i = some n) (k : x.forkSlot is j = some n) : j = i := by
  have hnd : x.heat.freeSlots.Nodup := List.nodup_range.filter _
  obtain ⟨hlt, hin⟩ := List.getElem?_eq_some_iff.mp h
  obtain ⟨hlt', hjn⟩ := List.getElem?_eq_some_iff.mp k
  have hidx := (hnd.getElem_inj_iff).mp (hjn.trans hin.symm)
  exact ((List.idxOf_inj hi).mp hidx.symm).symm

theorem fork_eq (h : Issues s x is e.guard (forkUses e)) (ht : ∀ k ∈ is, goodTarget (x.forkTarget e s.cur.pc k)) :
    opFork e s = .next ((s.account x).1.done (is.foldl (fun y i => y.write (forkEffect e x is) i) (s.forked x e is))) := by
  have hlive : ∀ i ∈ is, ((s.account x).2.heat.fibre? i).isSome := fun i hi => by
    rw [account_isSome_fibre?]
    exact h.live i (h.sub i hi)
  have hfree : ∀ i ∈ is, ∀ j ∈ is, x.forkSlot is j ≠ some i := fun i hi j _ hc => by
    have hl := h.live i (h.sub i hi)
    rw [fibre?_forkSlot hc] at hl
    cases hl
  have hloop := forkLoop_eq (x := (s.account x).2) (e := e) (pc := s.cur.pc) h.nodup hlive is [] (s.account x).2 rfl
  have heff : forkEffect e (s.account x).2 is = forkEffect e x is := by simp only [forkEffect, account_forkSlot]
  simp only [account_forkSlot, heff] at hloop
  rw [opFork, issueOnG_eq h (fun v hv => h.fields v (by
    simp only [forkUses, List.mem_cons, List.cons_append, List.nil_append] at hv ⊢
    exact .inr (.inr hv))) (forkMet_nil h)]
  rw [account_cur, firstTarget_eq_none (fun _ _ => rfl) fun k hk => by rw [account_forkTarget]; exact ht k hk]
  dsimp only
  rw [State.forked, ← Site.foldl_spawn_write rfl is _ hfree, ← hloop]
  rfl

/-- The unit once FORK has written its results. -/
def State.forkDone (s : State) (x : Site) (e : Ext) (is : List Nat) : Site := is.foldl (fun y i => y.write (forkEffect e x is) i) (s.forked x e is)

theorem State.forkDone_sameBut (s : State) (x : Site) (e : Ext) (is : List Nat) : (s.forked x e is).SameBut (s.forkDone x e is) :=
  sameBut_fold (fun i y => y.write (forkEffect e x is) i) (fun i y => Site.sameBut_write y _ i) is _

theorem State.forkDone_eq (s : State) (x : Site) (e : Ext) (is : List Nat) : s.forkDone x e is = { x with
    team := { x.team with counters := (s.account x).2.team.counters, xsets := (s.forkDone x e is).team.xsets }
    heat := { x.heat with
      fibres := (s.forkDone x e is).heat.fibres, issued := x.heat.issued + 1, run := x.heat.run + 1, waiting := false, long := false, tried := false
      masks := x.heat.masks.modify 0 fun w => (is.filterMap (x.forkSlot is)).foldl (fun w n => w ||| (1#32 <<< n)) w } } := by
  have hz := (s.forkDone_sameBut x e is).rest
  rw [State.forked, Site.spawns_eq, State.account_snd] at hz
  exact hz

/-- A slot that FORK leaves to the fibre that it holds. -/
theorem forkSlot_ne {k : Nat} (hk : (x.heat.fibre? k).isSome) : ∀ i ∈ is, x.forkSlot is i ≠ some k :=
  fun i _ hc => by
    rw [fibre?_forkSlot hc] at hk
    cases hk

theorem forkDone_wrote (h : Issues s x is e.guard (forkUses e)) : Wrote (s.forked x e is) (s.forkDone x e is) is (forkEffect e x is) := by
  have hhas {i r : Nat} (hi : i ∈ is) (hr : x.Has i r) : (s.forked x e is).Has i r :=
    Site.has_spawns _ (forkSlot_ne (h.live i (h.sub i hi))) (State.account_has s x i r hr)
  refine wrote_fold is _ _ (fun i hi k hk => hhas hi ?_) (fun _ i hi => hhas hi ?_) (fun i hi => ?_) h.nodup
  · exact h.fields (useD e 1) (by simp [forkUses]) i hi k hk
  · exact h.fields readV0 (by simp [forkUses]) i hi 0 Nat.one_pos
  · rw [State.forked, Site.fibre?_spawns_other _ _ (forkSlot_ne (h.live i (h.sub i hi))), account_isSome_fibre?]
    exact h.live i (h.sub i hi)

theorem slot_forked {k : Nat} (hk : (x.heat.fibre? k).isSome) (r : Nat) :
    (s.forked x e is).slot k r = x.slot k r :=
  (Site.slot_spawns _ (forkSlot_ne hk) r).trans (account_slot s x k r)

end

/-- Settles O16: the new fibres stand in slots that were free, so that they and the writes in their creators do not meet. -/
theorem forkCreatesFibres : Obligations.ForkCreatesFibres := by
  intro i e s x is hi h ht f
  replace h : Issues s x is e.guard (forkUses e) := h
  have hz := s.forkDone_eq x e is
  have hadv := (s.forkDone x e is).each_advance h.once s.cur.len
  have hw : Wrote (s.forked x e is) (s.forkDone x e is) is f := forkDone_wrote h
  have hbut := s.forkDone_sameBut x e is
  have hself {k : Nat} (hk : k ∈ is) : (x.heat.fibre? k).isSome := h.live k (h.sub k hk)
  have hown : Own s ((s.account x).1.done (s.forkDone x e is)) x ((s.forkDone x e is).after s) := by
    rw [State.done, account_cur]
    exact State.put_own h.here (by rw [hadv.rest, hz]) (by rw [hadv.rest, hz]) (by rw [hadv.rest, hz]) (by rw [hadv.rest, hz]) (by rw [hadv.rest, hz])
      (by rw [hadv.rest, hz])
  have hfib k : ((s.forkDone x e is).after s).heat.fibre? k = _ := hadv.fibres k
  refine ⟨_, _, ?_, hown, ?_, fun k hk => ⟨?_, fun hd => ?_⟩, fun k r hlive hr => ?_, fun k hk n p hn hp hempty => ?_, fun n hn hno => ?_,
    fun k p hp => ?_, ?_⟩
  · rw [exec_of_flowOpOf hi rfl, fork_eq h ht]
    rfl
  · rw [Site.after_team, hz]
  · rw [Site.slot_after, hw.v0 k hk, Effect.v0, Effect.v0, slot_forked (hself hk)]
  · rw [Site.slot_after]
    have hres := hw.result k hk 0 Nat.one_pos hd
    simpa using hres
  · rw [Site.slot_after, ← slot_forked hlive]
    refine hw.others k r (hr.imp_right fun hc => ⟨hc.1, ?_⟩)
    have hne : r ≠ f.d := hc.2
    change r < f.d ∨ f.d + 1 ≤ r
    omega
  · have hdead : x.heat.fibre? n = none := fibre?_forkSlot hn
    have hni : n ∉ is := fun hc => by
      have hs := hself hc
      rw [hdead] at hs
      cases hs
    have hnb : n ∉ s.cur.batch := fun hc => by
      have hs := h.live n hc
      rw [hdead] at hs
      cases hs
    have hlen : n < (s.account x).2.heat.fibres.length := by
      rw [account_length_fibres]
      exact (List.getElem?_eq_some_iff.mp hempty).1
    rw [hfib, State.forkDone, Site.fibre?_writes_other rfl is _ hni, State.forked,
      Site.fibre?_spawns is _ hk hn (fun j _ hj => forkSlot_inj hk hn hj) hlen, Site.forkChild, account_fibre?_eq, hp, account_forkTarget]
    simp only [Option.map_some, if_neg hnb]
    rw [State.account_snd]
    rfl
  · have hni : n ∉ is := fun hc => by
      have hs := hself hc
      rw [hn] at hs
      cases hs
    rw [hfib, State.forkDone, Site.fibre?_writes_other rfl is _ hni, State.forked, Site.fibre?_spawns_other is _ hno, account_fibre?_eq_none hn]
    rfl
  · have hk : (x.heat.fibre? k).isSome := by rw [hp]; rfl
    have hforked : (s.forked x e is).heat.fibre? k = some (Fibre.issuedBy s x k p) := by
      rw [State.forked, Site.fibre?_spawns_other is _ (forkSlot_ne hk), account_fibre?_eq, hp]
      rfl
    have hdone := hbut.fibres k
    have hseed := hw.seeds k
    obtain ⟨g, hg⟩ := Option.isSome_iff_exists.mp (hbut.isSome k (by rw [hforked]; rfl))
    rw [hforked, hg, Option.bind_some, Option.map_some, Option.some.injEq] at hdone
    rw [Site.seed, Site.seed, hforked, hg] at hseed
    refine ⟨{ g with pc := if k ∈ s.cur.batch then g.pc + BitVec.ofNat 56 s.cur.len else g.pc }, ?_, ?_⟩
    · rw [hfib, hg]
      rfl
    · replace hseed : g.seed = p.seed := hseed
      rw [hseed] at hdone
      rw [hdone]
      rfl
  · rw [Site.after_heat, hz]

end Sys2Proof.Machine
end

section
/-!
SUPPORT. What bringing lines nearer, evicting them and writing them back can do to the package (R103, R104, R132, R357, R374, R407): copies, tracking
structures, use counts and memory change, and contexts take traps; nothing else does, and memory keeps its canonical form.
-/

namespace Sys2Proof.Machine

/-- The package t is s after work of its caches and homes. -/
structure State.Stirs (s t : State) : Prop where
  rest : t = { s with
    mem := t.mem, poison := t.poison, lines := t.lines, slices := t.slices, uses := t.uses, missed := t.missed, ulines := t.ulines, filters := t.filters
    dirs := t.dirs, portDir := t.portDir, invals := t.invals, ctxs := t.ctxs }
  wf : Memory.wf s.mem = true → Memory.wf t.mem = true
  pending : ∀ l ∈ t.ulines, l ∈ s.ulines
  bare : ∀ id, (t.ctx? id).map Context.bare = (s.ctx? id).map Context.bare

namespace State.Stirs

theorem refl (s : State) : s.Stirs s := ⟨rfl, id, fun _ => id, fun _ => rfl⟩

theorem trans {s t u : State} (h : s.Stirs t) (k : t.Stirs u) : s.Stirs u where
  rest := by
    have hk := k.rest
    rw [h.rest] at hk
    exact hk
  wf := k.wf ∘ h.wf
  pending l hl := h.pending l (k.pending l hl)
  bare id := (k.bare id).trans (h.bare id)

theorem foldl {α : Type} {f : State → α → State} (hf : ∀ (s : State) a, s.Stirs (f s a)) : ∀ (l : List α) (s : State), s.Stirs (l.foldl f s)
  | [], s => refl s
  | a :: l, s => (hf s a).trans (foldl hf l (f s a))

/-- Where neither memory, nor U lines, nor contexts change. -/
theorem of_rest {s t : State} (h : t = { s with
    poison := t.poison, lines := t.lines, slices := t.slices, uses := t.uses, missed := t.missed, filters := t.filters
    dirs := t.dirs, portDir := t.portDir, invals := t.invals }) : s.Stirs t where
  rest := by rw [h]
  wf hs := by rw [h]; exact hs
  pending l hl := by rw [h] at hl; exact hl
  bare id := by rw [h]; rfl

theorem dies {s t : State} (h : s.Stirs t) : t.dies = s.dies := by rw [h.rest]

theorem teams {s t : State} (h : s.Stirs t) : t.teams = s.teams := by rw [h.rest]

theorem meets {s t : State} (h : s.Stirs t) : t.meets = s.meets := by rw [h.rest]

theorem cur {s t : State} (h : s.Stirs t) : t.cur = s.cur := by rw [h.rest]

theorem memOk {s t : State} (h : s.Stirs t) (hs : s.MemOk) : t.MemOk := ⟨h.wf hs.1, h.teams ▸ hs.2⟩

end State.Stirs

variable (s : State)

/-! ### Memory at its home -/

theorem State.stirs_recallU (pa n : Nat) : s.Stirs (s.recallU pa n) :=
  ⟨rfl, s.wf_recallU pa n, fun _ hl => (List.mem_filter.mp hl).1, fun _ => rfl⟩

theorem State.stirs_homeRead (pa n : Nat) : s.Stirs (s.homeRead pa n).2 := s.stirs_recallU pa n

theorem State.stirs_homeWrite (pa : Nat) (bs : List Byte) : s.Stirs (s.homeWrite pa bs) :=
  ⟨rfl, s.wf_homeWrite pa bs, (s.stirs_recallU pa bs.length).pending, fun _ => rfl⟩

theorem State.stirs_publish (bs : List (Nat × Byte)) : s.Stirs (s.publish bs) := by
  induction bs generalizing s with
  | nil => exact .refl s
  | cons b bs ih => exact (s.stirs_homeWrite _ _).trans (ih _)

/-! ### Traps of contexts -/

/-- A look-up by key after a change that keeps the keys. -/
theorem ctx?_setCtx {s : State} {ctx : Nat} {c d : Context} (hc : s.ctx? ctx = some c) (hb : d.bare = c.bare) (id : Nat) :
    ((s.setCtx d).ctx? id).map Context.bare = (s.ctx? id).map Context.bare := by
  have hdc : d.id = c.id := (congrArg Context.id hb : d.bare.id = c.bare.id)
  have hcid : c.id = ctx := by simpa using List.find?_some hc
  by_cases hid : d.id = id
  · have hs : (s.setCtx d).ctx? d.id = some d := find?_map_same s.ctxs Context.id d c d.id (by rw [hdc, hcid]; exact hc) rfl
    rw [← hid, hs, hdc, hcid, hc, Option.map_some, Option.map_some, hb]
  · have hs : (s.setCtx d).ctx? id = s.ctx? id := find?_map_key s.ctxs Context.id d id hid
    rw [hs]

theorem State.stirs_setCtx {s : State} {ctx : Nat} {c d : Context} (hc : s.ctx? ctx = some c) (hb : d.bare = c.bare) : s.Stirs (s.setCtx d) :=
  ⟨rfl, id, fun _ => id, ctx?_setCtx hc hb⟩

theorem State.stirs_ctxTrap (ctx : Nat) (d : DTrap) : s.Stirs (s.ctxTrap ctx d) := by
  rw [State.ctxTrap]
  cases hc : s.ctx? ctx with
  | none => exact .refl s
  | some c =>
    dsimp only
    split
    · exact State.stirs_setCtx hc rfl
    · exact State.stirs_setCtx hc rfl

theorem State.stirs_ownerTrap (owner : BitVec 16) (cs : Byte) (info : DWord) : s.Stirs (s.ownerTrap owner cs info) := by
  rw [State.ownerTrap]
  cases SMap.get? s.owners owner.toNat with
  | none => exact .refl s
  | some ctx => exact s.stirs_ctxTrap ctx _

theorem State.stirs_chargeOwner (die : Nat) (c : CLine) (cs : Byte) : s.Stirs (s.chargeOwner die c cs) := s.stirs_ownerTrap _ _ _

/-! ### Write-back and eviction -/

theorem State.stirs_dropCopies (p : CLine → Bool) : s.Stirs (s.dropCopies p) := .of_rest rfl

theorem State.stirs_putCopy (c : CLine) : s.Stirs (s.putCopy c) := .of_rest rfl

theorem State.stirs_passDown (c : CLine) : s.Stirs (s.passDown c) := .of_rest rfl

theorem State.stirs_writeBack (die : Nat) (c : CLine) : s.Stirs (s.writeBack die c).1 := by
  rw [State.writeBack]
  split
  · exact .refl s
  · split
    · exact .refl s
    · split
      · exact .refl s
      · split
        · exact (s.stirs_passDown c).trans (State.stirs_homeWrite _ _ _)
        · split
          · exact .refl s
          · exact (s.stirs_passDown c).trans (State.stirs_publish _ _)

theorem State.stirs_writeBackOne (die : Nat) (c : CLine) : s.Stirs (s.writeBackOne die c) := by
  have h := s.stirs_writeBack die c
  rw [State.writeBackOne]
  generalize s.writeBack die c = r at h
  obtain ⟨t, o⟩ := r
  cases o with
  | none => exact h.trans (.of_rest rfl)
  | some cs => exact (h.trans (t.stirs_chargeOwner die c cs)).trans (State.stirs_dropCopies _ _)

theorem State.stirs_writeBackLine (die : Nat) (c : CLine) : s.Stirs (s.writeBackLine die c) :=
  State.Stirs.foldl (fun s d => s.stirs_writeBackOne die d) _ s

theorem State.stirs_writeBackAll (p : CLine → Bool) : s.Stirs (s.writeBackAll p) := by
  rw [State.writeBackAll]
  exact State.Stirs.foldl (fun s c => s.stirs_writeBackLine c.level.die c) _ s

theorem State.stirs_evictCopy (bad : Bool) (c : CLine) : s.Stirs (s.evictCopy bad c) := by
  have hm : s.Stirs ((s.mates c).foldl (fun s d => s.writeBackOne c.level.die d) s) := State.Stirs.foldl (fun s d => s.stirs_writeBackOne _ d) _ s
  rw [State.evictCopy]
  generalize (s.mates c).foldl (fun s d => s.writeBackOne c.level.die d) s = t at hm
  have h := t.stirs_writeBack c.level.die c
  refine hm.trans (.trans ?_ (State.stirs_dropCopies _ _))
  generalize t.writeBack c.level.die c = r at h
  obtain ⟨u, o⟩ := r
  cases o with
  | none =>
    dsimp only
    split
    · exact (h.trans (.of_rest rfl)).trans (State.stirs_chargeOwner _ _ _ _)
    · exact h
  | some cs => exact h.trans (State.stirs_chargeOwner _ _ _ _)

/-! ### Replacement -/

theorem State.stirs_roomNear {lv : Level} {line w : Nat} {t : State} (h : s.roomNear lv line = some (w, t)) : s.Stirs t := by
  have hv (ways : List Nat) (mine : List CLine) (h : ((leastBy (fun c : CLine => evictionKey s.uses c.policy c.used)
      (mine.filter fun c => c.way ∈ ways)).map fun c => (c.way, s.evictCopy false c)) = some (w, t)) : s.Stirs t := by
    obtain ⟨c, -, hc⟩ := Option.map_eq_some_iff.mp h
    obtain ⟨-, rfl⟩ := Prod.mk.inj hc
    exact s.stirs_evictCopy false c
  unfold State.roomNear at h
  cases lv with
  | l0 cl k =>
    dsimp only at h
    split at h
    · cases h; exact .refl s
    · exact hv _ _ h
  | clus cl =>
    dsimp only at h
    split at h
    · cases h; exact .refl s
    · exact hv _ _ h
  | l2 d => cases h

theorem State.stirs_dropL2 (t : Tag) : s.Stirs (s.dropL2 t) := .of_rest rfl

theorem State.stirs_roomL2 {die line part w : Nat} {t : State} (h : s.roomL2 die line part = some (w, t)) : s.Stirs t := by
  unfold State.roomL2 at h
  dsimp only at h
  split at h
  · cases h; exact .refl s
  · obtain ⟨c, -, hc⟩ := Option.map_eq_some_iff.mp h
    obtain ⟨-, rfl⟩ := Prod.mk.inj hc
    exact s.stirs_dropL2 c

/-! ### Tracking -/

theorem State.stirs_recallFilter (cl : ClusterRef) (t : Track) : s.Stirs (s.recallFilter cl t) := s.stirs_dropCopies _

theorem State.stirs_recallDirectory (die : Nat) (t : Track) : s.Stirs (s.recallDirectory die t) :=
  (s.stirs_recallU _ _).trans (State.stirs_dropCopies _ _)

theorem State.stirs_recallPort (t : Track) : s.Stirs (s.recallPort t) := (s.stirs_recallU _ _).trans (State.stirs_dropCopies _ _)

theorem State.stirs_trackFilter (cl : ClusterRef) (core line : Nat) : s.Stirs (s.trackFilter cl core line) := by
  rw [State.trackFilter]
  split
  · exact .of_rest rfl
  · exact .trans (.of_rest rfl) (State.stirs_recallFilter _ _ _)

theorem State.stirs_trackDirectory (die holder pa lease : Nat) : s.Stirs (s.trackDirectory die holder pa lease) := by
  rw [State.trackDirectory]
  split
  · exact .of_rest rfl
  · exact .trans (.of_rest rfl) (State.stirs_recallDirectory _ _ _)

theorem State.stirs_trackPort (die pa lease : Nat) : s.Stirs (s.trackPort die pa lease) := by
  rw [State.trackPort]
  split
  · exact .of_rest rfl
  · exact .trans (.of_rest rfl) (State.stirs_recallPort _ _)

theorem State.stirs_track (lv : Level) (pa lease : Nat) : s.Stirs (s.track lv pa lease) := by
  unfold State.track
  cases lv with
  | l0 cl core =>
    refine (s.stirs_trackFilter cl core (pa / 64)).trans ?_
    dsimp only
    split
    · exact State.stirs_trackDirectory _ _ _ _ _
    · exact State.stirs_trackPort _ _ _ _
  | clus cl =>
    dsimp only
    split
    · exact State.stirs_trackDirectory _ _ _ _ _
    · exact State.stirs_trackPort _ _ _ _
  | l2 e =>
    dsimp only
    split
    · split
      · exact .refl s
      · exact State.stirs_trackDirectory _ _ _ _ _
    · exact State.stirs_trackPort _ _ _ _

/-! ### Bringing a line nearer -/

theorem State.stirs_hold (h : Hit) (c : CLine) : s.Stirs (s.hold h c) := by
  have hroom {w : Nat} {t : State}
      (hr : (match c.level with | .l2 d => s.roomL2 d c.line h.wayp | .l0 _ _ => s.roomNear c.level c.line | .clus _ => s.roomNear c.level c.line) =
        some (w, t)) : s.Stirs t := by
    cases hl : c.level with
    | l0 cl k => rw [hl] at hr; exact s.stirs_roomNear hr
    | clus cl => rw [hl] at hr; exact s.stirs_roomNear hr
    | l2 d => rw [hl] at hr; exact s.stirs_roomL2 hr
  rw [State.hold]
  split
  · exact .refl s
  next w t hr =>
    have hput : t.Stirs { t.putCopy { c with way := w, used := t.uses } with uses := t.uses + 1 } := .of_rest rfl
    refine (hroom hr).trans (hput.trans ?_)
    dsimp only
    split
    · exact .refl _
    · exact State.stirs_track _ _ _ _

theorem State.stirs_useHome (h : Hit) (line : Nat) : s.Stirs (s.useHome h line) := by
  rw [State.useHome]
  split
  · exact .of_rest rfl
  · split
    · exact .of_rest rfl
    · dsimp only
      split
      · exact .of_rest rfl
      · split
        · exact .of_rest rfl
        next hr => exact .trans (.of_rest rfl) ((State.stirs_roomL2 _ hr).trans (.of_rest rfl))

theorem State.stirs_touch (c : CLine) : s.Stirs (s.touch c) := .of_rest rfl

theorem State.stirs_useTables (die : Nat) (reads : List Nat) : s.Stirs (s.useTables die reads) := by
  rw [State.useTables]
  refine .trans (State.Stirs.foldl (fun s line => ?_) _ s) (.of_rest rfl)
  split
  · exact s.stirs_useHome _ _
  · split
    · exact .refl s
    · exact (s.stirs_homeRead _ _).trans (State.stirs_hold _ _ _)

theorem State.stirs_bring (x : Site) (h : Hit) (line rc : Nat) : s.Stirs (s.bring x h line rc).2 := by
  have hhome := s.stirs_homeRead (64 * line) 64
  rw [State.bring]
  refine .trans ?_ (State.Stirs.foldl (fun s lv => s.stirs_hold _ _) _ _)
  cases s.copyFor x h.cls line with
  | none => exact hhome.trans (State.stirs_useHome _ _ _)
  | some c =>
    cases h.cls with
    | phase | priv => exact s.stirs_touch c
    | seq | stream => exact hhome.trans (State.stirs_touch _ c)

/-! ### Read counts -/

theorem State.stirs_hitCount (c : CLine) : s.Stirs (s.hitCount c) := by
  rw [State.hitCount]
  split
  · exact .refl s
  · exact s.stirs_dropCopies _
  · exact s.stirs_putCopy _

theorem State.stirs_countHits (s0 : State) (x : Site) (lines : List (PageClass × Nat)) : s.Stirs (s0.countHits x lines s) := by
  rw [State.countHits]
  refine State.Stirs.foldl (fun s p => ?_) _ s
  split
  · split
    · exact .refl s
    · split
      · exact s.stirs_hitCount _
      · exact .refl s
  · exact .refl s

theorem State.stirs_uncount (x : Site) (line : Nat) : s.Stirs (s.uncount x line) := .of_rest rfl

/-! ### Clusters -/

theorem State.stirs_cleanLevels (p : Level → Bool) : s.Stirs (s.cleanLevels p) := s.stirs_writeBackAll _

theorem State.stirs_emptyCluster (cl : ClusterRef) : s.Stirs (s.emptyCluster cl) :=
  ((State.Stirs.foldl (fun s _ => s.stirs_recallU _ _) _ s).trans (State.stirs_cleanLevels _ _)).trans (State.stirs_dropCopies _ _)

theorem State.stirs_emptyClusters (die : Nat) : s.Stirs (s.emptyClusters die) :=
  State.Stirs.foldl (fun s _ => s.stirs_emptyCluster _) _ s

end Sys2Proof.Machine
end

section
/-!
SUPPORT. Power states and monitors (R392 to R397): a die in its place, the commands that the power core serves, and what they leave.
-/

namespace Sys2Proof.Machine

/-! ### A die in its place -/

theorem modify_eq_set_of_getElem? {α : Type} {l : List α} {i : Nat} {a : α} (f : α → α) (h : l[i]? = some a) : l.modify i f = l.set i (f a) := by
  refine List.ext_getElem? fun k => ?_
  rw [List.getElem?_modify, List.getElem?_set]
  by_cases hk : i = k
  · subst hk
    obtain ⟨hlt, -⟩ := List.getElem?_eq_some_iff.mp h
    have ha : l[i] = a := Option.some.inj ((List.getElem?_eq_getElem hlt).symm.trans h)
    simp [hlt, ha]
  · simp [hk]

section
variable {s : State} {die : Nat} {d : Die}

theorem State.updDie_eq (h : s.die? die = some d) (f : Die → Die) : s.updDie die f = { s with dies := s.dies.set die (f d) } := by
  rw [State.updDie, modify_eq_set_of_getElem? f h]

theorem State.lt_of_die? (h : s.die? die = some d) : die < s.dies.length := (List.getElem?_eq_some_iff.mp h).1

/-- A die that changes, and news for the host. -/
theorem State.updDie_news (h : s.die? die = some d) (f : Die → Die) (news : List HostEvent) :
    { s.updDie die f with host := s.host ++ news } = s.withDie die (f d) news := by
  rw [State.updDie_eq h]
  rfl

theorem State.powerCore_up (h : s.die? die = some d) (hc : d.coreUp 4 = true) (o : Out) : s.powerCore die o = o := by
  rw [State.powerCore, h, Option.map_some, hc, if_neg nofun]

theorem State.powerCore_down (h : s.die? die = some d) (hc : d.coreUp 4 = false) (o : Out) : s.powerCore die o = .next s := by
  rw [State.powerCore, h, Option.map_some, hc, if_pos rfl]

theorem State.powerCmd_down (h : s.die? die = some d) (hc : d.coreUp 4 = false) (r : Bool) (f : State → State) : s.powerCmd die r f = .next s := by
  rw [State.powerCmd, if_neg (Nat.not_le.mpr (State.lt_of_die? h)), State.powerCore_down h hc]

theorem State.powerCmd_refused (h : s.die? die = some d) (hc : d.coreUp 4 = true) (f : State → State) :
    s.powerCmd die true f = .next (s.tell (.command 1)) := by
  rw [State.powerCmd, if_neg (Nat.not_le.mpr (State.lt_of_die? h)), State.powerCore_up h hc]
  rfl

theorem State.powerCmd_done (h : s.die? die = some d) (hc : d.coreUp 4 = true) (f : State → State) :
    s.powerCmd die false f = .next ((f s).tell (.command 0)) := by
  rw [State.powerCmd, if_neg (Nat.not_le.mpr (State.lt_of_die? h)), State.powerCore_up h hc]
  rfl

end

/-! ### Power states -/

section
variable {d : Die} (p : Power)

theorem Die.enter_awake (h : d.power = .active ∨ d.power = .park) : d.enter p = { d with power := p } := by
  rw [Die.enter]
  obtain h | h := h <;> rw [h]

theorem Die.enter_doze (h : d.power = .doze) : d.enter p = { d.wake with power := p } := by
  rw [Die.enter, h]

theorem Die.enter_off (h : d.power = .off) : d.enter p = Die.fresh p d := by
  rw [Die.enter, h]

theorem Die.clusters_wake {k : Nat} {c : Cluster} (h : d.clusters[k]? = some c) : d.wake.clusters[k]? = some { Cluster.reset with
    trigs := d.dozed.getD k c.trigs, bankPl := c.bankPl, chanPl := c.chanPl, trigPl := c.trigPl, rows := c.rows, unit := c.unit } := by
  rw [Die.wake]
  simp only [List.getElem?_map, List.getElem?_zipIdx, h, Option.map_some, Nat.zero_add]

theorem Die.doze_awake (h : d.power = .active ∨ d.power = .park) : d.doze = { d with power := .doze, dozed := d.clusters.map Cluster.trigs } := by
  rw [Die.doze]
  obtain h | h := h <;> rw [h]

end

/-! ### Write-back adds no copy -/

/-- Every copy of t stands where s has a copy of the same line and class. -/
def State.NoNew (s t : State) : Prop := ∀ c ∈ t.lines, ∃ b ∈ s.lines, b.level = c.level ∧ b.line = c.line ∧ b.cls = c.cls

namespace State.NoNew

theorem of_lines {s t : State} (h : t.lines = s.lines) : s.NoNew t := fun c hc => ⟨c, h ▸ hc, rfl, rfl, rfl⟩

theorem trans {s t u : State} (h : s.NoNew t) (k : t.NoNew u) : s.NoNew u := by
  intro c hc
  obtain ⟨b, hb, h1, h2, h3⟩ := k c hc
  obtain ⟨a, ha, g1, g2, g3⟩ := h b hb
  exact ⟨a, ha, g1.trans h1, g2.trans h2, g3.trans h3⟩

theorem foldl {α : Type} {f : State → α → State} (hf : ∀ (s : State) a, s.NoNew (f s a)) : ∀ (l : List α) (s : State), s.NoNew (l.foldl f s)
  | [], _ => of_lines rfl
  | a :: l, s => (hf s a).trans (foldl hf l (f s a))

theorem map {s t : State} {f : CLine → CLine} (h : t.lines = s.lines.map f) (hf : ∀ c, (f c).level = c.level ∧ (f c).line = c.line ∧ (f c).cls = c.cls) :
    s.NoNew t := by
  intro c hc
  rw [h] at hc
  obtain ⟨b, hb, rfl⟩ := List.mem_map.mp hc
  obtain ⟨h1, h2, h3⟩ := hf b
  exact ⟨b, hb, h1.symm, h2.symm, h3.symm⟩

end State.NoNew

section
variable (s : State)

theorem State.mem_dropCopies {p : CLine → Bool} {c : CLine} : c ∈ (s.dropCopies p).lines ↔ c ∈ s.lines ∧ p c = false := by
  simp [State.dropCopies]

theorem State.noNew_dropCopies (p : CLine → Bool) : s.NoNew (s.dropCopies p) := fun c hc => ⟨c, ((s.mem_dropCopies).mp hc).1, rfl, rfl, rfl⟩

theorem State.noNew_passDown (c : CLine) : s.NoNew (s.passDown c) := by
  refine .map (s := s) (t := s.passDown c) rfl fun d => ?_
  split <;> exact ⟨rfl, rfl, rfl⟩

@[simp] theorem State.lines_recallU (pa n : Nat) : (s.recallU pa n).lines = s.lines := rfl

@[simp] theorem State.lines_homeWrite (pa : Nat) (bs : List Byte) : (s.homeWrite pa bs).lines = s.lines := rfl

@[simp] theorem State.lines_publish (bs : List (Nat × Byte)) : (s.publish bs).lines = s.lines := by
  induction bs generalizing s with
  | nil => rfl
  | cons b bs ih => exact ih _

theorem State.lines_ctxTrap (ctx : Nat) (d : DTrap) : (s.ctxTrap ctx d).lines = s.lines := by
  rw [State.ctxTrap]
  split
  · rfl
  · split <;> rfl

theorem State.lines_chargeOwner (die : Nat) (c : CLine) (cs : Byte) : (s.chargeOwner die c cs).lines = s.lines := by
  rw [State.chargeOwner, State.ownerTrap]
  split
  · exact s.lines_ctxTrap _ _
  · rfl

theorem State.noNew_writeBack (die : Nat) (c : CLine) : s.NoNew (s.writeBack die c).1 := by
  rw [State.writeBack]
  split
  · exact .of_lines rfl
  · split
    · exact .of_lines rfl
    · split
      · exact .of_lines rfl
      · split
        · exact s.noNew_passDown c
        · split
          · exact .of_lines rfl
          · exact (s.noNew_passDown c).trans (.of_lines (State.lines_publish _ _))

theorem State.noNew_writeBackOne (die : Nat) (c : CLine) : s.NoNew (s.writeBackOne die c) := by
  have h := s.noNew_writeBack die c
  rw [State.writeBackOne]
  generalize s.writeBack die c = r at h
  obtain ⟨t, o⟩ := r
  cases o with
  | none =>
    refine h.trans (.map (s := t) rfl fun d => ?_)
    split <;> exact ⟨rfl, rfl, rfl⟩
  | some cs => exact (h.trans (.of_lines (t.lines_chargeOwner die c cs))).trans (State.noNew_dropCopies _ _)

theorem State.noNew_writeBackAll (p : CLine → Bool) : s.NoNew (s.writeBackAll p) := by
  rw [State.writeBackAll]
  exact .foldl (fun s c => .foldl (fun s d => s.noNew_writeBackOne _ d) _ s) _ s

theorem State.noNew_emptyCluster (cl : ClusterRef) : s.NoNew (s.emptyCluster cl) :=
  ((State.NoNew.foldl (f := fun (s : State) (l : ULine) => s.recallU l.pa l.bytes) (fun _ _ => .of_lines rfl) _ s).trans
    (State.noNew_writeBackAll _ _)).trans (State.noNew_dropCopies _ _)

/-- A cluster that has been emptied holds no copy, and none comes back while others are emptied. -/
theorem State.emptyCluster_lines (cl : ClusterRef) : ∀ c ∈ (s.emptyCluster cl).lines, (∀ k, c.level ≠ .l0 cl k) ∧ c.level ≠ .clus cl := by
  intro c hc
  have hp := (((State.mem_dropCopies _).mp hc).2 :)
  refine ⟨fun k hl => ?_, fun hl => ?_⟩
  · rw [hl] at hp
    simp at hp
  · rw [hl] at hp
    simp at hp

theorem State.emptyClusters_lines (die : Nat) : ∀ (ls : List Nat) (s : State), ∀ c ∈ (ls.foldl (fun s l => s.emptyCluster { die := die, loc := l }) s).lines,
    ∀ loc ∈ ls, (∀ k, c.level ≠ .l0 { die := die, loc := loc } k) ∧ c.level ≠ .clus { die := die, loc := loc }
  | l :: ls, s, c, hc, loc, hloc => by
    obtain rfl | hloc := List.mem_cons.mp hloc
    · obtain ⟨b, hb, hlv, -⟩ := State.NoNew.foldl (fun s _ => s.noNew_emptyCluster _) ls _ c hc
      exact hlv ▸ s.emptyCluster_lines _ b hb
    · exact State.emptyClusters_lines die ls _ c hc loc hloc

end

theorem State.emptyClusters_spec {s : State} {die : Nat} {c : CLine} (h : c ∈ (s.emptyClusters die).lines) {loc : Nat} (hl : loc < 24) :
    (∀ k, c.level ≠ .l0 { die := die, loc := loc } k) ∧ c.level ≠ .clus { die := die, loc := loc } := by
  rw [State.emptyClusters] at h
  exact State.emptyClusters_lines die _ s c h loc (List.mem_range.mpr hl)

/-! ### Power commands -/

section
variable {s : State} {die : Nat} {d : Die}

/-- A die after the key slots of a die have been emptied. -/
theorem State.endSessions_die? (p : Nat → KeySlot → Bool) (h : s.die? die = some d) :
    ∃ ks, (s.endSessions p).die? die = some { d with keys := ks } := by
  refine ⟨d.keys.map fun k => k.filter fun k => !p die k, ?_⟩
  have hd : s.dies[die]? = some d := h
  rw [State.die?, State.endSessions]
  simp only [List.getElem?_map, List.getElem?_zipIdx, hd, Option.map_some, Nat.zero_add]

theorem State.endSessions_homeOf (p : Nat → KeySlot → Bool) (pa : Nat) : (s.endSessions p).homeOf pa = s.homeOf pa := by
  have hl : (s.endSessions p).dies.length = s.dies.length := by simp [State.endSessions]
  rw [State.homeOf, State.homeOf, State.ownBytes, State.ownBytes, hl]
  rfl

/-- What a die that goes off leaves: a fresh die, and its memory reads 0. -/
theorem State.off_spec (h : s.die? die = some d) :
    (((s.endSessions fun k _ => k = die).losesMemory die).updDie die (Die.fresh .off)).die? die = some (Die.fresh .off d) ∧
    ∀ a, Memory.get (((s.endSessions fun k _ => k = die).losesMemory die).updDie die (Die.fresh .off)).mem a =
      if s.homeOf a = some die then 0 else Memory.get s.mem a := by
  refine ⟨?_, fun a => ?_⟩
  · obtain ⟨ks, hk⟩ := State.endSessions_die? (fun k _ => decide (k = die)) h
    rw [State.die?, State.updDie, List.getElem?_modify_eq]
    exact (congrArg (Option.map (Die.fresh .off)) hk)
  · change Memory.get ((s.endSessions fun k _ => k = die).losesMemory die).mem a = _
    rw [State.losesMemory]
    dsimp only
    rw [Memory.get_filter (fun a => !((s.endSessions fun k _ => k = die).homeOf a == some die)), State.endSessions_homeOf]
    by_cases ha : s.homeOf a = some die
    · simp [ha]
    · simp [ha, State.endSessions]

end

section
variable (die : Nat) (s : State)

theorem exec_powerActive : exec (.powerActive die) s = s.powerCmd die false fun s => s.updDie die (Die.enter .active) := rfl
theorem exec_powerPark : exec (.powerPark die) s = s.powerCmd die false fun s => s.updDie die (Die.enter .park) := rfl
theorem exec_powerDoze : exec (.powerDoze die) s = s.powerCmd die (s.busyDie die) fun s => (s.emptyClusters die).updDie die Die.doze := rfl
theorem exec_powerOff : exec (.powerOff die) s = s.powerCmd die (s.meetOn die || s.ctxs.any fun c => s.maps c fun r => r.on s die) fun s =>
    ((s.endSessions fun d _ => d = die).losesMemory die).updDie die (Die.fresh .off) := rfl

theorem exec_frequencyStep {d : Die} (h : s.die? die = some d) (k : Nat) : exec (.frequencyStep die k) s =
    s.powerCore die (if 8 ≤ k then .next (s.tell (.command 2)) else (s.updDie die fun d => { d with step := k }).done_) :=
  if_neg (Nat.not_le.mpr (State.lt_of_die? h))

end

/-- Settles O58: each command by its refusal and by the die that it leaves. -/
theorem powerCommandsAct : Obligations.PowerCommandsAct := by
  intro s die d h
  refine ⟨fun hc i hi => ?_, fun p hp => d.enter_awake p hp, fun p hp => ?_, fun p hp => d.enter_off p hp, fun hc => ⟨⟨?_, ?_⟩, ?_, ?_, ?_, ?_, ?_, ?_⟩⟩
  · simp only [List.mem_cons, List.not_mem_nil, or_false] at hi
    obtain rfl | rfl | rfl | rfl | rfl := hi
    · rw [exec_powerActive, State.powerCmd_down h hc]
    · rw [exec_powerPark, State.powerCmd_down h hc]
    · rw [exec_powerDoze, State.powerCmd_down h hc]
    · rw [exec_powerOff, State.powerCmd_down h hc]
    · rw [exec_frequencyStep die s h, State.powerCore_down h hc]
  · rw [d.enter_doze p hp]
    exact ⟨rfl, rfl, rfl, rfl, fun k c hk => Die.clusters_wake hk⟩
  · rw [exec_powerActive, State.powerCmd_done h hc]
    exact congrArg _ (State.updDie_news h _ _)
  · rw [exec_powerPark, State.powerCmd_done h hc]
    exact congrArg _ (State.updDie_news h _ _)
  · intro hb
    rw [exec_powerDoze, hb, State.powerCmd_refused h hc]
  · intro hb hp
    have hdies : (s.emptyClusters die).dies = s.dies := (s.stirs_emptyClusters die).dies
    have hlines := @State.emptyClusters_spec s die
    have hexec : exec (.powerDoze die) s = .next (((s.emptyClusters die).updDie die Die.doze).tell (.command 0)) := by
      rw [exec_powerDoze, hb, State.powerCmd_done h hc]
    generalize s.emptyClusters die = q at hdies hlines hexec
    have hd : q.die? die = some d := by rw [State.die?, hdies]; exact h
    refine ⟨_, hexec, ?_, List.mem_append_right _ (List.mem_singleton_self _), fun c hcl k loc hloc => ?_⟩
    · change (q.updDie die Die.doze).dies = _
      rw [State.updDie_eq hd, d.doze_awake hp, hdies]
    · exact ⟨(hlines hcl hloc).1 k, (hlines hcl hloc).2⟩
  · intro hr
    have hb : (s.meetOn die || s.ctxs.any fun c => s.maps c fun r => r.on s die) = true := by
      rw [Bool.or_eq_true, List.any_eq_true]
      exact hr
    rw [exec_powerOff, hb, State.powerCmd_refused h hc]
  · intro hm hx
    have hb : (s.meetOn die || s.ctxs.any fun c => s.maps c fun r => r.on s die) = false := by
      rw [Bool.or_eq_false_iff, List.any_eq_false]
      exact ⟨hm, fun c hcx => by rw [hx c hcx]; exact nofun⟩
    obtain ⟨hdie, hmem⟩ := State.off_spec h
    refine ⟨(((s.endSessions fun k _ => k = die).losesMemory die).updDie die (Die.fresh .off)).tell (.command 0), ?_, hdie, hmem⟩
    rw [exec_powerOff, hb, State.powerCmd_done h hc]
  · intro k hk
    rw [exec_frequencyStep die s h, State.powerCore_up h hc, if_neg (Nat.not_le.mpr hk)]
    exact congrArg _ (State.updDie_news h _ _)
  · intro k hk
    rw [exec_frequencyStep die s h, State.powerCore_up h hc, if_pos hk]

end Sys2Proof.Machine
end

section
/-!
SUPPORT. Monitors (R392, R397): what the host learns of samples, droops, thresholds and reads.
-/

namespace Sys2Proof.Machine

/-! ### Warnings and trip points -/

theorem foldl_tell {α : Type} (f : α → HostEvent) : ∀ (l : List α) (s : State),
    l.foldl (fun (s : State) a => s.tell (f a)) s = { s with host := s.host ++ l.map f }
  | [], s => by rw [List.map_nil, List.append_nil]; rfl
  | a :: l, s => by
    rw [List.map_cons, List.append_cons]
    exact foldl_tell f l (s.tell (f a))

theorem State.warnAll_eq (s : State) (die : Nat) (ms : List Nat) : s.warnAll die ms = { s with host := s.host ++ ms.map (HostEvent.interrupt die) } :=
  foldl_tell (HostEvent.interrupt die) ms s

/-- The sensors of a die that read above their trip points. -/
def hotSensors (ts : List TempMon) : List (TempMon × Nat) := ts.zipIdx.filter fun p => p.1.trip < p.1.reading

theorem mem_hotSensors {ts : List TempMon} {m : TempMon} {k : Nat} : (m, k) ∈ hotSensors ts ↔ ts[k]? = some m ∧ m.trip < m.reading := by
  rw [hotSensors, List.mem_filter, List.mem_zipIdx_iff_getElem?, decide_eq_true_eq]

theorem hotSensors_isEmpty (ts : List TempMon) : (hotSensors ts).isEmpty = !ts.any fun m => decide (m.trip < m.reading) := by
  rw [Bool.eq_iff_iff, List.isEmpty_iff, List.eq_nil_iff_forall_not_mem, Bool.not_eq_true', List.any_eq_false]
  refine ⟨fun h m hm => ?_, fun h p hp => ?_⟩
  · obtain ⟨k, hk⟩ := List.getElem?_of_mem hm
    exact fun hc => h (m, k) (mem_hotSensors.mpr ⟨hk, of_decide_eq_true hc⟩)
  · obtain ⟨hk, hlt⟩ := mem_hotSensors.mp hp
    exact h p.1 (List.mem_of_getElem? hk) (decide_eq_true hlt)

theorem State.tripCheck_eq {s : State} {die : Nat} {d : Die} (h : s.die? die = some d) : s.tripCheck die = { s with
    halted := s.halted || d.temps.any fun m => decide (m.trip < m.reading)
    host := s.host ++ (hotSensors d.temps).map fun p => HostEvent.thermal die p.2 p.1.reading } := by
  have hs : s.tripCheck die = if (hotSensors d.temps).isEmpty then s
      else (hotSensors d.temps).foldl (fun (s : State) p => s.tell (.thermal die p.2 p.1.reading)) { s with halted := true } := by
    rw [State.tripCheck, h]
    rfl
  have he := hotSensors_isEmpty d.temps
  rw [hs]
  cases ha : d.temps.any fun m => decide (m.trip < m.reading) with
  | true =>
    rw [ha] at he
    rw [he, if_neg nofun, foldl_tell, Bool.or_true]
  | false =>
    rw [ha] at he
    replace he : (hotSensors d.temps).isEmpty = true := he
    rw [if_pos he, List.isEmpty_iff.mp he, List.map_nil, List.append_nil, Bool.or_false]

/-! ### Samples -/

/-- What a sample of temperatures leaves on the sensors. -/
def sampledTemps (d : Die) (rs : List Int) : List TempMon := d.temps.zipIdx.map fun p => { p.1 with reading := rs.getD p.2 p.1.reading }

/-- What a sample of counts leaves on the process monitors. -/
def sampledProcs (d : Die) (cs : List Nat) : List ProcMon := d.procs.zipIdx.map fun p => { p.1 with count := cs.getD p.2 p.1.count }

/-- The numbers of the pairs, old and new, that pass a test. -/
theorem mem_crossings {α : Type} {as bs : List α} {p : α → α → Bool} {g : Nat → Nat} {k : Nat} {a b : α} (ha : as[k]? = some a) (hb : bs[k]? = some b)
    (hp : p a b = true) : g k ∈ (as.zip bs).zipIdx.filterMap fun (q, i) => if p q.1 q.2 then some (g i) else none := by
  refine List.mem_filterMap.mpr ⟨((a, b), k), List.mem_zipIdx_iff_getElem?.mpr ?_, if_pos hp⟩
  exact List.getElem?_zip_eq_some.mpr ⟨ha, hb⟩

theorem crossed_iff {w old new : Int} : crossed (some w) old new = true ↔ old ≤ w ∧ w < new := by
  simp [crossed]

theorem Die.mem_warnings {d : Die} (hc : d.coreUp 4 = true) {k : Nat} {ms : List Nat} (h : k ∈ ms) : k ∈ d.warnings ms := by
  rw [Die.warnings, if_pos hc]
  exact h

section
variable {s : State} {die : Nat} {d : Die}

theorem exec_temperatureSample (h : s.die? die = some d) (rs : List Int) : exec (.temperatureSample die rs) s =
    .next (((s.updDie die fun d' => { d' with temps := sampledTemps d rs }).warnAll die (d.warnings
      ((d.temps.zip (sampledTemps d rs)).zipIdx.filterMap fun (p, i) => if crossed p.1.warn p.1.reading p.2.reading then some i else none))).tripCheck
      die) := by
  change execTemperatureSample die rs s = _
  rw [execTemperatureSample, h]
  rfl

theorem exec_processMonitorSample (h : s.die? die = some d) (cs : List Nat) : exec (.processMonitorSample die cs) s =
    .next ((s.updDie die fun d' => { d' with procs := sampledProcs d cs }).warnAll die (d.warnings
      ((d.procs.zip (sampledProcs d cs)).zipIdx.filterMap fun (p, i) =>
        if crossed (p.1.warn.map Int.ofNat) p.1.count p.2.count then some (80 + i) else none))) := by
  change execProcessMonitorSample die cs s = _
  rw [execProcessMonitorSample, h]
  rfl

theorem exec_voltageDroop (h : s.die? die = some d) {k : Nat} {m : DroopMon} (hm : d.droops[k]? = some m) (mv : Nat) :
    exec (.voltageDroop die k mv) s = .next ((s.updDie die fun d' => { d' with droops := d'.droops.set k (m.take mv) }).warnAll die (d.warnings
      (if crossed (m.warn.map Int.ofNat) m.count (m.take mv).count then [48 + k] else []))) := by
  change execVoltageDroop die k mv s = _
  rw [execVoltageDroop, h, Option.bind_some, hm, Option.map_some]

theorem exec_monitorThresholdSet (c : MonitorCmd) :
    exec (.monitorThresholdSet die c) s = s.powerCore die (opMonitorThresholdSet die c s) := rfl

theorem exec_monitorRead (c : MonitorSel) : exec (.monitorRead die c) s = s.powerCore die (opMonitorRead die c s) := rfl

theorem State.die?_withDie (h : s.die? die = some d) (v : Die) (news : List HostEvent) : (s.withDie die v news).die? die = some v := by
  rw [State.die?, State.withDie, List.getElem?_set_self (State.lt_of_die? h)]

/-- A die that changes, and its warnings. -/
theorem State.updDie_warnAll (h : s.die? die = some d) (f : Die → Die) (ms : List Nat) :
    (s.updDie die f).warnAll die ms = s.withDie die (f d) (ms.map (HostEvent.interrupt die)) := by
  rw [State.warnAll_eq, ← State.updDie_news h]
  rfl

theorem temperatureSample_spec (h : s.die? die = some d) (rs : List Int) :
    ∃ t, exec (.temperatureSample die rs) s = .next t ∧
      t = { s with
        dies := s.dies.set die { d with temps := sampledTemps d rs }
        halted := s.halted || (sampledTemps d rs).any (fun m => decide (m.trip < m.reading)), host := t.host } ∧
      ∀ (k : Nat) (m n : TempMon), d.temps[k]? = some m → (sampledTemps d rs)[k]? = some n →
        (∀ w, m.warn = some w → m.reading ≤ w → w < n.reading → d.coreUp 4 = true → HostEvent.interrupt die k ∈ t.host) ∧
        (n.trip < n.reading → HostEvent.thermal die k n.reading ∈ t.host) := by
  refine ⟨_, exec_temperatureSample h rs, ?_, fun k m n hm hn => ⟨fun w hw hle hlt hc => ?_, fun hlt => ?_⟩⟩
  · rw [State.updDie_warnAll h, State.tripCheck_eq (State.die?_withDie h _ _)]
    rfl
  · rw [State.updDie_warnAll h, State.tripCheck_eq (State.die?_withDie h _ _)]
    refine List.mem_append_left _ (List.mem_append_right _ (List.mem_map_of_mem (Die.mem_warnings hc ?_)))
    exact mem_crossings (p := fun a b : TempMon => crossed a.warn a.reading b.reading) (g := id) hm hn (by rw [hw]; exact crossed_iff.mpr ⟨hle, hlt⟩)
  · rw [State.updDie_warnAll h, State.tripCheck_eq (State.die?_withDie h _ _)]
    exact List.mem_append_right _ (List.mem_map.mpr ⟨(n, k), mem_hotSensors.mpr ⟨hn, hlt⟩, rfl⟩)

theorem processMonitorSample_spec (h : s.die? die = some d) (cs : List Nat) :
    ∃ t, exec (.processMonitorSample die cs) s = .next t ∧ t = { s with dies := s.dies.set die { d with procs := sampledProcs d cs }, host := t.host } ∧
      ∀ (k : Nat) (m : ProcMon), d.procs[k]? = some m → ∀ w : Nat, m.warn = some w → m.count ≤ w → w < cs.getD k m.count → d.coreUp 4 = true →
        HostEvent.interrupt die (80 + k) ∈ t.host := by
  refine ⟨_, exec_processMonitorSample h cs, ?_, fun k m hm w hw hle hlt hc => ?_⟩
  · rw [State.updDie_warnAll h]
    rfl
  · have hn : (sampledProcs d cs)[k]? = some { m with count := cs.getD k m.count } := by
      simp only [sampledProcs, List.getElem?_map, List.getElem?_zipIdx, hm, Option.map_some, Nat.zero_add]
    rw [State.updDie_warnAll h]
    refine List.mem_append_right _ (List.mem_map_of_mem (Die.mem_warnings hc ?_))
    refine mem_crossings (p := fun a b : ProcMon => crossed (a.warn.map Int.ofNat) a.count b.count) (g := fun i => 80 + i) hm hn ?_
    rw [hw]
    exact crossed_iff.mpr ⟨Int.ofNat_le.mpr hle, Int.ofNat_lt.mpr hlt⟩

/-! ### Droops -/

theorem DroopMon.take_shallow {m : DroopMon} {mv : Nat} (h : ∀ th, m.depth = some th → mv ≤ th) : m.take mv = { m with deepest := max m.deepest mv } := by
  have hb : ((m.depth.map fun t => decide (t < mv)).getD false) = false := by
    cases hd : m.depth with
    | none => rfl
    | some th => exact decide_eq_false (Nat.not_lt.mpr (h th hd))
  rw [DroopMon.take, hb, if_neg nofun]

theorem DroopMon.take_deep {m : DroopMon} {mv th : Nat} (h : m.depth = some th) (hlt : th < mv) :
    m.take mv = { m with count := m.count + 1, deepest := max m.deepest mv } := by
  rw [DroopMon.take, h, Option.map_some, Option.getD_some, if_pos (decide_eq_true hlt)]

theorem crossed_self (w : Option Int) (n : Int) : crossed w n n = false := by
  cases w with
  | none => rfl
  | some w => exact decide_eq_false fun hc => by omega

theorem voltageDroop_shallow (h : s.die? die = some d) {k : Nat} {m : DroopMon} (hm : d.droops[k]? = some m) {mv : Nat}
    (hs : ∀ th, m.depth = some th → mv ≤ th) : exec (.voltageDroop die k mv) s =
      .next (s.withDie die { d with droops := d.droops.set k { m with deepest := max m.deepest mv } } []) := by
  rw [exec_voltageDroop h hm, DroopMon.take_shallow hs, crossed_self, if_neg nofun, State.updDie_warnAll h, Die.warnings, ite_self]
  rfl

theorem voltageDroop_deep (h : s.die? die = some d) {k : Nat} {m : DroopMon} (hm : d.droops[k]? = some m) {mv th : Nat} (ht : m.depth = some th)
    (hlt : th < mv) :
    ∃ t, exec (.voltageDroop die k mv) s = .next t ∧
      t = { s.withDie die { d with droops := d.droops.set k { m with count := m.count + 1, deepest := max m.deepest mv } } [] with host := t.host } ∧
      (m.warn = some m.count → d.coreUp 4 = true → HostEvent.interrupt die (48 + k) ∈ t.host) ∧ (m.warn = none → t.host = s.host) := by
  refine ⟨_, exec_voltageDroop h hm mv, ?_, fun hw hc => ?_, fun hw => ?_⟩
  · rw [State.updDie_warnAll h, DroopMon.take_deep ht hlt]
    rfl
  · rw [State.updDie_warnAll h, DroopMon.take_deep ht hlt, hw]
    refine List.mem_append_right _ (List.mem_map_of_mem (Die.mem_warnings hc ?_))
    have hx : crossed ((some m.count).map Int.ofNat) m.count (m.count + 1 : Nat) = true :=
      crossed_iff.mpr ⟨Int.le_refl _, Int.ofNat_lt.mpr (Nat.lt_succ_self _)⟩
    exact (if_pos hx).symm ▸ List.mem_singleton_self _
  · rw [State.updDie_warnAll h, hw, Option.map_none, crossed, Option.any_none, if_neg nofun, Die.warnings, ite_self]
    exact List.append_nil _

/-! ### Thresholds -/

theorem State.updDie_done (h : s.die? die = some d) (f : Die → Die) : (s.updDie die f).done_ = .next (s.withDie die (f d) done0) :=
  congrArg _ (State.updDie_news h f done0)

theorem State.warnAll_done (h : s.die? die = some d) (f : Die → Die) (ms : List Nat) :
    ((s.updDie die f).warnAll die ms).done_ = .next (s.withDie die (f d) (ms.map (HostEvent.interrupt die) ++ done0)) := by
  rw [State.updDie_warnAll h, State.done_, State.tell, State.withDie, State.withDie, List.append_assoc]
  rfl

theorem tempTrip_done (h : s.die? die = some d) {k : Nat} {m : TempMon} (hm : d.temps[k]? = some m) (w : Int) :
    ∃ t, (((s.updDie die fun d => { d with temps := d.temps.set k { m with trip := w } }).tripCheck die).done_ : Out) = .next t ∧
      t = { s with
        dies := s.dies.set die { d with temps := d.temps.set k { m with trip := w } }
        halted := s.halted || (d.temps.set k { m with trip := w }).any (fun m => decide (m.trip < m.reading)), host := t.host } ∧
      HostEvent.command 0 ∈ t.host ∧ (w < m.reading → HostEvent.thermal die k m.reading ∈ t.host) := by
  have ht := State.updDie_warnAll h (fun d => { d with temps := d.temps.set k { m with trip := w } }) []
  have hk : (d.temps.set k { m with trip := w })[k]? = some { m with trip := w } := List.getElem?_set_self (List.getElem?_eq_some_iff.mp hm).1
  replace ht : s.updDie die (fun d => { d with temps := d.temps.set k { m with trip := w } }) = _ := ht
  rw [ht, State.tripCheck_eq (State.die?_withDie h _ _)]
  refine ⟨_, rfl, ?_, List.mem_append_right _ (List.mem_singleton_self _), fun hlt => ?_⟩
  · rfl
  · exact List.mem_append_left _ (List.mem_append_right _ (List.mem_map.mpr ⟨({ m with trip := w }, k), mem_hotSensors.mpr ⟨hk, hlt⟩, rfl⟩))

end

/-- Settles O59: samples, droops, thresholds and reads, each by the die it leaves and the news it sends. -/
theorem monitorsReport : Obligations.MonitorsReport := by
  intro s die d h
  refine ⟨temperatureSample_spec h, processMonitorSample_spec h, fun k m mv hm => ⟨voltageDroop_shallow h hm, fun th => voltageDroop_deep h hm⟩,
    fun hc => ⟨fun c => State.powerCore_down h hc _, fun c => State.powerCore_down h hc _⟩,
    fun hc => ⟨fun k m w hm => ⟨fun hw => ?_, fun hw => ?_, fun hw => ?_, ?_⟩, fun k m v hm => ⟨?_, fun hv => ?_, fun hv => ?_, ?_⟩,
      fun k m v hm => ⟨fun hv => ?_, fun hv => ?_, ?_⟩⟩⟩
  · simp only [exec_monitorThresholdSet, State.powerCore_up h hc, opMonitorThresholdSet, h, hm]
    rw [State.warnAll_done h, if_neg (Int.not_lt.mpr hw)]
    rfl
  · simp only [exec_monitorThresholdSet, State.powerCore_up h hc, opMonitorThresholdSet, h, hm]
    rw [if_pos hw]
    rfl
  · simp only [exec_monitorThresholdSet, State.powerCore_up h hc, opMonitorThresholdSet, h, hm]
    rw [if_neg (Int.not_lt.mpr hw)]
    exact tempTrip_done h hm w
  · simp only [exec_monitorRead, State.powerCore_up h hc, opMonitorRead, h, hm]
  · simp only [exec_monitorThresholdSet, State.powerCore_up h hc, opMonitorThresholdSet, h, hm]
    exact State.updDie_done h _
  · simp only [exec_monitorThresholdSet, State.powerCore_up h hc, opMonitorThresholdSet, h, hm]
    rw [State.warnAll_done h, if_neg (Nat.not_lt.mpr hv)]
    rfl
  · simp only [exec_monitorThresholdSet, State.powerCore_up h hc, opMonitorThresholdSet, h, hm]
    rw [State.warnAll_done h, if_pos hv]
    rfl
  · simp only [exec_monitorRead, State.powerCore_up h hc, opMonitorRead, h, hm]
    exact congrArg _ (State.updDie_news h _ _)
  · simp only [exec_monitorThresholdSet, State.powerCore_up h hc, opMonitorThresholdSet, h, hm]
    rw [State.warnAll_done h, if_neg (Nat.not_lt.mpr hv)]
    rfl
  · simp only [exec_monitorThresholdSet, State.powerCore_up h hc, opMonitorThresholdSet, h, hm]
    rw [State.warnAll_done h, if_pos hv]
    rfl
  · simp only [exec_monitorRead, State.powerCore_up h hc, opMonitorRead, h, hm]

end Sys2Proof.Machine
end

section
/-!
SUPPORT. How a meet ends (R50, R323, R333, R337, R355): what its signal, its traps and the stop of its teams can change of the package.
-/

namespace Sys2Proof.Machine

/-- The package t is s after a meet has completed, or part of it: the outcome has been written or sent on its way, contexts have been told of traps, and
nothing outside what is listed has changed. -/
structure State.Ends (s t : State) : Prop where
  rest : t = { s with
    mem := t.mem, poison := t.poison, lines := t.lines, ulines := t.ulines, invals := t.invals, posted := t.posted, snoops := t.snoops
    nextId := t.nextId, queues := t.queues, tenants := t.tenants, ctxs := t.ctxs, meets := t.meets, host := t.host }
  memOk : s.MemOk → t.MemOk
  told : ∃ l, t.host = s.host ++ l
  queues : ∀ q ∈ t.queues, ∃ p ∈ s.queues, q = { p with tail := q.tail, errors := q.errors }
  queueIds : t.queues.map Queue.id = s.queues.map Queue.id
  ctxs : ∀ c ∈ t.ctxs, ∃ b ∈ s.ctxs, c.bare = b.bare
  tenants : ∀ id u, s.tenant? id = some u → ∃ w, t.tenant? id = some w ∧ w.revoked = u.revoked
  meets : ∀ id m, s.meet? id = some m → ∃ n, t.meet? id = some n ∧ (n.st = m.st ∨ n.st = .completed)
  bare : ∀ id, (t.ctx? id).map Context.bare = (s.ctx? id).map Context.bare
  meetIds : t.meets.map Meet.id = s.meets.map Meet.id
  meetCtx : ∀ id, (t.meet? id).map Meet.ctx = (s.meet? id).map Meet.ctx

namespace State.Ends

theorem refl (s : State) : s.Ends s where
  rest := rfl
  memOk := id
  told := ⟨[], (List.append_nil _).symm⟩
  queues q hq := ⟨q, hq, rfl⟩
  queueIds := rfl
  ctxs c hc := ⟨c, hc, rfl⟩
  tenants _ u hu := ⟨u, hu, rfl⟩
  meets _ m hm := ⟨m, hm, .inl rfl⟩
  bare _ := rfl
  meetIds := rfl
  meetCtx _ := rfl

theorem trans {s t u : State} (h : s.Ends t) (k : t.Ends u) : s.Ends u where
  rest := by
    have hk := k.rest
    rw [h.rest] at hk
    exact hk
  memOk := k.memOk ∘ h.memOk
  told := by
    obtain ⟨l, hl⟩ := h.told
    obtain ⟨m, hm⟩ := k.told
    exact ⟨l ++ m, by rw [hm, hl, List.append_assoc]⟩
  queues q hq := by
    obtain ⟨p, hp, hqp⟩ := k.queues q hq
    obtain ⟨o, ho, hpo⟩ := h.queues p hp
    exact ⟨o, ho, by rw [hqp, hpo]⟩
  queueIds := k.queueIds.trans h.queueIds
  ctxs c hc := by
    obtain ⟨b, hb, hcb⟩ := k.ctxs c hc
    obtain ⟨a, ha, hba⟩ := h.ctxs b hb
    exact ⟨a, ha, hcb.trans hba⟩
  tenants id u hu := by
    obtain ⟨v, hv, hvu⟩ := h.tenants id u hu
    obtain ⟨w, hw, hwv⟩ := k.tenants id v hv
    exact ⟨w, hw, hwv.trans hvu⟩
  meets id m hm := by
    obtain ⟨n, hn, hnm⟩ := h.meets id m hm
    obtain ⟨o, ho, hon⟩ := k.meets id n hn
    exact ⟨o, ho, hon.elim (fun e => hnm.imp e.trans e.trans) .inr⟩
  bare id := (k.bare id).trans (h.bare id)
  meetIds := k.meetIds.trans h.meetIds
  meetCtx id := (k.meetCtx id).trans (h.meetCtx id)

theorem foldl {α : Type} {f : State → α → State} (hf : ∀ (s : State) a, s.Ends (f s a)) : ∀ (l : List α) (s : State), s.Ends (l.foldl f s)
  | [], s => refl s
  | a :: l, s => (hf s a).trans (foldl hf l (f s a))

end State.Ends

/-- The package t is s after a store of a schedule core, or part of it: it stands at its home, or is on its way there, or a queue has taken it. -/
structure State.Posts (s t : State) : Prop where
  rest : t = { s with
    mem := t.mem, poison := t.poison, lines := t.lines, ulines := t.ulines, invals := t.invals, posted := t.posted, snoops := t.snoops
    nextId := t.nextId, queues := t.queues, host := t.host }
  wf : Memory.wf s.mem = true → Memory.wf t.mem = true
  told : ∃ l, t.host = s.host ++ l
  queues : ∀ q ∈ t.queues, ∃ p ∈ s.queues, q = { p with tail := q.tail, errors := q.errors }
  queueIds : t.queues.map Queue.id = s.queues.map Queue.id

namespace State.Posts

theorem refl (s : State) : s.Posts s := ⟨rfl, id, ⟨[], (List.append_nil _).symm⟩, fun q hq => ⟨q, hq, rfl⟩, rfl⟩

theorem trans {s t u : State} (h : s.Posts t) (k : t.Posts u) : s.Posts u where
  rest := by
    have hk := k.rest
    rw [h.rest] at hk
    exact hk
  wf := k.wf ∘ h.wf
  told := by
    obtain ⟨l, hl⟩ := h.told
    obtain ⟨m, hm⟩ := k.told
    exact ⟨l ++ m, by rw [hm, hl, List.append_assoc]⟩
  queues q hq := by
    obtain ⟨p, hp, hqp⟩ := k.queues q hq
    obtain ⟨o, ho, hpo⟩ := h.queues p hp
    exact ⟨o, ho, by rw [hqp, hpo]⟩
  queueIds := k.queueIds.trans h.queueIds

theorem foldl {α : Type} {f : State → α → State} (hf : ∀ (s : State) a, s.Posts (f s a)) : ∀ (l : List α) (s : State), s.Posts (l.foldl f s)
  | [], s => refl s
  | a :: l, s => (hf s a).trans (foldl hf l (f s a))

/-- Where memory, queues and news stand. -/
theorem of_rest {s t : State} (h : t = { s with
    poison := t.poison, lines := t.lines, ulines := t.ulines, invals := t.invals, posted := t.posted, snoops := t.snoops, nextId := t.nextId }) :
    s.Posts t where
  rest := by rw [h]
  wf hs := by rw [h]; exact hs
  told := ⟨[], by rw [h]; exact (List.append_nil _).symm⟩
  queues q hq := by rw [h] at hq; exact ⟨q, hq, rfl⟩
  queueIds := by rw [h]

/-- Memory that keeps its form. -/
theorem of_mem {s t : State} (h : t = { s with mem := t.mem, poison := t.poison, ulines := t.ulines, invals := t.invals })
    (hm : Memory.wf s.mem = true → Memory.wf t.mem = true) : s.Posts t where
  rest := by rw [h]
  wf := hm
  told := ⟨[], by rw [h]; exact (List.append_nil _).symm⟩
  queues q hq := by rw [h] at hq; exact ⟨q, hq, rfl⟩
  queueIds := by rw [h]

theorem meets {s t : State} (h : s.Posts t) : t.meets = s.meets := by rw [h.rest]

theorem ends {s t : State} (h : s.Posts t) : s.Ends t where
  rest := by rw [h.rest]
  memOk hs := ⟨h.wf hs.1, by rw [h.rest]; exact hs.2⟩
  told := h.told
  queues := h.queues
  queueIds := h.queueIds
  ctxs c hc := ⟨c, by rw [h.rest] at hc; exact hc, rfl⟩
  tenants _ u hu := ⟨u, by rw [h.rest]; exact hu, rfl⟩
  meets _ m hm := ⟨m, by rw [h.rest]; exact hm, .inl rfl⟩
  bare _ := by rw [h.rest]; rfl
  meetIds := by rw [h.rest]
  meetCtx _ := by rw [h.rest]; rfl

end State.Posts

/-- The package t is s after a meet has ended: besides what its completion changes, teams and the channels of their copies have stopped. -/
structure State.Closes (s t : State) : Prop where
  rest : t = { s with
    mem := t.mem, poison := t.poison, lines := t.lines, ulines := t.ulines, invals := t.invals, posted := t.posted, snoops := t.snoops
    nextId := t.nextId, queues := t.queues, tenants := t.tenants, ctxs := t.ctxs, meets := t.meets, teams := t.teams, dies := t.dies, host := t.host }
  memOk : s.MemOk → t.MemOk
  told : ∃ l, t.host = s.host ++ l
  queues : ∀ q ∈ t.queues, ∃ p ∈ s.queues, q = { p with tail := q.tail, errors := q.errors }
  queueIds : t.queues.map Queue.id = s.queues.map Queue.id
  ctxs : ∀ c ∈ t.ctxs, ∃ b ∈ s.ctxs, c.bare = b.bare
  tenants : ∀ id u, s.tenant? id = some u → ∃ w, t.tenant? id = some w ∧ w.revoked = u.revoked
  meets : ∀ id m, s.meet? id = some m → ∃ n, t.meet? id = some n ∧ (n.st = m.st ∨ n.live = false)
  bare : ∀ id, (t.ctx? id).map Context.bare = (s.ctx? id).map Context.bare
  meetIds : t.meets.map Meet.id = s.meets.map Meet.id
  meetCtx : ∀ id, (t.meet? id).map Meet.ctx = (s.meet? id).map Meet.ctx
  dies : ∀ k d, t.die? k = some d → ∃ e, s.die? k = some e ∧ d = { e with clusters := d.clusters }

namespace State.Closes

theorem of_ends {s t : State} (h : s.Ends t) : s.Closes t where
  rest := by rw [h.rest]
  memOk := h.memOk
  told := h.told
  queues := h.queues
  queueIds := h.queueIds
  ctxs := h.ctxs
  tenants := h.tenants
  meets id m hm := by
    obtain ⟨n, hn, hst⟩ := h.meets id m hm
    exact ⟨n, hn, hst.imp_right fun e => by rw [Meet.live, e]⟩
  bare := h.bare
  meetIds := h.meetIds
  meetCtx := h.meetCtx
  dies k d hd := ⟨d, by rw [h.rest] at hd; exact hd, rfl⟩

theorem refl (s : State) : s.Closes s := of_ends (.refl s)

theorem trans {s t u : State} (h : s.Closes t) (k : t.Closes u) : s.Closes u where
  rest := by
    have hk := k.rest
    rw [h.rest] at hk
    exact hk
  memOk := k.memOk ∘ h.memOk
  told := by
    obtain ⟨l, hl⟩ := h.told
    obtain ⟨m, hm⟩ := k.told
    exact ⟨l ++ m, by rw [hm, hl, List.append_assoc]⟩
  queues q hq := by
    obtain ⟨p, hp, hqp⟩ := k.queues q hq
    obtain ⟨o, ho, hpo⟩ := h.queues p hp
    exact ⟨o, ho, by rw [hqp, hpo]⟩
  queueIds := k.queueIds.trans h.queueIds
  ctxs c hc := by
    obtain ⟨b, hb, hcb⟩ := k.ctxs c hc
    obtain ⟨a, ha, hba⟩ := h.ctxs b hb
    exact ⟨a, ha, hcb.trans hba⟩
  tenants id u hu := by
    obtain ⟨v, hv, hvu⟩ := h.tenants id u hu
    obtain ⟨w, hw, hwv⟩ := k.tenants id v hv
    exact ⟨w, hw, hwv.trans hvu⟩
  meets id m hm := by
    obtain ⟨n, hn, hnm⟩ := h.meets id m hm
    obtain ⟨o, ho, hon⟩ := k.meets id n hn
    refine ⟨o, ho, hon.elim (fun e => hnm.imp e.trans fun hl => ?_) .inr⟩
    rw [Meet.live, e]
    exact hl
  bare id := (k.bare id).trans (h.bare id)
  meetIds := k.meetIds.trans h.meetIds
  meetCtx id := (k.meetCtx id).trans (h.meetCtx id)
  dies i d hd := by
    obtain ⟨e, he, hde⟩ := k.dies i d hd
    obtain ⟨f, hf, hef⟩ := h.dies i e he
    exact ⟨f, hf, by rw [hde, hef]⟩

theorem foldl {α : Type} {f : State → α → State} (hf : ∀ (s : State) a, s.Closes (f s a)) : ∀ (l : List α) (s : State), s.Closes (l.foldl f s)
  | [], s => refl s
  | a :: l, s => (hf s a).trans (foldl hf l (f s a))

end State.Closes

variable (s : State)

/-! ### News, queues and contexts -/

theorem State.posts_tellAll (es : List HostEvent) : s.Posts (s.tellAll es) where
  rest := rfl
  wf := id
  told := ⟨es, rfl⟩
  queues q hq := ⟨q, hq, rfl⟩
  queueIds := rfl

theorem State.posts_tell (e : HostEvent) : s.Posts (s.tell e) := s.posts_tellAll [e]

theorem State.queueIds_setQueue (s : State) (q : Queue) : (s.setQueue q).queues.map Queue.id = s.queues.map Queue.id := by
  rw [State.setQueue, List.map_map]
  refine List.map_congr_left fun r _ => ?_
  rw [Function.comp_apply]
  split
  next h => exact h.symm
  · rfl

theorem State.posts_setQueue {s : State} {p q : Queue} (hp : p ∈ s.queues) (hq : q = { p with tail := q.tail, errors := q.errors }) :
    s.Posts (s.setQueue q) where
  rest := rfl
  wf := id
  told := ⟨[], (List.append_nil _).symm⟩
  queues r hr := by
    obtain ⟨o, ho, hor⟩ := List.mem_map.mp hr
    split at hor
    · exact ⟨p, hp, hor ▸ hq⟩
    · exact ⟨o, ho, hor ▸ rfl⟩
  queueIds := s.queueIds_setQueue q

theorem State.ctx?_mem {s : State} {id : Nat} {c : Context} (h : s.ctx? id = some c) : c ∈ s.ctxs ∧ c.id = id :=
  ⟨List.mem_of_find?_eq_some h, by simpa using List.find?_some h⟩

theorem State.ends_setCtx {s : State} {ctx : Nat} {b c : Context} (hb : s.ctx? ctx = some b) (hc : c.bare = b.bare) : s.Ends (s.setCtx c) where
  rest := rfl
  memOk := id
  told := ⟨[], (List.append_nil _).symm⟩
  queues q hq := ⟨q, hq, rfl⟩
  queueIds := rfl
  ctxs e he := by
    obtain ⟨o, ho, hoe⟩ := List.mem_map.mp he
    split at hoe
    · exact ⟨b, (State.ctx?_mem hb).1, hoe ▸ hc⟩
    · exact ⟨o, ho, hoe ▸ rfl⟩
  tenants _ u hu := ⟨u, hu, rfl⟩
  meets _ m hm := ⟨m, hm, .inl rfl⟩
  bare := ctx?_setCtx hb hc
  meetIds := rfl
  meetCtx _ := rfl

theorem State.ends_ctxTrap (ctx : Nat) (d : DTrap) : s.Ends (s.ctxTrap ctx d) := by
  rw [State.ctxTrap]
  cases hc : s.ctx? ctx with
  | none => exact .refl s
  | some c =>
    dsimp only
    split
    · exact State.ends_setCtx hc rfl
    · exact State.ends_setCtx hc rfl

theorem State.ends_flushDue (ctx : Nat) : s.Ends (s.flushDue ctx) := by
  rw [State.flushDue]
  cases hc : s.ctx? ctx with
  | none => exact .refl s
  | some c =>
    dsimp only
    split
    · exact .refl s
    · exact State.ends_setCtx hc rfl

/-! ### Signals -/

theorem State.posts_homeWrite (pa : Nat) (bs : List Byte) : s.Posts (s.homeWrite pa bs) := .of_mem rfl (s.wf_homeWrite pa bs)

theorem Queue.putTail_eq (q : Queue) (v : Word) : q.putTail v = { q with tail := (q.putTail v).tail, errors := (q.putTail v).errors } := by
  rw [Queue.putTail]
  split <;> rfl

theorem State.posts_notifyStore (vf ofs : Nat) (bs : List Byte) : s.Posts (s.notifyStore vf ofs bs) := by
  rw [State.notifyStore]
  cases hq : s.queueAt vf (ofs / 64) with
  | none => exact .refl s
  | some q =>
    refine State.posts_setQueue (List.mem_of_find?_eq_some hq) ?_
    split
    · exact q.putTail_eq _
    · rfl

theorem State.posts_seqWrite (pa : Nat) (bs : List Byte) : s.Posts (s.seqWrite pa bs) := by
  rw [State.seqWrite]
  split
  · exact s.posts_notifyStore _ _ _
  · exact s.posts_homeWrite _ _

theorem State.posts_sendSnoops (line : Nat) (hs : List Nat) : s.Posts (s.sendSnoops line hs) := by
  induction hs generalizing s with
  | nil => exact .refl s
  | cons h hs ih =>
    rw [State.sendSnoops]
    split
    · exact ih s
    · exact .trans (.trans (.of_rest rfl) (State.posts_tell _ _)) (ih _)

theorem State.posts_sendInval (base size : Nat) (left : List Nat) : s.Posts (s.sendInval base size left) := .of_rest rfl

theorem State.posts_askOutside (src : Option Requester) (cls : PageClass) (ls : List Nat) : s.Posts (s.askOutside src cls ls) := by
  induction ls generalizing s with
  | nil => exact .refl s
  | cons l ls ih =>
    rw [State.askOutside]
    have hsnoop := s.posts_sendSnoops l ((s.hostsOut l).filter fun h => 2000 + h ∉ ownNumber src)
    generalize s.sendSnoops l ((s.hostsOut l).filter fun h => 2000 + h ∉ ownNumber src) = t at hsnoop
    refine (hsnoop.trans ?_).trans (ih _)
    split
    · exact .refl _
    · exact State.posts_sendInval _ _ _ _

theorem State.posts_post (p : Posted) : s.Posts (s.post p) := by
  rw [State.post]
  refine .trans (u := _) (.of_rest (t := { s with posted := s.posted ++ [{ p with id := s.nextId }], nextId := s.nextId + 1 }) rfl) ?_
  exact State.Posts.foldl (fun s l => s.posts_sendSnoops _ _) _ _

theorem State.posts_cpStore (die : Nat) (cls : PageClass) (pa : Nat) (bs : List Byte) (tells : List HostEvent) (wait : Bool) :
    s.Posts (s.cpStore die cls pa bs tells wait) := by
  rw [State.cpStore]
  have hdrop : s.Posts (s.dropCopies fun c => decide (c.cls = .seq ∧ c.line = pa / 64)) := .of_rest rfl
  generalize (s.dropCopies fun c => decide (c.cls = .seq ∧ c.line = pa / 64)) = t at hdrop
  generalize (if wait = true then [heldAtHome] else []) ++ t.outHolders none cls (pa / 64) = left
  refine hdrop.trans ?_
  split
  · exact (State.posts_seqWrite _ _ _).trans (State.posts_tellAll _ _)
  · exact (State.posts_askOutside _ _ _ _).trans (State.posts_post _ _)

theorem State.posts_signal (die queue ctx addr : Nat) (seq : Word) (late : Bool) (o : Outcome) (code : Byte) :
    s.Posts (s.signal die queue ctx addr seq late o code) := by
  rw [State.signal]
  split
  · exact s.posts_tell _
  · split
    · exact s.posts_cpStore _ _ _ _ _ _
    · exact s.posts_cpStore _ _ _ _ _ _
    · exact s.posts_tell _

/-! ### Completion -/

theorem State.meet?_setMeet_other (m : Meet) {id : Nat} (h : m.id ≠ id) : (s.setMeet m).meet? id = s.meet? id :=
  find?_map_key s.meets Meet.id m id h

theorem State.meet?_setMeet {s : State} {m n : Meet} (h : s.meet? m.id = some n) : (s.setMeet m).meet? m.id = some m :=
  find?_map_same s.meets Meet.id m n m.id h rfl

theorem State.tenant?_setTenant_other (t : Tenant) {id : Nat} (h : t.id ≠ id) : (s.setTenant t).tenant? id = s.tenant? id :=
  find?_map_key s.tenants Tenant.id t id h

theorem State.tenant?_setTenant {s : State} {t u : Tenant} (h : s.tenant? t.id = some u) : (s.setTenant t).tenant? t.id = some t :=
  find?_map_same s.tenants Tenant.id t u t.id h rfl

/-- A meet that is put back. -/
theorem State.setMeet_meets (m : Meet) (P : Meet → Meet → Prop) (hp : ∀ n, P n n) (hm : ∀ n, s.meet? m.id = some n → P n m) :
    ∀ id n, s.meet? id = some n → ∃ o, (s.setMeet m).meet? id = some o ∧ P n o := by
  intro id n hn
  by_cases h : m.id = id
  · subst h
    exact ⟨m, State.meet?_setMeet hn, hm n hn⟩
  · exact ⟨n, (s.meet?_setMeet_other m h).trans hn, hp n⟩

theorem State.meetIds_setMeet (m : Meet) : (s.setMeet m).meets.map Meet.id = s.meets.map Meet.id := by
  rw [State.setMeet, List.map_map]
  refine List.map_congr_left fun n _ => ?_
  rw [Function.comp_apply]
  split
  next h => exact h.symm
  · rfl

theorem State.meetCtx_setMeet {m : Meet} (hm : ∀ n, s.meet? m.id = some n → m.ctx = n.ctx) (id : Nat) :
    ((s.setMeet m).meet? id).map Meet.ctx = (s.meet? id).map Meet.ctx := by
  by_cases h : m.id = id
  · subst h
    cases hn : s.meet? m.id with
    | none =>
      have hs : (s.setMeet m).meet? m.id = none := List.find?_eq_none.mpr fun o ho he => by
        obtain ⟨n, hnm, hid⟩ := List.mem_map.mp (s.meetIds_setMeet m ▸ List.mem_map_of_mem ho : o.id ∈ s.meets.map Meet.id)
        exact List.find?_eq_none.mp hn n hnm (hid ▸ he)
      rw [hs]
    | some n =>
      rw [State.meet?_setMeet hn]
      exact congrArg some (hm n hn)
  · rw [State.meet?_setMeet_other s m h]

theorem State.ends_setMeet {m : Meet} (h : m.st = .completed) (hm : ∀ n, s.meet? m.id = some n → m.ctx = n.ctx) : s.Ends (s.setMeet m) where
  rest := rfl
  memOk := id
  told := ⟨[], (List.append_nil _).symm⟩
  queues q hq := ⟨q, hq, rfl⟩
  queueIds := rfl
  ctxs c hc := ⟨c, hc, rfl⟩
  tenants _ u hu := ⟨u, hu, rfl⟩
  meets := s.setMeet_meets m (fun n o => o.st = n.st ∨ o.st = .completed) (fun _ => .inl rfl) fun _ _ => .inr h
  bare _ := rfl
  meetIds := s.meetIds_setMeet m
  meetCtx := s.meetCtx_setMeet hm

theorem State.ends_setTenant {s : State} {t u : Tenant} (hu : s.tenant? t.id = some u) (h : t.revoked = u.revoked) : s.Ends (s.setTenant t) where
  rest := rfl
  memOk := id
  told := ⟨[], (List.append_nil _).symm⟩
  queues q hq := ⟨q, hq, rfl⟩
  queueIds := rfl
  ctxs c hc := ⟨c, hc, rfl⟩
  tenants id v hv := by
    by_cases hid : t.id = id
    · subst hid
      cases hu.symm.trans hv
      exact ⟨t, State.tenant?_setTenant hu, h⟩
    · exact ⟨v, (s.tenant?_setTenant_other t hid).trans hv, rfl⟩
  meets _ m hm := ⟨m, hm, .inl rfl⟩
  bare _ := rfl
  meetIds := rfl
  meetCtx _ := rfl

theorem Tenant.settle_eq (t : Tenant) (budget used : Nat) :
    t.settle budget used = { t with tokens := (t.settle budget used).tokens, debt := (t.settle budget used).debt } := by
  rw [Tenant.settle]
  split <;> rfl

/-- What a meet that completes writes: its signal, or its task's result flag. -/
def State.written (s : State) (m : Meet) (o : Outcome) (code : Byte) : State :=
  if m.mute = true then s else
    match m.task with
    | none => s.signal (s.serverOf m.home) m.queue m.ctx m.signal m.seq (m.isLate s) o code
    | some (flag, counter) =>
      s.cpStore (s.serverOf m.home) .seq flag (leBytes (counter.toNat * 2 ^ 32 + code.toNat * 256 + o.code + 1) 8)

theorem State.posts_written (m : Meet) (o : Outcome) (code : Byte) : s.Posts (s.written m o code) := by
  rw [State.written]
  split
  · exact .refl s
  · split
    · exact s.posts_signal _ _ _ _ _ _ _ _
    · exact s.posts_cpStore _ _ _ _ _ _

/-- The tokens of a tenant are settled, if there is one. -/
def State.settled (s : State) (m : Meet) : State :=
  match s.tenant? m.tenant with
  | some t => s.setTenant (t.settle m.budget m.charged)
  | none => s

theorem State.ends_settled (m : Meet) : s.Ends (s.settled m) := by
  rw [State.settled]
  cases h : s.tenant? m.tenant with
  | none => exact .refl s
  | some t =>
    have hid : t.id = m.tenant := by simpa using List.find?_some h
    exact State.ends_setTenant (u := t) (by rw [Tenant.settle_eq]; exact hid ▸ h) (by rw [Tenant.settle_eq])

theorem State.meets_settled (m : Meet) : (s.settled m).meets = s.meets := by
  rw [State.settled]
  split <;> rfl

theorem State.meet?_congr {s t : State} (h : t.meets = s.meets) (id : Nat) : t.meet? id = s.meet? id := by rw [State.meet?, State.meet?, h]

theorem State.completeMeet_eq {s : State} {id : Nat} {m : Meet} (h : s.meet? id = some m) (o : Outcome) (code : Byte) : s.completeMeet id o code =
    (((s.written m o code).settled m).setMeet { m with st := .completed, late := m.isLate s }).flushDue m.ctx := by
  rw [State.completeMeet, h]
  rfl

theorem State.ends_completeMeet (id : Nat) (o : Outcome) (code : Byte) : s.Ends (s.completeMeet id o code) := by
  cases h : s.meet? id with
  | none =>
    rw [State.completeMeet, h]
    exact .refl s
  | some m =>
    rw [State.completeMeet_eq h]
    have hid : m.id = id := by simpa using List.find?_some h
    refine (((s.posts_written m o code).ends.trans (State.ends_settled _ m)).trans (State.ends_setMeet _ rfl fun n hn => ?_)).trans (State.ends_flushDue _ _)
    rw [State.meet?_congr ((State.meets_settled _ m).trans (s.posts_written m o code).meets)] at hn
    have e : m = n := Option.some.inj ((hid ▸ h : s.meet? m.id = some m).symm.trans hn)
    exact e ▸ rfl

theorem State.ends_completeIfDone (id : Nat) : s.Ends (s.completeIfDone id) := by
  rw [State.completeIfDone]
  split
  · exact .refl s
  · split
    · split
      · exact s.ends_completeMeet _ _ _
      · exact s.ends_completeMeet _ _ _
      · exact .refl s
    · exact .refl s

/-! ### Termination -/

theorem Team.cancel_eq (t : Team) (p : Xfer → Bool) : t.cancel p = { t with status := (t.cancel p).status, xfers := (t.cancel p).xfers } := by
  have hf : ∀ (l : List Xfer) (u : Team), l.foldl (fun t x => t.finish x 0 2) u =
      { u with status := (l.foldl (fun t x => t.finish x 0 2) u).status, xfers := (l.foldl (fun t x => t.finish x 0 2) u).xfers } := by
    intro l
    induction l with
    | nil => exact fun _ => rfl
    | cons x l ih =>
      intro u
      have h := ih (u.finish x 0 2)
      exact h
  exact hf _ t

theorem Team.memOk_stop {t : Team} (h : t.MemOk) : t.stop.MemOk := by
  rw [Team.stop, Team.cancel_eq]
  exact h

/-- The package t is s after teams have stopped: teams have been put back, and channels have stopped. -/
structure State.Stops (s t : State) : Prop where
  rest : t = { s with teams := t.teams, dies := t.dies }
  dies : ∀ k d, t.die? k = some d → ∃ e, s.die? k = some e ∧ d = { e with clusters := d.clusters }

theorem State.Stops.trans {s t u : State} (h : s.Stops t) (k : t.Stops u) : s.Stops u where
  rest := by
    have hk := k.rest
    rw [h.rest] at hk
    exact hk
  dies i d hd := by
    obtain ⟨e, he, hde⟩ := k.dies i d hd
    obtain ⟨f, hf, hef⟩ := h.dies i e he
    exact ⟨f, hf, by rw [hde, hef]⟩

theorem State.stops_setTeam (t : Team) : s.Stops (s.setTeam t) := ⟨rfl, fun _ d hd => ⟨d, hd, rfl⟩⟩

theorem State.stops_updCluster (cl : ClusterRef) (f : Cluster → Cluster) : s.Stops (s.updCluster cl f) where
  rest := rfl
  dies k d hd := by
    rw [State.die?, State.updCluster, State.updDie, List.getElem?_modify] at hd
    obtain ⟨e, he, hde⟩ := Option.map_eq_some_iff.mp hd
    refine ⟨e, he, ?_⟩
    subst hde
    split <;> rfl

theorem State.stops_stopTeam (t : Team) : s.Stops (s.stopTeam t) := by
  rw [State.stopTeam]
  split
  · exact (s.stops_setTeam _).trans (State.stops_updCluster _ _ _)
  · exact s.stops_setTeam _
  · exact ⟨rfl, fun _ d hd => ⟨d, hd, rfl⟩⟩

theorem State.memOk_setTeam {s : State} {t : Team} (hs : s.MemOk) (ht : t.MemOk) : (s.setTeam t).MemOk := by
  refine ⟨hs.1, fun u hu => ?_⟩
  obtain ⟨o, ho, hou⟩ := List.mem_map.mp hu
  split at hou
  · exact hou ▸ ht
  · exact hou ▸ hs.2 o ho

theorem State.memOk_stopTeam {s : State} {t : Team} (hs : s.MemOk) (ht : t.MemOk) : (s.stopTeam t).MemOk := by
  rw [State.stopTeam]
  split
  · exact State.memOk_setTeam hs (Team.memOk_stop ht)
  · exact State.memOk_setTeam hs (Team.memOk_stop (t := t) ht)
  · exact hs

theorem State.stops_foldl : ∀ (ts : List Team) (s : State), s.Stops (ts.foldl State.stopTeam s)
  | [], _ => ⟨rfl, fun _ d hd => ⟨d, hd, rfl⟩⟩
  | t :: ts, s => (s.stops_stopTeam t).trans (State.stops_foldl ts _)

theorem State.memOk_stopTeams : ∀ (ts : List Team) {s : State}, s.MemOk → (∀ t ∈ ts, t.MemOk) → (ts.foldl State.stopTeam s).MemOk
  | [], _, hs, _ => hs
  | t :: ts, _, hs, ht =>
    State.memOk_stopTeams ts (State.memOk_stopTeam hs (ht t List.mem_cons_self)) fun u hu => ht u (List.mem_cons_of_mem _ hu)

/-- Some of the package's teams stop. -/
theorem State.closes_stopTeams {ts : List Team} (h : ∀ t ∈ ts, t ∈ s.teams) : s.Closes (ts.foldl State.stopTeam s) := by
  have hf := State.stops_foldl ts s
  have hm : s.MemOk → (ts.foldl State.stopTeam s).MemOk := fun hs => State.memOk_stopTeams ts hs fun t ht => hs.2 t (h t ht)
  generalize ts.foldl State.stopTeam s = t at hf hm
  have hr := hf.rest
  exact {
    rest := by rw [hr]
    memOk := hm
    told := ⟨[], by rw [hr]; exact (List.append_nil _).symm⟩
    queues := fun q hq => ⟨q, by rw [hr] at hq; exact hq, rfl⟩
    queueIds := by rw [hr]
    ctxs := fun c hc => ⟨c, by rw [hr] at hc; exact hc, rfl⟩
    tenants := fun _ u hu => ⟨u, by rw [hr]; exact hu, rfl⟩
    meets := fun _ m hm => ⟨m, by rw [hr]; exact hm, .inl rfl⟩
    bare := fun _ => by rw [hr]; rfl
    meetIds := by rw [hr]
    meetCtx := fun _ => by rw [hr]; rfl
    dies := hf.dies }

/-- The teams of a meet stop. -/
def State.stopMeet (s : State) (id : Nat) : State := (s.teams.filter fun t => t.meet = id).foldl State.stopTeam s

/-- A meet as it is terminated once its teams have stopped. -/
def State.cutMeet (s : State) (m : Meet) (o : Outcome) (code : Byte) : State :=
  s.setMeet { m with st := .terminated o code, fields := m.fields.zipIdx.map fun (f, i) => f.drop s m i }

/-- What ends with a meet: its teams stop, it is terminated, their traps go to its context, and it completes when nothing of it runs. -/
theorem State.terminate_live {s : State} {id : Nat} {m : Meet} (hm : s.meet? id = some m) (hl : m.live = true) (o : Outcome) (code : Byte) :
    s.terminate id o code = ((trapsOf (s.teams.filter fun t => t.meet = id)).foldl (fun s d => s.ctxTrap m.ctx d)
      ((s.stopMeet id).cutMeet m o code)).completeIfDone id := by
  rw [State.terminate, hm]
  dsimp only
  rw [if_neg (by rw [hl]; nofun)]
  rfl

theorem State.terminate_idle {s : State} {id : Nat} (h : ∀ m, s.meet? id = some m → m.live = false) (o : Outcome) (code : Byte) : s.terminate id o code = s := by
  rw [State.terminate]
  cases hm : s.meet? id with
  | none => rfl
  | some m => exact if_pos (h m hm)

theorem State.closes_cutMeet {m : Meet} (hm : s.meet? m.id = some m) (o : Outcome) (code : Byte) : s.Closes (s.cutMeet m o code) where
  rest := rfl
  memOk := id
  told := ⟨[], (List.append_nil _).symm⟩
  queues q hq := ⟨q, hq, rfl⟩
  queueIds := rfl
  ctxs c hc := ⟨c, hc, rfl⟩
  tenants _ u hu := ⟨u, hu, rfl⟩
  meets := s.setMeet_meets _ (fun n p => p.st = n.st ∨ p.live = false) (fun _ => .inl rfl) fun _ _ => .inr rfl
  bare _ := rfl
  meetIds := s.meetIds_setMeet _
  meetCtx := s.meetCtx_setMeet fun n hn =>
    have e : m = n := Option.some.inj (hm.symm.trans hn)
    e ▸ rfl
  dies _ d hd := ⟨d, hd, rfl⟩

/-- What a termination does once the meet has been cut off. -/
theorem State.ends_cut (ds : List DTrap) (m : Meet) (id : Nat) : s.Ends ((ds.foldl (fun s d => s.ctxTrap m.ctx d) s).completeIfDone id) :=
  State.Ends.trans (.foldl (fun s d => s.ends_ctxTrap _ d) ds _) (State.ends_completeIfDone _ _)

theorem State.closes_terminate (id : Nat) (o : Outcome) (code : Byte) : s.Closes (s.terminate id o code) := by
  by_cases h : ∀ m, s.meet? id = some m → m.live = false
  · rw [State.terminate_idle h]
    exact .refl s
  · push Not at h
    obtain ⟨m, hm, hl⟩ := h
    rw [State.terminate_live hm (Bool.not_eq_false _ |>.mp hl)]
    have hid : m.id = id := by simpa using List.find?_some hm
    have hs : (s.stopMeet id).meet? m.id = some m := by
      rw [State.stopMeet, (State.stops_foldl _ s).rest]
      exact hid ▸ hm
    exact ((s.closes_stopTeams fun t ht => (List.mem_filter.mp ht).1).trans (State.closes_cutMeet _ hs o code)).trans (.of_ends (State.ends_cut _ _ m id))

/-- Ending the meets of a context. -/
theorem State.closes_terminates (o : Outcome) (code : Byte) (ms : List Meet) : s.Closes (ms.foldl (fun s m => s.terminate m.id o code) s) :=
  .foldl (fun s m => s.closes_terminate m.id o code) ms s

end Sys2Proof.Machine
end

section
/-!
SUPPORT. Resets, adoption, the firmware complex and migration (R397 to R404).
-/

namespace Sys2Proof.Machine

section
variable {s : State} {die a : Nat} {d : Die}

/-! ### Adoption (R399, R403) -/

/-- A die does not adopt its own queues. -/
theorem State.heir_ne (h : s.heir die = some a) : a ≠ die := by
  have hm : a ∈ s.heirs die := List.mem_of_find?_eq_some h
  rw [State.heirs] at hm
  cases hp : s.product with
  | ks4n =>
    rw [hp] at hm
    simp only [List.mem_cons, List.not_mem_nil, or_false] at hm
    omega
  | ks4x =>
    rw [hp] at hm
    simp only [List.mem_cons, List.not_mem_nil, or_false] at hm
    omega

theorem State.dropCands_eq (mine : Queue → Bool) : s.dropCands mine = { s with
    meets := (s.dropCands mine).meets, queues := s.queues.map fun q => if mine q then { q with cand := none } else q } := rfl

theorem State.adopt_eq : s.adopt die a = { s with
    meets := (s.adopt die a).meets
    queues := (s.queues.map fun q => if decide (q.server = die) then { q with cand := none } else q).map fun q =>
      if q.server = die then { q with server := a } else q
    dies := s.dies.zipIdx.map fun (d, i) => if s.serverOf i == die then { d with adopter := some a } else d } := rfl

/-- A die whose queues nobody had adopted, after another has adopted them. -/
theorem State.adopt_die? (h : s.die? die = some d) (hn : d.adopter = none) : (s.adopt die a).die? die = some { d with adopter := some a } := by
  have hserved : s.serverOf die = die := by rw [State.serverOf, h, Option.bind_some, hn, Option.getD_none]
  have hd : s.dies[die]? = some d := h
  rw [State.adopt_eq, State.die?]
  simp only [List.getElem?_map, List.getElem?_zipIdx, hd, Option.map_some, Nat.zero_add, hserved, beq_self_eq_true, if_true]

theorem State.adopt_server (hne : a ≠ die) : ∀ q ∈ (s.adopt die a).queues, q.server ≠ die := by
  intro q hq
  rw [State.adopt_eq] at hq
  obtain ⟨p, -, rfl⟩ := List.mem_map.mp hq
  split
  · exact hne
  · assumption

theorem State.adopt_mem_queues {q : Queue} (hq : q ∈ s.queues) (hc : q.cand = none) :
    { q with server := if q.server = die then a else q.server } ∈ (s.adopt die a).queues := by
  rw [State.adopt_eq]
  refine List.mem_map.mpr ⟨q, List.mem_map.mpr ⟨q, hq, ?_⟩, ?_⟩
  · split
    · rw [← hc]
    · rfl
  · split <;> rfl

theorem State.length_adopt : (s.adopt die a).dies.length = s.dies.length := by
  rw [State.adopt_eq]
  simp

/-- The home of an address depends on the product, the striped range and the number of dies. -/
theorem State.homeOf_congr {s t : State} (hp : t.product = s.product) (hst : t.stripe = s.stripe) (hl : t.dies.length = s.dies.length) (pa : Nat) :
    t.homeOf pa = s.homeOf pa := by
  rw [State.homeOf, State.homeOf, State.ownBytes, State.ownBytes, hp, hst, hl]

theorem State.updDie_homeOf (f : Die → Die) (pa : Nat) : (s.updDie die f).homeOf pa = s.homeOf pa :=
  State.homeOf_congr (s := s) (t := s.updDie die f) rfl rfl (List.length_modify ..) pa

theorem adoption_spec (h : s.die? die = some d) (hn : d.adopter = none) (hb : d.beatAt + 100000 ≤ s.hubClock) (ha : s.heir die = some a) :
    ∃ t, exec (.adoption die a) s = .next t ∧ (∀ q ∈ t.queues, q.server ≠ die) ∧ (t.die? die).map Die.adopter = some (some a) ∧
      (t.die? die).map (fun e => e.coreUp 1) = some false ∧
      ∀ q ∈ s.queues, q.cand = none → { q with server := if q.server = die then a else q.server } ∈ t.queues := by
  have hdie : ((s.adopt die a).updDie die fun d => d.failCore 1).die? die = some (Die.failCore { d with adopter := some a } 1) := by
    have hd : (s.adopt die a).dies[die]? = _ := State.adopt_die? (a := a) h hn
    rw [State.die?, State.updDie, List.getElem?_modify_eq, hd]
    rfl
  refine ⟨(s.adopt die a).updDie die fun d => d.failCore 1, ?_, State.adopt_server (State.heir_ne ha), ?_, ?_, fun q hq hc => State.adopt_mem_queues hq hc⟩
  · change execAdoption die a s = _
    rw [execAdoption, h]
    dsimp only
    rw [if_neg]
    rintro (hlt | hs | hne)
    · omega
    · rw [hn] at hs
      cases hs
    · exact hne ha
  · rw [hdie]
    rfl
  · rw [hdie, Option.map_some, Die.coreUp, Die.failCore, List.getElem?_modify_eq]
    cases d.cps[1]? <;> rfl

/-! ### Warm reset (R398) -/

/-- The package with a die's queues adopted and the die closing, as a warm reset makes it first. -/
def State.closed (s : State) (die a : Nat) : State := (s.adopt die a).updDie die fun d => { d with closing := true }

theorem State.closed_die? (h : s.die? die = some d) (hn : d.adopter = none) :
    (s.closed die a).die? die = some { d with adopter := some a, closing := true } := by
  have hd : (s.adopt die a).dies[die]? = _ := State.adopt_die? (a := a) h hn
  rw [State.die?, State.closed, State.updDie, List.getElem?_modify_eq, hd]
  rfl

theorem State.closed_homeOf (pa : Nat) : (s.closed die a).homeOf pa = s.homeOf pa :=
  (State.updDie_homeOf _ pa).trans (State.homeOf_congr (s := s) (t := s.adopt die a) rfl rfl State.length_adopt pa)

theorem State.closed_inFlight : (s.closed die a).inFlight die = s.inFlight die := by
  rw [State.inFlight, State.inFlight]
  simp only [State.closed_homeOf]
  rfl

/-- Every team that is resident on a die is saved, as a warm reset does at its step 2. -/
def State.savesOn (s : State) (die : Nat) : State :=
  (s.teams.filter fun t => t.cl.die = die ∧ t.st = .resident).foldl (fun s t => s.saveTeam t.id) s

/-- What a warm reset leaves of a package whose die has been saved. -/
def State.warmed (s : State) (die : Nat) : Out :=
  if (s.teams.any fun t => t.cl.die = die ∧ t.st = .resident) ∨ s.inFlight die = true then .next s else ((s.cleanDie die).updDie die Die.warm).done_

theorem State.savesOn_none (ht : ∀ t ∈ s.teams, t.cl.die = die → t.st ≠ .resident) : s.savesOn die = s := by
  have hnone : s.teams.filter (fun t => t.cl.die = die ∧ t.st = .resident) = [] :=
    List.filter_eq_nil_iff.mpr fun t hm hc => by
      obtain ⟨h1, h2⟩ := of_decide_eq_true hc
      exact ht t hm h1 h2
  rw [State.savesOn, hnone, List.foldl_nil]

theorem State.warmed_none (ht : ∀ t ∈ s.teams, t.cl.die = die → t.st ≠ .resident) :
    s.warmed die = if s.inFlight die = true then .next s else ((s.cleanDie die).updDie die Die.warm).done_ := by
  have hany : (s.teams.any fun t => t.cl.die = die ∧ t.st = .resident) = false :=
    List.any_eq_false.mpr fun t hm hc => by
      obtain ⟨h1, h2⟩ := of_decide_eq_true hc
      exact ht t hm h1 h2
  simp only [State.warmed, hany, Bool.false_eq_true, false_or]

theorem exec_warmReset (h : s.die? die = some d) (ha : s.heir die = some a) (ho : d.offline = false) (hp : d.power ≠ .off)
    (hd : s.neighbourDown die = false) (hn : d.adopter = none) : exec (.warmReset die) s = ((s.closed die a).savesOn die).warmed die := by
  change execWarmReset die s = _
  rw [execWarmReset, h, ha]
  dsimp only
  rw [if_neg (by simp [ho, hp, hd])]
  simp only [hn, Option.isSome_none, Bool.false_eq_true, if_false]
  rfl

/-- A die whose warm reset has taken its caches' contents away: no copy is left in it, nor one of its memory. -/
theorem State.cleanDie_lines : ∀ c ∈ (s.cleanDie die).lines, c.level.die ≠ die ∧ s.homeOf (64 * c.line) ≠ some die := by
  intro c hc
  have hp := (((State.mem_dropCopies _).mp hc).2 :)
  simpa using hp

theorem State.stirs_cleanDie : s.Stirs (s.cleanDie die) := by
  unfold State.cleanDie
  exact (((State.Stirs.foldl (fun s (l : ULine) => s.stirs_recallU l.pa l.bytes) _ s).trans (State.stirs_writeBackAll _ _)).trans
    (State.stirs_dropCopies _ _)).trans (.of_rest rfl)

theorem warmReset_spec (h : s.die? die = some d) (ha : s.heir die = some a) (ho : d.offline = false) (hp : d.power ≠ .off)
    (hd : s.neighbourDown die = false) (hn : d.adopter = none) (ht : ∀ t ∈ s.teams, t.cl.die = die → t.st ≠ .resident) :
    (s.inFlight die = true → ∃ t e, exec (.warmReset die) s = .next t ∧ t.die? die = some e ∧ e.offline = false ∧ e.closing = true) ∧
    (s.inFlight die = false →
     ∃ t e, exec (.warmReset die) s = .next t ∧ t.die? die = some e ∧ e.offline = true ∧ e.clusPl = Die.reset.clusPl ∧ e.adopter = some a ∧
      e.power = d.power ∧ e.step = d.step ∧ (∀ c ∈ e.clusters, c = { Cluster.reset with rows := c.rows }) ∧ (∀ q ∈ t.queues, q.server ≠ die) ∧
      (∀ c ∈ t.lines, c.level.die ≠ die ∧ s.homeOf (64 * c.line) ≠ some die) ∧ HostEvent.command 0 ∈ t.host) := by
  have hteams : ∀ t ∈ (s.closed die a).teams, t.cl.die = die → t.st ≠ .resident := ht
  have hex : exec (.warmReset die) s = _ :=
    (exec_warmReset h ha ho hp hd hn).trans ((congrArg (State.warmed · die) (State.savesOn_none hteams)).trans (State.warmed_none hteams))
  have hdie := State.closed_die? (a := a) h hn
  have hqueues : ∀ q ∈ (s.closed die a).queues, q.server ≠ die := State.adopt_server (State.heir_ne ha)
  rw [State.closed_inFlight] at hex
  refine ⟨fun hf => ?_, fun hf => ?_⟩
  · rw [if_pos hf] at hex
    exact ⟨_, _, hex, hdie, ho, rfl⟩
  · rw [if_neg (by rw [hf]; nofun)] at hex
    have hst := (s.closed die a).stirs_cleanDie (die := die)
    have hlines := (s.closed die a).cleanDie_lines (die := die)
    simp only [State.closed_homeOf] at hlines
    generalize (s.closed die a).cleanDie die = t at hst hlines hex
    have hd' : t.dies[die]? = _ := (congrArg (·[die]?) hst.dies).trans hdie
    refine ⟨(t.updDie die Die.warm).tell (.command 0), Die.warm { d with adopter := some a, closing := true }, hex, ?_, rfl, rfl, rfl, rfl, rfl, fun c hc => ?_, ?_, hlines, List.mem_append_right _ List.mem_cons_self⟩
    · change (t.dies.modify die Die.warm)[die]? = _
      rw [List.getElem?_modify_eq, hd']
      rfl
    · obtain ⟨b, -, rfl⟩ := List.mem_map.mp hc
      rfl
    · have hq : ((t.updDie die Die.warm).tell (.command 0)).queues = (s.closed die a).queues := by
        rw [hst.rest]
        rfl
      rw [hq]
      exact hqueues

/-! ### Cold reset, readmission, function-level reset (R397, R399, R401) -/

theorem coldReset_spec : ∃ t, exec .coldReset s = .next t ∧ t.dies = List.replicate s.product.dies Die.reset ∧ t.teams = [] ∧ t.meets = [] ∧ t.ctxs = [] ∧
    t.queues = [] ∧ t.halted = false ∧ t.host = s.host ∧ ∀ a, Memory.get t.mem a = if a < 2 ^ 52 then 0 else Memory.get s.mem a := by
  refine ⟨_, rfl, rfl, rfl, rfl, rfl, rfl, rfl, rfl, fun a => ?_⟩
  rw [Memory.get_filter fun pa => decide (2 ^ 52 ≤ pa)]
  by_cases ha : a < 2 ^ 52
  · rw [if_pos ha, decide_eq_false (by omega), if_neg nofun]
  · rw [if_neg ha, decide_eq_true (by omega), if_pos rfl]

theorem dieReadmission_spec (h : s.die? die = some d) (ho : d.offline = true) : ∃ t, exec (.dieReadmission die) s = .next t ∧
    t.dies = s.dies.set die { d with offline := false, clock := 0, starts := d.starts + 1, adopter := none, beatAt := s.hubClock } ∧
    ∀ q ∈ t.queues, q.desc.home = die → q.server = die := by
  change ∃ t, execDieReadmission die s = _ ∧ _
  rw [execDieReadmission, h]
  dsimp only
  rw [if_neg (by rw [ho]; nofun)]
  refine ⟨_, rfl, modify_eq_set_of_getElem? _ h, fun q hq hh => ?_⟩
  obtain ⟨p, -, rfl⟩ := List.mem_map.mp hq
  split at hh
  · rw [if_pos ‹_›]
  · exact absurd hh ‹_›

/-- Every context of a function has been killed, but for those whose names are listed. -/
def State.KilledBut (s : State) (vf : Nat) (cs : List Nat) : Prop := ∀ c ∈ s.ctxs, c.vf = vf → c.killed = true ∨ c.id ∈ cs

theorem State.killedBut_closes {s t : State} {vf : Nat} {cs : List Nat} (h : s.Closes t) (hk : s.KilledBut vf cs) : t.KilledBut vf cs := by
  intro c hc hv
  obtain ⟨b, hb, hbare⟩ := h.ctxs c hc
  have hkill : c.killed = b.killed := (congrArg Context.killed hbare : c.bare.killed = b.bare.killed)
  have hid : c.id = b.id := (congrArg Context.id hbare : c.bare.id = b.bare.id)
  have hvf : c.vf = b.vf := (congrArg Context.vf hbare : c.bare.vf = b.bare.vf)
  rw [hkill, hid]
  exact hk b hb (hvf.symm.trans hv)

/-- A kill takes its context off the list, and what is left of the package's queues is their tails and errors. -/
theorem State.killCtx_spec (s : State) (vf id : Nat) (cs : List Nat) (hk : s.KilledBut vf (id :: cs)) : (s.killCtx id).KilledBut vf cs ∧
    (∀ q ∈ (s.killCtx id).queues, ∃ p ∈ s.queues, q.desc = p.desc) := by
  cases hc : s.ctx? id with
  | none =>
    have hs : s.killCtx id = s := by rw [State.killCtx, hc]
    rw [hs]
    refine ⟨fun c hm hv => (hk c hm hv).imp_right fun hid => ?_, fun q hq => ⟨q, hq, rfl⟩⟩
    obtain rfl | hid := List.mem_cons.mp hid
    · exact absurd (beq_self_eq_true c.id) (by simpa using List.find?_eq_none.mp hc c hm)
    · exact hid
  | some c =>
    have hs : s.killCtx id = (s.openMeets id).foldl (fun s m => s.terminate m.id .aborted 0)
        ((s.setCtx { c with gen := c.gen + 1, killed := true }).endSessions fun _ k => k.ctx = id) := by
      rw [State.killCtx, hc]
      rfl
    have hid : c.id = id := (State.ctx?_mem hc).2
    have hends := State.closes_terminates (s := (s.setCtx { c with gen := c.gen + 1, killed := true }).endSessions fun _ k => k.ctx = id)
      .aborted 0 (s.openMeets id)
    rw [hs]
    refine ⟨State.killedBut_closes hends fun b hb hv => ?_, fun q hq => ?_⟩
    · obtain ⟨e, he, rfl⟩ := List.mem_map.mp (hb : b ∈ s.ctxs.map _)
      dsimp only at hv ⊢
      split at hv
      · exact .inl (by rw [if_pos ‹_›])
      · rw [if_neg ‹_›]
        refine (hk e he hv).imp_right fun hm => ?_
        obtain hm | hm := List.mem_cons.mp hm
        · exact absurd (hm.trans hid.symm) (by simpa using ‹¬ _›)
        · exact hm
    · obtain ⟨p, hp, hqp⟩ := hends.queues q hq
      exact ⟨p, hp, (congrArg Queue.desc hqp :)⟩

theorem State.killCtxs_spec (vf : Nat) : ∀ (cs : List Nat) (s : State), s.KilledBut vf cs → (cs.foldl State.killCtx s).KilledBut vf [] ∧
    (∀ q ∈ (cs.foldl State.killCtx s).queues, ∃ p ∈ s.queues, q.desc = p.desc)
  | [], _, hk => ⟨hk, fun q hq => ⟨q, hq, rfl⟩⟩
  | id :: cs, s, hk => by
    obtain ⟨hk, hq⟩ := State.killCtx_spec s vf id cs hk
    obtain ⟨hks, hqs⟩ := State.killCtxs_spec vf cs (s.killCtx id) hk
    refine ⟨hks, fun q hm => ?_⟩
    obtain ⟨p, hp, hqp⟩ := hqs q hm
    obtain ⟨r, hr, hpr⟩ := hq p hp
    exact ⟨r, hr, hqp.trans hpr⟩

/-- Killing the contexts of a function whose queues have gone. -/
theorem State.killFunction {vf : Nat} (hq : ∀ q ∈ s.queues, q.desc.vf ≠ vf) : ∃ t, (((s.ctxs.filter fun c => c.vf = vf).map Context.id).foldl State.killCtx s).done_ =
    .next t ∧ (∀ q ∈ t.queues, q.desc.vf ≠ vf) ∧ (∀ c ∈ t.ctxs, c.vf = vf → c.killed = true) ∧ HostEvent.command 0 ∈ t.host := by
  have hk : s.KilledBut vf ((s.ctxs.filter fun c => c.vf = vf).map Context.id) := fun c hc hv =>
    .inr (List.mem_map.mpr ⟨c, List.mem_filter.mpr ⟨hc, decide_eq_true hv⟩, rfl⟩)
  obtain ⟨hks, hqs⟩ := State.killCtxs_spec vf _ s hk
  refine ⟨_, rfl, fun q hm => ?_, fun c hc hv => (hks c hc hv).resolve_right List.not_mem_nil, List.mem_append_right _ List.mem_cons_self⟩
  obtain ⟨p, hp, hqp⟩ := hqs q hm
  rw [hqp]
  exact hq p hp

theorem functionLevelReset_spec (vf : Nat) : ∃ t, exec (.functionLevelReset vf) s = .next t ∧ (∀ q ∈ t.queues, q.desc.vf ≠ vf) ∧
    (∀ c ∈ t.ctxs, c.vf = vf → c.killed = true) ∧ HostEvent.command 0 ∈ t.host := by
  change ∃ t, execFunctionLevelReset vf s = _ ∧ _
  rw [execFunctionLevelReset]
  exact State.killFunction fun q hq => of_decide_eq_true (List.mem_filter.mp hq).2

/-! ### Mailboxes, heartbeats, cores (R402, R403) -/

theorem set_eq_of_getElem? {α : Type} {l : List α} {i : Nat} {v : α} (h : l[i]? = some v) : l.set i v = l := by
  obtain ⟨hlt, rfl⟩ := List.getElem?_eq_some_iff.mp h
  exact List.set_getElem_self hlt

theorem State.mail_eq (h : s.die? die = some d) {core : Nat} {c : CpCore} (hc : d.cps[core]? = some c) (src : Nat) (msg : Option (BitVec 512)) :
    exec (.mailboxMessage die src core msg) s = .next (s.withDie die { d with cps := d.cps.set core (c.mail src msg) } []) := by
  change execMailboxMessage die src core msg s = _
  have ht := State.updDie_news h (fun d => { d with cps := d.cps.modify core fun c => c.mail src msg }) []
  rw [List.append_nil, modify_eq_set_of_getElem? _ hc] at ht
  exact congrArg Host.Outcome.next ht

theorem heartbeat_spec (h : s.die? die = some d) (ha : d.able = true) :
    exec (.heartbeat die) s = .next (s.withDie die { d with beat := d.beat + 1, beatAt := s.hubClock } []) := by
  change execHeartbeat die s = _
  rw [execHeartbeat, State.updDie_eq h, if_pos ha]
  exact congrArg Host.Outcome.next (by rw [State.withDie, List.append_nil])

theorem coreFailure_spec (h : s.die? die = some d) {core : Nat} {c : CpCore} (hc : d.cps[core]? = some c) (h1 : core ≠ 1) (h8 : core < 8) :
    exec (.commandProcessorCoreFailure die core) s = .next (s.withDie die { d with cps := d.cps.set core { c with failed := true } } [.coreFailed die core]) := by
  have hlt := State.lt_of_die? h
  change execCommandProcessorCoreFailure die core s = _
  rw [execCommandProcessorCoreFailure, if_neg (by omega)]
  exact congrArg Host.Outcome.next ((State.updDie_news h _ _).trans (by rw [Die.failCore, modify_eq_set_of_getElem? _ hc]))

/-! ### Migration (R404) -/

/-- No die keeps a key of a context whose sessions have been ended. -/
theorem State.endSessions_keys (ctx : Nat) : ∀ e ∈ (s.endSessions fun _ k => k.ctx = ctx).dies, ∀ k, some k ∈ e.keys → k.ctx ≠ ctx := by
  intro e he k hk
  obtain ⟨⟨d, i⟩, -, rfl⟩ := List.mem_map.mp he
  obtain ⟨o, -, ho⟩ := List.mem_map.mp hk
  cases o with
  | none => cases ho
  | some k' =>
    rw [Option.filter_some] at ho
    split at ho
    · cases ho
      rename_i hk
      intro hid
      simp [hid] at hk
    · cases ho

theorem migration_spec (ctx elapsed : Nat) (ht : ∀ t ∈ s.teams, t.ctx = ctx → t.st ≠ .resident) :
    ∃ t, exec (.migration ctx elapsed) s = .next t ∧ (∀ e ∈ t.dies, ∀ k, some k ∈ e.keys → k.ctx ≠ ctx) ∧
      ∀ u ∈ s.teams, u.ctx = ctx → u.st = .saved → ∀ c, u.clocks = some c →
        { u with clocks := some { c with away := some (c.away.getD 0 + elapsed) } } ∈ t.teams := by
  have hnone : s.teams.filter (fun t => t.ctx = ctx ∧ t.st = .resident) = [] :=
    List.filter_eq_nil_iff.mpr fun t hm hc => by
      obtain ⟨h1, h2⟩ := of_decide_eq_true hc
      exact ht t hm h1 h2
  have hany : (s.teams.any fun t => t.ctx = ctx ∧ t.st = .resident) = false :=
    List.any_eq_false.mpr fun t hm hc => by
      obtain ⟨h1, h2⟩ := of_decide_eq_true hc
      exact ht t hm h1 h2
  change ∃ t, execMigration ctx elapsed s = _ ∧ _
  rw [execMigration]
  simp only [hnone, List.foldl_nil, hany, Bool.false_eq_true, if_false]
  refine ⟨_, rfl, State.endSessions_keys ctx, fun u hu hc hs c hcl => List.mem_map.mpr ⟨u, hu, ?_⟩⟩
  rw [if_pos ⟨hc, hs⟩, Team.travel, hcl]
  rfl

end

/-- Settles O60: each clause by the lemma of its command or event. -/
theorem resetsAndTheFirmwareComplex : Obligations.ResetsAndTheFirmwareComplex := by
  refine ⟨fun s => coldReset_spec, fun s die d h => ⟨?_, dieReadmission_spec h, fun vf => functionLevelReset_spec vf, fun core c hc => ⟨?_, ?_, ?_⟩,
    heartbeat_spec h, fun a hb hn ha => adoption_spec h hn hb ha, fun core c hc h1 h8 => coreFailure_spec h hc h1 h8, migration_spec⟩⟩
  · exact fun a ha ho hp hd hn ht => warmReset_spec h ha ho hp hd hn ht
  · intro src msg hs hl
    rw [State.mail_eq h hc, CpCore.mail, if_pos ⟨hs, hl⟩]
  · intro src msg hl
    change execMailboxMessage die src core (some msg) s = _
    have hm : d.cps.modify core (fun c => c.mail src (some msg)) = d.cps := by
      rw [modify_eq_set_of_getElem? _ hc, CpCore.mail, if_neg (by omega)]
      exact set_eq_of_getElem? hc
    have hd : s.dies.set die d = s.dies := set_eq_of_getElem? h
    rw [execMailboxMessage, State.updDie_eq h, hm, hd]
  · intro src msg r hf hm
    rw [State.mail_eq h hc, CpCore.mail, if_pos ⟨hf, by rw [hm]; rfl⟩, hm, List.tail_cons]

end Sys2Proof.Machine
end

section
/-!
SUPPORT. Conversions, dot products and SBOUND (R273 to R276, R287): each operation computes what its table gives.
-/

namespace Sys2Proof.Machine

/-- The operation of each mnemonic of conversions and dot products. -/
def convertOpOf : Mn → Option (Ext → State → Out)
  | .f2i => some opF2i
  | .i2f => some opI2f
  | .fcvt => some opFcvt
  | .dot2 => some opDot2
  | .dot4 => some opDot4
  | .sbound => some opSbound
  | _ => none

theorem exec_of_convertOpOf {i : Instr} {m : Mn} {e : Ext} {op : Ext → State → Out} (hi : i.shape = .form m e) (ho : convertOpOf m = some op)
    (s : State) : exec i s = op e s := by
  cases i with
  | f2i | i2f | fcvt | dot2 | dot4 | sbound => cases hi; cases ho; rfl
  | _ => cases hi <;> cases ho

/-- Results written to n registers, each executing fibre's generator past the numbers that its m elements drew. -/
def drawnEffect (e : Ext) (x : Site) (n m : Nat) (v : Nat → Nat) : Effect := { d := e.d.toNat, n := n, v := v, seed := drawn e x m }

theorem Site.drawn_setVal (x y : Site) (e : Ext) (n m : Nat) (v : Nat → Nat) (i : Nat) :
    x.drawn e i m (y.setVal i e.d.toNat n (v i)) = y.write (drawnEffect e x n m v) i := by
  unfold Site.drawn drawnEffect Site.write Effect.seedOn Machine.drawn
  by_cases h : e.rs = 4
  · rw [if_pos ((rndOf_eq_four_iff e).mpr h), if_pos h]
    rfl
  · rw [if_neg fun h4 => h ((rndOf_eq_four_iff e).mp h4), if_neg h]
    rfl

section
variable {i : Instr} {m : Mn} {e : Ext} {s : State} {x : Site} {is : List Nat} {us : List Use} {f : Effect}

/-- An instruction that writes results and moves the generators past what they drew. -/
theorem drawn_computes {n k : Nat} (h : Issues s x is e.guard us) (hd : useD e n ∈ us ∨ readD e n ∈ us) (v : Site → Nat → Nat)
    (hv : v (s.account x).2 = v x) :
    Computes (issue e.guard (demand us) s (regEffect fun z i y => z.drawn e i k (y.setVal i e.d.toNat n (v z i)))) s x is (drawnEffect e x n k (v x)) := by
  refine issue_computes h (fun z => drawnEffect e z n k (v z)) _ (fun z i y => z.drawn_setVal y e n k (v z) i) (by rw [hv]; simp [drawnEffect])
    (fun i hi j hj => ?_) (by simp [drawnEffect])
  obtain hd | hd := hd
  · exact h.fields _ hd i hi j hj
  · exact h.fields _ hd i hi j hj

@[simp] theorem account_cvtLane (s : State) (x : Site) (i : Nat) (e : Ext) (j : Nat) : (s.account x).2.cvtLane i e j = x.cvtLane i e j := by
  simp [Site.cvtLane]

/-- A float dot product of a fibre, rounded once. -/
def Site.dotOf (x : Site) (e : Ext) (n : Nat) (b : Nat → Nat) (i : Nat) : Nat :=
  FFmt.f32.round (rndOf e) (x.draw e i 0) (dotSum (FFmt.f32.read (x.val i e.c.toNat 1))
    (((lanesAt e (x.val i e.a.toNat n) n).zip (lanesAt e (b i) n)).map fun p => Fp.mul p.1 p.2)) false

theorem dotFloat_computes {n : Nat} (h : Issues s x is e.guard us) (hd : useD e 1 ∈ us) (b : Site → Nat → Nat) (hb : b (s.account x).2 = b x) :
    Computes (dotFloat e n us b s) s x is (drawnEffect e x 1 1 (x.dotOf e n (b x))) :=
  drawn_computes h (.inl hd) (fun z => z.dotOf e n (b z)) (by funext i; simp [Site.dotOf, hb])

theorem convertResult_computes (hi : i.shape = .form m e) (hr : convertResult m e x = some (us, f)) (h : Issues s x is e.guard us) :
    Computes (exec i s) s x is f := by
  cases m with
  | f2i =>
    cases hr
    rw [exec_of_convertOpOf hi rfl]
    exact drawn_computes (n := e.ty.regs) (k := 1) h (.inl (by simp)) (fun x i => resultOf e.ty
      (toInt e.ty (rndOf e) (x.draw e i 0) (readF (fromOf e.m1.toNat) (subOf e) (laneOf (fromOf e.m1.toNat) (x.val i e.a.toNat 1) 0)))) (by simp)
  | i2f =>
    cases hr
    rw [exec_of_convertOpOf hi rfl]
    exact drawn_computes (n := 1) (k := 1) h (.inl (by simp)) (fun x i => x.rnd e i 0 (.fin
      (valOf (intFrom e.m1.toNat) (x.val i e.a.toNat (intFrom e.m1.toNat).regs) < 0)
      (valOf (intFrom e.m1.toNat) (x.val i e.a.toNat (intFrom e.m1.toNat).regs)).natAbs 0)) (by simp)
  | fcvt =>
    cases hr
    rw [exec_of_convertOpOf hi rfl]
    exact drawn_computes (n := cvtDstRegs e) (k := cvtLanes e) h (.inl (by simp)) (fun x i => ((List.range (cvtLanes e)).map fun j =>
      x.rnd e i j (readF (fromOf e.m1.toNat) (subOf e) (x.cvtLane i e j)) * 2 ^ ((if cvtDstRegs e = 2 then 32 else fbits e.ty) * j)).sum) (by simp)
  | dot2 =>
    cases hr
    rw [exec_of_convertOpOf hi rfl]
    exact dotFloat_computes h (by simp) (fun x i => x.srcB i e) (by simp)
  | dot4 =>
    rw [exec_of_convertOpOf hi rfl, opDot4]
    by_cases ht : e.ty = .s8 ∨ e.ty = .n8
    · rw [convertResult, if_pos ht] at hr
      cases hr
      rw [if_pos ht]
      exact perFibre32_computes h (by simp) _ (by simp)
    · rw [convertResult, if_neg ht] at hr
      cases hr
      rw [if_neg ht]
      exact dotFloat_computes h (by simp) (fun x i => x.val i e.b.toNat 2) (by simp)
  | sbound =>
    cases hr
    rw [exec_of_convertOpOf hi rfl]
    exact drawn_computes (n := 1) (k := 1) h (.inr (by simp)) (fun x i => FFmt.f32.round (rndOf e) (x.draw e i 0)
      (dotSum (FFmt.f32.read (x.val i e.d.toNat 1)) ((List.range (lanesOf e.ty)).map fun j =>
        Fp.maxOf (Fp.mul (readF e.ty (subOf e) (laneOf e.ty (x.val i e.a.toNat 1) j)) (readF e.ty (subOf e) (laneOf e.ty (x.val i e.b.toNat 1) j)))
          (Fp.mul (readF e.ty (subOf e) (laneOf e.ty (x.val i e.a.toNat 1) j)) (readF e.ty (subOf e) (laneOf e.ty (x.val i e.c.toNat 1) j))))) false) (by simp)
  | _ => cases hr

end

/-- Settles O34: each conversion and dot product by its table. -/
theorem conversionsAndDotProducts : Obligations.ConversionsAndDotProducts :=
  fun _ _ _ _ _ _ _ _ hi hr h => convertResult_computes hi hr h

end Sys2Proof.Machine
end

section
/-!
SUPPORT. Reduction and selection across a heat (R277, R284 to R286).
-/

namespace Sys2Proof.Machine

/-! ### Ranking (R284) -/

section
variable {ty : Ty}

theorem rankIn_perm (c : Cand2) : ∀ l : List Cand2, (rankIn ty c l).Perm (c :: l)
  | [] => .refl _
  | d :: r => by
    rw [rankIn]
    split
    · exact .refl _
    · exact ((rankIn_perm c r).cons d).trans (.swap c d r)

theorem ranked_fold_perm : ∀ cs l : List Cand2, (cs.foldl (fun l c => rankIn ty c l) l).Perm (cs ++ l)
  | [], _ => .refl _
  | c :: cs, l => (ranked_fold_perm cs (rankIn ty c l)).trans (((rankIn_perm c l).append_left cs).trans List.perm_middle)

theorem ranked_perm (cs : List Cand2) : (ranked ty cs).Perm cs := by
  have h := ranked_fold_perm (ty := ty) cs []
  rwa [List.append_nil] at h

/-- The order of candidates, in which each stands beside itself. -/
def Cand2.first (ty : Ty) (a b : Cand2) : Prop := a = b ∨ a.above ty b = true

/-- The scores of some candidates are in their type's order. -/
structure Ordered (ty : Ty) (cs : List Cand2) : Prop where
  trans : ∀ a b c : Cand2, a ∈ cs → b ∈ cs → c ∈ cs → a.above ty b = true → b.above ty c = true → a.above ty c = true
  total : ∀ a b : Cand2, a ∈ cs → b ∈ cs → a ≠ b → a.above ty b = !(b.above ty a)

variable {cs : List Cand2}

theorem rankIn_pairwise (ho : Ordered ty cs) {c : Cand2} (hc : c ∈ cs) : ∀ l : List Cand2, (∀ d ∈ l, d ∈ cs) → l.Pairwise (Cand2.first ty) →
    (rankIn ty c l).Pairwise (Cand2.first ty)
  | [], _, _ => List.pairwise_singleton _ _
  | d :: r, hl, hp => by
    obtain ⟨hd, hr⟩ := List.pairwise_cons.mp hp
    have hdm : d ∈ cs := hl d List.mem_cons_self
    rw [rankIn]
    split
    · rename_i hcd
      refine List.pairwise_cons.mpr ⟨fun b hb => .inr ?_, hp⟩
      obtain rfl | hb := List.mem_cons.mp hb
      · exact hcd
      · obtain rfl | hdb := hd b hb
        · exact hcd
        · exact ho.trans c d b hc hdm (hl b (List.mem_cons_of_mem _ hb)) hcd hdb
    · rename_i hcd
      refine List.pairwise_cons.mpr ⟨fun b hb => ?_, rankIn_pairwise ho hc r (fun b hb => hl b (List.mem_cons_of_mem _ hb)) hr⟩
      obtain rfl | hb := List.mem_cons.mp ((rankIn_perm c r).mem_iff.mp hb)
      · by_cases hdb : d = b
        · exact .inl hdb
        · exact .inr (by rw [ho.total d b hdm hc hdb, Bool.not_eq_true _ |>.mp hcd]; rfl)
      · exact hd b hb

theorem ranked_fold_pairwise (ho : Ordered ty cs) : ∀ ds l : List Cand2, (∀ d ∈ ds, d ∈ cs) → (∀ d ∈ l, d ∈ cs) → l.Pairwise (Cand2.first ty) →
    (ds.foldl (fun l c => rankIn ty c l) l).Pairwise (Cand2.first ty)
  | [], _, _, _, hp => hp
  | c :: ds, l, hds, hl, hp => by
    have hc : c ∈ cs := hds c List.mem_cons_self
    refine ranked_fold_pairwise ho ds _ (fun d hd => hds d (List.mem_cons_of_mem _ hd)) (fun d hd => ?_) (rankIn_pairwise ho hc l hl hp)
    obtain rfl | hd := List.mem_cons.mp ((rankIn_perm c l).mem_iff.mp hd)
    · exact hc
    · exact hl d hd

end

/-! ### Selection (R285, R286) -/

/-- A list with its places, where no element stands twice. -/
theorem zipIdx_eq_map_idxOf {is : List Nat} (h : is.Nodup) : is.zipIdx = is.map fun i => (i, is.idxOf i) := by
  refine List.ext_getElem (by simp) fun k h1 h2 => ?_
  rw [List.getElem_zipIdx, List.getElem_map, h.idxOf_getElem, Nat.zero_add]

/-- The value that the executing fibre at a place of a selection's list gets. -/
def pickedAt (e : Ext) (cs : List Cand2) (k : Nat) : Nat :=
  match ((ranked e.ty cs).take e.imm.toNat)[k]? with
  | some c => c.index + 2 ^ 32 * c.bits
  | none => 0xFFFFFFFF + 2 ^ 32 * fillerOf e.ty

def pickedEffect (e : Ext) (is : List Nat) (cs : List Cand2) : Effect := { d := e.d.toNat, n := 2, v := fun k => pickedAt e cs (is.idxOf k) }

theorem selectOut_eq {e : Ext} {is : List Nat} (h : is.Nodup) (cs : List Cand2) (y : Site) :
    selectOut e is cs y = is.foldl (fun y i => y.write (pickedEffect e is cs) i) y := by
  rw [selectOut, zipIdx_eq_map_idxOf h, List.foldl_map]
  refine List.foldl_ext _ _ _ fun y i _ => ?_
  change _ = y.setVal i e.d.toNat 2 (pickedAt e cs (is.idxOf i))
  unfold pickedAt
  dsimp only
  cases ((ranked e.ty cs).take e.imm.toNat)[is.idxOf i]? <;> rfl

section
variable {i : Instr} {m : Mn} {e : Ext} {s : State} {x : Site} {is : List Nat} {us : List Use}

theorem select_computes (h : Issues s x is e.guard us) (hd : useD e 2 ∈ us) (cs : Site → List Nat → List Cand2)
    (hc : cs (s.account x).2 = cs x) :
    Computes (issue e.guard (demand us) s fun s x is => .next (s.done (selectOut e is (cs x is) x))) s x is (pickedEffect e is (cs x is)) := by
  have hp := issue_computes h (fun z => pickedEffect e is (cs z is)) (fun z i y => y.write (pickedEffect e is (cs z is)) i) (fun _ _ _ => rfl) (by rw [hc])
    (fun i hi k hk => h.fields _ hd i hi k hk) (by simp [pickedEffect])
  rw [issue_eq h] at hp ⊢
  rw [selectOut_eq h.nodup]
  exact hp

theorem candidates_computes {cs : List Cand2} (hi : i.shape = .form m e) (hr : candidates m e x is = some (us, cs)) (h : Issues s x is e.guard us) :
    Computes (exec i s) s x is (pickedEffect e is cs) := by
  cases m with
  | topk =>
    cases hr
    have he : exec i s = opTopk e s := by
      cases i with
      | topk => cases hi; rfl
      | _ => cases hi
    rw [he]
    exact select_computes h (by simp) (fun x is => is.map fun i => candOf e (x.val i e.b.toNat 1) (x.val i e.a.toNat 1) i) (by simp)
  | topkm =>
    cases hr
    have he : exec i s = opTopkm e s := by
      cases i with
      | topkm => cases hi; rfl
      | _ => cases hi
    rw [he]
    exact select_computes h (by simp) (fun x is => is.flatMap fun i =>
      [candOf e (x.val i e.a.toNat 1) (x.val i (e.a.toNat + 1) 1) (2 * i + 0), candOf e (x.val i e.b.toNat 1) (x.val i (e.b.toNat + 1) 1) (2 * i + 1)]) (by simp)
  | _ => cases hr

/-! ### HRED (R277) -/

@[simp] theorem account_hredLeaf (s : State) (x : Site) (e : Ext) (i : Nat) : (s.account x).2.hredLeaf e i = x.hredLeaf e i := by simp [Site.hredLeaf]

/-- The root of the tree over the executing fibres. -/
def Site.hredOf (x : Site) (e : Ext) (is : List Nat) : Nat :=
  hredRoot e (treeRoot (hredNode e) ((List.range 32).map fun k => if k ∈ is then some (x.hredLeaf e k) else none))

theorem hred_computes (h : Issues s x is e.guard [useD e e.ty.regs, readA e e.ty.regs]) : Computes (opHred e s) s x is (toD e fun _ => x.hredOf e is) := by
  have hp := issue_computes h (fun z => toD e fun _ => z.hredOf e is) _ (fun _ _ _ => rfl) (by simp [Site.hredOf])
    (fun i hi k hk => h.fields (useD e e.ty.regs) (by simp) i hi k hk) (by simp [toD])
  rw [issue_eq h] at hp
  rw [opHred, issue_eq h]
  exact hp

end

/-- Settles O35: HRED and selection by what they compute, ranking by induction on the candidates. -/
theorem heatReductionAndSelection : Obligations.HeatReductionAndSelection := by
  refine ⟨fun i e s x is hi h => ?_, fun i m e s x is us cs hi hr h => candidates_computes hi hr h, fun ty cs ⟨_, ht⟩ hn => ?_⟩
  · have he : exec i s = opHred e s := by
      cases i with
      | hred => cases hi; rfl
      | _ => cases hi
    rw [he]
    exact hred_computes h
  · exact ranked_fold_pairwise ⟨ht, hn⟩ cs [] (fun _ h => h) (fun _ h => absurd h List.not_mem_nil) .nil

end Sys2Proof.Machine
end

section
/-!
SUPPORT. System registers, counters and the budget (R315, R318, R319).
-/

namespace Sys2Proof.Machine

/-- The operation of each mnemonic of system registers, counters and traps. -/
def systemOpOf : Mn → Option (Ext → State → Out)
  | .sysrd => some opSysrd
  | .syswr => some opSyswr
  | .perfrd => some opPerfrd
  | .budget => some opBudget
  | .trap => some opTrap
  | .brk => some opBrk
  | .eret => some opEret
  | _ => none

theorem exec_of_systemOpOf {i : Instr} {m : Mn} {e : Ext} {op : Ext → State → Out} (hi : i.shape = .form m e) (ho : systemOpOf m = some op)
    (s : State) : exec i s = op e s := by
  cases i with
  | sysrd | syswr | perfrd | budget | trap | trapExt | brk | brkExt | eret | eretExt => cases hi; cases ho; rfl
  | _ => cases hi <;> cases ho

section
variable {s : State} {x : Site} {is : List Nat} {e : Ext} {us : List Use}

/-! ### What an issue leaves that writes no register -/

/-- A package beside that of an issue takes the accounted unit back: the batch has advanced, and no register and no generator has changed. -/
theorem unitOnly_account {t : State} {g : Guard} (h : Issues s x is g us) (ht : s.Beside t x) :
    UnitOnly s (t.done (s.account x).2) x ((s.account x).2.after s) ∧ Advanced s x ((s.account x).2.after s) ∧
      (∀ k r, ((s.account x).2.after s).slot k r = x.slot k r) ∧ ∀ k, ((s.account x).2.after s).seed k = x.seed k :=
  ⟨(State.keeps_account s x).unitOnly h.here ht, (State.keeps_account s x).advanced h.once,
    fun k r => (Site.slot_after _ _ k r).trans (account_slot s x k r), fun k => (Site.seed_after _ h.once k).trans (account_seed s x k)⟩

/-! ### SYSRD and SYSWR (R315) -/

@[simp] theorem account_coreId (s : State) (x : Site) : (s.account x).2.coreId? = x.coreId? := account_coreId? s x

/-- System registers are read as they stand before the issue. -/
theorem account_sysReg (s : State) (x : Site) (i n : Nat) : (s.account x).1.sysReg (s.account x).2 i n = s.sysReg x i n := by
  have hctx : (s.account x).1.ctx? (s.account x).2.team.ctx = s.ctx? x.team.ctx := by rw [account_team_ctx, State.ctx?, account_ctxs, State.ctx?]
  have hdie : (s.account x).1.die? (s.account x).2.team.cl.die = s.die? x.team.cl.die := by rw [account_cl, State.die?, account_dies, State.die?]
  have htvec : (s.account x).1.tvec (s.account x).2.team.ctx = s.tvec x.team.ctx := by rw [State.tvec, hctx, State.tvec]
  have hepc : ((s.account x).2.heat.fibre? i).map Fibre.epc = (x.heat.fibre? i).map Fibre.epc := by rw [account_fibre?_eq, Option.map_map]; rfl
  unfold State.sysReg
  rw [hctx, hdie, htvec, hepc, account_seed, account_cl, account_coreId?, State.account_snd]

/-- The effect of an accounted issue, where it is a write in each executing fibre. -/
theorem writes_computes {g : Guard} (h : Issues s x is g us) {f : Site → Nat → Site → Site} (ef : Effect)
    (hf : ∀ i ∈ is, ∀ y, f (s.account x).2 i y = y.write ef i) (hd : ∀ i ∈ is, ∀ k < ef.n, x.Has i (ef.d + k))
    (h0 : ef.bit.isSome → ∀ i ∈ is, x.Has i 0) : Computes (regEffect f (s.account x).1 (s.account x).2 is) s x is ef := by
  have hp := issue_computes h (fun _ => ef) (fun _ i y => y.write ef i) (fun _ _ _ => rfl) rfl hd h0
  rw [issue_eq h] at hp
  have he : regEffect f (s.account x).1 (s.account x).2 is = regEffect (fun _ i y => y.write ef i) (s.account x).1 (s.account x).2 is := by
    rw [regEffect, regEffect]
    exact congrArg (fun y => Host.Outcome.next ((s.account x).1.done y)) (List.foldl_ext _ _ _ fun y i hi => hf i hi y)
  rw [he]
  exact hp

theorem sysrd_computes (h : Issues s x is e.guard [useD e (sysRegs e.imm)]) :
    Computes (opSysrd e s) s x is { d := e.d.toNat, n := sysRegs e.imm, v := fun k => s.sysReg x k e.imm.toNat } := by
  rw [opSysrd, issue_eq h]
  refine writes_computes h { d := e.d.toNat, n := sysRegs e.imm, v := fun k => s.sysReg x k e.imm.toNat } (fun i _ y => ?_)
    (fun i hi k hk => h.fields (useD e (sysRegs e.imm)) (by simp) i hi k hk) (fun hb => nomatch hb)
  rw [account_sysReg]
  rfl

/-- SYSWR of an issue that its demand lets pass. -/
theorem syswr_eq (h : Issues s x is e.guard [readA e (sysRegs e.imm)])
    (hb : x.barred { uses := [readA e (sysRegs e.imm)], v0 := false, leader := sysOfContext e.imm, handler := e.imm == 0x31 } is = none)
    (eff : State → Site → List Nat → Out) :
    issue e.guard { uses := [readA e (sysRegs e.imm)], v0 := false, leader := sysOfContext e.imm, handler := e.imm == 0x31 } s eff =
      eff (s.account x).1 (s.account x).2 is :=
  issueWith_eq _ h hb (fun hv => nomatch hv) eff

theorem syswr_seed (hm : e.imm = 0) (h : Issues s x is e.guard [readA e 1]) :
    Computes (opSyswr e s) s x is { nothing with seed := some fun k => if x.word k e.a.toNat = 0 then 0x2545F491 else x.word k e.a.toNat } := by
  have hr : sysRegs e.imm = 1 := by rw [hm]; rfl
  have hl : sysOfContext e.imm = false := by rw [hm]; rfl
  rw [← hr] at h
  rw [opSyswr, syswr_eq h (by rw [Site.barred, hl, if_neg (fun hc => nomatch hc.1), if_neg (by rw [hm]; exact Bool.false_ne_true)]), if_pos hm]
  refine writes_computes h { nothing with seed := some fun k => seedOr (x.word k e.a.toNat) } (fun i _ y => ?_) (fun i _ k hk => nomatch hk)
    (fun hb => nomatch hb)
  rw [account_word]
  rfl

theorem syswr_epc (hm : e.imm = 0x31) (h : Issues s x is e.guard [readA e 2]) (hk : ∀ k ∈ is, x.handling [k] = true) :
    ∃ t y, opSyswr e s = .next t ∧ Own s t x y ∧
      y.team = { x.team with heats := y.team.heats, pacer := y.team.pacer, counters := y.team.counters } ∧
      ∀ k, y.heat.fibre? k = (x.heat.fibre? k).map fun f =>
        { f with
          pc := Site.nextPc s k f, epc := if k ∈ is then dw (x.val (is.headD 0) e.a.toNat 2) else f.epc, last := x.lastOf s k f, waits := Site.waitsOf s k f } := by
  have hr : sysRegs e.imm = 2 := by rw [hm]; rfl
  have hl : sysOfContext e.imm = false := by rw [hm]; rfl
  have hnone : is.find? (fun i => !x.handling [i]) = none := List.find?_eq_none.mpr fun k hm => by rw [hk k hm]; nofun
  rw [← hr] at h
  have hz := ((Site.each_foldl (f := fun _ f => { f with epc := dw (x.val (is.headD 0) e.a.toNat 2) })
    (g := fun y i => y.updFibre i fun f => { f with epc := dw (x.val (is.headD 0) e.a.toNat 2) })
    (fun y i => y.each_updFibre i _) h.nodup (s.account x).2).trans (Site.each_advance _ h.once s.cur.len))
  obtain ⟨hframe, hsets, hfibres⟩ := put_frame h.here hz
  refine ⟨_, _, ?_, hframe.toOwn, ?_, fun k => (hfibres k).trans (congrArg (Option.map · _) (funext fun f => ?_))⟩
  · rw [opSyswr, syswr_eq h (by rw [Site.barred, hl, if_neg (fun hc => nomatch hc.1), if_pos (by rw [hm]; rfl), hnone]), if_neg (by rw [hm]; decide),
      if_pos hm, regEffect, State.done, account_cur, account_val, hr]
  · rw [hframe.team, hsets]
  · by_cases hk : k ∈ is
    · simp only [if_pos hk]
      rfl
    · simp only [if_neg hk]
      rfl

theorem Context.sysWrite_id (c : Context) (n v : Nat) : (c.sysWrite n v).id = c.id := by
  unfold Context.sysWrite
  split
  · rfl
  · split
    · rfl
    · split <;> rfl

theorem ctx?_setCtx_same {c d : Context} {id : Nat} (hc : s.ctx? id = some c) (hd : d.id = c.id) : (s.setCtx d).ctx? id = some d := by
  obtain ⟨-, hid⟩ := State.ctx?_mem hc
  exact find?_map_same s.ctxs Context.id d c id hc (hd.trans hid)

theorem ctx?_setCtx_other {d : Context} {id : Nat} (hd : d.id ≠ id) : (s.setCtx d).ctx? id = s.ctx? id := find?_map_key s.ctxs Context.id d id hd

theorem syswr_context {c : Context} (hm : sysOfContext e.imm = true) (h : Issues s x is e.guard [readA e (sysRegs e.imm)]) (hl : x.leads is = true)
    (hc : s.ctx? x.team.ctx = some c) :
    ∃ t y, opSyswr e s = .next t ∧ t = { s with ctxs := t.ctxs, teams := t.teams, meets := t.meets } ∧ UnitOnly s t x y ∧ Advanced s x y ∧
      (∀ k r, y.slot k r = x.slot k r) ∧ t.ctx? x.team.ctx = some (c.sysWrite e.imm.toNat (x.val (is.headD 0) e.a.toNat (sysRegs e.imm))) ∧
      ∀ d, d ≠ x.team.ctx → t.ctx? d = s.ctx? d := by
  have h0 : e.imm ≠ 0 := by rintro h0; rw [h0] at hm; exact absurd hm (by decide)
  have h31 : e.imm ≠ 0x31 := by rintro h31; rw [h31] at hm; exact absurd hm (by decide)
  have hctx : (s.account x).1.ctx? (s.account x).2.team.ctx = some c := by rw [account_team_ctx, State.ctx?, account_ctxs]; exact hc
  have hid := (State.ctx?_mem hc).2
  have ht : s.Beside ((s.account x).1.setCtx (c.sysWrite e.imm.toNat (x.val (is.headD 0) e.a.toNat (sysRegs e.imm)))) x :=
    .of_teams (account_cur s x) (account_teams s x) (State.account_meet? s x)
  obtain ⟨hu, ha, hs, -⟩ := unitOnly_account h ht
  refine ⟨_, _, ?_, ?_, hu, ha, hs, ?_, fun d hd => ?_⟩
  · rw [opSyswr, syswr_eq h (by rw [Site.barred, hl, if_neg (fun hc => nomatch hc.2), if_neg (by simpa using h31)])]
    simp only [if_neg h0, if_neg h31, hctx, account_val]
  · rw [State.account_fst]
    rfl
  · have hset := ctx?_setCtx_same (s := (s.account x).1) (by rw [State.ctx?, account_ctxs]; exact hc)
      (c.sysWrite_id e.imm.toNat (x.val (is.headD 0) e.a.toNat (sysRegs e.imm)))
    exact hset
  · have hset := ctx?_setCtx_other (s := (s.account x).1) (d := c.sysWrite e.imm.toNat (x.val (is.headD 0) e.a.toNat (sysRegs e.imm))) (id := d)
      (by rw [Context.sysWrite_id, hid]; exact hd.symm)
    refine Eq.trans hset ?_
    rw [State.ctx?, account_ctxs, State.ctx?]

/-! ### Counters and the budget (R318, R319) -/

theorem perfrd_computes (h : Issues s x is e.guard [useD e 2]) :
    Computes (opPerfrd e s) s x is (toD64 e fun _ => (dw (x.team.counters.getD e.imm.toNat 0)).toNat) := by
  rw [opPerfrd, issue_eq h, h.here]
  exact writes_computes h (toD64 e fun _ => (dw (x.team.counters.getD e.imm.toNat 0)).toNat) (fun _ _ _ => rfl)
    (fun i hi k hk => h.fields (useD e 2) (by simp) i hi k hk) (fun hb => nomatch hb)

/-- The measures of a meet do not depend on what the account of an issue changes. -/
theorem account_budgetValue (m : Meet) (die n : Nat) : (s.account x).1.budgetValue m die n = s.budgetValue m die n := by
  rw [State.account_fst]
  rfl

theorem budget_computes {m : Meet} (h : Issues s x is e.guard [useD e 2]) (hm : s.meet? x.team.meet = some m) :
    Computes (opBudget e s) s x is (toD64 e fun _ => s.budgetValue m x.team.cl.die e.m1.toNat) := by
  rw [opBudget, issue_eq h]
  simp only [account_team_meet, hm, account_cl, account_budgetValue]
  exact writes_computes h (toD64 e fun _ => s.budgetValue m x.team.cl.die e.m1.toNat) (fun _ _ _ => rfl)
    (fun i hi k hk => h.fields (useD e 2) (by simp) i hi k hk) (fun hb => nomatch hb)

end

/-- Settles O42: each register, counter and measure by the lemma of its instruction. -/
theorem systemRegistersAndCounters : Obligations.SystemRegistersAndCounters := by
  intro i e s x is
  refine ⟨fun hi h => ?_, fun hi hm h => ?_, fun hi hm h hk => ?_, fun c hi hm h hl hc => ?_, fun hi _ h => ?_, fun m hi h hm => ?_⟩
  · rw [exec_of_systemOpOf hi rfl]
    exact sysrd_computes h
  · rw [exec_of_systemOpOf hi rfl]
    exact syswr_seed hm h
  · rw [exec_of_systemOpOf hi rfl]
    exact syswr_epc hm h hk
  · rw [exec_of_systemOpOf hi rfl]
    exact syswr_context hm h hl hc
  · rw [exec_of_systemOpOf hi rfl]
    exact perfrd_computes h
  · rw [exec_of_systemOpOf hi rfl]
    exact budget_computes h hm

end Sys2Proof.Machine
end

section
/-!
SUPPORT. CPY.WAIT and CPY.PTR (R110, R255), and what an instruction leaves that writes registers and changes more of the package than its unit.
-/

namespace Sys2Proof.Machine

section
variable {s : State} {x : Site} {is : List Nat} {e : Ext} {us : List Use}

/-! ### Writes beside other effects -/

/-- An effect that is a write in each executing fibre, in a package that the instruction has changed besides. -/
theorem writes_beside {t : State} {g : Guard} (h : Issues s x is g us) (ht : s.Beside t x) {f : Site → Nat → Site → Site} (ef : Effect)
    (hf : ∀ i ∈ is, ∀ y, f (s.account x).2 i y = y.write ef i) (hd : ∀ i ∈ is, ∀ k < ef.n, x.Has i (ef.d + k))
    (h0 : ef.bit.isSome → ∀ i ∈ is, x.Has i 0) :
    ∃ u y, regEffect f t (s.account x).2 is = .next u ∧ UnitOnly s u x y ∧ Advanced s x y ∧ Wrote x y is ef ∧ u = { t with teams := u.teams } := by
  have hz : is.foldl (fun y i => f (s.account x).2 i y) (s.account x).2 = is.foldl (fun y i => y.write ef i) (s.account x).2 :=
    List.foldl_ext _ _ _ fun y i hi => hf i hi y
  have hk : s.Keeps x (is.foldl (fun y i => y.write ef i) (s.account x).2) :=
    (State.keeps_account s x).sameBut (sameBut_fold (fun i y => y.write ef i) (fun i y => y.sameBut_write ef i) is _)
  have hw := (wrote_fold is ef (s.account x).2 (fun i hi k hk => State.account_has s x i _ (hd i hi k hk)) (fun hb i hi => State.account_has s x i _ (h0 hb i hi))
    (fun i hi => by rw [account_fibre?_eq, Option.isSome_map]; exact h.live i (h.sub i hi)) h.nodup).ofAccount
  refine ⟨_, _, ?_, hk.unitOnly h.here ht, hk.advanced h.once, hw.after h.once, rfl⟩
  rw [regEffect, hz]

/-- Neither a charge nor the account of an issue depends on old contents. -/
theorem State.chargeMeet_oldParts (s : State) (m d n : Nat) (o : List OldPart) :
    State.chargeMeet { s with oldParts := o } m d n = { s.chargeMeet m d n with oldParts := o } := by
  have hm : State.meet? { s with oldParts := o } m = s.meet? m := rfl
  unfold State.chargeMeet
  rw [hm]
  cases s.meet? m with
  | none => rfl
  | some m =>
    dsimp only
    cases m.live <;> rfl

theorem State.account_oldParts (s : State) (x : Site) (o : List OldPart) :
    State.account { s with oldParts := o } x = ({ (s.account x).1 with oldParts := o }, (s.account x).2) := by
  unfold State.account State.charge
  rw [State.chargeMeet_oldParts]

theorem State.account_seePointer (u : UnitRef) (cl : ClusterRef) (k : Nat) :
    (s.seePointer u cl k).account x = ((s.account x).1.seePointer u cl k, (s.account x).2) := by
  refine (s.account_oldParts x _).trans ?_
  rw [State.account_fst]
  rfl

/-- Whether an instruction issues does not depend on old contents. -/
theorem Issues.seePointer {g : Guard} (h : Issues s x is g us) (u : UnitRef) (cl : ClusterRef) (k : Nat) : Issues (s.seePointer u cl k) x is g us where
  here := h.here
  once := h.once
  live := h.live
  known := h.known
  executing := h.executing
  nonempty := h.nonempty
  fields := h.fields
  values := h.values

/-! ### CPY.WAIT and CPY.PTR (R255) -/

/-- The operation of each mnemonic on the pointers of a channel. -/
def pointerOpOf : Mn → Option (Ext → State → Out)
  | .cpyWait => some opCpyWait
  | .cpyPtr => some opCpyPtr
  | .cpyPtrSt => some opCpyPtrSt
  | .cpyPtrClr => some opCpyPtrClr
  | _ => none

theorem exec_of_pointerOpOf {i : Instr} {m : Mn} {op : Ext → State → Out} (hi : i.shape = .form m e) (ho : pointerOpOf m = some op) (s : State) :
    exec i s = op e s := by
  cases i with
  | cpyWait | cpyPtr | cpyPtrSt | cpyPtrClr => cases hi; cases ho; rfl
  | _ => cases hi <;> cases ho

variable {k : Nat} {ch : Chan}

/-- An instruction on a channel that the team owns is its effect on it. -/
theorem chanOp_eq {v0 : Bool} (hk : s.ownChan x e.p = some k) (hch : s.chan? x.team.cl k = some ch) (h : Issues s x is e.guard us)
    (hv : v0 = true → ∀ i ∈ is, x.Knows i 0) (f : State → Site → List Nat → Nat → Chan → Out) :
    chanOp e us v0 s f = f (s.account x).1 (s.account x).2 is k ch := by
  have hown : (s.account x).1.ownChan (s.account x).2 e.p = some k := by
    rw [← hk, State.account_fst, State.account_snd]
    rfl
  have hchan : (s.account x).1.chan? (s.account x).2.team.cl k = some ch := by
    rw [← hch, State.account_fst, State.account_snd]
    rfl
  rw [chanOp, issue, issueWith_eq _ h (by rw [Site.barred, if_neg (fun hc => nomatch hc.1), if_neg nofun]) hv]
  simp only [hown, hchan]

theorem cpyWait_computes (hk : s.ownChan x e.p = some k) (hch : s.chan? x.team.cl k = some ch) (h : Issues s x is e.guard (readB e 1))
    (hw : (ch.w - wd (x.srcB (is.headD 0) e)).toNat < 2 ^ 31) : Computes (opCpyWait e s) (s.seePointer x.u x.team.cl k) x is nothing := by
  have hp := writes_computes (h.seePointer x.u x.team.cl k) (f := fun _ _ y => y) nothing (fun _ _ _ => rfl) (fun _ _ _ hk => nomatch hk) (fun hb => nomatch hb)
  rw [State.account_seePointer, regEffect, foldl_unchanged] at hp
  rw [opCpyWait, chanOp_eq hk hch h (v0 := false) nofun]
  simp only [account_srcB, holds, decide_eq_true hw, if_true, account_u, account_cl]
  exact hp

theorem cpyPtr_computes (hk : s.ownChan x e.p = some k) (hch : s.chan? x.team.cl k = some ch) (h : Issues s x is e.guard (readV0 :: useD e 1 :: readB e 1)) :
    Computes (opCpyPtr e s) (s.seePointer x.u x.team.cl k) x is { toD32 e (fun _ => ch.w.toNat) with
      bit := some (e.c.toNat % 32, fun _ => decide ((ch.w - wd (x.srcB (is.headD 0) e)).toNat < 2 ^ 31)) } := by
  have h0 : ∀ i ∈ is, x.Knows i 0 := fun i hi => h.values readV0 List.mem_cons_self rfl i hi 0 Nat.one_pos
  rw [opCpyPtr, chanOp_eq hk hch (h.mono fun u hu => List.mem_cons_of_mem _ hu) fun _ => h0]
  simp only [account_srcB, account_u, account_cl]
  have hp := writes_computes (h.seePointer x.u x.team.cl k)
    (f := fun _ i y => (y.dst32 i e ch.w.toNat).setGuard i (e.c.toNat % 32) (holds ch.w (wd (x.srcB (is.headD 0) e))))
    { toD32 e (fun _ => ch.w.toNat) with bit := some (e.c.toNat % 32, fun _ => decide ((ch.w - wd (x.srcB (is.headD 0) e)).toNat < 2 ^ 31)) }
    (fun _ _ _ => rfl) (fun i hi k hk => h.fields (useD e 1) (by simp) i hi k hk) (fun _ i hi => (h0 i hi).1)
  rw [State.account_seePointer] at hp
  exact hp

theorem cpyPtrSt_computes (hk : s.ownChan x e.p = some k) (hch : s.chan? x.team.cl k = some ch) (h : Issues s x is e.guard [useD e 1]) :
    Computes (opCpyPtrSt e s) s x is (toD32 e fun _ => (if ch.queue = [] then 0 else 1) + (if ch.err then 2 else 0)) := by
  rw [opCpyPtrSt, chanOp_eq hk hch h (v0 := false) nofun]
  exact writes_computes h (toD32 e fun _ => (if ch.queue = [] then 0 else 1) + (if ch.err then 2 else 0)) (fun _ _ _ => rfl)
    (fun i hi k hk => h.fields (useD e 1) (by simp) i hi k hk) (fun hb => nomatch hb)

theorem cpyPtrClr_spec (hk : s.ownChan x e.p = some k) (hch : s.chan? x.team.cl k = some ch) (h : Issues s x is e.guard [useD e 1]) :
    ∃ t y, opCpyPtrClr e s = .next t ∧ UnitOnly s t x y ∧ Advanced s x y ∧ Wrote x y is (toD32 e fun _ => ch.w.toNat) ∧
      t = { s with teams := t.teams, meets := t.meets, dies := (s.updChan x.team.cl k fun c => { c with err := false }).dies } := by
  rw [opCpyPtrClr, chanOp_eq hk hch h (v0 := false) nofun]
  have hb : s.Beside ((s.account x).1.updChan (s.account x).2.team.cl k fun c => { c with err := false }) x :=
    .of_teams (account_cur s x) (account_teams s x) (State.account_meet? s x)
  obtain ⟨u, y, hu, hunit, hadv, hw, hrest⟩ := writes_beside h hb (f := fun _ i y => y.dst32 i e ch.w.toNat) (toD32 e fun _ => ch.w.toNat) (fun _ _ _ => rfl)
    (fun i hi k hk => h.fields (useD e 1) (by simp) i hi k hk) (fun hb => nomatch hb)
  refine ⟨u, y, hu, hunit, hadv, hw, ?_⟩
  rw [hrest, State.account_fst, account_cl]
  rfl

end

/-- Settles O32: each instruction by its own lemma. -/
theorem copyPointerInstructions : Obligations.CopyPointerInstructions := by
  intro i e s x is k ch hk hch
  refine ⟨fun hi h hw => ?_, fun hi h => ?_, fun hi h => ?_, fun hi h => ?_⟩
  · rw [exec_of_pointerOpOf hi rfl]
    exact cpyWait_computes hk hch h hw
  · rw [exec_of_pointerOpOf hi rfl]
    exact cpyPtr_computes hk hch h
  · rw [exec_of_pointerOpOf hi rfl]
    exact cpyPtrSt_computes hk hch h
  · rw [exec_of_pointerOpOf hi rfl]
    exact cpyPtrClr_spec hk hch h

end Sys2Proof.Machine
end

section
/-!
SUPPORT. Swaps and rotation of the heats of a track (R39): what a change of one unit's heat leaves of every unit's.
-/

namespace Sys2Proof.Machine

section
variable {s : State} {u v : UnitRef} {h : Heat}

/-! ### The heat of a unit -/

/-- The heat that a unit is. -/
def State.heatOf (s : State) (u : UnitRef) : Option Heat := (s.site? u).map Site.heat

theorem State.heatOf_eq : s.heatOf u = (s.team? u.team).bind fun t => t.heat? u.who := by
  rw [State.heatOf, State.site?]
  cases s.team? u.team with
  | none => rfl
  | some t =>
    rw [Option.bind_some, Option.bind_some]
    cases t.heat? u.who <;> rfl

/-- A unit with a heat is there, with that heat. -/
theorem State.site?_of_heatOf (hu : s.heatOf u = some h) : ∃ y, s.site? u = some y ∧ y.heat = h := by
  rw [State.heatOf, Option.map_eq_some_iff] at hu
  exact hu

theorem State.heatOf_of_site? {x : Site} (hx : s.site? u = some x) : s.heatOf u = some x.heat := by rw [State.heatOf, hx]; rfl

/-- A change of a heat keeps its place in its team. -/
def KeepsPlace (f : Heat → Heat) : Prop := ∀ h, (f h).squad = h.squad ∧ (f h).idx = h.idx

theorem State.updHeat_rest (s : State) (u : UnitRef) (f : Heat → Heat) : s.updHeat u f = { s with teams := (s.updHeat u f).teams } := by
  unfold State.updHeat
  cases s.site? u <;> rfl

theorem State.heatOf_updHeat (hu : s.heatOf u = some h) {f : Heat → Heat} (hf : KeepsPlace f) : (s.updHeat u f).heatOf u = some (f h) := by
  obtain ⟨x, hx, rfl⟩ := State.site?_of_heatOf hu
  obtain ⟨hs, -, -⟩ := State.put_spec (y := { x with heat := f x.heat }) hx rfl rfl rfl rfl (hf _).1 (hf _).2
  rw [State.updHeat, hx, State.heatOf, hs]
  rfl

theorem State.heatOf_updHeat_other (hv : v ≠ u) {f : Heat → Heat} (hf : KeepsPlace f) : (s.updHeat u f).heatOf v = s.heatOf v := by
  cases hx : s.site? u with
  | none => rw [State.updHeat, hx]
  | some x =>
    obtain ⟨hxu, hteam, -, hid⟩ := State.site?_some hx
    obtain ⟨hs, hunits, hteams⟩ := State.put_spec (y := { x with heat := f x.heat }) hx rfl rfl rfl rfl (hf _).1 (hf _).2
    rw [State.updHeat, hx]
    dsimp only
    rw [State.heatOf_eq, State.heatOf_eq]
    by_cases ht : v.team = u.team
    · have hw : v.who ≠ u.who := by
        intro hw
        cases u
        cases v
        exact hv (congr (congrArg UnitRef.mk ht) hw)
      rw [ht, (State.site?_some hs).2.1, hteam]
      exact hunits v.who hw
    · rw [hteams v.team (hid ▸ ht)]

theorem State.heatOf_count (id c n : Nat) : (s.updTeam id fun t => t.count c n).heatOf v = s.heatOf v := by
  rw [State.updTeam]
  cases ht : s.team? id with
  | none => rfl
  | some t =>
    have hid : t.id = id := by simpa using List.find?_some ht
    rw [State.heatOf_eq, State.heatOf_eq]
    by_cases hv : v.team = id
    · have hset : (s.setTeam (t.count c n)).team? id = some (t.count c n) := by
        have hc : (t.count c n).id = id := hid
        have hset := State.team?_setTeam s (t.count c n) t (by rw [hc]; exact ht)
        rwa [hc] at hset
      rw [hv, hset, ht]
      rfl
    · rw [State.team?_setTeam_other s (t.count c n) v.team (fun hc => hv (hc.trans hid))]

theorem State.updTeam_rest (s : State) (id : Nat) (f : Team → Team) : s.updTeam id f = { s with teams := (s.updTeam id f).teams } := by
  unfold State.updTeam
  cases s.team? id <;> rfl

/-! ### Entering and leaving the active set -/

/-- A heat as it enters the active set. -/
def Heat.entersActive (h : Heat) (n now : Nat) : Heat := { h with active := true, age := n, since := n, sinceAt := now, run := 0, ready := none }

/-- A heat as it enters the pending set. -/
def Heat.entersPending (h : Heat) (n now : Nat) : Heat := { h with active := false, since := n, sinceAt := now, run := 0, ready := none }

theorem State.enterActive_rest (s : State) (u : UnitRef) : s.enterActive u = { s with teams := (s.enterActive u).teams, nextId := s.nextId + 1 } :=
  State.updHeat_rest { s with nextId := s.nextId + 1 } u _

theorem State.heatOf_enterActive (hu : s.heatOf u = some h) : (s.enterActive u).heatOf u = some (h.entersActive s.nextId s.now) :=
  State.heatOf_updHeat (s := { s with nextId := s.nextId + 1 }) hu fun _ => ⟨rfl, rfl⟩

theorem State.heatOf_enterActive_other (hv : v ≠ u) : (s.enterActive u).heatOf v = s.heatOf v :=
  State.heatOf_updHeat_other (s := { s with nextId := s.nextId + 1 }) hv fun _ => ⟨rfl, rfl⟩

theorem State.leaveActive_rest (s : State) (u : UnitRef) : s.leaveActive u = { s with teams := (s.leaveActive u).teams, nextId := s.nextId + 1 } := by
  have hp : s.enterPending u = { s with teams := (s.enterPending u).teams, nextId := s.nextId + 1 } := State.updHeat_rest { s with nextId := s.nextId + 1 } u _
  have hc := State.updTeam_rest (s.enterPending u) u.team fun t => t.count 5 1
  rw [State.leaveActive]
  generalize (s.enterPending u).updTeam u.team _ = t at hc
  rw [hc, hp]

theorem State.heatOf_leaveActive (hu : s.heatOf u = some h) : (s.leaveActive u).heatOf u = some (h.entersPending s.nextId s.now) :=
  (State.heatOf_count ..).trans (State.heatOf_updHeat (s := { s with nextId := s.nextId + 1 }) hu fun _ => ⟨rfl, rfl⟩)

theorem State.heatOf_leaveActive_other (hv : v ≠ u) : (s.leaveActive u).heatOf v = s.heatOf v :=
  (State.heatOf_count ..).trans (State.heatOf_updHeat_other (s := { s with nextId := s.nextId + 1 }) hv fun _ => ⟨rfl, rfl⟩)

/-! ### Choosing -/

theorem foldl_least_mem {α : Type} (f : α → Nat) : ∀ (r : List α) (b : α), r.foldl (fun b c => if f c < f b then c else b) b ∈ b :: r
  | [], b => List.mem_cons_self
  | c :: r, b => by
    rw [List.foldl_cons]
    obtain hm | hm := List.mem_cons.mp (foldl_least_mem f r (if f c < f b then c else b))
    · rw [hm]
      split
      · exact List.mem_cons_of_mem _ List.mem_cons_self
      · exact List.mem_cons_self
    · exact List.mem_cons_of_mem _ (List.mem_cons_of_mem _ hm)

theorem longest_mem {xs : List Site} {p : Site} (hp : longest xs = some p) : p ∈ xs := by
  cases xs with
  | nil => cases hp
  | cons a r =>
    cases hp
    exact foldl_least_mem _ r a

theorem State.mem_pendingOn {l : Lane} {p : Site} (hp : p ∈ s.pendingOn l) : p.heat.active = false := by
  have hb := (List.mem_filter.mp hp).2
  rw [Bool.and_eq_true, Bool.not_eq_true'] at hb
  exact hb.1

theorem State.mem_activeOn {l : Lane} {p : Site} (hp : p ∈ s.activeOn l) : p.heat.active = true := (List.mem_filter.mp hp).2

/-- A pending heat and an active one are two units. -/
theorem unit_ne {p a : Site} (hp : s.site? p.u = some p) (ha : s.site? a.u = some a) (hf : p.heat.active = false) (ht : a.heat.active = true) :
    p.u ≠ a.u := by
  intro hu
  rw [hu, ha] at hp
  cases hp
  rw [hf] at ht
  cases ht

/-- A pending heat takes the place of an active one. -/
theorem State.swapHeats_spec {p a : Site} (hp : s.site? p.u = some p) (ha : s.site? a.u = some a) (hne : p.u ≠ a.u) :
    s.swapHeats a p = { s with teams := (s.swapHeats a p).teams, nextId := s.nextId + 2 } ∧ ∃ y z, (s.swapHeats a p).site? p.u = some y ∧
      (s.swapHeats a p).site? a.u = some z ∧ y.heat = p.heat.entersActive (s.nextId + 1) s.now ∧ z.heat = a.heat.entersPending s.nextId s.now := by
  have hl := s.leaveActive_rest a.u
  have hpl : (s.leaveActive a.u).heatOf p.u = some p.heat := (State.heatOf_leaveActive_other hne).trans (State.heatOf_of_site? hp)
  have hal := State.heatOf_leaveActive (State.heatOf_of_site? ha)
  have he := (s.leaveActive a.u).enterActive_rest p.u
  obtain ⟨y, hy, hyh⟩ := State.site?_of_heatOf (State.heatOf_enterActive hpl)
  obtain ⟨z, hz, hzh⟩ := State.site?_of_heatOf ((State.heatOf_enterActive_other (s := s.leaveActive a.u) hne.symm).trans hal)
  have hn : (s.leaveActive a.u).nextId = s.nextId + 1 := by rw [hl]
  have hnow : (s.leaveActive a.u).now = s.now := by rw [hl, State.now, State.now]
  refine ⟨?_, y, z, hy, hz, ?_, hzh⟩
  · rw [State.swapHeats]
    generalize (s.leaveActive a.u).enterActive p.u = t at he
    rw [he, hl]
  · rw [hyh, hn, hnow]

end

/-- Settles O53: each swap by what entering and leaving the active set leaves of the two heats, and the rotation. -/
theorem swapsAndRotation : Obligations.SwapsAndRotation := by
  intro s cl core track p a hr hp ha
  have hrun (e : State → Out) : (if s.runsOn cl.die = true then e s else .next s) = e s := if_pos hr
  refine ⟨fun hpl hal => ?_, fun hn => ?_, fun hpl hlt => ?_, fun hpl hle hb => ?_, fun hf hex => ?_⟩
  · have hne := unit_ne hp ha (State.mem_pendingOn (List.mem_filter.mp (longest_mem hpl)).1) (State.mem_activeOn (longest_mem hal))
    refine ⟨_, (hrun (opForcedSwap cl core track)).trans ?_, State.swapHeats_spec hp ha hne⟩
    rw [opForcedSwap]
    simp only [hpl, hal]
  · refine (hrun (opPendingSwap cl core track)).trans ?_
    rw [opPendingSwap]
    simp only [hn]
  · obtain ⟨y, hy, hyh⟩ := State.site?_of_heatOf (State.heatOf_enterActive (State.heatOf_of_site? hp))
    refine ⟨_, y, (hrun (opPendingSwap cl core track)).trans ?_, s.enterActive_rest p.u, hy, hyh⟩
    rw [opPendingSwap]
    simp only [hpl, if_pos hlt]
  · have hne := unit_ne hp ha (State.mem_pendingOn (longest_mem hpl)) (State.mem_activeOn (List.mem_of_find?_eq_some hb))
    refine ⟨_, (hrun (opPendingSwap cl core track)).trans ?_, State.swapHeats_spec hp ha hne⟩
    rw [opPendingSwap]
    simp only [hpl, if_neg (Nat.not_lt.mpr hle), hb]
  · obtain ⟨b, hb, hbu, hbr⟩ := hex
    obtain ⟨y, hy, hyh⟩ := State.site?_of_heatOf (State.heatOf_updHeat (s := { s with nextId := s.nextId + 1 }) (State.heatOf_of_site? ha)
      (f := fun h => { h with age := s.nextId, run := 0 }) fun _ => ⟨rfl, rfl⟩)
    refine ⟨_, y, (hrun (opRotation cl core track)).trans ?_, State.updHeat_rest { s with nextId := s.nextId + 1 } a.u _, hy, hyh⟩
    rw [opRotation]
    simp only [hf]
    rw [if_pos (List.any_eq_true.mpr ⟨b, hb, decide_eq_true ⟨hbu, hbr⟩⟩)]

end Sys2Proof.Machine
end

section
/-!
SUPPORT. Taking a trap and returning from one (R316, R317, R351 to R353).
-/

namespace Sys2Proof.Machine

section
variable {s : State} {x : Site} {is : List Nat} {e : Ext} {us : List Use} {tv : DWord} {resume : Nat → Pc} {p d : Bool} {r : TrapRec}

/-! ### Entering the handler -/

/-- The fibres of a unit that takes a trap. -/
def Site.entering (x : Site) (tv : DWord) (is : List Nat) (resume : Nat → Pc) : Site :=
  is.foldl (fun x i => x.updFibre i fun f => f.entered (resume i) tv) x

theorem Site.each_entering (x : Site) (tv : DWord) (hn : is.Nodup) (resume : Nat → Pc) :
    x.Each (x.entering tv is resume) fun k f => if k ∈ is then f.entered (resume k) tv else f :=
  Site.each_foldl (f := fun i f => f.entered (resume i) tv) (fun y i => y.each_updFibre i _) hn x

theorem Site.enter_eq (x : Site) (hn : is.Nodup) : x.enter tv is resume p d r = { x with
    team := { x.unwaitX is with lost := 0 }
    heat := { x.heat with
      fibres := (x.entering tv is resume).heat.fibres, tcause := tcauseOf x.team.lost p d r, tpc := r.pc.setWidth 64, tinfo := r.info
      waiting := false, long := false } } := by
  have hr := (x.each_entering tv hn resume).rest
  have he : x.enter tv is resume p d r = { x.entering tv is resume with
      team := { x.unwaitX is with lost := 0 }
      heat := { (x.entering tv is resume).heat with
        tcause := tcauseOf x.team.lost p d r, tpc := r.pc.setWidth 64, tinfo := r.info, waiting := false, long := false } } := rfl
  rw [he]
  generalize x.entering tv is resume = y at hr ⊢
  rw [hr]

theorem Site.enter_fibre? (x : Site) (hn : is.Nodup) (k : Nat) : (x.enter tv is resume p d r).heat.fibre? k =
    (x.heat.fibre? k).map fun f => if k ∈ is then f.entered (resume k) tv else f := by
  rw [x.enter_eq hn]
  exact (x.each_entering tv hn resume).fibres k

/-- A heat is in handler state when one of its fibres is. -/
theorem Heat.inHandler_iff (h : Heat) : h.inHandler = true ↔ ∃ k f, h.fibre? k = some f ∧ f.handler = true := by
  rw [Heat.inHandler, List.any_eq_true]
  constructor
  · rintro ⟨o, ho, hf⟩
    cases o with
    | none => cases hf
    | some f =>
      obtain ⟨k, hk⟩ := List.mem_iff_getElem?.mp ho
      exact ⟨k, f, by rw [Heat.fibre?, hk]; rfl, hf⟩
  · rintro ⟨k, f, hk, hf⟩
    rw [Heat.fibre?, Option.join_eq_some_iff] at hk
    exact ⟨some f, List.mem_iff_getElem?.mpr ⟨k, hk⟩, hf⟩

/-- Whether a heat is in handler state depends on its fibres' marks. -/
theorem Heat.inHandler_congr {g h : Heat} (hf : ∀ k, (g.fibre? k).map Fibre.handler = (h.fibre? k).map Fibre.handler) : g.inHandler = h.inHandler := by
  have hi : ∀ {g h : Heat}, (∀ k, (g.fibre? k).map Fibre.handler = (h.fibre? k).map Fibre.handler) → g.inHandler = true → h.inHandler = true := by
    intro g h hf hg
    obtain ⟨k, f, hk, hh⟩ := g.inHandler_iff.mp hg
    have hm := hf k
    rw [hk, Option.map_some, eq_comm, Option.map_eq_some_iff] at hm
    obtain ⟨b, hb, hbf⟩ := hm
    exact h.inHandler_iff.mpr ⟨k, b, hb, hbf.trans hh⟩
  exact Bool.eq_iff_iff.mpr ⟨hi hf, hi fun k => (hf k).symm⟩

/-- What a trap taken by its handler leaves: the unit has entered it. -/
theorem State.takeTrap_eq (hh : x.heat.inHandler = false) (ht : s.tvec x.team.ctx ≠ 0) :
    s.takeTrap x is resume r = s.put (x.enter (s.tvec x.team.ctx) is resume x.isPacer false r) := by
  rw [State.takeTrap, if_neg]
  rintro (hc | hc)
  · rw [hh] at hc
    cases hc
  · exact ht hc

/-- A batch that leaves its XLOCK takes no register of the extended set with it. -/
theorem Site.unwaitX_regs (x y : Site) (hu : y.u = x.u) (ht : y.team.xsets = (x.unwaitX is).xsets) : y.xset?.map XSet.regs = x.xset?.map XSet.regs := by
  rw [Site.xset?, Site.xset?, ht, Site.unwaitX, Site.squad, Site.heatNo, hu, List.find?_map, Option.map_map]
  have hregs : ∀ f : XSet → XSet, (∀ q, (f q).regs = q.regs ∧ (f q).squad = q.squad ∧ (f q).low = q.low) → ∀ (p : Nat → Nat → Bool) (l : List XSet),
      (l.find? ((fun e => p e.squad e.low) ∘ f)).map (XSet.regs ∘ f) = (l.find? fun e => p e.squad e.low).map XSet.regs := by
    intro f hf p l
    have hp : (fun e : XSet => p e.squad e.low) ∘ f = fun e => p e.squad e.low := funext fun q => by rw [Function.comp, (hf q).2.1, (hf q).2.2]
    rw [hp]
    exact congrArg (Option.map · _) (funext fun q => (hf q).1)
  refine hregs _ (fun q => ?_) (fun a b => decide (a = _ ∧ b = _)) _
  split <;> exact ⟨rfl, rfl, rfl⟩

/-- A trap changes no register. -/
theorem Site.slot_enter (x : Site) (hn : is.Nodup) (k r' : Nat) : (x.enter tv is resume p d r).slot k r' = x.slot k r' := by
  have hteam : Site.slot { x with team := { x.unwaitX is with lost := 0 } } k r' = x.slot k r' :=
    Site.slot_of_regs (x := x) (y := { x with team := { x.unwaitX is with lost := 0 } }) rfl
      (x.unwaitX_regs (is := is) { x with team := { x.unwaitX is with lost := 0 } } rfl rfl) k r'
  refine (Site.slot_congr { x with team := { x.unwaitX is with lost := 0 } } _ k r' (by rw [x.enter_eq hn]) ?_ (by rw [x.enter_eq hn])).trans hteam
  rw [x.enter_fibre? hn, Option.map_map]
  refine congrArg (Option.map · _) (funext fun f => ?_)
  dsimp only [Function.comp]
  split <;> rfl

/-! ### A precise trap of the issuing unit (R351, R352) -/

theorem account_tvec (c : Nat) : (s.account x).1.tvec c = s.tvec c := by rw [State.tvec, State.ctx?, account_ctxs, State.tvec, State.ctx?]

/-- The issuing unit, after a change of its fibres that leaves their marks, takes a precise trap. -/
theorem State.takeTrap_own {z : Site} {g : Nat → Fibre → Fibre} (h : s.here = some x) (hz : (s.account x).2.Each z g)
    (hg : ∀ k f, (g k f).handler = f.handler) (hn : is.Nodup) (hh : x.heat.inHandler = false) (ht : s.tvec x.team.ctx ≠ 0) :
    ∃ y, Own s ((s.account x).1.takeTrap z is resume r) x y ∧ y.heat.tcause = tcauseOf x.team.lost x.isPacer false r ∧
      y.heat.tpc = r.pc.setWidth 64 ∧ y.heat.tinfo = r.info ∧ (∀ k q, y.slot k q = z.slot k q) ∧
      ∀ k, y.heat.fibre? k = (x.heat.fibre? k).map fun f =>
        if k ∈ is then (g k (Fibre.issuedBy s x k f)).entered (resume k) (s.tvec x.team.ctx) else g k (Fibre.issuedBy s x k f) := by
  have hr := hz.rest
  rw [State.account_snd] at hr
  have hctx : (s.account x).1.tvec z.team.ctx = s.tvec x.team.ctx := by rw [account_tvec, hr]
  have hpacer : z.isPacer = x.isPacer := by rw [hr]; rfl
  have hlost : z.team.lost = x.team.lost := by rw [hr]
  have hin : z.heat.inHandler = false := by
    rw [← hh]
    refine Heat.inHandler_congr fun k => ?_
    rw [hz.fibres, account_fibre?_eq, Option.map_map, Option.map_map]
    exact congrArg (Option.map · _) (funext fun f => hg k _)
  rw [State.takeTrap_eq hin (by rw [hctx]; exact ht), hctx, hpacer]
  have he := z.enter_eq (tv := s.tvec x.team.ctx) (resume := resume) (p := x.isPacer) (d := false) (r := r) hn
  have hf := z.enter_fibre? (tv := s.tvec x.team.ctx) (resume := resume) (p := x.isPacer) (d := false) (r := r) hn
  have hs := z.slot_enter (tv := s.tvec x.team.ctx) (resume := resume) (p := x.isPacer) (d := false) (r := r) hn
  generalize z.enter (s.tvec x.team.ctx) is resume x.isPacer false r = w at he hf hs ⊢
  refine ⟨w.putBack, State.put_own h ?_ ?_ ?_ ?_ ?_ ?_, ?_, ?_, ?_, fun k q => ?_, fun k => ?_⟩
  · rw [he, hr]
  · rw [he, hr, Site.unwaitX]
  · rw [he, hr, Site.unwaitX]
  · rw [he, hr, Site.unwaitX]
  · rw [he, hr]
  · rw [he, hr]
  · rw [Site.putBack, he, hlost]
  · rw [Site.putBack, he]
  · rw [Site.putBack, he]
  · exact (Site.slot_congr w w.putBack k q rfl rfl (Team.setHeat_xsets _ _ _)).trans (hs k q)
  · change w.heat.fibre? k = _
    rw [hf, hz.fibres, account_fibre?_eq, Option.map_map, Option.map_map]
    rfl

/-- A precise trap of an issue that has had no other effect. -/
theorem trapped_account (h : s.here = some x) (hn : is.Nodup) (hb : ∀ i ∈ is, i ∈ s.cur.batch) (hh : x.heat.inHandler = false) (ht : s.tvec x.team.ctx ≠ 0) (c : Byte) (fib : Nat)
    (info : DWord) : Trapped ((s.account x).1.trap (s.account x).2 is c fib info) s x is c fib info := by
  obtain ⟨y, hown, hc, hp, hi, hs, hf⟩ := State.takeTrap_own (resume := fun _ => s.cur.pc)
    (r := { cause := c, inner := 0, fibre := fib, pc := s.cur.pc, info := info }) h (Site.Each.refl _) (fun _ _ => rfl) hn hh ht
  refine ⟨_, y, ?_, hown, hc, hp, hi, fun k q => (hs k q).trans (account_slot s x k q), fun k => (hf k).trans (congrArg (Option.map · _) (funext fun f => ?_))⟩
  · rw [State.trap, account_cur]
  · by_cases hk : k ∈ is
    · have hw : Site.waitsOf s k f = false := if_pos (hb k hk)
      rw [if_pos hk, if_pos hk, hw]
      rfl
    · rw [if_neg hk, if_neg hk]
      rfl

end

end Sys2Proof.Machine

namespace Sys2Proof.Tests

open Sys2Proof Sys2Proof.Machine

/-- The bench with a trap vector, the address of the issue beside the place of the fibre that issues. -/
def astray : State := { trapping s1 with cur := { s1.cur with pc := 8 } }

theorem astray_issues : Issues astray x1 [0] .always [] := issues_of (by decide +kernel) (by decide +kernel)

/-- The resume address of fibre 0 of the bench's unit after an outcome. -/
def epcAfter (o : Out) : Option DWord :=
  match o with
  | .next t => (t.site? astray.cur.u).bind fun y => (y.heat.fibre? 0).map Fibre.epc
  | _ => none

/-- The model resumes behind the address that issued. -/
theorem epcAfter_astray : epcAfter (exec (.trap 5) astray) = some 12 := by decide +kernel

end Sys2Proof.Tests

namespace Sys2Proof.Machine

open Sys2Proof.Tests

/-- Refutes O43: where the fibre stands at 0 and the issue is of address 8, TRAP resumes it at 12, behind the issue, and not at 4, behind the place where it
stands; nothing in the statement says that a batch stands at the address that issues. -/
theorem not_trapsAndReturns : ¬ Obligations.TrapsAndReturns := by
  intro h
  obtain ⟨-, -, htrap, -⟩ := h
  obtain ⟨t, y, he, hown, -, -, -, -, hf⟩ := htrap (.trap 5) .trap _ cause.software astray x1 [0] rfl rfl astray_issues (by decide +kernel) (by decide +kernel)
  have h4 : epcAfter (exec (.trap 5) astray) = some 4 := by
    rw [he, epcAfter, hown.here, Option.bind_some, hf 0]
    decide +kernel
  rw [epcAfter_astray] at h4
  exact absurd h4 (by decide)

end Sys2Proof.Machine
end

section
/-!
SUPPORT. The checks before an instruction takes effect (R167, R185, R223, R224): each that fails is a precise trap.
-/

namespace Sys2Proof.Machine

/-- The operation of each mnemonic of loads, stores and caches. -/
def memoryOpOf : Mn → Option (Ext → State → Out)
  | .ld => some opLd
  | .ldx => some opLdx
  | .st => some opSt
  | .stx => some opStx
  | .pref => some opPref
  | .flush => some opFlush
  | .flushInv => some opFlushInv
  | .pgarm => some opPgarm
  | _ => none

theorem exec_of_memoryOpOf {i : Instr} {m : Mn} {e : Ext} {op : Ext → State → Out} (hi : i.shape = .form m e) (ho : memoryOpOf m = some op)
    (s : State) : exec i s = op e s := by
  cases i with
  | ld | ldExt | ldx | st | stExt | stx | pref | prefExt | flush | flushExt | flushInv | flushInvExt | pgarm => cases hi; cases ho; rfl
  | _ => cases hi <;> cases ho

/-- The operation of each privileged mnemonic. -/
def privilegedOpOf : Mn → Option (Ext → State → Out)
  | .bankcfg => some opBankcfg
  | .awset => some opAwset
  | _ => none

theorem exec_of_privilegedOpOf {i : Instr} {m : Mn} {e : Ext} {op : Ext → State → Out} (hi : i.shape = .form m e) (ho : privilegedOpOf m = some op)
    (s : State) : exec i s = op e s := by
  cases i with
  | bankcfg | awset => cases hi; cases ho; rfl
  | _ => cases hi <;> cases ho

section
variable {s : State} {x : Site} {is : List Nat} {g : Guard} {d : Demand} {us : List Use}

/-! ### What a failed check comes to -/

/-- A fibre that is not permitted (R167). -/
theorem issueWith_barred {pass : Site → Nat → Bool} {k : Nat} (h : Issues s x is g us) (hb : x.barred d is = some k) (eff : State → Site → List Nat → Out) :
    issueWith pass g d s eff = (s.account x).1.trap (s.account x).2 is cause.privileged k (s.cur.word0.setWidth 64) := by
  have hne : is.isEmpty = false := List.isEmpty_eq_false_iff.mpr h.nonempty
  simp only [issueWith, issueOn, h.here, h.guardGate, h.executing, hne, Bool.false_eq_true, if_false, hb, account_cur]

/-- A register that is not there (R185). -/
theorem issueWith_field {pass : Site → Nat → Bool} {t : TrapRec} (h : Issues s x is g us) (hb : x.barred d is = none)
    (hf : x.fieldsCheck s.cur.pc is d.uses = some t) (eff : State → Site → List Nat → Out) :
    issueWith pass g d s eff = (s.account x).1.trapWith (s.account x).2 is t := by
  have hne : is.isEmpty = false := List.isEmpty_eq_false_iff.mpr h.nonempty
  simp only [issueWith, issueOn, h.here, h.guardGate, h.executing, hne, Bool.false_eq_true, if_false, hb, hf]

theorem head?_eq_headD (h : is ≠ []) : is.head? = some (is.headD 0) := by
  cases is with
  | nil => exact absurd rfl h
  | cons => rfl

theorem Site.barred_leader (hl : d.leader = true) (hx : x.leads is = false) (hne : is ≠ []) : x.barred d is = some (is.headD 0) := by
  rw [Site.barred, if_pos ⟨hl, hx⟩, head?_eq_headD hne]

theorem Site.barred_handler (hl : d.leader = false) (hd : d.handler = true) (hx : ∀ k ∈ is, x.handling [k] = false) (hne : is ≠ []) :
    x.barred d is = some (is.headD 0) := by
  rw [Site.barred, if_neg (by rw [hl]; exact fun hc => nomatch hc.1), if_pos hd]
  cases is with
  | nil => exact absurd rfl hne
  | cons i r => exact List.find?_cons_of_pos (by rw [hx i List.mem_cons_self]; rfl)

/-- The first register of the first field fails in a batch of one fibre. -/
theorem Site.fieldsCheck_first {k r n : Nat} {c : Byte} (hc : x.regCheck k r = some c) (hn : 0 < n) (pc : Pc) (rd : Bool) :
    x.fieldsCheck pc [k] ({ reg := r, n := n, rd := rd } :: us) = some { cause := c, inner := 0, fibre := k, pc := pc, info := dw r } := by
  obtain ⟨n, rfl⟩ := Nat.exists_eq_succ_of_ne_zero hn.ne'
  have hf : x.fieldCheck k r (n + 1) = some (c, r) := by rw [Site.fieldCheck, hc]
  rw [Site.fieldsCheck, List.findSome?_cons, List.findSome?_cons, hf]
  rfl

/-! ### Register traps of integer arithmetic (R55, R59, R185) -/

/-- Integer arithmetic checks its destination first. -/
theorem integer_issues {i : Instr} {m : Mn} {e : Ext} {f : Effect} (hi : i.shape = .form m e) (hr : integerResult m e x = some (us, f)) (s : State) :
    ∃ (pass : Site → Nat → Bool) (vs : List Use) (eff : State → Site → List Nat → Out),
      exec i s = issueWith pass e.guard (demand (useD e e.ty.regs :: vs)) s eff := by
  cases m with
  | add | sub | mul | neg | abs | min | max | mulh | mad | div | rem =>
    rw [exec_of_scalarOpOf hi rfl]
    exact ⟨_, _, _, rfl⟩
  | _ => cases hr

theorem integer_register_trap {i : Instr} {m : Mn} {e : Ext} {f : Effect} {k : Nat} {c : Byte} (hi : i.shape = .form m e)
    (hr : integerResult m e x = some (us, f)) (h : Issues s x [k] e.guard []) (hh : x.heat.inHandler = false) (ht : s.tvec x.team.ctx ≠ 0)
    (hc : x.regCheck k e.d.toNat = some c) : Trapped (exec i s) s x [k] c k (dw e.d.toNat) := by
  obtain ⟨pass, vs, eff, he⟩ := integer_issues hi hr s
  have hf : x.fieldsCheck s.cur.pc [k] (demand (useD e e.ty.regs :: vs)).uses = _ := Site.fieldsCheck_first hc (Ty.regs_pos _) s.cur.pc false
  rw [he, issueWith_field h (Site.barred_demand ..) hf]
  have hp := trapped_account h.here h.nodup h.sub hh ht c k (dw e.d.toNat)
  rw [State.trap, account_cur] at hp
  rw [State.trapWith, account_cur]
  exact hp

/-! ### Addresses (R99, R224) -/

theorem account_check (s : State) (x : Site) (i a n k : Nat) : (s.account x).2.check i a n k = x.check i a n k := by
  rw [State.account_snd]
  rfl

theorem account_badAddress (s : State) (x : Site) (n k : Nat) (as : List (Nat × Nat)) : (s.account x).2.badAddress n k as = x.badAddress n k as := by
  rw [State.account_snd]
  rfl

@[simp] theorem account_ea (s : State) (x : Site) (i : Nat) (e : Ext) : (s.account x).2.ea i e = x.ea i e := by simp [Site.ea, Site.offset]

variable {e : Ext}

/-- LD of a plain type whose address fails a check. -/
theorem ldPlain_trap {k a : Nat} {c : Byte} (h : Issues s x is e.guard (useD e e.ty.regs :: usesEa e)) (ho : ordOf e ≠ 3)
    (hb : x.badAddress (memBytes e.ty) (memBytes e.ty) (is.map fun j => (j, x.ea j e)) = some (k, a, c)) :
    ldPlain e s = (s.account x).1.trap (s.account x).2 is c k (dw a) := by
  rw [ldPlain]
  simp only [if_neg ho, List.append_nil]
  rw [issue_eq h, account_badAddress]
  simp only [account_ea, hb]

theorem opSt_trap {k a : Nat} {c : Byte} (h : Issues s x is e.guard (readD e e.ty.regs :: usesEa e))
    (hb : x.badAddress (memBytes e.ty) (memBytes e.ty) (is.map fun j => (j, x.ea j e)) = some (k, a, c)) :
    opSt e s = (s.account x).1.trap (s.account x).2 is c k (dw a) := by
  rw [opSt, issue_eq h, account_badAddress]
  simp only [account_ea, hb]

end

/-- Settles O9: each failed check comes to the trap of the accounted issue. -/
theorem checksRaiseTraps : Obligations.ChecksRaiseTraps := by
  intro s x is hh ht
  refine ⟨fun ws c hg h => ?_, fun i m e hi hm h hl => ?_, fun i m e hi hm h hk => ?_, ?_, ?_⟩
  · have he : s.decodeTrap ws c = (s.account x).1.trap (s.account x).2 is c (is.headD 0) (s.cur.word0.setWidth 64) := by
      rw [State.decodeTrap, hg]
      exact (issue_eq h _).trans (by rw [account_cur])
    rw [he]
    exact trapped_account h.here h.nodup h.sub hh ht _ _ _
  · have hp := trapped_account h.here h.nodup h.sub hh ht cause.privileged (is.headD 0) (s.cur.word0.setWidth 64)
    obtain rfl | rfl | ⟨rfl, hs⟩ := hm
    · rw [exec_of_privilegedOpOf hi rfl, opBankcfg, issue, issueWith_barred h (Site.barred_leader rfl hl h.nonempty)]
      exact hp
    · rw [exec_of_privilegedOpOf hi rfl, opAwset, issue, issueWith_barred h (Site.barred_leader rfl hl h.nonempty)]
      exact hp
    · rw [exec_of_systemOpOf hi rfl, opSyswr, issue, issueWith_barred h (Site.barred_leader hs hl h.nonempty)]
      exact hp
  · have hp := trapped_account h.here h.nodup h.sub hh ht cause.privileged (is.headD 0) (s.cur.word0.setWidth 64)
    obtain rfl | ⟨rfl, hm⟩ := hm
    · rw [exec_of_systemOpOf hi rfl, opEret, issue, issueWith_barred h (Site.barred_handler rfl rfl hk h.nonempty)]
      exact hp
    · rw [exec_of_systemOpOf hi rfl, opSyswr, issue, issueWith_barred h (Site.barred_handler (by rw [hm]; rfl) (by rw [hm]; rfl) hk h.nonempty)]
      exact hp
  · rintro i m e k f us g hi hr rfl h hf
    refine ⟨fun h16 h128 hw => integer_register_trap hi hr h hh ht ?_, fun h128 hx => integer_register_trap hi hr h hh ht ?_⟩
    · rw [Site.regCheck, if_neg (Nat.not_lt.mpr h16), if_pos h128, hf]
      exact if_pos hw
    · rw [Site.regCheck, if_neg (by omega), if_neg (Nat.not_lt.mpr h128), if_neg (by rw [hx]; nofun)]
  · rintro i e k a c (⟨hi, hq, ho, h⟩ | ⟨hi, h⟩) hb
    · rw [exec_of_memoryOpOf hi rfl, opLd, if_neg hq, ldPlain_trap h ho hb]
      exact trapped_account h.here h.nodup h.sub hh ht _ _ _
    · rw [exec_of_memoryOpOf hi rfl, opSt_trap h hb]
      exact trapped_account h.here h.nodup h.sub hh ht _ _ _

end Sys2Proof.Machine
end

section
/-!
SUPPORT. What arrives, and what a team has waited for (R71, R72, R351 to R353).
-/

namespace Sys2Proof.Machine

section
variable {s : State} {x y : Site} {f : Flight} {i : Nat} {d : Deliv}

/-! ### Resolving the records of a tag -/

/-- What a record of a tag becomes. -/
def Flight.resolves (f : Flight) (d : Deliv) : Slot → Slot := Slot.resolve f.tag f.pc f.ord d

theorem Flight.resolves_val (f : Flight) (d : Deliv) (w : Word) : f.resolves d (.val w) = .val w := rfl

theorem Flight.resolves_other {b : Baton} (h : ¬(b.tag = f.tag ∧ b.st = .pending)) : f.resolves d (.bat b) = .bat b :=
  if_pos (not_and_or.mp h)

theorem Flight.resolves_words {b : Baton} {ws : List Word} (h : b.tag = f.tag ∧ b.st = .pending) : f.resolves (.words ws) (.bat b) = .val (b.value ws) :=
  if_neg (not_or.mpr ⟨not_not.mpr h.1, not_not.mpr h.2⟩)

theorem Flight.resolves_fault {b : Baton} {c : Byte} {info : DWord} (h : b.tag = f.tag ∧ b.st = .pending) :
    f.resolves (.fault c info) (.bat b) = .bat { b with a := 1, b := 0, chain := [], st := .fault c f.pc info f.ord } :=
  if_neg (not_or.mpr ⟨not_not.mpr h.1, not_not.mpr h.2⟩)

/-- A slot that holds no record of the tag stays. -/
theorem Flight.resolves_of_not {w : Slot} (h : ∀ b, w = .bat b → ¬(b.tag = f.tag ∧ b.st = .pending)) : f.resolves d w = w := by
  cases w with
  | val v => rfl
  | bat b => exact Flight.resolves_other (h b rfl)

/-- The base set of the fibre, and then its share of the extended set. -/
theorem Site.resolve_eq (x : Site) (f : Flight) (i : Nat) (d : Deliv) : x.resolve f i d =
    if x.holdsX then (x.updFibre i fun g => { g with regs := g.regs.map (f.resolves d) }).updX fun e => { e with regs := e.regs.modify i (List.map (f.resolves d)) }
    else x.updFibre i fun g => { g with regs := g.regs.map (f.resolves d) } := rfl

theorem Site.resolve_rest (x : Site) (f : Flight) (i : Nat) (d : Deliv) : x.resolve f i d = { x with
    team := { x.team with xsets := (x.resolve f i d).team.xsets }, heat := { x.heat with fibres := (x.resolve f i d).heat.fibres } } := by
  rw [Site.resolve_eq]
  split <;> rfl

theorem Site.holdsX_resolve (x : Site) (f : Flight) (i : Nat) (d : Deliv) : (x.resolve f i d).holdsX = x.holdsX := by
  rw [Site.resolve_eq]
  split
  · refine Site.holdsX_eq_of_xset? rfl ?_
    rw [Site.xset?_updX _ _ fun _ => by constructor <;> rfl, Option.bind_map]
    rfl
  · rfl

theorem getD_map_resolves (f : Flight) (d : Deliv) (l : List Slot) (n : Nat) : (l.map (f.resolves d)).getD n (.val 0) = f.resolves d (l.getD n (.val 0)) := by
  rw [← f.resolves_val d 0, List.getD_map, f.resolves_val d 0]

/-- Delivering to a fibre resolves its registers, those of the extended set if its heat holds it. -/
theorem Site.slot_resolve (x : Site) (f : Flight) (i : Nat) (d : Deliv) (k r : Nat) :
    (x.resolve f i d).slot k r = if k = i ∧ (r < 128 ∨ x.holdsX = true) then f.resolves d (x.slot k r) else x.slot k r := by
  have hf : (x.resolve f i d).heat.fibre? k = (x.heat.fibre? k).map fun g => if k = i then { g with regs := g.regs.map (f.resolves d) } else g := by
    rw [← (x.each_updFibre i _).fibres k, Site.resolve_eq]
    split <;> rfl
  have hx : (x.resolve f i d).xset? = x.xset?.map fun e => if x.holdsX then { e with regs := e.regs.modify i (List.map (f.resolves d)) } else e := by
    rw [Site.resolve_eq]
    split
    · rw [Site.xset?_updX _ _ fun _ => by constructor <;> rfl]
      rfl
    · exact (Option.map_id' ..).symm
  cases hk : x.heat.fibre? k with
  | none =>
    rw [hk, Option.map_none] at hf
    rw [Site.slot, hf, Site.slot, hk]
    exact (ite_self _).symm
  | some g =>
    rw [hk, Option.map_some] at hf
    rw [Site.slot_eq _ k r _ hf, Site.slot_eq _ k r _ hk]
    have hslot : Fibre.slotOf (if k = i then { g with regs := g.regs.map (f.resolves d) } else g) r = g.slotOf r := by split <;> rfl
    rw [hslot]
    by_cases hr : r < 128
    · rw [if_pos hr, if_pos hr]
      by_cases hki : k = i
      · rw [if_pos hki, if_pos ⟨hki, .inl hr⟩]
        exact getD_map_resolves ..
      · rw [if_neg hki, if_neg fun hc => hki hc.1]
    · rw [if_neg hr, if_neg hr, hx, Option.bind_map]
      by_cases hc : k = i ∧ (r < 128 ∨ x.holdsX = true)
      · obtain ⟨hki, hh⟩ := hc
        have hh := hh.resolve_left hr
        rw [if_pos ⟨hki, .inr hh⟩, ← hki]
        cases x.xset? with
        | none => rfl
        | some e =>
          simp only [Option.bind_some, Function.comp, hh, if_true, List.getElem?_modify_eq]
          cases e.regs[k]? with
          | none => rfl
          | some l => cases h : l[r - 128]? <;> simp [h, Flight.resolves_val]
      · rw [if_neg hc]
        refine congrArg (Option.getD · _) (congrArg (Option.bind _) (funext fun e => ?_))
        by_cases hh : x.holdsX = true
        · rw [Function.comp, if_pos hh, List.getElem?_modify_ne _ _ fun hik => hc ⟨hik.symm, .inr hh⟩]
        · rw [Function.comp, if_neg hh]

/-- The unit after the elements of a flight have all been delivered to it. -/
def Site.resolveAll (x : Site) (f : Flight) (els : List FlightElem) : Site := els.foldl (fun y el => y.resolve f el.fibre el.deliv) x

theorem Site.resolveAll_rest (x : Site) (f : Flight) (els : List FlightElem) : x.resolveAll f els = { x with
    team := { x.team with xsets := (x.resolveAll f els).team.xsets }, heat := { x.heat with fibres := (x.resolveAll f els).heat.fibres } } := by
  induction els generalizing x with
  | nil => rfl
  | cons el els ih =>
    have h := ih (x.resolve f el.fibre el.deliv)
    rw [x.resolve_rest] at h
    rw [Site.resolveAll, List.foldl_cons]
    rw [x.resolve_rest]
    exact h

theorem Site.slot_resolveAll_other {els : List FlightElem} {k : Nat} (h : ∀ el ∈ els, el.fibre ≠ k) (x : Site) (r : Nat) :
    (x.resolveAll f els).slot k r = x.slot k r := by
  induction els generalizing x with
  | nil => rfl
  | cons el els ih =>
    rw [Site.resolveAll, List.foldl_cons]
    refine (ih (fun e he => h e (List.mem_cons_of_mem _ he)) _).trans ?_
    rw [Site.slot_resolve, if_neg fun hc => h el List.mem_cons_self hc.1.symm]

theorem Site.slot_resolveAll {els : List FlightElem} (hn : (els.map FlightElem.fibre).Nodup) {el : FlightElem} (h : el ∈ els) (x : Site) (r : Nat) :
    (x.resolveAll f els).slot el.fibre r = if r < 128 ∨ x.holdsX = true then f.resolves el.deliv (x.slot el.fibre r) else x.slot el.fibre r := by
  induction els generalizing x with
  | nil => cases h
  | cons e els ih =>
    obtain ⟨he, hn⟩ := List.nodup_cons.mp hn
    have hne : ∀ g ∈ els, g.fibre ≠ e.fibre := fun g hg hc => he (hc ▸ List.mem_map_of_mem hg)
    rw [Site.resolveAll, List.foldl_cons]
    obtain rfl | hmem := List.mem_cons.mp h
    · refine (Site.slot_resolveAll_other hne _ r).trans ?_
      rw [Site.slot_resolve]
      simp only [true_and]
    · refine (ih hn hmem _).trans ?_
      have hslot : (x.resolve f e.fibre e.deliv).slot el.fibre r = x.slot el.fibre r := by rw [Site.slot_resolve, if_neg fun hc => hne el hmem hc.1]
      rw [Site.holdsX_resolve, hslot]

/-- Elements whose data is there are all delivered. -/
theorem State.deliverEach_arrived {els : List FlightElem} (h : ∀ el ∈ els, el.waits = .arrival) (s : State) (x : Site) :
    s.deliverEach x f els = (s, x.resolveAll f els, []) := by
  induction els generalizing x with
  | nil => rfl
  | cons el els ih =>
    have hw := h el List.mem_cons_self
    have hd : s.deliverElem x f el = (some el.deliv, none, s) := by rw [State.deliverElem, hw]
    rw [State.deliverEach, hd]
    exact ih (fun e he => h e (List.mem_cons_of_mem _ he)) _

/-- Nothing of an arrival is late. -/
theorem filter_late_arrived {els left : List FlightElem} (h : ∀ el ∈ els, el.waits = .arrival) :
    els.filter (fun el => decide (el ∉ left) && (el.waits == .order || (el.waits != .arrival && el.cpy.isSome))) = [] := by
  rw [List.filter_eq_nil_iff]
  intro el he
  simp [h el he]

/-- Where no load was late, no read is counted. -/
theorem State.countLate_nil (s0 s : State) (x : Site) (f : Flight) : s0.countLate x f [] s = (s, { f with hits := f.hits ++ [] }) := by
  have h : s0.hitLines x f [] = [] := ite_self _
  simp only [State.countLate, List.map_nil, h, List.filter_nil, List.dedup_nil]
  rfl

/-- The flight has left its heat. -/
theorem Heat.setFlight_tag {h : Heat} {g : Flight} (hg : g ∈ (h.setFlight f []).flights) : g.tag ≠ f.tag := by
  rw [Heat.setFlight, List.mem_filterMap] at hg
  obtain ⟨a, -, ha⟩ := hg
  by_cases ht : a.tag = f.tag
  · rw [if_pos ht, if_pos rfl] at ha
    cases ha
  · rw [if_neg ht] at ha
    cases ha
    exact ht

/-- An arrival whose data is there. -/
theorem State.arrive_eq {tag : BitVec 6} (hx : s.site? x.u = some x) (hf : (x.heat.flights.find? fun g => g.tag = tag) = some f)
    (hw : ∀ el ∈ f.elems, el.waits = .arrival) : ∃ hs, s.arrive x.u tag = s.put { x.resolveAll f f.elems with
      heat := (x.resolveAll f f.elems).heat.setFlight { f with hits := hs } [] } := by
  refine ⟨f.hits ++ [], ?_⟩
  rw [State.arrive, hx]
  dsimp only
  rw [hf]
  dsimp only
  rw [State.deliverEach_arrived hw]
  dsimp only
  rw [filter_late_arrived hw, State.countLate_nil]
  dsimp only
  rw [if_neg fun hc => hc.2 rfl]

/-- A unit put back reads as it was put, in its registers too. -/
theorem Site.slot_putBack (x : Site) (k r : Nat) : (Site.putBack x).slot k r = x.slot k r :=
  Site.slot_congr x x.putBack k r rfl rfl (Team.setHeat_xsets _ _ _)

theorem Site.putBack_dtraps (x : Site) : (Site.putBack x).team.dtraps = x.team.dtraps := by
  unfold Site.putBack Team.setHeat
  dsimp only
  split <;> rfl

theorem State.site?_put (h : s.site? x.u = some x) (hu : y.u = x.u) (hid : y.team.id = x.team.id) (hh : y.team.heats = x.team.heats)
    (hp : y.team.pacer = x.team.pacer) (hs : y.heat.squad = x.heat.squad) (hi : y.heat.idx = x.heat.idx) : (s.put y).site? x.u = some y.putBack := by
  rw [(State.put_spec h hu hid hh hp hs hi).1, Site.putBack, hu]

theorem valueArrival_resolves {tag : BitVec 6} (hx : s.site? x.u = some x) (hr : s.residentUnit x.u = true)
    (hf : (x.heat.flights.find? fun g => g.tag = tag) = some f) (hw : ∀ el ∈ f.elems, el.waits = .arrival) :
    ∃ v y, exec (.valueArrival x.u tag) s = .next v ∧ v = { s with teams := v.teams } ∧ v.site? x.u = some y ∧
      (∀ k r, y.slot k r = (x.resolveAll f f.elems).slot k r) ∧ ∀ g ∈ y.heat.flights, g.tag ≠ tag := by
  obtain ⟨hs, ha⟩ := State.arrive_eq hx hf hw
  have hrest := x.resolveAll_rest f f.elems
  generalize x.resolveAll f f.elems = z at ha hrest ⊢
  have he : exec (.valueArrival x.u tag) s = .next (s.arrive x.u tag) := by
    change execValueArrival x.u tag s = _
    rw [execValueArrival, if_pos hr]
  have htag : f.tag = tag := by simpa using List.find?_some hf
  refine ⟨_, _, by rw [he, ha], rfl, State.site?_put hx ?_ ?_ ?_ ?_ ?_ ?_, fun k r => ?_, fun g hg => ?_⟩
  · rw [hrest]
  · rw [hrest]
  · rw [hrest]
  · rw [hrest]
  · rw [hrest]; rfl
  · rw [hrest]; rfl
  · exact (Site.slot_putBack _ k r).trans (Site.slot_congr _ _ k r rfl rfl rfl)
  · exact htag ▸ Heat.setFlight_tag hg

/-! ### The oldest deferred trap -/

theorem Heat.nodup_lowestBatch (h : Heat) : h.lowestBatch.Nodup := by
  rw [Heat.lowestBatch]
  split
  · exact List.nodup_nil
  · exact List.nodup_range.filter _

/-- What can be delivered is a unit of the team, and its lowest batch. -/
theorem State.deliverable_some {team : Nat} {t : DTrap} {is : List Nat} (h : s.deliverable team = some (t, x, is)) :
    s.site? x.u = some x ∧ is.Nodup := by
  rw [State.deliverable, Option.bind_eq_some_iff] at h
  obtain ⟨a, ha, h⟩ := h
  split at h
  · next hst hd =>
    rw [Option.bind_eq_some_iff] at h
    obtain ⟨w, -, h⟩ := h
    rw [Option.bind_eq_some_iff] at h
    obtain ⟨k, hk, h⟩ := h
    split at h
    · cases h
    · cases h
      refine ⟨?_, Heat.nodup_lowestBatch k⟩
      change (s.team? team).bind _ = _
      rw [ha, Option.bind_some, hk, Option.map_some]
  · cases h

theorem deferredTrap_enters {team : Nat} {t : DTrap} {is : List Nat} (hr : s.teamRuns team = true) (h : s.deliverable team = some (t, x, is))
    (hv : s.tvec x.team.ctx ≠ 0) :
    ∃ v y, exec (.deferredTrapDelivery team) s = .next v ∧ v = { s with teams := v.teams } ∧ v.site? x.u = some y ∧ y.team.dtraps = x.team.dtraps.tail ∧
      y.heat.tcause = tcauseOf x.team.lost (t.src == some .pacer) true (s.dRecord x t) ∧ y.heat.tpc = t.pc.setWidth 64 ∧
      (t.cause ≠ cause.budgetOverrun → y.heat.tinfo = t.info) ∧
      ∀ k, y.heat.fibre? k = (x.heat.fibre? k).map fun g => if k ∈ is then g.entered g.pc (s.tvec x.team.ctx) else g := by
  obtain ⟨hx, hn⟩ := State.deliverable_some h
  have hd : s.deliver team = s.put (Site.enter { x with team := { x.team with dtraps := x.team.dtraps.tail } } (s.tvec x.team.ctx) is
      (fun i => ((x.heat.fibre? i).map Fibre.pc).getD 0) (t.src == some .pacer) true (s.dRecord x t)) := by
    rw [State.deliver, h]
    exact (if_neg hv).trans rfl
  have he : exec (.deferredTrapDelivery team) s = .next (s.deliver team) := by
    change execDeferredTrapDelivery team s = _
    rw [execDeferredTrapDelivery, if_pos hr, opDeferredTrapDelivery]
  have heq := Site.enter_eq (tv := s.tvec x.team.ctx) (resume := fun i => ((x.heat.fibre? i).map Fibre.pc).getD 0) (p := t.src == some .pacer) (d := true)
    (r := s.dRecord x t) { x with team := { x.team with dtraps := x.team.dtraps.tail } } hn
  have hfib := Site.enter_fibre? (tv := s.tvec x.team.ctx) (resume := fun i => ((x.heat.fibre? i).map Fibre.pc).getD 0) (p := t.src == some .pacer) (d := true)
    (r := s.dRecord x t) { x with team := { x.team with dtraps := x.team.dtraps.tail } } hn
  generalize Site.enter { x with team := { x.team with dtraps := x.team.dtraps.tail } } (s.tvec x.team.ctx) is
    (fun i => ((x.heat.fibre? i).map Fibre.pc).getD 0) (t.src == some .pacer) true (s.dRecord x t) = z at hd heq hfib
  refine ⟨_, z.putBack, by rw [he, hd], rfl, State.site?_put hx ?_ ?_ ?_ ?_ ?_ ?_, ?_, ?_, ?_, fun hc => ?_, fun k => ?_⟩
  · rw [heq]
  · rw [heq, Site.unwaitX]
  · rw [heq, Site.unwaitX]
  · rw [heq, Site.unwaitX]
  · rw [heq]
  · rw [heq]
  · rw [Site.putBack_dtraps, heq, Site.unwaitX]
  · rw [heq]
    rfl
  · rw [heq]
    rfl
  · rw [heq]
    exact if_neg hc
  · refine (hfib k).trans ?_
    change (x.heat.fibre? k).map _ = _
    cases hk : x.heat.fibre? k with
    | none => rfl
    | some g =>
      rfl

end

/-- Settles O52. -/
theorem arrivalsAndDeferredTraps : Obligations.ArrivalsAndDeferredTraps := by
  refine ⟨fun s x tag f hx hr hf hw hn => ?_, fun s team d x is hr h hv => deferredTrap_enters hr h hv⟩
  obtain ⟨v, y, he, hrest, hy, hslot, htags⟩ := valueArrival_resolves hx hr hf hw
  have htag : f.tag = tag := by simpa using List.find?_some hf
  refine ⟨v, y, he, hrest, hy, fun el hel r b hreg hb hmine => ?_, fun k r hno => ?_, htags⟩
  · rw [hslot, Site.slot_resolveAll hn hel, if_pos hreg, hb]
    rw [← htag] at hmine
    refine ⟨fun ws hd => ?_, fun c info hd => ?_⟩
    · rw [hd]
      exact Flight.resolves_words hmine
    · rw [hd]
      exact Flight.resolves_fault hmine
  · rw [hslot]
    by_cases hk : ∀ el ∈ f.elems, el.fibre ≠ k
    · exact Site.slot_resolveAll_other hk x r
    · obtain ⟨el, hel, hk'⟩ : ∃ el ∈ f.elems, el.fibre = k := by simpa using hk
      rw [← hk', Site.slot_resolveAll hn hel]
      split
      · refine Flight.resolves_of_not fun b hb => ?_
        rw [htag]
        exact hno.resolve_left hk b (hk' ▸ hb)
      · rfl

end Sys2Proof.Machine
end

section
/-!
SUPPORT. What reading a page can do to the package (R124, R126 to R132): what its caches and homes do, old contents that are seen, and answers of the
schedule that are used up.
-/

namespace Sys2Proof.Machine

/-- The package t is s after loads: work of its caches and homes, new contents seen, and answers of the schedule used up. -/
structure State.Looks (s t : State) : Prop where
  rest : t = { s with
    mem := t.mem, poison := t.poison, lines := t.lines, slices := t.slices, uses := t.uses, missed := t.missed, ulines := t.ulines, filters := t.filters
    dirs := t.dirs, portDir := t.portDir, invals := t.invals, ctxs := t.ctxs, oldParts := t.oldParts, oracle := t.oracle }
  wf : Memory.wf s.mem = true → Memory.wf t.mem = true
  pending : ∀ l ∈ t.ulines, l ∈ s.ulines
  bare : ∀ id, (t.ctx? id).map Context.bare = (s.ctx? id).map Context.bare

theorem State.Stirs.looks {s t : State} (h : s.Stirs t) : s.Looks t where
  rest := by rw [h.rest]
  wf := h.wf
  pending := h.pending
  bare := h.bare

namespace State.Looks

theorem refl (s : State) : s.Looks s := (State.Stirs.refl s).looks

theorem trans {s t u : State} (h : s.Looks t) (k : t.Looks u) : s.Looks u where
  rest := by
    have hk := k.rest
    rw [h.rest] at hk
    exact hk
  wf := k.wf ∘ h.wf
  pending l hl := h.pending l (k.pending l hl)
  bare id := (k.bare id).trans (h.bare id)

/-- Where only old contents and answers change. -/
theorem of_rest {s t : State} (h : t = { s with oldParts := t.oldParts, oracle := t.oracle }) : s.Looks t where
  rest := by rw [h]
  wf hs := by rw [h]; exact hs
  pending l hl := by rw [h] at hl; exact hl
  bare id := by rw [h]; rfl

theorem dies {s t : State} (h : s.Looks t) : t.dies = s.dies := by rw [h.rest]

theorem teams {s t : State} (h : s.Looks t) : t.teams = s.teams := by rw [h.rest]

theorem meets {s t : State} (h : s.Looks t) : t.meets = s.meets := by rw [h.rest]

theorem cur {s t : State} (h : s.Looks t) : t.cur = s.cur := by rw [h.rest]

theorem memOk {s t : State} (h : s.Looks t) (hs : s.MemOk) : t.MemOk := ⟨h.wf hs.1, h.teams ▸ hs.2⟩

theorem meet? {s t : State} (h : s.Looks t) (id : Nat) : t.meet? id = s.meet? id := by rw [State.meet?, h.meets, State.meet?]

theorem team? {s t : State} (h : s.Looks t) (id : Nat) : t.team? id = s.team? id := by rw [State.team?, h.teams, State.team?]

end State.Looks

variable (s : State) (x : Site) (h : Hit) (g : Agent)

theorem State.looks_seeParts (pa n : Nat) : s.Looks (s.seeParts g pa n) := .of_rest rfl

theorem State.looks_chosen : s.Looks s.chosen := .of_rest rfl

theorem State.looks_seqRead (pa n : Nat) : s.Looks (s.seqRead pa n).2 := by
  rw [State.seqRead]
  split
  · exact .refl s
  · exact (s.stirs_homeRead pa n).looks

theorem State.looks_readPart (pa n rc : Nat) (vol : Bool) : s.Looks (s.readPart x h pa n rc vol).2 := by
  have hnear (t : State) : t.Looks (t.bring x h (pa / 64) rc).2 := (t.stirs_bring x h (pa / 64) rc).looks
  unfold State.readPart
  cases h.cls with
  | seq =>
    dsimp only
    split
    · exact s.looks_seqRead pa n
    · exact hnear s
  | phase =>
    dsimp only
    split
    · exact ((s.stirs_useHome h (pa / 64)).trans ((State.stirs_homeRead _ pa n).trans (.of_rest rfl))).looks
    · exact hnear s
  | stream =>
    dsimp only
    split
    · split
      · exact (s.looks_chosen.trans (State.looks_seeParts _ _ _ _)).trans (hnear _)
      · exact s.looks_chosen
    · exact hnear s
  | priv => exact hnear s

theorem State.looks_readParts (k : Nat) (pa n rc : Nat) (vol : Bool) : s.Looks (s.readParts x h pa n rc vol k).2 := by
  induction k generalizing s pa n with
  | zero => exact .refl s
  | succ k ih => exact (s.looks_readPart x h pa (min n 8) rc vol).trans (ih _ _ _)

theorem State.looks_loadPage (va n rc : Nat) (vol : Bool) : s.Looks (s.loadPage x h va n rc vol).2 := by
  have hp := s.looks_readParts x h ((n + 7) / 8) (h.phys va) n rc vol
  rw [State.loadPage]
  generalize s.readParts x h (h.phys va) n rc vol ((n + 7) / 8) = r at hp ⊢
  obtain ⟨bs, t⟩ := r
  dsimp only
  split
  · exact hp
  · exact hp

theorem State.looks_readRecord (fib va : Nat) : s.Looks (s.readRecord x fib va).2 := by
  rw [State.readRecord]
  cases s.reachX x va .load .plain with
  | error b => exact .refl s
  | ok h =>
    dsimp only
    split
    · exact .refl s
    · split
      · exact .refl s
      · have hp := s.looks_loadPage x h va 64 0 false
        generalize s.loadPage x h va 64 0 false = r at hp ⊢
        obtain ⟨bs, t⟩ := r
        dsimp only
        split
        · exact hp
        · exact hp

theorem State.looks_lookPart (pa n : Nat) : s.Looks (s.lookPart x g h pa n).2 := by
  have hhome (t : State) : t.Looks (if (t.notifyVf pa).isSome then t.seqRead pa n else (t.useHome h (pa / 64)).homeRead pa n).2 := by
    split
    · exact t.looks_seqRead pa n
    · exact ((t.stirs_useHome h (pa / 64)).trans (State.stirs_homeRead _ pa n)).looks
  unfold State.lookPart
  cases h.cls with
  | seq => exact hhome s
  | phase => exact hhome s
  | stream =>
    dsimp only
    split
    · split
      · exact hhome s
      · split
        · exact (s.looks_chosen.trans (State.looks_seeParts _ _ _ _)).trans (hhome _)
        · exact s.looks_chosen
    · exact hhome s
  | priv =>
    dsimp only
    split
    · exact .refl s
    · exact hhome s

theorem State.looks_look (pa n : Nat) : s.Looks (s.look x g h pa n).2 := by
  rw [State.look]
  generalize n / 8 + 2 = k
  induction k generalizing s pa n with
  | zero => exact .refl s
  | succ k ih => exact (s.looks_lookPart x h g pa (min n (8 - pa % 8))).trans (ih _ _ _)

end Sys2Proof.Machine
end

section
/-!
SUPPORT. Issues that change their unit's team, write registers or charge more than an issue (R187, R336), and CPY (R251, R252).
-/

namespace Sys2Proof.Machine

section
variable {s t : State} {x z w : Site} {is : List Nat} {e : Ext} {us : List Use} {g : Guard}

/-! ### An issue that changes its team -/

/-- The unit z is x after its issue is accounted, and after changes of its team and heat that leave fibres and registers. -/
structure State.Issued (s : State) (x z : Site) : Prop where
  u : z.u = x.u
  id : z.team.id = x.team.id
  heats : z.team.heats = x.team.heats
  pacer : z.team.pacer = x.team.pacer
  xsets : z.team.xsets = x.team.xsets
  squad : z.heat.squad = x.heat.squad
  idx : z.heat.idx = x.heat.idx
  fibres : z.heat.fibres = (s.account x).2.heat.fibres

theorem State.issued_account (s : State) (x : Site) : s.Issued x (s.account x).2 where
  u := account_u s x
  id := by rw [State.account_snd]
  heats := by rw [State.account_snd]
  pacer := by rw [State.account_snd]
  xsets := by rw [State.account_snd]
  squad := by rw [State.account_snd]
  idx := by rw [State.account_snd]
  fibres := rfl

namespace State.Issued

theorem congr (h : s.Issued x z) (hu : w.u = z.u) (hid : w.team.id = z.team.id) (hh : w.team.heats = z.team.heats)
    (hp : w.team.pacer = z.team.pacer) (hx : w.team.xsets = z.team.xsets) (hs : w.heat.squad = z.heat.squad) (hi : w.heat.idx = z.heat.idx)
    (hf : w.heat.fibres = z.heat.fibres) : s.Issued x w where
  u := hu.trans h.u
  id := hid.trans h.id
  heats := hh.trans h.heats
  pacer := hp.trans h.pacer
  xsets := hx.trans h.xsets
  squad := hs.trans h.squad
  idx := hi.trans h.idx
  fibres := hf.trans h.fibres

theorem keeps (h : s.Issued x z) : s.Keeps x z :=
  (State.keeps_account s x).congr (h.u.trans (account_u s x).symm) (h.id.trans (State.issued_account s x).id.symm)
    (h.heats.trans (State.issued_account s x).heats.symm) (h.pacer.trans (State.issued_account s x).pacer.symm)
    (h.squad.trans (State.issued_account s x).squad.symm) (h.idx.trans (State.issued_account s x).idx.symm) h.fibres

theorem fibre? (h : s.Issued x z) (k : Nat) : z.heat.fibre? k = (s.account x).2.heat.fibre? k := by rw [Heat.fibre?, h.fibres, Heat.fibre?]

theorem xset? (h : s.Issued x z) : z.xset? = x.xset? := by
  rw [Site.xset?, Site.squad, Site.heatNo, h.u, h.xsets]
  rfl

theorem holdsX (h : s.Issued x z) : z.holdsX = x.holdsX := Site.holdsX_eq_of_xset? h.u (congrArg (Option.bind · XSet.holder) h.xset?)

theorem slot (h : s.Issued x z) (k r : Nat) : z.slot k r = x.slot k r := by
  rw [← account_slot s x k r]
  exact Site.slot_congr _ _ k r (h.u.trans (account_u s x).symm) (by rw [h.fibre?]) (h.xsets.trans (State.issued_account s x).xsets.symm)

theorem seed (h : s.Issued x z) (k : Nat) : z.seed k = x.seed k := (Site.seed_of_fibres h.fibres k).trans (account_seed s x k)

theorem has (h : s.Issued x z) {k r : Nat} (hr : x.Has k r) : z.Has k r := by
  obtain ⟨f, hf, hk⟩ := State.account_has s x k r hr
  refine ⟨f, (h.fibre? k).trans hf, ?_⟩
  rw [h.holdsX, h.xset?]
  rw [account_holdsX, State.account_xset?] at hk
  exact hk

theorem live (h : s.Issued x z) (hi : Issues s x is g us) {k : Nat} (hk : k ∈ is) : (z.heat.fibre? k).isSome := by
  rw [h.fibre?, account_fibre?_eq, Option.isSome_map]
  exact hi.live k (hi.sub k hk)

theorem works {u : Team} (hk : s.Issued x z) (h : Issues s x is g us) (ht : s.Beside t x)
    (hu : z.team = { u with heats := z.team.heats, pacer := z.team.pacer, counters := z.team.counters }) : Works s (t.done z) x (z.after s) u where
  toUnitOnly := hk.keeps.unitOnly h.here ht
  moved := hk.keeps.advanced h.once
  slots n r := (Site.slot_after z s n r).trans (hk.slot n r)
  seeds n := (Site.seed_after z h.once n).trans (hk.seed n)
  team := by rw [Site.after_team, hu]

end State.Issued

/-- An effect that writes registers in each executing fibre of a kept unit. -/
theorem State.Keeps.writes (hk : s.Keeps x z) (h : Issues s x is g us) (ht : s.Beside t x) (hl : ∀ k ∈ is, (z.heat.fibre? k).isSome)
    (hhas : ∀ k r, x.Has k r → z.Has k r) {f : Site → Nat → Site → Site} (ef : Effect)
    (hf : ∀ i ∈ is, ∀ y, f z i y = y.write ef i) (hd : ∀ i ∈ is, ∀ k < ef.n, x.Has i (ef.d + k)) (h0 : ef.bit.isSome → ∀ i ∈ is, x.Has i 0) :
    ∃ y, regEffect f t z is = .next (t.done y) ∧ UnitOnly s (t.done y) x (y.after s) ∧ Advanced s x (y.after s) ∧ Wrote z (y.after s) is ef ∧
      z.SameBut y := by
  have hz : is.foldl (fun y i => f z i y) z = is.foldl (fun y i => y.write ef i) z := List.foldl_ext _ _ _ fun y i hi => hf i hi y
  have hsb : z.SameBut (is.foldl (fun y i => y.write ef i) z) := sameBut_fold (fun i y => y.write ef i) (fun i y => y.sameBut_write ef i) is _
  have hw : Wrote z _ is ef := wrote_fold is ef z (fun i hi k hj => hhas _ _ (hd i hi k hj)) (fun hb i hi => hhas _ _ (h0 hb i hi)) hl h.nodup
  exact ⟨_, by rw [regEffect, hz], (hk.sameBut hsb).unitOnly h.here ht, (hk.sameBut hsb).advanced h.once, hw.after h.once, hsb⟩

/-- What has been written to a unit has been written to one with the same registers and seeds. -/
theorem Wrote.congr {y : Site} {ef : Effect} (h : Wrote z y is ef) (hs : ∀ k r, z.slot k r = x.slot k r) (hd : ∀ k, z.seed k = x.seed k) : Wrote x y is ef where
  result := h.result
  v0 i hi := by rw [h.v0 i hi, Effect.v0, hs, Effect.v0]
  others i r hr := (h.others i r hr).trans (hs i r)
  seeds i := by rw [h.seeds i, hd]

/-- A unit whose generators differ beside what has been written. -/
theorem Wrote.seeded {y : Site} {ef : Effect} (h : Wrote z y is ef) (hs : ∀ k r, z.slot k r = x.slot k r) {f : Nat → Word}
    (hd : ∀ k, y.seed k = if k ∈ is then f k else x.seed k) : Wrote x y is { ef with seed := some f } where
  result := h.result
  v0 i hi := by rw [h.v0 i hi, Effect.v0, hs, Effect.v0]
  others i r hr := (h.others i r hr).trans (hs i r)
  seeds := hd

theorem State.Issued.writes (hk : s.Issued x z) (h : Issues s x is g us) (ht : s.Beside t x) {f : Site → Nat → Site → Site} (ef : Effect)
    (hf : ∀ i ∈ is, ∀ y, f z i y = y.write ef i) (hd : ∀ i ∈ is, ∀ k < ef.n, x.Has i (ef.d + k)) (h0 : ef.bit.isSome → ∀ i ∈ is, x.Has i 0) :
    ∃ y, regEffect f t z is = .next (t.done y) ∧ UnitOnly s (t.done y) x (y.after s) ∧ Advanced s x (y.after s) ∧ Wrote x (y.after s) is ef ∧
      z.SameBut y := by
  obtain ⟨y, he, hu, ha, hw, hsb⟩ := hk.keeps.writes h ht (fun k hi => hk.live h hi) (fun k r => hk.has) ef hf hd h0
  exact ⟨y, he, hu, ha, hw.congr hk.slot hk.seed, hsb⟩


/-! ### Charges beyond the issue (R187, R336) -/

/-- A meet after a charge on a die. -/
def Meet.charge (m : Meet) (die n : Nat) : Meet := if m.live then { m with sums := SMap.bump m.sums die n } else m

theorem Meet.charge_live (m : Meet) (die n : Nat) : (m.charge die n).live = m.live := by
  rw [Meet.charge]
  split <;> rfl

theorem Meet.charge_id (m : Meet) (die n : Nat) : (m.charge die n).id = m.id := by
  rw [Meet.charge]
  split <;> rfl

theorem State.chargeMeet_meet? (s : State) (m d n id : Nat) :
    (s.chargeMeet m d n).meet? id = if id = m then (s.meet? m).map fun a => a.charge d n else s.meet? id := by
  rw [State.chargeMeet]
  cases hm : s.meet? m with
  | none =>
    dsimp only
    split
    · next h => rw [h, hm]; rfl
    · rfl
  | some a =>
    have hid : a.id = m := by simpa using List.find?_some hm
    dsimp only
    by_cases hl : a.live = true
    · rw [if_pos hl]
      by_cases h : id = m
      · rw [if_pos h, h, Option.map_some, Meet.charge, if_pos hl]
        exact find?_map_same s.meets Meet.id { a with sums := SMap.bump a.sums d n } a m hm hid
      · rw [if_neg h]
        exact find?_map_key s.meets Meet.id { a with sums := SMap.bump a.sums d n } id (hid ▸ Ne.symm h)
    · rw [if_neg hl]
      split
      · next h => rw [h, hm, Option.map_some, Meet.charge, if_neg hl]
      · rfl

theorem account_meets_own (s : State) (x : Site) : (s.account x).1.meet? x.team.meet = (s.meet? x.team.meet).map fun a => a.charge x.team.cl.die 1 := by
  have h : (s.account x).1 = s.chargeMeet x.team.meet x.team.cl.die 1 := rfl
  rw [h, State.chargeMeet_meet?, if_pos rfl]

/-- After a further charge, the meet holds both. -/
theorem charged_of_chargeMeet {t : State} {n : Nat} (h : t.meet? x.team.meet = ((s.account x).1.meet? x.team.meet).map fun a => a.charge x.team.cl.die n) :
    charged s t x n := by
  intro a b ha hl hb
  rw [h, account_meets_own, ha, Option.map_some, Option.map_some] at hb
  cases hb
  have h1 : a.charge x.team.cl.die 1 = { a with sums := SMap.bump a.sums x.team.cl.die 1 } := if_pos hl
  have hl' : Meet.live { a with sums := SMap.bump a.sums x.team.cl.die 1 } = true := hl
  rw [h1, Meet.charge, if_pos hl']

/-- A package that only a further charge of the issue's meet sets apart. -/
theorem State.Beside.charge (h : s.Beside t x) (d n : Nat) : s.Beside (t.chargeMeet x.team.meet d n) x where
  cur := by rw [State.chargeMeet_eq]; exact h.cur
  teams id := by rw [State.chargeMeet_eq]; exact h.teams id
  exact id := by rw [State.chargeMeet_eq]; exact h.exact id
  meets id hid := by rw [State.chargeMeet_meet?, if_neg hid]; exact h.meets id hid

theorem State.Issued.count (h : s.Issued x z) (c n : Nat) : s.Issued x { z with team := z.team.count c n } := h.congr rfl rfl rfl rfl rfl rfl rfl rfl

/-! ### CPY (R251, R252) -/

theorem State.looks_planCopy (s : State) (x : Site) (e : Ext) (i a b : Nat) : s.Looks (s.planCopy x e i a b).2 := by
  rw [State.planCopy]
  dsimp only
  split
  · exact .refl s
  · split
    · exact .refl s
    · have hr := s.looks_readRecord x i (if copyModeOf e.m1.toNat = .untile ∨ copyModeOf e.m1.toNat = .quant then a else b)
      simp only [decide_eq_true_eq]
      generalize s.readRecord x i (if copyModeOf e.m1.toNat = .untile ∨ copyModeOf e.m1.toNat = .quant then a else b) = r at hr ⊢
      obtain ⟨bad | r, u⟩ := r
      · exact hr
      · dsimp only
        split
        · split
          · exact hr
          · split
            · exact hr
            · exact hr
            · split
              · exact hr
              · split
                · exact hr
                · exact hr
        · exact hr

/-- The channel that a CPY has taken, with its copy queued. -/
theorem Chan.enqueue_eq {ch : Chan} (herr : ch.err = false) (team : Nat) (c : Copy) : ch.enqueue team c =
    ((ch.taken team).begins, { ch.taken team with queue := (ch.taken team).queue ++ [{ c with started := (ch.taken team).queue.isEmpty }] }) := by
  have h : (ch.taken team).err = false := by
    rw [Chan.taken]
    split
    · exact herr
    · exact herr
  change ((ch.taken team).begins, if (ch.taken team).err = true then _ else _) = _
  rw [h]
  rfl

variable {p : CopyPlan} {k : Nat} {ch : Chan} {u : State}

theorem opCpy_eq (h : Issues s x is e.guard (usesCpy e))
    (hp : (s.account x).1.planCopy (s.account x).2 e (is.headD 0) (x.val (is.headD 0) e.a.toNat 2) (x.val (is.headD 0) e.b.toNat 2) = (.plan p, u))
    (hl : x.linkFault e = false) : opCpy e s = State.startCopy s u (s.account x).2 e is p := by
  have hl' : (s.account x).2.linkFault e = false := by
    rw [← hl, State.account_snd]
    rfl
  refine (issue_eq (us := usesCpy e) h _).trans ?_
  simp only [account_val]
  rw [hp]
  dsimp only
  rw [if_neg (by rw [hl']; exact nofun)]

/-- The generator of the fibre whose operands a converting copy takes moves past its values. -/
def Site.drewFor (x : Site) (i n : Nat) : Site := if n = 0 then x else x.setSeed i (srAfter (x.seed i) n)

theorem startCopy_eq (hk : u.chanOf x.team.cl e.p = some k) (hch : u.chan? x.team.cl k = some ch) (ho : ch.owner = none ∨ ch.owner = some x.team.id)
    (herr : ch.err = false) (hc : u.cur = s.cur) : State.startCopy s u (s.account x).2 e is p =
      regEffect (fun _ j y => y.dst32 j e (ch.taken x.team.id).begins.toNat)
        ((u.chargeMeet x.team.meet x.team.cl.die (ceilDiv p.total 256)).updChan x.team.cl k fun _ => { ch.taken x.team.id with
          queue := (ch.taken x.team.id).queue ++ [{ x.copyOf s e (is.headD 0) p with started := (ch.taken x.team.id).queue.isEmpty }] })
        (Site.drewFor { (s.account x).2 with team := (s.account x).2.team.count 2 (ceilDiv p.total 256) } (is.headD 0) p.draws) is := by
  have hcl : (s.account x).2.team.cl = x.team.cl := account_cl s x
  have hid : (s.account x).2.team.id = x.team.id := (State.issued_account s x).id
  have hm : (s.account x).2.team.meet = x.team.meet := by rw [State.account_snd]
  rw [State.startCopy]
  dsimp only
  rw [hcl, hk]
  dsimp only
  rw [hch]
  dsimp only
  rw [hid, if_neg fun hc => ho.elim hc.1 hc.2, Chan.enqueue_eq herr, State.charge, hm, hcl, hc, account_u, account_seed]
  unfold regEffect
  congr 3

theorem Site.sameBut_drewFor (x : Site) (i n : Nat) : x.SameBut (x.drewFor i n) := by
  rw [Site.drewFor]
  split
  · exact .rfl' x
  · exact x.sameBut_setSeed _ _

theorem Site.slot_drewFor (x : Site) (i n k r : Nat) : (x.drewFor i n).slot k r = x.slot k r := by
  rw [Site.drewFor]
  split
  · rfl
  · exact x.slot_setSeed _ _ _ _

theorem Site.has_drewFor (i n : Nat) {k r : Nat} (h : x.Has k r) : (x.drewFor i n).Has k r := by
  rw [Site.drewFor]
  split
  · exact h
  · exact x.has_setSeed _ _ _ _ h

theorem Site.seed_drewFor (x : Site) (i n k : Nat) (h : (x.heat.fibre? i).isSome) :
    (x.drewFor i n).seed k = if n ≠ 0 ∧ k = i then srAfter (x.seed i) n else x.seed k := by
  rw [Site.drewFor]
  by_cases hn : n = 0
  · rw [if_pos hn, if_neg fun hc => hc.1 hn]
  · rw [if_neg hn, Site.seed_setSeed]
    refine if_congr ⟨fun hc => ⟨hn, hc.1.symm⟩, fun hc => ⟨hc.2.symm, hc.2 ▸ h⟩⟩ rfl rfl

theorem cpy_spec (h : Issues s x is e.guard (usesCpy e))
    (hp : (s.account x).1.planCopy (s.account x).2 e (is.headD 0) (x.val (is.headD 0) e.a.toNat 2) (x.val (is.headD 0) e.b.toNat 2) = (.plan p, u))
    (hl : x.linkFault e = false) (hk : u.chanOf x.team.cl e.p = some k) (hch : u.chan? x.team.cl k = some ch)
    (ho : ch.owner = none ∨ ch.owner = some x.team.id) (herr : ch.err = false) :
    ∃ t y, opCpy e s = .next t ∧ UnitOnly s t x y ∧ Advanced s x y ∧
      Wrote x y is { toD32 e (fun _ => (ch.taken x.team.id).begins.toNat) with
        seed := if p.draws = 0 then none else some fun m => if m = is.headD 0 then srAfter (x.seed (is.headD 0)) p.draws else x.seed m } ∧
      t = { u with
        teams := t.teams, meets := t.meets
        dies := (u.updChan x.team.cl k fun _ => { ch.taken x.team.id with
          queue := (ch.taken x.team.id).queue ++ [{ x.copyOf s e (is.headD 0) p with started := (ch.taken x.team.id).queue.isEmpty }] }).dies } ∧
      charged s t x (ceilDiv p.total 256) := by
  have hlook : (s.account x).1.Looks u := by
    have := State.looks_planCopy (s.account x).1 (s.account x).2 e (is.headD 0) (x.val (is.headD 0) e.a.toNat 2) (x.val (is.headD 0) e.b.toNat 2)
    rwa [hp] at this
  have hcur : u.cur = s.cur := hlook.cur.trans (account_cur s x)
  have hbeside : s.Beside (u.chargeMeet x.team.meet x.team.cl.die (ceilDiv p.total 256)) x :=
    (State.Beside.of_teams hcur (hlook.teams.trans (account_teams s x)) fun id hid => (hlook.meet? id).trans (State.account_meet? s x id hid)).charge _ _
  have hz := (State.issued_account s x).count 2 (ceilDiv p.total 256)
  rw [opCpy_eq h hp hl, startCopy_eq hk hch ho herr hcur]
  generalize { (s.account x).2 with team := (s.account x).2.team.count 2 (ceilDiv p.total 256) } = z at hz ⊢
  have hsame := z.sameBut_drewFor (is.headD 0) p.draws
  have hslot (k r : Nat) : (z.drewFor (is.headD 0) p.draws).slot k r = x.slot k r := (z.slot_drewFor _ _ k r).trans (hz.slot k r)
  have hseed := z.seed_drewFor (is.headD 0) p.draws
  obtain ⟨y, he, hunit, hadv, hw, -⟩ := (hz.keeps.sameBut hsame).writes (t := (u.chargeMeet x.team.meet x.team.cl.die (ceilDiv p.total 256)).updChan x.team.cl k _)
    h ⟨hbeside.cur, hbeside.teams, hbeside.exact, hbeside.meets⟩ (fun k hi => hsame.isSome k (hz.live h hi)) (fun k r hr => Site.has_drewFor _ _ (hz.has hr))
    (toD32 e fun _ => (ch.taken x.team.id).begins.toNat) (f := fun _ j y => y.dst32 j e (ch.taken x.team.id).begins.toNat) (fun _ _ _ => rfl)
    (fun i hi k hk => h.fields (useD e 1) (by simp [usesCpy]) i hi k hk) nofun
  refine ⟨_, _, he, hunit, hadv, ?_, ?_, charged_of_chargeMeet ?_⟩
  · by_cases hd : p.draws = 0
    · rw [if_pos hd]
      exact hw.congr hslot fun k => by rw [z.seed_drewFor _ _ _ (hz.live h h.headD_mem), if_neg fun hc => hc.1 hd, hz.seed]
    · rw [if_neg hd]
      refine hw.seeded hslot fun k => (hw.seeds k).trans ?_
      rw [toD32, z.seed_drewFor _ _ _ (hz.live h h.headD_mem), hz.seed, hz.seed]
      by_cases hk : k = is.headD 0
      · rw [if_pos ⟨hd, hk⟩, if_pos (hk ▸ h.headD_mem), if_pos hk]
      · rw [if_neg fun hc => hk hc.2, if_neg hk, ite_self]
  · rw [State.chargeMeet_eq]
    rfl
  · rw [← hlook.meet?]
    exact (State.chargeMeet_meet? _ _ _ _ _).trans (if_pos rfl)

theorem planCopy_linear {a b i : Nat} {l m : Loc} (h1 : e.m1 = 0) (ha : x.check i a (max (x.val i e.c.toNat 1) 1) 1 = .ok l)
    (hb : x.check i b (max (x.val i e.c.toNat 1) 1) 1 = .ok m) (hlo : 1 ≤ x.val i e.c.toNat 1) (hhi : x.val i e.c.toNat 1 ≤ 2 ^ 30) :
    s.planCopy x e i a b = (.plan { dst := .linear (dw a), src := .linear (dw b), total := x.val i e.c.toNat 1, draws := 0 }, s) := by
  have hmode : copyModeOf e.m1.toNat = .linear := by rw [h1]; rfl
  have hla : x.linear i a (x.val i e.c.toNat 1) = none := by rw [Site.linear, ha]
  have hlb : x.linear i b (x.val i e.c.toNat 1) = none := by rw [Site.linear, hb]
  rw [State.planCopy]
  dsimp only
  rw [if_pos hmode, Site.planLinear, hla, hlb]
  dsimp only [Option.or]
  rw [if_neg (by omega)]

end

/-- Settles O31. -/
theorem cpyQueuesACopy : Obligations.CpyQueuesACopy := by
  refine ⟨?_, fun s x e i a b l m h1 ha hb hlo hhi => planCopy_linear h1 ha hb hlo hhi⟩
  intro i e s u x is p k ch hi h n hp hl hk hch ho herr took c
  have he : exec i s = opCpy e s := by
    cases i with
    | cpy => cases hi; rfl
    | _ => cases hi
  obtain ⟨t, y, ht, hunit, hadv, hw, hrest, hcharged⟩ := cpy_spec h hp hl hk hch ho herr
  exact ⟨t, y, he.trans ht, hunit, hadv, hw, hrest, hcharged⟩

end Sys2Proof.Machine
end

section
/-!
SUPPORT. The copy engines (R109, R145, R253, R254).
-/

namespace Sys2Proof.Machine

section
variable {s t : State} {cl : ClusterRef} {k : Nat} {ch : Chan} {c d : Copy}

/-! ### Clusters and their channels -/

theorem State.cluster?_updCluster (s : State) (cl q : ClusterRef) (f : Cluster → Cluster) :
    (s.updCluster cl f).cluster? q = if q = cl then (s.cluster? q).map f else s.cluster? q := by
  obtain ⟨qd, ql⟩ := q
  obtain ⟨cd, cn⟩ := cl
  change ((s.dies.modify cd fun d => { d with clusters := d.clusters.modify cn f })[qd]?.bind fun d => d.clusters[ql]?) = _
  rw [State.cluster?, State.die?]
  by_cases hd : cd = qd
  · subst hd
    rw [List.getElem?_modify_eq]
    cases s.dies[cd]? with
    | none => exact (ite_self _).symm
    | some d =>
      change (d.clusters.modify cn f)[ql]? = _
      by_cases hl : cn = ql
      · subst hl
        rw [List.getElem?_modify_eq, if_pos rfl]
        rfl
      · rw [List.getElem?_modify_ne _ _ hl, if_neg fun hc => hl (ClusterRef.mk.inj hc).2.symm]
        rfl
  · rw [List.getElem?_modify_ne _ _ hd, if_neg fun hc => hd (ClusterRef.mk.inj hc).1.symm]

theorem State.chan?_updChan (s : State) (cl q : ClusterRef) (k j : Nat) (f : Chan → Chan) :
    (s.updChan cl k f).chan? q j = if (q, j) = (cl, k) then (s.chan? q j).map f else s.chan? q j := by
  rw [State.chan?, State.updChan, State.cluster?_updCluster, State.chan?]
  by_cases hq : q = cl
  · rw [if_pos hq]
    cases s.cluster? q with
    | none => exact (ite_self _).symm
    | some a =>
      change (a.chans.modify k f)[j]? = _
      by_cases hj : k = j
      · subst hj
        rw [List.getElem?_modify_eq, if_pos (by rw [hq])]
        rfl
      · rw [List.getElem?_modify_ne _ _ hj, if_neg fun hc => hj (Prod.mk.inj hc).2.symm]
        rfl
  · rw [if_neg hq, if_neg fun hc => hq (Prod.mk.inj hc).1]

theorem State.chan?_updChan_same (h : s.chan? cl k = some ch) (f : Chan → Chan) : (s.updChan cl k f).chan? cl k = some (f ch) := by
  rw [State.chan?_updChan, if_pos rfl, h, Option.map_some]

theorem State.chan?_of_dies (h : t.dies = s.dies) (q : ClusterRef) (j : Nat) : t.chan? q j = s.chan? q j := by
  rw [State.chan?, State.cluster?, State.die?, h, State.chan?, State.cluster?, State.die?]

theorem State.updTeam_dies (s : State) (id : Nat) (f : Team → Team) : (s.updTeam id f).dies = s.dies := by
  rw [State.updTeam]
  split <;> rfl

theorem State.team?_updTeam {u : Team} {id : Nat} (h : s.team? id = some u) {f : Team → Team} (hf : (f u).id = u.id) :
    (s.updTeam id f).team? id = some (f u) := by
  have hid : u.id = id := by simpa using List.find?_some h
  rw [State.updTeam, h]
  exact find?_map_same s.teams Team.id (f u) u id h (hf.trans hid)

/-! ### COPY_START and COPY_PORTION_WRITTEN -/

/-- The copy ahead of a channel has started. -/
def Chan.startHead (ch : Chan) : Chan :=
  match ch.queue with
  | c :: r => { ch with queue := { c with started := true } :: r }
  | [] => ch

theorem copyStart_eq (hr : s.runsOn cl.die = true) : exec (.copyStart cl k) s = .next (s.updChan cl k Chan.startHead) := by
  change execCopyStart cl k s = _
  rw [execCopyStart, if_pos hr]
  rfl

theorem copyPortionWritten_eq {n : Nat} {m : Option Miss} {u : State} (hr : s.runsOn cl.die = true) (hc : s.running cl k = some c)
    (hm : s.copyMove k c n = (u, d, m)) : exec (.copyPortionWritten cl k n) s = .next (u.copyOn cl k c d).1 := by
  change execCopyPortionWritten cl k n s = _
  rw [execCopyPortionWritten, if_pos hr, opCopyPortionWritten, hc]
  dsimp only
  rw [hm]

theorem Copy.settle_acked {n : Nat} (h : c.till ≤ n) : (c.settle n).acked = c.done := by rw [Copy.settle, if_pos h]

theorem Chan.moved_queue (h : d.total ≤ d.acked) : (ch.moved c d).queue = ch.queue.tail := if_pos h

/-! ### A piece within shared memory -/

theorem Site.putBack_cshMem (x : Site) : (Site.putBack x).team.cshMem = x.team.cshMem := by
  unfold Site.putBack Team.setHeat
  dsimp only
  split <;> rfl

theorem copyPiece_shared {x : Site} {a b : DWord} {o p : Nat} (hs : s.MemOk) (hx : s.site? c.u = some x) (hmode : c.mode = .linear)
    (hdst : c.dst = .linear a) (hsrc : c.src = .linear b) {n : Nat}
    (hn : n = min (c.total - c.done) (min (64 - (a.toNat + c.done) % 64) (64 - (b.toNat + c.done) % 64)))
    (hb : x.check c.fibre ((b.toNat + c.done) % 2 ^ 64) n 1 = .ok (.csh o)) (ha : x.check c.fibre ((a.toNat + c.done) % 2 ^ 64) n 1 = .ok (.csh p)) :
    ∃ t y, s.copyPiece x k c = (.ok { c with done := c.done + n }, t) ∧ t.site? c.u = some y ∧ t = { s with teams := t.teams } ∧
      Memory.read y.team.cshMem p n = Memory.read x.team.cshMem o n ∧
      ∀ q, q < p ∨ p + n ≤ q → Memory.get y.team.cshMem q = Memory.get x.team.cshMem q := by
  obtain ⟨hxu, hteam, hheat, hid⟩ := State.site?_some hx
  have hpiece : c.piece = n := by
    rw [Copy.piece, hmode, hdst, hsrc, hn]
    rfl
  have hsource : s.copySource x c n = (.ok (Memory.read x.team.cshMem o n), s) := by
    rw [State.copySource, hmode, hsrc]
    change State.spotRead s x x.copyTlb c.fibre n (.generic ((b.toNat + c.done) % 2 ^ 64)) = _
    rw [State.spotRead]
    dsimp only
    rw [hb]
    rfl
  have hlen : (Memory.read x.team.cshMem o n).length = n := Memory.length_read _ _ _
  have hspot : c.dst.spot c.esz c.done = .generic ((a.toNat + c.done) % 2 ^ 64) := by rw [hdst]; rfl
  have hwrite : s.spotWrite x x.copyTlb c.fibre (Memory.read x.team.cshMem o n) c.grans (c.offers x.team.cl k) (c.dst.spot c.esz c.done) =
      .ok { s := s.put (x.writeLocal (Memory.read x.team.cshMem o n) (.csh p)), own := c.grans, till := 0 } := by
    rw [hspot]
    unfold State.spotWrite
    dsimp only
    rw [hlen, ha]
  have hwf : Memory.wf x.team.cshMem = true := (hs.2 x.team (List.mem_of_find?_eq_some hteam)).1
  refine ⟨s.put (x.writeLocal (Memory.read x.team.cshMem o n) (.csh p)), Site.putBack (x.writeLocal (Memory.read x.team.cshMem o n) (.csh p)), ?_, ?_, rfl, ?_, fun q hq => ?_⟩
  · rw [State.copyPiece]
    dsimp only
    rw [hpiece, hsource]
    dsimp only
    rw [hwrite]
    dsimp only
    rw [Copy.wrote, Nat.max_eq_left (Nat.zero_le _)]
  · exact hxu ▸ State.site?_put (by rw [hxu]; exact hx) rfl rfl rfl rfl rfl rfl
  · rw [Site.putBack_cshMem]
    have hrw := Memory.read_write (Memory.read x.team.cshMem o n) x.team.cshMem p hwf
    rwa [hlen] at hrw
  · rw [Site.putBack_cshMem]
    exact Memory.get_write_other _ _ _ _ (by rw [hlen]; exact hq)

/-! ### COPY_FAULT (R254) -/

/-- A copy that has moved nothing, all of it acknowledged. -/
theorem copyOn_still (ha : c.acked = c.done) :
    s.copyOn cl k c c = ((s.updChan cl k fun ch => ch.moved c c).updTeam c.u.team fun t => t.count 7 0, c) := by
  have hset : c.settle s.now = c := by
    rw [Copy.settle]
    split
    · obtain ⟨⟩ := c
      cases ha
      rfl
    · rfl
  have hdel (u : State) : u.copyDeliver cl k c 0 = u := by
    unfold State.copyDeliver
    split
    · exact if_pos rfl
    · rfl
  have he : s.copyOn cl k c c = (((s.updChan cl k fun ch => ch.moved c (c.settle s.now)).updTeam c.u.team fun t =>
    t.count 7 ((c.settle s.now).acked - c.acked)).copyDeliver cl k (c.settle s.now) ((c.settle s.now).acked - c.acked), c.settle s.now) := rfl
  rw [he, hset, Nat.sub_self, hdel]

theorem Team.count_zero (t : Team) (c : Nat) : t.count c 0 = t := by
  have : t.counters.modify c (· + 0) = t.counters := List.modify_id _ _
  rw [Team.count, this]

theorem copyFault_eq {u : State} {cs : Byte} {info : DWord} (hr : s.runsOn cl.die = true) (hc : s.running cl k = some c) (hmode : c.mode ≠ .quant)
    (ha : c.acked = c.done) (ht : c.till = 0) (hm : s.copyMove k c 1 = (u, d, some (.early cs, info)) ∨ s.copyMove k c 1 = (u, d, some (.late cs, info))) :
    exec (.copyFault cl k) s =
      .next (((u.updChan cl k fun ch => ch.moved c c).updTeam c.u.team fun t => t.count 7 0).copyStop cl k c cs info) := by
  have hlt (v : State) : ¬ v.now < c.till := by rw [ht]; exact Nat.not_lt_zero _
  change execCopyFault cl k s = _
  rw [execCopyFault, if_pos hr, opCopyFault, hc]
  dsimp only
  rw [if_neg (hlt s), if_neg hmode]
  obtain hm | hm := hm
  · rw [hm]
    dsimp only
    rw [if_neg (hlt u), copyOn_still ha]
    rfl
  · rw [hm]
    dsimp only
    rw [if_neg (hlt u), copyOn_still ha]
    rfl

theorem copyStop_spec {w : Team} {cs : Byte} {info : DWord} (hch : s.chan? cl k = some ch) (hw : s.team? c.u.team = some w) (hl : w.alive = true)
    (hst : w.st = .resident) (hq : w.dtraps.length < 16) :
    (s.copyStop cl k c cs info).chan? cl k = some { ch with err := true, queue := [] } ∧
      (s.copyStop cl k c cs info).team? c.u.team = some { w with
        dtraps := w.dtraps ++ [DTrap.recorded { cause := cs, inner := 0, pc := c.pc, info := info, src := some c.u.who }] } ∧
      s.copyStop cl k c cs info = { s with dies := (s.copyStop cl k c cs info).dies, teams := (s.copyStop cl k c cs info).teams } := by
  have hw' : (s.updChan cl k fun ch => { ch with err := true, queue := [] }).team? c.u.team = some w := hw
  have hid : w.id = c.u.team := by simpa using List.find?_some hw
  have hd : w.defer (c.trap cs info) = { w with dtraps := w.dtraps ++ [(c.trap cs info).recorded] } := if_pos hq
  have he : s.copyStop cl k c cs info = (s.updChan cl k fun ch => { ch with err := true, queue := [] }).setTeam (w.defer (c.trap cs info)) := by
    rw [State.copyStop, State.defer, hw']
    dsimp only
    rw [if_pos ⟨hl, by rw [hst]; exact nofun⟩]
  rw [he, hd]
  refine ⟨?_, ?_, rfl⟩
  · exact State.chan?_updChan_same hch _
  · exact find?_map_same s.teams Team.id _ w c.u.team hw hid

end

/-- Settles O33. -/
theorem copyEngines : Obligations.CopyEngines := by
  refine ⟨fun s cl k ch c r hr hch hq => ?_, ?_, ?_, fun s u cl k c d cs info w ch hr hc hmode ha ht hm hch hw hl hst hlen => ?_⟩
  · refine ⟨_, copyStart_eq hr, rfl, ?_, fun q j hne => ?_⟩
    · rw [State.chan?_updChan_same hch, Chan.startHead, hq]
    · rw [State.chan?_updChan, if_neg hne]
  · intro s u cl k n c d m hr hc hm ch hch a n v
    have hv : v.chan? cl k = some (ch.moved c a) :=
      (State.chan?_of_dies (State.updTeam_dies _ _ _) _ _).trans (State.chan?_updChan_same hch _)
    exact ⟨copyPortionWritten_eq hr hc hm, Copy.settle_acked, ch.moved c a, hv, rfl, fun hle htot => Chan.moved_queue (htot ▸ hle)⟩
  · intro s x k c a b o p hs hx hmode hdst hsrc n hb ha
    exact copyPiece_shared hs hx hmode hdst hsrc rfl hb ha
  · have hW := copyFault_eq hr hc hmode ha ht hm
    have hdies := State.updTeam_dies (u.updChan cl k fun ch => ch.moved c c) c.u.team fun t => t.count 7 0
    have hch' := (State.chan?_of_dies hdies cl k).trans (State.chan?_updChan_same hch _)
    have hteam : (u.updChan cl k fun ch => ch.moved c c).team? c.u.team = some w := hw
    have hw' := State.team?_updTeam hteam (f := fun t => t.count 7 0) rfl
    have hrest := State.updTeam_rest (u.updChan cl k fun ch => ch.moved c c) c.u.team fun t => t.count 7 0
    rw [Team.count_zero] at hw'
    generalize (u.updChan cl k fun ch => ch.moved c c).updTeam c.u.team (fun t => t.count 7 0) = z at *
    obtain ⟨h1, h2, h3⟩ := copyStop_spec (c := c) (cs := cs) (info := info) hch' hw' hl hst hlen
    refine ⟨_, hW, ?_, h2, ?_⟩
    · rw [h1, Chan.moved, Nat.sub_self]
      exact congrArg (fun w => some { ch with w := w, err := true, queue := [] }) (BitVec.add_zero _)
    · generalize z.copyStop cl k c cs info = v at h3 ⊢
      rw [h3, hrest]
      rfl

end Sys2Proof.Machine
end

section
/-!
SUPPORT. Statements that a copy of more than 64 bytes refutes: a line that is written back whole takes every byte of the copy to its home, and the
statements let memory change only where a dirty byte, or a U line, stands. No hypothesis of theirs says that a copy has 64 bytes.
-/

/- Each evaluation holds the whole model: they run one at a time, not side by side. -/
set_option Elab.async false

namespace Sys2Proof.Tests

open Sys2Proof Sys2Proof.Machine

/-- A copy of 65 bytes in the cluster cache of the bench, the first 64 of them dirty. -/
def overlong (w : Nat) : CLine :=
  { level := .clus { die := 0, loc := 0 }, line := 0x141 + 4096 * (w + 1), cls := .priv, bytes := List.replicate 65 1
    dirty := List.replicate 64 true ++ [false], lease := 0, rc := 0, owner := 0, policy := 0, way := w, used := w }

/-- A state whose cluster cache is full of such copies in the set of the bench's page; the first may be written back. -/
def crowded (s : State) : State := { s with lines := (List.range 12).map overlong, classes := (69, .priv) :: s.classes }

/-- The byte behind the line that leaves first. -/
def spilt : Nat := 64 * (overlong 0).line + 64

/-- A byte of memory after an outcome. -/
def memAfter (o : Out) (a : Nat) : Option Byte :=
  match o with
  | .next t => some (Memory.get t.mem a)
  | _ => none

theorem overlong_dirtyBytes : ∀ c ∈ (List.range 12).map overlong, ∀ b ∈ c.dirtyBytes, b.1 ≠ spilt := by decide +kernel

/-- The byte behind the line is not one that may change. -/
theorem not_dirtyAt_spilt {s : State} (h : s.lines = (List.range 12).map overlong) : ¬ s.dirtyAt spilt := by
  rintro ⟨c, hc, b, hb, he⟩
  exact overlong_dirtyBytes c (h ▸ hc) b hb he

theorem not_pendingAt_of_nil {s : State} (h : s.ulines = []) (a : Nat) : ¬ s.pendingAt a := by
  rintro ⟨l, hl, -⟩
  rw [h] at hl
  cases hl

/-- Yet it does. -/
theorem spills {o : Out} {s t : State} (he : o = .next t) (hb : memAfter o spilt = some 1) (hs : Memory.get s.mem spilt = 0) :
    Memory.get t.mem spilt ≠ Memory.get s.mem spilt := by
  rw [he] at hb
  rw [Option.some.inj hb, hs]
  decide

/-- A step that spills a copy does more than a read may. -/
theorem not_reads_of_spill {o : Out} {s t : State} (he : o = .next t) (hb : memAfter o spilt = some 1) (hs : Memory.get s.mem spilt = 0)
    (hl : s.lines = (List.range 12).map overlong) (hu : s.ulines = []) : ¬ Reads s t := fun h =>
  spills he hb hs (h.bytes spilt (not_pendingAt_of_nil hu spilt) (not_dirtyAt_spilt hl))

theorem here_crowded : (crowded s1).here = some x1 := by decide +kernel

theorem load_spills : memAfter (exec (.ldExt ld1) (crowded s1)) spilt = some 1 := by decide +kernel

theorem late_load_spills : memAfter (exec (.ldExt ld1) (late (crowded s1))) spilt = some 1 := by decide +kernel

/-- PREF of the bench's page to the cluster cache. -/
def pref1 : Ext := { plainExt 6 0 0 .s8 with osel := 1, m1 := 1 }

theorem prefetch_spills : memAfter (exec (.prefExt pref1) (crowded s1)) spilt = some 1 := by decide +kernel

/-- The crowded bench whose page is a PRIV page. -/
def crowdedPriv : State := crowded (inClass 3 .priv s1)

theorem store_spills : memAfter (exec (.stExt st1) crowdedPriv) spilt = some 1 := by decide +kernel

/-- AMO.add.n32 at .sq. -/
def amo1 : Ext := { plainExt 6 3 1 .n32 with rs := 4 }

theorem atomic_spills : memAfter (exec (.amo amo1) crowdedPriv) spilt = some 1 := by decide +kernel

/-- MXBIND of the bench's record. -/
def bind7 : Ext := plainExt 8 0 0 .s8

theorem bind_spills : memAfter (exec (.mxbind bind7) (crowded (s7 []))) spilt = some 1 := by decide +kernel

/-- TXFER between the bench's two records. -/
def txfer9 : Ext := { plainExt 2 20 4 .s8 with c := 6, mod := 1, p := 7 }

/-- Its crowded bench. -/
def crowded9 : State := crowded (s9 bits7 bits7 (teamOf h9))

theorem transfer_spills : memAfter (exec (.txfer txfer9) crowded9) spilt = some 1 := by decide +kernel

end Sys2Proof.Tests

namespace Sys2Proof.Machine

open Sys2Proof.Tests

/-- Refutes O18: the load brings a line into a full set, and what leaves spills into the next line. -/
theorem not_loadsDeliverValues : ¬ Obligations.LoadsDeliverValues := by
  intro h
  obtain ⟨t, y, he, hr, -⟩ := h (.ldExt ld1) .ld ld1 (crowded s1) x1 [0] _ rfl rfl (issues_of here_crowded (by decide +kernel))
    ⟨by decide +kernel, fun h => absurd h (by decide +kernel)⟩ (found_of _ _ _ 0 (by decide +kernel)) (.inr rfl)
  exact not_reads_of_spill he load_spills (by decide +kernel) rfl rfl hr

/-- Refutes O19, by the same load delivered later. -/
theorem not_loadsLeaveBatons : ¬ Obligations.LoadsLeaveBatons := by
  rintro ⟨h, -⟩
  obtain ⟨t, y, f, he, hr, -⟩ := h (.ldExt ld1) .ld ld1 (late (crowded s1)) x1 [0] _ 0 rfl rfl (issues_of (by decide +kernel) (by decide +kernel))
    ⟨by decide +kernel, fun h => absurd h (by decide +kernel)⟩ (fun g hg => .inr (.inl (found_of _ _ _ 0 (by decide +kernel) g hg)))
    (by decide +kernel) (by decide +kernel) (by decide +kernel) (by decide +kernel)
  exact not_reads_of_spill he late_load_spills (by decide +kernel) rfl rfl hr

/-- Refutes O23, by a PREF. -/
theorem not_cacheInstructions : ¬ Obligations.CacheInstructions := by
  rintro ⟨h, -⟩
  obtain ⟨t, y, he, hr, -⟩ := h (.prefExt pref1) pref1 (crowded s1) x1 [0] rfl (issues_of here_crowded (by decide +kernel))
  exact not_reads_of_spill he prefetch_spills (by decide +kernel) rfl rfl hr

/-- Refutes O37, by the read of an MXBIND's record. -/
theorem not_matrixSetup : ¬ Obligations.MatrixSetup := by
  intro h
  obtain ⟨u, hu⟩ := record_of (s := ((crowded (s7 [])).account (x7 [])).1) (x := ((crowded (s7 [])).account (x7 [])).2) (a := 64) (r := record7)
    (by decide +kernel)
  obtain ⟨hbind, -⟩ := h (.mxbind bind7) bind7 (crowded (s7 [])) u (x7 []) [0] record7
  obtain ⟨t, y, he, hr, -⟩ := hbind rfl (issues_of (by decide +kernel) (by decide +kernel)) (by decide +kernel) hu (by decide +kernel)
  exact not_reads_of_spill he bind_spills (by decide +kernel) rfl rfl hr

/-- Refutes O41, by the reads of a TXFER's records. -/
theorem not_transferOperationsBegin : ¬ Obligations.TransferOperationsBegin := by
  rintro ⟨h, -⟩
  obtain ⟨t, y, he, hr, -⟩ := h (.txfer txfer9) .txfer txfer9 crowded9 _ _ x9 [0] record7 record7 _ (some 7) rfl rfl
    (issues_of (by decide +kernel) (by decide +kernel)) (by decide +kernel) (by decide +kernel) (records_of (by decide +kernel) rfl)
    (records_of (by decide +kernel) rfl) ⟨by decide +kernel, by decide +kernel, by decide +kernel, by decide +kernel⟩ (by decide +kernel) (by decide +kernel)
  exact not_reads_of_spill he transfer_spills (by decide +kernel) rfl rfl hr

/-- Refutes O21: a store to a PRIV page brings its line first. -/
theorem not_storesPerform : ¬ Obligations.StoresPerform := by
  rintro ⟨h, -⟩
  obtain ⟨he, hb, -⟩ := h (.stExt st1) .st st1 crowdedPriv _ x1 _ [0] _ [(0x5040, 4)] rfl rfl (issues_of (by decide +kernel) (by decide +kernel))
    (by decide +kernel) (by decide +kernel) rfl (by decide +kernel) rfl
  exact spills he store_spills (by decide +kernel)
    (hb spilt (not_pendingAt_of_nil rfl spilt) (not_dirtyAt_spilt rfl) (by unfold outside; decide +kernel))

/-- Refutes O24: so does an atomic. -/
theorem not_atomicsPerform : ¬ Obligations.AtomicsPerform := by
  intro h
  obtain ⟨u, z, he, -, -, -, -, -, hb⟩ := h (.amo amo1) .amo amo1 crowdedPriv _ x1 _ [0] _ _ [(0x5040, 4)] rfl rfl
    (issues_of (by decide +kernel) (by decide +kernel)) (by decide +kernel) (by decide +kernel) (by decide +kernel) (fun h => absurd h (by decide +kernel))
    rfl (.inr rfl)
  exact spills he atomic_spills (by decide +kernel)
    (hb (by decide +kernel) spilt (not_pendingAt_of_nil rfl spilt) (not_dirtyAt_spilt rfl) (by unfold outside; decide +kernel))

end Sys2Proof.Machine
end

section
/-!
SUPPORT. Atomics on a PHASE page (R136, R137): what a QPACK has left in a narrower layer stays there where an atomic is performed at its rind.
-/

namespace Sys2Proof.Tests

open Sys2Proof Sys2Proof.Machine

/-- A QPACK of a chunk at address 0, of which one byte is kept. -/
def pack25 : Pack := { base := 0, fmt := 1, word := word6, sat := 0, bytes := [(0, 1)] }

/-- The first byte of its rind, as the squad's layer holds it. -/
def rind25 : LayerByte := { pa := pack25.rindAt, byte := 7, seen := [], pc := 0, pack := some pack25 }

/-- The bench's unit, whose squad has published that. -/
def x25 : Site := seat { t1 with sqLayer := [[rind25]] } h1

/-- An atomic of the team at the rind leaves the squad's entry. -/
theorem rind_stays : layerGet (s1.phaseAtomic x25 pack25.rindAt [9] .team).2.sqLayer (pack25.rindAt + 0) = some 7 := by decide +kernel

end Sys2Proof.Tests

namespace Sys2Proof.Machine

open Sys2Proof.Tests

/-- Refutes O25: after an atomic at team scope on the first byte of a rind that the unit's squad holds, the squad's layer still has that byte. -/
theorem not_atomicsByClass : ¬ Obligations.AtomicsByClass := by
  rintro ⟨-, h⟩
  obtain ⟨-, hteam, -⟩ := h s1 x25 pack25.rindAt [9] mem1 (by decide +kernel) (by decide +kernel)
  obtain ⟨-, hnone⟩ := hteam 0 (by decide)
  rw [rind_stays] at hnone
  cases hnone

end Sys2Proof.Machine
end

section
/-!
SUPPORT. MXMA and MXZERO enter the array queue (R295, R296, R300).
-/

namespace Sys2Proof.Machine

section
variable {s : State} {x : Site} {is : List Nat} {e : Ext}

/-- The team whose issue is accounted. -/
theorem account_team (s : State) (x : Site) : (s.account x).2.team = { x.team with counters := (s.account x).2.team.counters } := by
  conv_lhs => rw [State.account_snd]

/-- The registers that MXMA names: its link address, if it has one, is a source. -/
def usesMxma (e : Ext) : List Use :=
  [readD e 1, readA e 1] ++ (if bitsOf e.imm.toNat 0 2 ≠ 0 then [{ reg := e.b.toNat, n := 2, rd := true }] else []) ++ [readC e 4]

@[simp] theorem account_linkTest (s : State) (x : Site) (i a : Nat) : (s.account x).2.linkTest i a = x.linkTest i a := by
  rw [Site.linkTest, Site.linkTest]
  simp only [account_check]

@[simp] theorem account_saving (s : State) (x : Site) : (s.account x).1.saving (s.account x).2.team = s.saving x.team := by
  rw [State.saving, State.saving, State.cluster?, State.die?, account_dies, account_cl, (State.issued_account s x).id]
  rfl

/-- The tests of an MXMA that all pass. -/
theorem mxmaTest_eq_none {x : Site} {i row link : Nat} {m : MxShape} {a b : Bound} (hrow : row + m.m ≤ x.team.accrows)
    (ha : x.team.slots.getD (bitsOf e.m1.toNat 0 3) none = some a) (hb : x.team.slots.getD e.mod.toNat none = some b) (herr : x.team.mxErr = false)
    (hl : bitsOf e.imm.toNat 0 2 ≠ 0 → x.linkTest i link = none) : x.mxmaTest e i row link (some m) = none := by
  have hslots : ¬((x.team.slots.getD (bitsOf e.m1.toNat 0 3) none).isNone ∨ (x.team.slots.getD e.mod.toNat none).isNone) := by
    rw [ha, hb]
    simp
  unfold Site.mxmaTest
  dsimp only
  rw [if_neg (by omega), if_neg hslots, herr, if_neg nofun]
  split
  · rfl
  · next h => rw [hl h]; rfl

theorem account_mxmaTest (s : State) (x : Site) (e : Ext) (i row link : Nat) (m : Option MxShape) :
    (s.account x).2.mxmaTest e i row link m = x.mxmaTest e i row link m := by
  unfold Site.mxmaTest
  rw [account_linkTest, account_team]

theorem linkOf_eq (e : Ext) (a : Nat) : linkOf e (if bitsOf e.imm.toNat 0 2 ≠ 0 then a else 0) = linkOf e a := by
  by_cases h : bitsOf e.imm.toNat 0 2 = 0
  · rw [linkOf, linkOf, h]
    rfl
  · rw [if_pos h]

/-- A unit whose team has changed beside the counters, in a package beside that of its issue. -/
theorem works_team {t : State} {us : List Use} {g : Guard} (h : Issues s x is g us) (ht : s.Beside t x) {z : Site} (hz : s.Issued x z) {u v : Team}
    (hv : v = { u with counters := v.counters }) (hid : u.id = x.team.id) (hheats : u.heats = x.team.heats) (hpacer : u.pacer = x.team.pacer)
    (hxsets : u.xsets = x.team.xsets) : ∃ y, Works s (t.done { z with team := v }) x y u := by
  have hw : s.Issued x { z with team := v } :=
    hz.congr rfl (by rw [hz.id, hv, ← hid]) (by rw [hz.heats, hv, ← hheats]) (by rw [hz.pacer, hv, ← hpacer]) (by rw [hz.xsets, hv, ← hxsets]) rfl rfl rfl
  refine ⟨_, hw.works h ht ?_⟩
  dsimp only
  rw [hv]

/-- What an issue that is accounted and puts its unit back leaves of the package. -/
theorem account_done (s : State) (x z : Site) :
    (s.account x).1.done z = { s with teams := ((s.account x).1.done z).teams, meets := ((s.account x).1.done z).meets } := by
  rw [State.account_fst]
  rfl

/-- An outcome that only puts back the unit with another team. -/
theorem account_works {us : List Use} {g : Guard} (h : Issues s x is g us) {u v : Team} (hv : v = { u with counters := v.counters })
    (hid : u.id = x.team.id) (hheats : u.heats = x.team.heats) (hpacer : u.pacer = x.team.pacer) (hxsets : u.xsets = x.team.xsets) :
    ∃ t y, (Host.Outcome.next ((s.account x).1.done { (s.account x).2 with team := v }) : Out) = .next t ∧ t = { s with teams := t.teams, meets := t.meets } ∧
      Works s t x y u := by
  obtain ⟨y, hy⟩ := works_team h (State.beside_account s x) (State.issued_account s x) hv hid hheats hpacer hxsets
  exact ⟨_, y, rfl, account_done s x _, hy⟩

theorem mxzero_spec (h : Issues s x is e.guard (readA e 1 :: readB e 1)) (hlo : 1 ≤ x.srcN (is.headD 0) e) (hhi : x.srcN (is.headD 0) e ≤ 2048)
    (hrow : x.val (is.headD 0) e.a.toNat 1 + x.srcN (is.headD 0) e ≤ x.team.accrows) (herr : x.team.mxErr = false) (hroom : x.team.queue.length < 8)
    (hs : s.saving x.team = false) :
    ∃ t y, opMxzero e s = .next t ∧ t = { s with teams := t.teams, meets := t.meets } ∧
      Works s t x y { x.team with queue := x.team.queue ++ [{
        row0 := x.val (is.headD 0) e.a.toNat 1, rows := x.srcN (is.headD 0) e, work := .zero, pc := s.cur.pc, applied := 0, chunks := [], held := none,
        stop := none }] } := by
  rw [opMxzero, issue_eq h]
  simp only [account_val, account_srcN, account_saving, account_cur]
  rw [account_team]
  dsimp only
  rw [if_neg (by simp only [herr, Bool.false_eq_true, or_false]; omega), if_neg (by simp only [hs, Bool.false_eq_true, or_false]; omega)]
  exact account_works h rfl rfl rfl rfl rfl

/-- The entry of an MXMA, with its link by name. -/
theorem Site.mxEntry_eq (x : Site) (s : State) (e : Ext) (i : Nat) (m : MxShape) (a b : Bound) : x.mxEntry s e i m a b =
    { row0 := x.val i e.a.toNat 1, rows := m.m, pc := s.cur.pc, applied := 0, chunks := [], held := none, stop := none
      work := .mma m.n m.k a b (x.val i (e.c.toNat + 0) 1) (x.val i (e.c.toNat + 1) 1) (x.val i (e.c.toNat + 2) 1) (x.val i (e.c.toNat + 3) 1)
        (e.m1.getLsbD 3) (linkOf e (x.val i e.b.toNat 2)) x.team.fenced } := by
  have h4 : bitsOf e.imm.toNat 0 2 = e.imm.toNat % 4 := by norm_num [bitsOf]
  unfold Site.mxEntry linkOf
  rw [h4] <;> rfl

/-- A unit after a further charge on its own die. -/
theorem State.charge_eq (s : State) (x : Site) (n : Nat) :
    s.charge x n = (s.chargeMeet x.team.meet x.team.cl.die n, { x with team := x.team.count 2 n }) := rfl

theorem opMxma_eq {m : MxShape} {a b : Bound} (h : Issues s x is e.guard (usesMxma e)) (hm : MxShape.ofWord (x.word (is.headD 0) e.d.toNat) = some m)
    (hrow : x.val (is.headD 0) e.a.toNat 1 + m.m ≤ x.team.accrows) (ha : x.team.slots.getD (bitsOf e.m1.toNat 0 3) none = some a)
    (hb : x.team.slots.getD e.mod.toNat none = some b) (herr : x.team.mxErr = false)
    (hl : bitsOf e.imm.toNat 0 2 ≠ 0 → x.linkTest (is.headD 0) (x.val (is.headD 0) e.b.toNat 2) = none) (hroom : x.team.queue.length < 8)
    (hs : s.saving x.team = false) :
    opMxma e s = .next (((s.account x).1.chargeMeet x.team.meet x.team.cl.die (32 * kChunks m.k)).done { (s.account x).2 with
      team := { (s.account x).2.team.count 2 (32 * kChunks m.k) with
        queue := x.team.queue ++ [x.mxEntry s e (is.headD 0) m a b], fenced := false } }) := by
  have htest := mxmaTest_eq_none (i := is.headD 0) (link := if bitsOf e.imm.toNat 0 2 ≠ 0 then x.val (is.headD 0) e.b.toNat 2 else 0) hrow ha hb herr
    fun h0 => by rw [if_pos h0]; exact hl h0
  rw [opMxma]
  simp only [decide_eq_true_eq]
  refine (issue_eq (us := usesMxma e) h _).trans ?_
  simp only [account_val, account_word, account_mxmaTest, hm, htest, account_saving, account_cur, Site.enqueue, State.charge_eq,
    linkOf_eq]
  rw [account_team]
  dsimp only
  rw [ha, hb]
  dsimp only
  rw [if_neg (by simp only [hs, Bool.false_eq_true, or_false]; omega), Site.mxEntry_eq, account_team]
  rfl

theorem mxma_spec {m : MxShape} {a b : Bound} (h : Issues s x is e.guard (usesMxma e))
    (he : opMxma e s = .next (((s.account x).1.chargeMeet x.team.meet x.team.cl.die (32 * kChunks m.k)).done { (s.account x).2 with
      team := { (s.account x).2.team.count 2 (32 * kChunks m.k) with
        queue := x.team.queue ++ [x.mxEntry s e (is.headD 0) m a b], fenced := false } })) :
    ∃ t y, opMxma e s = .next t ∧ t = { s with teams := t.teams, meets := t.meets } ∧
      Works s t x y { x.team with queue := x.team.queue ++ [x.mxEntry s e (is.headD 0) m a b], fenced := false } ∧
      charged s t x (32 * ((m.k + 31) / 32)) := by
  obtain ⟨y, hy⟩ := works_team h ((State.beside_account s x).charge x.team.cl.die (32 * kChunks m.k)) (State.issued_account s x)
    (u := { x.team with queue := x.team.queue ++ [x.mxEntry s e (is.headD 0) m a b], fenced := false })
    (v := { (s.account x).2.team.count 2 (32 * kChunks m.k) with queue := x.team.queue ++ [x.mxEntry s e (is.headD 0) m a b], fenced := false })
    (by rw [account_team]; rfl) rfl rfl rfl rfl
  refine ⟨_, y, he, ?_, hy, charged_of_chargeMeet ?_⟩
  · rw [State.chargeMeet_eq, State.account_fst]
    rfl
  · exact (State.chargeMeet_meet? _ _ _ _ _).trans (if_pos rfl)

end

/-- Settles O38. -/
theorem matrixEntriesAreQueued : Obligations.MatrixEntriesAreQueued := by
  refine fun i e s x is => ⟨fun m a b hi h hm hrow ha hb herr hl hroom hs => ?_, fun hi h hlo hhi hrow herr hroom hs => ?_⟩
  · have he : exec i s = opMxma e s := by
      cases i with
      | mxma => cases hi; rfl
      | _ => cases hi
    rw [he]
    exact mxma_spec h (opMxma_eq h hm hrow ha hb herr hl hroom hs)
  · have he : exec i s = opMxzero e s := by
      cases i with
      | mxzero => cases hi; rfl
      | _ => cases hi
    rw [he]
    exact mxzero_spec h hlo hhi hrow herr hroom hs

end Sys2Proof.Machine
end

section
/-!
SUPPORT. Lists of slots put into registers, and accesses of the accumulator (R303 to R306).
-/

namespace Sys2Proof.Machine

/-! ### Slots put into registers -/

/-- Put slots into registers from r upwards. -/
def Site.putSlots (x : Site) (i r : Nat) : List Slot → Site
  | [] => x
  | v :: vs => (x.setSlot i r v).putSlots i (r + 1) vs

/-- The parts of a record, from part k upwards. -/
def recordParts (tag : BitVec 6) (st : RecState) (k n : Nat) : List Slot :=
  (List.range' k n).map fun j => .bat { tag := tag, part := j, a := 1, b := 0, chain := [], st := st }

theorem recordParts_length (tag : BitVec 6) (st : RecState) (k n : Nat) : (recordParts tag st k n).length = n := by
  rw [recordParts, List.length_map, List.length_range']

theorem Site.putWords_eq (x : Site) (i r : Nat) (ws : List Word) : x.putWords i r ws = x.putSlots i r (ws.map .val) := by
  induction ws generalizing x r with
  | nil => rfl
  | cons w ws ih => exact ih _ _

theorem Site.putRecord_eq (x : Site) (i r : Nat) (tag : BitVec 6) (st : RecState) (k n : Nat) :
    x.putRecord i r tag st k n = x.putSlots i r (recordParts tag st k n) := by
  induction n generalizing x r k with
  | zero => rfl
  | succ n ih => exact ih _ _ _

section
variable (x : Site) (i r : Nat) (vs : List Slot)

theorem Site.sameBut_putSlots : x.SameBut (x.putSlots i r vs) := by
  induction vs generalizing x r with
  | nil => exact .rfl' x
  | cons v vs ih => exact (x.sameBut_setSlot i r v).trans (ih _ _)

theorem Site.seed_putSlots (k : Nat) : (x.putSlots i r vs).seed k = x.seed k := by
  induction vs generalizing x r with
  | nil => rfl
  | cons v vs ih => exact (ih _ _).trans (x.seed_setSlot i r v k)

theorem Site.has_putSlots {j q : Nat} (h : x.Has j q) : (x.putSlots i r vs).Has j q := by
  induction vs generalizing x r with
  | nil => exact h
  | cons v vs ih => exact ih _ _ (x.has_setSlot i r j q v h)

theorem Site.slot_putSlots_other {j q : Nat} (h : i ≠ j ∨ q < r ∨ r + vs.length ≤ q) : (x.putSlots i r vs).slot j q = x.slot j q := by
  induction vs generalizing x r with
  | nil => rfl
  | cons v vs ih =>
    rw [List.length_cons] at h
    exact (ih _ _ (by omega)).trans (x.slot_setSlot_other i r j q v (by omega))

theorem Site.slot_putSlots {k : Nat} (hk : k < vs.length) (h : ∀ j < vs.length, x.Has i (r + j)) :
    (x.putSlots i r vs).slot i (r + k) = vs.getD k (.val 0) := by
  induction vs generalizing x r k with
  | nil => cases hk
  | cons v vs ih =>
    rw [List.length_cons] at hk h
    cases k with
    | zero => exact ((x.setSlot i r v).slot_putSlots_other i (r + 1) vs (by omega)).trans (x.slot_setSlot i r v (h 0 (by omega)))
    | succ k =>
      rw [show r + (k + 1) = r + 1 + k by omega]
      exact ih _ _ (by omega) fun j hj => x.has_setSlot _ _ _ _ _ (by rw [Nat.add_right_comm]; exact h (j + 1) (by omega))

end

/-! ### Registers filled in each executing fibre -/

/-- A change of each fibre that fills n registers from d and leaves every other. -/
structure Site.Fills (g : Site → Nat → Site) (d n : Nat) (v : Nat → Nat → Slot) : Prop where
  same : ∀ (y : Site) i, y.SameBut (g y i)
  has : ∀ (y : Site) i j q, y.Has j q → (g y i).Has j q
  other : ∀ (y : Site) i j q, i ≠ j ∨ q < d ∨ d + n ≤ q → (g y i).slot j q = y.slot j q
  slot : ∀ (y : Site) i, (∀ k < n, y.Has i (d + k)) → ∀ k < n, (g y i).slot i (d + k) = v i k

theorem Site.fills_putSlots {d n : Nat} {vs : Nat → List Slot} (hn : ∀ i, (vs i).length = n) :
    Site.Fills (fun y i => y.putSlots i d (vs i)) d n fun i k => (vs i).getD k (.val 0) where
  same y i := y.sameBut_putSlots i d (vs i)
  has y i _ _ h := y.has_putSlots i d (vs i) h
  other y i j q h := y.slot_putSlots_other i d (vs i) (by rw [hn]; exact h)
  slot y i h k hk := y.slot_putSlots i d (vs i) (by rw [hn]; exact hk) (by rw [hn]; exact h)

section
variable {g : Site → Nat → Site} {d n : Nat} {v : Nat → Nat → Slot}

/-- Moving a generator besides fills no register. -/
theorem Site.Fills.seeded (h : Site.Fills g d n v) (x : Site) (e : Ext) (m : Nat) : Site.Fills (fun y i => x.drawn e i m (g y i)) d n v where
  same y i := by
    rw [Site.drawn]
    split
    · exact (h.same y i).trans (Site.sameBut_setSeed _ _ _)
    · exact h.same y i
  has y i j q hq := by
    rw [Site.drawn]
    split
    · exact Site.has_setSeed _ _ _ _ _ (h.has y i j q hq)
    · exact h.has y i j q hq
  other y i j q hq := by
    rw [Site.drawn]
    split
    · exact (Site.slot_setSeed _ _ _ _ _).trans (h.other y i j q hq)
    · exact h.other y i j q hq
  slot y i hi k hk := by
    rw [Site.drawn]
    split
    · exact (Site.slot_setSeed _ _ _ _ _).trans (h.slot y i hi k hk)
    · exact h.slot y i hi k hk

theorem Site.Fills.sameBut_fold (h : Site.Fills g d n v) (is : List Nat) (x : Site) : x.SameBut (is.foldl g x) := Machine.sameBut_fold (fun i y => g y i) (fun i y => h.same y i) is x

theorem Site.Fills.fold_other (h : Site.Fills g d n v) (is : List Nat) (x : Site) {j q : Nat} (hq : j ∉ is ∨ q < d ∨ d + n ≤ q) :
    (is.foldl g x).slot j q = x.slot j q := by
  induction is generalizing x with
  | nil => rfl
  | cons i is ih =>
    refine (ih (g x i) (hq.imp_left fun hj => List.not_mem_of_not_mem_cons hj)).trans (h.other x i j q ?_)
    exact hq.imp_left fun hj => Ne.symm (List.ne_of_not_mem_cons hj)

theorem Site.Fills.fold_slot (h : Site.Fills g d n v) (is : List Nat) (hn : is.Nodup) (x : Site) (hx : ∀ i ∈ is, ∀ k < n, x.Has i (d + k)) :
    ∀ i ∈ is, ∀ k < n, (is.foldl g x).slot i (d + k) = v i k := by
  induction is generalizing x with
  | nil => nofun
  | cons j is ih =>
    intro i hi k hk
    obtain ⟨hj, hn⟩ := List.nodup_cons.mp hn
    obtain rfl | hi := List.mem_cons.mp hi
    · exact (h.fold_other is _ (.inl hj)).trans (h.slot x i (hx i List.mem_cons_self) k hk)
    · exact ih hn _ (fun i hi k hk => h.has _ _ _ _ (hx i (List.mem_cons_of_mem _ hi) k hk)) i hi k hk

end

/-! ### ACCRD (R304, R305) -/

section
variable {s : State} {x : Site} {is : List Nat} {e : Ext} {us : List Use} {g : Guard}

theorem accWords_length (ty : Ty) (mode : Nat) (seed : Word) {vs : List Word} (h : vs.length = accCount ty) : (accWords ty mode seed vs).length = accRegs ty := by
  rw [accWords, accRegs]
  split
  · rfl
  · exact h

theorem Team.accRead_length (t : Team) (row col n : Nat) : (t.accRead row col n).length = n := by rw [Team.accRead, List.length_map, List.length_range]

@[simp] theorem account_accCol (s : State) (x : Site) (i : Nat) (e : Ext) : (s.account x).2.accCol i e = x.accCol i e := by
  rw [Site.accCol, Site.accCol, account_val]

@[simp] theorem account_accTest (s : State) (x : Site) (e : Ext) : (s.account x).2.accTest e = x.accTest e := by
  funext i
  rw [Site.accTest, Site.accTest, account_val, account_accCol, account_team]

@[simp] theorem account_claimedBy (s : State) (x : Site) (row : Nat) : (s.account x).2.team.claimedBy row = x.team.claimedBy row := by
  rw [account_team]
  rfl

@[simp] theorem account_accRead (s : State) (x : Site) (row col n : Nat) : (s.account x).2.team.accRead row col n = x.team.accRead row col n := by
  rw [account_team]
  rfl

@[simp] theorem account_freeTag (s : State) (x : Site) : (s.account x).1.freeTag (s.account x).2 = s.freeTag x := by
  rw [State.freeTag, State.freeTag, State.tagsUsed, State.tagsUsed, account_teams, State.account_snd]
  rfl

/-- The fibres of an ACCRD whose rows an entry of the queue still claims (R305). -/
def Site.accLate (x : Site) (e : Ext) (is : List Nat) : List Nat := is.filter fun i => x.team.claimedBy (x.val i e.a.toNat 1) ≠ 0

theorem Site.mem_accLate {i : Nat} (hi : i ∈ is) : i ∈ x.accLate e is ↔ x.team.claimedBy (x.val i e.a.toNat 1) ≠ 0 := by
  rw [Site.accLate, List.mem_filter, decide_eq_true_eq]
  exact and_iff_right hi

theorem account_accLate (s : State) (x : Site) (e : Ext) (is : List Nat) : (s.account x).2.accLate e is = x.accLate e is := by
  simp only [Site.accLate, account_claimedBy, account_val]

/-- What an ACCRD leaves in the destination of one fibre. -/
def Site.accSlots (x : Site) (e : Ext) (is : List Nat) (tag : BitVec 6) (i : Nat) : List Slot :=
  if i ∈ x.accLate e is then recordParts tag .pending 0 (accRegs e.ty)
  else (accWords e.ty e.rs.toNat (x.seed i) (x.team.accRead (x.val i e.a.toNat 1) (x.accCol i e) (accCount e.ty))).map .val

theorem account_accSlots (s : State) (x : Site) (e : Ext) (is : List Nat) (tag : BitVec 6) (i : Nat) :
    (s.account x).2.accSlots e is tag i = x.accSlots e is tag i := by
  simp only [Site.accSlots, account_accLate, account_seed, account_accRead, account_val, account_accCol]

theorem Site.accSlots_length (x : Site) (e : Ext) (is : List Nat) (tag : BitVec 6) (i : Nat) : (x.accSlots e is tag i).length = accRegs e.ty := by
  rw [Site.accSlots]
  split
  · exact recordParts_length _ _ _ _
  · rw [List.length_map]
    exact accWords_length _ _ _ (Team.accRead_length _ _ _ _)

/-- What an ACCRD does to one fibre. -/
def Site.accFill (x : Site) (e : Ext) (is : List Nat) (tag : BitVec 6) (y : Site) (i : Nat) : Site :=
  if e.ty = .h2 ∨ e.ty = .b2 then x.drawn e i 2 (y.putSlots i e.d.toNat (x.accSlots e is tag i)) else y.putSlots i e.d.toNat (x.accSlots e is tag i)

theorem Site.fills_accFill (x : Site) (e : Ext) (is : List Nat) (tag : BitVec 6) :
    Site.Fills (x.accFill e is tag) e.d.toNat (accRegs e.ty) fun i k => (x.accSlots e is tag i).getD k (.val 0) := by
  have hp := Site.fills_putSlots (d := e.d.toNat) (fun i => x.accSlots_length e is tag i)
  by_cases h : e.ty = .h2 ∨ e.ty = .b2
  · have he : x.accFill e is tag = fun y i => x.drawn e i 2 (y.putSlots i e.d.toNat (x.accSlots e is tag i)) := by
      funext y i
      exact if_pos h
    rw [he]
    exact hp.seeded x e 2
  · have he : x.accFill e is tag = fun y i => y.putSlots i e.d.toNat (x.accSlots e is tag i) := by
      funext y i
      exact if_neg h
    rw [he]
    exact hp

/-- The unit y with another list of flights, or as it stands. -/
def Site.withFlights (y : Site) (l : List Flight) : Site := { y with heat := { y.heat with flights := l } }

/-- What opAccrd does to one fibre. -/
theorem Site.accFill_eq (x : Site) (e : Ext) (is : List Nat) (tag : BitVec 6) :
    (fun (y : Site) i => if e.ty = .h2 ∨ e.ty = .b2 then x.drawn e i 2 (
        if i ∈ is.filter fun i => decide (x.team.claimedBy (x.val i e.a.toNat 1) ≠ 0) then y.putRecord i e.d.toNat tag .pending 0 (accRegs e.ty)
        else y.putWords i e.d.toNat (accWords e.ty (rndOf e) (x.seed i) (x.team.accRead (x.val i e.a.toNat 1) (x.accCol i e) (accCount e.ty))))
      else if i ∈ is.filter fun i => decide (x.team.claimedBy (x.val i e.a.toNat 1) ≠ 0) then y.putRecord i e.d.toNat tag .pending 0 (accRegs e.ty)
      else y.putWords i e.d.toNat (accWords e.ty (rndOf e) (x.seed i) (x.team.accRead (x.val i e.a.toNat 1) (x.accCol i e) (accCount e.ty)))) =
    x.accFill e is tag := by
  funext y i
  rw [Site.accFill, Site.accSlots, Site.accLate, Site.putRecord_eq, Site.putWords_eq]
  by_cases hi : i ∈ is.filter fun i => decide (x.team.claimedBy (x.val i e.a.toNat 1) ≠ 0)
  · rw [if_pos hi, if_pos hi]
  · rw [if_neg hi, if_neg hi]
    rfl

/-- With no claimed row no tag is taken. -/
theorem Site.accFill_congr {x : Site} {e : Ext} {is : List Nat} (h : x.accLate e is = []) (a b : BitVec 6) : x.accFill e is a = x.accFill e is b := by
  funext y i
  rw [Site.accFill, Site.accFill, Site.accSlots, Site.accSlots, h, if_neg List.not_mem_nil, if_neg List.not_mem_nil]

theorem opAccrd_eq {tag : BitVec 6} (h : Issues s x is e.guard ([useD e (accRegs e.ty), readA e 1] ++ readB e 1)) (ht : is.findSome? (x.accTest e) = none)
    (hl : x.accLate e is = [] ∨ s.freeTag x = some tag) :
    ∃ l, opAccrd e s = .next ((s.account x).1.done ((is.foldl ((s.account x).2.accFill e is tag) (s.account x).2).withFlights l)) := by
  rw [← account_accLate s] at hl
  rw [opAccrd, issue_eq h]
  simp only [account_accTest, ht, account_freeTag, Site.accFill_eq]
  generalize (s.account x).2 = z at hl ⊢
  by_cases hn : z.accLate e is = []
  · rw [if_pos (show List.filter _ is = [] from hn)]
    dsimp only
    rw [if_pos (show List.filter _ is = [] from hn), Site.accFill_congr hn 0 tag]
    exact ⟨_, rfl⟩
  · rw [if_neg (show ¬ List.filter _ is = [] from hn), hl.resolve_left hn]
    dsimp only
    rw [if_neg (show ¬ List.filter _ is = [] from hn)]
    exact ⟨_, rfl⟩

theorem recordParts_getD (tag : BitVec 6) (st : RecState) {n r : Nat} (h : r < n) :
    (recordParts tag st 0 n).getD r (.val 0) = .bat { tag := tag, part := r, a := 1, b := 0, chain := [], st := st } := by
  rw [List.getD_eq_getElem _ _ (by rw [recordParts_length]; exact h)]
  simp only [recordParts, List.getElem_map, List.getElem_range', Nat.zero_add, Nat.one_mul]

theorem Site.accSlots_getD {i r : Nat} (hi : i ∈ is) (tag : BitVec 6) (hr : r < accRegs e.ty) :
    (¬ x.team.claimedBy (x.val i e.a.toNat 1) ≠ 0 → (x.accSlots e is tag i).getD r (.val 0) =
      .val ((accWords e.ty e.rs.toNat (x.seed i) (x.team.accRead (x.val i e.a.toNat 1) (x.accCol i e) (accCount e.ty))).getD r 0)) ∧
    (x.team.claimedBy (x.val i e.a.toNat 1) ≠ 0 → (x.accSlots e is tag i).getD r (.val 0) =
      .bat { tag := tag, part := r, a := 1, b := 0, chain := [], st := .pending }) := by
  refine ⟨fun hl => ?_, fun hl => ?_⟩
  · rw [Site.accSlots, if_neg ((Site.mem_accLate hi).not.mpr hl)]
    exact List.getD_map _ _ _
  · rw [Site.accSlots, if_pos ((Site.mem_accLate hi).mpr hl)]
    exact recordParts_getD _ _ hr

theorem accrd_spec {tag : BitVec 6} (h : Issues s x is e.guard ([useD e (accRegs e.ty), readA e 1] ++ readB e 1)) (ht : is.findSome? (x.accTest e) = none)
    (hl : x.accLate e is = [] ∨ s.freeTag x = some tag) :
    ∃ t y, opAccrd e s = .next t ∧ Own s t x y ∧ Advanced s x y ∧
      (∀ k ∈ is, ∀ r < accRegs e.ty, y.slot k (e.d.toNat + r) = (x.accSlots e is tag k).getD r (.val 0)) ∧
      (∀ k r, k ∉ is ∨ r < e.d.toNat ∨ e.d.toNat + accRegs e.ty ≤ r → y.slot k r = x.slot k r) ∧ y.team.acc = x.team.acc := by
  obtain ⟨l, he⟩ := opAccrd_eq h ht hl
  have hf := (s.account x).2.fills_accFill e is tag
  have hsame := hf.sameBut_fold is (s.account x).2
  have hk : s.Keeps x ((is.foldl ((s.account x).2.accFill e is tag) (s.account x).2).withFlights l) :=
    ((State.keeps_account s x).sameBut hsame).congr rfl rfl rfl rfl rfl rfl rfl
  have hslot := hf.fold_slot is h.nodup (s.account x).2 fun i hi k hk => State.account_has s x _ _ (h.fields (useD e (accRegs e.ty)) (by simp) i hi k hk)
  have hother := fun k r => hf.fold_other is (s.account x).2 (j := k) (q := r)
  generalize is.foldl ((s.account x).2.accFill e is tag) (s.account x).2 = y at he hsame hk hslot hother
  have hsl (k r : Nat) : ((y.withFlights l).after s).slot k r = y.slot k r :=
    (Site.slot_after _ _ k r).trans (Site.slot_congr _ _ k r rfl rfl rfl)
  refine ⟨_, _, he, hk.own h.here, hk.advanced h.once, fun k hi r hr => ?_, fun k r hr => ?_, ?_⟩
  · rw [hsl, hslot k hi r hr, account_accSlots]
  · rw [hsl, hother k r hr, account_slot]
  · rw [Site.after_team]
    change y.team.acc = _
    rw [hsame.rest, account_team]

/-! ### ACCWR (R304, R305) -/

theorem SMap.get?_set {α : Type} (m : SMap α) (k j : Nat) (v : α) : SMap.get? (SMap.set m k v) j = if k = j then some v else SMap.get? m j := by
  induction m with
  | nil => rfl
  | cons p r ih =>
    obtain ⟨a, w⟩ := p
    rw [SMap.set]
    split
    · rfl
    · split
      · next hak =>
        subst hak
        rw [SMap.get?, SMap.get?]
        split <;> rfl
      · next hak =>
        rw [SMap.get?, SMap.get?, ih]
        split
        · next haj => rw [if_neg fun hkj => hak (haj.trans hkj.symm)]
        · rfl

theorem SMap.get?_del {α : Type} (m : SMap α) (k j : Nat) : SMap.get? (SMap.del m k) j = if k = j then none else SMap.get? m j := by
  induction m with
  | nil => exact (ite_self _).symm
  | cons p r ih =>
    obtain ⟨a, w⟩ := p
    rw [SMap.get?, SMap.del, List.filter_cons]
    by_cases hak : a = k
    · rw [if_neg (by simpa using hak)]
      refine ih.trans ?_
      split
      · rfl
      · next hkj => rw [if_neg fun haj => hkj (hak.symm.trans haj)]
    · rw [if_pos (by simpa using hak), SMap.get?]
      split
      · next haj => rw [if_neg fun hkj => hak (haj.trans hkj.symm)]
      · exact ih

theorem Team.accGet_accPut (t : Team) {col c : Nat} (row r : Nat) (w : Word) (hcol : col < 128) (hc : c < 128) :
    (t.accPut row col w).accGet r c = if (row, col) = (r, c) then w else t.accGet r c := by
  have hkey : 128 * row + col = 128 * r + c ↔ (row, col) = (r, c) := by
    rw [Prod.mk.injEq]
    omega
  rw [Team.accGet, Team.accGet, Team.accPut]
  dsimp only
  split
  · next hw =>
    rw [SMap.get?_del]
    split
    · next h => rw [if_pos (hkey.mp h), hw]; rfl
    · next h => rw [if_neg (hkey.not.mp h)]
  · rw [SMap.get?_set]
    split
    · next h => rw [if_pos (hkey.mp h)]; rfl
    · next h => rw [if_neg (hkey.not.mp h)]

/-- A word written to the accumulator, or with .add added to it (R305). -/
def Site.accWord (x : Site) (e : Ext) (i : Nat) (t : Team) (p : Word × Nat) : Team :=
  t.accPut (x.val i e.a.toNat 1) (x.accCol i e + p.2)
    (if e.mod.getLsbD 1 then accAdd (t.accGet (x.val i e.a.toNat 1) (x.accCol i e + p.2)) p.1 else p.1)

/-- The team after an ACCWR of some fibres. -/
def Site.accStore (x : Site) (e : Ext) (is : List Nat) (t : Team) : Team := is.foldl (fun t i => (x.accData i e).zipIdx.foldl (x.accWord e i) t) t

theorem Site.accWord_fold_acc (x : Site) (e : Ext) (i : Nat) (l : List (Word × Nat)) (t : Team) :
    l.foldl (x.accWord e i) t = { t with acc := (l.foldl (x.accWord e i) t).acc } := by
  induction l generalizing t with
  | nil => rfl
  | cons p l ih =>
    rw [List.foldl_cons, ih]
    rfl

theorem Site.accStore_acc (x : Site) (e : Ext) (is : List Nat) (t : Team) : x.accStore e is t = { t with acc := (x.accStore e is t).acc } := by
  induction is generalizing t with
  | nil => rfl
  | cons i is ih =>
    have hi := x.accWord_fold_acc e i (x.accData i e).zipIdx t
    rw [Site.accStore, List.foldl_cons]
    refine (ih _).trans ?_
    rw [hi]
    rfl

theorem Site.accWord_fold_get (x : Site) (e : Ext) (i : Nat) {col : Nat} (row : Nat) (hcol : col < 128) (l : List (Word × Nat))
    (hl : ∀ p ∈ l, x.accCol i e + p.2 < 128) (t : Team) :
    (l.foldl (x.accWord e i) t).accGet row col = l.foldl (fun w p =>
      if x.accPlace e i p.2 = (row, col) then (if e.mod.getLsbD 1 then accAdd w p.1 else p.1) else w) (t.accGet row col) := by
  induction l generalizing t with
  | nil => rfl
  | cons p l ih =>
    rw [List.foldl_cons, List.foldl_cons, ih (fun q hq => hl q (List.mem_cons_of_mem _ hq)), Site.accWord,
      Team.accGet_accPut _ _ _ _ (hl p List.mem_cons_self) hcol, Site.accPlace]
    congr 1
    split
    · next h =>
      obtain ⟨h1, h2⟩ := Prod.mk.inj h
      rw [← h1, ← h2]
    · rfl

theorem Site.accData_length (x : Site) (i : Nat) (e : Ext) : (x.accData i e).length = accCount e.ty := by
  rw [Site.accData]
  split
  · next h => obtain h | h := h <;> rw [h] <;> rfl
  · rw [List.length_map, List.length_range]

theorem Site.accTest_fits {i : Nat} (h : x.accTest e i = none) : x.accCol i e + accCount e.ty ≤ 128 := by
  rw [Site.accTest] at h
  split at h
  · cases h
  · omega

theorem Site.accStore_get (x : Site) (e : Ext) {col : Nat} (row : Nat) (hcol : col < 128) (is : List Nat) (h : ∀ i ∈ is, x.accTest e i = none) (t : Team) :
    (x.accStore e is t).accGet row col = x.accAfter e row col (t.accGet row col) is := by
  induction is generalizing t with
  | nil => rfl
  | cons i is ih =>
    have hfit := Site.accTest_fits (h i List.mem_cons_self)
    rw [Site.accStore, List.foldl_cons, Site.accAfter, List.foldl_cons]
    refine (ih (fun j hj => h j (List.mem_cons_of_mem _ hj)) _).trans ?_
    rw [x.accWord_fold_get e i row hcol _ fun p hp => ?_]
    · rfl
    · have := (List.mem_zipIdx' hp).1
      rw [x.accData_length] at this
      omega

theorem account_accData (s : State) (x : Site) (i : Nat) (e : Ext) : (s.account x).2.accData i e = x.accData i e := by
  simp only [Site.accData, account_val, account_word]

theorem opAccwr_eq (h : Issues s x is e.guard ([readD e (accRegs e.ty), readA e 1] ++ readB e 1)) (ht : is.findSome? (x.accTest e) = none)
    (hr : ∀ k ∈ is, x.heat.reads (x.val k e.a.toNat 1) = false) :
    opAccwr e s = .next ((s.account x).1.done { (s.account x).2 with team := x.accStore e is (s.account x).2.team }) := by
  have hreads (row : Nat) : (s.account x).2.heat.reads row = x.heat.reads row := by
    rw [State.account_snd]
    rfl
  rw [opAccwr, issue_eq h]
  simp only [account_accTest, ht, account_val, hreads, account_accCol, account_accData]
  rw [if_neg (by simpa using hr)]
  rfl

theorem accwr_spec (h : Issues s x is e.guard ([readD e (accRegs e.ty), readA e 1] ++ readB e 1)) (ht : is.findSome? (x.accTest e) = none)
    (hr : ∀ k ∈ is, x.heat.reads (x.val k e.a.toNat 1) = false) :
    ∃ t y, opAccwr e s = .next t ∧ t = { s with teams := t.teams, meets := t.meets } ∧ Works s t x y { x.team with acc := y.team.acc } ∧
      ∀ row col, col < 128 → y.team.accGet row col = x.accAfter e row col (x.team.accGet row col) is := by
  have hacc := x.accStore_acc e is (s.account x).2.team
  obtain ⟨t, y, he, ht', hw⟩ := account_works h (u := { x.team with acc := (x.accStore e is (s.account x).2.team).acc })
    (v := x.accStore e is (s.account x).2.team) (by rw [hacc, account_team]) rfl rfl rfl rfl
  have hy : y.team.acc = (x.accStore e is (s.account x).2.team).acc := by rw [hw.team]
  refine ⟨t, y, (opAccwr_eq h ht hr).trans he, ht', by rw [hy]; exact hw, fun row col hcol => ?_⟩
  have hget : y.team.accGet row col = (x.accStore e is (s.account x).2.team).accGet row col := by rw [Team.accGet, hy, Team.accGet]
  have hx : (s.account x).2.team.accGet row col = x.team.accGet row col := by rw [account_team, Team.accGet, Team.accGet]
  rw [hget, x.accStore_get e row hcol is fun i hi => List.findSome?_eq_none_iff.mp ht i hi, hx]

end

/-- Settles O39. -/
theorem accumulatorAccess : Obligations.AccumulatorAccess := by
  refine ⟨fun i e s x is tag hi h ht hl => ?_, fun i e s x is hi h ht hr => ?_⟩
  · have he : exec i s = opAccrd e s := by
      cases i with
      | accrd => cases hi; rfl
      | _ => cases hi
    obtain ⟨t, y, hn, hown, hadv, hslots, hframe, hacc⟩ := accrd_spec h ht (hl.imp_left fun hl => List.filter_eq_nil_iff.mpr fun k hk => by simpa using hl k hk)
    refine ⟨t, y, he.trans hn, hown, hadv, fun k hk r hr => ?_, hframe, hacc⟩
    rw [hslots k hk r hr]
    exact Site.accSlots_getD hk tag hr
  · have he : exec i s = opAccwr e s := by
      cases i with
      | accwr => cases hi; rfl
      | _ => cases hi
    rw [he]
    exact accwr_spec h ht hr

end Sys2Proof.Machine
end

section
/-!
SUPPORT. Reads that bring no line nearer (R117, R145): memory changes only where a U line's reduction reaches its home.
-/

namespace Sys2Proof.Machine

/-- The package t is s after looks at homes: what loads can do, and memory stands wherever no U line owes it a reduction. -/
structure State.Peeks (s t : State) : Prop extends s.Looks t where
  bytes : ∀ a, ¬ s.pendingAt a → Memory.get t.mem a = Memory.get s.mem a

namespace State.Peeks

theorem of_mem {s t : State} (h : s.Looks t) (hm : t.mem = s.mem) : s.Peeks t := ⟨h, fun _ _ => by rw [hm]⟩

theorem refl (s : State) : s.Peeks s := .of_mem (.refl s) rfl

theorem trans {s t u : State} (h : s.Peeks t) (k : t.Peeks u) : s.Peeks u where
  toLooks := h.toLooks.trans k.toLooks
  bytes a ha := (k.bytes a fun ⟨l, hl, hp⟩ => ha ⟨l, h.pending l hl, hp⟩).trans (h.bytes a ha)

theorem reads {s t : State} (h : s.Peeks t) : Reads s t where
  rest := by rw [h.rest]
  bytes a ha _ := h.bytes a ha
  pending := h.pending
  ctxs := h.bare

end State.Peeks

theorem leBytes_length (v n : Nat) : (leBytes v n).length = n := by
  induction n generalizing v with
  | zero => rfl
  | succ n ih => rw [leBytes, List.length_cons, ih]

theorem applyU_get_other (m : List Host.Cell) (l : ULine) {a : Nat} (h : ¬(l.pa ≤ a ∧ a < l.pa + l.bytes)) :
    Memory.get (applyU m l) a = Memory.get m a :=
  Memory.get_write_other _ _ _ _ (by rw [leBytes_length]; omega)

theorem foldl_applyU_get_other (ls : List ULine) (m : List Host.Cell) {a : Nat} (h : ∀ l ∈ ls, ¬(l.pa ≤ a ∧ a < l.pa + l.bytes)) :
    Memory.get (ls.foldl applyU m) a = Memory.get m a := by
  induction ls generalizing m with
  | nil => rfl
  | cons l ls ih =>
    exact (ih _ fun k hk => h k (List.mem_cons_of_mem _ hk)).trans (applyU_get_other m l (h l List.mem_cons_self))

variable (s : State) (x : Site) (h : Hit) (g : Agent)

theorem State.peeks_recallU (pa n : Nat) : s.Peeks (s.recallU pa n) where
  toLooks := (s.stirs_recallU pa n).looks
  bytes _ ha := foldl_applyU_get_other _ _ fun l hl hp => ha ⟨l, (List.mem_filter.mp hl).1, hp⟩

theorem State.peeks_homeRead (pa n : Nat) : s.Peeks (s.homeRead pa n).2 := s.peeks_recallU pa n

theorem State.peeks_seqRead (pa n : Nat) : s.Peeks (s.seqRead pa n).2 := by
  rw [State.seqRead]
  split
  · exact .refl s
  · exact s.peeks_homeRead pa n

theorem State.mem_roomL2 {die line part w : Nat} {t : State} (h : s.roomL2 die line part = some (w, t)) : t.mem = s.mem := by
  unfold State.roomL2 at h
  dsimp only at h
  split at h
  · cases h; rfl
  · obtain ⟨c, -, hc⟩ := Option.map_eq_some_iff.mp h
    obtain ⟨-, rfl⟩ := Prod.mk.inj hc
    rfl

theorem State.mem_useHome (line : Nat) : (s.useHome h line).mem = s.mem := by
  rw [State.useHome]
  split
  · rfl
  · split
    · rfl
    · dsimp only
      split
      · rfl
      · split
        · rfl
        next hr => exact (State.mem_roomL2 _ hr).trans rfl

theorem State.peeks_useHome (line : Nat) : s.Peeks (s.useHome h line) := .of_mem (s.stirs_useHome h line).looks (s.mem_useHome h line)

theorem State.peeks_seeParts (pa n : Nat) : s.Peeks (s.seeParts g pa n) := .of_mem (s.looks_seeParts g pa n) rfl

theorem State.peeks_chosen : s.Peeks s.chosen := .of_mem s.looks_chosen rfl

theorem State.peeks_lookPart (pa n : Nat) : s.Peeks (s.lookPart x g h pa n).2 := by
  have hhome (t : State) : t.Peeks (if (t.notifyVf pa).isSome then t.seqRead pa n else (t.useHome h (pa / 64)).homeRead pa n).2 := by
    split
    · exact t.peeks_seqRead pa n
    · exact (t.peeks_useHome h (pa / 64)).trans (State.peeks_homeRead _ pa n)
  unfold State.lookPart
  cases h.cls with
  | seq => exact hhome s
  | phase => exact hhome s
  | stream =>
    dsimp only
    split
    · split
      · exact hhome s
      · split
        · exact (s.peeks_chosen.trans (State.peeks_seeParts _ _ _ _)).trans (hhome _)
        · exact s.peeks_chosen
    · exact hhome s
  | priv =>
    dsimp only
    split
    · exact .refl s
    · exact hhome s

theorem State.peeks_look (pa n : Nat) : s.Peeks (s.look x g h pa n).2 := by
  rw [State.look]
  generalize n / 8 + 2 = k
  induction k generalizing s pa n with
  | zero => exact .refl s
  | succ k ih => exact (s.peeks_lookPart x h g pa (min n (8 - pa % 8))).trans (ih _ _ _)

theorem State.peeks_oldChoice (whole : List (Option Nat × Nat)) (os : List OldPart) : s.Peeks (s.oldChoice g whole os).2 := by
  have hsee (t : State) (k pa : Nat) : t.Peeks (if k = 0 then t.seeParts g pa 1 else t) := by
    split
    · exact t.peeks_seeParts g pa 1
    · exact .refl t
  induction os generalizing s whole with
  | nil => exact .refl s
  | cons o os ih =>
    rw [State.oldChoice]
    dsimp only
    split
    · exact (hsee s _ _).trans (ih _ _)
    · exact s.peeks_chosen.trans ((hsee _ _ _).trans (ih _ _))

theorem State.peeks_chunkBytes (pa n : Nat) : s.Peeks (s.chunkBytes x g h pa n).2 := by
  have hhome := s.peeks_homeRead pa n
  unfold State.chunkBytes
  cases h.cls with
  | phase => exact hhome
  | stream => exact hhome.trans (State.peeks_oldChoice _ _ _ _)
  | seq => exact s.peeks_look x h g pa n
  | priv => exact hhome

/-! ### Tile fetches (R294, R297) -/

namespace Fetched

variable (w : Fetched) (pins : Pins)

theorem peeks_line (line : Nat) : w.s.Peeks (w.line x pins h line).2.s := by
  rw [Fetched.line]
  split
  · exact .refl _
  · split
    · exact .refl _
    · split
      · exact .refl _
      · dsimp only
        exact w.s.peeks_look x h (.engine x.fetchTlb) (64 * line) 64

theorem peeks_run (line n : Nat) : w.s.Peeks (w.run x pins h line n).2.s := by
  induction n generalizing w line with
  | zero => exact .refl _
  | succ n ih =>
    have hl := w.peeks_line x h pins line
    rw [Fetched.run]
    generalize w.line x pins h line = r at hl ⊢
    obtain ⟨b | bs, v⟩ := r
    · exact hl
    · have hr := ih v (line + 1)
      dsimp only
      generalize v.run x pins h (line + 1) n = r at hr ⊢
      obtain ⟨b | bs, u⟩ := r
      · exact hl.trans hr
      · exact hl.trans hr

theorem peeks_bytes (pa n : Nat) : w.s.Peeks (w.bytes x pins h pa n).2.s := by
  have hr := w.peeks_run x h pins (pa / 64) (linesOf pa n).length
  rw [Fetched.bytes]
  generalize w.run x pins h (pa / 64) (linesOf pa n).length = r at hr ⊢
  obtain ⟨b | bs, v⟩ := r
  · exact hr
  · exact hr

theorem noteImage_s (pa : Nat) (bs : List Byte) (ls : List Nat) : (w.noteImage pa bs ls).s = w.s := by
  rw [Fetched.noteImage]
  split
  · split <;> rfl
  · rfl

theorem peeks_pinOf (pa : Nat) (bs : List Byte) (ls : List Nat) : w.s.Peeks (w.pinOf x pins h pa bs ls).2.s := by
  have hr := w.peeks_run x h pins (ls.headD 0) ls.length
  rw [Fetched.pinOf]
  generalize w.run x pins h (ls.headD 0) ls.length = r at hr ⊢
  obtain ⟨b | bs, v⟩ := r
  · exact hr
  · dsimp only
    rw [noteImage_s]
    exact hr

theorem peeks_chunk (pa n ofs m : Nat) : w.s.Peeks (w.chunk x pins h pa n ofs m).2.s := by
  rw [Fetched.chunk]
  dsimp only
  split
  · exact w.peeks_pinOf x h pins _ _ _
  · split
    · exact .refl _
    · split
      · exact .refl _
      · exact (w.s.peeks_chunkBytes x h _ _ _).trans (peeks_pinOf x h { w with s := _, fresh := _ } pins _ _ _)

theorem peeks_elem (b : Bound) (sub : Bool) (x0 x1 : Nat) : w.s.Peeks (w.elem x pins b sub x0 x1).2.s := by
  rw [Fetched.elem]
  dsimp only
  split
  · split <;> exact .refl _
  next o ho =>
    split
    · split
      · exact .refl _
      next h f va i hp =>
        have hc := w.peeks_chunk x h pins (h.phys (h.base + i / f.elems * f.chunkBytes)) f.chunkBytes (i % f.elems * f.w / 8)
          ((i % f.elems * f.w + f.w + 7) / 8 - i % f.elems * f.w / 8)
        generalize w.chunk x pins h (h.phys (h.base + i / f.elems * f.chunkBytes)) f.chunkBytes (i % f.elems * f.w / 8)
          ((i % f.elems * f.w + f.w + 7) / 8 - i % f.elems * f.w / 8) = r at hc ⊢
        obtain ⟨bad | bs, v⟩ := r
        · exact hc
        · dsimp only
          split <;> exact hc
    · split
      · exact .refl _
      · split
        · exact .refl _
        next h hr =>
          have hb := w.peeks_bytes x h pins (h.phys (b.r.base + o)) 2
          generalize w.bytes x pins h (h.phys (b.r.base + o)) 2 = r at hb ⊢
          obtain ⟨bad | bs, v⟩ := r
          · exact hb
          · exact hb

theorem peeks_row {el : Fetched → Nat → Except Miss Fp × Fetched} (hel : ∀ (w : Fetched) k, w.s.Peeks (el w k).2.s) (k n : Nat) : w.s.Peeks (w.row el k n).2.s := by
  induction n generalizing w k with
  | zero => exact .refl _
  | succ n ih =>
    have he := hel w k
    rw [Fetched.row]
    generalize el w k = r at he ⊢
    obtain ⟨m | v, u⟩ := r
    · exact he
    · have hr := ih u (k + 1)
      dsimp only
      generalize u.row el (k + 1) n = r at hr ⊢
      obtain ⟨m | l, z⟩ := r
      · exact he.trans hr
      · exact he.trans hr

theorem peeks_rows {el : Nat → Fetched → Nat → Except Miss Fp × Fetched} (hel : ∀ i (w : Fetched) k, w.s.Peeks (el i w k).2.s) (k0 kn i n : Nat) :
    w.s.Peeks (w.rows el k0 kn i n).2.s := by
  induction n generalizing w i with
  | zero => exact .refl _
  | succ n ih =>
    have he := w.peeks_row (hel i) k0 kn
    rw [Fetched.rows]
    generalize w.row (el i) k0 kn = r at he ⊢
    obtain ⟨m | v, u⟩ := r
    · exact he
    · have hr := ih u (i + 1)
      dsimp only
      generalize u.rows el k0 kn (i + 1) n = r at hr ⊢
      obtain ⟨m | l, z⟩ := r
      · exact he.trans hr
      · exact he.trans hr

end Fetched

theorem State.peeks_fetchChunk (pins : Pins) (q : MxEntry) (j : Nat) : s.Peeks (s.fetchChunk x pins q j).2 := by
  rw [State.fetchChunk]
  cases q.work with
  | zero => exact .refl s
  | mma n k a b ax0 ax1 bx0 bx1 sub link f =>
    have ha := Fetched.peeks_rows { s := s, lines := [] } (el := fun m w kk => w.elem x pins a sub (ax0 + kk) (ax1 + m))
      (fun i w k => w.peeks_elem x pins a sub _ _) (32 * j) (min 32 (k - 32 * j)) 0 q.rows
    dsimp only
    generalize ({ s := s, lines := [] } : Fetched).rows (fun m w kk => w.elem x pins a sub (ax0 + kk) (ax1 + m)) (32 * j) (min 32 (k - 32 * j)) 0 q.rows = r
      at ha ⊢
    obtain ⟨m | ra, w⟩ := r
    · exact ha
    · have hb := w.peeks_rows (el := fun kk w c => w.elem x pins b sub (bx0 + c) (bx1 + 32 * j + kk)) (fun i w k => w.peeks_elem x pins b sub _ _)
        0 n 0 (min 32 (k - 32 * j))
      dsimp only
      generalize w.rows (fun kk w c => w.elem x pins b sub (bx0 + c) (bx1 + 32 * j + kk)) 0 n 0 (min 32 (k - 32 * j)) = r at hb ⊢
      obtain ⟨m | rb, u⟩ := r
      · exact ha.trans hb
      · exact ha.trans hb

end Sys2Proof.Machine
end

section
/-!
SUPPORT. The tile fetch unit and the matrix array (R94, R294, R297 to R300).
-/

namespace Sys2Proof.Machine

/-! ### Chunks on the accumulator (R94, R297) -/

/-- One row of a chunk's sums. -/
def Team.applyRow (t : Team) (row n : Nat) (c : Chunk) (as : List Fp) : Team :=
  (List.range n).foldl (fun t j => t.accPut row j (chunkSum (t.accGet row j) as (c.col j) (c.b.length = 32))) t

theorem Team.applyChunk_eq (t : Team) (q : MxEntry) (n : Nat) (c : Chunk) :
    t.applyChunk q n c = (List.range q.rows).foldl (fun t m => t.applyRow (q.row0 + m) n c (c.a.getD m [])) t := rfl

theorem Team.applyRow_succ (t : Team) (row n : Nat) (c : Chunk) (as : List Fp) : t.applyRow row (n + 1) c as =
    (t.applyRow row n c as).accPut row n (chunkSum ((t.applyRow row n c as).accGet row n) as (c.col n) (c.b.length = 32)) := by
  rw [Team.applyRow, List.range_succ, List.foldl_append]
  rfl

theorem Team.applyRow_acc (t : Team) (row n : Nat) (c : Chunk) (as : List Fp) : t.applyRow row n c as = { t with acc := (t.applyRow row n c as).acc } := by
  induction n with
  | zero => rfl
  | succ n ih =>
    rw [t.applyRow_succ, ih]
    rfl

theorem Team.applyChunk_acc (t : Team) (q : MxEntry) (n : Nat) (c : Chunk) : t.applyChunk q n c = { t with acc := (t.applyChunk q n c).acc } := by
  rw [Team.applyChunk_eq]
  generalize q.rows = k
  induction k with
  | zero => rfl
  | succ k ih =>
    rw [List.range_succ, List.foldl_append, List.foldl_cons, List.foldl_nil]
    generalize (List.range k).foldl (fun t m => t.applyRow (q.row0 + m) n c (c.a.getD m [])) t = u at ih ⊢
    rw [u.applyRow_acc, ih]

theorem Team.applyRow_get (t : Team) (r : Nat) (c : Chunk) (as : List Fp) {n col : Nat} (row : Nat) (hn : n ≤ 128) (hcol : col < 128) :
    (t.applyRow r n c as).accGet row col =
      if row = r ∧ col < n then chunkSum (t.accGet row col) as (c.col col) (decide (c.b.length = 32)) else t.accGet row col := by
  induction n with
  | zero => rw [if_neg (by omega)]; rfl
  | succ n ih =>
    rw [t.applyRow_succ, Team.accGet_accPut _ _ _ _ (by omega) hcol]
    by_cases h : (r, n) = (row, col)
    · obtain ⟨rfl, rfl⟩ := Prod.mk.inj h
      rw [if_pos rfl, ih (by omega), if_neg (by omega), if_pos (by omega)]
    · rw [if_neg h, ih (by omega)]
      refine if_congr ?_ rfl rfl
      rw [Prod.mk.injEq] at h
      omega

theorem Team.applyChunk_get (t : Team) (q : MxEntry) {n col : Nat} (c : Chunk) (row : Nat) (hn : n ≤ 128) (hcol : col < 128) :
    (t.applyChunk q n c).accGet row col =
      if q.row0 ≤ row ∧ row < q.row0 + q.rows ∧ col < n then
        chunkSum (t.accGet row col) (c.a.getD (row - q.row0) []) (c.col col) (decide (c.b.length = 32))
      else t.accGet row col := by
  rw [Team.applyChunk_eq]
  generalize q.rows = k
  induction k with
  | zero => rw [if_neg (by omega)]; rfl
  | succ k ih =>
    rw [List.range_succ, List.foldl_append, List.foldl_cons, List.foldl_nil, Team.applyRow_get _ _ _ _ _ hn hcol, ih]
    by_cases h : row = q.row0 + k ∧ col < n
    · obtain ⟨rfl, hc⟩ := h
      rw [if_pos ⟨rfl, hc⟩, if_neg (by omega), if_pos (by omega), Nat.add_sub_cancel_left]
    · rw [if_neg h]
      exact if_congr (by omega) rfl rfl

/-! ### The head of the queue (R297 to R300) -/

section
variable {s u : State} {x : Site} {team : Nat} {q : MxEntry} {r : List MxEntry}

theorem State.pacerSite_some (h : s.pacerSite team = some x) : s.team? team = some x.team ∧ x.team.id = team := by
  rw [State.pacerSite] at h
  split at h
  · next hx =>
    split at h
    · cases h
      obtain ⟨-, ht, -, hid⟩ := State.site?_some hx
      exact ⟨ht, hid⟩
    · cases h
  · cases h

/-- What an event does while the clusters of its die run. -/
theorem State.arrayStep_eq {n k o0 o1 o2 o3 : Nat} {a b : Bound} {sub f : Bool} {link : MxLink} {c : Chunk} {cs : List Chunk} {t : Team}
    (hq : t.queue = q :: r) (hw : q.work = .mma n k a b o0 o1 o2 o3 sub link f) (hc : q.chunks = c :: cs) (hl : t.wtHolds q = some false) :
    s.arrayStep t =
      let p := { q with applied := q.applied + 1, chunks := cs }
      let v := { (t.applyChunk q n c).count 3 1 with queue := p :: r }
      if p.applied = p.total then s.mxComplete v p else (s.setTeam v).mxHeadStop v.id := by
  rw [State.arrayStep, hq]
  dsimp only
  rw [hw, hc, hl]

/-- An entry that completes without an .ar link leaves the queue. -/
theorem State.mxComplete_eq {t : Team} {n k o0 o1 o2 o3 : Nat} {a b : Bound} {sub f : Bool} {link : MxLink}
    (hw : q.work = .mma n k a b o0 o1 o2 o3 sub link f) (hl : ∀ d, link ≠ .ar d) : s.mxComplete t q = s.setTeam t.dequeue := by
  rw [State.mxComplete, hw]
  cases link with
  | none => rfl
  | wt d p => rfl
  | ar d => exact absurd rfl (hl d)

/-- A head entry that is not stopped lets the array go on. -/
theorem State.setTeam_mxHeadStop {t v : Team} (ht : s.team? v.id = some t) (hq : v.queue = q :: r) (hs : q.stop = none) :
    (s.setTeam v).mxHeadStop v.id = s.setTeam v := by
  rw [State.mxHeadStop, State.team?_setTeam s v t ht]
  dsimp only
  rw [hq]
  dsimp only
  rw [hs]

theorem arrayChunk_more {n k o0 o1 o2 o3 : Nat} {a b : Bound} {sub f : Bool} {link : MxLink} {c : Chunk} {cs : List Chunk}
    (hx : s.pacerSite team = some x) (hq : x.team.queue = q :: r) (hw : q.work = .mma n k a b o0 o1 o2 o3 sub link f)
    (hc : q.chunks = c :: cs) (hl : x.team.wtHolds q = some false) (hlt : q.applied + 1 < q.total) (hs : q.stop = none) :
    opArrayChunk team s =
      .next (s.setTeam { (x.team.applyChunk q n c).count 3 1 with queue := { q with applied := q.applied + 1, chunks := cs } :: r }) := by
  obtain ⟨ht, hid⟩ := State.pacerSite_some hx
  have happ := x.team.applyChunk_acc q n c
  have hvid : ((x.team.applyChunk q n c).count 3 1).id = x.team.id := by
    rw [happ]
    rfl
  have htot : MxEntry.total { q with applied := q.applied + 1, chunks := cs } = q.total := rfl
  rw [opArrayChunk, hx]
  dsimp only
  rw [State.arrayStep_eq hq hw hc hl]
  dsimp only
  rw [htot, if_neg (by omega)]
  congr 1
  refine State.setTeam_mxHeadStop (t := x.team) ?_ rfl hs
  dsimp only
  rw [hvid, hid]
  exact ht

theorem arrayChunk_last {n k o0 o1 o2 o3 : Nat} {a b : Bound} {sub f : Bool} {link : MxLink} {c : Chunk} {cs : List Chunk}
    (hx : s.pacerSite team = some x) (hq : x.team.queue = q :: r) (hw : q.work = .mma n k a b o0 o1 o2 o3 sub link f)
    (hc : q.chunks = c :: cs) (hl : x.team.wtHolds q = some false) (htot : q.applied + 1 = q.total) (hlink : ∀ d, link ≠ .ar d) :
    opArrayChunk team s = .next (s.setTeam (Team.dequeue { (x.team.applyChunk q n c).count 3 1 with
      queue := { q with applied := q.applied + 1, chunks := cs } :: r })) := by
  have htot' : MxEntry.total { q with applied := q.applied + 1, chunks := cs } = q.total := rfl
  rw [opArrayChunk, hx]
  dsimp only
  rw [State.arrayStep_eq hq hw hc hl]
  dsimp only
  rw [htot', if_pos htot, State.mxComplete_eq (q := { q with applied := q.applied + 1, chunks := cs }) hw hlink]

theorem SMap.get?_filter {α : Type} (p : Nat → Bool) (m : SMap α) (k : Nat) :
    SMap.get? (m.filter fun a => p a.1) k = if p k then SMap.get? m k else none := by
  induction m with
  | nil => exact (ite_self _).symm
  | cons a m ih =>
    obtain ⟨j, v⟩ := a
    rw [List.filter_cons, SMap.get?]
    by_cases hj : p j = true
    · rw [if_pos hj, SMap.get?, ih]
      split
      · next h => rw [if_pos (h ▸ hj)]
      · rfl
    · rw [if_neg hj, ih]
      split
      · next hk => rw [if_neg (c := j = k) fun h => hj (h ▸ hk)]
      · rfl

/-- The rows of an MXZERO read +0 (R300). -/
theorem Team.zeroRows_get (t : Team) (row0 n row : Nat) {col : Nat} (hcol : col < 128) :
    (t.zeroRows row0 n).accGet row col = if row0 ≤ row ∧ row < row0 + n then 0 else t.accGet row col := by
  rw [Team.accGet, Team.accGet, Team.zeroRows]
  refine (congrArg (Option.getD · 0) (SMap.get?_filter (fun k => decide (k < 128 * row0 ∨ 128 * (row0 + n) ≤ k)) t.acc (128 * row + col))).trans ?_
  by_cases h : row0 ≤ row ∧ row < row0 + n
  · rw [if_pos h, if_neg (by rw [decide_eq_true_eq]; omega)]
    rfl
  · rw [if_neg h, if_pos (by rw [decide_eq_true_eq]; omega)]

theorem arrayZero_spec (hx : s.pacerSite team = some x) (hq : x.team.queue = q :: r) (hw : q.work = .zero) :
    ∃ v, opArrayZero team s = .next (s.setTeam v) ∧ v.queue = r ∧ v.id = x.team.id ∧
      ∀ row col, col < 128 → v.accGet row col = if q.row0 ≤ row ∧ row < q.row0 + q.rows then 0 else x.team.accGet row col := by
  refine ⟨(x.team.zeroRows q.row0 q.rows).dequeue, ?_, ?_, rfl, fun row col hcol => x.team.zeroRows_get q.row0 q.rows row hcol⟩
  · rw [opArrayZero, hx]
    dsimp only
    rw [hq]
    dsimp only
    rw [hw]
  · change x.team.queue.tail = r
    rw [hq]
    rfl

/-! ### Faults of a tile fetch (R299) -/

/-- What is left of a team when n entries of its queue have ended. -/
theorem Team.dequeues_eq {α : Type} (l : List α) (t : Team) :
    ∃ hs, l.foldl (fun t _ => t.dequeue) t = { t with queue := t.queue.drop l.length, heats := hs } ∧ hs.map Heat.alive = t.heats.map Heat.alive := by
  induction l generalizing t with
  | nil => exact ⟨t.heats, rfl, rfl⟩
  | cons a l ih =>
    obtain ⟨hs, he, ha⟩ := ih t.dequeue
    refine ⟨hs, ?_, ha.trans ?_⟩
    · rw [List.foldl_cons, he, List.length_cons, ← List.drop_tail]
      rfl
    · change (t.heats.map _).map Heat.alive = _
      rw [List.map_map]
      rfl

theorem Team.dequeueAll_eq (t : Team) : ∃ hs, t.dequeueAll = { t with queue := [], heats := hs } ∧ hs.map Heat.alive = t.heats.map Heat.alive := by
  obtain ⟨hs, he, ha⟩ := Team.dequeues_eq t.queue t
  rw [List.drop_length] at he
  exact ⟨hs, he, ha⟩

theorem Team.alive_congr {t v : Team} (hh : v.heats.map Heat.alive = t.heats.map Heat.alive) (hp : v.pacer = t.pacer) : v.alive = t.alive := by
  have hany (l : List Heat) : l.any Heat.alive = (l.map Heat.alive).any (fun b => b) := by rw [List.any_map]; rfl
  rw [Team.alive, Team.alive, hany, hh, hp, ← hany]

theorem State.setTeam_setTeam (s : State) {t v : Team} (h : v.id = t.id) : (s.setTeam t).setTeam v = s.setTeam v := by
  rw [State.setTeam, State.setTeam, State.setTeam]
  congr 1
  dsimp only
  rw [List.map_map]
  refine List.map_congr_left fun u _ => ?_
  rw [Function.comp_apply, h]
  by_cases hu : u.id = t.id
  · rw [if_pos hu, if_pos rfl, if_pos hu]
  · rw [if_neg hu, if_neg hu]

/-- The array of a team stops: its queue is empty, its error state is set, and it takes a deferred trap (R299). -/
theorem State.mxStop_spec {t u : Team} (pc : Pc) (c : Byte) (info : DWord) (ht : s.team? t.id = some u) (hal : t.alive = true) (hst : t.st = .resident)
    (hlen : t.dtraps.length < 16) :
    ∃ v, s.mxStop t pc c info = s.setTeam v ∧ v.id = t.id ∧ v.queue = [] ∧ v.mxErr = true ∧
      v.dtraps = t.dtraps ++ [DTrap.recorded { cause := c, inner := 0, pc := pc, info := info, src := some .pacer }] := by
  obtain ⟨hs, he, ha⟩ := t.dequeueAll_eq
  have halive : Team.alive { t.dequeueAll with mxErr := true } = true := (Team.alive_congr (by rw [he]; exact ha) (by rw [he])).trans hal
  have hid : Team.id { t.dequeueAll with mxErr := true } = t.id := by rw [he]
  have hst' : Team.st { t.dequeueAll with mxErr := true } = .resident := by rw [he]; exact hst
  have hq : Team.queue { t.dequeueAll with mxErr := true } = [] := by rw [he]
  have hd : Team.dtraps { t.dequeueAll with mxErr := true } = t.dtraps := by rw [he]
  have he' : Team.mxErr { t.dequeueAll with mxErr := true } = true := rfl
  rw [State.mxStop]
  generalize ({ t.dequeueAll with mxErr := true } : Team) = w at halive hid hst' hq hd he' ⊢
  rw [State.defer, ← hid, State.team?_setTeam s w u (by rw [hid]; exact ht)]
  dsimp only
  rw [if_pos ⟨halive, fun h => nomatch hst'.symm.trans h⟩, Team.defer, if_pos (by rw [hd]; exact hlen)]
  exact ⟨_, State.setTeam_setTeam s rfl, rfl, hq, he', by rw [← hd]⟩

/-- A head entry that its fetch's fault has stopped, with no fetched chunk left, stops the array. -/
theorem State.setTeam_mxHeadStop_stop {t v : Team} {c : Byte} {info : DWord} (ht : s.team? v.id = some t) (hq : v.queue = q :: r)
    (hs : q.stop = some (c, info)) (hc : q.chunks = []) : (s.setTeam v).mxHeadStop v.id = (s.setTeam v).mxStop v q.pc c info := by
  rw [State.mxHeadStop, State.team?_setTeam s v t ht]
  dsimp only
  rw [hq]
  dsimp only
  rw [hs]
  dsimp only
  rw [if_pos hc]

theorem nextFetch_zero {pins : Pins} {l : List MxEntry} {p : Pins} (h : nextFetch pins 0 l = some (0, q, p)) : ∃ r, l = q :: r := by
  have hle : ∀ (l : List MxEntry) (pins : Pins) (i k : Nat) (q : MxEntry) (p : Pins), nextFetch pins i l = some (k, q, p) → i ≤ k := by
    intro l
    induction l with
    | nil =>
      intro pins i k q p h
      rw [nextFetch] at h
      exact (Option.some_ne_none _ h.symm).elim
    | cons a l ih =>
      intro pins i k q p h
      rw [nextFetch] at h
      split at h
      · cases h
      · split at h
        · exact Nat.le_of_eq (Prod.mk.inj (Option.some.inj h)).1
        · exact Nat.le_of_succ_le (ih _ _ _ _ _ h)
  cases l with
  | nil =>
    rw [nextFetch] at h
    exact (Option.some_ne_none _ h.symm).elim
  | cons a l =>
    rw [nextFetch] at h
    split at h
    · cases h
    · split at h
      · exact ⟨l, by rw [(Prod.mk.inj (Prod.mk.inj (Option.some.inj h)).2).1]⟩
      · exact absurd (hle _ _ _ _ _ _ h) (by omega)

theorem State.nextChunk_some {k : Nat} {o : Except Miss Chunk} (h : s.nextChunk team = some (x, k, q, o, u)) :
    s.pacerSite team = some x ∧ ∃ pins, nextFetch ⟨[], []⟩ 0 x.team.queue = some (k, q, pins) ∧ (o, u) = s.fetchChunk x pins q q.fetched := by
  obtain ⟨y, hy, h⟩ := Option.bind_eq_some_iff.mp h
  obtain ⟨⟨i, p, pins⟩, hn, h⟩ := Option.map_eq_some_iff.mp h
  dsimp only at h
  simp only [Prod.mk.injEq] at h
  obtain ⟨rfl, rfl, rfl, ho⟩ := h
  exact ⟨hy, pins, hn, ho.symm⟩

theorem State.pacerSite_resident (h : s.pacerSite team = some x) : x.team.st = .resident := by
  rw [State.pacerSite] at h
  split at h
  · split at h
    · next hr => cases h; exact hr
    · cases h
  · cases h

theorem fetchMiss_spec {c : Byte} {info : DWord} (hx : s.pacerSite team = some x) (hq : x.team.queue = q :: r) (hc : q.chunks = [])
    (hal : x.team.alive = true) (hlen : x.team.dtraps.length < 16) :
    ∃ t v, ((s.setTeam { x.team with queue := x.team.queue.set 0 { q with stop := some (c, info) } }).mxHeadStop x.team.id) = t ∧
      t = { s with teams := t.teams } ∧ t.team? team = some v ∧ v.queue = [] ∧ v.mxErr = true ∧
      v.dtraps = x.team.dtraps ++ [DTrap.recorded { cause := c, inner := 0, pc := q.pc, info := info, src := some .pacer }] := by
  obtain ⟨ht, hid⟩ := State.pacerSite_some hx
  have hres := State.pacerSite_resident hx
  rw [hq, List.set_cons_zero]
  have hset := State.team?_setTeam s { x.team with queue := { q with stop := some (c, info) } :: r } x.team (by dsimp only; rw [hid]; exact ht)
  have hstop := State.setTeam_mxHeadStop_stop (s := s) (v := { x.team with queue := { q with stop := some (c, info) } :: r })
    (q := { q with stop := some (c, info) }) (r := r) (t := x.team) (by dsimp only; rw [hid]; exact ht) rfl rfl hc
  obtain ⟨v, hv, hvid, hvq, hve, hvd⟩ := State.mxStop_spec (s := s.setTeam { x.team with queue := { q with stop := some (c, info) } :: r })
    q.pc c info hset hal hres hlen
  refine ⟨_, v, rfl, ?_, ?_, hvq, hve, hvd⟩
  · rw [hstop, hv]
    rfl
  · rw [hstop, hv, State.setTeam_setTeam s hvid, ← hid]
    dsimp only at hvid
    rw [← hvid]
    exact State.team?_setTeam s v x.team (by rw [hvid, hid]; exact ht)

end

/-- Settles O40. -/
theorem arrayAndTileFetch : Obligations.ArrayAndTileFetch := by
  refine ⟨fun t q n c row col hn hcol => ?_, fun s team hr => ⟨fun x k q c u h hle => ?_, ?_, fun x q r hx hq hw => ?_⟩,
    fun s u team x q cs info hr h hc hal hlen => ?_⟩
  · exact t.applyChunk_get q c row hn hcol
  · obtain ⟨-, pins, -, ho⟩ := State.nextChunk_some h
    have hpeeks := s.peeks_fetchChunk x pins q q.fetched
    rw [← ho] at hpeeks
    refine ⟨?_, hpeeks.reads, hpeeks.teams, hpeeks.meets⟩
    change execTileFetchChunk team s = _
    rw [execTileFetchChunk, if_pos hr, opTileFetchChunk, h]
    dsimp only
    rw [if_neg (by omega)]
  · intro x q r n k a b o0 o1 o2 o3 sub link f c cs hx hq hw hc hl
    have he : exec (.arrayChunk team) s = opArrayChunk team s := if_pos hr
    rw [he]
    exact ⟨fun hlt hs => arrayChunk_more hx hq hw hc hl hlt hs, fun htot hlink => arrayChunk_last hx hq hw hc hl htot hlink⟩
  · have he : exec (.arrayZero team) s = opArrayZero team s := if_pos hr
    rw [he]
    exact arrayZero_spec hx hq hw
  · have he : exec (.tileFetchFault team) s = opTileFetchFault team s := if_pos hr
    rw [he, opTileFetchFault]
    obtain h | h := h
    all_goals
      obtain ⟨hx, pins, hn, -⟩ := State.nextChunk_some h
      obtain ⟨r, hq⟩ := nextFetch_zero hn
      obtain ⟨t, v, ht, hv⟩ := fetchMiss_spec (c := cs) (info := info) hx hq hc hal hlen
      rw [h]
      exact ⟨t, v, congrArg Host.Outcome.next ht, hv⟩

end Sys2Proof.Machine
end

section
/-!
SUPPORT. What releases and acquires leave of the package and of the unit (R121, R127, R129, R138, R139).
-/

namespace Sys2Proof.Machine

/-! ### What others see of a release -/

/-- A change of teams that lets only results of atomics give way, and none of one team. -/
structure Yields (team : Nat) (g : Team → Team) : Prop where
  bare : ∀ u, (g u).bare = u.bare
  own : ∀ u, u.id = team → g u = u
  exact : ∀ u, u.holdsAtomic = false → g u = u

theorem Yields.comp {team : Nat} {f g : Team → Team} (hf : Yields team f) (hg : Yields team g) : Yields team (f ∘ g) where
  bare u := (hf.bare _).trans (hg.bare u)
  own u hu := by rw [Function.comp_apply, hg.own u hu, hf.own u hu]
  exact u hu := by rw [Function.comp_apply, hg.exact u hu, hf.exact u hu]

theorem Yields.id (team : Nat) : Yields team fun u => u := ⟨fun _ => rfl, fun _ _ => rfl, fun _ _ => rfl⟩

theorem Team.bare_id {t u : Team} (h : t.bare = u.bare) : t.id = u.id := (congrArg Team.id h : t.bare.id = u.bare.id)

/-- The package t is s after a release of a unit of a team. -/
structure State.Spreads (team : Nat) (s t : State) : Prop where
  rest : t = { s with
    mem := t.mem, poison := t.poison, lines := t.lines, ulines := t.ulines, invals := t.invals, wide := t.wide, oldParts := t.oldParts, pubs := t.pubs
    teams := t.teams }
  wf : Memory.wf s.mem = true → Memory.wf t.mem = true
  pending : ∀ l ∈ t.ulines, l ∈ s.ulines
  teams : ∃ g, Yields team g ∧ t.teams = s.teams.map g

namespace State.Spreads

variable {team : Nat} {s t u : State}

theorem refl (s : State) : s.Spreads team s := ⟨rfl, fun h => h, fun _ h => h, _, .id team, (List.map_id _).symm⟩

theorem trans (h : s.Spreads team t) (k : t.Spreads team u) : s.Spreads team u where
  rest := by
    have hk := k.rest
    rw [h.rest] at hk
    exact hk
  wf := k.wf ∘ h.wf
  pending l hl := h.pending l (k.pending l hl)
  teams := by
    obtain ⟨f, hf, h1⟩ := h.teams
    obtain ⟨g, hg, h2⟩ := k.teams
    exact ⟨g ∘ f, hg.comp hf, by rw [h2, h1, List.map_map]⟩

theorem foldl {α : Type} {f : State → α → State} (hf : ∀ (s : State) a, s.Spreads team (f s a)) : ∀ (l : List α) (s : State), s.Spreads team (l.foldl f s)
  | [], s => refl s
  | a :: l, s => (hf s a).trans (foldl hf l (f s a))

/-- Where neither memory nor teams change. -/
theorem of_rest (h : t = { s with poison := t.poison, lines := t.lines, wide := t.wide, oldParts := t.oldParts, pubs := t.pubs }) : s.Spreads team t where
  rest := by rw [h]
  wf hs := by rw [h]; exact hs
  pending l hl := by rw [h] at hl; exact hl
  teams := ⟨_, .id team, by rw [h]; exact (List.map_id _).symm⟩

theorem cur (h : s.Spreads team t) : t.cur = s.cur := by rw [h.rest]

theorem dies (h : s.Spreads team t) : t.dies = s.dies := by rw [h.rest]

theorem meets (h : s.Spreads team t) : t.meets = s.meets := by rw [h.rest]

theorem memOk (h : s.Spreads team t) (hs : s.MemOk) : t.MemOk := by
  obtain ⟨g, hg, ht⟩ := h.teams
  refine ⟨h.wf hs.1, fun v hv => ?_⟩
  rw [ht] at hv
  obtain ⟨w, hw, rfl⟩ := List.mem_map.mp hv
  have hm := congrArg Team.cshMem (hg.bare w)
  have hscr := congrArg Team.scrMem (hg.bare w)
  exact ⟨hm ▸ (hs.2 w hw).1, fun m hmem => (hs.2 w hw).2 m (hscr ▸ hmem)⟩

theorem team? (h : s.Spreads team t) : ∃ g, Yields team g ∧ ∀ id, t.team? id = (s.team? id).map g := by
  obtain ⟨g, hg, ht⟩ := h.teams
  refine ⟨g, hg, fun id => ?_⟩
  rw [State.team?, ht, State.team?, List.find?_map]
  congr 2
  funext v
  rw [Function.comp_apply, Team.bare_id (hg.bare v)]

theorem beside {x : Site} (h : s.Spreads x.team.id t) : s.Beside t x := by
  obtain ⟨g, hg, ht⟩ := h.team?
  refine ⟨h.cur, fun id => ?_, fun id _ hex => ?_, fun id _ => by rw [State.meet?, h.meets, State.meet?]⟩
  · rw [ht, Option.map_map]
    exact congrArg (Option.map · (s.team? id)) (funext hg.bare)
  · rw [ht]
    cases hu : s.team? id with
    | none => rfl
    | some v => exact congrArg some (hg.exact v (hex v hu))

end State.Spreads

variable (s : State) (x : Site) (team : Nat)

theorem State.spreads_homeWrite (pa : Nat) (bs : List Byte) : s.Spreads team (s.homeWrite pa bs) where
  rest := rfl
  wf := s.wf_homeWrite pa bs
  pending := (s.stirs_homeWrite pa bs).pending
  teams := ⟨_, .id team, (List.map_id _).symm⟩

theorem State.spreads_homeRead (pa n : Nat) : s.Spreads team (s.homeRead pa n).2 where
  rest := rfl
  wf := s.wf_homeRead pa n
  pending := (s.stirs_homeRead pa n).pending
  teams := ⟨_, .id team, (List.map_id _).symm⟩

theorem State.spreads_publish (bs : List (Nat × Byte)) : s.Spreads team (s.publish bs) := by
  induction bs generalizing s with
  | nil => exact .refl s
  | cons b bs ih => exact (s.spreads_homeWrite team _ _).trans (ih _)

theorem State.spreads_publishAll (bs : List LayerByte) : s.Spreads team (s.publishAll bs) :=
  (State.Spreads.foldl (fun s (p : Pack) => (s.spreads_homeRead team p.base p.format.chunkBytes).trans (State.spreads_publish _ team _)) _ s).trans
    (State.spreads_publish _ team _)

theorem layerYield_eq_of_no_atomic {l : List LayerByte} (pas : List Nat) (h : l.any LayerByte.amo = false) : layerYield l pas = l := by
  refine List.filter_eq_self.mpr fun b hb => ?_
  rw [List.any_eq_false] at h
  simp [h b hb]

theorem yields_overtake (pas : List Nat) (among : Team → Bool) : Yields team fun t =>
    if t.id ≠ team ∧ among t then { t with tmLayer := layerYield t.tmLayer pas, sqLayer := t.sqLayer.map fun l => layerYield l pas } else t where
  bare u := by split <;> rfl
  own u hu := if_neg fun h => h.1 hu
  exact u hu := by
    rw [Team.holdsAtomic, List.any_append, Bool.or_eq_false_iff] at hu
    obtain ⟨htm, hsq⟩ := hu
    have hmap : u.sqLayer.map (fun l => layerYield l pas) = u.sqLayer := by
      refine (List.map_congr_left fun l hl => layerYield_eq_of_no_atomic pas ?_).trans (List.map_id _)
      rw [List.any_eq_false] at hsq ⊢
      exact fun b hb => hsq b (List.mem_flatten.mpr ⟨l, hl, hb⟩)
    split
    · rw [hmap, layerYield_eq_of_no_atomic pas htm]
    · rfl

theorem State.spreads_overtake (pas : List Nat) (among : Team → Bool) : s.Spreads team (s.overtake team pas among) := by
  rw [State.overtake]
  split
  · exact .refl s
  · exact ⟨rfl, fun h => h, fun _ h => h, _, yields_overtake team pas among, rfl⟩

theorem State.spreads_setWide (at_ : Option Nat) (l : List LayerByte) : s.Spreads team (s.setWide at_ l) := .of_rest rfl

theorem State.spreads_widen (sc : Scope) (up : List (List LayerByte)) (pas : List Nat) : s.Spreads x.team.id (s.widen x sc up pas) := by
  rw [State.widen]
  dsimp only
  split
  · exact (s.spreads_overtake _ _ _).trans (State.spreads_setWide _ _ _ _)
  · exact ((s.spreads_overtake _ _ _).trans (State.spreads_overtake _ _ _ _)).trans
      ((State.spreads_setWide _ _ _ _).trans (State.spreads_setWide _ _ _ _))

theorem State.spreads_heal (pas : List Nat) : s.Spreads team (s.heal pas) := by
  rw [State.heal]
  split
  · exact .refl s
  · exact .of_rest rfl

theorem State.spreads_publishHome (up : List (List LayerByte)) (pas : List Nat) : s.Spreads x.team.id (s.publishHome x up pas) := by
  have hwide (t : State) (a b : Option Nat) (l m : List LayerByte) (p : Prop) [Decidable p] :
      t.Spreads x.team.id (if p then t else (t.setWide a l).setWide b m) := by
    split
    · exact .refl t
    · exact (t.spreads_setWide _ _ _).trans (State.spreads_setWide _ _ _ _)
  rw [State.publishHome]
  exact ((hwide s _ _ _ _ _).trans (((State.spreads_overtake _ _ _ _).trans (State.spreads_overtake _ _ _ _)).trans
    ((State.Spreads.foldl (fun s bs => s.spreads_publishAll _ bs) _ _).trans (State.spreads_heal _ _ _)))).trans (.of_rest rfl)

theorem State.spreads_offerParts (sc : Scope) : s.Spreads team (s.offerParts x sc) := by
  rw [State.offerParts]
  split
  · exact .refl s
  · exact .of_rest rfl

theorem State.spreads_passOn : s.Spreads team (s.passOn x) := by
  rw [State.passOn]
  split
  · exact .refl s
  · exact .of_rest rfl

theorem State.spreads_oweLease (till : Nat) : s.Spreads team (s.oweLease x till).1 := by
  rw [State.oweLease]
  split
  · exact .refl s
  · exact .of_rest rfl

/-! ### What a release and an acquire leave of the unit -/

/-- The unit z is x after releases and acquires: the layers of its team, its deferred traps, its write set and its unacknowledged writes may differ. -/
structure Site.Orders (x z : Site) : Prop where
  rest : z = { x with
    team := { x.team with sqLayer := z.team.sqLayer, tmLayer := z.team.tmLayer, dtraps := z.team.dtraps, lost := z.team.lost }
    heat := { x.heat with ws := z.heat.ws, unacked := z.heat.unacked } }

theorem Site.Orders.refl (x : Site) : x.Orders x := ⟨rfl⟩

theorem Site.Orders.trans {x y z : Site} (h : x.Orders y) (k : y.Orders z) : x.Orders z where
  rest := by
    have hk := k.rest
    rw [h.rest] at hk
    exact hk

theorem Site.orders_deferTrap (d : DTrap) : x.Orders { x with team := x.team.defer d } := by
  rw [Team.defer]
  split
  · exact ⟨rfl⟩
  · exact ⟨rfl⟩

theorem State.orders_oweLease (till : Nat) : x.Orders (s.oweLease x till).2 := by
  rw [State.oweLease]
  split
  · exact .refl x
  · exact ⟨rfl⟩

theorem State.releaseAt_spec (sc : Scope) : s.Spreads x.team.id (s.releaseAt x sc).1 ∧ x.Orders (s.releaseAt x sc).2 := by
  have hoffer := s.spreads_offerParts x x.team.id sc
  have hpass (t : State) : t.Spreads x.team.id (t.passOn x) := t.spreads_passOn x _
  have hend {t v : State} {y : Site} (ht : s.Spreads x.team.id t) (hv : t.Spreads x.team.id v) (hy : x.Orders y) (till : Nat) (p : Prop) [Decidable p] :
      s.Spreads x.team.id (if p then (t, y) else v.oweLease y till).1 ∧ x.Orders (if p then (t, y) else v.oweLease y till).2 := by
    split
    · exact ⟨ht, hy⟩
    · exact ⟨(ht.trans hv).trans (v.spreads_oweLease y _ till), hy.trans (v.orders_oweLease y till)⟩
  have hdefer {y : Site} (hy : x.Orders y) (o : Option (Byte × LayerByte)) (f : Byte → LayerByte → DTrap) :
      x.Orders (match o with | some (c, b) => { y with team := y.team.defer (f c b) } | none => y) := by
    cases o with
    | none => exact hy
    | some p => exact hy.trans (y.orders_deferTrap _)
  have hpub (t : State) (sc : Scope) (up : List (List LayerByte)) (pas : List Nat) :
      t.Spreads x.team.id (if sc = .sy then t.publishHome x up pas else t.widen x sc up pas) := by
    split
    · exact t.spreads_publishHome x up pas
    · exact t.spreads_widen x sc up pas
  unfold State.releaseAt
  generalize s.offerParts x sc = t at hoffer ⊢
  cases sc with
  | ht => exact ⟨hoffer, .refl x⟩
  | sq =>
    dsimp only
    split
    · exact ⟨hoffer, .refl x⟩
    · exact ⟨hoffer.trans (hpass t), ⟨rfl⟩⟩
  | tm => exact ⟨hoffer.trans (hpass t), ⟨rfl⟩⟩
  | sy | dv | di =>
    exact hend hoffer (hpub t _ _ _) (hdefer ⟨rfl⟩ _ _) _ _

theorem State.seePartsIf_eq (g : Agent) (p : OldPart → Bool) : s.seePartsIf g p = { s with oldParts := (s.seePartsIf g p).oldParts } := rfl

/-- An acquire at a scope that reaches the unit's squad or beyond (R129, R138). -/
theorem State.acquireAt_eq {sc : Scope} (h : sc ≠ .ht) (hp : sc = .sq → x.isPacer = false) :
    s.acquireAt x sc = (((s.dropCopies (sc.discards x)).takeParts x sc).seeWide x sc, { x with team := { x.team with
      sqLayer := if x.isPacer then x.team.sqLayer else x.team.sqLayer.set x.squad (layerSee x.u x.sqLayer)
      tmLayer := if sc = .sq then layerSeeSq x x.team.tmLayer else layerSee x.u x.team.tmLayer } }) := by
  rw [State.acquireAt, if_neg]
  rintro (hc | ⟨hc, hx⟩)
  · exact h hc
  · exact Bool.false_ne_true ((hp hc).symm.trans hx)

theorem State.seeWide_eq (sc : Scope) : s.seeWide x sc = { s with wide := (s.seeWide x sc).wide } := by
  rw [State.seeWide]
  dsimp only
  split <;> rfl

/-- An acquire changes copies, and what the unit has seen. -/
theorem State.acquireAt_rest (sc : Scope) : (s.acquireAt x sc).1 = { s with
    lines := (s.acquireAt x sc).1.lines, oldParts := (s.acquireAt x sc).1.oldParts, wide := (s.acquireAt x sc).1.wide } := by
  rw [State.acquireAt]
  split
  · rfl
  · dsimp only
    rw [State.seeWide_eq]
    rfl

theorem State.acquireAt_spec (sc : Scope) : s.Spreads x.team.id (s.acquireAt x sc).1 ∧ x.Orders (s.acquireAt x sc).2 := by
  refine ⟨.of_rest ?_, ?_⟩
  · rw [State.acquireAt_rest]
  · rw [State.acquireAt]
    split
    · exact .refl x
    · exact ⟨rfl⟩

/-! ### Issues that release and acquire -/

section
variable {s t : State} {x y z : Site} {sc : Scope}

theorem Site.Orders.u (h : x.Orders z) : z.u = x.u := by rw [h.rest]

theorem Site.Orders.id (h : x.Orders z) : z.team.id = x.team.id := by rw [h.rest]

theorem Site.Orders.cl (h : x.Orders z) : z.team.cl = x.team.cl := by rw [h.rest]

theorem State.Issued.orders (h : s.Issued x y) (k : y.Orders z) : s.Issued x z :=
  h.congr k.u k.id (by rw [k.rest]) (by rw [k.rest]) (by rw [k.rest]) (by rw [k.rest]) (by rw [k.rest]) (by rw [k.rest])

/-- A package beside that of an issue, after a release or an acquire of the unit. -/
theorem State.Beside.spreads {team : Nat} (h : s.Beside t x) {u : State} (k : t.Spreads team u) : s.Beside u x := by
  obtain ⟨g, hg, ht⟩ := k.team?
  refine ⟨k.cur.trans h.cur, fun id => ?_, fun id hne hex => ?_, fun id hne => ?_⟩
  · rw [ht, Option.map_map, ← h.teams id]
    exact congrArg (Option.map · (t.team? id)) (funext hg.bare)
  · have he := h.exact id hne hex
    rw [ht, he]
    cases hu : s.team? id with
    | none => rfl
    | some v => exact congrArg some (hg.exact v (hex v hu))
  · rw [State.meet?, k.meets]
    exact h.meets id hne

/-- A release before the access that carries it, when it need not wait (R139). -/
theorem releaseThen_eq {x0 : Site} {t : State} (hx : s.here = some x0) (h : s.mayRelease x0 sc) (go : State → Site → Out) :
    s.releaseThen t z sc go = go (t.releaseAt z sc).1 (t.releaseAt z sc).2 := by
  have hsum : ((s.publishedLines x0 sc).any fun l => s.awaitsU (64 * l)) = false := List.any_eq_false.mpr fun l hl => by rw [h.summed l hl]; exact Bool.false_ne_true
  rw [State.releaseThen, hx]
  dsimp only
  rw [if_neg (by rw [hsum]; exact fun hc => hc.elim (fun h0 => h0 h.acked) Bool.false_ne_true), if_neg (by rw [h.alone]; exact nofun),
    if_neg (fun h0 => h0 h.after)]

end

end Sys2Proof.Machine
end

section
/-!
SUPPORT. Trigger counters (R256, R257, R388).
-/

namespace Sys2Proof.Machine

section
variable {s t : State} {x : Site} {is : List Nat} {e : Ext} {g : Guard} {us : List Use} {k : Nat}

/-- An issue whose registers hold values, and v0 where its demand asks for it. -/
theorem syncIssue_eq {v0 : Bool} (h : Issues s x is g us) (hv : v0 = true → ∀ i ∈ is, x.Knows i 0) (eff : State → Site → List Nat → Out) :
    issue g { uses := us, v0 := v0, leader := false } s eff = eff (s.account x).1 (s.account x).2 is :=
  issueWith_eq (d := { uses := us, v0 := v0, leader := false }) _ h (x.barred_demand us is) hv eff

theorem State.trigOf_of_dies (h : t.dies = s.dies) (cl : ClusterRef) (p : BitVec 8) : t.trigOf cl p = s.trigOf cl p := by
  rw [State.trigOf, State.cluster?, State.die?, h]
  rfl

theorem State.trig_of_dies (h : t.dies = s.dies) (cl : ClusterRef) (k : Nat) : t.trig cl k = s.trig cl k := by
  rw [State.trig, State.cluster?, State.die?, h]
  rfl

theorem State.runsOn_of_dies (h : t.dies = s.dies) (die : Nat) : t.runsOn die = s.runsOn die := by
  rw [State.runsOn, State.die?, h]
  rfl

@[simp] theorem account_trigOf (s : State) (x : Site) (p : BitVec 8) : (s.account x).1.trigOf (s.account x).2.team.cl p = s.trigOf x.team.cl p := by
  rw [account_cl]
  exact State.trigOf_of_dies (account_dies s x) _ _

@[simp] theorem account_trig (s : State) (x : Site) (k : Nat) : (s.account x).1.trig (s.account x).2.team.cl k = s.trig x.team.cl k := by
  rw [account_cl]
  exact State.trig_of_dies (account_dies s x) _ _

/-- An instruction on a counter that P names. -/
theorem trigOp_eq {v0 : Bool} (h : Issues s x is e.guard (us ++ readB e 1)) (hv : v0 = true → ∀ i ∈ is, x.Knows i 0) (hk : s.trigOf x.team.cl e.p = some k)
    (f : State → Site → List Nat → Nat → Word → Out) :
    trigOp e us v0 s f = f (s.account x).1 (s.account x).2 is k (wd (x.srcB (is.headD 0) e)) := by
  rw [trigOp, syncIssue_eq h hv]
  simp only [account_trigOf, hk, account_srcB]

/-! ### TRG.ADD -/

theorem trgAdd_eq (h : Issues s x is e.guard (readB e 1)) (hk : s.trigOf x.team.cl e.p = some k) (hm : s.mayRelease x .dv) :
    let r := (s.account x).1.releaseAt (s.account x).2 .dv
    let v := s.trig x.team.cl k + wd (x.srcB (is.headD 0) e)
    opTrgAdd e s = .next ((r.1.raiseTrig x.team.cl k v).done
      (if s.runsOn x.team.cl.die then { r.2 with team := r.2.team.fireOn x.team.cl k v } else r.2)) := by
  intro r v
  obtain ⟨hs, ho⟩ := (s.account x).1.releaseAt_spec (s.account x).2 .dv
  have hcl : r.2.team.cl = x.team.cl := ho.cl.trans (account_cl s x)
  have hdies : r.1.dies = s.dies := hs.dies.trans (account_dies s x)
  refine (trigOp_eq (us := []) (v0 := false) h nofun hk _).trans ?_
  rw [releaseThen_eq h.here hm]
  change Host.Outcome.next ((r.1.raiseTrig r.2.team.cl k (r.1.trig r.2.team.cl k + _)).done { r.2 with
    team := if r.1.runsOn r.2.team.cl.die then r.2.team.fireOn r.2.team.cl k (r.1.trig r.2.team.cl k + _) else r.2.team }) = _
  rw [hcl, State.trig_of_dies hdies, State.runsOn_of_dies hdies]
  cases s.runsOn x.team.cl.die <;> rfl

/-! ### TRG.ARM -/

theorem trgArm_spec (h : Issues s x is e.guard (readB e 1)) (hk : s.trigOf x.team.cl e.p = some k) :
    ∃ t y, opTrgArm e s = .next t ∧ Own s t x y ∧ Advanced s x y ∧ (∀ n q, y.slot n q = x.slot n q) ∧
      y.heat.arm = some { trig := k, at_ := wd (x.srcB (is.headD 0) e) } := by
  have hz : s.Issued x { (s.account x).2 with heat := { (s.account x).2.heat with arm := some { trig := k, at_ := wd (x.srcB (is.headD 0) e) } } } :=
    (State.issued_account s x).congr rfl rfl rfl rfl rfl rfl rfl rfl
  have hadv := hz.keeps.own h.here
  refine ⟨_, _, trigOp_eq (us := []) (v0 := false) h nofun hk _, hadv, hz.keeps.advanced h.once, fun n q => (Site.slot_after _ s n q).trans (hz.slot n q), ?_⟩
  rw [Site.after_heat]

/-! ### TRG.WAIT -/

theorem opTrgWait_eq (h : Issues s x is e.guard (useD e 1 :: readB e 1)) (hv : e.mod.getLsbD 0 = true → ∀ i ∈ is, x.Knows i 0)
    (hk : s.trigOf x.team.cl e.p = some k)
    (hr : e.mod.getLsbD 0 = true ∨ holds (s.trig x.team.cl k) (wd (x.srcB (is.headD 0) e)) = true) :
    let r := if holds (s.trig x.team.cl k) (wd (x.srcB (is.headD 0) e)) then (s.account x).1.acquireAt (s.account x).2 .dv else s.account x
    opTrgWait e s = regEffect (fun _ i y => (if e.mod.getLsbD 0 then
        y.setGuard i (e.c.toNat % 32) (holds (s.trig x.team.cl k) (wd (x.srcB (is.headD 0) e))) else y).dst32 i e (s.trig x.team.cl k).toNat) r.1 r.2 is := by
  intro r
  rw [opTrgWait, trigOp_eq (us := [useD e 1]) h hv hk]
  simp only [account_trig]
  rw [if_neg]
  rintro ⟨hf, ht⟩
  obtain hr | hr := hr
  · exact Bool.false_ne_true (ht.symm.trans hr)
  · exact Bool.false_ne_true (hf.symm.trans hr)

/-! ### Two writes to one fibre -/

theorem Site.updFibre_updFibre (y : Site) (i : Nat) (f h : Fibre → Fibre) : (y.updFibre i f).updFibre i h = y.updFibre i (h ∘ f) := by
  rw [Site.updFibre, Site.updFibre, Site.updFibre, Heat.updFibre, Heat.updFibre, Heat.updFibre]
  dsimp only
  rw [List.modify_modify_eq]
  congr 3
  funext o
  exact Option.map_map _ _ _

/-- A write of v0 and one of another register may change places. -/
theorem Site.setSlot_zero_comm (y : Site) (i : Nat) {r : Nat} (v w : Slot) (hr : r ≠ 0) :
    (y.setSlot i 0 v).setSlot i r w = (y.setSlot i r w).setSlot i 0 v := by
  by_cases h : r < 128
  · have hset (z : Site) (q : Nat) (hq : q < 128) (u : Slot) : z.setSlot i q u = z.updFibre i fun f => { f with regs := f.regs.set (f.slotOf q) u } := if_pos hq
    rw [hset _ _ h, hset _ _ h, hset _ 0 (by omega), hset _ 0 (by omega), Site.updFibre_updFibre, Site.updFibre_updFibre]
    congr 1
    funext f
    have hne : f.slotOf 0 ≠ f.slotOf r := fun hc => hr (f.slotOf_inj _ _ hc).symm
    exact congrArg (fun l => { f with regs := l }) (List.set_comm _ _ hne)
  · rw [Site.setSlot, if_neg h, Site.setSlot, if_pos (by omega), Site.setSlot, if_pos (by omega), Site.setSlot, if_neg h]
    rfl

theorem Site.setSlot_zero_zero (y : Site) (i : Nat) (v w : Slot) : (y.setSlot i 0 v).setSlot i 0 w = y.setSlot i 0 w := by
  have hset (z : Site) (u : Slot) : z.setSlot i 0 u = z.updFibre i fun f => { f with regs := f.regs.set (f.slotOf 0) u } := if_pos (by omega)
  rw [hset, hset, hset, Site.updFibre_updFibre]
  congr 1
  funext f
  exact congrArg (fun l => { f with regs := l }) (List.set_set _)

/-- A guard and then a word in D: the word replaces the guard where D is v0. -/
theorem Site.setGuard_dst32 (y : Site) (i k v : Nat) (b : Bool) (e : Ext) :
    (y.setGuard i k b).dst32 i e v = y.write { toD32 e (fun _ => v) with bit := if e.d = 0 then none else some (k, fun _ => b) } i := by
  rw [Site.write]
  by_cases hd : e.d = 0
  · rw [if_pos hd]
    have h0 : e.d.toNat = 0 := by rw [hd]; rfl
    rw [Site.dst32, h0, toD32, h0]
    exact Site.setSlot_zero_zero _ _ _ _
  · rw [if_neg hd]
    have h0 : e.d.toNat ≠ 0 := fun hc => hd (BitVec.eq_of_toNat_eq hc)
    refine (Site.setSlot_zero_comm y i (.val (setBit (y.word i 0) k b)) (.val (wd v)) h0).trans ?_
    change _ = Site.setGuard (y.setSlot i e.d.toNat (.val (wd v))) i k b
    rw [Site.setGuard, Site.word, Site.word, Site.slot_setSlot_other y i e.d.toNat i 0 _ (.inr h0)]

/-! ### TRG.WAIT delivers the counter -/

/-- The package and the unit that a TRG.WAIT writes to: it acquires when the counter has been reached. -/
theorem waited_spec (s : State) (x : Site) (ok : Bool) :
    let r := if ok then (s.account x).1.acquireAt (s.account x).2 .dv else s.account x
    s.Issued x r.2 ∧ s.Beside r.1 x := by
  intro r
  obtain ⟨hs, ho⟩ := (s.account x).1.acquireAt_spec (s.account x).2 .dv
  cases ok with
  | true => exact ⟨(State.issued_account s x).orders ho, (State.beside_account s x).spreads hs⟩
  | false => exact ⟨State.issued_account s x, State.beside_account s x⟩

theorem trgTry_spec (h : Issues s x is e.guard (readV0 :: useD e 1 :: readB e 1)) (hk : s.trigOf x.team.cl e.p = some k) (ht : e.mod.getLsbD 0 = true) :
    ∃ t y, opTrgWait e s = .next t ∧ UnitOnly s t x y ∧ Advanced s x y ∧ Wrote x y is { toD32 e (fun _ => (s.trig x.team.cl k).toNat) with
      bit := if e.d = 0 then none else some (e.c.toNat % 32, fun _ => decide ((s.trig x.team.cl k - wd (x.srcB (is.headD 0) e)).toNat < 2 ^ 31)) } := by
  have hv : ∀ i ∈ is, x.Knows i 0 := fun i hi => h.values readV0 List.mem_cons_self rfl i hi 0 Nat.one_pos
  have he := opTrgWait_eq (h.mono fun u hu => List.mem_cons_of_mem _ hu) (fun _ => hv) hk (.inl ht)
  obtain ⟨hissued, hbeside⟩ := waited_spec s x (holds (s.trig x.team.cl k) (wd (x.srcB (is.headD 0) e)))
  obtain ⟨y, hy, hu, ha, hw, -⟩ := hissued.writes h hbeside { toD32 e (fun _ => (s.trig x.team.cl k).toNat) with
      bit := if e.d = 0 then none else some (e.c.toNat % 32, fun _ => holds (s.trig x.team.cl k) (wd (x.srcB (is.headD 0) e))) }
    (f := fun _ i y => (if e.mod.getLsbD 0 then y.setGuard i (e.c.toNat % 32) (holds (s.trig x.team.cl k) (wd (x.srcB (is.headD 0) e))) else y).dst32 i e
      (s.trig x.team.cl k).toNat)
    (fun i _ y => by rw [if_pos ht]; exact y.setGuard_dst32 i _ _ _ e) (fun i hi j hj => h.fields (useD e 1) (by simp) i hi j hj) (fun _ i hi => (hv i hi).1)
  exact ⟨_, _, he.trans hy, hu, ha, hw⟩

theorem trgWait_spec (h : Issues s x is e.guard (useD e 1 :: readB e 1)) (hk : s.trigOf x.team.cl e.p = some k) (ht : e.mod.getLsbD 0 = false)
    (hr : (s.trig x.team.cl k - wd (x.srcB (is.headD 0) e)).toNat < 2 ^ 31) :
    ∃ t y, opTrgWait e s = .next t ∧ UnitOnly s t x y ∧ Advanced s x y ∧ Wrote x y is (toD32 e fun _ => (s.trig x.team.cl k).toNat) ∧
      t = { s with lines := t.lines, oldParts := t.oldParts, wide := t.wide, teams := t.teams, meets := t.meets } := by
  have hok : holds (s.trig x.team.cl k) (wd (x.srcB (is.headD 0) e)) = true := decide_eq_true hr
  have he := opTrgWait_eq h (fun hc => absurd (ht.symm.trans hc) Bool.false_ne_true) hk (.inr hok)
  obtain ⟨hissued, hbeside⟩ := waited_spec s x (holds (s.trig x.team.cl k) (wd (x.srcB (is.headD 0) e)))
  obtain ⟨y, hy, hu, ha, hw, -⟩ := hissued.writes h hbeside (toD32 e (fun _ => (s.trig x.team.cl k).toNat))
    (f := fun _ i y => (if e.mod.getLsbD 0 then y.setGuard i (e.c.toNat % 32) (holds (s.trig x.team.cl k) (wd (x.srcB (is.headD 0) e))) else y).dst32 i e
      (s.trig x.team.cl k).toNat)
    (fun i _ y => by rw [if_neg (by rw [ht]; exact Bool.false_ne_true)]; rfl) (fun i hi j hj => h.fields (useD e 1) (by simp) i hi j hj) nofun
  refine ⟨_, _, he.trans hy, hu, ha, hw, ?_⟩
  rw [if_pos hok, State.acquireAt_rest, State.account_fst]
  rfl

/-! ### TRG.SET -/

theorem Team.mem_cancel {u : Team} {p : Xfer → Bool} {op : Xfer} :
    op ∈ (u.cancel p).xfers ↔ op ∈ u.xfers ∧ ∀ q ∈ u.xfers, p q = true → op.handle ≠ q.handle := by
  have hf : ∀ (l : List Xfer) (u : Team), op ∈ (l.foldl (fun t x => t.finish x 0 2) u).xfers ↔ op ∈ u.xfers ∧ ∀ q ∈ l, op.handle ≠ q.handle := by
    intro l
    induction l with
    | nil =>
      intro u
      rw [List.foldl_nil]
      exact ⟨fun h => ⟨h, fun _ hq => absurd hq List.not_mem_nil⟩, fun h => h.1⟩
    | cons q l ih =>
      intro u
      have hfin : op ∈ (u.finish q 0 2).xfers ↔ op ∈ u.xfers ∧ op.handle ≠ q.handle := by
        change op ∈ List.filter _ _ ↔ _
        rw [List.mem_filter, decide_eq_true_eq]
      rw [List.foldl_cons, ih, hfin, and_assoc, List.forall_mem_cons]
  rw [Team.cancel, hf]
  refine and_congr_right fun _ => ⟨fun h q hq hp => h q (List.mem_filter.mpr ⟨hq, hp⟩), fun h q hq => h q (List.mem_filter.mp hq).1 (List.mem_filter.mp hq).2⟩

/-- No operation that a cancellation names is left. -/
theorem Team.cancel_none {u : Team} {p : Xfer → Bool} {op : Xfer} (h : op ∈ (u.cancel p).xfers) : p op = false := by
  obtain ⟨hm, hne⟩ := Team.mem_cancel.mp h
  exact Bool.eq_false_iff.mpr fun hp => hne op hm hp rfl

/-- A team when a counter of its cluster is set: what its value had reached starts, and the rest of what is armed on it is cancelled. -/
def Team.setOff (cl : ClusterRef) (k : Nat) (was : Word) (u : Team) : Team :=
  if u.cl = cl ∧ u.st = .resident then (u.fire k was).cancel (Xfer.armedOn k) else u

theorem Team.setOff_eq (cl : ClusterRef) (k : Nat) (was : Word) (u : Team) :
    u.setOff cl k was = { u with status := (u.setOff cl k was).status, xfers := (u.setOff cl k was).xfers } := by
  rw [Team.setOff]
  split
  · rw [Team.cancel_eq]
    rfl
  · rfl

theorem Team.setOff_none {cl : ClusterRef} {k : Nat} {was : Word} {u : Team} (hcl : u.cl = cl) (hst : u.st = .resident) :
    ∀ op ∈ (u.setOff cl k was).xfers, op.armedOn k = false := by
  rw [Team.setOff, if_pos ⟨hcl, hst⟩]
  exact fun op => Team.cancel_none

/-- An armed operation whose threshold held has started. -/
theorem Team.setOff_started {cl : ClusterRef} {k : Nat} {was : Word} {u : Team} {op : Xfer} {a : Arm} (hcl : u.cl = cl) (hst : u.st = .resident)
    (hop : op ∈ u.xfers) (hu : ∀ p ∈ u.xfers, p.handle = op.handle → p = op) (ha : op.st = .armed a) (hk : a.trig = k) (hr : (was - a.at_).toNat < 2 ^ 31) :
    { op with st := .started } ∈ (u.setOff cl k was).xfers := by
  have hfire : ∀ q ∈ (u.fire k was).xfers, ∃ p ∈ u.xfers, q.handle = p.handle ∧ (p = op → q = { op with st := .started }) := by
    intro q hq
    obtain ⟨p, hp, rfl⟩ := List.mem_map.mp hq
    refine ⟨p, hp, ?_, ?_⟩
    · split
      · split <;> rfl
      · rfl
    · rintro rfl
      rw [ha]
      exact if_pos ⟨hk, decide_eq_true hr⟩
  rw [Team.setOff, if_pos ⟨hcl, hst⟩, Team.mem_cancel]
  refine ⟨List.mem_map.mpr ⟨op, hop, ?_⟩, fun q hq hp hh => ?_⟩
  · rw [ha]
    exact if_pos ⟨hk, decide_eq_true hr⟩
  · obtain ⟨p, hp', hqp, hq'⟩ := hfire q hq
    have hpo : p = op := hu p hp' (hqp.symm.trans hh.symm)
    rw [hq' hpo] at hp
    exact Bool.false_ne_true hp

/-- A kept unit put back where its team's units stand as before. -/
theorem State.Keeps.found {z : Site} {o : Team} (h : s.Keeps x z) (hx : s.here = some x) (hc : t.cur = s.cur) (ho : t.team? s.cur.u.team = some o)
    (hid : o.id = x.team.id) (hh : o.heats = x.team.heats) (hp : o.pacer = x.team.pacer) : (t.done z).site? s.cur.u = some (z.after s) := by
  obtain ⟨hxu, -, hheat, -⟩ := State.site?_some hx
  have hsite : t.site? s.cur.u = some { u := s.cur.u, team := o, heat := x.heat } := by
    have hheat' : o.heat? s.cur.u.who = some x.heat := by
      rw [← hheat]
      cases s.cur.u.who with
      | pacer => exact hp
      | heat q i => rw [Team.heat?, Team.heat?, hh]
    rw [State.site?, ho, Option.bind_some, hheat']
    rfl
  have hadv : z.advance s.cur.batch s.cur.len = { z with heat := { z.heat with fibres := (z.advance s.cur.batch s.cur.len).heat.fibres } } :=
    Site.updFibres_eq _ _ _
  have hd : t.done z = t.put (z.advance s.cur.batch s.cur.len) := by rw [State.done, hc]
  have hzu : (z.advance s.cur.batch s.cur.len).u = s.cur.u := by rw [hadv]; exact h.u.trans hxu
  obtain ⟨hfound, -, -⟩ := State.put_spec (y := z.advance s.cur.batch s.cur.len) hsite (by rw [hadv]; exact h.u.trans hxu)
    (by rw [hadv]; exact h.id.trans hid.symm) (by rw [hadv]; exact h.heats.trans hh.symm) (by rw [hadv]; exact h.pacer.trans hp.symm)
    (by rw [hadv]; exact h.squad) (by rw [hadv]; exact h.idx)
  rw [hd, hfound, Site.after, Site.putBack, hzu]

/-- A team of the package in which a unit has been put back: one that was there, or the unit's own. -/
theorem State.mem_done {z : Site} {u : Team} (h : u ∈ (t.done z).teams) :
    u ∈ t.teams ∨ u = { z.team with heats := u.heats, pacer := u.pacer } := by
  rw [State.done, State.put, State.setTeam] at h
  obtain ⟨v, hv, rfl⟩ := List.mem_map.mp h
  by_cases hid : v.id = ((z.advance t.cur.batch t.cur.len).team.setHeat (z.advance t.cur.batch t.cur.len).u.who (z.advance t.cur.batch t.cur.len).heat).id
  · rw [if_pos hid, Team.setHeat_eq, Site.advance, Site.updFibres_eq]
    exact .inr rfl
  · rw [if_neg hid]
    exact .inl hv

theorem opTrgSet_eq (h : Issues s x is e.guard (readB e 1)) (hk : s.trigOf x.team.cl e.p = some k) :
    opTrgSet e s = .next (({ (s.account x).1.setTrig x.team.cl k (wd (x.srcB (is.headD 0) e)) with
        teams := s.teams.map (Team.setOff x.team.cl k (s.trig x.team.cl k)) } : State).done
      { (s.account x).2 with team := (s.account x).2.team.setOff x.team.cl k (s.trig x.team.cl k) }) := by
  refine (trigOp_eq (us := []) (v0 := false) h nofun hk _).trans ?_
  simp only [account_cl, State.trig_of_dies (account_dies s x)]
  rw [← account_teams s x]
  congr 3
  simp only [Team.setOff, account_cl]

theorem trgSet_spec (h : Issues s x is e.guard (readB e 1)) (hk : s.trigOf x.team.cl e.p = some k) :
    ∃ t y, opTrgSet e s = .next t ∧ t.site? s.cur.u = some y ∧
      t = { s with dies := (s.setTrig x.team.cl k (wd (x.srcB (is.headD 0) e))).dies, teams := t.teams, meets := t.meets } ∧
      Advanced s x y ∧ (∀ n q, y.slot n q = x.slot n q) ∧
      (∀ u ∈ t.teams, u.cl = x.team.cl → u.st = .resident → ∀ op ∈ u.xfers, op.armedOn k = false) ∧
      y.team.xfers = ((s.account x).2.team.setOff x.team.cl k (s.trig x.team.cl k)).xfers := by
  obtain ⟨-, hteam, -, -⟩ := State.site?_some h.here
  have hoff (u : Team) := u.setOff_eq x.team.cl k (s.trig x.team.cl k)
  have hz : s.Issued x { (s.account x).2 with team := (s.account x).2.team.setOff x.team.cl k (s.trig x.team.cl k) } :=
    (State.issued_account s x).congr rfl (by rw [hoff]) (by rw [hoff]) (by rw [hoff]) (by rw [hoff]) rfl rfl rfl
  have ho : ({ (s.account x).1.setTrig x.team.cl k (wd (x.srcB (is.headD 0) e)) with
      teams := s.teams.map (Team.setOff x.team.cl k (s.trig x.team.cl k)) } : State).team? s.cur.u.team =
      some (x.team.setOff x.team.cl k (s.trig x.team.cl k)) := by
    have hfun : ((fun u : Team => u.id == s.cur.u.team) ∘ Team.setOff x.team.cl k (s.trig x.team.cl k)) = fun u => u.id == s.cur.u.team := by
      funext u
      rw [Function.comp_apply, hoff]
    rw [State.team?, List.find?_map, hfun]
    exact (congrArg (Option.map _) hteam).trans rfl
  refine ⟨_, _, opTrgSet_eq h hk, hz.keeps.found h.here (account_cur s x) ho (by rw [hoff]) (by rw [hoff]) (by rw [hoff]), ?_,
    hz.keeps.advanced h.once, fun n q => (Site.slot_after _ s n q).trans (hz.slot n q), fun u hu hcl hst => ?_, ?_⟩
  · have hdies : ((s.account x).1.setTrig x.team.cl k (wd (x.srcB (is.headD 0) e))).dies = (s.setTrig x.team.cl k (wd (x.srcB (is.headD 0) e))).dies := by
      rw [State.account_fst]
      rfl
    rw [← hdies, State.account_fst]
    rfl
  · obtain hu | hu := State.mem_done hu
    · obtain ⟨v, -, rfl⟩ := List.mem_map.mp hu
      rw [hoff] at hcl hst
      exact Team.setOff_none hcl hst
    · rw [hu, hoff] at hcl hst
      rw [hu]
      exact Team.setOff_none hcl hst
  · rw [Site.after_team]

end

/-- Settles O30. -/
theorem triggerInstructions : Obligations.TriggerInstructions := by
  intro i e s x is k hk b r
  refine ⟨fun hi h hm => ?_, fun hi h => ?_, fun hi ht h hr => ?_, fun hi ht h => ?_, fun hi h => ?_⟩
  · have he : exec i s = opTrgAdd e s := by
      cases i with
      | trgAdd => cases hi; rfl
      | _ => cases hi
    rw [he]
    exact trgAdd_eq h hk hm
  · have he : exec i s = opTrgSet e s := by
      cases i with
      | trgSet => cases hi; rfl
      | _ => cases hi
    rw [he]
    obtain ⟨t, y, hn, hsite, hrest, hadv, hslot, hnone, hxf⟩ := trgSet_spec h hk
    have hteam := account_team s x
    refine ⟨t, y, hn, hsite, hrest, hadv, hslot, hnone, fun hst op hop hu a ha hak hw => ?_⟩
    rw [hxf]
    exact Team.setOff_started (account_cl s x) (by rw [hteam]; exact hst) (by rw [hteam]; exact hop) (by rw [hteam]; exact hu) ha hak hw
  · have he : exec i s = opTrgWait e s := by
      cases i with
      | trgWait => cases hi; rfl
      | _ => cases hi
    rw [he]
    exact trgWait_spec h hk ht hr
  · have he : exec i s = opTrgWait e s := by
      cases i with
      | trgWait => cases hi; rfl
      | _ => cases hi
    rw [he]
    exact trgTry_spec h hk ht
  · have he : exec i s = opTrgArm e s := by
      cases i with
      | trgArm => cases hi; rfl
      | _ => cases hi
    rw [he]
    exact trgArm_spec h hk

end Sys2Proof.Machine
end

section
/-!
SUPPORT. Fences, and what a release beyond the team leaves at homes and with the agents that see it (R121, R127, R129, R138 to R140, R243, R244).
-/

namespace Sys2Proof.Machine

/-! ### Bytes published at their homes -/

section
variable {s : State}

theorem State.publish_ulines {l : List (Nat × Byte)} (h : s.ulines = []) : (s.publish l).ulines = [] :=
  List.eq_nil_iff_forall_not_mem.mpr fun u hu => by
    have := (s.stirs_publish l).pending u hu
    rw [h] at this
    cases this

theorem State.homeWrite_mem (h : s.ulines = []) (pa : Nat) (bs : List Byte) : (s.homeWrite pa bs).mem = Memory.write s.mem pa bs := by
  rw [State.homeWrite, State.recallU, h]
  rfl

theorem State.homeWrite_ulines (h : s.ulines = []) (pa : Nat) (bs : List Byte) : (s.homeWrite pa bs).ulines = [] := by
  rw [State.homeWrite, State.recallU, h]
  rfl

theorem State.publish_get_other (h : s.ulines = []) {l : List (Nat × Byte)} {a : Nat} (ha : ∀ p ∈ l, p.1 ≠ a) :
    Memory.get (s.publish l).mem a = Memory.get s.mem a := by
  induction l generalizing s with
  | nil => rfl
  | cons p l ih =>
    refine (ih (s := s.homeWrite p.1 [p.2]) (State.homeWrite_ulines h _ _) fun q hq => ha q (List.mem_cons_of_mem _ hq)).trans ?_
    rw [State.homeWrite_mem h]
    exact Memory.get_write_other [p.2] s.mem p.1 a (by have := ha p List.mem_cons_self; rw [List.length_singleton]; omega)

theorem State.publish_get (h : s.ulines = []) (hm : Memory.wf s.mem = true) {l : List (Nat × Byte)} (hn : (l.map Prod.fst).Nodup) :
    ∀ p ∈ l, Memory.get (s.publish l).mem p.1 = p.2 := by
  induction l generalizing s with
  | nil => exact fun p hp => absurd hp List.not_mem_nil
  | cons p l ih =>
    rw [List.map_cons, List.nodup_cons] at hn
    have hu := State.homeWrite_ulines h p.1 [p.2]
    intro q hq
    obtain rfl | hq := List.mem_cons.mp hq
    · have hother := State.publish_get_other (l := l) (a := q.1) hu fun r hr hc => hn.1 (hc ▸ List.mem_map_of_mem hr)
      refine hother.trans ?_
      rw [State.homeWrite_mem h]
      exact Memory.get_set_same s.mem 0 q.1 q.2 hm
    · exact ih hu (s.wf_homeWrite p.1 [p.2] hm) hn.2 q hq

/-! ### Bytes put into a layer -/

theorem layerGet_layerPut_same (l : List LayerByte) (b : LayerByte) : layerGet (layerPut l b) b.pa = some b.byte := by
  rw [layerGet, layerPut, List.find?_cons_of_pos (by simp)]
  rfl

theorem layerGet_layerPut_other (l : List LayerByte) {b : LayerByte} {a : Nat} (h : b.pa ≠ a) : layerGet (layerPut l b) a = layerGet l a := by
  rw [layerGet, layerPut, List.find?_cons_of_neg (by simpa using h), List.find?_filter, layerGet]
  congr 2
  funext c
  by_cases hc : c.pa = a
  · simp [hc, Ne.symm h]
  · simp [hc]

theorem layerGet_foldl_other {l : List LayerByte} {bs : List LayerByte} {a : Nat} (h : ∀ b ∈ bs, b.pa ≠ a) :
    layerGet (bs.foldl layerPut l) a = layerGet l a := by
  induction bs generalizing l with
  | nil => rfl
  | cons b bs ih =>
    exact (ih fun c hc => h c (List.mem_cons_of_mem _ hc)).trans (layerGet_layerPut_other l (h b List.mem_cons_self))

theorem layerGet_foldl {l bs : List LayerByte} (hn : (bs.map LayerByte.pa).Nodup) : ∀ b ∈ bs, layerGet (bs.foldl layerPut l) b.pa = some b.byte := by
  induction bs generalizing l with
  | nil => exact fun b hb => absurd hb List.not_mem_nil
  | cons b bs ih =>
    rw [List.map_cons, List.nodup_cons] at hn
    intro c hc
    obtain rfl | hc := List.mem_cons.mp hc
    · have hother : ∀ d ∈ bs, d.pa ≠ c.pa := fun d hd hp => hn.1 (by rw [← hp]; exact List.mem_map_of_mem hd)
      exact (layerGet_foldl_other hother).trans (layerGet_layerPut_same l c)
    · exact ih hn.2 c hc

theorem packsOf_eq_nil {bs : List LayerByte} (h : ∀ b ∈ bs, b.pack = none) : packsOf bs = [] := by
  rw [packsOf, List.filterMap_eq_nil_iff.mpr fun b hb => by rw [h b hb]; rfl, List.reverse_nil]

theorem plainOf_eq_self {bs : List LayerByte} (h : ∀ b ∈ bs, b.pack = none) : plainOf bs = bs := by
  rw [plainOf, packsOf_eq_nil h]
  exact List.filter_eq_self.mpr fun b hb => by rw [h b hb]; rfl

/-- Bytes without QPACKs stand in the layer that they move into. -/
theorem layerGet_layerMove (u : UnitRef) (under : Nat → Nat → List Byte) (l : List LayerByte) {bs : List LayerByte} (hp : ∀ b ∈ bs, b.pack = none)
    (hn : (bs.map LayerByte.pa).Nodup) : ∀ b ∈ bs, layerGet (layerMove u under l bs) b.pa = some b.byte := by
  intro b hb
  rw [layerMove, packsOf_eq_nil hp, plainOf_eq_self hp]
  dsimp only
  have hfold (l : List LayerByte) : bs.foldl (fun l b => layerPut l { b with seen := [u] }) l = (bs.map fun b => { b with seen := [u] }).foldl layerPut l := by
    rw [List.foldl_map]
  rw [hfold]
  refine layerGet_foldl (bs := bs.map fun b => { b with seen := [u] }) ?_ { b with seen := [u] } (List.mem_map_of_mem hb)
  rw [List.map_map]
  exact hn

end

/-! ### A release beyond the team (R121, R127, R139) -/

section
variable (s : State) (x : Site) (sc : Scope)

/-- What a release beyond the team publishes and what reaches its place: where its path does not fail and it meets no poison. -/
def State.reaching : List (List LayerByte) :=
  (s.publishes x sc).map fun l => l.filter fun b => (s.pubCause x.team.cl.die ((s.publishes x sc).flatten.map LayerByte.pa) b).isNone

/-- A release beyond the team, before its acknowledgement is counted. -/
def State.spread : State :=
  if sc = .sy then s.publishHome x (s.reaching x sc) ((s.reaching x sc).flatten.map LayerByte.pa)
  else s.widen x sc (s.reaching x sc) ((s.reaching x sc).flatten.map LayerByte.pa)

theorem State.releaseAt_far (h : sc.far = true) : ∃ y till, y.heat.ws = [] ∧
    s.releaseAt x sc = if ((s.offerParts x sc).reaching x sc).flatten.map LayerByte.pa = [] then (s.offerParts x sc, y)
      else ((s.offerParts x sc).spread x sc).oweLease y till := by
  have hdefer {y : Site} (hy : y.heat.ws = []) (o : Option (Byte × LayerByte)) (f : Byte → LayerByte → DTrap) :
      (match o with | some (c, b) => { y with team := y.team.defer (f c b) } | none => y : Site).heat.ws = [] := by
    cases o <;> exact hy
  cases sc with
  | sy | dv | di => exact ⟨_, _, hdefer rfl _ _, rfl⟩
  | tm | sq | ht => cases h

theorem State.oweLease_ws (till : Nat) : (s.oweLease x till).2.heat.ws = x.heat.ws := by
  rw [State.oweLease]
  split <;> rfl

theorem State.oweLease_mem (till : Nat) : (s.oweLease x till).1.mem = s.mem := by
  rw [State.oweLease]
  split <;> rfl

theorem State.oweLease_wideAt (till : Nat) (at_ : Option Nat) : (s.oweLease x till).1.wideAt at_ = s.wideAt at_ := by
  rw [State.oweLease]
  split <;> rfl

theorem State.releaseAt_ws (h : sc.far = true) : (s.releaseAt x sc).2.heat.ws = [] := by
  obtain ⟨y, till, hy, he⟩ := s.releaseAt_far x sc h
  rw [he]
  split
  · exact hy
  · rw [State.oweLease_ws, hy]

theorem State.releaseAt_mem (h : sc.far = true) : (s.releaseAt x sc).1.mem =
    if ((s.offerParts x sc).reaching x sc).flatten.map LayerByte.pa = [] then s.mem else ((s.offerParts x sc).spread x sc).mem := by
  obtain ⟨y, till, -, he⟩ := s.releaseAt_far x sc h
  rw [he]
  split
  · rw [State.offerParts]
    split <;> rfl
  · rw [State.oweLease_mem]

theorem State.releaseAt_wideAt (h : sc.far = true) (hp : ((s.offerParts x sc).reaching x sc).flatten.map LayerByte.pa ≠ []) (at_ : Option Nat) :
    (s.releaseAt x sc).1.wideAt at_ = ((s.offerParts x sc).spread x sc).wideAt at_ := by
  obtain ⟨y, till, -, he⟩ := s.releaseAt_far x sc h
  rw [he, if_neg hp, State.oweLease_wideAt]

/-- A release beyond the team publishes the write set last. -/
theorem State.publishes_far (h : sc.far = true) : ∃ l, s.publishes x sc = l ++ [x.heat.ws.map (WsByte.lift x.u)] := by
  cases sc with
  | sy => exact ⟨[_, _, _, _], rfl⟩
  | dv => exact ⟨[_, _, _], rfl⟩
  | di => exact ⟨[_, _], rfl⟩
  | tm | sq | ht => cases h

theorem State.reaching_far (h : sc.far = true) (hp : s.poison = []) (hpath : ∀ b ∈ x.heat.ws, s.pathFault x.team.cl.die b.pa = none) :
    ∃ l, s.reaching x sc = l ++ [x.heat.ws.map (WsByte.lift x.u)] := by
  obtain ⟨l, hl⟩ := s.publishes_far x sc h
  have hws : (x.heat.ws.map (WsByte.lift x.u)).filter (fun b => (s.pubCause x.team.cl.die ((s.publishes x sc).flatten.map LayerByte.pa) b).isNone) =
      x.heat.ws.map (WsByte.lift x.u) := by
    refine List.filter_eq_self.mpr fun b hb => ?_
    obtain ⟨c, hc, rfl⟩ := List.mem_map.mp hb
    have hpf : s.pathFault x.team.cl.die (WsByte.lift x.u c).pa = none := hpath c hc
    rw [State.pubCause, hpf, hp, if_neg fun hm => absurd hm.1 List.not_mem_nil]
    rfl
  have he : s.reaching x sc = (l ++ [x.heat.ws.map (WsByte.lift x.u)]).map fun l =>
      l.filter fun b => (s.pubCause x.team.cl.die ((s.publishes x sc).flatten.map LayerByte.pa) b).isNone := congrArg (List.map _) hl
  rw [he, List.map_append, List.map_cons, hws, List.map_nil]
  exact ⟨_, rfl⟩

theorem State.offerParts_poison : (s.offerParts x sc).poison = s.poison := by
  rw [State.offerParts]
  split <;> rfl

theorem State.offerParts_ulines : (s.offerParts x sc).ulines = s.ulines := by
  rw [State.offerParts]
  split <;> rfl

theorem State.offerParts_mem : (s.offerParts x sc).mem = s.mem := by
  rw [State.offerParts]
  split <;> rfl

theorem State.offerParts_pathFault (die pa : Nat) : (s.offerParts x sc).pathFault die pa = s.pathFault die pa := by
  rw [State.offerParts]
  split <;> rfl

theorem State.overtake_mem (team : Nat) (pas : List Nat) (among : Team → Bool) : (s.overtake team pas among).mem = s.mem := by
  rw [State.overtake]
  split <;> rfl

theorem State.overtake_ulines (team : Nat) (pas : List Nat) (among : Team → Bool) : (s.overtake team pas among).ulines = s.ulines := by
  rw [State.overtake]
  split <;> rfl

theorem State.wideAt_setWide (at_ : Option Nat) (l : List LayerByte) : (s.setWide at_ l).wideAt at_ = l := by
  rw [State.wideAt, State.setWide]
  dsimp only
  rw [List.filter_append, List.map_append, List.filter_eq_self.mpr fun p hp => ?_, List.map_map, List.filter_eq_nil_iff.mpr fun p hp => ?_]
  · exact (List.append_nil _).trans (List.map_id _)
  · simpa using (List.mem_filter.mp hp).2
  · obtain ⟨b, -, rfl⟩ := List.mem_map.mp hp
    simp

theorem State.heal_mem (pas : List Nat) : (s.heal pas).mem = s.mem := by
  rw [State.heal]
  split <;> rfl

/-- What stands at homes after a release at .sy is what is published there. -/
theorem State.publishHome_mem (up : List (List LayerByte)) (pas : List Nat) :
    ∃ t, s.Spreads x.team.id t ∧ (s.publishHome x up pas).mem = (up.foldl State.publishAll t).mem := by
  have hwide (a b : Option Nat) (l m : List LayerByte) (p : Prop) [Decidable p] :
      s.Spreads x.team.id (if p then s else (s.setWide a l).setWide b m) := by
    split
    · exact .refl s
    · exact (s.spreads_setWide _ _ _).trans (State.spreads_setWide _ _ _ _)
  rw [State.publishHome]
  exact ⟨_, (hwide _ _ _ _ _).trans ((State.spreads_overtake _ _ _ _).trans (State.spreads_overtake _ _ _ _)), State.heal_mem _ _⟩

theorem State.Spreads.ulines {s t : State} {team : Nat} (h : s.Spreads team t) (hu : s.ulines = []) : t.ulines = [] :=
  List.eq_nil_iff_forall_not_mem.mpr fun l hl => absurd (hu ▸ h.pending l hl) List.not_mem_nil

theorem State.publishAll_get {bs : List LayerByte} (hu : s.ulines = []) (hm : Memory.wf s.mem = true) (hp : ∀ b ∈ bs, b.pack = none)
    (hn : (bs.map LayerByte.pa).Nodup) : ∀ b ∈ bs, Memory.get (s.publishAll bs).mem b.pa = b.byte := by
  intro b hb
  rw [State.publishAll, packsOf_eq_nil hp, plainOf_eq_self hp]
  refine State.publish_get (l := bs.map LayerByte.cell) hu hm ?_ b.cell (List.mem_map_of_mem hb)
  rw [List.map_map]
  exact hn

theorem State.widen_mem (up : List (List LayerByte)) (pas : List Nat) : (s.widen x sc up pas).mem = s.mem := by
  rw [State.widen]
  dsimp only
  split
  · exact s.overtake_mem _ _ _
  · exact (State.overtake_mem _ _ _ _).trans (s.overtake_mem _ _ _)

/-- What a release at .di or .dv publishes stands where the agents of its die, or of the package, see it. -/
theorem State.widen_wideAt (up : List (List LayerByte)) (pas : List Nat) :
    ∃ u l, (s.widen x sc up pas).wideAt (if sc = .di then some x.team.cl.die else none) = up.foldl (layerMove x.u u) l := by
  rw [State.widen]
  dsimp only
  split
  · exact ⟨_, _, State.wideAt_setWide _ _ _⟩
  · exact ⟨_, _, State.wideAt_setWide _ _ _⟩

variable {s x sc}

theorem releaseAt_far_spec (hm : s.MemOk) (hfar : sc.far = true) (hu : s.ulines = []) (hpo : s.poison = []) (hn : (x.heat.ws.map WsByte.pa).Nodup)
    (hp : ∀ b ∈ x.heat.ws, b.pack = none) (hpath : ∀ b ∈ x.heat.ws, s.pathFault x.team.cl.die b.pa = none) :
    (sc = .sy → ∀ b ∈ x.heat.ws, Memory.get (s.releaseAt x sc).1.mem b.pa = b.byte) ∧
    (sc ≠ .sy → (s.releaseAt x sc).1.mem = s.mem ∧ ∀ b ∈ x.heat.ws,
       layerGet ((s.releaseAt x sc).1.wideAt (if sc = .di then some x.team.cl.die else none)) b.pa = some b.byte) := by
  obtain ⟨l, hl⟩ := (s.offerParts x sc).reaching_far x sc hfar ((s.offerParts_poison x sc).trans hpo)
    fun b hb => (s.offerParts_pathFault x sc _ _).trans (hpath b hb)
  have hmem := s.releaseAt_mem x sc hfar
  have hne (b : WsByte) (hb : b ∈ x.heat.ws) : ((s.offerParts x sc).reaching x sc).flatten.map LayerByte.pa ≠ [] := by
    rw [hl]
    have hin : (WsByte.lift x.u b).pa ∈ (l ++ [x.heat.ws.map (WsByte.lift x.u)]).flatten.map LayerByte.pa :=
      List.mem_map_of_mem (List.mem_flatten.mpr ⟨_, List.mem_append_right _ List.mem_cons_self, List.mem_map_of_mem hb⟩)
    exact List.ne_nil_of_mem hin
  have hpack : ∀ b ∈ x.heat.ws.map (WsByte.lift x.u), b.pack = none := fun b hb => by
    obtain ⟨c, hc, rfl⟩ := List.mem_map.mp hb
    exact hp c hc
  have hnod : ((x.heat.ws.map (WsByte.lift x.u)).map LayerByte.pa).Nodup := by
    rw [List.map_map]
    exact hn
  refine ⟨fun hsy b hb => ?_, fun hsy => ⟨?_, fun b hb => ?_⟩⟩
  · rw [hmem, if_neg (hne b hb), State.spread, if_pos hsy]
    obtain ⟨t, ht, hmt⟩ := (s.offerParts x sc).publishHome_mem x ((s.offerParts x sc).reaching x sc)
      (((s.offerParts x sc).reaching x sc).flatten.map LayerByte.pa)
    rw [hmt, hl, List.foldl_append]
    have hspread := ht.trans (State.Spreads.foldl (fun s bs => s.spreads_publishAll x.team.id bs) l t)
    exact State.publishAll_get _ (hspread.ulines ((s.offerParts_ulines x sc).trans hu)) (hspread.wf (by rw [s.offerParts_mem]; exact hm.1)) hpack hnod
      (WsByte.lift x.u b) (List.mem_map_of_mem hb)
  · rw [hmem]
    split
    · rfl
    · rw [State.spread, if_neg hsy, State.widen_mem, State.offerParts_mem]
  · rw [s.releaseAt_wideAt x sc hfar (hne b hb), State.spread, if_neg hsy]
    obtain ⟨u, m, hw⟩ := (s.offerParts x sc).widen_wideAt x sc ((s.offerParts x sc).reaching x sc)
      (((s.offerParts x sc).reaching x sc).flatten.map LayerByte.pa)
    rw [hw, hl, List.foldl_append]
    exact layerGet_layerMove x.u u _ hpack hnod (WsByte.lift x.u b) (List.mem_map_of_mem hb)

end

/-! ### FENCE and PHASE (R140, R243) -/

/-- The operation of each mnemonic of ordering and of values in flight. -/
def orderOpOf : Mn → Option (Ext → State → Out)
  | .fence => some opFence
  | .phase => some opPhase
  | .wdrain => some opWdrain
  | .btnSync => some opBtnSync
  | .btnTest => some opBtnTest
  | _ => none

theorem exec_of_orderOpOf {i : Instr} {m : Mn} {e : Ext} {op : Ext → State → Out} (hi : i.shape = .form m e) (ho : orderOpOf m = some op) (s : State) :
    exec i s = op e s := by
  cases i with
  | fence | fenceExt | phase | phaseExt | wdrain | wdrainExt | btnSync | btnSyncExt | btnTest | btnTestExt => cases hi; cases ho; rfl
  | _ => cases hi <;> cases ho

section
variable {s : State} {x : Site} {is : List Nat} {e : Ext}

/-- The package and the unit after a fence's release and acquire. -/
def State.ordered (s : State) (x : Site) (rel acq : Bool) (sc : Scope) : State × Site :=
  let a := if rel then (s.account x).1.releaseAt (s.account x).2 sc else s.account x
  if acq then a.1.acquireAt a.2 sc else a

theorem orderOp_eq {rel acq waits : Bool} (h : Issues s x is e.guard []) (hw : waits = true → x.heat.loading = false)
    (hr : rel = true → s.mayRelease x (scopeOf e.rs)) :
    orderOp e rel acq waits s = .next ((s.ordered x rel acq (scopeOf e.rs)).1.done (s.ordered x rel acq (scopeOf e.rs)).2) := by
  have hload : (s.account x).2.heat.loading = x.heat.loading := by
    rw [State.account_snd]
    rfl
  rw [orderOp, issue_eq h]
  dsimp only
  rw [hload, if_neg fun hc => absurd ((hw hc.1).symm.trans hc.2) Bool.false_ne_true, State.ordered]
  cases rel with
  | true =>
    rw [if_pos rfl, releaseThen_eq h.here (hr rfl)]
    cases acq <;> rfl
  | false => cases acq <;> rfl

theorem ordered_spec (s : State) (x : Site) (rel acq : Bool) (sc : Scope) : s.Issued x (s.ordered x rel acq sc).2 ∧ s.Beside (s.ordered x rel acq sc).1 x := by
  obtain ⟨hrs, hro⟩ := (s.account x).1.releaseAt_spec (s.account x).2 sc
  have ha : s.Issued x (if rel then (s.account x).1.releaseAt (s.account x).2 sc else s.account x).2 ∧
      s.Beside (if rel then (s.account x).1.releaseAt (s.account x).2 sc else s.account x).1 x := by
    cases rel with
    | true => exact ⟨(State.issued_account s x).orders hro, (State.beside_account s x).spreads hrs⟩
    | false => exact ⟨State.issued_account s x, State.beside_account s x⟩
  rw [State.ordered]
  generalize (if rel then (s.account x).1.releaseAt (s.account x).2 sc else s.account x) = a at ha
  obtain ⟨hi, hb⟩ := ha
  obtain ⟨has, hao⟩ := a.1.acquireAt_spec a.2 sc
  cases acq with
  | true => exact ⟨hi.orders hao, hb.spreads has⟩
  | false => exact ⟨hi, hb⟩

theorem order_spec {rel acq waits : Bool} (h : Issues s x is e.guard []) (hw : waits = true → x.heat.loading = false)
    (hr : rel = true → s.mayRelease x (scopeOf e.rs)) :
    let b := s.ordered x rel acq (scopeOf e.rs)
    orderOp e rel acq waits s = .next (b.1.done b.2) ∧ ∃ z, UnitOnly s (b.1.done b.2) x z ∧ Advanced s x z ∧ ∀ n k, z.slot n k = x.slot n k := by
  intro b
  obtain ⟨hi, hb⟩ := ordered_spec s x rel acq (scopeOf e.rs)
  exact ⟨orderOp_eq h hw hr, _, hi.keeps.unitOnly h.here hb, hi.keeps.advanced h.once, fun n k => (Site.slot_after _ s n k).trans (hi.slot n k)⟩

/-! ### Acquires (R129) -/

/-- That a unit has seen a byte changes neither its place nor the byte. -/
theorem seenBy_key (p : Option Nat × LayerByte) (u : UnitRef) (q : Prop) [Decidable q] :
    (fun p : Option Nat × LayerByte => (p.1, p.2.pa, p.2.byte)) (if q then (p.1, { p.2 with seen := p.2.seen ++ [u] }) else p) = (p.1, p.2.pa, p.2.byte) := by
  split <;> rfl

theorem acquire_spec (s : State) (x : Site) (sc : Scope) (h : sc ≠ .ht) (hp : sc = .sq → x.isPacer = false) :
    (∀ c ∈ (s.acquireAt x sc).1.lines, c ∈ s.lines ∧ sc.discards x c = false) ∧
    (s.acquireAt x sc).1.wide.map (fun p => (p.1, p.2.pa, p.2.byte)) = s.wide.map (fun p => (p.1, p.2.pa, p.2.byte)) ∧
    (s.acquireAt x sc).2 = { x with team := { x.team with sqLayer := (s.acquireAt x sc).2.team.sqLayer, tmLayer := (s.acquireAt x sc).2.team.tmLayer } } := by
  rw [s.acquireAt_eq x h hp]
  refine ⟨fun c hc => ?_, ?_, rfl⟩
  · dsimp only at hc
    rw [State.seeWide_eq] at hc
    obtain ⟨hm, hd⟩ := (State.mem_dropCopies _).mp hc
    exact ⟨hm, hd⟩
  · rw [State.seeWide]
    dsimp only
    split
    · rfl
    · dsimp only
      rw [List.map_map]
      exact List.map_congr_left fun p _ => seenBy_key p x.u _

/-! ### WDRAIN, BTN.SYNC and BTN.TEST (R243, R244) -/

/-- An issue that only moves on. -/
theorem account_computes {g : Guard} {us : List Use} (h : Issues s x is g us) : Computes (.next ((s.account x).1.done (s.account x).2)) s x is nothing := by
  have hk := State.keeps_account s x
  refine ⟨_, _, rfl, hk.frame h.here ?_ ?_, hk.advanced h.once, wrote_nothing (fun n r => ?_) fun n => ?_⟩
  · rw [account_team]
  · conv_lhs => rw [State.account_snd]
    rw [State.account_snd]
  · rw [Site.slot_after, account_slot]
  · rw [Site.seed_after _ h.once, account_seed]

theorem wdrain_computes (h : Issues s x is e.guard []) (hu : x.heat.unacked = 0) : Computes (opWdrain e s) s x is nothing := by
  have hun : (s.account x).2.heat.unacked = 0 := by
    rw [State.account_snd]
    exact hu
  rw [opWdrain, issue_eq h, if_neg fun hc => hc hun]
  exact account_computes h

theorem btnSync_computes (h : Issues s x is e.guard [readA e 1]) (hm : e.mod.getLsbD 0 = false) : Computes (opBtnSync e s) s x is nothing := by
  rw [opBtnSync, if_neg (by rw [hm]; exact Bool.false_ne_true), issue_eq h]
  exact account_computes h

theorem btnSyncAll_computes (h : Issues s x is e.guard []) (hm : e.mod.getLsbD 0 = true) (hall : ∀ k ∈ is, allUses x k = []) :
    Computes (opBtnSync e s) s x is nothing := by
  rw [opBtnSync, if_pos hm, issueOn_eq (vs := []) h (fun v hv => absurd hv List.not_mem_nil) fun p hp => ?_]
  · exact account_computes h
  · obtain ⟨k, hk, rfl⟩ := List.mem_map.mp hp
    exact hall k hk

theorem btnTest_computes (h : Issues s x is e.guard [readV0, { reg := e.a.toNat, n := 1, rd := false }]) :
    Computes (opBtnTest e s) s x is (toG e.d fun k => match x.slot k e.a.toNat with
      | .bat b => decide (b.st ≠ .pending)
      | .val _ => true) := by
  refine issueG_computes h (fun z => toG e.d fun k => match z.slot k e.a.toNat with
    | .bat b => decide (b.st ≠ .pending)
    | .val _ => true) _ (fun _ _ _ => rfl) ?_ fun _ _ _ hk => absurd hk (Nat.not_lt_zero _)
  simp only [account_slot]

end

/-- Settles O27. -/
theorem fencesAndDrains : Obligations.FencesAndDrains := by
  refine ⟨?_, fun s x sc hm hfar hu hpo hn hp hpath => ⟨s.releaseAt_ws x sc hfar, releaseAt_far_spec hm hfar hu hpo hn hp hpath⟩,
    fun s x sc h hp => ?_, fun i e s x is => ⟨fun hi h hu => ?_, fun hi hm h => ?_, fun hi hm h hall => ?_, fun hi h => ?_⟩⟩
  · intro i m e s x is rel acq waits hi hp h sc hw hr a b
    have he : exec i s = orderOp e rel acq waits s := by
      cases m with
      | fence => cases hp; exact exec_of_orderOpOf hi rfl s
      | phase => cases hp; exact exec_of_orderOpOf hi rfl s
      | _ => cases hp
    rw [he]
    exact order_spec h hw hr
  · obtain ⟨hl, hw, hx⟩ := acquire_spec s x sc h hp
    exact ⟨hl, s.acquireAt_rest x sc, hw, hx⟩
  · rw [exec_of_orderOpOf hi rfl]
    exact wdrain_computes h hu
  · rw [exec_of_orderOpOf hi rfl]
    exact btnSync_computes h hm
  · rw [exec_of_orderOpOf hi rfl]
    exact btnSyncAll_computes h hm hall
  · rw [exec_of_orderOpOf hi rfl]
    exact btnTest_computes h

end Sys2Proof.Machine
end

section
/-!
SUPPORT. What the host sets up at expanders (R364, R365, R369, R372) and what it learns of the firmware (R405, R406).
-/

namespace Sys2Proof.Machine

/-! ### Expanders -/

theorem State.expanderAt_updExpander {s : State} {port : Option Nat} {e : Expander} (f : Expander → Expander) (h : s.expanderAt port = some e) :
    (s.updExpander port f).expanderAt port = some (f e) := by
  cases port with
  | some p =>
    change (s.beyond.modify p f)[p]? = _
    rw [List.getElem?_modify_eq, show s.beyond[p]? = some e from h]
    rfl
  | none =>
    change (if s.product = .ks4x then some s.expander else none) = _ at h
    change (if s.product = .ks4x then some (f s.expander) else none) = _
    split at h
    next hp => rw [if_pos hp, Option.some.inj h]
    · exact absurd h.symm (Option.some_ne_none _)

theorem State.updExpander_frame (s : State) (port : Option Nat) (f : Expander → Expander) : s.updExpander port f =
    { s with expander := (s.updExpander port f).expander, beyond := (s.updExpander port f).beyond } := by
  cases port <;> rfl

theorem Memory.get_zeroed {p : Nat → Bool} {pa : Nat} (m : List Host.Cell) (h : p pa = true) : Memory.get (m.filter fun c => !p c.1) pa = 0 := by
  rw [Memory.get_filter fun a => !p a, h]
  rfl

section Extents

variable {s : State} {port : Option Nat} {e : Expander}

/-- The extent that an addition makes. -/
def Extent.added (tenant host dpa blocks : Nat) : Extent := { tenant := tenant, host := host, dpa := dpa, size := blocks * 2 ^ 28 }

theorem dcAddExtent_eq (tenant host : Nat) {dpa blocks : Nat} (he : s.expanderAt port = some e) (h0 : blocks ≠ 0) (ha : dpa % 2 ^ 28 = 0)
    (hb : dpa + blocks * 2 ^ 28 ≤ s.expanderBytes port) (hr : covered e.regions dpa (blocks * 2 ^ 28) = true)
    (hd : covered e.decoders dpa (blocks * 2 ^ 28) = true) (hx : ∀ g ∈ e.extents, g.dpa + g.size ≤ dpa ∨ dpa + blocks * 2 ^ 28 ≤ g.dpa) :
    exec (.dcAddExtent ⟨port, tenant⟩ host dpa blocks) s =
      .next (((s.zeroWhere (s.inDpa port dpa (blocks * 2 ^ 28))).updExpander port fun x =>
        { x with extents := x.extents ++ [Extent.added tenant host dpa blocks] }).tell (.command 0)) := by
  have hany : e.extents.any (fun g => g.dpa < dpa + blocks * 2 ^ 28 ∧ dpa < g.dpa + g.size) = false := by
    rw [List.any_eq_false]
    intro g hg hc
    have := hx g hg
    have := of_decide_eq_true hc
    omega
  change opDcAddExtent port tenant host dpa blocks s = _
  rw [opDcAddExtent, he]
  dsimp only
  rw [hr, hd, hany, if_neg]
  · rfl
  · rintro (h | h | h | h | h | h)
    · exact h0 h
    · exact h ha
    · exact absurd hb (Nat.not_le.mpr h)
    all_goals exact Bool.noConfusion h

theorem State.sendSnoops_spec (line : Nat) : ∀ (hs : List Nat) (s : State),
    (s.sendSnoops line hs = { s with snoops := (s.sendSnoops line hs).snoops, host := (s.sendSnoops line hs).host }) ∧
    (∀ n ∈ s.snoops, n ∈ (s.sendSnoops line hs).snoops) ∧ ∀ h ∈ hs, ∃ n ∈ (s.sendSnoops line hs).snoops, n.line = line ∧ n.host = h
  | [], s => ⟨rfl, fun _ hn => hn, nofun⟩
  | h :: r, s => by
    rw [State.sendSnoops]
    split
    next hany =>
      obtain ⟨hf, hold, hnew⟩ := State.sendSnoops_spec line r s
      refine ⟨hf, hold, fun k hk => ?_⟩
      rcases List.mem_cons.mp hk with rfl | hk
      · obtain ⟨n, hn, hl⟩ := List.any_eq_true.mp hany
        exact ⟨n, hold n hn, of_decide_eq_true hl⟩
      · exact hnew k hk
    next =>
      obtain ⟨hf, hold, hnew⟩ := State.sendSnoops_spec line r
        (({ s with snoops := s.snoops ++ [{ line := line, host := h, held := [] }] } : State).tell (.bisnp line h))
      refine ⟨hf, fun n hn => hold n (List.mem_append_left _ hn), fun k hk => ?_⟩
      rcases List.mem_cons.mp hk with rfl | hk
      · exact ⟨_, hold _ (List.mem_append_right _ (List.mem_singleton.mpr rfl)), rfl, rfl⟩
      · exact hnew k hk

theorem State.sendAll_spec : ∀ (held : List (Nat × List Nat)) (s : State),
    let t := held.foldl (fun s p => s.sendSnoops p.1 p.2) s
    t = { s with snoops := t.snoops, host := t.host } ∧ (∀ n ∈ s.snoops, n ∈ t.snoops) ∧
      ∀ p ∈ held, ∀ h ∈ p.2, ∃ n ∈ t.snoops, n.line = p.1 ∧ n.host = h
  | [], s => ⟨rfl, fun _ hn => hn, nofun⟩
  | p :: ps, s => by
    obtain ⟨hf1, hold1, hnew1⟩ := State.sendSnoops_spec p.1 p.2 s
    obtain ⟨hf, hold, hnew⟩ := State.sendAll_spec ps (s.sendSnoops p.1 p.2)
    refine ⟨?_, fun n hn => hold n (hold1 n hn), fun q hq h hh => ?_⟩
    · rw [List.foldl_cons]
      generalize hu : ps.foldl (fun s p => s.sendSnoops p.1 p.2) (s.sendSnoops p.1 p.2) = u at hf
      rw [hf1] at hf
      exact hf
    · rcases List.mem_cons.mp hq with rfl | hq
      · obtain ⟨n, hn, he⟩ := hnew1 h hh
        exact ⟨n, hold n hn, he⟩
      · exact hnew q hq h hh

/-- What a release leaves once nobody holds a line of the extent. -/
def State.releasedExtent (s : State) (port : Option Nat) (g : Extent) : State :=
  ((s.dropCopies fun c => decide (c.cls ≠ .priv) && s.inDpa port g.dpa g.size (64 * c.line)).zeroWhere (s.inDpa port g.dpa g.size)).updExpander port
    fun e => { e with extents := e.extents.filter fun h => h.dpa ≠ g.dpa }

theorem dcReleaseExtent_eq {dpa : Nat} {g : Extent} (he : s.expanderAt port = some e) (hg : (e.extents.find? fun h => h.dpa = dpa) = some g) :
    exec (.dcReleaseExtent ⟨port, dpa⟩) s =
      if s.heldIn port g ≠ [] then .next ((s.heldIn port g).foldl (fun s p => s.sendSnoops p.1 p.2) s)
      else if port = none ∧ s.tasksOf g.tenant then .next s
      else .next ((s.releasedExtent port g).tell (.command 0)) := by
  have hd : g.dpa = dpa := of_decide_eq_true (List.find?_some (p := fun h : Extent => decide (h.dpa = dpa)) hg)
  subst hd
  change opDcReleaseExtent port g.dpa s = _
  rw [opDcReleaseExtent, he]
  dsimp only
  rw [hg]
  rfl

end Extents

/-! ### Sessions -/

section Sessions

variable {s : State} {die slot : Nat}

theorem State.keySlot_eq {d : Die} (hd : s.die? die = some d) : s.keySlot die slot = (d.keys[slot]?).join := by
  rw [State.keySlot, hd]
  rfl

theorem State.keySlot_updKey {d : Die} (f : Option KeySlot → Option KeySlot) (hd : s.die? die = some d) :
    (s.updKey die slot f).keySlot die slot = ((d.keys[slot]?).map f).join := by
  have h : (s.updKey die slot f).die? die = some { d with keys := d.keys.modify slot f } := by
    rw [State.updKey, State.updDie_eq hd]
    exact List.getElem?_set_self (State.lt_of_die? hd)
  rw [State.keySlot_eq h, List.getElem?_modify_eq]
  rfl

theorem State.keySlot_updExpander (port : Option Nat) (f : Expander → Expander) : (s.updExpander port f).keySlot die slot = s.keySlot die slot := by
  cases port <;> rfl

theorem State.exists_of_keySlot {k : KeySlot} (h : s.keySlot die slot = some k) : ∃ d, s.die? die = some d ∧ d.keys[slot]? = some (some k) := by
  cases hd : s.die? die with
  | none =>
    rw [State.keySlot, hd] at h
    exact absurd h.symm (Option.some_ne_none _)
  | some d =>
    rw [State.keySlot_eq hd] at h
    exact ⟨d, rfl, Option.join_eq_some_iff.mp h⟩

/-- The sessions that end with the key slots that a test names, each with its port. -/
def State.endedWith (s : State) (p : Nat → KeySlot → Bool) : List (Nat × Word) :=
  s.dies.zipIdx.flatMap fun (d, i) => d.keys.filterMap fun k => k.bind fun k => if p i k then some (k.expander, k.session) else none

theorem State.mem_endedWith {p : Nat → KeySlot → Bool} {i : Nat} {d : Die} {k : KeySlot} (hd : s.die? i = some d) (hk : some k ∈ d.keys)
    (hp : p i k = true) : (k.expander, k.session) ∈ s.endedWith p :=
  List.mem_flatMap.mpr ⟨(d, i), List.mem_zipIdx_iff_getElem?.mpr hd, List.mem_filterMap.mpr ⟨some k, hk, by rw [Option.bind_some, if_pos hp]⟩⟩

theorem State.endSessions_expander? (p : Nat → KeySlot → Bool) {port : Nat} {x : Expander} (hx : s.expander? port = some x) :
    (s.endSessions p).expander? port = some { x with live := x.live.filter fun l => (port, l.id) ∉ s.endedWith p } := by
  change (s.beyond.zipIdx.map fun (e, i) => ({ e with live := e.live.filter fun l => (i, l.id) ∉ s.endedWith p } : Expander))[port]? = _
  rw [List.getElem?_map, List.getElem?_zipIdx, show s.beyond[port]? = some x from hx, Option.map_some, Option.map_some, Nat.zero_add]

theorem State.endSessions_frame (p : Nat → KeySlot → Bool) :
    s.endSessions p = { s with dies := (s.endSessions p).dies, beyond := (s.endSessions p).beyond } := rfl

/-- What a key exchange through a port leaves. -/
def State.keyed (s : State) (die slot ctx port tenant : Nat) (session : Word) (key : BitVec 256) : State :=
  ((s.endSessions fun d k => d = die ∧ s.keySlot die slot = some k).updKey die slot fun _ =>
    some { ctx := ctx, expander := port, session := session, key := key, counter := 0 }).updExpander (some port) fun e => e.begin_ session tenant key

theorem State.keyed_frame {ctx port tenant : Nat} {session : Word} {key : BitVec 256} :
    let t := (s.keyed die slot ctx port tenant session key).tell (.command 0)
    t = { s with dies := t.dies, beyond := t.beyond, host := s.host ++ done0 } := by
  unfold State.keyed
  rw [State.endSessions_frame]
  rfl

theorem keyExchange_eq {ctx port : Nat} {d : Die} {c : Context} (tenant : Nat) (session : Word) (key : BitVec 256) (hd : s.die? die = some d)
    (hup : d.coreUp 5 = true) (hslot : slot < 64) (hport : port < 4) (hg : .cxl port ∉ s.gone) (hc : s.ctx? ctx = some c) (hk : c.killed = false) :
    exec (.keyExchange (.slot die slot) ctx port tenant session key true) s = .next ((s.keyed die slot ctx port tenant session key).tell (.command 0)) := by
  change execKeyExchange (.slot die slot) ctx port tenant session key true s = _
  rw [execKeyExchange]
  dsimp only
  rw [hd, hc, Option.map_some, Option.map_some, hup, hk, if_neg]
  · rfl
  · rintro (h | h | h | h | h | h | h)
    · exact absurd (State.lt_of_die? hd) (Nat.not_lt.mpr h)
    · exact absurd hslot (Nat.not_lt.mpr h)
    · exact absurd hport (Nat.not_lt.mpr h)
    · exact Bool.noConfusion h
    · exact hg h
    · exact h rfl
    · exact Bool.noConfusion h

theorem Expander.session?_begin (x : Expander) (session : Word) (tenant : Nat) (key : BitVec 256) :
    (x.begin_ session tenant key).session? session = some { id := session, tenant := tenant, keys := [(0, key)] } :=
  List.find?_cons_of_pos (decide_eq_true rfl)

theorem Expander.accepted_begin {x : Expander} {session : Word} {tenant : Nat} {key : BitVec 256} :
    ∀ a ∈ (x.begin_ session tenant key).accepted, a.1 ≠ session := fun _ ha => of_decide_eq_true (List.mem_filter.mp ha).2

theorem Expander.session?_without (x : Expander) (session : Word) : (x.without session).session? session = none := by
  rw [Expander.session?, List.find?_eq_none]
  intro l hl
  have := of_decide_eq_true (List.mem_filter.mp hl).2
  exact fun h => this (of_decide_eq_true h)

theorem State.keyed_spec {ctx port : Nat} {d : Die} {x : Expander} {old : Option KeySlot} (tenant : Nat) (session : Word) (key : BitVec 256)
    (hd : s.die? die = some d) (ho : d.keys[slot]? = some old) (hx : s.expander? port = some x) :
    (s.keyed die slot ctx port tenant session key).keySlot die slot =
      some { ctx := ctx, expander := port, session := session, key := key, counter := 0 } ∧
    ∃ live, (s.keyed die slot ctx port tenant session key).expander? port = some (Expander.begin_ { x with live := live } session tenant key) := by
  constructor
  · have hd1 : (s.endSessions fun d k => d = die ∧ s.keySlot die slot = some k).die? die =
        some { d with keys := d.keys.map fun k => k.filter fun k => !decide (die = die ∧ s.keySlot die slot = some k) } := by
      rw [State.die?, State.endSessions]
      simp only [List.getElem?_map, List.getElem?_zipIdx, show s.dies[die]? = some d from hd, Option.map_some, Nat.zero_add]
    rw [State.keyed, State.keySlot_updExpander, State.keySlot_updKey _ hd1, List.getElem?_map, ho]
    rfl
  · have hl := State.endSessions_expander? (fun d k => decide (d = die ∧ s.keySlot die slot = some k)) hx
    exact ⟨_, State.expanderAt_updExpander (s := (s.endSessions fun d k => d = die ∧ s.keySlot die slot = some k).updKey die slot _) (port := some port) _ hl⟩

end Sessions

/-! ### Firmware -/

section Layers

theorem map_bootLayers (ls : List Layer) :
    (bootLayers ls).map (fun k => (k.measurement, k.version, k.rollback)) = ls.map fun k => (k.measurement, k.version, k.rollback) := by
  match ls with
  | [] => rfl
  | [_] => rfl
  | rom :: hub :: cps =>
    rw [bootLayers, List.map_cons, List.map_cons, List.map_cons, List.map_cons, List.map_map]
    rfl

theorem bootLayers_cdi (ls : List Layer) {hub : Layer} (h : (bootLayers ls)[1]? = some hub) :
    hub.cdi = Config.deriveCdi Config.deviceSecret hub.measurement ∧
      ∀ (k : Nat) cp, (bootLayers ls)[k + 2]? = some cp → cp.cdi = Config.deriveCdi hub.cdi cp.measurement := by
  match ls with
  | [] => exact absurd h.symm (Option.some_ne_none _)
  | [_] => exact absurd h.symm (Option.some_ne_none _)
  | rom :: hub0 :: cps =>
    cases Option.some.inj h
    refine ⟨rfl, fun k cp hk => ?_⟩
    obtain ⟨l, -, hl⟩ := List.mem_map.mp (List.mem_of_getElem? (l := cps.map _) hk)
    rw [← hl]

variable {s : State} {f : Firmware} {l : Layer}

theorem firmwareImageLoad_eq (hl : s.layers[f.layer]? = some l) : exec (.firmwareImageLoad f) s =
    if f.layer = 0 ∨ f.signatureOk = false ∨ f.version < l.rollback ∨ f.measurable = false then .next (s.tell (.command 1))
    else .next (({ s with layers := bootLayers (s.layers.set f.layer { l with measurement := f.measurement, version := f.version }) } : State).tell
      (.command 0)) := by
  change execFirmwareImageLoad f s = _
  rw [execFirmwareImageLoad, hl]
  rfl

end Layers

section
variable {s : State} {port : Option Nat} {e : Expander} {dpa : Nat} {g : Extent}

theorem State.releasedExtent_spec (he : s.expanderAt port = some e) :
    (∃ x, (s.releasedExtent port g).expanderAt port = some x ∧ ∀ h, h ∈ x.extents ↔ h ∈ e.extents ∧ h.dpa ≠ g.dpa) ∧
    ∀ pa, s.inDpa port g.dpa g.size pa = true → Memory.get (s.releasedExtent port g).mem pa = 0 := by
  refine ⟨⟨{ e with extents := e.extents.filter fun h => h.dpa ≠ g.dpa }, ?_, fun h => ?_⟩, fun pa hpa => ?_⟩
  · exact State.expanderAt_updExpander (s := (s.dropCopies _).zeroWhere _) _ (by cases port <;> exact he)
  · rw [List.mem_filter, decide_eq_true_eq]
  · rw [State.releasedExtent, State.updExpander_frame]
    exact Memory.get_zeroed s.mem hpa

theorem State.rekeyed_spec {die slot : Nat} {k : KeySlot} {x : Expander} (key : BitVec 256) (hk : s.keySlot die slot = some k)
    (hx : s.expander? k.expander = some x) :
    let t := (s.updKey die slot fun o => o.map fun k => { k with key := key }).updExpander (some k.expander) fun e => e.rekey k.session (k.counter + 1) key
    t.keySlot die slot = some { k with key := key } ∧ t.expander? k.expander = some (x.rekey k.session (k.counter + 1) key) := by
  obtain ⟨d, hd, hs⟩ := State.exists_of_keySlot hk
  refine ⟨?_, State.expanderAt_updExpander (s := s.updKey die slot _) (port := some k.expander) _ hx⟩
  rw [State.keySlot_updExpander, State.keySlot_updKey _ hd, hs]
  rfl

theorem keyUpdate_eq {die slot : Nat} {k : KeySlot} (key : BitVec 256) (hk : s.keySlot die slot = some k) :
    exec (.keyUpdate (some die) slot key) s =
      .next (((s.updKey die slot fun o => o.map fun k => { k with key := key }).updExpander (some k.expander) fun e =>
        e.rekey k.session (k.counter + 1) key).tell (.command 0)) := by
  change opKeyUpdate (.slot die slot) key s = _
  rw [opKeyUpdate, hk]
  rfl

/-- What the end of the session of a key slot leaves. -/
def State.unkeyed (s : State) (die slot : Nat) (k : KeySlot) : State :=
  (s.endSessions fun d l => d = die ∧ l = k).updKey die slot fun _ => none

theorem State.unkeyed_spec {die slot : Nat} {k : KeySlot} (hk : s.keySlot die slot = some k) :
    (s.unkeyed die slot k).keySlot die slot = none ∧
      ∀ x, (s.unkeyed die slot k).expander? k.expander = some x → ∀ l ∈ x.live, l.id ≠ k.session := by
  obtain ⟨d, hd, hs⟩ := State.exists_of_keySlot hk
  constructor
  · obtain ⟨ks, hks⟩ := State.endSessions_die? (fun d l => decide (d = die ∧ l = k)) hd
    rw [State.unkeyed, State.keySlot_updKey _ hks]
    cases (ks[slot]?) <;> rfl
  · intro x hx l hl hid
    change (s.endSessions fun d l => d = die ∧ l = k).expander? k.expander = some x at hx
    cases h0 : s.expander? k.expander with
    | none =>
      have hn : (s.endSessions fun d l => d = die ∧ l = k).expander? k.expander = none := by
        rw [State.expander?] at h0 ⊢
        rw [State.endSessions]
        simp only [List.getElem?_map, List.getElem?_zipIdx, h0, Option.map_none]
      rw [hn] at hx
      exact absurd hx.symm (Option.some_ne_none _)
    | some x0 =>
      rw [State.endSessions_expander? _ h0] at hx
      rw [← Option.some.inj hx] at hl
      have hmem : some k ∈ d.keys := List.mem_of_getElem? hs
      exact of_decide_eq_true (List.mem_filter.mp hl).2 (hid ▸ State.mem_endedWith hd hmem (decide_eq_true ⟨rfl, rfl⟩))

theorem endSession_eq {die slot : Nat} {k : KeySlot} (hk : s.keySlot die slot = some k) :
    exec (.endSession (some die) slot) s = .next ((s.unkeyed die slot k).tell (.command 0)) := by
  change opEndSession (.slot die slot) s = _
  rw [opEndSession, hk]
  rfl

section Node

variable (id : Word) (tenant : Nat) (key : BitVec 256) (hp : s.product = .ks4x)
include hp

theorem nodeKeyExchange_eq (ctx p : Nat) : exec (.keyExchange (.node id) ctx p tenant id key true) s =
    .next ((s.updExpander none fun e => e.begin_ id tenant key).tell (.command 0)) := by
  change execKeyExchange (.node id) ctx p tenant id key true s = _
  rw [execKeyExchange, if_neg (by rintro (h | h); exacts [h hp, Bool.noConfusion h])]
  rfl

variable (hs : (s.expander.session? id).isSome = true)
include hs

theorem not_noSession : ¬ (s.product ≠ .ks4x ∨ (s.expander.session? id).isNone = true) := by
  rintro (h | h)
  · exact h hp
  · rw [Option.isNone_iff_eq_none] at h
    rw [h] at hs
    exact Bool.noConfusion hs

omit hp hs in
theorem keyEnd_node : keyEnd none id.toNat = .node id := by
  rw [keyEnd, BitVec.ofNat_toNat, BitVec.setWidth_eq]

theorem nodeKeyUpdate_eq : exec (.keyUpdate none id.toNat key) s =
    .next ((s.updExpander none fun e => e.rekey id (e.nextCounter id) key).tell (.command 0)) := by
  change opKeyUpdate (keyEnd none id.toNat) key s = _
  rw [keyEnd_node id, opKeyUpdate, if_neg (not_noSession id hp hs)]
  rfl

theorem nodeEndSession_eq : exec (.endSession none id.toNat) s = .next ((s.updExpander none fun e => e.without id).tell (.command 0)) := by
  change opEndSession (keyEnd none id.toNat) s = _
  rw [keyEnd_node id, opEndSession, if_neg (not_noSession id hp hs)]
  rfl

end Node

/-- An expander with a task's image, which replaces the one of its name. -/
def Expander.register (x : Expander) (m : TaskImage) : Expander :=
  { x with images := m :: x.images.filter fun o => ¬ (o.tenant = m.tenant ∧ o.hash = m.hash) }

theorem taskImageRegistration_eq (tenant : Nat) (hash : DWord) (ctx kent text args part : Nat) (he : s.expanderAt port = some e) :
    exec (.taskImageRegistration ⟨port, tenant⟩ hash ctx kent text args part) s =
      .next ((s.updExpander port fun x => x.register
        { tenant := tenant, hash := hash, ctx := ctx, kent := kent, text := text, args := args, part := part }).tell (.command 0)) := by
  change opTaskImageRegistration port tenant hash ctx kent text args part s = _
  rw [opTaskImageRegistration, he]
  rfl

end

/-- Settles O46: each command's effect, its conditions being those that the command tests. -/
theorem capacitySessionsAndAttestation : Obligations.CapacitySessionsAndAttestation := by
  intro s
  refine ⟨fun port e tenant host dpa blocks he h0 ha hb hr hd hx => ?_, fun port e dpa g he hg => ⟨fun hh ht => ?_, fun hh => ?_⟩,
    fun die slot ctx p tenant session key d old c x hd hup ho hslot hp hgone hc hk hx => ?_, fun die slot key k x hk hx => ?_,
    fun die slot k hk => ?_, fun id ctx p tenant session key hp => ⟨?_, fun hs => ⟨?_, ?_⟩⟩, fun r => ⟨_, rfl⟩,
    fun f l hl h0 hsig hm hv => ?_, fun f l hl hc => ?_, fun port e tenant hash ctx kent text args part he => ?_⟩
  · have hf := State.updExpander_frame (s.zeroWhere (s.inDpa port dpa (blocks * 2 ^ 28))) port fun x =>
      { x with extents := x.extents ++ [Extent.added tenant host dpa blocks] }
    refine ⟨_, dcAddExtent_eq tenant host he h0 ha hb hr hd hx, ?_, ?_, fun pa hpa => ?_⟩
    · rw [hf]; rfl
    · exact State.expanderAt_updExpander (s := s.zeroWhere _) _ (by cases port <;> exact he)
    · rw [hf]
      exact Memory.get_zeroed s.mem hpa
  · have hd : g.dpa = dpa := of_decide_eq_true (List.find?_some (p := fun h : Extent => decide (h.dpa = dpa)) hg)
    subst hd
    obtain ⟨hx, hm⟩ := State.releasedExtent_spec (g := g) he
    refine ⟨(s.releasedExtent port g).tell (.command 0), ?_, hx, List.mem_append_right _ (List.mem_singleton.mpr rfl), hm⟩
    rw [dcReleaseExtent_eq he hg, if_neg (not_not.mpr hh), if_neg fun h => Bool.noConfusion ((ht h.1).symm.trans h.2)]
  · obtain ⟨hf, -, hn⟩ := State.sendAll_spec (s.heldIn port g) s
    exact ⟨_, by rw [dcReleaseExtent_eq he hg, if_pos hh], hf, hn⟩
  · obtain ⟨hks, live, hl⟩ := State.keyed_spec (ctx := ctx) tenant session key hd ho hx
    exact ⟨_, _, keyExchange_eq tenant session key hd hup hslot hp hgone hc hk, State.keyed_frame, hks, hl, Expander.session?_begin _ _ _ _, Expander.accepted_begin⟩
  · obtain ⟨hks, hxs⟩ := State.rekeyed_spec key hk hx
    exact ⟨_, keyUpdate_eq key hk, rfl, hks, hxs⟩
  · obtain ⟨hks, hxs⟩ := State.unkeyed_spec hk
    exact ⟨_, endSession_eq hk, rfl, hks, hxs⟩
  · exact ⟨_, nodeKeyExchange_eq id tenant key hp ctx p, rfl, Expander.session?_begin _ _ _ _⟩
  · exact ⟨_, nodeKeyUpdate_eq id key hp hs, rfl⟩
  · exact ⟨_, nodeEndSession_eq id hp hs, rfl, Expander.session?_without _ _⟩
  · refine ⟨_, (firmwareImageLoad_eq hl).trans (if_neg ?_), rfl, map_bootLayers _, fun hub hh => bootLayers_cdi _ hh⟩
    rintro (h | h | h | h)
    · exact h0 h
    · rw [hsig] at h; exact Bool.noConfusion h
    · exact absurd hv (Nat.not_le.mpr h)
    · rw [hm] at h; exact Bool.noConfusion h
  · exact (firmwareImageLoad_eq hl).trans (if_pos (.inr hc))
  · refine ⟨_, _, taskImageRegistration_eq tenant hash ctx kent text args part he, ?_, State.expanderAt_updExpander _ he, ?_⟩
    · rw [State.updExpander_frame]; rfl
    · exact List.find?_cons_of_pos (decide_eq_true ⟨rfl, rfl⟩)

end Sys2Proof.Machine
end

section
/-!
SUPPORT. Laps, tenants and partitions (R30, R327, R328, R331, R332, R338).
-/

namespace Sys2Proof.Machine

/-! ### Meets that have been ended -/

/-- A meet has been ended with an outcome, or has completed. -/
def MeetSt.Cut (o : Outcome) (code : Byte) (st : MeetSt) : Prop := st = .terminated o code ∨ st = .completed

section
variable {s : State} {o : Outcome} {code : Byte}

/-- A termination ends the meet that it names, if that is live, and changes no other but by completing it. -/
theorem State.terminate_meet? (id : Nat) {j : Nat} {n : Meet} (hn : s.meet? j = some n) :
    ∃ p, (s.terminate id o code).meet? j = some p ∧ ((p.st = n.st ∧ (j = id → n.live = false)) ∨ p.st.Cut o code) := by
  by_cases h : ∀ m, s.meet? id = some m → m.live = false
  · rw [State.terminate_idle h]
    exact ⟨n, hn, .inl ⟨rfl, fun e => h n (e ▸ hn)⟩⟩
  push Not at h
  obtain ⟨m, hm, hl⟩ := h
  rw [State.terminate_live hm (Bool.not_eq_false _ |>.mp hl)]
  have hid : m.id = id := by simpa using List.find?_some hm
  have hs : (s.stopMeet id).meet? j = some n := by
    rw [State.stopMeet, (State.stops_foldl _ s).rest]
    exact hn
  have hcut : ∃ p, ((s.stopMeet id).cutMeet m o code).meet? j = some p ∧ ((p.st = n.st ∧ j ≠ id) ∨ p.st.Cut o code) := by
    by_cases hj : m.id = j
    · subst hj
      exact ⟨_, State.meet?_setMeet (m := { m with st := .terminated o code, fields := _ }) hs, .inr (.inl rfl)⟩
    · exact ⟨n, (State.meet?_setMeet_other (s.stopMeet id) { m with st := .terminated o code, fields := _ } hj).trans hs, .inl ⟨rfl, fun e => hj (hid.trans e.symm)⟩⟩
  obtain ⟨p, hp, hpn⟩ := hcut
  obtain ⟨q, hq, hqp⟩ := (State.ends_cut _ (trapsOf (s.teams.filter fun t => t.meet = id)) m id).meets j p hp
  refine ⟨q, hq, ?_⟩
  rcases hqp with e | e
  · rw [e]
    exact hpn.imp_left fun h => ⟨h.1, fun e => absurd e h.2⟩
  · exact .inr (.inr e)

/-- The meets of a list that are live have been ended once each has been terminated. -/
theorem State.terminates_meet? : ∀ (ms : List Meet) {s : State} {j : Nat} {n : Meet}, s.meet? j = some n →
    ∃ p, (ms.foldl (fun s m => s.terminate m.id o code) s).meet? j = some p ∧
      ((p.st = n.st ∧ (j ∈ ms.map Meet.id → n.live = false)) ∨ p.st.Cut o code)
  | [], _, _, n, hn => ⟨n, hn, .inl ⟨rfl, nofun⟩⟩
  | m :: ms, s, j, n, hn => by
    obtain ⟨p, hp, hpn⟩ := State.terminate_meet? (s := s) (o := o) (code := code) m.id hn
    obtain ⟨q, hq, hqp⟩ := State.terminates_meet? ms hp
    refine ⟨q, hq, ?_⟩
    rcases hqp with ⟨e, hl⟩ | h
    · rw [e]
      refine hpn.imp_left fun ⟨e2, hl2⟩ => ⟨e2, fun hj => (List.mem_cons.mp hj).elim hl2 fun hj => ?_⟩
      have := hl hj
      rwa [Meet.live, e2] at this
    · exact .inr h

theorem find?_of_nodup {α : Type} {key : α → Nat} {a : α} : ∀ {l : List α}, (l.map key).Nodup → a ∈ l → l.find? (fun b => key b == key a) = some a
  | b :: l, h, ha => by
    rw [List.map_cons, List.nodup_cons] at h
    rcases List.mem_cons.mp ha with rfl | ha
    · exact List.find?_cons_of_pos (beq_self_eq_true (key a))
    · rw [List.find?_cons_of_neg]
      · exact find?_of_nodup h.2 ha
      · rw [beq_iff_eq]
        exact fun e => h.1 (e ▸ List.mem_map_of_mem ha)

theorem State.meet?_of_nodup (h : (s.meets.map Meet.id).Nodup) {m : Meet} (hm : m ∈ s.meets) : s.meet? m.id = some m := find?_of_nodup h hm

/-- A live meet of a list that is terminated has been ended. -/
theorem State.terminates_cut {ms : List Meet} {m : Meet} (h : s.meet? m.id = some m) (hm : m ∈ ms) (hl : m.live = true) :
    ∃ n, (ms.foldl (fun s m => s.terminate m.id o code) s).meet? m.id = some n ∧ n.st.Cut o code := by
  obtain ⟨p, hp, hpm⟩ := State.terminates_meet? (o := o) (code := code) ms h
  refine ⟨p, hp, hpm.resolve_left fun ⟨_, hn⟩ => ?_⟩
  rw [hn (List.mem_map_of_mem hm)] at hl
  exact Bool.noConfusion hl

end

/-! ### Laps -/

section
variable {s : State}

theorem State.lends_iff (u : Tenant) : s.lends u = true ↔ u.lend = true ∧
    (∀ m ∈ s.meets, m.tenant = u.id → m.st = .deciding ∨ m.st = .completed) ∧ ∀ q ∈ s.queues, q.desc.tenant = u.id → q.head = q.tail := by
  have hm : ∀ m : Meet, m.uncompleted = true ↔ ¬ (m.st = .deciding ∨ m.st = .completed) := by
    intro m
    rw [Meet.uncompleted]
    cases m.st <;> simp
  have h : ∀ m : Meet, ¬ (decide (m.tenant = u.id) && m.uncompleted) = true ↔ (m.tenant = u.id → m.st = .deciding ∨ m.st = .completed) := by
    intro m
    rw [Bool.and_eq_true, decide_eq_true_eq, hm, not_and, not_not]
  have hq : ∀ q : Queue, ¬ decide (q.desc.tenant = u.id ∧ q.head ≠ q.tail) = true ↔ (q.desc.tenant = u.id → q.head = q.tail) := by
    intro q
    rw [decide_eq_true_eq, not_and, not_not]
  rw [State.lends, Bool.and_eq_true, Bool.and_eq_true, Bool.not_eq_true', Bool.not_eq_true', List.any_eq_false, List.any_eq_false, and_assoc,
    forall₂_congr fun m _ => h m, forall₂_congr fun q _ => hq q]

theorem State.tenant?_map {s t : State} {f : Tenant → Tenant} (h : t.tenants = s.tenants.map f) (hf : ∀ u, (f u).id = u.id) {id : Nat} {u : Tenant}
    (hu : s.tenant? id = some u) : t.tenant? id = some (f u) := by
  rw [State.tenant?, h, List.find?_map]
  have : ((fun t : Tenant => t.id == id) ∘ f) = fun t => t.id == id := funext fun v => by rw [Function.comp_apply, hf]
  rw [this]
  exact congrArg (Option.map f) hu

theorem Tenant.refill_le (u : Tenant) : u.refill.tokens ≤ u.refill.rate := Nat.min_le_right _ _

/-- A tenant after a lap boundary. -/
def State.lapped (s : State) (u : Tenant) : Tenant := if s.lends u.refill then { u.refill with tokens := 0 } else u.refill

theorem State.lapped_id (u : Tenant) : (s.lapped u).id = u.id := by
  rw [State.lapped]
  split <;> rfl

theorem State.lapped_le (u : Tenant) : (s.lapped u).tokens ≤ (s.lapped u).rate := by
  rw [State.lapped]
  split
  · exact Nat.zero_le _
  · exact u.refill_le

theorem lapBoundary_eq (h : s.nextLap ≤ s.hubClock) : exec .lapBoundary s = .next { s with
    tenants := s.tenants.map s.lapped, pool := (((s.tenants.map Tenant.refill).filter s.lends).map Tenant.tokens).sum
    lapNs := s.lapNew, nextLap := s.nextLap + s.lapNew } := by
  change execLapBoundary s = _
  rw [execLapBoundary, if_neg (Nat.not_lt.mpr h)]
  dsimp only
  rw [List.map_map]
  rfl

theorem tenantRecordSet_spec (s : State) (id rate : Nat) (pol : Policy) (lend borrow : Bool) :
    ∃ t, exec (.tenantRecordSet id rate pol lend borrow) s = .next t ∧ t = { s with tenants := t.tenants } ∧
      (∀ u, s.tenant? id = some u → t.tenant? id = some { u with rate := rate, policy := pol, lend := lend, borrow := borrow }) ∧
      (s.tenant? id = none → t.tenant? id = some
        { id := id, rate := rate, tokens := 0, debt := 0, policy := pol, lend := lend, borrow := borrow, parts := [], revoked := false }) ∧
      ∀ j, j ≠ id → t.tenant? j = s.tenant? j := by
  cases h : s.tenant? id with
  | some u =>
    have hid : u.id = id := by simpa using List.find?_some h
    refine ⟨s.setTenant { u with rate := rate, policy := pol, lend := lend, borrow := borrow }, ?_, rfl, ?_, nofun, fun j hj => ?_⟩
    · change execTenantRecordSet id rate pol lend borrow s = _
      rw [execTenantRecordSet, h]
    · rintro _ ⟨⟩
      subst hid
      exact State.tenant?_setTenant (t := { u with rate := rate, policy := pol, lend := lend, borrow := borrow }) h
    · exact s.tenant?_setTenant_other _ fun e => hj (e.symm.trans hid)
  | none =>
    refine ⟨{ s with tenants := s.tenants ++ [{ id := id, rate := rate, tokens := 0, debt := 0, policy := pol, lend := lend, borrow := borrow
                                                parts := [], revoked := false }] }, ?_, rfl, nofun, fun _ => ?_, fun j hj => ?_⟩
    · change execTenantRecordSet id rate pol lend borrow s = _
      rw [execTenantRecordSet, h]
    · rw [State.tenant?, List.find?_append, show s.tenants.find? (fun t => t.id == id) = none from h, Option.none_or]
      exact List.find?_cons_of_pos (beq_self_eq_true id)
    · rw [State.tenant?, List.find?_append, List.find?_cons_of_neg (by rw [beq_iff_eq]; exact Ne.symm hj), List.find?_nil, Option.or_none]
      rfl

/-! ### Partitions -/

/-- A live meet names a partition. -/
def State.named (s : State) (part : Nat) : Bool := s.meets.any fun m => m.live && m.parts.any fun p => (s.partPl[p]?).join = some part

theorem State.named_false {part : Nat} (h : ∀ m ∈ s.meets, m.live = true → ∀ p ∈ m.parts, (s.partPl[p]?).join ≠ some part) : s.named part = false := by
  rw [State.named, List.any_eq_false]
  intro m hm hc
  obtain ⟨hl, hp⟩ := Bool.and_eq_true_iff.mp hc
  obtain ⟨p, hp, he⟩ := List.any_eq_true.mp hp
  exact h m hm hl p hp (of_decide_eq_true he)

theorem State.named_true {part p : Nat} {m : Meet} (hm : m ∈ s.meets) (hl : m.live = true) (hp : p ∈ m.parts) (he : (s.partPl[p]?).join = some part) :
    s.named part = true :=
  List.any_eq_true.mpr ⟨m, hm, Bool.and_eq_true_iff.mpr ⟨hl, List.any_eq_true.mpr ⟨p, hp, decide_eq_true he⟩⟩⟩

theorem partitionClusters_eq (part die : Nat) (locs : List Nat) : exec (.partitionConfig part (.clusters die locs)) s =
    if s.named part = true ∨ s.dies.length ≤ die ∨ locs.any (fun l => 24 ≤ l) = true then .next (s.tell (.command cause.protection))
    else .next (s.putPart part (locs.dedup.map fun l => { die := die, loc := l }) false [die]) := rfl

theorem partitionDies_eq (part : Nat) (ds : List Nat) : exec (.partitionConfig part (.dies ds)) s =
    if s.named part = true ∨ ds.any (fun d => s.dies.length ≤ d) = true then .next (s.tell (.command cause.protection))
    else .next (s.putPart part [] true ds.dedup) := rfl

theorem State.part?_putPart (part : Nat) (locs : List ClusterRef) (whole : Bool) (ds : List Nat) :
    (s.putPart part locs whole ds).part? part = some { id := part, locs := locs, whole := whole, dies := ds, cap := none, util := 90 } :=
  List.find?_cons_of_pos (beq_self_eq_true part)

theorem State.part?_updPart {part : Nat} {p : Partition} {f : Partition → Partition} (hf : ∀ q, (f q).id = q.id) (h : s.part? part = some p) :
    (s.updPart part f).part? part = some (f p) := by
  have hid : p.id = part := by simpa using List.find?_some h
  have hc : ((fun q : Partition => q.id == part) ∘ fun q => if q.id = part then f q else q) = fun q => q.id == part := by
    funext q
    rw [Function.comp_apply]
    split
    · rw [hf]
    · rfl
  rw [State.part?, State.updPart, List.find?_map, hc, show s.parts.find? (fun q => q.id == part) = some p from h, Option.map_some, if_pos hid]

theorem partitionGrant_spec (part : Nat) {tn : Nat} {u : Tenant} (h : s.tenant? tn = some u) :
    ∃ t w, exec (.partitionConfig part (.grant tn)) s = .next t ∧ t = { s with tenants := t.tenants } ∧
      t.tenant? tn = some w ∧ w = { u with parts := w.parts } ∧ ∀ p, p ∈ w.parts ↔ p ∈ u.parts ∨ p = part := by
  have hid : u.id = tn := by simpa using List.find?_some h
  subst hid
  refine ⟨s.setTenant { u with parts := if part ∈ u.parts then u.parts else u.parts ++ [part] }, _, ?_, rfl,
    State.tenant?_setTenant (t := { u with parts := if part ∈ u.parts then u.parts else u.parts ++ [part] }) h, rfl, fun p => ?_⟩
  · change execPartitionConfig part (.grant u.id) s = _
    rw [execPartitionConfig, h]
  · dsimp only
    split
    next hp => exact ⟨.inl, fun h => h.elim id fun e => e ▸ hp⟩
    · rw [List.mem_append, List.mem_singleton]

/-! ### Revocation -/

theorem tenantRevoke_spec (hn : (s.meets.map Meet.id).Nodup) {tenant : Nat} {u : Tenant} (h : s.tenant? tenant = some u) :
    ∃ t w, exec (.tenantRevoke tenant none) s = .next t ∧ t.tenant? tenant = some w ∧ w.revoked = true ∧
      ∀ m ∈ s.meets, m.tenant = tenant → m.live = true → ∃ n, t.meet? m.id = some n ∧ (n.st = .terminated .aborted 0 ∨ n.st = .completed) := by
  have hid : u.id = tenant := by simpa using List.find?_some h
  subst hid
  have hu := State.tenant?_setTenant (t := { u with revoked := true }) h
  generalize hl : (s.meets.filter fun m => m.tenant = u.id ∧ m.live) = ms
  obtain ⟨w, hw, hr⟩ := ((s.setTenant { u with revoked := true }).closes_terminates .aborted 0 ms).tenants _ _ hu
  refine ⟨_, w, ?_, hw, hr, fun m hm ht hlv => State.terminates_cut (State.meet?_of_nodup (s := s.setTenant _) hn hm) ?_ hlv⟩
  · change execTenantRevoke u.id none s = _
    rw [execTenantRevoke]
    dsimp only
    rw [h, ← hl]
    rfl
  · rw [← hl]
    exact List.mem_filter.mpr ⟨hm, decide_eq_true ⟨ht, hlv⟩⟩

theorem State.revoked_setQueue {q : Nat} {v : Queue} (h : s.queue? q = some v) :
    ∀ w ∈ (s.setQueue { v with revoked := true }).queues, w.id = q → w.revoked = true := by
  have hid : v.id = q := by simpa using List.find?_some h
  intro w hw he
  obtain ⟨r, -, hr⟩ := List.mem_map.mp hw
  split at hr
  · rw [← hr]
  next hne => exact absurd ((congrArg Queue.id hr).trans (he.trans hid.symm)) hne

theorem queueRevoke_spec (hn : (s.meets.map Meet.id).Nodup) (tenant : Nat) {q : Nat} {v : Queue} (h : s.queue? q = some v) :
    ∃ t w, exec (.tenantRevoke tenant (some q)) s = .next t ∧ t.queue? q = some w ∧ w.revoked = true ∧
      ∀ m ∈ s.meets, m.queue = q → m.task = none → m.live = true → ∃ n, t.meet? m.id = some n ∧ (n.st = .terminated .aborted 0 ∨ n.st = .completed) := by
  have hid : v.id = q := by simpa using List.find?_some h
  generalize hl : (s.meets.filter fun m => m.queue = q ∧ m.live ∧ m.task = none) = ms
  have hc := (s.setQueue { v with revoked := true }).closes_terminates .aborted 0 ms
  have hex : exec (.tenantRevoke tenant (some q)) s =
      .next (ms.foldl (fun s m => s.terminate m.id .aborted 0) (s.setQueue { v with revoked := true })) := by
    change execTenantRevoke tenant (some q) s = _
    rw [execTenantRevoke]
    dsimp only
    rw [h, ← hl]
    rfl
  generalize ht : ms.foldl (fun s m => s.terminate m.id .aborted 0) (s.setQueue { v with revoked := true }) = t at hc hex
  have hmem : q ∈ t.queues.map Queue.id := by
    rw [hc.queueIds, State.queueIds_setQueue]
    exact List.mem_map.mpr ⟨v, List.mem_of_find?_eq_some h, hid⟩
  obtain ⟨w0, hw0, he0⟩ := List.mem_map.mp hmem
  obtain ⟨w, hw⟩ : ∃ w, t.queue? q = some w := Option.isSome_iff_exists.mp (List.find?_isSome.mpr ⟨w0, hw0, beq_iff_eq.mpr he0⟩)
  obtain ⟨p, hp, hwp⟩ := hc.queues w (List.mem_of_find?_eq_some hw)
  have hwid : w.id = q := by simpa using List.find?_some hw
  refine ⟨t, w, hex, hw, ?_, fun m hm hq hk hlv => ht ▸ State.terminates_cut (State.meet?_of_nodup (s := s.setQueue _) hn hm) ?_ hlv⟩
  · rw [hwp] at hwid ⊢
    exact State.revoked_setQueue h p hp hwid
  · rw [← hl]
    exact List.mem_filter.mpr ⟨hm, decide_eq_true ⟨hq, hlv, hk⟩⟩

end

/-- Settles O48: each command's effect, and at a boundary that of every tenant's refill. -/
theorem lapsTenantsAndPartitions : Obligations.LapsTenantsAndPartitions := by
  refine ⟨fun s => ⟨fun u => State.lends_iff u, fun h => if_pos h, fun h => ⟨_, lapBoundary_eq h, rfl, fun id u hu => ?_, fun u hu => ?_, rfl⟩,
    fun us h1 h2 => if_pos ⟨h1, h2⟩, fun us h => if_neg (by omega), fun id rate pol lend borrow => tenantRecordSet_spec s id rate pol lend borrow⟩,
    fun s part => ⟨fun hfree => ⟨fun die locs hd hl => ?_, fun ds hd => ?_⟩, fun m hm hl hp => ⟨fun die locs => ?_, fun ds => ?_⟩,
      fun p hp => ⟨fun c => ?_, fun u h1 h2 => ?_⟩, fun tn u hu => partitionGrant_spec part hu, fun hn => ⟨fun tenant u hu => tenantRevoke_spec hn hu,
        fun tenant q v hv => queueRevoke_spec hn tenant hv⟩⟩⟩
  · exact State.tenant?_map rfl (fun u => State.lapped_id u) hu
  · obtain ⟨v, -, rfl⟩ := List.mem_map.mp hu
    exact State.lapped_le v
  · refine ⟨_, _, (partitionClusters_eq part die locs).trans (if_neg ?_), rfl, State.part?_putPart _ _ _ _, rfl, rfl, rfl, fun c => ?_⟩
    · rw [State.named_false hfree]
      rintro (h | h | h)
      · exact Bool.noConfusion h
      · exact absurd hd (Nat.not_lt.mpr h)
      · obtain ⟨l, hl2, h24⟩ := List.any_eq_true.mp h
        exact absurd (hl l hl2) (Nat.not_lt.mpr (of_decide_eq_true h24))
    · rw [List.mem_map]
      constructor
      · rintro ⟨l, hl, rfl⟩
        exact ⟨rfl, List.mem_dedup.mp hl⟩
      · rintro ⟨rfl, hl⟩
        exact ⟨c.loc, List.mem_dedup.mpr hl, rfl⟩
  · refine ⟨_, _, (partitionDies_eq part ds).trans (if_neg ?_), rfl, State.part?_putPart _ _ _ _, rfl, rfl, rfl, fun d => List.mem_dedup⟩
    rw [State.named_false hfree]
    rintro (h | h)
    · exact Bool.noConfusion h
    · obtain ⟨l, hl2, h24⟩ := List.any_eq_true.mp h
      exact absurd (hd l hl2) (Nat.not_lt.mpr (of_decide_eq_true h24))
  · obtain ⟨p, hp, he⟩ := hp
    exact (partitionClusters_eq part die locs).trans (if_pos (.inl (State.named_true hm hl hp he)))
  · obtain ⟨p, hp, he⟩ := hp
    exact (partitionDies_eq part ds).trans (if_pos (.inl (State.named_true hm hl hp he)))
  · exact ⟨_, rfl, rfl, State.part?_updPart (fun _ => rfl) hp⟩
  · exact ⟨_, if_pos ⟨h1, h2⟩, rfl, State.part?_updPart (fun _ => rfl) hp⟩

end Sys2Proof.Machine
end

section
/-!
SUPPORT. Queues and admission (R321, R324, R325, R327 to R330): what the schedule cores' reads, their stores and the moves of a queue's head leave.
-/

namespace Sys2Proof.Machine

variable {s : State}

/-! ### Queues -/

theorem State.queue?_id {q : Nat} {v : Queue} (h : s.queue? q = some v) : v.id = q := by simpa using List.find?_some h

theorem State.queue?_setQueue {q v : Queue} (h : s.queue? q.id = some v) : (s.setQueue q).queue? q.id = some q :=
  find?_map_same s.queues Queue.id q v q.id h rfl

theorem State.exists_queue? {v : Queue} (h : v ∈ s.queues) : ∃ w, s.queue? v.id = some w :=
  Option.isSome_iff_exists.mp (List.find?_isSome.mpr ⟨v, h, beq_self_eq_true v.id⟩)

/-- A queue as it is described: empty. -/
def Queue.described (d : QueueDesc) (id server : Nat) : Queue :=
  { id := id, desc := d, head := 0, tail := 0, errors := 0, noted := none, cand := none, revoked := false, server := server }

theorem queueDescribe_eq {d : QueueDesc} (q : Nat) (h : s.queueOk d = true) : exec (.queueDescribe q d) s = .next (State.tell
    { s with queues := Queue.described d q (s.serverOf d.home) :: s.queues.filter (fun o => o.id ≠ q ∧ ¬ (o.desc.vf = d.vf ∧ o.desc.index = d.index)) }
    (.command 0)) := by
  change execQueueDescribe q d s = _
  rw [execQueueDescribe, if_neg (by rw [h]; nofun)]
  rfl

theorem tailRegisterStore_eq {vf idx : Nat} (v : Word) {q : Queue} (h : s.queueAt vf idx = some q) :
    exec (.tailRegisterStore vf idx v) s = .next (s.setQueue (q.putTail v)) := by
  change execTailRegisterStore vf idx v s = _
  rw [execTailRegisterStore, h]

theorem notifyPageOtherStore_eq {vf ofs width : Nat} {q : Queue} (h : s.queueAt vf (ofs / 64) = some q) (hw : ofs % 64 ≠ 0 ∨ width ≠ 4) :
    exec (.notifyPageOtherStore vf ofs width) s = .next (s.setQueue { q with errors := q.errors + 1 }) := by
  change execNotifyPageOtherStore vf ofs width s = _
  rw [execNotifyPageOtherStore, h]
  exact if_neg fun hc => hw.elim (absurd hc.1) (absurd hc.2)

/-! ### The reads of a schedule core -/

theorem exists_of_map_ok {ε α β : Type} {f : α → β} {x : Except ε α} {b : β} (h : x.map f = .ok b) : ∃ a, x = .ok a ∧ f a = b := by
  cases x with
  | error e => cases h
  | ok a => exact ⟨a, rfl, Except.ok.inj h⟩

theorem State.stirs_cpBytes {die ctx : Nat} : ∀ (k : Nat) {s t : State} {va n : Nat} {bs : List Byte}, s.cpBytes die ctx va n k = .ok (bs, t) → s.Stirs t
  | 0, s, t, va, n, bs, h => by
    cases h
    exact .refl s
  | k + 1, s, t, va, n, bs, h => by
    rw [State.cpBytes] at h
    split at h
    · cases h
      exact .refl s
    · split at h
      · cases h
      next hit _ =>
        dsimp only at h
        split at h
        · cases h
        · obtain ⟨r, hr, he⟩ := exists_of_map_ok h
          cases he
          exact (s.stirs_homeRead _ _).trans (State.stirs_cpBytes k hr)

theorem State.stirs_cpRead {t : State} {die ctx va n v : Nat} (h : s.cpRead die ctx va n = .ok (v, t)) : s.Stirs t := by
  obtain ⟨r, hr, he⟩ := exists_of_map_ok h
  cases he
  exact State.stirs_cpBytes _ hr

theorem State.stirs_readFields {die ctx a : Nat} : ∀ (n : Nat) {s t : State} {k : Nat} {fs : List Field},
    s.readFields die ctx a k n = .ok (fs, t) → s.Stirs t
  | 0, s, t, k, fs, h => by
    cases h
    exact .refl s
  | n + 1, s, t, k, fs, h => by
    rw [State.readFields] at h
    split at h
    · cases h
    next h1 =>
      split at h
      · cases h
      · split at h
        · cases h
        next h2 =>
          split at h
          · cases h
          · obtain ⟨p, hp, he⟩ := exists_of_map_ok h
            cases he
            exact ((State.stirs_cpRead h1).trans (State.stirs_cpRead h2)).trans (State.stirs_readFields n hp)

theorem State.stirs_readMeet {t : State} {die ctx a args : Nat} {fs : List Field} (h : s.readMeet die ctx a = .ok (args, fs, t)) : s.Stirs t := by
  rw [State.readMeet] at h
  split at h
  · cases h
  next h1 =>
    split at h
    · cases h
    · obtain ⟨p, hp, he⟩ := exists_of_map_ok h
      cases he
      exact (State.stirs_cpRead h1).trans (State.stirs_readFields _ hp)

theorem State.Stirs.queues {t : State} (h : s.Stirs t) : t.queues = s.queues := by rw [h.rest]

/-! ### The head of a queue moves on -/

theorem State.queue?_posts {t : State} {q : Nat} {v : Queue} (h : s.Posts t) (hv : s.queue? q = some v) (hall : ∀ p ∈ s.queues, p.id = q → p = v) :
    ∃ w, t.queue? q = some w ∧ w = { v with tail := w.tail, errors := w.errors } := by
  have hmem : q ∈ t.queues.map Queue.id := h.queueIds ▸ List.mem_map.mpr ⟨v, List.mem_of_find?_eq_some hv, State.queue?_id hv⟩
  obtain ⟨w0, hw0, rfl⟩ := List.mem_map.mp hmem
  obtain ⟨w, hw⟩ := State.exists_queue? hw0
  obtain ⟨p, hp, hwp⟩ := h.queues w (List.mem_of_find?_eq_some hw)
  have hpid : p.id = w0.id := (congrArg Queue.id hwp).symm.trans (State.queue?_id hw)
  exact ⟨w, hw, by rw [hall p hp hpid] at hwp; exact hwp⟩

theorem State.eq_of_setQueue {v : Queue} : ∀ p ∈ (s.setQueue v).queues, p.id = v.id → p = v := by
  intro p hp hid
  obtain ⟨r, -, hr⟩ := List.mem_map.mp hp
  split at hr
  · exact hr.symm
  next hne => exact absurd ((congrArg Queue.id hr).trans hid) hne

theorem State.posts_advanceHead (v : Queue) : (s.setQueue { v with head := v.head + 1, cand := none }).Posts (s.advanceHead v) := by
  rw [State.advanceHead]
  split
  · exact State.posts_cpStore _ _ _ _ _ _ _
  · split
    · exact State.posts_cpStore _ _ _ _ _ _ _
    · exact .refl _
  · exact .refl _

/-- What moves a queue's head on leaves of the package. -/
theorem State.advanceHead_spec {v : Queue} (h : s.queue? v.id = some v) :
    (s.advanceHead v).meets = s.meets ∧ ∃ w, (s.advanceHead v).queue? v.id = some w ∧ w.desc = v.desc ∧ w.head = v.head + 1 := by
  have hp := s.posts_advanceHead v
  obtain ⟨w, hw, he⟩ := State.queue?_posts hp (State.queue?_setQueue (q := { v with head := v.head + 1, cand := none }) h) State.eq_of_setQueue
  exact ⟨hp.meets, w, hw, by rw [he], by rw [he]⟩

/-! ### Admission -/

theorem State.takeTokens_frame {m : Meet} {u : State} (h : s.takeTokens m = some u) : u = { s with tenants := u.tenants, pool := u.pool } := by
  obtain ⟨t, -, ht⟩ := Option.bind_eq_some_iff.mp h
  dsimp only at ht
  split at ht
  · exact absurd ht.symm (Option.some_ne_none _)
  · split at ht
    · rw [← Option.some.inj ht]
      rfl
    · split at ht
      · rw [← Option.some.inj ht]
        rfl
      · exact absurd ht.symm (Option.some_ne_none _)

/-- A meet whose tests have passed is admitted. -/
theorem State.conclude_admits {m : Meet} {codes : List Nat} {u : State} (queue : Option Nat) (he : s.admitEarly m = none) (h3 : 3 ∉ codes) (h2 : 2 ∉ codes)
    (ht : s.takeTokens m = some u) : s.conclude m codes queue = (u.enrol { m with st := .admitted }).settleQueue queue := by
  rw [State.conclude, he, if_neg h3, if_neg h2, ht]

theorem State.meet?_enrol (m : Meet) : (s.enrol m).meet? m.id = some m := by
  have h : (s.meets.filter fun n => n.id ≠ m.id).find? (fun n => n.id == m.id) = none := by
    rw [List.find?_eq_none]
    intro n hn he
    exact of_decide_eq_true (List.mem_filter.mp hn).2 (beq_iff_eq.mp he)
  rw [State.meet?, State.enrol, List.find?_append, h, Option.none_or]
  exact List.find?_cons_of_pos (beq_self_eq_true m.id)

/-- An admitted meet stands among the meets, and its entry leaves the queue. -/
theorem State.enrol_spec {q : Nat} {v : Queue} (m : Meet) (h : s.queue? q = some v) :
    ∃ w, ((s.enrol m).settleQueue (some q)).queue? q = some w ∧ w.desc = v.desc ∧ w.head = v.head + 1 ∧
      ((s.enrol m).settleQueue (some q)).meet? m.id = some m := by
  have hs : (s.enrol m).settleQueue (some q) = (s.enrol m).advanceHead v := by
    rw [State.settleQueue, Option.bind_some, show (s.enrol m).queue? q = some v from h]
  have hid := State.queue?_id h
  subst hid
  obtain ⟨hm, w, hw, hd, hh⟩ := State.advanceHead_spec (s := s.enrol m) h
  rw [hs]
  exact ⟨w, hw, hd, hh, by rw [State.meet?, hm]; exact s.meet?_enrol m⟩

theorem State.setMeet_self {m : Meet} (h : ∀ n ∈ s.meets, n.id = m.id → n = m) : s.setMeet m = s := by
  have hm : s.meets.map (fun n => if n.id = m.id then m else n) = s.meets := by
    conv_rhs => rw [← List.map_id s.meets]
    refine List.map_congr_left fun n hn => ?_
    split
    next he => exact (h n hn he).symm
    · rfl
  rw [State.setMeet, hm]

/-- A meet without its reservations. -/
def Meet.unreserved (m : Meet) : Meet := { m with dls := m.dls.filter (fun k => k.keeper = m.home), rhos := [] }

theorem State.beginRound_eq (m : Meet) (q : Queue) : s.beginRound m q =
    if ((s.setMeet m.unreserved).keepersOf m.unreserved).all (fun k => k = m.home) then
      (s.setMeet m.unreserved).conclude m.unreserved (((s.setMeet m.unreserved).homeAnswer m.unreserved).map Prod.snd) (some q.id)
    else (s.setMeet m.unreserved).setQueue { q with cand := some { meet := m.id, asked := [], answered := (s.setMeet m.unreserved).homeAnswer m.unreserved } } :=
  rfl

theorem State.homeAnswer_home (m : Meet) : ∀ p ∈ s.homeAnswer m, p.1 = m.home ∧ p.2 = s.keeperTest m m.home (s.timeLeft m m.home) := by
  intro p hp
  rw [State.homeAnswer] at hp
  split at hp
  · rw [List.mem_singleton.mp hp]
    exact ⟨rfl, rfl⟩
  · exact absurd hp List.not_mem_nil

theorem State.newMeet_unreserved (q : Queue) (v args : Nat) (fs : List Field) : (s.newMeet q v args fs).unreserved = s.newMeet q v args fs := by
  have h : (s.newMeet q v args fs).dls.filter (fun k => k.keeper = (s.newMeet q v args fs).home) = (s.newMeet q v args fs).dls :=
    List.filter_eq_self.mpr fun k hk => by
      rw [List.mem_singleton.mp hk]
      exact decide_eq_true rfl
  rw [Meet.unreserved, h]
  rfl

/-- A state with a meet under decision. -/
def State.decides (s : State) (m : Meet) : State := { s with nextId := s.nextId + 1, meets := s.meets ++ [m] }

theorem State.decides_setMeet {m : Meet} (hid : m.id = s.nextId) (h : s.meet? s.nextId = none) : (s.decides m).setMeet m = s.decides m := by
  refine State.setMeet_self fun n hn he => ?_
  rcases List.mem_append.mp hn with hn | hn
  · exact absurd (beq_iff_eq.mpr (he.trans hid)) (List.find?_eq_none.mp h n hn)
  · exact List.mem_singleton.mp hn

/-- A decision that needs no other keeper admits the meet. -/
theorem State.beginRound_admits {q : Nat} {v : Queue} {m : Meet} {u : State} (hun : m.unreserved = m) (hset : s.setMeet m = s) (hq : s.queue? q = some v)
    (he : s.admitEarly m = none) (hk : ∀ k ∈ s.keepersOf m, k = m.home) (ht : s.keeperTest m m.home (s.timeLeft m m.home) = 0)
    (hu : s.takeTokens m = some u) :
    ∃ w, (s.beginRound m v).queue? q = some w ∧ w.desc = v.desc ∧ w.head = v.head + 1 ∧
      (s.beginRound m v).meet? m.id = some { m with st := .admitted } := by
  have hcodes : ∀ c ∈ (s.homeAnswer m).map Prod.snd, c = 0 := by
    intro c hc
    obtain ⟨p, hp, rfl⟩ := List.mem_map.mp hc
    exact (State.homeAnswer_home m p hp).2.trans ht
  have hb : s.beginRound m v = (u.enrol { m with st := .admitted }).settleQueue (some v.id) := by
    rw [State.beginRound_eq, hun, hset, if_pos (List.all_eq_true.mpr fun k hm => decide_eq_true (hk k hm))]
    exact State.conclude_admits _ he (fun h => absurd (hcodes 3 h) (by decide)) (fun h => absurd (hcodes 2 h) (by decide)) hu
  rw [hb, State.queue?_id hq]
  exact State.enrol_spec (s := u) { m with st := .admitted } (by rw [State.takeTokens_frame hu]; exact hq)

section Consume

variable {q : Nat} {v : Queue} {e : Nat} {s1 : State}

theorem exec_consumes (hq : s.queue? q = some v) {i : Instr} (hi : i = .entryConsume q ∨ i = .entryReread q) : exec i s = .next (s.consume v) := by
  rcases hi with rfl | rfl
  · change execEntryConsume q s = _
    rw [execEntryConsume, hq]
  · change execEntryReread q s = _
    rw [execEntryReread, hq]

variable (hc : v.cand = none) (hh : v.head ≠ v.tail)
  (hr : s.cpRead v.server v.desc.ctx (v.desc.base + 128 * (v.head.toNat % 2 ^ v.desc.n)) 128 = .ok (e, s1))
include hc hh hr

theorem State.consume_unpublished (hb : bytesOf e 0 4 ≠ v.head.toNat) : s.consume v = s1 := by
  rw [State.consume]
  dsimp only
  rw [if_neg (by rw [hc]; rintro (h | h); exacts [hh h, Bool.noConfusion h]), hr]
  exact if_pos hb

theorem State.consume_published {args : Nat} {fs : List Field} {s2 : State} (hb : bytesOf e 0 4 = v.head.toNat) (hok : entryOk e = true)
    (hm : s1.readMeet v.server v.desc.ctx (bytesOf e 24 8) = .ok (args, fs, s2))
    (he : (s2.decides (s2.newMeet v e args fs)).admitEarly (s2.newMeet v e args fs) = none) :
    s.consume v = (s2.decides (s2.newMeet v e args fs)).beginRound (s2.newMeet v e args fs) v := by
  unfold State.decides at he ⊢
  rw [State.consume]
  dsimp only
  rw [if_neg (by rw [hc]; rintro (h | h); exacts [hh h, Bool.noConfusion h]), hr]
  dsimp only
  rw [if_neg (not_not.mpr hb), if_pos hok, hm]
  dsimp only
  rw [he]

end Consume

/-! ### Reservations -/

theorem State.meet?_id {id : Nat} {m : Meet} (h : s.meet? id = some m) : m.id = id := by simpa using List.find?_some h

section Candidate

variable {q : Nat} {v : Queue} {c : Cand} {m : Meet}

theorem State.candidate_spec (h : s.candidate q = some (v, c, m)) : s.queue? q = some v ∧ v.id = q ∧ s.meet? m.id = some m ∧ c.meet = m.id := by
  obtain ⟨v', hv, h⟩ := Option.bind_eq_some_iff.mp h
  obtain ⟨c', hc, h⟩ := Option.bind_eq_some_iff.mp h
  obtain ⟨m', hm, h⟩ := Option.map_eq_some_iff.mp h
  cases h
  have hid := State.meet?_id hm
  exact ⟨hv, State.queue?_id hv, hid ▸ hm, hid.symm⟩

/-- A candidate of a queue and its meet as they are put back. -/
def State.reserves (s : State) (m : Meet) (v : Queue) (c : Cand) : State := (s.setMeet m).setQueue { v with cand := some c }

theorem State.reserves_spec (h : s.candidate q = some (v, c, m)) {n : Meet} (hn : n.id = m.id) (d : Cand) :
    s.reserves n v d = { s with queues := (s.reserves n v d).queues, meets := (s.reserves n v d).meets } ∧
    (s.reserves n v d).queue? q = some { v with cand := some d } ∧ (s.reserves n v d).meet? m.id = some n := by
  obtain ⟨hv, hid, hm, -⟩ := State.candidate_spec h
  subst hid
  refine ⟨rfl, State.queue?_setQueue (s := s.setMeet n) (q := { v with cand := some d }) hv, ?_⟩
  rw [← hn] at hm ⊢
  exact State.meet?_setMeet hm

theorem reservationRequest_eq {keeper : Nat} (h : s.candidate q = some (v, c, m)) (hk : keeper ∈ s.keepersOf m) (hh : keeper ≠ m.home)
    (ha : ∀ p ∈ c.answered, p.1 ≠ keeper) :
    let left : Int := (m.deadline : Int) - ((s.homeTime m : Int) - (m.t0 : Int)) - 10000 - dlMargin m.deadline
    exec (.reservationRequest q m.id keeper) s = .next (s.reserves
      { m with dls := m.dls ++ [{ keeper := keeper, on := s.serverOf keeper, dl := (s.clockOf (s.serverOf keeper) : Int) + left, commit := false }] } v
      { c with asked := (keeper, s.homeTime m) :: c.asked, answered := c.answered ++ [(keeper, s.keeperTest m keeper left)] }) := by
  obtain ⟨-, -, -, hc⟩ := State.candidate_spec h
  have hany : (c.answered.any fun p => decide (p.1 = keeper)) = false :=
    List.any_eq_false.mpr fun p hp => by rw [decide_eq_true_eq]; exact ha p hp
  change execReservationRequest q m.id keeper s = _
  rw [execReservationRequest, h]
  dsimp only
  rw [hany, if_neg]
  · rfl
  · rintro (h | h | h | h)
    · exact h hc
    · exact h hk
    · exact hh h
    · exact Bool.noConfusion h

theorem State.takeTokens_setMeet (n : Meet) (hb : n.budget = m.budget) (ht : n.tenant = m.tenant) {u : State} (h : s.takeTokens m = some u) :
    (s.setMeet n).takeTokens n = some { u with meets := (s.setMeet n).meets } := by
  rw [State.takeTokens] at h ⊢
  rw [hb, ht]
  change (s.tenant? m.tenant).bind _ = _
  obtain ⟨t, hts, h⟩ := Option.bind_eq_some_iff.mp h
  rw [hts, Option.bind_some]
  dsimp only at h ⊢
  split
  next h0 =>
    rw [if_pos h0] at h
    exact absurd h.symm (Option.some_ne_none _)
  next h0 =>
    rw [if_neg h0] at h
    split
    next h1 =>
      rw [if_pos h1] at h
      rw [← Option.some.inj h]
      rfl
    next h1 =>
      rw [if_neg h1] at h
      split
      next h2 =>
        rw [if_pos (show _ ∧ _ ≤ s.pool ∧ _ from h2)] at h
        rw [← Option.some.inj h]
        rfl
      next h2 =>
        rw [if_neg (show ¬ (_ ∧ _ ≤ s.pool ∧ _) from h2)] at h
        exact absurd h.symm (Option.some_ne_none _)

/-- The last answer of a round in which every keeper accepts admits the meet. -/
theorem reservationAnswer_spec {keeper sent : Nat} {u : State} (h : s.candidate q = some (v, c, m)) (ha : c.asked = [(keeper, sent)])
    (ht : s.homeTime m ≤ sent + 10000) (hall : ∀ k ∈ s.keepersOf m, ∃ p ∈ c.answered, p.1 = k) (hok : ∀ p ∈ c.answered, p.2 ≠ 3 ∧ p.2 ≠ 2)
    (he : s.admitEarly m = none) (hu : s.takeTokens m = some u) :
    ∃ t w, exec (.reservationAnswer q m.id keeper) s = .next t ∧ t.queue? q = some w ∧ w.desc = v.desc ∧ w.head = v.head + 1 ∧
      t.meet? m.id = some { m with st := .admitted, rhos := m.rhos ++ [(keeper, s.homeTime m - sent)] } := by
  obtain ⟨hv, hid, hm, hc⟩ := State.candidate_spec h
  have hfind : (c.asked.find? fun p => p.1 = keeper ∧ c.meet = m.id) = some (keeper, sent) := by
    rw [ha]
    exact List.find?_cons_of_pos (decide_eq_true ⟨rfl, hc⟩)
  have hnil : (c.asked.filter fun p => p.1 ≠ keeper) = [] := by
    rw [ha, List.filter_cons_of_neg (by rw [decide_eq_true_eq]; exact not_not.mpr rfl), List.filter_nil]
  have hkeep : (s.keepersOf m).all (fun k => c.answered.any fun p => p.1 = k) = true := List.all_eq_true.mpr fun k hk => by
    obtain ⟨p, hp, hpk⟩ := hall k hk
    exact List.any_eq_true.mpr ⟨p, hp, decide_eq_true hpk⟩
  have hcode : ∀ k : Nat, k = 3 ∨ k = 2 → k ∉ c.answered.map Prod.snd := fun k hk hmem => by
    obtain ⟨p, hp, hpk⟩ := List.mem_map.mp hmem
    obtain ⟨h3, h2⟩ := hok p hp
    rcases hk with rfl | rfl
    · exact h3 hpk
    · exact h2 hpk
  have htok := State.takeTokens_setMeet { m with rhos := m.rhos ++ [(keeper, s.homeTime m - sent)] } rfl rfl hu
  have hex : exec (.reservationAnswer q m.id keeper) s = .next ((({ u with meets :=
      (s.setMeet { m with rhos := m.rhos ++ [(keeper, s.homeTime m - sent)] }).meets } : State).enrol
        { m with st := .admitted, rhos := m.rhos ++ [(keeper, s.homeTime m - sent)] }).settleQueue (some q)) := by
    change execReservationAnswer q m.id keeper s = _
    rw [execReservationAnswer, h]
    dsimp only
    rw [hfind]
    dsimp only
    rw [if_neg (by omega), hnil, if_pos ⟨rfl, hkeep⟩]
    exact congrArg Host.Outcome.next (State.conclude_admits (m := { m with rhos := m.rhos ++ [(keeper, s.homeTime m - sent)] }) _ he (hcode 3 (.inl rfl))
      (hcode 2 (.inr rfl)) htok)
  obtain ⟨w, hw, hd, hh, hmt⟩ := State.enrol_spec (s := { u with meets := _ }) { m with st := .admitted, rhos := m.rhos ++ [(keeper, s.homeTime m - sent)] }
    (show State.queue? { u with meets := (s.setMeet { m with rhos := m.rhos ++ [(keeper, s.homeTime m - sent)] }).meets } q = some v by
      rw [State.takeTokens_frame hu]; exact hv)
  exact ⟨_, w, hex, hw, hd, hh, hmt⟩

/-- A round that is repeated asks every other keeper again. -/
theorem reservationTimeout_spec (h : s.candidate q = some (v, c, m)) (hl : ∃ p ∈ c.asked, p.2 + 10000 < s.homeTime m)
    (hk : ∃ k ∈ s.keepersOf m, k ≠ m.home) :
    exec (.reservationTimeout q) s = .next (s.reserves m.unreserved v
      { meet := m.id, asked := [], answered := (s.setMeet m.unreserved).homeAnswer m.unreserved }) := by
  obtain ⟨p, hp, hlt⟩ := hl
  obtain ⟨k, hkm, hkh⟩ := hk
  have hany : (c.asked.any fun p => decide (p.2 + 10000 < s.homeTime m)) = true := List.any_eq_true.mpr ⟨p, hp, decide_eq_true hlt⟩
  have hall : ¬ ((s.setMeet m.unreserved).keepersOf m.unreserved).all (fun k => k = m.home) = true :=
    fun hc => hkh (of_decide_eq_true (List.all_eq_true.mp hc k hkm))
  change execReservationTimeout q s = _
  rw [execReservationTimeout, h]
  dsimp only
  rw [if_pos hany, State.beginRound_eq, if_neg hall]
  rfl

theorem reservationRelease_eq {keeper : Nat} (h : s.candidate q = some (v, c, m)) (hk : keeper ≠ m.home) :
    exec (.reservationRelease q keeper) s = .next (s.reserves { m with dls := m.dls.filter fun k => k.keeper ≠ keeper } v
      { c with asked := c.asked.filter (fun p => p.1 ≠ keeper), answered := c.answered.filter (fun p => p.1 ≠ keeper) }) := by
  change execReservationRelease q keeper s = _
  rw [execReservationRelease, h]
  exact if_neg hk

end Candidate

/-- A deadline as its keeper's commit sets it. -/
def Meet.commits (m : Meet) (keeper : Nat) (p : Nat × Nat) : Meet :=
  { m with dls := m.dls.map fun k => if k.keeper = keeper ∧ k.commit = false then { k with dl := k.dl + 10000 - p.2, commit := true } else k }

theorem reservationCommit_eq {meet keeper : Nat} {m : Meet} {p : Nat × Nat} (h : s.meet? meet = some m) (hl : m.live = true)
    (hp : (m.rhos.find? fun p => p.1 = keeper) = some p) :
    exec (.reservationCommit m.queue meet keeper) s = .next (s.setMeet (m.commits keeper p)) := by
  change execReservationCommit m.queue meet keeper s = _
  rw [execReservationCommit, h]
  dsimp only
  rw [hp]
  dsimp only
  rw [hl, if_neg (by rintro (h | h); exacts [Bool.noConfusion h, h rfl])]
  rfl

/-- Settles O47: an admitted entry leaves its queue, whichever step decides it, and a reservation is put back with its candidate. -/
theorem queuesAndAdmission : Obligations.QueuesAndAdmission := by
  intro s
  refine ⟨fun q d h => ⟨_, queueDescribe_eq q h, rfl, List.find?_cons_of_pos (beq_self_eq_true q)⟩, fun vf idx v q h => ?_, fun vf ofs width q h hw => ?_,
    fun q v e s1 hq hc hh hr i hi => ⟨fun hb => ?_, fun args fs s2 u hb hok hm => fun hfree he hk ht hu => ?_⟩,
    fun q v c m keeper h hk hh ha => ?_, fun q v c m keeper sent u h ha ht hall hok he hu => reservationAnswer_spec h ha ht hall hok he hu,
    fun q v c m h hl hk => ?_, fun meet m keeper p h hl hp => ?_, fun q v c m keeper h hk => ?_⟩
  · obtain ⟨w, hw⟩ := State.exists_queue? (List.mem_of_find?_eq_some h)
    have hput : (q.putTail v).id = q.id := by rw [Queue.putTail_eq]
    refine ⟨_, tailRegisterStore_eq v h, rfl, fun hg => ?_, fun hg => ?_⟩
    · have hq : q.putTail v = { q with tail := v } := if_pos hg
      rw [hq]
      exact State.queue?_setQueue (q := { q with tail := v }) hw
    · have hq : q.putTail v = { q with errors := q.errors + 1 } := if_neg hg
      rw [hq]
      exact State.queue?_setQueue (q := { q with errors := q.errors + 1 }) hw
  · obtain ⟨_, hq⟩ := State.exists_queue? (List.mem_of_find?_eq_some h)
    exact ⟨_, notifyPageOtherStore_eq h hw, rfl, State.queue?_setQueue (q := { q with errors := q.errors + 1 }) hq⟩
  · rw [exec_consumes hq hi, State.consume_unpublished hc hh hr hb]
  · have hqs : s2.queue? q = some v := by
      rw [State.queue?, (State.stirs_readMeet hm).queues, (State.stirs_cpRead hr).queues]
      exact hq
    obtain ⟨w, hw, hd, hhd, hmt⟩ := State.beginRound_admits (s := s2.decides (s2.newMeet v e args fs)) (State.newMeet_unreserved v e args fs)
      (State.decides_setMeet rfl hfree) hqs he hk ht hu
    refine ⟨_, w, ?_, hw, hd, hhd, hmt⟩
    rw [exec_consumes hq hi, State.consume_published hc hh hr hb hok hm he]
  · obtain ⟨hf, hq, hm⟩ := State.reserves_spec h (n := { m with dls := m.dls ++ [{ keeper := keeper, on := s.serverOf keeper, dl := _, commit := false }] }) rfl _
    exact ⟨_, reservationRequest_eq h hk hh ha, hf, hq, hm⟩
  · obtain ⟨hf, hq, hm⟩ := State.reserves_spec h (n := m.unreserved) rfl
      { meet := m.id, asked := [], answered := (s.setMeet m.unreserved).homeAnswer m.unreserved }
    exact ⟨_, _, reservationTimeout_spec h hl hk, hf, hq, fun p hp => (State.homeAnswer_home _ p hp).1, hm⟩
  · have hid := State.meet?_id h
    subst hid
    exact ⟨_, reservationCommit_eq h hl hp, rfl, State.meet?_setMeet (m := m.commits keeper p) h⟩
  · obtain ⟨hf, hq, hm⟩ := State.reserves_spec h (n := { m with dls := m.dls.filter fun k => k.keeper ≠ keeper }) rfl _
    exact ⟨_, reservationRelease_eq h hk, hf, hq, hm⟩

end Sys2Proof.Machine
end

section
/-!
SUPPORT. Place, repair, window, configuration and group tables (R104, R113, R118, R119, R142, R363, R364, R377, R379, R390, R391, R404).
-/

namespace Sys2Proof.Machine

variable {s : State}

/-! ### A die, and a cluster of it, that change -/

theorem State.cluster?_of_die? {cl : ClusterRef} {d : Die} {q : Cluster} (hd : s.die? cl.die = some d) (hq : d.clusters[cl.loc]? = some q) :
    s.cluster? cl = some q := by
  rw [State.cluster?, hd]
  exact hq

theorem State.updCluster_done {cl : ClusterRef} {d : Die} {q : Cluster} (f : Cluster → Cluster) (hd : s.die? cl.die = some d)
    (hq : d.clusters[cl.loc]? = some q) :
    (s.updCluster cl f).done_ = .next (s.withDie cl.die { d with clusters := d.clusters.set cl.loc (f q) } done0) := by
  rw [State.updCluster, State.updDie_done hd, modify_eq_set_of_getElem? f hq]

/-- Two changes of one die are one. -/
theorem State.updDie_updDie (die : Nat) (f g : Die → Die) : (s.updDie die f).updDie die g = s.updDie die (g ∘ f) := by
  rw [State.updDie, State.updDie, State.updDie]
  congr 1
  exact List.modify_modify_eq f g die s.dies

/-! ### Place tables -/

theorem placeTable_refused {kind : PlaceKind} {l : Nat} {p : Place} (h : s.placeOk kind l p = false) :
    exec (.placeTableWrite kind l p) s = .next (s.tell (.command 1)) := by
  change execPlaceTableWrite kind l p s = _
  unfold execPlaceTableWrite
  exact if_pos h

section Cluster

variable {die l : Nat} {d : Die}

theorem placeCluster_none (h : s.placeOk (.cluster die) l none = true) (hd : s.die? die = some d) :
    exec (.placeTableWrite (.cluster die) l none) s = .next (s.withDie die { d with clusPl := d.clusPl.set l none } done0) := by
  change execPlaceTableWrite (.cluster die) l none s = _
  rw [execPlaceTableWrite, if_neg (by rw [h]; nofun)]
  dsimp only
  rw [if_pos (by rfl), State.updDie_done hd]

variable {p : Nat} {q : Cluster} (h : s.placeOk (.cluster die) l (some p) = true) (hd : s.die? die = some d) (hq : d.clusters[l]? = some q)
include h hd hq

theorem placeCluster_same (hu : q.unit = none ∨ q.unit = some p) : exec (.placeTableWrite (.cluster die) l (some p)) s =
    .next (s.withDie die { d with clusPl := d.clusPl.set l (some p), clusters := d.clusters.set l { q with unit := some p } } done0) := by
  have hold : ¬ (q.unit.isSome = true ∧ some p ≠ q.unit) := by
    rintro ⟨h1, h2⟩
    rcases hu with hu | hu
    · rw [hu] at h1; exact Bool.noConfusion h1
    · exact h2 hu.symm
  change execPlaceTableWrite (.cluster die) l (some p) s = _
  rw [execPlaceTableWrite, if_neg (by rw [h]; nofun)]
  dsimp only
  rw [State.cluster?_of_die? (cl := { die := die, loc := l }) hd hq, Option.bind_some, if_neg nofun, if_neg hold, State.updCluster, State.updDie_updDie,
    State.updDie_done hd, Function.comp_apply, modify_eq_set_of_getElem? _ hq]

/-- A cluster in which nothing stands, behind the entries of another. -/
def Cluster.renewed (q : Cluster) (trigs : List Word) : Cluster :=
  { Cluster.reset with trigs := trigs, bankPl := q.bankPl, chanPl := q.chanPl, trigPl := q.trigPl, rows := q.rows, unit := q.unit }

omit h hd hq in
theorem Cluster.reset_banks : ∀ b ∈ Cluster.reset.banks, b.mode = .cache ∧ b.fifo = none := fun b hb => by
  rw [List.eq_of_mem_replicate hb]
  exact ⟨rfl, rfl⟩

theorem placeCluster_other {o : Nat} (hl : l < d.clusPl.length) (hu : q.unit = some o) (hp : p ≠ o) :
    ∃ t r, exec (.placeTableWrite (.cluster die) l (some p)) s = .next t ∧ t.cluster? { die := die, loc := l } = some r ∧
      (t.die? die).bind (fun d => d.clusPl[l]?) = some (some p) ∧ r.unit = some p ∧ (∀ b ∈ r.banks, b.mode = .cache ∧ b.fifo = none) ∧
      (r.trigs = q.trigs ∨ ((∀ w ∈ r.trigs, w = 0) ∧ HostEvent.counterLoss die l ∈ t.host)) := by
  have hset : s.updDie die (fun e => { e with clusPl := e.clusPl.set l (some p) }) = { s with dies := s.dies.set die { d with clusPl := d.clusPl.set l (some p) } } :=
    State.updDie_eq hd _
  generalize hs1 : s.updDie die (fun e => { e with clusPl := e.clusPl.set l (some p) }) = s1 at hset
  have hd1 : s1.die? die = some { d with clusPl := d.clusPl.set l (some p) } := by
    rw [hset]
    exact List.getElem?_set_self (State.lt_of_die? hd)
  have hex : exec (.placeTableWrite (.cluster die) l (some p)) s =
      ((s1.newCluster { die := die, loc := l }).updCluster { die := die, loc := l } fun c => { c with unit := some p }).done_ := by
    change execPlaceTableWrite (.cluster die) l (some p) s = _
    rw [execPlaceTableWrite, if_neg (by rw [h]; nofun)]
    dsimp only
    rw [State.cluster?_of_die? (cl := { die := die, loc := l }) hd hq, Option.bind_some, if_neg nofun, hs1,
      if_pos ⟨by rw [hu]; rfl, by rw [hu]; exact fun e => hp (Option.some.inj e)⟩]
  have hd2 : ((s1.emptyCluster { die := die, loc := l }).chosen).die? die = some { d with clusPl := d.clusPl.set l (some p) } := by
    rw [← hd1]
    exact congrArg (·[die]?) (s1.stirs_emptyCluster _).dies
  have hnew : ∃ u r, s1.newCluster { die := die, loc := l } = u ∧ u.die? die = some { d with clusPl := d.clusPl.set l (some p), clusters := d.clusters.set l r } ∧
      (r = q.renewed q.trigs ∨ (r = q.renewed Cluster.reset.trigs ∧ HostEvent.counterLoss die l ∈ u.host)) := by
    rw [State.newCluster]
    dsimp only
    generalize (s1.emptyCluster { die := die, loc := l }).chosen = s2 at hd2
    by_cases hc : s1.choice = 0
    · refine ⟨_, q.renewed q.trigs, if_neg (by rw [hc]; nofun), ?_, .inl rfl⟩
      rw [State.updCluster, State.updDie_eq hd2, hc, modify_eq_set_of_getElem? _ hq]
      exact List.getElem?_set_self (State.lt_of_die? hd2)
    · refine ⟨_, q.renewed Cluster.reset.trigs, if_pos (decide_eq_true hc), ?_, .inr ⟨rfl, List.mem_append_right _ (List.mem_singleton.mpr rfl)⟩⟩
      rw [State.updCluster, State.updDie_eq hd2, decide_eq_true hc, modify_eq_set_of_getElem? _ hq]
      exact List.getElem?_set_self (State.lt_of_die? hd2)
  obtain ⟨u, r, hu2, hd3, hr⟩ := hnew
  have hlen : l < d.clusters.length := (List.getElem?_eq_some_iff.mp hq).1
  have hd4 : (u.withDie die { d with clusPl := d.clusPl.set l (some p), clusters := d.clusters.set l { r with unit := some p } } done0).die? die = _ :=
    State.die?_withDie hd3 _ _
  refine ⟨_, { r with unit := some p }, hex.trans ?_, State.cluster?_of_die? (cl := { die := die, loc := l }) hd4 (List.getElem?_set_self hlen), ?_, rfl, ?_, ?_⟩
  · rw [hu2, State.updCluster_done (cl := { die := die, loc := l }) _ hd3 (List.getElem?_set_self hlen)]
    dsimp only
    rw [List.set_set]
  · rw [hd4]
    exact List.getElem?_set_self hl
  · intro b hb
    rcases hr with rfl | ⟨rfl, -⟩
    · exact Cluster.reset_banks b hb
    · exact Cluster.reset_banks b hb
  · rcases hr with rfl | ⟨rfl, hh⟩
    · exact .inl rfl
    · exact .inr ⟨fun w hw => List.eq_of_mem_replicate hw, List.mem_append_left _ hh⟩

end Cluster

theorem placeTable_cluster {cl : ClusterRef} {l : Nat} {p : Place} {d : Die} {q : Cluster} (hd : s.die? cl.die = some d) (hq : d.clusters[cl.loc]? = some q) :
    let with_ (r : Cluster) : State := s.withDie cl.die { d with clusters := d.clusters.set cl.loc r } done0
    (s.placeOk (.bank cl) l p = true → exec (.placeTableWrite (.bank cl) l p) s = .next (with_ { q with bankPl := q.bankPl.set l p })) ∧
    (s.placeOk (.channel cl) l p = true → exec (.placeTableWrite (.channel cl) l p) s = .next (with_ { q with chanPl := q.chanPl.set l p })) ∧
    (s.placeOk (.trigger cl) l p = true → exec (.placeTableWrite (.trigger cl) l p) s = .next (with_ { q with trigPl := q.trigPl.set l p })) := by
  refine ⟨fun h => ?_, fun h => ?_, fun h => ?_⟩
  · change execPlaceTableWrite (.bank cl) l p s = _
    rw [execPlaceTableWrite, if_neg (by rw [h]; nofun)]
    exact State.updCluster_done _ hd hq
  · change execPlaceTableWrite (.channel cl) l p s = _
    rw [execPlaceTableWrite, if_neg (by rw [h]; nofun)]
    exact State.updCluster_done _ hd hq
  · change execPlaceTableWrite (.trigger cl) l p s = _
    rw [execPlaceTableWrite, if_neg (by rw [h]; nofun)]
    exact State.updCluster_done _ hd hq

/-! ### Repair tables -/

theorem spareFree_true {table : SMap Nat} {key spare : Nat} {group : Nat → Bool} (h : ∀ p ∈ table, p.1 = key ∨ p.2 ≠ spare ∨ group p.1 = false) :
    spareFree table key spare group = true := by
  refine List.all_eq_true.mpr fun p hp => ?_
  rw [Bool.or_eq_true, decide_eq_true_eq, Bool.not_eq_true', or_assoc]
  exact h p hp

section Repair

variable {die : Nat} {d : Die} (hd : s.die? die = some d) (ho : d.offline = true)
include hd ho

theorem repair_slice {i b : Nat} (hi : i < 64) (hb : b < 4) (hf : ∀ p ∈ d.slicePl, p.1 = i ∨ p.2 ≠ b) :
    exec (.repairTableWrite (.l2Slice die) i b) s = .next (s.withDie die { d with slicePl := SMap.set d.slicePl i b } done0) := by
  have hfree : spareFree d.slicePl i b (fun _ => true) = true := spareFree_true fun p hp => (hf p hp).imp_right .inl
  change execRepairTableWrite (.l2Slice die) i b s = _
  exact (if_pos ⟨by dsimp only; rw [hd]; exact ho, hi, hb, by dsimp only; rw [hd]; exact hfree⟩).trans (State.updDie_done hd _)

theorem repair_lane {k i b : Nat} (hk : s.hasLink k = true) (hi : i < 64) (hb : b < 4)
    (hf : ∀ p ∈ d.lanePl, p.1 = 64 * k + i ∨ p.2 ≠ b ∨ p.1 / 64 ≠ k) :
    exec (.repairTableWrite (.lane die k) i b) s = .next (s.withDie die { d with lanePl := SMap.set d.lanePl (64 * k + i) b } done0) := by
  have hfree : spareFree d.lanePl (64 * k + i) b (fun j => decide (j / 64 = k)) = true :=
    spareFree_true fun p hp => (hf p hp).imp_right fun h => h.imp_right fun h => decide_eq_false h
  change execRepairTableWrite (.lane die k) i b s = _
  exact (if_pos ⟨by dsimp only; rw [hd]; exact ho, hk, hi, hb, by dsimp only; rw [hd]; exact hfree⟩).trans (State.updDie_done hd _)

theorem repair_hbm {i b : Nat} (hp : s.product = .ks4n) (hi : i < 64) (hb : b = i / 32) (hf : ∀ p ∈ d.hbmPl, p.1 = i ∨ p.2 ≠ b) :
    exec (.repairTableWrite (.hbm die) i b) s = .next (s.withDie die { d with hbmPl := SMap.set d.hbmPl i b } done0) := by
  have hfree : spareFree d.hbmPl i b (fun _ => true) = true := spareFree_true fun p hp => (hf p hp).imp_right .inl
  change execRepairTableWrite (.hbm die) i b s = _
  exact (if_pos ⟨by dsimp only; rw [hd]; exact ho, hp, hi, hb, by dsimp only; rw [hd]; exact hfree⟩).trans (State.updDie_done hd _)

end Repair

theorem repair_row {cl : ClusterRef} {bank i b : Nat} {d : Die} {q : Cluster} (hd : s.die? cl.die = some d) (hq : d.clusters[cl.loc]? = some q)
    (hb : s.bankQuiet cl bank = true) (hi : i < 256) (h8 : b < 8) (hf : ∀ p ∈ q.rows, p.1 = 256 * bank + i ∨ p.2 ≠ b ∨ p.1 / 256 ≠ bank) :
    exec (.repairTableWrite (.bankRow cl bank) i b) s =
      .next (s.withDie cl.die { d with clusters := d.clusters.set cl.loc { q with rows := SMap.set q.rows (256 * bank + i) b } } done0) := by
  have hfree : spareFree q.rows (256 * bank + i) b (fun k => decide (k / 256 = bank)) = true :=
    spareFree_true fun p hp => (hf p hp).imp_right fun h => h.imp_right fun h => decide_eq_false h
  change execRepairTableWrite (.bankRow cl bank) i b s = _
  exact (if_pos ⟨hb, hi, h8, by rw [State.cluster?_of_die? hd hq]; exact hfree⟩).trans (State.updCluster_done _ hd hq)

/-! ### Windows and configuration registers -/

theorem windowRegisterWrite_eq {die i base size : Nat} {tgt : PortTarget} {d : Die} (hd : s.die? die = some d) (hi : i < 16) (hb : base % 2 ^ 28 = 0)
    (hz : size % 2 ^ 28 = 0) (hp : s.hasPort tgt = true) : exec (.windowRegisterWrite die i base size tgt) s = .next (s.withDie die
      { d with windows := d.windows.set i (some { base := base, size := size, target := tgt, stale := decide (tgt ∈ s.gone) }) } done0) := by
  change execWindowRegisterWrite die i base size tgt s = _
  rw [execWindowRegisterWrite, if_neg]
  · exact State.updDie_done hd _
  · rintro (h | h | h | h | h)
    · exact absurd (State.lt_of_die? hd) (Nat.not_lt.mpr h)
    · exact absurd hi (Nat.not_lt.mpr h)
    · exact h hb
    · exact h hz
    · rw [hp] at h; exact Bool.noConfusion h

theorem wayPartition_eq {die : Nat} {masks : List (BitVec 16)} {d : Die} (hd : s.die? die = some d) (hm : masks.length = 8) :
    exec (.configRegisterWrite (.wayPartition die masks)) s = .next (s.withDie die { d with waypart := masks } done0) := by
  change execConfigRegisterWrite (.wayPartition die masks) s = _
  exact (if_pos ⟨State.lt_of_die? hd, hm⟩).trans (State.updDie_done hd _)

theorem contextWrite_eq {ctx : Nat} (pasid vf root : Nat) (r2 : Option Nat) (driver : Nat) (h : s.ctx? ctx = none) :
    exec (.configRegisterWrite (.context ctx pasid vf root r2 driver)) s =
      .next { s with ctxs := s.ctxs ++ [newContext ctx pasid vf driver root r2], host := s.host ++ done0 } := by
  change execConfigRegisterWrite (.context ctx pasid vf root r2 driver) s = _
  rw [execConfigRegisterWrite, h]
  rfl

theorem State.ctx?_setCtx {c d : Context} (h : s.ctx? d.id = some c) : (s.setCtx d).ctx? d.id = some d :=
  find?_map_same s.ctxs Context.id d c d.id h rfl

/-- A context that is bound to a context of a peer device. -/
def Context.bindPeer (c : Context) (device peer : Nat) : Context := { c with peers := (device, peer) :: c.peers.filter fun p => p.1 ≠ device }

theorem peerBinding_spec {ctx device : Nat} {c : Context} (peer : Nat) (h : s.ctx? ctx = some c) (hp : s.product = .ks4n) (hd : device < 1024) :
    ∃ t, exec (.configRegisterWrite (.peerBinding ctx device peer)) s = .next t ∧ t = { s with ctxs := t.ctxs, host := s.host ++ done0 } ∧
      ∃ v, t.ctx? ctx = some v ∧ v = { c with peers := v.peers } ∧ v.peers.find? (fun p => p.1 = device) = some (device, peer) := by
  have hid := (State.ctx?_mem h).2
  subst hid
  refine ⟨(s.setCtx (c.bindPeer device peer)).tell (.command 0), ?_, rfl, c.bindPeer device peer, State.ctx?_setCtx (d := c.bindPeer device peer) h, rfl,
    List.find?_cons_of_pos (decide_eq_true rfl)⟩
  change execConfigRegisterWrite (.peerBinding c.id device peer) s = _
  rw [execConfigRegisterWrite, h]
  exact if_pos (decide_eq_true ⟨hp, hd⟩)

theorem striped_spec {size : Nat} (ha : size % (2 ^ 30 * s.dies.length) = 0) (hb : size ≤ s.dies.length * s.product.dieBytes) :
    ∃ t, exec (.configRegisterWrite (.striped size)) s = .next t ∧ t = { s with stripe := size, mem := t.mem, poison := t.poison, host := s.host ++ done0 } ∧
      ∀ a, (t.homeOf a).isSome = true → Memory.get t.mem a = Memory.get s.mem a := by
  refine ⟨(s.setStripe size).tell (.command 0), ?_, rfl, fun a h => ?_⟩
  · change execConfigRegisterWrite (.striped size) s = _
    exact if_pos (decide_eq_true ⟨ha, hb⟩)
  · refine (Memory.get_filter (fun a => decide (2 ^ 52 ≤ a) || (State.homeOf { s with stripe := size } a).isSome) s.mem a).trans (if_pos ?_)
    rw [Bool.or_eq_true]
    exact .inr h

section Range

variable {port : Option Nat} {e : Expander} {i base size : Nat} {r : Option (Nat × Nat)} (he : s.expanderAt port = some e) (hi : i < 8)
  (hr : blockRange base size = some r)
include he hi hr

theorem dcRegion_spec : ∃ t, exec (.configRegisterWrite (.dcRegion port i base size)) s = .next t ∧
    t.expanderAt port = some { e with regions := e.regions.set i r } ∧ t = { s with expander := t.expander, beyond := t.beyond, host := s.host ++ done0 } := by
  refine ⟨(s.updExpander port fun e => { e with regions := e.regions.set i r }).tell (.command 0), ?_, State.expanderAt_updExpander _ he, ?_⟩
  · change execConfigRegisterWrite (.dcRegion port i base size) s = _
    rw [execConfigRegisterWrite, he, hr]
    exact if_pos hi
  · rw [State.updExpander_frame]
    rfl

theorem decoder_spec : ∃ t, exec (.configRegisterWrite (.decoder port i base size)) s = .next t ∧
    t.expanderAt port = some { e with decoders := e.decoders.set i r } ∧ t = { s with expander := t.expander, beyond := t.beyond, host := s.host ++ done0 } := by
  refine ⟨(s.updExpander port fun e => { e with decoders := e.decoders.set i r }).tell (.command 0), ?_, State.expanderAt_updExpander _ he, ?_⟩
  · change execConfigRegisterWrite (.decoder port i base size) s = _
    rw [execConfigRegisterWrite, he, hr]
    exact if_pos hi
  · rw [State.updExpander_frame]
    rfl

end Range

theorem triggerCounter_eq {cl : ClusterRef} {trig k : Nat} (v : Word) (ht : trig < 64) (hk : s.trigOf cl (BitVec.ofNat 8 trig) = some k) :
    exec (.configRegisterWrite (.triggerCounter cl trig v)) s = .next ((s.raiseTrig cl k v).tell (.command 0)) := by
  change execConfigRegisterWrite (.triggerCounter cl trig v) s = _
  rw [execConfigRegisterWrite, hk]
  exact if_pos ht

theorem State.transition_recorded (ch : ClassChg) : (s.transition ch).recorded (4096 * ch.page) = ch.new := by
  rw [State.recorded, State.transition]
  dsimp only
  rw [Nat.mul_div_cancel_left _ (by decide), SMap.get?_set, if_pos rfl]
  rfl

theorem recordedClass_spec {tenant page : Nat} {cls : PageClass} (hp : s.holdsPage tenant page = true) (hc : ∀ c ∈ s.changes, c.page ≠ page)
    (hq : ∀ p ∈ s.posted, p.inPage page = false) (hw : s.changeWaits page = false)
    (hl : s.clear none (s.recorded (4096 * page)) (s.changeLines page cls) = true) :
    ∃ t, exec (.configRegisterWrite (.recordedClass tenant page cls)) s = .next t ∧ t.recorded (4096 * page) = cls := by
  refine ⟨(s.transition { page := page, old := s.recorded (4096 * page), new := cls }).tell (.command 0), ?_,
    s.transition_recorded { page := page, old := s.recorded (4096 * page), new := cls }⟩
  have hbusy : ¬ (s.changes.any (fun c => c.page = page) = true ∨ s.posted.any (Posted.inPage page) = true ∨ s.changeWaits page = true) := by
    rintro (h | h | h)
    · obtain ⟨c, hm, he⟩ := List.any_eq_true.mp h
      exact hc c hm (of_decide_eq_true he)
    · obtain ⟨p, hm, he⟩ := List.any_eq_true.mp h
      rw [hq p hm] at he
      exact Bool.noConfusion he
    · rw [hw] at h
      exact Bool.noConfusion h
  change execConfigRegisterWrite (.recordedClass tenant page cls) s = _
  rw [execConfigRegisterWrite, if_pos hp, State.setClass]
  rw [if_neg hbusy, hl, if_neg nofun]
  rfl

/-! ### Groups -/

theorem groupTableWrite_spec {ctx g : Nat} {e : GroupEntry} {c : Context} (hc : s.ctx? ctx = some c) (hp : s.product = .ks4n) (hg : g < 256)
    (he : groupOk e = true) (hd : ∃ d ∈ s.dies, d.coreUp 6 = true) (hx : ∀ t ∈ s.teams, t.ctx = ctx → t.xfers = []) :
    ∃ t, exec (.groupTableWrite ctx g (some e)) s = .next t ∧ t = { s with ctxs := t.ctxs, host := s.host ++ done0 } ∧
      t.group? ctx g = some { entry := e, last := [], open_ := [] } := by
  have hid := (State.ctx?_mem hc).2
  subst hid
  have hup : ¬ (s.dies.all fun d => !d.coreUp 6) = true := by
    obtain ⟨d, hm, hup⟩ := hd
    intro h
    have := List.all_eq_true.mp h d hm
    rw [hup] at this
    exact Bool.noConfusion this
  refine ⟨(s.setCtx { c with groups := SMap.set c.groups g { entry := e, last := [], open_ := [] } }).tell (.command 0), ?_, rfl, ?_⟩
  · change execGroupTableWrite c.id g (some e) s = _
    unfold execGroupTableWrite
    rw [hc]
    dsimp only
    rw [if_neg hup, if_neg]
    rintro (h | h | h | h)
    · obtain ⟨t, ht, hb⟩ := List.any_eq_true.mp h
      obtain ⟨hctx, hany⟩ := of_decide_eq_true hb
      rw [hx t ht hctx] at hany
      exact Bool.noConfusion hany
    · exact absurd hg (Nat.not_lt.mpr h)
    · rw [Option.map_some, Option.getD_some, he] at h
      exact Bool.noConfusion h
    · rw [hp] at h
      exact Product.noConfusion h
  · have hset : ((s.setCtx { c with groups := SMap.set c.groups g { entry := e, last := [], open_ := [] } }).tell (.command 0)).ctx? c.id = _ :=
      State.ctx?_setCtx (d := { c with groups := SMap.set c.groups g { entry := e, last := [], open_ := [] } }) hc
    rw [State.group?, hset, Option.bind_some, SMap.get?_set, if_pos rfl]

/-- Settles O45: each table and register as its command writes it. -/
theorem tablesAndWindowsAreWritten : Obligations.TablesAndWindowsAreWritten := by
  refine ⟨fun s => ⟨fun kind l p h => placeTable_refused h, fun l p h => ?_, fun cl l p d q hd hq => placeTable_cluster hd hq,
    fun die l d h hd => placeCluster_none h hd, fun die l p d q h hd hq hu => placeCluster_same h hd hq hu,
    fun die l p o d q h hd hl hq hu hp => placeCluster_other h hd hq hl hu hp,
    fun die d hd ho => ⟨fun i b hi hb hf => repair_slice hd ho hi hb hf, fun k i b hk hi hb hf => repair_lane hd ho hk hi hb hf,
      fun i b hp hi hb hf => repair_hbm hd ho hp hi hb hf⟩, fun cl bank i b d q hd hq hb hi h8 hf => repair_row hd hq hb hi h8 hf⟩,
    fun s => ⟨fun die i base size tgt d hd hi hb hz hp => windowRegisterWrite_eq hd hi hb hz hp, fun die masks d hd hm => wayPartition_eq hd hm,
      fun ctx pasid vf root r2 driver h => contextWrite_eq pasid vf root r2 driver h, fun ctx device peer c h hp hd => peerBinding_spec peer h hp hd,
      fun tag ctx => rfl, fun size ha hb => striped_spec ha hb, fun port e i base size r he hi hr => ⟨dcRegion_spec he hi hr, decoder_spec he hi hr⟩,
      fun cl trig k v ht hk => triggerCounter_eq v ht hk, fun tenant page cls hp hc hq hw hl => recordedClass_spec hp hc hq hw hl,
      fun ctx g e c hc hp hg he hd hx => groupTableWrite_spec hc hp hg he hd hx⟩⟩
  change execPlaceTableWrite .partition l p s = _
  rw [execPlaceTableWrite, if_neg (by rw [h]; nofun)]
  rfl

end Sys2Proof.Machine
end

section
/-!
SUPPORT. The driver's commands on a team and on a context (R168): what a command comes to once its checks have passed.
-/

namespace Sys2Proof.Machine

variable {s : State} {driver ctx team : Nat} {cl : ClusterRef} {e : Ext} {i : Instr} {x : Site}

/-! ### Who performs a command, and its checks -/

theorem State.parses_of_up (h : ∀ d ∈ s.dies, d.coreUp 0 = true) (die : Nat) : s.parses die = true := by
  rw [State.parses]
  cases hd : s.die? die with
  | none => rfl
  | some d => exact h d (List.mem_of_getElem? hd)

/-- A driver's command on a team. -/
def DriverCommand.of (driver ctx team : Nat) (op : CommandOp) (e : Ext) : DriverCommand := { driver := driver, ctx := ctx, team := team, op := op, e := e }

theorem State.commandOn_unbound (op : CommandOp) (us : List Use) (c : Option ClusterRef) (go : State → Site → Command) (h : s.bound driver ctx = false) :
    s.commandOn (.of driver ctx team op e) i us c go = .status cause.privileged s := if_pos h

theorem State.commandOn_noTeam (op : CommandOp) (us : List Use) (c : Option ClusterRef) (go : State → Site → Command) (h : s.bound driver ctx = true)
    (hw : i.wf = true) (ht : s.team? team = none) : s.commandOn (.of driver ctx team op e) i us c go = .status cause.protection s := by
  unfold State.commandOn DriverCommand.of
  dsimp only
  rw [if_neg (by rw [h]; nofun), if_neg (by rw [hw]; nofun), ht]

/-- The end of a command's checks: the unit that reads the operands, and the state. -/
theorem State.commandOn_checked (op : CommandOp) (us : List Use) {c : Option ClusterRef} (go : State → Site → Command)
    (h : s.commandable driver ctx team cl e i x) (hcl : c = none ∨ c = some cl) : s.commandOn (.of driver ctx team op e) i us c go =
      if us ≠ [] ∧ x.team.leader = false then
        match (s.lentFibre x).1.fieldsCheck 0 [0] us with
        | some t => .status t.cause (s.lentFibre x).2
        | none =>
          match gateOf (fun _ => true) [(0, (s.lentFibre x).1.met us false 0)] with
          | .wait => .waits
          | .trap t => .status t.cause (s.lentFibre x).2
          | .go => (go (s.lentFibre x).2 (s.lentFibre x).1).map (State.refibre x)
      else
        match x.fieldsCheck 0 [0] us with
        | some t => .status t.cause s
        | none =>
          match gateOf (fun _ => true) [(0, x.met us false 0)] with
          | .wait => .waits
          | .trap t => .status t.cause s
          | .go => go s x := by
  obtain ⟨hb, hw, hg, hs, ht, hctx, hclu, hst⟩ := h
  have hteam : ¬ (x.team.ctx ≠ ctx ∨ x.team.st = .retired ∨ c ≠ none ∧ c ≠ some x.team.cl) := by
    rintro (h | h | ⟨h1, h2⟩)
    · exact h hctx
    · exact hst h
    · rcases hcl with rfl | rfl
      · exact h1 rfl
      · exact h2 (by rw [hclu])
  unfold State.commandOn DriverCommand.of
  dsimp only
  rw [if_neg (by rw [hb]; nofun), if_neg (by rw [hw]; nofun), ht]
  dsimp only
  rw [if_neg hteam, hs]
  dsimp only
  by_cases he : us ≠ [] ∧ x.team.leader = false
  · have he2 : (us ≠ [] ∨ e.guard ≠ .always) ∧ ¬ x.team.leader = true := ⟨.inl he.1, by rw [he.2]; nofun⟩
    rw [if_pos he, if_pos he2, if_pos hg, hg]
    dsimp only
    rw [if_neg (by nofun)]
    cases (s.lentFibre x).1.fieldsCheck 0 [0] us with
    | some t => rfl
    | none =>
      dsimp only
      cases gateOf (fun _ => true) [(0, (s.lentFibre x).1.met us false 0)] with
      | wait => rfl
      | trap t => rfl
      | go => exact if_pos (hg ▸ he2)
  · have he2 : ¬ ((us ≠ [] ∨ e.guard ≠ .always) ∧ ¬ x.team.leader = true) := by
      rintro ⟨h1, h2⟩
      exact he ⟨h1.resolve_right (not_not.mpr hg), Bool.not_eq_true _ |>.mp h2⟩
    rw [if_neg he, if_neg he2, if_pos hg, hg]
    dsimp only
    rw [if_neg (by nofun)]
    cases x.fieldsCheck 0 [0] us with
    | some t => rfl
    | none =>
      dsimp only
      cases gateOf (fun _ => true) [(0, x.met us false 0)] with
      | wait => rfl
      | trap t => rfl
      | go => exact if_neg (hg ▸ he2)

/-- A command whose leader lives, or that reads nothing, and whose checks pass comes to its effect. -/
theorem State.commandOn_go (op : CommandOp) {us : List Use} {c : Option ClusterRef} (go : State → Site → Command)
    (h : s.commandable driver ctx team cl e i x) (hcl : c = none ∨ c = some cl) (hl : us = [] ∨ x.team.leader = true)
    (hf : x.fieldsCheck 0 [0] us = none) (hm : x.met us false 0 = []) : s.commandOn (.of driver ctx team op e) i us c go = go s x := by
  rw [State.commandOn_checked op us go h hcl, if_neg, hf, hm]
  · rfl
  · rintro ⟨h1, h2⟩
    rcases hl with hl | hl
    · exact h1 hl
    · rw [hl] at h2
      exact Bool.noConfusion h2

/-! ### BANKCFG -/

section Bank

theorem State.atomicsHome_dies (s : State) (cl : ClusterRef) : (s.atomicsHome cl).dies = s.dies := by
  rw [State.atomicsHome]
  generalize s.teams.filter (fun t => t.cl = cl) = ts
  induction ts generalizing s with
  | nil => rfl
  | cons t ts ih =>
    rw [List.foldl_cons, ih]
    dsimp only
    split
    · rfl
    · rw [State.dropCopies]
      dsimp only
      rw [State.updTeam_dies, (State.stirs_publish _ _).dies, (State.spreads_overtake _ _ _ _).dies]

theorem State.emptyBank_dies (s : State) (cl : ClusterRef) (b : Nat) : (s.emptyBank cl b).dies = s.dies := by
  rw [State.emptyBank]
  rw [((State.stirs_writeBackAll _ _).trans (State.stirs_dropCopies _ _)).dies]
  split
  · exact s.atomicsHome_dies cl
  · rfl

theorem State.cluster?_of_dies {s t : State} (h : t.dies = s.dies) (cl : ClusterRef) : t.cluster? cl = s.cluster? cl := by
  rw [State.cluster?, State.cluster?, State.die?, State.die?, h]

/-- A bank that a switch has changed has its new mode. -/
theorem State.updBank_mode {t : State} {b : Nat} {k j : Bank} (hd : t.dies = s.dies) (hk : (s.cluster? cl).bind (fun q => q.banks[b]?) = some k) :
    ((t.updBank cl b fun _ => j).cluster? cl).bind (fun q => q.banks[b]?) = some j := by
  obtain ⟨q, hq, hb⟩ := Option.bind_eq_some_iff.mp hk
  rw [State.updBank, State.cluster?_updCluster, if_pos rfl, State.cluster?_of_dies hd, hq, Option.map_some, Option.bind_some]
  dsimp only
  rw [List.getElem?_modify_eq, hb]
  rfl

theorem State.switchBank_mode {t : Team} {p : BitVec 8} {mode : BankMode} {u : State} (h : s.switchBank t p mode = .done u) :
    ∃ b k, s.bankOf t.cl p = some b ∧ (u.cluster? t.cl).bind (fun q => q.banks[b]?) = some k ∧ k.mode = mode := by
  rw [State.switchBank] at h
  cases hb : s.bankOf t.cl p with
  | none =>
    rw [hb] at h
    cases h
  | some b =>
    rw [hb] at h
    dsimp only at h
    cases hk : (s.cluster? t.cl).bind (fun c => c.banks[b]?) with
    | none =>
      rw [hk] at h
      cases h
    | some k =>
      rw [hk] at h
      dsimp only at h
      split at h
      · cases h
      · split at h
        next hmode =>
          cases h
          exact ⟨b, k, rfl, hk, hmode⟩
        · refine ⟨b, { mode := mode, placed := false, fifo := none }, rfl, ?_, rfl⟩
          split at h
          · split at h
            · split at h
              · cases h
              · cases h
                exact State.updBank_mode rfl hk
            · cases h
              exact State.updBank_mode rfl hk
          · cases h
            exact State.updBank_mode (s.emptyBank_dies _ _) hk
          · cases h
            refine State.updBank_mode ?_ hk
            split <;> rfl

variable (hp : s.parses cl.die = true)
include hp

theorem driverBankcfg_eq : exec (.driverBankcfg ⟨driver, ctx⟩ team cl e) s =
    .next ((s.commandOn (.of driver ctx team (.bankcfg cl) e) (.bankcfg e) [] (some cl) fun s x => s.driverBank e x).answer
      (.of driver ctx team (.bankcfg cl) e) s) := if_pos hp

theorem driverAwset_eq : exec (.driverAwset driver ctx team cl e) s =
    .next ((s.commandAwset (.of driver ctx team (.awset cl) e) cl).answer (.of driver ctx team (.awset cl) e) s) := if_pos hp

theorem driverBankcfg_resident {u : State} (h : s.commandable driver ctx team cl e (.bankcfg e) x) (hr : x.team.st = .resident)
    (hn : ∀ d ∈ s.commands, d.op = .bankcfg cl → d.e.p ≠ e.p) (hu : s.switchBank x.team e.p (bankMode e.m1.toNat) = .done u) :
    exec (.driverBankcfg ⟨driver, ctx⟩ team cl e) s = .next (u.tell (.command 0)) := by
  obtain ⟨-, -, -, -, -, -, hcl, -⟩ := id h
  have hany : ¬ (x.team.st = .saved ∨ s.commands.any (DriverCommand.forBank x.team.cl e.p) = true) := by
    rintro (hs | ha)
    · rw [hr] at hs; exact TeamSt.noConfusion hs
    · obtain ⟨d, hd, he⟩ := List.any_eq_true.mp ha
      obtain ⟨h1, h2⟩ := of_decide_eq_true he
      exact hn d hd (hcl ▸ h1) h2
  rw [driverBankcfg_eq hp, State.commandOn_go _ _ h (.inr rfl) (.inl rfl) rfl rfl, State.driverBank, if_neg hany, hu]
  rfl

theorem driverBankcfg_saved (h : s.commandable driver ctx team cl e (.bankcfg e) x) (hs : x.team.st = .saved) :
    exec (.driverBankcfg ⟨driver, ctx⟩ team cl e) s = .next { s with commands := s.commands ++ [.of driver ctx team (.bankcfg cl) e] } := by
  rw [driverBankcfg_eq hp, State.commandOn_go _ _ h (.inr rfl) (.inl rfl) rfl rfl, State.driverBank, if_pos (.inl hs)]
  rfl

end Bank

/-! ### AWSET -/

/-- The unit that stands for a leader that has ended reads registers that hold values. -/
theorem State.lentFibre_slot {r : Nat} (hr : r < 128) : ∃ w, (s.lentFibre x).1.slot 0 r = .val w := by
  have hf : ∀ f, (s.lentFibre x).1.heat.fibre? 0 = some f → ∀ v ∈ f.regs, ∃ w, v = .val w := by
    intro f hf v hv
    rw [State.lentFibre] at hf
    dsimp only [Heat.fibre?] at hf
    cases hl : x.heat.fibres with
    | nil =>
      rw [hl] at hf
      exact absurd hf.symm (Option.some_ne_none _)
    | cons g gs =>
      rw [hl, List.set_cons_zero, List.getElem?_cons_zero, Option.join_some] at hf
      rw [← Option.some.inj hf] at hv
      obtain ⟨k, -, hk⟩ := List.mem_map.mp hv
      exact ⟨_, hk.symm⟩
  rw [Site.slot]
  cases h : (s.lentFibre x).1.heat.fibre? 0 with
  | none => exact ⟨0, rfl⟩
  | some f =>
    dsimp only
    rw [if_pos hr, List.getD_eq_getElem?_getD]
    cases hv : f.regs[f.slotOf r]? with
    | none => exact ⟨0, rfl⟩
    | some v => exact hf f h v (List.mem_of_getElem? hv)

theorem State.lentFibre_met {us : List Use} (hu : ∀ u ∈ us, u.reg < 16 ∧ u.n = 1) : (s.lentFibre x).1.met us false 0 = [] := by
  rw [Site.met, if_neg nofun, List.nil_append, List.flatMap_eq_nil_iff]
  intro u hm
  obtain ⟨hr, hn⟩ := hu u (List.mem_filter.mp hm).1
  obtain ⟨w, hw⟩ := State.lentFibre_slot (s := s) (x := x) (r := u.reg) (by omega)
  rw [hn, Site.records, hw]
  rfl

theorem Site.fieldsCheck_low {y : Site} {is : List Nat} {pc : Pc} {us : List Use} (hu : ∀ u ∈ us, u.reg < 16 ∧ u.n = 1) : y.fieldsCheck pc is us = none := by
  rw [Site.fieldsCheck, List.findSome?_eq_none_iff]
  intro u hm
  rw [List.findSome?_eq_none_iff]
  intro k _
  obtain ⟨hr, hn⟩ := hu u hm
  rw [hn, Site.fieldCheck, Site.regCheck, if_pos hr]
  rfl

theorem uses_awset (e : Ext) : ∀ u ∈ readA e 1 :: readB e 1, u.n = 1 := by
  intro u hu
  rcases List.mem_cons.mp hu with rfl | hu
  · rfl
  · rw [readB] at hu
    split at hu
    · rw [List.mem_singleton.mp hu]
    · exact absurd hu List.not_mem_nil

/-- A team with the fibres of a unit's heat as they were. -/
def Site.refibred (x : Site) (t : Team) : Team :=
  match t.heat? x.u.who with
  | some h => t.setHeat x.u.who { h with fibres := x.heat.fibres }
  | none => t

theorem State.refibre_eq (t : State) (x : Site) : t.refibre x = t.updTeam x.team.id x.refibred := rfl

/-- The team's heat with its fibres as they were is the team's heat. -/
theorem State.team?_refibre {t : State} {id q j : Nat} (hx : s.site? { team := id, who := .heat q j } = some x) {b l : Nat}
    (ht : t.team? x.team.id = some { x.team with awb := b, awl := l }) :
    ∃ u, (t.refibre x).team? x.team.id = some u ∧ u = { x.team with awb := b, awl := l, heats := u.heats } ∧
      (u.heat? (.heat q j)).map Heat.fibres = some x.heat.fibres := by
  obtain ⟨hu, -, hh, -⟩ := State.site?_some hx
  have hT : Team.heat? { x.team with awb := b, awl := l } (.heat q j) = some x.heat := hh
  refine ⟨Team.setHeat { x.team with awb := b, awl := l } (.heat q j) x.heat, ?_, rfl, ?_⟩
  · have hr : x.refibred { x.team with awb := b, awl := l } = Team.setHeat { x.team with awb := b, awl := l } (.heat q j) x.heat := by
      rw [Site.refibred, hu, hT]
    rw [State.refibre_eq, ← hr]
    exact State.team?_updTeam ht (by rw [hr]; rfl)
  · rw [Team.heat?_setHeat _ _ _ _ hT rfl rfl]
    rfl

theorem State.refibre_frame (t : State) (x : Site) : t.refibre x = { t with teams := (t.refibre x).teams } := by
  rw [State.refibre, State.updTeam]
  split <;> rfl

/-- What AWSET does for the leader. -/
def State.leadAwset (e : Ext) (s : State) (x : Site) : Command :=
  if x.team.accrows < x.val 0 e.a.toNat 1 + x.srcN 0 e then .status cause.protection s
  else .status 0 (s.setTeam { x.team with awb := x.val 0 e.a.toNat 1, awl := x.srcN 0 e })

theorem State.commandAwset_eq (s : State) (driver ctx team : Nat) (cl : ClusterRef) (e : Ext) : s.commandAwset (.of driver ctx team (.awset cl) e) cl =
    s.commandOn (.of driver ctx team (.awset cl) e) (.awset e) (readA e 1 :: readB e 1) (some cl) (State.leadAwset e) := rfl

section Awset

variable (hp : s.parses cl.die = true) (h : s.commandable driver ctx team cl e (.awset e) x)
include hp h

theorem driverAwset_lives (hl : x.team.leader = true) (hf : x.fieldsCheck 0 [0] (readA e 1 :: readB e 1) = none)
    (hm : x.met (readA e 1 :: readB e 1) false 0 = []) (ha : x.val 0 e.a.toNat 1 + x.srcN 0 e ≤ x.team.accrows) :
    exec (.driverAwset driver ctx team cl e) s =
      .next ((s.setTeam { x.team with awb := x.val 0 e.a.toNat 1, awl := x.srcN 0 e }).tell (.command 0)) := by
  rw [driverAwset_eq hp, State.commandAwset_eq, State.commandOn_go _ _ h (.inr rfl) (.inr hl) hf hm, State.leadAwset, if_neg (Nat.not_lt.mpr ha)]
  rfl

theorem driverAwset_ended (hl : x.team.leader = false) (hr : ∀ u ∈ readA e 1 :: readB e 1, u.reg < 16) :
    ∃ v, exec (.driverAwset driver ctx team cl e) s = .next v ∧ v = { s with teams := v.teams, host := v.host, freeCtr := v.freeCtr } ∧
      (v.host = s.host ++ [.command cause.protection] ∨
        v.host = s.host ++ done0 ∧ ∃ b l u, b + l ≤ x.team.accrows ∧ v.team? team = some u ∧
          u = { x.team with awb := b, awl := l, heats := u.heats } ∧ (u.heat? (.heat 0 0)).map Heat.fibres = some x.heat.fibres) := by
  obtain ⟨-, -, -, hs, ht, -, -, -⟩ := id h
  have hid : x.team.id = team := by simpa using List.find?_some ht
  have hus : ∀ u ∈ readA e 1 :: readB e 1, u.reg < 16 ∧ u.n = 1 := fun u hu => ⟨hr u hu, uses_awset e u hu⟩
  have hex : s.commandAwset (.of driver ctx team (.awset cl) e) cl = Command.map (State.refibre x)
      (if x.team.accrows < (s.lentFibre x).1.val 0 e.a.toNat 1 + (s.lentFibre x).1.srcN 0 e then .status cause.protection (s.lentFibre x).2
      else .status 0 ((s.lentFibre x).2.setTeam { x.team with awb := (s.lentFibre x).1.val 0 e.a.toNat 1, awl := (s.lentFibre x).1.srcN 0 e })) := by
    refine (State.commandOn_checked (.awset cl) (readA e 1 :: readB e 1) _ h (.inr rfl)).trans ?_
    rw [if_pos ⟨List.cons_ne_nil _ _, hl⟩, Site.fieldsCheck_low hus, State.lentFibre_met hus]
    rfl
  rw [driverAwset_eq hp, hex]
  generalize (s.lentFibre x).1.val 0 e.a.toNat 1 = b
  generalize (s.lentFibre x).1.srcN 0 e = l
  split
  · refine ⟨(State.refibre x (s.lentFibre x).2).tell (.command cause.protection), rfl, ?_, .inl ?_⟩
    · rw [State.refibre_frame]; rfl
    · rw [State.refibre_frame]; rfl
  next hlt =>
    obtain ⟨u, hu, hux, huh⟩ := State.team?_refibre (b := b) (l := l) (t := (s.lentFibre x).2.setTeam { x.team with awb := b, awl := l }) hs
      (State.team?_setTeam _ { x.team with awb := b, awl := l } x.team (hid ▸ ht))
    refine ⟨(State.refibre x ((s.lentFibre x).2.setTeam { x.team with awb := b, awl := l })).tell (.command 0), rfl, ?_, .inr ⟨?_, b, l, u, ?_, ?_, hux, huh⟩⟩
    · rw [State.refibre_frame]; rfl
    · rw [State.refibre_frame]; rfl
    · omega
    · rw [← hid]; exact hu

end Awset

/-! ### SYSWR -/

section Syswr

variable {w : DWord}

theorem driverSyswr_eq (o : Option Nat) (hd : s.dies ≠ []) (hp : ∀ d ∈ s.dies, d.coreUp 0 = true) :
    exec (.driverSyswr ⟨driver, ctx⟩ o e w) s = opDriverSyswr driver ctx o e w s := by
  change execDriverSyswr ⟨driver, ctx⟩ o e w s = _
  unfold execDriverSyswr
  dsimp only
  refine if_pos ?_
  cases (o.bind s.team?).map fun t => t.cl.die with
  | some d => exact State.parses_of_up hp d
  | none =>
    obtain ⟨d, hm⟩ := List.exists_mem_of_ne_nil _ hd
    exact List.any_eq_true.mpr ⟨d, hm, hp d hm⟩

/-- What SYSWR of team state does for the leader. -/
def State.leadSyswr (e : Ext) (s : State) (x : Site) : Command :=
  if e.imm = 0 then .status 0 (s.put (x.setSeed 0 (seedOr (wd (x.val 0 e.a.toNat (sysRegs e.imm))))))
  else if x.handling [0] then .status 0 (s.put (x.updFibre 0 fun f => { f with epc := dw (x.val 0 e.a.toNat (sysRegs e.imm)) }))
  else .status cause.privileged s

theorem State.commandSyswr_eq (s : State) (driver ctx team : Nat) (e : Ext) : s.commandSyswr (.of driver ctx team .syswr e) =
    s.commandOn (.of driver ctx team .syswr e) (.syswr e) [readA e (sysRegs e.imm)] none (State.leadSyswr e) := rfl

theorem opDriverSyswr_named (hx : sysOfContext e.imm = false) : opDriverSyswr driver ctx (some team) e w s =
    .next ((s.commandSyswr (.of driver ctx team .syswr e)).answer (.of driver ctx team .syswr e) s) := by
  rw [opDriverSyswr, if_neg]
  · rfl
  · rw [hx]
    rintro (h | h)
    · exact Bool.noConfusion h
    · exact absurd h (Option.some_ne_none _)

theorem opDriverSyswr_unbound (h : s.bound driver ctx = false) :
    opDriverSyswr driver ctx (some team) e w s = .next (s.tell (.command cause.privileged)) := by
  cases hx : sysOfContext e.imm with
  | true => rw [opDriverSyswr, if_pos (.inl hx), if_pos h]
  | false =>
    rw [opDriverSyswr_named hx, State.commandSyswr_eq, State.commandOn_unbound _ _ _ _ h]
    rfl

theorem opDriverSyswr_context {c : Context} (o : Option Nat) (hc : s.ctx? ctx = some c) (hd : c.driver = driver) (hw : (Instr.syswr e).wf = true)
    (hx : sysOfContext e.imm = true) :
    opDriverSyswr driver ctx o e w s = .next ((s.setCtx (c.sysWrite e.imm.toNat w.toNat)).tell (.command 0)) := by
  have hb : s.bound driver ctx = true := by
    rw [State.bound, hc]
    exact decide_eq_true hd
  rw [opDriverSyswr, if_pos (.inl hx), if_neg (by rw [hb]; nofun), if_neg (by rw [hw]; nofun), if_pos hx, hc]

theorem opDriverSyswr_noTeam (hb : s.bound driver ctx = true) (hw : (Instr.syswr e).wf = true) (hx : sysOfContext e.imm = false) :
    opDriverSyswr driver ctx none e w s = .next (s.tell (.command cause.protection)) := by
  rw [opDriverSyswr, if_pos (.inr rfl), if_neg (by rw [hb]; nofun), if_neg (by rw [hw]; nofun), if_neg (by rw [hx]; nofun)]

theorem opDriverSyswr_team (h : s.commandable driver ctx team cl e (.syswr e) x) (hx : sysOfContext e.imm = false) (hl : x.team.leader = true)
    (hf : x.fieldsCheck 0 [0] [readA e (sysRegs e.imm)] = none) (hm : x.met [readA e (sysRegs e.imm)] false 0 = []) :
    opDriverSyswr driver ctx (some team) e w s = .next ((State.leadSyswr e s x).answer (.of driver ctx team .syswr e) s) := by
  rw [opDriverSyswr_named hx, State.commandSyswr_eq, State.commandOn_go .syswr _ h (.inl rfl) (.inr hl) hf hm]

end Syswr

/-- Settles O44: once its checks have passed, a command has its instruction's effect. -/
theorem driverCommandsAct : Obligations.DriverCommandsAct := by
  intro s driver ctx team cl e w
  refine ⟨fun hp i hi => ?_, fun hd hup => ?_⟩
  · rcases List.mem_cons.mp hi with rfl | hi
    · exact if_neg (by rw [hp]; nofun)
    · rw [List.mem_singleton.mp hi]
      exact if_neg (by rw [hp]; nofun)
  have hp := State.parses_of_up hup cl.die
  refine ⟨fun i hi hb => ?_, fun hb ht => ⟨fun hw => ?_, fun hw => ?_⟩, fun x h => ⟨fun u hr hn hu => ⟨driverBankcfg_resident hp h hr hn hu, ?_⟩,
    fun hs => driverBankcfg_saved hp h hs⟩, fun x h hl hf hm ha => ⟨_, driverAwset_lives hp h hl hf hm ha, rfl, ?_, fun id hid => ?_⟩,
    fun x h hl hr => driverAwset_ended hp h hl hr, fun x h hl hf hm => ⟨fun hi => ?_, fun hi hh => ?_⟩, fun o c hc hdr hw hx => ?_, fun hb hw hx => ?_⟩
  · rcases List.mem_cons.mp hi with rfl | hi
    · rw [driverBankcfg_eq hp, State.commandOn_unbound _ _ _ _ hb]
      rfl
    rcases List.mem_cons.mp hi with rfl | hi
    · rw [driverAwset_eq hp, State.commandAwset_eq, State.commandOn_unbound _ _ _ _ hb]
      rfl
    · rw [List.mem_singleton.mp hi, driverSyswr_eq _ hd hup, opDriverSyswr_unbound hb]
  · rw [driverBankcfg_eq hp, State.commandOn_noTeam _ _ _ _ hb hw ht]
    rfl
  · rw [driverAwset_eq hp, State.commandAwset_eq, State.commandOn_noTeam _ _ _ _ hb hw ht]
    rfl
  · obtain ⟨-, -, -, -, -, -, rfl, -⟩ := h
    exact State.switchBank_mode hu
  · obtain ⟨-, -, -, -, ht, -, -, -⟩ := h
    have hid : x.team.id = team := by simpa using List.find?_some ht
    subst hid
    exact State.team?_setTeam s { x.team with awb := x.val 0 e.a.toNat 1, awl := x.srcN 0 e } x.team ht
  · obtain ⟨-, -, -, -, ht, -, -, -⟩ := h
    have hid2 : x.team.id = team := by simpa using List.find?_some ht
    exact State.team?_setTeam_other s { x.team with awb := x.val 0 e.a.toNat 1, awl := x.srcN 0 e } id (hid2 ▸ hid)
  · rw [driverSyswr_eq _ hd hup, opDriverSyswr_team h (by rw [hi]; rfl) hl hf hm, State.leadSyswr, if_pos hi, hi]
    rfl
  · rw [driverSyswr_eq _ hd hup, opDriverSyswr_team h (by rw [hi]; rfl) hl hf hm, State.leadSyswr, if_neg (by rw [hi]; decide), if_pos hh, hi]
    rfl
  · have hid := (State.ctx?_mem hc).2
    subst hid
    refine ⟨_, (driverSyswr_eq o hd hup).trans (opDriverSyswr_context o hc hdr hw hx), rfl, ?_, fun d hne => ?_⟩
    · have hset := State.ctx?_setCtx (d := c.sysWrite e.imm.toNat w.toNat) (by rw [Context.sysWrite_id]; exact hc)
      rw [Context.sysWrite_id] at hset
      exact hset
    · exact ctx?_setCtx_other (d := c.sysWrite e.imm.toNat w.toNat) (by rw [Context.sysWrite_id]; exact hne.symm)
  · rw [driverSyswr_eq _ hd hup, opDriverSyswr_noTeam hb hw hx]

end Sys2Proof.Machine
end

section
/-!
SUPPORT. Errors of ports and homes (R375, R376, R387, R407): traps that come to teams and contexts, and what the loss of a device leaves standing.
-/

namespace Sys2Proof.Machine

/-! ### Changes of teams and contexts alone -/

/-- The package t is s but for its teams, its contexts and the count of its chunk buffers. -/
def State.Notes (s t : State) : Prop := t = { s with teams := t.teams, ctxs := t.ctxs, collBytes := t.collBytes }

namespace State.Notes

theorem refl (s : State) : s.Notes s := rfl

theorem trans {s t u : State} (h : s.Notes t) (k : t.Notes u) : s.Notes u := by
  unfold State.Notes at h k ⊢
  rw [h] at k
  exact k

theorem foldl {α : Type} {f : State → α → State} (hf : ∀ (s : State) a, s.Notes (f s a)) : ∀ (l : List α) (s : State), s.Notes (l.foldl f s)
  | [], s => refl s
  | a :: l, s => (hf s a).trans (foldl hf l (f s a))

end State.Notes

section
variable (s : State)

theorem State.notes_ctxTrap (ctx : Nat) (d : DTrap) : s.Notes (s.ctxTrap ctx d) := by
  rw [State.ctxTrap]
  split
  · exact .refl s
  · split <;> exact rfl

theorem State.ctxTrap_teams (ctx : Nat) (d : DTrap) : (s.ctxTrap ctx d).teams = s.teams := by
  rw [State.ctxTrap]
  split
  · rfl
  · split <;> rfl

theorem State.notes_defer (team : Nat) (d : DTrap) : s.Notes (s.defer team d) := by
  rw [State.defer]
  split
  · exact .refl s
  · split
    · exact rfl
    · exact s.notes_ctxTrap _ _

theorem State.notes_updTeam (id : Nat) (f : Team → Team) : s.Notes (s.updTeam id f) := by
  rw [State.updTeam]
  split
  · exact rfl
  · exact .refl s

theorem State.notes_xferError (t : Team) (x : Xfer) (c : Byte) (info : DWord) : s.Notes (s.xferError t x c info) :=
  State.Notes.trans (t := ({ s with collBytes := s.collBytes - x.buffers } : State).setTeam (t.finish x c 4)) rfl (State.notes_defer _ _ _)

theorem State.notes_memberLeft (ctx group cid member : Nat) : s.Notes (s.memberLeft ctx group cid member) := by
  rw [State.memberLeft]
  split
  · rw [State.setGroup]
    split
    · exact rfl
    · exact .refl s
  · exact .refl s

theorem State.notes_failSends (p : Nat) : s.Notes (s.failSends p) := by
  refine State.Notes.foldl (fun s q => ?_) _ s
  split
  · exact s.notes_xferError _ _ _ _
  · exact .refl s

end

/-- An expander without sessions and packets on their way to it. -/
def Expander.closed (e : Expander) : Expander := { e with arriving := [], live := [] }

/-! ### Where copies, windows and lost devices stand -/

/-- The package t has the copies, the windows and the lost devices of s. -/
structure State.Stays (s t : State) : Prop where
  lines : t.lines = s.lines
  gone : t.gone = s.gone
  windows : t.dies.map Die.windows = s.dies.map Die.windows

namespace State.Stays

theorem refl (s : State) : s.Stays s := ⟨rfl, rfl, rfl⟩

theorem trans {s t u : State} (h : s.Stays t) (k : t.Stays u) : s.Stays u :=
  ⟨k.lines.trans h.lines, k.gone.trans h.gone, k.windows.trans h.windows⟩

theorem foldl {α : Type} {f : State → α → State} (hf : ∀ (s : State) a, s.Stays (f s a)) : ∀ (l : List α) (s : State), s.Stays (l.foldl f s)
  | [], s => refl s
  | a :: l, s => (hf s a).trans (foldl hf l (f s a))

end State.Stays

theorem State.Notes.stays {s t : State} (h : s.Notes t) : s.Stays t := by
  unfold State.Notes at h
  rw [h]
  exact ⟨rfl, rfl, rfl⟩

section
variable (s : State)

theorem State.stays_homeWrite (pa : Nat) (bs : List Byte) : s.Stays (s.homeWrite pa bs) := ⟨rfl, rfl, rfl⟩

theorem State.stays_publish (bs : List (Nat × Byte)) : s.Stays (s.publish bs) := by
  induction bs generalizing s with
  | nil => exact .refl s
  | cons b bs ih => exact (s.stays_homeWrite _ _).trans (ih _)

theorem State.stays_notifyStore (vf ofs : Nat) (bs : List Byte) : s.Stays (s.notifyStore vf ofs bs) := by
  rw [State.notifyStore]
  cases s.queueAt vf (ofs / 64) with
  | none => exact .refl s
  | some q => exact ⟨rfl, rfl, rfl⟩

theorem State.stays_seqWrite (pa : Nat) (bs : List Byte) : s.Stays (s.seqWrite pa bs) := by
  rw [State.seqWrite]
  split
  · exact s.stays_notifyStore _ _ _
  · exact s.stays_homeWrite _ _

theorem State.stays_snoopFor (lines left : List Nat) : s.Stays (s.snoopFor lines left) := by
  refine State.Stays.foldl (fun s l => ?_) lines s
  have h := (State.sendSnoops_spec l ((left.filter fun k => 2000 ≤ k ∧ k < 3000 ∧ k - 2000 ∈ s.hostsOut l).map (· - 2000)) s).1
  rw [h]
  exact ⟨rfl, rfl, rfl⟩

theorem State.stays_performAt (p : Posted) : s.Stays (s.performAt p) := by
  have hb : s.Stays (match p.pack with
      | none => s.seqWrite p.pa p.bytes
      | some k => (s.homeRead k.base k.format.chunkBytes).2.publish (k.result (s.homeRead k.base k.format.chunkBytes).1)) := by
    cases p.pack with
    | none => exact s.stays_seqWrite _ _
    | some k => exact State.Stays.trans (t := (s.homeRead k.base k.format.chunkBytes).2) ⟨rfl, rfl, rfl⟩ (State.stays_publish _ _)
  unfold State.performAt
  cases hp : p.pack with
  | none =>
    rw [hp] at hb
    dsimp only at hb ⊢
    split
    · exact hb.trans ⟨rfl, rfl, rfl⟩
    · exact hb
  | some k =>
    rw [hp] at hb
    dsimp only at hb ⊢
    split
    · exact hb.trans ⟨rfl, rfl, rfl⟩
    · exact hb

theorem State.stays_performPosted (id : Nat) : s.Stays (s.performPosted id) := by
  rw [State.performPosted]
  split
  · exact .refl s
  next p _ =>
    split
    · exact .refl s
    · split
      · exact State.Stays.trans (t := { s with posted := s.posted.filter fun q => q.id ≠ id }) ⟨rfl, rfl, rfl⟩
          ((State.stays_performAt _ _).trans ⟨rfl, rfl, rfl⟩)
      · refine State.Stays.trans ?_ (State.stays_snoopFor _ _ _)
        exact ⟨rfl, rfl, rfl⟩

theorem State.stays_answered (p : Posted → Bool) (holder : Nat) : s.Stays (s.answered p holder) :=
  State.Stays.trans (t := { s with posted := s.posted.map fun q => if p q then { q with left := q.left.filter (· ≠ holder) } else q }) ⟨rfl, rfl, rfl⟩
    (.foldl (fun s id => s.stays_performPosted id) _ _)

theorem State.stays_sumsIn (line : Nat) : s.Stays (s.sumsIn line) := s.stays_answered _ _

theorem State.stays_forgetPeer (d : Nat) : s.Stays (s.forgetPeer d) := by
  rw [State.forgetPeer]
  refine State.Stays.trans ?_ (State.stays_answered _ _ _)
  have h := State.Stays.foldl (fun s l => s.stays_sumsIn l) ((s.peerU.filter fun p => p.1 = d).map Prod.snd)
    { s with peerU := s.peerU.filter fun p => p.1 ≠ d }
  exact ⟨h.lines, h.gone, h.windows⟩

theorem State.stays_collFail (team : Nat) (x : Xfer) (n : Inst) (c : Byte) (info : DWord) (news : CollMsg) : s.Stays (s.collFail team x n c info news) := by
  rw [State.collFail]
  split
  · exact ((s.notes_xferError _ _ _ _).trans (State.notes_memberLeft _ _ _ _ _)).stays.trans ⟨rfl, rfl, rfl⟩
  · exact .refl s

theorem State.stays_collLost (team : Nat) (x : Xfer) (n : Inst) (device : Nat) (info : DWord) : s.Stays (s.collLost team x n device info) := by
  have hleft : s.Notes ((n.sub.filter fun m => n.ent.members[m]? = some device).foldl (fun s m => s.collLeft n m) s) :=
    .foldl (fun s m => s.notes_memberLeft _ _ _ _) _ s
  rw [State.collLost]
  split
  · exact hleft.stays.trans (State.stays_collFail _ _ _ _ _ _ _)
  · exact (hleft.trans (State.notes_updTeam _ _ _)).stays

theorem State.stays_failColls (device : Nat) : s.Stays (s.failColls device) := by
  rw [State.failColls, State.free]
  dsimp only
  refine State.Stays.trans ?_ (.foldl (α := Nat × Xfer × Inst) (fun s q => s.stays_collLost q.1 q.2.1 q.2.2 device _) _ _)
  exact ⟨rfl, rfl, rfl⟩

theorem State.stays_endSessions (p : Nat → KeySlot → Bool) : s.Stays (s.endSessions p) := by
  refine ⟨rfl, rfl, ?_⟩
  rw [State.endSessions]
  dsimp only
  rw [List.map_map, show Die.windows ∘ (fun x : Die × Nat => ({ x.1 with keys := x.1.keys.map fun k => k.filter fun k => !p x.2 k } : Die)) =
    Die.windows ∘ Prod.fst from rfl, ← List.map_map, List.zipIdx_map_fst]

theorem State.stays_lostSessions (t : PortTarget) : s.Stays (s.lostSessions t) := by
  cases t with
  | host => exact .refl s
  | cxl p =>
    have h : s.Stays (s.updExpander (some p) Expander.closed) := ⟨rfl, rfl, rfl⟩
    change s.Stays (((s.updExpander (some p) Expander.closed).failSends p).endSessions fun _ k => k.expander = p)
    exact h.trans ((State.notes_failSends _ p).stays.trans (State.stays_endSessions _ _))
  | peer d => exact (s.stays_failColls d).trans (State.stays_forgetPeer _ d)

theorem State.mem_lostSessions (p : Nat) : (s.lostSessions (.cxl p)).mem = s.mem := by
  have h := State.notes_failSends (s.updExpander (some p) Expander.closed) p
  unfold State.Notes at h
  change ((s.updExpander (some p) Expander.closed).failSends p).mem = s.mem
  rw [h]
  rfl

end

/-! ### VIRAL (R375) -/

section Viral

variable {port : Nat} {s t u : State}

/-- A team has VIRAL of a port among its deferred traps. -/
def Team.ViralOf (port : Nat) (v : Team) : Prop := ∃ d ∈ v.dtraps, d.cause = cause.viral ∧ d.info = dw port

/-- A team has VIRAL of a port, or room for it. -/
def Team.Takes (port : Nat) (v : Team) : Prop := v.dtraps.length < 16 ∨ v.ViralOf port

/-- A team after deferred traps of a port's viral state have come to it. -/
structure Team.Told (port : Nat) (v w : Team) : Prop where
  rest : w = { v with dtraps := w.dtraps, lost := w.lost }
  takes : v.Takes port → w.Takes port
  viral : v.ViralOf port → w.ViralOf port

theorem Team.Told.refl (v : Team) : v.Told port v := ⟨rfl, fun h => h, fun h => h⟩

theorem Team.Told.trans {v w z : Team} (h : v.Told port w) (k : w.Told port z) : v.Told port z where
  rest := by
    have hk := k.rest
    rw [h.rest] at hk
    exact hk
  takes := k.takes ∘ h.takes
  viral := k.viral ∘ h.viral

/-- The package t is s after deferred traps of a port's viral state have come to its teams. -/
def State.Tells (port : Nat) (s t : State) : Prop := ∀ id v, s.team? id = some v → ∃ w, t.team? id = some w ∧ v.Told port w

theorem State.Tells.of_teams (h : t.teams = s.teams) : s.Tells port t := fun id v hv => ⟨v, by rw [State.team?, h]; exact hv, .refl v⟩

theorem State.Tells.refl (s : State) : s.Tells port s := .of_teams rfl

theorem State.Tells.trans (h : s.Tells port t) (k : t.Tells port u) : s.Tells port u := fun id v hv => by
  obtain ⟨w, hw, hvw⟩ := h id v hv
  obtain ⟨z, hz, hwz⟩ := k id w hw
  exact ⟨z, hz, hvw.trans hwz⟩

theorem State.Tells.foldl {α : Type} {f : State → α → State} (hf : ∀ (s : State) a, s.Tells port (f s a)) :
    ∀ (l : List α) (s : State), s.Tells port (l.foldl f s)
  | [], s => refl s
  | a :: l, s => (hf s a).trans (foldl hf l (f s a))

variable {d : DTrap} (hc : d.cause = cause.viral) (hi : d.info = dw port)
include hc hi

theorem Team.viralOf_defer {v : Team} (h : v.dtraps.length < 16) : (v.defer d).ViralOf port := by
  have hr : d.recorded = d := by
    rw [DTrap.recorded, hc]
    rfl
  rw [Team.defer, if_pos h]
  exact ⟨d.recorded, List.mem_append_right _ (List.mem_singleton.mpr rfl), hr.symm ▸ hc, hr.symm ▸ hi⟩

theorem Team.told_defer (v : Team) : v.Told port (v.defer d) ∧ (v.Takes port → (v.defer d).ViralOf port) := by
  by_cases h : v.dtraps.length < 16
  · have hv := Team.viralOf_defer hc hi h
    refine ⟨⟨?_, fun _ => .inr hv, fun _ => hv⟩, fun _ => hv⟩
    rw [Team.defer, if_pos h]
  · have hd : v.defer d = { v with lost := v.lost + 1 } := if_neg h
    rw [hd]
    exact ⟨⟨rfl, fun h => h, fun h => h⟩, fun ht => ht.resolve_left h⟩

theorem State.tells_defer (s : State) (id : Nat) : s.Tells port (s.defer id d) := by
  rw [State.defer]
  cases ht : s.team? id with
  | none => exact .refl s
  | some v =>
    have hid : v.id = id := by simpa using List.find?_some ht
    subst hid
    dsimp only
    split
    · intro j w hw
      have htold := (Team.told_defer hc hi v).1
      have hvid : (v.defer d).id = v.id := by rw [htold.rest]
      by_cases hj : j = v.id
      · subst hj
        cases ht.symm.trans hw
        refine ⟨v.defer d, ?_, htold⟩
        rw [← hvid]
        exact State.team?_setTeam s _ v (hvid.symm ▸ ht)
      · exact ⟨w, (State.team?_setTeam_other s _ j (hvid.symm ▸ hj)).trans hw, .refl w⟩
    · exact .of_teams (s.ctxTrap_teams v.ctx d)

/-- A team that can take traps, and has room for it, has VIRAL. -/
theorem State.viralOf_defer {id : Nat} {v : Team} (hv : s.team? id = some v) (ha : v.alive = true) (hst : v.st ≠ .retired) (hr : v.Takes port) :
    ∃ w, (s.defer id d).team? id = some w ∧ w.ViralOf port := by
  have hid : v.id = id := by simpa using List.find?_some hv
  obtain ⟨htold, hvir⟩ := Team.told_defer hc hi v
  have hvid : (v.defer d).id = id := by rw [htold.rest]; exact hid
  refine ⟨v.defer d, ?_, hvir hr⟩
  rw [State.defer, hv]
  dsimp only
  rw [if_pos ⟨ha, hst⟩, ← hvid]
  exact State.team?_setTeam s _ v (hvid.symm ▸ hv)

/-- A team that is not dead has VIRAL once it has come to a list that holds it. -/
theorem State.viralOf_defers {id : Nat} : ∀ (ts : List Team) {s : State} {v : Team}, s.team? id = some v → v.alive = true → v.st ≠ .retired → v.Takes port →
    (∃ w ∈ ts, w.id = id) → ∃ w, (ts.foldl (fun s t => s.defer t.id d) s).team? id = some w ∧ w.ViralOf port
  | [], _, _, _, _, _, _, h => absurd h (by rintro ⟨_, h, -⟩; exact List.not_mem_nil h)
  | t :: ts, s, v, hv, ha, hst, hr, h => by
    have hrest := State.Tells.foldl (port := port) (fun s (t : Team) => State.tells_defer hc hi s t.id) ts (s.defer t.id d)
    by_cases hid : t.id = id
    · obtain ⟨w, hw, hvir⟩ := State.viralOf_defer hc hi hv ha hst hr
      obtain ⟨z, hz, htold⟩ := hrest id w (hid ▸ hw)
      exact ⟨z, hz, htold.viral hvir⟩
    · obtain ⟨w, hw, htold⟩ := State.tells_defer hc hi s t.id id v hv
      refine State.viralOf_defers ts hw ?_ ?_ (htold.takes hr) ?_
      · rw [htold.rest]; exact ha
      · rw [htold.rest]; exact hst
      · obtain ⟨z, hz, he⟩ := h
        exact ⟨z, (List.mem_cons.mp hz).resolve_left (fun e => hid (e ▸ he)), he⟩

omit hc hi

/-- The deferred trap of a port's viral state. -/
def viralTrap (port : Nat) : DTrap := { cause := cause.viral, inner := 0, pc := 0, info := dw port, src := none }

theorem State.viralTraps_eq (s : State) (c : Context) (port : Nat) : s.viralTraps c port = s.ctxTrap c.id (viralTrap port) ∨
    s.viralTraps c port = (s.teams.filter fun t => t.ctx = c.id ∧ t.st ≠ .retired).foldl (fun s t => s.defer t.id (viralTrap port)) s := by
  rw [State.viralTraps]
  split
  · exact .inl rfl
  · exact .inr rfl

theorem State.viralTraps_of_mem {s : State} {c : Context} {v : Team} (port : Nat) (hm : v ∈ s.teams) (hc : v.ctx = c.id) (hst : v.st ≠ .retired) :
    s.viralTraps c port = (s.teams.filter fun t => t.ctx = c.id ∧ t.st ≠ .retired).foldl (fun s t => s.defer t.id (viralTrap port)) s := by
  have hmem : v ∈ s.teams.filter fun t => t.ctx = c.id ∧ t.st ≠ .retired := List.mem_filter.mpr ⟨hm, decide_eq_true ⟨hc, hst⟩⟩
  rw [State.viralTraps]
  split
  next h => exact absurd (h ▸ hmem) List.not_mem_nil
  · rfl

theorem State.notes_viralTraps (s : State) (c : Context) (port : Nat) : s.Notes (s.viralTraps c port) := by
  rcases s.viralTraps_eq c port with h | h
  · rw [h]; exact s.notes_ctxTrap _ _
  · rw [h]; exact .foldl (fun s t => s.notes_defer _ _) _ s

theorem State.tells_viralTraps (s : State) (c : Context) (port : Nat) : s.Tells port (s.viralTraps c port) := by
  rcases s.viralTraps_eq c port with h | h
  · rw [h]
    exact .of_teams (s.ctxTrap_teams _ _)
  · rw [h]
    exact .foldl (fun s (t : Team) => State.tells_defer (d := viralTrap port) rfl rfl s t.id) _ s

/-- A context of the list whose team is not dead: its team has VIRAL. -/
theorem State.viralOf_all {id : Nat} {c : Context} : ∀ (cs : List Context) {s : State} {v : Team}, s.team? id = some v → v.alive = true → v.st ≠ .retired →
    v.ctx = c.id → v.Takes port → c ∈ cs → ∃ w, (cs.foldl (fun s c => s.viralTraps c port) s).team? id = some w ∧ w.ViralOf port
  | [], _, _, _, _, _, _, _, h => absurd h List.not_mem_nil
  | b :: cs, s, v, hv, ha, hst, hctx, hr, h => by
    have hrest := State.Tells.foldl (port := port) (fun s (c : Context) => s.tells_viralTraps c port) cs (s.viralTraps b port)
    by_cases hb : b = c
    · subst hb
      have hmem := List.mem_of_find?_eq_some hv
      obtain ⟨w, hw, hvir⟩ := State.viralOf_defers (d := viralTrap port) rfl rfl (s.teams.filter fun t => t.ctx = b.id ∧ t.st ≠ .retired) hv ha hst hr
        ⟨v, List.mem_filter.mpr ⟨hmem, decide_eq_true ⟨hctx, hst⟩⟩, by simpa using List.find?_some hv⟩
      rw [← State.viralTraps_of_mem port hmem hctx hst] at hw
      obtain ⟨z, hz, htold⟩ := hrest id w hw
      exact ⟨z, hz, htold.viral hvir⟩
    · obtain ⟨w, hw, htold⟩ := s.tells_viralTraps b port id v hv
      refine State.viralOf_all cs hw ?_ ?_ ?_ (htold.takes hr) ((List.mem_cons.mp h).resolve_left (Ne.symm hb))
      · rw [htold.rest]; exact ha
      · rw [htold.rest]; exact hst
      · rw [htold.rest]; exact hctx

/-! ### Writes on their way to a port -/

/-- The trap of a posted write that is lost. -/
def State.lostTrap (s : State) (t : PortTarget) (c : Byte) (p : Posted) (u : UnitRef) : DTrap :=
  { cause := c, inner := 0, pc := p.pc
    info := if c = cause.viral then dw (portNo t) else dw (2 ^ 63 + s.physical (((s.team? u.team).map fun t => t.cl.die).getD 0) p.pa), src := some u.who }

/-- A posted write that is lost comes back to its unit as a trap. -/
def State.losePosted (t : PortTarget) (c : Byte) (s : State) (p : Posted) : State :=
  match p.by_ with
  | some u => s.defer u.team (s.lostTrap t c p u)
  | none => s

/-- A posted write is on its way to a port. -/
def Posted.towards (t : PortTarget) (p : Posted) : Bool := p.lines.any fun l => targetAt (64 * l) == some t

theorem State.failPosted_eq (s : State) (t : PortTarget) (c : Byte) : s.failPosted t c =
    (s.posted.filter (Posted.towards t)).foldl (State.losePosted t c) { s with posted := s.posted.filter fun p => !p.towards t } := rfl

theorem State.notes_losePosted (t : PortTarget) (c : Byte) (s : State) (p : Posted) : s.Notes (s.losePosted t c p) := by
  rw [State.losePosted]
  split
  · exact s.notes_defer _ _
  · exact .refl s

theorem State.failPosted_spec (s : State) (t : PortTarget) (c : Byte) :
    s.failPosted t c = { s with teams := (s.failPosted t c).teams, ctxs := (s.failPosted t c).ctxs, collBytes := (s.failPosted t c).collBytes
                                posted := s.posted.filter fun p => !p.towards t } :=
  State.Notes.foldl (fun s p => s.notes_losePosted t c p) (s.posted.filter (Posted.towards t)) { s with posted := s.posted.filter fun p => !p.towards t }

theorem State.tells_failPosted (s : State) {t : PortTarget} (hp : portNo t = port) : s.Tells port (s.failPosted t cause.viral) := by
  rw [State.failPosted_eq]
  refine State.Tells.trans (t := { s with posted := s.posted.filter fun p => !p.towards t }) (.of_teams rfl) (.foldl (fun s p => ?_) _ _)
  rw [State.losePosted]
  split
  next u _ => exact State.tells_defer (d := s.lostTrap t cause.viral p u) rfl (by rw [State.lostTrap, hp]; rfl) s u.team
  · exact .refl s

end Viral

/-! ### Refused write-backs (R407) -/

section Refused

variable {s : State} {die line : Nat} {c : Byte}

/-- A dirty copy of a line on a die. -/
def CLine.refused (die line : Nat) (l : CLine) : Bool := decide (l.line = line ∧ l.level.die = die) && !l.dirtyBytes.isEmpty

theorem CLine.refused_iff {l : CLine} : l.refused die line = true ↔ l.line = line ∧ l.level.die = die ∧ l.dirtyBytes ≠ [] := by
  rw [CLine.refused, Bool.and_eq_true, decide_eq_true_eq, Bool.not_eq_true', and_assoc, ← List.isEmpty_eq_false_iff]

theorem writebackErrorAnswer_eq (hc : c = cause.protection ∨ c = cause.classAlias) : exec (.writebackErrorAnswer die line c) s =
    .next ((s.lines.filter (CLine.refused die line)).foldl (fun s l => s.chargeOwner die l c) (s.dropCopies (CLine.refused die line))) := by
  refine if_neg ?_
  rintro ⟨h1, h2⟩
  exact hc.elim h1 h2

/-- The package t is s but for its contexts. -/
theorem State.ctxTrap_frame (s : State) (ctx : Nat) (d : DTrap) : s.ctxTrap ctx d = { s with ctxs := (s.ctxTrap ctx d).ctxs } := by
  rw [State.ctxTrap]
  split
  · rfl
  · split <;> rfl

theorem State.chargeOwner_frame (s : State) (die : Nat) (l : CLine) (c : Byte) :
    s.chargeOwner die l c = { s with ctxs := (s.chargeOwner die l c).ctxs } := by
  rw [State.chargeOwner, State.ownerTrap]
  split
  · exact s.ctxTrap_frame _ _
  · rfl

theorem State.chargeOwners_frame (die : Nat) (c : Byte) : ∀ (ls : List CLine) (s : State),
    ls.foldl (fun s l => s.chargeOwner die l c) s = { s with ctxs := (ls.foldl (fun s l => s.chargeOwner die l c) s).ctxs }
  | [], _ => rfl
  | l :: ls, s => by
    have h := State.chargeOwners_frame die c ls (s.chargeOwner die l c)
    rw [s.chargeOwner_frame die l c] at h
    rw [List.foldl_cons, s.chargeOwner_frame die l c]
    exact h

theorem cause_ne (hc : c = cause.protection ∨ c = cause.classAlias) : c ≠ cause.viral ∧ c ≠ cause.writeOnce := by
  rcases hc with rfl | rfl <;> decide

/-- The charge of a context that has no open meet stands in its error log. -/
theorem State.chargeOwner_log (hc : c = cause.protection ∨ c = cause.classAlias) {l : CLine} {ctx : Nat} {k : Context}
    (ho : SMap.get? s.owners l.owner.toNat = some ctx) (hk : s.ctx? ctx = some k) (hm : s.openMeets ctx = []) :
    (s.chargeOwner die l c).ctx? ctx = some { k with errlog := k.errlog ++ [{ cause := c, info := dw (2 ^ 63 + s.physical die (64 * l.line)) }] } := by
  obtain ⟨hv, hw⟩ := cause_ne hc
  have hid := (State.ctx?_mem hk).2
  subst hid
  rw [State.chargeOwner, State.ownerTrap, ho]
  dsimp only
  rw [State.ctxTrap, hk]
  dsimp only
  rw [hm, if_pos (List.isEmpty_nil), DTrap.recorded, if_neg hw, State.pathInfo, if_neg hv]
  exact State.ctx?_setCtx (d := { k with errlog := _ }) hk

theorem writebackError_spec (hc : c = cause.protection ∨ c = cause.classAlias) :
    ∃ t, exec (.writebackErrorAnswer die line c) s = .next t ∧ t = { s with lines := t.lines, ctxs := t.ctxs } ∧
      (∀ l, l ∈ t.lines ↔ l ∈ s.lines ∧ ¬ (l.line = line ∧ l.level.die = die ∧ l.dirtyBytes ≠ [])) ∧
      ∀ l ctx k, (s.lines.filter fun l => l.line = line && decide (l.level.die = die) && !l.dirtyBytes.isEmpty) = [l] →
        SMap.get? s.owners l.owner.toNat = some ctx → s.ctx? ctx = some k → s.openMeets ctx = [] →
        t.ctx? ctx = some { k with errlog := k.errlog ++ [{ cause := c, info := dw (2 ^ 63 + s.physical die (64 * line)) }] } := by
  have hf := State.chargeOwners_frame die c (s.lines.filter (CLine.refused die line)) (s.dropCopies (CLine.refused die line))
  refine ⟨_, writebackErrorAnswer_eq hc, ?_, fun l => ?_, fun l ctx k hl ho hk hm => ?_⟩
  · rw [hf]
    rfl
  · rw [hf]
    refine (State.mem_dropCopies _).trans (and_congr_right fun _ => ?_)
    rw [← CLine.refused_iff, Bool.not_eq_true]
  · have heq : (s.lines.filter fun l => l.line = line && decide (l.level.die = die) && !l.dirtyBytes.isEmpty) = s.lines.filter (CLine.refused die line) :=
      List.filter_congr fun l _ => by rw [CLine.refused, Bool.decide_and]
    rw [heq] at hl
    have hline : l.line = line := (CLine.refused_iff.mp (List.mem_filter.mp (hl ▸ List.mem_singleton.mpr rfl : l ∈ s.lines.filter _)).2).1
    rw [hl, ← hline]
    exact State.chargeOwner_log (s := s.dropCopies (CLine.refused die l.line)) (die := die) hc ho hk hm

end Refused

/-! ### Lost devices (R376) -/

section Lost

variable {s : State}

/-- A window that names a lost device is unusable. -/
def Window.losing (t : PortTarget) (w : Window) : Window := if w.target = t then { w with stale := true } else w

/-- The package once a device's lines have gone and its windows have become unusable. -/
def State.cutOff (s : State) (t : PortTarget) : State :=
  let u := (s.failPosted t cause.expanderLost).dropCopies fun c => targetAt (64 * c.line) == some t
  { u with ulines := u.ulines.filter fun l => !(targetAt l.pa == some t)
           gone := if t ∈ u.gone then u.gone else t :: u.gone
           dies := u.dies.map fun d => { d with windows := d.windows.map (Option.map (Window.losing t)) } }

theorem State.lose_spec (s : State) {t : PortTarget} (ht : t ≠ .host) : ∃ u, s.lose t = u ∧ ((s.cutOff t).lostSessions t).Stays u ∧
    u.mem = ((s.cutOff t).lostSessions t).mem := by
  have h : s.lose t = (s.ctxs.filter fun c => s.maps c fun r => s.behind r t).foldl (fun v c => v.ctxTrap c.id
      { cause := cause.expanderLost, inner := 0, pc := 0, info := ((s.cutOff t).lostSessions t).free.1, src := none }) ((s.cutOff t).lostSessions t).free.2 := by
    cases t with
    | host => exact absurd rfl ht
    | cxl p => rfl
    | peer d => rfl
  have hn : ((s.cutOff t).lostSessions t).free.2.Notes (s.lose t) := by
    rw [h]
    exact .foldl (fun s c => s.notes_ctxTrap _ _) _ _
  have hfree : ((s.cutOff t).lostSessions t).Stays ((s.cutOff t).lostSessions t).free.2 := ⟨rfl, rfl, rfl⟩
  refine ⟨_, rfl, hfree.trans hn.stays, ?_⟩
  rw [hn]
  rfl

theorem State.cutOff_windows (s : State) (t : PortTarget) : (s.cutOff t).dies.map Die.windows =
    (s.dies.map Die.windows).map fun ws => ws.map (Option.map (Window.losing t)) := by
  rw [State.cutOff, State.failPosted_spec]
  dsimp only [State.dropCopies]
  rw [List.map_map, List.map_map]
  rfl

theorem linkLost_spec {i : Instr} {t : PortTarget} (hi : i = .linkFailure t ∨ i = .requestTimeout t) (ht : t ≠ .host) :
    ∃ u, exec i s = .next u ∧ t ∈ u.gone ∧ (∀ p, t = .cxl p → u.mem = s.mem) ∧ (∀ l ∈ u.lines, targetAt (64 * l.line) ≠ some t) ∧
      ∀ d ∈ u.dies, ∀ w, some w ∈ d.windows → w.target = t → w.stale = true := by
  obtain ⟨u, hu, hst, hmem⟩ := s.lose_spec ht
  have hs := (State.stays_lostSessions (s.cutOff t) t).trans hst
  refine ⟨u, ?_, ?_, fun p hp => ?_, fun l hl => ?_, fun d hd w hw hwt => ?_⟩
  · rw [← hu]
    rcases hi with rfl | rfl <;> rfl
  · rw [hs.gone, State.cutOff]
    dsimp only
    split
    next h => exact h
    · exact List.mem_cons_self
  · subst hp
    rw [hmem, State.mem_lostSessions, State.cutOff, State.failPosted_spec]
    rfl
  · rw [hs.lines] at hl
    have := ((State.mem_dropCopies _).mp hl).2
    intro h
    rw [h] at this
    exact absurd this (by simp)
  · have hwin : d.windows ∈ u.dies.map Die.windows := List.mem_map_of_mem hd
    rw [hs.windows, State.cutOff_windows] at hwin
    obtain ⟨ws, -, hws⟩ := List.mem_map.mp hwin
    rw [← hws] at hw
    obtain ⟨o, -, ho⟩ := List.mem_map.mp hw
    obtain ⟨w0, rfl, rfl⟩ := Option.map_eq_some_iff.mp ho
    rw [Window.losing] at hwt ⊢
    split
    · rfl
    next h => exact absurd (by rwa [if_neg h] at hwt) h

end Lost

section ViralEntry

variable {s : State} {port : Nat}

theorem portTarget_cxl (h : port < 4) : portTarget port = .cxl port := if_pos h

/-- The package once the writes on their way to a viral port and the dirty lines behind it have gone. -/
def State.viralCut (s : State) (port : Nat) : State :=
  let u := (s.failPosted (.cxl port) cause.viral).dropCopies fun c => targetAt (64 * c.line) == some (.cxl port) && !c.dirtyBytes.isEmpty
  { u with viral := if port ∈ u.viral then u.viral else port :: u.viral, ulines := u.ulines.filter fun l => !(targetAt l.pa == some (.cxl port)) }

theorem viralEntry_eq (h : port < 4) : exec (.viralEntry port) s =
    .next ((s.ctxs.filter fun c => s.maps c fun r => s.behind r (.cxl port)).foldl (fun s c => s.viralTraps c port) (s.viralCut port)) := by
  have hp : portNo (portTarget port) = port := by rw [portTarget_cxl h]; rfl
  change execViralEntry port s = _
  unfold execViralEntry
  rw [hp]
  dsimp only
  rw [portTarget_cxl h]
  rfl

theorem viralEntry_spec (h : port < 4) :
    ∃ t, exec (.viralEntry port) s = .next t ∧ t.mem = s.mem ∧ port ∈ t.viral ∧
      (∀ l ∈ t.lines, targetAt (64 * l.line) = some (.cxl port) → l.dirtyBytes = []) ∧
      (∀ p ∈ t.posted, ∀ l ∈ p.lines, targetAt (64 * l) ≠ some (.cxl port)) ∧
      ∀ c ∈ s.ctxs, s.maps c (fun r => s.behind r (.cxl port)) = true → ∀ u, s.team? u.id = some u → u.ctx = c.id → u.st ≠ .retired → u.alive = true →
        u.dtraps.length < 16 → ∃ w, t.team? u.id = some w ∧ ∃ d ∈ w.dtraps, d.cause = cause.viral ∧ d.info = dw port := by
  have hn : (s.viralCut port).Notes ((s.ctxs.filter fun c => s.maps c fun r => s.behind r (.cxl port)).foldl (fun s c => s.viralTraps c port)
      (s.viralCut port)) := .foldl (fun s c => s.notes_viralTraps c port) _ _
  have hcut := s.failPosted_spec (.cxl port) cause.viral
  refine ⟨_, viralEntry_eq h, ?_, ?_, fun l hl ht => ?_, fun p hp l hl ht => ?_, fun c hc hm u hu hctx hst ha hlen => ?_⟩
  · rw [hn, State.viralCut, hcut]
    rfl
  · rw [hn, State.viralCut]
    dsimp only
    split
    next h => exact h
    · exact List.mem_cons_self
  · rw [hn] at hl
    have := ((State.mem_dropCopies _).mp hl).2
    rw [ht] at this
    simpa using this
  · rw [hn, State.viralCut, hcut] at hp
    have := (List.mem_filter.mp hp).2
    rw [Bool.not_eq_true', Posted.towards, List.any_eq_false] at this
    exact this l hl (by rw [ht]; exact beq_self_eq_true _)
  · obtain ⟨v, hv, htold⟩ := s.tells_failPosted (t := .cxl port) (port := port) rfl u.id u hu
    refine State.viralOf_all _ (s := s.viralCut port) (v := v) hv ?_ ?_ ?_ (htold.takes (.inl hlen)) (List.mem_filter.mpr ⟨hc, hm⟩)
    · rw [htold.rest]; exact ha
    · rw [htold.rest]; exact hst
    · rw [htold.rest]; exact hctx

theorem portReset_eq (h : port < 4) : exec (.portReset port) s = .next { s with viral := s.viral.filter (· ≠ port), host := s.host ++ done0 } := by
  have hp : portNo (portTarget port) = port := by rw [portTarget_cxl h]; rfl
  change execPortReset port s = _
  rw [execPortReset, hp]
  rfl

end ViralEntry

/-- Settles O57: what has been lost leaves the caches and the writes on their way, and traps are all that teams and contexts see of it. -/
theorem portsAndHomesFail : Obligations.PortsAndHomesFail := fun _ =>
  ⟨fun _ _ _ hc => writebackError_spec hc, fun _ h => viralEntry_spec h, fun _ h => portReset_eq h, fun _ _ hi ht => linkLost_spec hi ht, fun _ => rfl⟩

end Sys2Proof.Machine
end

section
/-!
SUPPORT. Translations, shootdowns, page answers and kills (R340 to R346).
-/

namespace Sys2Proof.Machine

/-! ### What a walk does to the caches -/

section
variable (s : State)

theorem State.peeks_dropCopies (p : CLine → Bool) : s.Peeks (s.dropCopies p) := .of_mem (s.stirs_dropCopies p).looks rfl

theorem State.peeks_recallDirectory (die : Nat) (t : Track) : s.Peeks (s.recallDirectory die t) :=
  (s.peeks_recallU _ _).trans (State.peeks_dropCopies _ _)

theorem State.peeks_recallPort (t : Track) : s.Peeks (s.recallPort t) := (s.peeks_recallU _ _).trans (State.peeks_dropCopies _ _)

theorem State.peeks_trackDirectory (die holder pa lease : Nat) : s.Peeks (s.trackDirectory die holder pa lease) := by
  rw [State.trackDirectory]
  split
  · exact .of_mem (State.Stirs.of_rest rfl).looks rfl
  · refine State.Peeks.trans ?_ (State.peeks_recallDirectory _ _ _)
    exact .of_mem (State.Stirs.of_rest rfl).looks rfl

theorem State.peeks_trackPort (die pa lease : Nat) : s.Peeks (s.trackPort die pa lease) := by
  rw [State.trackPort]
  split
  · exact .of_mem (State.Stirs.of_rest rfl).looks rfl
  · refine State.Peeks.trans ?_ (State.peeks_recallPort _ _)
    exact .of_mem (State.Stirs.of_rest rfl).looks rfl

theorem State.peeks_trackL2 (die pa lease : Nat) : s.Peeks (s.track (.l2 die) pa lease) := by
  rw [State.track]
  split
  · split
    · exact .refl s
    · exact s.peeks_trackDirectory _ _ _ _
  · exact s.peeks_trackPort _ _ _

/-- A line that an L2 takes in costs no dirty data: what it replaces is clean. -/
theorem State.peeks_holdL2 (h : Hit) {c : CLine} {die : Nat} (hc : c.level = .l2 die) : s.Peeks (s.hold h c) := by
  rw [State.hold, hc]
  dsimp only
  cases hr : s.roomL2 die c.line h.wayp with
  | none => exact .refl s
  | some p =>
    obtain ⟨w, t⟩ := p
    have hroom : s.Peeks t := .of_mem (s.stirs_roomL2 hr).looks (s.mem_roomL2 hr)
    have hput (d : CLine) : t.Peeks { t.putCopy d with uses := t.uses + 1 } := .of_mem (State.Stirs.of_rest rfl).looks rfl
    dsimp only
    split
    · exact hroom.trans (hput _)
    · exact (hroom.trans (hput _)).trans (State.peeks_trackL2 _ _ _ _)

end

theorem State.Peeks.foldl {α : Type} {f : State → α → State} (hf : ∀ (s : State) a, s.Peeks (f s a)) : ∀ (l : List α) (s : State), s.Peeks (l.foldl f s)
  | [], s => .refl s
  | a :: l, s => (hf s a).trans (State.Peeks.foldl hf l (f s a))

variable (s : State)

theorem State.peeks_useTables (die : Nat) (reads : List Nat) : s.Peeks (s.useTables die reads) := by
  rw [State.useTables]
  refine .trans (State.Peeks.foldl (fun s line => ?_) _ s) (.of_mem (State.Stirs.of_rest rfl).looks rfl)
  split
  · exact s.peeks_useHome _ _
  · split
    · exact .refl s
    · exact (s.peeks_homeRead _ _).trans (State.peeks_holdL2 _ _ rfl)

theorem State.peeks_walked (tlb : TlbId) (ctx va : Nat) : s.Peeks (s.walked tlb ctx va) := by
  rw [State.walked]
  split
  · exact s.peeks_useTables _ _
  · exact .refl s

theorem State.walked_tlb (tlb : TlbId) (ctx va : Nat) : (s.walked tlb ctx va).tlb = s.tlb := by rw [(s.peeks_walked tlb ctx va).rest]

/-! ### Walks that complete -/

section
variable {s} {ctx : Nat} {c : Context} (hc : s.ctx? ctx = some c)
include hc

theorem pageWalk_fault {tlb : TlbId} {va : Pc} (h : c.walk s.mem (s.place (tlbDie tlb)) va.toNat = none) (kind : AccKind) :
    exec (.pageWalkCompletion ctx tlb va kind) s = .next (s.walked tlb ctx va.toNat) := by
  change execPageWalkCompletion ctx tlb va kind s = _
  rw [execPageWalkCompletion, hc, Option.bind_some, h]

theorem pageWalk_hit {tlb : TlbId} {va : Pc} {h : Hit} (hw : c.walk s.mem (s.place (tlbDie tlb)) va.toNat = some h) (kind : AccKind) :
    exec (.pageWalkCompletion ctx tlb va kind) s =
      .next (if h.allows kind then (s.walked tlb ctx va.toNat).fillTlb tlb ctx h else s.walked tlb ctx va.toNat) := by
  change execPageWalkCompletion ctx tlb va kind s = _
  rw [execPageWalkCompletion, hc, Option.bind_some, hw]

theorem ats_hit {tlb : TlbId} {va : Pc} {h : Hit} (hw : c.walk s.mem (s.place (tlbDie tlb)) va.toNat = some h) (hp : ∀ cl, tlb ≠ .pacer cl) :
    exec (.atsCompletion ctx tlb va) s = .next ((s.walked tlb ctx va.toNat).fillTlb tlb ctx h) := by
  change execAtsCompletion ctx tlb va s = _
  cases tlb with
  | pacer cl => exact absurd rfl (hp cl)
  | core cl k | fetch cl | copy cl =>
    unfold execAtsCompletion
    rw [hc, Option.bind_some, hw]

/-! ### Shootdowns -/

omit hc in
/-- A shootdown with nothing left on its way is reported, another stays. -/
theorem State.shotDone_spec (s : State) : s.shotDone = { s with shoots := s.shotDone.shoots, host := s.shotDone.host } ∧
    ∀ h ∈ s.shoots, (s.posted = [] → HostEvent.shootdownDone h.ctx ∈ s.shotDone.host) ∧
      ∀ p ∈ s.posted, p.id ∈ h.left → h ∈ s.shotDone.shoots := by
  have hopen {h : Shoot} {p : Posted} (hp : p ∈ s.posted) (hl : p.id ∈ h.left) : (h.left.any fun k => s.posted.any fun p => decide (p.id = k)) = true :=
    List.any_eq_true.mpr ⟨p.id, hl, List.any_eq_true.mpr ⟨p, hp, decide_eq_true rfl⟩⟩
  rw [State.shotDone]
  dsimp only
  split
  next he =>
    refine ⟨rfl, fun h hh => ⟨fun hn => ?_, fun p hp hl => hh⟩⟩
    have := List.filter_eq_nil_iff.mp he h hh
    simp [hn] at this
  next he =>
    refine ⟨rfl, fun h hh => ⟨fun hn => ?_, fun p hp hl => List.mem_filter.mpr ⟨hh, hopen hp hl⟩⟩⟩
    exact List.mem_append_right _ (List.mem_map.mpr ⟨h, List.mem_filter.mpr ⟨hh, by simp [hn]⟩, rfl⟩)

omit hc in
theorem shootdown_spec (s : State) (ctx lo size : Nat) (tlbs : List TlbId) :
    let gone (e : TlbEntry) : Bool := decide (e.ctx = ctx ∧ e.tlb ∈ tlbs ∧ e.base < lo + size ∧ lo < e.base + e.size)
    ∃ t, exec (.shootdown ctx lo size tlbs) s = .next t ∧ t = { s with tlb := t.tlb, shoots := t.shoots, host := t.host } ∧
      (∀ e, e ∈ t.tlb ↔ e ∈ s.tlb ∧ gone e = false) ∧ (s.posted = [] → HostEvent.shootdownDone ctx ∈ t.host) ∧
      ∀ p ∈ s.posted, p.id ∈ s.postedThrough ctx tlbs lo size → ∃ h ∈ t.shoots, h.ctx = ctx ∧ p.id ∈ h.left := by
  intro gone
  let u : State := { s with tlb := s.tlb.filter fun e => !gone e, shoots := s.shoots ++ [{ ctx := ctx, left := s.postedThrough ctx tlbs lo size }] }
  obtain ⟨hrest, hshoot⟩ := u.shotDone_spec
  obtain ⟨hdone, hleft⟩ := hshoot { ctx := ctx, left := s.postedThrough ctx tlbs lo size } (List.mem_append_right _ List.mem_cons_self)
  refine ⟨u.shotDone, rfl, by rw [hrest], fun e => ?_, hdone, fun p hp hl => ⟨_, hleft p hp hl, rfl, hl⟩⟩
  rw [hrest]
  exact List.mem_filter.trans (and_congr_right fun _ => by rw [Bool.not_eq_true'])

end

/-! ### Pages that are asked for -/

/-- The package t is s after pages have been asked for: the host has been told, and what teams wait for is marked. -/
structure State.Asks (s t : State) : Prop where
  rest : t = { s with teams := t.teams, host := t.host }
  told : ∀ e ∈ s.host, e ∈ t.host
  pages : ∀ id u, s.team? id = some u → ∃ w, t.team? id = some w ∧ ∀ p ∈ u.pages, p.waits = false → p ∈ w.pages

namespace State.Asks

theorem refl (s : State) : s.Asks s := ⟨rfl, fun _ he => he, fun _ u hu => ⟨u, hu, fun _ hp _ => hp⟩⟩

theorem trans {s t u : State} (h : s.Asks t) (k : t.Asks u) : s.Asks u where
  rest := by
    have hk := k.rest
    rw [h.rest] at hk
    exact hk
  told e he := k.told e (h.told e he)
  pages id x hx := by
    obtain ⟨y, hy, hxy⟩ := h.pages id x hx
    obtain ⟨z, hz, hyz⟩ := k.pages id y hy
    exact ⟨z, hz, fun p hp hw => hyz p (hxy p hp hw) hw⟩

theorem foldl {α : Type} {f : State → α → State} (hf : ∀ (s : State) a, s.Asks (f s a)) : ∀ (l : List α) (s : State), s.Asks (l.foldl f s)
  | [], s => refl s
  | a :: l, s => (hf s a).trans (foldl hf l (f s a))

end State.Asks

/-- A team that is looked up after a change of every team that keeps the numbers. -/
theorem State.team?_map {s t : State} {f : Team → Team} (h : t.teams = s.teams.map f) (hf : ∀ u, (f u).id = u.id) {id : Nat} {u : Team}
    (hu : s.team? id = some u) : t.team? id = some (f u) := by
  rw [State.team?, h, List.find?_map]
  have : ((fun t : Team => t.id == id) ∘ f) = fun t => t.id == id := funext fun v => by rw [Function.comp_apply, hf]
  rw [this]
  exact congrArg (Option.map f) hu

/-- A team that shares a request. -/
def Team.shares (t : Team) (die ctx page k : Nat) : Team :=
  let t := if t.asksOn die ∧ t.ctx = ctx then { t with pages := t.pages.map fun p => if p.waits ∧ p.page = page then { p with tries := k } else p } else t
  if t.cl.die = die ∧ t.ctx = ctx then
    { t with xfers := t.xfers.map fun x =>
        if x.asks.isSome ∧ x.held = some page then { x with asks := none, asked := (page, max k (x.asked.2 + 1)) } else x }
  else t

theorem Team.shares_id (t : Team) (die ctx page k : Nat) : (t.shares die ctx page k).id = t.id := by
  rw [Team.shares]
  split <;> split <;> rfl

theorem Team.shares_pages (t : Team) (die ctx page k : Nat) {p : PageReq} (hp : p ∈ t.pages) (hw : p.waits = false) :
    p ∈ (t.shares die ctx page k).pages := by
  have hmem : p ∈ t.pages.map fun p => if p.waits ∧ p.page = page then { p with tries := k } else p :=
    List.mem_map.mpr ⟨p, hp, if_neg fun h => by rw [hw] at h; exact Bool.noConfusion h.1⟩
  rw [Team.shares]
  split <;> split
  · exact hmem
  · exact hmem
  · exact hp
  · exact hp

theorem State.asks_shareAsk (die ctx page k : Nat) : s.Asks (s.shareAsk die ctx page k) where
  rest := rfl
  told _ he := he
  pages _ u hu := ⟨u.shares die ctx page k, State.team?_map (f := fun t => t.shares die ctx page k) rfl (fun t => t.shares_id die ctx page k) hu,
    fun _ hp hw => u.shares_pages die ctx page k hp hw⟩

theorem State.asks_tell (e : HostEvent) : s.Asks (s.tell e) := ⟨rfl, fun _ he => List.mem_append_left _ he, fun _ u hu => ⟨u, hu, fun _ hp _ => hp⟩⟩

theorem State.asks_askPages (die n : Nat) : s.Asks (s.askPages die n) := by
  induction n generalizing s with
  | zero => exact .refl s
  | succ n ih =>
    rw [State.askPages]
    split
    · exact .refl s
    · split
      · exact .refl s
      · dsimp only
        split
        · exact (s.asks_shareAsk _ _ _ _).trans (ih _)
        · split
          · exact .refl s
          · exact ((s.asks_shareAsk _ _ _ _).trans (State.asks_tell _ _)).trans (ih _)

theorem State.asks_askAll (die : Nat) : s.Asks (s.askAll die) :=
  (State.Asks.foldl (fun s _ => s.asks_shareAsk _ _ _ _) _ s).trans (State.asks_askPages _ _ _)

theorem State.asks_askEverywhere : s.Asks s.askEverywhere := State.Asks.foldl State.asks_askAll _ s

/-! ### Answers to page requests -/

/-- The teams of a context once a page request is answered. -/
def State.pageAnswered (s : State) (ctx page : Nat) (success : Bool) (ok : Nat → Bool) : State :=
  { s with teams := s.teams.map fun t => t.answered ctx page success ok }

/-- The dies that ask for a page again. -/
def State.askers (s : State) (ctx page : Nat) (success : Bool) (ok : Nat → Bool) : List Nat :=
  (s.teams.filter fun t => t.waitsIn ctx && t.pages.any fun p => (p.answered page success (ok t.cl.die)).2).map fun t => t.cl.die

/-- They ask. -/
def State.pagesAsked (s : State) (ds : List Nat) (ctx page : Nat) : State := ds.foldl (fun s die => s.tell (s.pageAsk die ctx page)) s

theorem State.pagesAsked_eq (ctx page : Nat) (ds : List Nat) (s : State) :
    s.pagesAsked ds ctx page = { s with host := s.host ++ ds.map fun d => s.pageAsk d ctx page } := by
  induction ds generalizing s with
  | nil => rw [List.map_nil, List.append_nil]; rfl
  | cons d ds ih =>
    have h := ih (s.tell (s.pageAsk d ctx page))
    refine h.trans ?_
    rw [List.map_cons, ← List.singleton_append, ← List.append_assoc]
    rfl

theorem Team.answered_eq (t : Team) (ctx page : Nat) (success : Bool) (ok : Nat → Bool) :
    t.answered ctx page success ok = { t with pages := (t.answered ctx page success ok).pages } := by
  rw [Team.answered]
  split <;> rfl

/-- Nobody's collective operation waits for the page. -/
theorem State.collAnswered_idle {s : State} {ctx page : Nat} (h : ∀ u ∈ s.teams, u.ctx = ctx → ∀ q ∈ u.xfers, q.held ≠ some page) (success : Bool) :
    s.collAnswered ctx page success = s := by
  rw [State.collAnswered]
  refine (List.foldl_ext _ (fun s _ => s) s fun u t ht => ?_).trans (List.foldl_fixed' (fun _ => rfl) _)
  obtain ⟨ht, hctx⟩ := List.mem_filter.mp ht
  have hnone : (t.xfers.filter fun x => x.held = some page ∧ x.st = .running ∧ x.asks = none) = [] :=
    List.filter_eq_nil_iff.mpr fun q hq hd => h t ht (of_decide_eq_true hctx) q hq (of_decide_eq_true hd).1
  rw [hnone]
  rfl

section
variable {s} {ctx : Nat} {c : Context} (hc : s.ctx? ctx = some c)
include hc

theorem pageResponse_stale {gen : Word} (h : gen ≠ c.gen) (page : Nat) (a : PageAnswer) : exec (.pageResponse ctx gen page a) s = .next s := by
  change execPageResponse ctx gen page a s = _
  rw [execPageResponse, hc]
  exact if_pos h.symm

theorem pageResponse_eq {page : Nat} (h : ∀ u ∈ s.teams, u.ctx = ctx → ∀ q ∈ u.xfers, q.held ≠ some page) (a : PageAnswer) :
    let ok (die : Nat) : Bool := (c.walk s.mem (s.place die) (4096 * page)).isSome
    exec (.pageResponse ctx c.gen page a) s = .next
      ((s.pageAnswered ctx page (a = .success) ok).pagesAsked (s.askers ctx page (a = .success) ok).dedup ctx page).askEverywhere := by
  intro ok
  change execPageResponse ctx c.gen page a s = _
  rw [execPageResponse, hc]
  dsimp only
  rw [if_neg fun h => h rfl]
  have hidle := State.collAnswered_idle (s := (s.pageAnswered ctx page (a = .success) ok).pagesAsked (s.askers ctx page (a = .success) ok).dedup ctx page)
    (ctx := ctx) (page := page) (fun u hu hctx => ?_) (a = .success)
  · exact congrArg (fun t : State => Host.Outcome.next t.askEverywhere) hidle
  · rw [State.pagesAsked_eq] at hu
    obtain ⟨t, ht, rfl⟩ := List.mem_map.mp hu
    rw [Team.answered_eq] at hctx ⊢
    exact h t ht hctx

/-- An answer for a page that a saved team waits for. -/
theorem pageResponse_spec {page : Nat} (h : ∀ u ∈ s.teams, u.ctx = ctx → ∀ q ∈ u.xfers, q.held ≠ some page) (a : PageAnswer) {id : Nat} {t : Team} {p : PageReq}
    (ht : s.team? id = some t) (hctx : t.ctx = ctx) (hst : t.st = .saved) (hp : p ∈ t.pages) :
    let done := p.answered page (a = .success) (c.walk s.mem (s.place t.cl.die) (4096 * page)).isSome
    ∃ v w, exec (.pageResponse ctx c.gen page a) s = .next v ∧ v.team? id = some w ∧ (done.1.waits = false → done.1 ∈ w.pages) ∧
      (done.2 = true → s.pageAsk t.cl.die ctx page ∈ v.host) := by
  intro done
  let ok (die : Nat) : Bool := (c.walk s.mem (s.place die) (4096 * page)).isSome
  let u : State := (s.pageAnswered ctx page (a = .success) ok).pagesAsked (s.askers ctx page (a = .success) ok).dedup ctx page
  have hu : u = { s.pageAnswered ctx page (a = .success) ok with
      host := s.host ++ (s.askers ctx page (a = .success) ok).dedup.map fun d => s.pageAsk d ctx page } := State.pagesAsked_eq _ _ _ _
  have hask := u.asks_askEverywhere
  have hwaits : t.waitsIn ctx = true := decide_eq_true ⟨hctx, hst⟩
  have hteam : u.team? id = some (t.answered ctx page (a = .success) ok) := by
    rw [hu]
    exact State.team?_map (f := fun t => t.answered ctx page (a = .success) ok) rfl (fun t => by rw [Team.answered_eq]) ht
  obtain ⟨w, hw, hpages⟩ := hask.pages id _ hteam
  refine ⟨_, w, pageResponse_eq hc h a, hw, hpages _ ?_, fun hd => hask.told _ ?_⟩
  · rw [Team.answered, if_pos hwaits]
    exact List.mem_map_of_mem (f := fun p : PageReq => (p.answered page (a = .success) (ok t.cl.die)).1) hp
  · rw [hu]
    refine List.mem_append_right _ (List.mem_map_of_mem (f := fun d => s.pageAsk d ctx page) (List.mem_dedup.mpr (List.mem_map_of_mem ?_)))
    refine List.mem_filter.mpr ⟨List.mem_of_find?_eq_some ht, ?_⟩
    rw [Bool.and_eq_true, List.any_eq_true]
    exact ⟨hwaits, p, hp, hd⟩

/-- What is asked again. -/
theorem State.pageAsk_eq (die page : Nat) : s.pageAsk die ctx page =
    if (c.walkGuest s.mem (s.place die) (4096 * page)).isSome then .stage2Fault ctx c.gen page else .pageRequest ctx c.gen page := by
  rw [State.pageAsk, hc]
  dsimp only [Option.bind_some, Option.map_some, Option.getD_some]
  cases c.walkGuest s.mem (s.place die) (4096 * page) <;> rfl

/-! ### Frame pools and kills (R345, R346) -/

theorem framePool_spec {die base n : Nat} (hd : die < s.dies.length) (hb : 2 ^ 41 * die ≤ base) (hn : base + n ≤ 2 ^ 41 * die + s.ownBytes) :
    ∃ t, exec (.framePoolRegister ctx die ⟨base, n⟩) s = .next t ∧ t = { s with ctxs := t.ctxs } ∧
      t.ctx? ctx = some { c with pools := c.pools ++ [{ die := die, base := base, size := n }] } := by
  have hid : c.id = ctx := (State.ctx?_mem hc).2
  refine ⟨s.setCtx { c with pools := c.pools ++ [{ die := die, base := base, size := n }] }, ?_, rfl, ?_⟩
  · change opFramePoolRegister ctx die base n s = _
    rw [opFramePoolRegister, hc]
    exact if_pos ⟨hd, hb, hn⟩
  · subst hid
    exact State.ctx?_setCtx (d := { c with pools := c.pools ++ [{ die := die, base := base, size := n }] }) hc

theorem contextKill_spec (hn : (s.meets.map Meet.id).Nodup) : ∃ t k, exec (.contextKill ctx) s = .next t ∧ t.ctx? ctx = some k ∧ k.gen = c.gen + 1 ∧
    k.killed = true ∧ ∀ m ∈ t.meets, m.ctx = ctx → m.live = false := by
  have hid : c.id = ctx := (State.ctx?_mem hc).2
  let d : Context := { c with gen := c.gen + 1, killed := true }
  let u : State := (s.setCtx d).endSessions fun _ k => k.ctx = ctx
  have hcl := State.closes_terminates (s := u) .aborted 0 (s.openMeets ctx)
  let v : State := (s.openMeets ctx).foldl (fun s m => s.terminate m.id .aborted 0) u
  have hkill : s.killCtx ctx = v := by
    rw [State.killCtx, hc]
    rfl
  have hd : u.ctx? ctx = some d := by
    subst hid
    exact State.ctx?_setCtx (d := d) hc
  obtain ⟨k, hk, hbare⟩ := Option.map_eq_some_iff.mp ((hcl.bare ctx).trans (congrArg (Option.map Context.bare) hd))
  refine ⟨v.askEverywhere, k, ?_, ?_, (congrArg Context.gen hbare : k.bare.gen = d.bare.gen), (congrArg Context.killed hbare : k.bare.killed = d.bare.killed), ?_⟩
  · change Host.Outcome.next (s.killCtx ctx).askEverywhere = _
    rw [hkill]
  · rw [v.asks_askEverywhere.rest]
    exact hk
  · intro m hm hctx
    rw [v.asks_askEverywhere.rest] at hm
    have hnv : (v.meets.map Meet.id).Nodup := hcl.meetIds ▸ hn
    have hmv : v.meet? m.id = some m := State.meet?_of_nodup hnv hm
    obtain ⟨n, hns, hnid⟩ := List.mem_map.mp (hcl.meetIds ▸ List.mem_map_of_mem hm : m.id ∈ s.meets.map Meet.id)
    have hnu : u.meet? m.id = some n := hnid ▸ State.meet?_of_nodup (s := u) hn hns
    have hnctx : n.ctx = ctx := by
      have := hcl.meetCtx m.id
      rw [hnu, show _ = some m from hmv] at this
      exact (Option.some.inj this).symm.trans hctx
    obtain ⟨q, hq, hcut⟩ := State.terminates_meet? (o := .aborted) (code := 0) (s.openMeets ctx) hnu
    cases hmv.symm.trans hq
    rcases hcut with ⟨he, hl⟩ | hcut
    · by_contra hlive
      have hln : n.live = true := by
        rw [Meet.live, he] at hlive
        exact Bool.not_eq_false _ |>.mp hlive
      have hopen : n ∈ s.openMeets ctx := List.mem_filter.mpr ⟨hns, decide_eq_true ⟨hnctx, hln⟩⟩
      rw [hl (hnid ▸ List.mem_map_of_mem hopen)] at hln
      exact Bool.noConfusion hln
    · rcases hcut with e | e <;> rw [Meet.live, e]

end

/-- A filled structure. -/
theorem State.fillTlb_spec (w : State) (tlb : TlbId) (ctx : Nat) (h : Hit) : w.fillTlb tlb ctx h = { w with tlb := (w.fillTlb tlb ctx h).tlb } ∧
    (w.fillTlb tlb ctx h).tlb.head? = some { tlb := tlb, ctx := ctx, base := h.base, size := h.size, leaf := BitVec.ofNat 128 h.leaf } := ⟨rfl, rfl⟩

/-- Settles O50. -/
theorem translationsAndPageRequests : Obligations.TranslationsAndPageRequests := by
  intro s ctx c hc
  refine ⟨fun tlb va => ⟨(s.peeks_walked tlb ctx _).reads, s.walked_tlb tlb ctx _, fun kind h => pageWalk_fault hc h kind⟩, fun tlb va h hw => ?_,
    fun lo size tlbs => shootdown_spec s ctx lo size tlbs, fun gen page a h => pageResponse_stale hc h page a, ?_,
    fun die base n hd hb hn => framePool_spec hc hd hb hn, contextKill_spec hc⟩
  · intro w filled
    have hfill : filled (w.fillTlb tlb ctx h) := w.fillTlb_spec tlb ctx h
    refine ⟨fun kind hk => ⟨_, (pageWalk_hit hc hw kind).trans ?_, hfill⟩, fun kind hk => (pageWalk_hit hc hw kind).trans ?_,
      fun hp => ⟨_, ats_hit hc hw hp, hfill⟩⟩
    · rw [if_pos hk]
    · rw [if_neg (by rw [hk]; nofun)]
  · intro page a id t p ht hctx hst hp hpage hdone hfail htries hheld found
    obtain ⟨v, w, hex, hw, hmem, htold⟩ := pageResponse_spec hc hheld a ht hctx hst hp
    have hidle : ¬(p.page ≠ page ∨ p.done = true ∨ p.failed = true ∨ p.tries = 0) := by
      rw [hdone, hfail]
      simp [hpage, htries]
    rw [PageReq.answered, if_neg hidle] at hmem htold
    have hnone (hf : found = none) : ¬ (c.walk s.mem (s.place t.cl.die) (4096 * page)).isSome = true := by
      rw [show c.walk s.mem (s.place t.cl.die) (4096 * page) = none from hf]
      nofun
    refine ⟨v, w, hex, hw, fun ha => ?_, fun ha hf => ?_, fun ha hf h4 => ?_, fun ha hf h4 => ?_⟩
    · rw [if_pos (decide_eq_false ha)] at hmem
      exact hmem (by simp [PageReq.waits])
    · rw [if_neg (by simp [ha]), if_pos hf] at hmem
      exact hmem (by simp [PageReq.waits])
    · rw [if_neg (by simp [ha]), if_neg (hnone hf), if_pos h4] at hmem
      exact hmem (by simp [PageReq.waits])
    · rw [if_neg (by simp [ha]), if_neg (hnone hf), if_neg (by omega)] at hmem htold
      have htold := htold rfl
      rw [State.pageAsk_eq hc] at htold
      refine ⟨hmem (by simp [PageReq.waits]), fun hr => ?_, fun hg => ?_⟩
      · rwa [if_neg (by rw [Context.walkGuest, hr]; nofun)] at htold
      · rwa [if_pos hg] at htold

end Sys2Proof.Machine
end

section
/-!
SUPPORT. Barrier objects (R245 to R247): their bytes, what wakes, and a unit whose team's heats have been woken.
-/

namespace Sys2Proof.Machine

/-! ### The bytes of an object -/

theorem leNat_leBytes (v n : Nat) : leNat (leBytes v n) = v % 256 ^ n := by
  induction n generalizing v with
  | zero => rw [leBytes, leNat, pow_zero, Nat.mod_one]
  | succ n ih => rw [leBytes, leNat, ih, BitVec.toNat_ofNat, show 256 ^ (n + 1) = 256 * 256 ^ n from Nat.pow_succ', Nat.mod_mul]

/-- The numbers of an object fit their fields (Table 16.5). -/
structure Barrier.Fits (b : Barrier) : Prop where
  low : b.low < 2 ^ 31
  arrived : b.arrived < 2 ^ 16
  target : b.target < 2 ^ 16
  posted : b.posted < 2 ^ 32
  landed : b.landed < 2 ^ 32

theorem Barrier.fits_ofNat (v : Nat) : (Barrier.ofNat v).Fits where
  low := Nat.mod_lt _ (by decide)
  arrived := Nat.mod_lt _ (by decide)
  target := Nat.mod_lt _ (by decide)
  posted := Nat.mod_lt _ (by decide)
  landed := Nat.mod_lt _ (by decide)

theorem Barrier.Fits.evaluate {b : Barrier} (h : b.Fits) : b.evaluate.1.Fits := by
  rw [Barrier.evaluate]
  split
  · exact ⟨h.low, Nat.two_pow_pos 16, h.target, Nat.two_pow_pos 32, Nat.two_pow_pos 32⟩
  · exact h

/-- An object reads back from its bytes. -/
theorem Barrier.ofNat_bytes {b : Barrier} (h : b.Fits) : Barrier.ofNat (leNat b.bytes) = b := by
  obtain ⟨phase, low, arrived, target, posted, landed⟩ := b
  obtain ⟨hlow, harr, htgt, hpost, hland⟩ := h
  dsimp only at hlow harr htgt hpost hland
  have hp : (if phase = true then 1 else 0) < 2 := by split <;> omega
  rw [Barrier.bytes, leNat_leBytes, Nat.mod_eq_of_lt (by dsimp only; omega), Barrier.ofNat]
  simp only [bitsOf, Barrier.mk.injEq]
  refine ⟨?_, by omega, by omega, by omega, by omega, by omega⟩
  cases phase <;> simp <;> omega

/-! ### Local memory -/

section
variable {x z : Site} {l : Loc}

/-- The two local memories of a unit's team, as the unit reaches them. -/
structure Site.SameStore (x z : Site) : Prop where
  u : z.u = x.u
  scr : z.team.scrMem = x.team.scrMem
  csh : z.team.cshMem = x.team.cshMem

theorem Site.SameStore.refl (x : Site) : x.SameStore x := ⟨rfl, rfl, rfl⟩

theorem Site.SameStore.trans {w : Site} (h : x.SameStore z) (k : z.SameStore w) : x.SameStore w := ⟨k.u.trans h.u, k.scr.trans h.scr, k.csh.trans h.csh⟩

theorem Site.SameStore.barrier (h : x.SameStore z) (l : Loc) : z.barrier l = x.barrier l := by
  rw [Site.barrier, Site.barrier]
  cases l with
  | scr o => rw [Site.readLocal, Site.readLocal, h.scr, Site.squad, h.u]; rfl
  | csh o => rw [Site.readLocal, Site.readLocal, h.csh]
  | virt a => rfl

theorem Site.SameStore.localByte (h : x.SameStore z) (l : Loc) : z.localByte l = x.localByte l := by
  cases l with
  | scr o => rw [Site.localByte, Site.localByte, h.scr, Site.squad, h.u]; rfl
  | csh o => rw [Site.localByte, Site.localByte, h.csh]
  | virt a => rfl

theorem Site.SameStore.writeLocal (h : x.SameStore z) (bs : List Byte) (l : Loc) : (x.writeLocal bs l).SameStore (z.writeLocal bs l) := by
  cases l with
  | scr o =>
    refine ⟨h.u, ?_, h.csh⟩
    change z.team.scrMem.modify z.squad _ = x.team.scrMem.modify x.squad _
    rw [h.scr, Site.squad, h.u]
    rfl
  | csh o => exact ⟨h.u, h.scr, congrArg (fun m => Memory.write m o bs) h.csh⟩
  | virt a => exact h

theorem Barrier.length_bytes (b : Barrier) : b.bytes.length = 16 := leBytes_length _ _

/-- A checked address of scratch or shared memory leads there. -/
theorem Site.check_local {i a n k : Nat} {w : Space} (hw : windowOf a = some w) (hs : w = .scratch ∨ w = .shared) (h : x.check i a n k = .ok l) (va : Nat) :
    l ≠ .virt va := by
  rintro rfl
  rw [Site.check, hw] at h
  have hne {p q r : Prop} [Decidable p] [Decidable q] [Decidable r] {c1 c2 c3 : Byte} {m : Loc}
      (h : (if p then Except.error c1 else if q then Except.error c2 else if r then Except.error c3 else Except.ok m) = .ok (Loc.virt va)) : m = .virt va := by
    split at h
    · cases h
    split at h
    · cases h
    split at h
    · cases h
    · exact Except.ok.inj h
  rcases hs with rfl | rfl <;> cases hne h

/-- A barrier address leads into a local memory. -/
theorem Site.barAddress_local {i a : Nat} (h : x.barAddress i a = .ok l) (va : Nat) : l ≠ .virt va := by
  rw [Site.barAddress] at h
  cases hw : windowOf a with
  | none => rw [hw] at h; cases h
  | some w =>
    rw [hw] at h
    cases w with
    | scratch => exact x.check_local hw (.inl rfl) h va
    | shared => exact x.check_local hw (.inr rfl) h va
    | _ => cases h

/-- What has been written to a local memory reads back. -/
theorem Site.readLocal_writeLocal (bs : List Byte) (hx : x.team.MemOk) (hl : ∀ va, l ≠ .virt va) (hs : ∀ o, l = .scr o → x.squad < x.team.scrMem.length) :
    (x.writeLocal bs l).readLocal bs.length l = bs := by
  cases l with
  | virt va => exact absurd rfl (hl va)
  | csh o => exact Memory.read_write bs x.team.cshMem o hx.1
  | scr o =>
    have hlt := hs o rfl
    have hget : (x.team.scrMem.modify x.squad fun m => Memory.write m o bs).getD x.squad [] = Memory.write x.team.scrMem[x.squad] o bs := by
      rw [List.getD_eq_getElem?_getD, List.getElem?_modify_eq, List.getElem?_eq_getElem hlt, Option.map_eq_map, Option.map_some, Option.getD_some]
    exact (congrArg (fun m => Memory.read m o bs.length) hget).trans (Memory.read_write bs _ o (hx.2 _ (List.getElem_mem hlt)))

/-- A byte beside what has been written. -/
theorem Site.localByte_writeLocal {k : Loc} (bs : List Byte) (hk : l.apart bs.length k) : (x.writeLocal bs l).localByte k = x.localByte k := by
  cases k with
  | virt va => rfl
  | csh c =>
    cases l with
    | virt va => rfl
    | scr o => rfl
    | csh o => exact Memory.get_write_other _ _ _ _ (hk o rfl)
  | scr c =>
    cases l with
    | virt va => rfl
    | csh o => rfl
    | scr o =>
      change Memory.get ((x.team.scrMem.modify x.squad fun m => Memory.write m o bs).getD x.squad []) c = Memory.get (x.team.scrMem.getD x.squad []) c
      rw [List.getD_eq_getElem?_getD, List.getD_eq_getElem?_getD, List.getElem?_modify_eq]
      cases x.team.scrMem[x.squad]? with
      | none => rfl
      | some m => exact Memory.get_write_other _ _ _ _ (hk o rfl)

/-- An object that has been written is the one that stands there. -/
theorem Site.barrier_writeLocal {b : Barrier} (hb : b.Fits) (hx : x.team.MemOk) (hl : ∀ va, l ≠ .virt va)
    (hs : ∀ o, l = .scr o → x.squad < x.team.scrMem.length) : (x.writeLocal b.bytes l).barrier l = b := by
  have h := Site.readLocal_writeLocal b.bytes hx hl hs
  rw [b.length_bytes] at h
  rw [Site.barrier, h, Barrier.ofNat_bytes hb]

end

/-! ### Units whose team's heats change with them -/

section
variable {s t : State} {x z w y : Site} {is : List Nat} {g : Guard} {us : List Use}

theorem Site.heat?_writeLocal (z : Site) (bs : List Byte) (l : Loc) (w : Who) : (z.writeLocal bs l).team.heat? w = z.team.heat? w := by
  cases l <;> cases w <;> rfl

theorem Site.heat?_wake (z : Site) (a : Nat) (p : Bool → Bool) (w : Who) : (z.wake a p).team.heat? w = (z.team.heat? w).map (Heat.wake a p) := by
  cases w with
  | pacer => rfl
  | heat q i =>
    change (z.team.heats.map (Heat.wake a p)).find? _ = _
    rw [List.find?_map]
    rfl

/-- An object that is put back leaves the heats of the team where they are. -/
theorem Site.heat?_putBarrier (z : Site) (a : Nat) (l : Loc) (b : Barrier) {w : Who} {k : Heat} (h : z.team.heat? w = some k) :
    ∃ j, (z.putBarrier a l b).team.heat? w = some j ∧ j.squad = k.squad ∧ j.idx = k.idx := by
  rw [Site.putBarrier]
  split
  · exact ⟨k.wake a _, by rw [Site.heat?_wake, Site.heat?_writeLocal, h]; rfl, rfl, rfl⟩
  · exact ⟨k, by rw [Site.heat?_writeLocal, h], rfl, rfl⟩

theorem Site.writeLocal_rest (z : Site) (bs : List Byte) (l : Loc) :
    (z.writeLocal bs l).u = z.u ∧ (z.writeLocal bs l).team.id = z.team.id ∧ (z.writeLocal bs l).heat = z.heat := by
  cases l <;> exact ⟨rfl, rfl, rfl⟩

theorem Site.putBarrier_rest (z : Site) (a : Nat) (l : Loc) (b : Barrier) : (z.putBarrier a l b).u = z.u ∧ (z.putBarrier a l b).team.id = z.team.id ∧
    (z.putBarrier a l b).heat = { z.heat with bars := (z.putBarrier a l b).heat.bars } := by
  have hw (bs : List Byte) := z.writeLocal_rest bs l
  rw [Site.putBarrier]
  split
  next c _ =>
    obtain ⟨hu, hid, hh⟩ := hw c.bytes
    refine ⟨hu, hid, ?_⟩
    rw [Site.wake, Heat.wake, hh]
  next c _ =>
    obtain ⟨hu, hid, hh⟩ := hw c.bytes
    exact ⟨hu, hid, by rw [hh]⟩

/-- The unit beside the heats of another unit's team. -/
def Site.beside (z x : Site) : Site := { z with team := { z.team with heats := x.team.heats, pacer := x.team.pacer } }

theorem Site.beside_after_heat (z x : Site) (s : State) : ((z.beside x).after s).heat = (z.after s).heat := by
  change ((z.beside x).advance s.cur.batch s.cur.len).heat = (z.advance s.cur.batch s.cur.len).heat
  unfold Site.advance Site.updFibres
  generalize s.cur.batch = b
  have hf : ∀ (b : List Nat) (z : Site) (f : Fibre → Fibre), (b.foldl (fun y i => y.updFibre i f) (z.beside x)).heat = (b.foldl (fun y i => y.updFibre i f) z).heat := by
    intro b
    induction b with
    | nil => exact fun _ _ => rfl
    | cons i b ih => exact fun z f => ih (z.updFibre i f) f
  exact hf b z _

/-- The unit z is the unit x at an issue, but for what its team, its own heat and the other heats of the team hold beside fibres and registers. -/
structure State.Serves (s : State) (x z : Site) : Prop where
  u : z.u = x.u
  id : z.team.id = x.team.id
  xsets : z.team.xsets = x.team.xsets
  squad : z.heat.squad = x.heat.squad
  idx : z.heat.idx = x.heat.idx
  fibres : z.heat.fibres = (s.account x).2.heat.fibres
  heats : ∀ w k, x.team.heat? w = some k → ∃ j, z.team.heat? w = some j ∧ j.squad = k.squad ∧ j.idx = k.idx

namespace State.Serves

theorem of_issued (h : s.Issued x z) : s.Serves x z where
  u := h.u
  id := h.id
  xsets := h.xsets
  squad := h.squad
  idx := h.idx
  fibres := h.fibres
  heats w k hk := ⟨k, by cases w <;> (rw [Team.heat?] at hk ⊢; first | rw [h.heats]; exact hk | rw [h.pacer]; exact hk), rfl, rfl⟩

theorem orders (h : s.Serves x z) (k : z.Orders w) : s.Serves x w where
  u := k.u.trans h.u
  id := k.id.trans h.id
  xsets := by rw [k.rest]; exact h.xsets
  squad := by rw [k.rest]; exact h.squad
  idx := by rw [k.rest]; exact h.idx
  fibres := by rw [k.rest]; exact h.fibres
  heats v q hq := by
    obtain ⟨j, hj, hjq⟩ := h.heats v q hq
    refine ⟨j, ?_, hjq⟩
    rw [← hj, k.rest]
    cases v <;> rfl

theorem writeLocal (h : s.Serves x z) (bs : List Byte) (l : Loc) : s.Serves x (z.writeLocal bs l) := by
  have hh (w : Who) := z.heat?_writeLocal bs l w
  cases l with
  | scr o | csh o => exact ⟨h.u, h.id, h.xsets, h.squad, h.idx, h.fibres, fun w => by rw [hh]; exact h.heats w⟩
  | virt va => exact h

theorem wake (h : s.Serves x z) (a : Nat) (p : Bool → Bool) : s.Serves x (z.wake a p) where
  u := h.u
  id := h.id
  xsets := h.xsets
  squad := h.squad
  idx := h.idx
  fibres := h.fibres
  heats v k hk := by
    obtain ⟨j, hj, hjs, hji⟩ := h.heats v k hk
    exact ⟨j.wake a p, by rw [Site.heat?_wake, hj]; rfl, hjs, hji⟩

theorem putBarrier (h : s.Serves x z) (a : Nat) (l : Loc) (b : Barrier) : s.Serves x (z.putBarrier a l b) := by
  rw [Site.putBarrier]
  split
  · exact (h.writeLocal _ l).wake a _
  · exact h.writeLocal _ l

theorem unwait (h : s.Serves x z) (pc : Pc) : s.Serves x { z with heat := z.heat.unwait pc } :=
  ⟨h.u, h.id, h.xsets, h.squad, h.idx, h.fibres, h.heats⟩

theorem issued (h : s.Serves x z) : s.Issued x (z.beside x) where
  u := h.u
  id := h.id
  heats := rfl
  pacer := rfl
  xsets := h.xsets
  squad := h.squad
  idx := h.idx
  fibres := h.fibres

theorem slot (h : s.Serves x z) (k r : Nat) : z.slot k r = x.slot k r := h.issued.slot k r

theorem seed (h : s.Serves x z) (k : Nat) : z.seed k = x.seed k := h.issued.seed k

end State.Serves

/-- A unit put back into the package, whose team is there. -/
theorem State.put_found {o : Team} {k : Heat} {u : UnitRef} (ho : t.team? u.team = some o) (hu : z.u = u) (hid : z.team.id = u.team)
    (hk : z.team.heat? u.who = some k) (hs : z.heat.squad = k.squad) (hi : z.heat.idx = k.idx) :
    (t.put z).site? u = some z.putBack ∧ ∀ id, id ≠ u.team → (t.put z).team? id = t.team? id := by
  subst hu
  have hvid : (z.team.setHeat z.u.who z.heat).id = z.u.team := by rw [Team.setHeat_eq]; exact hid
  have hheat : (z.team.setHeat z.u.who z.heat).heat? z.u.who = some z.heat := Team.heat?_setHeat _ _ _ k hk hs hi
  refine ⟨?_, fun id hne => State.team?_setTeam_other _ _ _ (hvid ▸ hne)⟩
  have hteam := State.team?_setTeam t (z.team.setHeat z.u.who z.heat) o (hvid ▸ ho)
  rw [hvid] at hteam
  rw [State.site?, State.put, hteam, Option.bind_some, hheat]
  rfl

/-- So is one whose batch has advanced. -/
theorem State.done_found {o : Team} {k : Heat} (hc : t.cur = s.cur) (ho : t.team? s.cur.u.team = some o) (hu : z.u = s.cur.u) (hid : z.team.id = s.cur.u.team)
    (hk : z.team.heat? s.cur.u.who = some k) (hs : z.heat.squad = k.squad) (hi : z.heat.idx = k.idx) :
    (t.done z).site? s.cur.u = some (z.after s) ∧ ∀ id, id ≠ s.cur.u.team → (t.done z).team? id = t.team? id := by
  have hadv : z.advance s.cur.batch s.cur.len = { z with heat := { z.heat with fibres := (z.advance s.cur.batch s.cur.len).heat.fibres } } :=
    Site.updFibres_eq _ _ _
  rw [show t.done z = t.put (z.advance s.cur.batch s.cur.len) by rw [State.done, hc]]
  exact State.put_found ho (by rw [hadv]; exact hu) (by rw [hadv]; exact hid) (by rw [hadv]; exact hk) (by rw [hadv]; exact hs) (by rw [hadv]; exact hi)

/-- Writing to a unit that serves, in a package whose teams stand. -/
theorem State.Serves.writes (hz : s.Serves x z) (h : Issues s x is g us) (hc : t.cur = s.cur) (ht : t.teams = s.teams) {f : Site → Nat → Site → Site}
    (ef : Effect) (hf : ∀ i ∈ is, ∀ y, f z i y = y.write ef i) (hd : ∀ i ∈ is, ∀ k < ef.n, x.Has i (ef.d + k)) (h0 : ef.bit.isSome → ∀ i ∈ is, x.Has i 0) :
    ∃ y, regEffect f t z is = .next (t.done y) ∧ (t.done y).site? s.cur.u = some (y.after s) ∧
      (∀ id, id ≠ x.team.id → (t.done y).team? id = s.team? id) ∧ Advanced s x (y.after s) ∧ Wrote x (y.after s) is ef ∧ z.SameBut y := by
  have hfold : is.foldl (fun y i => f z i y) z = is.foldl (fun y i => y.write ef i) z := List.foldl_ext _ _ _ fun y i hi => hf i hi y
  have hsb : z.SameBut (is.foldl (fun y i => y.write ef i) z) := sameBut_fold (fun i y => y.write ef i) (fun i y => y.sameBut_write ef i) is _
  have hw : Wrote z _ is ef := wrote_fold is ef z (fun i hi k hj => hz.issued.has (hd i hi k hj)) (fun hb i hi => hz.issued.has (h0 hb i hi))
    (fun k hk => hz.issued.live h hk) h.nodup
  obtain ⟨hxu, hteam, hheat, hxid⟩ := State.site?_some h.here
  obtain ⟨j, hj, hjs, hji⟩ := hz.heats _ _ hheat
  generalize is.foldl (fun y i => y.write ef i) z = y at hfold hsb hw
  have hover : (z.beside x).SameBut (y.beside x) := ⟨by rw [Site.beside, hsb.rest]; rfl, hsb.fibres, hsb.holdsX, hsb.isSome⟩
  have hto : t.team? s.cur.u.team = some x.team := by rw [State.team?, ht]; exact hteam
  obtain ⟨hfound, hothers⟩ := State.done_found (t := t) (z := y) hc hto (by rw [hsb.rest]; exact hz.u.trans hxu) (by rw [hsb.rest]; exact hz.id.trans hxid)
    (by rw [← hj, hsb.rest]; cases s.cur.u.who <;> rfl) (by rw [hsb.rest]; exact hz.squad.trans hjs.symm) (by rw [hsb.rest]; exact hz.idx.trans hji.symm)
  have hadv : Advanced s x (y.after s) := fun k => by
    have hk := (hz.issued.keeps.sameBut hover).advanced h.once k
    rwa [Site.beside_after_heat] at hk
  refine ⟨y, by rw [regEffect, hfold], hfound, fun id hne => ?_, hadv,
    (hw.after h.once).congr hz.slot hz.seed, hsb⟩
  rw [hothers id (hxid ▸ hne), State.team?, ht]
  rfl

end

/-! ### A unit whose object has been put back (R247) -/

section
variable {x z w : Site} {a : Nat} {l : Loc} {b : Barrier}

/-- Every wait of a heat on an object has been woken. -/
def Heat.Awake (h : Heat) (a : Nat) : Prop := ∀ w ∈ h.bars, w.obj = a → w.woken = true

theorem Heat.awake_wake (h : Heat) (a : Nat) : (h.wake a fun _ => true).Awake a := by
  intro w hw ha
  obtain ⟨v, -, rfl⟩ := List.mem_map.mp hw
  split at ha
  next hv => rw [if_pos hv]
  next hv => exact absurd ⟨ha, rfl⟩ hv

theorem Heat.Awake.wake {h : Heat} (ha : h.Awake a) (c : Nat) (p : Bool → Bool) : (h.wake c p).Awake a := by
  intro w hw hwa
  obtain ⟨v, hv, rfl⟩ := List.mem_map.mp hw
  split
  · rfl
  next hn => rw [if_neg hn] at hwa; exact ha v hv hwa

/-- The unit z is the unit x whose object at a location is what the bank has evaluated, its waiters woken if the phase has completed. -/
structure Site.Rung (x z : Site) (a : Nat) (l : Loc) (r : Barrier × Bool) : Prop where
  store : (x.writeLocal r.1.bytes l).SameStore z
  woken : r.2 = true → (∀ h ∈ z.team.heats, h.Awake a) ∧ z.heat.Awake a

theorem Site.SameStore.wake (h : x.SameStore z) (a : Nat) (p : Bool → Bool) : x.SameStore (z.wake a p) := ⟨h.u, h.scr, h.csh⟩

theorem Site.SameStore.putBarrier (h : x.SameStore z) (a : Nat) (l : Loc) (b : Barrier) : x.Rung (z.putBarrier a l b) a l b.evaluate := by
  rw [Site.putBarrier]
  rcases b.evaluate with ⟨c, done⟩
  cases done with
  | true =>
    refine ⟨(h.writeLocal _ l).wake a _, fun _ => ⟨fun k hk => ?_, Heat.awake_wake _ a⟩⟩
    obtain ⟨j, -, rfl⟩ := List.mem_map.mp hk
    exact j.awake_wake a
  | false => exact ⟨h.writeLocal _ l, nofun⟩

namespace Site.Rung

variable {r : Barrier × Bool}

theorem wake (h : x.Rung z a l r) (c : Nat) (p : Bool → Bool) : x.Rung (z.wake c p) a l r where
  store := h.store.wake c p
  woken hr := by
    obtain ⟨hall, hown⟩ := h.woken hr
    refine ⟨fun k hk => ?_, hown.wake c p⟩
    obtain ⟨j, hj, rfl⟩ := List.mem_map.mp hk
    exact (hall j hj).wake c p

theorem unwait (h : x.Rung z a l r) (pc : Pc) : x.Rung { z with heat := z.heat.unwait pc } a l r where
  store := ⟨h.store.u, h.store.scr, h.store.csh⟩
  woken hr := ⟨(h.woken hr).1, fun w hw => (h.woken hr).2 w (List.mem_filter.mp hw).1⟩

theorem orders (h : x.Rung z a l r) (k : z.Orders w) : x.Rung w a l r where
  store := ⟨k.u.trans h.store.u, by rw [k.rest]; exact h.store.scr, by rw [k.rest]; exact h.store.csh⟩
  woken hr := by rw [k.rest]; exact h.woken hr

theorem sameBut (h : x.Rung z a l r) (k : z.SameBut w) : x.Rung w a l r where
  store := ⟨by rw [k.rest]; exact h.store.u, by rw [k.rest]; exact h.store.scr, by rw [k.rest]; exact h.store.csh⟩
  woken hr := by rw [k.rest]; exact h.woken hr

theorem after (h : x.Rung z a l r) (s : State) : x.Rung (z.after s) a l r where
  store := ⟨(z.after_u s).trans h.store.u, by rw [Site.after_team]; exact h.store.scr, by rw [Site.after_team]; exact h.store.csh⟩
  woken hr := by
    obtain ⟨hall, hown⟩ := h.woken hr
    have hown' : (z.after s).heat.Awake a := by rw [Site.after_heat]; exact hown
    refine ⟨fun k hk => ?_, hown'⟩
    let v := z.advance s.cur.batch s.cur.len
    have hv : v.team = z.team := by rw [show v = _ from Site.updFibres_eq _ _ _]
    change k ∈ (v.team.setHeat v.u.who v.heat).heats at hk
    rw [hv] at hk
    cases hw : v.u.who with
    | pacer => rw [hw] at hk; exact hall k hk
    | heat q i =>
      rw [hw] at hk
      obtain ⟨j, hj, rfl⟩ := List.mem_map.mp hk
      split
      · exact hown'
      · exact hall j hj

theorem barrier (h : x.Rung z a l r) (hb : r.1.Fits) (hx : x.team.MemOk) (hl : ∀ va, l ≠ .virt va)
    (hs : ∀ o, l = .scr o → x.squad < x.team.scrMem.length) : z.barrier l = r.1 :=
  (h.store.barrier l).trans (Site.barrier_writeLocal hb hx hl hs)

theorem localByte (h : x.Rung z a l r) {k : Loc} (hk : l.apart 16 k) : z.localByte k = x.localByte k :=
  (h.store.localByte k).trans (Site.localByte_writeLocal _ (by rw [Barrier.length_bytes]; exact hk))

end Site.Rung

end

end Sys2Proof.Machine
end

section
/-!
SUPPORT. The barrier instructions (R245 to R247).
-/

namespace Sys2Proof.Machine

section
variable {s t u : State} {x z w : Site} {is : List Nat} {e : Ext} {us : List Use} {l : Loc} {b : Barrier} {a : Nat}

/-! ### What stands beside an issue -/

/-- The package t is s but for charges, copies and what units have seen. -/
structure State.Around (s t : State) : Prop where
  rest : t = { s with meets := t.meets, lines := t.lines, oldParts := t.oldParts, wide := t.wide }

theorem State.Around.trans (h : s.Around t) (k : t.Around u) : s.Around u where
  rest := by
    have hk := k.rest
    rw [h.rest] at hk
    exact hk

theorem State.around_account (s : State) (x : Site) : s.Around (s.account x).1 := ⟨by rw [State.account_fst]⟩

theorem State.around_acquireAt (s : State) (x : Site) (sc : Scope) : s.Around (s.acquireAt x sc).1 := ⟨by rw [State.acquireAt_rest]⟩

theorem State.passOn_rest (s : State) (x : Site) : s.passOn x = { s with wide := (s.passOn x).wide } := by
  rw [State.passOn]
  split <;> rfl

theorem State.offerParts_rest (s : State) (x : Site) (sc : Scope) : s.offerParts x sc = { s with oldParts := (s.offerParts x sc).oldParts } := by
  rw [State.offerParts]
  split <;> rfl

theorem State.around_releaseTm (s : State) (x : Site) : s.Around (s.releaseAt x .tm).1 := by
  change s.Around ((s.offerParts x .tm).passOn x)
  have hoffer : s.Around (s.offerParts x .tm) := ⟨by rw [State.offerParts_rest]⟩
  exact hoffer.trans ⟨by rw [State.passOn_rest]⟩

/-- A release to the team waits for acknowledgements alone. -/
theorem State.mayReleaseTm (h : x.heat.unacked = 0) : s.mayRelease x .tm where
  acked := h
  summed _ hl := absurd hl List.not_mem_nil
  alone := rfl
  after := h

theorem State.account_store (s : State) (x : Site) : x.SameStore (s.account x).2 :=
  ⟨account_u s x, by rw [State.account_snd], by rw [State.account_snd]⟩

theorem Site.store_putBack (z : Site) : z.SameStore z.putBack := ⟨rfl, by rw [Site.putBack, Team.setHeat_eq], by rw [Site.putBack, Team.setHeat_eq]⟩

theorem Site.Orders.store (h : z.Orders w) : z.SameStore w := ⟨h.u, by rw [h.rest], by rw [h.rest]⟩

/-! ### An instruction on an object -/

theorem account_barAddress (s : State) (x : Site) (i a : Nat) : (s.account x).2.barAddress i a = x.barAddress i a := by
  rw [Site.barAddress, Site.barAddress, account_check]

theorem barOp_eq {v0 : Bool} (h : Issues s x is e.guard us) (hv : v0 = true → ∀ i ∈ is, x.Knows i 0)
    (hl : x.barAddress (is.headD 0) (x.val (is.headD 0) e.a.toNat 2) = .ok l) (f : State → Site → List Nat → Nat → Loc → Out) :
    barOp e { uses := us, v0 := v0, leader := false } s f = f (s.account x).1 (s.account x).2 is (x.val (is.headD 0) e.a.toNat 2) l := by
  rw [barOp, syncIssue_eq h hv]
  simp only [account_val, account_barAddress, hl]

theorem account_perIssueD (s : State) (x : Site) (is : List Nat) (e : Ext) : (s.account x).2.perIssueD is e = x.val (is.headD 0) e.d.toNat 1 := account_val s x _ _ _

theorem account_barrier (s : State) (x : Site) (l : Loc) : (s.account x).2.barrier l = x.barrier l := (s.account_store x).barrier l

/-- What a barrier instruction that goes on leaves (R246, R247). -/
def BarrierDone (s : State) (x : Site) (is : List Nat) (a : Nat) (l : Loc) (obj : Barrier) (ef : Effect) (o : Out) : Prop :=
  ∃ t y, o = .next t ∧ t.site? s.cur.u = some y ∧
    t = { s with teams := t.teams, meets := t.meets, lines := t.lines, oldParts := t.oldParts, wide := t.wide } ∧
    (∀ id, id ≠ x.team.id → t.team? id = s.team? id) ∧ Advanced s x y ∧ Wrote x y is ef ∧
    y.barrier l = obj.evaluate.1 ∧ (∀ k, l.apart 16 k → y.localByte k = x.localByte k) ∧
    (obj.evaluate.2 = true → ∀ h ∈ y.team.heats, ∀ w ∈ h.bars, w.obj = a → w.woken = true)

variable (h : Issues s x is e.guard us) (hm : s.MemOk) (hl : ∀ va, l ≠ .virt va) (hs : ∀ o, l = .scr o → x.squad < x.team.scrMem.length)
include h hm hl hs

/-- A unit whose object has been put back writes its results and goes on. -/
theorem barrier_done (hu : s.Around u) (hz : s.Serves x z) (hb : b.Fits) (hr : x.Rung z a l b.evaluate) {f : Site → Nat → Site → Site} (ef : Effect)
    (hf : ∀ i ∈ is, ∀ y, f z i y = y.write ef i) (hd : ∀ i ∈ is, ∀ k < ef.n, x.Has i (ef.d + k)) (h0 : ef.bit.isSome → ∀ i ∈ is, x.Has i 0) :
    BarrierDone s x is a l b ef (regEffect f u z is) := by
  have hx : x.team.MemOk := hm.2 _ (List.mem_of_find?_eq_some (State.site?_some h.here).2.1)
  obtain ⟨y, he, hsite, hother, hadv, hw, hsb⟩ := hz.writes (t := u) h (by rw [hu.rest]) (by rw [hu.rest]) ef hf hd h0
  have hy := (hr.sameBut hsb).after s
  refine ⟨_, _, he, hsite, ?_, hother, hadv, hw, hy.barrier hb.evaluate hx hl hs, fun k hk => hy.localByte hk, fun hc => (hy.woken hc).1⟩
  rw [hu.rest]
  rfl

/-- One that writes nothing goes on. -/
theorem barrier_quiet (hu : s.Around u) (hz : s.Serves x z) (hb : b.Fits) (hr : x.Rung z a l b.evaluate) :
    BarrierDone s x is a l b nothing (.next (u.done z)) := by
  have hd := barrier_done h hm hl hs hu hz hb hr (f := fun _ _ y => y) nothing (fun _ _ _ => rfl) (fun _ _ k hk => absurd hk (Nat.not_lt_zero k)) nofun
  rwa [regEffect, List.foldl_fixed' (fun _ => rfl)] at hd

omit h hm hl hs in
theorem served_putBarrier (hw : s.Issued x w) (hst : x.SameStore w) (a : Nat) (l : Loc) (b : Barrier) :
    s.Serves x (w.putBarrier a l b) ∧ x.Rung (w.putBarrier a l b) a l b.evaluate :=
  ⟨(State.Serves.of_issued hw).putBarrier a l b, hst.putBarrier a l b⟩

omit h hm hl hs in
theorem bit_zero (v : Nat) : bitsOf v 0 1 = v % 2 := by rw [bitsOf, pow_zero, Nat.div_one, pow_one]

omit h hm hl hs in
theorem account_bars (s : State) (x : Site) : (s.account x).2.heat.bars = x.heat.bars := by rw [State.account_snd]

omit h hm hl hs in
theorem account_waitAt (s : State) (x : Site) (pc : Pc) (a : Nat) : (s.account x).2.heat.waitAt pc a = x.heat.waitAt pc a := by
  rw [Heat.waitAt, account_bars, Heat.waitAt]

omit h hm hl hs in
theorem decide_differ (p : Bool) (q : Prop) [Decidable q] : decide ((p = true) ≠ q) = decide (p ≠ decide q) := by
  by_cases hq : q <;> cases p <;> simp [hq]

omit h hm hl hs in
/-- An acquire at the team's scope, if there is one, leaves a unit that serves. -/
theorem acquired_spec {r : Barrier × Bool} (ok : Bool) (hu : s.Around u) (hz : s.Serves x z) (hr : x.Rung z a l r) :
    let p := if ok = true then u.acquireAt z .tm else (u, z)
    s.Around p.1 ∧ s.Serves x p.2 ∧ x.Rung p.2 a l r := by
  intro p
  cases ok with
  | true =>
    obtain ⟨-, ho⟩ := u.acquireAt_spec z .tm
    rw [show p = u.acquireAt z .tm from if_pos rfl]
    exact ⟨hu.trans (State.around_acquireAt _ _ _), hz.orders ho, hr.orders ho⟩
  | false => exact ⟨hu, hz, hr⟩

omit h hm hl hs in
theorem State.passBarrier_eq (s : State) (x : Site) : s.passBarrier x =
    .next ((s.acquireAt { x with heat := x.heat.unwait s.cur.pc } .tm).1.done (s.acquireAt { x with heat := x.heat.unwait s.cur.pc } .tm).2) := rfl

omit h hm hl hs in
/-- What a wait leaves of its unit: its bars, its fibres' program counters and its team's memories stand. -/
theorem State.hold_eq (s : State) (z : Site) : ∃ v, s.wait z false true = .next (s.put v) ∧ v.u = z.u ∧ v.team = z.team ∧
    v.heat.squad = z.heat.squad ∧ v.heat.idx = z.heat.idx ∧ v.heat.bars = z.heat.bars ∧
    (s.cur.batch.Nodup → ∀ n, (v.heat.fibre? n).map Fibre.pc = (z.heat.fibre? n).map Fibre.pc) := by
  let w : Site := { z with heat := { z.heat with issued := z.heat.issued + 1, waiting := true, long := true, tried := true } }
  have heq := w.updFibres_eq s.cur.batch fun f => { f with last := z.heat.issued + 1, waits := f.waits || false }
  refine ⟨w.updFibres s.cur.batch fun f => { f with last := z.heat.issued + 1, waits := f.waits || false }, rfl, ?_, ?_, ?_, ?_, ?_, fun hn n => ?_⟩
  · rw [heq]
  · rw [heq]
  · rw [heq]
  · rw [heq]
  · rw [heq]
  · have heach := Site.each_foldl (f := fun (_ : Nat) (f : Fibre) => { f with last := z.heat.issued + 1, waits := f.waits || false })
      (fun y i => y.each_updFibre i _) hn w
    rw [Site.updFibres, heach.fibres, Option.map_map]
    congr 1
    funext f
    rw [Function.comp_apply]
    split <;> rfl

/-! ### The instructions -/

section
variable (hadd : x.barAddress (is.headD 0) (x.val (is.headD 0) e.a.toNat 2) = .ok l)
include hadd

theorem barInit_spec (hd : 1 ≤ x.val (is.headD 0) e.d.toNat 1 ∧ x.val (is.headD 0) e.d.toNat 1 ≤ 65535) (hus : us = [readD e 1, readA e 2]) :
    BarrierDone s x is (x.val (is.headD 0) e.a.toNat 2) l
      { phase := false, low := 0, arrived := 0, target := x.val (is.headD 0) e.d.toNat 1, posted := 0, landed := 0 } nothing (opBarInit e s) := by
  subst hus
  obtain ⟨hz, hr⟩ := served_putBarrier (s.issued_account x) (s.account_store x) (x.val (is.headD 0) e.a.toNat 2) l
    { phase := false, low := 0, arrived := 0, target := x.val (is.headD 0) e.d.toNat 1, posted := 0, landed := 0 }
  have he := barOp_eq (v0 := false) h nofun hadd fun s x is a l =>
    let d := x.perIssueD is e
    if d < 1 ∨ 65535 < d then s.trap x is cause.protection (is.headD 0) 0
    else .next (s.done ((x.putBarrier a l { phase := false, low := 0, arrived := 0, target := d, posted := 0, landed := 0 }).wake a fun par => par))
  have hop : opBarInit e s = _ := he
  rw [hop]
  dsimp only
  rw [account_perIssueD, if_neg (by omega)]
  exact barrier_quiet h hm hl hs (s.around_account x) (hz.wake _ _) ⟨by norm_num, by norm_num, by dsimp only; omega, by norm_num, by norm_num⟩ (hr.wake _ _)

theorem barExp_spec (hp : (x.barrier l).posted + x.val (is.headD 0) e.d.toNat 1 ≤ 2 ^ 32 - 1) (hus : us = [readD e 1, readA e 2]) :
    BarrierDone s x is (x.val (is.headD 0) e.a.toNat 2) l { x.barrier l with posted := (x.barrier l).posted + x.val (is.headD 0) e.d.toNat 1 } nothing
      (opBarExp e s) := by
  subst hus
  obtain ⟨hz, hr⟩ := served_putBarrier (s.issued_account x) (s.account_store x) (x.val (is.headD 0) e.a.toNat 2) l
    { x.barrier l with posted := (x.barrier l).posted + x.val (is.headD 0) e.d.toNat 1 }
  rw [opBarExp, demand, barOp_eq (v0 := false) h nofun hadd]
  dsimp only
  rw [account_perIssueD, account_barrier, if_neg (by omega)]
  have hb := Barrier.fits_ofNat (leNat (x.readLocal 16 l))
  exact barrier_quiet h hm hl hs (s.around_account x) hz ⟨hb.low, hb.arrived, hb.target, by change _ + _ < _; omega, hb.landed⟩ hr

theorem barArv_spec (hp : (x.barrier l).arrived + (e.imm.toNat + 1) ≤ (x.barrier l).target) (hk : x.heat.unacked = 0) (hus : us = [useD e 1, readA e 2]) :
    BarrierDone s x is (x.val (is.headD 0) e.a.toNat 2) l { x.barrier l with arrived := (x.barrier l).arrived + (e.imm.toNat + 1) }
      (toD32 e fun _ => if (x.barrier l).phase then 1 else 0) (opBarArv e s) := by
  subst hus
  obtain ⟨-, ho⟩ := (s.account x).1.releaseAt_spec (s.account x).2 .tm
  have hst : x.SameStore ((s.account x).1.releaseAt (s.account x).2 .tm).2 := (s.account_store x).trans ho.store
  obtain ⟨hz, hr⟩ := served_putBarrier ((s.issued_account x).orders ho) hst (x.val (is.headD 0) e.a.toNat 2) l
    { x.barrier l with arrived := (x.barrier l).arrived + (e.imm.toNat + 1) }
  rw [opBarArv, demand, barOp_eq (v0 := false) h nofun hadd]
  dsimp only
  rw [account_barrier, if_neg (show ¬ (x.barrier l).target < (x.barrier l).arrived + (e.imm.toNat + 1) by omega),
    releaseThen_eq h.here (State.mayReleaseTm hk)]
  rw [hst.barrier]
  have hb := Barrier.fits_ofNat (leNat (x.readLocal 16 l))
  have htgt : (x.barrier l).target < 2 ^ 16 := hb.target
  have hfit : (x.barrier l).arrived + (e.imm.toNat + 1) < 2 ^ 16 := by omega
  exact barrier_done h hm hl hs ((s.around_account x).trans (State.around_releaseTm _ _)) hz
    (b := { x.barrier l with arrived := (x.barrier l).arrived + (e.imm.toNat + 1) }) ⟨hb.low, hfit, hb.target, hb.posted, hb.landed⟩ hr
    (f := fun _ i y => y.dst32 i e (if (x.barrier l).phase then 1 else 0)) (toD32 e fun _ => if (x.barrier l).phase then 1 else 0) (fun _ _ _ => rfl)
    (fun i hi j hj => h.fields (useD e 1) List.mem_cons_self i hi j hj) nofun

theorem barTry_spec (hus : us = [readV0, readD e 1, readA e 2]) :
    BarrierDone s x is (x.val (is.headD 0) e.a.toNat 2) l (x.barrier l)
      (toG e.c fun _ => decide ((x.barrier l).evaluate.1.phase ≠ decide (x.val (is.headD 0) e.d.toNat 1 % 2 = 1))) (opBarTry e s) := by
  subst hus
  have hb : (x.barrier l).Fits := Barrier.fits_ofNat _
  have hx : x.team.MemOk := hm.2 _ (List.mem_of_find?_eq_some (State.site?_some h.here).2.1)
  obtain ⟨hz, hr⟩ := served_putBarrier (s.issued_account x) (s.account_store x) (x.val (is.headD 0) e.a.toNat 2) l (x.barrier l)
  have hv : ∀ i ∈ is, x.Knows i 0 := fun i hi => h.values readV0 List.mem_cons_self rfl i hi 0 Nat.one_pos
  have he := barOp_eq (v0 := true) (h.mono fun u hu => List.mem_cons_of_mem _ hu) (fun _ => hv) hadd fun s x is a l =>
    let y := x.putBarrier a l (x.barrier l)
    let ok : Bool := (y.barrier l).phase ≠ (bitsOf (x.perIssueD is e) 0 1 = 1)
    let r := if ok then s.acquireAt y .tm else (s, y)
    regEffect (fun _ i y => y.setGuard i (e.c.toNat % 32) ok) r.1 r.2 is
  have hop : opBarTry e s = _ := he
  rw [hop]
  dsimp only
  rw [account_perIssueD, account_barrier, hr.barrier hb.evaluate hx hl hs]
  rw [bit_zero, decide_differ]
  generalize decide ((x.barrier l).evaluate.1.phase ≠ decide (x.val (is.headD 0) e.d.toNat 1 % 2 = 1)) = ok
  obtain ⟨hu, hz, hr⟩ := acquired_spec ok (s.around_account x) hz hr
  generalize (if ok = true then _ else _ : State × Site) = r at hu hz hr ⊢
  exact barrier_done h hm hl hs hu hz hb hr (f := fun _ i y => y.setGuard i (e.c.toNat % 32) ok) (toG e.c fun _ => ok) (fun _ _ _ => rfl)
    (fun _ _ k hk => absurd hk (Nat.not_lt_zero k)) fun _ i hi => (hv i hi).1

theorem barPass_spec (hp : (x.barrier l).evaluate.1.phase ≠ decide (x.val (is.headD 0) e.d.toNat 1 % 2 = 1))
    (hw : x.heat.waitAt s.cur.pc (x.val (is.headD 0) e.a.toNat 2) = none) (hus : us = [readD e 1, readA e 2]) :
    BarrierDone s x is (x.val (is.headD 0) e.a.toNat 2) l (x.barrier l) nothing (opBarWait e s) := by
  subst hus
  have hb : (x.barrier l).Fits := Barrier.fits_ofNat _
  have hx : x.team.MemOk := hm.2 _ (List.mem_of_find?_eq_some (State.site?_some h.here).2.1)
  obtain ⟨hz, hr⟩ := served_putBarrier (s.issued_account x) (s.account_store x) (x.val (is.headD 0) e.a.toNat 2) l (x.barrier l)
  rw [opBarWait, demand, barOp_eq (v0 := false) h nofun hadd, account_cur, account_waitAt, hw]
  dsimp only
  rw [account_perIssueD, account_barrier, hr.barrier hb.evaluate hx hl hs, bit_zero,
    if_pos (by rw [← decide_eq_true_eq (p := _ ≠ _), decide_differ]; exact decide_eq_true hp), State.passBarrier_eq]
  obtain ⟨-, ho⟩ := (s.account x).1.acquireAt_spec
    { (s.account x).2.putBarrier (x.val (is.headD 0) e.a.toNat 2) l (x.barrier l) with
      heat := ((s.account x).2.putBarrier (x.val (is.headD 0) e.a.toNat 2) l (x.barrier l)).heat.unwait (s.account x).1.cur.pc } .tm
  exact barrier_quiet h hm hl hs ((s.around_account x).trans (State.around_acquireAt _ _ _)) ((hz.unwait _).orders ho) hb ((hr.unwait _).orders ho)

omit hm hl hs in
/-- A wait that has been woken goes on. -/
theorem barWoken_spec {w : BarWait} (hw : x.heat.waitAt s.cur.pc (x.val (is.headD 0) e.a.toNat 2) = some w) (hwk : w.woken = true)
    (hus : us = [readD e 1, readA e 2]) : ∃ t y, opBarWait e s = .next t ∧ UnitOnly s t x y ∧ Advanced s x y ∧
      (∀ n r, y.slot n r = x.slot n r) ∧ y.heat.waitAt s.cur.pc (x.val (is.headD 0) e.a.toNat 2) = none := by
  subst hus
  let z : Site := { (s.account x).2 with heat := (s.account x).2.heat.unwait s.cur.pc }
  have hz : s.Issued x z := (s.issued_account x).congr rfl rfl rfl rfl rfl rfl rfl rfl
  obtain ⟨hsp, ho⟩ := (s.account x).1.acquireAt_spec z .tm
  have hy := hz.orders ho
  have hbeside : s.Beside ((s.account x).1.acquireAt z .tm).1 x := (State.beside_account s x).spreads hsp
  have hop : opBarWait e s = .next (((s.account x).1.acquireAt z .tm).1.done ((s.account x).1.acquireAt z .tm).2) := by
    rw [opBarWait, demand, barOp_eq (v0 := false) h nofun hadd, account_cur, account_waitAt, hw]
    dsimp only
    rw [if_pos hwk, State.passBarrier_eq, account_cur]
  refine ⟨_, _, hop, hy.keeps.unitOnly h.here hbeside, hy.keeps.advanced h.once, fun n r => (Site.slot_after _ s n r).trans (hy.slot n r), ?_⟩
  refine List.find?_eq_none.mpr fun v hv => ?_
  rw [Site.after_heat, ho.rest] at hv
  have hne := (List.mem_filter.mp hv).2
  simp only [decide_eq_true_eq] at hne ⊢
  exact fun hc => hne hc.1

/-- A wait whose phase has not completed waits. -/
theorem barHold_spec (hp : (x.barrier l).evaluate.1.phase = decide (x.val (is.headD 0) e.d.toNat 1 % 2 = 1))
    (hw : x.heat.waitAt s.cur.pc (x.val (is.headD 0) e.a.toNat 2) = none) (hus : us = [readD e 1, readA e 2]) :
    ∃ t y, opBarWait e s = .next t ∧ t.site? s.cur.u = some y ∧ (∀ n, (y.heat.fibre? n).map Fibre.pc = (x.heat.fibre? n).map Fibre.pc) ∧
      y.barrier l = (x.barrier l).evaluate.1 ∧ ∃ w ∈ y.heat.bars, w.pc = s.cur.pc ∧ w.obj = x.val (is.headD 0) e.a.toNat 2 ∧ w.woken = false := by
  subst hus
  have hb : (x.barrier l).Fits := Barrier.fits_ofNat _
  obtain ⟨hxu, hteam, hheat, hxid⟩ := State.site?_some h.here
  have hx : x.team.MemOk := hm.2 _ (List.mem_of_find?_eq_some hteam)
  obtain ⟨-, hra⟩ := served_putBarrier (s.issued_account x) (s.account_store x) (x.val (is.headD 0) e.a.toNat 2) l (x.barrier l)
  generalize ha : x.val (is.headD 0) e.a.toNat 2 = a at hadd hw hra ⊢
  have hr : x.Rung (x.putBarrier a l (x.barrier l)) a l (x.barrier l).evaluate := (Site.SameStore.refl x).putBarrier a l _
  obtain ⟨j, hj, hjs, hji⟩ := x.heat?_putBarrier a l (x.barrier l) hheat
  obtain ⟨hu, hid, hk⟩ := x.putBarrier_rest a l (x.barrier l)
  obtain ⟨v, he, hvu, hvt, hvs, hvi, hvb, hvf⟩ := s.hold_eq { x.putBarrier a l (x.barrier l) with
    heat := { (x.putBarrier a l (x.barrier l)).heat.unwait s.cur.pc with
      bars := ((x.putBarrier a l (x.barrier l)).heat.unwait s.cur.pc).bars ++
        [{ pc := s.cur.pc, obj := a, par := bitsOf (x.val (is.headD 0) e.d.toNat 1) 0 1 = 1, woken := false }] } }
  have hsq : (x.putBarrier a l (x.barrier l)).heat.squad = x.heat.squad := by rw [hk]
  have hix : (x.putBarrier a l (x.barrier l)).heat.idx = x.heat.idx := by rw [hk]
  obtain ⟨hfound, -⟩ := State.put_found (t := s) (z := v) (u := s.cur.u) hteam (by rw [hvu]; exact hu.trans hxu) (by rw [hvt]; exact hid.trans hxid)
    (by rw [hvt]; exact hj) (by rw [hvs, hjs]; exact hsq) (by rw [hvi, hji]; exact hix)
  refine ⟨_, _, ?_, hfound, fun n => (hvf h.once n).trans ?_, ?_,
    { pc := s.cur.pc, obj := a, par := bitsOf (x.val (is.headD 0) e.d.toNat 1) 0 1 = 1, woken := false }, ?_, rfl, rfl, rfl⟩
  · rw [← he, opBarWait, demand, barOp_eq (v0 := false) (l := l) h nofun (by rw [ha]; exact hadd), ha, account_cur, account_waitAt, hw]
    dsimp only
    rw [account_perIssueD, account_barrier, hra.barrier hb.evaluate hx hl hs, bit_zero, if_neg, h.here]
    rw [← decide_eq_true_eq (p := _ ≠ _), decide_differ, hp]
    simp
  · change ((x.putBarrier a l (x.barrier l)).heat.fibre? n).map Fibre.pc = _
    rw [hk]
    rfl
  · have hst : (x.putBarrier a l (x.barrier l)).SameStore v := ⟨hvu, by rw [hvt], by rw [hvt]⟩
    rw [(hst.trans v.store_putBack).barrier]
    exact hr.barrier hb.evaluate hx hl hs
  · change _ ∈ v.heat.bars
    rw [hvb]
    exact List.mem_append_right _ List.mem_cons_self

end

end

/-- The barrier instructions. -/
def barrierOpOf : Mn → Option (Ext → State → Out)
  | .barInit => some opBarInit
  | .barArv => some opBarArv
  | .barExp => some opBarExp
  | .barWait => some opBarWait
  | .barTry => some opBarTry
  | _ => none

theorem exec_of_barrierOpOf {i : Instr} {m : Mn} {e : Ext} {op : Ext → State → Out} (hi : i.shape = .form m e) (ho : barrierOpOf m = some op) (s : State) :
    exec i s = op e s := by
  cases i with
  | barInit | barInitExt | barArv | barArvExt | barExp | barExpExt | barWait | barWaitExt | barTry | barTryExt => cases hi; cases ho; rfl
  | _ => cases hi <;> cases ho

/-- Settles O28. -/
theorem barriers : Obligations.Barriers := by
  constructor
  · intro i m e s x is l p hi hm a hp h hadd hok hs
    have hl := Site.barAddress_local hadd
    cases m with
    | barInit => cases hp; rw [exec_of_barrierOpOf hi rfl]; exact barInit_spec h hm hl hs hadd hok rfl
    | barArv => cases hp; rw [exec_of_barrierOpOf hi rfl]; exact barArv_spec h hm hl hs hadd hok.1 hok.2 rfl
    | barExp => cases hp; rw [exec_of_barrierOpOf hi rfl]; exact barExp_spec h hm hl hs hadd hok rfl
    | barTry => cases hp; rw [exec_of_barrierOpOf hi rfl]; exact barTry_spec h hm hl hs hadd rfl
    | barWait => cases hp; rw [exec_of_barrierOpOf hi rfl]; exact barPass_spec h hm hl hs hadd hok.1 hok.2 rfl
    | _ => cases hp
  · intro i e s x is l hi hm a h hadd
    rw [exec_of_barrierOpOf hi rfl]
    exact ⟨fun w hw hwk => barWoken_spec h hadd hw hwk rfl, fun hw hs hph => barHold_spec h hm (Site.barAddress_local hadd) hs hadd hph hw rfl⟩

end Sys2Proof.Machine
end

section
/-!
SUPPORT. FIFO.STAT and the type of its FIFO (R248): the model refuses an instruction whose type is not the FIFO's, FIFO.CLOSE and FIFO.STAT as well as
those that move elements, and the statement has no hypothesis on the type there.
-/

namespace Sys2Proof.Tests

open Sys2Proof Sys2Proof.Machine

/-- FIFO.STAT with the type n32, of the bench's FIFO, whose type is b32. -/
def stat29 : Ext := plainExt 20 3 0 .n32

/-- The bench with its FIFO. -/
def s29 : State := place (some fifo1) s1

/-- A register of a unit after an outcome. -/
def slotAfter (o : Out) (u : UnitRef) (i r : Nat) : Option Slot :=
  match o with
  | .next t => (t.site? u).map fun y => y.slot i r
  | _ => none

/-- The instruction traps, and its meet ends: D holds nothing. -/
theorem stat_traps : slotAfter (exec (.fifoStatExt stat29) s29) s29.cur.u 0 3 = some (.val 0) := by decide +kernel

end Sys2Proof.Tests

namespace Sys2Proof.Machine

open Sys2Proof.Tests

/-- Refutes O29: a FIFO.STAT whose type is not that of the FIFO raises PROTECTION. -/
theorem not_fifosAndBanks : ¬ Obligations.FifosAndBanks := by
  rintro ⟨h, -⟩
  obtain ⟨-, -, -, hstat⟩ := h (.fifoStatExt stat29) stat29 s29 x1 [0] 3 fifo1
  obtain ⟨t, y, he, hframe, -, hw⟩ := hstat rfl (issues_of (by decide +kernel) (by decide +kernel)) (by decide +kernel)
  have hslot := stat_traps
  rw [he, slotAfter, hframe.here, Option.map_some] at hslot
  have hd := hw.result 0 List.mem_cons_self 0 Nat.one_pos (by decide)
  exact absurd (hd.symm.trans (Option.some.inj hslot)) (by decide)

end Sys2Proof.Machine
end

section
/-!
SUPPORT. Reductions (R136, R242, R361, R362): what their contributions leave of the package and of the unit, and of the bytes of their home.
-/

namespace Sys2Proof.Machine

/-! ### What an atomic or a reduction leaves of other teams and of the unit -/

/-- The package t is s, as far as other units go: meets stand, and of teams only results of atomics have given way. -/
structure State.Calm (team : Nat) (s t : State) : Prop where
  cur : t.cur = s.cur
  meets : t.meets = s.meets
  teams : ∃ g, Yields team g ∧ t.teams = s.teams.map g

namespace State.Calm

variable {team : Nat} {s t u : State}

theorem of_teams (hc : t.cur = s.cur) (hm : t.meets = s.meets) (ht : t.teams = s.teams) : s.Calm team t := ⟨hc, hm, _, .id team, by rw [ht]; exact (List.map_id _).symm⟩

theorem of_spreads (h : s.Spreads team t) : s.Calm team t := ⟨h.cur, h.meets, h.teams⟩

theorem of_stirs (h : s.Stirs t) : s.Calm team t := of_teams h.cur h.meets h.teams

theorem refl (s : State) : s.Calm team s := of_teams rfl rfl rfl

theorem trans (h : s.Calm team t) (k : t.Calm team u) : s.Calm team u where
  cur := k.cur.trans h.cur
  meets := k.meets.trans h.meets
  teams := by
    obtain ⟨f, hf, h1⟩ := h.teams
    obtain ⟨g, hg, h2⟩ := k.teams
    exact ⟨g ∘ f, hg.comp hf, by rw [h2, h1, List.map_map]⟩

theorem team? (h : s.Calm team t) : ∃ g, Yields team g ∧ ∀ id, t.team? id = (s.team? id).map g := by
  obtain ⟨g, hg, ht⟩ := h.teams
  exact ⟨g, hg, fun id => by
    rw [State.team?, ht, State.team?, List.find?_map]
    congr 2
    funext v
    rw [Function.comp_apply, Team.bare_id (hg.bare v)]⟩

theorem beside {x : Site} {team : Nat} (h : s.Beside t x) (k : t.Calm team u) : s.Beside u x := by
  obtain ⟨g, hg, ht⟩ := k.team?
  refine ⟨k.cur.trans h.cur, fun id => ?_, fun id hne hex => ?_, fun id hne => ?_⟩
  · rw [ht, Option.map_map, ← h.teams id]
    exact congrArg (Option.map · (t.team? id)) (funext hg.bare)
  · have he := h.exact id hne hex
    rw [ht, he]
    cases hu : s.team? id with
    | none => rfl
    | some v => exact congrArg some (hg.exact v (hex v hu))
  · rw [State.meet?, k.meets]
    exact h.meets id hne

end State.Calm

/-- The unit z is x after atomics, reductions or stores: layers, local memory, its write set and its unacknowledged writes may differ. -/
structure Site.Marks (x z : Site) : Prop where
  rest : z = { x with
    team := { x.team with sqLayer := z.team.sqLayer, tmLayer := z.team.tmLayer, scrMem := z.team.scrMem, cshMem := z.team.cshMem }
    heat := { x.heat with ws := z.heat.ws, unacked := z.heat.unacked } }

theorem Site.Marks.refl (x : Site) : x.Marks x := ⟨rfl⟩

theorem Site.Marks.trans {x y z : Site} (h : x.Marks y) (k : y.Marks z) : x.Marks z where
  rest := by
    have hk := k.rest
    rw [h.rest] at hk
    exact hk

theorem State.Issued.marks {s : State} {x y z : Site} (h : s.Issued x y) (k : y.Marks z) : s.Issued x z :=
  h.congr (by rw [k.rest]) (by rw [k.rest]) (by rw [k.rest]) (by rw [k.rest]) (by rw [k.rest]) (by rw [k.rest]) (by rw [k.rest]) (by rw [k.rest])

section
variable (s : State) (x : Site) (h : Hit)

theorem Site.marks_writeLocal (bs : List Byte) (l : Loc) : x.Marks (x.writeLocal bs l) := by
  cases l <;> exact ⟨rfl⟩

theorem Site.marks_passed (pas : List Nat) : x.Marks (x.passed pas) := ⟨rfl⟩

theorem Site.marks_updSq (f : List LayerByte → List LayerByte) : x.Marks (x.updSq f) := by
  rw [Site.updSq]
  split <;> exact ⟨rfl⟩

theorem Site.marks_updTm (f : List LayerByte → List LayerByte) : x.Marks (x.updTm f) := ⟨rfl⟩

theorem State.marks_oweLease (till : Nat) : x.Marks (s.oweLease x till).2 := by
  rw [State.oweLease]
  split <;> exact ⟨rfl⟩

theorem State.stirs_storePriv (pa : Nat) (bs : List Byte) : s.Stirs (s.storePriv x h pa bs) := by
  have hhome {t : State} (ht : s.Stirs t) : s.Stirs ((t.homeWrite pa bs).renewPriv x pa bs) := (ht.trans (t.stirs_homeWrite _ _)).trans (.of_rest rfl)
  rw [State.storePriv]
  split_ifs
  · split
    · exact s.stirs_putCopy _
    · exact hhome (.refl s)
  · split
    · exact (s.stirs_bring _ _ _ _).trans (State.stirs_putCopy _ _)
    · exact hhome (s.stirs_bring _ _ _ _)

theorem State.spreads_passWide (team die : Nat) (pas : List Nat) : s.Spreads team (s.passWide die pas) := by
  rw [State.passWide]
  split
  · exact .refl s
  · exact (s.spreads_setWide _ _ _).trans (State.spreads_setWide _ _ _ _)

theorem State.phaseHome_spec (pa : Nat) (bs : List Byte) : s.Spreads x.team.id (s.phaseHome x pa bs).1 ∧ x.Marks (s.phaseHome x pa bs).2 := by
  have hrenew (t : State) (pas : List Nat) : t.Spreads x.team.id (t.renew x pas) := .of_rest rfl
  have huncount : s.Spreads x.team.id (s.uncount x (pa / 64)) := .of_rest rfl
  refine ⟨?_, ?_⟩
  · rw [State.phaseHome]
    exact ((((huncount.trans (State.spreads_overtake _ _ _ _)).trans (State.spreads_homeWrite _ _ _ _)).trans (hrenew _ _)).trans
      (State.spreads_passWide _ _ _ _)).trans (State.spreads_oweLease _ _ _ _)
  · rw [State.phaseHome]
    exact Site.Marks.trans (y := _) ⟨rfl⟩ (State.marks_oweLease _ _ _)

theorem yields_cacheFollow (pa : Nat) (bs : List Byte) : Yields x.team.id fun t =>
    if t.sharesCache x then { t with tmLayer := t.tmLayer.map fun b => if b.amo ∧ pa ≤ b.pa then { b with byte := bs.getD (b.pa - pa) b.byte } else b } else t where
  bare u := by split <;> rfl
  own u hu := if_neg fun hs => (of_decide_eq_true hs).1 hu
  exact u hu := by
    rw [Team.holdsAtomic, List.any_append, Bool.or_eq_false_iff, List.any_eq_false] at hu
    have hmap : (u.tmLayer.map fun b => if b.amo ∧ pa ≤ b.pa then { b with byte := bs.getD (b.pa - pa) b.byte } else b) = u.tmLayer :=
      (List.map_congr_left fun b hb => if_neg fun hc => hu.1 b hb hc.1).trans (List.map_id _)
    split
    · rw [hmap]
    · rfl

theorem State.phaseAtomic_spec (pa : Nat) (bs : List Byte) (pl : AtPlace) :
    s.Calm x.team.id (s.phaseAtomic x pa bs pl).1 ∧ x.Marks (s.phaseAtomic x pa bs pl).2 := by
  cases pl with
  | squad => exact ⟨.refl s, .trans ⟨rfl⟩ (Site.marks_updSq _ _)⟩
  | team => exact ⟨⟨rfl, rfl, _, yields_cacheFollow x pa bs, rfl⟩, ⟨rfl⟩⟩
  | home => exact ⟨.of_spreads (s.phaseHome_spec x pa bs).1, (s.phaseHome_spec x pa bs).2⟩

theorem State.calm_seqWrite (team pa : Nat) (bs : List Byte) : s.Calm team (s.seqWrite pa bs) := by
  have hp := s.posts_seqWrite pa bs
  exact .of_teams (by rw [hp.rest]) (by rw [hp.rest]) (by rw [hp.rest])

theorem State.rmw_spec (pa n : Nat) (sc : Scope) (f : Nat → Option Nat) : s.Calm x.team.id (s.rmw x h pa n sc f).2.1 ∧ x.Marks (s.rmw x h pa n sc f).2.2 := by
  have hread (c : Prop) [Decidable c] : s.Calm x.team.id ((if c then s else s.useHome h (pa / 64)).seqRead pa n).2 := by
    have hl (t : State) (ht : s.Peeks t) : s.Calm x.team.id (t.seqRead pa n).2 := by
      have hp := ht.trans (t.peeks_seqRead pa n)
      exact .of_teams (by rw [hp.rest]) (by rw [hp.rest]) (by rw [hp.rest])
    split
    · exact hl s (.refl s)
    · exact hl _ (s.peeks_useHome h _)
  unfold State.rmw
  cases h.cls with
  | seq | stream =>
    dsimp only
    have hs := hread ((s.notifyVf pa).isSome = true)
    generalize State.seqRead _ pa n = q at hs ⊢
    cases f (leNat q.1) with
    | some v => exact ⟨(hs.trans (.of_stirs (State.stirs_dropCopies _ _))).trans (State.calm_seqWrite _ _ _ _), .refl x⟩
    | none => exact ⟨hs, .refl x⟩
  | priv =>
    dsimp only
    cases s.copyFor x .priv (pa / 64) with
    | some c =>
      dsimp only
      cases f _ with
      | some v => exact ⟨.of_stirs (s.stirs_storePriv _ _ _ _), .refl x⟩
      | none => exact ⟨.refl s, .refl x⟩
    | none =>
      dsimp only
      cases f _ with
      | some v => exact ⟨.of_stirs ((s.stirs_homeRead _ _).trans (State.stirs_storePriv _ _ _ _ _)), .refl x⟩
      | none => exact ⟨.of_stirs (s.stirs_homeRead _ _), .refl x⟩
  | phase =>
    have hs : s.Stirs ((s.useHome h (pa / 64)).homeRead pa n).2 := (s.stirs_useHome _ _).trans (State.stirs_homeRead _ _ _)
    dsimp only
    generalize (s.useHome h (pa / 64)).homeRead pa n = q at hs ⊢
    have hr : s.Stirs (q.2.renew x (addresses pa n)) := hs.trans (.of_rest rfl)
    generalize q.2.renew x (addresses pa n) = t at hr ⊢
    cases f _ with
    | some v =>
      obtain ⟨hp, hm⟩ := t.phaseAtomic_spec x pa (leBytes v n) (s.atPlace x sc)
      exact ⟨(State.Calm.of_stirs hr).trans hp, hm⟩
    | none => exact ⟨.of_stirs hr, .refl x⟩

theorem State.rmwAt_spec (form : AccForm) (fib ea n : Nat) (sc : Scope) (f : Nat → Option Nat) :
    s.Calm x.team.id (s.rmwAt x form fib ea n sc f).2.1 ∧ x.Marks (s.rmwAt x form fib ea n sc f).2.2 := by
  have hlocal (l : Loc) (old : Nat) : s.Calm x.team.id (match f old with
      | some v => (old, s, x.writeLocal (leBytes v n) l)
      | none => (old, s, x)).2.1 ∧ x.Marks (match f old with
      | some v => (old, s, x.writeLocal (leBytes v n) l)
      | none => (old, s, x)).2.2 := by
    cases f old with
    | some v => exact ⟨.refl s, x.marks_writeLocal _ _⟩
    | none => exact ⟨.refl s, .refl x⟩
  unfold State.rmwAt
  cases x.check fib ea n n with
  | error c => exact ⟨.refl s, .refl x⟩
  | ok l =>
    cases l with
    | virt va =>
      dsimp only
      cases s.reachX x va .store form with
      | error b => exact ⟨.refl s, .refl x⟩
      | ok h => exact s.rmw_spec x h _ n sc f
    | scr o => exact hlocal _ _
    | csh o => exact hlocal _ _

/-! ### Contributions -/

variable (cl : ClusterRef) (op : Nat) (ty : Ty) (c : Contrib)

theorem State.calm_track (team : Nat) (lv : Level) (pa lease : Nat) : s.Calm team (s.track lv pa lease) := .of_stirs (s.stirs_track lv pa lease)

/-- The combining buffer with room for a contribution: a line that cannot combine, and the oldest of a full buffer, have gone home (R361, R362). -/
def State.roomU (s : State) (cl : ClusterRef) (ty : Ty) (pa : Nat) : State :=
  let s := if s.ulines.any fun l => l.cl = cl ∧ decide (l.pa < pa + memBytes ty ∧ pa < l.pa + l.bytes) then s.returnU cl (pa / 64) else s
  let held := s.bufferLines cl
  if pa / 64 ∈ held ∨ held.length < 256 then s else s.returnU cl (held.headD 0)

/-- A contribution that the buffer holds by itself. -/
def Contrib.uline (c : Contrib) (cl : ClusterRef) (op : Nat) (ty : Ty) : ULine := { cl := cl, pa := c.pa, ty := ty, op := op, val := dw c.v }

/-- Contributions that the buffer combines in one place: of one cluster, location, type and operation. -/
def Contrib.joins (c : Contrib) (cl : ClusterRef) (op : Nat) (ty : Ty) (l : ULine) : Bool := l.cl = cl && l.pa = c.pa && l.ty = ty && l.op = op

theorem State.putU_apart (h : s.ulines.any (c.joins cl op ty) = false) :
    s.putU cl op ty c = ({ s.roomU cl ty c.pa with ulines := (s.roomU cl ty c.pa).ulines ++ [c.uline cl op ty] } : State).track (.clus cl) c.pa 0 :=
  if_neg (by rw [show (s.ulines.any fun l => l.cl = cl && l.pa = c.pa && l.ty = ty && l.op = op) = false from h]; exact Bool.false_ne_true)

theorem State.calm_roomU (team pa : Nat) : s.Calm team (s.roomU cl ty pa) := by
  have hret (t : State) (p : Prop) [Decidable p] (l : Nat) : t.Calm team (if p then t.returnU cl l else t) := by
    split
    · exact .of_teams rfl rfl rfl
    · exact .refl t
  have hret' (t : State) (p : Prop) [Decidable p] (l : Nat) : t.Calm team (if p then t else t.returnU cl l) := by
    split
    · exact .refl t
    · exact .of_teams rfl rfl rfl
  exact (hret s _ (pa / 64)).trans (hret' _ _ _)

theorem State.calm_putU (team : Nat) : s.Calm team (s.putU cl op ty c) := by
  by_cases h : s.ulines.any (c.joins cl op ty) = true
  · rw [show s.putU cl op ty c = _ from if_pos h]
    exact .of_teams rfl rfl rfl
  · rw [s.putU_apart cl op ty c (Bool.eq_false_iff.mpr h)]
    have hr := s.calm_roomU cl ty team c.pa
    generalize s.roomU cl ty c.pa = t at hr ⊢
    refine State.Calm.trans (hr.trans ?_) (State.calm_track _ team _ _ _)
    exact .of_teams rfl rfl rfl

/-- What a contribution, an atomic or a store of a unit leaves of the package and of the unit. -/
structure State.Sends (s : State) (x : Site) (p : State × Site) : Prop where
  calm : s.Calm x.team.id p.1
  marks : x.Marks p.2

theorem State.Sends.refl : s.Sends x (s, x) := ⟨.refl s, .refl x⟩

theorem State.Sends.trans {s : State} {x : Site} {p q : State × Site} (h : s.Sends x p) (k : p.1.Sends p.2 q) : s.Sends x q := by
  have hid : p.2.team.id = x.team.id := by rw [h.marks.rest]
  exact ⟨h.calm.trans (hid ▸ k.calm), h.marks.trans k.marks⟩

theorem State.Sends.foldl {α : Type} {f : State × Site → α → State × Site} (hf : ∀ p a, State.Sends p.1 p.2 (f p a)) (l : List α) (p : State × Site) :
    p.1.Sends p.2 (l.foldl f p) := by
  induction l generalizing p with
  | nil => exact .refl _ _
  | cons a l ih => exact (hf p a).trans (ih _)

theorem State.sends_redNear : s.Sends x (s.redNear x op ty c) := by
  rw [State.redNear]
  split_ifs
  · exact .refl s x
  · refine ⟨.of_spreads ?_, .trans (y := _) ⟨rfl⟩ (.trans (Site.marks_updSq _ _) (Site.marks_updTm _ _))⟩
    have hh := s.spreads_homeRead x.team.id c.pa (memBytes ty)
    generalize s.homeRead c.pa (memBytes ty) = q at hh ⊢
    dsimp only
    split_ifs
    · exact hh
    · exact (hh.trans (State.spreads_setWide _ _ _ _)).trans (State.spreads_setWide _ _ _ _)

theorem State.sends_sendU (sc : Scope) : s.Sends x (s.sendU x sc op ty c) := by
  have hnear := s.sends_redNear x op ty c
  rw [State.sendU]
  generalize s.redNear x op ty c = q at hnear ⊢
  refine hnear.trans ?_
  have hdrop (t : State) (pas : List Nat) (p : CLine → Bool) : t.Calm q.2.team.id ((t.overtake q.2.team.id pas).dropCopies p) :=
    (State.Calm.of_spreads (t.spreads_overtake _ _ _)).trans (.of_stirs (State.stirs_dropCopies _ p))
  dsimp only
  split_ifs
  · exact ⟨(hdrop _ _ _).trans (State.calm_putU _ _ _ _ _ _), .refl _⟩
  · exact ⟨((hdrop _ _ _).trans (.of_spreads (State.spreads_homeRead _ _ _ _))).trans (.of_spreads (State.spreads_homeWrite _ _ _ _)), .refl _⟩

theorem State.sends_eachRed (e : Ext) (form : AccForm) (sc : Scope) (as : List (Nat × Nat × Nat)) : s.Sends x (s.eachRed x e form sc as) := by
  rw [State.eachRed]
  exact (State.Sends.foldl (fun p c => p.1.sends_sendU p.2 e.x.toNat e.ty c sc) _ (s, x)).trans
    (State.Sends.foldl (fun p a => ⟨(p.1.rmwAt_spec p.2 form _ _ _ sc _).1, (p.1.rmwAt_spec p.2 form _ _ _ sc _).2⟩) _ _)

/-! ### The bytes of a contribution's location -/

theorem Contrib.joins_onLines {cl : ClusterRef} {op : Nat} {ty : Ty} {c : Contrib} {l : ULine} (hty : 0 < memBytes ty) (h : c.joins cl op ty l = true) :
    l.onLines c.pa (memBytes ty) = true := by
  simp only [Contrib.joins, Bool.and_eq_true, decide_eq_true_eq] at h
  obtain ⟨⟨⟨_, hpa⟩, _⟩, _⟩ := h
  rw [ULine.onLines, hpa, decide_eq_true_eq]
  omega

/-- A U line waits for its home's next read: it alone lies in the lines of its location, whose bytes are those of s. -/
structure State.Awaits (s : State) (l : ULine) (t : State) : Prop where
  wf : Memory.wf t.mem = true
  only : (t.ulines.filter fun k => k.onLines l.pa l.bytes) = [l]
  fits : ∀ k ∈ t.ulines, k.pa % 64 + k.bytes ≤ 64
  bytes : ∀ k, k < l.bytes → Memory.get t.mem (l.pa + k) = Memory.get s.mem (l.pa + k)

theorem State.Awaits.congr {s t u : State} {l : ULine} (h : s.Awaits l t) (hm : u.mem = t.mem) (hu : u.ulines = t.ulines) : s.Awaits l u :=
  ⟨by rw [hm]; exact h.wf, by rw [hu]; exact h.only, by rw [hu]; exact h.fits, by rw [hm]; exact h.bytes⟩

theorem State.Awaits.recallU {s t : State} {l : ULine} (h : s.Awaits l t) {pa n : Nat} (hout : l.onLines pa n = false) : s.Awaits l (t.recallU pa n) := by
  have hne {k : ULine} (hk : k ∈ t.ulines) (hon : k.onLines pa n = true) : k.onLines l.pa l.bytes = false := by
    by_contra hc
    have : k ∈ [l] := h.only ▸ List.mem_filter.mpr ⟨hk, by simpa using hc⟩
    rw [List.mem_singleton.mp this, hout] at hon
    exact Bool.false_ne_true hon
  refine ⟨wf_applyU _ _ h.wf, ?_, fun k hk => h.fits k (List.mem_filter.mp hk).1, fun i hi => ?_⟩
  · rw [State.recallU, List.filter_filter, ← h.only]
    refine List.filter_congr fun k hk => ?_
    by_cases hon : k.onLines pa n = true
    · rw [hne hk hon, Bool.false_and]
    · rw [Bool.eq_false_iff.mpr hon, Bool.not_false, Bool.and_true]
  · rw [State.recallU, ← h.bytes i hi]
    refine foldl_applyU_get_other _ _ fun k hk => ?_
    obtain ⟨hk, hon⟩ := List.mem_filter.mp hk
    have hf := h.fits k hk
    have hout' := hne hk hon
    rw [ULine.onLines, decide_eq_false_iff_not] at hout'
    omega

theorem trackAdd_victim {cap : Nat} {ts us : List Track} {region holder lease : Nat} {v : Track}
    (h : trackAdd cap ts region holder lease = (us, some v)) : v.region ≠ region := by
  rw [trackAdd] at h
  split_ifs at h with hany
  · cases h
  · cases h
  · obtain ⟨-, hv⟩ := Prod.mk.inj h
    exact fun hr => hany (List.any_eq_true.mpr ⟨v, List.mem_of_head? hv, decide_eq_true hr⟩)

theorem State.Awaits.track {s t : State} {l : ULine} (h : s.Awaits l t) (lease : Nat) : s.Awaits l (t.track (.clus cl) l.pa lease) := by
  have hout (v : Track) (hv : v.region ≠ l.pa / 512) : l.onLines (512 * v.region) 512 = false := by
    rw [ULine.onLines, decide_eq_false_iff_not]
    omega
  have hdir (d holder : Nat) : s.Awaits l (t.trackDirectory d holder l.pa lease) := by
    rw [State.trackDirectory]
    cases ht : trackAdd 1048576 ((SMap.get? t.dirs d).getD []) (l.pa / 512) holder lease with
    | mk ts o =>
      cases o with
      | none => exact h.congr rfl rfl
      | some v =>
        refine State.Awaits.congr (State.Awaits.recallU ?_ (hout v (trackAdd_victim ht))) rfl rfl
        exact h.congr rfl rfl
  have hport (d : Nat) : s.Awaits l (t.trackPort d l.pa lease) := by
    rw [State.trackPort]
    cases ht : trackAdd 262144 t.portDir (l.pa / 512) d lease with
    | mk ts o =>
      cases o with
      | none => exact h.congr rfl rfl
      | some v =>
        refine State.Awaits.congr (State.Awaits.recallU ?_ (hout v (trackAdd_victim ht))) rfl rfl
        exact h.congr rfl rfl
  rw [State.track]
  cases t.homeOf l.pa with
  | some d => exact hdir d _
  | none => exact hport _

theorem memory_read_congr {m m' : List Host.Cell} {pa n : Nat} (h : ∀ k, k < n → Memory.get m (pa + k) = Memory.get m' (pa + k)) :
    Memory.read m pa n = Memory.read m' pa n := by
  induction n generalizing pa with
  | zero => rfl
  | succ n ih => rw [Memory.read, Memory.read, ← Nat.add_zero pa, h 0 n.succ_pos, Nat.add_zero, ih fun k hk => by rw [Nat.add_assoc, Nat.add_comm 1]; exact h (k + 1) (by omega)]

theorem State.Awaits.homeRead {s t : State} {l : ULine} (h : s.Awaits l t) :
    (t.homeRead l.pa l.bytes).1 = leBytes (amoOp l.op l.ty (leNat (Memory.read s.mem l.pa l.bytes)) l.val.toNat) l.bytes := by
  have hr := memory_read_congr h.bytes
  have hw := Memory.read_write (leBytes (amoOp l.op l.ty (leNat (Memory.read s.mem l.pa l.bytes)) l.val.toNat) l.bytes) t.mem l.pa h.wf
  rw [leBytes_length] at hw
  rw [State.homeRead, State.recallU, h.only]
  show Memory.read (applyU t.mem l) l.pa l.bytes = _
  rw [applyU, hr, hw]

theorem memBytes_word {ty : Ty} (h : ty.bits ∈ [16, 32, 64]) : 0 < memBytes ty ∧ memBytes ty ∣ 64 ∧ 256 ^ memBytes ty = 2 ^ ty.bits := by
  rw [memBytes]
  simp only [List.mem_cons, List.not_mem_nil, or_false] at h
  obtain h | h | h := h <;> rw [h] <;> decide

theorem State.homeRead_putU (hm : s.MemOk) (hty : ty.bits ∈ [16, 32, 64]) (hal : c.pa % memBytes ty = 0) (hv : c.v < 2 ^ 64)
    (hu : ∀ l ∈ s.ulines, l.onLines c.pa (memBytes ty) = false ∧ l.pa % 64 + l.bytes ≤ 64) (hb : (s.bufferLines cl).length < 256) :
    leNat ((s.putU cl op ty c).homeRead c.pa (memBytes ty)).1 = amoOp op ty (leNat (Memory.read s.mem c.pa (memBytes ty))) c.v % 2 ^ ty.bits := by
  obtain ⟨hpos, hdvd, hpow⟩ := memBytes_word hty
  have hfit : c.pa % 64 + memBytes ty ≤ 64 := by
    obtain ⟨k, hk⟩ := Nat.dvd_of_mod_eq_zero hal
    obtain ⟨j, hj⟩ := hdvd
    rw [hk, hj, Nat.mul_mod_mul_left, ← Nat.mul_succ]
    exact Nat.mul_le_mul_left _ (Nat.mod_lt k (Nat.pos_of_ne_zero fun h => by rw [h, Nat.mul_zero] at hj; omega))
  have hon : (c.uline cl op ty).onLines c.pa (memBytes ty) = true := by
    rw [ULine.onLines, decide_eq_true_eq, show (c.uline cl op ty).pa = c.pa from rfl]
    omega
  have hjoin : s.ulines.any (c.joins cl op ty) = false := List.any_eq_false.mpr fun l hl hj => by
    exact Bool.false_ne_true ((hu l hl).1.symm.trans (Contrib.joins_onLines hpos hj))
  have hroom : s.roomU cl ty c.pa = s := by
    have hany : (s.ulines.any fun l => decide (l.cl = cl ∧ decide (l.pa < c.pa + memBytes ty ∧ c.pa < l.pa + l.bytes) = true)) = false := by
      refine List.any_eq_false.mpr fun l hl hc => ?_
      obtain ⟨hoff, hin⟩ := hu l hl
      rw [ULine.onLines, decide_eq_false_iff_not] at hoff
      simp only [decide_eq_true_eq] at hc
      omega
    rw [State.roomU, hany, if_neg Bool.false_ne_true, if_pos (Or.inr hb)]
  have hwait : s.Awaits (c.uline cl op ty) { s with ulines := s.ulines ++ [c.uline cl op ty] } := by
    refine ⟨hm.1, ?_, fun k hk => ?_, fun _ _ => rfl⟩
    · have hnone : (s.ulines.filter fun l => l.onLines (c.uline cl op ty).pa (c.uline cl op ty).bytes) = [] :=
        List.filter_eq_nil_iff.mpr fun l hl => Bool.eq_false_iff.mp (hu l hl).1
      rw [List.filter_append, hnone, List.nil_append]
      exact List.filter_cons_of_pos hon
    · obtain hk | hk := List.mem_append.mp hk
      · exact (hu k hk).2
      · rw [List.mem_singleton.mp hk]
        exact hfit
  rw [s.putU_apart cl op ty c hjoin, hroom]
  have hread := (hwait.track (cl := cl) 0).homeRead
  refine (congrArg leNat hread).trans ?_
  rw [leNat_leBytes, show (c.uline cl op ty).bytes = memBytes ty from rfl, hpow, show (c.uline cl op ty).val.toNat = c.v from (BitVec.toNat_ofNat _ _).trans (Nat.mod_eq_of_lt hv)]
  rfl

theorem State.homeRead_congr {s t : State} (hm : t.mem = s.mem) (hu : t.ulines = s.ulines) (pa n : Nat) :
    (t.homeRead pa n).1 = (s.homeRead pa n).1 ∧ (t.homeRead pa n).2.mem = (s.homeRead pa n).2.mem := by
  simp only [State.homeRead, State.recallU, hm, hu, and_self]

theorem State.sendU_near {sc : Scope} (hm : s.MemOk) (hty : ty.bits ∈ [16, 32, 64]) (hsc : sc.far = false)
    (hn : s.nearAt x (addresses c.pa (memBytes ty)) = false) :
    (s.sendU x sc op ty c).2 = x ∧
    leNat (Memory.read (s.sendU x sc op ty c).1.mem c.pa (memBytes ty)) = amoOp op ty (leNat (s.homeRead c.pa (memBytes ty)).1) c.v % 2 ^ ty.bits ∧
    ∀ d ∈ (s.sendU x sc op ty c).1.lines, d.line = c.pa / 64 → d.cls ≠ .seq ∧ d.cls ≠ .phase := by
  have hnear : s.redNear x op ty c = (s, x) := if_pos (Or.inr hn)
  rw [State.sendU, hnear]
  dsimp only
  rw [if_neg (by rw [hsc]; exact Bool.false_ne_true)]
  have hmem := s.overtake_mem x.team.id (addresses c.pa (memBytes ty)) fun _ => true
  have hul := s.overtake_ulines x.team.id (addresses c.pa (memBytes ty)) fun _ => true
  generalize s.overtake x.team.id (addresses c.pa (memBytes ty)) = t at hmem hul ⊢
  have hgone (d : CLine) (hd : d ∈ (t.dropCopies fun d => decide (d.line = c.pa / 64 ∧ (d.cls = .seq ∨ d.cls = .phase))).lines) (hline : d.line = c.pa / 64) :
      d.cls ≠ .seq ∧ d.cls ≠ .phase := by
    have hp := of_decide_eq_false ((t.mem_dropCopies).mp hd).2
    exact ⟨fun h => hp ⟨hline, .inl h⟩, fun h => hp ⟨hline, .inr h⟩⟩
  generalize hu : (t.dropCopies fun d => decide (d.line = c.pa / 64 ∧ (d.cls = .seq ∨ d.cls = .phase))) = u at hgone ⊢
  obtain ⟨hbytes, hmem'⟩ := State.homeRead_congr (s := s) (t := u) (hu ▸ hmem) (hu ▸ hul) c.pa (memBytes ty)
  refine ⟨rfl, ?_, hgone⟩
  have hw := State.read_homeWrite (u.homeRead c.pa (memBytes ty)).2 c.pa (leBytes (amoOp op ty (leNat (u.homeRead c.pa (memBytes ty)).1) c.v) (memBytes ty))
    (hmem' ▸ s.wf_homeRead _ _ hm.1)
  rw [leBytes_length] at hw
  refine (congrArg leNat hw).trans ?_
  rw [leNat_leBytes, hbytes, (memBytes_word hty).2.2]

/-! ### RED (R225, R242) -/

theorem State.sortMeets_fine {s0 s : State} {x : Site} {is : List Nat} {ms : List (Nat × Nat × Meets)} (h : ∀ m ∈ ms, m.2.2 = .fine) (go : Unit → Out) :
    s0.sortMeets s x is ms go = go () := by
  have hhold : (ms.any fun m => decide (m.2.2 = .hold)) = false := List.any_eq_false.mpr fun m hm => by rw [h m hm]; decide
  have hask : (ms.any fun m => m.2.2.asks) = false := List.any_eq_false.mpr fun m hm => by rw [h m hm]; decide
  rw [State.sortMeets, hhold, hask, if_neg Bool.false_ne_true, if_neg Bool.false_ne_true, List.filterMap_eq_nil_iff.mpr fun m hm => by rw [h m hm],
    if_neg (fun h => h rfl), List.findSome?_eq_none_iff.mpr fun m hm => by rw [h m hm]]


/-- What RED leaves of the package and of the unit. -/
def State.reduced (s : State) (x : Site) (is : List Nat) (e : Ext) : State × Site :=
  (s.account x).1.eachRed (s.account x).2 e (atomicForm (scopeOf e.rs)) (scopeOf e.rs)
    ((is.map fun k => (k, x.val k e.a.toNat 2)).map fun q => (q.1, q.2, x.srcB q.1 e % 2 ^ e.ty.bits))

theorem opRed_eq {s : State} {x : Site} {is : List Nat} {e : Ext} (h : Issues s x is e.guard (readA e 2 :: readB e e.ty.regs))
    (hbad : x.badAddress (memBytes e.ty) (memBytes e.ty) (is.map fun k => (k, x.val k e.a.toNat 2)) = none) (hroom : x.heat.unacked + is.length ≤ 65535)
    (hfine : ∀ q ∈ is.map fun k => (k, x.val k e.a.toNat 2),
      (s.account x).1.atomicMeets (s.account x).2 (atomicForm (scopeOf e.rs)) false true q.1 q.2 (memBytes e.ty) = .fine) :
    opRed e s = .next ((s.reduced x is e).1.done (s.reduced x is e).2) := by
  have hfull : (s.account x).2.fullCount is.length = false := by
    rw [Site.fullCount, State.account_snd]
    exact decide_eq_false (not_lt.mpr hroom)
  rw [opRed, issue_eq h]
  simp only [account_val, account_srcB, account_badAddress, hbad, hfull, Bool.false_eq_true, if_false]
  have hms : ∀ m ∈ (is.map fun k => (k, x.val k e.a.toNat 2)).map (fun q => (q.1, q.2,
      (s.account x).1.atomicMeets (s.account x).2 (atomicForm (scopeOf e.rs)) false true q.1 q.2 (memBytes e.ty))), m.2.2 = .fine := fun m hm => by
    obtain ⟨q, hq, rfl⟩ := List.mem_map.mp hm
    exact hfine q hq
  rw [State.sortMeets_fine hms, List.filter_eq_self.mpr fun m hm => decide_eq_true (hms m hm), List.map_map]
  rw [List.foldl_ext _ (fun y _ => y) _ fun y m hm => by rw [hms m hm], List.foldl_fixed]
  rfl

end

/-- Settles O26. -/
theorem reductions : Obligations.Reductions := by
  refine ⟨?_, fun s cl op ty c hm hty hal hv hu hb => s.homeRead_putU cl op ty c hm hty hal hv hu hb,
    fun s x sc op ty c hm hty _ hsc hn => s.sendU_near x op ty c hm hty hsc hn⟩
  intro i e s x is hi h form as hbad hroom hfine r
  have hexec : exec i s = opRed e s := by
    cases i with
    | red => cases hi; rfl
    | _ => cases hi
  have hsends := (s.account x).1.sends_eachRed (s.account x).2 e form (scopeOf e.rs) (as.map fun q => (q.1, q.2, x.srcB q.1 e % 2 ^ e.ty.bits))
  have hz := (s.issued_account x).marks hsends.marks
  have hid : (s.account x).2.team.id = x.team.id := (s.issued_account x).id
  have hbeside := State.Calm.beside (s.beside_account x) (hid ▸ hsends.calm)
  exact ⟨hexec ▸ opRed_eq h hbad hroom hfine, _, hz.keeps.unitOnly h.here hbeside, hz.keeps.advanced h.once,
    fun n k => (Site.slot_after _ s n k).trans (hz.slot n k)⟩

end Sys2Proof.Machine
end

section
/-!
SUPPORT. Stores by the class of their page (R126, R127, R130, R132, R135, R324).
-/

namespace Sys2Proof.Machine

section
variable (s : State) (x : Site)

/-! ### Stores to SEQ lines (R126, R359) -/

theorem State.snoopFor_rest (lines left : List Nat) :
    s.snoopFor lines left = { s with snoops := (s.snoopFor lines left).snoops, host := (s.snoopFor lines left).host } := by
  rw [State.snoopFor]
  induction lines generalizing s with
  | nil => rfl
  | cons l ls ih =>
    have h := (State.sendSnoops_spec l ((left.filter fun k => 2000 ≤ k ∧ k < 3000 ∧ k - 2000 ∈ s.hostsOut l).map (· - 2000)) s).1
    rw [List.foldl_cons]
    generalize s.sendSnoops l ((left.filter fun k => 2000 ≤ k ∧ k < 3000 ∧ k - 2000 ∈ s.hostsOut l).map (· - 2000)) = t at h ⊢
    have hk := ih t
    generalize ls.foldl _ t = u at hk ⊢
    rw [h] at hk
    exact hk

theorem State.post_spec (p : Posted) :
    (s.post p).mem = s.mem ∧ { p with id := s.nextId } ∈ (s.post p).posted := by
  rw [State.post, State.snoopFor_rest]
  exact ⟨rfl, List.mem_append_right _ List.mem_cons_self⟩

/-- Copies of the lines of a write that stand inside the package. -/
def State.inside (s : State) (p : Posted) : Bool := p.lines.any fun l => !(s.copies l).isEmpty

/-- The package after the caches inside it have answered a SEQ write, where the oracle lets them. -/
def State.cachesAnswered (s : State) (p : Posted) : State :=
  if s.inside p = false then s else if s.choice = 0 then (s.dropCopies fun c => decide (c.line ∈ p.lines ∧ c.cls = .seq)).chosen else s

theorem State.seqPut_eq (p : Posted) (earlier : Bool) :
    let t := s.cachesAnswered p
    let left := t.answerersOf p.src p.lines
    let u := if s.inside p ∧ left.any (· < 2000) then t.chosen else t
    s.seqPut p earlier = if left.isEmpty ∧ ¬ earlier then (u.performAt p, false) else (u.post { p with left := left }, true) := rfl

theorem State.inside_eq_false_iff {p : Posted} : s.inside p = false ↔ ∀ l ∈ p.lines, s.copies l = [] := by
  simp [State.inside]

theorem State.inside_of_answerersOf {p : Posted} (h : s.answerersOf p.src p.lines = []) : s.inside p = false := by
  refine s.inside_eq_false_iff.mpr fun l hl => ?_
  rw [State.answerersOf, List.dedup_eq_nil, List.flatMap_eq_nil_iff] at h
  have hl' := h l hl
  rw [State.answerers, List.append_eq_nil_iff, List.dedup_eq_nil, List.map_eq_nil_iff, Nat.mul_div_cancel_left l (by omega)] at hl'
  exact hl'.1

theorem State.seqPut_clear {p : Posted} (h : s.answerersOf p.src p.lines = []) : s.seqPut p false = (s.performAt p, false) := by
  have hin := s.inside_of_answerersOf h
  have ht : s.cachesAnswered p = s := if_pos hin
  rw [s.seqPut_eq, ht, hin, h]
  rfl

theorem State.performAt_plain {p : Posted} (hk : p.pack = none) (hp : p.poison = false) : s.performAt p = s.seqWrite p.pa p.bytes := by
  rw [State.performAt, hk, hp]
  rfl

/-- The write that a unit's store to a SEQ page makes. -/
def Site.seqStore (x : Site) (s : State) (h : Hit) (pa : Nat) (bs : List Byte) : Posted :=
  { id := 0, by_ := some x.u, pc := s.cur.pc, src := none, pa := pa, bytes := bs, left := [], tells := [], va := h.base + (pa - h.place) }

variable {h : Hit} {pa : Nat} {bs : List Byte} {home : Bool}

theorem State.storePage_seq (hc : h.cls = .seq) :
    s.storePage x h pa bs home =
      ((s.seqPut (x.seqStore s h pa bs) (s.posts x.u)).1, if (s.seqPut (x.seqStore s h pa bs) (s.posts x.u)).2 then x.owe 1 else x) := by
  rw [State.storePage, hc]
  rfl

theorem State.posts_eq_false {u : UnitRef} (h : ∀ p ∈ s.posted, p.by_ ≠ some u) : s.posts u = false :=
  List.any_eq_false.mpr fun p hp => by simpa using h p hp

theorem State.storePage_clear (hc : h.cls = .seq) (ha : s.answerersOf none (linesOf pa bs.length) = []) (hp : ∀ p ∈ s.posted, p.by_ ≠ some x.u) :
    s.storePage x h pa bs home = (s.seqWrite pa bs, x) := by
  rw [s.storePage_seq x hc, s.posts_eq_false hp, s.seqPut_clear (p := x.seqStore s h pa bs) ha, s.performAt_plain (p := x.seqStore s h pa bs) rfl rfl]
  rfl

theorem State.read_seqWrite (hn : s.notifyVf pa = none) (hm : s.MemOk) : Memory.read (s.seqWrite pa bs).mem pa bs.length = bs := by
  rw [State.seqWrite, hn]
  exact s.read_homeWrite pa bs hm.1

theorem State.storePage_inside (hc : h.cls = .seq) (hn : s.notifyVf pa = none) (hm : s.MemOk) (hch : s.choice = 0)
    (hl : ∀ l ∈ linesOf pa bs.length, s.outHolders none .seq l = [] ∧ ∀ c ∈ s.copies l, c.cls = .seq) (hp : ∀ p ∈ s.posted, p.by_ ≠ some x.u) :
    Memory.read (s.storePage x h pa bs home).1.mem pa bs.length = bs ∧ ∀ c ∈ (s.storePage x h pa bs home).1.lines, c.line ∉ linesOf pa bs.length := by
  have hp' := s.posts_eq_false hp
  generalize hw : x.seqStore s h pa bs = w
  have hsrc : w.src = none := hw ▸ rfl
  have hlines : w.lines = linesOf pa bs.length := hw ▸ rfl
  have ht : ∃ ls o, s.cachesAnswered w = { s with lines := ls, oracle := o } ∧ ∀ c ∈ ls, c.line ∉ linesOf pa bs.length := by
    rw [State.cachesAnswered]
    split_ifs with hin
    · refine ⟨s.lines, s.oracle, rfl, fun c hc hl => ?_⟩
      have := (s.inside_eq_false_iff).mp hin c.line (hlines ▸ hl)
      rw [State.copies, List.filter_eq_nil_iff] at this
      exact this c hc (decide_eq_true rfl)
    · refine ⟨_, _, rfl, fun c hc hline => ?_⟩
      obtain ⟨hmem, hp⟩ := (s.mem_dropCopies).mp hc
      exact of_decide_eq_false hp ⟨hlines ▸ hline, (hl _ hline).2 c (List.mem_filter.mpr ⟨hmem, decide_eq_true rfl⟩)⟩
  obtain ⟨ls, o, ht, hout⟩ := ht
  have hans : (s.cachesAnswered w).answerersOf w.src w.lines = [] := by
    rw [ht, hsrc, hlines, State.answerersOf, List.dedup_eq_nil, List.flatMap_eq_nil_iff]
    intro l hmem
    rw [State.answerers, Nat.mul_div_cancel_left l (by omega), List.append_eq_nil_iff, List.dedup_eq_nil, List.map_eq_nil_iff, State.copies, List.filter_eq_nil_iff]
    exact ⟨fun c hc hl' => hout c hc (of_decide_eq_true hl' ▸ hmem), (hl l hmem).1⟩
  have hput : s.seqPut w false = ((s.cachesAnswered w).performAt w, false) := by
    rw [s.seqPut_eq, hans]
    simp
  have hwr : (s.cachesAnswered w).performAt w = ({ s with lines := ls, oracle := o } : State).homeWrite pa bs := by
    rw [(s.cachesAnswered w).performAt_plain (hw ▸ rfl) (hw ▸ rfl), ht, State.seqWrite, show State.notifyVf _ w.pa = none from hw ▸ hn, ← hw]
    rfl
  rw [s.storePage_seq x hc, hw, hp', hput, hwr]
  exact ⟨State.read_homeWrite _ pa bs hm.1, hout⟩

/-- A write that somebody must answer, or that an earlier one of the unit holds up, is posted (R126, R359). -/
theorem State.seqPut_posted {p : Posted} {earlier : Bool} (hwait : (s.cachesAnswered p).answerersOf p.src p.lines ≠ [] ∨ earlier = true) :
    (s.seqPut p earlier).2 = true ∧ (s.seqPut p earlier).1.mem = s.mem ∧
    { p with id := s.nextId, left := (s.cachesAnswered p).answerersOf p.src p.lines } ∈ (s.seqPut p earlier).1.posted := by
  have hnot : ¬(((s.cachesAnswered p).answerersOf p.src p.lines).isEmpty = true ∧ ¬earlier = true) := fun hn =>
    hwait.elim (fun h => h (List.isEmpty_iff.mp hn.1)) hn.2
  have ht : (s.cachesAnswered p).mem = s.mem ∧ (s.cachesAnswered p).nextId = s.nextId := by
    rw [State.cachesAnswered]
    split_ifs <;> exact ⟨rfl, rfl⟩
  rw [s.seqPut_eq, if_neg hnot]
  refine ⟨rfl, ?_⟩
  split_ifs
  · obtain ⟨hmem, hp⟩ := State.post_spec (s.cachesAnswered p).chosen { p with left := (s.cachesAnswered p).answerersOf p.src p.lines }
    exact ⟨hmem.trans ht.1, ht.2 ▸ hp⟩
  · obtain ⟨hmem, hp⟩ := State.post_spec (s.cachesAnswered p) { p with left := (s.cachesAnswered p).answerersOf p.src p.lines }
    exact ⟨hmem.trans ht.1, ht.2 ▸ hp⟩

theorem State.storePage_posted (hc : h.cls = .seq)
    (hwait : (s.answerersOf none (linesOf pa bs.length) ≠ [] ∧ ((∀ l ∈ linesOf pa bs.length, s.copies l = []) ∨ s.choice ≠ 0)) ∨ (∃ p ∈ s.posted, p.by_ = some x.u)) :
    (s.storePage x h pa bs home).1.mem = s.mem ∧ (s.storePage x h pa bs home).2.heat.unacked = x.heat.unacked + 1 ∧
    ∃ p ∈ (s.storePage x h pa bs home).1.posted, p.pa = pa ∧ p.bytes = bs ∧ p.by_ = some x.u ∧
      ((∀ l ∈ linesOf pa bs.length, s.copies l = []) ∨ s.choice ≠ 0 → p.left = s.answerersOf none (linesOf pa bs.length)) := by
  have hsame (hq : (∀ l ∈ linesOf pa bs.length, s.copies l = []) ∨ s.choice ≠ 0) : s.cachesAnswered (x.seqStore s h pa bs) = s := by
    rw [State.cachesAnswered]
    split_ifs with hin hch
    · rfl
    · exact absurd ((s.inside_eq_false_iff (p := x.seqStore s h pa bs)).mpr (hq.resolve_right (not_not_intro hch))) hin
    · rfl
  obtain ⟨hposted, hmem, hp⟩ := s.seqPut_posted (p := x.seqStore s h pa bs) (earlier := s.posts x.u)
    (hwait.imp (fun hw => by rw [hsame hw.2]; exact hw.1) fun ⟨p, hp, hby⟩ => List.any_eq_true.mpr ⟨p, hp, decide_eq_true hby⟩)
  rw [s.storePage_seq x hc, hposted]
  exact ⟨hmem, rfl, _, hp, rfl, rfl, rfl, fun hq => by rw [hsame hq]; rfl⟩

/-! ### Stores to the other classes (R127, R130, R132, R135) -/

theorem State.passWide_mem (die : Nat) (pas : List Nat) : (s.passWide die pas).mem = s.mem := by
  rw [State.passWide]
  split <;> rfl

theorem State.phaseHome_read (hm : s.MemOk) : Memory.read (s.phaseHome x pa bs).1.mem pa bs.length = bs := by
  rw [State.phaseHome, State.oweLease_mem, State.passWide_mem]
  exact State.read_homeWrite _ pa bs (by rw [State.overtake_mem]; exact hm.1)

theorem wsGet_wsPut_same (ws : List WsByte) (b : WsByte) : wsGet (wsPut ws b) b.pa = some b.byte := by
  rw [wsGet, wsPut, List.find?_cons_of_pos (by simp)]
  rfl

theorem wsGet_wsPut_other (ws : List WsByte) {b : WsByte} {a : Nat} (h : b.pa ≠ a) : wsGet (wsPut ws b) a = wsGet ws a := by
  rw [wsGet, wsPut, List.find?_cons_of_neg (by simpa using h), List.find?_filter, wsGet]
  congr 2
  funext c
  by_cases hc : c.pa = a
  · simp [hc, Ne.symm h]
  · simp [hc]

theorem wsGet_wsWrite_below {bs : List Byte} (ws : List WsByte) {pa a : Nat} (o : BitVec 16) (pc : Pc) (h : a < pa) :
    wsGet (wsWrite ws pa o pc bs) a = wsGet ws a := by
  induction bs generalizing ws pa with
  | nil => rfl
  | cons b bs ih => exact (ih _ (by omega)).trans (wsGet_wsPut_other ws (by dsimp only; omega))

theorem wsGet_wsWrite {bs : List Byte} (ws : List WsByte) (pa : Nat) (o : BitVec 16) (pc : Pc) (k : Nat) (hk : k < bs.length) :
    wsGet (wsWrite ws pa o pc bs) (pa + k) = some bs[k] := by
  induction bs generalizing ws pa k with
  | nil => exact absurd hk (Nat.not_lt_zero _)
  | cons b bs ih =>
    rw [wsWrite]
    cases k with
    | zero => exact (wsGet_wsWrite_below _ o pc (by omega)).trans (wsGet_wsPut_same ws { pa := pa, byte := b, owner := o, pc := pc })
    | succ k => rw [show pa + (k + 1) = pa + 1 + k by omega]; exact ih _ _ _ _

theorem CLine.put_rest (c : CLine) (n : Nat) (bs : List Byte) :
    (c.put n bs).level = c.level ∧ (c.put n bs).line = c.line ∧ (c.put n bs).cls = c.cls := by
  induction bs generalizing c n with
  | nil => exact ⟨rfl, rfl, rfl⟩
  | cons b bs ih => exact ih _ _

theorem State.storePriv_held {lv : Level} {c : CLine} (hlv : s.storeLevel x = some lv)
    (hc : s.lines.find? (fun d => decide (d.level = lv ∧ d.line = pa / 64 ∧ d.cls = .priv)) = some c) :
    s.storePriv x h pa bs = s.putCopy { (c.put (pa % 64) bs) with owner := h.owner, used := s.uses } := by
  have hat : ((s.storeLevel x).bind fun lv => s.lines.find? fun d => decide (d.level = lv ∧ d.line = pa / 64 ∧ d.cls = .priv)) = some c := by
    rw [hlv]
    exact hc
  rw [State.storePriv]
  simp only [hat, Option.isSome_some, true_or, if_true]

theorem State.storePriv_spec {lv : Level} {c : CLine} (hlv : s.storeLevel x = some lv)
    (hc : s.lines.find? (fun d => decide (d.level = lv ∧ d.line = pa / 64 ∧ d.cls = .priv)) = some c) :
    (s.storePriv x h pa bs).mem = s.mem ∧ ∃ d ∈ (s.storePriv x h pa bs).lines, d.level = lv ∧ d.line = pa / 64 ∧ d.cls = .priv ∧
      d.bytes = (c.put (pa % 64) bs).bytes ∧ d.dirty = (c.put (pa % 64) bs).dirty ∧ d.owner = h.owner := by
  have hfound := List.find?_some hc
  obtain ⟨hl, hln, hcl⟩ := of_decide_eq_true hfound
  obtain ⟨hl', hln', hcl'⟩ := c.put_rest (pa % 64) bs
  rw [s.storePriv_held x hlv hc]
  exact ⟨rfl, _, List.mem_cons_self, hl'.trans hl, hln'.trans hln, hcl'.trans hcl, rfl, rfl, rfl⟩

end

/-- Settles O22. -/
theorem storedBytesByClass : Obligations.StoredBytesByClass := by
  intro s x h pa bs home ls
  refine ⟨fun hc hm hn ha hp => ?_, fun hc hn hm hch hl hp => s.storePage_inside x hc hn hm hch hl hp, fun hc hw => s.storePage_posted x hc hw,
    fun vf q hc hn hq ha hp => ?_, fun hc hh hm => ?_, fun hc hh => ?_, fun hc hm => ?_, fun hc hg away => ?_, fun lv c hc hlv hl => ?_⟩
  · rw [s.storePage_clear x hc ha hp]
    exact ⟨s.read_seqWrite hn hm, rfl⟩
  · rw [s.storePage_clear x hc ha hp, State.seqWrite, hn]
    dsimp only
    rw [State.notifyStore, hq, Nat.mod_mod_of_dvd pa (show 64 ∣ 4096 by decide)]
  · rw [State.storePage, hc, hh]
    exact s.phaseHome_read x hm
  · rw [State.storePage, hc, hh]
    exact ⟨rfl, fun k hk => wsGet_wsWrite _ _ _ _ k hk⟩
  · rw [State.storePage, hc]
    refine ⟨State.read_homeWrite _ pa bs hm.1, fun g hg => ?_⟩
    by_cases hin : g ∈ s.granules
    · exact List.mem_append_right _ hin
    · exact List.mem_append_left _ (List.mem_filter.mpr ⟨hg, decide_eq_true hin⟩)
  · obtain ⟨g, hg, hin⟩ := hg
    exact if_pos ⟨hc, List.any_eq_true.mpr ⟨g, hg, decide_eq_true hin⟩⟩
  · rw [State.storePage, hc]
    exact s.storePriv_spec x hlv hl

end Sys2Proof.Machine
end

section
/-!
SUPPORT. What a load finds, by the class of its page (R98 to R101, R127, R130 to R132, R135).
-/

namespace Sys2Proof.Machine

section

theorem Memory.take_drop_read (m : List Host.Cell) (a d n N : Nat) (h : d + n ≤ N) :
    ((Memory.read m a N).drop d).take n = Memory.read m (a + d) n := by
  induction N generalizing a d n with
  | zero =>
    obtain rfl : d = 0 := by omega
    obtain rfl : n = 0 := by omega
    rfl
  | succ N ih =>
    cases d with
    | zero =>
      cases n with
      | zero => rfl
      | succ n =>
        have := ih (a + 1) 0 n (by omega)
        rw [List.drop_zero] at this
        rw [Memory.read, List.drop_zero, List.take_succ_cons, this]
        rfl
    | succ d => rw [Memory.read, List.drop_succ_cons, ih (a + 1) d n (by omega), Nat.add_right_comm, Nat.add_assoc]

variable (s : State) (x : Site) (h : Hit)

/-- A range within one line is read as the line is (R362). -/
theorem State.homeRead_line {pa n : Nat} (hn : 0 < n) (hfit : pa % 64 + n ≤ 64) :
    ((s.homeRead (64 * (pa / 64)) 64).1.drop (pa % 64)).take n = (s.homeRead pa n).1 := by
  have hon : (fun l : ULine => l.onLines (64 * (pa / 64)) 64) = fun l => l.onLines pa n := by
    funext l
    rw [ULine.onLines, ULine.onLines, decide_eq_decide]
    omega
  rw [State.homeRead, State.homeRead, State.recallU, State.recallU, hon]
  rw [Memory.take_drop_read _ _ _ _ _ hfit, Nat.div_add_mod]

theorem State.ulines_roomL2 {s : State} {t : State} {die line part w : Nat} (hr : s.roomL2 die line part = some (w, t)) : t.ulines = s.ulines := by
  rw [State.roomL2] at hr
  split at hr
  · cases hr
    rfl
  · obtain ⟨c, -, hc⟩ := Option.map_eq_some_iff.mp hr
    cases hc
    rfl

theorem State.ulines_useHome (line : Nat) : (s.useHome h line).ulines = s.ulines := by
  rw [State.useHome]
  split
  · rfl
  · split
    · rfl
    · dsimp only
      split
      · rfl
      · split
        · rfl
        next hr => exact (State.ulines_roomL2 hr).trans rfl

/-- The bytes of a line that comes to a unit. -/
def State.lineFor (s : State) (x : Site) (h : Hit) (line : Nat) : List Byte :=
  match s.copyFor x h.cls line with
  | some c => if h.cls = .phase ∨ h.cls = .priv then c.bytes else (s.homeRead (64 * line) 64).1
  | none => (s.homeRead (64 * line) 64).1

theorem State.bring_fst (line rc : Nat) : (s.bring x h line rc).1 = s.lineFor x h line := by
  rw [State.bring, State.lineFor]
  cases s.copyFor x h.cls line with
  | none => rfl
  | some c => cases h.cls <;> rfl

/-- The bytes that a load finds in one part of a page. -/
def State.partFor (s : State) (x : Site) (h : Hit) (pa n : Nat) : List Byte := ((s.lineFor x h (pa / 64)).drop (pa % 64)).take n

variable {s x h} {pa n rc : Nat} {vol : Bool}

theorem State.partFor_home (hn : 0 < n) (hfit : pa % 64 + n ≤ 64) (hc : h.cls = .seq ∨ h.cls = .stream ∨ s.copyFor x h.cls (pa / 64) = none) :
    s.partFor x h pa n = (s.homeRead pa n).1 := by
  have hl : s.lineFor x h (pa / 64) = (s.homeRead (64 * (pa / 64)) 64).1 := by
    rw [State.lineFor]
    obtain hc | hc | hc := hc
    · rw [hc]
      cases s.copyFor x .seq (pa / 64) <;> rfl
    · rw [hc]
      cases s.copyFor x .stream (pa / 64) <;> rfl
    · rw [hc]
  rw [State.partFor, hl, s.homeRead_line hn hfit]

theorem State.partFor_copy {c : CLine} (hcls : h.cls = .phase ∨ h.cls = .priv) (hc : s.copyFor x h.cls (pa / 64) = some c) :
    s.partFor x h pa n = c.slice pa n := by
  rw [State.partFor, State.lineFor, hc]
  dsimp only
  rw [if_pos hcls, CLine.slice]

theorem State.readPart_near (hc : h.cls = .seq ∧ s.notifyVf pa = none ∨ h.cls = .stream ∧ s.oldPart? (.unit x.u) pa = none ∨ h.cls = .priv) :
    (s.readPart x h pa n rc vol).1 = s.partFor x h pa n := by
  have hb := s.bring_fst x h (pa / 64) rc
  unfold State.readPart
  obtain ⟨hc, hn⟩ | ⟨hc, hn⟩ | hc := hc <;> rw [hc]
  · dsimp only
    rw [hn]
    exact congrArg (fun l => (l.drop (pa % 64)).take n) hb
  · dsimp only
    rw [hn]
    exact congrArg (fun l => (l.drop (pa % 64)).take n) hb
  · exact congrArg (fun l => (l.drop (pa % 64)).take n) hb

theorem State.readPart_phase (hc : h.cls = .phase) : (s.readPart x h pa n rc false).1 = s.phaseBytes x pa (s.partFor x h pa n) := by
  have hb := s.bring_fst x h (pa / 64) rc
  have hw : (s.bring x h (pa / 64) rc).2.wide = s.wide := by rw [(s.stirs_bring x h (pa / 64) rc).rest]
  unfold State.readPart
  rw [hc]
  dsimp only
  rw [if_neg Bool.false_ne_true, State.partFor, ← hb]
  unfold State.phaseBytes State.wideOver State.wideAt
  rw [hw]

theorem State.readPart_vol (hc : h.cls = .phase) : (s.readPart x h pa n rc true).1 = (s.homeRead pa n).1 := by
  unfold State.readPart
  rw [hc]
  exact (State.homeRead_congr (s.mem_useHome h _) (s.ulines_useHome h _) pa n).1

theorem State.loadPage_fst {va : Nat} (hn : 0 < n ∧ n ≤ 8) (hp : s.pageEntry x.team.ctx h = none) :
    (s.loadPage x h va n rc vol).1 = (s.readPart x h (h.phys va) n rc vol).1 := by
  have hone : (n + 7) / 8 = 1 := by omega
  have hparts : s.readParts x h (h.phys va) n rc vol 1 = ((s.readPart x h (h.phys va) n rc vol).1, (s.readPart x h (h.phys va) n rc vol).2) := by
    rw [State.readParts, Nat.min_eq_left hn.2]
    exact Prod.ext (List.append_nil _) rfl
  have hlook := (s.looks_readPart x h (h.phys va) n rc vol).bare x.team.ctx
  have hp' : (s.readPart x h (h.phys va) n rc vol).2.pageEntry x.team.ctx h = none := by
    have hf : ((s.readPart x h (h.phys va) n rc vol).2.ctx? x.team.ctx).map Context.fmts = (s.ctx? x.team.ctx).map Context.fmts := by
      have := congrArg (Option.map Context.fmts) hlook
      rwa [Option.map_map, Option.map_map] at this
    have hb (t : State) : ((t.ctx? x.team.ctx).bind fun c => c.fmts[h.fmt]?) = ((t.ctx? x.team.ctx).map Context.fmts).bind fun f => f[h.fmt]? := by
      cases t.ctx? x.team.ctx <;> rfl
    rw [State.pageEntry, hb] at hp ⊢
    rw [hf]
    exact hp
  rw [State.loadPage, hone, hparts]
  dsimp only
  rw [hp']

theorem State.loadGot_fst {fib ea va : Nat} {acq : Bool} (hn : 0 < n ∧ n ≤ 8) (hk : x.check fib ea n n = .ok (.virt va))
    (hr : s.reachX x va .load (loadForm vol acq) = .ok h) (ho : s.orderWaits x fib h vol = false) (hpo : s.loadPoison x h (h.phys va) n vol = false)
    (hp : s.pageEntry x.team.ctx h = none) :
    (s.loadGot x fib ea n rc vol acq).1 = .value (leNat (s.readPart x h (h.phys va) n rc vol).1) := by
  rw [State.loadGot, hk]
  dsimp only
  rw [hr]
  dsimp only
  rw [ho, hpo, ← State.loadPage_fst hn hp]
  rfl

theorem State.readPart_notify {vf : Nat} (hc : h.cls = .seq) (hn : s.notifyVf pa = some vf) :
    (s.readPart x h pa n rc vol).1 = leBytes (s.notifyLoad vf (pa % 4096) n).toNat n := by
  unfold State.readPart
  rw [hc]
  dsimp only
  rw [hn, Option.isSome_some, if_pos rfl, State.seqRead, hn]

/-- A tail register takes four bytes (R324). -/
theorem leNat_notifyLoad {vf : Nat} {q : Queue} (hq : s.queueAt vf (pa % 4096 / 64) = some q) :
    leNat (leBytes (s.notifyLoad vf (pa % 4096) n).toNat n) = if pa % 64 = 0 ∧ n = 4 then q.tail.toNat else 0 := by
  rw [leNat_leBytes, State.notifyLoad, hq, Nat.mod_mod_of_dvd pa (show 64 ∣ 4096 by decide)]
  split_ifs with h4
  · rw [h4.2]
    exact Nat.mod_eq_of_lt q.tail.isLt
  · exact Nat.zero_mod _

end

/-- Settles O20. -/
theorem loadedValuesByClass : Obligations.LoadedValuesByClass := by
  intro s x fib ea n rc vol acq hn
  have hn' : 0 < n ∧ n ≤ 8 := by
    simp only [List.mem_cons, List.not_mem_nil, or_false] at hn
    omega
  refine ⟨fun o hk => by rw [State.loadGot, hk]; rfl, fun o hk => by rw [State.loadGot, hk]; rfl, fun va h hk hr ho hpo hp hfit => ?_⟩
  have hhome (hc : h.cls = .seq ∨ h.cls = .stream ∨ s.copyFor x h.cls (h.phys va / 64) = none) := State.partFor_home hn'.1 hfit hc
  rw [State.loadGot_fst hn' hk hr ho hpo hp]
  refine ⟨fun hc hv => ?_, fun vf q hc hv hq => ?_, fun hc hv hcp => ?_, fun c hc hv hcp => ?_, fun hc hv => ?_, fun hc hold => ?_, fun hc hcp => ?_, fun c hc hcp => ?_⟩
  · rw [State.readPart_near (.inl ⟨hc, hv⟩), hhome (.inl hc)]
  · rw [State.readPart_notify hc hv, leNat_notifyLoad hq]
  · rw [hv, State.readPart_phase hc, hhome (.inr (.inr (hc ▸ hcp)))]
  · rw [hv, State.readPart_phase hc, State.partFor_copy (.inl hc) (hc ▸ hcp)]
  · rw [hv, State.readPart_vol hc]
  · rw [State.readPart_near (.inr (.inl ⟨hc, hold⟩)), hhome (.inr (.inl hc))]
  · rw [State.readPart_near (.inr (.inr hc)), hhome (.inr (.inr (hc ▸ hcp)))]
  · rw [State.readPart_near (.inr (.inr hc)), State.partFor_copy (.inr hc) (hc ▸ hcp)]

end Sys2Proof.Machine
end

section
/-!
SUPPORT. QUNPACK, QSCALE and QCHK (R92, R93, R281 to R283).
-/

namespace Sys2Proof.Machine

section
variable {s u : State} {x : Site} {is : List Nat} {e : Ext} {f : Entry}

@[simp] theorem account_entryOf (s : State) (x : Site) (e : Ext) : (s.account x).1.entryOf (s.account x).2 e = s.entryOf x e := by
  rw [State.entryOf, account_team_ctx, State.ctx?, account_ctxs]
  rfl

@[simp] theorem account_spanValue (s : State) (x : Site) (e : Ext) (i k : Nat) : (s.account x).2.spanValue e i k = x.spanValue e i k := by
  simp [Site.spanValue]

@[simp] theorem account_span (s : State) (x : Site) (e : Ext) (is : List Nat) : (s.account x).2.span e is = x.span e is := by
  simp [Site.span]

theorem qunpack_computes (hf : s.entryOf x e = some f) (h : Issues s x is e.guard [useD e 1, readA e 1, { reg := e.b.toNat, n := 1, rd := true }])
    (hw : (e.imm.toNat % 32 + 1) * f.w ≤ 32) :
    Computes (opQunpack e s) s x is (rounded1 e x (fmtOf e.ty) fun k =>
      Fp.mul (f.decode (bitsOf (x.val k e.a.toNat 1) (e.imm.toNat % 32 * f.w) f.w)) (FFmt.f32.read (x.val k e.b.toNat 1))) := by
  have hc := drawn_computes (n := 1) (k := 1) h (.inl List.mem_cons_self) (fun z k => z.rnd e k 0
    (Fp.mul (f.decode (bitsOf (z.val k e.a.toNat 1) (e.imm.toNat % 32 * f.w) f.w)) (FFmt.f32.read (z.val k e.b.toNat 1)))) (by simp)
  have ht : bitsOf e.imm.toNat 0 5 = e.imm.toNat % 32 := by rw [bitsOf]; simp
  rw [opQunpack, issue_eq h, ht, account_entryOf, hf]
  dsimp only
  rw [if_neg (not_lt.mpr hw)]
  rw [issue_eq h] at hc
  exact hc

theorem qscale_computes (hf : s.entryOf x e = some f) (h : Issues s x is e.guard [useD e 1, usesSpan e]) (hb : f.block ≤ spanLen e) :
    Computes (opQscale e s) s x is (toD32 e fun k =>
      256 * chooseScale f ((((x.span e is).map Supply.val).drop (spanEach e * k / f.block * f.block)).take f.block)) := by
  rw [opQscale, issue_eq h, account_entryOf, hf]
  dsimp only
  rw [if_neg (not_lt.mpr hb), account_span]
  have hp := writes_computes h (f := fun _ i y =>
    y.dst32 i e (256 * chooseScale f ((((x.span e is).map Supply.val).drop (spanEach e * i / f.block * f.block)).take f.block)))
    (toD32 e fun k => 256 * chooseScale f ((((x.span e is).map Supply.val).drop (spanEach e * k / f.block * f.block)).take f.block))
    (fun _ _ _ => rfl) (fun i hi k hk => h.fields (useD e 1) (by simp) i hi k hk) (fun hb => nomatch hb)
  exact hp

/-! ### QCHK (R92, R93, R283) -/

theorem State.checkChunk_peeks {a c : Nat} {chunk : List Byte} {ok : Bool} (h : s.checkChunk x is a c = (.rind f chunk ok, u)) : s.Peeks u := by
  rw [State.checkChunk] at h
  split at h
  · cases h
  · cases h
  · split_ifs at h
    · cases h
    · dsimp only at h
      split at h
      · cases h
      · cases h
      · cases h
      · cases h
      · split_ifs at h
        · cases h
        · cases h
        · cases h
          exact (s.peeks_dropCopies _).trans (State.peeks_chunkBytes _ _ _ _ _ _)

/-- What QCHK writes in each executing fibre. -/
def qchkEffect (e : Ext) (f : Entry) (chunk : List Byte) (ok : Bool) : Effect :=
  { d := e.d.toNat, n := if ok then 1 else 0, v := fun _ => f.rindWord chunk,
    bit := if e.mod.getLsbD 0 then some (e.c.toNat % 32, fun _ => ok) else none }

/-- The writes of QCHK on a unit. -/
def qchkWrites (e : Ext) (f : Entry) (chunk : List Byte) (ok : Bool) (_ : Site) (i : Nat) (y : Site) : Site := y.write (qchkEffect e f chunk ok) i

theorem opQchk_eq {chunk : List Byte} {ok : Bool}
    (h : Issues s x is e.guard ((if e.mod.getLsbD 0 then [readV0] else []) ++ [useD e 1, readA e 2, { reg := e.b.toNat, n := 1, rd := true }]))
    (hw : windowOf (x.val (is.headD 0) e.a.toNat 2) = some .global) (ha : x.val (is.headD 0) e.a.toNat 2 % 65536 = 0)
    (hc : (s.account x).1.checkChunk (s.account x).2 is (x.val (is.headD 0) e.a.toNat 2) (x.val (is.headD 0) e.b.toNat 1) = (.rind f chunk ok, u))
    (ht : ok = true ∨ e.mod.getLsbD 0 = true) : opQchk e s = regEffect (qchkWrites e f chunk ok) u (s.account x).2 is := by
  have hv (hm : e.mod.getLsbD 0 = true) (i : Nat) (hi : i ∈ is) : x.Knows i 0 :=
    h.values readV0 (by rw [hm]; exact List.mem_cons_self) rfl i hi 0 Nat.one_pos
  rw [opQchk, issue, issueWith_eq _ (h.mono fun u hu => List.mem_append_right _ hu) (by rw [Site.barred, if_neg (fun hc => nomatch hc.1), if_neg nofun]) hv]
  simp only [account_val, hw, ne_eq, not_true, if_false, ha, hc]
  have hwr : qchkWrites e f chunk ok = fun _ i y =>
      if ok then if e.mod.getLsbD 0 then (y.dst32 i e (f.rindWord chunk)).setGuard i (e.c.toNat % 32) true else y.dst32 i e (f.rindWord chunk)
      else y.setGuard i (e.c.toNat % 32) false := by
    funext z i y
    rw [qchkWrites, qchkEffect]
    cases ok with
    | true => cases e.mod.getLsbD 0 <;> rfl
    | false =>
      rw [ht.resolve_left Bool.false_ne_true]
      rfl
  rw [hwr]
  cases ok with
  | true => rfl
  | false =>
    rw [if_neg Bool.false_ne_true, if_pos (ht.resolve_left Bool.false_ne_true)]
    rfl

/-- What an issue that reads leaves once it is done. -/
theorem reads_done {t : State} (h : (s.account x).1.Peeks u) (ht : t = { u with teams := t.teams }) : Reads s t where
  rest := by
    have hr := h.rest
    rw [State.account_fst] at hr
    rw [ht, hr]
  bytes a hp _ := by
    rw [ht, h.bytes a (by rw [State.account_fst]; exact hp), account_mem]
  pending l hl := by
    rw [ht] at hl
    have := h.pending l hl
    rwa [State.account_fst] at this
  ctxs id := by
    have := h.bare id
    rw [State.account_fst] at this
    rw [ht]
    exact this

theorem qchk_spec {chunk : List Byte} {ok : Bool}
    (h : Issues s x is e.guard ((if e.mod.getLsbD 0 then [readV0] else []) ++ [useD e 1, readA e 2, { reg := e.b.toNat, n := 1, rd := true }]))
    (hw : windowOf (x.val (is.headD 0) e.a.toNat 2) = some .global) (ha : x.val (is.headD 0) e.a.toNat 2 % 65536 = 0)
    (hc : (s.account x).1.checkChunk (s.account x).2 is (x.val (is.headD 0) e.a.toNat 2) (x.val (is.headD 0) e.b.toNat 1) = (.rind f chunk ok, u))
    (ht : ok = true ∨ e.mod.getLsbD 0 = true) :
    ∃ t y, opQchk e s = .next t ∧ Reads s t ∧ UnitOnly s t x y ∧ Advanced s x y ∧ Wrote x y is (qchkEffect e f chunk ok) := by
  have hpeeks := State.checkChunk_peeks hc
  have hcur : u.cur = s.cur := by rw [hpeeks.rest, account_cur]
  have hteams : u.teams = s.teams := by rw [hpeeks.rest, account_teams]
  have hbeside : s.Beside u x := .of_teams hcur hteams fun id hne => by rw [hpeeks.rest]; exact State.account_meet? s x id hne
  obtain ⟨t, y, he, hu, hadv, hwr, ht'⟩ := writes_beside h hbeside (f := qchkWrites e f chunk ok) (qchkEffect e f chunk ok) (fun _ _ _ => rfl)
    (fun i hi k hk => by
      have hk0 : k = 0 := Nat.lt_one_iff.mp (hk.trans_le (show (if ok then 1 else 0) ≤ 1 by cases ok <;> decide))
      exact hk0 ▸ h.fields (useD e 1) (by simp) i hi 0 Nat.one_pos)
    (fun hb i hi => by
      have hm : e.mod.getLsbD 0 = true := by
        by_contra hm
        rw [show (qchkEffect e f chunk ok).bit = none from if_neg hm] at hb
        cases hb
      exact (h.values readV0 (by rw [hm]; exact List.mem_cons_self) rfl i hi 0 Nat.one_pos).1)
  exact ⟨t, y, (opQchk_eq h hw ha hc ht).trans he, reads_done hpeeks ht', hu, hadv, hwr⟩

end

end Sys2Proof.Machine
end

section
/-!
SUPPORT. QPACK (R87, R91, R279, R280): what its chunks leave of the package and of the unit.
-/

namespace Sys2Proof.Machine

section
variable (s : State) (x : Site)

/-! ### Writes to SEQ pages -/

theorem State.calm_snoopFor (team : Nat) (lines left : List Nat) : s.Calm team (s.snoopFor lines left) := by
  rw [State.snoopFor_rest]
  exact .of_teams rfl rfl rfl

theorem State.calm_performAt (team : Nat) (p : Posted) : s.Calm team (s.performAt p) := by
  have hpoison (t : State) : t.Calm team (if p.poison then { t with poison := p.lines ++ t.poison.filter (· ∉ p.lines) } else t) := by
    split
    · exact .of_teams rfl rfl rfl
    · exact .refl t
  rw [State.performAt]
  cases p.pack with
  | none => exact (s.calm_seqWrite team _ _).trans (hpoison _)
  | some k =>
    have hr := s.spreads_homeRead team k.base k.format.chunkBytes
    dsimp only
    generalize s.homeRead k.base k.format.chunkBytes = q at hr ⊢
    exact (State.Calm.of_spreads (hr.trans (State.spreads_publish _ _ _))).trans (hpoison _)

theorem State.calm_seqPut (team : Nat) (p : Posted) (earlier : Bool) : s.Calm team (s.seqPut p earlier).1 := by
  have hans : s.Calm team (s.cachesAnswered p) := by
    rw [State.cachesAnswered]
    split_ifs <;> exact .of_teams rfl rfl rfl
  have hchosen (c : Prop) [Decidable c] : s.Calm team (if c then (s.cachesAnswered p).chosen else s.cachesAnswered p) := by
    split
    · exact hans.trans (.of_teams rfl rfl rfl)
    · exact hans
  have hu := hchosen (s.inside p = true ∧ ((s.cachesAnswered p).answerersOf p.src p.lines).any (· < 2000) = true)
  rw [s.seqPut_eq]
  generalize (if s.inside p = true ∧ ((s.cachesAnswered p).answerersOf p.src p.lines).any (· < 2000) = true then (s.cachesAnswered p).chosen
    else s.cachesAnswered p) = u at hu ⊢
  split
  · exact hu.trans (u.calm_performAt team p)
  · rw [State.post]
    refine hu.trans (State.Calm.trans ?_ (State.calm_snoopFor _ team _ _))
    exact .of_teams rfl rfl rfl

/-! ### Chunks -/

variable (h : Hit)

theorem Site.marks_owe (n : Nat) : x.Marks (x.owe n) := ⟨rfl⟩

theorem State.sends_packSeq (pa va sat : Nat) (ps : List (Nat × List Byte)) : s.Sends x (s.packSeq x h pa va sat ps) := by
  rw [State.packSeq]
  refine ⟨s.calm_seqPut _ _ _, ?_⟩
  dsimp only
  split
  · exact x.marks_owe 1
  · exact .refl x

theorem State.calm_engPut (team : Nat) (offers : List Offer) (pa : Nat) (bs : List Byte) (hc : h.cls = .seq ∨ h.cls = .stream) :
    s.Calm team (s.engPut x h offers pa bs) := by
  rw [State.engPut]
  obtain hc | hc := hc
  · rw [hc]
    exact (State.Calm.of_stirs (State.stirs_dropCopies _ _)).trans (State.calm_seqWrite _ _ _ _)
  · rw [hc]
    exact .of_teams rfl rfl rfl

theorem State.sends_packPiece (pa : Nat) (bs : List Byte) : s.Sends x (s.packPiece x h pa bs) := by
  unfold State.packPiece
  cases hc : h.cls with
  | seq => exact ⟨s.calm_engPut x h _ _ _ _ (.inl hc), .refl x⟩
  | stream => exact ⟨s.calm_engPut x h _ _ _ _ (.inr hc), .refl x⟩
  | phase =>
    dsimp only
    rw [State.storePage, hc]
    exact ⟨.of_stirs (s.stirs_uncount x _), ⟨rfl⟩⟩
  | priv => exact ⟨.of_stirs (State.Stirs.foldl (fun s p => s.stirs_storePriv x h _ _) _ s), .refl x⟩

theorem Site.marks_notePack (f : Entry) (pa sat : Nat) : x.Marks (x.notePack s h f pa sat) := ⟨rfl⟩

theorem State.sends_packChunk (e : Ext) (f : Entry) (vs : List Supply) (p : PackChunk) : s.Sends x (s.packChunk x e f vs p) := by
  unfold State.packChunk
  cases s.reachRange x (p.addr f) f.chunkBytes .store .conv with
  | error b => exact .refl s x
  | ok h =>
    dsimp only
    have hp : s.Peeks ((s.freshen x (h.phys (p.addr f)) f.chunkBytes).chunkBytes x (.unit x.u) h (h.phys (p.addr f)) f.chunkBytes).2 :=
      (s.peeks_dropCopies _).trans (State.peeks_chunkBytes _ _ _ _ _ _)
    generalize (s.freshen x (h.phys (p.addr f)) f.chunkBytes).chunkBytes x (.unit x.u) h (h.phys (p.addr f)) f.chunkBytes = c at hp ⊢
    have hc : s.Sends x (c.2, x) := ⟨.of_teams (by rw [hp.rest]) (by rw [hp.rest]) (by rw [hp.rest]), .refl x⟩
    refine hc.trans ?_
    dsimp only
    by_cases hseq : h.cls = .seq
    · rw [if_pos hseq]
      exact c.2.sends_packSeq x h _ _ _ _
    · rw [if_neg hseq]
      generalize packedPieces f p _ = ps
      have hf := State.Sends.foldl (fun (r : State × Site) (q : Nat × List Byte) => r.1.sends_packPiece r.2 h (h.phys (p.addr f) + q.1) q.2) ps (c.2, x)
      generalize ps.foldl _ (c.2, x) = r at hf ⊢
      refine hf.trans ⟨?_, ?_⟩
      · dsimp only
        split
        · exact .of_teams rfl rfl rfl
        · exact .refl _
      · dsimp only
        split
        · exact Site.marks_notePack _ _ _ _ _ _
        · exact .refl _

/-! ### The instruction -/

variable {s x} {is : List Nat} {e : Ext} {f : Entry}

/-- What QPACK leaves of the package and of the unit. -/
def State.packed (s : State) (x : Site) (is : List Nat) (e : Ext) (f : Entry) : State × Site :=
  (packChunks f (x.val (is.headD 0) e.a.toNat 2) (x.val (is.headD 0) e.b.toNat 1) (spanLen e)).foldl
    (fun p q => p.1.packChunk p.2 e f (x.span e is) q) ((s.account x).1, (s.account x).2.spanDrawn e is)

theorem opQpack_eq (h : Issues s x is e.guard [readA e 2, { reg := e.b.toNat, n := 1, rd := true }, usesSpan e])
    (hc : (s.account x).1.packCheck (s.account x).2 e (x.val (is.headD 0) e.a.toNat 2) (x.val (is.headD 0) e.b.toNat 1) = .go f)
    (hroom : x.heat.unacked + (packChunks f (x.val (is.headD 0) e.a.toNat 2) (x.val (is.headD 0) e.b.toNat 1) (spanLen e)).length ≤ 65535)
    (hm : ∀ p ∈ packChunks f (x.val (is.headD 0) e.a.toNat 2) (x.val (is.headD 0) e.b.toNat 1) (spanLen e),
      (s.account x).1.packMeets (s.account x).2 is f p = .fine) :
    opQpack e s = .next ((s.packed x is e f).1.done (s.packed x is e f).2) := by
  have hfull : (s.account x).2.fullCount (packChunks f (x.val (is.headD 0) e.a.toNat 2) (x.val (is.headD 0) e.b.toNat 1) (spanLen e)).length = false := by
    rw [Site.fullCount, State.account_snd]
    exact decide_eq_false (not_lt.mpr hroom)
  rw [opQpack, issue_eq h, State.packed]
  simp only [account_val, hc, hfull, Bool.false_eq_true, if_false]
  rw [State.sortMeets_fine fun m hmem => by obtain ⟨q, hq, rfl⟩ := List.mem_map.mp hmem; exact hm q hq]
  rw [List.foldl_ext _ (fun p q => p.1.packChunk p.2 e f (x.span e is) q) _ fun p q hq => by rw [hm q hq, account_span]]

theorem Site.spanDrawn_eq (z : Site) : z.spanDrawn e is = is.foldl (fun y i => y.write (drawnEffect e z 0 (spanEach e) fun _ => 0) i) z :=
  List.foldl_ext _ _ _ fun y i _ => z.drawn_setVal y e 0 (spanEach e) (fun _ => 0) i

/-- Drawing for the span moves the generators of the executing fibres and writes no register (R78). -/
theorem State.spanDrawn_spec {us : List Use} {g : Guard} (h : Issues s x is g us) :
    s.Keeps x ((s.account x).2.spanDrawn e is) ∧ Wrote x ((s.account x).2.spanDrawn e is) is (drawnEffect e x 0 (spanEach e) fun _ => 0) := by
  rw [Site.spanDrawn_eq]
  refine ⟨(State.keeps_account s x).sameBut (sameBut_fold (fun i y => y.write _ i) (fun i y => y.sameBut_write _ i) is _), ?_⟩
  have hw := (wrote_fold is (drawnEffect e (s.account x).2 0 (spanEach e) fun _ => 0) (s.account x).2 (fun i hi k hk => absurd hk (Nat.not_lt_zero _))
    (fun hb => nomatch hb) (fun i hi => by rw [account_fibre?_eq, Option.isSome_map]; exact h.live i (h.sub i hi)) h.nodup).ofAccount
  rwa [show drawnEffect e (s.account x).2 0 (spanEach e) (fun _ => 0) = drawnEffect e x 0 (spanEach e) fun _ => 0 by simp [drawnEffect]] at hw ⊢

theorem Site.Marks.slot {y z : Site} (h : y.Marks z) (n r : Nat) : z.slot n r = y.slot n r := by
  have hr := h.rest
  exact Site.slot_congr y z n r (by rw [hr]) (by rw [hr]; rfl) (by rw [hr])

theorem State.packed_spec {us : List Use} {g : Guard} (h : Issues s x is g us) :
    ∃ z, UnitOnly s ((s.packed x is e f).1.done (s.packed x is e f).2) x z ∧ Advanced s x z ∧ (∀ n r, z.slot n r = x.slot n r) ∧
      ∀ n, z.seed n = if n ∈ is ∧ e.rs = 4 then srAfter (x.seed n) (spanEach e) else x.seed n := by
  obtain ⟨hk, hw⟩ := State.spanDrawn_spec (e := e) h
  have hs : (s.account x).1.Sends ((s.account x).2.spanDrawn e is) (s.packed x is e f) :=
    State.Sends.foldl (fun p q => p.1.sends_packChunk p.2 e f (x.span e is) q) _ ((s.account x).1, (s.account x).2.spanDrawn e is)
  generalize (s.account x).2.spanDrawn e is = y at hk hw hs
  have hr := hs.marks.rest
  have hk' : s.Keeps x (s.packed x is e f).2 :=
    hk.congr (by rw [hr]) (by rw [hr]) (by rw [hr]) (by rw [hr]) (by rw [hr]) (by rw [hr]) (by rw [hr])
  have hbeside := State.Calm.beside (s.beside_account x) (hk.id ▸ hs.calm)
  refine ⟨_, hk'.unitOnly h.here hbeside, hk'.advanced h.once, fun n r => (Site.slot_after _ s n r).trans ?_, fun n => (Site.seed_after _ h.once n).trans ?_⟩
  · refine (hs.marks.slot n r).trans ?_
    by_cases hr0 : n ∈ is ∧ r = 0
    · rw [hr0.2, hw.v0 n hr0.1]
      exact if_neg fun hc => absurd hc.2 (Nat.lt_irrefl 0)
    · refine hw.others n r ?_
      rw [drawnEffect]
      by_cases hn : n ∈ is
      · exact .inr ⟨fun hz => hr0 ⟨hn, hz⟩, by dsimp only; omega⟩
      · exact .inl hn
  · have hfib : (s.packed x is e f).2.heat.fibres = y.heat.fibres := by rw [hr]
    rw [Site.seed_of_fibres hfib n, hw.seeds n, drawnEffect, drawn]
    by_cases h4 : e.rs = 4
    · rw [if_pos h4]
      simp only [h4, and_true]
    · rw [if_neg h4]
      simp only [h4, and_false, if_false]

end

/-- Settles O36. -/
theorem pageFormats : Obligations.PageFormats := by
  refine ⟨fun i e s x is f hf => ⟨fun hi h hw => ?_, fun hi h hb => ?_⟩, fun i e s u x is f chunk ok hi => ?_, fun i e s x is f hi h => ?_⟩
  · rw [show exec i s = opQunpack e s by
      cases i with
      | qunpack => cases hi; rfl
      | _ => cases hi]
    exact qunpack_computes hf h hw
  · rw [show exec i s = opQscale e s by
      cases i with
      | qscale => cases hi; rfl
      | _ => cases hi]
    exact qscale_computes hf h hb
  · intro tries h n hw ha hc ht
    rw [show exec i s = opQchk e s by
      cases i with
      | qchk => cases hi; rfl
      | _ => cases hi]
    exact qchk_spec h hw ha hc ht
  · intro a j ps hc hroom hm y
    rw [show exec i s = opQpack e s by
      cases i with
      | qpack => cases hi; rfl
      | _ => cases hi]
    exact ⟨opQpack_eq h hc hroom hm, State.packed_spec h⟩

end Sys2Proof.Machine
end

section
/-!
SUPPORT. The dirty PRIV lines of a retiring team (R49, R132): with a clean line of a chunk reach its home the other dirty lines of the chunk in that cache
(R92), and one of those, of another class, holds the line that the statement follows.
-/

namespace Sys2Proof.Tests

open Sys2Proof Sys2Proof.Machine

/-- The dirty PRIV line, in the cluster cache. -/
def line49 : CLine := { dirty1 with level := .clus t14.cl }

/-- A clean line of a chunk in the core's L0, and with it a dirty copy of the other line there, of another class. -/
def chunk49 : List CLine :=
  [{ dirty1 with line := dirty1.line + 1, dirty := List.replicate 64 false, chunk := some (0, 0) },
   { dirty1 with cls := .phase, bytes := dirty1.bytes.map (· + 1), chunk := some (0, 0) }]

/-- The bench of the retiring team with these lines, while their page changes its class. -/
def s49 : State := { s14r with lines := line49 :: chunk49, changes := [{ page := dirty1.line / 64, old := .priv, new := .phase }] }

/-- What the team has after the first step of its retirement. -/
def a49 : State := s49.cleanLevels t14.ownLevel

/-- What a dirty byte of it finds at its home then. -/
theorem overwritten49 : (line49.dirtyBytes.all fun p => decide (Memory.get a49.mem p.1 = p.2)) = false := by decide +kernel

theorem mem49 : s49.MemOk := mem14

theorem owes49 : ((a49.releaseTeam t14).team? 0).map Team.owes = some false := by decide +kernel

end Sys2Proof.Tests

namespace Sys2Proof.Machine

open Sys2Proof.Tests

/-- Refutes O49: a dirty byte of the one dirty PRIV line of a retiring team does not stand at its home, since a clean line of the same team takes a copy of another
class there with it. -/
theorem not_meetsRunAndRetire : ¬ Obligations.MeetsRunAndRetire := by
  intro h
  obtain ⟨m, hm⟩ : ∃ m, s49.meet? 0 = some m := Option.isSome_iff_exists.mp (by decide +kernel)
  obtain ⟨f, hf⟩ : ∃ f, m.fields[t14.field]? = some f := by
    have : ((s49.meet? 0).bind fun m => m.fields[t14.field]?).isSome = true := by decide +kernel
    rw [hm] at this
    exact Option.isSome_iff_exists.mp this
  obtain ⟨r, hr, howes⟩ := Option.map_eq_some_iff.mp owes49
  obtain ⟨-, -, -, hretire, -⟩ := h s49 0 m hm
  obtain ⟨v, w, n, g, -, -, -, -, -, -, -, -, -, hline, -⟩ := hretire 0 t14 f (by decide +kernel) (by decide +kernel) hf rfl (by decide +kernel) (by decide +kernel)
    (by decide +kernel) (by decide +kernel) r hr howes
  have hbytes := hline line49 mem49 (by decide +kernel) rfl (by decide +kernel) (by decide +kernel) (by decide +kernel)
  exact Bool.false_ne_true (overwritten49.symm.trans (List.all_eq_true.mpr fun p hp => decide_eq_true (hbytes p hp)))

end Sys2Proof.Machine
end

section
/-!
SUPPORT. Operations by their handles (R308): what replacing, ending and failing one leaves of its team, and what the counter it names then holds.
-/

namespace Sys2Proof.Machine

section
variable {s : State} {t u : Team} {h : Word} {x y : Xfer} {team : Nat}

/-! ### One operation of a team -/

theorem Team.handle_xfer? (hx : t.xfer? h = some x) : x.handle = h := by
  have hp := List.find?_some hx
  exact of_decide_eq_true hp

theorem Team.xfer?_putXfer (hx : t.xfer? h = some x) (hy : y.handle = h) : (t.putXfer y).xfer? h = some y := by
  have hp := find?_map_upd2 t.xfers (fun z => decide (z.handle = h)) y x hx (decide_eq_true hy)
  simp only [decide_eq_true_eq] at hp
  rw [Team.putXfer, Team.xfer?, hy]
  exact hp

theorem Team.ended_finish (hx : x.handle = h) (c : Byte) (st : Nat) : t.ended (t.finish x c st) h (statusWord x.work.gen c st) := by
  subst hx
  constructor
  · rw [Team.xfer?, List.find?_eq_none]
    intro z hz hp
    exact of_decide_eq_true (List.mem_filter.mp hz).2 (of_decide_eq_true hp)
  · intro p hp hh
    exact List.mem_map.mpr ⟨p, hp, if_pos hh⟩

theorem Team.ended_congr {w v : Team} {k : Word} (hw : t.ended w h k) (hs : u.status = t.status) (hv : v.xfer? h = w.xfer? h)
    (ha : v.status = w.status) : u.ended v h k :=
  ⟨hv.trans hw.1, fun p hp hk => ha ▸ hw.2 p (hs ▸ hp) hk⟩

theorem Team.xfer?_fireOn_none (cl : ClusterRef) (k : Nat) (v : Word) (hx : t.xfer? h = none) : (t.fireOn cl k v).xfer? h = none := by
  rw [Team.fireOn]
  split
  · rw [Team.xfer?, List.find?_eq_none] at hx ⊢
    intro z hz hp
    obtain ⟨a, ha, rfl⟩ := List.mem_map.mp hz
    refine hx a ha ?_
    split at hp
    · split at hp
      · exact hp
      · exact hp
    · exact hp
  · exact hx

theorem Team.fireOn_status (cl : ClusterRef) (k : Nat) (v : Word) : (t.fireOn cl k v).status = t.status := by
  rw [Team.fireOn]
  split <;> rfl

theorem Team.fireOn_id (cl : ClusterRef) (k : Nat) (v : Word) : (t.fireOn cl k v).id = t.id := by
  rw [Team.fireOn]
  split <;> rfl

theorem Team.ended_fireOn {w : Team} {k : Word} (hw : t.ended w h k) (cl : ClusterRef) (n : Nat) (v : Word) : t.ended (w.fireOn cl n v) h k :=
  ⟨w.xfer?_fireOn_none cl n v hw.1, (w.fireOn_status cl n v).symm ▸ hw.2⟩

/-! ### One operation of the machine -/

theorem State.xfer?_iff : s.xfer? team h = some (t, x) ↔ s.team? team = some t ∧ t.xfer? h = some x := by
  rw [State.xfer?]
  cases s.team? team with
  | none => exact ⟨nofun, fun h => nomatch h.1⟩
  | some a =>
    simp only [Option.bind_some, Option.map_eq_some_iff, Option.some.injEq, Prod.mk.injEq]
    constructor
    · rintro ⟨z, hz, rfl, rfl⟩
      exact ⟨rfl, hz⟩
    · rintro ⟨rfl, hz⟩
      exact ⟨x, hz, rfl, rfl⟩

theorem State.team?_id (ht : s.team? team = some t) : t.id = team := by
  have hp := List.find?_some ht
  exact beq_iff_eq.mp hp

theorem State.snd_xfer? (ht : s.team? team = some t) : (s.xfer? team h).map Prod.snd = t.xfer? h := by
  rw [State.xfer?, ht, Option.bind_some, Option.map_map]
  cases t.xfer? h <;> rfl

theorem State.team?_setTeam_of (hu : s.team? team = some u) (ht : t.id = team) : (s.setTeam t).team? team = some t := by
  subst ht
  exact s.team?_setTeam t u hu

theorem State.snd_xfer?_putXfer (ht : s.xfer? team h = some (t, x)) (hy : y.handle = h) :
    ((s.setTeam (t.putXfer y)).xfer? team h).map Prod.snd = some y := by
  obtain ⟨hteam, hx⟩ := State.xfer?_iff.mp ht
  have hid := State.team?_id hteam
  rw [State.snd_xfer? (State.team?_setTeam_of (t := t.putXfer y) hteam hid), Team.xfer?_putXfer hx hy]

theorem State.putXfer_eq (ht : s.team? team = some t) (y : Xfer) : s.putXfer team y = s.setTeam (t.putXfer y) := by
  rw [State.putXfer, State.updTeam, ht]

/-! ### The counter that an operation names -/

theorem State.team?_raiseTrig (cl : ClusterRef) (k : Nat) (v : Word) (ht : s.team? team = some t) :
    (s.raiseTrig cl k v).team? team = some t ∨ (s.raiseTrig cl k v).team? team = some (t.fireOn cl k v) := by
  rw [State.raiseTrig]
  split
  · exact .inr (State.team?_map (s := s.setTrig cl k v) rfl (fun a => a.fireOn_id cl k v) ht)
  · exact .inl ht

theorem State.trig_raiseTrig {cl : ClusterRef} {k : Nat} {c : Word} (hc : ((s.cluster? cl).bind fun q => q.trigs[k]?) = some c) (v : Word) :
    (s.raiseTrig cl k v).trig cl k = v := by
  have hset : (s.setTrig cl k v).trig cl k = v := by
    obtain ⟨q, hq, hk⟩ := Option.bind_eq_some_iff.mp hc
    rw [State.trig, State.setTrig, State.cluster?_updCluster, if_pos rfl, hq]
    change (q.trigs.set k v).getD k 0 = v
    rw [List.getD_eq_getElem?_getD, List.getElem?_set_self (List.getElem?_eq_some_iff.mp hk).1]
    rfl
  rw [State.raiseTrig]
  split
  · exact hset
  · exact hset

theorem State.trig_of_some {cl : ClusterRef} {k : Nat} {c : Word} (hc : ((s.cluster? cl).bind fun q => q.trigs[k]?) = some c) : s.trig cl k = c := by
  obtain ⟨q, hq, hk⟩ := Option.bind_eq_some_iff.mp hc
  rw [State.trig, hq, Option.map_some, Option.getD_some, List.getD_eq_getElem?_getD, hk]
  rfl

/-! ### An operation ends DONE -/

theorem State.xferDone_team? (ht : s.team? t.id = some u) (hx : x.handle = h) :
    ∃ w, (s.xferDone t x).team? t.id = some w ∧ t.ended w h (statusWord x.work.gen 0 1) := by
  have hset : (({ s with collBytes := s.collBytes - x.buffers } : State).setTeam (t.finish x 0 1)).team? t.id = some (t.finish x 0 1) :=
    State.team?_setTeam_of (s := { s with collBytes := s.collBytes - x.buffers }) ht rfl
  have hend := t.ended_finish hx 0 1
  rw [State.xferDone]
  split
  · obtain hw | hw := State.team?_raiseTrig _ _ _ hset
    · exact ⟨_, hw, hend⟩
    · exact ⟨_, hw, Team.ended_fireOn hend _ _ _⟩
  · exact ⟨_, hset, hend⟩

theorem State.xferDone_trig {k : Nat} {c : Word} (hk : x.trg = some k) (hc : ((s.cluster? t.cl).bind fun q => q.trigs[k]?) = some c) :
    (s.xferDone t x).trig t.cl k = c + 1 := by
  have hset : (((({ s with collBytes := s.collBytes - x.buffers } : State).setTeam (t.finish x 0 1)).cluster? t.cl).bind fun q => q.trigs[k]?) = some c := hc
  rw [State.xferDone, hk]
  dsimp only
  rw [State.trig_raiseTrig hset, State.trig_of_some hset]

/-! ### An operation ends ERROR -/

theorem State.xferError_team? (ht : s.team? t.id = some u) (hx : x.handle = h) (c : Byte) (info : DWord) :
    ∃ w, (s.xferError t x c info).team? t.id = some w ∧ t.ended w h (statusWord x.work.gen c 4) ∧
      (t.alive = true → t.st ≠ .retired → t.dtraps.length < 16 → w.dtraps = t.dtraps ++ [(x.trap c info).recorded]) := by
  have hset : (({ s with collBytes := s.collBytes - x.buffers } : State).setTeam (t.finish x c 4)).team? t.id = some (t.finish x c 4) :=
    State.team?_setTeam_of (s := { s with collBytes := s.collBytes - x.buffers }) ht rfl
  have hend := t.ended_finish hx c 4
  rw [State.xferError, State.defer, hset]
  dsimp only
  split
  · refine ⟨_, State.team?_setTeam_of hset ?_, ?_, fun _ _ hl => ?_⟩
    · rw [Team.defer]
      split <;> rfl
    · rw [Team.defer]
      split <;> exact hend
    · rw [Team.defer, if_pos (show (t.finish x c 4).dtraps.length < 16 from hl)]
      rfl
  · rename_i hn
    refine ⟨_, ?_, hend, fun ha hr => absurd ⟨ha, hr⟩ hn⟩
    rw [State.team?, State.ctxTrap_teams]
    exact hset

end

end Sys2Proof.Machine
end

section
/-!
SUPPORT. The steps of the transfer engines (R257, R308 to R312) and of task packets (R370 to R373).
-/

namespace Sys2Proof.Machine

section
variable {s t : State} {tm u : Team} {h : Word} {x : Xfer} {team : Nat}

/-! ### Armed and timed starts -/

theorem armedOperationStart_starts (hx : s.xfer? team h = some (tm, x)) (hr : s.teamRuns team = true) {a : Arm} (ha : x.st = .armed a)
    (hres : tm.st = .resident) (hh : (s.trig tm.cl a.trig - a.at_).toNat < 2 ^ 31) :
    execArmedOperationStart team h s = .next (s.setTeam (tm.putXfer { x with st := .started })) := by
  rw [execArmedOperationStart, if_pos hr, opArmedOperationStart, hx]
  dsimp only
  rw [ha]
  exact if_pos ⟨hres, decide_eq_true hh⟩

theorem txferLaunchTime_starts (hx : s.xfer? team h = some (tm, x)) (hr : s.teamRuns team = true) {l : DWord} (hst : x.st = .timed)
    (hl : x.work.launch = some l) (hres : tm.st = .resident) (hc : l.toNat ≤ s.clockOf tm.cl.die) :
    execTxferLaunchTime team h s = .next (s.setTeam (tm.putXfer { x with st := .started })) := by
  rw [execTxferLaunchTime, if_pos hr, opTxferLaunchTime, hx]
  dsimp only
  rw [hst, hl]
  exact if_pos ⟨hres, hc⟩

/-! ### Transfers -/

/-- A moved element leaves the operation what it was. -/
theorem State.moveElem_same {y : Site} {src dst : TRec} {so dor : List Nat} {f g : Xfer} {k : Nat} (hm : s.moveElem y src dst so dor f k = (.ok g, t)) :
    g = { f with grans := g.grans, till := g.till } := by
  rw [State.moveElem] at hm
  split at hm
  · cases hm
  · dsimp only at hm
    split at hm
    · cases hm
      rfl
    · split at hm
      · cases hm
      · cases hm
      · cases hm
        rfl

theorem State.moveTile_same {src dst : TRec} {so dor : List Nat} {m : Option Miss} : ∀ (n : Nat) {s t : State} {x y : Xfer},
    s.moveTile src dst so dor x n = (t, y, m) → y = { x with done := y.done, grans := y.grans, till := y.till }
  | 0, s, t, x, y, hm => by
    cases hm
    rfl
  | n + 1, s, t, x, y, hm => by
    rw [State.moveTile] at hm
    split at hm
    · cases hm
      rfl
    · split at hm
      · cases hm
        rfl
      · rename_i he
        have hn := State.moveTile_same n hm
        rw [State.moveElem_same he] at hn
        exact hn

/-- A transfer that has moved its tile at home is over once the leases on what it wrote have expired. -/
theorem State.xferMoved_home {dst : TRec} (hd : dst.grid = none) (ht : x.till ≤ s.now) (peer : Option (Option Byte)) :
    s.xferMoved tm x dst peer = s.xferDone tm x := by
  unfold State.xferMoved
  rw [if_neg (Nat.not_lt.mpr ht), hd]
  exact if_neg nofun

theorem State.xferMoved_peer {dst : TRec} (hd : dst.grid ≠ none) (ht : x.till ≤ s.now) :
    s.xferMoved tm x dst none = s.setTeam (tm.putXfer x) ∧ s.xferMoved tm x dst (some none) = s.xferDone tm x ∧
      ∀ c, s.xferMoved tm x dst (some (some c)) = if definedCause c then s.xferError tm x c (dw dst.base) else s.setTeam (tm.putXfer x) := by
  have hg : dst.grid.isSome = true := Option.isSome_iff_ne_none.mpr hd
  simp only [State.xferMoved, if_neg (Nat.not_lt.mpr ht), hg, if_true, implies_true, and_self]

section
variable {src dst : TRec} {so dor : List Nat} {l : Option DWord} {y : Site} (hx : s.xfer? team h = some (tm, x)) (hr : s.teamRuns team = true)
  (hst : x.st = .started) (hw : x.work = .tile src dst so dor l) (hy : s.site? x.u = some y) (hsv : tm.st ≠ .saved) (hh : x.held = none)
include hx hr hst hw hy hsv hh

theorem txferCompletion_moved (hd : src.count ≤ x.done) (peer : Option (Option Byte)) :
    execTxferCompletion team ⟨h, peer⟩ s = .next (s.xferMoved tm x dst peer) := by
  rw [execTxferCompletion, if_pos hr, opTxferCompletion, hx]
  dsimp only
  rw [hst, hw, hy]
  dsimp only
  rw [if_neg (by simp [hsv, hh]), if_pos hd]

theorem txferCompletion_moves (hg : dst.grid = none) (hd : x.done < src.count) {x2 : Xfer} {t2 : Team}
    (hm : s.moveTile src dst so dor x (src.count - x.done) = (t, x2, none)) (ht : t.team? team = some t2) (htill : x2.till ≤ t.now)
    (peer : Option (Option Byte)) :
    let w := t2.count 7 ((x2.done - x.done) * elemBytes src.ty)
    execTxferCompletion team ⟨h, peer⟩ s = .next ((t.setTeam w).xferDone w x2) := by
  intro w
  rw [execTxferCompletion, if_pos hr, opTxferCompletion, hx]
  dsimp only
  rw [hst, hw, hy]
  dsimp only
  rw [if_neg (by simp [hsv, hh]), if_neg (Nat.not_le.mpr hd), State.gridFault, hg]
  dsimp only
  rw [hm]
  dsimp only
  rw [ht]
  exact congrArg Host.Outcome.next (State.xferMoved_home (s := t.setTeam w) hg htill none)

end

/-! ### Task packets -/

theorem State.expander?_updExpander {port : Nat} {e : Expander} (he : s.expander? port = some e) (f : Expander → Expander) :
    (s.updExpander (some port) f).expander? port = some (f e) := by
  change (s.beyond.modify port f)[port]? = _
  rw [List.getElem?_modify_eq, show s.beyond[port]? = some e from he]
  rfl

theorem State.keyOf_updKey {die slot ctx : Nat} {k : KeySlot} (hk : s.keyOf die slot ctx = some k) (f : KeySlot → KeySlot) (hf : (f k).ctx = k.ctx) :
    (s.updKey die slot (Option.map f)).keyOf die slot ctx = some (f k) := by
  obtain ⟨k', hk', hc⟩ := Option.bind_eq_some_iff.mp hk
  obtain ⟨d, hd, hj⟩ := Option.bind_eq_some_iff.mp hk'
  split at hc
  · cases hc
    have hm : (s.updKey die slot (Option.map f)).die? die = some { d with keys := d.keys.modify slot (Option.map f) } := by
      rw [State.updKey, State.updDie_eq hd]
      exact List.getElem?_set_self (State.lt_of_die? hd)
    have hslot : d.keys[slot]? = some (some k) := by
      cases ho : d.keys[slot]? with
      | none => rw [ho] at hj; cases hj
      | some o => rw [ho] at hj; exact congrArg some hj
    rw [State.keyOf, hm]
    simp only [List.getElem?_modify_eq, hslot, Option.map_eq_map, Option.map_some, Option.bind_some, Option.join_some]
    exact if_pos (hf.trans ‹_›)
  · cases hc

/-- A sent packet is on its way under the slot's next counter. -/
theorem tsendPacketSend_sends (hx : s.xfer? team h = some (tm, x)) (hr : s.teamRuns team = true) {a : DWord} {n slot : Nat} {y : Site} {bs : List Byte}
    {k : KeySlot} {e : Expander} (hst : x.st = .started) (hw : x.work = .task a n slot) (hy : s.site? x.u = some y) (hsv : tm.st ≠ .saved)
    (hh : x.held = none) (hb : s.readPacket y a.toNat (n / 64) = (.ok bs, t)) (hk : t.keyOf tm.cl.die slot tm.ctx = some k)
    (hg : .cxl k.expander ∉ t.gone) (hv : k.expander ∉ t.viral) (he : t.expander? k.expander = some e) :
    execTsendPacketSend team h s = .next
      (((t.updKey tm.cl.die slot (Option.map fun k => { k with counter := k.counter + 1 })).setTeam
        (tm.putXfer { x with st := .sent, port := some k.expander })).updExpander (some k.expander) fun e =>
          { e with arriving := e.arriving ++ [k.packet team h tm.cl.die slot bs] }) := by
  rw [execTsendPacketSend, if_pos hr, opTsendPacketSend, hx]
  dsimp only
  rw [hst, hw, hy]
  dsimp only
  rw [if_neg (by simp [hsv, hh]), hb]
  dsimp only
  rw [hk]
  dsimp only
  rw [if_neg (by simp [hg, hv, he])]

/-! ### The expander's check -/

theorem State.answerXfer_spec {p : Packet} (hx : s.xfer? p.team p.handle = some (tm, x)) (a : Option Byte) :
    s.answerXfer p a = s.setTeam (tm.putXfer { x with answer := some a }) := by
  rw [State.answerXfer, hx]

theorem taskPacketCheck_sent {port : Nat} {e : Expander} {p : Packet} {r : List Packet} (he : s.expander? port = some e) (ha : e.arriving = p :: r)
    (hx : s.xfer? p.team p.handle = some (tm, x)) :
    (∀ c, s.packetFault (some port) e p = some c → execTaskPacketCheck (.sent port) s =
      .next ((s.updExpander (some port) fun e => { e with arriving := e.arriving.tail }).setTeam (tm.putXfer { x with answer := some (some c) }))) ∧
    (s.packetFault (some port) e p = none → execTaskPacketCheck (.sent port) s =
      .next (((((s.updExpander (some port) fun e => { e with arriving := e.arriving.tail }).updExpander (some port) fun e => e.accept p).setTeam
        (tm.putXfer { x with answer := some none })).tell
          (.task (((e.session? p.session).map Session.tenant).getD 0) p.counter (dw (p.field 16 8)))))) := by
  have hb : ((s.expander? port).bind fun e => e.arriving.head?.map fun p => (e, p)) = some (e, p) := by
    rw [he, Option.bind_some, ha]
    rfl
  have hf : (s.updExpander (some port) fun e => { e with arriving := e.arriving.tail }).packetFault (some port) e p = s.packetFault (some port) e p := rfl
  constructor
  · intro c hc
    rw [execTaskPacketCheck, hb]
    dsimp only
    rw [hf, hc]
    dsimp only
    refine congrArg Host.Outcome.next (State.answerXfer_spec ?_ _)
    exact hx
  · intro hc
    rw [execTaskPacketCheck, hb]
    dsimp only
    rw [hf, hc]
    dsimp only
    refine congrArg (fun t : State => Host.Outcome.next (t.tell _)) (State.answerXfer_spec ?_ _)
    exact hx

/-! ### A task that has run behind a port -/

theorem State.wf_backInvalidate (target : PortTarget) (line : Nat) (h : Memory.wf s.mem = true) : Memory.wf (s.backInvalidate target line).mem = true :=
  s.wf_recallU _ _ h

theorem State.wf_taskWrite (port dpa : Nat) (bs : List Byte) (h : Memory.wf s.mem = true) : Memory.wf (s.taskWrite port dpa bs).mem = true := by
  refine State.wf_homeWrite _ _ _ ?_
  exact List.foldlRecOn (motive := fun s : State => Memory.wf s.mem = true) _ _ h fun s hs _ _ => State.wf_backInvalidate _ _ hs

theorem State.read_taskWrite (port dpa : Nat) (bs : List Byte) (h : Memory.wf s.mem = true) :
    Memory.read (s.taskWrite port dpa bs).mem (behindPort (.cxl port) dpa) bs.length = bs := by
  refine State.read_homeWrite _ _ _ ?_
  exact List.foldlRecOn (motive := fun s : State => Memory.wf s.mem = true) _ _ h fun s hs _ _ => State.wf_backInvalidate _ _ hs

theorem taskPacketCheck_ran {port flag : Nat} {e : Expander} (writes : List (Nat × List Byte)) (word : DWord) (hm : Memory.wf s.mem = true)
    (hp : s.product = .ks4n) (he : s.expander? port = some e) (hg : .cxl port ∉ s.gone) (hf : flag % 8 = 0) :
    ∃ v, execTaskPacketCheck (.ran port writes flag word) s = .next v ∧ Memory.read v.mem (behindPort (.cxl port) flag) 8 = leBytes word.toNat 8 := by
  refine ⟨(writes.foldl (fun s w => s.taskWrite port w.1 w.2) s).taskWrite port flag (leBytes word.toNat 8), ?_, ?_⟩
  · rw [execTaskPacketCheck, if_neg (by simp [he, hp, hg, hf]), List.foldl_append]
    rfl
  · have hw : Memory.wf (writes.foldl (fun s w => s.taskWrite port w.1 w.2) s).mem = true :=
      List.foldlRecOn (motive := fun s : State => Memory.wf s.mem = true) _ _ hm fun s hs _ _ => State.wf_taskWrite _ _ _ hs
    have hr := State.read_taskWrite port flag (leBytes word.toNat 8) hw
    rwa [leBytes_length] at hr

/-! ### A node's packet -/

/-- What the expander keeps and what the host has been told stay when an accepted task starts. -/
structure State.Starts (s t : State) : Prop where
  expander : t.expander = s.expander
  told : ∀ e ∈ s.host, e ∈ t.host

namespace State.Starts

theorem refl (s : State) : s.Starts s := ⟨rfl, fun _ h => h⟩

theorem trans {s t u : State} (h : s.Starts t) (k : t.Starts u) : s.Starts u := ⟨k.expander.trans h.expander, fun e he => k.told e (h.told e he)⟩

theorem of_posts {s t : State} (h : s.Posts t) : s.Starts t where
  expander := by rw [h.rest]
  told e he := by
    obtain ⟨l, hl⟩ := h.told
    rw [hl]
    exact List.mem_append_left _ he

theorem of_same {s t : State} (he : t.expander = s.expander) (hh : t.host = s.host) : s.Starts t := ⟨he, fun _ h => hh ▸ h⟩

end State.Starts

variable (s)

theorem State.starts_putArgs (ctx : Nat) : ∀ (k : Nat) (s : State) (a : Nat) (bs : List Byte), s.Starts (s.putArgs ctx a bs k)
  | 0, s, _, _ => .refl s
  | k + 1, s, a, bs => by
    rw [State.putArgs]
    split
    · exact .refl s
    · refine .trans ?_ (State.starts_putArgs ctx k _ _ _)
      split
      · exact .of_posts (s.posts_cpStore _ _ _ _ _ _)
      · exact .refl s

theorem State.starts_reject (m : Meet) (code : Nat) : s.Starts (s.reject m code) := by
  rw [State.reject]
  split
  · exact (Starts.of_posts (s.posts_signal _ _ _ _ _ _ _ _)).trans (.of_same rfl rfl)
  · exact (Starts.of_posts (s.posts_cpStore _ _ _ _ _ _)).trans (.of_same rfl rfl)

theorem State.starts_conclude (m : Meet) (codes : List Nat) : s.Starts (s.conclude m codes none) := by
  rw [State.conclude]
  split
  · exact s.starts_reject m _
  · split_ifs
    · exact s.starts_reject m _
    · exact s.starts_reject m _
    · split
      · exact s.starts_reject m _
      · rename_i ht
        have hf := State.takeTokens_frame ht
        exact .of_same (by rw [hf]; rfl) (by rw [hf]; rfl)

theorem State.starts_startTask (p : Packet) (tenant : Nat) (g : TaskImage) : s.Starts (s.startTask p tenant g) := by
  rw [State.startTask]
  split
  · exact .of_posts (s.posts_cpStore _ _ _ _ _ _)
  · rename_i f u hf
    have hu : s.Starts u := by
      rw [State.taskField] at hf
      split at hf
      · cases hf
      · rename_i hr
        obtain ⟨f', -, he⟩ := Option.map_eq_some_iff.mp hf
        cases he
        have hs := State.stirs_cpRead hr
        exact .of_same (by rw [hs.rest]) (by rw [hs.rest])
    refine (hu.trans ?_).trans (State.starts_conclude _ _ _)
    refine .trans (t := { u with nextId := u.nextId + 1, meets := u.meets ++ [u.taskDls (u.taskMeet p tenant g f)] }) (.of_same rfl rfl) ?_
    exact State.starts_putArgs _ _ _ _ _

theorem taskPacketCheck_fromNode (n : NodePacket) (hp : s.product = .ks4x) (h64 : 64 ≤ n.bytes.length) (hlen : n.bytes.length ≤ 4096) :
    (∀ c, s.packetFault none s.expander (packetOf n) = some c →
      execTaskPacketCheck (.fromNode n) s = .next (s.tell (.taskAnswer (packetOf n).session (packetOf n).counter (some c)))) ∧
    (s.packetFault none s.expander (packetOf n) = none →
      ∃ v, execTaskPacketCheck (.fromNode n) s = .next v ∧ ((packetOf n).session, (packetOf n).counter) ∈ v.expander.accepted ∧
        HostEvent.taskAnswer (packetOf n).session (packetOf n).counter none ∈ v.host) := by
  have he : execTaskPacketCheck (.fromNode n) s = .next (s.nodePacket (packetOf n)) := if_pos ⟨hp, h64, hlen⟩
  generalize packetOf n = p at he ⊢
  rw [he, State.nodePacket]
  constructor
  · intro c hc
    rw [hc]
  · intro hc
    rw [hc]
    refine ⟨_, rfl, ?_⟩
    have hdone : ∀ {t : State} {es : List HostEvent}, ((s.updExpander none fun e => e.accept p).tellAll (.taskAnswer p.session p.counter none :: es)).Starts t →
        (p.session, p.counter) ∈ t.expander.accepted ∧ HostEvent.taskAnswer p.session p.counter none ∈ t.host := by
      intro t es ht
      refine ⟨?_, ht.told _ (List.mem_append_right _ List.mem_cons_self)⟩
      rw [ht.expander]
      exact List.mem_cons_self
    dsimp only
    split
    · exact hdone (State.starts_startTask _ _ _ _)
    · exact hdone (.refl _)

end

/-- Settles O55: each step by what it does with the operation, whose handle then shows its end. -/
theorem transferEnginesProgress : Obligations.TransferEnginesProgress := by
  unfold Obligations.TransferEnginesProgress
  intro s team handle t x hx
  obtain ⟨hteam, hxfer⟩ := State.xfer?_iff.mp hx
  have hid : t.id = team := State.team?_id hteam
  have hh : x.handle = handle := Team.handle_xfer? hxfer
  have hteam' : s.team? t.id = some t := hid.symm ▸ hteam
  refine ⟨fun hr => ⟨?_, ?_, ?_, ?_⟩, ?_, ?_, ?_, ?_, ?_⟩
  · intro a ha hres hlt
    exact ⟨_, armedOperationStart_starts hx hr ha hres hlt, rfl, State.snd_xfer?_putXfer hx hh⟩
  · intro l hst hl hres hc
    exact ⟨_, txferLaunchTime_starts hx hr hst hl hres hc, rfl, State.snd_xfer?_putXfer hx hh⟩
  · intro src dst so dor l y hst hw hy hsv hheld
    constructor
    · intro u x2 t2 peer hg hd hm ht2 htill
      have hx2 := State.moveTile_same _ hm
      have hid2 : t2.id = team := State.team?_id ht2
      have hset : (u.setTeam (t2.count 7 ((x2.done - x.done) * elemBytes src.ty))).team? t2.id =
          some (t2.count 7 ((x2.done - x.done) * elemBytes src.ty)) := State.team?_setTeam_of (hid2.symm ▸ ht2) rfl
      obtain ⟨w, hw1, hw2⟩ := State.xferDone_team? (t := t2.count 7 ((x2.done - x.done) * elemBytes src.ty)) (x := x2) (h := handle) hset (by rw [hx2]; exact hh)
      have hgen : x2.work.gen = 0 := by rw [hx2, hw]; rfl
      rw [hgen] at hw2
      exact ⟨_, w, txferCompletion_moves hx hr hst hw hy hsv hheld hg hd hm ht2 htill peer, hid2 ▸ hw1, hw2, fun k c hk hc => State.xferDone_trig hk hc⟩
    · intro hg hd htill
      obtain ⟨h1, h2, h3⟩ := State.xferMoved_peer (s := s) (tm := t) (x := x) hg htill
      have hgen : x.work.gen = 0 := by rw [hw]; rfl
      refine ⟨⟨_, (txferCompletion_moved hx hr hst hw hy hsv hheld hd _).trans (congrArg _ h1), State.snd_xfer?_putXfer hx hh⟩, ?_, ?_, ?_⟩
      · obtain ⟨w, hw1, hw2⟩ := State.xferDone_team? (x := x) hteam' hh
        rw [hgen] at hw2
        exact ⟨_, w, (txferCompletion_moved hx hr hst hw hy hsv hheld hd _).trans (congrArg _ h2), hid ▸ hw1, hw2⟩
      · intro c hc ha hret hlen
        obtain ⟨w, hw1, hw2, hw3⟩ := State.xferError_team? (x := x) hteam' hh c (dw dst.base)
        rw [hgen] at hw2
        refine ⟨_, w, (txferCompletion_moved hx hr hst hw hy hsv hheld hd _).trans (congrArg _ ((h3 c).trans (if_pos hc))), hid ▸ hw1, hw2, ?_⟩
        refine ⟨(x.trap c (dw dst.base)).recorded, ?_, ?_⟩
        · rw [hw3 ha hret hlen]
          exact List.mem_append_right _ List.mem_cons_self
        · rw [DTrap.recorded]
          split <;> exact ⟨rfl, rfl⟩
      · intro c hc
        exact ⟨_, (txferCompletion_moved hx hr hst hw hy hsv hheld hd _).trans (congrArg _ ((h3 c).trans (if_neg (by simp [hc])))), State.snd_xfer?_putXfer hx hh⟩
  · intro a n slot y u bs k e hst hw hy hsv hheld hb hk hg hv he hsome
    refine ⟨_, tsendPacketSend_sends hx hr hst hw hy hsv hheld hb hk hg hv he, ?_, ?_, ?_⟩
    · exact State.expander?_updExpander (s := (u.updKey _ _ _).setTeam _) he _
    · exact State.keyOf_updKey hk _ rfl
    · obtain ⟨t2, ht2⟩ := Option.isSome_iff_exists.mp hsome
      have hput : (u.setTeam (t.putXfer { x with st := .sent, port := some k.expander })).team? team =
          some (t.putXfer { x with st := .sent, port := some k.expander }) := State.team?_setTeam_of ht2 hid
      have hsnd := State.snd_xfer? (h := handle) hput
      rw [Team.xfer?_putXfer hxfer (y := { x with st := .sent, port := some k.expander }) hh] at hsnd
      exact hsnd
  · intro port e writes flag word hm hp he hg hf
    exact taskPacketCheck_ran writes word hm.1 hp he hg hf
  · intro port e p r he ha hpt hph
    obtain ⟨h1, h2⟩ := taskPacketCheck_sent he ha (by rw [hpt, hph]; exact hx)
    constructor
    · intro c hc
      refine ⟨_, h1 c hc, rfl, ?_, State.snd_xfer?_putXfer (s := s.updExpander _ _) hx hh⟩
      exact (State.expander?_updExpander he _).trans (by rw [ha]; rfl)
    · intro l hc hl
      have he1 := State.expander?_updExpander he fun e => { e with arriving := e.arriving.tail }
      have he2 := State.expander?_updExpander he1 fun e => e.accept p
      refine ⟨_, _, h2 hc, he2, ?_, List.mem_cons_self, ?_, ?_⟩
      · exact congrArg List.tail ha
      · rw [hl]
        rfl
      · exact State.snd_xfer?_putXfer (s := (s.updExpander _ _).updExpander _ _) hx hh
  · intro n hp h64 hlen
    exact taskPacketCheck_fromNode s n hp h64 hlen
  · intro hst ha
    obtain ⟨w, hw1, hw2⟩ := State.xferDone_team? (x := x) hteam' hh
    refine ⟨_, w, ?_, hid ▸ hw1, hw2⟩
    change execTsendAnswer team handle s = _
    rw [execTsendAnswer, hx]
    dsimp only
    rw [hst, ha]
  · intro c hst ha hal hret hlen
    obtain ⟨w, hw1, hw2, hw3⟩ := State.xferError_team? (x := x) hteam' hh c (if c = cause.taskAuth then x.handle.setWidth 64 else 0)
    refine ⟨_, w, ?_, hid ▸ hw1, hw2, ?_⟩
    · change execTsendAnswer team handle s = _
      rw [execTsendAnswer, hx]
      dsimp only
      rw [hst, ha]
    · rw [hw3 hal hret hlen, hh]
      rfl

end Sys2Proof.Machine
end

section
/-!
SUPPORT. What the hub's sequencer leaves of the groups: their entries, and the last generations that it has started (R377, R386).
-/

namespace Sys2Proof.Machine

/-- What an instance takes from its group, and the generation that the next one follows. -/
def Group.known (v : Group) : GroupEntry × SMap Nat := (v.entry, v.last)

/-- Every group has the entry and the last generations that it had. -/
def State.KeepsGroups (s t : State) : Prop := ∀ ctx g, (t.group? ctx g).map Group.known = (s.group? ctx g).map Group.known

namespace State.KeepsGroups

theorem refl (s : State) : s.KeepsGroups s := fun _ _ => rfl

theorem trans {s t u : State} (h : s.KeepsGroups t) (k : t.KeepsGroups u) : s.KeepsGroups u := fun ctx g => (k ctx g).trans (h ctx g)

theorem of_ctxs {s t : State} (h : t.ctxs = s.ctxs) : s.KeepsGroups t := fun ctx g => by rw [State.group?, State.group?, State.ctx?, State.ctx?, h]

theorem of_bare {s t : State} (h : ∀ id, (t.ctx? id).map Context.bare = (s.ctx? id).map Context.bare) : s.KeepsGroups t := by
  have hg (u : State) (ctx g : Nat) : u.group? ctx g = ((u.ctx? ctx).map Context.bare).bind fun c => SMap.get? c.groups g := by
    rw [State.group?]
    cases u.ctx? ctx <;> rfl
  intro ctx g
  rw [hg, hg, h]

theorem of_looks {s t : State} (h : s.Looks t) : s.KeepsGroups t := of_bare h.bare

theorem foldl {α : Type} {f : State → α → State} (hf : ∀ (s : State) a, s.KeepsGroups (f s a)) : ∀ (l : List α) (s : State), s.KeepsGroups (l.foldl f s)
  | [], s => refl s
  | a :: l, s => (hf s a).trans (foldl hf l _)

end State.KeepsGroups

section
variable {s t : State} {c d : Context} {ctx g : Nat} {v : Group}

theorem State.ctx?_id (h : s.ctx? ctx = some c) : c.id = ctx := by
  have hp := List.find?_some h
  exact beq_iff_eq.mp hp

theorem State.keepsGroups_setCtx (hc : s.ctx? d.id = some c) (hd : ∀ g, (SMap.get? d.groups g).map Group.known = (SMap.get? c.groups g).map Group.known) :
    s.KeepsGroups (s.setCtx d) := by
  intro ctx g
  rw [State.group?, State.group?]
  by_cases h : ctx = d.id
  · subst h
    rw [State.ctx?_setCtx hc, hc]
    exact hd g
  · rw [State.ctx?, State.setCtx, find?_map_key s.ctxs Context.id d ctx (Ne.symm h), ← State.ctx?]

theorem State.group?_setGroup {w : Group} (h : s.group? ctx g = some w) : (s.setGroup ctx g v).group? ctx g = some v := by
  obtain ⟨c, hc, -⟩ := Option.bind_eq_some_iff.mp h
  have hid := State.ctx?_id hc
  subst hid
  rw [State.setGroup, hc, State.group?]
  dsimp only
  rw [State.ctx?_setCtx (d := { c with groups := SMap.set c.groups g v }) hc]
  exact (SMap.get?_set _ _ _ _).trans (if_pos rfl)

theorem State.keepsGroups_setGroup {w : Group} (h : s.group? ctx g = some w) (hv : v.known = w.known) : s.KeepsGroups (s.setGroup ctx g v) := by
  obtain ⟨c, hc, hw⟩ := Option.bind_eq_some_iff.mp h
  have hid := State.ctx?_id hc
  subst hid
  rw [State.setGroup, hc]
  refine State.keepsGroups_setCtx (d := { c with groups := SMap.set c.groups g v }) hc fun k => ?_
  dsimp only
  rw [SMap.get?_set]
  split
  · rename_i hk
    rw [← hk, hw]
    exact congrArg some hv
  · rfl

variable (s)

theorem State.keepsGroups_memberLeft (ctx group cid member : Nat) : s.KeepsGroups (s.memberLeft ctx group cid member) := by
  rw [State.memberLeft]
  split
  · rename_i g hg
    exact State.keepsGroups_setGroup hg rfl
  · exact .refl s

theorem State.keepsGroups_collLeft (n : Inst) (member : Nat) : s.KeepsGroups (s.collLeft n member) := s.keepsGroups_memberLeft _ _ _ _

theorem State.keepsGroups_updTeam (id : Nat) (f : Team → Team) : s.KeepsGroups (s.updTeam id f) := .of_ctxs (by rw [State.updTeam_rest])

theorem State.keepsGroups_putXfer (team : Nat) (x : Xfer) : s.KeepsGroups (s.putXfer team x) := s.keepsGroups_updTeam _ _

theorem State.keepsGroups_defer (team : Nat) (d : DTrap) : s.KeepsGroups (s.defer team d) := by
  rw [State.defer]
  split
  · exact .refl s
  · split
    · exact .of_ctxs rfl
    · exact .of_bare (s.stirs_ctxTrap _ _).bare

theorem State.keepsGroups_xferError (t : Team) (x : Xfer) (c : Byte) (info : DWord) : s.KeepsGroups (s.xferError t x c info) :=
  State.KeepsGroups.trans (t := ({ s with collBytes := s.collBytes - x.buffers } : State).setTeam (t.finish x c 4)) (.of_ctxs rfl)
    (State.keepsGroups_defer _ _ _)

theorem State.keepsGroups_collFail (team : Nat) (x : Xfer) (n : Inst) (c : Byte) (info : DWord) (news : CollMsg) :
    s.KeepsGroups (s.collFail team x n c info news) := by
  rw [State.collFail]
  split
  · exact ((s.keepsGroups_xferError _ _ _ _).trans (State.keepsGroups_collLeft _ _ _)).trans (.of_ctxs rfl)
  · exact .refl s

theorem State.keepsGroups_collHold (team : Nat) (x : Xfer) (n : Inst) (va : Nat) (info : DWord) : s.KeepsGroups (s.collHold team x n va info) := by
  rw [State.collHold]
  generalize (if x.asked.1 = va / 4096 then x.asked.2 else 0) = k
  split
  · exact s.keepsGroups_collFail _ _ _ _ _ _
  · exact s.keepsGroups_putXfer _ _

theorem State.keepsGroups_collMiss (team : Nat) (x : Xfer) (n : Inst) (m : Miss) : s.KeepsGroups (s.collMiss team x n m) := by
  rw [State.collMiss.eq_def]
  split
  · exact s.keepsGroups_putXfer _ _
  · exact s.keepsGroups_collHold _ _ _ _ _
  · exact s.keepsGroups_collFail _ _ _ _ _ _
  · exact s.keepsGroups_collFail _ _ _ _ _ _

theorem State.keepsGroups_collBill (t : Team) (x : Xfer) (n : Nat) : s.KeepsGroups (s.collBill t x n).1 := by
  rw [State.collBill]
  refine State.KeepsGroups.trans (.of_ctxs ?_) (State.keepsGroups_updTeam _ _ _)
  rw [State.chargeMeet_eq]

/-! ### Reads of the sequencer -/

theorem State.looks_engRead (x : Site) (tlb : TlbId) (va n : Nat) : s.Looks (s.engRead x tlb va n).2 := by
  rw [State.engRead]
  split
  · exact .refl s
  · split
    · exact .refl s
    · split
      · exact .refl s
      · split
        · exact .refl s
        · dsimp only
          split
          · exact s.looks_look _ _ _ _ _
          · exact s.looks_look _ _ _ _ _

theorem State.looks_spotRead (x : Site) (tlb : TlbId) (fib n : Nat) (p : Spot) : s.Looks (s.spotRead x tlb fib n p).2 := by
  have hl (va : Nat) := s.looks_engRead x tlb va n
  unfold State.spotRead
  cases p with
  | outside => exact .refl s
  | barred c => exact .refl s
  | va a =>
    specialize hl a
    dsimp only
    split <;> rename_i he <;> rw [he] at hl <;> exact hl
  | generic a =>
    dsimp only
    split
    · exact .refl s
    · rename_i va _
      specialize hl va
      split <;> rename_i he <;> rw [he] at hl <;> exact hl
    · exact .refl s

theorem State.looks_collElems (y : Site) (sd : Side) (e : Nat) : ∀ (n : Nat) (s : State) (x : Xfer), s.Looks (s.collElems y sd e x n).1
  | 0, s, x => .refl s
  | n + 1, s, x => by
    have hl := s.looks_spotRead y y.copyTlb x.fibre e (sd.spot e (x.part.length * e))
    rw [State.collElems]
    split
    · rename_i he
      rw [he] at hl
      exact hl
    · rename_i he
      rw [he] at hl
      exact hl.trans (State.looks_collElems y sd e n _ _)

theorem State.keepsGroups_collRead (team : Nat) (x : Xfer) (n : Inst) : s.KeepsGroups (s.collRead team x n) := by
  rw [State.collRead]
  split
  · exact s.keepsGroups_putXfer _ _
  · split
    · rename_i t y _ _
      have hl := KeepsGroups.of_looks (State.looks_collElems y (Side.tile n.loc n.org) (elemBytes n.loc.ty) (n.loc.count - x.part.length) s x)
      have hb := hl.trans (State.keepsGroups_collBill _ t (s.collElems y (Side.tile n.loc n.org) (elemBytes n.loc.ty) x (n.loc.count - x.part.length)).2.1
        ((Side.tile n.loc n.org).bytesIn (elemBytes n.loc.ty) x.part.length
          (s.collElems y (Side.tile n.loc n.org) (elemBytes n.loc.ty) x (n.loc.count - x.part.length)).2.1.part.length))
      dsimp only
      split
      · exact hb.trans (State.keepsGroups_collMiss _ _ _ _ _)
      · split
        · exact (hb.trans (State.keepsGroups_putXfer _ _ _)).trans (.of_ctxs rfl)
        · exact hb.trans (State.keepsGroups_putXfer _ _ _)
    · exact .refl s

/-! ### Messages, losses and buffers -/

theorem State.keepsGroups_collTake (team : Nat) (x : Xfer) (n : Inst) (member : Nat) (m : CollMsg) : s.KeepsGroups (s.collTake team x n member m) := by
  cases m with
  | tile st =>
    rw [State.collTake]
    split
    · split
      · rename_i t _
        exact ((s.keepsGroups_collBill t x _).trans (State.keepsGroups_putXfer _ _ _)).trans (.of_ctxs rfl)
      · exact .refl s
    · exact .refl s
  | entry e =>
    rw [State.collTake]
    split
    · exact s.keepsGroups_putXfer _ _
    · exact s.keepsGroups_collFail _ _ _ _ _ _
  | consumed m =>
    rw [State.collTake]
    split
    · exact s.keepsGroups_putXfer _ _
    · exact .refl s
  | completed => exact (s.keepsGroups_putXfer _ _).trans (State.keepsGroups_collLeft _ _ _)
  | entryDiffers => exact (s.keepsGroups_collLeft _ _).trans (State.keepsGroups_collFail _ _ _ _ _ _ _)
  | faulted =>
    refine (s.keepsGroups_collLeft n member).trans ?_
    rw [State.collTake]
    split
    · exact State.keepsGroups_collFail _ _ _ _ _ _ _
    · exact State.keepsGroups_putXfer _ _ _

theorem State.keepsGroups_collDrain (team : Nat) (h : Word) : ∀ (l : List Held) (n : Inst) (s : State), s.KeepsGroups (s.collDrain team h n l)
  | [], n, s => .refl s
  | m :: r, n, s => by
    rw [State.collDrain]
    split
    · split
      · exact (s.keepsGroups_collTake _ _ _ _ _).trans (State.keepsGroups_collDrain team h r _ _)
      · exact State.keepsGroups_collDrain team h r _ _
    · exact State.keepsGroups_collDrain team h r _ _

theorem State.keepsGroups_collLost (team : Nat) (x : Xfer) (n : Inst) (device : Nat) (info : DWord) : s.KeepsGroups (s.collLost team x n device info) := by
  have hleft := KeepsGroups.foldl (fun s m => State.keepsGroups_collLeft s n m) (n.sub.filter fun m => n.ent.members[m]? = some device) s
  rw [State.collLost]
  split
  · exact hleft.trans (State.keepsGroups_collFail _ _ _ _ _ _ _)
  · exact hleft.trans (State.keepsGroups_putXfer _ _ _)

end

end Sys2Proof.Machine
end

section
/-!
SUPPORT. Instances of collectives (R377 to R387): their operations while the hub's tables change, how they end, and what they are billed.
-/

namespace Sys2Proof.Machine

section
variable {s u : State} {t w : Team} {x y : Xfer} {n : Inst} {team : Nat} {h : Word}

/-! ### The instance of an operation -/

theorem State.inst?_work (hn : s.inst? t x = some n) : x.work = .coll n.loc n.out n.org n.op n.comp n.thr n.gen := by
  rw [State.inst?] at hn
  split at hn
  · rename_i hw
    obtain ⟨g, -, hg⟩ := Option.bind_eq_some_iff.mp hn
    obtain ⟨v, -, rfl⟩ := Option.map_eq_some_iff.mp hg
    exact hw
  · cases hn
  · cases hn

theorem State.inst?_gen (hn : s.inst? t x = some n) : x.work.gen = n.gen := by
  rw [State.inst?_work hn]
  rfl

theorem State.inst?_congr (hk : s.KeepsGroups u) (hw : w.ctx = t.ctx) (hx : y.work = x.work) : u.inst? w y = s.inst? t x := by
  rw [State.inst?, State.inst?, hx, hw]
  split
  · refine congrArg (Option.bind _) (funext fun g => ?_)
    have hg := hk t.ctx (gridGroup g)
    cases hu : u.group? t.ctx (gridGroup g) <;> cases hs : s.group? t.ctx (gridGroup g) <;> rw [hu, hs] at hg
    · cases hg
    · cases hg
    · have he := congrArg Prod.fst (Option.some.inj hg)
      simp only [Group.known] at he
      rw [Option.map_some, Option.map_some, he]
  · rfl
  · rfl

theorem State.collFor_congr (ht : u.teams = s.teams) (hk : s.KeepsGroups u) (ctx group cid gen : Nat) (p : Xfer → Bool) :
    u.collFor ctx group cid gen p = s.collFor ctx group cid gen p := by
  have hi : u.inst? = s.inst? := funext fun t => funext fun x => State.inst?_congr hk rfl rfl
  rw [State.collFor, State.collFor, ht, hi]

/-! ### Putting an operation back -/

theorem State.team?_putXfer (ht : s.team? team = some t) : (s.putXfer team y).team? team = some (t.putXfer y) :=
  State.team?_updTeam ht rfl

theorem State.snd_xfer?_put (ht : s.team? team = some t) (hx : t.xfer? h = some x) (hy : y.handle = h) :
    ((s.putXfer team y).xfer? team h).map Prod.snd = some y := by
  rw [State.snd_xfer? (State.team?_putXfer ht), Team.xfer?_putXfer hx hy]

theorem State.memberLeft_teams (s : State) (ctx group cid member : Nat) :
    s.memberLeft ctx group cid member = { s with ctxs := (s.memberLeft ctx group cid member).ctxs } := by
  rw [State.memberLeft]
  split
  · rw [State.setGroup]
    split <;> rfl
  · rfl

/-! ### The end of an instance at a member -/

theorem State.collDone_spec (ht : s.team? team = some t) (hx : x.handle = h) :
    ∃ w, (s.collDone team x n).team? team = some w ∧ t.ended w h (statusWord x.work.gen 0 1) ∧
      .collSend n.ctx n.group n.cid n.gen .completed ∈ (s.collDone team x n).host := by
  have hid := State.team?_id ht
  subst hid
  obtain ⟨w, hw, he⟩ := State.xferDone_team? ht hx
  rw [State.collDone, ht]
  refine ⟨w, ?_, he, List.mem_append_right _ List.mem_cons_self⟩
  dsimp only
  rw [State.collTell, State.collLeft, State.memberLeft_teams]
  exact hw

theorem State.collFail_spec (ht : s.team? team = some t) (hx : x.handle = h) (c : Byte) (info : DWord) (news : CollMsg) :
    ∃ w, (s.collFail team x n c info news).team? team = some w ∧ t.ended w h (statusWord x.work.gen c 4) ∧
      .collSend n.ctx n.group n.cid n.gen news ∈ (s.collFail team x n c info news).host := by
  have hid := State.team?_id ht
  subst hid
  obtain ⟨w, hw, he, -⟩ := State.xferError_team? ht hx c info
  rw [State.collFail, ht]
  refine ⟨w, ?_, he, List.mem_append_right _ List.mem_cons_self⟩
  dsimp only
  rw [State.collTell, State.collLeft, State.memberLeft_teams]
  exact hw

/-! ### The sequencer's charge -/

theorem State.collBill_spec (ht : s.team? team = some t) (x : Xfer) (b : Nat) :
    (s.collBill t x b).2 = { x with done := x.done + b } ∧ (s.collBill t x b).1.now = s.now ∧
      ∃ w, (s.collBill t x b).1.team? team = some w ∧ w.xfers = t.xfers ∧ w.status = t.status := by
  have hid := State.team?_id ht
  subst hid
  rw [State.collBill]
  refine ⟨rfl, ?_, ?_⟩
  · dsimp only
    rw [State.now, State.updTeam_rest, State.chargeMeet_eq]
  · refine ⟨_, State.team?_updTeam (u := t) ?_ ?_, ?_, ?_⟩
    · rw [State.chargeMeet_eq]
      exact ht
    · split <;> rfl
    · split <;> rfl
    · split <;> rfl

/-! ### An operation that has its buffers -/

/-- A team has an operation of an instance under a handle. -/
def State.Has (s : State) (team : Nat) (h : Word) (x : Xfer) (n : Inst) : Prop := ∃ t, s.xfer? team h = some (t, x) ∧ s.inst? t x = some n

theorem State.Has.runningColl (hs : s.Has team h x n) (hr : x.st = .running) : ∃ t, s.runningColl team h = some (t, x, n) := by
  obtain ⟨t, ht, hn⟩ := hs
  refine ⟨t, ?_⟩
  rw [State.runningColl, ht, Option.bind_some]
  dsimp only
  rw [if_pos hr, hn]
  rfl

theorem State.Has.congr (hs : s.Has team h x n) (ht : u.teams = s.teams) (hk : s.KeepsGroups u) : u.Has team h x n := by
  obtain ⟨t, hx, hn⟩ := hs
  refine ⟨t, ?_, (State.inst?_congr hk rfl rfl).trans hn⟩
  rw [State.xfer?, State.team?, ht]
  exact hx

theorem State.Has.putXfer (hs : s.Has team h x n) (hw : y.work = x.work) (hy : y.handle = h) : (s.putXfer team y).Has team h y n := by
  obtain ⟨t, hx, hn⟩ := hs
  obtain ⟨ht, hxt⟩ := State.xfer?_iff.mp hx
  exact ⟨_, State.xfer?_iff.mpr ⟨State.team?_putXfer ht, Team.xfer?_putXfer hxt hy⟩,
    (State.inst?_congr (s.keepsGroups_putXfer _ _) rfl hw).trans hn⟩

/-- The loss of a device on which no member of the subgroup sits leaves the operation as it was. -/
theorem State.Has.lost {device : Nat} (hs : s.Has team h x n) (hd : ∀ m ∈ n.sub, n.ent.members[m]? ≠ some device) (info : DWord) :
    (s.collLost team x n device info).Has team h x n ∧ (s.collLost team x n device info).collBytes = s.collBytes ∧
      (s.collLost team x n device info).host = s.host := by
  have hms : (n.sub.filter fun m => n.ent.members[m]? = some device) = [] :=
    List.filter_eq_nil_iff.mpr fun m hm hp => hd m hm (of_decide_eq_true hp)
  have hw : n.waitsFor x device = false := by
    rw [Inst.waitsFor, List.any_eq_false]
    intro m hm hp
    exact hd m hm (by simpa using (Bool.and_eq_true_iff.mp hp).2)
  have he : s.collLost team x n device info = s.putXfer team x := by
    rw [State.collLost, hms, hw]
    rfl
  have hh : x.handle = h := Team.handle_xfer? (State.xfer?_iff.mp hs.choose_spec.1).2
  rw [he]
  exact ⟨hs.putXfer rfl hh, by rw [State.putXfer, State.updTeam_rest], by rw [State.putXfer, State.updTeam_rest]⟩

/-- What a beginning operation does with a device that is lost already. -/
def State.noteLost (team : Nat) (h : Word) (s : State) (device : Nat) : State :=
  match s.runningColl team h with
  | some (_, x, n) =>
    let (info, s) := s.free
    s.collLost team x n device info
  | none => s

theorem State.Has.noteLost (hr : x.st = .running) : ∀ (l : List Nat) (s : State), s.Has team h x n →
    (∀ d ∈ l, ∀ m ∈ n.sub, n.ent.members[m]? ≠ some d) →
    (l.foldl (State.noteLost team h) s).Has team h x n ∧ (l.foldl (State.noteLost team h) s).collBytes = s.collBytes ∧
      (l.foldl (State.noteLost team h) s).host = s.host
  | [], s, hs, _ => ⟨hs, rfl, rfl⟩
  | d :: l, s, hs, hd => by
    obtain ⟨t, ht⟩ := hs.runningColl hr
    have hfree : s.free.2.Has team h x n := hs.congr rfl (.of_ctxs rfl)
    obtain ⟨h1, h2, h3⟩ := hfree.lost (hd d List.mem_cons_self) s.free.1
    have he : s.noteLost team h d = s.free.2.collLost team x n d s.free.1 := by rw [State.noteLost, ht]
    rw [List.foldl_cons, he]
    obtain ⟨k1, k2, k3⟩ := State.Has.noteLost hr l _ h1 fun d hd' => hd d (List.mem_cons_of_mem _ hd')
    exact ⟨k1, k2.trans h2, k3.trans h3⟩

theorem State.collDrain_none (team : Nat) (h : Word) (n : Inst) : ∀ (l : List Held) (s : State),
    (∀ m ∈ l, m.group ≠ n.group ∨ m.cid ≠ n.cid ∨ m.gen ≠ n.gen) → s.collDrain team h n l = s
  | [], s, _ => rfl
  | m :: r, s, hl => by
    have hm := hl m List.mem_cons_self
    rw [State.collDrain, if_neg (by tauto)]
    exact State.collDrain_none team h n r s fun m hm => hl m (List.mem_cons_of_mem _ hm)

/-- An operation of an instance that reads no tile begins: it runs, holds its buffers, and has sent its entry. -/
theorem State.collBegin_spec {c : Context} (hs : s.Has team h x n) (hreads : n.reads = false) (hc : s.ctx? n.ctx = some c)
    (hheld : ∀ m ∈ c.held, m.group ≠ n.group ∨ m.cid ≠ n.cid ∨ m.gen ≠ n.gen)
    (hgone : ∀ d ∈ s.goneDevices, ∀ m ∈ n.sub, n.ent.members[m]? ≠ some d) :
    (s.collBegin team x n).Has team h { x with st := .running } n ∧ (s.collBegin team x n).collBytes = s.collBytes + 2 * n.loc.bytes ∧
      ((∃ m ∈ n.sub, m ≠ n.ent.self) → .collSend n.ctx n.group n.cid n.gen (.entry n.ent) ∈ (s.collBegin team x n).host) := by
  have hh : x.handle = h := Team.handle_xfer? (State.xfer?_iff.mp hs.choose_spec.1).2
  have hwork : x.work = .coll n.loc n.out n.org n.op n.comp n.thr n.gen := State.inst?_work hs.choose_spec.2
  subst hh
  -- the operation runs
  let y : Xfer := { x with st := .running }
  let s1 := ({ s with collBytes := s.collBytes + y.buffers } : State).putXfer team y
  have h1 : s1.Has team x.handle y n := (hs.congr (u := { s with collBytes := s.collBytes + y.buffers }) rfl (.of_ctxs rfl)).putXfer rfl rfl
  have hb : y.buffers = 2 * n.loc.bytes := by rw [Xfer.buffers]; simp only [y, hwork]
  have hs1 : s1 = { s with collBytes := s.collBytes + y.buffers, teams := s1.teams } := State.updTeam_rest _ _ _
  -- its entry goes out
  let s2 := if n.sub.any (· ≠ n.ent.self) then s1.collTell n (.entry n.ent) else s1
  have hs2 : s2 = { s1 with host := s2.host } := by
    simp only [s2]
    split <;> rfl
  have h2 : s2.Has team x.handle y n := h1.congr (by rw [hs2]) (.of_ctxs (by rw [hs2]))
  have htold : (∃ m ∈ n.sub, m ≠ n.ent.self) → .collSend n.ctx n.group n.cid n.gen (.entry n.ent) ∈ s2.host := by
    rintro ⟨m, hm, hne⟩
    have hany : n.sub.any (· ≠ n.ent.self) = true := List.any_eq_true.mpr ⟨m, hm, decide_eq_true hne⟩
    simp only [s2, if_pos hany]
    exact List.mem_append_right _ List.mem_cons_self
  -- it reads nothing
  let s3 := s2.collRead team y n
  have hs3 : s3 = s2.putXfer team y := if_pos (.inl hreads)
  have h3 : s3.Has team x.handle y n := by
    rw [hs3]
    exact h2.putXfer rfl rfl
  have hrest3 : s3 = { s2 with teams := s3.teams } := by
    rw [hs3]
    exact State.updTeam_rest _ _ _
  -- nothing came before it
  have hid := State.ctx?_id hc
  have hc3 : s3.ctx? n.ctx = some c := by
    rw [State.ctx?, hrest3, hs2, hs1]
    exact hc
  let d : Context := { c with held := c.held.filter fun m => ¬ (m.group = n.group ∧ m.cid = n.cid ∧ m.gen = n.gen) }
  let s4 := s3.setCtx d
  have h4 : s4.Has team x.handle y n := h3.congr rfl (State.keepsGroups_setCtx (d := d) (c := c) (hid ▸ hc3) fun _ => rfl)
  have hgone4 : s4.goneDevices = s.goneDevices := by
    change s3.goneDevices = _
    rw [hrest3, hs2, hs1]
    rfl
  -- and nobody it needs is lost
  have hbegin : s.collBegin team x n = s4.goneDevices.foldl (State.noteLost team x.handle) s4 := by
    have hd : (match s3.ctx? n.ctx with
        | some c => (s3.setCtx { c with held := c.held.filter fun m => ¬ (m.group = n.group ∧ m.cid = n.cid ∧ m.gen = n.gen) }).collDrain team y.handle n c.held
        | none => s3) = s4 := by
      rw [hc3]
      exact State.collDrain_none _ _ _ _ _ hheld
    conv_rhs => rw [← hd]
    rfl
  obtain ⟨k1, k2, k3⟩ := State.Has.noteLost (x := y) rfl s4.goneDevices s4 h4 (hgone4 ▸ hgone)
  rw [hbegin]
  refine ⟨k1, ?_, fun hm => ?_⟩
  · rw [k2]
    change s3.collBytes = _
    rw [hrest3, hs2, hs1]
    exact congrArg _ hb
  · rw [k3]
    change _ ∈ s3.host
    rw [hrest3]
    exact htold hm

end

end Sys2Proof.Machine
end

section
/-!
SUPPORT. The steps of collectives: issue, buffer grant, arriving data and completion (R377 to R387).
-/

namespace Sys2Proof.Machine

section
variable {s u : State} {t w : Team} {x y : Xfer} {n : Inst} {team : Nat} {h : Word}

theorem State.collGrant_eq (hs : s.Has team h x n) (hd : firstDue s.collWaiting = some (team, x)) (hb : s.collBytes + 2 * n.loc.bytes ≤ 2 ^ 26) :
    s.collGrant team h = s.collBegin team x n := by
  obtain ⟨t, hx, hn⟩ := hs
  obtain ⟨ht, hxt⟩ := State.xfer?_iff.mp hx
  rw [State.collGrant, hd]
  dsimp only
  rw [ht]
  dsimp only
  rw [hn]
  exact if_pos ⟨rfl, Team.handle_xfer? hxt, hb⟩

variable (s) in
theorem State.keepsGroups_collBegin (team : Nat) (x : Xfer) (n : Inst) : s.KeepsGroups (s.collBegin team x n) := by
  rw [State.collBegin]
  refine .trans ?_ (.foldl (fun s d => ?_) _ _)
  · have hput : s.KeepsGroups (({ s with collBytes := s.collBytes + ({ x with st := .running } : Xfer).buffers } : State).putXfer team { x with st := .running }) :=
      .trans (t := { s with collBytes := s.collBytes + ({ x with st := .running } : Xfer).buffers }) (.of_ctxs rfl) (State.keepsGroups_putXfer _ _ _)
    have hread (v : State) (hv : s.KeepsGroups v) : s.KeepsGroups (v.collRead team { x with st := .running } n) := hv.trans (v.keepsGroups_collRead _ _ _)
    have hnews : s.KeepsGroups (if n.sub.any (· ≠ n.ent.self) then
        (({ s with collBytes := s.collBytes + ({ x with st := .running } : Xfer).buffers } : State).putXfer team { x with st := .running }).collTell n (.entry n.ent)
        else ({ s with collBytes := s.collBytes + ({ x with st := .running } : Xfer).buffers } : State).putXfer team { x with st := .running }) := by
      split
      · exact hput.trans (.of_ctxs rfl)
      · exact hput
    split
    · rename_i c hc
      refine .trans ?_ (State.keepsGroups_collDrain _ _ _ _ _)
      refine (hread _ hnews).trans (State.keepsGroups_setCtx (c := c) ?_ fun _ => rfl)
      rw [← State.ctx?_id hc] at hc
      exact hc
    · exact hread _ hnews
  · split
    · exact .trans (t := s.free.2) (.of_ctxs rfl) (State.keepsGroups_collLost _ _ _ _ _ _)
    · exact .refl s

variable (s) in
theorem State.keepsGroups_collGrant (team : Nat) (h : Word) : s.KeepsGroups (s.collGrant team h) := by
  rw [State.collGrant]
  split
  · split
    · split
      · split
        · exact s.keepsGroups_collBegin _ _ _
        · exact .refl s
      · exact .refl s
    · exact .refl s
  · exact .refl s

/-! ### Generations -/

section
variable {g : Group} (hx : s.xfer? team h = some (t, x)) (hn : s.inst? t x = some n) (hst : x.st = .started) (hg : s.group? n.ctx n.group = some g)
include hx hn hst hg

theorem collectiveIssue_busy (hv : verdict ((SMap.get? g.last n.cid).getD 0) n.gen (((g.open_.find? fun p => p.1 = n.cid).map Prod.snd).getD []) = .busy) :
    execCollectiveIssue team h s = .next (s.setTeam (t.finish x 0 3)) := by
  rw [execCollectiveIssue, hx]
  dsimp only
  rw [if_neg (by simp [hst]), State.inst?_work hn]
  dsimp only
  rw [hn]
  dsimp only
  rw [hg]
  dsimp only
  rw [hv]

theorem collectiveIssue_refused
    (hv : verdict ((SMap.get? g.last n.cid).getD 0) n.gen (((g.open_.find? fun p => p.1 = n.cid).map Prod.snd).getD []) = .refused) :
    execCollectiveIssue team h s = .next (s.xferError t x cause.protection 0) := by
  rw [execCollectiveIssue, hx]
  dsimp only
  rw [if_neg (by simp [hst]), State.inst?_work hn]
  dsimp only
  rw [hn]
  dsimp only
  rw [hg]
  dsimp only
  rw [hv]

theorem collectiveIssue_starts
    (hv : verdict ((SMap.get? g.last n.cid).getD 0) n.gen (((g.open_.find? fun p => p.1 = n.cid).map Prod.snd).getD []) = .starts) :
    ∃ u k, execCollectiveIssue team h s = .next u ∧ u.group? n.ctx n.group = some k ∧ SMap.get? k.last n.cid = some n.gen := by
  let v : Group := { g with last := SMap.set g.last n.cid n.gen, open_ := (n.cid, n.sub) :: g.open_.filter fun p => p.1 ≠ n.cid }
  let s1 := ({ s with nextId := s.nextId + 1 } : State).setGroup n.ctx n.group v
  have he : execCollectiveIssue team h s =
      .next ((s1.putXfer team { x with st := .waitBuffer, order := s.nextId + 1 }).collGrant team h) := by
    rw [execCollectiveIssue, hx]
    dsimp only
    rw [if_neg (by simp [hst]), State.inst?_work hn]
    dsimp only
    rw [hn]
    dsimp only
    rw [hg]
    dsimp only
    rw [hv]
  have hs1 : s1.group? n.ctx n.group = some v := State.group?_setGroup (s := { s with nextId := s.nextId + 1 }) hg
  have hk := (s1.keepsGroups_putXfer team { x with st := .waitBuffer, order := s.nextId + 1 }).trans (State.keepsGroups_collGrant _ team h) n.ctx n.group
  rw [hs1] at hk
  obtain ⟨k, hk1, hk2⟩ := Option.map_eq_some_iff.mp hk
  have hlast : k.last = SMap.set g.last n.cid n.gen := congrArg Prod.snd hk2
  exact ⟨_, k, he, hk1, by rw [hlast, SMap.get?_set, if_pos rfl]⟩

end

/-! ### Arriving data -/

section
variable {member : Nat} {g : Group} (hg : s.group? n.ctx n.group = some g)
include hg

theorem collectiveDataArrival_running {msg : CollMsg} (hm : endsInstance msg = false)
    (hr : s.collFor n.ctx n.group n.cid n.gen (fun y => y.st = .running) = some (team, x, n)) :
    execCollectiveDataArrival n.ctx n.group n.cid n.gen member msg s = .next (s.collTake team x n member msg) := by
  rw [execCollectiveDataArrival, hg]
  dsimp only
  rw [if_neg (by simp [hm]), hr]

omit hg in
theorem State.collTake_tile (hx : s.xfer? team h = some (t, x)) {st : TileStream} (hneeds : member ∈ n.needs) (hd : n.delivers = true) (hc : ∀ p ∈ x.contribs, p.1 ≠ member) :
    .collSend n.ctx n.group n.cid n.gen (.consumed member) ∈ (s.collTake team x n member (.tile st)).host ∧
      ((s.collTake team x n member (.tile st)).xfer? team h).map Prod.snd =
        some { x with contribs := x.contribs ++ [(member, st)], done := x.done + wireBytes n.loc.ty st } := by
  obtain ⟨ht, hxt⟩ := State.xfer?_iff.mp hx
  have haw : n.awaits x member = true := by
    have hany : (x.contribs.any fun p => p.1 = member) = false := List.any_eq_false.mpr fun p hp => by simpa using hc p hp
    simp [Inst.awaits, hd, hneeds, hany]
  obtain ⟨hb2, -, w, hw, hwx, -⟩ := State.collBill_spec ht x (wireBytes n.loc.ty st)
  rw [State.collTake, if_pos haw, ht]
  dsimp only
  refine ⟨List.mem_append_right _ List.mem_cons_self, ?_⟩
  have hxw : w.xfer? h = some x := by
    rw [Team.xfer?, hwx]
    exact hxt
  have hfil : (x.contribs.filter fun p => p.1 ≠ member) = x.contribs := List.filter_eq_self.mpr fun p hp => decide_eq_true (hc p hp)
  have hh := Team.handle_xfer? hxt
  rw [hb2]
  refine (State.snd_xfer?_put (y := { ({ x with done := x.done + wireBytes n.loc.ty st } : Xfer).give member st with part := x.part }) hw hxw hh).trans ?_
  rw [Xfer.give]
  dsimp only
  rw [hfil]

omit hg in
theorem State.memberLeft_ctx? {ctx : Nat} {c : Context} (hc : s.ctx? ctx = some c) (group cid : Nat) :
    ∃ d, (s.memberLeft ctx group cid member).ctx? ctx = some d ∧ d.id = c.id ∧ d.held = c.held := by
  have hid := State.ctx?_id hc
  subst hid
  rw [State.memberLeft]
  split
  · rw [State.setGroup, hc]
    exact ⟨_, State.ctx?_setCtx (d := { c with groups := _ }) hc, rfl, rfl⟩
  · exact ⟨c, hc, rfl, rfl⟩

theorem collectiveDataArrival_held {c : Context} {msg : CollMsg} (hc : s.ctx? n.ctx = some c)
    (hr : s.collFor n.ctx n.group n.cid n.gen (fun y => y.st = .running) = none)
    (hw : (s.collFor n.ctx n.group n.cid n.gen fun y => y.st = .waitBuffer).isSome ∨ n.gen = nextGen ((SMap.get? g.last n.cid).getD 0)) :
    ∃ u k, execCollectiveDataArrival n.ctx n.group n.cid n.gen member msg s = .next u ∧ u = { s with ctxs := u.ctxs } ∧ u.ctx? n.ctx = some k ∧
      k.held = c.held ++ [{ group := n.group, cid := n.cid, gen := n.gen, member := member, msg := msg }] ∧
      (endsInstance msg = false → k = { c with held := k.held }) := by
  let v := if endsInstance msg = true ∧ n.gen = (SMap.get? g.last n.cid).getD 0 then s.memberLeft n.ctx n.group n.cid member else s
  have hv : v = { s with ctxs := v.ctxs } ∧ s.KeepsGroups v ∧ ∃ d, v.ctx? n.ctx = some d ∧ d.id = c.id ∧ d.held = c.held ∧
      (endsInstance msg = false → d = c) := by
    simp only [v]
    split
    · rename_i he
      obtain ⟨d, hd, hid, hh⟩ := State.memberLeft_ctx? (member := member) hc n.group n.cid
      exact ⟨State.memberLeft_teams _ _ _ _ _, s.keepsGroups_memberLeft _ _ _ _, d, hd, hid, hh, fun hf => by rw [hf] at he; cases he.1⟩
    · exact ⟨rfl, .refl s, c, hc, rfl, rfl, fun _ => rfl⟩
  obtain ⟨hvs, hk, d, hd, hid, hh, hsame⟩ := hv
  have hcid : c.id = n.ctx := State.ctx?_id hc
  have hfor (p : Xfer → Bool) : v.collFor n.ctx n.group n.cid n.gen p = s.collFor n.ctx n.group n.cid n.gen p :=
    State.collFor_congr (by rw [hvs]) hk _ _ _ _ _
  let e : Context := { d with held := d.held ++ [{ group := n.group, cid := n.cid, gen := n.gen, member := member, msg := msg }] }
  have heid : e.id = n.ctx := hid.trans hcid
  have hrun : execCollectiveDataArrival n.ctx n.group n.cid n.gen member msg s = .next (v.setCtx e) := by
    rw [execCollectiveDataArrival, hg]
    change (match v.collFor n.ctx n.group n.cid n.gen (fun x => x.st = .running) with
      | some (team, x, n) => Host.Outcome.next (v.collTake team x n member msg)
      | none => _) = _
    rw [hfor, hr]
    change (match v.ctx? n.ctx with
      | some c => _
      | none => _) = _
    rw [hd]
    dsimp only
    rw [if_pos]
    rw [hfor]
    exact hw
  refine ⟨v.setCtx e, e, hrun, ?_, ?_, ?_, fun hf => ?_⟩
  · rw [hvs]
    rfl
  · rw [← heid]
    exact State.ctx?_setCtx (c := d) (heid ▸ hd)
  · exact congrArg (· ++ _) hh
  · simp only [e, hsame hf]

end

/-! ### Completion -/

section
variable (hs : s.Has team h x n) (hr : x.st = .running) (hheld : x.held = none) (ha : n.agrees x = true)
include hs hr hheld ha

theorem collectiveCompletion_sent (hd : n.delivers = false)
    (hc : n.reads = false ∨ ((∃ p ∈ x.contribs, p.1 = n.ent.self) ∧ ∀ m ∈ n.dlv, m ∈ x.complete)) :
    execCollectiveCompletion team h s = .next (s.collDone team x n) := by
  obtain ⟨t, ht⟩ := hs.runningColl hr
  have hown : ¬ (n.reads = true ∧ ¬ (x.contribs.any fun p => p.1 = n.ent.self) = true) := by
    rintro ⟨h1, h2⟩
    obtain hc | ⟨⟨p, hp, hps⟩, -⟩ := hc
    · rw [hc] at h1
      cases h1
    · exact h2 (List.any_eq_true.mpr ⟨p, hp, decide_eq_true hps⟩)
  have hdone : n.reads = false ∨ n.dlv.all (· ∈ x.complete) = true :=
    hc.imp_right fun h => List.all_eq_true.mpr fun m hm => decide_eq_true (h.2 m hm)
  rw [execCollectiveCompletion, ht]
  dsimp only
  rw [if_neg (by simp [hheld]), if_neg hown, if_neg (by simp [ha]), if_pos hd, if_pos hdone]

theorem collectiveCompletion_written {t2 : Team} (hd : n.delivers = true) (hc : n.reads = true → ∃ p ∈ x.contribs, p.1 = n.ent.self)
    (hready : n.ready x = true) (hw : s.collWrite n (n.result x) x (n.out.count - x.wrote) = (u, y, none)) (ht2 : u.team? team = some t2)
    (htill : y.till ≤ u.now) :
    let b := (Side.tile n.out n.org).bytesIn (elemBytes n.out.ty) x.wrote y.wrote
    execCollectiveCompletion team h s = .next (((u.collBill t2 y b).1.putXfer team (u.collBill t2 y b).2).collDone team (u.collBill t2 y b).2 n) := by
  intro b
  obtain ⟨t, ht⟩ := hs.runningColl hr
  have hown : ¬ (n.reads = true ∧ ¬ (x.contribs.any fun p => p.1 = n.ent.self) = true) := by
    rintro ⟨h1, h2⟩
    obtain ⟨p, hp, hps⟩ := hc h1
    exact h2 (List.any_eq_true.mpr ⟨p, hp, decide_eq_true hps⟩)
  obtain ⟨hb2, hbn, -⟩ := State.collBill_spec ht2 y b
  rw [execCollectiveCompletion, ht]
  dsimp only
  rw [if_neg (by simp [hheld]), if_neg hown, if_neg (by simp [ha]), if_neg (by simp [hd]), if_neg (by simp [hready]), hw]
  dsimp only
  rw [ht2]
  dsimp only
  refine if_neg (Nat.not_lt.mpr ?_)
  have hnow : ((u.collBill t2 y b).1.putXfer team (u.collBill t2 y b).2).now = u.now := by
    rw [State.putXfer, State.now, State.updTeam_rest]
    exact hbn
  have hty : (u.collBill t2 y b).2.till = y.till := by rw [hb2]
  exact (hty.trans_le htill).trans_eq hnow.symm

end

theorem State.collWrite_same {el : Nat → Nat} {m : Option Miss} : ∀ (k : Nat) {s u : State} {x y : Xfer}, s.collWrite n el x k = (u, y, m) →
    y = { x with wrote := y.wrote, grans := y.grans, till := y.till }
  | 0, s, u, x, y, hw => by
    cases hw
    rfl
  | k + 1, s, u, x, y, hw => by
    rw [State.collWrite] at hw
    split at hw
    · cases hw
      rfl
    · dsimp only at hw
      split at hw
      · cases hw
        rfl
      · cases hw
        rfl
      · have hk := State.collWrite_same k hw
        exact hk

end

/-- Settles O56: each step by what it does with the operation of the instance. -/
theorem collectivesProgress : Obligations.CollectivesProgress := by
  unfold Obligations.CollectivesProgress
  intro s team handle t x n hx hn sent arrives runs
  obtain ⟨ht, hxt⟩ := State.xfer?_iff.mp hx
  have hid : t.id = team := State.team?_id ht
  have hh : x.handle = handle := Team.handle_xfer? hxt
  have hgen : x.work.gen = n.gen := State.inst?_gen hn
  have hhas : s.Has team handle x n := ⟨t, hx, hn⟩
  refine ⟨?_, ?_, ?_, ?_, ?_, ?_, ?_⟩
  · intro g hst hg left v
    refine ⟨fun hv => ?_, fun hv => ?_, collectiveIssue_starts hx hn hst hg⟩
    · refine ⟨_, _, collectiveIssue_busy hx hn hst hg hv, rfl, State.team?_setTeam_of ht hid, ?_⟩
      exact hgen ▸ t.ended_finish hh 0 3
    · obtain ⟨w, hw, he, -⟩ := State.xferError_team? (hid.symm ▸ ht) hh cause.protection 0
      exact ⟨_, w, collectiveIssue_refused hx hn hst hg hv, hid ▸ hw, hgen ▸ he⟩
  · intro c hdue hb hreads hc hheld hgone
    obtain ⟨h1, h2, h3⟩ := State.collBegin_spec hhas hreads hc hheld hgone
    refine ⟨_, congrArg Host.Outcome.next (State.collGrant_eq hhas hdue hb), h2, ?_, h3⟩
    obtain ⟨w, hw, -⟩ := h1
    rw [hw]
    rfl
  · intro g st member hg hneeds hd hc hr
    obtain ⟨h1, h2⟩ := State.collTake_tile (n := n) hx (st := st) hneeds hd hc
    exact ⟨_, collectiveDataArrival_running hg rfl hr, h1, h2⟩
  · intro g e member hg hr
    refine ⟨fun he => ?_, fun he => ?_⟩
    · refine ⟨_, collectiveDataArrival_running hg rfl hr, ?_, ?_⟩
      · rw [State.collTake, if_pos he]
        exact State.updTeam_rest _ _ _
      · rw [State.collTake, if_pos he]
        exact State.snd_xfer?_put ht hxt hh
    · obtain ⟨w, hw, hend, hnews⟩ := State.collFail_spec (n := n) ht hh cause.protection 0 .entryDiffers
      have hfail : s.collTake team x n member (.entry e) = s.collFail team x n cause.protection 0 .entryDiffers := by
        rw [State.collTake, if_neg (by simp [he])]
      rw [← hfail] at hw hnews
      exact ⟨_, w, collectiveDataArrival_running hg rfl hr, hw, hgen ▸ hend, hnews⟩
  · intro c g member msg hc hg hr hw
    exact collectiveDataArrival_held hg hc hr hw
  · intro hr hheld ha hd hc
    obtain ⟨w, hw, hend, hnews⟩ := State.collDone_spec (n := n) ht hh
    exact ⟨_, w, collectiveCompletion_sent hhas hr hheld ha hd hc, hw, hgen ▸ hend, hnews⟩
  · intro u y t2 hr hheld ha hd hc hready hwrite ht2 htill
    have hy := State.collWrite_same _ hwrite
    obtain ⟨hb2, -, w, hw, -, hws⟩ := State.collBill_spec ht2 y ((Side.tile n.out n.org).bytesIn (elemBytes n.out.ty) x.wrote y.wrote)
    have hyh : (u.collBill t2 y ((Side.tile n.out n.org).bytesIn (elemBytes n.out.ty) x.wrote y.wrote)).2.handle = handle := by
      rw [hb2, hy]
      exact hh
    have hyg : (u.collBill t2 y ((Side.tile n.out n.org).bytesIn (elemBytes n.out.ty) x.wrote y.wrote)).2.work.gen = n.gen := by
      rw [hb2, hy]
      exact hgen
    obtain ⟨v, hv, hend, hnews⟩ := State.collDone_spec (n := n) (State.team?_putXfer (y := (u.collBill t2 y _).2) hw) hyh
    rw [hyg] at hend
    exact ⟨_, v, collectiveCompletion_written hhas hr hheld ha hd hc hready hwrite ht2 htill, hv, Team.ended_congr hend hws.symm rfl rfl, hnews⟩

end Sys2Proof.Machine
end

section
/-!
SUPPORT. Leases, acknowledgements, and the recalls of tracking structures (R129, R139, R357 to R362, R374).
-/

namespace Sys2Proof.Machine

section
variable (s : State)

/-! ### Leases and acknowledgements -/

theorem State.acked_rest (u : UnitRef) : s.acked u = { s with teams := (s.acked u).teams } := by
  rw [State.acked]
  split <;> rfl

theorem State.foldl_acked_rest (l : List HeldPub) :
    l.foldl (fun s p => s.acked p.u) s = { s with teams := (l.foldl (fun s p => s.acked p.u) s).teams } := by
  induction l generalizing s with
  | nil => rfl
  | cons p l ih =>
    rw [List.foldl_cons, ih, s.acked_rest]

theorem leaseExpiry_spec (die line : Nat) :
    ∃ t, execLeaseExpiry die line s = .next t ∧ t = { s with lines := t.lines, pubs := t.pubs, teams := t.teams } ∧
      (∀ c, c ∈ t.lines ↔ c ∈ s.lines ∧ ¬ (c.cls = .phase ∧ c.line = line ∧ c.level.die = die ∧ c.lease ≤ s.now)) ∧
      ∀ p, p ∈ t.pubs ↔ p ∈ s.pubs ∧ s.now < p.till := by
  let v : State :=
    { s.dropCopies (fun c => decide (c.cls = .phase ∧ c.line = line ∧ c.level.die = die ∧ c.lease ≤ s.now)) with pubs := s.pubs.filter fun p => s.now < p.till }
  have hr := v.foldl_acked_rest (s.pubs.filter fun p => p.till ≤ s.now)
  refine ⟨(s.pubs.filter fun p => p.till ≤ s.now).foldl (fun s p => s.acked p.u) v, rfl, ?_, fun c => ?_, fun p => ?_⟩
  · rw [hr]
    rfl
  · rw [hr]
    exact s.mem_dropCopies.trans (and_congr_right' (by rw [decide_eq_false_iff_not]))
  · rw [hr]
    exact List.mem_filter.trans (and_congr_right' decide_eq_true_iff)

theorem writeAcknowledgement_spec {u : UnitRef} {x : Site} (hx : s.site? u = some x)
    (hh : (s.posted.filter fun p => p.by_ = some u).length + (s.pubs.filter fun p => p.u = u ∧ s.now < p.till).length < x.heat.unacked) :
    ∃ t y, execWriteAcknowledgement u s = .next t ∧ t = { s with teams := t.teams, pubs := t.pubs } ∧ t.site? u = some y ∧
      y.heat = { x.heat with unacked := x.heat.unacked - 1 } := by
  have hu : x.u = u := (State.site?_some hx).1
  subst hu
  let v : State := { s with pubs := s.pubs.eraseP fun p => decide (p.u = x.u ∧ p.till ≤ s.now) }
  have hv : v.site? x.u = some x := hx
  have ha : v.acked x.u = v.put { x with heat := { x.heat with unacked := x.heat.unacked - 1 } } := by rw [State.acked, hv]
  refine ⟨v.acked x.u, ({ x with heat := { x.heat with unacked := x.heat.unacked - 1 } } : Site).putBack, ?_, ?_, ?_, rfl⟩
  · rw [execWriteAcknowledgement, hx]
    exact if_pos hh
  · rw [ha]
    rfl
  · rw [ha]
    exact State.site?_put (y := { x with heat := { x.heat with unacked := x.heat.unacked - 1 } }) hv rfl rfl rfl rfl rfl rfl

/-! ### U lines -/

theorem ULine.onLines_line (l : ULine) (line : Nat) : l.onLines (64 * line) 64 = decide (l.pa / 64 = line) := by
  rw [ULine.onLines, decide_eq_decide]
  omega

theorem State.mem_ulines_recallU {pa n : Nat} {l : ULine} : l ∈ (s.recallU pa n).ulines ↔ l ∈ s.ulines ∧ l.onLines pa n = false := by
  simp [State.recallU]

theorem returnU_spec (line : Nat) :
    ∃ t, execHomeRequest (.returnU line) s = .next t ∧ t = { s with mem := t.mem, ulines := t.ulines } ∧
      (∀ l, l ∈ t.ulines ↔ l ∈ s.ulines ∧ l.pa / 64 ≠ line) ∧ ∀ a, ¬ s.pendingAt a → Memory.get t.mem a = Memory.get s.mem a := by
  refine ⟨s.recallU (64 * line) 64, rfl, rfl, fun l => ?_, (s.peeks_recallU _ _).bytes⟩
  rw [State.mem_ulines_recallU, ULine.onLines_line, decide_eq_false_iff_not]

/-! ### Evictions -/

theorem State.noNew_evictCopy (bad : Bool) (c : CLine) : s.NoNew (s.evictCopy bad c) := by
  rw [State.evictCopy]
  have hm := State.NoNew.foldl (fun s d => State.noNew_writeBackOne s c.level.die d) (s.mates c) s
  refine .trans ?_ (State.noNew_dropCopies _ _)
  generalize (s.mates c).foldl (fun s d => s.writeBackOne c.level.die d) s = u at hm ⊢
  have hw := hm.trans (u.noNew_writeBack c.level.die c)
  split
  · rename_i t cs he
    rw [he] at hw
    exact hw.trans (.of_lines (t.lines_chargeOwner _ _ _))
  · rename_i t he
    rw [he] at hw
    split
    · exact hw.trans (.of_lines (State.lines_chargeOwner _ _ _ _))
    · exact hw

theorem State.evictCopy_gone (bad : Bool) (c : CLine) : ∀ d ∈ (s.evictCopy bad c).lines, ¬ (d.level = c.level ∧ d.line = c.line) := by
  intro d hd
  rw [State.evictCopy] at hd
  exact of_decide_eq_false ((State.mem_dropCopies _).mp hd).2

theorem State.evictAll_gone (bad : Bool) : ∀ (l : List CLine) (s : State),
    ∀ c ∈ l, ∀ d ∈ (l.foldl (fun s c => s.evictCopy bad c) s).lines, ¬ (d.level = c.level ∧ d.line = c.line)
  | a :: l, s, c, hc, d, hd => by
    obtain rfl | hc := List.mem_cons.mp hc
    · obtain ⟨b, hb, h1, h2, -⟩ := State.NoNew.foldl (fun s c => State.noNew_evictCopy s bad c) l (s.evictCopy bad c) d hd
      have hg := s.evictCopy_gone bad c b hb
      rwa [h1, h2] at hg
    · exact State.evictAll_gone bad l _ c hc d hd

theorem mem_outerFirst {cs : List CLine} {c : CLine} : c ∈ outerFirst cs ↔ c ∈ cs := by
  simp only [outerFirst, List.mem_append, List.mem_filter]
  cases c.level <;> simp

theorem State.mem_copiesOn {die line : Nat} {c : CLine} : c ∈ s.copiesOn die line ↔ c ∈ s.lines ∧ c.line = line ∧ c.level.die = die := by
  simp [State.copiesOn]

theorem State.evict_gone (die line : Nat) (bad : Bool) : ∀ c ∈ (s.evict die line bad).lines, ¬ (c.line = line ∧ c.level.die = die) := by
  rintro c hc ⟨hl, hd⟩
  obtain ⟨b, hb, h1, h2, -⟩ := State.NoNew.foldl (fun s c => State.noNew_evictCopy s bad c) (outerFirst (s.copiesOn die line)) s c hc
  exact State.evictAll_gone bad _ s b (mem_outerFirst.mpr ((s.mem_copiesOn).mpr ⟨hb, h2.trans hl, h1 ▸ hd⟩)) c hc ⟨h1.symm, h2.symm⟩

/-- A clean copy that no converting write joined to others goes, and nothing else. -/
theorem State.evictCopy_clean {c : CLine} (hd : c.dirtyBytes = []) (hc : c.chunk = none) :
    s.evictCopy false c = s.dropCopies fun d => d.level = c.level ∧ d.line = c.line := by
  have hm : s.mates c = [] := by rw [State.mates, hc]
  have hw : s.writeBack c.level.die c = (s, none) := by rw [State.writeBack, hd]; rfl
  rw [State.evictCopy, hm, List.foldl_nil, hw]
  rfl

theorem State.evictAll_clean : ∀ (l : List CLine) (s : State), (∀ c ∈ l, c.dirtyBytes = [] ∧ c.chunk = none) →
    l.foldl (fun s c => s.evictCopy false c) s = { s with lines := (l.foldl (fun s c => s.evictCopy false c) s).lines } ∧
      ∀ d, d ∈ (l.foldl (fun s c => s.evictCopy false c) s).lines ↔ d ∈ s.lines ∧ ∀ c ∈ l, ¬ (d.level = c.level ∧ d.line = c.line)
  | [], s, _ => ⟨rfl, fun d => by simp⟩
  | c :: l, s, h => by
    obtain ⟨hd, hc⟩ := h c List.mem_cons_self
    obtain ⟨h1, h2⟩ := State.evictAll_clean l (s.evictCopy false c) fun d hd => h d (List.mem_cons_of_mem _ hd)
    rw [List.foldl_cons]
    constructor
    · rw [h1, s.evictCopy_clean hd hc]
      rfl
    · intro d
      rw [h2, s.evictCopy_clean hd hc, State.mem_dropCopies, decide_eq_false_iff_not, List.forall_mem_cons, and_assoc]

theorem State.evict_clean {die line : Nat} (h : ∀ c ∈ s.lines, c.line = line → c.level.die = die → c.dirtyBytes = [] ∧ c.chunk = none) :
    s.evict die line false = { s with lines := (s.evict die line false).lines } ∧
      ∀ c, c ∈ (s.evict die line false).lines ↔ c ∈ s.lines ∧ ¬ (c.line = line ∧ c.level.die = die) := by
  obtain ⟨h1, h2⟩ := State.evictAll_clean (outerFirst (s.copiesOn die line)) s fun c hc => by
    obtain ⟨hm, hl, hd⟩ := (s.mem_copiesOn).mp (mem_outerFirst.mp hc)
    exact h c hm hl hd
  refine ⟨h1, fun c => (h2 c).trans (and_congr_right fun hc => ⟨?_, ?_⟩)⟩
  · rintro hall ⟨hl, hd⟩
    exact hall c (mem_outerFirst.mpr ((s.mem_copiesOn).mpr ⟨hc, hl, hd⟩)) ⟨rfl, rfl⟩
  · rintro hn b hb ⟨hlv, hl⟩
    obtain ⟨-, hbl, hbd⟩ := (s.mem_copiesOn).mp (mem_outerFirst.mp hb)
    exact hn ⟨hl.trans hbl, hlv ▸ hbd⟩

/-! ### Recalls -/

theorem State.recallOne_some {ts r : List Track} {e : Track} (h : s.victimEntry ts = some (e, r)) (go : Track → List Track → State → State) :
    s.recallOne ts go = go e r s.chosen := by
  rw [State.recallOne, h]

theorem recallFilter_spec {cl : ClusterRef} {ts r : List Track} {e : Track} (hts : SMap.get? s.filters (clusterNo cl) = some ts)
    (h : s.victimEntry ts = some (e, r)) :
    ∃ t, execHomeRequest (.recallFilter cl) s = .next t ∧ SMap.get? t.filters (clusterNo cl) = some r ∧
      ∀ c, c ∈ t.lines ↔ c ∈ s.lines ∧ ¬ (c.cls ≠ .priv ∧ c.line = e.region ∧ ∃ k ∈ e.holders, c.level = .l0 cl k) := by
  refine ⟨({ s.chosen with filters := SMap.set s.filters (clusterNo cl) r } : State).recallFilter cl e, ?_, ?_, fun c => ?_⟩
  · rw [execHomeRequest, hts]
    exact congrArg _ (s.recallOne_some h _)
  · exact (SMap.get?_set _ _ _ _).trans (if_pos rfl)
  · refine (State.mem_dropCopies _).trans (and_congr_right' ?_)
    rw [← Bool.not_eq_true, not_iff_not, Bool.and_eq_true, decide_eq_true_iff, List.any_eq_true, and_assoc]
    simp only [decide_eq_true_eq]

theorem recallPort_spec {r : List Track} {e : Track} (h : s.victimEntry s.portDir = some (e, r)) :
    ∃ t, execHomeRequest .recallPort s = .next t ∧ t.portDir = r ∧ (∀ l ∈ t.ulines, l.pa / 512 ≠ e.region) ∧
      ∀ c, c ∈ t.lines ↔ c ∈ s.lines ∧ ¬ (c.cls ≠ .priv ∧ c.line / 8 = e.region ∧ c.level.die ∈ e.holders) := by
  refine ⟨({ s.chosen with portDir := r } : State).recallPort e, congrArg _ (s.recallOne_some h _), rfl, fun l hl => ?_, fun c => ?_⟩
  · have ho := ((State.mem_ulines_recallU _).mp hl).2
    rw [ULine.onLines, decide_eq_false_iff_not] at ho
    omega
  · exact (State.mem_dropCopies _).trans (and_congr_right' decide_eq_false_iff_not)

theorem recallSnoop_spec {r : List Track} {e : Track} (h : s.victimEntry s.snoopFl = some (e, r)) :
    ∃ t, execHomeRequest .recallSnoop s = .next t ∧ t.snoopFl = r ∧ ∀ k ∈ e.holders, ∃ n ∈ t.snoops, n.line = e.region ∧ n.host = k := by
  obtain ⟨h1, -, h3⟩ := State.sendSnoops_spec e.region e.holders { s.chosen with snoopFl := r }
  refine ⟨({ s.chosen with snoopFl := r } : State).recallHosts e, congrArg _ (s.recallOne_some h _), ?_, h3⟩
  rw [State.recallHosts, h1]

end

end Sys2Proof.Machine
end

section
/-!
SUPPORT. Posted writes and those who answer for them (R126, R359, R366), accesses from outside (R122, R365), and class changes (R143, R144, R368).
-/

namespace Sys2Proof.Machine

/-! ### Writes at the home -/

/-- The package t is s but for what a write at its home changes: memory, its poison, U lines that have returned, used invalidations and queues. -/
def State.AtHome (s t : State) : Prop := t = { s with mem := t.mem, poison := t.poison, ulines := t.ulines, invals := t.invals, queues := t.queues }

namespace State.AtHome

theorem refl (s : State) : s.AtHome s := rfl

theorem trans {s t u : State} (h : s.AtHome t) (k : t.AtHome u) : s.AtHome u := by
  rw [State.AtHome] at h k ⊢
  rw [k, h]

theorem foldl {α : Type} {f : State → α → State} (hf : ∀ (s : State) a, s.AtHome (f s a)) : ∀ (l : List α) (s : State), s.AtHome (l.foldl f s)
  | [], s => refl s
  | a :: l, s => (hf s a).trans (foldl hf l _)

end State.AtHome

section
variable (s : State)

theorem State.atHome_publish : ∀ (bs : List (Nat × Byte)) (s : State), s.AtHome (s.publish bs)
  | [], s => .refl s
  | b :: bs, s => .trans (t := s.homeWrite b.1 [b.2]) rfl (State.atHome_publish bs _)

theorem State.atHome_seqWrite (pa : Nat) (bs : List Byte) : s.AtHome (s.seqWrite pa bs) := by
  rw [State.seqWrite]
  split
  · rw [State.notifyStore]
    split <;> exact rfl
  · exact rfl

theorem State.atHome_performAt (p : Posted) : s.AtHome (s.performAt p) := by
  have hw : s.AtHome (match p.pack with
      | none => s.seqWrite p.pa p.bytes
      | some k => (s.homeRead k.base k.format.chunkBytes).2.publish (k.result (s.homeRead k.base k.format.chunkBytes).1)) := by
    split
    · exact s.atHome_seqWrite _ _
    · exact .trans (t := (s.homeRead _ _).2) rfl (State.atHome_publish _ _)
  rw [State.performAt]
  dsimp only
  split
  · exact hw.trans rfl
  · exact hw

theorem State.atHome_publishAll (bs : List LayerByte) : s.AtHome (s.publishAll bs) := by
  rw [State.publishAll]
  refine .trans (.foldl (fun s p => ?_) _ s) (State.atHome_publish _ _)
  exact .trans (t := (s.homeRead p.base p.format.chunkBytes).2) rfl (State.atHome_publish _ _)

theorem State.mem_performAt {p : Posted} (hk : p.pack = none) : (s.performAt p).mem = (s.seqWrite p.pa p.bytes).mem := by
  rw [State.performAt, hk]
  dsimp only
  split <;> rfl

/-! ### Posted writes -/

theorem State.lines_performPosted (id : Nat) : (s.performPosted id).lines = s.lines := by
  rw [State.performPosted]
  split
  · rfl
  · split
    · rfl
    · split
      · rename_i p _ _ _ _
        have h := State.atHome_performAt ({ s with posted := s.posted.filter fun q => q.id ≠ id } : State) p
        rw [State.tellAll, h]
      · rw [State.snoopFor_rest]

theorem State.lines_answered (p : Posted → Bool) (holder : Nat) : (s.answered p holder).lines = s.lines := by
  rw [State.answered]
  exact List.foldlRecOn (motive := fun t : State => t.lines = s.lines) _ _ rfl fun t ht id _ => (t.lines_performPosted id).trans ht

theorem State.answered_none {p : Posted → Bool} (h : ∀ q ∈ s.posted, p q = false) (holder : Nat) : s.answered p holder = s := by
  have hf : s.posted.filter p = [] := List.filter_eq_nil_iff.mpr fun q hq => by rw [h q hq]; exact nofun
  have hm : (s.posted.map fun q => if p q then { q with left := q.left.filter (· ≠ holder) } else q) = s.posted :=
    (List.map_congr_left fun q hq => if_neg (by rw [h q hq]; exact nofun)).trans (List.map_id' _)
  rw [State.answered, hf, hm]
  rfl

theorem postedWrite_spec {p : Posted} {r : List Posted} (hm : s.MemOk) (hp : s.posted = p :: r) (hl : p.left = []) (hk : p.pack = none)
    (hn : s.notifyVf p.pa = none) (ha : ∀ k ∈ s.answerersOf p.src p.lines, 3000 ≤ k) :
    ∃ t, execHomeRequest (.postedWrite p.id) s = .next t ∧ Memory.read t.mem p.pa p.bytes.length = p.bytes ∧ ∀ q ∈ t.posted, q.id ≠ p.id := by
  let v : State := { s with posted := s.posted.filter fun q => q.id ≠ p.id }
  have hv : v.AtHome (v.performAt p) := v.atHome_performAt p
  have hnone : (s.answerersOf p.src p.lines).filter (· < 3000) = [] :=
    List.filter_eq_nil_iff.mpr fun k hk => by simpa using ha k hk
  have he : s.performPosted p.id = (v.performAt p).tellAll p.tells := by
    have hfind : s.posted.find? (fun q => q.id = p.id) = some p := by rw [hp]; exact List.find?_cons_of_pos (decide_eq_true rfl)
    have hfirst : (s.posted.takeWhile fun q => q.id ≠ p.id) = [] := by rw [hp]; exact List.takeWhile_cons_of_neg (by simp)
    rw [State.performPosted, hfind]
    dsimp only
    rw [if_neg (by rw [hfirst]; simp [hl]), hnone]
  refine ⟨_, congrArg Host.Outcome.next he, ?_, fun q hq => ?_⟩
  · change Memory.read (v.performAt p).mem p.pa p.bytes.length = p.bytes
    rw [v.mem_performAt hk]
    exact v.read_seqWrite hn hm
  · change q ∈ (v.performAt p).posted at hq
    rw [hv] at hq
    exact of_decide_eq_true (List.mem_filter.mp hq).2

theorem invalidationAck_held {id k : Nat} {p : Posted} (hp : (s.posted.find? fun q => q.id = id) = some p) (hk : k ∈ p.left) (hlt : k < 2000) :
    ∃ t, execInvalidationAck id k s = .next t ∧ ∀ c ∈ t.lines, ¬ (c.line ∈ p.lines ∧ c.cls = .seq ∧ c.level.holder = k) := by
  refine ⟨(s.dropCopies fun c => decide (c.line ∈ p.lines ∧ c.cls = .seq ∧ c.level.holder = k)).answered (fun q => decide (q.id = id)) k, ?_, fun c hc => ?_⟩
  · rw [execInvalidationAck, if_neg (by rw [heldAtHome]; omega), hp]
    exact if_neg (not_not_intro hk)
  · rw [State.lines_answered] at hc
    exact of_decide_eq_false ((State.mem_dropCopies _).mp hc).2

theorem invalidationAck_ahead {id k : Nat} (hp : (s.posted.find? fun q => q.id = id) = none) (hk : 3000 ≤ k) (hne : k ≠ heldAtHome) :
    ∃ t, execInvalidationAck id k s = .next t ∧ t = { s with invals := t.invals } ∧ ∀ v ∈ t.invals, v.id = id → k ∉ v.left := by
  refine ⟨{ s with invals := s.invals.map fun v => if v.id = id then { v with left := v.left.filter (· ≠ k) } else v }, ?_, rfl, fun v hv hid => ?_⟩
  · rw [execInvalidationAck, if_neg (by omega), hp]
  · obtain ⟨w, -, rfl⟩ := List.mem_map.mp hv
    by_cases hw : w.id = id
    · rw [if_pos hw]
      exact fun hm => of_decide_eq_true (List.mem_filter.mp hm).2 rfl
    · rw [if_neg hw] at hid
      exact absurd hid hw

/-! ### Accesses from outside -/

variable {s}
variable {x : ExtAccess}

/-- Bytes that an access from outside moves. -/
def extWidth (x : ExtAccess) : Nat := if x.write then x.bytes.length else x.size

/-- An access within a line has one part. -/
theorem accessParts_line {notify : Nat → Bool} (hn : notify x.pa = false) (h1 : 1 ≤ (extWidth x)) (h64 : x.pa % 64 + extWidth x ≤ 64) (k : Nat) :
    accessParts notify x (k + 2) = [{ x with bytes := x.bytes.take (extWidth x), size := (extWidth x) }] := by
  have hrest : ∀ {y : ExtAccess}, (extWidth y) = 0 → accessParts notify y (k + 1) = [] := fun hy => if_pos hy
  have hmin : min (extWidth x) (64 - x.pa % 64) = (extWidth x) := by omega
  rw [accessParts, ← extWidth]
  dsimp only
  rw [if_neg (by omega), hn, if_neg (by decide), hmin, hrest]
  rw [extWidth]
  dsimp only
  split
  · rename_i hw
    rw [List.length_drop, extWidth, if_pos hw, Nat.sub_self]
  · exact Nat.sub_self _

/-- Nothing keeps an access from outside from being served as it arrives. -/
structure State.Serveable (s : State) (x : ExtAccess) : Prop where
  ctx : x.ctx = none
  notify : s.notifyVf x.pa = none
  home : ∃ d e, s.homeOf x.pa = some d ∧ s.die? d = some e ∧ e.down = false
  reach : s.outside x.src x.pa = true
  alone : ∀ y ∈ s.outq, y.src ≠ x.src
  snoops : ∀ n ∈ s.snoops, n.line ≠ x.pa / 64
  cls : ∀ c, x.cls = some c → s.classCheck x.pa c = .ok ()
  sums : s.awaitsU x.pa = false
  earlier : ∀ p ∈ s.posted, p.src ≠ some x.src

theorem State.Serveable.part (h : s.Serveable x) (bs : List Byte) (n : Nat) : s.Serveable { x with bytes := bs, size := n } :=
  ⟨h.ctx, h.notify, h.home, h.reach, h.alone, h.snoops, h.cls, h.sums, h.earlier⟩

theorem State.arrivePart_serveable {t : State} (h : s.Serveable x) (hs : s.servePart x = .done t) : s.arrivePart x = t := by
  have hq : (s.outq.any fun y => y.src = x.src) = false := List.any_eq_false.mpr fun y hy => by simpa using h.alone y hy
  rw [State.arrivePart]
  dsimp only
  rw [hq, if_neg nofun, if_neg, hs]
  rw [Bool.not_eq_true, List.any_eq_false]
  intro n hn hp
  split at hp
  · exact h.snoops n hn (of_decide_eq_true hp).1
  · cases hp

theorem execExternalAccess_line {t : State} (h : s.Serveable x) (h1 : 1 ≤ (extWidth x)) (h64 : x.pa % 64 + extWidth x ≤ 64)
    (hs : s.servePart { x with bytes := x.bytes.take (extWidth x), size := (extWidth x) } = .done t) : execExternalAccess x s = .next t := by
  have hn : (x.ctx.isNone && (s.notifyVf x.pa).isSome) = false := by rw [h.notify]; simp
  have hp : s.placePart { x with bytes := x.bytes.take (extWidth x), size := extWidth x } = some { x with bytes := x.bytes.take (extWidth x), size := extWidth x } := by
    rw [State.placePart, h.ctx]
  rw [execExternalAccess, ← extWidth]
  rw [accessParts_line hn h1 h64, List.foldl_cons, List.foldl_nil, hp]
  exact congrArg _ (State.arrivePart_serveable (h.part _ _) hs)

theorem State.servePart_eq (h : s.Serveable x) :
    s.servePart x = if x.write then
        if s.poison.any (fun l => decide (l = x.pa / 64) && !wholeLine l x.pa (extWidth x)) then .done (s.tell .errorResponse) else s.serveWrite x
      else .done (((s.homeRead x.pa (extWidth x)).2.recordReader x.src x.pa).tell
        (if (s.homeRead x.pa (extWidth x)).2.poisoned x.pa (extWidth x) then .poisoned (s.homeRead x.pa (extWidth x)).1 else .data (s.homeRead x.pa (extWidth x)).1)) := by
  obtain ⟨d, e, hd, he, hdown⟩ := h.home
  have hearlier : (s.posted.any fun p => p.src = some x.src) = false := List.any_eq_false.mpr fun p hp => by simpa using h.earlier p hp
  have hwait : ¬ (s.awaitsU x.pa = true ∨ s.recorded x.pa = .seq ∧ ¬ x.write = true ∧ (s.posted.any fun p => p.src = some x.src) = true) := by
    rw [h.sums, hearlier]
    simp
  rw [State.servePart, h.notify]
  dsimp only
  rw [hd, Option.bind_some, he, Option.map_some, Option.getD_some, hdown, h.reach, if_neg (by decide)]
  cases hc : x.cls with
  | none =>
    dsimp only
    rw [if_neg hwait]
    rfl
  | some c =>
    dsimp only
    rw [h.cls c hc]
    dsimp only
    rw [if_neg hwait]
    rfl

theorem State.recordReader_rest (s : State) (src : Requester) (pa : Nat) : (s.recordReader src pa).mem = s.mem := by
  unfold State.recordReader
  split
  · rfl
  · split
    · rw [State.recordHost]
      split
      · rfl
      · rw [State.recallHosts, (State.sendSnoops_spec _ _ _).1]
    · rw [State.recordPeer]
      split <;> rfl

theorem externalAccess_reads (h : s.Serveable x) (h1 : 1 ≤ x.size) (h64 : x.pa % 64 + x.size ≤ 64) (hw : x.write = false)
    (hp : s.poisoned x.pa x.size = false) :
    ∃ t, execExternalAccess x s = .next t ∧ t.host.getLast? = some (.data (s.homeRead x.pa x.size).1) ∧ t.mem = (s.homeRead x.pa x.size).2.mem := by
  have hx : extWidth x = x.size := if_neg (by simp [hw])
  have hz : extWidth { x with bytes := x.bytes.take x.size, size := x.size } = x.size := if_neg (by simp [hw])
  have hs := State.servePart_eq (h.part (x.bytes.take x.size) x.size)
  have hpo : (s.homeRead x.pa x.size).2.poisoned x.pa x.size = false := hp
  dsimp only at hs
  rw [hz, if_neg (by simp [hw]), hpo] at hs
  refine ⟨_, execExternalAccess_line h (by omega) (by omega) (by rw [hx]; exact hs), List.getLast?_concat, ?_⟩
  exact State.recordReader_rest _ _ _

theorem externalAccess_writes (h : s.Serveable x) (hm : s.MemOk) (h1 : 1 ≤ x.bytes.length) (h64 : x.pa % 64 + x.bytes.length ≤ 64) (hw : x.write = true)
    (hp : x.pa / 64 ∉ s.poison) (hc : s.recorded x.pa = .seq) (ha : s.answerersOf (some x.src) [x.pa / 64] = []) :
    ∃ t, execExternalAccess x s = .next t ∧ Memory.read t.mem x.pa x.bytes.length = x.bytes := by
  have hx : extWidth x = x.bytes.length := if_pos hw
  have hs := State.servePart_eq (h.part x.bytes x.bytes.length)
  dsimp only at hs
  have hpo : (s.poison.any fun l => decide (l = x.pa / 64) && !wholeLine l x.pa (extWidth { x with size := x.bytes.length })) = false :=
    List.any_eq_false.mpr fun l hl hq => hp (of_decide_eq_true (Bool.and_eq_true_iff.mp hq).1 ▸ hl)
  have hearlier : (s.posted.any fun p => p.src = some x.src) = false := List.any_eq_false.mpr fun p hq => by simpa using h.earlier p hq
  have hlines : linesOf x.pa x.bytes.length = [x.pa / 64] := by
    have h2 : (x.pa + x.bytes.length + 63) / 64 - x.pa / 64 = 1 := by omega
    rw [linesOf, h2]
    rfl
  let p : Posted := { id := 0, by_ := none, pc := 0, src := some x.src, pa := x.pa, bytes := x.bytes, left := [], tells := [], poison := x.poison }
  have hput : s.seqPut p false = (s.performAt p, false) := by
    refine s.seqPut_clear ?_
    rw [Posted.lines]
    dsimp only [p]
    rw [hlines]
    exact ha
  rw [if_pos hw, hpo, if_neg nofun, State.serveWrite] at hs
  dsimp only at hs
  rw [hc] at hs
  dsimp only at hs
  rw [hearlier, hput] at hs
  refine ⟨_, execExternalAccess_line h (by omega) (by omega) (by rw [hx, List.take_length]; exact hs), ?_⟩
  rw [s.mem_performAt rfl]
  exact s.read_seqWrite h.notify hm

/-! ### Back-invalidations -/

theorem backInvalidateSnoop_spec {port line : Nat} (hp : s.product = .ks4n) (hport : port ≤ 4 ∨ (16 ≤ port ∧ port < 16 + 1024)) :
    ∃ t, execBackInvalidateSnoop ⟨port, line⟩ s = .next t ∧ t.host = s.host ++ [.birsp line] ∧
      ∀ k, (s.portDir.find? fun e => e.region = behindPort (portTarget port) (64 * line) / 64 / 8) = some k →
        ∀ c ∈ t.lines, c.line = behindPort (portTarget port) (64 * line) / 64 → c.cls ≠ .priv → c.level.die ∉ k.holders := by
  refine ⟨s.backInvalidate (portTarget port) line, if_neg ?_, rfl, fun k hk c hc hl hcls hd => ?_⟩
  · dsimp only
    rw [hp]
    simp only [reduceCtorEq, false_or]
    omega
  · have hdrop := of_decide_eq_false ((State.mem_dropCopies _).mp hc).2
    refine hdrop ⟨hl, hcls, ?_⟩
    rw [hk]
    exact hd

theorem State.hostsOf_forgetHost (s : State) (line k : Nat) : k ∉ (s.forgetHost line k).hostsOf line := by
  intro hk
  rw [State.hostsOf] at hk
  cases hf : (s.forgetHost line k).snoopFl.find? fun t => t.region = line with
  | none =>
    rw [hf] at hk
    cases hk
  | some t =>
    rw [hf] at hk
    have hreg : t.region = line := by
      have h := List.find?_some hf
      exact of_decide_eq_true h
    obtain ⟨u, -, hu⟩ := List.mem_map.mp (List.mem_filter.mp (List.mem_of_find?_eq_some hf)).1
    by_cases hl : u.region = line
    · rw [if_pos hl] at hu
      subst hu
      exact of_decide_eq_true (List.mem_filter.mp hk).2 rfl
    · rw [if_neg hl] at hu
      exact hl (hu ▸ hreg)

theorem birsp_spec {n : Snoop} (hn : n ∈ s.snoops) (hh : n.held = []) (hu : ∀ m ∈ s.snoops, m.line = n.line → m.host = n.host → m = n)
    (hp : ∀ p ∈ s.posted, n.line ∉ p.lines) :
    ∃ t, execBirsp n.line n.host s = .next t ∧ t = { s with snoops := s.snoops.erase n, snoopFl := t.snoopFl } ∧ n.host ∉ t.hostsOf n.line := by
  let v : State := ({ s with snoops := s.snoops.erase n } : State).forgetHost n.line n.host
  have hfind : (s.snoops.find? fun m => m.line = n.line ∧ m.host = n.host) = some n := by
    cases hf : s.snoops.find? fun m => m.line = n.line ∧ m.host = n.host with
    | none => exact absurd (decide_eq_true ⟨rfl, rfl⟩) (List.find?_eq_none.mp hf n hn)
    | some m =>
      have hm := List.find?_some hf
      obtain ⟨h1, h2⟩ := of_decide_eq_true hm
      rw [hu m (List.mem_of_find?_eq_some hf) h1 h2]
  have ha : v.answered (fun p => decide (n.line ∈ p.lines)) (2000 + n.host) = v := v.answered_none (fun q hq => decide_eq_false (hp q hq)) _
  refine ⟨v, ?_, rfl, State.hostsOf_forgetHost _ _ _⟩
  rw [execBirsp, hfind]
  dsimp only
  rw [hh, List.foldl_nil]
  exact congrArg _ ha

/-! ### Class changes -/

theorem classChange_starts {tenant page : Nat} {cls : PageClass} (hh : s.holdsPage tenant page = true) (hc : ∀ c ∈ s.changes, c.page ≠ page) :
    execClassChange ⟨tenant, page⟩ cls s =
      .next { s with changes := s.changes ++ [{ page := page, old := s.recorded (4096 * page), new := cls }] } := by
  have hany : ¬ (s.changes.any fun c => c.page = page) = true := by
    rw [List.any_eq_true]
    rintro ⟨c, hm, hp⟩
    exact hc c hm (of_decide_eq_true hp)
  exact (if_pos hh).trans (congrArg _ (if_neg hany))

/-- The copies of a page of the class that it leaves are gone, but for SEQ ones. -/
theorem State.leaveClass_lines (s : State) (page : Nat) (old : PageClass) :
    ∀ c ∈ (s.leaveClass page old).lines, c.line / 64 = page → c.cls = old → old = .seq := by
  intro c hc hl hold
  have hdrop : ∀ {u : State} {cls : PageClass}, c ∈ (u.dropCopies fun c => c.inPage page && decide (c.cls = cls)).lines → c.cls ≠ cls := by
    intro u cls hm he
    have hp := ((State.mem_dropCopies u).mp hm).2
    rw [CLine.inPage, decide_eq_true hl, decide_eq_true he] at hp
    cases hp
  cases old with
  | seq => rfl
  | phase => exact absurd hold (hdrop hc)
  | stream => exact absurd hold (hdrop hc)
  | priv => exact absurd hold (hdrop hc)

theorem State.leaveClass_posted (s : State) (page : Nat) (old : PageClass) : (s.leaveClass page old).posted = s.posted := by
  cases old with
  | seq => rfl
  | phase =>
    rw [State.leaveClass]
    dsimp only
    have h := State.AtHome.foldl (fun s b => State.atHome_publishAll s b) (s.unpublished page)
      { s.chosen with teams := s.teams.map (Team.dropPage page), wide := s.wide.filter fun p => p.2.pa / 4096 ≠ page }
    have hp := congrArg State.posted h
    exact hp
  | stream => rfl
  | priv =>
    rw [State.leaveClass]
    have h := State.Stirs.foldl (fun s c => State.stirs_writeBackLine s c.level.die c)
      (outerFirst (rotateBy s.choice (s.lines.filter fun c => c.inPage page && decide (c.cls = .priv)))) s.chosen
    have hp := congrArg State.posted h.rest
    exact hp

theorem State.leaveClass_phase (s : State) (page : Nat) :
    (s.leaveClass page .phase).teams = s.teams.map (Team.dropPage page) ∧ (s.leaveClass page .phase).wide = s.wide.filter fun p => p.2.pa / 4096 ≠ page := by
  have h := State.AtHome.foldl (fun s b => State.atHome_publishAll s b) (s.unpublished page)
    { s.chosen with teams := s.teams.map (Team.dropPage page), wide := s.wide.filter fun p => p.2.pa / 4096 ≠ page }
  rw [State.leaveClass]
  exact ⟨congrArg State.teams h, congrArg State.wide h⟩

/-- Entering a class changes granules alone. -/
theorem State.enterClass_rest (s : State) (page : Nat) (new : PageClass) :
    s.enterClass page new = { s with granules := (s.enterClass page new).granules } := by
  cases new <;> rfl

theorem State.transition_granules (s : State) (ch : ClassChg) (h : ch.old = .stream ∨ ch.new = .stream) :
    ∀ g ∈ (s.transition ch).granules, g / 64 ≠ ch.page := by
  intro g hg
  obtain ⟨page, old, new⟩ := ch
  have hfil : ∀ {l : List Nat}, g ∈ l.filter (fun g => g / 64 ≠ page) → g / 64 ≠ page := fun hm => of_decide_eq_true (List.mem_filter.mp hm).2
  obtain h | h := h
  · have hold : old = .stream := h
    subst hold
    cases new with
    | seq => exact hfil hg
    | phase => exact hfil hg
    | stream => exact hfil hg
    | priv => exact hfil hg
  · have hnew : new = .stream := h
    subst hnew
    exact hfil hg

theorem classTransition_spec {page : Nat} {ch : ClassChg} (hch : (s.changes.find? fun c => c.page = page) = some ch)
    (hp : ∀ p ∈ s.posted, p.inPage page = false) (hw : s.changeWaits page = false) (hclear : s.clear none ch.old (s.changeLines page ch.new) = true) :
    ∃ t, execClassTransition page s = .next t ∧ t.recorded (4096 * page) = ch.new ∧ (∀ c ∈ t.changes, c.page ≠ page) ∧
      (∀ c ∈ t.lines, c.line / 64 = page → c.cls = ch.old → ch.old = .seq) ∧
      (ch.old = .stream ∨ ch.new = .stream → ∀ g ∈ t.granules, g / 64 ≠ page) ∧
      (ch.old = .phase → (∀ u ∈ t.teams, ∀ h ∈ u.heats, ∀ b ∈ h.ws, b.pa / 4096 ≠ page) ∧ ∀ p ∈ t.wide, p.2.pa / 4096 ≠ page) := by
  have hpage : ch.page = page := by
    have h := List.find?_some hch
    exact of_decide_eq_true h
  subst hpage
  let u := (s.recallU (4096 * ch.page) 4096).leaveClass ch.page ch.old
  have hrest := State.enterClass_rest (u.unpin ch.page) ch.page ch.new
  have hposted : (s.transition ch).posted = s.posted := by
    change ((u.unpin ch.page).enterClass ch.page ch.new).posted = _
    rw [hrest]
    exact State.leaveClass_posted _ _ _
  have ha : (s.transition ch).answered (fun p => p.inPage ch.page && !p.lines.any fun l => (s.transition ch).awaitsU (64 * l)) heldAtHome = s.transition ch := by
    refine State.answered_none _ (fun q hq => ?_) _
    rw [hposted] at hq
    rw [hp q hq, Bool.false_and]
  refine ⟨s.transition ch, ?_, ?_, ?_, ?_, s.transition_granules ch, ?_⟩
  · rw [execClassTransition, hch]
    dsimp only
    rw [if_neg (by simp [hw]), if_neg (by simp [hclear])]
    exact congrArg _ ha
  · have hk : 4096 * ch.page / 4096 = ch.page := Nat.mul_div_cancel_left _ (by omega)
    rw [State.recorded, hk]
    change (SMap.get? (SMap.set _ ch.page ch.new) ch.page).getD .seq = _
    rw [SMap.get?_set, if_pos rfl]
    rfl
  · exact fun c hc => of_decide_eq_true (List.mem_filter.mp hc).2
  · intro c hc hl hcls
    change c ∈ ((u.unpin ch.page).enterClass ch.page ch.new).lines at hc
    rw [hrest] at hc
    obtain ⟨d, hd, hdc⟩ := List.mem_map.mp hc
    have hsame : d.line = c.line ∧ d.cls = c.cls := by
      rw [← hdc]
      split <;> exact ⟨rfl, rfl⟩
    exact State.leaveClass_lines _ _ _ d hd (hsame.1 ▸ hl) (hsame.2.trans hcls)
  · intro hold
    obtain ⟨hteams, hwide⟩ := State.leaveClass_phase (s.recallU (4096 * ch.page) 4096) ch.page
    have hu : u = (s.recallU (4096 * ch.page) 4096).leaveClass ch.page .phase := by rw [← hold]
    have ht : (s.transition ch).teams = (u.unpin ch.page).teams := by
      change ((u.unpin ch.page).enterClass ch.page ch.new).teams = _
      rw [hrest]
    have hwd : (s.transition ch).wide = u.wide := by
      change ((u.unpin ch.page).enterClass ch.page ch.new).wide = _
      rw [hrest]
      rfl
    constructor
    · intro v hv k hk b hb
      rw [ht] at hv
      obtain ⟨w, hwt, rfl⟩ := List.mem_map.mp hv
      rw [hu, hteams] at hwt
      obtain ⟨z, -, rfl⟩ := List.mem_map.mp hwt
      obtain ⟨k0, -, rfl⟩ := List.mem_map.mp hk
      exact of_decide_eq_true (List.mem_filter.mp hb).2
    · intro p hpw
      rw [hwd, hu, hwide] at hpw
      exact of_decide_eq_true (List.mem_filter.mp hpw).2

end

/-- Settles O54: each transaction by the copies that it ends, the bytes that it puts at the home, and what else stays. -/
theorem coherenceTransactions : Obligations.CoherenceTransactions := by
  unfold Obligations.CoherenceTransactions
  intro s
  refine ⟨leaseExpiry_spec s, fun u x hx hh => writeAcknowledgement_spec s hx hh, returnU_spec s, fun die line => ⟨_, rfl, s.evict_gone die line false, s.evict_clean⟩,
    fun cl ts e r hts h => recallFilter_spec s hts h, fun e r h => recallPort_spec s h, fun e r h => recallSnoop_spec s h,
    fun p r hm hp hl hk hn ha => postedWrite_spec s hm hp hl hk hn ha, fun id k p hp hk hlt => invalidationAck_held s hp hk hlt,
    fun id k hp hk hne => invalidationAck_ahead s hp hk hne, ?_, fun port line hp hport => backInvalidateSnoop_spec hp hport,
    fun port line hp => if_pos (.inl hp), fun n hn hh hu hp => birsp_spec hn hh hu hp, fun tenant page cls hh hc => classChange_starts hh hc,
    fun tenant page cls hh => if_neg (by simp [hh]), fun page ch hch hp hw hc => classTransition_spec hch hp hw hc⟩
  rintro x d hctx hn hd ⟨e, he, hdown⟩ hr halone hsn hcls hsum hearlier
  have h : s.Serveable x := ⟨hctx, hn, ⟨d, e, hd, he, hdown⟩, hr, halone, hsn, hcls, hsum, hearlier⟩
  exact ⟨fun h1 h64 hw hp => externalAccess_reads h h1 h64 hw hp, fun hm h1 h64 hw hp hc ha => externalAccess_writes h hm h1 h64 hw hp hc ha⟩

end Sys2Proof.Machine
end

section
/-!
SUPPORT. What one element of a load that is performed late leaves of the package (R71, R232, R233).
-/

namespace Sys2Proof.Machine

section
variable (s : State)

theorem State.looks_loadGot (x : Site) (fib ea n rc : Nat) (vol acq : Bool) : s.Looks (s.loadGot x fib ea n rc vol acq).2 := by
  rw [State.loadGot]
  split
  · exact .refl s
  · split
    · exact .refl s
    · exact .refl s
    · exact .refl s
    · exact .refl s
    · split
      · exact .refl s
      · split
        · exact .refl s
        · exact s.looks_loadPage _ _ _ _ _ _
  · exact .refl s

theorem State.looks_readChunk (x : Site) (g : Agent) (h : Hit) (f : Entry) (c : Nat) : s.Looks (s.readChunk x g h f c).2 := by
  have hb := (s.peeks_chunkBytes x h g (h.phys (h.base + c * f.chunkBytes)) f.chunkBytes).toLooks
  rw [State.readChunk]
  split
  · exact .refl s
  · dsimp only
    split
    · exact hb
    · exact hb

theorem State.looks_bringAll (x : Site) (h : Hit) (rc : Nat) (lines : List Nat) : s.Looks (s.bringAll x h rc lines) :=
  (State.Stirs.foldl (fun s l => s.stirs_bring x h l rc) lines s).looks

theorem State.looks_loadQ (x : Site) (fib ea index rc : Nat) (acq : Bool) : s.Looks (s.loadQ x fib ea index rc acq).2 := by
  have hr {g : Hit} {f : Entry} {c : Nat} {r : Except Byte (List Byte) × State} (h : s.readChunk x (.unit x.u) g f c = r) : s.Looks r.2 :=
    h ▸ s.looks_readChunk x (.unit x.u) g f c
  unfold State.loadQ
  split
  · exact .refl s
  · dsimp only
    split
    · exact .refl s
    · split
      · exact .refl s
      · exact .refl s
      · exact .refl s
      · exact .refl s
      · split
        · exact .refl s
        · split
          · exact .refl s
          · split
            · exact .refl s
            · exact .refl s
            · exact .refl s
            · exact .refl s
            · split
              · exact .refl s
              · split <;> rename_i he <;> replace he := hr he
                · exact he
                · exact (he.trans (State.stirs_dropCopies _ _).looks).trans (State.looks_bringAll _ _ _ _ _)
  · exact .refl s

theorem State.looks_performLoad (x : Site) (f : Flight) (fib ea index : Nat) : s.Looks (s.performLoad x f fib ea index).2 := by
  rw [State.performLoad]
  split
  · exact s.looks_loadQ _ _ _ _ _ _
  · exact s.looks_loadGot _ _ _ _ _ _ _

theorem State.looks_seeTarget (x : Site) (o : Option (Nat × Word)) : s.Looks (s.seeTarget x o) := by
  cases o with
  | none => exact .refl s
  | some p => exact .of_rest rfl

theorem State.looks_deliverElem (x : Site) (f : Flight) (el : FlightElem) : s.Looks (s.deliverElem x f el).2.2 := by
  have hload (s : State) : s.Looks (s.deliverLoad x f el).2.2 := by
    have hp := s.looks_performLoad (x.before f) f el.fibre el.ea.toNat el.index.toNat
    rw [State.deliverLoad]
    split <;> rename_i he <;> rw [he] at hp <;> exact hp
  rw [State.deliverElem]
  split
  · exact .refl s
  · exact .refl s
  · exact .refl s
  · exact hload s
  · split
    · exact .refl s
    · exact .refl s
    · exact (s.looks_seeTarget x _).trans (hload _)

end

/-! ### What stands of a team while values arrive -/

/-- Where a team is, whether it runs, and what its frame holds. -/
def Team.core (t : Team) : Nat × ClusterRef × TeamSt × List FrameRec := (t.id, t.cl, t.st, t.frame)

/-- Every team is where it was, as it was. -/
def State.KeepsCores (s t : State) : Prop := ∀ id, (t.team? id).map Team.core = (s.team? id).map Team.core

namespace State.KeepsCores

theorem refl (s : State) : s.KeepsCores s := fun _ => rfl

theorem trans {s t u : State} (h : s.KeepsCores t) (k : t.KeepsCores u) : s.KeepsCores u := fun id => (k id).trans (h id)

theorem of_teams {s t : State} (h : t.teams = s.teams) : s.KeepsCores t := fun id => by rw [State.team?, State.team?, h]

theorem of_looks {s t : State} (h : s.Looks t) : s.KeepsCores t := of_teams (by rw [h.rest])

theorem of_stirs {s t : State} (h : s.Stirs t) : s.KeepsCores t := of_teams h.teams

theorem of_map {s t : State} {g : Team → Team} (ht : t.teams = s.teams.map g) (hg : ∀ u, (g u).core = u.core) : s.KeepsCores t := by
  intro id
  have hid (u : Team) : (g u).id = u.id := congrArg Prod.fst (hg u)
  cases hu : s.team? id with
  | some u => rw [State.team?_map ht hid hu, Option.map_some, Option.map_some, hg]
  | none =>
    have hn : t.team? id = none := by
      rw [State.team?, List.find?_eq_none] at hu ⊢
      intro v hv
      rw [ht] at hv
      obtain ⟨w, hw, rfl⟩ := List.mem_map.mp hv
      rw [hid]
      exact hu w hw
    rw [hn]

theorem of_spreads {s t : State} {team : Nat} (h : s.Spreads team t) : s.KeepsCores t := by
  obtain ⟨g, hg, ht⟩ := h.teams
  refine of_map ht fun u => ?_
  have hb := congrArg Team.core (hg.bare u)
  exact hb

theorem foldl {α : Type} {f : State → α → State} (hf : ∀ (s : State) a, s.KeepsCores (f s a)) : ∀ (l : List α) (s : State), s.KeepsCores (l.foldl f s)
  | [], s => refl s
  | a :: l, s => (hf s a).trans (foldl hf l _)

/-- A team that is put in the place of one like it. -/
theorem setTeam {s : State} {t : Team} (h : (s.team? t.id).map Team.core = some t.core) : s.KeepsCores (s.setTeam t) := by
  obtain ⟨u, hu, hc⟩ := Option.map_eq_some_iff.mp h
  intro id
  by_cases hid : id = t.id
  · subst hid
    rw [s.team?_setTeam t u hu, hu, Option.map_some, Option.map_some, hc]
  · rw [s.team?_setTeam_other t id hid]

theorem updTeam (s : State) (id : Nat) {f : Team → Team} (hf : ∀ u, (f u).core = u.core) : s.KeepsCores (s.updTeam id f) := by
  rw [State.updTeam]
  split
  · rename_i t ht
    refine setTeam ?_
    have hid : (f t).id = id := (congrArg Prod.fst (hf t)).trans (State.team?_id ht)
    rw [hid, ht, Option.map_some, hf]
  · exact refl s

end State.KeepsCores

/-- A unit's team stands in the package as the unit has it. -/
def State.Seats (s : State) (x : Site) : Prop := (s.team? x.team.id).map Team.core = some x.team.core

section
variable {s t : State} {x y : Site}

theorem State.seats_of_site {u : UnitRef} (h : s.site? u = some x) : s.Seats x := by
  obtain ⟨hu, ht, -⟩ := State.site?_some h
  rw [State.Seats, State.team?_id ht, ht, Option.map_some]

theorem State.Seats.keeps (h : s.Seats x) (hk : s.KeepsCores t) (hy : y.team.core = x.team.core) : t.Seats y := by
  have hid : y.team.id = x.team.id := congrArg Prod.fst hy
  rw [State.Seats, hid, hk, hy]
  exact h

theorem State.Seats.put (h : s.Seats x) : s.KeepsCores (s.put x) := by
  have hc : (x.team.setHeat x.u.who x.heat).core = x.team.core := by rw [Team.setHeat_eq]; rfl
  have hid : (x.team.setHeat x.u.who x.heat).id = x.team.id := congrArg Prod.fst hc
  refine .setTeam ?_
  rw [hid, hc]
  exact h

theorem Site.resolve_core (x : Site) (f : Flight) (i : Nat) (d : Deliv) : (x.resolve f i d).team.core = x.team.core := by
  rw [Site.resolve]
  dsimp only
  split <;> rfl

theorem State.deliverEach_keeps (f : Flight) : ∀ (els : List FlightElem) (s : State) (x : Site),
    s.KeepsCores (s.deliverEach x f els).1 ∧ (s.deliverEach x f els).2.1.team.core = x.team.core
  | [], s, x => ⟨.refl s, rfl⟩
  | el :: r, s, x => by
    have hl := KeepsCores.of_looks (s.looks_deliverElem x f el)
    rw [State.deliverEach]
    generalize s.deliverElem x f el = p at hl ⊢
    obtain ⟨o, pg, s1⟩ := p
    have hgo (z : Site) (hz : z.team.core = x.team.core) :
        s.KeepsCores (s1.deliverEach z f r).1 ∧ (s1.deliverEach z f r).2.1.team.core = x.team.core :=
      (State.deliverEach_keeps f r s1 z).imp hl.trans fun h => h.trans hz
    cases o with
    | some d =>
      cases pg with
      | some va => exact hgo _ (Site.resolve_core (x.forgetPageFor (.load x.u.who f.tag el.fibre) va) f el.fibre d)
      | none => exact hgo _ (x.resolve_core f el.fibre d)
    | none =>
      cases pg with
      | some va => exact hgo (x.wantPageFor (.load x.u.who f.tag el.fibre) va) rfl
      | none => exact hgo x rfl

theorem State.countLate_keeps (s0 : State) (x : Site) (f : Flight) (els : List FlightElem) (s : State) : s.KeepsCores (s0.countLate x f els s).1 := by
  rw [State.countLate]
  exact .of_stirs (s.stirs_countHits _ _ _)

theorem State.acquireAt_keeps (h : s.Seats x) (sc : Scope) : s.KeepsCores (s.acquireAt x sc).1 ∧ (s.acquireAt x sc).1.Seats (s.acquireAt x sc).2 := by
  obtain ⟨h1, h2⟩ := State.acquireAt_spec (s := s) (x := x) sc
  have hk := KeepsCores.of_spreads h1
  exact ⟨hk, h.keeps hk (by rw [h2.rest]; rfl)⟩

theorem State.arrive_keeps (s : State) (u : UnitRef) (tag : BitVec 6) : s.KeepsCores (s.arrive u tag) := by
  rw [State.arrive]
  split
  · exact .refl s
  · rename_i x hx
    split
    · exact .refl s
    · rename_i f _
      have hs := State.seats_of_site hx
      obtain ⟨h1, h2⟩ := State.deliverEach_keeps f f.elems s x
      generalize s.deliverEach x f f.elems = r at h1 h2 ⊢
      obtain ⟨s1, y, left⟩ := r
      dsimp only at h1 h2 ⊢
      generalize (f.elems.filter fun el => decide (el ∉ left) && (el.waits == .order || (el.waits != .arrival && el.cpy.isSome))) = late
      have h3 := s.countLate_keeps x f late s1
      generalize s.countLate x f late s1 = q at h3 ⊢
      obtain ⟨s2, g⟩ := q
      dsimp only at h3 ⊢
      have hk := h1.trans h3
      have hy : s2.Seats { y with heat := y.heat.setFlight g left } := hs.keeps hk h2
      split
      · obtain ⟨h4, h5⟩ := State.acquireAt_keeps hy (scopeOf g.rs)
        exact (hk.trans h4).trans h5.put
      · exact hk.trans hy.put

end

end Sys2Proof.Machine
end

section
/-!
SUPPORT. Saving a team (R346, R347).
-/

namespace Sys2Proof.Machine

/-! ### What a request for pages leaves of a team -/

/-- A team but for the pages and operations that wait. -/
def Team.stored (t : Team) : Team := { t with pages := [], xfers := [] }

/-- Every team is what it was, but for the pages and operations that wait. -/
def State.KeepsStored (s t : State) : Prop := ∀ id, (t.team? id).map Team.stored = (s.team? id).map Team.stored

namespace State.KeepsStored

theorem refl (s : State) : s.KeepsStored s := fun _ => rfl

theorem trans {s t u : State} (h : s.KeepsStored t) (k : t.KeepsStored u) : s.KeepsStored u := fun id => (k id).trans (h id)

theorem foldl {α : Type} {f : State → α → State} (hf : ∀ (s : State) a, s.KeepsStored (f s a)) : ∀ (l : List α) (s : State), s.KeepsStored (l.foldl f s)
  | [], s => refl s
  | a :: l, s => (hf s a).trans (foldl hf l _)

end State.KeepsStored

section
variable (s : State)

theorem Team.shares_stored (t : Team) (die ctx page k : Nat) : (t.shares die ctx page k).stored = t.stored := by
  rw [Team.shares]
  split <;> split <;> rfl

theorem State.keepsStored_shareAsk (die ctx page k : Nat) : s.KeepsStored (s.shareAsk die ctx page k) := by
  have ht : (s.shareAsk die ctx page k).teams = s.teams.map fun t => t.shares die ctx page k := rfl
  intro id
  cases hu : s.team? id with
  | some u => rw [State.team?_map ht (fun v => v.shares_id die ctx page k) hu, Option.map_some, Option.map_some, Team.shares_stored]
  | none =>
    have hn : (s.shareAsk die ctx page k).team? id = none := by
      rw [State.team?, List.find?_eq_none] at hu ⊢
      intro v hv
      rw [ht] at hv
      obtain ⟨w, hw, rfl⟩ := List.mem_map.mp hv
      rw [Team.shares_id]
      exact hu w hw
    rw [hn]

theorem State.keepsStored_askPages (die n : Nat) : s.KeepsStored (s.askPages die n) := by
  induction n generalizing s with
  | zero => exact .refl s
  | succ n ih =>
    rw [State.askPages]
    split
    · exact .refl s
    · split
      · exact .refl s
      · dsimp only
        split
        · exact (s.keepsStored_shareAsk _ _ _ _).trans (ih _)
        · split
          · exact .refl s
          · refine .trans ?_ (ih _)
            exact s.keepsStored_shareAsk _ _ _ 1

theorem State.keepsStored_askAll (die : Nat) : s.KeepsStored (s.askAll die) :=
  (State.KeepsStored.foldl (fun s _ => s.keepsStored_shareAsk _ _ _ _) _ s).trans (State.keepsStored_askPages _ _ _)

/-! ### Before the save -/

theorem State.settle_keeps (t : Team) : s.KeepsCores (s.settle t) := by
  refine State.KeepsCores.foldl (fun s p => State.KeepsCores.foldl (fun s f => ?_) _ s) _ s
  split
  · exact s.arrive_keeps _ _
  · exact s.arrive_keeps _ _
  · exact .refl s

variable {s} {t : Team}

theorem State.carryArray_none {team : Nat} (ht : s.team? team = some t) (h : t.awaitsArray = false) (n : Nat) : s.carryArray team n = s := by
  cases n with
  | zero => rfl
  | succ n =>
    rw [State.carryArray, ht, Option.map_some, Option.getD_some, h]
    rfl

theorem State.settle_none (h : ∀ k ∈ t.heats, ∀ f ∈ k.flights, f.kind ≠ .fifoGet ∧ f.kind ≠ .accrd) : s.settle t = s := by
  rw [State.settle]
  refine List.foldlRecOn (motive := fun u => u = s) _ _ rfl fun u hu p hp => ?_
  subst hu
  obtain ⟨k, hk, rfl⟩ := List.mem_map.mp hp
  refine List.foldlRecOn (motive := fun v => v = u) _ _ rfl fun v hv f hf => ?_
  subst hv
  obtain ⟨h1, h2⟩ := h k hk f hf
  split
  · rename_i he
    exact absurd he h1
  · rename_i he
    exact absurd he h2
  · rfl

/-- The package as a save finds the team: the array has carried what ACCRDs wait for, and what has arrived is resolved. -/
def State.readied (s : State) (team : Nat) (t : Team) : State :=
  let done := s.carryArray team t.arraySteps
  ((done.team? team).map done.settle).getD done

theorem State.readied_idle {team : Nat} (ht : s.team? team = some t) (ha : t.awaitsArray = false)
    (hf : ∀ k ∈ t.heats, ∀ f ∈ k.flights, f.kind ≠ .fifoGet ∧ f.kind ≠ .accrd) : s.readied team t = s := by
  rw [State.readied, State.carryArray_none ht ha, ht, Option.map_some, Option.getD_some, State.settle_none hf]

/-! ### The save -/

/-- The team in its frame, which has its place. -/
def Team.stowed (u : Team) (s : State) (d : Cluster) : Team :=
  { u.framed s d with frameAt := s.frameSpot u.ctx u.cl.die (u.framed s d).frameBytes }

/-- The package once a team stands in its frame and has given its units up. -/
def State.stow (s : State) (u : Team) (d : Cluster) : State :=
  ((((s.setTeam (u.stowed s d)).writeFrame (u.stowed s d)).freeUnits u).updCluster u.cl
    fun c => { c with saving := if c.saving = some u.id then none else c.saving }).askAll u.cl.die

theorem State.saveTeam_eq {team : Nat} {u : Team} {d : Cluster} (ht : s.team? team = some t) (hst : t.st = .resident) (hf : s.frameFree t = true)
    (hu : (s.readied team t).team? team = some u) (hd : (s.readied team t).cluster? u.cl = some d) :
    s.saveTeam team = (s.readied team t).stow u d := by
  cases hdone : (s.carryArray team t.arraySteps).team? team with
  | none =>
    have hr : s.readied team t = s.carryArray team t.arraySteps := by rw [State.readied, hdone]; rfl
    rw [hr, hdone] at hu
    cases hu
  | some v =>
    have hr : s.readied team t = (s.carryArray team t.arraySteps).settle v := by rw [State.readied, hdone]; rfl
    have hcl : u.cl = v.cl := by
      have hk := (s.carryArray team t.arraySteps).settle_keeps v team
      rw [← hr, hu, hdone] at hk
      have he := Option.some.inj hk
      exact congrArg (fun p => p.2.1) he
    have hid : u.id = team := State.team?_id hu
    rw [State.saveTeam, ht]
    dsimp only
    rw [if_neg (by simp [hst, hf]), hdone]
    dsimp only
    rw [← hr, hu, ← hcl, hd, State.stow, hid]
    rfl

theorem State.homeFill_rest (s : State) (a n : Nat) (ps : List (Nat × List Byte)) :
    s.homeFill a n ps = { s with
      mem := (s.homeFill a n ps).mem, ulines := (s.homeFill a n ps).ulines, poison := (s.homeFill a n ps).poison, invals := (s.homeFill a n ps).invals } := by
  unfold State.homeFill
  rfl

theorem State.writeFrame_rest (s : State) (f : Team) :
    s.writeFrame f = { s with mem := (s.writeFrame f).mem, ulines := (s.writeFrame f).ulines, poison := (s.writeFrame f).poison, invals := (s.writeFrame f).invals } := by
  rw [State.writeFrame]
  cases f.frameAt with
  | none => rfl
  | some a => exact s.homeFill_rest _ _ _

theorem State.stow_spec {team : Nat} {u : Team} {d : Cluster} (hu : s.team? team = some u) :
    (∃ w, (s.stow u d).team? team = some w ∧ w.stored = (u.stowed s d).stored) ∧
      ∀ q, (s.stow u d).cluster? u.cl = some q → q.pacer ≠ some team ∧ ∀ ch ∈ q.chans, ch.owner ≠ some team := by
  have hid : u.id = team := State.team?_id hu
  subst hid
  constructor
  · have hput : ((((s.setTeam (u.stowed s d)).writeFrame (u.stowed s d)).freeUnits u).updCluster u.cl
        fun c => { c with saving := if c.saving = some u.id then none else c.saving }).team? u.id = some (u.stowed s d) := by
      change ((s.setTeam (u.stowed s d)).writeFrame (u.stowed s d)).team? u.id = _
      rw [State.writeFrame_rest]
      exact State.team?_setTeam_of (t := u.stowed s d) hu rfl
    have hk := State.keepsStored_askAll ((((s.setTeam (u.stowed s d)).writeFrame (u.stowed s d)).freeUnits u).updCluster u.cl
        fun c => { c with saving := if c.saving = some u.id then none else c.saving }) u.cl.die u.id
    rw [hput] at hk
    obtain ⟨w, hw, hs⟩ := Option.map_eq_some_iff.mp hk
    exact ⟨w, hw, hs⟩
  · intro q hq
    rw [State.stow, (State.asks_askAll _ _).rest] at hq
    change (((((s.setTeam (u.stowed s d)).writeFrame (u.stowed s d)).freeUnits u).updCluster u.cl _).cluster? u.cl) = some q at hq
    rw [State.cluster?_updCluster, if_pos rfl, State.freeUnits, State.cluster?_updCluster, if_pos rfl, Option.map_map] at hq
    obtain ⟨c, -, rfl⟩ := Option.map_eq_some_iff.mp hq
    constructor
    · intro hp
      change (if c.pacer = some u.id then none else c.pacer) = some u.id at hp
      split at hp
      · cases hp
      · rename_i hn
        exact hn hp
    · intro ch hch ho
      obtain ⟨k, -, rfl⟩ := List.mem_map.mp hch
      split at ho
      · cases ho
      · rename_i hn
        exact hn ho

theorem contextSave_saves {team : Nat} {c : Cluster} (ht : s.team? team = some t) (hc : s.cluster? t.cl = some c)
    (hw : t.wantsPages = true ∨ (c.saving = some team ∧ t.arrayRests = true)) : execContextSave team s = .next (s.saveTeam team) := by
  have hid : t.id = team := State.team?_id ht
  rw [execContextSave, ht]
  refine if_pos (hw.imp_right fun h => ⟨?_, h.2⟩)
  rw [State.saving, hc, hid]
  simp [h.1]

end

end Sys2Proof.Machine
end

section
/-!
SUPPORT. Restoring a team (R348, R349).
-/

namespace Sys2Proof.Machine

open State in
section
variable (s : State)

/-! ### Banks and FIFOs -/

theorem State.keepsCores_atomicsHome (cl : ClusterRef) : s.KeepsCores (s.atomicsHome cl) := by
  refine KeepsCores.foldl (fun s t => ?_) _ s
  dsimp only
  split
  · exact .refl s
  · refine .trans ?_ (.of_stirs (State.stirs_dropCopies _ _))
    refine .trans ?_ (KeepsCores.updTeam _ _ fun _ => rfl)
    exact .trans (.of_spreads (s.spreads_overtake t.id _ _)) (.of_stirs (State.stirs_publish _ _))

theorem State.keepsCores_emptyBank (cl : ClusterRef) (b : Nat) : s.KeepsCores (s.emptyBank cl b) := by
  have hw (t : State) (p : CLine → Bool) : t.KeepsCores ((t.writeBackAll p).dropCopies p) :=
    .of_stirs ((t.stirs_writeBackAll p).trans (State.stirs_dropCopies _ _))
  rw [State.emptyBank]
  split
  · exact (s.keepsCores_atomicsHome cl).trans (hw _ _)
  · exact hw s _

theorem State.keepsCores_takeBank (cl : ClusterRef) (b : Nat) (mode : BankMode) : s.KeepsCores (s.takeBank cl b mode) :=
  (s.keepsCores_emptyBank cl b).trans (.of_teams rfl)

variable {s}

theorem State.keepsCores_makeRoom (cl : ClusterRef) (n : Nat) : ∀ (bs : List Nat) {s u : State}, s.makeRoom cl n bs = some u → s.KeepsCores u
  | [], s, u, h => by
    rw [State.makeRoom] at h
    split at h
    · cases h
      exact .refl s
    · cases h
  | b :: bs, s, u, h => by
    rw [State.makeRoom] at h
    split at h
    · cases h
      exact .refl s
    · exact (s.keepsCores_takeBank cl b .scratch).trans (State.keepsCores_makeRoom cl n bs h)

theorem State.keepsCores_putFifos (cl : ClusterRef) : ∀ (fs : List (Nat × Fifo)) {s u : State}, s.putFifos cl fs = some u → s.KeepsCores u
  | [], s, u, h => by
    cases h
    exact .refl s
  | (k, f) :: r, s, u, h => by
    obtain ⟨b, -, hb⟩ := Option.bind_eq_some_iff.mp h
    refine .trans ?_ (State.keepsCores_putFifos cl r hb)
    split
    · exact .of_teams rfl
    · exact (s.keepsCores_takeBank cl b .fifo).trans (.of_teams rfl)

theorem State.provision_keeps {t v : Team} {u : State} (h : s.provision t = some (u, v)) : s.KeepsCores u ∧ v.core = t.core := by
  obtain ⟨r, hr, he⟩ := Option.map_eq_some_iff.mp h
  have hk := State.keepsCores_makeRoom _ _ _ hr
  split at he
  · cases he
    exact ⟨hk, rfl⟩
  · cases he
    exact ⟨hk, rfl⟩

/-! ### Seats -/

theorem State.keepsCores_updHeat (s : State) (u : UnitRef) (f : Heat → Heat) : s.KeepsCores (s.updHeat u f) := by
  rw [State.updHeat]
  split
  · rename_i x hx
    have hs := State.seats_of_site hx
    exact State.Seats.put (x := { x with heat := f x.heat }) hs
  · exact .refl s

theorem State.keepsCores_seat (s : State) (team : Nat) (hs : List Heat) : s.KeepsCores (s.seat team hs) := by
  rw [State.seat]
  split
  · exact .refl s
  · refine KeepsCores.foldl (fun s h => ?_) _ s
    dsimp only
    split
    · exact .trans (t := { s with nextId := s.nextId + 1 }) (.of_teams rfl) (State.keepsCores_updHeat _ _ _)
    · exact .trans (t := { s with nextId := s.nextId + 1 }) (.of_teams rfl) (State.keepsCores_updHeat _ _ _)

/-! ### Records -/

variable (s) in
theorem State.keepsCores_setWaits (u : UnitRef) (tag : BitVec 6) (fibre : Nat) (w : Waits) : s.KeepsCores (s.setWaits u tag fibre w) := by
  rw [State.setWaits]
  split
  · exact .refl s
  · rename_i x hx
    have hs := State.seats_of_site hx
    exact State.Seats.put (x := { x with heat := _ }) hs

variable (s) in
theorem State.keepsCores_resolveElem (u : UnitRef) (tag : BitVec 6) (fibre : Nat) (d : Deliv) (forget : Option Nat) :
    s.KeepsCores (s.resolveElem u tag fibre d forget) := by
  rw [State.resolveElem]
  split
  · exact .refl s
  · rename_i x hx
    split
    · exact .refl s
    · rename_i f _
      have hs := State.seats_of_site hx
      have hput (y : Site) (hy : y.team.core = x.team.core) (h : Heat) : s.KeepsCores (s.put { y with heat := h }) :=
        State.Seats.put (hs.keeps (y := { y with heat := h }) (.refl s) hy)
      have hz := x.resolve_core f fibre d
      generalize x.resolve f fibre d = z at hz ⊢
      cases forget with
      | some va => exact hput (z.forgetPageFor (.load u.who tag fibre) va) hz _
      | none => exact hput z hz _

variable (s) in
theorem State.keepsCores_keepReplay (u : UnitRef) (tag : BitVec 6) (fibre va : Nat) : s.KeepsCores (s.keepReplay u tag fibre va) := by
  rw [State.keepReplay]
  split
  · exact .refl s
  · rename_i x hx
    have hs := State.seats_of_site hx
    exact (State.Seats.put (hs.keeps (y := x.wantPageFor (.load u.who tag fibre) va) (.refl s) rfl)).trans (State.keepsCores_setWaits _ _ _ _ _)

variable (s) in
theorem State.keepsCores_resolveAwait (u : UnitRef) (tag : BitVec 6) (fibre : Nat) (got : Option Arrival) :
    s.KeepsCores (s.resolveAwait u tag fibre got) := by
  rw [State.resolveAwait]
  split
  · exact .refl s
  · split
    · exact .refl s
    · split
      · exact s.keepsCores_resolveElem _ _ _ _ _
      · exact s.keepsCores_resolveElem _ _ _ _ _

theorem State.keepsCores_replay {v : State} {u : UnitRef} {tag : BitVec 6} {fibre : Nat} (h : s.replay u tag fibre = some v) : s.KeepsCores v := by
  rw [State.replay] at h
  split at h
  · cases h
    exact .refl s
  rename_i x hx
  have hs := State.seats_of_site hx
  split at h
  · cases h
    exact .refl s
  rename_i f _
  split at h
  · cases h
    exact .refl s
  rename_i el _
  split at h
  · cases h
    exact s.keepsCores_setWaits _ _ _ _
  have hl := s.looks_performLoad (x.before f) f fibre el.ea.toNat el.index.toNat
  split at h <;> rename_i he <;> rw [he] at hl
  · rename_i w s1
    have hc := s.countLate_keeps x f [el] s1
    dsimp only at h
    generalize s.countLate x f [el] s1 = q at hc h
    obtain ⟨s2, g⟩ := q
    dsimp only at hc h
    have hk2 := (KeepsCores.of_looks hl).trans hc
    have hput : s2.KeepsCores (s2.put { x with heat := x.heat.setFlight g g.elems }) :=
      State.Seats.put (hs.keeps (y := { x with heat := x.heat.setFlight g g.elems }) hk2 rfl)
    have hk3 := (hk2.trans hput).trans (State.keepsCores_resolveElem _ u tag fibre (.words (loadWords g.ty w)) none)
    generalize (s2.put { x with heat := x.heat.setFlight g g.elems }).resolveElem u tag fibre (.words (loadWords g.ty w)) none = s3 at hk3 h
    split at h
    · split at h
      · rename_i y hy
        cases h
        obtain ⟨h4, h5⟩ := State.acquireAt_keeps (State.seats_of_site hy) (scopeOf g.rs)
        exact (hk3.trans h4).trans h5.put
      · cases h
        exact hk3
    · cases h
      exact hk3
  · cases h
    exact (KeepsCores.of_looks hl).trans (State.keepsCores_resolveElem _ _ _ _ _ _)
  · split at h
    · cases h
      exact (KeepsCores.of_looks hl).trans (State.keepsCores_resolveElem _ _ _ _ _ _)
    · cases h
      exact (KeepsCores.of_looks hl).trans (State.keepsCores_keepReplay _ _ _ _ _)
  · cases h
    exact s.keepsCores_setWaits _ _ _ _
  · cases h

theorem State.keepsCores_resolveFrame : ∀ (rs : List FrameRec) {s v : State}, s.resolveFrame rs = some v → s.KeepsCores v
  | [], s, v, h => by
    cases h
    exact .refl s
  | .replay u tag i :: r, s, v, h => by
    obtain ⟨w, hw, hv⟩ := Option.bind_eq_some_iff.mp h
    exact (State.keepsCores_replay hw).trans (State.keepsCores_resolveFrame r hv)
  | .await u tag i got :: r, s, v, h => (s.keepsCores_resolveAwait u tag i got).trans (State.keepsCores_resolveFrame r h)

/-! ### The restore -/

variable (s) in
theorem State.owedBudget_core (t : Team) : (s.owedBudget t).core = t.core := by
  rw [State.owedBudget]
  split
  · rw [Team.defer]
    split <;> rfl
  · rfl

theorem State.restoreTeam_spec {t : Team} {v : State} (ht : s.team? t.id = some t) (h : s.restoreTeam t = some v) :
    ∃ w, v.team? t.id = some w ∧ w.st = .resident ∧ w.frame = [] := by
  rw [State.restoreTeam] at h
  split at h
  · split at h
    · obtain ⟨⟨s1, t1⟩, hp, h⟩ := Option.bind_eq_some_iff.mp h
      obtain ⟨hk1, hc1⟩ := State.provision_keeps hp
      have hid : t1.id = t.id := congrArg Prod.fst hc1
      obtain ⟨s2, hf, h⟩ := Option.bind_eq_some_iff.mp h
      have hk2 := hk1.trans (State.keepsCores_putFifos _ _ hf)
      dsimp only at h
      split at h
      · cases h
      · rename_i c _
        obtain ⟨s5, hr, rfl⟩ := Option.map_eq_some_iff.mp h
        have hk3 : s.KeepsCores ((s2.takePacer t1).updCluster t1.cl fun c => c.putChans t1) := by
          refine hk2.trans (.of_teams ?_)
          rw [State.takePacer]
          split <;> rfl
        generalize ((s2.takePacer t1).updCluster t1.cl fun c => c.putChans t1) = s3 at hk3 hr
        have hcore := s3.owedBudget_core { (t1.unframed s3 c) with frame := [] }
        generalize s3.owedBudget { (t1.unframed s3 c) with frame := [] } = z at hcore hr
        have hzid : z.id = t.id := (congrArg Prod.fst hcore).trans hid
        have h3 := hk3 t.id
        rw [ht] at h3
        obtain ⟨u, hu, -⟩ := Option.map_eq_some_iff.mp h3
        have hz : (s3.setTeam z).team? t.id = some z := State.team?_setTeam_of hu hzid
        have hk5 : (s3.setTeam z).KeepsCores (s5.creditMisses t1.id) := by
          refine ((State.keepsCores_seat _ _ _).trans (State.keepsCores_resolveFrame _ hr)).trans ?_
          rw [State.creditMisses]
          split
          · exact .refl _
          · exact (KeepsCores.updTeam s5 t1.id (f := fun t => t.count 6 s5.missed) fun _ => rfl).trans (.of_teams rfl)
        have h5 := hk5 t.id
        rw [hz, Option.map_some, hcore] at h5
        obtain ⟨w, hw, hwc⟩ := Option.map_eq_some_iff.mp h5
        exact ⟨w, hw, congrArg (fun p => p.2.2.1) hwc, congrArg (fun p => p.2.2.2) hwc⟩
    · cases h
  · cases h

theorem contextRestore_restores {team : Nat} {t : Team} {m : Meet} {v : State} (ht : s.team? team = some t) (hr : s.restorable t = true)
    (hm : s.meet? t.meet = some m) (hl : m.live = true) (hfirst : s.firstOn m (((m.fields[t.field]?).map Field.part).getD 0) = true)
    (hearlier : ∀ o ∈ s.teams, o.meet = t.meet →
      ((m.fields[o.field]?).map Field.part).getD 0 = ((m.fields[t.field]?).map Field.part).getD 0 →
      o.index < t.index ∨ (o.index = t.index ∧ o.field < t.field) → s.restorable o = false) (hv : s.restoreTeam t = some v) :
    execContextRestore team s = .next v := by
  have hany : (s.teams.any fun o => decide (o.meet = t.meet ∧
      ((m.fields[o.field]?).map Field.part).getD 0 = ((m.fields[t.field]?).map Field.part).getD 0 ∧
        (o.index < t.index ∨ (o.index = t.index ∧ o.field < t.field))) && s.restorable o) = false := by
    refine List.any_eq_false.mpr fun o ho hp => ?_
    obtain ⟨hd, hro⟩ := Bool.and_eq_true_iff.mp hp
    obtain ⟨h1, h2, h3⟩ := of_decide_eq_true hd
    rw [hearlier o ho h1 h2 h3] at hro
    cases hro
  rw [execContextRestore, ht]
  dsimp only
  rw [hm]
  dsimp only
  rw [if_pos ⟨hr, hl, hfirst, hany⟩, hv]

/-! ### Values that arrive for a saved team -/

/-- What a record of a frame becomes when a value arrives for it. -/
def FrameRec.got (u : UnitRef) (tag : BitVec 6) (i : Nat) (a : Arrival) (r : FrameRec) : FrameRec :=
  match r with
  | .await w t j none => if w = u ∧ t = tag ∧ j = i then .await w t j (some a) else r
  | _ => r

theorem awaitValueArrival_spec {u : UnitRef} {tag : BitVec 6} {i : Nat} {a : Arrival} {x : Site} {f : Flight} {el : FlightElem} (hx : s.site? u = some x)
    (hf : (x.heat.flights.find? fun g => g.tag = tag) = some f) (he : (f.elems.find? fun el => el.fibre = i) = some el) :
    let w : Team := { x.team with frame := x.team.frame.map (FrameRec.got u tag i (arrivedAs f.ty el.deliv a)) }
    execAwaitValueArrival u tag i a s = .next ((s.setTeam w).writeFrame w) := by
  intro w
  have hb : ((x.heat.flights.find? fun f => f.tag = tag).bind fun f => (f.elems.find? fun el => el.fibre = i).map fun el => (f, el)) = some (f, el) := by
    rw [hf, Option.bind_some, he]
    rfl
  rw [execAwaitValueArrival, hx]
  dsimp only
  rw [hb]
  rfl

end

/-- Settles O51: a save by what the frame takes over, a restore by what stands of the team through its steps, and an arrival by the record that it fills. -/
theorem savesAndRestores : Obligations.SavesAndRestores := by
  unfold Obligations.SavesAndRestores
  intro s team t c ht hc
  have hid : t.id = team := State.team?_id ht
  refine ⟨?_, ?_, ?_⟩
  · intro hst hw hf done after u d hu hd
    have hafter : after = s.readied team t := rfl
    obtain ⟨⟨w, hw1, hws⟩, hunits⟩ := State.stow_spec (d := d) hu
    have hexec : exec (.contextSave team) s = .next (after.stow u d) :=
      (contextSave_saves ht hc hw).trans (congrArg _ (State.saveTeam_eq ht hst hf hu hd))
    have hfield {α : Type} (g : Team → α) (hg : ∀ a, g (Team.stored a) = g a) : g w = g (u.stowed after d) := (hg w).symm.trans ((congrArg g hws).trans (hg _))
    refine ⟨_, w, hexec, hw1, hfield Team.st fun _ => rfl, ?_, hfield Team.acc fun _ => rfl, hfield Team.cshMem fun _ => rfl, hfield Team.scrMem fun _ => rfl,
      hfield Team.frame fun _ => rfl, hunits, ?_⟩
    · rw [hfield Team.heats fun _ => rfl]
      change (u.heats.map (Heat.framed d)).map Heat.fibres = _
      rw [List.map_map]
      rfl
    · intro ha hfl
      have hidle : after = s := hafter.trans (State.readied_idle ht ha hfl)
      rw [hidle] at hu hd hfield
      have hut : u = t := Option.some.inj (hu.symm.trans ht)
      subst hut
      have hdc : d = c := Option.some.inj (hd.symm.trans hc)
      subst hdc
      refine ⟨rfl, ?_⟩
      rw [hfield Team.frameAt fun _ => rfl]
      rw [State.frameFree, State.frameNeeds, hc] at hf
      exact hf
  · intro m v hr hm hl partAt hfirst hearlier hv
    refine ⟨contextRestore_restores ht hr hm hl hfirst hearlier hv, ?_⟩
    subst hid
    exact State.restoreTeam_spec ht hv
  · intro u tag i a x f el hx hu hf he hmem
    subst hu
    have hteam : x.team = t := Option.some.inj ((State.site?_some hx).2.1.symm.trans ht)
    have hwid : x.team.id = u.team := by rw [hteam]; exact hid
    let w : Team := { x.team with frame := x.team.frame.map (FrameRec.got u tag i (arrivedAs f.ty el.deliv a)) }
    refine ⟨(s.setTeam w).writeFrame w, w, awaitValueArrival_spec hx hf he, ?_, ?_, ?_⟩
    · rw [State.writeFrame_rest]
      rfl
    · rw [State.writeFrame_rest]
      exact State.team?_setTeam_of (t := w) ht hwid
    · refine List.mem_map.mpr ⟨_, by rw [hteam]; exact hmem, ?_⟩
      exact if_pos ⟨rfl, rfl, rfl⟩

end Sys2Proof.Machine
end

section
/-!
SUPPORT. The canonical form of memory (log entry 3): what it means for an outcome and for the other answers that carry a state, and how it passes through
the ways in which the model puts its functions together.
-/

namespace Sys2Proof.Machine

/-! ### Answers that carry a state -/

/-- The next state of an outcome, if there is one, is canonical. -/
def Out.MemOk : Out → Prop
  | .next t => t.MemOk
  | .fault _ => True
  | .refused _ => True

/-- The state that a command leaves is canonical. -/
def Command.MemOk : Command → Prop
  | .status _ s => s.MemOk
  | .waits => True

/-- The state that a bank switch leaves is canonical. -/
def BankAns.MemOk : BankAns → Prop
  | .done s => s.MemOk
  | .refused => True
  | .waits => True

/-- The state that a write from outside leaves is canonical. -/
def Served.MemOk : Served → Prop
  | .done s => s.MemOk
  | .waits s => s.MemOk

/-- The state in which a turn ends or its instruction runs is canonical. -/
def Turn.MemOk : Turn → Prop
  | .done o => o.MemOk
  | .run _ s => s.MemOk

/-! ### Putting answers together -/

section Answers

variable {α β : Type} {P : α → Prop} {Q : β → Prop} {a : α} {o : Option α} {l : List α} {p : α → Bool}

theorem Option.all_none : ∀ y, (none : Option α) = some y → P y := nofun

theorem Option.all_some (h : P a) : ∀ y, some a = some y → P y := fun _ hy => Option.some.inj hy ▸ h

theorem Option.all_bind {f : α → Option β} (h : ∀ x, o = some x → ∀ y, f x = some y → Q y) : ∀ y, o.bind f = some y → Q y := by
  intro y hy
  obtain ⟨x, hx, hxy⟩ := Option.bind_eq_some_iff.mp hy
  exact h x hx y hxy

theorem Option.all_map {f : α → β} (h : ∀ x, o = some x → Q (f x)) : ∀ y, o.map f = some y → Q y := by
  intro y hy
  obtain ⟨x, hx, hxy⟩ := Option.map_eq_some_iff.mp hy
  exact hxy ▸ h x hx

theorem Option.all_filter (h : ∀ y, o = some y → P y) : ∀ y, o.filter p = some y → P y := fun y hy => h y (Option.filter_eq_some_iff.mp hy).1

theorem Option.all_find? (h : ∀ y ∈ l, P y) : ∀ y, l.find? p = some y → P y := fun y hy => h y (List.mem_of_find?_eq_some hy)

theorem Option.all_getElem? {i : Nat} (h : ∀ y ∈ l, P y) : ∀ y, l[i]? = some y → P y := fun y hy => h y (List.mem_of_getElem? hy)

theorem Option.all_head? (h : ∀ y ∈ l, P y) : ∀ y, l.head? = some y → P y := fun y hy => h y (List.mem_of_head? hy)

theorem List.all_nil : ∀ y ∈ ([] : List α), P y := nofun

theorem List.all_filter (h : ∀ y ∈ l, P y) : ∀ y ∈ l.filter p, P y := fun y hy => h y (List.mem_filter.mp hy).1

theorem List.all_map {f : α → β} (h : ∀ x ∈ l, Q (f x)) : ∀ y ∈ l.map f, Q y := by
  intro y hy
  obtain ⟨x, hx, hxy⟩ := List.mem_map.mp hy
  exact hxy ▸ h x hx

theorem List.all_filterMap {f : α → Option β} (h : ∀ x ∈ l, ∀ y, f x = some y → Q y) : ∀ y ∈ l.filterMap f, Q y := by
  intro y hy
  obtain ⟨x, hx, hxy⟩ := List.mem_filterMap.mp hy
  exact h x hx y hxy

theorem List.all_flatMap {f : α → List β} (h : ∀ x ∈ l, ∀ y ∈ f x, Q y) : ∀ y ∈ l.flatMap f, Q y := by
  intro y hy
  obtain ⟨x, hx, hxy⟩ := List.mem_flatMap.mp hy
  exact h x hx y hxy

theorem Option.of_all (e : o = some a) (h : ∀ y, o = some y → P y) : P a := h a e

theorem Except.of_all {ε : Type} {r : Except ε α} (e : r = .ok a) (h : ∀ y, r = .ok y → P y) : P a := h a e

theorem Option.all_ite {c : Prop} [Decidable c] {r : Option α} (h : ∀ y, o = some y → P y) (hr : ∀ y, r = some y → P y) :
    ∀ y, (if c then o else r) = some y → P y := by
  split
  · exact h
  · exact hr

theorem List.all_ite {c : Prop} [Decidable c] {r : List α} (h : ∀ y ∈ l, P y) (hr : ∀ y ∈ r, P y) : ∀ y ∈ (if c then l else r), P y := by
  split
  · exact h
  · exact hr

theorem Except.all_error {ε : Type} {e : ε} : ∀ y, (.error e : Except ε α) = .ok y → P y := nofun

theorem Except.all_ok {ε : Type} (h : P a) : ∀ y, (.ok a : Except ε α) = .ok y → P y := fun _ hy => Except.ok.inj hy ▸ h

theorem Except.all_mapError {ε δ : Type} {f : ε → δ} {r : Except ε α} (h : ∀ y, r = .ok y → P y) : ∀ y, r.mapError f = .ok y → P y := by
  intro y hy
  cases r with
  | error _ => cases hy
  | ok a => exact h y (congrArg Except.ok (Except.ok.inj hy))

theorem Except.all_map {ε : Type} {f : α → β} {r : Except ε α} (h : ∀ x, r = .ok x → Q (f x)) : ∀ y, r.map f = .ok y → Q y := by
  intro y hy
  cases r with
  | error _ => cases hy
  | ok a => exact Except.ok.inj hy ▸ h a rfl

theorem Except.all_ite {ε : Type} {c : Prop} [Decidable c] {r q : Except ε α} (h : ∀ y, r = .ok y → P y) (hq : ∀ y, q = .ok y → P y) :
    ∀ y, (if c then r else q) = .ok y → P y := by
  split
  · exact h
  · exact hq

end Answers

theorem State.memOk_ite {c : Prop} [Decidable c] {s t : State} (hs : s.MemOk) (ht : t.MemOk) : (if c then s else t).MemOk := by
  split
  · exact hs
  · exact ht

theorem Team.memOk_ite {c : Prop} [Decidable c] {s t : Team} (hs : s.MemOk) (ht : t.MemOk) : (if c then s else t).MemOk := by
  split
  · exact hs
  · exact ht

theorem Site.memOk_ite {c : Prop} [Decidable c] {x y : Site} (hx : x.team.MemOk) (hy : y.team.MemOk) : (if c then x else y).team.MemOk := by
  split
  · exact hx
  · exact hy

theorem Out.memOk_ite {c : Prop} [Decidable c] {s t : Out} (hs : s.MemOk) (ht : t.MemOk) : Out.MemOk (if c then s else t) := by
  split
  · exact hs
  · exact ht

/-! ### Teams -/

theorem State.memOk_mapTeams {s : State} {f : Team → Team} (hs : s.MemOk) (hf : ∀ t, t.MemOk → (f t).MemOk) :
    ({ s with teams := s.teams.map f } : State).MemOk :=
  ⟨hs.1, List.all_map fun t ht => hf t (hs.2 t ht)⟩

theorem State.memOk_team? {s : State} {k : Nat} (hs : s.MemOk) : ∀ t, s.team? k = some t → t.MemOk := Option.all_find? hs.2

theorem State.memOk_site? {s : State} {u : UnitRef} (hs : s.MemOk) : ∀ x, s.site? u = some x → x.team.MemOk := by
  intro x hx
  exact hs.2 x.team (List.mem_of_find?_eq_some (State.site?_some hx).2.1)

end Sys2Proof.Machine
end

section
/-!
SUPPORT. The canonical form of memory at its home, in the caches and in what a unit reads and stores: reads, writes, reductions, copies and their
write-backs keep it.
-/

namespace Sys2Proof.Machine

variable {s : State} {x : Site} {t : Team} {h : Hit} {u : UnitRef} {cl : ClusterRef} {line : Nat} {pa : Nat} {bs : List Byte} {team : Nat}
  {die : Nat} {ctx : Nat} {va : Nat} {c : CLine} {m : Meet} {cs : Byte} {info : DWord}

theorem State.memOk_updTeam {k : Nat} {f : Team → Team} (hs : s.MemOk) (hf : ∀ t, t.MemOk → (f t).MemOk) : (s.updTeam k f).MemOk := by
  rw [State.updTeam]
  cases h : s.team? k with
  | none => exact hs
  | some t => exact State.memOk_setTeam hs (hf t (State.memOk_team? hs t h))

theorem State.memOk_setCtx {c : Context} (hs : s.MemOk) : (s.setCtx c).MemOk := hs

theorem State.memOk_setMeet (hs : s.MemOk) : (s.setMeet m).MemOk := hs

theorem State.memOk_setQueue {q : Queue} (hs : s.MemOk) : (s.setQueue q).MemOk := hs

theorem State.memOk_setTenant {t : Tenant} (hs : s.MemOk) : (s.setTenant t).MemOk := hs

theorem State.memOk_updDie {d : Nat} {f : Die → Die} (hs : s.MemOk) : (s.updDie d f).MemOk := hs

theorem State.memOk_updCluster {c : ClusterRef} {f : Cluster → Cluster} (hs : s.MemOk) : (s.updCluster c f).MemOk := State.memOk_updDie hs

theorem State.memOk_chosen (hs : s.MemOk) : s.chosen.MemOk := hs

theorem State.memOk_free (hs : s.MemOk) : s.free.2.MemOk := hs

theorem State.memOk_tell {e : HostEvent} (hs : s.MemOk) : (s.tell e).MemOk := hs

theorem Team.memOk_defer {d : DTrap} (ht : t.MemOk) : (t.defer d).MemOk := Team.memOk_ite ht ht

theorem State.memOk_ctxTrap {d : DTrap} (hs : s.MemOk) : (s.ctxTrap ctx d).MemOk := by
  unfold State.ctxTrap
  split
  · exact hs
  · exact State.memOk_ite (State.memOk_setCtx hs) (State.memOk_setCtx hs)

theorem State.memOk_flushDue (hs : s.MemOk) : (s.flushDue ctx).MemOk := by
  unfold State.flushDue
  split
  · exact hs
  · exact State.memOk_ite hs (State.memOk_setCtx hs)

theorem State.memOk_defer {d : DTrap} (hs : s.MemOk) : (s.defer team d).MemOk := by
  unfold State.defer
  split
  · exact hs
  · rename_i t h
    have ht := Option.of_all h (State.memOk_team? hs)
    exact State.memOk_ite (State.memOk_setTeam hs (Team.memOk_defer ht)) (State.memOk_ctxTrap hs)

theorem State.memOk_ownerTrap {owner : BitVec 16} (hs : s.MemOk) : (s.ownerTrap owner cs info).MemOk := by
  unfold State.ownerTrap
  split
  · exact State.memOk_ctxTrap hs
  · exact hs

theorem State.memOk_recallU {pa n : Nat} (hs : s.MemOk) : (s.recallU pa n).MemOk := ⟨s.wf_recallU pa n hs.1, hs.2⟩

theorem State.memOk_homeRead {n : Nat} (hs : s.MemOk) : (s.homeRead pa n).2.MemOk := State.memOk_recallU hs

theorem State.memOk_homeWrite {pa : Nat} (hs : s.MemOk) : (s.homeWrite pa bs).MemOk := ⟨s.wf_homeWrite pa bs hs.1, hs.2⟩

theorem State.memOk_publish {b : List (Nat × Byte)} (hs : s.MemOk) : (s.publish b).MemOk := by
  induction b generalizing s with
  | nil => exact hs
  | cons a r ih => exact ih (State.memOk_homeWrite hs)

theorem State.memOk_notifyStore {vf : Nat} {ofs : Nat} (hs : s.MemOk) : (s.notifyStore vf ofs bs).MemOk := by
  unfold State.notifyStore
  split
  · exact State.memOk_setQueue hs
  · exact hs

theorem State.memOk_seqRead {n : Nat} (hs : s.MemOk) : (s.seqRead pa n).2.MemOk := by
  unfold State.seqRead
  split
  · exact hs
  · exact State.memOk_homeRead hs

theorem State.memOk_seqWrite (hs : s.MemOk) : (s.seqWrite pa bs).MemOk := by
  unfold State.seqWrite
  split
  · exact State.memOk_notifyStore hs
  · exact State.memOk_homeWrite hs

theorem State.memOk_sendSnoops {c : List Nat} (hs : s.MemOk) : (s.sendSnoops line c).MemOk := by
  induction c generalizing s line with
  | nil => exact hs
  | cons a r ih => exact State.memOk_ite (ih hs) (ih (State.memOk_tell hs))

theorem State.memOk_sendInval {base : Nat} {size : Nat} {left : List Nat} (hs : s.MemOk) : (s.sendInval base size left).MemOk := hs

theorem State.memOk_askOutside {src : Option Requester} {cls : PageClass} {d : List Nat} (hs : s.MemOk) : (s.askOutside src cls d).MemOk := by
  induction d generalizing s src cls with
  | nil => exact hs
  | cons a r ih => exact ih (State.memOk_ite (State.memOk_sendSnoops hs) (State.memOk_sendInval (State.memOk_sendSnoops hs)))

theorem State.memOk_putCopy (hs : s.MemOk) : (s.putCopy c).MemOk := hs

theorem State.memOk_dropCopies {p : CLine → Bool} (hs : s.MemOk) : (s.dropCopies p).MemOk := hs

theorem State.memOk_passDown (hs : s.MemOk) : (s.passDown c).MemOk := hs

theorem State.memOk_writeBack (hs : s.MemOk) : (s.writeBack die c).1.MemOk := by
  unfold State.writeBack
  split
  · exact hs
  · split
    · exact hs
    · split
      · exact hs
      · split
        · exact State.memOk_homeWrite (State.memOk_passDown hs)
        · split
          · exact hs
          · exact State.memOk_publish (State.memOk_passDown hs)

theorem State.memOk_chargeOwner (hs : s.MemOk) : (s.chargeOwner die c cs).MemOk := State.memOk_ownerTrap hs

theorem State.memOk_writeBackOne (hs : s.MemOk) : (s.writeBackOne die c).MemOk := by
  unfold State.writeBackOne
  split
  · rename_i s1 h
    have hv : (s1, none).1.MemOk := h ▸ State.memOk_writeBack hs
    exact hv
  · rename_i s1 cs h
    have hv : (s1, some cs).1.MemOk := h ▸ State.memOk_writeBack hs
    exact State.memOk_dropCopies (State.memOk_chargeOwner hv)

theorem State.memOk_writeBackLine (hs : s.MemOk) :
    (s.writeBackLine die c).MemOk := List.foldlRecOn (motive := fun s : State => s.MemOk) _ _ hs fun _ hs1 _ _ => State.memOk_writeBackOne hs1

theorem State.memOk_writeBackAll {p : CLine → Bool} (hs : s.MemOk) :
    (s.writeBackAll p).MemOk := List.foldlRecOn (motive := fun s : State => s.MemOk) _ _ hs fun _ hs1 _ _ => State.memOk_writeBackLine hs1

theorem State.memOk_evictCopy {bad : Bool} (hs : s.MemOk) : (s.evictCopy bad c).MemOk := by
  unfold State.evictCopy
  refine State.memOk_dropCopies ?_
  split
  · rename_i s1 cs h
    have hv : (s1, some cs).1.MemOk := h ▸ State.memOk_writeBack (List.foldlRecOn (motive := fun s : State => s.MemOk) _ _ hs
      fun _ hs1 _ _ => State.memOk_writeBackOne hs1)
    exact State.memOk_chargeOwner hv
  · rename_i s1 h
    have hv : (s1, none).1.MemOk := h ▸ State.memOk_writeBack (List.foldlRecOn (motive := fun s : State => s.MemOk) _ _ hs
      fun _ hs1 _ _ => State.memOk_writeBackOne hs1)
    exact State.memOk_ite (State.memOk_chargeOwner hv) hv

theorem State.memOk_roomNear {lv : Level} (hs : s.MemOk) : ∀ y, (s.roomNear lv line) = some y → y.2.MemOk := by
  unfold State.roomNear
  dsimp only
  split
  · split
    · exact Option.all_some hs
    · exact Option.all_map fun _ _ => State.memOk_evictCopy hs
  · split
    · exact Option.all_some hs
    · exact Option.all_map fun _ _ => State.memOk_evictCopy hs
  · exact Option.all_none

theorem State.memOk_dropL2 {t : Tag} (hs : s.MemOk) : (s.dropL2 t).MemOk := State.memOk_dropCopies hs

theorem State.memOk_roomL2 {part : Nat} (hs : s.MemOk) : ∀ y, (s.roomL2 die line part) = some y → y.2.MemOk := by
  unfold State.roomL2
  dsimp only
  split
  · exact Option.all_some hs
  · exact Option.all_map fun _ _ => State.memOk_dropL2 hs

theorem State.memOk_recallFilter {t : Track} (hs : s.MemOk) : (s.recallFilter cl t).MemOk := State.memOk_dropCopies hs

theorem State.memOk_recallDirectory {t : Track} (hs : s.MemOk) : (s.recallDirectory die t).MemOk := State.memOk_dropCopies (State.memOk_recallU hs)

theorem State.memOk_recallPort {t : Track} (hs : s.MemOk) : (s.recallPort t).MemOk := State.memOk_dropCopies (State.memOk_recallU hs)

theorem State.memOk_recallPeers {t : Track} (hs : s.MemOk) : (s.recallPeers t).MemOk := State.memOk_sendInval hs

theorem State.memOk_recallHosts {t : Track} (hs : s.MemOk) : (s.recallHosts t).MemOk := State.memOk_sendSnoops hs

theorem State.memOk_trackFilter {core : Nat} (hs : s.MemOk) : (s.trackFilter cl core line).MemOk := by
  unfold State.trackFilter
  split
  · exact hs
  · exact State.memOk_recallFilter hs

theorem State.memOk_trackDirectory {holder : Nat} {lease : Nat} (hs : s.MemOk) : (s.trackDirectory die holder pa lease).MemOk := by
  unfold State.trackDirectory
  split
  · exact hs
  · exact State.memOk_recallDirectory hs

theorem State.memOk_trackPort {lease : Nat} (hs : s.MemOk) : (s.trackPort die pa lease).MemOk := by
  unfold State.trackPort
  split
  · exact hs
  · exact State.memOk_recallPort hs

theorem State.memOk_track {lv : Level} {lease : Nat} (hs : s.MemOk) : (s.track lv pa lease).MemOk := by
  unfold State.track
  dsimp only
  split
  · split
    · refine State.memOk_trackDirectory ?_
      split
      · exact State.memOk_trackFilter hs
      · exact hs
      · exact hs
    · refine State.memOk_trackDirectory ?_
      split
      · exact State.memOk_trackFilter hs
      · exact hs
      · exact hs
    · refine State.memOk_ite ?_ ?_
      · split
        · exact State.memOk_trackFilter hs
        · exact hs
        · exact hs
      · refine State.memOk_trackDirectory ?_
        split
        · exact State.memOk_trackFilter hs
        · exact hs
        · exact hs
  · refine State.memOk_trackPort ?_
    split
    · exact State.memOk_trackFilter hs
    · exact hs
    · exact hs

theorem State.memOk_recordHost {h : Nat} (hs : s.MemOk) : (s.recordHost line h).MemOk := by
  unfold State.recordHost
  split
  · exact hs
  · exact State.memOk_recallHosts hs

theorem State.memOk_recordPeer {device : Nat} {lease : Nat} (hs : s.MemOk) : (s.recordPeer die pa device lease).MemOk := by
  unfold State.recordPeer
  split
  · exact hs
  · exact State.memOk_recallPeers hs

theorem State.memOk_hold (hs : s.MemOk) : (s.hold h c).MemOk := by
  rw [State.hold]
  split
  · exact hs
  · rename_i w t hr
    have ht : t.MemOk := by
      cases hl : c.level with
      | l0 _ _ => rw [hl] at hr; exact State.memOk_roomNear hs _ hr
      | clus _ => rw [hl] at hr; exact State.memOk_roomNear hs _ hr
      | l2 _ => rw [hl] at hr; exact State.memOk_roomL2 hs _ hr
    exact State.memOk_ite ht (State.memOk_track ht)

theorem State.memOk_useHome (hs : s.MemOk) : (s.useHome h line).MemOk := by
  unfold State.useHome
  split
  · exact hs
  · refine State.memOk_ite hs ?_
    refine State.memOk_ite hs ?_
    split
    · exact hs
    · rename_i w s1 h2
      have hv := Option.of_all h2 (State.memOk_roomL2 hs)
      exact hv

theorem State.memOk_useTables {reads : List Nat} (hs : s.MemOk) :
    (s.useTables die reads).MemOk := List.foldlRecOn (motive := fun s : State => s.MemOk) _ _ hs fun _ hs1 _ _ => State.memOk_ite
      (State.memOk_useHome hs1) (State.memOk_ite hs1 (State.memOk_hold (State.memOk_homeRead hs1)))

theorem State.memOk_touch (hs : s.MemOk) : (s.touch c).MemOk := hs

theorem State.memOk_bring {rc : Nat} (hs : s.MemOk) : (s.bring x h line rc).2.MemOk := by
  rw [State.bring]
  refine List.foldlRecOn (motive := fun s : State => s.MemOk) _ _ ?_ fun t ht _ _ => State.memOk_hold ht
  cases s.copyFor x h.cls line with
  | none => exact State.memOk_useHome (State.memOk_homeRead hs)
  | some c =>
    cases h.cls with
    | phase => exact State.memOk_touch hs
    | priv => exact State.memOk_touch hs
    | seq => exact State.memOk_touch (State.memOk_homeRead hs)
    | stream => exact State.memOk_touch (State.memOk_homeRead hs)

theorem State.memOk_hitCount (hs : s.MemOk) : (s.hitCount c).MemOk := by
  unfold State.hitCount
  split
  · exact hs
  · exact State.memOk_dropCopies hs
  · exact State.memOk_putCopy hs

theorem State.memOk_countHits {s0 : State} {lines : List (PageClass × Nat)} (hs : s.MemOk) : (State.countHits s0 x lines s).MemOk := by
  unfold State.countHits
  refine List.foldlRecOn (motive := fun s : State => s.MemOk) _ _ hs fun _ hs1 _ _ => ?_
  split
  · refine State.memOk_ite hs1 ?_
    split
    · exact State.memOk_hitCount hs1
    · exact hs1
  · exact hs1

theorem State.memOk_uncount (hs : s.MemOk) : (s.uncount x line).MemOk := hs

theorem State.memOk_setWide {at_ : Option Nat} {l : List LayerByte} (hs : s.MemOk) : (s.setWide at_ l).MemOk := hs

theorem State.memOk_passWide {pas : List Nat} (hs : s.MemOk) :
    (s.passWide die pas).MemOk := State.memOk_ite hs (State.memOk_setWide (State.memOk_setWide hs))

theorem State.memOk_keepOld {seen : List Agent} {offers : List Offer} {n : Nat} {whole : optParam (Option Nat) none} (hs : s.MemOk) :
    (s.keepOld seen offers pa n whole).MemOk := hs

theorem State.memOk_seePartsIf {g : Agent} {p : OldPart → Bool} (hs : s.MemOk) : (s.seePartsIf g p).MemOk := hs

theorem State.memOk_seeParts {g : Agent} {n : Nat} (hs : s.MemOk) : (s.seeParts g pa n).MemOk := State.memOk_seePartsIf hs

theorem State.memOk_renew {pas : List Nat} (hs : s.MemOk) : (s.renew x pas).MemOk := hs

theorem State.memOk_overtake {pas : List Nat} {among : optParam (Team → Bool) fun x => true} (hs : s.MemOk) :
    (s.overtake team pas among).MemOk := State.memOk_ite hs (State.memOk_dropCopies (State.memOk_mapTeams hs fun _ ht => Team.memOk_ite ht ht))

theorem Site.memOk_passed {pas : List Nat} (hx : x.team.MemOk) : (x.passed pas).team.MemOk := hx

theorem State.memOk_readPart {n : Nat} {rc : Nat} {vol : Bool} (hs : s.MemOk) : (s.readPart x h pa n rc vol).2.MemOk := by
  unfold State.readPart
  split
  · split
    · exact State.memOk_seqRead hs
    · exact State.memOk_bring hs
  · split
    · exact State.memOk_renew (State.memOk_homeRead (State.memOk_useHome hs))
    · exact State.memOk_bring hs
  · split
    · split
      · exact State.memOk_bring (State.memOk_seeParts (State.memOk_chosen hs))
      · exact State.memOk_chosen hs
    · exact State.memOk_bring hs
  · exact State.memOk_bring hs

theorem State.memOk_readParts {n : Nat} {rc : Nat} {vol : Bool} {l : Nat} (hs : s.MemOk) (hx : x.team.MemOk) :
    (s.readParts x h pa n rc vol l).2.MemOk := by
  induction l generalizing s x h pa n rc vol with
  | zero => exact hs
  | succ n1 ih => exact ih (State.memOk_readPart hs) hx

theorem State.memOk_loadPage {n : Nat} {rc : Nat} {vol : Bool} (hs : s.MemOk) (hx : x.team.MemOk) : (s.loadPage x h va n rc vol).2.MemOk := by
  unfold State.loadPage
  split
  · rename_i bs s1 h1
    have hv : (bs, s1).2.MemOk := h1 ▸ State.memOk_readParts hs hx
    split
    · exact hv
    · exact hv

theorem State.memOk_setGranules {gs : List Nat} (hs : s.MemOk) : (s.setGranules gs).MemOk := hs

theorem State.memOk_renewPriv (hs : s.MemOk) : (s.renewPriv x pa bs).MemOk := hs

theorem State.memOk_storePriv (hs : s.MemOk) : (s.storePriv x h pa bs).MemOk := by
  unfold State.storePriv
  dsimp only
  split
  · exact State.memOk_putCopy (State.memOk_ite hs (State.memOk_bring hs))
  · exact State.memOk_renewPriv (State.memOk_homeWrite (State.memOk_ite hs (State.memOk_bring hs)))

theorem State.memOk_snoopFor {lines : List Nat} {left : List Nat} (hs : s.MemOk) :
    (s.snoopFor lines left).MemOk := List.foldlRecOn (motive := fun s : State => s.MemOk) _ _ hs fun _ hs1 _ _ => State.memOk_sendSnoops hs1

theorem State.memOk_post {p : Posted} (hs : s.MemOk) : (s.post p).MemOk := State.memOk_snoopFor hs

theorem State.memOk_performAt {p : Posted} (hs : s.MemOk) : (s.performAt p).MemOk := by
  unfold State.performAt
  refine State.memOk_ite ?_ ?_
  · split
    · exact State.memOk_seqWrite hs
    · exact State.memOk_publish (State.memOk_homeRead hs)
  · split
    · exact State.memOk_seqWrite hs
    · exact State.memOk_publish (State.memOk_homeRead hs)

theorem State.memOk_seqPut {p : Posted} {earlier : Bool} (hs : s.MemOk) : (s.seqPut p earlier).1.MemOk := by
  unfold State.seqPut
  extract_lets inside a left b
  have ha : a.MemOk := State.memOk_ite hs (State.memOk_ite (State.memOk_chosen (State.memOk_dropCopies hs)) hs)
  have hb : b.MemOk := State.memOk_ite (State.memOk_chosen ha) ha
  split
  · exact State.memOk_performAt hb
  · exact State.memOk_post hb

theorem State.memOk_storeSeq {va : optParam Nat 0} (hs : s.MemOk) : (s.storeSeq u pa bs va).1.MemOk := State.memOk_seqPut hs

theorem Team.memOk_setHeat {w : Who} {h : Heat} (ht : t.MemOk) : (t.setHeat w h).MemOk := by
  unfold Team.setHeat
  split
  · exact ht
  · exact ht

theorem State.memOk_put (hs : s.MemOk) (hx : x.team.MemOk) : (s.put x).MemOk := State.memOk_setTeam hs (Team.memOk_setHeat hx)

theorem Site.memOk_owe {n : Nat} (hx : x.team.MemOk) : (x.owe n).team.MemOk := hx

theorem State.memOk_oweLease {till : Nat} (hs : s.MemOk) (hx : x.team.MemOk) : (s.oweLease x till).1.MemOk ∧ (s.oweLease x till).2.team.MemOk := by
  unfold State.oweLease
  split
  · exact ⟨hs, hx⟩
  · exact ⟨hs, Site.memOk_owe hx⟩

end Sys2Proof.Machine
end

section
/-!
SUPPORT. The canonical form of memory in releases and acquires, in the end of a meet, in registers, traps and the issue of an instruction: each of them keeps it.
-/

namespace Sys2Proof.Machine

variable {s : State} {x : Site} {t : Team} {is : List Nat} {e : Ext} {h : Hit} {u : UnitRef} {cl : ClusterRef} {pa : Nat} {bs : List Byte}
  {team : Nat} {die : Nat} {ctx : Nat} {va : Nat} {sc : Scope} {i : Nat} {d : DriverCommand} {g : Guard} {cs : Byte} {info : DWord} {us : List Use}

theorem State.memOk_phaseHome (hs : s.MemOk) (hx : x.team.MemOk) :
    (s.phaseHome x pa bs).1.MemOk ∧ (s.phaseHome x pa bs).2.team.MemOk := State.memOk_oweLease (State.memOk_passWide (State.memOk_renew
      (State.memOk_homeWrite (State.memOk_overtake (State.memOk_uncount hs))))) (Site.memOk_passed hx)

theorem State.memOk_storePage {home : Bool} (hs : s.MemOk) (hx : x.team.MemOk) :
    (s.storePage x h pa bs home).1.MemOk ∧ (s.storePage x h pa bs home).2.team.MemOk := by
  unfold State.storePage
  split
  · exact ⟨State.memOk_storeSeq hs, Site.memOk_ite (Site.memOk_owe hx) hx⟩
  · split
    · exact State.memOk_phaseHome hs hx
    · exact ⟨State.memOk_uncount hs, hx⟩
  · exact ⟨State.memOk_setGranules (State.memOk_homeWrite (State.memOk_keepOld (State.memOk_uncount hs))), hx⟩
  · exact ⟨State.memOk_storePriv hs, hx⟩

theorem State.memOk_offerParts (hs : s.MemOk) : (s.offerParts x sc).MemOk := by
  unfold State.offerParts
  split
  · exact hs
  · exact hs

theorem State.memOk_takeParts (hs : s.MemOk) : (s.takeParts x sc).MemOk := State.memOk_seePartsIf hs

theorem State.memOk_seePointer {k : Nat} (hs : s.MemOk) : (s.seePointer u cl k).MemOk := State.memOk_seePartsIf hs

theorem State.memOk_publishAll {bs : List LayerByte} (hs : s.MemOk) :
    (s.publishAll bs).MemOk := State.memOk_publish (List.foldlRecOn (motive := fun s : State => s.MemOk) _ _ hs fun _ hs1 _ _ => State.memOk_publish
      (State.memOk_homeRead hs1))

theorem State.memOk_heal {pas : List Nat} (hs : s.MemOk) : (s.heal pas).MemOk := State.memOk_ite hs hs

theorem State.memOk_passOn (hs : s.MemOk) : (s.passOn x).MemOk := State.memOk_ite hs hs

theorem State.memOk_overtakeUp {up : List (List LayerByte)} (hs : s.MemOk) :
    (s.overtakeUp x up).MemOk := State.memOk_overtake (State.memOk_overtake hs)

theorem State.memOk_widen {up : List (List LayerByte)} {pas : List Nat} (hs : s.MemOk) :
    (s.widen x sc up pas).MemOk := State.memOk_ite (State.memOk_setWide (State.memOk_overtake hs)) (State.memOk_setWide (State.memOk_setWide
      (State.memOk_overtakeUp hs)))

theorem State.memOk_publishHome {up : List (List LayerByte)} {pas : List Nat} (hs : s.MemOk) :
    (s.publishHome x up pas).MemOk := State.memOk_renew (State.memOk_heal (List.foldlRecOn (motive := fun s : State => s.MemOk) _ _
      (State.memOk_overtakeUp (State.memOk_ite hs (State.memOk_setWide (State.memOk_setWide hs)))) fun _ hs1 _ _ => State.memOk_publishAll hs1))

theorem State.memOk_releaseAt (hs : s.MemOk) (hx : x.team.MemOk) : (s.releaseAt x sc).1.MemOk ∧ (s.releaseAt x sc).2.team.MemOk := by
  have ho : (s.offerParts x sc).MemOk := State.memOk_offerParts hs
  unfold State.releaseAt
  dsimp only
  split
  · exact ⟨ho, hx⟩
  · split
    · exact ⟨ho, hx⟩
    · exact ⟨State.memOk_passOn ho, hx⟩
  · exact ⟨State.memOk_passOn ho, hx⟩
  · split
    · refine ⟨ho, ?_⟩
      split
      · exact Team.memOk_defer hx
      · exact hx
    · refine State.memOk_oweLease (State.memOk_ite (State.memOk_publishHome ho) (State.memOk_widen ho)) ?_
      split
      · exact Team.memOk_defer hx
      · exact hx

theorem State.memOk_seeWide (hs : s.MemOk) : (s.seeWide x sc).MemOk := State.memOk_ite hs hs

theorem State.memOk_acquireAt (hs : s.MemOk) (hx : x.team.MemOk) : (s.acquireAt x sc).1.MemOk ∧ (s.acquireAt x sc).2.team.MemOk := by
  unfold State.acquireAt
  split
  · exact ⟨hs, hx⟩
  · exact ⟨State.memOk_seeWide (State.memOk_takeParts (State.memOk_dropCopies hs)), hx⟩

theorem Team.memOk_count {c : Nat} {n : Nat} (ht : t.MemOk) : (t.count c n).MemOk := ht

theorem State.memOk_creditMisses (hs : s.MemOk) :
    (s.creditMisses team).MemOk := State.memOk_ite hs (State.memOk_updTeam hs fun _ ht => Team.memOk_count ht)

theorem State.memOk_chargeMeet {meet : Nat} {n : Nat} (hs : s.MemOk) : (s.chargeMeet meet die n).MemOk := by
  unfold State.chargeMeet
  split
  · exact State.memOk_ite (State.memOk_setMeet hs) hs
  · exact hs

theorem State.memOk_charge {n : Nat} (hs : s.MemOk) (hx : x.team.MemOk) :
    (s.charge x n).1.MemOk ∧ (s.charge x n).2.team.MemOk := ⟨State.memOk_chargeMeet hs, Team.memOk_count hx⟩

theorem Team.memOk_setStatus {h : Word} {w : Word} (ht : t.MemOk) : (t.setStatus h w).MemOk := ht

theorem Team.memOk_finish {x : Xfer} {st : Nat} (ht : t.MemOk) :
    (t.finish x cs st).MemOk := (show (t.setStatus x.handle (statusWord x.work.gen cs st)).MemOk from Team.memOk_setStatus ht)

theorem Team.memOk_cancel {p : Xfer → Bool} (ht : t.MemOk) :
    (t.cancel p).MemOk := List.foldlRecOn (motive := fun t : Team => t.MemOk) _ _ ht fun _ ht1 _ _ => Team.memOk_finish ht1

theorem State.memOk_tellAll {es : List HostEvent} (hs : s.MemOk) : (s.tellAll es).MemOk := hs

theorem State.memOk_cpStore {cls : PageClass} {tells : List HostEvent} {wait : Bool} (hs : s.MemOk) :
    (s.cpStore die cls pa bs tells wait).MemOk := State.memOk_ite (State.memOk_tellAll (State.memOk_seqWrite (State.memOk_dropCopies hs)))
      (State.memOk_post (State.memOk_askOutside (State.memOk_dropCopies hs)))

theorem State.memOk_signal {queue : Nat} {addr : Nat} {seq : Word} {late : Bool} {o : Outcome} {code : Byte} (hs : s.MemOk) :
    (s.signal die queue ctx addr seq late o code).MemOk := by
  unfold State.signal
  refine State.memOk_ite (State.memOk_tell hs) ?_
  split
  · exact State.memOk_cpStore hs
  · exact State.memOk_cpStore hs
  · exact State.memOk_tell hs

theorem State.memOk_completeMeet {id : Nat} {o : Outcome} {code : Byte} (hs : s.MemOk) : (s.completeMeet id o code).MemOk := by
  unfold State.completeMeet
  split
  · exact hs
  · refine State.memOk_flushDue ?_
    refine State.memOk_setMeet ?_
    split
    · refine State.memOk_setTenant ?_
      refine State.memOk_ite hs ?_
      split
      · exact State.memOk_signal hs
      · exact State.memOk_cpStore hs
    · refine State.memOk_ite hs ?_
      split
      · exact State.memOk_signal hs
      · exact State.memOk_cpStore hs

theorem State.memOk_completeIfDone {id : Nat} (hs : s.MemOk) : (s.completeIfDone id).MemOk := by
  unfold State.completeIfDone
  split
  · exact hs
  · refine State.memOk_ite ?_ hs
    split
    · exact State.memOk_completeMeet hs
    · exact State.memOk_completeMeet hs
    · exact hs

theorem State.memOk_stopCopies (hs : s.MemOk) : (s.stopCopies t).MemOk := State.memOk_updCluster hs

theorem State.memOk_terminate {id : Nat} {o : Outcome} {code : Byte} (hs : s.MemOk) : (s.terminate id o code).MemOk := by
  unfold State.terminate
  split
  · exact hs
  · exact State.memOk_ite hs (State.memOk_completeIfDone (List.foldlRecOn (motive := fun s : State => s.MemOk) _ _ (State.memOk_setMeet
    (List.foldlRecOn (motive := fun s : State => s.MemOk) _ _ hs fun _ hs1 a ha => State.memOk_stopTeam hs1 (((List.all_filter hs.2) a ha))))
      fun _ hs1 _ _ => State.memOk_ctxTrap hs1))

theorem Site.memOk_updFibre {f : Fibre → Fibre} (hx : x.team.MemOk) : (x.updFibre i f).team.MemOk := hx

theorem Site.memOk_updFibres {f : Fibre → Fibre} (hx : x.team.MemOk) :
    (x.updFibres is f).team.MemOk := List.foldlRecOn (motive := fun x : Site => x.team.MemOk) _ _ hx fun _ hx1 _ _ => Site.memOk_updFibre hx1

theorem Site.memOk_setSlot {r : Nat} {v : Slot} (hx : x.team.MemOk) : (x.setSlot i r v).team.MemOk := Site.memOk_ite (Site.memOk_updFibre hx) hx

theorem Site.memOk_setVal {r : Nat} {n : Nat} {v : Nat} (hx : x.team.MemOk) : (x.setVal i r n v).team.MemOk := by
  induction n generalizing x i r v with
  | zero => exact hx
  | succ n1 ih => exact ih (Site.memOk_setSlot hx)

theorem Site.memOk_setGuard {g : Nat} {b : Bool} (hx : x.team.MemOk) : (x.setGuard i g b).team.MemOk := Site.memOk_setSlot hx

theorem Site.memOk_setSeed {w : Word} (hx : x.team.MemOk) : (x.setSeed i w).team.MemOk := Site.memOk_updFibre hx

theorem Site.memOk_advance {batch : List Nat} {len : Nat} (hx : x.team.MemOk) : (x.advance batch len).team.MemOk := Site.memOk_updFibres hx

theorem State.memOk_here (hs : s.MemOk) : ∀ y, s.here = some y → y.team.MemOk := State.memOk_site? hs

theorem State.memOk_done (hs : s.MemOk) (hx : x.team.MemOk) : (s.done x).MemOk := State.memOk_put hs (Site.memOk_advance hx)

theorem State.memOk_account (hs : s.MemOk) (hx : x.team.MemOk) :
    (s.account x).1.MemOk ∧ (s.account x).2.team.MemOk := ⟨(State.memOk_charge hs hx).1, Site.memOk_updFibres (Team.memOk_count
      ((State.memOk_charge hs hx).2))⟩

theorem State.memOk_wait {baton : Bool} {long : Bool} (hs : s.MemOk) (hx : x.team.MemOk) :
    Out.MemOk (s.wait x baton long) := State.memOk_put hs (Site.memOk_updFibres (Team.memOk_ite (Team.memOk_count hx) hx))

theorem Site.memOk_unwaitX (hx : x.team.MemOk) : (x.unwaitX is).MemOk := hx

theorem Site.memOk_enter {tvec : DWord} {resume : Nat → Pc} {pacer : Bool} {deferred : Bool} {t : TrapRec} (hx : x.team.MemOk) :
    (x.enter tvec is resume pacer deferred t).team.MemOk := (show (x.unwaitX is).MemOk from Site.memOk_unwaitX hx)

theorem State.memOk_fatal {c : Byte} (hs : s.MemOk) (hx : x.team.MemOk) :
    (s.fatal x c).MemOk := State.memOk_terminate (State.memOk_tell (State.memOk_put hs hx))

theorem State.memOk_takeTrap {resume : Nat → Pc} {t : TrapRec} (hs : s.MemOk) (hx : x.team.MemOk) :
    (s.takeTrap x is resume t).MemOk := State.memOk_ite (State.memOk_fatal hs hx) (State.memOk_put hs (Site.memOk_enter hx))

theorem State.memOk_trap {c : Byte} {fib : Nat} {inner : Byte} (hs : s.MemOk) (hx : x.team.MemOk) :
    Out.MemOk (s.trap x is c fib info inner) := State.memOk_takeTrap hs hx

theorem State.memOk_trapWith {t : TrapRec} (hs : s.MemOk) (hx : x.team.MemOk) : Out.MemOk (s.trapWith x is t) := State.memOk_takeTrap hs hx

theorem memOk_issueOn {met : Site → List Nat → List (Nat × List Baton)} {pass : Site → Nat → Bool} {d : Demand}
    {effect : State → Site → List Nat → Out} (hs : s.MemOk) (heffect : ∀ a b c, a.MemOk → b.team.MemOk → Out.MemOk (effect a b c)) : Out.MemOk
      (issueOn met pass g d s effect) := by
  unfold issueOn
  split
  · exact hs
  · rename_i x h
    have hx := Option.of_all h (State.memOk_here hs)
    split
    · exact State.memOk_wait hs hx
    · exact State.memOk_trapWith ((State.memOk_account hs hx).1) ((State.memOk_account hs hx).2)
    · refine Out.memOk_ite (State.memOk_done ((State.memOk_account hs hx).1) ((State.memOk_account hs hx).2)) ?_
      split
      · exact State.memOk_trap ((State.memOk_account hs hx).1) ((State.memOk_account hs hx).2)
      · split
        · exact State.memOk_trapWith ((State.memOk_account hs hx).1) ((State.memOk_account hs hx).2)
        · split
          · exact State.memOk_wait hs hx
          · exact State.memOk_trapWith ((State.memOk_account hs hx).1) ((State.memOk_account hs hx).2)
          · exact heffect _ _ _ ((State.memOk_account hs hx).1) ((State.memOk_account hs hx).2)

theorem memOk_issueWith {pass : Site → Nat → Bool} {d : Demand} {effect : State → Site → List Nat → Out} (hs : s.MemOk)
    (heffect : ∀ a b c, a.MemOk → b.team.MemOk → Out.MemOk (effect a b c)) : Out.MemOk (issueWith pass g d s effect) := memOk_issueOn hs heffect

theorem memOk_issue {d : Demand} {effect : State → Site → List Nat → Out} (hs : s.MemOk)
    (heffect : ∀ a b c, a.MemOk → b.team.MemOk → Out.MemOk (effect a b c)) : Out.MemOk (issue g d s effect) := memOk_issueWith hs heffect

theorem memOk_regEffect {f : Site → Nat → Site → Site} (hf : ∀ a b c, a.team.MemOk → c.team.MemOk → (f a b c).team.MemOk) (hs : s.MemOk)
    (hx : x.team.MemOk) : Out.MemOk (regEffect f s x is) := State.memOk_done hs (List.foldlRecOn (motive := fun x : Site => x.team.MemOk) _ _ hx
      fun _ hy1 _ _ => hf _ _ _ hx hy1)

theorem Site.memOk_wantPageFor {w : PageUser} (hx : x.team.MemOk) : (x.wantPageFor w va).team.MemOk := hx

theorem Site.memOk_forgetPageFor {w : PageUser} (hx : x.team.MemOk) : (x.forgetPageFor w va).team.MemOk := hx

theorem Site.memOk_wantPage {pc : Pc} (hx : x.team.MemOk) : (x.wantPage pc va).team.MemOk := Site.memOk_wantPageFor hx

theorem Site.memOk_forgetPage {pc : Pc} (hx : x.team.MemOk) : (x.forgetPage pc va).team.MemOk := Site.memOk_forgetPageFor hx

theorem State.memOk_pageFault {fib : Nat} (hs : s.MemOk) (hx : x.team.MemOk) :
    Out.MemOk (s.pageFault x is fib va info) := Out.memOk_ite (State.memOk_trap hs (Site.memOk_forgetPage hx)) (State.memOk_put hs
      (Site.memOk_wantPage hx))

theorem State.memOk_stall {long : Bool} (hs : s.MemOk) : Out.MemOk (s.stall long) := by
  unfold State.stall
  split
  · exact hs
  · rename_i x h
    have hx := Option.of_all h (State.memOk_here hs)
    exact State.memOk_wait hs hx

theorem Site.memOk_dst {y1 : Site} {v : Nat} (hy1 : y1.team.MemOk) : (Site.dst y1 i e v).team.MemOk := Site.memOk_setVal hy1

theorem Site.memOk_dst32 {y1 : Site} {v : Nat} (hy1 : y1.team.MemOk) : (Site.dst32 y1 i e v).team.MemOk := Site.memOk_setVal hy1

theorem memOk_perFibre {v : Site → Nat → Nat} (hs : s.MemOk) :
    Out.MemOk (perFibre e us s v) := memOk_issue hs fun _ _ _ ha hb => memOk_regEffect (fun _ _ _ _ hy1 => Site.memOk_dst hy1) ha hb

theorem memOk_perFibre32 {v : Site → Nat → Nat} (hs : s.MemOk) :
    Out.MemOk (perFibre32 e us s v) := memOk_issue hs fun _ _ _ ha hb => memOk_regEffect (fun _ _ _ _ hy1 => Site.memOk_dst32 hy1) ha hb

theorem Command.memOk_answer {c : Command} (hs : s.MemOk) (hc : c.MemOk) : (Command.answer d s c).MemOk := by
  unfold Command.answer
  cases c with
  | status c1 s1 =>
    have hm := hc
    exact State.memOk_tell hm
  | waits => exact hs

theorem State.memOk_lentFibre (hs : s.MemOk) (hx : x.team.MemOk) : (s.lentFibre x).1.team.MemOk ∧ (s.lentFibre x).2.MemOk := ⟨hx, hs⟩

theorem Command.memOk_map {f : State → State} {b : Command} (hf : ∀ a, a.MemOk → (f a).MemOk) (hb : b.MemOk) : (Command.map f b).MemOk := by
  unfold Command.map
  cases b with
  | status c s =>
    have hm := hb
    exact hf _ hm
  | waits => exact trivial

theorem State.memOk_refibre (hs : s.MemOk) : (State.refibre x s).MemOk := by
  unfold State.refibre
  refine State.memOk_updTeam hs fun _ ht => ?_
  split
  · exact Team.memOk_setHeat ht
  · exact ht

theorem State.memOk_lent {c : Prop} [Decidable c] (hs : s.MemOk) (hx : x.team.MemOk) :
    (if c then s.lentFibre x else (x, s)).1.team.MemOk ∧ (if c then s.lentFibre x else (x, s)).2.MemOk := by
  split
  · exact State.memOk_lentFibre hs hx
  · exact ⟨hx, hs⟩

theorem State.memOk_commandOn {i : Instr} {cl : Option ClusterRef} {go : State → Site → Command} (hs : s.MemOk)
    (hgo : ∀ a b, a.MemOk → b.team.MemOk → (go a b).MemOk) : (s.commandOn d i us cl go).MemOk := by
  rw [State.commandOn]
  split
  · exact hs
  split
  · exact hs
  split
  · exact hs
  split
  · exact hs
  split
  · exact hs
  rename_i x h
  have hl := State.memOk_lent (c := (us ≠ [] ∨ d.e.guard ≠ .always) ∧ ¬ x.team.leader) hs (State.memOk_site? hs x h)
  dsimp only
  generalize (if (us ≠ [] ∨ d.e.guard ≠ .always) ∧ ¬ x.team.leader then s.lentFibre x else (x, s)) = p at hl
  split
  · exact trivial
  · exact hl.2
  split
  · exact hl.2
  split
  · exact hl.2
  split
  · exact trivial
  · exact hl.2
  split
  · exact Command.memOk_map (fun _ ha => State.memOk_refibre ha) (hgo _ _ hl.2 hl.1)
  · exact hgo _ _ hl.2 hl.1

theorem Site.memOk_writeLocal {l : Loc} (hx : x.team.MemOk) : (x.writeLocal bs l).team.MemOk := by
  cases l with
  | scr o =>
    refine ⟨hx.1, fun m hm => ?_⟩
    obtain ⟨k, hk⟩ := List.getElem?_of_mem hm
    rw [Site.writeLocal, List.getElem?_modify] at hk
    obtain ⟨b, hb, hbm⟩ := Option.map_eq_some_iff.mp hk
    have hw := hx.2 b (List.mem_of_getElem? hb)
    split at hbm
    · exact hbm ▸ Memory.wf_write _ _ _ hw
    · exact hbm ▸ hw
  | csh o => exact ⟨Memory.wf_write _ _ _ hx.1, hx.2⟩
  | virt va => exact hx

end Sys2Proof.Machine
end

section
/-!
SUPPORT. The canonical form of memory in loads, stores, prefetches and flushes and in the integer instructions: each of them keeps it.
-/

namespace Sys2Proof.Machine

variable {s : State} {x : Site} {is : List Nat} {e : Ext} {h : Hit} {line : Nat} {pa : Nat} {sc : Scope} {f : Flight} {i : Nat} {info : DWord}
  {us : List Use}

theorem State.memOk_loadGot {fib : Nat} {ea : Nat} {n : Nat} {rc : Nat} {vol : Bool} {acq : Bool} (hs : s.MemOk) (hx : x.team.MemOk) :
    (s.loadGot x fib ea n rc vol acq).2.MemOk := by
  unfold State.loadGot
  split
  · exact hs
  · split
    · exact hs
    · exact hs
    · exact hs
    · exact hs
    · split
      · exact hs
      · split
        · exact hs
        · exact State.memOk_loadPage hs hx
  · exact hs

theorem State.memOk_freshen {n : Nat} (hs : s.MemOk) : (s.freshen x pa n).MemOk := State.memOk_dropCopies hs

theorem State.memOk_bringAll {rc : Nat} {lines : List Nat} (hs : s.MemOk) :
    (s.bringAll x h rc lines).MemOk := List.foldlRecOn (motive := fun s : State => s.MemOk) _ _ hs fun _ hs1 _ _ => State.memOk_bring hs1

theorem State.memOk_lookPart {g : Agent} {n : Nat} (hs : s.MemOk) : (s.lookPart x g h pa n).2.MemOk := by
  unfold State.lookPart
  dsimp only
  split
  · split
    · exact State.memOk_seqRead hs
    · exact State.memOk_homeRead (State.memOk_useHome hs)
  · split
    · exact State.memOk_seqRead hs
    · exact State.memOk_homeRead (State.memOk_useHome hs)
  · split
    · split
      · split
        · exact State.memOk_seqRead hs
        · exact State.memOk_homeRead (State.memOk_useHome hs)
      · split
        · split
          · exact State.memOk_seqRead (State.memOk_seeParts (State.memOk_chosen hs))
          · exact State.memOk_homeRead (State.memOk_useHome (State.memOk_seeParts (State.memOk_chosen hs)))
        · exact State.memOk_chosen hs
    · split
      · exact State.memOk_seqRead hs
      · exact State.memOk_homeRead (State.memOk_useHome hs)
  · split
    · exact hs
    · split
      · exact State.memOk_seqRead hs
      · exact State.memOk_homeRead (State.memOk_useHome hs)

theorem State.memOk_lookParts {g : Agent} {n : Nat} {k : Nat} (hs : s.MemOk) (hx : x.team.MemOk) : (s.lookParts x g h pa n k).2.MemOk := by
  induction k generalizing s x g h pa n with
  | zero => exact hs
  | succ n1 ih => exact ih (State.memOk_lookPart hs) hx

theorem State.memOk_look {g : Agent} {n : Nat} (hs : s.MemOk) (hx : x.team.MemOk) : (s.look x g h pa n).2.MemOk := State.memOk_lookParts hs hx

theorem State.memOk_oldChoice {g : Agent} {whole : List (Option Nat × Nat)} {d : List OldPart} (hs : s.MemOk) : (s.oldChoice g whole d).2.MemOk := by
  induction d generalizing s g whole with
  | nil => exact hs
  | cons a r ih =>
    rw [State.oldChoice]
    split
    · exact ih (State.memOk_ite (State.memOk_seeParts hs) hs)
    · exact ih (State.memOk_ite (State.memOk_seeParts (State.memOk_chosen hs)) (State.memOk_chosen hs))

theorem State.memOk_chunkBytes {g : Agent} {n : Nat} (hs : s.MemOk) (hx : x.team.MemOk) : (s.chunkBytes x g h pa n).2.MemOk := by
  unfold State.chunkBytes
  split
  · exact State.memOk_homeRead hs
  · exact State.memOk_oldChoice (State.memOk_homeRead hs)
  · exact State.memOk_look hs hx
  · exact State.memOk_homeRead hs

theorem State.memOk_readChunk {g : Agent} {f : Entry} {c : Nat} (hs : s.MemOk) (hx : x.team.MemOk) : (s.readChunk x g h f c).2.MemOk := by
  unfold State.readChunk
  dsimp only
  split
  · exact hs
  · split
    · exact State.memOk_chunkBytes hs hx
    · exact State.memOk_chunkBytes hs hx

theorem State.memOk_loadQ {fib : Nat} {ea : Nat} {index : Nat} {rc : Nat} {acq : Bool} (hs : s.MemOk) (hx : x.team.MemOk) :
    (s.loadQ x fib ea index rc acq).2.MemOk := by
  unfold State.loadQ
  dsimp only
  split
  · exact hs
  · split
    · exact hs
    · split
      · exact hs
      · exact hs
      · exact hs
      · exact hs
      · split
        · exact hs
        · split
          · exact hs
          · split
            · exact hs
            · exact hs
            · exact hs
            · exact hs
            · split
              · exact hs
              · split
                · rename_i c s1 h5
                  have hv : (Except.error c, s1).2.MemOk := h5 ▸ State.memOk_readChunk hs hx
                  exact hv
                · rename_i bs s1 h5
                  have hv : (Except.ok bs, s1).2.MemOk := h5 ▸ State.memOk_readChunk hs hx
                  exact State.memOk_bringAll (State.memOk_freshen hv)
  · exact hs

theorem State.memOk_performLoad {fib : Nat} {ea : Nat} {index : Nat} (hs : s.MemOk) (hx : x.team.MemOk) :
    (s.performLoad x f fib ea index).2.MemOk := by
  unfold State.performLoad
  split
  · exact State.memOk_loadQ hs hx
  · exact State.memOk_loadGot hs hx

theorem Site.memOk_putWords {r : Nat} {d : List Word} (hx : x.team.MemOk) : (x.putWords i r d).team.MemOk := by
  induction d generalizing x i r with
  | nil => exact hx
  | cons a r1 ih => exact ih (Site.memOk_setSlot hx)

theorem Site.memOk_putRecord {r : Nat} {tag : BitVec 6} {st : RecState} {g : Nat} {k : Nat} (hx : x.team.MemOk) :
    (x.putRecord i r tag st g k).team.MemOk := by
  induction k generalizing x i r tag st g with
  | zero => exact hx
  | succ n ih => exact ih (Site.memOk_setSlot hx)

theorem State.memOk_seeTarget {c : Option (Nat × Word)} (hs : s.MemOk) : (s.seeTarget x c).MemOk := by
  unfold State.seeTarget
  split
  · exact hs
  · exact State.memOk_seePointer hs

theorem State.memOk_loadEach {d : List Want} (hs : s.MemOk) (hx : x.team.MemOk) : (s.loadEach x f d).2.MemOk := by
  induction d generalizing s x f with
  | nil => exact hs
  | cons a r ih =>
    rw [State.loadEach]
    refine ih ?_ hx
    split
    · exact State.memOk_performLoad (State.memOk_seeTarget hs) hx
    · exact hs
    · exact hs

theorem Site.memOk_takeLoad {later : Bool} {y1 : Site} {p : Want × Option Got} (hy1 : y1.team.MemOk) : (x.takeLoad f later y1 p).team.MemOk := by
  unfold Site.takeLoad
  split
  · split
    · exact Site.memOk_wantPageFor (Site.memOk_putRecord hy1)
    · exact Site.memOk_putRecord hy1
  · split
    · exact Site.memOk_putWords hy1
    · exact Site.memOk_putRecord hy1
    · exact hy1

theorem State.memOk_issueLoad {s0 : State} {ws : List Want} {rest : Site → Site} (hs0 : s0.MemOk) (hs : s.MemOk) (hx : x.team.MemOk)
    (hrest : ∀ a, a.team.MemOk → (rest a).team.MemOk) : Out.MemOk (State.issueLoad s0 s x f ws sc rest) := by
  unfold State.issueLoad
  dsimp only
  split
  · exact State.memOk_stall hs0
  · split
    · exact State.memOk_stall hs0
    · split
      · exact State.memOk_pageFault hs hx
      · split
        · exact State.memOk_trap hs hx
        · split
          · exact State.memOk_stall hs0
          · refine State.memOk_done ?_ ?_
            · split
              · refine (State.memOk_acquireAt (State.memOk_countHits (State.memOk_loadEach (State.memOk_chosen hs) hx)) ?_).1
                refine hrest _ ?_
                split
                · exact List.foldlRecOn (motive := fun x : Site => x.team.MemOk) _ _ hx fun _ hs1 _ _ => Site.memOk_takeLoad hs1
                · exact List.foldlRecOn (motive := fun x : Site => x.team.MemOk) _ _ hx fun _ hs1 _ _ => Site.memOk_takeLoad hs1
              · exact State.memOk_countHits (State.memOk_loadEach (State.memOk_chosen hs) hx)
            · split
              · refine (State.memOk_acquireAt (State.memOk_countHits (State.memOk_loadEach (State.memOk_chosen hs) hx)) ?_).2
                refine hrest _ ?_
                split
                · exact List.foldlRecOn (motive := fun x : Site => x.team.MemOk) _ _ hx fun _ hs1 _ _ => Site.memOk_takeLoad hs1
                · exact List.foldlRecOn (motive := fun x : Site => x.team.MemOk) _ _ hx fun _ hs1 _ _ => Site.memOk_takeLoad hs1
              · refine hrest _ ?_
                split
                · exact List.foldlRecOn (motive := fun x : Site => x.team.MemOk) _ _ hx fun _ hs1 _ _ => Site.memOk_takeLoad hs1
                · exact List.foldlRecOn (motive := fun x : Site => x.team.MemOk) _ _ hx fun _ hs1 _ _ => Site.memOk_takeLoad hs1

theorem memOk_ldQ (hs : s.MemOk) : Out.MemOk (ldQ e s) := by
  unfold ldQ
  dsimp only
  refine memOk_issue hs fun _ _ _ hs1 hx => ?_
  split
  · refine Out.memOk_ite (State.memOk_trap hs1 hx) ?_
    split
    · exact State.memOk_trap hs1 hx
    · exact hs
  · split
    · exact State.memOk_trap hs1 hx
    · exact State.memOk_issueLoad hs hs1 hx fun _ ha => ha

theorem memOk_ldPlain (hs : s.MemOk) : Out.MemOk (ldPlain e s) := by
  unfold ldPlain
  refine memOk_issue hs fun _ _ _ hs1 hx => ?_
  split
  · exact State.memOk_trap hs1 hx
  · exact Out.memOk_ite (State.memOk_trap hs1 hx) (State.memOk_issueLoad hs hs1 hx fun _ ha => ha)

theorem memOk_opLd (hs : s.MemOk) : Out.MemOk (opLd e s) := Out.memOk_ite (memOk_ldQ hs) (memOk_ldPlain hs)

theorem memOk_opLdx (hs : s.MemOk) : Out.MemOk (opLdx e s) := by
  unfold opLdx
  dsimp only
  refine memOk_issue hs fun _ x _ hs1 hx => ?_
  split
  · exact State.memOk_trap hs1 hx
  · exact State.memOk_issueLoad hs hs1 hx fun _ hy1 => List.foldlRecOn (motive := fun x : Site => x.team.MemOk) _ _ hy1
      fun _ hy2 _ _ => Site.memOk_setVal hy2

theorem State.memOk_performStore {p : Put} {home : Bool} {form : AccForm} (hs : s.MemOk) (hx : x.team.MemOk) :
    (s.performStore x p home form).1.MemOk ∧ (s.performStore x p home form).2.team.MemOk := by
  unfold State.performStore
  dsimp only
  split
  · exact ⟨hs, hx⟩
  · split
    · exact ⟨hs, hx⟩
    · split
      · exact State.memOk_storePage hs hx
      · split
        · exact State.memOk_storePage hs hx
        · exact List.foldlRecOn (motive := fun z : State × Site => z.1.MemOk ∧ z.2.team.MemOk) _ _ ⟨hs, hx⟩
            fun _ hs1 _ _ => State.memOk_storePage hs1.1 hs1.2
  · exact ⟨hs, Site.memOk_writeLocal hx⟩

theorem Site.memOk_deferOwn {c : Byte} {fib : Nat} (hx : x.team.MemOk) : (x.deferOwn s c fib info).team.MemOk := Team.memOk_defer hx

theorem State.memOk_askMeet {b : Meets} (hs : s.MemOk) : (s.askMeet b).MemOk := by
  unfold State.askMeet
  split
  · exact State.memOk_askOutside hs
  · exact hs

theorem State.memOk_sortMeets {s0 : State} {ms : List (Nat × Nat × Meets)} {go : Unit → Out} (hs0 : s0.MemOk) (hs : s.MemOk) (hx : x.team.MemOk)
    (hgo : ∀ a, Out.MemOk (go a)) : Out.MemOk (State.sortMeets s0 s x is ms go) := by
  unfold State.sortMeets
  refine Out.memOk_ite (State.memOk_stall hs0) ?_
  refine Out.memOk_ite (State.memOk_stall (List.foldlRecOn (motive := fun s : State => s.MemOk) _ _ hs0 fun _ hs1 _ _ => State.memOk_askMeet hs1)) ?_
  refine Out.memOk_ite (State.memOk_put hs (List.foldlRecOn (motive := fun x : Site => x.team.MemOk) _ _ hx
    fun _ hx1 _ _ => Site.memOk_wantPage hx1)) ?_
  split
  · refine State.memOk_trap hs ?_
    split
    · exact Site.memOk_forgetPage hx
    · exact hx
  · exact hgo _

theorem State.memOk_releaseThen {s0 : State} {go : State → Site → Out} (hs0 : s0.MemOk) (hs : s.MemOk) (hx : x.team.MemOk)
    (hgo : ∀ a b, a.MemOk → b.team.MemOk → Out.MemOk (go a b)) : Out.MemOk (State.releaseThen s0 s x sc go) := by
  unfold State.releaseThen
  split
  · exact hs0
  · rename_i x0 h
    have hx0 := Option.of_all h (State.memOk_here hs0)
    exact Out.memOk_ite (State.memOk_wait hs0 hx0) (Out.memOk_ite (State.memOk_wait (State.memOk_askOutside hs0) hx0) (Out.memOk_ite
      (State.memOk_wait ((State.memOk_releaseAt hs0 hx0).1) ((State.memOk_releaseAt hs0 hx0).2)) (hgo _ _ ((State.memOk_releaseAt hs hx).1)
        ((State.memOk_releaseAt hs hx).2))))

theorem State.memOk_issueStore {s0 : State} {form : AccForm} {rel : Option Scope} {vol : Bool} {ps : List Put} (hs0 : s0.MemOk) (hs : s.MemOk)
    (hx : x.team.MemOk) : Out.MemOk (State.issueStore s0 s x is form rel vol ps) := by
  unfold State.issueStore
  refine Out.memOk_ite (State.memOk_stall hs0) ?_
  refine State.memOk_sortMeets hs0 hs hx fun _ => ?_
  split
  · refine State.memOk_done ?_ ?_
    · refine (List.foldlRecOn (motive := fun z : State × Site => z.1.MemOk ∧ z.2.team.MemOk) _ _ ⟨hs, hx⟩ fun _ hs1 _ _ => ?_).1
      dsimp only
      split
      · exact State.memOk_performStore hs1.1 hs1.2
      · exact ⟨hs1.1, Site.memOk_deferOwn hs1.2⟩
      · exact hs1
    · refine (List.foldlRecOn (motive := fun z : State × Site => z.1.MemOk ∧ z.2.team.MemOk) _ _ ⟨hs, hx⟩ fun _ hs1 _ _ => ?_).2
      dsimp only
      split
      · exact State.memOk_performStore hs1.1 hs1.2
      · exact ⟨hs1.1, Site.memOk_deferOwn hs1.2⟩
      · exact hs1
  · refine State.memOk_releaseThen hs0 hs hx fun _ _ hs1 hx1 => ?_
    refine State.memOk_done ?_ ?_
    · refine (State.memOk_releaseAt ?_ ?_).1
      · refine (List.foldlRecOn (motive := fun z : State × Site => z.1.MemOk ∧ z.2.team.MemOk) _ _ ⟨hs1, hx1⟩ fun _ hs2 _ _ => ?_).1
        dsimp only
        split
        · exact State.memOk_performStore hs2.1 hs2.2
        · exact ⟨hs2.1, Site.memOk_deferOwn hs2.2⟩
        · exact hs2
      · refine (List.foldlRecOn (motive := fun z : State × Site => z.1.MemOk ∧ z.2.team.MemOk) _ _ ⟨hs1, hx1⟩ fun _ hs2 _ _ => ?_).2
        dsimp only
        split
        · exact State.memOk_performStore hs2.1 hs2.2
        · exact ⟨hs2.1, Site.memOk_deferOwn hs2.2⟩
        · exact hs2
    · refine (State.memOk_releaseAt ?_ ?_).2
      · refine (List.foldlRecOn (motive := fun z : State × Site => z.1.MemOk ∧ z.2.team.MemOk) _ _ ⟨hs1, hx1⟩ fun _ hs2 _ _ => ?_).1
        dsimp only
        split
        · exact State.memOk_performStore hs2.1 hs2.2
        · exact ⟨hs2.1, Site.memOk_deferOwn hs2.2⟩
        · exact hs2
      · refine (List.foldlRecOn (motive := fun z : State × Site => z.1.MemOk ∧ z.2.team.MemOk) _ _ ⟨hs1, hx1⟩ fun _ hs2 _ _ => ?_).2
        dsimp only
        split
        · exact State.memOk_performStore hs2.1 hs2.2
        · exact ⟨hs2.1, Site.memOk_deferOwn hs2.2⟩
        · exact hs2

theorem memOk_opSt (hs : s.MemOk) : Out.MemOk (opSt e s) := by
  unfold opSt
  refine memOk_issue hs fun _ _ _ hs1 hx => ?_
  split
  · exact State.memOk_trap hs1 hx
  · exact State.memOk_issueStore hs hs1 hx

theorem memOk_opStx (hs : s.MemOk) : Out.MemOk (opStx e s) := by
  unfold opStx
  dsimp only
  refine memOk_issue hs fun _ _ _ hs1 hx => ?_
  split
  · exact State.memOk_trap hs1 hx
  · exact State.memOk_issueStore hs hs1 hx

theorem State.memOk_holdLine {lv : Level} (hs : s.MemOk) : (s.holdLine x h line lv).MemOk := by
  unfold State.holdLine
  refine State.memOk_ite hs ?_
  refine State.memOk_hold ?_
  split
  · exact hs
  · exact State.memOk_homeRead hs

theorem State.memOk_prefetch {fib : Nat} {ea : Nat} {m1 : Nat} (hs : s.MemOk) : (s.prefetch x fib ea m1).MemOk := by
  unfold State.prefetch
  split
  · split
    · exact hs
    · refine State.memOk_ite hs ?_
      split
      · exact State.memOk_ite (State.memOk_useHome hs) (State.memOk_ite hs (State.memOk_holdLine hs))
      · exact State.memOk_ite (State.memOk_useHome hs) (State.memOk_ite hs (State.memOk_holdLine hs))
  · exact hs

theorem memOk_opPref (hs : s.MemOk) : Out.MemOk (opPref e s) := by
  unfold opPref
  exact memOk_issueOn hs fun _ _ _ hs1 hx => State.memOk_done (List.foldlRecOn (motive := fun s : State => s.MemOk) _ _ hs1
    fun _ hs2 _ _ => State.memOk_prefetch hs2) hx

theorem State.memOk_flushLine {cls : PageClass} {inv : Bool} (hs : s.MemOk) : (s.flushLine x cls line inv).MemOk := by
  unfold State.flushLine
  split
  · exact State.memOk_ite (State.memOk_dropCopies (State.memOk_writeBackAll hs)) (State.memOk_writeBackAll hs)
  · exact State.memOk_ite (State.memOk_dropCopies hs) hs
  · exact hs

theorem State.memOk_flushRange {inv : Bool} {ls : List Nat} (hs : s.MemOk) : (s.flushRange x inv ls).MemOk := by
  unfold State.flushRange
  refine List.foldlRecOn (motive := fun s : State => s.MemOk) _ _ hs fun _ hs1 _ _ => ?_
  split
  · exact State.memOk_flushLine hs1
  · exact hs1

theorem memOk_flushOp {inv : Bool} (hs : s.MemOk) : Out.MemOk (flushOp e inv s) := by
  unfold flushOp
  dsimp only
  refine memOk_issue hs fun _ _ _ hs1 hx => ?_
  split
  · exact State.memOk_done hs1 hx
  · exact State.memOk_done hs1 hx
  · split
    · exact State.memOk_trap hs1 hx
    · exact State.memOk_done (State.memOk_flushRange hs1) hx
    · exact State.memOk_done hs1 hx

theorem memOk_opFlush (hs : s.MemOk) : Out.MemOk (opFlush e s) := memOk_flushOp hs

theorem memOk_opFlushInv (hs : s.MemOk) : Out.MemOk (opFlushInv e s) := memOk_flushOp hs

theorem State.memOk_rearm {gs : List Nat}
    (hs : s.MemOk) : (s.rearm gs).MemOk := (show (s.dropCopies fun c => decide (c.line ∈ gs)).MemOk from State.memOk_dropCopies hs)

theorem State.memOk_pgarmPages {c : List (List Nat)} (hs : s.MemOk) (hx : x.team.MemOk) : (s.pgarmPages x c).1.MemOk := by
  induction c generalizing s x with
  | nil =>
    rw [State.pgarmPages]
    exact hs
  | cons a r ih =>
    rw [State.pgarmPages]
    dsimp only
    split
    · exact hs
    · split
      · exact hs
      · split
        · exact hs
        · split
          · exact hs
          · split
            · exact ih (State.memOk_rearm hs) hx
            · exact State.memOk_askOutside hs

theorem memOk_opPgarm (hs : s.MemOk) : Out.MemOk (opPgarm e s) := by
  unfold opPgarm
  dsimp only
  refine memOk_issue hs fun _ _ _ hs1 hx => ?_
  split
  · exact State.memOk_trap hs1 hx
  · refine Out.memOk_ite (State.memOk_stall hs) ?_
    split
    · rename_i s2 h1
      have hv : (s2, none).1.MemOk := h1 ▸ State.memOk_pgarmPages hs1 hx
      exact State.memOk_done hv hx
    · rename_i s2 v v1 h1
      have hv : ((s2, some (v, Bad.translation v1))).1.MemOk := h1 ▸ State.memOk_pgarmPages hs1 hx
      exact State.memOk_pageFault hv hx
    · rename_i s2 v c h1
      have hv : ((s2, some (v, Bad.early c))).1.MemOk := h1 ▸ State.memOk_pgarmPages hs1 hx
      exact State.memOk_trap hv hx
    · rename_i s2 v c h1
      have hv : ((s2, some (v, Bad.late c))).1.MemOk := h1 ▸ State.memOk_pgarmPages hs1 hx
      exact State.memOk_trap hv hx
    · exact State.memOk_stall (State.memOk_pgarmPages hs hx)
  · exact State.memOk_trap hs1 hx

theorem memOk_passOn {xf : Site → Nat → Option Slot} {v : Site → Nat → Nat} (hs : s.MemOk) : Out.MemOk (passOn e us xf s v) := by
  unfold passOn
  refine memOk_issueWith hs fun _ _ _ ha hb => ?_
  refine memOk_regEffect (fun _ _ _ _ hy1 => ?_) ha hb
  split
  · exact Site.memOk_setSlot hy1
  · exact Site.memOk_dst hy1

theorem memOk_opAdd (hs : s.MemOk) : Out.MemOk (opAdd e s) := memOk_passOn hs

theorem memOk_opSub (hs : s.MemOk) : Out.MemOk (opSub e s) := memOk_passOn hs

theorem memOk_opMul (hs : s.MemOk) : Out.MemOk (opMul e s) := memOk_passOn hs

theorem memOk_opNeg (hs : s.MemOk) : Out.MemOk (opNeg e s) := memOk_passOn hs

theorem memOk_opAbs (hs : s.MemOk) : Out.MemOk (opAbs e s) := memOk_perFibre hs

theorem memOk_opMin (hs : s.MemOk) : Out.MemOk (opMin e s) := memOk_perFibre hs

theorem memOk_opMax (hs : s.MemOk) : Out.MemOk (opMax e s) := memOk_perFibre hs

theorem memOk_carryOp {f : Nat → Nat → Bool → Nat × Bool} (hs : s.MemOk) :
    Out.MemOk (carryOp e f s) := memOk_issue hs fun _ _ _ ha hb => memOk_regEffect (fun _ _ _ _ hy1 => Site.memOk_setGuard (Site.memOk_dst hy1)) ha hb

theorem memOk_opAddc (hs : s.MemOk) : Out.MemOk (opAddc e s) := memOk_carryOp hs

theorem memOk_opSubb (hs : s.MemOk) : Out.MemOk (opSubb e s) := memOk_carryOp hs

theorem memOk_opMulh (hs : s.MemOk) : Out.MemOk (opMulh e s) := memOk_perFibre hs

theorem memOk_opMad (hs : s.MemOk) : Out.MemOk (opMad e s) := memOk_perFibre hs

theorem memOk_opDiv (hs : s.MemOk) : Out.MemOk (opDiv e s) := memOk_perFibre hs

theorem memOk_opRem (hs : s.MemOk) : Out.MemOk (opRem e s) := memOk_perFibre hs

theorem memOk_opAnd (hs : s.MemOk) : Out.MemOk (opAnd e s) := memOk_perFibre hs

theorem memOk_opOr (hs : s.MemOk) : Out.MemOk (opOr e s) := memOk_perFibre hs

theorem memOk_opXor (hs : s.MemOk) : Out.MemOk (opXor e s) := memOk_perFibre hs

theorem memOk_opAndn (hs : s.MemOk) : Out.MemOk (opAndn e s) := memOk_perFibre hs

theorem memOk_opNot (hs : s.MemOk) : Out.MemOk (opNot e s) := memOk_perFibre hs

theorem memOk_opShl (hs : s.MemOk) : Out.MemOk (opShl e s) := memOk_passOn hs

theorem memOk_opShr (hs : s.MemOk) : Out.MemOk (opShr e s) := memOk_perFibre hs

theorem memOk_opSha (hs : s.MemOk) : Out.MemOk (opSha e s) := memOk_perFibre hs

theorem memOk_opRot (hs : s.MemOk) : Out.MemOk (opRot e s) := memOk_perFibre hs

theorem memOk_opBfx (hs : s.MemOk) : Out.MemOk (opBfx e s) := memOk_perFibre hs

theorem memOk_opBfi (hs : s.MemOk) : Out.MemOk (opBfi e s) := memOk_perFibre hs

theorem memOk_countOp {f : Nat → Nat → Nat} (hs : s.MemOk) : Out.MemOk (countOp e f s) := memOk_perFibre32 hs

theorem memOk_opPopc (hs : s.MemOk) : Out.MemOk (opPopc e s) := memOk_countOp hs

theorem memOk_opClz (hs : s.MemOk) : Out.MemOk (opClz e s) := memOk_countOp hs

theorem memOk_opCtz (hs : s.MemOk) : Out.MemOk (opCtz e s) := memOk_countOp hs

theorem memOk_opBrev (hs : s.MemOk) : Out.MemOk (opBrev e s) := memOk_perFibre hs

theorem memOk_opPerm (hs : s.MemOk) : Out.MemOk (opPerm e s) := memOk_perFibre hs

theorem Site.memOk_copyRegs {y1 : Site} {d : Nat} {a : Nat} {g : Nat} (hy1 : y1.team.MemOk) (hx : x.team.MemOk) :
    (Site.copyRegs y1 x i d a g).team.MemOk := by
  induction g generalizing y1 x i d a with
  | zero => exact hy1
  | succ n ih => exact Site.memOk_setSlot (ih hy1 hx)

end Sys2Proof.Machine
end

section
/-!
SUPPORT. The canonical form of memory in float instructions, in what arrives for loads, in atomics, reductions and fences: each of them keeps it.
-/

namespace Sys2Proof.Machine

variable {s : State} {x : Site} {e : Ext} {h : Hit} {u : UnitRef} {cl : ClusterRef} {line : Nat} {pa : Nat} {bs : List Byte} {sc : Scope}
  {f : Flight} {i : Nat} {us : List Use}

theorem memOk_opMov (hs : s.MemOk) :
    Out.MemOk (opMov e s) := memOk_issueWith hs fun _ _ _ ha hb => memOk_regEffect (fun _ _ _ hx hy1 => Site.memOk_copyRegs hy1 hx) ha hb

theorem memOk_opMovi (hs : s.MemOk) : Out.MemOk (opMovi e s) := memOk_perFibre hs

theorem memOk_opLit (hs : s.MemOk) : Out.MemOk (opLit e s) := memOk_perFibre hs

theorem memOk_opSel (hs : s.MemOk) :
    Out.MemOk (opSel e s) := memOk_issue hs fun _ _ _ ha hb => memOk_regEffect (fun _ _ _ _ hy1 => Site.memOk_dst hy1) ha hb

theorem memOk_opCmp (hs : s.MemOk) :
    Out.MemOk (opCmp e s) := memOk_issue hs fun _ _ _ ha hb => memOk_regEffect (fun _ _ _ _ hy1 => Site.memOk_setGuard hy1) ha hb

theorem memOk_opCmpv (hs : s.MemOk) : Out.MemOk (opCmpv e s) := memOk_perFibre32 hs

theorem memOk_opGop (hs : s.MemOk) :
    Out.MemOk (opGop e s) := memOk_issue hs fun _ _ _ ha hb => memOk_regEffect (fun _ _ _ _ hy1 => Site.memOk_setGuard hy1) ha hb

theorem Site.memOk_dst64 {y1 : Site} {v : Nat} (hy1 : y1.team.MemOk) : (Site.dst64 y1 i e v).team.MemOk := Site.memOk_setVal hy1

theorem memOk_opLea (hs : s.MemOk) :
    Out.MemOk (opLea e s) := memOk_issue hs fun _ _ _ ha hb => memOk_regEffect (fun _ _ _ _ hy1 => Site.memOk_dst64 hy1) ha hb

theorem memOk_opSptest (hs : s.MemOk) :
    Out.MemOk (opSptest e s) := memOk_issue hs fun _ _ _ ha hb => memOk_regEffect (fun _ _ _ _ hy1 => Site.memOk_dst32 hy1) ha hb

theorem memOk_opSpcastOfs (hs : s.MemOk) : Out.MemOk (opSpcastOfs e s) := by
  unfold opSpcastOfs
  refine memOk_issue hs fun _ _ _ hs1 hx => ?_
  split
  · exact State.memOk_trap hs1 hx
  · exact memOk_regEffect (fun _ _ _ _ hy1 => Site.memOk_dst64 hy1) hs1 hx

theorem memOk_opSpcastGen (hs : s.MemOk) :
    Out.MemOk (opSpcastGen e s) := memOk_issue hs fun _ _ _ ha hb => memOk_regEffect (fun _ _ _ _ hy1 => Site.memOk_dst64 hy1) ha hb

theorem Site.memOk_drawn {n : Nat} {y1 : Site} (hy1 : y1.team.MemOk) : (x.drawn e i n y1).team.MemOk := Site.memOk_ite (Site.memOk_setSeed hy1) hy1

theorem memOk_rounds {v : Site → Nat → Nat → Nat} (hs : s.MemOk) :
    Out.MemOk (rounds e us s v) := memOk_issue hs fun _ _ _ ha hb => memOk_regEffect (fun _ _ _ _ hy1 => Site.memOk_drawn
      (Site.memOk_dst32 hy1)) ha hb

theorem memOk_chainOp {op : ChainOp} {n : Nat} (hs : s.MemOk) : Out.MemOk (chainOp op n e us s) := by
  unfold chainOp
  refine memOk_issueWith hs fun _ _ _ ha hb => ?_
  refine memOk_regEffect (fun _ _ _ _ hy1 => ?_) ha hb
  split
  · exact Site.memOk_setSlot hy1
  · exact Site.memOk_drawn (Site.memOk_dst32 hy1)

theorem memOk_opFadd (hs : s.MemOk) : Out.MemOk (opFadd e s) := memOk_chainOp hs

theorem memOk_opFsub (hs : s.MemOk) : Out.MemOk (opFsub e s) := memOk_chainOp hs

theorem memOk_opFmul (hs : s.MemOk) : Out.MemOk (opFmul e s) := memOk_chainOp hs

theorem memOk_opFma (hs : s.MemOk) : Out.MemOk (opFma e s) := memOk_chainOp hs

theorem memOk_opFms (hs : s.MemOk) : Out.MemOk (opFms e s) := memOk_rounds hs

theorem memOk_opFnma (hs : s.MemOk) : Out.MemOk (opFnma e s) := memOk_rounds hs

theorem memOk_lanewise {f : Nat → Nat → Nat} (hs : s.MemOk) : Out.MemOk (lanewise e us s f) := memOk_perFibre32 hs

theorem memOk_opFmin (hs : s.MemOk) : Out.MemOk (opFmin e s) := memOk_lanewise hs

theorem memOk_opFmax (hs : s.MemOk) : Out.MemOk (opFmax e s) := memOk_lanewise hs

theorem memOk_opFabs (hs : s.MemOk) : Out.MemOk (opFabs e s) := memOk_lanewise hs

theorem memOk_opFneg (hs : s.MemOk) : Out.MemOk (opFneg e s) := memOk_lanewise hs

theorem memOk_opFcpys (hs : s.MemOk) : Out.MemOk (opFcpys e s) := memOk_lanewise hs

theorem memOk_opFcmp (hs : s.MemOk) :
    Out.MemOk (opFcmp e s) := memOk_issue hs fun _ _ _ ha hb => memOk_regEffect (fun _ _ _ _ hy1 => Site.memOk_setGuard hy1) ha hb

theorem memOk_opFclass (hs : s.MemOk) : Out.MemOk (opFclass e s) := memOk_perFibre32 hs

theorem memOk_unaryCut {f : Fp → Cut} (hs : s.MemOk) : Out.MemOk (unaryCut e s f) := memOk_rounds hs

theorem memOk_opFrcp (hs : s.MemOk) : Out.MemOk (opFrcp e s) := memOk_unaryCut hs

theorem memOk_opFrsq (hs : s.MemOk) : Out.MemOk (opFrsq e s) := memOk_unaryCut hs

theorem memOk_opFsqrt (hs : s.MemOk) : Out.MemOk (opFsqrt e s) := memOk_unaryCut hs

theorem memOk_opFdiv (hs : s.MemOk) : Out.MemOk (opFdiv e s) := memOk_rounds hs

theorem memOk_funcOp {f : FFmt → Nat → Nat → Fp → Nat} (hs : s.MemOk) : Out.MemOk (funcOp e s f) := memOk_rounds hs

theorem memOk_opFexp2 (hs : s.MemOk) : Out.MemOk (opFexp2 e s) := memOk_funcOp hs

theorem memOk_opFlog2 (hs : s.MemOk) : Out.MemOk (opFlog2 e s) := memOk_funcOp hs

theorem memOk_opFsin (hs : s.MemOk) : Out.MemOk (opFsin e s) := memOk_funcOp hs

theorem memOk_opFcos (hs : s.MemOk) : Out.MemOk (opFcos e s) := memOk_funcOp hs

theorem memOk_opFtanh (hs : s.MemOk) : Out.MemOk (opFtanh e s) := memOk_funcOp hs

theorem memOk_opFrnd (hs : s.MemOk) : Out.MemOk (opFrnd e s) := memOk_rounds hs

theorem memOk_opFscale (hs : s.MemOk) : Out.MemOk (opFscale e s) := memOk_rounds hs

theorem Site.memOk_resolve {d : Deliv} (hx : x.team.MemOk) :
    (x.resolve f i d).team.MemOk := Site.memOk_ite (Site.memOk_updFibre hx) (Site.memOk_updFibre hx)

theorem Site.memOk_before (hx : x.team.MemOk) : (x.before f).team.MemOk := hx

theorem State.memOk_deliverLoad {el : FlightElem} (hs : s.MemOk) (hx : x.team.MemOk) : (s.deliverLoad x f el).2.2.MemOk := by
  unfold State.deliverLoad
  split
  · rename_i v s1 h
    have hv : (Got.value v, s1).2.MemOk := h ▸ State.memOk_performLoad hs (Site.memOk_before hx)
    exact hv
  · rename_i c s1 h
    have hv : (Got.fault c, s1).2.MemOk := h ▸ State.memOk_performLoad hs (Site.memOk_before hx)
    exact hv
  · rename_i va s1 h
    have hv : (Got.page va, s1).2.MemOk := h ▸ State.memOk_performLoad hs (Site.memOk_before hx)
    exact hv
  · rename_i s1 h
    have hv : (Got.hold, s1).2.MemOk := h ▸ State.memOk_performLoad hs (Site.memOk_before hx)
    exact hv
  · rename_i s1 h
    have hv : (Got.order, s1).2.MemOk := h ▸ State.memOk_performLoad hs (Site.memOk_before hx)
    exact hv

theorem State.memOk_deliverElem {el : FlightElem} (hs : s.MemOk) (hx : x.team.MemOk) : (s.deliverElem x f el).2.2.MemOk := by
  unfold State.deliverElem
  split
  · exact hs
  · exact hs
  · exact hs
  · exact State.memOk_deliverLoad hs hx
  · split
    · exact hs
    · exact hs
    · exact State.memOk_deliverLoad (State.memOk_seeTarget hs) hx

theorem State.memOk_deliverEach {d : List FlightElem} (hs : s.MemOk) (hx : x.team.MemOk) :
    (s.deliverEach x f d).1.MemOk ∧ (s.deliverEach x f d).2.1.team.MemOk := by
  induction d generalizing s x f with
  | nil => exact ⟨hs, hx⟩
  | cons a r ih =>
    rw [State.deliverEach]
    split
    · rename_i d1 pg s1 h
      have hv : (some d1, pg, s1).2.2.MemOk := h ▸ State.memOk_deliverElem hs hx
      refine ih hv ?_
      refine Site.memOk_resolve ?_
      split
      · exact Site.memOk_forgetPageFor hx
      · exact hx
    · rename_i pg s1 h
      have hv : (none, pg, s1).2.2.MemOk := h ▸ State.memOk_deliverElem hs hx
      refine ⟨?_, ?_⟩
      · refine (ih hv ?_).1
        split
        · exact Site.memOk_wantPageFor hx
        · exact hx
      · refine (ih hv ?_).2
        split
        · exact Site.memOk_wantPageFor hx
        · exact hx

theorem State.memOk_countLate {s0 : State} {els : List FlightElem} (hs : s.MemOk) : (State.countLate s0 x f els s).1.MemOk := State.memOk_countHits hs

theorem State.memOk_acquireIf {c : Prop} [Decidable c] (hs : s.MemOk) (hx : x.team.MemOk) :
    (if c then s.acquireAt x sc else (s, x)).1.MemOk ∧ (if c then s.acquireAt x sc else (s, x)).2.team.MemOk := by
  split
  · exact State.memOk_acquireAt hs hx
  · exact ⟨hs, hx⟩

theorem State.memOk_arrive {tag : BitVec 6} (hs : s.MemOk) : (s.arrive u tag).MemOk := by
  unfold State.arrive
  split
  · exact hs
  · rename_i x h
    have hx := Option.of_all h (State.memOk_site? hs)
    split
    · exact hs
    · rename_i f _
      obtain ⟨hd, hy⟩ := State.memOk_deliverEach (f := f) (d := f.elems) hs hx
      dsimp only
      exact State.memOk_put (State.memOk_acquireIf (State.memOk_countLate hd) (by exact hy)).1 (State.memOk_acquireIf (State.memOk_countLate hd)
        (by exact hy)).2

theorem Site.memOk_updSq {f : List LayerByte → List LayerByte} (hx : x.team.MemOk) : (x.updSq f).team.MemOk := Site.memOk_ite hx hx

theorem Site.memOk_updTm {f : List LayerByte → List LayerByte} (hx : x.team.MemOk) : (x.updTm f).team.MemOk := hx

theorem State.memOk_cacheFollow (hs : s.MemOk) : (s.cacheFollow x pa bs).MemOk := State.memOk_mapTeams hs fun _ ht => Team.memOk_ite ht ht

theorem State.memOk_phaseAtomic {f : AtPlace} (hs : s.MemOk) (hx : x.team.MemOk) :
    (s.phaseAtomic x pa bs f).1.MemOk ∧ (s.phaseAtomic x pa bs f).2.team.MemOk := by
  unfold State.phaseAtomic
  split
  · exact ⟨hs, Site.memOk_updSq hx⟩
  · exact ⟨State.memOk_cacheFollow hs, Site.memOk_updTm (Site.memOk_passed hx)⟩
  · exact State.memOk_phaseHome hs hx

theorem State.memOk_rmw {n : Nat} {f : Nat → Option Nat} (hs : s.MemOk) (hx : x.team.MemOk) :
    (s.rmw x h pa n sc f).2.1.MemOk ∧ (s.rmw x h pa n sc f).2.2.team.MemOk := by
  unfold State.rmw
  dsimp only
  split
  · split
    · refine ⟨?_, hx⟩
      refine State.memOk_storePriv ?_
      split
      · exact hs
      · exact State.memOk_homeRead hs
    · refine ⟨?_, hx⟩
      split
      · exact hs
      · exact State.memOk_homeRead hs
  · split
    · exact ⟨(State.memOk_phaseAtomic (State.memOk_renew (State.memOk_homeRead (State.memOk_useHome hs))) hx).1, (State.memOk_phaseAtomic
        (State.memOk_renew (State.memOk_homeRead (State.memOk_useHome hs))) hx).2⟩
    · exact ⟨State.memOk_renew (State.memOk_homeRead (State.memOk_useHome hs)), hx⟩
  · split
    · exact ⟨State.memOk_seqWrite (State.memOk_dropCopies (State.memOk_seqRead (State.memOk_ite hs (State.memOk_useHome hs)))), hx⟩
    · exact ⟨State.memOk_seqRead (State.memOk_ite hs (State.memOk_useHome hs)), hx⟩

theorem State.memOk_rmwAt {form : AccForm} {fib : Nat} {ea : Nat} {n : Nat} {f : Nat → Option Nat} (hs : s.MemOk) (hx : x.team.MemOk) :
    (s.rmwAt x form fib ea n sc f).2.1.MemOk ∧ (s.rmwAt x form fib ea n sc f).2.2.team.MemOk := by
  unfold State.rmwAt
  dsimp only
  split
  · exact ⟨hs, hx⟩
  · split
    · exact ⟨hs, hx⟩
    · exact State.memOk_rmw hs hx
  · split
    · exact ⟨hs, Site.memOk_writeLocal hx⟩
    · exact ⟨hs, hx⟩

theorem State.memOk_eachAtomic {form : AccForm} {n : Nat} {f : Nat → Nat → Option Nat} {k : List (Nat × Nat)} (hs : s.MemOk) (hx : x.team.MemOk) :
    (s.eachAtomic x form n sc f k).2.1.MemOk ∧ (s.eachAtomic x form n sc f k).2.2.team.MemOk := by
  induction k generalizing s x form n sc f with
  | nil => exact ⟨hs, hx⟩
  | cons a r ih =>
    rw [State.eachAtomic]
    refine ⟨?_, ?_⟩
    · refine (ih ?_ ?_).1
      · split
        · exact (State.memOk_rmwAt hs hx).1
        · exact hs
        · exact hs
      · split
        · exact (State.memOk_rmwAt hs hx).2
        · exact hx
        · exact hx
    · refine (ih ?_ ?_).2
      · split
        · exact (State.memOk_rmwAt hs hx).1
        · exact hs
        · exact hs
      · split
        · exact (State.memOk_rmwAt hs hx).2
        · exact hx
        · exact hx

theorem State.memOk_giveOld {acq : Bool} {gs : List (Nat × Nat × AtGot)} (hs : s.MemOk) (hx : x.team.MemOk) :
    ∀ y, (s.giveOld x e acq gs) = some y → y.1.MemOk ∧ y.2.team.MemOk := by
  unfold State.giveOld
  dsimp only
  split
  · exact Option.all_map fun _ _ => ⟨State.memOk_chosen hs, List.foldlRecOn (motive := fun x : Site => x.team.MemOk) _ _ hx
      fun _ hy1 _ _ => Site.memOk_putRecord hy1⟩
  · refine Option.all_some ?_
    refine ⟨State.memOk_chosen hs, ?_⟩
    refine List.foldlRecOn (motive := fun x : Site => x.team.MemOk) _ _ hx fun _ hy1 _ _ => ?_
    split
    · exact Site.memOk_putWords hy1
    · exact Site.memOk_putRecord hy1

theorem memOk_atomicOp {returns : Bool} {f : Site → Nat → Nat → Option Nat} (hs : s.MemOk) : Out.MemOk (atomicOp e us returns f s) := by
  unfold atomicOp
  dsimp only
  refine memOk_issue hs fun _ x _ hs1 hx => ?_
  split
  · exact State.memOk_trap hs1 hx
  · refine Out.memOk_ite (State.memOk_stall hs) ?_
    refine State.memOk_sortMeets hs hs1 hx fun _ => ?_
    split
    · exact State.memOk_trap hs1 hx
    · refine Out.memOk_ite ?_ ?_
      · refine State.memOk_releaseThen hs hs1 hx fun _ _ hs2 hy1 => ?_
        refine Out.memOk_ite ?_ ?_
        · split
          · rename_i s4 z h2
            have hv := Option.of_all h2 (State.memOk_giveOld ((State.memOk_eachAtomic hs2 hy1).1) ((State.memOk_eachAtomic hs2 hy1).2))
            refine State.memOk_done ?_ ?_
            · split
              · exact (State.memOk_acquireAt hv.1 hv.2).1
              · exact hv.1
            · split
              · exact (State.memOk_acquireAt hv.1 hv.2).2
              · exact hv.2
          · exact State.memOk_stall hs
        · refine State.memOk_done ?_ ?_
          · split
            · refine (State.memOk_acquireAt ((State.memOk_eachAtomic hs2 hy1).1) ?_).1
              refine List.foldlRecOn (motive := fun x : Site => x.team.MemOk) _ _ ((State.memOk_eachAtomic hs2 hy1).2) fun _ hz _ _ => ?_
              split
              · exact hz
              · exact Site.memOk_deferOwn hz
            · exact (State.memOk_eachAtomic hs2 hy1).1
          · split
            · refine (State.memOk_acquireAt ((State.memOk_eachAtomic hs2 hy1).1) ?_).2
              refine List.foldlRecOn (motive := fun x : Site => x.team.MemOk) _ _ ((State.memOk_eachAtomic hs2 hy1).2) fun _ hz _ _ => ?_
              split
              · exact hz
              · exact Site.memOk_deferOwn hz
            · refine List.foldlRecOn (motive := fun x : Site => x.team.MemOk) _ _ ((State.memOk_eachAtomic hs2 hy1).2) fun _ hz _ _ => ?_
              split
              · exact hz
              · exact Site.memOk_deferOwn hz
      · refine Out.memOk_ite ?_ ?_
        · split
          · rename_i s4 z h2
            have hv := Option.of_all h2 (State.memOk_giveOld ((State.memOk_eachAtomic hs1 hx).1) ((State.memOk_eachAtomic hs1 hx).2))
            refine State.memOk_done ?_ ?_
            · split
              · exact (State.memOk_acquireAt hv.1 hv.2).1
              · exact hv.1
            · split
              · exact (State.memOk_acquireAt hv.1 hv.2).2
              · exact hv.2
          · exact State.memOk_stall hs
        · refine State.memOk_done ?_ ?_
          · split
            · refine (State.memOk_acquireAt ((State.memOk_eachAtomic hs1 hx).1) ?_).1
              refine List.foldlRecOn (motive := fun x : Site => x.team.MemOk) _ _ ((State.memOk_eachAtomic hs1 hx).2) fun _ hz _ _ => ?_
              split
              · exact hz
              · exact Site.memOk_deferOwn hz
            · exact (State.memOk_eachAtomic hs1 hx).1
          · split
            · refine (State.memOk_acquireAt ((State.memOk_eachAtomic hs1 hx).1) ?_).2
              refine List.foldlRecOn (motive := fun x : Site => x.team.MemOk) _ _ ((State.memOk_eachAtomic hs1 hx).2) fun _ hz _ _ => ?_
              split
              · exact hz
              · exact Site.memOk_deferOwn hz
            · refine List.foldlRecOn (motive := fun x : Site => x.team.MemOk) _ _ ((State.memOk_eachAtomic hs1 hx).2) fun _ hz _ _ => ?_
              split
              · exact hz
              · exact Site.memOk_deferOwn hz

theorem memOk_opAmo (hs : s.MemOk) : Out.MemOk (opAmo e s) := memOk_atomicOp hs

theorem memOk_opCas (hs : s.MemOk) : Out.MemOk (opCas e s) := memOk_atomicOp hs

theorem State.memOk_returnU (hs : s.MemOk) : (s.returnU cl line).MemOk := ⟨wf_applyU _ _ hs.1, hs.2⟩

theorem State.memOk_putU {op : Nat} {ty : Ty} {c : Contrib} (hs : s.MemOk) :
    (s.putU cl op ty c).MemOk := State.memOk_ite hs (State.memOk_track (State.memOk_ite (State.memOk_ite (State.memOk_returnU hs) hs)
      (State.memOk_returnU (State.memOk_ite (State.memOk_returnU hs) hs))))

theorem State.memOk_redAt {form : AccForm} {op : Nat} {ty : Ty} {ea : Nat} {v : Nat} (hs : s.MemOk) (hx : x.team.MemOk) :
    (s.redAt x form sc op ty i ea v).1.MemOk ∧ (s.redAt x form sc op ty i ea v).2.team.MemOk := ⟨(State.memOk_rmwAt hs hx).1,
      (State.memOk_rmwAt hs hx).2⟩

theorem State.memOk_redNear {op : Nat} {ty : Ty} {c : Contrib} (hs : s.MemOk) (hx : x.team.MemOk) :
    (s.redNear x op ty c).1.MemOk ∧ (s.redNear x op ty c).2.team.MemOk := by
  unfold State.redNear
  dsimp only
  split
  · exact ⟨hs, hx⟩
  · exact ⟨State.memOk_ite (State.memOk_homeRead hs) (State.memOk_setWide (State.memOk_setWide (State.memOk_homeRead hs))), Site.memOk_updTm
      (Site.memOk_updSq hx)⟩

theorem State.memOk_sendU {op : Nat} {ty : Ty} {c : Contrib} (hs : s.MemOk) (hx : x.team.MemOk) :
    (s.sendU x sc op ty c).1.MemOk ∧ (s.sendU x sc op ty c).2.team.MemOk := by
  unfold State.sendU
  dsimp only
  split
  · exact ⟨State.memOk_putU (State.memOk_dropCopies (State.memOk_overtake ((State.memOk_redNear hs hx).1))), (State.memOk_redNear hs hx).2⟩
  · exact ⟨State.memOk_homeWrite (State.memOk_homeRead (State.memOk_dropCopies (State.memOk_overtake ((State.memOk_redNear hs hx).1)))),
      (State.memOk_redNear hs hx).2⟩

theorem State.memOk_eachRed {form : AccForm} {as : List (Nat × Nat × Nat)} (hs : s.MemOk) (hx : x.team.MemOk) :
    (s.eachRed x e form sc as).1.MemOk ∧ (s.eachRed x e form sc as).2.team.MemOk := List.foldlRecOn (motive :=
      fun z : State × Site => z.1.MemOk ∧ z.2.team.MemOk) _ _ ⟨(List.foldlRecOn (motive :=
        fun z : State × Site => z.1.MemOk ∧ z.2.team.MemOk) _ _ ⟨hs, hx⟩ fun _ hs1 _ _ => State.memOk_sendU hs1.1 hs1.2).1, (List.foldlRecOn
          (motive := fun z : State × Site => z.1.MemOk ∧ z.2.team.MemOk) _ _ ⟨hs, hx⟩ fun _ hs1 _ _ => State.memOk_sendU hs1.1 hs1.2).2⟩
            fun _ hs1 _ _ => State.memOk_redAt hs1.1 hs1.2

theorem memOk_opRed (hs : s.MemOk) : Out.MemOk (opRed e s) := by
  unfold opRed
  dsimp only
  refine memOk_issue hs fun _ x _ hs1 hx => ?_
  split
  · exact State.memOk_trap hs1 hx
  · refine Out.memOk_ite (State.memOk_stall hs) ?_
    refine State.memOk_sortMeets hs hs1 hx fun _ => ?_
    refine State.memOk_done ((State.memOk_eachRed hs1 hx).1) ?_
    refine List.foldlRecOn (motive := fun x : Site => x.team.MemOk) _ _ ((State.memOk_eachRed hs1 hx).2) fun _ hy1 _ _ => ?_
    split
    · exact Site.memOk_deferOwn hy1
    · exact hy1

theorem memOk_orderOp {rel : Bool} {acq : Bool} {waits : Bool} (hs : s.MemOk) : Out.MemOk (orderOp e rel acq waits s) := by
  unfold orderOp
  dsimp only
  refine memOk_issue hs fun _ _ _ hs1 hx => ?_
  refine Out.memOk_ite (State.memOk_stall hs) ?_
  refine Out.memOk_ite ?_ ?_
  · refine State.memOk_releaseThen hs hs1 hx fun _ _ hs2 hx1 => ?_
    refine State.memOk_done ?_ ?_
    · split
      · exact (State.memOk_acquireAt hs2 hx1).1
      · exact hs2
    · split
      · exact (State.memOk_acquireAt hs2 hx1).2
      · exact hx1
  · refine State.memOk_done ?_ ?_
    · split
      · exact (State.memOk_acquireAt hs1 hx).1
      · exact hs1
    · split
      · exact (State.memOk_acquireAt hs1 hx).2
      · exact hx

theorem memOk_opFence (hs : s.MemOk) : Out.MemOk (opFence e s) := memOk_orderOp hs

theorem memOk_opPhase (hs : s.MemOk) : Out.MemOk (opPhase e s) := memOk_orderOp hs

theorem memOk_opWdrain (hs : s.MemOk) : Out.MemOk (opWdrain e s) := memOk_issue hs fun _ _ _ hs1 hx => Out.memOk_ite (State.memOk_stall hs)
    (State.memOk_done hs1 hx)

theorem memOk_opBtnSync (hs : s.MemOk) : Out.MemOk (opBtnSync e s) := Out.memOk_ite (memOk_issueOn hs fun _ _ _ hs1 hx => State.memOk_done hs1 hx)
    (memOk_issue hs fun _ _ _ hs1 hx => State.memOk_done hs1 hx)

theorem memOk_opBtnTest (hs : s.MemOk) :
    Out.MemOk (opBtnTest e s) := memOk_issue hs fun _ _ _ ha hb => memOk_regEffect (fun _ _ _ _ hy1 => Site.memOk_setGuard hy1) ha hb

end Sys2Proof.Machine
end

section
/-!
SUPPORT. The canonical form of memory in barriers, FIFOs, trigger counters, bank switches and copies: each of them keeps it.
-/

namespace Sys2Proof.Machine

variable {s : State} {x : Site} {t : Team} {is : List Nat} {e : Ext} {h : Hit} {cl : ClusterRef} {pa : Nat} {bs : List Byte} {team : Nat}
  {ctx : Nat} {va : Nat} {tlb : TlbId} {i : Nat} {d : DriverCommand} {cs : Byte} {info : DWord} {us : List Use}

theorem State.memOk_readRecord {fib : Nat} (hs : s.MemOk) (hx : x.team.MemOk) : (s.readRecord x fib va).2.MemOk := by
  unfold State.readRecord
  dsimp only
  split
  · exact hs
  · split
    · exact hs
    · split
      · exact hs
      · split
        · exact State.memOk_loadPage hs hx
        · exact State.memOk_loadPage hs hx

theorem State.memOk_recordFault {s0 : State} {a : Nat} {g : Bad} (hs0 : s0.MemOk) (hs : s.MemOk) (hx : x.team.MemOk) :
    Out.MemOk (State.recordFault s0 s x is a g) := by
  unfold State.recordFault
  split
  · exact State.memOk_stall hs0
  · exact State.memOk_pageFault hs hx
  · exact State.memOk_trap hs hx
  · exact State.memOk_trap hs hx

theorem State.memOk_engRead {n : Nat} (hs : s.MemOk) (hx : x.team.MemOk) : (s.engRead x tlb va n).2.MemOk := by
  unfold State.engRead
  dsimp only
  split
  · exact hs
  · split
    · exact hs
    · split
      · exact hs
      · split
        · exact hs
        · split
          · exact State.memOk_look hs hx
          · exact State.memOk_look hs hx

theorem Team.memOk_dropLayers {pas : List Nat} (ht : t.MemOk) : (t.dropLayers pas).MemOk := ht

theorem State.memOk_engPut {offers : List Offer} {whole : Option Nat} (hs : s.MemOk) : (s.engPut x h offers pa bs whole).MemOk := by
  unfold State.engPut
  split
  · exact State.memOk_seqWrite (State.memOk_dropCopies hs)
  · exact State.memOk_updTeam (State.memOk_passWide (State.memOk_renew (State.memOk_homeWrite (State.memOk_overtake hs))))
      fun _ ht => Team.memOk_dropLayers ht
  · exact State.memOk_setGranules (State.memOk_homeWrite (State.memOk_keepOld hs))
  · exact State.memOk_homeWrite hs

theorem State.memOk_engWrite {own : List Nat} {offers : List Offer} (hs : s.MemOk) :
    ∀ y, (s.engWrite x tlb va bs own offers) = .ok y → y.s.MemOk := by
  unfold State.engWrite
  dsimp only
  split
  · exact Except.all_error
  · split
    · exact Except.all_error
    · split
      · exact Except.all_error
      · split
        · exact Except.all_error
        · exact Except.all_ok (List.foldlRecOn (motive := fun s : State => s.MemOk) _ _ hs fun _ hs1 _ _ => State.memOk_engPut hs1)

theorem State.memOk_engAsk {n : Nat} (hs : s.MemOk) : (s.engAsk x tlb va n).MemOk := by
  unfold State.engAsk
  split
  · exact hs
  · exact State.memOk_askOutside hs

theorem State.memOk_engElem {base : Nat} {j : Nat} (hs : s.MemOk) (hx : x.team.MemOk) : (s.engElem x tlb base j).2.MemOk := by
  unfold State.engElem
  split
  · exact hs
  · split
    · exact hs
    · split
      · rename_i c s1 h1
        have hv : (Except.error c, s1).2.MemOk := h1 ▸ State.memOk_readChunk hs hx
        exact hv
      · rename_i bs s1 h1
        have hv : (Except.ok bs, s1).2.MemOk := h1 ▸ State.memOk_readChunk hs hx
        exact hv

theorem Team.memOk_wake {obj : Nat} {p : Bool → Bool} (ht : t.MemOk) : (t.wake obj p).MemOk := ht

theorem Site.memOk_wake {obj : Nat} {p : Bool → Bool} (hx : x.team.MemOk) : (x.wake obj p).team.MemOk := Team.memOk_wake hx

theorem Site.memOk_putBarrier {obj : Nat} {l : Loc} {b : Barrier} (hx : x.team.MemOk) : (x.putBarrier obj l b).team.MemOk := by
  unfold Site.putBarrier
  split
  · exact Site.memOk_wake (Site.memOk_writeLocal hx)
  · exact Site.memOk_writeLocal hx

theorem Team.memOk_putBarrier {o : Nat} {b : Barrier} (ht : t.MemOk) : (t.putBarrier o b).MemOk := by
  unfold Team.putBarrier
  split
  · exact Team.memOk_wake ⟨Memory.wf_write _ _ _ ht.1, ht.2⟩
  · exact ⟨Memory.wf_write _ _ _ ht.1, ht.2⟩

theorem Team.memOk_deliver {o : Nat} {n : Nat} {parity : Bool} (ht : t.MemOk) : ∀ y, (t.deliver o n parity) = some y → y.MemOk := by
  unfold Team.deliver
  dsimp only
  split
  · exact Option.all_none
  · exact Option.all_some (Team.memOk_putBarrier ht)

theorem Team.memOk_arrive {o : Nat} (ht : t.MemOk) : ∀ y, (t.arrive o) = some y → y.MemOk := by
  unfold Team.arrive
  dsimp only
  split
  · exact Option.all_none
  · exact Option.all_some (Team.memOk_putBarrier ht)

theorem memOk_barOp {d : Demand} {f : State → Site → List Nat → Nat → Loc → Out} (hs : s.MemOk)
    (hf : ∀ a b c d k, a.MemOk → b.team.MemOk → Out.MemOk (f a b c d k)) : Out.MemOk (barOp e d s f) := by
  unfold barOp
  dsimp only
  refine memOk_issue hs fun _ _ _ hs1 hx => ?_
  split
  · exact State.memOk_trap hs1 hx
  · exact hf _ _ _ _ _ hs1 hx

theorem memOk_opBarInit (hs : s.MemOk) : Out.MemOk (opBarInit e s) := memOk_barOp hs fun _ _ _ _ _ hs1 hx => Out.memOk_ite (State.memOk_trap hs1 hx)
    (State.memOk_done hs1 (Site.memOk_wake (Site.memOk_putBarrier hx)))

theorem memOk_opBarArv (hs : s.MemOk) : Out.MemOk (opBarArv e s) := memOk_barOp hs fun _ _ _ _ _ hs1 hx => Out.memOk_ite (State.memOk_trap hs1 hx)
    (State.memOk_releaseThen hs hs1 hx fun _ _ hs2 hx1 => memOk_regEffect (fun _ _ _ _ hy1 => Site.memOk_dst32 hy1) hs2 (Site.memOk_putBarrier hx1))

theorem memOk_opBarExp (hs : s.MemOk) : Out.MemOk (opBarExp e s) := memOk_barOp hs fun _ _ _ _ _ hs1 hx => Out.memOk_ite (State.memOk_trap hs1 hx)
    (State.memOk_done hs1 (Site.memOk_putBarrier hx))

theorem State.memOk_passBarrier (hs : s.MemOk) (hx : x.team.MemOk) : Out.MemOk (s.passBarrier x) := by
  obtain ⟨h1, h2⟩ := State.memOk_acquireAt (x := { x with heat := x.heat.unwait s.cur.pc }) (sc := .tm) hs hx
  exact State.memOk_done h1 h2

theorem memOk_opBarWait (hs : s.MemOk) : Out.MemOk (opBarWait e s) := by
  unfold opBarWait
  refine memOk_barOp hs fun _ _ _ _ _ hs1 hx => ?_
  split
  · exact Out.memOk_ite (State.memOk_passBarrier hs1 hx) (State.memOk_stall hs)
  · refine Out.memOk_ite (State.memOk_passBarrier hs1 (Site.memOk_putBarrier hx)) ?_
    split
    · exact hs
    · rename_i x0 h1
      have hx0 := Option.of_all h1 (State.memOk_here hs)
      exact State.memOk_wait hs (Site.memOk_putBarrier hx0)

theorem memOk_opBarTry (hs : s.MemOk) : Out.MemOk (opBarTry e s) := by
  unfold opBarTry
  dsimp only
  refine memOk_barOp hs fun _ _ _ _ _ hs1 hx => ?_
  refine memOk_regEffect (fun _ _ _ _ hy1 => Site.memOk_setGuard hy1) ?_ ?_
  · split
    · exact (State.memOk_acquireAt hs1 (Site.memOk_putBarrier hx)).1
    · exact hs1
  · split
    · exact (State.memOk_acquireAt hs1 (Site.memOk_putBarrier hx)).2
    · exact Site.memOk_putBarrier hx

theorem State.memOk_updBank {b : Nat} {f : Bank → Bank} (hs : s.MemOk) : (s.updBank cl b f).MemOk := State.memOk_updCluster hs

theorem State.memOk_setFifo {b : Nat} {f : Fifo} (hs : s.MemOk) : (s.setFifo cl b f).MemOk := State.memOk_updBank hs

theorem memOk_opFifoMap (hs : s.MemOk) : Out.MemOk (opFifoMap e s) := by
  unfold opFifoMap
  refine memOk_issue hs fun _ _ _ hs1 hx => ?_
  split
  · exact State.memOk_trap hs1 hx
  · split
    · exact State.memOk_trap hs1 hx
    · exact Out.memOk_ite (State.memOk_trap hs1 hx) (State.memOk_done (State.memOk_setFifo hs1) hx)

theorem memOk_fifoOp {reg : BitVec 8} {typed : Bool} {v0 : Bool} {f : State → Site → List Nat → Nat → Fifo → Out} (hs : s.MemOk)
    (hf : ∀ a b c d k, a.MemOk → b.team.MemOk → Out.MemOk (f a b c d k)) : Out.MemOk (fifoOp e reg typed us v0 s f) := by
  unfold fifoOp
  refine memOk_issue hs fun _ _ _ hs1 hx => ?_
  split
  · exact State.memOk_trap hs1 hx
  · exact Out.memOk_ite (State.memOk_trap hs1 hx) (hf _ _ _ _ _ hs1 hx)

theorem memOk_opFifoPut (hs : s.MemOk) :
    Out.MemOk (opFifoPut e s) := memOk_fifoOp hs fun _ _ _ _ _ hs1 hx => Out.memOk_ite (State.memOk_trap hs1 hx) (Out.memOk_ite
      (State.memOk_stall hs) (State.memOk_done (State.memOk_setFifo hs1) hx))

theorem State.memOk_giveFifo {vs : List (Nat × DWord)} (hs : s.MemOk) (hx : x.team.MemOk) :
    ∀ y, (s.giveFifo x e vs) = some y → y.1.MemOk ∧ y.2.team.MemOk := by
  unfold State.giveFifo
  split
  · exact Option.all_some ⟨State.memOk_chosen hs, List.foldlRecOn (motive := fun x : Site => x.team.MemOk) _ _ hx
      fun _ hy1 _ _ => Site.memOk_putWords hy1⟩
  · exact Option.all_map fun _ _ => ⟨State.memOk_chosen hs, List.foldlRecOn (motive := fun x : Site => x.team.MemOk) _ _ hx
      fun _ hy1 _ _ => Site.memOk_putRecord hy1⟩

theorem memOk_opFifoGet (hs : s.MemOk) : Out.MemOk (opFifoGet e s) := by
  unfold opFifoGet
  dsimp only
  refine memOk_fifoOp hs fun _ x _ _ _ hs1 hx => ?_
  refine Out.memOk_ite (State.memOk_stall hs) ?_
  split
  · exact State.memOk_stall hs
  · rename_i s2 y1 h
    have hv := Option.of_all h (State.memOk_giveFifo hs1 hx)
    exact Out.memOk_ite (State.memOk_done (State.memOk_setFifo hv.1) (List.foldlRecOn (motive := fun x : Site => x.team.MemOk) _ _ hv.2
      fun _ hy2 _ _ => Site.memOk_setGuard hy2)) (State.memOk_done (State.memOk_setFifo hv.1) (List.foldlRecOn (motive :=
        fun x : Site => x.team.MemOk) _ _ hv.2 fun _ hy2 _ _ => Site.memOk_putRecord hy2))

theorem memOk_opFifoClose (hs : s.MemOk) :
    Out.MemOk (opFifoClose e s) := memOk_fifoOp hs fun _ _ _ _ _ hs1 hx => Out.memOk_ite (State.memOk_trap hs1 hx) (State.memOk_done
      (State.memOk_setFifo hs1) hx)

theorem memOk_opFifoStat (hs : s.MemOk) :
    Out.MemOk (opFifoStat e s) := memOk_fifoOp hs fun _ _ _ _ _ hs1 hx => memOk_regEffect (fun _ _ _ _ hy1 => Site.memOk_dst32 hy1) hs1 hx

theorem State.memOk_setTrig {k : Nat} {w : Word} (hs : s.MemOk) : (s.setTrig cl k w).MemOk := State.memOk_updCluster hs

theorem memOk_trigOp {v0 : Bool} {f : State → Site → List Nat → Nat → Word → Out} (hs : s.MemOk)
    (hf : ∀ a b c d k, a.MemOk → b.team.MemOk → Out.MemOk (f a b c d k)) : Out.MemOk (trigOp e us v0 s f) := by
  unfold trigOp
  refine memOk_issue hs fun _ _ _ hs1 hx => ?_
  split
  · exact State.memOk_trap hs1 hx
  · exact hf _ _ _ _ _ hs1 hx

theorem Team.memOk_fire {k : Nat} {v : Word} (ht : t.MemOk) : (Team.fire k v t).MemOk := ht

theorem Team.memOk_fireOn {k : Nat} {v : Word} (ht : t.MemOk) : (Team.fireOn cl k v t).MemOk := Team.memOk_ite (Team.memOk_fire ht) ht

theorem State.memOk_raiseTrig {k : Nat} {w : Word} (hs : s.MemOk) :
    (s.raiseTrig cl k w).MemOk := State.memOk_ite (State.memOk_mapTeams (State.memOk_setTrig hs) fun _ ha => Team.memOk_fireOn ha)
      (State.memOk_setTrig hs)

theorem memOk_opTrgAdd (hs : s.MemOk) :
    Out.MemOk (opTrgAdd e s) := memOk_trigOp hs fun _ _ _ _ _ hs1 hx => State.memOk_releaseThen hs hs1 hx fun _ _ hs2 hx1 => State.memOk_done
      (State.memOk_raiseTrig hs2) (Team.memOk_ite (Team.memOk_fireOn hx1) hx1)

theorem memOk_opTrgSet (hs : s.MemOk) :
    Out.MemOk (opTrgSet e s) := memOk_trigOp hs fun _ _ _ _ _ hs1 hx => State.memOk_done (State.memOk_mapTeams (State.memOk_setTrig hs1)
      fun _ ht => Team.memOk_ite (Team.memOk_cancel (Team.memOk_fire ht)) ht) (Team.memOk_ite (Team.memOk_cancel (Team.memOk_fire hx)) hx)

theorem memOk_opTrgWait (hs : s.MemOk) : Out.MemOk (opTrgWait e s) := by
  unfold opTrgWait
  dsimp only
  refine memOk_trigOp hs fun _ _ _ _ _ hs1 hx => ?_
  refine Out.memOk_ite (State.memOk_stall hs) ?_
  refine memOk_regEffect (fun _ _ _ _ hy1 => Site.memOk_dst32 (Site.memOk_ite (Site.memOk_setGuard hy1) hy1)) ?_ ?_
  · split
    · exact (State.memOk_acquireAt hs1 hx).1
    · exact hs1
  · split
    · exact (State.memOk_acquireAt hs1 hx).2
    · exact hx

theorem memOk_opTrgArm (hs : s.MemOk) : Out.MemOk (opTrgArm e s) := memOk_trigOp hs fun _ _ _ _ _ hs1 hx => State.memOk_done hs1 hx

theorem State.memOk_atomicsHome (hs : s.MemOk) :
    (s.atomicsHome cl).MemOk := List.foldlRecOn (motive := fun s : State => s.MemOk) _ _ hs fun _ hs1 _ _ => State.memOk_ite hs1
      (State.memOk_dropCopies (State.memOk_updTeam (State.memOk_publish (State.memOk_overtake hs1)) fun _ ht1 => ht1))

theorem State.memOk_emptyBank {b : Nat}
    (hs : s.MemOk) : (s.emptyBank cl b).MemOk := State.memOk_dropCopies (State.memOk_writeBackAll (State.memOk_ite (State.memOk_atomicsHome hs) hs))

theorem Team.memOk_loseBank {b : Nat} (ht : t.MemOk) : (t.loseBank b).MemOk := by
  refine ⟨wf_loseBank b _ _ _ ht.1, fun m hm => ?_⟩
  obtain ⟨q, hq, hqm⟩ := List.mem_map.mp hm
  obtain ⟨p, hp, hpq⟩ := List.mem_map.mp hq
  exact hqm ▸ hpq ▸ wf_loseBank b _ _ _ (ht.2 _ (List.of_mem_zip hp).2)

theorem State.memOk_switchBank {p : BitVec 8} {mode : BankMode} (hs : s.MemOk) : (s.switchBank t p mode).MemOk := by
  unfold State.switchBank
  split
  · exact trivial
  · split
    · exact trivial
    · split
      · exact trivial
      · split
        · exact hs
        · split
          · split
            · split
              · exact trivial
              · exact State.memOk_updBank hs
            · exact State.memOk_updBank hs
          · exact State.memOk_updBank (State.memOk_emptyBank hs)
          · refine State.memOk_updBank ?_
            split
            · rename_i t1 h3
              have ht1 := Option.of_all h3 (State.memOk_team? hs)
              exact State.memOk_setTeam hs (Team.memOk_loseBank ht1)
            · exact hs

theorem memOk_opBankcfg (hs : s.MemOk) : Out.MemOk (opBankcfg e s) := by
  unfold opBankcfg
  dsimp only
  refine memOk_issue hs fun _ _ _ hs1 hx => ?_
  refine Out.memOk_ite (State.memOk_stall (State.memOk_ite hs hs)) ?_
  split
  · exact State.memOk_trap hs1 hx
  · exact State.memOk_stall (State.memOk_ite hs hs)
  · rename_i s2 h
    have hv : (BankAns.done s2).MemOk := h ▸ State.memOk_switchBank (State.memOk_put hs1 hx)
    split
    · rename_i y1 h1
      have hy1 := Option.of_all h1 (State.memOk_here hv)
      exact State.memOk_done hv hy1
    · exact hv

theorem State.memOk_driverBank (hs : s.MemOk) : (s.driverBank e x).MemOk := by
  unfold State.driverBank
  split
  · exact trivial
  · split
    · exact hs
    · exact trivial
    · rename_i s1 h
      have hv : (BankAns.done s1).MemOk := h ▸ State.memOk_switchBank hs
      exact hv

theorem State.memOk_commandBank (hs : s.MemOk) : (s.commandBank d cl).MemOk := State.memOk_commandOn hs fun _ _ hs1 _ => State.memOk_driverBank hs1

theorem memOk_opDriverBankcfg {driver : Nat} (hs : s.MemOk) :
    Out.MemOk (opDriverBankcfg driver ctx team cl e s) := Command.memOk_answer hs (State.memOk_commandBank hs)

theorem State.memOk_spotRead {fib : Nat} {n : Nat} {p : Spot} (hs : s.MemOk) (hx : x.team.MemOk) : (s.spotRead x tlb fib n p).2.MemOk := by
  unfold State.spotRead
  dsimp only
  split
  · exact hs
  · exact hs
  · split
    · rename_i b s1 h
      have hv : (Except.error b, s1).2.MemOk := h ▸ State.memOk_engRead hs hx
      exact hv
    · rename_i bs s1 h
      have hv : (Except.ok bs, s1).2.MemOk := h ▸ State.memOk_engRead hs hx
      exact hv
  · split
    · exact hs
    · split
      · rename_i b s1 h1
        have hv : (Except.error b, s1).2.MemOk := h1 ▸ State.memOk_engRead hs hx
        exact hv
      · rename_i bs s1 h1
        have hv : (Except.ok bs, s1).2.MemOk := h1 ▸ State.memOk_engRead hs hx
        exact hv
    · exact hs

theorem State.memOk_spotWrite {fib : Nat} {own : List Nat} {offers : List Offer} {p : Spot} (hs : s.MemOk) (hx : x.team.MemOk) :
    ∀ y, (s.spotWrite x tlb fib bs own offers p) = .ok y → y.s.MemOk := by
  unfold State.spotWrite
  split
  · exact Except.all_ok hs
  · exact Except.all_error
  · exact Except.all_mapError (State.memOk_engWrite hs)
  · split
    · exact Except.all_error
    · exact Except.all_mapError (State.memOk_engWrite hs)
    · exact Except.all_ok (State.memOk_put hs (Site.memOk_writeLocal hx))

theorem State.memOk_spotAsk {fib : Nat} {n : Nat} {p : Spot} (hs : s.MemOk) : (s.spotAsk x tlb fib n p).MemOk := by
  unfold State.spotAsk
  split
  · exact hs
  · exact hs
  · exact State.memOk_engAsk hs
  · split
    · exact State.memOk_engAsk hs
    · exact hs

theorem State.memOk_copySource {c : Copy} {n : Nat} (hs : s.MemOk) (hx : x.team.MemOk) : (s.copySource x c n).2.MemOk := by
  unfold State.copySource
  dsimp only
  split
  · split
    · split
      · exact hs
      · exact hs
    · split
      · rename_i b s1 h3
        have hv : (Except.error b, s1).2.MemOk := h3 ▸ State.memOk_engElem hs hx
        exact hv
      · rename_i v s1 h3
        have hv : (Except.ok v, s1).2.MemOk := h3 ▸ State.memOk_engElem hs hx
        exact hv
  · exact State.memOk_spotRead hs hx

theorem State.memOk_copyPiece {k : Nat} {c : Copy} (hs : s.MemOk) (hx : x.team.MemOk) : (s.copyPiece x k c).2.MemOk := by
  unfold State.copyPiece
  dsimp only
  split
  · rename_i m s1 h
    have hv : (Except.error m, s1).2.MemOk := h ▸ State.memOk_copySource hs hx
    exact hv
  · rename_i bs s1 h
    have hv : (Except.ok bs, s1).2.MemOk := h ▸ State.memOk_copySource hs hx
    split
    · exact State.memOk_spotAsk hv
    · exact hv
    · rename_i w h1
      have hw := Except.of_all h1 (State.memOk_spotWrite hv hx)
      exact hw

theorem State.quantValues.memOk_bytes {byte : State → Nat → Except Miss (List Byte) × State} {c : Nat} {d : Nat}
    (hbyte : ∀ a b, a.MemOk → (byte a b).2.MemOk) (hs : s.MemOk) : (State.quantValues.bytes byte s c d).2.MemOk := by
  induction c generalizing byte s d with
  | zero => exact hs
  | succ n ih =>
    rw [State.quantValues.bytes]
    split
    · rename_i b s1 h
      have hv : (Except.error b, s1).2.MemOk := h ▸ hbyte _ _ hs
      exact hv
    · rename_i v s1 h
      have hv : (Except.ok v, s1).2.MemOk := h ▸ hbyte _ _ hs
      split
      · rename_i b s2 h1
        have hv1 : (Except.error b, s2).2.MemOk := h1 ▸ ih hbyte hv
        exact hv1
      · rename_i r s2 h1
        have hv1 : (Except.ok r, s2).2.MemOk := h1 ▸ ih hbyte hv
        exact hv1

theorem State.memOk_quantChunk {k : Nat} {c : Copy} {base : Nat} {ch : Nat} {vs : List (Nat × Supply)} (hs : s.MemOk) :
    (∀ y, (s.quantChunk x k c base ch vs).1 = .ok y → y.s.MemOk) ∧ (s.quantChunk x k c base ch vs).2.MemOk := by
  unfold State.quantChunk
  dsimp only
  split
  · exact ⟨Except.all_error, hs⟩
  · split
    · exact ⟨Except.all_error, hs⟩
    · split
      · exact ⟨Except.all_error, hs⟩
      · split
        · exact ⟨Except.all_error, State.memOk_askOutside hs⟩
        · exact ⟨Except.all_ok (List.foldlRecOn (motive := fun s : State => s.MemOk) _ _ (State.memOk_homeRead hs)
            fun _ hs1 _ _ => State.memOk_engPut hs1), State.memOk_homeRead hs⟩

theorem State.memOk_quantChunks {k : Nat} {c : Copy} {base : Nat} {per : Nat} {vs : List (Nat × Supply)} {l : List Nat} (hs : s.MemOk)
    (hx : x.team.MemOk) : (s.quantChunks x k c base per vs l).1.MemOk := by
  induction l generalizing s x k c base per vs with
  | nil => exact hs
  | cons a r ih =>
    rw [State.quantChunks]
    split
    · exact ih hs hx
    · split
      · rename_i m s1 h
        have hv : (∀ y : EngWrote, (Except.error m, s1).1 = .ok y → y.s.MemOk) ∧ (Except.error m, s1).2.MemOk := h ▸ State.memOk_quantChunk hs
        exact hv.2
      · rename_i w v h
        have hv : (∀ y : EngWrote, (Except.ok w, v).1 = .ok y → y.s.MemOk) ∧ (Except.ok w, v).2.MemOk := h ▸ State.memOk_quantChunk hs
        exact ih (hv.1 _ rfl) hx

theorem State.memOk_copyRun {k : Nat} {c : Copy} {left : Nat} {f : Nat} (hs : s.MemOk) : (s.copyRun k c left f).1.MemOk := by
  induction f generalizing s k c left with
  | zero => exact hs
  | succ n ih =>
    rw [State.copyRun]
    split
    · exact hs
    · split
      · exact hs
      · rename_i x h
        have hx := Option.of_all h (State.memOk_site? hs)
        split
        · rename_i m s1 h1
          have hv : (Except.error m, s1).2.MemOk := h1 ▸ State.memOk_copyPiece hs hx
          exact hv
        · rename_i d s1 h1
          have hv : (Except.ok d, s1).2.MemOk := h1 ▸ State.memOk_copyPiece hs hx
          exact ih hv

theorem State.memOk_updChan {k : Nat} {f : Chan → Chan} (hs : s.MemOk) : (s.updChan cl k f).MemOk := State.memOk_updCluster hs

theorem State.memOk_copyStop {k : Nat} {c : Copy} (hs : s.MemOk) : (s.copyStop cl k c cs info).MemOk := State.memOk_defer (State.memOk_updChan hs)

theorem State.memOk_copyDeliver {k : Nat} {c : Copy} {n : Nat} (hs : s.MemOk) : (s.copyDeliver cl k c n).MemOk := by
  unfold State.copyDeliver
  split
  · rename_i b t h h1
    have ht := Option.of_all h1 (State.memOk_team? hs)
    refine State.memOk_ite hs ?_
    refine State.memOk_ite (State.memOk_copyStop hs) ?_
    split
    · rename_i t1 h2
      have ht1 := Option.of_all h2 (Team.memOk_deliver ht)
      exact State.memOk_setTeam hs ht1
    · exact State.memOk_defer hs
  · exact hs

theorem State.memOk_copyOn {k : Nat} {c : Copy} {d : Copy} (hs : s.MemOk) :
    (s.copyOn cl k c d).1.MemOk := State.memOk_copyDeliver (State.memOk_updTeam (State.memOk_updChan hs) fun _ ht => Team.memOk_count ht)

theorem memOk_opCopyStart {chan : Nat} (hs : s.MemOk) : Out.MemOk (opCopyStart cl chan s) := State.memOk_updChan hs

theorem State.memOk_copyMiss {k : Nat} {c : Copy} {f : Miss} (hs : s.MemOk) : (s.copyMiss cl k c f).MemOk := by
  unfold State.copyMiss
  split
  · exact hs
  · split
    · exact hs
    · rename_i x h
      have hx := Option.of_all h (State.memOk_site? hs)
      exact State.memOk_ite (State.memOk_copyStop (State.memOk_put hs (Site.memOk_forgetPageFor hx))) (State.memOk_updChan (State.memOk_put hs
        (Site.memOk_wantPageFor hx)))
  · exact State.memOk_copyStop hs
  · exact State.memOk_copyStop hs

theorem State.memOk_planCopy {a : Nat} {b : Nat} (hs : s.MemOk) (hx : x.team.MemOk) : (s.planCopy x e i a b).2.MemOk := by
  unfold State.planCopy
  dsimp only
  split
  · exact hs
  · split
    · exact hs
    · split
      · rename_i bad s1 h1
        have hv : (Except.error bad, s1).2.MemOk := h1 ▸ State.memOk_readRecord hs hx
        exact hv
      · rename_i r s1 h1
        have hv : (Except.ok r, s1).2.MemOk := h1 ▸ State.memOk_readRecord hs hx
        split
        · split
          · exact hv
          · split
            · exact hv
            · exact hv
            · split
              · exact hv
              · split
                · exact hv
                · exact hv
        · exact hv

theorem State.memOk_startCopy {s0 : State} {p : CopyPlan} (hs0 : s0.MemOk) (hs : s.MemOk) (hx : x.team.MemOk) :
    Out.MemOk (State.startCopy s0 s x e is p) := by
  unfold State.startCopy
  split
  · exact State.memOk_trap hs hx
  · split
    · exact State.memOk_trap hs hx
    · exact Out.memOk_ite (State.memOk_stall hs0) (memOk_regEffect (fun _ _ _ _ hy1 => Site.memOk_dst32 hy1) (State.memOk_updChan
        ((State.memOk_charge hs hx).1)) (Site.memOk_ite ((State.memOk_charge hs hx).2) (Site.memOk_setSeed ((State.memOk_charge hs hx).2))))

theorem memOk_opCpy (hs : s.MemOk) : Out.MemOk (opCpy e s) := by
  unfold opCpy
  dsimp only
  refine memOk_issue hs fun _ _ _ hs1 hx => ?_
  split
  · rename_i c info s11 h
    have hv : (Planned.trap c info, s11).2.MemOk := h ▸ State.memOk_planCopy hs1 hx
    exact State.memOk_trap hv hx
  · rename_i b a s11 h
    have hv : (Planned.miss b a, s11).2.MemOk := h ▸ State.memOk_planCopy hs1 hx
    exact State.memOk_recordFault hs hv hx
  · rename_i p s11 h
    have hv : (Planned.plan p, s11).2.MemOk := h ▸ State.memOk_planCopy hs1 hx
    exact Out.memOk_ite (State.memOk_trap hv hx) (State.memOk_startCopy hs hv hx)

theorem memOk_chanOp {v0 : Bool} {f : State → Site → List Nat → Nat → Chan → Out} (hs : s.MemOk)
    (hf : ∀ a b c d k, a.MemOk → b.team.MemOk → Out.MemOk (f a b c d k)) : Out.MemOk (chanOp e us v0 s f) := by
  unfold chanOp
  refine memOk_issue hs fun _ _ _ hs1 hx => ?_
  split
  · exact State.memOk_trap hs1 hx
  · split
    · exact State.memOk_trap hs1 hx
    · exact hf _ _ _ _ _ hs1 hx

theorem memOk_opCpyWait (hs : s.MemOk) :
    Out.MemOk (opCpyWait e s) := memOk_chanOp hs fun _ _ _ _ _ hs1 hx => Out.memOk_ite (State.memOk_done (State.memOk_seePointer hs1) hx)
      (Out.memOk_ite (State.memOk_trap hs1 hx) (State.memOk_stall hs))

theorem memOk_opCpyPtr (hs : s.MemOk) :
    Out.MemOk (opCpyPtr e s) := memOk_chanOp hs fun _ _ _ _ _ hs1 hx => memOk_regEffect (fun _ _ _ _ hy1 => Site.memOk_setGuard
      (Site.memOk_dst32 hy1)) (State.memOk_seePointer hs1) hx

theorem memOk_opCpyPtrSt (hs : s.MemOk) :
    Out.MemOk (opCpyPtrSt e s) := memOk_chanOp hs fun _ _ _ _ _ hs1 hx => memOk_regEffect (fun _ _ _ _ hy1 => Site.memOk_dst32 hy1) hs1 hx

theorem memOk_opCpyPtrClr (hs : s.MemOk) :
    Out.MemOk (opCpyPtrClr e s) := memOk_chanOp hs fun _ _ _ _ _ hs1 hx => memOk_regEffect (fun _ _ _ _ hy1 => Site.memOk_dst32 hy1)
      (State.memOk_updChan hs1) hx

theorem State.memOk_quantValues {c : Copy} {a : Nat} {f : Nat} {g : Nat} {k : Word} (hs : s.MemOk) (hx : x.team.MemOk) :
    (s.quantValues x c a f g k).2.MemOk := by
  induction f generalizing s x c a g k with
  | zero =>
    rw [State.quantValues]
    exact hs
  | succ n ih =>
    rw [State.quantValues]
    dsimp only
    split
    · rename_i b s1 h
      have hv : (Except.error b, s1).2.MemOk := h ▸ State.quantValues.memOk_bytes (fun _ _ hs1 => State.memOk_spotRead hs1 hx) hs
      exact hv
    · rename_i bs s1 h
      have hv : (Except.ok bs, s1).2.MemOk := h ▸ State.quantValues.memOk_bytes (fun _ _ hs1 => State.memOk_spotRead hs1 hx) hs
      split
      · rename_i b s2 h1
        have hv1 : (Except.error b, s2).2.MemOk := h1 ▸ ih hv hx
        exact hv1
      · rename_i r s2 h1
        have hv1 : (Except.ok r, s2).2.MemOk := h1 ▸ ih hv hx
        exact hv1

theorem State.memOk_copyQuant {k : Nat} {c : Copy} (hs : s.MemOk) (hx : x.team.MemOk) : (s.copyQuant x k c).1.MemOk := by
  unfold State.copyQuant
  dsimp only
  split
  · split
    · exact hs
    · split
      · exact hs
      · split
        · rename_i m s1 h3
          have hv : (Except.error m, s1).2.MemOk := h3 ▸ State.memOk_quantValues hs hx
          exact hv
        · rename_i us s1 h3
          have hv : (Except.ok us, s1).2.MemOk := h3 ▸ State.memOk_quantValues hs hx
          exact State.memOk_quantChunks hv hx
  · exact hs

theorem State.memOk_copyMove {k : Nat} {c : Copy} {n : Nat} (hs : s.MemOk) : (s.copyMove k c n).1.MemOk := by
  unfold State.copyMove
  split
  · split
    · rename_i x h1
      have hx := Option.of_all h1 (State.memOk_site? hs)
      split
      · exact hs
      · exact State.memOk_copyQuant hs hx
    · exact hs
  · exact State.memOk_copyRun hs

theorem memOk_opCopyPortionWritten {chan : Nat} {count : Nat} (hs : s.MemOk) : Out.MemOk (opCopyPortionWritten cl chan count s) := by
  unfold opCopyPortionWritten
  split
  · exact hs
  · exact State.memOk_copyOn (State.memOk_copyMove hs)

theorem memOk_opCopyFault {chan : Nat} (hs : s.MemOk) : Out.MemOk (opCopyFault cl chan s) := by
  rw [opCopyFault]
  split
  · exact hs
  rename_i c _
  refine Out.memOk_ite hs ?_
  split
  · rename_i s2 d m h
    have hm : (if c.mode = .quant then s.copyMove chan c 1 else ((s.copyMove chan c 1).1, c, (s.copyMove chan c 1).2.2)).1.MemOk := by
      split
      · exact State.memOk_copyMove hs
      · exact State.memOk_copyMove hs
    rw [h] at hm
    exact Out.memOk_ite (State.memOk_copyOn hm) (State.memOk_copyMiss (State.memOk_copyOn hm))
  · exact hs

end Sys2Proof.Machine
end

section
/-!
SUPPORT. The canonical form of memory in transfers, task packets and collectives and in the frames of saved teams: each of them keeps it.
-/

namespace Sys2Proof.Machine

variable {s : State} {x : Site} {t : Team} {is : List Nat} {e : Ext} {team : Nat} {die : Nat} {ctx : Nat} {va : Nat} {info : DWord}

theorem Team.memOk_begin {x : Xfer} (ht : t.MemOk) : (t.begin x).MemOk := ht

theorem Team.memOk_putXfer {x : Xfer} (ht : t.MemOk) : (t.putXfer x).MemOk := ht

theorem State.memOk_issueXfer {s0 : State} {w : XferWork} {trg : Option Nat} {armable : Bool} {launch : Bool} {bytes : Nat} (hs0 : s0.MemOk)
    (hs : s.MemOk) (hx : x.team.MemOk) : Out.MemOk (State.issueXfer s0 s x e is w trg armable launch bytes) := Out.memOk_ite (State.memOk_stall hs0)
      (memOk_regEffect (fun _ _ _ _ hy1 => Site.memOk_dst32 hy1) ((State.memOk_charge hs hx).1) (Team.memOk_begin ((State.memOk_charge hs hx).2)))

theorem State.memOk_twoRecords {s0 : State} {a : Nat} {b : Nat} {go : State → TRec → TRec → Out} (hs0 : s0.MemOk) (hs : s.MemOk) (hx : x.team.MemOk)
    (hgo : ∀ a b c, a.MemOk → Out.MemOk (go a b c)) : Out.MemOk (State.twoRecords s0 s x is a b go) := by
  unfold State.twoRecords
  dsimp only
  split
  · exact State.memOk_trap hs hx
  · exact State.memOk_trap hs hx
  · split
    · rename_i m s1 h2
      have hv : (Except.error m, s1).2.MemOk := h2 ▸ State.memOk_readRecord hs hx
      exact State.memOk_recordFault hs0 hv hx
    · rename_i ra s1 h2
      have hv : (Except.ok ra, s1).2.MemOk := h2 ▸ State.memOk_readRecord hs hx
      split
      · rename_i m s2 h3
        have hv1 : (Except.error m, s2).2.MemOk := h3 ▸ State.memOk_readRecord hv hx
        exact State.memOk_recordFault hs0 hv1 hx
      · rename_i rb s2 h3
        have hv1 : (Except.ok rb, s2).2.MemOk := h3 ▸ State.memOk_readRecord hv hx
        exact hgo _ _ _ hv1

theorem memOk_opTxfer (hs : s.MemOk) : Out.MemOk (opTxfer e s) := by
  unfold opTxfer
  refine memOk_issue hs fun _ _ _ hs1 hx => ?_
  refine State.memOk_twoRecords hs hs1 hx fun _ _ _ hs11 => ?_
  split
  · exact State.memOk_trap hs11 hx
  · refine Out.memOk_ite (State.memOk_trap hs11 hx) ?_
    split
    · exact State.memOk_trap hs11 hx
    · exact State.memOk_issueXfer hs hs11 hx

theorem memOk_opTsend (hs : s.MemOk) : Out.MemOk (opTsend e s) := by
  unfold opTsend
  dsimp only
  refine memOk_issue hs fun _ _ _ hs1 hx => ?_
  split
  · exact State.memOk_trap hs1 hx
  · refine Out.memOk_ite (State.memOk_trap hs1 hx) ?_
    split
    · exact State.memOk_trap hs1 hx
    · exact State.memOk_issueXfer hs hs1 hx

theorem memOk_opTxwait (hs : s.MemOk) : Out.MemOk (opTxwait e s) := by
  unfold opTxwait
  dsimp only
  refine memOk_issue hs fun _ _ _ hs1 hx => ?_
  refine Out.memOk_ite (State.memOk_trap hs1 hx) ?_
  refine Out.memOk_ite (State.memOk_stall hs) ?_
  refine memOk_regEffect (fun _ _ _ _ hy1 => Site.memOk_dst32 (Site.memOk_ite (Site.memOk_setGuard hy1) hy1)) ?_ ?_
  · split
    · exact (State.memOk_acquireAt hs1 hx).1
    · exact hs1
  · split
    · exact (State.memOk_acquireAt hs1 hx).2
    · exact hx

theorem State.memOk_xferDone {x : Xfer} (hs : s.MemOk) (ht : t.MemOk) : (s.xferDone t x).MemOk := by
  unfold State.xferDone
  split
  · exact State.memOk_raiseTrig (State.memOk_setTeam hs (Team.memOk_finish ht))
  · exact State.memOk_setTeam hs (Team.memOk_finish ht)

theorem State.memOk_xferError {x : Xfer} {c : Byte} (hs : s.MemOk) (ht : t.MemOk) :
    (s.xferError t x c info).MemOk := State.memOk_defer (State.memOk_setTeam hs (Team.memOk_finish ht))

theorem State.memOk_xfer? {h : Word}
    (hs : s.MemOk) : ∀ y, (s.xfer? team h) = some y → y.1.MemOk := Option.all_bind fun t ht => Option.all_map fun _ _ => ((State.memOk_team? hs) t ht)

theorem memOk_opArmedOperationStart {handle : Word} (hs : s.MemOk) : Out.MemOk (opArmedOperationStart team handle s) := by
  unfold opArmedOperationStart
  split
  · rename_i t x h
    have hv := Option.of_all h (State.memOk_xfer? hs)
    split
    · exact Out.memOk_ite (State.memOk_setTeam hs (Team.memOk_putXfer hv)) hs
    · exact hs
  · exact hs

theorem memOk_opTxferLaunchTime {handle : Word} (hs : s.MemOk) : Out.MemOk (opTxferLaunchTime team handle s) := by
  unfold opTxferLaunchTime
  split
  · rename_i t x h
    have hv := Option.of_all h (State.memOk_xfer? hs)
    split
    · exact Out.memOk_ite (State.memOk_setTeam hs (Team.memOk_putXfer hv)) hs
    · exact hs
  · exact hs

theorem State.memOk_moveElem {src : TRec} {dst : TRec} {so : List Nat} {dor : List Nat} {f : Xfer} {k : Nat} (hs : s.MemOk) (hx : x.team.MemOk) :
    (s.moveElem x src dst so dor f k).2.MemOk := by
  unfold State.moveElem
  dsimp only
  split
  · rename_i m s1 h
    have hv : (Except.error m, s1).2.MemOk := h ▸ State.memOk_spotRead hs hx
    exact hv
  · rename_i bs s1 h
    have hv : (Except.ok bs, s1).2.MemOk := h ▸ State.memOk_spotRead hs hx
    split
    · exact State.memOk_tell hv
    · split
      · exact State.memOk_spotAsk hv
      · exact hv
      · rename_i w h3
        have hw := Except.of_all h3 (State.memOk_spotWrite hv hx)
        exact hw

theorem State.memOk_moveTile {src : TRec} {dst : TRec} {so : List Nat} {dor : List Nat} {x : Xfer} {k : Nat} (hs : s.MemOk) :
    (s.moveTile src dst so dor x k).1.MemOk := by
  induction k generalizing s src dst so dor x with
  | zero => exact hs
  | succ n ih =>
    rw [State.moveTile]
    split
    · exact hs
    · rename_i y1 h
      have hy1 := Option.of_all h (State.memOk_site? hs)
      split
      · rename_i m s1 h1
        have hv : (Except.error m, s1).2.MemOk := h1 ▸ State.memOk_moveElem hs hy1
        exact hv
      · rename_i x1 s1 h1
        have hv : (Except.ok x1, s1).2.MemOk := h1 ▸ State.memOk_moveElem hs hy1
        exact ih hv

theorem State.memOk_holdXfer {x : Xfer} (hs : s.MemOk) (ht : t.MemOk) : (s.holdXfer t x va info).MemOk := by
  unfold State.holdXfer
  dsimp only
  split
  · exact hs
  · rename_i y1 h
    have hy1 := Option.of_all h (State.memOk_site? hs)
    refine State.memOk_ite (State.memOk_xferError hs ht) ?_
    refine State.memOk_ite ?_ (State.memOk_put hs (Site.memOk_wantPageFor (Team.memOk_putXfer hy1)))
    split
    · rename_i t1 h1
      have ht1 := Option.of_all h1 (State.memOk_team? (State.memOk_put hs (Site.memOk_forgetPageFor hy1)))
      exact State.memOk_xferError (State.memOk_put hs (Site.memOk_forgetPageFor hy1)) ht1
    · exact State.memOk_put hs (Site.memOk_forgetPageFor hy1)

theorem State.memOk_xferMiss {x : Xfer} {d : Miss} (hs : s.MemOk) (ht : t.MemOk) : (s.xferMiss t x d).MemOk := by
  unfold State.xferMiss
  split
  · exact State.memOk_setTeam hs (Team.memOk_putXfer ht)
  · exact State.memOk_holdXfer (State.memOk_setTeam hs (Team.memOk_putXfer ht)) ht
  · exact State.memOk_xferError hs ht
  · exact State.memOk_xferError hs ht

theorem State.memOk_xferMoved {x : Xfer} {dst : TRec} {peer : Option (Option Byte)} (hs : s.MemOk) (ht : t.MemOk) :
    (s.xferMoved t x dst peer).MemOk := by
  unfold State.xferMoved
  refine State.memOk_ite (State.memOk_setTeam hs (Team.memOk_putXfer ht)) ?_
  refine State.memOk_ite ?_ (State.memOk_xferDone hs ht)
  split
  · exact State.memOk_setTeam hs (Team.memOk_putXfer ht)
  · exact State.memOk_xferDone hs ht
  · exact State.memOk_ite (State.memOk_xferError hs ht) (State.memOk_setTeam hs (Team.memOk_putXfer ht))

theorem memOk_opTxferCompletion {handle : Word} {peer : Option (Option Byte)} (hs : s.MemOk) : Out.MemOk (opTxferCompletion team handle peer s) := by
  unfold opTxferCompletion
  dsimp only
  split
  · rename_i t x h
    have hv := Option.of_all h (State.memOk_xfer? hs)
    split
    · refine Out.memOk_ite hs ?_
      refine Out.memOk_ite (State.memOk_xferMoved hs hv) ?_
      split
      · exact State.memOk_xferError hs hv
      · split
        · exact State.memOk_moveTile hs
        · rename_i t1 h5
          have ht1 := Option.of_all h5 (State.memOk_team? (State.memOk_moveTile hs))
          split
          · exact State.memOk_xferMoved (State.memOk_setTeam (State.memOk_moveTile hs) (Team.memOk_count ht1)) (Team.memOk_count ht1)
          · exact State.memOk_xferMiss (State.memOk_setTeam (State.memOk_moveTile hs) (Team.memOk_count ht1)) (Team.memOk_count ht1)
    · exact hs
  · exact hs

theorem State.memOk_updExpander {port : Option Nat} {f : Expander → Expander} (hs : s.MemOk) : (s.updExpander port f).MemOk := by
  unfold State.updExpander
  split
  · exact hs
  · exact hs

theorem State.memOk_readPacket {y1 : Site} {a : Nat} {d : Nat} (hs : s.MemOk) (hy1 : y1.team.MemOk) : (s.readPacket y1 a d).2.MemOk := by
  induction d generalizing s y1 a with
  | zero => exact hs
  | succ n ih =>
    rw [State.readPacket]
    split
    · rename_i b s1 h
      have hv : (Except.error b, s1).2.MemOk := h ▸ State.memOk_engRead hs hy1
      exact hv
    · rename_i bs s1 h
      have hv : (Except.ok bs, s1).2.MemOk := h ▸ State.memOk_engRead hs hy1
      split
      · rename_i m s2 h1
        have hv1 : (Except.error m, s2).2.MemOk := h1 ▸ ih hv hy1
        exact hv1
      · rename_i r s2 h1
        have hv1 : (Except.ok r, s2).2.MemOk := h1 ▸ ih hv hy1
        exact hv1

theorem State.memOk_updKey {slot : Nat} {f : Option KeySlot → Option KeySlot} (hs : s.MemOk) : (s.updKey die slot f).MemOk := State.memOk_updDie hs

theorem memOk_opTsendPacketSend {handle : Word} (hs : s.MemOk) : Out.MemOk (opTsendPacketSend team handle s) := by
  unfold opTsendPacketSend
  split
  · rename_i t x h
    have hv := Option.of_all h (State.memOk_xfer? hs)
    split
    · rename_i a n slot y1 h1 h2 h3
      have hy1 := Option.of_all h3 (State.memOk_site? hs)
      refine Out.memOk_ite hs ?_
      split
      · rename_i m s1 h4
        have hv1 : (Except.error m, s1).2.MemOk := h4 ▸ State.memOk_readPacket hs hy1
        exact State.memOk_xferMiss hv1 hv
      · rename_i bs s1 h4
        have hv1 : (Except.ok bs, s1).2.MemOk := h4 ▸ State.memOk_readPacket hs hy1
        split
        · exact State.memOk_xferError hv1 hv
        · exact Out.memOk_ite (State.memOk_xferError hv1 hv) (State.memOk_updExpander (State.memOk_setTeam (State.memOk_updKey hv1)
            (Team.memOk_putXfer hv)))
    · exact hs
  · exact hs

theorem State.memOk_answerXfer {p : Packet} {a : Option Byte} (hs : s.MemOk) : (s.answerXfer p a).MemOk := by
  unfold State.answerXfer
  split
  · rename_i t x h
    have hv := Option.of_all h (State.memOk_xfer? hs)
    exact State.memOk_setTeam hs (Team.memOk_putXfer hv)
  · exact hs

theorem State.memOk_setGroup {g : Nat} {v : Group} (hs : s.MemOk) : (s.setGroup ctx g v).MemOk := by
  unfold State.setGroup
  split
  · exact State.memOk_setCtx hs
  · exact hs

theorem memOk_opTxcoll (hs : s.MemOk) : Out.MemOk (opTxcoll e s) := by
  unfold opTxcoll
  refine memOk_issue hs fun _ _ _ hs1 hx => ?_
  refine State.memOk_twoRecords hs hs1 hx fun _ _ _ hs11 => ?_
  refine Out.memOk_ite (State.memOk_trap hs11 hx) ?_
  refine Out.memOk_ite (State.memOk_trap hs11 hx) ?_
  refine Out.memOk_ite (State.memOk_trap hs11 hx) ?_
  refine Out.memOk_ite (State.memOk_trap hs11 hx) ?_
  split
  · exact State.memOk_trap hs11 hx
  · exact State.memOk_issueXfer hs hs11 hx

theorem State.memOk_collBill {x : Xfer} {n : Nat} (hs : s.MemOk) :
    (s.collBill t x n).1.MemOk := State.memOk_updTeam (State.memOk_chargeMeet hs) fun _ ht1 => Team.memOk_ite (Team.memOk_count ht1) ht1

theorem State.memOk_collTell {n : Inst} {m : CollMsg} (hs : s.MemOk) : (s.collTell n m).MemOk := State.memOk_tell hs

theorem State.memOk_putXfer {x : Xfer} (hs : s.MemOk) : (s.putXfer team x).MemOk := State.memOk_updTeam hs fun _ ht => Team.memOk_putXfer ht

theorem State.memOk_memberLeft {group : Nat} {cid : Nat} {member : Nat} (hs : s.MemOk) : (s.memberLeft ctx group cid member).MemOk := by
  unfold State.memberLeft
  split
  · exact State.memOk_setGroup hs
  · exact hs

theorem State.memOk_collLeft {n : Inst} {member : Nat} (hs : s.MemOk) : (s.collLeft n member).MemOk := State.memOk_memberLeft hs

theorem State.memOk_collFail {x : Xfer} {n : Inst} {c : Byte} {news : CollMsg} (hs : s.MemOk) : (s.collFail team x n c info news).MemOk := by
  unfold State.collFail
  split
  · rename_i t h
    have ht := Option.of_all h (State.memOk_team? hs)
    exact State.memOk_collTell (State.memOk_collLeft (State.memOk_xferError hs ht))
  · exact hs

theorem State.memOk_collHold {x : Xfer} {n : Inst} (hs : s.MemOk) :
    (s.collHold team x n va info).MemOk := State.memOk_ite (State.memOk_collFail hs) (State.memOk_putXfer hs)

theorem State.memOk_collMiss {x : Xfer} {n : Inst} {f : Miss} (hs : s.MemOk) : (s.collMiss team x n f).MemOk := by
  unfold State.collMiss
  split
  · exact State.memOk_putXfer hs
  · exact State.memOk_collHold hs
  · exact State.memOk_collFail hs
  · exact State.memOk_collFail hs

theorem State.memOk_collElems {y1 : Site} {sd : Side} {e : Nat} {x : Xfer} {g : Nat} (hs : s.MemOk) (hy1 : y1.team.MemOk) :
    (s.collElems y1 sd e x g).1.MemOk := by
  induction g generalizing s y1 sd e x with
  | zero => exact hs
  | succ n ih =>
    rw [State.collElems]
    split
    · rename_i m s1 h
      have hv : (Except.error m, s1).2.MemOk := h ▸ State.memOk_spotRead hs hy1
      exact hv
    · rename_i bs s1 h
      have hv : (Except.ok bs, s1).2.MemOk := h ▸ State.memOk_spotRead hs hy1
      exact ih hv hy1

theorem State.memOk_collRead {x : Xfer} {n : Inst} (hs : s.MemOk) : (s.collRead team x n).MemOk := by
  unfold State.collRead
  dsimp only
  refine State.memOk_ite (State.memOk_putXfer hs) ?_
  split
  · rename_i t y1 h h1
    have ht := Option.of_all h (State.memOk_team? hs)
    have hy1 := Option.of_all h1 (State.memOk_site? hs)
    split
    · exact State.memOk_collMiss (State.memOk_collBill (State.memOk_collElems hs hy1))
    · exact State.memOk_ite (State.memOk_collTell (State.memOk_putXfer (State.memOk_collBill (State.memOk_collElems hs hy1)))) (State.memOk_putXfer
        (State.memOk_collBill (State.memOk_collElems hs hy1)))
  · exact hs

theorem State.memOk_collTake {x : Xfer} {n : Inst} {member : Nat} {g : CollMsg} (hs : s.MemOk) : (s.collTake team x n member g).MemOk := by
  unfold State.collTake
  split
  · refine State.memOk_ite ?_ hs
    split
    · exact State.memOk_collTell (State.memOk_putXfer (State.memOk_collBill hs))
    · exact hs
  · exact State.memOk_ite (State.memOk_putXfer hs) (State.memOk_collFail hs)
  · exact State.memOk_ite (State.memOk_putXfer hs) hs
  · exact State.memOk_collLeft (State.memOk_putXfer hs)
  · exact State.memOk_collFail (State.memOk_collLeft hs)
  · exact State.memOk_ite (State.memOk_collFail (State.memOk_collLeft hs)) (State.memOk_putXfer (State.memOk_collLeft hs))

theorem State.memOk_runningColl {h : Word} (hs : s.MemOk) : ∀ y, (s.runningColl team h) = some y → y.1.MemOk := by
  unfold State.runningColl
  dsimp only
  refine Option.all_bind fun a ha => ?_
  split
  · exact Option.all_map fun _ _ => ((State.memOk_xfer? hs) a ha)
  · exact Option.all_none

theorem State.memOk_collDrain {h : Word} {n : Inst} {f : List Held} (hs : s.MemOk) : (s.collDrain team h n f).MemOk := by
  induction f generalizing s team h n with
  | nil => exact hs
  | cons a r ih =>
    rw [State.collDrain]
    refine State.memOk_ite ?_ (ih hs)
    split
    · exact ih (State.memOk_collTake hs)
    · exact ih hs

theorem State.memOk_collLost {x : Xfer} {n : Inst} {device : Nat} (hs : s.MemOk) :
    (s.collLost team x n device info).MemOk := State.memOk_ite (State.memOk_collFail (List.foldlRecOn (motive := fun s : State => s.MemOk) _ _ hs
      fun _ hs1 _ _ => State.memOk_collLeft hs1)) (State.memOk_putXfer (List.foldlRecOn (motive := fun s : State => s.MemOk) _ _ hs
        fun _ hs1 _ _ => State.memOk_collLeft hs1))

theorem State.memOk_collBegin {x : Xfer} {n : Inst} (hs : s.MemOk) : (s.collBegin team x n).MemOk := by
  unfold State.collBegin
  refine List.foldlRecOn (motive := fun s : State => s.MemOk) _ _ ?_ fun _ hs1 _ _ => ?_
  · split
    · exact State.memOk_collDrain (State.memOk_setCtx (State.memOk_collRead (State.memOk_ite (State.memOk_collTell (State.memOk_putXfer hs))
        (State.memOk_putXfer hs))))
    · exact State.memOk_collRead (State.memOk_ite (State.memOk_collTell (State.memOk_putXfer hs)) (State.memOk_putXfer hs))
  · dsimp only
    split
    · exact State.memOk_collLost (State.memOk_free hs1)
    · exact hs1

theorem State.memOk_collGrant {h : Word} (hs : s.MemOk) : (s.collGrant team h).MemOk := by
  unfold State.collGrant
  split
  · split
    · split
      · exact State.memOk_ite (State.memOk_collBegin hs) hs
      · exact hs
    · exact hs
  · exact hs

theorem State.memOk_collWrite {n : Inst} {el : Nat → Nat} {x : Xfer} {f : Nat} (hs : s.MemOk) : (s.collWrite n el x f).1.MemOk := by
  induction f generalizing s n el x with
  | zero =>
    rw [State.collWrite]
    exact hs
  | succ n1 ih =>
    rw [State.collWrite]
    dsimp only
    split
    · exact hs
    · rename_i y1 h
      have hy1 := Option.of_all h (State.memOk_site? hs)
      split
      · exact State.memOk_spotAsk hs
      · exact hs
      · rename_i w h1
        have hw := Except.of_all h1 (State.memOk_spotWrite hs hy1)
        exact ih hw

theorem State.memOk_collDone {x : Xfer} {n : Inst} (hs : s.MemOk) : (s.collDone team x n).MemOk := by
  unfold State.collDone
  split
  · rename_i t h
    have ht := Option.of_all h (State.memOk_team? hs)
    exact State.memOk_collTell (State.memOk_collLeft (State.memOk_xferDone hs ht))
  · exact hs

theorem State.memOk_homeFill {a : Nat} {n : Nat} {ps : List (Nat × List Byte)} (hs : s.MemOk) : (s.homeFill a n ps).MemOk :=
  ⟨List.foldlRecOn (motive := fun m : List Host.Cell => Memory.wf m = true) _ _ (Memory.wf_filter _ _ (s.wf_recallU a n hs.1))
    fun _ hm _ _ => Memory.wf_write _ _ _ hm, hs.2⟩

theorem State.memOk_writeFrame (hs : s.MemOk) : (s.writeFrame t).MemOk := by
  unfold State.writeFrame
  split
  · exact hs
  · exact State.memOk_homeFill hs

end Sys2Proof.Machine
end

section
/-!
SUPPORT. The canonical form of memory in conversions, the matrix array and its tile fetch, the active set, control transfers, fibres and locks: each of them keeps it.
-/

namespace Sys2Proof.Machine

variable {s : State} {x : Site} {t : Team} {is : List Nat} {e : Ext} {h : Hit} {u : UnitRef} {cl : ClusterRef} {line : Nat} {pa : Nat}
  {bs : List Byte} {team : Nat} {i : Nat} {d : DriverCommand} {q : MxEntry} {info : DWord} {us : List Use}

theorem memOk_opF2i (hs : s.MemOk) :
    Out.MemOk (opF2i e s) := memOk_issue hs fun _ _ _ ha hb => memOk_regEffect (fun _ _ _ _ hy1 => Site.memOk_drawn (Site.memOk_dst hy1)) ha hb

theorem memOk_opI2f (hs : s.MemOk) :
    Out.MemOk (opI2f e s) := memOk_issue hs fun _ _ _ ha hb => memOk_regEffect (fun _ _ _ _ hy1 => Site.memOk_drawn (Site.memOk_dst32 hy1)) ha hb

theorem memOk_opFcvt (hs : s.MemOk) :
    Out.MemOk (opFcvt e s) := memOk_issue hs fun _ _ _ ha hb => memOk_regEffect (fun _ _ _ _ hy1 => Site.memOk_drawn (Site.memOk_setVal hy1)) ha hb

theorem memOk_dotFloat {n : Nat} {b : Site → Nat → Nat} (hs : s.MemOk) :
    Out.MemOk (dotFloat e n us b s) := memOk_issue hs fun _ _ _ ha hb1 => memOk_regEffect (fun _ _ _ _ hy1 => Site.memOk_drawn
      (Site.memOk_dst32 hy1)) ha hb1

theorem memOk_opDot2 (hs : s.MemOk) : Out.MemOk (opDot2 e s) := memOk_dotFloat hs

theorem memOk_dotInt (hs : s.MemOk) : Out.MemOk (dotInt e s) := memOk_perFibre32 hs

theorem memOk_opDot4 (hs : s.MemOk) : Out.MemOk (opDot4 e s) := Out.memOk_ite (memOk_dotInt hs) (memOk_dotFloat hs)

theorem memOk_opHred (hs : s.MemOk) :
    Out.MemOk (opHred e s) := memOk_issue hs fun _ _ _ hs1 hx => memOk_regEffect (fun _ _ _ _ hy1 => Site.memOk_dst hy1) hs1 hx

theorem memOk_opSbound (hs : s.MemOk) :
    Out.MemOk (opSbound e s) := memOk_issue hs fun _ _ _ ha hb => memOk_regEffect (fun _ _ _ _ hy1 => Site.memOk_drawn (Site.memOk_dst32 hy1)) ha hb

theorem memOk_opMxbind (hs : s.MemOk) : Out.MemOk (opMxbind e s) := by
  unfold opMxbind
  dsimp only
  refine memOk_issue hs fun _ _ _ hs1 hx => ?_
  split
  · exact State.memOk_trap hs1 hx
  · split
    · rename_i b s11 h1
      have hv : (Except.error b, s11).2.MemOk := h1 ▸ State.memOk_readRecord hs1 hx
      exact State.memOk_recordFault hs hv hx
    · rename_i r s11 h1
      have hv : (Except.ok r, s11).2.MemOk := h1 ▸ State.memOk_readRecord hs1 hx
      split
      · exact State.memOk_trap hv hx
      · exact State.memOk_done hv hx

theorem Site.memOk_enqueue (hx : x.team.MemOk) : (x.enqueue q).team.MemOk := hx

theorem memOk_opMxma (hs : s.MemOk) : Out.MemOk (opMxma e s) := by
  unfold opMxma
  dsimp only
  refine memOk_issue hs fun _ _ _ hs1 hx => ?_
  split
  · exact State.memOk_trap hs1 hx
  · exact Out.memOk_ite (State.memOk_stall hs) (State.memOk_done ((State.memOk_charge hs1 hx).1) (Site.memOk_enqueue ((State.memOk_charge hs1 hx).2)))
  · exact State.memOk_done hs1 hx

theorem memOk_opMxzero (hs : s.MemOk) : Out.MemOk (opMxzero e s) := memOk_issue hs fun _ _ _ hs1 hx => Out.memOk_ite (State.memOk_trap hs1 hx)
    (Out.memOk_ite (State.memOk_stall hs) (State.memOk_done hs1 hx))

theorem memOk_opMxwait (hs : s.MemOk) : Out.MemOk (opMxwait e s) := memOk_issue hs fun _ _ _ hs1 hx => Out.memOk_ite (State.memOk_done hs1 hx)
    (State.memOk_stall hs)

theorem memOk_opMxfence (hs : s.MemOk) : Out.MemOk (opMxfence e s) := memOk_issue hs fun _ _ _ hs1 hx => State.memOk_done hs1 hx

theorem memOk_opMxstat (hs : s.MemOk) :
    Out.MemOk (opMxstat e s) := memOk_issue hs fun _ _ _ hs1 hx => memOk_regEffect (fun _ _ _ _ hy1 => Site.memOk_dst32 hy1) hs1
      (Site.memOk_ite hx hx)

theorem memOk_opAwset (hs : s.MemOk) : Out.MemOk (opAwset e s) := memOk_issue hs fun _ _ _ hs1 hx => Out.memOk_ite (State.memOk_trap hs1 hx)
    (State.memOk_done hs1 hx)

theorem State.memOk_commandAwset (hs : s.MemOk) : (s.commandAwset d cl).MemOk := by
  unfold State.commandAwset
  dsimp only
  refine State.memOk_commandOn hs fun _ _ hs1 hx => ?_
  split
  · exact hs1
  · exact State.memOk_setTeam hs1 hx

theorem Team.memOk_accPut {row : Nat} {col : Nat} {w : Word} (ht : t.MemOk) : (t.accPut row col w).MemOk := ht

theorem State.memOk_accTrap {c : Byte} (hs : s.MemOk) (hx : x.team.MemOk) :
    Out.MemOk (s.accTrap x e is i c) := Out.memOk_ite (State.memOk_trap hs hx) (State.memOk_trap (State.memOk_free hs) hx)

theorem memOk_opAccrd (hs : s.MemOk) : Out.MemOk (opAccrd e s) := by
  unfold opAccrd
  dsimp only
  refine memOk_issue hs fun _ x _ hs1 hx => ?_
  split
  · exact State.memOk_accTrap hs1 hx
  · rename_i _ h
    split
    · exact State.memOk_stall hs
    · exact State.memOk_done hs1 (Site.memOk_ite (List.foldlRecOn (motive := fun x : Site => x.team.MemOk) _ _ hx fun _ hy1 _ _ => Site.memOk_ite
        (Site.memOk_drawn (Site.memOk_ite (Site.memOk_putRecord hy1) (Site.memOk_putWords hy1))) (Site.memOk_ite (Site.memOk_putRecord hy1)
          (Site.memOk_putWords hy1))) (List.foldlRecOn (motive := fun x : Site => x.team.MemOk) _ _ hx fun _ hy1 _ _ => Site.memOk_ite
            (Site.memOk_drawn (Site.memOk_ite (Site.memOk_putRecord hy1) (Site.memOk_putWords hy1))) (Site.memOk_ite (Site.memOk_putRecord hy1)
              (Site.memOk_putWords hy1))))

theorem memOk_opAccwr (hs : s.MemOk) : Out.MemOk (opAccwr e s) := by
  unfold opAccwr
  refine memOk_issue hs fun _ _ _ hs1 hx => ?_
  split
  · exact State.memOk_accTrap hs1 hx
  · rename_i _ h
    exact Out.memOk_ite (State.memOk_stall hs) (State.memOk_done hs1 (List.foldlRecOn (motive := fun t : Team => t.MemOk) _ _ hx
      fun t ht _ _ => List.foldlRecOn (motive := fun t : Team => t.MemOk) _ _ ht fun _ hs2 _ _ => Team.memOk_accPut hs2))

theorem Team.memOk_dequeue (ht : t.MemOk) : t.dequeue.MemOk := ht

theorem Team.memOk_dequeueAll (ht : t.MemOk) :
    t.dequeueAll.MemOk := List.foldlRecOn (motive := fun t : Team => t.MemOk) _ _ ht fun _ ht1 _ _ => Team.memOk_dequeue ht1

theorem State.memOk_mxStop {pc : Pc} {c : Byte} (hs : s.MemOk) (ht : t.MemOk) :
    (s.mxStop t pc c info).MemOk := State.memOk_defer (State.memOk_setTeam hs (Team.memOk_dequeueAll ht))

theorem Fetched.memOk_pin {w : Fetched} (hw : w.s.MemOk) : (Fetched.pin w line bs).s.MemOk := hw

theorem Fetched.memOk_line {w : Fetched} {pins : Pins} (hw : w.s.MemOk) (hx : x.team.MemOk) : (Fetched.line w x pins h line).2.s.MemOk := by
  have hl : (w.s.look x (.engine x.fetchTlb) h (64 * line) 64).2.MemOk := State.memOk_look hw hx
  unfold Fetched.line
  split
  · exact hw
  · split
    · exact hw
    · split
      · exact hw
      · exact hl

theorem Fetched.memOk_run {w : Fetched} {pins : Pins} {g : Nat} (hw : w.s.MemOk) (hx : x.team.MemOk) : (Fetched.run w x pins h line g).2.s.MemOk := by
  induction g generalizing w x pins h line with
  | zero => exact hw
  | succ n ih =>
    rw [Fetched.run]
    split
    · rename_i b w1 h1
      have hv : (Except.error b, w1).2.s.MemOk := h1 ▸ Fetched.memOk_line hw hx
      exact hv
    · rename_i bs w1 h1
      have hv : (Except.ok bs, w1).2.s.MemOk := h1 ▸ Fetched.memOk_line hw hx
      split
      · rename_i b w2 h2
        have hv1 : (Except.error b, w2).2.s.MemOk := h2 ▸ ih hv hx
        exact hv1
      · rename_i r w2 h2
        have hv1 : (Except.ok r, w2).2.s.MemOk := h2 ▸ ih hv hx
        exact hv1

theorem Fetched.memOk_bytes {w : Fetched} {pins : Pins} {n : Nat} (hw : w.s.MemOk) (hx : x.team.MemOk) :
    (Fetched.bytes w x pins h pa n).2.s.MemOk := by
  unfold Fetched.bytes
  split
  · rename_i b w1 h1
    have hv : (Except.error b, w1).2.s.MemOk := h1 ▸ Fetched.memOk_run hw hx
    exact hv
  · rename_i bs w1 h1
    have hv : (Except.ok bs, w1).2.s.MemOk := h1 ▸ Fetched.memOk_run hw hx
    exact hv

theorem Fetched.memOk_overlay {w : Fetched} {ls : List Nat} (hw : w.s.MemOk) : (Fetched.overlay w pa bs ls).s.MemOk := hw

theorem Fetched.memOk_noteImage {w : Fetched} {ls : List Nat} (hw : w.s.MemOk) : (Fetched.noteImage w pa bs ls).s.MemOk := by
  unfold Fetched.noteImage
  split
  · split
    · exact hw
    · exact hw
  · exact hw

theorem Fetched.memOk_pinOf {w : Fetched} {pins : Pins} {ls : List Nat} (hw : w.s.MemOk) (hx : x.team.MemOk) :
    (Fetched.pinOf w x pins h pa bs ls).2.s.MemOk := by
  unfold Fetched.pinOf
  split
  · rename_i b w1 h1
    have hv : (Except.error b, w1).2.s.MemOk := h1 ▸ Fetched.memOk_run hw hx
    exact hv
  · rename_i v w1 h1
    have hv : (Except.ok v, w1).2.s.MemOk := h1 ▸ Fetched.memOk_run hw hx
    exact Fetched.memOk_noteImage (Fetched.memOk_overlay hv)

theorem Fetched.memOk_chunk {w : Fetched} {pins : Pins} {n : Nat} {ofs : Nat} {m : Nat} (hw : w.s.MemOk) (hx : x.team.MemOk) :
    (Fetched.chunk w x pins h pa n ofs m).2.s.MemOk := by
  unfold Fetched.chunk
  dsimp only
  split
  · exact Fetched.memOk_pinOf hw hx
  · split
    · exact hw
    · split
      · exact hw
      · exact Fetched.memOk_pinOf (State.memOk_chunkBytes hw hx) hx

theorem Fetched.memOk_elem {w : Fetched} {pins : Pins} {b : Bound} {sub : Bool} {x0 : Nat} {x1 : Nat} (hw : w.s.MemOk) (hx : x.team.MemOk) :
    (Fetched.elem w x pins b sub x0 x1).2.s.MemOk := by
  unfold Fetched.elem
  dsimp only
  split
  · split
    · exact hw
    · exact hw
  · split
    · split
      · exact hw
      · split
        · rename_i bad w1 h3
          have hv : (Except.error bad, w1).2.s.MemOk := h3 ▸ Fetched.memOk_chunk hw hx
          exact hv
        · rename_i bs w1 h3
          have hv : (Except.ok bs, w1).2.s.MemOk := h3 ▸ Fetched.memOk_chunk hw hx
          split
          · exact hv
          · exact hv
    · split
      · exact hw
      · split
        · exact hw
        · split
          · rename_i bad w1 h3
            have hv : (Except.error bad, w1).2.s.MemOk := h3 ▸ Fetched.memOk_bytes hw hx
            exact hv
          · rename_i bs w1 h3
            have hv : (Except.ok bs, w1).2.s.MemOk := h3 ▸ Fetched.memOk_bytes hw hx
            exact hv

theorem Fetched.memOk_row {w : Fetched} {el : Fetched → Nat → Except Miss Fp × Fetched} {k : Nat} {d : Nat} (hw : w.s.MemOk)
    (hel : ∀ a b, a.s.MemOk → (el a b).2.s.MemOk) : (Fetched.row w el k d).2.s.MemOk := by
  induction d generalizing w el k with
  | zero => exact hw
  | succ n ih =>
    rw [Fetched.row]
    split
    · rename_i m w1 h
      have hv : (Except.error m, w1).2.s.MemOk := h ▸ hel _ _ hw
      exact hv
    · rename_i v w1 h
      have hv : (Except.ok v, w1).2.s.MemOk := h ▸ hel _ _ hw
      split
      · rename_i m w2 h1
        have hv1 : (Except.error m, w2).2.s.MemOk := h1 ▸ ih hv hel
        exact hv1
      · rename_i r w2 h1
        have hv1 : (Except.ok r, w2).2.s.MemOk := h1 ▸ ih hv hel
        exact hv1

theorem Fetched.memOk_rows {w : Fetched} {el : Nat → Fetched → Nat → Except Miss Fp × Fetched} {k0 : Nat} {kn : Nat} {g : Nat} (hw : w.s.MemOk)
    (hel : ∀ a b c, b.s.MemOk → (el a b c).2.s.MemOk) : (Fetched.rows w el k0 kn i g).2.s.MemOk := by
  induction g generalizing w el k0 kn i with
  | zero => exact hw
  | succ n ih =>
    rw [Fetched.rows]
    split
    · rename_i m w1 h
      have hv : (Except.error m, w1).2.s.MemOk := h ▸ Fetched.memOk_row hw fun _ _ ha => hel _ _ _ ha
      exact hv
    · rename_i v w1 h
      have hv : (Except.ok v, w1).2.s.MemOk := h ▸ Fetched.memOk_row hw fun _ _ ha => hel _ _ _ ha
      split
      · rename_i m w2 h1
        have hv1 : (Except.error m, w2).2.s.MemOk := h1 ▸ ih hv hel
        exact hv1
      · rename_i r w2 h1
        have hv1 : (Except.ok r, w2).2.s.MemOk := h1 ▸ ih hv hel
        exact hv1

theorem State.memOk_fetchChunk {pins : Pins} {j : Nat} (hs : s.MemOk) (hx : x.team.MemOk) : (s.fetchChunk x pins q j).2.MemOk := by
  unfold State.fetchChunk
  dsimp only
  split
  · exact hs
  · split
    · rename_i m w h1
      have hv : (Except.error m, w).2.s.MemOk := h1 ▸ Fetched.memOk_rows hs fun _ _ _ hw => Fetched.memOk_elem hw hx
      exact hv
    · rename_i ra w h1
      have hv : (Except.ok ra, w).2.s.MemOk := h1 ▸ Fetched.memOk_rows hs fun _ _ _ hw => Fetched.memOk_elem hw hx
      split
      · rename_i m w1 h2
        have hv1 : (Except.error m, w1).2.s.MemOk := h2 ▸ Fetched.memOk_rows hv fun _ _ _ hw1 => Fetched.memOk_elem hw1 hx
        exact hv1
      · rename_i rb w1 h2
        have hv1 : (Except.ok rb, w1).2.s.MemOk := h2 ▸ Fetched.memOk_rows hv fun _ _ _ hw1 => Fetched.memOk_elem hw1 hx
        exact hv1

theorem State.memOk_pacerSite (hs : s.MemOk) : ∀ y, (s.pacerSite team) = some y → y.team.MemOk := by
  unfold State.pacerSite
  split
  · rename_i x h
    have hx := Option.of_all h (State.memOk_site? hs)
    exact Option.all_ite (Option.all_some hx) Option.all_none
  · exact Option.all_none

theorem State.memOk_nextChunk (hs : s.MemOk) :
    ∀ y, (s.nextChunk team) = some y → y.1.team.MemOk ∧ y.2.2.2.2.MemOk := Option.all_bind fun x hx => Option.all_map
      fun _ _ => ⟨((State.memOk_pacerSite hs) x hx), State.memOk_fetchChunk hs (((State.memOk_pacerSite hs) x hx))⟩

theorem memOk_opTileFetchChunk (hs : s.MemOk) : Out.MemOk (opTileFetchChunk team s) := by
  unfold opTileFetchChunk
  split
  · rename_i x i q c s1 h
    have hv := Option.of_all h (State.memOk_nextChunk hs)
    exact Out.memOk_ite hs (State.memOk_creditMisses (State.memOk_setTeam hv.2 hv.1))
  · exact hs

theorem State.memOk_mxHeadStop (hs : s.MemOk) : (s.mxHeadStop team).MemOk := by
  unfold State.mxHeadStop
  split
  · exact hs
  · rename_i t h
    have ht := Option.of_all h (State.memOk_team? hs)
    split
    · split
      · exact State.memOk_ite (State.memOk_mxStop hs ht) hs
      · exact hs
    · exact hs

theorem State.memOk_fetchMiss {f : Miss} (hs : s.MemOk) (hx : x.team.MemOk) : (s.fetchMiss x i q f).MemOk := by
  unfold State.fetchMiss
  split
  · exact hs
  · rename_i va info
    exact State.memOk_ite (State.memOk_mxHeadStop (State.memOk_put hs ((show
      ((x.forgetPageFor PageUser.tiles va).team).MemOk from Site.memOk_forgetPageFor hx)))) (State.memOk_put hs ((show
        ((x.wantPageFor PageUser.tiles va).team).MemOk from Site.memOk_wantPageFor hx)))
  · exact State.memOk_mxHeadStop (State.memOk_setTeam hs hx)
  · exact State.memOk_mxHeadStop (State.memOk_setTeam hs hx)

theorem memOk_opTileFetchFault (hs : s.MemOk) : Out.MemOk (opTileFetchFault team s) := by
  unfold opTileFetchFault
  split
  · rename_i x i q m v h
    have hv := Option.of_all h (State.memOk_nextChunk hs)
    exact State.memOk_fetchMiss hs hv.1
  · exact hs

theorem Team.memOk_applyChunk {n : Nat} {c : Chunk} (ht : t.MemOk) :
    (t.applyChunk q n c).MemOk := List.foldlRecOn (motive := fun t : Team => t.MemOk) _ _ ht fun _ ht1 _ _ => List.foldlRecOn (motive :=
      fun t : Team => t.MemOk) _ _ ht1 fun _ ht2 _ _ => Team.memOk_accPut ht2

theorem State.memOk_mxComplete (hs : s.MemOk) (ht : t.MemOk) : (s.mxComplete t q).MemOk := by
  unfold State.mxComplete
  split
  · split
    · exact State.memOk_mxStop hs ht
    · split
      · rename_i t1 h2
        have ht1 := Option.of_all h2 (Team.memOk_arrive (Team.memOk_dequeue ht))
        exact State.memOk_setTeam hs ht1
      · exact State.memOk_defer (State.memOk_setTeam hs (Team.memOk_dequeue ht))
  · exact State.memOk_setTeam hs (Team.memOk_dequeue ht)

theorem State.memOk_arrayStep (hs : s.MemOk) (ht : t.MemOk) : (s.arrayStep t).MemOk := by
  unfold State.arrayStep
  split
  · exact hs
  · rename_i q r h
    split
    · rename_i n v v1 v2 v3 v4 v5 v6 v7 v8 v9 c cs h1 h2
      split
      · exact State.memOk_mxStop hs ht
      · exact hs
      · exact State.memOk_ite (State.memOk_mxComplete hs ((show ((t.applyChunk q n c).count 3 1).MemOk from Team.memOk_count
          (Team.memOk_applyChunk ht)))) (State.memOk_mxHeadStop (State.memOk_setTeam hs ((show
            ((t.applyChunk q n c).count 3 1).MemOk from Team.memOk_count (Team.memOk_applyChunk ht)))))
    · exact State.memOk_mxHeadStop hs
    · exact hs

theorem memOk_opArrayChunk (hs : s.MemOk) : Out.MemOk (opArrayChunk team s) := by
  unfold opArrayChunk
  split
  · rename_i x h
    have hx := Option.of_all h (State.memOk_pacerSite hs)
    exact State.memOk_arrayStep hs hx
  · exact hs

theorem Team.memOk_zeroRows {row0 : Nat} {n : Nat} (ht : t.MemOk) : (t.zeroRows row0 n).MemOk := ht

theorem memOk_opArrayZero (hs : s.MemOk) : Out.MemOk (opArrayZero team s) := by
  unfold opArrayZero
  split
  · exact hs
  · rename_i x h
    have hx := Option.of_all h (State.memOk_pacerSite hs)
    split
    · split
      · exact State.memOk_setTeam hs (Team.memOk_dequeue (Team.memOk_zeroRows hx))
      · exact hs
    · exact hs

theorem State.memOk_residents (hs : s.MemOk) : ∀ y ∈ (s.residents cl), y.MemOk := List.all_filter hs.2

theorem State.memOk_trackHeats {l : Lane}
    (hs : s.MemOk) : ∀ y ∈ (s.trackHeats l), y.team.MemOk := List.all_flatMap fun t ht => List.all_ite (List.all_filterMap fun _ _ => Option.all_ite
      (Option.all_some (hs.2 t ht)) Option.all_none) List.all_nil

theorem State.memOk_activeOn {l : Lane} (hs : s.MemOk) : ∀ y ∈ (s.activeOn l), y.team.MemOk := List.all_filter (State.memOk_trackHeats hs)

theorem State.memOk_updHeat {f : Heat → Heat} (hs : s.MemOk) : (s.updHeat u f).MemOk := by
  unfold State.updHeat
  split
  · rename_i x h
    have hx := Option.of_all h (State.memOk_site? hs)
    exact State.memOk_put hs hx
  · exact hs

theorem State.memOk_enterActive (hs : s.MemOk) : (s.enterActive u).MemOk := State.memOk_updHeat hs

theorem State.memOk_enterPending (hs : s.MemOk) : (s.enterPending u).MemOk := State.memOk_updHeat hs

theorem State.memOk_seat {hs : List Heat} (hs1 : s.MemOk) : (s.seat team hs).MemOk := by
  unfold State.seat
  split
  · exact hs1
  · exact List.foldlRecOn (motive := fun s : State => s.MemOk) _ _ hs1 fun _ hs11 _ _ => State.memOk_ite (State.memOk_enterActive hs11)
      (State.memOk_enterPending hs11)

theorem State.memOk_takeBank {b : Nat} {mode : BankMode} (hs : s.MemOk) :
    (s.takeBank cl b mode).MemOk := State.memOk_updBank (State.memOk_emptyBank hs)

theorem State.memOk_makeRoom {n : Nat} {d : List Nat} (hs : s.MemOk) : ∀ y, (s.makeRoom cl n d) = some y → y.MemOk := by
  induction d generalizing s cl n with
  | nil => exact Option.all_ite (Option.all_some hs) Option.all_none
  | cons a r ih => exact Option.all_ite (Option.all_some hs) (ih (State.memOk_takeBank hs))

theorem State.memOk_provision (hs : s.MemOk) (ht : t.MemOk) : ∀ y, (s.provision t) = some y → y.1.MemOk ∧ y.2.MemOk := by
  unfold State.provision
  refine Option.all_map fun s1 hs1 => ?_
  split
  · exact ⟨((State.memOk_makeRoom hs) s1 hs1), ht⟩
  · exact ⟨((State.memOk_makeRoom hs) s1 hs1), ht⟩

theorem State.memOk_returnBanks (hs : s.MemOk) : (s.returnBanks cl).MemOk := by
  unfold State.returnBanks
  refine List.foldlRecOn (motive := fun s : State => s.MemOk) _ _ hs fun _ hs1 _ _ => ?_
  split
  · exact State.memOk_ite (State.memOk_updBank hs1) hs1
  · exact hs1

theorem State.memOk_takePacer (hs : s.MemOk) : (s.takePacer t).MemOk := State.memOk_ite (State.memOk_updCluster hs) hs

theorem State.memOk_freeUnits (hs : s.MemOk) : (s.freeUnits t).MemOk := State.memOk_updCluster hs

theorem memOk_opNop (hs : s.MemOk) : Out.MemOk (opNop e s) := memOk_issue hs fun _ _ _ hs1 hx => State.memOk_done hs1 hx

theorem State.memOk_youngest (hs : s.MemOk) (hx : x.team.MemOk) : (s.youngest x).1.MemOk ∧ (s.youngest x).2.team.MemOk := ⟨hs, hx⟩

theorem memOk_opYield (hs : s.MemOk) :
    Out.MemOk (opYield e s) := memOk_issue hs fun _ _ _ hs1 hx => State.memOk_done ((State.memOk_youngest hs1 hx).1) ((State.memOk_youngest hs1 hx).2)

theorem Team.memOk_releaseX {squad : Nat} {heat : Nat} (ht : t.MemOk) : (t.releaseX squad heat).MemOk := ht

theorem Site.memOk_retireIfDone (hx : x.team.MemOk) : x.retireIfDone.team.MemOk := Site.memOk_ite hx (Team.memOk_ite hx (Team.memOk_releaseX hx))

theorem Site.memOk_endFibres (hx : x.team.MemOk) : (x.endFibres is).team.MemOk := Site.memOk_retireIfDone (Team.memOk_ite hx hx)

theorem State.memOk_dropSlot {mine : Baton → Bool} {c : Slot} (hs : s.MemOk) : (s.dropSlot mine c).2.MemOk := by
  unfold State.dropSlot
  split
  · exact hs
  · split
    · exact State.memOk_free hs
    · exact hs

theorem State.memOk_dropSlots {mine : Baton → Bool} {c : List Slot} (hs : s.MemOk) : (s.dropSlots mine c).2.MemOk := by
  induction c generalizing s mine with
  | nil => exact hs
  | cons a r ih => exact ih (State.memOk_dropSlot hs)

theorem State.memOk_dropX {c : List Nat} (hs : s.MemOk) (hx : x.team.MemOk) : (s.dropX x c).1.MemOk ∧ (s.dropX x c).2.team.MemOk := by
  induction c generalizing s x with
  | nil => exact ⟨hs, hx⟩
  | cons a r ih =>
    rw [State.dropX]
    split
    · exact ih hs hx
    · exact ih (State.memOk_dropSlots hs) hx

theorem memOk_opEnd (hs : s.MemOk) : Out.MemOk (opEnd e s) := memOk_issue hs fun _ _ _ hs1 hx => State.memOk_put ((State.memOk_dropX hs1 hx).1)
    (Site.memOk_endFibres (Site.memOk_advance ((State.memOk_dropX hs1 hx).2)))

theorem State.memOk_jump {target : Nat → Pc} (hs : s.MemOk) (hx : x.team.MemOk) :
    Out.MemOk (s.jump x is target) := State.memOk_put hs (List.foldlRecOn (motive := fun x : Site => x.team.MemOk) _ _ (Site.memOk_advance hx)
      fun _ hy1 _ _ => Site.memOk_updFibre hy1)

theorem memOk_opBra {j : JExt} {_len : Nat} (hs : s.MemOk) : Out.MemOk (opBra j _len s) := memOk_issue hs fun _ _ _ hs1 hx => State.memOk_jump hs1 hx

theorem Site.memOk_link {ret : Pc} {k : Nat} (hx : x.team.MemOk) : (x.link ret k i).team.MemOk := Site.memOk_updFibre (Site.memOk_setVal hx)

theorem State.memOk_callTo {k : Nat} {target : Nat → Pc} (hs : s.MemOk) (hx : x.team.MemOk) :
    Out.MemOk (s.callTo x is k target) := State.memOk_jump hs (List.foldlRecOn (motive := fun x : Site => x.team.MemOk) _ _ hx
      fun _ hy1 _ _ => Site.memOk_link hy1)

theorem memOk_callJ {j : JExt} (hs : s.MemOk) : Out.MemOk (callJ j s) := by
  unfold callJ
  refine memOk_issue hs fun _ _ _ hs1 hx => ?_
  split
  · exact State.memOk_trap hs1 hx
  · exact State.memOk_callTo hs1 hx

theorem memOk_opCall {j : JExt} {_len : Nat} (hs : s.MemOk) : Out.MemOk (opCall j _len s) := memOk_callJ hs

theorem memOk_opCallW {j : JExt} {_len : Nat} (hs : s.MemOk) : Out.MemOk (opCallW j _len s) := memOk_callJ hs

theorem memOk_transferX {links : Bool} (hs : s.MemOk) : Out.MemOk (transferX e links s) := by
  unfold transferX
  dsimp only
  refine memOk_issue hs fun _ _ _ hs1 hx => ?_
  split
  · exact State.memOk_trap hs1 hx
  · exact Out.memOk_ite (State.memOk_callTo hs1 hx) (State.memOk_jump hs1 hx)

theorem memOk_opBrx (hs : s.MemOk) : Out.MemOk (opBrx e s) := memOk_transferX hs

theorem memOk_opCallx (hs : s.MemOk) : Out.MemOk (opCallx e s) := memOk_transferX hs

theorem memOk_opCallxW (hs : s.MemOk) : Out.MemOk (opCallxW e s) := memOk_transferX hs

theorem memOk_opRet (hs : s.MemOk) : Out.MemOk (opRet e s) := by
  unfold opRet
  dsimp only
  refine memOk_issue hs fun _ x _ hs1 hx => ?_
  split
  · exact State.memOk_trap hs1 hx
  · rename_i _ h
    exact State.memOk_jump hs1 (List.foldlRecOn (motive := fun x : Site => x.team.MemOk) _ _ hx fun _ hy1 _ _ => Site.memOk_updFibre hy1)

theorem memOk_maskOp {f : Site → List Nat → Heat → Heat} (hs : s.MemOk) :
    Out.MemOk (maskOp e us f s) := memOk_issue hs fun _ _ _ hs1 hx => State.memOk_put hs1 (Site.memOk_advance hx)

theorem memOk_opJoin (hs : s.MemOk) : Out.MemOk (opJoin e s) := memOk_maskOp hs

theorem memOk_opLeave (hs : s.MemOk) : Out.MemOk (opLeave e s) := memOk_maskOp hs

theorem memOk_opWaitm (hs : s.MemOk) : Out.MemOk (opWaitm e s) := memOk_maskOp hs

theorem memOk_opMset (hs : s.MemOk) : Out.MemOk (opMset e s) := memOk_maskOp hs

theorem memOk_opMget (hs : s.MemOk) :
    Out.MemOk (opMget e s) := memOk_issue hs fun _ _ _ ha hb => memOk_regEffect (fun _ _ _ _ hy1 => Site.memOk_setVal hy1) ha hb

theorem memOk_forkLoop {pc : Pc} {d : List Nat} {f : List Nat} {g : Site} (hx : x.team.MemOk) (hg : g.team.MemOk) :
    (forkLoop e x pc d f g).team.MemOk := by
  induction d generalizing e x pc f g with
  | nil =>
    unfold forkLoop
    exact hg
  | cons a r ih =>
    unfold forkLoop
    dsimp only
    split
    · exact ih hx (Site.memOk_setGuard (Site.memOk_setVal hg))
    · exact ih hx (Site.memOk_setGuard (Site.memOk_setVal hg))

theorem memOk_opFork (hs : s.MemOk) : Out.MemOk (opFork e s) := by
  unfold opFork
  refine memOk_issueOn hs fun _ _ _ hs1 hx => ?_
  split
  · exact State.memOk_trap hs1 hx
  · exact State.memOk_done hs1 (memOk_forkLoop hx hx)

theorem memOk_opVote (hs : s.MemOk) :
    Out.MemOk (opVote e s) := memOk_issue hs fun _ _ _ hs1 hx => memOk_regEffect (fun _ _ _ _ hy1 => Site.memOk_dst32 hy1) hs1 hx

theorem memOk_opShfl (hs : s.MemOk) :
    Out.MemOk (opShfl e s) := memOk_issue hs fun _ _ _ hs1 hx => memOk_regEffect (fun _ _ _ _ hy1 => Site.memOk_dst hy1) hs1 hx

theorem memOk_opBcast (hs : s.MemOk) : Out.MemOk (opBcast e s) := by
  unfold opBcast
  dsimp only
  refine memOk_issueOn hs fun _ _ _ hs1 hx => ?_
  split
  · exact State.memOk_trap hs1 hx
  · rename_i _ h
    exact memOk_regEffect (fun _ _ _ _ hy1 => Site.memOk_dst hy1) hs1 hx

theorem Site.memOk_updX {f : XSet → XSet} (hx : x.team.MemOk) : (x.updX f).team.MemOk := hx

theorem State.memOk_xTrap (hs : s.MemOk) (hx : x.team.MemOk) : Out.MemOk (s.xTrap x is) := State.memOk_trap (State.memOk_free hs) hx

theorem memOk_opXlock (hs : s.MemOk) : Out.MemOk (opXlock e s) := by
  unfold opXlock
  refine memOk_issue hs fun _ _ _ hs1 hx => ?_
  split
  · exact State.memOk_xTrap hs1 hx
  · split
    · exact State.memOk_done hs1 (Site.memOk_updX hx)
    · refine Out.memOk_ite (State.memOk_done hs1 hx) ?_
      split
      · rename_i x0 h3
        have hx0 := Option.of_all h3 (State.memOk_here hs)
        exact State.memOk_wait hs (Site.memOk_updX hx0)
      · exact hs

theorem memOk_opXfree (hs : s.MemOk) : Out.MemOk (opXfree e s) := memOk_issue hs fun _ _ _ hs1 hx => Out.memOk_ite (State.memOk_xTrap hs1 hx)
    (Out.memOk_ite (State.memOk_stall hs) (State.memOk_done hs1 (Team.memOk_releaseX hx)))

theorem memOk_opSysrd (hs : s.MemOk) :
    Out.MemOk (opSysrd e s) := memOk_issue hs fun _ _ _ hs1 hx => memOk_regEffect (fun _ _ _ _ hy1 => Site.memOk_setVal hy1) hs1 hx

theorem memOk_opSyswr (hs : s.MemOk) : Out.MemOk (opSyswr e s) := by
  unfold opSyswr
  refine memOk_issue hs fun _ _ _ hs1 hx => ?_
  refine Out.memOk_ite (memOk_regEffect (fun _ _ _ _ hy1 => Site.memOk_setSeed hy1) hs1 hx) ?_
  refine Out.memOk_ite (memOk_regEffect (fun _ _ _ _ hy1 => Site.memOk_updFibre hy1) hs1 hx) ?_
  split
  · exact State.memOk_done (State.memOk_setCtx hs1) hx
  · exact State.memOk_done hs1 hx

theorem memOk_trapAfter {c : Byte}
    (hs : s.MemOk) : Out.MemOk (trapAfter e c s) := memOk_issue hs fun _ _ _ hs1 hx => State.memOk_takeTrap hs1 (Site.memOk_advance hx)

theorem memOk_opTrap (hs : s.MemOk) : Out.MemOk (opTrap e s) := memOk_trapAfter hs

theorem memOk_opBrk (hs : s.MemOk) : Out.MemOk (opBrk e s) := memOk_trapAfter hs

theorem Site.memOk_leaveHandler (hx : x.team.MemOk) : (x.leaveHandler is).team.MemOk := Site.memOk_updFibres hx

theorem State.memOk_forgetTrap (hs : s.MemOk) (hx : x.team.MemOk) : (s.forgetTrap x).1.MemOk ∧ (s.forgetTrap x).2.team.MemOk := by
  unfold State.forgetTrap
  split
  · exact ⟨hs, hx⟩
  · exact ⟨State.memOk_free (State.memOk_free (State.memOk_free hs)), hx⟩

theorem memOk_opEret (hs : s.MemOk) : Out.MemOk (opEret e s) := by
  unfold opEret
  refine memOk_issue hs fun _ _ _ hs1 hx => ?_
  split
  · exact State.memOk_trap hs1 hx
  · exact State.memOk_put ((State.memOk_forgetTrap hs1 (Site.memOk_leaveHandler (Site.memOk_advance hx))).1) ((State.memOk_forgetTrap hs1
      (Site.memOk_leaveHandler (Site.memOk_advance hx))).2)

theorem memOk_opPerfrd (hs : s.MemOk) :
    Out.MemOk (opPerfrd e s) := memOk_issue hs fun _ _ _ hs1 hx => memOk_regEffect (fun _ _ _ _ hy1 => Site.memOk_setVal hy1) hs1 hx

theorem memOk_opBudget (hs : s.MemOk) :
    Out.MemOk (opBudget e s) := memOk_issue hs fun _ _ _ hs1 hx => memOk_regEffect (fun _ _ _ _ hy1 => Site.memOk_setVal hy1) hs1 hx

end Sys2Proof.Machine
end

section
/-!
SUPPORT. The canonical form of memory in the system instructions, in saves and restores, in queues and admission and in whose turn it is: each of them keeps it.
-/

namespace Sys2Proof.Machine

variable {s : State} {t : Team} {e : Ext} {h : Hit} {u : UnitRef} {cl : ClusterRef} {team : Nat} {die : Nat} {ctx : Nat} {va : Nat} {tlb : TlbId}
  {d : DriverCommand} {m : Meet}

theorem State.memOk_deliverable (hs : s.MemOk) : ∀ y, (s.deliverable team) = some y → y.2.1.team.MemOk := by
  unfold State.deliverable
  refine Option.all_bind fun t ht => ?_
  split
  · exact Option.all_bind fun _ _ => Option.all_bind fun _ _ => Option.all_ite Option.all_none (Option.all_some (((State.memOk_team? hs) t ht)))
  · exact Option.all_none

theorem State.memOk_deliver (hs : s.MemOk) : (s.deliver team).MemOk := by
  unfold State.deliver
  split
  · exact hs
  · rename_i d x is h
    have hv := Option.of_all h (State.memOk_deliverable hs)
    exact State.memOk_ite (State.memOk_ite (State.memOk_put hs hv) (State.memOk_fatal hs hv)) (State.memOk_put hs (Site.memOk_enter hv))

theorem memOk_opDeferredTrapDelivery (hs : s.MemOk) : Out.MemOk (opDeferredTrapDelivery team s) := State.memOk_deliver hs

theorem State.memOk_adoptDue (hs : s.MemOk) (ht : t.MemOk) : (s.adoptDue t).MemOk := by
  unfold State.adoptDue
  split
  · exact State.memOk_ite (State.memOk_setTeam (State.memOk_setCtx hs) (List.foldlRecOn (motive := fun t : Team => t.MemOk) _ _ ht
      fun _ hs1 _ _ => Team.memOk_defer hs1)) hs
  · exact hs

theorem State.memOk_commandSyswr (hs : s.MemOk) : (s.commandSyswr d).MemOk := by
  unfold State.commandSyswr
  refine State.memOk_commandOn hs fun _ _ hs1 hx => ?_
  split
  · exact State.memOk_put hs1 (Site.memOk_setSeed hx)
  · split
    · exact State.memOk_put hs1 (Site.memOk_updFibre hx)
    · exact hs1

theorem memOk_opDriverSyswr {driver : Nat} {team : Option Nat} {v : DWord} (hs : s.MemOk) : Out.MemOk (opDriverSyswr driver ctx team e v s) := by
  unfold opDriverSyswr
  refine Out.memOk_ite ?_ (Command.memOk_answer hs (State.memOk_commandSyswr hs))
  refine Out.memOk_ite (State.memOk_tell hs) ?_
  refine Out.memOk_ite (State.memOk_tell hs) ?_
  split
  · exact State.memOk_tell (State.memOk_setCtx hs)
  · exact State.memOk_tell hs

theorem memOk_outState {o : Out} (hs : s.MemOk) (ho : Out.MemOk o) : (outState s o).MemOk := by
  cases o with
  | next t => exact ho
  | fault _ => exact hs
  | refused _ => exact hs

theorem State.memOk_arrayPush (hs : s.MemOk) : (s.arrayPush team).MemOk := by
  unfold State.arrayPush
  split
  · exact hs
  · split
    · exact memOk_outState hs (memOk_opArrayZero hs)
    · refine State.memOk_ite (memOk_outState hs (memOk_opArrayChunk hs)) ?_
      split
      · rename_i x i q1 c s1 h2
        have hv := Option.of_all h2 (State.memOk_nextChunk hs)
        exact State.memOk_creditMisses (State.memOk_setTeam hv.2 hv.1)
      · rename_i x i q1 m v11 h2
        have hv := Option.of_all h2 (State.memOk_nextChunk hs)
        exact State.memOk_fetchMiss hs hv.1
      · exact hs

theorem State.memOk_carryArray {c : Nat} (hs : s.MemOk) : (s.carryArray team c).MemOk := by
  induction c generalizing s team with
  | zero => exact hs
  | succ n ih => exact State.memOk_ite (ih (State.memOk_arrayPush hs)) hs

theorem State.memOk_settle (hs : s.MemOk) : (s.settle t).MemOk := by
  unfold State.settle
  refine List.foldlRecOn (motive := fun s : State => s.MemOk) _ _ hs fun _ hs1 _ _ => ?_
  refine List.foldlRecOn (motive := fun s : State => s.MemOk) _ _ hs1 fun _ hs2 _ _ => ?_
  split
  · exact State.memOk_arrive hs2
  · exact State.memOk_arrive hs2
  · exact hs2

theorem Team.memOk_framed {c : Cluster} (ht : t.MemOk) : (t.framed s c).MemOk := ht

theorem State.memOk_shareAsk {page : Nat} {k : Nat} (hs : s.MemOk) :
    (s.shareAsk die ctx page k).MemOk := State.memOk_mapTeams hs fun _ ht => Team.memOk_ite (Team.memOk_ite ht ht) (Team.memOk_ite ht ht)

theorem State.memOk_askPages {c : Nat} (hs : s.MemOk) : (s.askPages die c).MemOk := by
  induction c generalizing s die with
  | zero => exact hs
  | succ n ih =>
    rw [State.askPages]
    refine State.memOk_ite hs ?_
    split
    · exact hs
    · exact State.memOk_ite (ih (State.memOk_shareAsk hs)) (State.memOk_ite hs (ih (State.memOk_tell (State.memOk_shareAsk hs))))

theorem State.memOk_mergePages (hs : s.MemOk) :
    (s.mergePages die).MemOk := List.foldlRecOn (motive := fun s : State => s.MemOk) _ _ hs fun _ hs1 _ _ => State.memOk_shareAsk hs1

theorem State.memOk_askAll (hs : s.MemOk) : (s.askAll die).MemOk := State.memOk_askPages (State.memOk_mergePages hs)

theorem State.memOk_askEverywhere (hs : s.MemOk) :
    s.askEverywhere.MemOk := List.foldlRecOn (motive := fun s : State => s.MemOk) _ _ hs fun _ hs1 _ _ => State.memOk_askAll hs1

theorem State.memOk_saveTeam {id : Nat} (hs : s.MemOk) : (s.saveTeam id).MemOk := by
  unfold State.saveTeam
  dsimp only
  split
  · exact hs
  · rename_i t h
    have ht := Option.of_all h (State.memOk_team? hs)
    refine State.memOk_ite hs ?_
    split
    · exact State.memOk_carryArray hs
    · rename_i t1 h1
      have ht1 := Option.of_all h1 (State.memOk_team? (State.memOk_carryArray hs))
      split
      · rename_i t2 c h2 h3
        have ht2 := Option.of_all h2 (State.memOk_team? (State.memOk_settle (State.memOk_carryArray hs)))
        exact State.memOk_askAll (State.memOk_updCluster (State.memOk_freeUnits (State.memOk_writeFrame (State.memOk_setTeam (State.memOk_settle
          (State.memOk_carryArray hs)) ((show (t2.framed ((s.carryArray id t.arraySteps).settle t1) c).MemOk from Team.memOk_framed ht2))))))
      · exact State.memOk_settle (State.memOk_carryArray hs)

theorem Team.memOk_answered {page : Nat} {success : Bool} {ok : Nat → Bool} (ht : t.MemOk) :
    (t.answered ctx page success ok).MemOk := Team.memOk_ite ht ht

theorem State.memOk_collAnswered {page : Nat} {success : Bool} (hs : s.MemOk) : (s.collAnswered ctx page success).MemOk := by
  unfold State.collAnswered
  refine List.foldlRecOn (motive := fun s : State => s.MemOk) _ _ hs fun _ hs1 _ _ => ?_
  refine List.foldlRecOn (motive := fun s : State => s.MemOk) _ _ hs1 fun _ hs2 _ _ => ?_
  split
  · exact State.memOk_ite (State.memOk_collRead hs2) (State.memOk_collFail hs2)
  · exact hs2

theorem State.memOk_fillTlb (hs : s.MemOk) : (s.fillTlb tlb ctx h).MemOk := hs

theorem State.memOk_walked (hs : s.MemOk) : (s.walked tlb ctx va).MemOk := by
  unfold State.walked
  split
  · exact State.memOk_useTables hs
  · exact hs

theorem State.memOk_shotDone (hs : s.MemOk) : s.shotDone.MemOk := State.memOk_ite hs (State.memOk_tellAll hs)

theorem State.memOk_putFifos {c : List (Nat × Fifo)} (hs : s.MemOk) : ∀ y, (s.putFifos cl c) = some y → y.MemOk := by
  induction c generalizing s cl with
  | nil => exact Option.all_some hs
  | cons a r ih => exact Option.all_bind fun _ _ => ih (State.memOk_setFifo (State.memOk_ite hs (State.memOk_takeBank hs)))

theorem Team.memOk_unframed {c : Cluster} (ht : t.MemOk) : (t.unframed s c).MemOk := ht

theorem State.memOk_resolveElem {tag : BitVec 6} {fibre : Nat} {d : Deliv} {forget : Option Nat} (hs : s.MemOk) :
    (s.resolveElem u tag fibre d forget).MemOk := by
  unfold State.resolveElem
  split
  · exact hs
  · rename_i x h
    have hx := Option.of_all h (State.memOk_site? hs)
    split
    · exact hs
    · refine State.memOk_put hs ?_
      split
      · exact Site.memOk_forgetPageFor (Site.memOk_resolve hx)
      · exact Site.memOk_resolve hx

theorem State.memOk_setWaits {tag : BitVec 6} {fibre : Nat} {w : Waits} (hs : s.MemOk) : (s.setWaits u tag fibre w).MemOk := by
  unfold State.setWaits
  split
  · exact hs
  · rename_i x h
    have hx := Option.of_all h (State.memOk_site? hs)
    exact State.memOk_put hs hx

theorem State.memOk_keepReplay {tag : BitVec 6} {fibre : Nat} (hs : s.MemOk) : (s.keepReplay u tag fibre va).MemOk := by
  unfold State.keepReplay
  split
  · exact hs
  · rename_i x h
    have hx := Option.of_all h (State.memOk_site? hs)
    exact State.memOk_setWaits (State.memOk_put hs (Site.memOk_wantPageFor hx))

theorem State.memOk_replay {tag : BitVec 6} {fibre : Nat} (hs : s.MemOk) : ∀ y, (s.replay u tag fibre) = some y → y.MemOk := by
  unfold State.replay
  split
  · exact Option.all_some hs
  · rename_i x h
    have hx := Option.of_all h (State.memOk_site? hs)
    split
    · exact Option.all_some hs
    · split
      · exact Option.all_some hs
      · split
        · exact Option.all_some (State.memOk_setWaits hs)
        · rename_i _ h3
          split
          · rename_i v s1 h4
            have hv : (Got.value v, s1).2.MemOk := h4 ▸ State.memOk_performLoad hs (Site.memOk_before hx)
            refine Option.all_ite ?_ (Option.all_some (State.memOk_resolveElem (State.memOk_put (State.memOk_countLate hv) (by exact hx))))
            split
            · rename_i x1 h5
              have hx1 := Option.of_all h5 (State.memOk_site? (State.memOk_resolveElem (State.memOk_put (State.memOk_countLate hv) (by exact hx))))
              exact Option.all_some (State.memOk_put ((State.memOk_acquireAt (State.memOk_resolveElem (State.memOk_put (State.memOk_countLate hv)
                (by exact hx))) hx1).1) ((State.memOk_acquireAt (State.memOk_resolveElem (State.memOk_put (State.memOk_countLate hv)
                  (by exact hx))) hx1).2))
            · exact Option.all_some (State.memOk_resolveElem (State.memOk_put (State.memOk_countLate hv) (by exact hx)))
          · rename_i c s1 h4
            have hv : (Got.fault c, s1).2.MemOk := h4 ▸ State.memOk_performLoad hs (Site.memOk_before hx)
            exact Option.all_some (State.memOk_resolveElem hv)
          · rename_i va s1 h4
            have hv : (Got.page va, s1).2.MemOk := h4 ▸ State.memOk_performLoad hs (Site.memOk_before hx)
            exact Option.all_ite (Option.all_some (State.memOk_resolveElem hv)) (Option.all_some (State.memOk_keepReplay hv))
          · exact Option.all_some (State.memOk_setWaits hs)
          · exact Option.all_none

theorem State.memOk_resolveAwait {tag : BitVec 6} {fibre : Nat} {got : Option Arrival} (hs : s.MemOk) : (s.resolveAwait u tag fibre got).MemOk := by
  unfold State.resolveAwait
  split
  · exact hs
  · split
    · exact hs
    · split
      · exact State.memOk_resolveElem hs
      · exact State.memOk_resolveElem hs

theorem State.memOk_resolveFrame {l : List FrameRec} (hs : s.MemOk) : ∀ y, (s.resolveFrame l) = some y → y.MemOk := by
  induction l generalizing s with
  | nil => exact Option.all_some hs
  | cons a r ih =>
    cases a with
    | replay u tag i =>
      rw [State.resolveFrame]
      exact Option.all_bind fun t ht => ih (State.memOk_replay hs t ht)
    | await u tag i got => exact ih (State.memOk_resolveAwait hs)

theorem State.memOk_owedBudget (ht : t.MemOk) : (s.owedBudget t).MemOk := Team.memOk_ite (Team.memOk_defer ht) ht

theorem State.memOk_restoreTeam (hs : s.MemOk) (ht : t.MemOk) : ∀ y, (s.restoreTeam t) = some y → y.MemOk := by
  intro v h
  rw [State.restoreTeam] at h
  split at h
  · split at h
    · obtain ⟨⟨s1, t1⟩, hp, h⟩ := Option.bind_eq_some_iff.mp h
      obtain ⟨h1, ht1⟩ := State.memOk_provision hs ht _ hp
      obtain ⟨s2, hf, h⟩ := Option.bind_eq_some_iff.mp h
      have h2 := State.memOk_putFifos h1 _ hf
      dsimp only at h
      split at h
      · cases h
      · obtain ⟨s5, hr, rfl⟩ := Option.map_eq_some_iff.mp h
        refine State.memOk_creditMisses (State.memOk_resolveFrame ?_ _ hr)
        refine State.memOk_seat (State.memOk_setTeam (State.memOk_updCluster (State.memOk_takePacer h2)) (State.memOk_owedBudget ?_))
        exact ht1
    · cases h
  · cases h

theorem State.memOk_endSessions {p : Nat → KeySlot → Bool} (hs : s.MemOk) : (s.endSessions p).MemOk := hs

theorem State.memOk_killCtx (hs : s.MemOk) : (s.killCtx ctx).MemOk := by
  unfold State.killCtx
  split
  · exact hs
  · exact List.foldlRecOn (motive := fun s : State => s.MemOk) _ _ (State.memOk_endSessions (State.memOk_setCtx hs))
      fun _ hs1 _ _ => State.memOk_terminate hs1

theorem memOk_opFramePoolRegister {base : Nat} {bytes : Nat} (hs : s.MemOk) : Out.MemOk (opFramePoolRegister ctx die base bytes s) := by
  unfold opFramePoolRegister
  split
  · exact Out.memOk_ite (State.memOk_setCtx hs) hs
  · exact hs

theorem State.memOk_cpBytes {n : Nat} {g : Nat} (hs : s.MemOk) : ∀ y, (s.cpBytes die ctx va n g) = .ok y → y.2.MemOk := by
  induction g generalizing s die ctx va n with
  | zero => exact Except.all_ok hs
  | succ n1 ih =>
    rw [State.cpBytes]
    refine Except.all_ite (Except.all_ok hs) ?_
    split
    · exact Except.all_error
    · exact Except.all_ite Except.all_error (Except.all_map fun r hr => ((ih (State.memOk_homeRead hs)) r hr))

theorem State.memOk_cpRead {n : Nat}
    (hs : s.MemOk) : ∀ y, (s.cpRead die ctx va n) = .ok y → y.2.MemOk := Except.all_map fun r hr => ((State.memOk_cpBytes hs) r hr)

theorem State.memOk_readFields {a : Nat} {k : Nat} {g : Nat} (hs : s.MemOk) : ∀ y, (s.readFields die ctx a k g) = .ok y → y.2.MemOk := by
  induction g generalizing s die ctx a k with
  | zero => exact Except.all_ok hs
  | succ n ih =>
    rw [State.readFields]
    split
    · exact Except.all_error
    · rename_i r s1 h
      have hv := Except.of_all h (State.memOk_cpRead hs)
      split
      · exact Except.all_error
      · split
        · exact Except.all_error
        · rename_i e s2 h2
          have hv1 := Except.of_all h2 (State.memOk_cpRead hv)
          split
          · exact Except.all_error
          · exact Except.all_map fun p hp => ((ih hv1) p hp)

theorem State.memOk_readMeet {a : Nat} (hs : s.MemOk) : ∀ y, (s.readMeet die ctx a) = .ok y → y.2.2.MemOk := by
  unfold State.readMeet
  split
  · exact Except.all_error
  · rename_i h s1 h1
    have hv := Except.of_all h1 (State.memOk_cpRead hs)
    exact Except.all_ite Except.all_error (Except.all_map fun p hp => ((State.memOk_readFields hv) p hp))

theorem State.memOk_takeTokens (hs : s.MemOk) :
    ∀ y, (s.takeTokens m) = some y → y.MemOk := Option.all_bind fun _ _ => Option.all_ite Option.all_none (Option.all_ite (Option.all_some
      (State.memOk_setTenant hs)) (Option.all_ite (Option.all_some (State.memOk_setTenant hs)) Option.all_none))

theorem State.memOk_advanceHead {q : Queue} (hs : s.MemOk) : (s.advanceHead q).MemOk := by
  unfold State.advanceHead
  dsimp only
  split
  · exact State.memOk_cpStore (State.memOk_setQueue hs)
  · split
    · exact State.memOk_cpStore (State.memOk_setQueue hs)
    · exact State.memOk_setQueue hs
  · exact State.memOk_setQueue hs

theorem State.memOk_reject {code : Nat} (hs : s.MemOk) : (s.reject m code).MemOk := by
  unfold State.reject
  split
  · exact State.memOk_signal hs
  · exact State.memOk_cpStore hs

theorem State.memOk_settleQueue {queue : Option Nat} (hs : s.MemOk) : (s.settleQueue queue).MemOk := by
  unfold State.settleQueue
  split
  · exact State.memOk_advanceHead hs
  · exact hs

theorem State.memOk_enrol (hs : s.MemOk) : (s.enrol m).MemOk := hs

theorem State.memOk_conclude {codes : List Nat} {queue : Option Nat} (hs : s.MemOk) : (s.conclude m codes queue).MemOk := by
  unfold State.conclude
  split
  · exact State.memOk_settleQueue (State.memOk_reject hs)
  · rename_i _ h
    refine State.memOk_ite (State.memOk_settleQueue (State.memOk_reject hs)) ?_
    refine State.memOk_ite (State.memOk_settleQueue (State.memOk_reject hs)) ?_
    split
    · exact State.memOk_settleQueue (State.memOk_reject hs)
    · rename_i s1 h1
      have hs1 := Option.of_all h1 (State.memOk_takeTokens hs)
      exact State.memOk_settleQueue (State.memOk_enrol hs1)

theorem State.memOk_beginRound {q : Queue}
    (hs : s.MemOk) : (s.beginRound m q).MemOk := State.memOk_ite (State.memOk_conclude (State.memOk_setMeet hs)) (State.memOk_setQueue
      (State.memOk_setMeet hs))

theorem State.memOk_consume {q : Queue} (hs : s.MemOk) : (s.consume q).MemOk := by
  unfold State.consume
  dsimp only
  refine State.memOk_ite hs ?_
  split
  · exact hs
  · exact State.memOk_ite hs (State.memOk_tell (State.memOk_setQueue hs))
  · rename_i v s1 h
    have hv := Except.of_all h (State.memOk_cpRead hs)
    refine State.memOk_ite hv ?_
    split
    · exact hv
    · exact State.memOk_advanceHead (State.memOk_reject hv)
    · rename_i args fs s2 h1
      have hv1 := Except.of_all h1 (Except.all_ite (State.memOk_readMeet hv) Except.all_error)
      split
      · exact State.memOk_advanceHead (State.memOk_reject hv1)
      · exact State.memOk_beginRound hv1

theorem State.memOk_putPart {part : Nat} {locs : List ClusterRef} {whole : Bool} {ds : List Nat} (hs : s.MemOk) :
    (s.putPart part locs whole ds).MemOk := hs

theorem State.memOk_updPart {part : Nat} {f : Partition → Partition} (hs : s.MemOk) : (s.updPart part f).MemOk := hs

theorem Team.memOk_units (ht : t.MemOk) : ∀ y ∈ t.units, y.team.MemOk := by
  intro y hy
  rcases List.mem_append.mp hy with h | h
  · exact List.all_filterMap (Q := fun x : Site => x.team.MemOk) (fun _ _ => Option.all_ite (Option.all_some ht) Option.all_none) y h
  · cases hp : t.pacer with
    | none => rw [hp] at h; cases h
    | some p =>
      rw [hp] at h
      exact List.all_ite (P := fun x : Site => x.team.MemOk) (fun x hx => List.mem_singleton.mp hx ▸ ht) List.all_nil y h

theorem State.memOk_units (hs : s.MemOk) :
    ∀ y ∈ s.units, y.team.MemOk := List.all_flatMap fun t ht => List.all_ite (Team.memOk_units (hs.2 t ht)) List.all_nil

theorem State.memOk_refresh (hs : s.MemOk) : s.refresh.MemOk := State.memOk_mapTeams hs fun _ ht => Team.memOk_ite ht ht

theorem memOk_oldest {us : List Site} (hus : ∀ y ∈ us, y.team.MemOk) : ∀ y ∈ (oldest us), y.team.MemOk := List.all_filter hus

theorem State.memOk_pick (hs : s.MemOk) : ∀ y, s.pick = some y → y.team.MemOk :=
  Option.all_getElem? (List.all_filter (List.all_ite (State.memOk_units hs) (List.all_filter (State.memOk_units hs))))

theorem State.memOk_turned (hs : s.MemOk) : s.turned.MemOk := State.memOk_chosen (State.memOk_ite (State.memOk_refresh hs) hs)

end Sys2Proof.Machine
end

section
/-!
SUPPORT. The canonical form of memory in swaps, launches, placement, retirement, charges, coherence transactions and changes of class: each of them keeps it.
-/

namespace Sys2Proof.Machine

variable {s : State} {x : Site} {t : Team} {is : List Nat} {u : UnitRef} {cl : ClusterRef} {line : Nat} {pa : Nat} {team : Nat} {die : Nat} {m : Meet}

theorem State.memOk_decodeTrap {ws : List Word} {c : Byte} (hs : s.MemOk) :
    Out.MemOk (s.decodeTrap ws c) := memOk_issue hs fun _ _ _ hs1 hx => State.memOk_trap hs1 hx

theorem State.memOk_fetchFault {b : Bad} (hs : s.MemOk) (hx : x.team.MemOk) : Out.MemOk (s.fetchFault x b) := by
  unfold State.fetchFault
  dsimp only
  split
  · refine State.memOk_pageFault ?_ ?_
    · split
      · exact (State.memOk_account hs hx).1
      · exact hs
    · split
      · exact (State.memOk_account hs hx).2
      · exact hx
  · exact State.memOk_trap ((State.memOk_account hs hx).1) ((State.memOk_account hs hx).2)
  · exact State.memOk_trap ((State.memOk_account hs hx).1) ((State.memOk_account hs hx).2)
  · exact State.memOk_wait hs hx

theorem State.memOk_tick (hs : s.MemOk) :
    s.tick.MemOk := State.memOk_ite hs (State.memOk_mapTeams hs fun _ ht => Team.memOk_ite (Team.memOk_count ht) ht)

theorem State.memOk_at_ {batch : List Nat} {pc : Pc} {len : Nat} {w : Word} (hs : s.MemOk) : (s.at_ u batch pc len w).MemOk := hs

theorem State.memOk_fetchTurn (hs : s.MemOk) (hx : x.team.MemOk) : (s.fetchTurn x is).MemOk := by
  unfold State.fetchTurn
  dsimp only
  split
  · exact State.memOk_fetchFault (State.memOk_at_ hs) hx
  · split
    · split
      · exact State.memOk_wait (State.memOk_at_ hs) hx
      · exact State.memOk_at_ hs
    · exact State.memOk_decodeTrap (State.memOk_at_ hs)
    · exact State.memOk_decodeTrap (State.memOk_at_ hs)

theorem State.memOk_unitTurn (hs : s.MemOk) : (s.unitTurn u).MemOk := by
  unfold State.unitTurn
  split
  · exact hs
  · rename_i x h
    have hx := Option.of_all h (State.memOk_site? hs)
    split
    · exact hs
    · split
      · exact State.memOk_deliver hs
      · exact State.memOk_fetchTurn hs hx

theorem State.memOk_saveTurn (hs : s.MemOk) : (s.saveTurn u).MemOk := State.memOk_ite (State.memOk_updHeat (State.memOk_saveTeam hs))
    (State.memOk_saveTeam hs)

theorem State.memOk_turnOf (hs : s.MemOk) : s.turnOf.MemOk := by
  unfold State.turnOf
  split
  · exact State.memOk_at_ (State.memOk_turned hs)
  · rename_i x h
    have hx := Option.of_all h (State.memOk_pick hs)
    split
    · exact State.memOk_saveTurn (State.memOk_at_ (State.memOk_adoptDue (State.memOk_turned hs) hx))
    · exact State.memOk_unitTurn (State.memOk_at_ (State.memOk_adoptDue (State.memOk_turned hs) hx))

theorem State.memOk_pendingOn {l : Lane} (hs : s.MemOk) : ∀ y ∈ (s.pendingOn l), y.team.MemOk := List.all_filter (State.memOk_trackHeats hs)

theorem State.memOk_leaveActive (hs : s.MemOk) :
    (s.leaveActive u).MemOk := State.memOk_updTeam (State.memOk_enterPending hs) fun _ ht => Team.memOk_count ht

theorem State.memOk_swapHeats {out : Site} {inn : Site} (hs : s.MemOk) :
    (s.swapHeats out inn).MemOk := State.memOk_enterActive (State.memOk_leaveActive hs)

theorem leastBy_mem {α : Type} {f : α → Nat} {a : α} : ∀ {l : List α}, leastBy f l = some a → a ∈ l
  | b :: r, h => by
    have hm : ∀ (r : List α) (b : α), r.foldl (fun b c => if f c < f b then c else b) b ∈ b :: r := by
      intro r
      induction r with
      | nil => exact fun b => List.mem_singleton.mpr rfl
      | cons c r ih =>
        intro b
        rw [List.foldl_cons]
        split
        · exact List.mem_cons_of_mem _ (ih c)
        · exact List.mem_cons.mpr ((List.mem_cons.mp (ih b)).imp id (List.mem_cons_of_mem _))
    exact Option.some.inj h ▸ hm r b

theorem memOk_longest {l : List Site} (hl : ∀ y ∈ l, y.team.MemOk) : ∀ y, longest l = some y → y.team.MemOk := fun y hy => hl y (leastBy_mem hy)

theorem memOk_opForcedSwap {core : Nat} {track : Nat} (hs : s.MemOk) : Out.MemOk (opForcedSwap cl core track s) := by
  unfold opForcedSwap
  dsimp only
  split
  · exact State.memOk_swapHeats hs
  · exact hs

theorem memOk_opPendingSwap {core : Nat} {track : Nat} (hs : s.MemOk) : Out.MemOk (opPendingSwap cl core track s) := by
  unfold opPendingSwap
  dsimp only
  split
  · exact hs
  · refine Out.memOk_ite (State.memOk_enterActive hs) ?_
    split
    · exact State.memOk_swapHeats hs
    · exact hs

theorem memOk_opRotation {core : Nat} {track : Nat} (hs : s.MemOk) : Out.MemOk (opRotation cl core track s) := by
  unfold opRotation
  dsimp only
  split
  · exact hs
  · exact Out.memOk_ite (State.memOk_updHeat hs) hs

theorem memOk_newTeam {k : Nat} {f : Field} {n : Nat} {index : Nat} {slotno : Nat} {cores : List Nat} :
    (newTeam m k f n index slotno cl cores).MemOk :=
  ⟨rfl, fun _ hm => List.eq_of_mem_replicate hm ▸ rfl⟩

theorem State.memOk_launchAcquire (hs : s.MemOk) : (s.launchAcquire team).MemOk := by
  unfold State.launchAcquire
  split
  · exact hs
  · refine List.foldlRecOn (motive := fun s : State => s.MemOk) _ _ hs fun _ hs1 _ _ => ?_
    dsimp only
    split
    · rename_i x h1
      have hx := Option.of_all h1 (State.memOk_site? hs1)
      exact State.memOk_put ((State.memOk_acquireAt hs1 hx).1) ((State.memOk_acquireAt hs1 hx).2)
    · exact hs1

theorem State.memOk_placeTeam {k : Nat} {index : Nat} {cores : List Nat} (hs : s.MemOk) :
    ∀ y, (s.placeTeam m k index cl cores) = some y → y.MemOk := by
  refine Option.all_bind fun f _ => Option.all_bind fun n _ => ?_
  refine Option.all_ite (Option.all_map fun p hp => ?_) Option.all_none
  obtain ⟨h1, ht⟩ := State.memOk_provision hs memOk_newTeam p hp
  refine State.memOk_launchAcquire (State.memOk_seat (State.memOk_takePacer ?_))
  refine ⟨h1.1, fun t hm => ?_⟩
  rcases List.mem_append.mp hm with h | h
  · exact h1.2 t h
  · exact List.mem_singleton.mp h ▸ State.memOk_owedBudget ht

theorem State.memOk_placeSome {k : Nat} {index : Nat} (hs : s.MemOk) : ∀ y, (s.placeSome m k index) = some y → y.MemOk := by
  intro y hy
  obtain ⟨p, _, hp⟩ := List.exists_of_findSome?_eq_some hy
  exact State.memOk_placeTeam hs y hp

theorem State.memOk_updField {meet : Nat} {k : Nat} {f : Field → Field} (hs : s.MemOk) : (s.updField meet k f).MemOk := by
  unfold State.updField
  split
  · exact State.memOk_setMeet hs
  · exact hs

theorem State.memOk_sendDeadline {meet : Nat} {rho : Nat} {rhoHub : Nat} (hs : s.MemOk) : (s.sendDeadline meet die rho rhoHub).MemOk := by
  unfold State.sendDeadline
  split
  · exact hs
  · exact State.memOk_ite hs (State.memOk_setMeet hs)

theorem State.memOk_launchFrom {k : Nat} {d : Nat} (hs : s.MemOk) : ∀ y, (s.launchFrom m k d) = some y → y.MemOk := by
  induction d generalizing s m k with
  | zero => exact Option.all_some hs
  | succ n ih => exact Option.all_bind fun s1 hs1 => ih (State.memOk_chosen (State.memOk_chosen (State.memOk_sendDeadline (State.memOk_updField
    (((State.memOk_placeSome hs) s1 hs1))))))

theorem State.memOk_cleanLevels {p : Level → Bool} (hs : s.MemOk) : (s.cleanLevels p).MemOk := State.memOk_writeBackAll hs

theorem State.memOk_releaseTeam (hs : s.MemOk) : (s.releaseTeam t).MemOk := by
  have hf : (t.refs.foldl (fun s u => match s.site? u with
      | some x => (s.releaseAt x .sy).1.put (s.releaseAt x .sy).2
      | none => s) s).MemOk := by
    refine List.foldlRecOn (motive := fun s : State => s.MemOk) _ _ hs fun s1 hs1 u _ => ?_
    split
    · rename_i x h
      have hx := State.memOk_site? hs1 x h
      exact State.memOk_put (State.memOk_releaseAt hs1 hx).1 (State.memOk_releaseAt hs1 hx).2
    · exact hs1
  rw [State.releaseTeam]
  split
  · rename_i v h
    refine State.memOk_setTeam (List.foldlRecOn (motive := fun s : State => s.MemOk) _ _ hf fun _ ha _ _ => State.memOk_publishAll ha) ?_
    exact State.memOk_team? hf v h
  · exact hf

theorem State.memOk_retire (hs : s.MemOk) : (s.retire t).MemOk := by
  refine State.memOk_completeIfDone (State.memOk_updField ?_)
  refine List.foldlRecOn (motive := fun s : State => s.MemOk) _ _ ?_ fun _ ha _ _ => State.memOk_ctxTrap ha
  exact State.memOk_returnBanks (State.memOk_freeUnits (State.memOk_setTeam hs ⟨rfl, nofun⟩))

theorem State.memOk_graceTraps {meet : Nat} (hs : s.MemOk) :
    (s.graceTraps meet).MemOk := State.memOk_mapTeams hs fun _ ht => Team.memOk_ite (State.memOk_owedBudget ht) ht

theorem State.memOk_checkBudget {meet : Nat} (hs : s.MemOk) : (s.checkBudget meet).MemOk := by
  unfold State.checkBudget
  split
  · exact hs
  · refine State.memOk_ite hs ?_
    split
    · exact State.memOk_ite (State.memOk_terminate hs) (State.memOk_ite hs (State.memOk_graceTraps (State.memOk_setMeet hs)))
    · exact State.memOk_terminate hs

theorem State.memOk_without {ts : List Team} (hs : s.MemOk) (hts : ∀ y ∈ ts, y.MemOk) :
    (s.without ts).MemOk := List.foldlRecOn (motive := fun s : State => s.MemOk) _ _ hs fun _ hs1 t ht => State.memOk_freeUnits
      (State.memOk_setTeam hs1 (hts t ht))

theorem State.memOk_preemptible {part : Nat} (hs : s.MemOk) : ∀ y ∈ (s.preemptible m part), y.MemOk := List.all_filter hs.2

theorem greatestBy_mem {α : Type} {lt : α → α → Bool} {a : α} : ∀ {l : List α}, greatestBy lt l = some a → a ∈ l
  | b :: r, h => by
    have hm : ∀ (r : List α) (b : α), r.foldl (fun b c => if lt b c then c else b) b ∈ b :: r := by
      intro r
      induction r with
      | nil => exact fun b => List.mem_singleton.mpr rfl
      | cons c r ih =>
        intro b
        rw [List.foldl_cons]
        split
        · exact List.mem_cons_of_mem _ (ih c)
        · exact List.mem_cons.mpr ((List.mem_cons.mp (ih b)).imp id (List.mem_cons_of_mem _))
    exact Option.some.inj h ▸ hm r b

theorem State.memOk_victim {part : Nat} (hs : s.MemOk) : ∀ y, (s.victim m part) = some y → y.MemOk := by
  intro y hy
  have top {p : Team → Bool} {ms : List Meet}
      (h : (ms.findSome? fun n => greatestBy (fun a b => decide (a.index < b.index)) ((s.preemptible m part).filter
        fun t => t.meet = n.id ∧ p t)) = some y) :
      y.MemOk := by
    obtain ⟨n, _, hn⟩ := List.exists_of_findSome?_eq_some h
    exact State.memOk_preemptible hs y (List.mem_filter.mp (greatestBy_mem hn)).1
  rcases Option.or_eq_some_iff.mp hy with h | ⟨-, h⟩
  · exact top h
  · rcases Option.or_eq_some_iff.mp h with h | ⟨-, h⟩
    · exact top h
    · exact top h

theorem State.memOk_evict {bad : Bool}
    (hs : s.MemOk) : (s.evict die line bad).MemOk := List.foldlRecOn (motive := fun s : State => s.MemOk) _ _ hs
      fun _ hs1 _ _ => State.memOk_evictCopy hs1

theorem State.memOk_evictAt {lv : Level} {bad : Bool} (hs : s.MemOk) : (s.evictAt lv line bad).MemOk := by
  unfold State.evictAt
  split
  · exact State.memOk_evictCopy hs
  · exact hs

theorem State.memOk_report {bad : Bool} (hs : s.MemOk) : (s.report die line bad).MemOk := State.memOk_ite (State.memOk_tell hs) hs

theorem State.memOk_forgetHost {h : Nat} (hs : s.MemOk) : (s.forgetHost line h).MemOk := hs

theorem State.memOk_performPosted {id : Nat} (hs : s.MemOk) : (s.performPosted id).MemOk := by
  unfold State.performPosted
  split
  · exact hs
  · refine State.memOk_ite hs ?_
    split
    · exact State.memOk_tellAll (State.memOk_performAt hs)
    · exact State.memOk_snoopFor hs

theorem State.memOk_answered {p : Posted → Bool} {holder : Nat} (hs : s.MemOk) :
    (s.answered p holder).MemOk := List.foldlRecOn (motive := fun s : State => s.MemOk) _ _ hs fun _ hs1 _ _ => State.memOk_performPosted hs1

theorem State.memOk_combineSum {c : PeerSum} (hs : s.MemOk) :
    (s.combineSum line c).MemOk := State.memOk_ite (State.memOk_homeWrite (State.memOk_homeRead hs)) hs

theorem State.memOk_sumsIn (hs : s.MemOk) : (s.sumsIn line).MemOk := State.memOk_answered hs

theorem State.memOk_takeSums {device : Nat} {sums : List PeerSum} (hs : s.MemOk) :
    (s.takeSums device line sums).MemOk := State.memOk_ite hs (State.memOk_ite (State.memOk_askOutside hs) (State.memOk_sumsIn (List.foldlRecOn
      (motive := fun s : State => s.MemOk) _ _ (State.memOk_dropCopies hs) fun _ hs1 _ _ => State.memOk_combineSum hs1)))

theorem State.memOk_recallOne {ts : List Track} {go : Track → List Track → State → State} (hs : s.MemOk)
    (hgo : ∀ a b c, c.MemOk → (go a b c).MemOk) : (s.recallOne ts go).MemOk := by
  unfold State.recallOne
  split
  · exact hgo _ _ _ (State.memOk_chosen hs)
  · exact hs

theorem State.memOk_takePeerU {device : Nat} (hs : s.MemOk) : (s.takePeerU device line).MemOk := by
  unfold State.takePeerU
  split
  · exact State.memOk_ite (State.memOk_recordPeer hs) hs
  · exact hs

theorem State.memOk_acked (hs : s.MemOk) : (s.acked u).MemOk := by
  unfold State.acked
  split
  · rename_i x h
    have hx := Option.of_all h (State.memOk_site? hs)
    exact State.memOk_put hs hx
  · exact hs

theorem State.memOk_askAgain {device : Nat} (hs : s.MemOk) : (s.askAgain line device).MemOk := hs

theorem State.memOk_recordReader {src : Requester} (hs : s.MemOk) : (s.recordReader src pa).MemOk := by
  unfold State.recordReader
  refine State.memOk_ite hs ?_
  split
  · exact State.memOk_recordHost hs
  · exact State.memOk_askAgain (State.memOk_recordPeer hs)

theorem State.memOk_outWrite {x : ExtAccess} {cls : PageClass} {go : State → State} (hs : s.MemOk) (hgo : ∀ a, a.MemOk → (go a).MemOk) :
    (s.outWrite x cls go).MemOk := by
  unfold State.outWrite
  split
  · exact hgo _ hs
  · exact State.memOk_askOutside hs

theorem State.memOk_taint {x : ExtAccess} (hs : s.MemOk) : (s.taint x).MemOk := State.memOk_ite hs hs

theorem State.memOk_serveWrite {x : ExtAccess} (hs : s.MemOk) : (s.serveWrite x).MemOk := by
  unfold State.serveWrite
  split
  · exact State.memOk_seqPut hs
  · rename_i _ h
    exact State.memOk_outWrite hs fun _ hs1 => State.memOk_taint (State.memOk_homeWrite (State.memOk_overtake hs1))
  · rename_i _ h
    split
    · exact State.memOk_tell hs
    · exact State.memOk_outWrite hs fun _ hs1 => State.memOk_taint (State.memOk_setGranules (State.memOk_homeWrite (State.memOk_keepOld hs1)))
  · rename_i _ h
    exact State.memOk_outWrite hs fun _ hs1 => State.memOk_taint (State.memOk_homeWrite hs1)

theorem State.memOk_servePart {x : ExtAccess} (hs : s.MemOk) : (s.servePart x).MemOk := by
  unfold State.servePart
  dsimp only
  split
  · exact State.memOk_ite (State.memOk_notifyStore hs) (State.memOk_tell hs)
  · exact State.memOk_tell hs
  · split
    · exact State.memOk_tell hs
    · split
      · exact hs
      · exact State.memOk_tell hs
      · split
        · exact hs
        · split
          · split
            · exact State.memOk_tell hs
            · exact State.memOk_serveWrite hs
          · exact State.memOk_tell (State.memOk_recordReader (State.memOk_homeRead hs))

theorem State.memOk_arrivePart {x : ExtAccess} (hs : s.MemOk) : (s.arrivePart x).MemOk := by
  unfold State.arrivePart
  refine State.memOk_ite hs ?_
  refine State.memOk_ite hs ?_
  split
  · rename_i s1 h
    have hv : (Served.done s1).MemOk := h ▸ State.memOk_servePart hs
    exact hv
  · rename_i s1 h
    have hv : (Served.waits s1).MemOk := h ▸ State.memOk_servePart hs
    exact hv

theorem State.memOk_drainOut (hs : s.MemOk) :
    s.drainOut.MemOk := State.memOk_ite hs (List.foldlRecOn (motive := fun s : State => s.MemOk) _ _ hs fun _ hs1 _ _ => State.memOk_arrivePart hs1)

theorem State.memOk_backInvalidate {t : PortTarget} (hs : s.MemOk) :
    (s.backInvalidate t line).MemOk := State.memOk_tell (State.memOk_dropCopies (State.memOk_recallU hs))

theorem memOk_opBackInvalidateSnoop {port : Nat} (hs : s.MemOk) :
    Out.MemOk (opBackInvalidateSnoop port line s) := Out.memOk_ite hs (State.memOk_backInvalidate hs)

theorem State.memOk_startChange {page : Nat} {cls : PageClass} (hs : s.MemOk) : (s.startChange page cls).MemOk := State.memOk_ite hs hs

theorem memOk_opClassChange {tenant : Nat} {page : Nat} {cls : PageClass} (hs : s.MemOk) :
    Out.MemOk (opClassChange tenant page cls s) := Out.memOk_ite (State.memOk_startChange hs) (State.memOk_tell hs)

theorem Team.memOk_dropPage {page : Nat} (ht : t.MemOk) : (Team.dropPage page t).MemOk := ht

theorem State.memOk_leaveClass {page : Nat} {cls : PageClass} (hs : s.MemOk) : (s.leaveClass page cls).MemOk := by
  cases cls with
  | seq => exact hs
  | phase =>
    refine State.memOk_dropCopies (List.foldlRecOn (motive := fun s : State => s.MemOk) _ _ ?_ fun _ ha _ _ => State.memOk_publishAll ha)
    exact State.memOk_mapTeams hs fun _ ht => Team.memOk_dropPage ht
  | stream => exact State.memOk_dropCopies hs
  | priv =>
    exact State.memOk_dropCopies
      (List.foldlRecOn (motive := fun s : State => s.MemOk) _ _ (State.memOk_chosen hs) fun _ ha _ _ => State.memOk_writeBackLine ha)

theorem State.memOk_enterClass {page : Nat} {c : PageClass} (hs : s.MemOk) : (s.enterClass page c).MemOk := by
  unfold State.enterClass
  split
  · exact hs
  · exact hs

theorem State.memOk_unpin {page : Nat} (hs : s.MemOk) : (s.unpin page).MemOk := State.memOk_mapTeams hs fun _ ht => ht

theorem State.memOk_transition {ch : ClassChg} (hs : s.MemOk) :
    (s.transition ch).MemOk := State.memOk_enterClass (State.memOk_unpin (State.memOk_leaveClass (State.memOk_recallU hs)))

end Sys2Proof.Machine
end

section
/-!
SUPPORT. The canonical form of memory in port failures, power commands, resets, capacity, the firmware complex, page formats and the choice of the best candidates: each of them keeps it.
-/

namespace Sys2Proof.Machine

variable {s : State} {x : Site} {t : Team} {is : List Nat} {e : Ext} {h : Hit} {cl : ClusterRef} {pa : Nat} {bs : List Byte} {die : Nat}
  {ctx : Nat} {va : Nat}

theorem State.memOk_done_ (hs : s.MemOk) : Out.MemOk s.done_ := State.memOk_tell hs

theorem State.memOk_refuse (hs : s.MemOk) : Out.MemOk s.refuse := State.memOk_tell hs

theorem State.memOk_emptyCluster (hs : s.MemOk) :
    (s.emptyCluster cl).MemOk := State.memOk_dropCopies (State.memOk_cleanLevels (List.foldlRecOn (motive := fun s : State => s.MemOk) _ _ hs
      fun _ hs1 _ _ => State.memOk_recallU hs1))

theorem State.memOk_newCluster (hs : s.MemOk) :
    (s.newCluster cl).MemOk := State.memOk_ite (State.memOk_tell (State.memOk_updCluster (State.memOk_chosen (State.memOk_emptyCluster hs))))
      (State.memOk_updCluster (State.memOk_chosen (State.memOk_emptyCluster hs)))

theorem State.memOk_setStripe {size : Nat} (hs : s.MemOk) : (s.setStripe size).MemOk := ⟨Memory.wf_filter _ _ hs.1, hs.2⟩

theorem State.memOk_setClass {page : Nat} {cls : PageClass} (hs : s.MemOk) :
    Out.MemOk (s.setClass page cls) := Out.memOk_ite (State.memOk_refuse hs) (Out.memOk_ite (State.memOk_refuse (State.memOk_askOutside hs))
      (State.memOk_done_ (State.memOk_transition hs)))

theorem State.memOk_zeroWhere {p : Nat → Bool} (hs : s.MemOk) : (s.zeroWhere p).MemOk := ⟨Memory.wf_filter _ _ hs.1, hs.2⟩

theorem memOk_opDcAddExtent {port : Option Nat} {tenant : Nat} {host : Nat} {dpa : Nat} {blocks : Nat} (hs : s.MemOk) :
    Out.MemOk (opDcAddExtent port tenant host dpa blocks s) := by
  unfold opDcAddExtent
  split
  · exact State.memOk_refuse hs
  · exact Out.memOk_ite (State.memOk_refuse hs) (State.memOk_done_ (State.memOk_updExpander (State.memOk_zeroWhere hs)))

theorem memOk_opDcReleaseExtent {port : Option Nat} {dpa : Nat} (hs : s.MemOk) : Out.MemOk (opDcReleaseExtent port dpa s) := by
  unfold opDcReleaseExtent
  split
  · exact State.memOk_refuse hs
  · split
    · exact State.memOk_refuse hs
    · exact Out.memOk_ite (List.foldlRecOn (motive := fun s : State => s.MemOk) _ _ hs fun _ hs1 _ _ => State.memOk_sendSnoops hs1)
        (Out.memOk_ite hs (State.memOk_done_ (State.memOk_updExpander (State.memOk_zeroWhere (State.memOk_dropCopies hs)))))

theorem memOk_opKeyUpdate {which : KeyEnd} {key : BitVec 256} (hs : s.MemOk) : Out.MemOk (opKeyUpdate which key s) := by
  unfold opKeyUpdate
  split
  · split
    · exact State.memOk_refuse hs
    · exact State.memOk_done_ (State.memOk_updExpander (State.memOk_updKey hs))
  · exact Out.memOk_ite (State.memOk_refuse hs) (State.memOk_done_ (State.memOk_updExpander hs))

theorem memOk_opEndSession {which : KeyEnd} (hs : s.MemOk) : Out.MemOk (opEndSession which s) := by
  unfold opEndSession
  split
  · split
    · exact State.memOk_refuse hs
    · exact State.memOk_done_ (State.memOk_updKey (State.memOk_endSessions hs))
  · exact Out.memOk_ite (State.memOk_refuse hs) (State.memOk_done_ (State.memOk_updExpander hs))

theorem memOk_opTaskImageRegistration {port : Option Nat} {tenant : Nat} {hash : DWord} {kent : Nat} {text : Nat} {args : Nat} {part : Nat}
    (hs : s.MemOk) : Out.MemOk (opTaskImageRegistration port tenant hash ctx kent text args part s) := by
  unfold opTaskImageRegistration
  split
  · exact State.memOk_refuse hs
  · exact State.memOk_done_ (State.memOk_updExpander hs)

theorem State.memOk_taskField {g : TaskImage} (hs : s.MemOk) : ∀ y, (s.taskField g) = some y → y.2.MemOk := by
  unfold State.taskField
  split
  · exact Option.all_none
  · rename_i e s1 h
    have hv := Except.of_all h (State.memOk_cpRead hs)
    exact Option.all_map fun _ _ => hv

theorem State.memOk_putArgs {a : Nat} {f : Nat} (hs : s.MemOk) : (s.putArgs ctx a bs f).MemOk := by
  induction f generalizing s ctx a bs with
  | zero => exact hs
  | succ n ih =>
    rw [State.putArgs]
    refine State.memOk_ite hs ?_
    refine ih ?_
    split
    · exact State.memOk_cpStore hs
    · exact hs

theorem State.memOk_startTask {p : Packet} {tenant : Nat} {g : TaskImage} (hs : s.MemOk) : (s.startTask p tenant g).MemOk := by
  unfold State.startTask
  split
  · exact State.memOk_cpStore hs
  · rename_i f s1 h
    have hv := Option.of_all h (State.memOk_taskField hs)
    exact State.memOk_conclude (State.memOk_putArgs hv)

theorem State.memOk_nodePacket {p : Packet} (hs : s.MemOk) : (s.nodePacket p).MemOk := by
  unfold State.nodePacket
  dsimp only
  split
  · exact State.memOk_tell hs
  · split
    · exact State.memOk_startTask (State.memOk_tellAll (State.memOk_updExpander hs))
    · exact State.memOk_tellAll (State.memOk_updExpander hs)

theorem State.memOk_taskWrite {port : Nat} {dpa : Nat} (hs : s.MemOk) :
    (s.taskWrite port dpa bs).MemOk := State.memOk_homeWrite (List.foldlRecOn (motive := fun s : State => s.MemOk) _ _ hs
      fun _ hs1 _ _ => State.memOk_backInvalidate hs1)

theorem State.memOk_viralTraps {c : Context} {port : Nat} (hs : s.MemOk) : (s.viralTraps c port).MemOk := by
  unfold State.viralTraps
  split
  · exact State.memOk_ctxTrap hs
  · exact List.foldlRecOn (motive := fun s : State => s.MemOk) _ _ hs fun _ hs1 _ _ => State.memOk_defer hs1

theorem State.memOk_failPosted {t : PortTarget} {c : Byte} (hs : s.MemOk) : (s.failPosted t c).MemOk := by
  unfold State.failPosted
  refine List.foldlRecOn (motive := fun s : State => s.MemOk) _ _ hs fun _ hs1 _ _ => ?_
  dsimp only
  split
  · exact State.memOk_defer hs1
  · exact hs1

theorem State.memOk_failSends {p : Nat} (hs : s.MemOk) : (s.failSends p).MemOk := by
  unfold State.failSends
  refine List.foldlRecOn (motive := fun s : State => s.MemOk) _ _ hs fun _ hs1 _ _ => ?_
  split
  · rename_i t h
    have ht := Option.of_all h (State.memOk_team? hs1)
    exact State.memOk_xferError hs1 ht
  · exact hs1

theorem State.memOk_failColls {device : Nat} (hs : s.MemOk) :
    (s.failColls device).MemOk := List.foldlRecOn (motive := fun s : State => s.MemOk) _ _ (State.memOk_free hs)
      fun _ hs1 _ _ => State.memOk_collLost hs1

theorem State.memOk_forgetPeer {d : Nat}
    (hs : s.MemOk) : (s.forgetPeer d).MemOk := State.memOk_answered (List.foldlRecOn (motive := fun s : State => s.MemOk) _ _ hs
      fun _ hs1 _ _ => State.memOk_sumsIn hs1)

theorem State.memOk_lostSessions {b : PortTarget} (hs : s.MemOk) : (s.lostSessions b).MemOk := by
  unfold State.lostSessions
  split
  · exact State.memOk_endSessions (State.memOk_failSends (State.memOk_updExpander hs))
  · exact State.memOk_forgetPeer (State.memOk_failColls hs)
  · exact hs

theorem State.memOk_lose {t : PortTarget} (hs : s.MemOk) : (s.lose t).MemOk := by
  unfold State.lose
  split
  · exact hs
  · have h0 : (s.failPosted t cause.expanderLost).MemOk := State.memOk_failPosted hs
    generalize s.failPosted t cause.expanderLost = s0 at h0 ⊢
    refine List.foldlRecOn (motive := fun s : State => s.MemOk) _ _ ?_ fun _ hs1 _ _ => State.memOk_ctxTrap hs1
    refine State.memOk_free (State.memOk_lostSessions ?_)
    exact h0

theorem Site.memOk_spanDrawn (hx : x.team.MemOk) :
    (x.spanDrawn e is).team.MemOk := List.foldlRecOn (motive := fun x : Site => x.team.MemOk) _ _ hx fun _ hy1 _ _ => Site.memOk_drawn hy1

theorem State.memOk_packPiece (hs : s.MemOk) (hx : x.team.MemOk) : (s.packPiece x h pa bs).1.MemOk ∧ (s.packPiece x h pa bs).2.team.MemOk := by
  unfold State.packPiece
  split
  · exact ⟨State.memOk_engPut hs, hx⟩
  · exact ⟨State.memOk_engPut hs, hx⟩
  · exact State.memOk_storePage hs hx
  · rename_i _ h1
    exact ⟨List.foldlRecOn (motive := fun s : State => s.MemOk) _ _ hs fun _ hs1 _ _ => State.memOk_storePriv hs1, hx⟩

theorem State.memOk_bindChunk {n : Nat} (hs : s.MemOk) : (s.bindChunk x pa n).MemOk := hs

theorem Site.memOk_notePack {f : Entry} {sat : Nat} (hx : x.team.MemOk) : (x.notePack s h f pa sat).team.MemOk := hx

theorem State.memOk_packSeq {sat : Nat} {ps : List (Nat × List Byte)} (hs : s.MemOk) (hx : x.team.MemOk) :
    (s.packSeq x h pa va sat ps).1.MemOk ∧ (s.packSeq x h pa va sat ps).2.team.MemOk := ⟨State.memOk_seqPut hs, Site.memOk_ite (Site.memOk_owe hx) hx⟩

theorem State.memOk_packChunk {f : Entry} {vs : List Supply} {p : PackChunk} (hs : s.MemOk) (hx : x.team.MemOk) :
    (s.packChunk x e f vs p).1.MemOk ∧ (s.packChunk x e f vs p).2.team.MemOk := by
  unfold State.packChunk
  split
  · exact ⟨hs, hx⟩
  · split
    · exact State.memOk_packSeq (State.memOk_chunkBytes (State.memOk_freshen hs) hx) hx
    · exact ⟨State.memOk_ite (State.memOk_bindChunk ((List.foldlRecOn (motive :=
        fun z : State × Site => z.1.MemOk ∧ z.2.team.MemOk) _ _ ⟨State.memOk_chunkBytes (State.memOk_freshen hs) hx, hx⟩
          fun _ hs1 _ _ => State.memOk_packPiece hs1.1 hs1.2).1)) ((List.foldlRecOn (motive :=
            fun z : State × Site => z.1.MemOk ∧ z.2.team.MemOk) _ _ ⟨State.memOk_chunkBytes (State.memOk_freshen hs) hx, hx⟩
              fun _ hs1 _ _ => State.memOk_packPiece hs1.1 hs1.2).1), Site.memOk_ite (Site.memOk_notePack ((List.foldlRecOn (motive :=
                fun z : State × Site => z.1.MemOk ∧ z.2.team.MemOk) _ _ ⟨State.memOk_chunkBytes (State.memOk_freshen hs) hx, hx⟩
                  fun _ hs1 _ _ => State.memOk_packPiece hs1.1 hs1.2).2)) ((List.foldlRecOn (motive :=
                    fun z : State × Site => z.1.MemOk ∧ z.2.team.MemOk) _ _ ⟨State.memOk_chunkBytes (State.memOk_freshen hs) hx, hx⟩
                      fun _ hs1 _ _ => State.memOk_packPiece hs1.1 hs1.2).2)⟩

theorem memOk_opQpack (hs : s.MemOk) : Out.MemOk (opQpack e s) := by
  unfold opQpack
  dsimp only
  refine memOk_issue hs fun _ _ _ hs1 hx => ?_
  split
  · exact State.memOk_trap hs1 hx
  · exact State.memOk_pageFault hs1 hx
  · refine Out.memOk_ite (State.memOk_stall hs) ?_
    refine State.memOk_sortMeets hs hs1 hx fun _ => ?_
    refine State.memOk_done ?_ ?_
    · refine (List.foldlRecOn (motive := fun z : State × Site => z.1.MemOk ∧ z.2.team.MemOk) _ _ ⟨hs1, Site.memOk_spanDrawn hx⟩ fun _ hs2 _ _ => ?_).1
      split
      · exact ⟨hs2.1, Site.memOk_deferOwn hs2.2⟩
      · exact State.memOk_packChunk hs2.1 hs2.2
    · refine (List.foldlRecOn (motive := fun z : State × Site => z.1.MemOk ∧ z.2.team.MemOk) _ _ ⟨hs1, Site.memOk_spanDrawn hx⟩ fun _ hs2 _ _ => ?_).2
      split
      · exact ⟨hs2.1, Site.memOk_deferOwn hs2.2⟩
      · exact State.memOk_packChunk hs2.1 hs2.2

theorem State.memOk_formatTrap (hs : s.MemOk) (hx : x.team.MemOk) : Out.MemOk (s.formatTrap x is) := State.memOk_trap (State.memOk_free hs) hx

theorem memOk_opQunpack (hs : s.MemOk) : Out.MemOk (opQunpack e s) := by
  unfold opQunpack
  refine memOk_issue hs fun _ _ _ hs1 hx => ?_
  split
  · exact State.memOk_formatTrap hs1 hx
  · exact Out.memOk_ite (State.memOk_formatTrap hs1 hx) (memOk_regEffect (fun _ _ _ _ hy1 => Site.memOk_drawn (Site.memOk_dst32 hy1)) hs1 hx)

theorem memOk_opQscale (hs : s.MemOk) : Out.MemOk (opQscale e s) := by
  unfold opQscale
  refine memOk_issue hs fun _ _ _ hs1 hx => ?_
  split
  · exact State.memOk_formatTrap hs1 hx
  · exact Out.memOk_ite (State.memOk_formatTrap hs1 hx) (memOk_regEffect (fun _ _ _ _ hy1 => Site.memOk_dst32 hy1) hs1 hx)

theorem State.memOk_checkChunk {a : Nat} {c : Nat} (hs : s.MemOk) (hx : x.team.MemOk) : (s.checkChunk x is a c).2.MemOk := by
  unfold State.checkChunk
  dsimp only
  split
  · exact hs
  · exact hs
  · split
    · exact hs
    · split
      · exact hs
      · exact hs
      · exact hs
      · exact hs
      · split
        · exact hs
        · split
          · exact hs
          · exact State.memOk_chunkBytes (State.memOk_freshen hs) hx

theorem memOk_opQchk (hs : s.MemOk) : Out.MemOk (opQchk e s) := by
  unfold opQchk
  refine memOk_issue hs fun _ _ _ hs1 hx => ?_
  refine Out.memOk_ite (State.memOk_trap hs1 hx) ?_
  refine Out.memOk_ite (State.memOk_trap hs1 hx) ?_
  split
  · exact State.memOk_stall hs
  · rename_i va s2 h
    have hv : (Checked.page va, s2).2.MemOk := h ▸ State.memOk_checkChunk hs1 hx
    exact State.memOk_pageFault hv hx
  · rename_i cs info s2 h
    have hv : (Checked.trap cs info, s2).2.MemOk := h ▸ State.memOk_checkChunk hs1 hx
    exact State.memOk_trap hv hx
  · rename_i f bs ok s2 h
    have hv : (Checked.rind f bs ok, s2).2.MemOk := h ▸ State.memOk_checkChunk hs1 hx
    exact Out.memOk_ite (memOk_regEffect (fun _ _ _ _ hy1 => Site.memOk_ite (Site.memOk_setGuard (Site.memOk_dst32 hy1))
      (Site.memOk_dst32 hy1)) hv hx) (Out.memOk_ite (memOk_regEffect (fun _ _ _ _ hy1 => Site.memOk_setGuard hy1) hv hx) (State.memOk_trap hv hx))

theorem State.memOk_dropCands {mine : Queue → Bool} (hs : s.MemOk) : (s.dropCands mine).MemOk := hs

theorem State.memOk_adopt {a : Nat}
    (hs : s.MemOk) : (s.adopt die a).MemOk := (show (s.dropCands fun q => decide (q.server = die)).MemOk from State.memOk_dropCands hs)

theorem State.memOk_warnAll {ms : List Nat} (hs : s.MemOk) :
    (s.warnAll die ms).MemOk := List.foldlRecOn (motive := fun s : State => s.MemOk) _ _ hs fun _ hs1 _ _ => State.memOk_tell hs1

theorem State.memOk_tripCheck (hs : s.MemOk) : (s.tripCheck die).MemOk := by
  unfold State.tripCheck
  split
  · exact hs
  · exact State.memOk_ite hs (List.foldlRecOn (motive := fun s : State => s.MemOk) _ _ hs fun _ hs1 _ _ => State.memOk_tell hs1)

theorem State.memOk_powerCore {o : Out} (hs : s.MemOk) (ho : Out.MemOk o) : Out.MemOk (s.powerCore die o) := Out.memOk_ite hs ho

theorem memOk_opMonitorThresholdSet {cmd : MonitorCmd} (hs : s.MemOk) : Out.MemOk (opMonitorThresholdSet die cmd s) := by
  unfold opMonitorThresholdSet
  split
  · exact State.memOk_refuse hs
  · split
    · split
      · exact State.memOk_refuse hs
      · exact State.memOk_done_ (State.memOk_warnAll (State.memOk_updDie hs))
    · split
      · exact State.memOk_refuse hs
      · exact Out.memOk_ite (State.memOk_refuse hs) (State.memOk_done_ (State.memOk_tripCheck (State.memOk_updDie hs)))
    · split
      · exact State.memOk_refuse hs
      · exact State.memOk_done_ (State.memOk_updDie hs)
    · split
      · exact State.memOk_refuse hs
      · exact State.memOk_done_ (State.memOk_warnAll (State.memOk_updDie hs))
    · split
      · exact State.memOk_refuse hs
      · exact State.memOk_done_ (State.memOk_warnAll (State.memOk_updDie hs))

theorem memOk_opMonitorRead {sel : MonitorSel} (hs : s.MemOk) : Out.MemOk (opMonitorRead die sel s) := by
  unfold opMonitorRead
  split
  · exact State.memOk_refuse hs
  · split
    · split
      · exact State.memOk_tell hs
      · exact State.memOk_refuse hs
    · split
      · exact State.memOk_tell (State.memOk_updDie hs)
      · exact State.memOk_refuse hs
    · split
      · exact State.memOk_tell hs
      · exact State.memOk_refuse hs

theorem State.memOk_powerCmd {refused : Bool} {f : State → State} (hs : s.MemOk) (hf : ∀ a, a.MemOk → (f a).MemOk) :
    Out.MemOk (s.powerCmd die refused f) := Out.memOk_ite (State.memOk_tell hs) (State.memOk_powerCore hs (Out.memOk_ite (State.memOk_refuse hs)
      (State.memOk_done_ (hf _ hs))))

theorem State.memOk_emptyClusters (hs : s.MemOk) :
    (s.emptyClusters die).MemOk := List.foldlRecOn (motive := fun s : State => s.MemOk) _ _ hs fun _ hs1 _ _ => State.memOk_emptyCluster hs1

theorem State.memOk_losesMemory (hs : s.MemOk) : (s.losesMemory die).MemOk := ⟨Memory.wf_filter _ _ hs.1, hs.2⟩

theorem State.memOk_emptySlices (hs : s.MemOk) : (s.emptySlices die).MemOk := hs

theorem State.memOk_cleanDie (hs : s.MemOk) :
    (s.cleanDie die).MemOk := State.memOk_emptySlices (State.memOk_dropCopies (State.memOk_writeBackAll (List.foldlRecOn (motive :=
      fun s : State => s.MemOk) _ _ hs fun _ hs1 _ _ => State.memOk_recallU hs1)))

theorem Team.memOk_travel {elapsed : Nat} (ht : t.MemOk) : (Team.travel elapsed t).MemOk := ht

theorem memOk_selectOut {cs : List Cand2} {y1 : Site} (hy1 : y1.team.MemOk) : (selectOut e is cs y1).team.MemOk := by
  unfold selectOut
  refine List.foldlRecOn (motive := fun x : Site => x.team.MemOk) _ _ hy1 fun _ hy2 _ _ => ?_
  split
  · exact Site.memOk_setVal hy2
  · exact Site.memOk_setVal hy2

theorem memOk_opTopk (hs : s.MemOk) : Out.MemOk (opTopk e s) := memOk_issue hs fun _ _ _ hs1 hx => State.memOk_done hs1 (memOk_selectOut hx)

theorem memOk_opTopkm (hs : s.MemOk) : Out.MemOk (opTopkm e s) := memOk_issue hs fun _ _ _ hs1 hx => State.memOk_done hs1 (memOk_selectOut hx)

end Sys2Proof.Machine
end

section
/-!
SUPPORT. The canonical form of memory in what follows a step: readiness, runs, what waited, and the passing of time keep it.
-/

namespace Sys2Proof.Machine

variable {s : State} {x : Site} {d : DriverCommand}

theorem Out.memOk_map {f : State → State} {b : Out} (hf : ∀ a, a.MemOk → (f a).MemOk) (hb : Out.MemOk b) : Out.MemOk (Out.map f b) := by
  unfold Out.map
  cases b with
  | next s =>
    have hm := hb
    exact hf _ hm
  | fault r => exact trivial
  | refused r => exact trivial

theorem State.memOk_watchedHeats (hs : s.MemOk) :
    ∀ y ∈ s.watchedHeats, y.team.MemOk := List.all_flatMap fun t ht => List.all_ite (List.all_filterMap fun _ _ => Option.all_ite (Option.all_some
      (hs.2 t ht)) Option.all_none) List.all_nil

theorem State.memOk_noteReady (hs : s.MemOk) :
    s.noteReady.MemOk := List.foldlRecOn (motive := fun s : State => s.MemOk) _ _ hs fun _ ht _ _ => State.memOk_updHeat ht

theorem State.memOk_breakRuns (hs : s.MemOk) : (s.breakRuns x).MemOk := State.memOk_mapTeams hs fun _ ht => ht

theorem State.memOk_noteIssue (hs : s.MemOk) : s.noteIssue.MemOk := by
  unfold State.noteIssue
  split
  · exact State.memOk_creditMisses (State.memOk_breakRuns (State.memOk_ite hs (State.memOk_updHeat hs)))
  · exact hs

theorem State.memOk_retry (hs : s.MemOk) : (s.retry d).MemOk := by
  unfold State.retry
  split
  · exact State.memOk_ite hs hs
  · rename_i _ h
    refine Command.memOk_answer hs ?_
    split
    · exact State.memOk_commandBank hs
    · exact State.memOk_commandAwset hs
    · exact State.memOk_commandSyswr hs

theorem State.memOk_retryAll (hs : s.MemOk) :
    s.retryAll.MemOk := State.memOk_ite hs (List.foldlRecOn (motive := fun s : State => s.MemOk) _ _ hs fun _ hs1 _ _ => State.memOk_retry hs1)

theorem State.memOk_follow (hs : s.MemOk) :
    s.follow.MemOk := State.memOk_refresh (State.memOk_askEverywhere (State.memOk_shotDone (State.memOk_drainOut (State.memOk_retryAll hs))))

theorem State.memOk_after (hs : s.MemOk) :
    s.after.MemOk := State.memOk_noteReady (State.memOk_tick (State.memOk_ite hs (State.memOk_follow (State.memOk_noteIssue hs))))

theorem State.memOk_afterEvent (hs : s.MemOk) : s.afterEvent.MemOk := State.memOk_noteReady (State.memOk_tick (State.memOk_follow hs))

end Sys2Proof.Machine
end

section
/-!
SUPPORT. The canonical form of memory in the events: each of them keeps it.
-/

namespace Sys2Proof.Machine

variable {s : State} {e : Ext} {u : UnitRef} {cl : ClusterRef} {line : Nat} {team : Nat} {die : Nat} {ctx : Nat} {tlb : TlbId} {cs : Byte}

theorem memOk_execValueArrival {tag : BitVec 6} (hs : s.MemOk) : Out.MemOk (execValueArrival u tag s) := State.memOk_ite (State.memOk_arrive hs) hs

theorem memOk_execDriverBankcfg {by_ : DriverRef} (hs : s.MemOk) :
    Out.MemOk (execDriverBankcfg by_ team cl e s) := Out.memOk_ite (memOk_opDriverBankcfg hs) hs

theorem memOk_execCopyStart {chan : Nat} (hs : s.MemOk) : Out.MemOk (execCopyStart cl chan s) := Out.memOk_ite (memOk_opCopyStart hs) hs

theorem memOk_execCopyPortionWritten {chan : Nat} {count : Nat} (hs : s.MemOk) :
    Out.MemOk (execCopyPortionWritten cl chan count s) := Out.memOk_ite (memOk_opCopyPortionWritten hs) hs

theorem memOk_execCopyFault {chan : Nat} (hs : s.MemOk) : Out.MemOk (execCopyFault cl chan s) := Out.memOk_ite (memOk_opCopyFault hs) hs

theorem memOk_execArmedOperationStart {handle : Word} (hs : s.MemOk) :
    Out.MemOk (execArmedOperationStart team handle s) := Out.memOk_ite (memOk_opArmedOperationStart hs) hs

theorem memOk_execTxferLaunchTime {handle : Word} (hs : s.MemOk) :
    Out.MemOk (execTxferLaunchTime team handle s) := Out.memOk_ite (memOk_opTxferLaunchTime hs) hs

theorem memOk_execTxferCompletion {which : XferEnd} (hs : s.MemOk) :
    Out.MemOk (execTxferCompletion team which s) := Out.memOk_ite (memOk_opTxferCompletion hs) hs

theorem memOk_execTsendPacketSend {handle : Word} (hs : s.MemOk) :
    Out.MemOk (execTsendPacketSend team handle s) := Out.memOk_ite (memOk_opTsendPacketSend hs) hs

theorem memOk_execTsendAnswer {handle : Word} (hs : s.MemOk) : Out.MemOk (execTsendAnswer team handle s) := by
  unfold execTsendAnswer
  split
  · rename_i t x h
    have hv := Option.of_all h (State.memOk_xfer? hs)
    split
    · exact State.memOk_xferDone hs hv
    · exact State.memOk_xferError hs hv
    · exact hs
  · exact hs

theorem memOk_execCollectiveBufferGrant {handle : Word} (hs : s.MemOk) :
    Out.MemOk (execCollectiveBufferGrant team handle s) := State.memOk_collGrant hs

theorem memOk_execCollectiveIssue {handle : Word} (hs : s.MemOk) : Out.MemOk (execCollectiveIssue team handle s) := by
  unfold execCollectiveIssue
  dsimp only
  split
  · rename_i t x h
    have hv := Option.of_all h (State.memOk_xfer? hs)
    refine Out.memOk_ite hs ?_
    split
    · split
      · exact State.memOk_xferError hs hv
      · split
        · exact State.memOk_xferError hs hv
        · split
          · exact State.memOk_setTeam hs (Team.memOk_finish hv)
          · exact State.memOk_xferError hs hv
          · exact State.memOk_collGrant (State.memOk_putXfer (State.memOk_setGroup hs))
    · exact hs
    · exact hs
  · exact hs

theorem memOk_execCollectiveDataArrival {group : Nat} {cid : Nat} {gen : Nat} {member : Nat} {msg : CollMsg} (hs : s.MemOk) :
    Out.MemOk (execCollectiveDataArrival ctx group cid gen member msg s) := by
  unfold execCollectiveDataArrival
  dsimp only
  split
  · split
    · exact State.memOk_collTake (State.memOk_ite (State.memOk_memberLeft hs) hs)
    · split
      · exact Out.memOk_ite (State.memOk_setCtx (State.memOk_ite (State.memOk_memberLeft hs) hs)) (State.memOk_ite (State.memOk_memberLeft hs) hs)
      · exact State.memOk_ite (State.memOk_memberLeft hs) hs
  · exact hs

theorem memOk_execCollectiveCompletion {handle : Word} (hs : s.MemOk) : Out.MemOk (execCollectiveCompletion team handle s) := by
  unfold execCollectiveCompletion
  dsimp only
  split
  · exact hs
  · refine Out.memOk_ite hs ?_
    refine Out.memOk_ite (State.memOk_collRead hs) ?_
    refine Out.memOk_ite hs ?_
    refine Out.memOk_ite (Out.memOk_ite (State.memOk_collDone hs) hs) ?_
    refine Out.memOk_ite hs ?_
    split
    · exact State.memOk_collWrite hs
    · split
      · exact Out.memOk_ite (State.memOk_putXfer (State.memOk_collBill (State.memOk_collWrite hs))) (State.memOk_collDone (State.memOk_putXfer
          (State.memOk_collBill (State.memOk_collWrite hs))))
      · exact State.memOk_collMiss (State.memOk_putXfer (State.memOk_collBill (State.memOk_collWrite hs)))

theorem memOk_execGroupTableWrite {group : Nat} {entry : Option GroupEntry} (hs : s.MemOk) : Out.MemOk (execGroupTableWrite ctx group entry s) := by
  unfold execGroupTableWrite
  split
  · exact State.memOk_tell hs
  · exact Out.memOk_ite hs (Out.memOk_ite (State.memOk_tell hs) (State.memOk_tell (State.memOk_setCtx hs)))

theorem memOk_execDriverAwset {driver : Nat} (hs : s.MemOk) :
    Out.MemOk (execDriverAwset driver ctx team cl e s) := Out.memOk_ite (Command.memOk_answer hs (State.memOk_commandAwset hs)) hs

theorem memOk_execTileFetchChunk (hs : s.MemOk) : Out.MemOk (execTileFetchChunk team s) := Out.memOk_ite (memOk_opTileFetchChunk hs) hs

theorem memOk_execTileFetchFault (hs : s.MemOk) : Out.MemOk (execTileFetchFault team s) := Out.memOk_ite (memOk_opTileFetchFault hs) hs

theorem memOk_execArrayChunk (hs : s.MemOk) : Out.MemOk (execArrayChunk team s) := Out.memOk_ite (memOk_opArrayChunk hs) hs

theorem memOk_execArrayZero (hs : s.MemOk) : Out.MemOk (execArrayZero team s) := Out.memOk_ite (memOk_opArrayZero hs) hs

theorem memOk_execDeferredTrapDelivery (hs : s.MemOk) :
    Out.MemOk (execDeferredTrapDelivery team s) := Out.memOk_ite (memOk_opDeferredTrapDelivery hs) hs

theorem memOk_execDriverSyswr {by_ : DriverRef} {team : Option Nat} {v : DWord} (hs : s.MemOk) :
    Out.MemOk (execDriverSyswr by_ team e v s) := Out.memOk_ite (memOk_opDriverSyswr hs) hs

theorem memOk_execContextSave (hs : s.MemOk) : Out.MemOk (execContextSave team s) := by
  unfold execContextSave
  split
  · exact hs
  · exact Out.memOk_ite (State.memOk_saveTeam hs) hs

theorem memOk_execPageResponse {gen : Word} {page : Nat} {answer : PageAnswer} (hs : s.MemOk) :
    Out.MemOk (execPageResponse ctx gen page answer s) := by
  unfold execPageResponse
  split
  · exact hs
  · exact Out.memOk_ite hs (State.memOk_askEverywhere (State.memOk_collAnswered (List.foldlRecOn (motive := fun s : State => s.MemOk) _ _
      (State.memOk_mapTeams hs fun _ ht => Team.memOk_answered ht) fun _ hs1 _ _ => State.memOk_tell hs1)))

theorem memOk_execPageWalkCompletion {va : Pc} {kind : AccKind} (hs : s.MemOk) : Out.MemOk (execPageWalkCompletion ctx tlb va kind s) := by
  unfold execPageWalkCompletion
  split
  · exact State.memOk_ite (State.memOk_fillTlb (State.memOk_walked hs)) (State.memOk_walked hs)
  · exact State.memOk_walked hs

theorem memOk_execAtsCompletion {va : Pc} (hs : s.MemOk) : Out.MemOk (execAtsCompletion ctx tlb va s) := by
  unfold execAtsCompletion
  split
  · exact hs
  · exact State.memOk_fillTlb (State.memOk_walked hs)
  · exact State.memOk_walked hs

theorem memOk_execShootdown {lo : Nat} {size : Nat} {tlbs : List TlbId} (hs : s.MemOk) :
    Out.MemOk (execShootdown ctx lo size tlbs s) := State.memOk_shotDone hs

theorem memOk_execContextRestore (hs : s.MemOk) : Out.MemOk (execContextRestore team s) := by
  unfold execContextRestore
  split
  · exact hs
  · rename_i t h
    have ht := Option.of_all h (State.memOk_team? hs)
    split
    · exact hs
    · refine Out.memOk_ite ?_ hs
      split
      · rename_i s1 h2
        have hs1 := Option.of_all h2 (State.memOk_restoreTeam hs ht)
        exact hs1
      · exact hs

theorem memOk_execAwaitValueArrival {tag : BitVec 6} {fibre : Nat} {v : Arrival} (hs : s.MemOk) :
    Out.MemOk (execAwaitValueArrival u tag fibre v s) := by
  unfold execAwaitValueArrival
  split
  · exact hs
  · rename_i x h
    have hx := Option.of_all h (State.memOk_site? hs)
    split
    · exact hs
    · exact State.memOk_writeFrame (State.memOk_setTeam hs hx)

theorem memOk_execContextKill (hs : s.MemOk) : Out.MemOk (execContextKill ctx s) := State.memOk_askEverywhere (State.memOk_killCtx hs)

theorem memOk_execQueueDescribe {q : Nat} {desc : QueueDesc} (hs : s.MemOk) :
    Out.MemOk (execQueueDescribe q desc s) := Out.memOk_ite (State.memOk_tell hs) (State.memOk_tell hs)

theorem memOk_execTailRegisterStore {vf : Nat} {index : Nat} {v : Word} (hs : s.MemOk) : Out.MemOk (execTailRegisterStore vf index v s) := by
  unfold execTailRegisterStore
  split
  · exact State.memOk_setQueue hs
  · exact hs

theorem memOk_execNotifyPageOtherStore {vf : Nat} {offset : Nat} {width : Nat} (hs : s.MemOk) :
    Out.MemOk (execNotifyPageOtherStore vf offset width s) := by
  unfold execNotifyPageOtherStore
  split
  · exact Out.memOk_ite hs (State.memOk_setQueue hs)
  · exact hs

theorem memOk_execEntryConsume {q : Nat} (hs : s.MemOk) : Out.MemOk (execEntryConsume q s) := by
  unfold execEntryConsume
  split
  · exact State.memOk_consume hs
  · exact hs

theorem memOk_execEntryReread {q : Nat} (hs : s.MemOk) : Out.MemOk (execEntryReread q s) := by
  unfold execEntryReread
  split
  · exact State.memOk_consume hs
  · exact hs

theorem memOk_execReservationRequest {q : Nat} {meet : Nat} {keeper : Nat} (hs : s.MemOk) : Out.MemOk (execReservationRequest q meet keeper s) := by
  unfold execReservationRequest
  split
  · exact hs
  · exact Out.memOk_ite hs (State.memOk_setQueue (State.memOk_setMeet hs))

theorem memOk_execReservationAnswer {q : Nat} {meet : Nat} {keeper : Nat} (hs : s.MemOk) : Out.MemOk (execReservationAnswer q meet keeper s) := by
  unfold execReservationAnswer
  split
  · exact hs
  · split
    · exact hs
    · exact Out.memOk_ite (State.memOk_beginRound hs) (Out.memOk_ite (State.memOk_conclude (State.memOk_setMeet hs)) (State.memOk_setQueue
        (State.memOk_setMeet hs)))

theorem memOk_execReservationTimeout {q : Nat} (hs : s.MemOk) : Out.MemOk (execReservationTimeout q s) := by
  unfold execReservationTimeout
  split
  · exact hs
  · exact Out.memOk_ite (State.memOk_beginRound hs) hs

theorem memOk_execReservationCommit {q : Nat} {meet : Nat} {keeper : Nat} (hs : s.MemOk) : Out.MemOk (execReservationCommit q meet keeper s) := by
  unfold execReservationCommit
  split
  · exact hs
  · split
    · exact hs
    · exact Out.memOk_ite hs (State.memOk_setMeet hs)

theorem memOk_execReservationRelease {q : Nat} {keeper : Nat} (hs : s.MemOk) : Out.MemOk (execReservationRelease q keeper s) := by
  unfold execReservationRelease
  split
  · exact hs
  · exact Out.memOk_ite hs (State.memOk_setQueue (State.memOk_setMeet hs))

theorem memOk_execLapBoundary (hs : s.MemOk) : Out.MemOk (execLapBoundary s) := Out.memOk_ite hs hs

theorem memOk_execLapLengthSet {us : Nat} (hs : s.MemOk) : Out.MemOk (execLapLengthSet us s) := Out.memOk_ite (State.memOk_tell hs)
    (State.memOk_tell hs)

theorem memOk_execTenantRecordSet {tenant : Nat} {rate : Nat} {policy : Policy} {lend : Bool} {borrow : Bool} (hs : s.MemOk) :
    Out.MemOk (execTenantRecordSet tenant rate policy lend borrow s) := by
  unfold execTenantRecordSet
  split
  · exact State.memOk_setTenant hs
  · exact hs

theorem memOk_execPartitionConfig {part : Nat} {cmd : PartCmd} (hs : s.MemOk) : Out.MemOk (execPartitionConfig part cmd s) := by
  unfold execPartitionConfig
  split
  · exact Out.memOk_ite (State.memOk_tell hs) (State.memOk_putPart hs)
  · exact Out.memOk_ite (State.memOk_tell hs) (State.memOk_putPart hs)
  · exact State.memOk_updPart hs
  · exact Out.memOk_ite (State.memOk_updPart hs) (State.memOk_tell hs)
  · split
    · exact State.memOk_setTenant hs
    · exact State.memOk_tell hs

theorem memOk_execTenantRevoke {tenant : Nat} {queue : Option Nat} (hs : s.MemOk) : Out.MemOk (execTenantRevoke tenant queue s) := by
  unfold execTenantRevoke
  split
  · split
    · exact hs
    · exact List.foldlRecOn (motive := fun s : State => s.MemOk) _ _ (State.memOk_setTenant hs) fun _ hs1 _ _ => State.memOk_terminate hs1
  · split
    · exact hs
    · exact List.foldlRecOn (motive := fun s : State => s.MemOk) _ _ (State.memOk_setQueue hs) fun _ hs1 _ _ => State.memOk_terminate hs1

theorem memOk_execForcedSwap {core : Nat} {track : Nat} (hs : s.MemOk) :
    Out.MemOk (execForcedSwap cl core track s) := Out.memOk_ite (memOk_opForcedSwap hs) hs

theorem memOk_execPendingSwap {core : Nat} {track : Nat} (hs : s.MemOk) :
    Out.MemOk (execPendingSwap cl core track s) := Out.memOk_ite (memOk_opPendingSwap hs) hs

theorem memOk_execRotation {core : Nat} {track : Nat} (hs : s.MemOk) :
    Out.MemOk (execRotation cl core track s) := Out.memOk_ite (memOk_opRotation hs) hs

theorem memOk_execMeetLaunch {meet : Nat} (hs : s.MemOk) : Out.MemOk (execMeetLaunch meet s) := by
  unfold execMeetLaunch
  split
  · exact hs
  · refine Out.memOk_ite hs ?_
    split
    · rename_i s1 h1
      have hs1 := Option.of_all h1 (State.memOk_launchFrom (State.memOk_setMeet hs))
      exact hs1
    · exact hs

theorem memOk_execBatchHandout {meet : Nat} {field : Nat} {count : Nat} (hs : s.MemOk) : Out.MemOk (execBatchHandout meet field die count s) := by
  unfold execBatchHandout
  split
  · exact hs
  · split
    · exact hs
    · exact Out.memOk_ite hs (State.memOk_chosen (State.memOk_chosen (State.memOk_sendDeadline (State.memOk_updField hs))))

theorem memOk_execTeamPlacement {meet : Nat} {field : Nat} {cores : List Nat} (hs : s.MemOk) :
    Out.MemOk (execTeamPlacement meet field cl cores s) := by
  unfold execTeamPlacement
  split
  · exact hs
  · split
    · exact hs
    · refine Out.memOk_ite hs ?_
      split
      · exact hs
      · split
        · rename_i s1 h3
          have hs1 := Option.of_all h3 (State.memOk_placeTeam hs)
          exact State.memOk_updField hs1
        · exact hs

theorem memOk_execTeamRetirement (hs : s.MemOk) : Out.MemOk (execTeamRetirement team s) := by
  unfold execTeamRetirement
  dsimp only
  split
  · exact hs
  · refine Out.memOk_ite hs ?_
    refine Out.memOk_ite (State.memOk_askOutside (State.memOk_cleanLevels hs)) ?_
    split
    · exact Out.memOk_ite (State.memOk_releaseTeam (State.memOk_cleanLevels hs)) (State.memOk_retire (State.memOk_releaseTeam
        (State.memOk_cleanLevels hs)))
    · exact State.memOk_releaseTeam (State.memOk_cleanLevels hs)

theorem memOk_execChargeReport {meet : Nat} (hs : s.MemOk) : Out.MemOk (execChargeReport meet die s) := by
  unfold execChargeReport
  split
  · exact hs
  · exact Out.memOk_ite hs (State.memOk_checkBudget (State.memOk_setMeet hs))

theorem memOk_execSaveRequest {part : Nat} {waiting : Nat} (hs : s.MemOk) : Out.MemOk (execSaveRequest part waiting s) := by
  unfold execSaveRequest
  split
  · exact hs
  · refine Out.memOk_ite hs ?_
    split
    · exact hs
    · exact Out.memOk_ite hs (State.memOk_updCluster hs)

theorem memOk_execHomeRequest {r : HomeReq} (hs : s.MemOk) : Out.MemOk (execHomeRequest r s) := by
  unfold execHomeRequest
  split
  · exact State.memOk_recallU hs
  · exact State.memOk_report (State.memOk_evict hs)
  · exact State.memOk_report (State.memOk_evictAt hs)
  · exact State.memOk_performPosted hs
  · exact State.memOk_recallOne hs fun _ _ _ hs1 => State.memOk_recallFilter hs1
  · exact State.memOk_recallOne hs fun _ _ _ hs1 => State.memOk_recallDirectory hs1
  · exact State.memOk_recallOne hs fun _ _ _ hs1 => State.memOk_recallPort hs1
  · exact State.memOk_recallOne hs fun _ _ _ hs1 => State.memOk_recallPeers hs1
  · exact State.memOk_recallOne hs fun _ _ _ hs1 => State.memOk_recallHosts hs1
  · exact State.memOk_takePeerU hs
  · exact State.memOk_takeSums hs
  · exact State.memOk_ite hs hs

theorem memOk_execInvalidationAck {id : Nat} {holder : Nat} (hs : s.MemOk) : Out.MemOk (execInvalidationAck id holder s) := by
  unfold execInvalidationAck
  refine Out.memOk_ite hs ?_
  split
  · exact Out.memOk_ite hs (State.memOk_answered (State.memOk_dropCopies hs))
  · exact hs

theorem memOk_execWriteAcknowledgement (hs : s.MemOk) : Out.MemOk (execWriteAcknowledgement u s) := by
  unfold execWriteAcknowledgement
  split
  · exact hs
  · exact Out.memOk_ite (State.memOk_acked hs) hs

theorem memOk_execLeaseExpiry (hs : s.MemOk) :
    Out.MemOk (execLeaseExpiry die line s) := List.foldlRecOn (motive := fun s : State => s.MemOk) _ _ ((show (s.dropCopies fun c => decide
      (c.cls = PageClass.phase ∧ c.line = line ∧ c.level.die = die ∧ c.lease ≤ s.now)).MemOk from State.memOk_dropCopies hs))
        fun _ hs1 _ _ => State.memOk_acked hs1

theorem memOk_execExternalAccess {x : ExtAccess} (hs : s.MemOk) : Out.MemOk (execExternalAccess x s) := by
  unfold execExternalAccess
  refine List.foldlRecOn (motive := fun s : State => s.MemOk) _ _ hs fun _ hs1 _ _ => ?_
  split
  · exact State.memOk_arrivePart hs1
  · exact State.memOk_tell hs1

theorem memOk_execBirsp {host : Nat} (hs : s.MemOk) : Out.MemOk (execBirsp line host s) := by
  unfold execBirsp
  split
  · exact hs
  · exact List.foldlRecOn (motive := fun s : State => s.MemOk) _ _ (State.memOk_answered (State.memOk_forgetHost hs))
      fun _ hs1 _ _ => State.memOk_arrivePart hs1

theorem memOk_execClassTransition {page : Nat} (hs : s.MemOk) : Out.MemOk (execClassTransition page s) := by
  unfold execClassTransition
  split
  · exact hs
  · exact Out.memOk_ite hs (Out.memOk_ite (State.memOk_askOutside hs) (State.memOk_answered (State.memOk_transition hs)))

theorem memOk_execPlaceTableWrite {kind : PlaceKind} {logical : Nat} {physical : Option Nat} (hs : s.MemOk) :
    Out.MemOk (execPlaceTableWrite kind logical physical s) := by
  unfold execPlaceTableWrite
  refine Out.memOk_ite (State.memOk_refuse hs) ?_
  split
  · exact Out.memOk_ite (State.memOk_done_ (State.memOk_updDie hs)) (State.memOk_done_ (State.memOk_updCluster (State.memOk_ite
      (State.memOk_newCluster (State.memOk_updDie hs)) (State.memOk_updDie hs))))
  · exact State.memOk_done_ (State.memOk_updCluster hs)
  · exact State.memOk_done_ (State.memOk_updCluster hs)
  · exact State.memOk_done_ (State.memOk_updCluster hs)
  · exact State.memOk_done_ hs

theorem memOk_execRepairTableWrite {kind : RepairKind} {index : Nat} {spare : Nat} (hs : s.MemOk) :
    Out.MemOk (execRepairTableWrite kind index spare s) := by
  unfold execRepairTableWrite
  split
  · exact Out.memOk_ite (State.memOk_done_ (State.memOk_updCluster hs)) (State.memOk_refuse hs)
  · exact Out.memOk_ite (State.memOk_done_ (State.memOk_updDie hs)) (State.memOk_refuse hs)
  · exact Out.memOk_ite (State.memOk_done_ (State.memOk_updDie hs)) (State.memOk_refuse hs)
  · exact Out.memOk_ite (State.memOk_done_ (State.memOk_updDie hs)) (State.memOk_refuse hs)

theorem memOk_execWindowRegisterWrite {index : Nat} {base : Nat} {size : Nat} {target : PortTarget} (hs : s.MemOk) :
    Out.MemOk (execWindowRegisterWrite die index base size target s) := Out.memOk_ite (State.memOk_refuse hs) (State.memOk_done_
      (State.memOk_updDie hs))

theorem memOk_execConfigRegisterWrite {cmd : ConfigCmd} (hs : s.MemOk) : Out.MemOk (execConfigRegisterWrite cmd s) := by
  unfold execConfigRegisterWrite
  split
  · exact Out.memOk_ite (State.memOk_done_ (State.memOk_updDie hs)) (State.memOk_refuse hs)
  · split
    · exact State.memOk_done_ (State.memOk_setCtx hs)
    · exact State.memOk_done_ hs
  · split
    · exact Out.memOk_ite (State.memOk_done_ (State.memOk_setCtx hs)) (State.memOk_refuse hs)
    · exact State.memOk_refuse hs
  · exact Out.memOk_ite (State.memOk_setClass hs) (State.memOk_refuse hs)
  · exact State.memOk_done_ hs
  · exact Out.memOk_ite (State.memOk_done_ (State.memOk_setStripe hs)) (State.memOk_refuse hs)
  · split
    · exact Out.memOk_ite (State.memOk_done_ (State.memOk_updExpander hs)) (State.memOk_refuse hs)
    · exact State.memOk_refuse hs
  · split
    · exact Out.memOk_ite (State.memOk_done_ (State.memOk_updExpander hs)) (State.memOk_refuse hs)
    · exact State.memOk_refuse hs
  · split
    · exact Out.memOk_ite (State.memOk_done_ (State.memOk_raiseTrig hs)) (State.memOk_refuse hs)
    · exact State.memOk_refuse hs
  · exact Out.memOk_ite (State.memOk_done_ (State.memOk_updExpander hs)) (State.memOk_refuse hs)

theorem memOk_execKeyExchange {which : KeyEnd} {expander : Nat} {tenant : Nat} {session : Word} {key : BitVec 256} {verified : Bool} (hs : s.MemOk) :
    Out.MemOk (execKeyExchange which ctx expander tenant session key verified s) := by
  unfold execKeyExchange
  split
  · exact Out.memOk_ite (State.memOk_refuse hs) (State.memOk_done_ (State.memOk_updExpander (State.memOk_updKey (State.memOk_endSessions hs))))
  · exact Out.memOk_ite (State.memOk_refuse hs) (State.memOk_done_ (State.memOk_updExpander hs))

theorem memOk_execTaskPacketCheck {which : TaskArrival} (hs : s.MemOk) : Out.MemOk (execTaskPacketCheck which s) := by
  unfold execTaskPacketCheck
  dsimp only
  split
  · exact Out.memOk_ite (State.memOk_nodePacket hs) hs
  · exact Out.memOk_ite hs (List.foldlRecOn (motive := fun s : State => s.MemOk) _ _ hs fun _ hs1 _ _ => State.memOk_taskWrite hs1)
  · split
    · exact hs
    · split
      · exact State.memOk_answerXfer (State.memOk_updExpander hs)
      · exact State.memOk_tell (State.memOk_answerXfer (State.memOk_updExpander (State.memOk_updExpander hs)))

theorem memOk_execGetMeasurements {requester : Nat} (hs : s.MemOk) :
    Out.MemOk (execGetMeasurements requester s) := State.memOk_tell (State.memOk_free hs)

theorem memOk_execFirmwareImageLoad {image : Firmware} (hs : s.MemOk) : Out.MemOk (execFirmwareImageLoad image s) := by
  unfold execFirmwareImageLoad
  split
  · exact State.memOk_refuse hs
  · exact Out.memOk_ite (State.memOk_refuse hs) (State.memOk_done_ hs)

theorem memOk_execWritebackErrorAnswer (hs : s.MemOk) :
    Out.MemOk (execWritebackErrorAnswer die line cs s) := Out.memOk_ite hs (List.foldlRecOn (motive := fun s : State => s.MemOk) _ _
      (State.memOk_dropCopies hs) fun _ hs1 _ _ => State.memOk_chargeOwner hs1)

theorem memOk_execViralEntry {port : Nat}
    (hs : s.MemOk) : Out.MemOk (execViralEntry port s) := List.foldlRecOn (motive := fun s : State => s.MemOk) _ _ ((show ((s.failPosted (portTarget
      (portNo (portTarget port))) cause.viral).dropCopies fun c => (fun pa => targetAt pa == some (portTarget (portNo (portTarget port))))
        (64 * c.line) && !c.dirtyBytes.isEmpty).MemOk from State.memOk_dropCopies (State.memOk_failPosted hs)))
          fun _ hs1 _ _ => State.memOk_viralTraps hs1

theorem memOk_execPortReset {port : Nat} (hs : s.MemOk) : Out.MemOk (execPortReset port s) := State.memOk_done_ hs

theorem memOk_execLinkFailure {target : PortTarget} (hs : s.MemOk) : Out.MemOk (execLinkFailure target s) := State.memOk_lose hs

theorem memOk_execRequestTimeout {target : PortTarget} (hs : s.MemOk) : Out.MemOk (execRequestTimeout target s) := State.memOk_lose hs

theorem memOk_execDeviceReconnection {target : PortTarget} (hs : s.MemOk) : Out.MemOk (execDeviceReconnection target s) := hs

theorem memOk_execMailboxMessage {src : Nat} {dst : Nat} {msg : Option (BitVec 512)} (hs : s.MemOk) :
    Out.MemOk (execMailboxMessage die src dst msg s) := State.memOk_updDie hs

theorem memOk_execHeartbeat (hs : s.MemOk) : Out.MemOk (execHeartbeat die s) := State.memOk_updDie hs

theorem memOk_execAdoption {adopter : Nat} (hs : s.MemOk) : Out.MemOk (execAdoption die adopter s) := by
  unfold execAdoption
  split
  · exact hs
  · exact Out.memOk_ite hs (State.memOk_updDie (State.memOk_adopt hs))

theorem memOk_execCommandProcessorCoreFailure {core : Nat} (hs : s.MemOk) :
    Out.MemOk (execCommandProcessorCoreFailure die core s) := Out.memOk_ite hs (State.memOk_tell (State.memOk_updDie hs))

theorem memOk_execTemperatureSample {readings : List ℤ} (hs : s.MemOk) : Out.MemOk (execTemperatureSample die readings s) := by
  unfold execTemperatureSample
  split
  · exact hs
  · exact State.memOk_tripCheck (State.memOk_warnAll (State.memOk_updDie hs))

theorem memOk_execProcessMonitorSample {counts : List Nat} (hs : s.MemOk) : Out.MemOk (execProcessMonitorSample die counts s) := by
  unfold execProcessMonitorSample
  split
  · exact hs
  · exact State.memOk_warnAll (State.memOk_updDie hs)

theorem memOk_execVoltageDroop {monitor : Nat} {mv : Nat} (hs : s.MemOk) : Out.MemOk (execVoltageDroop die monitor mv s) := by
  unfold execVoltageDroop
  split
  · exact hs
  · exact State.memOk_warnAll (State.memOk_updDie hs)

theorem memOk_execMonitorThresholdSet {cmd : MonitorCmd} (hs : s.MemOk) :
    Out.MemOk (execMonitorThresholdSet die cmd s) := State.memOk_powerCore hs (memOk_opMonitorThresholdSet hs)

theorem memOk_execMonitorRead {sel : MonitorSel} (hs : s.MemOk) :
    Out.MemOk (execMonitorRead die sel s) := State.memOk_powerCore hs (memOk_opMonitorRead hs)

theorem memOk_execPowerActive (hs : s.MemOk) : Out.MemOk (execPowerActive die s) := State.memOk_powerCmd hs fun _ hs1 => State.memOk_updDie hs1

theorem memOk_execPowerPark (hs : s.MemOk) : Out.MemOk (execPowerPark die s) := State.memOk_powerCmd hs fun _ hs1 => State.memOk_updDie hs1

theorem memOk_execPowerDoze (hs : s.MemOk) :
    Out.MemOk (execPowerDoze die s) := State.memOk_powerCmd hs fun _ hs1 => State.memOk_updDie (State.memOk_emptyClusters hs1)

theorem memOk_execPowerOff (hs : s.MemOk) :
    Out.MemOk (execPowerOff die s) := State.memOk_powerCmd hs fun _ hs1 => State.memOk_updDie (State.memOk_losesMemory (State.memOk_endSessions hs1))

theorem memOk_execFrequencyStep {step : Nat} (hs : s.MemOk) :
    Out.MemOk (execFrequencyStep die step s) := Out.memOk_ite (State.memOk_tell hs) (State.memOk_powerCore hs (Out.memOk_ite (State.memOk_tell hs)
      (State.memOk_done_ (State.memOk_updDie hs))))

theorem memOk_execColdReset (hs : s.MemOk) : Out.MemOk (execColdReset s) := ⟨Memory.wf_filter _ _ hs.1, List.all_nil⟩

theorem memOk_execWarmReset (hs : s.MemOk) : Out.MemOk (execWarmReset die s) := by
  unfold execWarmReset
  split
  · exact Out.memOk_ite (State.memOk_refuse hs) (Out.memOk_ite (List.foldlRecOn (motive := fun s : State => s.MemOk) _ _ (State.memOk_updDie
      (State.memOk_ite hs (State.memOk_adopt hs))) fun _ hs1 _ _ => State.memOk_saveTeam hs1) (State.memOk_done_ (State.memOk_updDie
        (State.memOk_cleanDie (List.foldlRecOn (motive := fun s : State => s.MemOk) _ _ (State.memOk_updDie (State.memOk_ite hs
          (State.memOk_adopt hs))) fun _ hs1 _ _ => State.memOk_saveTeam hs1)))))
  · exact State.memOk_refuse hs

theorem memOk_execDieReadmission (hs : s.MemOk) : Out.MemOk (execDieReadmission die s) := by
  unfold execDieReadmission
  split
  · exact hs
  · rename_i d h
    exact Out.memOk_ite hs ((show ((s.dropCands fun q => decide (q.desc.home = die)).chosen.updDie die
      fun d => { clock := 0, starts := d.starts + 1, power := d.power, step := d.step, part := d.part, waypart := d.waypart, windows := d.windows, keys := d.keys, clusPl := d.clusPl, temps := d.temps, droops := d.droops, procs := d.procs, cps := d.cps, beat := d.beat, beatAt := (s.dropCands fun q => decide (q.desc.home = die)).chosen.hubClock, offline := false, closing := d.closing, adopter := none, dozed := d.dozed, slicePl := d.slicePl, hbmPl := d.hbmPl, lanePl := d.lanePl, clusters := d.clusters }).MemOk from State.memOk_updDie (State.memOk_chosen (State.memOk_dropCands hs))))

theorem memOk_execFunctionLevelReset {vf : Nat} (hs : s.MemOk) :
    Out.MemOk (execFunctionLevelReset vf s) := State.memOk_done_ (List.foldlRecOn (motive := fun s : State => s.MemOk) _ _ ((show (s.dropCands
      fun q => decide (q.desc.vf = vf)).MemOk from State.memOk_dropCands hs)) fun _ hs1 _ _ => State.memOk_killCtx hs1)

theorem memOk_execMigration {elapsedNs : Nat} (hs : s.MemOk) :
    Out.MemOk (execMigration ctx elapsedNs s) := Out.memOk_ite (List.foldlRecOn (motive := fun s : State => s.MemOk) _ _ hs
      fun _ hs1 _ _ => State.memOk_saveTeam hs1) (State.memOk_mapTeams (State.memOk_endSessions (List.foldlRecOn (motive :=
        fun s : State => s.MemOk) _ _ hs fun _ hs1 _ _ => State.memOk_saveTeam hs1)) fun _ ht => Team.memOk_ite (Team.memOk_travel ht) ht)

end Sys2Proof.Machine
end

section
/-!
PROOF. O10: every step keeps the canonical form of memory and of every local memory (log entry 3). Each instruction and each event keeps it by the lemma of
its own name; a step is one of them, followed by what comes after it.
-/

namespace Sys2Proof.Machine

theorem memOk_exec {s : State} (i : Instr) (hs : s.MemOk) : Out.MemOk (exec i s) := by
  unfold exec
  cases i with dsimp only
  | nopExt | nop => exact memOk_opNop hs
  | yieldExt | yield => exact memOk_opYield hs
  | endExt | endI => exact memOk_opEnd hs
  | add | addExt => exact memOk_opAdd hs
  | sub | subExt => exact memOk_opSub hs
  | addc | addcExt => exact memOk_opAddc hs
  | subb | subbExt => exact memOk_opSubb hs
  | mul | mulExt => exact memOk_opMul hs
  | mulh | mulhExt => exact memOk_opMulh hs
  | mad => exact memOk_opMad hs
  | div | divExt => exact memOk_opDiv hs
  | rem | remExt => exact memOk_opRem hs
  | neg | negExt => exact memOk_opNeg hs
  | abs | absExt => exact memOk_opAbs hs
  | min | minExt => exact memOk_opMin hs
  | max | maxExt => exact memOk_opMax hs
  | and | andExt => exact memOk_opAnd hs
  | or | orExt => exact memOk_opOr hs
  | xor | xorExt => exact memOk_opXor hs
  | andn | andnExt => exact memOk_opAndn hs
  | not | notExt => exact memOk_opNot hs
  | shl | shlExt => exact memOk_opShl hs
  | shr | shrExt => exact memOk_opShr hs
  | sha | shaExt => exact memOk_opSha hs
  | rot | rotExt => exact memOk_opRot hs
  | bfx => exact memOk_opBfx hs
  | bfi => exact memOk_opBfi hs
  | popc | popcExt => exact memOk_opPopc hs
  | clz | clzExt => exact memOk_opClz hs
  | ctz | ctzExt => exact memOk_opCtz hs
  | brev | brevExt => exact memOk_opBrev hs
  | perm | permExt => exact memOk_opPerm hs
  | mov | movExt => exact memOk_opMov hs
  | movi | moviExt => exact memOk_opMovi hs
  | lit => exact memOk_opLit hs
  | sel => exact memOk_opSel hs
  | cmp | cmpExt => exact memOk_opCmp hs
  | cmpv | cmpvExt => exact memOk_opCmpv hs
  | lea | leaExt => exact memOk_opLea hs
  | sptest | sptestExt => exact memOk_opSptest hs
  | spcastOfs | spcastOfsExt => exact memOk_opSpcastOfs hs
  | spcastGen | spcastGenExt => exact memOk_opSpcastGen hs
  | gop | gopExt => exact memOk_opGop hs
  | bra | braExt => exact memOk_opBra hs
  | call | callExt => exact memOk_opCall hs
  | callW => exact memOk_opCallW hs
  | brx | brxExt => exact memOk_opBrx hs
  | callx | callxExt => exact memOk_opCallx hs
  | callxW => exact memOk_opCallxW hs
  | retExt | ret => exact memOk_opRet hs
  | join | joinExt => exact memOk_opJoin hs
  | leave | leaveExt => exact memOk_opLeave hs
  | waitm | waitmExt => exact memOk_opWaitm hs
  | mset | msetExt => exact memOk_opMset hs
  | mget | mgetExt => exact memOk_opMget hs
  | fork => exact memOk_opFork hs
  | vote | voteExt => exact memOk_opVote hs
  | shfl | shflExt => exact memOk_opShfl hs
  | bcast | bcastExt => exact memOk_opBcast hs
  | xlockExt | xlock => exact memOk_opXlock hs
  | xfreeExt | xfree => exact memOk_opXfree hs
  | ld | ldExt => exact memOk_opLd hs
  | st | stExt => exact memOk_opSt hs
  | ldx => exact memOk_opLdx hs
  | stx => exact memOk_opStx hs
  | pref | prefExt => exact memOk_opPref hs
  | flush | flushExt => exact memOk_opFlush hs
  | flushInv | flushInvExt => exact memOk_opFlushInv hs
  | pgarm => exact memOk_opPgarm hs
  | amo => exact memOk_opAmo hs
  | red => exact memOk_opRed hs
  | cas => exact memOk_opCas hs
  | fenceExt | fence => exact memOk_opFence hs
  | phaseExt | phase => exact memOk_opPhase hs
  | wdrainExt | wdrain => exact memOk_opWdrain hs
  | btnSync | btnSyncExt => exact memOk_opBtnSync hs
  | btnTest | btnTestExt => exact memOk_opBtnTest hs
  | barInit | barInitExt => exact memOk_opBarInit hs
  | barArv | barArvExt => exact memOk_opBarArv hs
  | barExp | barExpExt => exact memOk_opBarExp hs
  | barWait | barWaitExt => exact memOk_opBarWait hs
  | barTry | barTryExt => exact memOk_opBarTry hs
  | fifoMap => exact memOk_opFifoMap hs
  | fifoPut | fifoPutExt => exact memOk_opFifoPut hs
  | fifoGet | fifoGetExt => exact memOk_opFifoGet hs
  | fifoClose | fifoCloseExt => exact memOk_opFifoClose hs
  | fifoStat | fifoStatExt => exact memOk_opFifoStat hs
  | cpy => exact memOk_opCpy hs
  | cpyWait => exact memOk_opCpyWait hs
  | cpyPtr => exact memOk_opCpyPtr hs
  | cpyPtrSt => exact memOk_opCpyPtrSt hs
  | cpyPtrClr => exact memOk_opCpyPtrClr hs
  | trgAdd => exact memOk_opTrgAdd hs
  | trgSet => exact memOk_opTrgSet hs
  | trgWait => exact memOk_opTrgWait hs
  | trgArm => exact memOk_opTrgArm hs
  | bankcfg => exact memOk_opBankcfg hs
  | fadd | faddExt => exact memOk_opFadd hs
  | fsub | fsubExt => exact memOk_opFsub hs
  | fmul | fmulExt => exact memOk_opFmul hs
  | fma => exact memOk_opFma hs
  | fms => exact memOk_opFms hs
  | fnma => exact memOk_opFnma hs
  | fmin | fminExt => exact memOk_opFmin hs
  | fmax | fmaxExt => exact memOk_opFmax hs
  | fabs | fabsExt => exact memOk_opFabs hs
  | fneg | fnegExt => exact memOk_opFneg hs
  | fcpys => exact memOk_opFcpys hs
  | fcmp => exact memOk_opFcmp hs
  | fclass | fclassExt => exact memOk_opFclass hs
  | frcp | frcpExt => exact memOk_opFrcp hs
  | frsq | frsqExt => exact memOk_opFrsq hs
  | fsqrt | fsqrtExt => exact memOk_opFsqrt hs
  | fdiv | fdivExt => exact memOk_opFdiv hs
  | fexp2 | fexp2Ext => exact memOk_opFexp2 hs
  | flog2 | flog2Ext => exact memOk_opFlog2 hs
  | fsin | fsinExt => exact memOk_opFsin hs
  | fcos | fcosExt => exact memOk_opFcos hs
  | ftanh | ftanhExt => exact memOk_opFtanh hs
  | frnd | frndExt => exact memOk_opFrnd hs
  | fscale | fscaleExt => exact memOk_opFscale hs
  | f2i => exact memOk_opF2i hs
  | i2f => exact memOk_opI2f hs
  | fcvt => exact memOk_opFcvt hs
  | dot2 => exact memOk_opDot2 hs
  | dot4 => exact memOk_opDot4 hs
  | hred => exact memOk_opHred hs
  | qpack => exact memOk_opQpack hs
  | qunpack => exact memOk_opQunpack hs
  | qscale => exact memOk_opQscale hs
  | qchk => exact memOk_opQchk hs
  | topk => exact memOk_opTopk hs
  | topkm => exact memOk_opTopkm hs
  | sbound => exact memOk_opSbound hs
  | mxbind => exact memOk_opMxbind hs
  | mxma => exact memOk_opMxma hs
  | mxzero => exact memOk_opMxzero hs
  | mxwaitExt | mxwait => exact memOk_opMxwait hs
  | mxfenceExt | mxfence => exact memOk_opMxfence hs
  | mxstat | mxstatExt => exact memOk_opMxstat hs
  | awset => exact memOk_opAwset hs
  | accrd => exact memOk_opAccrd hs
  | accwr => exact memOk_opAccwr hs
  | txfer => exact memOk_opTxfer hs
  | txcoll => exact memOk_opTxcoll hs
  | txwait => exact memOk_opTxwait hs
  | tsend => exact memOk_opTsend hs
  | sysrd => exact memOk_opSysrd hs
  | syswr => exact memOk_opSyswr hs
  | trap | trapExt => exact memOk_opTrap hs
  | eretExt | eret => exact memOk_opEret hs
  | brk | brkExt => exact memOk_opBrk hs
  | perfrd => exact memOk_opPerfrd hs
  | budget => exact memOk_opBudget hs
  | driverBankcfg => exact memOk_execDriverBankcfg hs
  | driverAwset => exact memOk_execDriverAwset hs
  | driverSyswr => exact memOk_execDriverSyswr hs
  | queueDescribe => exact memOk_execQueueDescribe hs
  | tailRegisterStore => exact memOk_execTailRegisterStore hs
  | notifyPageOtherStore => exact memOk_execNotifyPageOtherStore hs
  | entryConsume => exact memOk_execEntryConsume hs
  | entryReread => exact memOk_execEntryReread hs
  | reservationRequest => exact memOk_execReservationRequest hs
  | reservationAnswer => exact memOk_execReservationAnswer hs
  | reservationTimeout => exact memOk_execReservationTimeout hs
  | reservationCommit => exact memOk_execReservationCommit hs
  | reservationRelease => exact memOk_execReservationRelease hs
  | lapBoundary => exact memOk_execLapBoundary hs
  | lapLengthSet => exact memOk_execLapLengthSet hs
  | tenantRecordSet => exact memOk_execTenantRecordSet hs
  | partitionConfig => exact memOk_execPartitionConfig hs
  | meetLaunch => exact memOk_execMeetLaunch hs
  | batchHandout => exact memOk_execBatchHandout hs
  | teamPlacement => exact memOk_execTeamPlacement hs
  | teamRetirement => exact memOk_execTeamRetirement hs
  | chargeReport => exact memOk_execChargeReport hs
  | tenantRevoke => exact memOk_execTenantRevoke hs
  | saveRequest => exact memOk_execSaveRequest hs
  | contextSave => exact memOk_execContextSave hs
  | pageResponse => exact memOk_execPageResponse hs
  | atsCompletion => exact memOk_execAtsCompletion hs
  | shootdown => exact memOk_execShootdown hs
  | pageWalkCompletion => exact memOk_execPageWalkCompletion hs
  | contextRestore => exact memOk_execContextRestore hs
  | awaitValueArrival => exact memOk_execAwaitValueArrival hs
  | contextKill => exact memOk_execContextKill hs
  | framePoolRegister => exact memOk_opFramePoolRegister hs
  | valueArrival => exact memOk_execValueArrival hs
  | forcedSwap => exact memOk_execForcedSwap hs
  | pendingSwap => exact memOk_execPendingSwap hs
  | rotation => exact memOk_execRotation hs
  | deferredTrapDelivery => exact memOk_execDeferredTrapDelivery hs
  | leaseExpiry => exact memOk_execLeaseExpiry hs
  | writeAcknowledgement => exact memOk_execWriteAcknowledgement hs
  | homeRequest => exact memOk_execHomeRequest hs
  | invalidationAck => exact memOk_execInvalidationAck hs
  | externalAccess => exact memOk_execExternalAccess hs
  | backInvalidateSnoop => exact memOk_opBackInvalidateSnoop hs
  | birsp => exact memOk_execBirsp hs
  | classChange => exact memOk_opClassChange hs
  | classTransition => exact memOk_execClassTransition hs
  | copyStart => exact memOk_execCopyStart hs
  | copyPortionWritten => exact memOk_execCopyPortionWritten hs
  | copyFault => exact memOk_execCopyFault hs
  | tileFetchChunk => exact memOk_execTileFetchChunk hs
  | tileFetchFault => exact memOk_execTileFetchFault hs
  | arrayChunk => exact memOk_execArrayChunk hs
  | arrayZero => exact memOk_execArrayZero hs
  | armedOperationStart => exact memOk_execArmedOperationStart hs
  | txferLaunchTime => exact memOk_execTxferLaunchTime hs
  | txferCompletion => exact memOk_execTxferCompletion hs
  | tsendPacketSend => exact memOk_execTsendPacketSend hs
  | taskPacketCheck => exact memOk_execTaskPacketCheck hs
  | tsendAnswer => exact memOk_execTsendAnswer hs
  | collectiveIssue => exact memOk_execCollectiveIssue hs
  | collectiveBufferGrant => exact memOk_execCollectiveBufferGrant hs
  | collectiveDataArrival => exact memOk_execCollectiveDataArrival hs
  | collectiveCompletion => exact memOk_execCollectiveCompletion hs
  | groupTableWrite => exact memOk_execGroupTableWrite hs
  | placeTableWrite => exact memOk_execPlaceTableWrite hs
  | repairTableWrite => exact memOk_execRepairTableWrite hs
  | windowRegisterWrite => exact memOk_execWindowRegisterWrite hs
  | configRegisterWrite => exact memOk_execConfigRegisterWrite hs
  | dcAddExtent => exact memOk_opDcAddExtent hs
  | dcReleaseExtent => exact memOk_opDcReleaseExtent hs
  | keyExchange => exact memOk_execKeyExchange hs
  | keyUpdate => exact memOk_opKeyUpdate hs
  | endSession => exact memOk_opEndSession hs
  | getMeasurements => exact memOk_execGetMeasurements hs
  | firmwareImageLoad => exact memOk_execFirmwareImageLoad hs
  | writebackErrorAnswer => exact memOk_execWritebackErrorAnswer hs
  | viralEntry => exact memOk_execViralEntry hs
  | portReset => exact memOk_execPortReset hs
  | linkFailure => exact memOk_execLinkFailure hs
  | requestTimeout => exact memOk_execRequestTimeout hs
  | powerActive => exact memOk_execPowerActive hs
  | powerPark => exact memOk_execPowerPark hs
  | powerDoze => exact memOk_execPowerDoze hs
  | powerOff => exact memOk_execPowerOff hs
  | frequencyStep => exact memOk_execFrequencyStep hs
  | temperatureSample => exact memOk_execTemperatureSample hs
  | processMonitorSample => exact memOk_execProcessMonitorSample hs
  | monitorThresholdSet => exact memOk_execMonitorThresholdSet hs
  | monitorRead => exact memOk_execMonitorRead hs
  | coldReset => exact memOk_execColdReset hs
  | warmReset => exact memOk_execWarmReset hs
  | dieReadmission => exact memOk_execDieReadmission hs
  | functionLevelReset => exact memOk_execFunctionLevelReset hs
  | mailboxMessage => exact memOk_execMailboxMessage hs
  | heartbeat => exact memOk_execHeartbeat hs
  | adoption => exact memOk_execAdoption hs
  | migration => exact memOk_execMigration hs
  | voltageDroop => exact memOk_execVoltageDroop hs
  | deviceReconnection => exact memOk_execDeviceReconnection hs
  | commandProcessorCoreFailure => exact memOk_execCommandProcessorCoreFailure hs
  | taskImageRegistration => exact memOk_opTaskImageRegistration hs

theorem memOk_step {s : State} (hs : s.MemOk) : Out.MemOk (step s) := by
  unfold step
  split
  · next i rest _ =>
    have hr : ({ s with agenda := rest } : State).MemOk := hs
    split
    · exact Out.memOk_map (fun _ => State.memOk_afterEvent) (memOk_exec i hr)
    · exact State.memOk_tick hr
  · have ht := State.memOk_turnOf hs
    split
    · exact State.memOk_tick hs
    · split
      · next h => exact Out.memOk_map (fun _ => State.memOk_after) (h ▸ ht : Turn.MemOk (.done _))
      · next i _ h => exact Out.memOk_map (fun _ => State.memOk_after) (memOk_exec i (h ▸ ht : Turn.MemOk (.run _ _)))

/-- Settles O10: each instruction, each event and what follows a step keep the canonical form (log entry 3). -/
theorem stepKeepsMemoryCanonical : Obligations.StepKeepsMemoryCanonical := by
  unfold Obligations.StepKeepsMemoryCanonical
  intro s t hs h
  have ht := memOk_step hs
  rw [h] at ht
  exact ht

end Sys2Proof.Machine
end
